-- ==== Sys2Proof/Word.lean ====
section
/-!
DEFINITION. Sys2Proof/Word.lean: the word types of the KTU-9512 model.
Registers, stamps and encoded fields are bit vectors; byte strings are lists; sparse stores are sorted tables.
-/

namespace Sys2Proof

/-- One byte. -/
abbrev Byte := BitVec 8

/-- A byte string: a descriptor, a frame, a dictionary value (little-endian fields, R4). -/
abbrev Bytes := List (BitVec 8)

/-- A sparse store: key and value pairs, keys strictly rising, no value equal to what an unlisted key holds. -/
abbrev Tbl (α : Type) := List (Nat × α)

/-- Memory is the sparse store of bytes by address (R222); an unlisted address reads 0 (R459). -/
abbrev Memory := List (Nat × BitVec 8)

end Sys2Proof
end

