-- ==== Sys2Proof/Machine/Bits.lean ====
section
/-!
DEFINITION. Sys2Proof/Machine/Bits.lean: little-endian fields (R4), sorted sparse tables and the sparse memory.
-/

namespace Sys2Proof

/-! ## Little-endian fields -/

/-- The `n` low bytes of `v`, least significant first (R4). -/
def leBytes : Nat → Nat → Bytes
  | 0, _ => []
  | n + 1, v => BitVec.ofNat 8 v :: leBytes n (v / 256)

/-- The number a byte string spells, least significant byte first (R4). -/
def leNat : Bytes → Nat
  | [] => 0
  | b :: bs => b.toNat + 256 * leNat bs

/-- The number a byte string spells, most significant byte first (the exceptions of R4). -/
def beNat (bs : Bytes) : Nat := leNat bs.reverse

/-- The `n` low bytes of `v`, most significant first. -/
def beBytes (n v : Nat) : Bytes := (leBytes n v).reverse

/-- `n` bytes of `bs` from offset `off`; fewer where `bs` ends. -/
def bytesAt (bs : Bytes) (off n : Nat) : Bytes := (bs.drop off).take n

/-- The field of `n` bytes at offset `off`. -/
def fieldAt (bs : Bytes) (off n : Nat) : Nat := leNat (bytesAt bs off n)

/-- `n` zero bytes. -/
def zeros (n : Nat) : Bytes := List.replicate n 0

/-- `bs` cut or padded with zeros to `n` bytes. -/
def padTo (n : Nat) (bs : Bytes) : Bytes := bs.take n ++ zeros (n - bs.length)

/-- `bs` with the bytes from offset `off` replaced by `new`. -/
def splice (bs : Bytes) (off : Nat) (new : Bytes) : Bytes :=
  bs.take off ++ new ++ bs.drop (off + new.length)

/-- The signed value of the low `w` bits of `v`. -/
def signedOf (w v : Nat) : Int := (BitVec.ofNat w v).toInt

/-- `v` modulo 2^w, as a natural number. -/
def wrapInt (w : Nat) (v : Int) : Nat := (BitVec.ofInt w v).toNat

/-- ceil (a / b). -/
def ceilDiv (a b : Nat) : Nat := (a + b - 1) / b

/-- `a` rounded up to a multiple of `b`. -/
def roundUp (a b : Nat) : Nat := ceilDiv a b * b

/-- Does the half-open range [a, a+n) meet [b, b+m)? -/
def overlaps (a n b m : Nat) : Bool := decide (a < b + m) && decide (b < a + n) && decide (0 < n) && decide (0 < m)

/-- The bits set in the low `w` bits of `v`, ascending. -/
def bitsOf (w v : Nat) : List Nat := (List.range w).filter (fun i => v.testBit i)

/-- The number whose set bits are `l`. -/
def ofBits (l : List Nat) : Nat := l.foldl (fun acc i => acc ||| (1 <<< i)) 0

/-- The sum of a list. -/
def sumNat (l : List Nat) : Nat := l.foldl (· + ·) 0

/-- Keeps the first of equal elements. -/
def dedup {α : Type} [DecidableEq α] (l : List α) : List α :=
  l.foldr (fun a acc => if a ∈ acc then acc else a :: acc) []

/-- The list with element `i` replaced; unchanged beyond its end. -/
def setAt {α : Type} (l : List α) (i : Nat) (a : α) : List α := l.set i a

/-- Element `i`, or `d` beyond the end. -/
def nth {α : Type} (d : α) (l : List α) (i : Nat) : α := (l[i]?).getD d

/-- A list cut into pieces of `n` elements, the last perhaps shorter. -/
def chunksOf {α : Type} (n : Nat) (l : List α) : List (List α) :=
  (List.range (ceilDiv l.length n)).map (fun i => (l.drop (n * i)).take n)

/-- Insertion into a list kept in the order `le`. -/
def insertBy {α : Type} (le : α → α → Bool) (a : α) : List α → List α
  | [] => [a]
  | b :: bs => if le a b then a :: b :: bs else b :: insertBy le a bs

/-- The list in the order `le`; equal elements keep their places. -/
def sortBy {α : Type} (le : α → α → Bool) (l : List α) : List α := l.foldr (insertBy le) []

/-! ## Sorted tables -/

/-- The value at key `k`; `d` where the key is not listed. -/
def tblGet {α : Type} (d : α) (t : Tbl α) (k : Nat) : α :=
  match t with
  | [] => d
  | (j, v) :: r => if j = k then v else tblGet d r k

/-- The table with key `k` unlisted. -/
def tblDel {α : Type} (t : Tbl α) (k : Nat) : Tbl α := t.filter (fun e => e.1 ≠ k)

/-- The table with `v` at key `k`, in its place by key. -/
def tblPut {α : Type} (t : Tbl α) (k : Nat) (v : α) : Tbl α :=
  match t with
  | [] => [(k, v)]
  | (j, u) :: r => if k < j then (k, v) :: (j, u) :: r else if k = j then (k, v) :: r else (j, u) :: tblPut r k v

/-- The table with `v` at key `k`: unlisted where `v` is what an unlisted key holds. -/
def tblSet {α : Type} [DecidableEq α] (d : α) (t : Tbl α) (k : Nat) (v : α) : Tbl α :=
  if v = d then tblDel t k else tblPut t k v

/-- The table with the value at `k` changed by `f`. -/
def tblMod {α : Type} [DecidableEq α] (d : α) (t : Tbl α) (k : Nat) (f : α → α) : Tbl α :=
  tblSet d t k (f (tblGet d t k))

/-- The table with every listed value changed by `f`. -/
def tblMap {α : Type} [DecidableEq α] (d : α) (f : α → α) (t : Tbl α) : Tbl α :=
  (t.map (fun e => (e.1, f e.2))).filter (fun e => e.2 ≠ d)

/-- Keys strictly rising and every value other than the unlisted one. -/
def tblWf {α : Type} [DecidableEq α] (d : α) : Tbl α → Bool
  | [] => true
  | [(_, v)] => decide (v ≠ d)
  | (i, v) :: (j, w) :: r => decide (i < j) && decide (v ≠ d) && tblWf d ((j, w) :: r)

/-! ## Memory -/

/-- The canonical form of memory: addresses strictly rising, no entry 0 (what an unlisted address reads, R459). -/
def Memory.wf (m : Memory) : Bool := tblWf (0 : BitVec 8) m

/-- The byte at physical address `a` (R222). -/
def memByte (m : Memory) (a : Nat) : BitVec 8 := tblGet 0 m a

/-- `n` bytes from address `a`. -/
def memRead (m : Memory) (a n : Nat) : Bytes := (List.range n).map (fun i => memByte m (a + i))

/-- The little-endian number in the `n` bytes at `a`. -/
def memNat (m : Memory) (a n : Nat) : Nat := leNat (memRead m a n)

/-- The memory cells of `bs` laid from address `a`, zero bytes left out. -/
def cellsOf (a : Nat) : Bytes → Memory
  | [] => []
  | b :: bs => if b = 0 then cellsOf (a + 1) bs else (a, b) :: cellsOf (a + 1) bs

/-- `bs` written from address `a`. -/
def memWrite (m : Memory) (a : Nat) (bs : Bytes) : Memory :=
  m.filter (fun c => c.1 < a) ++ cellsOf a bs ++ m.filter (fun c => a + bs.length ≤ c.1)

/-- `n` bytes from address `a` set to 0. -/
def memWipe (m : Memory) (a n : Nat) : Memory := m.filter (fun c => c.1 < a || a + n ≤ c.1)

/-- The `n` bytes at `src` copied to `dst`, all read before any is written. -/
def memCopy (m : Memory) (src dst n : Nat) : Memory :=
  m.filter (fun c => c.1 < dst) ++
  ((m.filter (fun c => src ≤ c.1 && c.1 < src + n)).map (fun c => (c.1 - src + dst, c.2))) ++
  m.filter (fun c => dst + n ≤ c.1)

/-- Bytes laid over a table of bytes that lists every byte written, 0 too. -/
def overlayPut (t : Tbl (BitVec 8)) (a : Nat) (bs : Bytes) : Tbl (BitVec 8) :=
  t.filter (fun c => c.1 < a) ++ bs.zipIdx.map (fun b => (a + b.2, b.1)) ++ t.filter (fun c => a + bs.length ≤ c.1)

/-- `n` bytes at `a` as seen through an overlay. -/
def overlayRead (m : Memory) (t : Tbl (BitVec 8)) (a n : Nat) : Bytes :=
  (List.range n).map (fun i => tblGet (memByte m (a + i)) t (a + i))

/-- The bytes of an overlay written to memory. -/
def overlayFlush (m : Memory) (t : Tbl (BitVec 8)) : Memory := t.foldl (fun m c => memWrite m c.1 [c.2]) m

/-- Does an overlay hold a byte of the range? -/
def overlayHits (t : Tbl (BitVec 8)) (a n : Nat) : Bool := t.any (fun c => decide (a ≤ c.1) && decide (c.1 < a + n))

/-- `v` written as `n` bytes little-endian at `a`. -/
def memWriteNat (m : Memory) (a n v : Nat) : Memory := memWrite m a (leBytes n v)

end Sys2Proof
end

