-- ==== Sys2Proof/Syntax.lean ====
section
/-!
DEFINITION. Sys2Proof/Syntax.lean: the commands of the module, one constructor of `Instr` per row of
spec/opcode_table.json, in the table's order.

Operands. `k` is the slot of the Ixide session that writes (R465); unit numbers are `Fin`; `at` is the instant of an
outside event in nanoseconds of the local clock (an instant already past means now); byte strings are as on the wire.
-/

namespace Sys2Proof

/-- The fields of a 64-bit tile instruction below its opcode (R99). -/
structure TileFields where
  fa  : BitVec 4
  fb  : BitVec 4
  fd  : BitVec 4
  mod : BitVec 4
  ga  : BitVec 4
  gb  : BitVec 4
  gd  : BitVec 4
  row : BitVec 7
  cnt : BitVec 7
  imm : BitVec 14
  deriving DecidableEq, Repr

/-- A grandmaster's clock as a T1 port hears it (R370, R372): the port and the clock identity. -/
structure GmClock where
  port : Fin 4
  id   : BitVec 64
  deriving DecidableEq, Repr

/-- The stream command of R136, its OP byte apart (the row gives it). -/
structure StreamCmd where
  partition : BitVec 8
  queue     : BitVec 16
  handle    : BitVec 32
  image     : BitVec 64
  reserved  : BitVec 64
  deadline  : BitVec 32
  blocks    : BitVec 16
  rows      : BitVec 8
  target    : BitVec 8
  deriving DecidableEq, Repr

/-- The sequence command of R166, its OP byte apart. -/
structure SeqCmd where
  pool      : BitVec 8
  cls       : BitVec 8
  reserved0 : BitVec 8
  handle    : BitVec 32
  tokens    : BitVec 32
  reserved1 : BitVec 160
  deriving DecidableEq, Repr

/-- The table command of R188, its OP byte apart. -/
structure TableCmd where
  cls      : BitVec 8
  count    : BitVec 16
  table    : BitVec 32
  root     : BitVec 32
  source   : BitVec 16
  first    : BitVec 16
  n        : BitVec 32
  max      : BitVec 16
  reserved : BitVec 80
  deriving DecidableEq, Repr

/-- The directory command of R233, its OP byte apart. -/
structure DirCmd where
  arg      : BitVec 8
  queue    : BitVec 16
  handle   : BitVec 32
  size     : BitVec 32
  object   : BitVec 32
  offset   : BitVec 32
  deadline : BitVec 32
  addr     : BitVec 64
  deriving DecidableEq, Repr

/-- One operation of a REQUEST payload (R470) as a host writes it. -/
structure IxideOp where
  op       : BitVec 8
  flags    : BitVec 8
  index    : BitVec 16
  sub      : BitVec 8
  rsv0     : BitVec 8
  count    : BitVec 16
  offset   : BitVec 32
  rsv1     : BitVec 32
  address  : BitVec 64
  data     : Bytes
  deriving DecidableEq, Repr

/-- The tier faults of R246, in the order of its table. -/
inductive TierFaultKind where
  | uncorrectable | decompression | damagedTensor | aquiferPort | headerMismatch
  deriving DecidableEq, Repr

/-- What found a failure event (R417): a parity check on a byte not delivered poisoned, or another cause; `corrected` is the correctable
error of R415, which is no failure event (log 107). -/
inductive EventCause where
  | corrected | parity | uncorrectable | fieldTest | laneOrFec | phySelfTest | lockstep | other
  deriving DecidableEq, Repr

/-- One waiting command: one constructor per row of spec/opcode_table.json. -/
inductive Instr where
  -- the dictionary and the queues (00, 02)
  | configWrite (k : Fin 64) (index : BitVec 16) (sub : BitVec 8) (data : Bytes)
  | eventsClear (k : Fin 64) (value : BitVec 32)
  | queueConfigWrite (k : Fin 64) (q : Fin 4096) (sub : Fin 4) (data : Bytes)
  | queueStart (k : Fin 64) (q : Fin 4096)
  | queueStop (k : Fin 64) (q : Fin 4096)
  | queueFlush (k : Fin 64) (q : Fin 4096)
  | submit (k : Fin 64) (q : Fin 4096) (desc : Bytes)
  | cancel (k : Fin 64) (q : Fin 4096) (tag : BitVec 32)
  | nextCompletion (k : Fin 64) (q : Fin 4096)
  | slotBoundary
  | commitInstant (tag : BitVec 32) (at_ : Nat)
  | commitPublish (tag : BitVec 32)
  | completionRecord (tag : BitVec 32)
  | fenceTimeout (tag : BitVec 32) (target : BitVec 48)
  | budgetExceeded (tag : BitVec 32) (task : Nat)
  -- the tile (03, 04)
  | nop (t : Fin 512) (f : TileFields)
  | ldw (t : Fin 512) (f : TileFields)
  | mma (t : Fin 512) (f : TileFields)
  | aclr (t : Fin 512) (f : TileFields)
  | drain (t : Fin 512) (f : TileFields)
  | ald (t : Fin 512) (f : TileFields)
  | ast (t : Fin 512) (f : TileFields)
  | vld (t : Fin 512) (f : TileFields)
  | vst (t : Fin 512) (f : TileFields)
  | vlda (t : Fin 512) (f : TileFields)
  | vsta (t : Fin 512) (f : TileFields)
  | vadd (t : Fin 512) (f : TileFields)
  | vmul (t : Fin 512) (f : TileFields)
  | vfma (t : Fin 512) (f : TileFields)
  | vmax (t : Fin 512) (f : TileFields)
  | vmin (t : Fin 512) (f : TileFields)
  | vcmp (t : Fin 512) (f : TileFields)
  | vsel (t : Fin 512) (f : TileFields)
  | vcvt (t : Fin 512) (f : TileFields)
  | vrq (t : Fin 512) (f : TileFields)
  | vmxq (t : Fin 512) (f : TileFields)
  | vred (t : Fin 512) (f : TileFields)
  | vexp (t : Fin 512) (f : TileFields)
  | vlog (t : Fin 512) (f : TileFields)
  | vrcp (t : Fin 512) (f : TileFields)
  | vrsq (t : Fin 512) (f : TileFields)
  | vsig (t : Fin 512) (f : TileFields)
  | vtanh (t : Fin 512) (f : TileFields)
  | vsilu (t : Fin 512) (f : TileFields)
  | vgelu (t : Fin 512) (f : TileFields)
  | vsplus (t : Fin 512) (f : TileFields)
  | rstep (t : Fin 512) (f : TileFields)
  | zcfg (t : Fin 512) (f : TileFields)
  | agset (t : Fin 512) (f : TileFields)
  | dma (t : Fin 512) (f : TileFields)
  | fence (t : Fin 512) (f : TileFields)
  | bar (t : Fin 512) (f : TileFields)
  | evwait (t : Fin 512) (f : TileFields)
  | evsig (t : Fin 512) (f : TileFields)
  | loop (t : Fin 512) (f : TileFields)
  | endl (t : Fin 512) (f : TileFields)
  | end_ (t : Fin 512) (f : TileFields)
  -- streams (05)
  | streamOpen (k : Fin 64) (c : StreamCmd)
  | streamClose (k : Fin 64) (c : StreamCmd)
  | streamExport (k : Fin 64) (c : StreamCmd)
  | streamImport (k : Fin 64) (c : StreamCmd)
  | streamQuery (k : Fin 64) (c : StreamCmd)
  | streamZero (k : Fin 64) (c : StreamCmd)
  | streamRelocate (number : BitVec 12) (block : Nat) (readable : Bool)
  -- sequences, pools and branch tables (06, 07)
  | seqOpen (k : Fin 64) (c : SeqCmd)
  | seqFork (k : Fin 64) (c : SeqCmd)
  | seqClose (k : Fin 64) (c : SeqCmd)
  | seqQuery (k : Fin 64) (c : SeqCmd)
  | seqPage (k : Fin 64) (c : SeqCmd)
  | poolFramesWrite (k : Fin 64) (p : Fin 4) (value : BitVec 32)
  | tableCreate (k : Fin 64) (c : TableCmd)
  | tableBranch (k : Fin 64) (c : TableCmd)
  | tablePrune (k : Fin 64) (c : TableCmd)
  | tableClose (k : Fin 64) (c : TableCmd)
  | tableQuery (k : Fin 64) (c : TableCmd)
  -- the map and the Selector (07)
  | mapStart (k : Fin 64)
  | mapStop (k : Fin 64)
  | mapFlip
  | selectorStart (k : Fin 64) (ch : Fin 16)
  | selectorStop (k : Fin 64) (ch : Fin 16)
  | selectorCloseTimer (ch : Fin 16)
  | selectorClosed (ch : Fin 16)
  | selectorRelease (ch : Fin 16)
  -- the tensor directory and the tiers (08)
  | tensorCreate (k : Fin 64) (c : DirCmd)
  | tensorFree (k : Fin 64) (c : DirCmd)
  | tensorLoad (k : Fin 64) (c : DirCmd)
  | tensorStore (k : Fin 64) (c : DirCmd)
  | tensorFill (k : Fin 64) (c : DirCmd)
  | tensorMigrate (k : Fin 64) (c : DirCmd)
  | tensorQuery (k : Fin 64) (c : DirCmd)
  | objectDelete (k : Fin 64) (object : BitVec 16)
  | catalogueSelect (k : Fin 64) (object : BitVec 16)
  | prefetchIssue (tag : BitVec 32) (entry : Nat)
  | prefetchArrival (tag : BitVec 32) (entry : Nat)
  | tierMiss (tag : BitVec 32) (entry : Nat)
  | tierFault (tag : BitVec 32) (entry : Nat) (kind : TierFaultKind)
  | patrolScrub (burst : BitVec 48) (symbols : Nat)
  | evacuationEnd (s : Fin 32)
  | spareCopyEnd (cluster : Fin 64)
  | aquiferRequest (m : Fin 4) (write : Bool) (address : BitVec 48) (length : Nat) (data : Bytes)
  | transportFault (p : Fin 3) (request : Nat)
  -- partitions, pre-emption and function reset (09)
  | partitionStart (k : Fin 64) (p : Fin 64)
  | partitionStop (k : Fin 64) (p : Fin 64)
  | partitionReset (k : Fin 64) (p : Fin 64)
  | taskReady (tag : BitVec 32) (task : Nat)
  | saveBudgetMiss (tag : BitVec 32) (budget : Fin 2)
  | restoreResume (tag : BitVec 32) (at_ : Nat)
  | resetWellhead (k : Fin 64) (inst : BitVec 8)
  | resetFusion (k : Fin 64) (inst : BitVec 8)
  | resetSelector (k : Fin 64) (inst : BitVec 8)
  | resetFabricPort (k : Fin 64) (inst : BitVec 8)
  | resetT1Port (k : Fin 64) (inst : BitVec 8)
  | resetControlComplex (k : Fin 64) (inst : BitVec 8)
  | functionResetDone (code : BitVec 16)
  -- Wellhead (10)
  | cameraStreamStart (k : Fin 64) (n : Fin 32)
  | cameraStreamStop (k : Fin 64) (n : Fin 32)
  | sampleStreamStart (k : Fin 64) (n : Fin 16)
  | sampleStreamStop (k : Fin 64) (n : Fin 16)
  | sampleStreamFlush (k : Fin 64) (n : Fin 16)
  | dictLoad (k : Fin 64)
  | frameStart (port : Fin 12) (vc : Fin 16) (at_ : Nat)
  | csiLongPacket (port : Fin 12) (vc : Fin 16) (dtype : BitVec 8) (headerOk crcOk : Bool) (payload : Bytes)
  | frameEnd (port : Fin 12) (vc : Fin 16)
  | batchHandover (stream : Fin 48)
  | sampleTaken (n : Fin 16)
  | decodeStart (decoder : Fin 4) (at_ : Nat)
  | decodeDone (unit : Fin 5) (at_ : Nat)
  | overBudget (unit : Fin 5) (at_ : Nat)
  -- fusion (11)
  | fusionStart (k : Fin 64)
  | fusionStop (k : Fin 64)
  | fusionRecordWrite (k : Fin 64) (i : Fin 16) (record : Bytes)
  | fusionCycle
  -- the sparse solver (12)
  | solverStart (k : Fin 64)
  | solverStop (k : Fin 64)
  | solverSelect (k : Fin 64) (slot : BitVec 8)
  | solverRecordWrite (k : Fin 64) (record : Bytes)
  | scheduleLoad (k : Fin 64) (slot : Fin 2)
  | scheduleLoadDone (slot : Fin 2)
  | solverCycle
  | solverOutput
  -- the Pump engine (13)
  | pumpStart (k : Fin 64)
  | pumpStop (k : Fin 64)
  | pumpCmdRecordWrite (k : Fin 64) (record : Bytes)
  | axisEnable (k : Fin 64) (n : Fin 64)
  | axisDisable (k : Fin 64) (n : Fin 64)
  | tablesLoad (k : Fin 64) (n : Fin 64)
  | tablesLoadDone (n : Fin 64)
  | axisLawWrite (k : Fin 64) (n : Fin 64) (law : Bytes)
  | feedbackFrame (x : Fin 4) (payload : Bytes)
  | pumpSample (g : Fin 8)
  | pumpFrameHandoff (g : Fin 8) (lateSlots : BitVec 16)
  -- time, ports and Siphon (14)
  | clockAdjust (k : Fin 64) (delta : BitVec 64)
  | clockSlewEnd
  | asStart (k : Fin 64)
  | asStop (k : Fin 64)
  | syncReceived (gm : GmClock) (offset : BitVec 64)
  | syncTimeout
  | gmSelected (self : Bool) (gm : GmClock)
  | syncTransmit (x : Fin 4)
  | pdelayExchange (x : Fin 4) (delay : Nat)
  | ppsOutPulse
  | ppsInEdge (at_ : Nat)
  | ppsEnableWrite (k : Fin 64) (value : BitVec 8)
  | timerStart (k : Fin 64) (timer : Fin 8)
  | timerStop (k : Fin 64) (timer : Fin 8)
  | timerFire (timer : Fin 8)
  | t1PortStart (k : Fin 64) (x : Fin 4)
  | t1PortStop (k : Fin 64) (x : Fin 4)
  | t1LinkUp (x : Fin 4)
  | t1LinkDown (x : Fin 4)
  | t1FrameReceived (x : Fin 4) (at_ : Nat) (frame : Bytes)
  | timedWrite (k : Fin 64) (x : Fin 4) (value : BitVec 8)
  | timedFrame (k : Fin 64) (x : Fin 4) (data : Bytes)
  | launchEligible (x : Fin 4) (late : Nat)
  | fabricPortStart (k : Fin 64) (p : Fin 3)
  | fabricPortStop (k : Fin 64) (p : Fin 3)
  | fabricLinkUp (p : Fin 3) (lanes : BitVec 8)
  | discoveryReceived (p : Fin 3) (entry : Fin 3) (payload : Bytes)
  | siphonDescriptorDone (channel : Fin 544)
  | siphonFenceReturn (channel : Fin 544) (target : BitVec 48)
  -- power (15)
  | domainsEnableWrite (k : Fin 64) (value : BitVec 32)
  | domainOnDone (d : Fin 24)
  | domainOff (d : Fin 24)
  | capWrite (k : Fin 64) (peak : Bool) (value : BitVec 16)
  | weirSample (input : Nat) (volts : Nat) (regions : List Nat)
  | droopAlarm (region : Fin 8) (micros : Nat)
  | droopClear (region : Fin 8) (micros : Nat)
  | prearmStart (tag : BitVec 32) (phase : Fin 4)
  | prearmEnd (tag : BitVec 32) (phase : Fin 4)
  | tempSample (temps : List (BitVec 32))
  | coolOkLow
  | coolOkQualified
  | standbyEnter (k : Fin 64)
  | standbyWake
  -- integrity and safe state (16)
  | failureEvent (unit : BitVec 32) (cause : EventCause) (confirmed : Bool) (job : Option (BitVec 32))
  | sramRetest (unit : BitVec 32) (passed : Bool)
  | fieldTestStart (subject : Fin 512) (part : Fin 18)
  | fieldTestDone (subject : Fin 512) (passed : Bool)
  | fieldTestYield (subject : Fin 512)
  | checkerTimeout (subject : Fin 512)
  | heartbeatLoss (function : BitVec 8)
  | stopAckTimeout (t : Fin 512)
  | hostSilent
  | islandMismatch
  | safeRequest (k : Fin 64) (value : BitVec 8)
  | safeStateEntry (cause : Fin 11) (detail : BitVec 32) (fault : Bool)
  | safetyFrameRepeat
  | safeClear (k : Fin 64) (value : BitVec 16)
  | triggersWrite (k : Fin 64) (value : BitVec 32)
  -- boot, identity, life cycle (17)
  | deviceResetWrite (k : Fin 64) (value : BitVec 8)
  | resetNLow
  | deviceReset (at_ : Nat)
  | updateBegin (k : Fin 64)
  | updateChunk (k : Fin 64) (chunk : Bytes)
  | updateCommit (k : Fin 64)
  | updateAbort (k : Fin 64)
  | minSvnWrite (k : Fin 64) (value : BitVec 16)
  | keyRevoke (k : Fin 64) (slot : BitVec 8)
  | lifecycleNonceRead (k : Fin 64)
  | lifecycleRequest (k : Fin 64) (request : Bytes)
  | debugAuth (signature : Bytes)
  | quoteRequest (k : Fin 64) (nonce : Bytes)
  | quoteReady
  -- Ixide (18)
  | sessionOpen (x : Fin 4) (peer : Bytes) (frame : Bytes)
  | sessionClose (x : Fin 4) (frame : Bytes)
  | sessionCloseWrite (k : Fin 64) (j : Fin 64) (value : BitVec 8)
  | keepalive (x : Fin 4) (frame : Bytes)
  | sessionTimeout (k : Fin 64)
  | request (x : Fin 4) (frame : Bytes)
  | ixideRead (k : Fin 64) (o : IxideOp)
  | ixideWrite (k : Fin 64) (o : IxideOp)
  | memRead (k : Fin 64) (o : IxideOp)
  | memWrite (k : Fin 64) (o : IxideOp)
  | describe (k : Fin 64) (data : Bytes)
  | notifyAck (x : Fin 4) (frame : Bytes)
  | notifyTransmit (k : Fin 64)
  | notifyRetry (k : Fin 64) (seq : BitVec 32)
  -- module hardware (19) and the rows added last
  | undervoltage
  | overvoltage
  | pwrEnLow
  | coldStart (selfCheckOk : Bool)
  | regulatorRetry (selfCheckOk : Bool)
  | cameraLinkLocked (port : Fin 12)
  | cameraLinkLost (port : Fin 12)
  | fabricLinkDown (p : Fin 3)
  | fabricFrameReceived (p : Fin 3) (frame : Bytes)
  | ackTimeout (p : Fin 3) (request : Nat)
  | debugTransaction (request : Bytes)
  deriving DecidableEq, Repr

end Sys2Proof
end

