-- ==== Sys2Proof/Decode.lean ====
section
/-!
DEFINITION. Sys2Proof/Decode.lean: words and byte blocks of commands. The opcode table gives no row any bits, so
`decodeTableWord` answers none; the 64-bit tile instruction word of R99 and the command blocks that hosts write
(R136, R166, R188, R233, R470) are packed and unpacked here.
-/

namespace Sys2Proof

/-- The command a word spells by the table's bits: the table gives no row any, so none. -/
def decodeTableWord (_nbits _w : Nat) : Option Instr := none

/-! ## The tile instruction word (R99, R100) -/

/-- The 64-bit word of an opcode and its fields (R99). -/
def packTile (op : BitVec 8) (f : TileFields) : BitVec 64 :=
  op ++ f.fa ++ f.fb ++ f.fd ++ f.mod ++ f.ga ++ f.gb ++ f.gd ++ f.row ++ f.cnt ++ f.imm

/-- OP, bits [63:56] (R99). -/
def tileOpOf (w : BitVec 64) : BitVec 8 := w.extractLsb' 56 8

/-- The fields below OP (R99). -/
def unpackTile (w : BitVec 64) : TileFields where
  fa  := w.extractLsb' 52 4
  fb  := w.extractLsb' 48 4
  fd  := w.extractLsb' 44 4
  mod := w.extractLsb' 40 4
  ga  := w.extractLsb' 36 4
  gb  := w.extractLsb' 32 4
  gd  := w.extractLsb' 28 4
  row := w.extractLsb' 21 7
  cnt := w.extractLsb' 14 7
  imm := w.extractLsb' 0 14

/-- The tile, opcode (R100) and fields of a tile instruction; none for every other command. -/
def tileParts : Instr → Option (Fin 512 × BitVec 8 × TileFields)
  | .nop t f    => some (t, 0x00, f)
  | .ldw t f    => some (t, 0x01, f)
  | .mma t f    => some (t, 0x02, f)
  | .aclr t f   => some (t, 0x03, f)
  | .drain t f  => some (t, 0x04, f)
  | .ald t f    => some (t, 0x05, f)
  | .ast t f    => some (t, 0x06, f)
  | .vld t f    => some (t, 0x10, f)
  | .vst t f    => some (t, 0x11, f)
  | .vlda t f   => some (t, 0x12, f)
  | .vsta t f   => some (t, 0x13, f)
  | .vadd t f   => some (t, 0x14, f)
  | .vmul t f   => some (t, 0x15, f)
  | .vfma t f   => some (t, 0x16, f)
  | .vmax t f   => some (t, 0x17, f)
  | .vmin t f   => some (t, 0x18, f)
  | .vcmp t f   => some (t, 0x19, f)
  | .vsel t f   => some (t, 0x1a, f)
  | .vcvt t f   => some (t, 0x1b, f)
  | .vrq t f    => some (t, 0x1c, f)
  | .vmxq t f   => some (t, 0x1d, f)
  | .vred t f   => some (t, 0x1e, f)
  | .vexp t f   => some (t, 0x20, f)
  | .vlog t f   => some (t, 0x21, f)
  | .vrcp t f   => some (t, 0x22, f)
  | .vrsq t f   => some (t, 0x23, f)
  | .vsig t f   => some (t, 0x24, f)
  | .vtanh t f  => some (t, 0x25, f)
  | .vsilu t f  => some (t, 0x26, f)
  | .vgelu t f  => some (t, 0x27, f)
  | .vsplus t f => some (t, 0x28, f)
  | .rstep t f  => some (t, 0x30, f)
  | .zcfg t f   => some (t, 0x38, f)
  | .agset t f  => some (t, 0x40, f)
  | .dma t f    => some (t, 0x41, f)
  | .fence t f  => some (t, 0x42, f)
  | .bar t f    => some (t, 0x43, f)
  | .evwait t f => some (t, 0x44, f)
  | .evsig t f  => some (t, 0x45, f)
  | .loop t f   => some (t, 0x46, f)
  | .endl t f   => some (t, 0x47, f)
  | .end_ t f   => some (t, 0x4f, f)
  | _ => none

/-- The 64-bit word of a tile instruction (R99). -/
def encodeTile (i : Instr) : Option (Fin 512 × BitVec 64) :=
  (tileParts i).map (fun p => (p.1, packTile p.2.1 p.2.2))

/-- The instruction that word `w` is on tile `t`; none for an undefined opcode (R102). -/
def decodeTile (t : Fin 512) (w : BitVec 64) : Option Instr :=
  let f := unpackTile w
  match (tileOpOf w).toNat with
  | 0x00 => some (.nop t f)
  | 0x01 => some (.ldw t f)
  | 0x02 => some (.mma t f)
  | 0x03 => some (.aclr t f)
  | 0x04 => some (.drain t f)
  | 0x05 => some (.ald t f)
  | 0x06 => some (.ast t f)
  | 0x10 => some (.vld t f)
  | 0x11 => some (.vst t f)
  | 0x12 => some (.vlda t f)
  | 0x13 => some (.vsta t f)
  | 0x14 => some (.vadd t f)
  | 0x15 => some (.vmul t f)
  | 0x16 => some (.vfma t f)
  | 0x17 => some (.vmax t f)
  | 0x18 => some (.vmin t f)
  | 0x19 => some (.vcmp t f)
  | 0x1a => some (.vsel t f)
  | 0x1b => some (.vcvt t f)
  | 0x1c => some (.vrq t f)
  | 0x1d => some (.vmxq t f)
  | 0x1e => some (.vred t f)
  | 0x20 => some (.vexp t f)
  | 0x21 => some (.vlog t f)
  | 0x22 => some (.vrcp t f)
  | 0x23 => some (.vrsq t f)
  | 0x24 => some (.vsig t f)
  | 0x25 => some (.vtanh t f)
  | 0x26 => some (.vsilu t f)
  | 0x27 => some (.vgelu t f)
  | 0x28 => some (.vsplus t f)
  | 0x30 => some (.rstep t f)
  | 0x38 => some (.zcfg t f)
  | 0x40 => some (.agset t f)
  | 0x41 => some (.dma t f)
  | 0x42 => some (.fence t f)
  | 0x43 => some (.bar t f)
  | 0x44 => some (.evwait t f)
  | 0x45 => some (.evsig t f)
  | 0x46 => some (.loop t f)
  | 0x47 => some (.endl t f)
  | 0x4f => some (.end_ t f)
  | _ => none

/-! ## Command blocks -/

/-- The 32 bytes of a stream command (R136). -/
def encodeStream (op : BitVec 8) (c : StreamCmd) : Bytes :=
  leBytes 1 op.toNat ++ leBytes 1 c.partition.toNat ++ leBytes 2 c.queue.toNat ++ leBytes 4 c.handle.toNat ++
  leBytes 8 c.image.toNat ++ leBytes 8 c.reserved.toNat ++ leBytes 4 c.deadline.toNat ++ leBytes 2 c.blocks.toNat ++
  leBytes 1 c.rows.toNat ++ leBytes 1 c.target.toNat

/-- The fields of a stream command's 32 bytes (R136). -/
def decodeStream (b : Bytes) : StreamCmd where
  partition := BitVec.ofNat _ (fieldAt b 0x01 1)
  queue     := BitVec.ofNat _ (fieldAt b 0x02 2)
  handle    := BitVec.ofNat _ (fieldAt b 0x04 4)
  image     := BitVec.ofNat _ (fieldAt b 0x08 8)
  reserved  := BitVec.ofNat _ (fieldAt b 0x10 8)
  deadline  := BitVec.ofNat _ (fieldAt b 0x18 4)
  blocks    := BitVec.ofNat _ (fieldAt b 0x1c 2)
  rows      := BitVec.ofNat _ (fieldAt b 0x1e 1)
  target    := BitVec.ofNat _ (fieldAt b 0x1f 1)

/-- The 32 bytes of a sequence command (R166). -/
def encodeSeq (op : BitVec 8) (c : SeqCmd) : Bytes :=
  leBytes 1 op.toNat ++ leBytes 1 c.pool.toNat ++ leBytes 1 c.cls.toNat ++ leBytes 1 c.reserved0.toNat ++
  leBytes 4 c.handle.toNat ++ leBytes 4 c.tokens.toNat ++ leBytes 20 c.reserved1.toNat

/-- The fields of a sequence command's 32 bytes (R166). -/
def decodeSeq (b : Bytes) : SeqCmd where
  pool      := BitVec.ofNat _ (fieldAt b 0x01 1)
  cls       := BitVec.ofNat _ (fieldAt b 0x02 1)
  reserved0 := BitVec.ofNat _ (fieldAt b 0x03 1)
  handle    := BitVec.ofNat _ (fieldAt b 0x04 4)
  tokens    := BitVec.ofNat _ (fieldAt b 0x08 4)
  reserved1 := BitVec.ofNat _ (fieldAt b 0x0c 20)

/-- The 32 bytes of a table command (R188). -/
def encodeTable (op : BitVec 8) (c : TableCmd) : Bytes :=
  leBytes 1 op.toNat ++ leBytes 1 c.cls.toNat ++ leBytes 2 c.count.toNat ++ leBytes 4 c.table.toNat ++
  leBytes 4 c.root.toNat ++ leBytes 2 c.source.toNat ++ leBytes 2 c.first.toNat ++ leBytes 4 c.n.toNat ++
  leBytes 2 c.max.toNat ++ leBytes 10 c.reserved.toNat

/-- The fields of a table command's 32 bytes (R188). -/
def decodeTable (b : Bytes) : TableCmd where
  cls      := BitVec.ofNat _ (fieldAt b 0x01 1)
  count    := BitVec.ofNat _ (fieldAt b 0x02 2)
  table    := BitVec.ofNat _ (fieldAt b 0x04 4)
  root     := BitVec.ofNat _ (fieldAt b 0x08 4)
  source   := BitVec.ofNat _ (fieldAt b 0x0c 2)
  first    := BitVec.ofNat _ (fieldAt b 0x0e 2)
  n        := BitVec.ofNat _ (fieldAt b 0x10 4)
  max      := BitVec.ofNat _ (fieldAt b 0x14 2)
  reserved := BitVec.ofNat _ (fieldAt b 0x16 10)

/-- The 32 bytes of a directory command (R233). -/
def encodeDir (op : BitVec 8) (c : DirCmd) : Bytes :=
  leBytes 1 op.toNat ++ leBytes 1 c.arg.toNat ++ leBytes 2 c.queue.toNat ++ leBytes 4 c.handle.toNat ++
  leBytes 4 c.size.toNat ++ leBytes 4 c.object.toNat ++ leBytes 4 c.offset.toNat ++ leBytes 4 c.deadline.toNat ++
  leBytes 8 c.addr.toNat

/-- The fields of a directory command's 32 bytes (R233). -/
def decodeDir (b : Bytes) : DirCmd where
  arg      := BitVec.ofNat _ (fieldAt b 0x01 1)
  queue    := BitVec.ofNat _ (fieldAt b 0x02 2)
  handle   := BitVec.ofNat _ (fieldAt b 0x04 4)
  size     := BitVec.ofNat _ (fieldAt b 0x08 4)
  object   := BitVec.ofNat _ (fieldAt b 0x0c 4)
  offset   := BitVec.ofNat _ (fieldAt b 0x10 4)
  deadline := BitVec.ofNat _ (fieldAt b 0x14 4)
  addr     := BitVec.ofNat _ (fieldAt b 0x18 8)

/-- A REQUEST payload (R470). -/
def encodeOp (o : IxideOp) : Bytes :=
  leBytes 1 o.op.toNat ++ leBytes 1 o.flags.toNat ++ leBytes 2 o.index.toNat ++ leBytes 1 o.sub.toNat ++
  leBytes 1 o.rsv0.toNat ++ leBytes 2 o.count.toNat ++ leBytes 4 o.offset.toNat ++ leBytes 4 o.rsv1.toNat ++
  leBytes 8 o.address.toNat ++ o.data

/-- The operation of a REQUEST payload (R470); none where the payload is shorter than an operation. -/
def decodeOp (b : Bytes) : Option IxideOp :=
  if b.length < 0x18 then none else some
    { op := BitVec.ofNat _ (fieldAt b 0 1), flags := BitVec.ofNat _ (fieldAt b 1 1),
      index := BitVec.ofNat _ (fieldAt b 2 2), sub := BitVec.ofNat _ (fieldAt b 4 1),
      rsv0 := BitVec.ofNat _ (fieldAt b 5 1), count := BitVec.ofNat _ (fieldAt b 6 2),
      offset := BitVec.ofNat _ (fieldAt b 8 4), rsv1 := BitVec.ofNat _ (fieldAt b 12 4),
      address := BitVec.ofNat _ (fieldAt b 16 8), data := b.drop 0x18 }

end Sys2Proof
end

