-- ==== Sys2Proof/Config.lean ====
section
/-!
DEFINITION. Sys2Proof/Config.lean: what one module fixes and the spec leaves open, and the free values. An opaque
constant has no body: nothing can be proved of its value. Each is named in a log entry of notes/assumptions/.
-/

namespace Sys2Proof.Config

/-- The ulp offset of a function instruction's result inside the bound of R93: a function of opcode and operand (log 21). -/
opaque funcUlp : Nat → BitVec 32 → Int

/-- Is the zero negative that a function instruction gives where R93 leaves its sign open (VSILU and VGELU at -infinity and below -10,
and a result within the bound of 0): a function of the opcode (logs 21, 84). -/
opaque limitZeroNeg : Nat → Bool

def limitZero (op : Nat) : BitVec 32 := if limitZeroNeg op then 0x80000000 else 0

/-- VCVT of a NaN to INT32 (R100 states no result): a function of the operand (log 84). -/
opaque nanToInt : BitVec 32 → BitVec 32

/-- INT32 addition of VSTA whose sum leaves the format (R122 states no result): a function of the operands (log 84). -/
opaque intSum : BitVec 32 → BitVec 32 → BitVec 32

/-- Which of the free numbers 0 .. n-1 an allocation takes (R139, R169, R172, R232, R470): a free choice (log 2). -/
opaque choice : Nat → Nat → Nat

/-- Which of the split placements that R59 leaves equal is taken: runs as first slot and length, by counter (log 24). -/
opaque splitPick : Nat → List (Nat × Nat)

/-- Rounding of INC below 2^-32 ns (R365), in units of 2^-32 ns: a function of RATE (log 10). -/
opaque incRound : BitVec 32 → Int

/-- Where in a sequence area the device keeps the reservation list of R173, in units of 16 bytes (log 23). -/
opaque resvOff : Nat

/-- Place among the other 31 subchannels of a granule that an evacuation moved (R256): a function of the granule's number (log 16). -/
opaque evacuated : Nat → Nat

/-- Instruction index of cheaper path k's entry for a task (R248), which the program's code gives: from the program image's tensor
index, the task and k (log 28). -/
opaque pathEntry : Nat → Nat → Nat → Nat

/-- The abandoned-instruction word of a save record (R266, R269), whose form the spec does not give: from the descriptors kept (log 90). -/
opaque abandonedWord : List Bytes → BitVec 64

/-- A free byte: data held by a peer module, or a value the spec does not give; by counter and position (log 2). -/
opaque freeByte : Nat → Nat → BitVec 8

/-- A free number by counter (a measured quantity, a random draw; log 2). -/
opaque freeNat : Nat → Nat

/-- The update program of a schedule (R324), whose code the spec does not give: the values of K in PATTERN order and then the
right-hand side in pivot order, from the schedule image, the record, the REF section, the round and the iterate (log 33). -/
opaque solverForm : Bytes → Bytes → List (BitVec 64) → Nat → List (BitVec 64) → List (BitVec 64)

/-- The initial iterate of a cold start (R324, R336): from the schedule image and the record (log 33). -/
opaque solverInit : Bytes → Bytes → List (BitVec 64)

/-- The iterate after a round: from image, record, REF section, round, the iterate before and the step (log 33). -/
opaque solverNext : Bytes → Bytes → List (BitVec 64) → Nat → List (BitVec 64) → List (BitVec 64) → List (BitVec 64)

/-- An order of adding: leaf 0 is the value that products are taken from, leaf k the k-th product, negated; `fma` adds a product on the
right with one rounding (log 33). -/
inductive SumPlan where
  | leaf (k : Nat)
  | node (fma : Bool) (l r : SumPlan)
  deriving DecidableEq, Repr, Inhabited

/-- The order in which the compiled program takes products from a value, and where it uses FMA (R322, R324): from the image, the round,
the place and the number of products (log 33). -/
opaque sumPlan : Bytes → Nat → Nat → Nat → SumPlan

/-- Which two of the three factors of a product are multiplied first, or whether the undivided entry serves: from the image, the round,
the place and the product's number (log 33). -/
opaque solverAssoc : Bytes → Nat → Nat → Nat → Nat

/-- Does the compiled program divide by a pivot as a multiplication by its reciprocal? From the image (log 33). -/
opaque solverRecip : Bytes → Bool

/-- Which rounded form of linear interpolation the reference takes between two knots (R332), whose operations the spec does not order
(log 33). -/
opaque lerpForm : Nat

/-- Where inside the accuracy limits of R290 (at most one from the exact transform) a sample of the Kilwiond fixed-point IDCT
lies, as a number mod 3: 64 dequantised coefficients in natural order and the place in the block (log 35). -/
opaque idct : List Int → Nat → BitVec 8

/-- Which neighbour an FP32 result close to half-way between two integers rounds to (R283, R290, R301), where the spec does not
order the FP32 operations: a function of the exact value (log 35). -/
opaque halfUp : Int → Nat → Bool

/-- Body position named by a discovery SEND of 64 bytes, whose layout R384 does not give (log 83). -/
opaque discoveryPosition : Bytes → Nat

/-- A byte of the discovery SEND of this module, from its position, serial number and firmware version (log 83). -/
opaque discoveryByte : Nat → BitVec 64 → BitVec 32 → Nat → BitVec 8

/-- A byte of the image area that an update erased and did not write (R453 gives no value), by offset (log 51). -/
opaque flashErased : Nat → BitVec 8

/-- The public key (X then Y, 66 bytes each) of a fuse key slot, of which the fuses hold the digest (R447, R456; log 6). -/
opaque slotKey : Nat → Bytes

/-- The public key of the Kilwiond debug key (R455; log 52). -/
opaque debugKey : Bytes

/-- Is a debug transaction the BLANK to PROVISIONED request, whose form the spec does not give (R456; log 52)? -/
opaque provisionRequest : Bytes → Bool

/-- Serial number of the device certificate, from the device serial (R460; log 53). -/
opaque certSerial : BitVec 64 → Bytes

/-- Issuer name of the device certificate: the Kilwiond manufacturing CA, as a DER Name (R460; log 53). -/
opaque certIssuer : Bytes

/-- Validity of the device certificate, as the content of its DER sequence (R460; log 53). -/
opaque certValidity : Bytes

/-- The manufacturing CA's signature of a certificate body (R460; log 53). -/
opaque caSignature : Bytes → Bytes

end Sys2Proof.Config
end

