-- ==== Sys2Proof/Machine/Crypto.lean ====
section
/-!
DEFINITION. Sys2Proof/Machine/Crypto.lean: CRC-32C (R148, R328, R423, R430), SHA-512 (FIPS 180-4) and ECDSA P-521
verification (FIPS 186-5) as R6 and chapter 17 name them.
-/

namespace Sys2Proof.Machine

/-! ## CRC-32C -/

/-- One bit of the reflected CRC-32C register. -/
def crcBit (r : BitVec 32) : BitVec 32 := if r.getLsbD 0 then (r >>> 1) ^^^ 0x82f63b78 else r >>> 1

/-- One byte folded into the register. -/
def crcByte (r : BitVec 32) (b : BitVec 8) : BitVec 32 :=
  (List.range 8).foldl (fun r _ => crcBit r) (r ^^^ b.setWidth 32)

/-- CRC-32C of a byte string. -/
def crc32c (bs : Bytes) : BitVec 32 := ~~~(bs.foldl crcByte 0xffffffff)

/-! ## SHA-512 -/

/-- The first `n` primes, by trial division. -/
def isPrimeB (n : Nat) : Bool := decide (2 ≤ n) && (List.range n).all (fun d => decide (d < 2) || decide (n % d ≠ 0))

def primes80 : List Nat := (List.range 410).filter isPrimeB

/-- floor of the k-th root by bisection on `fuel` bits. -/
def rootGo (k n : Nat) : Nat → Nat → Nat
  | 0, r => r
  | b + 1, r => if (r + 2 ^ b) ^ k ≤ n then rootGo k n b (r + 2 ^ b) else rootGo k n b r

/-- The first 64 bits of the fractional part of the k-th root of p. -/
def rootFrac (k p : Nat) : BitVec 64 := BitVec.ofNat 64 (rootGo k (p * 2 ^ (64 * k)) 70 0)

def shaK : List (BitVec 64) := primes80.map (rootFrac 3)
def shaH0 : List (BitVec 64) := (primes80.take 8).map (rootFrac 2)

def rotr64 (x : BitVec 64) (n : Nat) : BitVec 64 := x.rotateRight n

/-- The message schedule, extended from its last 16 words. -/
def shaExtend : Nat → List (BitVec 64) → List (BitVec 64)
  | 0, w => w
  | n + 1, w =>
    let g (i : Nat) := nth 0 w (w.length - i)
    let s0 := rotr64 (g 15) 1 ^^^ rotr64 (g 15) 8 ^^^ (g 15 >>> 7)
    let s1 := rotr64 (g 2) 19 ^^^ rotr64 (g 2) 61 ^^^ (g 2 >>> 6)
    shaExtend n (w ++ [g 16 + s0 + g 7 + s1])

/-- One round on the eight working variables. -/
def shaRound (v : List (BitVec 64)) (kw : BitVec 64 × BitVec 64) : List (BitVec 64) :=
  match v with
  | [a, b, c, d, e, f, g, h] =>
    let t1 := h + (rotr64 e 14 ^^^ rotr64 e 18 ^^^ rotr64 e 41) + ((e &&& f) ^^^ (~~~e &&& g)) + kw.1 + kw.2
    let t2 := (rotr64 a 28 ^^^ rotr64 a 34 ^^^ rotr64 a 39) + ((a &&& b) ^^^ (a &&& c) ^^^ (b &&& c))
    [t1 + t2, a, b, c, d + t1, e, f, g]
  | _ => v

/-- One 128-byte block. -/
def shaBlock (k h : List (BitVec 64)) (blk : Bytes) : List (BitVec 64) :=
  let w := shaExtend 64 ((List.range 16).map (fun i => BitVec.ofNat 64 (beNat (bytesAt blk (8 * i) 8))))
  (h.zip ((k.zip w).foldl shaRound h)).map (fun p => p.1 + p.2)

/-- SHA-512 of a byte string. -/
def sha512 (m : Bytes) : Bytes :=
  let padded := m ++ [0x80] ++ zeros ((239 - m.length % 128) % 128) ++ beBytes 16 (8 * m.length)
  let k := shaK
  (((chunksOf 128 padded).foldl (shaBlock k) shaH0).map (fun v => beBytes 8 v.toNat)).flatten

/-! ## ECDSA P-521 -/

def p521 : Nat := 2 ^ 521 - 1
def n521 : Nat := 0x01fffffffffffffffffffffffffffffffffffffffffffffffffffffffffffffffffffa51868783bf2f966b7fcc0148f709a5d03bb5c9b8899c47aebb6fb71e91386409
def b521 : Nat := 0x0051953eb9618e1c9a1f929a21a0b68540eea2da725b99b315f3b8b489918ef109e156193951ec7e937b1652c0bd3bb1bf073573df883d2c34f1ef451fd46b503f00
def gx521 : Nat := 0x00c6858e06b70404e9cd9e3ecb662395b4429c648139053fb521f828af606b4d3dbaa14b5e77efe75928fe1dc127a2ffa8de3348b3c1856a429bf97e7e31c2e5bd66
def gy521 : Nat := 0x011839296a789a3bc0045c8a5fb42c7d1bd998f54449579b446817afbd17273e662c97ee72995ef42640c550b9013fad0761353c7086a272c24088be94769fd16650

/-- a^e mod m by squaring over the bits of e, most significant first. -/
def powMod (m a e : Nat) : Nat := (List.range 521).foldl (fun r i =>
  let r := r * r % m
  if e.testBit (520 - i) then r * a % m else r) 1

def invMod (m a : Nat) : Nat := powMod m (a % m) (m - 2)

/-- A point of the curve; none is the point at infinity. -/
abbrev Pt := Option (Nat × Nat)

def ptAdd (u v : Pt) : Pt :=
  match u, v with
  | none, _ => v
  | _, none => u
  | some (x1, y1), some (x2, y2) =>
    if x1 = x2 ∧ (y1 + y2) % p521 = 0 then none
    else
      let l := if x1 = x2 then (3 * x1 * x1 + (p521 - 3)) % p521 * invMod p521 (2 * y1) % p521
        else (y2 + p521 - y1) % p521 * invMod p521 (x2 + p521 - x1) % p521
      let x := (l * l + 2 * p521 - x1 - x2) % p521
      some (x, (l * (x1 + p521 - x) + p521 - y1) % p521)

def ptMul (k : Nat) (u : Pt) : Pt := (List.range 521).foldl (fun r i =>
  let r := ptAdd r r
  if k.testBit (520 - i) then ptAdd r u else r) none

/-- ECDSA verification of the SHA-512 digest `z` under the uncompressed public key (x, y): signature r then s, 66 bytes
each, most significant byte first. -/
def ecdsaVerify (x y : Nat) (z sig : Bytes) : Bool :=
  let r := beNat (bytesAt sig 0 66)
  let s := beNat (bytesAt sig 66 66)
  let onCurve := decide (x < p521 ∧ y < p521 ∧ (x * x * x + (p521 - 3) * x + b521) % p521 = y * y % p521)
  if sig.length = 132 ∧ onCurve = true ∧ 1 ≤ r ∧ r < n521 ∧ 1 ≤ s ∧ s < n521 then
    let w := invMod n521 s
    match ptAdd (ptMul (beNat z * w % n521) (some (gx521, gy521))) (ptMul (r * w % n521) (some (x, y))) with
    | some (px, _) => decide (px % n521 = r)
    | none => false
  else false

/-- The public point of a private key. -/
def publicPoint (d : Nat) : Nat × Nat := (ptMul d (some (gx521, gy521))).getD (0, 0)

/-- r and s of an ECDSA signature of digest `z` by private key d with the per-message number k. -/
def ecdsaPair (d k : Nat) (z : Bytes) : Nat × Nat :=
  let r := (publicPoint k).1 % n521
  (r, invMod n521 k * (beNat z + r * d) % n521)

/-- An ECDSA signature, 66 bytes each of r and s (FIPS 186-5): a k that gives an r or an s of 0 is passed over. -/
def ecdsaSign (d k : Nat) (z : Bytes) : Bytes :=
  let ps := (List.range 4).map (fun i => ecdsaPair d (1 + (k + i) % (n521 - 1)) z)
  let p := (ps.find? (fun p => p.1 != 0 && p.2 != 0)).getD (0, 0)
  beBytes 66 p.1 ++ beBytes 66 p.2

/-! ## DER (X.690) for the device certificate (R460; RFC 5280, log 53) -/

/-- A DER value of a tag. -/
def der (tag : BitVec 8) (c : Bytes) : Bytes :=
  tag :: (if c.length < 128 then beBytes 1 c.length else if c.length < 256 then 0x81 :: beBytes 1 c.length else 0x82 :: beBytes 2 c.length) ++ c

/-- The algorithm identifier ecdsa-with-SHA512. -/
def ecdsaSha512Id : Bytes := der 0x30 (der 6 [0x2a, 0x86, 0x48, 0xce, 0x3d, 4, 3, 4])

/-- A hexadecimal digit. -/
def hexDigit (n : Nat) : BitVec 8 := BitVec.ofNat 8 (if n < 10 then 0x30 + n else 0x37 + n)

/-- The X.509 v3 certificate of a P-521 public key, subject serialNumber the device serial as 16 hexadecimal digits: at most 2,048 bytes. -/
def certificate (serial : BitVec 64) (key : Bytes) : Bytes :=
  let digits := (List.range 16).map (fun i => hexDigit (serial.toNat / 16 ^ (15 - i) % 16))
  let subject := der 0x30 (der 0x31 (der 0x30 (der 6 [0x55, 4, 5] ++ der 0x13 digits)))
  let spki := der 0x30 (der 0x30 (der 6 [0x2a, 0x86, 0x48, 0xce, 0x3d, 2, 1] ++ der 6 [0x2b, 0x81, 4, 0, 0x23]) ++ der 3 (0 :: key))
  let body := der 0x30 (der 0xa0 (der 2 [2]) ++ der 2 (1 :: (Config.certSerial serial).take 19) ++ ecdsaSha512Id ++
    Config.certIssuer.take 512 ++ der 0x30 (Config.certValidity.take 64) ++ subject ++ spki)
  der 0x30 (body ++ ecdsaSha512Id ++ der 3 (0 :: (Config.caSignature body).take 256))

end Sys2Proof.Machine
end

