-- ==== Sys2Proof/Machine/State.lean ====
section
/-!
DEFINITION. Sys2Proof/Machine/State.lean: the state of the KTU-9512 as plain data, its fault and refusal reasons, and
the state after reset. One sub-structure per chapter of the spec; sparse stores are sorted tables (`Tbl`), whose
unlisted entries read the default named beside the field. INVENTORY.md lists every piece with its rule.
-/

namespace Sys2Proof.Machine

/-! ## Frames that leave the module -/

/-- Operations of RoCEv2 that the module sends (R250). -/
inductive RoceOp where
  | write | read
  deriving DecidableEq, Repr

/-- A message of the time function (R370). -/
inductive PtpMsg where
  /-- Sync and its Follow_Up, with the full time of sending in ns -/
  | sync (origin : Nat)
  /-- the peer-delay exchange of a port -/
  | pdelay
  /-- the answer to a neighbour's peer-delay request: response and follow-up -/
  | pdelayAnswer
  /-- an Announce of this module as grandmaster: priority1, clockClass, clockAccuracy, priority2 -/
  | announce (priority1 clockClass accuracy priority2 : Nat)
  deriving DecidableEq, Repr

/-- A frame or message on its way out of the module; `State.out` records them in the order in which they leave (log 3). -/
inductive OutFrame where
  /-- an Ixide frame on T1 port `x` to a peer (R462, R463): its VLAN tag, the 16-byte header and the payload -/
  | ixide (x : Fin 4) (peer : Bytes) (tag : Bytes) (frame : Bytes)
  /-- an Ethernet frame on a T1 port: drive, host-timed, safety, ARP, neighbour and echo replies (R377-R381, R439) -/
  | t1 (x : Fin 4) (frame : Bytes)
  /-- a message of the time function on a T1 port (R370) -/
  | ptp (x : Fin 4) (msg : PtpMsg)
  /-- a frame on a fabric port that is no RoCEv2 packet (R382, R384): PFC, discovery, ARP and neighbour replies -/
  | fabric (p : Fin 3) (frame : Bytes)
  /-- a RoCEv2 packet to the module at body position `peer` (R250): queue pair, operation, address, data, VLAN priority -/
  | roce (p : Fin 3) (peer qp : Nat) (op : RoceOp) (address : Nat) (data : Bytes) (prio : Nat)
  /-- a packet that answers a peer's RoCEv2 request (R249, R250): read data, ACK (empty) or NAK, VLAN priority -/
  | roceAnswer (p : Fin 3) (m : Nat) (nak : Bool) (data : Bytes) (prio : Nat)
  /-- a transaction answered on the debug access port (R455) -/
  | debug (answer : Bytes)
  deriving DecidableEq, Repr

/-! ## Clock and time (R365-R376) -/

/-- 0x3400:05 (R366). -/
inductive TimeState where
  | freeRun | locking | locked | holdover | grandmaster
  deriving DecidableEq, Repr

structure Clock where
  seconds  : BitVec 48 := 0
  nanos    : Nat := 0
  frac     : BitVec 32 := 0
  /-- what is left of a slew, in units of 2^-38 ns (R367) -/
  slewLeft : Int := 0
  state    : TimeState := .freeRun
  /-- index of the last slot whose boundary the Sluice has taken (R56, R60) -/
  slot     : Nat := 0
  deriving DecidableEq, Repr

/-- 802.1AS (R370-R373). -/
structure AsState where
  running  : Bool := false
  gm       : BitVec 64 := 0
  offset   : BitVec 64 := 0
  good     : Nat := 0
  rates    : List Int := []
  pdelay   : Tbl Nat := []
  /-- the port that the BMCA has made the slave port (MODE 1) -/
  slave    : Option Nat := none
  /-- what the last Announce on each port said, in the order in which the BMCA compares it (R370) -/
  heard    : Tbl (List Nat) := []
  deriving DecidableEq, Repr

/-- The owner of the PPS_OUT pin (R376). -/
inductive PpsOwner where
  | enable | timer (k : Nat)
  deriving DecidableEq, Repr

structure Pps where
  owner     : Option PpsOwner := none
  inCapture : BitVec 64 := 0
  inCount   : BitVec 32 := 0
  /-- instant at which the last PPS_OUT pulse falls: the pin is high until then (R374) -/
  fallsAt   : Nat := 0
  deriving DecidableEq, Repr

/-- An event timer (R375): running, and the index i of its next firing START + i x PERIOD. -/
structure Timer where
  running : Bool := false
  next    : Nat := 0
  deriving DecidableEq, Repr

/-! ## T1 ports and their launch queues (R377-R381, R347, R348) -/

/-- One slot of a set-point frame (R348). -/
structure SetSlot where
  axis     : Nat
  flags    : BitVec 8
  setpoint : BitVec 32
  deriving DecidableEq, Repr

/-- A set-point frame of a Pump group (R347). -/
structure SetFrame where
  group  : Nat
  flags  : BitVec 8
  stamp  : Nat
  sample : BitVec 32
  slots  : List SetSlot
  deriving DecidableEq, Repr

inductive LaunchBody where
  | setpoint (f : SetFrame)
  | host (frame : Bytes)
  deriving DecidableEq, Repr

/-- A frame of a launch queue with its stamp as a full time in ns (R380). -/
structure Launch where
  stamp : Nat
  body  : LaunchBody
  deriving DecidableEq, Repr

/-- A frame that waits for the wire of a T1 port (R379): its class, itself, its bytes from destination address to FCS. -/
structure TxFrame where
  cls   : Nat
  frame : OutFrame
  len   : Nat
  deriving DecidableEq, Repr

structure T1Port where
  running : Bool := true
  /-- 0x3430+x:0a: 0 down, 1 training, 2 up (R378) -/
  link    : BitVec 8 := 1
  launch  : List Launch := []
  /-- frames held back before the next launch, in the order of R379 -/
  waiting : List TxFrame := []
  retired : Bool := false
  /-- COUNT of the safety frame on this port since the present entry (R439) -/
  safety  : BitVec 32 := 0
  deriving DecidableEq, Repr

/-! ## Fabric ports and RoCEv2 requests (R249-R253, R382-R385) -/

/-- Who waits for a RoCEv2 request. -/
inductive RoceOwner where
  | job (tag : BitVec 32) (entry : Option Nat)
  | channel (ch : Nat)
  | discovery
  deriving DecidableEq, Repr

/-- An outstanding request of a fabric port (R250). -/
structure RoceReq where
  id      : Nat
  peer    : Nat
  sentAt  : Nat
  retries : Nat
  owner   : RoceOwner
  op      : RoceOp
  address : Nat
  /-- the bytes of a write; the length of a read, 4 bytes -/
  data    : Bytes
  /-- the queue pair that carries it, 0-7; none while all 8 hold 16 reads and it waits -/
  qp      : Option Nat
  deriving DecidableEq, Repr

structure FabricPort where
  running : Bool := false
  /-- 0x3450+p:06 (R383) -/
  state   : BitVec 8 := 0
  lanes   : BitVec 8 := 0
  /-- trained on lanes 0-3 or 4-7 after a fallback -/
  four    : Bool := false
  peersUp : List Nat := []
  /-- the instant to which the peer has paused priority PFC_PRIO (R382) -/
  paused  : Nat := 0
  /-- packets held while it is paused, oldest first -/
  held    : List OutFrame := []
  /-- bytes in the receive buffer, and whether the port has sent XOFF (R382) -/
  rx      : Nat := 0
  xoff    : Bool := false
  reqs    : List RoceReq := []
  nextReq : Nat := 0
  deriving DecidableEq, Repr

/-! ## Siphon channels (R386-R395) -/

/-- A posted descriptor: its 32 bytes, the posting tile and the job it works for. -/
structure Posted where
  desc : Bytes
  tile : Nat
  job  : Option (BitVec 32)
  /-- bytes of each flow that have moved in earlier slots (R57) -/
  moved : Tbl Nat := []
  /-- the ended attempt that it runs on for, to its end (R64, R394) -/
  dead  : Option Nat := none
  deriving DecidableEq, Repr

/-- A Siphon channel. -/
structure Channel where
  posted  : List Posted := []
  running : Bool := false
  /-- targets written since the last fence, oldest first, as target numbers (R391) -/
  targets : List Nat := []
  /-- targets whose fence has been issued and has not returned, with the tile or commit that waits -/
  fencing : List Nat := []
  /-- the instant at which the fence of a target was issued (R62) -/
  issued  : Tbl Nat := []
  stopped : Bool := false
  deriving DecidableEq, Repr

/-! ## Tiles (R75-R108, R112-R117) -/

/-- A weight buffer: 2,048 bytes and 64 column scales (R75). Unlisted bytes read 0. -/
structure WBuf where
  data   : Tbl (BitVec 8) := []
  scales : Tbl (BitVec 8) := []
  deriving DecidableEq, Repr

/-- An address-generator slot: its 64-byte image (R113) and its stream position (R112). -/
structure AgSlot where
  image : Bytes := List.replicate 12 0 ++ 7 :: List.replicate 51 0
  pos   : Nat := 0
  deriving DecidableEq, Repr

/-- What a tile waits for (R100). -/
inductive Wait where
  | fence (ch : Nat)
  | bar (mask : BitVec 8)
  /-- internal event n, for the job whose task runs here (R22) -/
  | event (n : Nat) (job : BitVec 32)
  deriving DecidableEq, Repr

/-- An internal event raised and not yet taken (R22, R100): its number, and the job that it is meant for; none where every job is. -/
structure Raised where
  number : Nat
  job    : Option (BitVec 32)
  deriving DecidableEq, Repr

/-- The state of one tile (R76) and of its sequencer. -/
structure Tile where
  /-- accumulator entries by 64 x row + column, 48 bits each (R94, R95); unlisted entries are 0 -/
  acc    : Tbl (BitVec 48) := []
  /-- the rows last written by an integer MMA, ALD or VSTA of integers: their V is INT32 (R104) -/
  intRows : List Nat := []
  /-- the vector registers whose lanes hold integers, by the same rule -/
  intRegs : List Nat := []
  w0     : WBuf := {}
  w1     : WBuf := {}
  /-- vector register lanes by 64 x register + lane; unlisted lanes are 0 -/
  v      : Tbl (BitVec 32) := []
  slots  : Tbl AgSlot := []
  pc     : Nat := 0
  loops  : Tbl Nat := []
  /-- IMM of the last ZCFG and its bias slot (R104); 0 after task start -/
  zimm   : BitVec 14 := 0
  zslot  : BitVec 4 := 0
  wait   : Option Wait := none
  /-- the lockstep signature (R423): over writes, and over posts -/
  sigW   : BitVec 32 := 0
  sigP   : BitVec 32 := 0
  /-- runs a task of a LOCKSTEP job: its writes and posts fold into the signature (R422, R423) -/
  paired : Bool := false
  /-- issue gated by the island (R433) -/
  gated  : Bool := false
  /-- tile cycles of the instructions executed here since the running task started (R66) -/
  cycles : Nat := 0
  deriving DecidableEq, Repr

/-- A cluster: barrier arrivals, its spare SRAM bank (R257) and the SRAM bank the next field test reads (R426). -/
structure Cluster where
  arrived   : BitVec 8 := 0
  spareFor  : Option Nat := none
  copying   : Bool := false
  spareLost : Bool := false
  testBank  : Nat := 0
  /-- every tile of the cluster is retired (R257) -/
  lost      : Bool := false
  rr        : Nat := 0
  deriving DecidableEq, Repr

/-- A save record in the pre-emption reserve (R266, R267). -/
structure SaveRecord where
  tag    : BitVec 32
  tile   : Tile
  posted : List Posted
  /-- the ended attempt that held it, whose fences are outstanding (R64, R271) -/
  dead   : Option Nat := none
  deriving DecidableEq, Repr

/-! ## Jobs and queues (R38-R74) -/

inductive QState where
  | stopped | running | draining
  deriving DecidableEq, Repr

/-- A completion record (R69). -/
structure CompRec where
  tag      : BitVec 32
  status   : BitVec 8
  notes    : BitVec 8
  attempts : BitVec 8
  path     : BitVec 8
  commit   : BitVec 32
  due      : BitVec 32
  cycles   : BitVec 64
  cookie   : BitVec 32
  deriving DecidableEq, Repr

structure Queue where
  state   : QState := .stopped
  gen     : BitVec 4 := 0
  nextSeq : Nat := 1
  records : List CompRec := []
  deriving DecidableEq, Repr

/-- The job descriptor of R44, every field as it stands in the 64 bytes. -/
structure JobDesc where
  program   : BitVec 64 := 0
  parts     : BitVec 64 := 0
  args      : BitVec 64 := 0
  release   : BitVec 32 := 0
  deadline  : BitVec 32 := 0
  stream    : BitVec 32 := 0
  cookie    : BitVec 32 := 0
  flags     : BitVec 16 := 0
  pathAllow : BitVec 16 := 0
  reserved  : BitVec 160 := 0
  deriving DecidableEq, Repr

/-- A certificate section (R53). -/
structure Section where
  die      : Nat
  shape    : Nat
  tilesNom : Nat
  tilesMin : Nat
  w        : Nat
  cisIn    : Nat
  cisOut   : Nat
  fabIn    : List Nat
  fabOut   : List Nat
  energy   : Nat
  deriving DecidableEq, Repr

/-- A task entry (R55). -/
structure TaskEntry where
  budget  : Nat
  section_ : Nat
  tflags  : BitVec 8
  deriving DecidableEq, Repr

/-- A heavy-phase entry (R406). -/
structure Phase where
  section_ : Nat
  regions : BitVec 8
  step    : Nat
  start   : Nat
  length  : Nat
  rsv     : Nat
  deriving DecidableEq, Repr

/-- A cost certificate (R52-R55, R406). -/
structure Cert where
  paths    : BitVec 16 := 0
  uses     : BitVec 32 := 0
  sections : List Section := []
  tasks    : List TaskEntry := []
  phases   : List Phase := []
  deriving DecidableEq, Repr

/-- A schedule entry (R242). -/
structure SchedEntry where
  tensor : Nat
  plane  : Nat
  path   : Nat
  task   : Nat
  dest   : BitVec 32
  issue  : Nat
  need   : Nat
  slack  : Nat
  deriving DecidableEq, Repr

/-- The parts of a program image that the device reads (R241): certificate, tensor table, schedule. -/
structure Program where
  cert    : Cert := {}
  tensors : List (Nat × Bool) := []
  sched   : List SchedEntry := []
  deriving DecidableEq, Repr

/-- A service job (R146, R234). -/
inductive Service where
  | exportStream (number : Nat) (image : Nat) (target : Nat)
  | importStream (number : Nat) (image : Nat) (partition : Nat) (queue : Nat)
  | load (tensor : Nat) (object : Nat)
  | store (tensor : Nat) (object : Nat)
  | fill (tensor : Nat) (addr : Nat)
  | migrateBasin (tensor : Nat) (mask : BitVec 64) (offset : Nat)
  | migrateCistern (tensor : Nat)
  | migrateAquifer (tensor : Nat) (pos : Nat) (addr : Nat)
  deriving DecidableEq, Repr

/-- One submission waiting for the Sluice's decision (R49, R60). -/
structure Arrival where
  q       : Nat
  session : Nat
  sgen    : BitVec 8
  slot    : Nat
  desc    : JobDesc
  service : Option Service := none
  deriving DecidableEq, Repr

/-- A run of consecutive reserved slots (R58, R59): first slot and count. -/
structure Run where
  first : Nat
  len   : Nat
  deriving DecidableEq, Repr

/-- Where a job is in its life. -/
inductive JobPhase where
  | waiting      -- accepted, before its first slot or between attempts
  | held         -- a chunk held by its SWAPPED stream (R149)
  | running
  | saving       -- inside a save slot (R269)
  | gap          -- saved, between two runs
  | restoring    -- inside a restore slot (R270)
  | ending       -- last task ended, commit fences outstanding (R62)
  | committed    -- commit instant passed, outputs not yet published
  | published    -- published or released, completion record not yet placed
  deriving DecidableEq, Repr

/-- A task of the running attempt. -/
structure TaskRun where
  tile    : Option Nat := none
  ready   : Bool := false
  ended   : Bool := false
  /-- tile cycles of the instructions it has issued (R100) -/
  cycles  : Nat := 0
  /-- tile cycles it has held its tile up to `since` (R66) -/
  held    : Nat := 0
  /-- the instant from which it holds its tile without a break; none while it does not -/
  since   : Option Nat := none
  deriving DecidableEq, Repr

/-- A copy of a schedule entry (R243). -/
structure CopyRun where
  entry   : Nat
  /-- bytes moved by the descriptors that had run when a pre-emption stopped it (R243) -/
  moved   : Nat := 0
  arrived : Bool := false
  faulted : Bool := false
  deriving DecidableEq, Repr

/-- A reserved page-table entry of a job (R173, R177): its role, row and sequence. -/
structure Resv where
  role  : Nat
  row   : Nat
  seq   : Nat
  entry : Nat
  deriving DecidableEq, Repr

/-- A heap extent. -/
structure Extent where
  addr : Nat
  size : Nat
  deriving DecidableEq, Repr

/-- What the job appends to one sequence (R173). -/
structure SeqUse where
  seq    : Nat
  append : Bool
  deriving DecidableEq, Repr

/-- What a job charges to the ledgers of R57 in each of its working slots; fabric lists by port. -/
structure Charge where
  dieIn  : Nat × Nat := (0, 0)
  dieOut : Nat × Nat := (0, 0)
  cis    : Nat := 0
  fabIn  : List Nat := [0, 0, 0]
  fabOut : List Nat := [0, 0, 0]
  deriving DecidableEq, Repr

/-- Traffic of a job in a slot: the slot, and bytes moved by flow (R57). A flow is 16 x section + 0 CIS_IN, 1 CIS_OUT, 4 + m FAB_IN
of position m, 8 + m FAB_OUT. -/
structure Meter where
  slot : Nat := 0
  used : Tbl Nat := []
  deriving DecidableEq, Repr

/-- A switch to a cheaper path in the present tile cycle: its job time, the plane left and that plane's copies (R247). -/
structure Switched where
  at_    : Nat
  plane  : Nat
  copies : List CopyRun
  deriving DecidableEq, Repr

/-- An accepted, uncompleted job. -/
structure Job where
  tag      : BitVec 32
  q        : Nat
  session  : Nat
  sgen     : BitVec 8
  desc     : JobDesc
  service  : Option Service := none
  prog     : Program := {}
  /-- partitions held -/
  parts    : List Nat := []
  charge   : Charge := {}
  /-- charged energy over all its reserved slots, uJ (R57, R146) -/
  energy   : Nat := 0
  release  : Nat := 0
  deadline : Nat := 0
  runs     : List Run := []
  due      : Nat := 0
  len      : Nat := 0
  phase    : JobPhase := .waiting
  attempts : Nat := 1
  rerun    : Bool := false
  failed   : Bool := false      -- its present attempt has failed and awaits the re-plan of R418
  retried  : Bool := false
  replan   : Bool := false      -- a declared fault calls for a re-plan (R72)
  atRisk   : Bool := false      -- reported at risk (NOTES bit 3)
  risk     : Bool := false      -- at risk now (R72, R256, R257)
  revised  : Bool := false
  recomp   : Bool := false      -- key-value recompute occurs (NOTES bit 1, R183)
  masked   : Bool := false      -- runs on a cheaper path that masks dropped rows (R183)
  path     : Nat := 0
  cycles   : Nat := 0
  commit   : Option Nat := none
  status   : Option (BitVec 8) := none
  tasks    : List TaskRun := []
  copies   : List CopyRun := []
  bound    : List (Nat × Nat) := []   -- tensor index and version bound at start (R235)
  staging  : List (Nat × Extent) := []
  preimage : Option Extent := none
  uses     : List SeqUse := []
  table    : Option Nat := none
  new      : Nat := 0
  resv     : List Resv := []
  pins     : List Nat := []
  targets  : List Nat := []           -- an import's target tiles (R150)
  started  : Nat := 0                 -- instant at which the present attempt started
  extended : Nat := 0
  /-- bytes its present attempt has written to own Cistern, private to it until publish (R62) -/
  staged   : Tbl (BitVec 8) := []
  meter    : Meter := {}
  /-- job time up to `ranFrom`, and the instant from which it runs on (R242) -/
  jobTime  : Nat := 0
  ranFrom  : Option Nat := none
  switched : Option Switched := none
  /-- image bytes that a running IMPORT has read (R150) -/
  body     : Bytes := []
  deriving DecidableEq, Repr

/-- What an ended attempt holds until its channels have stopped and every fence has returned (R64, R180, R236, R271). -/
structure Dying where
  id      : Nat
  tag     : BitVec 32
  /-- channels on which a descriptor of the attempt runs to its end -/
  running : List Nat
  /-- fences outstanding: channel and target -/
  waits   : List (Nat × Nat)
  staging : List (Nat × Extent)
  /-- its writes to own Cistern and its bindings, for the descriptors that run on -/
  staged  : Tbl (BitVec 8)
  bound   : List (Nat × Nat)
  /-- the pre-emption image and the reserved page-table entries of a job that has ended -/
  image   : Option Extent
  resv    : List Nat
  deriving DecidableEq, Repr

structure Sluice where
  jobs     : List Job := []
  dying    : List Dying := []
  /-- number of the next ended attempt -/
  nextDying : Nat := 0
  arrivals : List Arrival := []
  /-- caps that bind admission, latched at a slot boundary (R400): sustained, peak -/
  caps     : Nat × Nat := (150, 280)
  deriving DecidableEq, Repr

/-! ## Partitions and function reset (R259-R277) -/

inductive PState where
  | stopped | running | draining | resetting
  deriving DecidableEq, Repr

structure Partition where
  state : PState := .stopped
  first : Nat := 0
  tiles : Nat := 8
  deriving DecidableEq, Repr

/-! ## Streams (R130-R154) -/

inductive SState where
  | free | open_ | swapped | moved | lost
  deriving DecidableEq, Repr

/-- A block that awaits relocation: its number, the retired tile, and whether it comes from the rollback image (R153). -/
structure Move where
  block : Nat
  old   : Nat
  image : Bool
  deriving DecidableEq, Repr

structure Stream where
  state     : SState := .free
  partition : Nat := 0
  queue     : Nat := 0
  rows      : Nat := 0
  blocks    : List Nat := []
  nblocks   : Nat := 0
  chunks    : BitVec 32 := 0
  target    : Nat := 0
  /-- blocks that await relocation (R153) -/
  moving    : List Move := []
  deriving DecidableEq, Repr

structure Streams where
  gens     : Tbl (BitVec 8) := []
  recs     : Tbl Stream := []
  /-- rollback images by tile: the block's rows raw (R144) -/
  rollback : Tbl (List (BitVec 48)) := []
  /-- export buffers by tile (R144, R147) -/
  export_  : Tbl (List (BitVec 48)) := []
  deriving DecidableEq, Repr

/-! ## The page store (R160-R193) -/

inductive EState where
  | free | reserved | filling | sealed | dropped
  deriving DecidableEq, Repr

/-- A page-table entry (R171). -/
structure Entry where
  state    : EState := .free
  staging  : Bool := false
  gen      : BitVec 8 := 0
  cls      : Nat := 0
  ref      : Nat := 0
  pins     : Nat := 0
  strips   : Nat := 0
  lastRead : BitVec 32 := 0
  addr     : Nat := 0
  deriving DecidableEq, Repr

/-- A row of a block table (R173): the entry and the strips this sequence counts in it. -/
structure BRow where
  entry  : Nat
  strips : Nat
  deriving DecidableEq, Repr

/-- A sequence (R164). Page entries are named by pool x 2^20 + INDEX. -/
structure Seq where
  pool   : Nat := 0
  owner  : Nat := 0
  cls    : Nat := 0
  length : Nat := 0
  rows   : List BRow := []
  stage  : Option Nat := none
  area   : Nat := 0
  deriving DecidableEq, Repr

structure Branch where
  handle : BitVec 32
  parent : BitVec 16
  cls    : Nat
  forkN  : Nat
  deriving DecidableEq, Repr

/-- A branch table (R186). -/
structure Table where
  pool     : Nat := 0
  owner    : Nat := 0
  root     : BitVec 32 := 0
  max      : Nat := 0
  area     : Nat := 0
  branches : List (Nat × Branch) := []
  deriving DecidableEq, Repr

structure PageStore where
  gens    : Tbl (BitVec 8) := []
  seqs    : List (Nat × Seq) := []
  tables  : List (Nat × Table) := []
  entries : Tbl Entry := []
  /-- reserved entries of ended jobs, to be reclaimed at the end of the cycle (R172, R181) -/
  ended   : List Nat := []
  /-- GEN that every entry of a pool has gained by the reclaims of the whole pool; an entry holds what it has beyond it (R172) -/
  base    : Tbl (BitVec 8) := []
  /-- the cycle is not at its end: nothing is reclaimed yet (R181) -/
  cycle   : Bool := false
  deriving DecidableEq, Repr

/-! ## The tensor directory and the model store (R229-R258) -/

inductive TState where
  | free | empty | valid | damaged
  deriving DecidableEq, Repr

inductive Home where
  | none | basin | cistern | aquifer
  deriving DecidableEq, Repr

/-- A descriptor (R231). -/
structure Tensor where
  state      : TState := .free
  kind       : Bool := false
  layout     : BitVec 8 := 0
  home       : Home := .none
  peer       : Nat := 0
  size       : Nat := 0
  stored     : Nat := 0
  addr       : Nat := 0
  compressed : Bool := false
  codes      : Bytes := []
  object     : Option Nat := Option.none
  version    : Nat := 0
  clusters   : BitVec 64 := 0
  offset     : Nat := 0
  /-- the image that a MIGRATE wrote to the peer of an AQUIFER home (R252) -/
  remote     : Bytes := []
  deriving DecidableEq, Repr

/-- A home that a superseded version keeps while jobs are bound to it (R235). -/
structure OldHome where
  tensor  : Nat
  version : Nat
  extent  : Extent
  /-- bytes of its image -/
  stored  : Nat
  aquifer : Bool
  /-- the image at an AQUIFER home -/
  remote  : Bytes := []
  deriving DecidableEq, Repr

/-- An object of the model store (R254). -/
structure StoreObject where
  kind   : Bool
  size   : Nat
  stored : Nat
  stamp  : BitVec 32
  digest : Bytes
  image  : Bytes
  deriving DecidableEq, Repr

structure Directory where
  gens    : Tbl (BitVec 8) := []
  tensors : Tbl Tensor := []
  old     : List OldHome := []
  /-- the model store's objects by number (R251) -/
  store   : List (Nat × StoreObject) := []
  /-- state of each Cistern subchannel: 0 in service, 1 evacuating, 2 retired (R256) -/
  sub     : Tbl (BitVec 8) := []
  /-- poisoned 64-byte lines of own Cistern by line number (R228) -/
  poison  : List Nat := []
  deriving DecidableEq, Repr

/-! ## The map and the Selector (R194-R221) -/

/-- An apply under way (R198): the brick index of E + 1, and the bricks it changes; none = every brick. -/
structure Apply where
  index   : List (Nat × Nat)
  changed : Option (List Nat)
  deriving DecidableEq, Repr

structure MapState where
  running : Bool := false
  epoch   : BitVec 32 := 0
  heads   : Tbl (BitVec 32) := []
  /-- brick index of the present epoch: brick to slot; unlisted bricks are unknown -/
  index   : List (Nat × Nat) := []
  apply   : Option Apply := none
  /-- slots, and the index buffer, that wait for the jobs running at a flip (R199) -/
  waiting : List (List Nat × Nat × List (BitVec 32)) := []
  /-- change log: epoch and the bricks it changed, newest first; `none` = every brick (R200, R201) -/
  log     : List (Nat × Option (List Nat)) := []
  /-- the slot at whose boundary the apply under way was last judged (R198) -/
  judged  : Nat := 0
  deriving DecidableEq, Repr

/-- A box (R210). -/
structure Box where
  x0 : Nat
  y0 : Nat
  z0 : Nat
  x1 : Nat
  y1 : Nat
  z1 : Nat
  deriving DecidableEq, Repr

/-- An eligible candidate record, kept with its boxes and payload copy after close (R210, R217). -/
structure Cand where
  id      : BitVec 32
  cost    : BitVec 32
  epoch   : BitVec 32
  segs    : Nat
  payload : Nat
  bytes   : Nat
  boxAddr : Nat
  boxes   : List Box := []
  copy    : Nat := 0
  gone    : Bool := false
  deriving DecidableEq, Repr

inductive CState where
  | stopped | idle | collecting | closed
  deriving DecidableEq, Repr

structure SelChannel where
  state     : CState := .stopped
  round     : BitVec 32 := 0
  published : List Nat := []
  cands     : List Cand := []
  kept      : List Cand := []
  /-- the kept candidates of the last released round, gated again under WATCH (R219) -/
  watched   : List Cand := []
  held      : List (Nat × Bytes) := []
  /-- the round is closed and its copies are under way (R212) -/
  closing   : Bool := false
  closeAt   : Option Nat := none
  closedAt  : Nat := 0
  output    : BitVec 32 := 0
  /-- rank of the released candidate while WATCH applies (R219) -/
  released  : Option Nat := none
  deriving DecidableEq, Repr

/-! ## Wellhead (R278-R307, R430-R431) -/

/-- A region-of-interest rectangle as taken, with its status byte (R286, R303). -/
structure RoiRect where
  x0 : Nat
  y0 : Nat
  w  : Nat
  h  : Nat
  masked : Bool
  clipped : Bool
  deriving DecidableEq, Repr

/-- The camera frame being received. -/
structure CamFrame where
  number    : BitVec 32
  stamp     : BitVec 32
  dropped   : Bool
  linkError : Bool := false
  lines     : List (List Nat) := []
  rois      : List RoiRect := []
  deriving DecidableEq, Repr

structure Camera where
  /-- 0 STOPPED, 1 WAITING, 2 RUNNING -/
  state     : BitVec 8 := 0
  frameNo   : BitVec 32 := 0
  handed    : BitVec 32 := 0
  frame     : Option CamFrame := none
  /-- slot contents that wait for their handover, and whether they are a good batch (R293, R304) -/
  ready     : Option (Bytes × Bool) := none
  lastGood  : Option Bytes := none
  signature : Option (BitVec 32) := none
  repeats   : BitVec 8 := 0
  /-- the last frame was marked FROZEN (R431) -/
  frozen    : Bool := false
  deriving DecidableEq, Repr

/-- A settled or waiting sample of a sample-stream batch (R293, R303). -/
structure Sample where
  index   : BitVec 32
  src     : Nat
  bytes   : Nat
  params  : Nat
  /-- its 32-byte augmentation record as read when it was taken; empty where it has none (R299) -/
  aug     : Bytes := []
  settled : Bool := false
  reason  : Nat := 0
  status  : BitVec 8 := 0
  len     : Nat := 0
  data    : Bytes := []
  deriving DecidableEq, Repr

structure SampleStream where
  running : Bool := false
  head    : Nat := 0
  handed  : BitVec 32 := 0
  batch   : List Sample := []
  deriving DecidableEq, Repr

/-- A decoder, or the tokenizer, at work on sample `i` of stream `n` since `since` (R292). -/
structure Decoder where
  stream : Nat
  sample : Nat
  since  : Nat
  deriving DecidableEq, Repr

structure Wellhead where
  links    : Tbl Bool := []
  cams     : Tbl Camera := []
  streams  : Tbl SampleStream := []
  decoders : Tbl (Option Decoder) := []
  dict     : List Bytes := []
  loaded   : Bool := false
  deriving DecidableEq, Repr

/-! ## Fusion (R308-R321) -/

structure Fusion where
  running : Bool := false
  store   : List (Nat × Bytes) := []
  status  : Tbl (BitVec 8) := []
  cycle   : BitVec 32 := 0
  first   : Bool := true
  lastAt  : Option Nat := none
  /-- a reset has wiped the contributors: the next cycle has empty masks (R276) -/
  wiped   : Bool := false
  deriving DecidableEq, Repr

/-! ## The sparse solver (R322-R341) -/

inductive SlotState where
  | empty | loading | loaded | rejected
  deriving DecidableEq, Repr

/-- A schedule slot with the tensor bytes it holds (R328, R329). -/
structure SchedSlot where
  state   : SlotState := .empty
  image   : Bytes := []
  deriving DecidableEq, Repr

/-- The held iterate of a warm start (R336). -/
structure Iterate where
  fingerprint : BitVec 64
  values      : List (BitVec 64)
  deriving DecidableEq, Repr

/-- An output of the solver (R338). -/
structure SolverOut where
  cycle       : BitVec 32
  status      : BitVec 8
  flags       : BitVec 8
  regCount    : BitVec 16
  fingerprint : BitVec 64
  stamp       : BitVec 32
  refOutput   : BitVec 32
  x           : List (BitVec 64)
  deriving DecidableEq, Repr

structure Solver where
  running   : Bool := false
  slots     : Tbl SchedSlot := []
  record    : Option Bytes := none
  iterate   : Option Iterate := none
  prevValid : Bool := false
  cycle     : BitVec 32 := 0
  first     : Bool := true
  /-- a solve in progress: its output and the iterate it leaves -/
  solving   : Option (SolverOut × Option Iterate) := none
  /-- the output buffers by number c mod 2, and the one that readers see (R338) -/
  buffers   : List (Nat × SolverOut) := []
  visible   : Option Nat := none
  /-- CYCLE: number of the last cycle output (R327) -/
  outCycle  : BitVec 32 := 0
  /-- output instant of the solve in progress, and of the visible output -/
  outputAt  : Nat := 0
  visibleAt : Nat := 0
  /-- consecutive invalid outputs, and whether they have raised SOLVER_INVALID (R339) -/
  invalid   : Nat := 0
  warned    : Bool := false
  /-- the Selector output record delivered last (R332) -/
  ref       : Option Bytes := none
  lastAt    : Option Nat := none
  deriving DecidableEq, Repr

/-! ## The Pump engine (R342-R364) -/

inductive AState where
  | disabled | ramping | running | fault
  deriving DecidableEq, Repr

/-- A block of a stage (R355): its exponent and the mantissas of its values, the output first. -/
structure Block where
  e : Int := -128
  m : List Int := []
  deriving DecidableEq, Repr

/-- What an axis held before its present sample, to be held again where the slot is NOT_READY (R360, R362). -/
structure AxisBack where
  state   : AState
  invalid : Nat
  stages  : List Block
  ramp    : BitVec 64
  /-- the sample completed the ramp (R359) -/
  ramped  : Bool
  deriving DecidableEq, Repr

structure Axis where
  state   : AState := .disabled
  status  : BitVec 8 := 1
  /-- the last set-point launched (R346) -/
  set     : BitVec 32 := 0
  invalid : Nat := 0
  /-- stage blocks 0-7 -/
  stages  : List Block := []
  ramp    : BitVec 64 := 0
  /-- an enable (true) or disable (false) that takes effect at the next sample (R359) -/
  pending : Option Bool := none
  back    : Option AxisBack := none
  tstate  : SlotState := .empty
  tables  : Bytes := []
  deriving DecidableEq, Repr

structure Pump where
  running  : Bool := false
  feedback : List (Nat × Bytes) := []
  cmd      : Option Bytes := none
  samples  : Tbl (BitVec 64) := []
  lastAt   : Tbl Nat := []
  axes     : Tbl Axis := []
  /-- frames computed and not yet handed to a launch queue, by group (R360) -/
  frames   : List (Nat × SetFrame) := []
  /-- safe state was entered since the engine's start: frames carry SAFE until it stops (R363) -/
  safe     : Bool := false
  deriving DecidableEq, Repr

/-! ## Power (R397-R414) -/

inductive Standby where
  | active | entering | standby | waking
  deriving DecidableEq, Repr

structure Power where
  on       : BitVec 32 := 0x007fffff
  /-- domains being switched on (R398) -/
  rising   : BitVec 32 := 0
  /-- off since a coolant-loss stop, until R411 -/
  held     : Bool := false
  standby  : Standby := .active
  /-- woken from standby, with the stamp of the wake: the next session opened gets STANDBY_WAKE (R413, R476) -/
  wakeNote : Option (BitVec 32) := none
  samples  : List Nat := []
  inputV   : BitVec 32 := 48000
  energy   : Nat := 0
  bPower   : Nat := 0
  overJobs : List (BitVec 32) := []
  uncoreX  : Bool := false
  droop    : Tbl Nat := []
  /-- microseconds since a region's droop rate last fell, below 10 (R404) -/
  droopRem : Tbl Nat := []
  alarms   : Tbl Bool := []
  temps    : List (BitVec 32) := []
  thermal  : Tbl Nat := []
  /-- regions whose exact thermal rate is above 0 (R409) -/
  hot      : Tbl Bool := []
  /-- bubble rate 1 on every tile after a coolant loss or a trip (R410) -/
  stopped  : Bool := false
  /-- 48 V input good, rails in regulation -/
  powered  : Bool := true
  /-- regulator retry of R496 still to come -/
  retry    : Bool := false
  /-- a self-check has failed and the input has not been cycled since (R496) -/
  failed   : Bool := false
  prearm   : List (BitVec 32 × Nat) := []
  deriving DecidableEq, Repr

/-! ## The safety island (R415-R444) -/

inductive SafeState where
  | normal | safe | safeFault
  deriving DecidableEq, Repr

/-- A field-test part in progress (R426, R427): the checker of a logic part, the part, the test number. -/
structure FieldTest where
  checker : Option Nat
  part    : Nat
  number  : Nat
  retest  : Bool
  deriving DecidableEq, Repr

/-- A tile awaiting re-test (R427): the tile, its first checker, the number of the test, the instant of the disagreement. -/
structure Suspect where
  subject : Nat
  checker : Nat
  number  : Nat
  since   : Nat
  deriving DecidableEq, Repr

structure Island where
  state     : SafeState := .safe
  causes    : BitVec 32 := 1
  first     : BitVec 8 := 0
  detail    : BitVec 32 := 0
  entry     : BitVec 32 := 0
  /-- instant of entry (R442) -/
  entryAt   : Nat := 0
  /-- instant from which the repeat interval of the safety frame runs (R439) -/
  frameAt   : Nat := 0
  seq       : BitVec 16 := 1
  lost      : List Nat := []
  /-- first safety frame of cause RESET still to be sent when a port comes up (R443) -/
  unsent    : Bool := true
  hostHeard : Nat := 0
  /-- counted-jobs stamps of each unit's failure events, newest first (R419) -/
  history   : List (BitVec 32 × List Nat) := []
  retired   : List (BitVec 32 × BitVec 32) := []
  /-- units whose entry may not stand in flash yet, with the instant of their retirement (R421, R499) -/
  recent    : List (BitVec 32 × Nat) := []
  /-- units retired with the table full: they stand in no entry (R420, R421) -/
  extra     : List (BitVec 32) := []
  /-- SRAM re-tests due, one a word: the bank's UNIT, and the ended attempt whose staging must be released first (R64, R416) -/
  retests   : List (BitVec 32 × Option Nat) := []
  tests     : List (Nat × FieldTest) := []
  /-- tiles awaiting re-test, oldest first (R427) -/
  suspects  : List Suspect := []
  /-- tiles to test ahead of every other (R424) and whether their pair's event was permanent -/
  urgent    : List (Nat × Bool) := []
  /-- tiles of a pair with a permanent event whose test passed and that await their partner's (R424) -/
  pairPass  : List Nat := []
  /-- fixed-unit codes of I/O-die functions whose next item in process is dropped (R418) -/
  spoil     : List Nat := []
  testNo    : Nat := 0
  lastTest  : Tbl Nat := []
  /-- the visit of the pass: its tile, and the part that comes next there (R426) -/
  visit     : Nat := 0
  part      : Nat := 0
  passFrom  : Nat := 0
  lastPass  : BitVec 64 := 0
  passTime  : BitVec 32 := 0
  deriving DecidableEq, Repr

/-! ## Boot, identity and life cycle (R445-R461) -/

/-- Manufactured identity (R483 0x1000). -/
structure Identity where
  m128   : Bool := false
  serial : BitVec 64 := 1
  board  : BitVec 16 := 0
  macs   : List (BitVec 64) := [0, 0, 0, 0, 0, 0, 0]
  deriving DecidableEq, Repr

/-- What the device knows of a firmware image (R445). -/
structure FwInfo where
  version : BitVec 32 := 1
  svn     : BitVec 16 := 0
  keySlot : BitVec 8 := 0
  diag    : Bool := false
  digest  : Bytes := []
  deriving DecidableEq, Repr

/-- The firmware image area of flash (R445): the image shipped, which Kilwiond signed, or bytes written since. -/
inductive ImageArea where
  | shipped (info : FwInfo)
  | bytes (image : Bytes)
  deriving DecidableEq, Repr

inductive DevState where
  | off | held | boot | recovery | ready
  deriving DecidableEq, Repr

structure Update where
  owner   : Option (Nat × BitVec 8) := none
  status  : BitVec 8 := 0
  written : Nat := 0
  reason  : BitVec 8 := 0
  deriving DecidableEq, Repr

structure Boot where
  state     : DevState := .ready
  bootTime  : BitVec 32 := 0
  cause     : BitVec 8 := 0
  resets    : BitVec 32 := 0
  ident     : Identity := {}
  keyDigest : List Bytes := []
  revoked   : BitVec 4 := 0
  minSvn    : Nat := 0
  lifecycle : BitVec 8 := 2
  pendingLc : Option (BitVec 8) := none
  mediaEpoch : Nat := 0
  area      : ImageArea := .shipped {}
  /-- false from BEGIN until a COMMIT ends DONE: the area holds no valid image (R453) -/
  areaValid : Bool := true
  running   : FwInfo := {}
  reason    : BitVec 8 := 0
  bootRom   : BitVec 32 := 1
  update    : Update := {}
  nonce     : Option Bytes := none
  debugOpen : Bool := false
  challenge : Option Bytes := none
  keyState  : BitVec 8 := 1
  /-- the identity key: its private part, 0 where there is none, and its public point (R460) -/
  idSecret  : Nat := 1
  idPoint   : Nat × Nat :=
    (0x00c6858e06b70404e9cd9e3ecb662395b4429c648139053fb521f828af606b4d3dbaa14b5e77efe75928fe1dc127a2ffa8de3348b3c1856a429bf97e7e31c2e5bd66,
     0x011839296a789a3bc0045c8a5fb42c7d1bd998f54449579b446817afbd17273e662c97ee72995ef42640c550b9013fad0761353c7086a272c24088be94769fd16650)
  quoteState : BitVec 8 := 0
  quoteNonce : Bytes := []
  quote     : Bytes := []
  deriving DecidableEq, Repr

/-! ## Ixide sessions (R462-R479) -/

/-- A notify frame (R476): its code, stamp, data, and the job whose record it carries. -/
structure Notify where
  code  : Nat
  stamp : BitVec 32
  data  : Bytes
  job   : Option (BitVec 32) := none
  deriving DecidableEq, Repr

/-- A sent and unacknowledged notify frame (R478). -/
structure Unacked where
  seq     : BitVec 32
  retries : Nat
  sentAt  : Nat
  frame   : Bytes
  deriving DecidableEq, Repr

/-- The answer of the operation in progress: an abort code, the data, TOTAL (R470). -/
structure Reply where
  abort : BitVec 32 := 0
  data  : Bytes := []
  total : Nat := 0
  deriving DecidableEq, Repr

structure Session where
  open_    : Bool := false
  gen      : BitVec 8 := 0
  client   : BitVec 8 := 0
  port     : Fin 4 := 0
  peer     : Bytes := []
  /-- source of the request being answered (R462) -/
  source   : Bytes := []
  last     : BitVec 32 := 0
  /-- a request is executing and its answer waits (R468) -/
  busy     : Bool := false
  cached   : Bytes := []
  /-- the answer of the last operation -/
  reply    : Reply := {}
  mask     : BitVec 256 := 0
  heard    : Nat := 0
  nseq     : BitVec 32 := 0
  queue    : List Notify := []
  unacked  : List Unacked := []
  lost     : BitVec 32 := 0
  lostFlag : Bool := false
  snapshot : Option (Nat × Bytes) := none
  transfer : Option (Nat × Bytes) := none
  query    : Bytes := []
  entry    : BitVec 16 := 0
  describe : Bytes := []
  deriving DecidableEq, Repr

/-! ## Pins (R493) -/

structure Pins where
  safeN  : Bool := false
  faultN : Bool := true
  pwrOk  : Bool := true
  coolOk : Bool := true
  /-- COOL_OK has read 1 for 1 s (R411) -/
  coolQ  : Bool := true
  resetN : Bool := true
  pwrEn  : Bool := true
  deriving DecidableEq, Repr

/-! ## The whole machine -/

structure State where
  /-- commands that wait, first in, first out (log 1) -/
  pending  : List Instr := []
  /-- index of the next free value (log 2) -/
  freeCtr  : Nat := 0
  /-- frames that left the module, oldest first (log 3) -/
  out      : List OutFrame := []
  clock    : Clock := {}
  as_      : AsState := {}
  pps      : Pps := {}
  timers   : Tbl Timer := []
  t1       : Tbl T1Port := []
  fabric   : Tbl FabricPort := []
  channels : Tbl Channel := []
  /-- RW and RWS objects by index x 256 + subindex; an unlisted object holds its default (R483) -/
  dict     : Tbl Bytes := []
  /-- U64 counters by index x 256 + subindex (R484) -/
  counters : Tbl (BitVec 64) := []
  /-- 0x2003:02 (R482) -/
  events   : BitVec 32 := 1
  /-- the tick in which bits of it were set last, and those bits: a clear in that tick loses to the set (R12) -/
  eventsAt : Nat := 0
  eventsNew : BitVec 32 := 0
  sessions : Tbl Session := []
  queues   : Tbl Queue := []
  sluice   : Sluice := {}
  parts    : Tbl Partition := []
  /-- 0x2010:02 (R274) -/
  resetting : BitVec 32 := 0
  /-- internal events raised and not taken (R22, R100) -/
  raised   : List Raised := []
  tiles    : Tbl Tile := []
  clusters : Tbl Cluster := []
  /-- save records in the pre-emption reserve, by tile (R267) -/
  reserve  : List (Nat × SaveRecord) := []
  streams  : Streams := {}
  pages    : PageStore := {}
  dir      : Directory := {}
  mem      : Memory := []
  map      : MapState := {}
  selector : Tbl SelChannel := []
  wellhead : Wellhead := {}
  fusion   : Fusion := {}
  solver   : Solver := {}
  pump     : Pump := {}
  power    : Power := {}
  island   : Island := {}
  boot     : Boot := {}
  pins     : Pins := {}
  deriving DecidableEq, Repr

/-- The machine right after a power-on reset has reached READY (R443, R449, R483; logs 4, 6-9). -/
def State.reset : State := {}

/-- Reasons for which the machine stops with a fault. No command of the table stops it: every rule of the spec
names the next state (safe: nothing can be proved from a stop that never comes). -/
inductive Fault where
  /-- raised by no meaning; kept so that the type is inhabited by a named reason (safe) -/
  | none
  deriving DecidableEq, Repr

/-- Reasons for which a command has no meaning. -/
inductive Refusal where
  /-- raised by an arm of `exec` whose meaning is not written (safe) -/
  | notModelled (mnemonic : String)
  deriving DecidableEq, Repr

end Sys2Proof.Machine
end

