-- ==== Sys2Proof/Machine/Objects.lean ====
section
/-!
DEFINITION. Sys2Proof/Machine/Objects.lean: the object dictionary's index map (R483, R484) with types, access codes and
defaults, and the read of a configured value.
-/

namespace Sys2Proof.Machine

/-- Dictionary types (R10). -/
inductive OTy where
  | bool | u8 | u16 | u32 | u64 | i8 | i16 | i32 | i64 | f32 | f64 | str | blob (max : Nat)
  deriving DecidableEq, Repr

/-- Access codes (R11). -/
inductive OAcc where
  | ro | rw | wo | w1c | rws
  deriving DecidableEq, Repr

/-- Bytes of a fixed-width type; the longest value of a STR or BLOB (R10, R479). -/
def otyLen : OTy → Nat
  | .bool | .u8 | .i8 => 1
  | .u16 | .i16 => 2
  | .u32 | .i32 | .f32 => 4
  | .u64 | .i64 | .f64 => 8
  | .str => 64
  | .blob n => n

/-- TYPE code of DESCRIBE (R485). -/
def otyCode : OTy → Nat
  | .bool => 1 | .u8 => 2 | .u16 => 3 | .u32 => 4 | .u64 => 5 | .i8 => 6 | .i16 => 7 | .i32 => 8 | .i64 => 9
  | .f32 => 10 | .f64 => 11 | .str => 12 | .blob _ => 13

/-- ACCESS code of DESCRIBE (R485). -/
def oaccCode : OAcc → Nat
  | .ro => 1 | .rw => 2 | .wo => 3 | .w1c => 4 | .rws => 5

/-- Is the type STR or BLOB? -/
def otyVar : OTy → Bool
  | .str => true
  | .blob _ => true
  | _ => false

/-- A family of indices base .. base + count - 1 with its subindices: number, type, access, default. -/
structure ObjFam where
  base  : Nat
  count : Nat
  subs  : List (Nat × OTy × OAcc × Nat)
  deriving DecidableEq, Repr

/-- The objects 0x1000 to 0x11ff (R483). -/
def objsIdentity : List ObjFam := [
  ⟨0x1000, 1, [
    (0x01, .str, .ro, 0), (0x02, .str, .ro, 0), (0x03, .u8, .ro, 0), (0x04, .u64, .ro, 0), (0x05, .u16, .ro, 0),
    (0x06, .u64, .ro, 0), (0x07, .u64, .ro, 0), (0x08, .u64, .ro, 0), (0x09, .u64, .ro, 0), (0x0a, .u64, .ro, 0),
    (0x0b, .u64, .ro, 0), (0x0c, .u64, .ro, 0), (0x0d, .u64, .ro, 0)]⟩,
  ⟨0x1020, 1, [
    (0x01, .u8, .rws, 0)]⟩,
  ⟨0x1100, 1, [
    (0x01, .u8, .ro, 0), (0x02, .u16, .rw, 1000), (0x03, .blob 512, .rw, 0), (0x04, .u32, .rw, 1000)]⟩,
  ⟨0x1110, 4, [
    (0x01, .u16, .rw, 0x0fff), (0x02, .blob 32, .rw, 0)]⟩,
  ⟨0x1180, 64, [
    (0x01, .u8, .ro, 0), (0x02, .u8, .ro, 0), (0x03, .u8, .ro, 0), (0x04, .u16, .ro, 0), (0x05, .blob 18, .ro, 0),
    (0x06, .blob 32, .rw, 0), (0x07, .u8, .wo, 0), (0x08, .u16, .ro, 0), (0x09, .u32, .ro, 0)]⟩]

/-- The objects 0x2000 to 0x21ff (R483). -/
def objsDevice : List ObjFam := [
  ⟨0x2000, 1, [
    (0x01, .u8, .ro, 0), (0x02, .u32, .ro, 0), (0x03, .u8, .ro, 0), (0x04, .u32, .ro, 0), (0x05, .u8, .wo, 0)]⟩,
  ⟨0x2001, 1, [
    (0x01, .u8, .ro, 0), (0x02, .blob 180, .wo, 0), (0x03, .u8, .ro, 0), (0x04, .blob 32, .ro, 0)]⟩,
  ⟨0x2002, 1, [
    (0x01, .u32, .ro, 0), (0x02, .u16, .ro, 0), (0x03, .u16, .rw, 0), (0x04, .blob 64, .ro, 0),
    (0x05, .u32, .ro, 0), (0x06, .u8, .ro, 0), (0x07, .u8, .wo, 0), (0x08, .u8, .ro, 0)]⟩,
  ⟨0x2003, 1, [
    (0x01, .u32, .ro, 0), (0x02, .u32, .w1c, 1)]⟩,
  ⟨0x2010, 1, [
    (0x01, .u16, .wo, 0), (0x02, .u32, .ro, 0)]⟩,
  ⟨0x2030, 1, [
    (0x01, .u8, .wo, 0), (0x02, .blob 1028, .wo, 0), (0x03, .u8, .ro, 0), (0x04, .u32, .ro, 0),
    (0x05, .u8, .ro, 0)]⟩,
  ⟨0x2100, 64, [
    (0x01, .u8, .rws, 0), (0x02, .u8, .rws, 0), (0x03, .u8, .wo, 0), (0x04, .u8, .ro, 0), (0x05, .u16, .ro, 0),
    (0x06, .u16, .ro, 0), (0x07, .u16, .ro, 0), (0x08, .u8, .ro, 0)]⟩]

/-- The objects 0x3000 to 0x33ff (R483). -/
def objsPower : List ObjFam := [
  ⟨0x3000, 1, [
    (0x01, .u16, .rw, 150), (0x02, .u16, .rw, 280), (0x03, .u32, .ro, 0), (0x04, .u32, .ro, 0),
    (0x05, .u32, .ro, 0), (0x06, .u32, .ro, 0), (0x07, .blob 16, .ro, 0)]⟩,
  ⟨0x3001, 1, [
    (0x01, .u8, .wo, 0), (0x02, .u64, .rw, 0), (0x03, .u8, .ro, 0)]⟩,
  ⟨0x3002, 1, [
    (0x01, .u16, .rws, 1000), (0x02, .u16, .rws, 1000)]⟩,
  ⟨0x3010, 1, [
    (0x01, .u64, .ro, 0)]⟩,
  ⟨0x3020, 1, [
    (0x01, .u32, .ro, 0), (0x02, .u32, .rw, 0xffffff)]⟩,
  ⟨0x3030, 1, [
    (0x01, .blob 44, .ro, 0), (0x02, .f32, .rw, 0x42c80000), (0x03, .f32, .ro, 0), (0x04, .bool, .ro, 0)]⟩]

/-- The objects 0x3400 to 0x37ff (R483). -/
def objsTime : List ObjFam := [
  ⟨0x3400, 1, [
    (0x01, .u64, .ro, 0), (0x02, .i32, .rw, 0), (0x03, .i64, .wo, 0), (0x04, .i32, .ro, 0), (0x05, .u8, .ro, 0)]⟩,
  ⟨0x3410, 1, [
    (0x01, .u8, .rws, 1), (0x02, .u8, .rws, 0xc), (0x03, .u8, .rws, 248), (0x04, .u8, .rws, 248),
    (0x05, .i8, .rws, 253), (0x06, .u8, .rws, 0), (0x07, .bool, .rws, 0), (0x08, .u8, .ro, 0),
    (0x09, .u64, .ro, 0), (0x0a, .i64, .ro, 0), (0x0b, .u8, .rw, 0)]⟩,
  ⟨0x3420, 1, [
    (0x01, .bool, .rw, 0), (0x02, .u32, .rw, 100000), (0x03, .bool, .rw, 0), (0x04, .u64, .ro, 0),
    (0x05, .u32, .ro, 0)]⟩,
  ⟨0x3428, 8, [
    (0x01, .u64, .rws, 0), (0x02, .u32, .rws, 1000000), (0x03, .u8, .rws, 1), (0x04, .u16, .rws, 0),
    (0x05, .u8, .rw, 0)]⟩,
  ⟨0x3430, 4, [
    (0x01, .u8, .rws, 1), (0x02, .blob 16, .rws, 0), (0x03, .u8, .rws, 64), (0x04, .u32, .rws, 0),
    (0x05, .u16, .rws, 0), (0x06, .u32, .rws, 2000), (0x07, .bool, .rws, 0), (0x08, .u64, .ro, 0),
    (0x09, .blob 1526, .wo, 0), (0x0a, .u8, .ro, 0), (0x0b, .u8, .rw, 1)]⟩,
  ⟨0x3450, 3, [
    (0x01, .u8, .rws, 0), (0x02, .blob 16, .rws, 0), (0x03, .u32, .rws, 0), (0x04, .blob 60, .rws, 0),
    (0x05, .u8, .rws, 3), (0x06, .u8, .ro, 0), (0x07, .u8, .ro, 0), (0x08, .u8, .rw, 0)]⟩]

/-- The objects 0x3800 to 0x3bff (R483). -/
def objsMemory : List ObjFam := [
  ⟨0x3800, 1, [
    (0x01, .u64, .rws, 0), (0x02, .u64, .rws, 0), (0x03, .u64, .ro, 0), (0x04, .u64, .ro, 0), (0x05, .u8, .ro, 0),
    (0x06, .u32, .rws, 0), (0x07, .u32, .rws, 0), (0x08, .u32, .rws, 0), (0x09, .u32, .rws, 0)]⟩,
  ⟨0x3810, 1, [
    (0x01, .blob 32, .wo, 0), (0x02, .u32, .ro, 0), (0x03, .blob 64, .ro, 0)]⟩,
  ⟨0x3820, 32, [
    (0x01, .u8, .ro, 0), (0x02, .u64, .ro, 0), (0x03, .u64, .ro, 0)]⟩,
  ⟨0x3840, 4, [
    (0x01, .u64, .rws, 0), (0x02, .u64, .rws, 0), (0x03, .u64, .rws, 0), (0x04, .u64, .rws, 0),
    (0x05, .u8, .ro, 0)]⟩,
  ⟨0x3850, 1, [
    (0x01, .u16, .wo, 0), (0x02, .u32, .ro, 0), (0x03, .u64, .ro, 0), (0x04, .blob 96, .rw, 0)]⟩,
  ⟨0x3a00, 1, [
    (0x01, .blob 32, .wo, 0), (0x02, .u16, .ro, 0), (0x03, .u16, .ro, 0)]⟩,
  ⟨0x3a20, 4, [
    (0x01, .u64, .rws, 0), (0x02, .u8, .rws, 3), (0x03, .u32, .rws, 4096), (0x04, .u32, .rws, 64),
    (0x05, .u8, .rws, 1), (0x06, .u32, .rws, 0), (0x07, .u32, .rws, 0), (0x08, .u32, .rws, 0),
    (0x09, .u16, .rws, 1), (0x0a, .u32, .ro, 0), (0x0b, .u32, .ro, 0), (0x0c, .u16, .ro, 0)]⟩,
  ⟨0x3a28, 1, [
    (0x01, .blob 32, .wo, 0), (0x02, .u16, .ro, 0)]⟩]

/-- The objects 0x4000 to 0x47ff (R483). -/
def objsSafety : List ObjFam := [
  ⟨0x4000, 1, [
    (0x01, .u8, .ro, 0), (0x02, .u32, .ro, 0), (0x03, .u8, .ro, 0), (0x04, .u32, .ro, 0), (0x05, .u32, .ro, 0),
    (0x06, .u16, .ro, 0), (0x07, .u8, .wo, 0), (0x08, .u16, .wo, 0), (0x09, .u32, .rw, 0x160),
    (0x0a, .u32, .rw, 0), (0x0b, .blob 32, .rw, 0), (0x0c, .u8, .rw, 0xc), (0x0d, .u64, .rw, 0xffffffffffff),
    (0x0e, .u32, .rw, 10000), (0x0f, .u8, .ro, 0)]⟩,
  ⟨0x4010, 1, [
    (0x01, .u16, .ro, 0), (0x02, .blob 4096, .ro, 0)]⟩,
  ⟨0x4020, 1, [
    (0x01, .bool, .rw, 1), (0x02, .u64, .rw, 0), (0x03, .u64, .ro, 0), (0x04, .u32, .ro, 0), (0x05, .u16, .ro, 0)]⟩,
  ⟨0x4040, 32, [
    (0x01, .u8, .rw, 2), (0x02, .u32, .ro, 0), (0x03, .u8, .ro, 0)]⟩]

/-- The objects 0x4800 to 0x4fff (R483). -/
def objsIngest : List ObjFam := [
  ⟨0x4800, 32, [
    (0x01, .u8, .rws, 0), (0x02, .u8, .rws, 0), (0x03, .u8, .rws, 0x2a), (0x04, .u16, .rws, 640),
    (0x05, .u16, .rws, 480), (0x06, .u8, .rws, 1), (0x07, .u8, .rws, 0), (0x08, .u8, .rws, 0),
    (0x09, .u16, .rws, 64), (0x0a, .u16, .rws, 64), (0x0b, .u64, .rws, 0), (0x0c, .u8, .rws, 1),
    (0x0d, .u64, .rws, 0), (0x0e, .u8, .rws, 2), (0x0f, .u16, .rws, 0), (0x10, .u8, .wo, 0), (0x11, .u8, .ro, 0),
    (0x12, .u32, .ro, 0), (0x13, .u64, .ro, 0), (0x14, .u64, .ro, 0)]⟩,
  ⟨0x4880, 12, [
    (0x01, .u8, .rws, 3), (0x02, .u8, .ro, 0), (0x03, .u64, .ro, 0), (0x04, .u64, .ro, 0), (0x05, .u64, .ro, 0)]⟩,
  ⟨0x4900, 16, [
    (0x01, .u8, .rws, 0), (0x02, .u64, .rws, 0), (0x03, .u32, .rws, 16), (0x04, .u16, .rws, 224),
    (0x05, .u16, .rws, 224), (0x06, .u8, .rws, 1), (0x07, .u32, .rws, 2048), (0x08, .u32, .rws, 0),
    (0x09, .u16, .rws, 1), (0x0a, .u32, .rws, 8000), (0x0b, .u8, .rws, 0), (0x0c, .u64, .rws, 0),
    (0x0d, .blob 16, .rws, 0), (0x0e, .u64, .rws, 0), (0x0f, .u8, .rws, 2), (0x10, .u16, .rws, 0),
    (0x11, .u8, .wo, 0), (0x12, .u8, .ro, 0), (0x13, .u64, .ro, 0)]⟩,
  ⟨0x4980, 1, [
    (0x01, .u32, .rws, 0), (0x02, .u8, .wo, 0), (0x03, .u8, .ro, 0), (0x04, .u32, .ro, 0)]⟩]

/-- The objects 0x5000 to 0x53ff (R483). -/
def objsFusion : List ObjFam := [
  ⟨0x5000, 1, [
    (0x01, .u32, .rws, 10000), (0x02, .u32, .rws, 0), (0x03, .u64, .rws, 0), (0x04, .u8, .rws, 0),
    (0x05, .u16, .rws, 0), (0x06, .u8, .ro, 0), (0x07, .u8, .wo, 0), (0x08, .u8, .ro, 0), (0x09, .u32, .ro, 0)]⟩,
  ⟨0x5010, 16, [
    (0x01, .u8, .rws, 0xff), (0x02, .u8, .rws, 0), (0x03, .u64, .rws, 0), (0x04, .u8, .rws, 100),
    (0x05, .u32, .rws, 100000), (0x06, .f32, .rws, 0xc47a0000), (0x07, .f32, .rws, 0x447a0000),
    (0x08, .blob 16448, .wo, 0), (0x09, .u8, .ro, 0)]⟩,
  ⟨0x5040, 8, [
    (0x01, .u8, .rws, 0xff), (0x02, .u16, .rws, 1), (0x03, .f32, .rws, 0)]⟩]

/-- The objects 0x5400 to 0x57ff (R483). -/
def objsPump : List ObjFam := [
  ⟨0x5400, 1, [
    (0x01, .u8, .rws, 0), (0x02, .u64, .rws, 0), (0x03, .u32, .rws, 2000), (0x04, .u32, .rws, 2000),
    (0x05, .u16, .rws, 0x88b5), (0x06, .u16, .rws, 3), (0x07, .blob 1088, .wo, 0), (0x08, .u8, .wo, 0),
    (0x09, .u8, .ro, 0), (0x0a, .u32, .ro, 0)]⟩,
  ⟨0x5410, 8, [
    (0x01, .u8, .rws, 0xff), (0x02, .u32, .rws, 0), (0x03, .u32, .rws, 20000), (0x04, .u8, .rws, 2),
    (0x05, .u64, .rws, 0), (0x06, .u64, .ro, 0)]⟩,
  ⟨0x5500, 64, [
    (0x01, .u8, .rws, 0xff), (0x02, .u16, .rws, 0), (0x03, .u8, .rws, 0), (0x04, .u32, .rws, 250),
    (0x05, .blob 256, .rws, 0), (0x06, .u8, .rws, 0), (0x07, .u8, .rws, 0), (0x08, .u8, .rws, 0x10),
    (0x09, .u8, .rws, 1), (0x0a, .f32, .rws, 0), (0x0b, .u32, .rws, 0), (0x0c, .u8, .wo, 0), (0x0d, .u8, .ro, 0),
    (0x0e, .u8, .ro, 0), (0x0f, .f32, .ro, 0), (0x10, .u8, .ro, 0)]⟩]

/-- The objects 0x5800 to 0x5bff (R483). -/
def objsSolver : List ObjFam := [
  ⟨0x5800, 1, [
    (0x01, .u32, .rws, 1000), (0x02, .u32, .rws, 0), (0x03, .u8, .rws, 0), (0x04, .u64, .rws, 0),
    (0x05, .u32, .rws, 2000), (0x06, .u8, .rws, 0), (0x07, .u32, .rws, 100000), (0x08, .u64, .rws, 0),
    (0x09, .u16, .rws, 3), (0x0a, .bool, .rws, 1), (0x0b, .u8, .rw, 0), (0x0c, .blob 1048576, .wo, 0),
    (0x0d, .u8, .wo, 0), (0x0e, .u8, .ro, 0), (0x0f, .u32, .ro, 0)]⟩,
  ⟨0x5810, 2, [
    (0x01, .u32, .rw, 0), (0x02, .u8, .wo, 0), (0x03, .u8, .ro, 0), (0x04, .u64, .ro, 0), (0x05, .u16, .ro, 0),
    (0x06, .u32, .ro, 0), (0x07, .u32, .ro, 0), (0x08, .u8, .ro, 0)]⟩]

/-- The objects 0x5c00 to 0x5fff (R483). -/
def objsPlanner : List ObjFam := [
  ⟨0x5c00, 1, [
    (0x01, .blob 32, .wo, 0), (0x02, .u8, .ro, 0)]⟩,
  ⟨0x5c40, 1, [
    (0x01, .f32, .rws, 0x3d4ccccd), (0x02, .u16, .rws, 128), (0x03, .u16, .rws, 128), (0x04, .u16, .rws, 64),
    (0x05, .f32, .rws, 0), (0x06, .f32, .rws, 0), (0x07, .f32, .rws, 0), (0x08, .u64, .rws, 0),
    (0x09, .u32, .rws, 0), (0x0a, .u16, .rws, 1), (0x0b, .u8, .wo, 0), (0x0c, .u8, .ro, 0), (0x0d, .u32, .ro, 0)]⟩,
  ⟨0x5c48, 4, [
    (0x01, .u64, .rws, 0), (0x02, .u16, .rws, 16), (0x03, .u32, .ro, 0)]⟩,
  ⟨0x5c80, 1, [
    (0x01, .u8, .rws, 1), (0x02, .u16, .rws, 1), (0x03, .u32, .rws, 1024), (0x04, .f32, .rws, 0x3dcccccd),
    (0x05, .f32, .rws, 0x3c23d70a), (0x06, .u64, .rws, 0), (0x07, .blob 4096, .rws, 0)]⟩,
  ⟨0x5d00, 16, [
    (0x01, .u8, .rws, 1), (0x02, .u64, .rws, 0), (0x03, .u64, .rws, 0), (0x04, .u8, .rws, 2),
    (0x05, .u16, .rws, 0), (0x06, .u32, .rws, 100000), (0x07, .u32, .rws, 0), (0x08, .u32, .rws, 0),
    (0x09, .bool, .rws, 1), (0x0a, .u8, .wo, 0), (0x0b, .u8, .ro, 0), (0x0c, .u32, .ro, 0)]⟩]

/-- The objects 0x6000 to 0xf000 (R483). -/
def objsQueue : List ObjFam := [
  ⟨0x6000, 4096, [
    (0x01, .u8, .rws, 0), (0x02, .u8, .rws, 2), (0x03, .u64, .rws, 0), (0x04, .u16, .rws, 16), (0x05, .u8, .wo, 0),
    (0x06, .u8, .ro, 0), (0x07, .u8, .ro, 0), (0x08, .blob 64, .wo, 0), (0x09, .u32, .wo, 0),
    (0x0a, .blob 32, .ro, 0), (0x0b, .u16, .ro, 0)]⟩,
  ⟨0x7800, 1, [
    (0x01, .blob 133, .ro, 0), (0x02, .blob 2048, .ro, 0), (0x03, .u8, .ro, 0)]⟩,
  ⟨0x7810, 1, [
    (0x01, .blob 32, .wo, 0), (0x02, .blob 276, .ro, 0), (0x03, .u8, .ro, 0)]⟩,
  ⟨0xf000, 1, [
    (0x01, .blob 16384, .ro, 0), (0x02, .blob 8, .rw, 0)]⟩]

/-- Every family of the index map. -/
def objFams : List ObjFam :=
  objsIdentity ++ objsDevice ++ objsPower ++ objsTime ++ objsMemory ++ objsSafety ++ objsIngest ++ objsFusion ++
  objsPump ++ objsSolver ++ objsPlanner ++ objsQueue

/-- Counter indices with their highest subindex (R484): 0x7000+c for 256 clients, then 0x7410 to 0x7420. -/
def counterSubs (idx : Nat) : Option Nat :=
  if 0x7000 ≤ idx ∧ idx ≤ 0x70ff then some 5
  else match idx with
    | 0x7410 => some 3
    | 0x7411 => some 2
    | 0x7412 => some 7
    | 0x7413 => some 8
    | 0x7414 => some 10
    | 0x7415 => some 13
    | 0x7416 => some 6
    | 0x7417 => some 16
    | 0x7418 => some 11
    | 0x7419 => some 10
    | 0x741a => some 9
    | 0x741b => some 14
    | 0x741c => some 10
    | 0x741d => some 15
    | 0x741e => some 10
    | 0x7420 => some 1
    | _ => none

/-- The family that index `idx` belongs to. -/
def famOf (idx : Nat) : Option ObjFam :=
  objFams.find? (fun f => decide (f.base ≤ idx) && decide (idx < f.base + f.count))

/-- Does the dictionary define index `idx`? -/
def idxDefined (idx : Nat) : Bool := (famOf idx).isSome || (counterSubs idx).isSome

/-- Highest subindex of a defined index (R479). -/
def highSub (idx : Nat) : Nat :=
  match counterSubs idx with
  | some n => n
  | none => match famOf idx with
    | some f => f.subs.foldl (fun m r => max m r.1) 0
    | none => 0

/-- Type, access and default number of an object; subindex 0 is U8 RO (R479), counters U64 RO (R484). -/
def objDef (idx sub : Nat) : Option (OTy × OAcc × Nat) :=
  if sub = 0 then (if idxDefined idx then some (.u8, .ro, highSub idx) else none)
  else match counterSubs idx with
    | some n => if sub ≤ n then some (.u64, .ro, 0) else none
    | none => match famOf idx with
      | some f => (f.subs.find? (fun r => r.1 = sub)).map (fun r => r.2)
      | none => none

/-- The base index of the family of `idx`, and the member's number in it. -/
def famBase (idx : Nat) : Nat × Nat :=
  match famOf idx with
  | some f => (f.base, idx - f.base)
  | none => (idx, 0)

/-- Default of a BLOB (R483). -/
def blobDefault (idx sub : Nat) : Bytes :=
  let base := (famBase idx).1
  if base = 0x1100 ∧ sub = 3 then leBytes 2 0x0fff ++ (List.replicate 255 (leBytes 2 0x0007)).flatten
  else if (base = 0x1110 ∧ sub = 2) ∨ (base = 0x4000 ∧ sub = 0x0b) then List.replicate 32 0xff
  else if base = 0x1180 ∧ sub = 6 then zeros 32
  else if (base = 0x3430 ∨ base = 0x3450) ∧ sub = 2 then zeros 16
  else if base = 0x4900 ∧ sub = 0x0d then zeros 16
  else if base = 0x5500 ∧ sub = 5 then zeros 256
  else if base = 0x5c80 ∧ sub = 7 then [0, 0, 1, 0] ++ zeros 12
  else []

/-- Default value of an object as bytes (R483); RIGHTS_MASK of ports C and D is 0x0001. -/
def objDefault (idx sub : Nat) : Bytes :=
  match objDef idx sub with
  | none => []
  | some (ty, _, d) =>
    if otyVar ty then blobDefault idx sub
    else if (idx = 0x1112 ∨ idx = 0x1113) ∧ sub = 1 then leBytes 2 1
    else leBytes (otyLen ty) d

/-- Key of an object in `State.dict` and `State.counters`. -/
def objKey (idx sub : Nat) : Nat := idx * 256 + sub

/-- The stored value of a RW, RWS or W1C object. -/
def cfgBytes (s : State) (idx sub : Nat) : Bytes :=
  match s.dict.find? (fun e => e.1 = objKey idx sub) with
  | some e => e.2
  | none => objDefault idx sub

/-- The stored value as an unsigned number. -/
def cfg (s : State) (idx sub : Nat) : Nat := leNat (cfgBytes s idx sub)

/-- The stored value as a signed number of `w` bits. -/
def cfgInt (s : State) (idx sub w : Nat) : Int := signedOf w (cfg s idx sub)

/-- The state with an object's value set; the default is held unlisted. -/
def setCfg (idx sub : Nat) (v : Bytes) (s : State) : State :=
  { s with dict := if v = objDefault idx sub then tblDel s.dict (objKey idx sub) else tblPut s.dict (objKey idx sub) v }

/-! ## Counters -/

/-- A counter's value (R484). -/
def counter (s : State) (idx sub : Nat) : BitVec 64 := tblGet 0 s.counters (objKey idx sub)

/-- A counter increased by `n`, modulo 2^64. -/
def count (idx sub n : Nat) (s : State) : State :=
  { s with counters := tblSet 0 s.counters (objKey idx sub) (counter s idx sub + BitVec.ofNat 64 n) }

end Sys2Proof.Machine
end

