-- ==== Sys2Proof/Machine/Ops.lean ====
section
/-!
DEFINITION. Sys2Proof/Machine/Ops.lean: the named operations every family shares: tables of State, the clock, memory,
free values, notify frames (R476-R478), answers of Ixide operations (R468, R470, R474).
-/

namespace Sys2Proof.Machine

/-- Outcome of a command that has an effect. -/
abbrev Res := Host.Outcome State Fault Refusal

/-! ## Entries of the tables of State -/

def qget (s : State) (q : Nat) : Queue := tblGet {} s.queues q
def qmod (q : Nat) (f : Queue → Queue) (s : State) : State := { s with queues := tblMod {} s.queues q f }
def sess (s : State) (k : Nat) : Session := tblGet {} s.sessions k
def smod (k : Nat) (f : Session → Session) (s : State) : State := { s with sessions := tblMod {} s.sessions k f }
def tileOf (s : State) (t : Nat) : Tile := tblGet {} s.tiles t
def tmod (t : Nat) (f : Tile → Tile) (s : State) : State := { s with tiles := tblMod {} s.tiles t f }
def clusterOf (s : State) (c : Nat) : Cluster := tblGet {} s.clusters c
def cmod (c : Nat) (f : Cluster → Cluster) (s : State) : State := { s with clusters := tblMod {} s.clusters c f }
def partOf (s : State) (p : Nat) : Partition := tblGet {} s.parts p
def pmod (p : Nat) (f : Partition → Partition) (s : State) : State := { s with parts := tblMod {} s.parts p f }
def t1Of (s : State) (x : Nat) : T1Port := tblGet {} s.t1 x
def t1mod (x : Nat) (f : T1Port → T1Port) (s : State) : State := { s with t1 := tblMod {} s.t1 x f }
def fabOf (s : State) (p : Nat) : FabricPort := tblGet {} s.fabric p
def fabmod (p : Nat) (f : FabricPort → FabricPort) (s : State) : State := { s with fabric := tblMod {} s.fabric p f }
def chanOf (s : State) (c : Nat) : Channel := tblGet {} s.channels c
def chanmod (c : Nat) (f : Channel → Channel) (s : State) : State := { s with channels := tblMod {} s.channels c f }

/-- The accepted, uncompleted job with tag `tag`. -/
def jobOf (s : State) (tag : BitVec 32) : Option Job := s.sluice.jobs.find? (fun j => j.tag = tag)
/-- The job with tag `tag` changed by `f`. -/
def jmod (tag : BitVec 32) (f : Job → Job) (s : State) : State :=
  { s with sluice := { s.sluice with jobs := s.sluice.jobs.map (fun j => if j.tag = tag then f j else j) } }
/-- The job with tag `tag` taken from the list. -/
def jdel (tag : BitVec 32) (s : State) : State :=
  { s with sluice := { s.sluice with jobs := s.sluice.jobs.filter (fun j => j.tag ≠ tag) } }

/-! ## Free values (log 2) -/

/-- The next free number, and the counter advanced. -/
def freshNat (s : State) : Nat × State := (Config.freeNat s.freeCtr, { s with freeCtr := s.freeCtr + 1 })

/-- The next `n` free bytes, and the counter advanced. -/
def freshBytes (n : Nat) (s : State) : Bytes × State :=
  ((List.range n).map (Config.freeByte s.freeCtr), { s with freeCtr := s.freeCtr + 1 })

/-- A free choice among the elements of `l`, and the counter advanced; none where `l` is empty. -/
def freshChoice (l : List Nat) (s : State) : Option Nat × State :=
  (l[Config.choice s.freeCtr l.length % l.length]?, { s with freeCtr := s.freeCtr + 1 })

/-- Runs `f` over a list, threading the state. -/
def forEach {α : Type} (l : List α) (f : α → State → State) (s : State) : State := l.foldl (fun s a => f a s) s

/-! ## The clock (R365-R368) -/

/-- Nanoseconds in a second. -/
def nsPerS : Nat := 1000000000

/-- NOW: SECONDS x 10^9 + NANOSECONDS (R365), as a full number. -/
def now (s : State) : Nat := s.clock.seconds.toNat * nsPerS + s.clock.nanos

/-- Bits of EVENTS that were set in the present tick: a clear in it leaves them set (R12). R12 does not say what a tick is; here it is
one value of NOW in ns (log 58, DESIGN CHOICE). -/
def eventsFresh (s : State) : BitVec 32 := if s.eventsAt = now s then s.eventsNew else 0

/-- Sets bit `n` of EVENTS (R482), and holds the tick in which it was set (R12). -/
def setEvent (n : Nat) (s : State) : State :=
  let b := BitVec.ofNat 32 (1 <<< n)
  { s with events := s.events ||| b, eventsAt := now s, eventsNew := eventsFresh s ||| b }

/-- The bits of `v` cleared in EVENTS, but those set in the present tick (R12, R482). -/
def clearEvents (v : BitVec 32) (s : State) : State := { s with events := s.events &&& ~~~(v &&& ~~~(eventsFresh s)) }

/-- A full time as a stamp (R368). -/
def stampOf (t : Nat) : BitVec 32 := BitVec.ofNat 32 t

/-- NOW mod 2^32 (R368). A stamp taken in any clock domain reads NOW itself: R36 and R368 give only a bound on its deviation (log 10,
DESIGN CHOICE). -/
def stamp (s : State) : BitVec 32 := stampOf (now s)

/-- A stamp extended to a full time against the full time `t` (R369). -/
def extendStamp (t : Nat) (st : BitVec 32) : Nat := ((t : Int) + (st - BitVec.ofNat 32 t).toInt).toNat

/-- The clock set to full time `t` with fraction `f`. -/
def setClock (t f : Nat) (c : Clock) : Clock :=
  { c with seconds := BitVec.ofNat 48 (t / nsPerS), nanos := t % nsPerS, frac := BitVec.ofNat 32 f }

/-- RATE as written (R366). -/
def rate (s : State) : Int := cfgInt s 0x3400 2 32

/-- RATE offset of a slew, in 2^-40; also what a slew absorbs in one AOCLK cycle, in 2^-38 ns (R367). -/
def slewRate : Int := 109951163

/-- INC of R365 in units of 2^-32 ns: 4 ns x (1 + r x 2^-40); a remainder below the unit rounds freely (log 10). -/
def incOf (r : Int) : Nat :=
  let base := 4 * 2 ^ 32 + r / 64
  (if r % 64 = 0 then base else base + Config.incRound (BitVec.ofInt 32 r) % 2).toNat

/-- The effective RATE: RATE, offset by the slew in progress (R367). -/
def slewedRate (s : State) : Int :=
  if s.clock.slewLeft = 0 then rate s else if 0 < s.clock.slewLeft then rate s + slewRate else rate s - slewRate

/-- What is left of a slew after `n` AOCLK cycles (R367). -/
def slewAfter (left : Int) (n : Nat) : Int :=
  if 0 ≤ left then max 0 (left - n * slewRate) else min 0 (left + n * slewRate)

/-- `n` AOCLK cycles at the RATE in effect (R365). -/
def aoTicks (n : Nat) (s : State) : State :=
  let units := (now s * 2 ^ 32 + s.clock.frac.toNat) + n * incOf (slewedRate s)
  { s with clock := { setClock (units / 2 ^ 32) (units % 2 ^ 32) s.clock with slewLeft := slewAfter s.clock.slewLeft n } }

/-- One AOCLK cycle (R365). -/
def aoTick (s : State) : State := aoTicks 1 s

/-- Time passes until the local clock reads `t`; unchanged where it has passed `t` already (log 11). -/
def clockTo (t : Nat) (s : State) : State :=
  if t ≤ now s then s
  else { s with clock := { setClock t 0 s.clock with slewLeft := slewAfter s.clock.slewLeft (ceilDiv (t - now s) 4) } }

/-! ## Memory -/

/-- `bs` written at physical address `a` of R222. -/
def poke (a : Nat) (bs : Bytes) (s : State) : State := { s with mem := memWrite s.mem a bs }

/-- `n` bytes at physical address `a`. -/
def peek (s : State) (a n : Nat) : Bytes := memRead s.mem a n

/-- The number in the `n` bytes at `a`. -/
def peekNat (s : State) (a n : Nat) : Nat := memNat s.mem a n

/-- `n` bytes at `a` wiped. -/
def wipe (a n : Nat) (s : State) : State := { s with mem := memWipe s.mem a n }

/-! ## Frames out -/

/-- A frame leaves the module. -/
def emit (f : OutFrame) (s : State) : State := { s with out := s.out ++ [f] }

/-- The VLAN tag of T1 port x: VLAN id, priority by class, empty where untagged (R378, R379). -/
def vlanTag (s : State) (x prio : Nat) : Bytes :=
  let v := cfg s (0x3430 + x) 5
  if v = 0 then [] else [0x81, 0x00] ++ beBytes 2 (prio * 2 ^ 13 + v % 4096)

/-- May a frame of `len` bytes in classes 3 to 5 start now: its last bit and its inter-frame gap leave before the earliest frame of the
launch queue becomes eligible, 5.6 ns before its stamp; 8 bytes of preamble, 12 of gap, 0.8 ns a byte; in tenths of a nanosecond (R379)? -/
def mayStart (t : Nat) (launch : List Launch) (len : Nat) : Bool :=
  match launch with
  | [] => true
  | l :: _ => decide (10 * t + 8 * (len + 20) + 56 < 10 * l.stamp)

/-- A frame among those that wait for a port: after those of its class and of higher ones (R379). -/
def txInsert (f : TxFrame) (w : List TxFrame) : List TxFrame :=
  w.takeWhile (fun g => decide (g.cls ≤ f.cls)) ++ f :: w.dropWhile (fun g => decide (g.cls ≤ f.cls))

/-- Of the frames `w` that wait for T1 port x, those leave that come before the first that may not start (R379). -/
def flushT1 (x : Nat) (w : List TxFrame) (s : State) : State :=
  let ok (f : TxFrame) : Bool := mayStart (now s) (t1Of s x).launch f.len
  { s with
    t1 := tblMod {} s.t1 x (fun p => { p with waiting := w.dropWhile ok }),
    out := s.out ++ (w.takeWhile ok).map (fun f => f.frame) }

/-- A frame of classes 3 to 5 handed to T1 port x: it leaves, or waits before the next launch, by strict priority (R379). The time a
frame takes on the wire is no state of the model (log 14). -/
def sendT1 (x : Nat) (f : TxFrame) (s : State) : State :=
  if (t1Of s x).waiting = [] ∧ mayStart (now s) (t1Of s x).launch f.len then emit f.frame s
  else flushT1 x (txInsert f (t1Of s x).waiting) s

/-- What waits for T1 port x and may start leaves. -/
def releaseT1 (x : Nat) (s : State) : State := if (t1Of s x).waiting = [] then s else flushT1 x (t1Of s x).waiting s

/-- Bytes of an Ethernet frame, its FCS with it, that carries `n` bytes of payload after an EtherType and a tag. -/
def wireLen (tag : Bytes) (n : Nat) : Nat := max 64 (18 + tag.length + n)

/-- An Ixide frame in UDP to a peer (6 bytes of link-layer address, 16 of IP address, 2 of port) leaves T1 port x in class 4 (R377, R379,
R462). -/
def ixSend (x : Fin 4) (peer frame : Bytes) (s : State) : State :=
  let tag := vlanTag s x.val 5
  let ip : Nat := if (peer.drop 6).take 12 = zeros 10 ++ [0xff, 0xff] then 20 else 40
  sendT1 x.val ⟨4, .ixide x peer tag frame, wireLen tag (ip + 8 + frame.length)⟩ s

/-- An Ixide frame header (R463). -/
def ixHeader (ty session : Nat) (seq st : BitVec 32) (len : Nat) : Bytes :=
  [1, BitVec.ofNat 8 ty] ++ leBytes 2 session ++ leBytes 4 seq.toNat ++ leBytes 4 st.toNat ++ leBytes 2 len ++ [0, 0]

/-- The identifier of the session in slot `k` (R465). -/
def sessionId (s : State) (k : Nat) : Nat := (sess s k).gen.toNat * 256 + k

/-- An Ixide frame to the peer of slot `k`, with the stamp of sending. -/
def ixFrame (s : State) (k ty : Nat) (seq st : BitVec 32) (payload : Bytes) : Bytes :=
  ixHeader ty (sessionId s k) seq st payload.length ++ payload

/-- Sends a frame to the peer of slot `k`. -/
def sendTo (k : Nat) (frame : Bytes) (s : State) : State :=
  ixSend (sess s k).port (sess s k).peer frame s

/-- Sends a response to the source of its request (R462). -/
def reply (k : Nat) (frame : Bytes) (s : State) : State :=
  ixSend (sess s k).port (sess s k).source frame s

/-! ## Notify frames (R476-R478) -/

/-- The open sessions. -/
def openSlots (s : State) : List Nat := (List.range 64).filter (fun k => (sess s k).open_)

/-- A notify frame of slot `k` is dropped (R478). -/
def notifyDropped (k : Nat) (s : State) : State :=
  setEvent 8 (count 0x741e 8 1 (smod k (fun e => { e with lost := e.lost + 1, lostFlag := true }) s))

/-- A notify frame offered to slot `k`'s queue of 256 (R478): SAFE_STATE and SAFE_CLEARED displace the oldest. -/
def notify (k : Nat) (n : Notify) (s : State) : State :=
  if (sess s k).queue.length < 256 then smod k (fun e => { e with queue := e.queue ++ [n] }) s
  else if n.code = 0x10 ∨ n.code = 0x11 then
    notifyDropped k (smod k (fun e => { e with queue := e.queue.drop 1 ++ [n] }) s)
  else notifyDropped k s

/-- A notify frame offered to every open session (R476). -/
def notifyAll (code : Nat) (data : Bytes) (s : State) : State :=
  forEach (openSlots s) (fun k => notify k { code := code, stamp := stamp s, data := data }) s

/-- A notify frame offered to every session subscribed to its code (R476). -/
def notifySubs (code : Nat) (data : Bytes) (s : State) : State :=
  forEach ((openSlots s).filter (fun k => (sess s k).mask.getLsbD code))
    (fun k => notify k { code := code, stamp := stamp s, data := data }) s

/-- The session that a job's notify frames go to (R477): the one that submitted it, else the lowest open session of the
same client with the code in its mask. -/
def jobSession (s : State) (session : Nat) (gen : BitVec 8) (client code : Nat) : Option Nat :=
  if (sess s session).open_ ∧ (sess s session).gen = gen then some session
  else (openSlots s).find? (fun k => (sess s k).client.toNat = client ∧ (sess s k).mask.getLsbD code)

/-! ## Abort codes (R474) -/

def abSequence : BitVec 32 := 0x05000001
def abSegment : BitVec 32 := 0x05000002
def abOperation : BitVec 32 := 0x05000004
def abConflict : BitVec 32 := 0x04000001
def abNoObject : BitVec 32 := 0x01000001
def abNoSubindex : BitVec 32 := 0x01000002
def abReadOnly : BitVec 32 := 0x01000003
def abWriteOnly : BitVec 32 := 0x01000004
def abRights : BitVec 32 := 0x02000001
def abNotOwner : BitVec 32 := 0x02000002
def abType : BitVec 32 := 0x03000001
def abReservedBit : BitVec 32 := 0x03000002
def abRunning : BitVec 32 := 0x01000005
def abValueRange : BitVec 32 := 0x03000003
def abAddress : BitVec 32 := 0x03000004
def abNoSession : BitVec 32 := 0x05000003

/-! ## Answers (R468, R470) -/

/-- The RESPONSE payload of a reply (R470). -/
def responsePayload (r : Reply) : Bytes :=
  leBytes 4 r.abort.toNat ++ leBytes 2 r.data.length ++ [0, 0] ++ leBytes 4 r.total ++ zeros 4 ++ r.data

/-- Answers the executing request of slot `k`: the response is cached and sent (R468); an abort counts (0x741e:04). -/
def answer (k : Nat) (r : Reply) (s : State) : State :=
  let e := sess s k
  let f := ixFrame s k 5 e.last (stamp s) (responsePayload r)
  let s := reply k f (smod k (fun e => { e with busy := false, cached := f, reply := r }) s)
  if r.abort = 0 then s else count 0x741e 4 1 s

/-- Answers with an abort code: nothing took effect (R11). -/
def abort (k : Nat) (code : BitVec 32) (s : State) : State := answer k { abort := code } s

/-- Answers an accepted operation with its data. -/
def accept (k : Nat) (data : Bytes) (s : State) : State := answer k { data := data } s

/-! ## Internal events (R22, R100) -/

/-- Does an event meant for `job`, or for every job, reach job `tag` (R22)? -/
def meantFor (job : Option (BitVec 32)) (tag : BitVec 32) : Bool := job.all (fun g => g == tag)

/-- Tiles of the jobs that an event is meant for, which wait for its number (R22). -/
def eventWaiters (s : State) (job : Option (BitVec 32)) (n : Nat) : List Nat :=
  (s.tiles.filter (fun e => match e.2.wait with | some (.event m tag) => m == n && meantFor job tag | _ => false)).map (fun e => e.1)

/-- Raises internal event n, meant for one job or for every job: tiles of those that wait for it go on; with none waiting it stays raised
until an EVWAIT of such a job takes it (R22, R100; log 25). -/
def raiseEvent (job : Option (BitVec 32)) (n : Nat) (s : State) : State :=
  if eventWaiters s job n = [] then { s with raised := if ⟨n, job⟩ ∈ s.raised then s.raised else s.raised ++ [⟨n, job⟩] }
  else forEach (eventWaiters s job n) (fun t => tmod t (fun tl => { tl with wait := none, pc := tl.pc + 1 })) s

/-- The events meant for a job go with its attempt (R22). -/
def dropEvents (tag : BitVec 32) (s : State) : State := { s with raised := s.raised.filter (fun e => e.job ≠ some tag) }

end Sys2Proof.Machine
end

