-- ==== Sys2Proof/Machine/Geom.lean ====
section
/-!
DEFINITION. Sys2Proof/Machine/Geom.lean: numbering (R15), health of tiles (R262, R399, R420), partitions (R259, R260),
power domains' allowances (R397), fabric reach (R30, R31), Cistern areas and addresses (R222-R227).
-/

namespace Sys2Proof.Machine

/-! ## Numbering (R15) -/

def dieOfTile (t : Nat) : Nat := t / 256
def regionOfTile (t : Nat) : Nat := t / 64
def clusterOfTile (t : Nat) : Nat := t / 8
def regionOfCluster (k : Nat) : Nat := k / 8

/-- Power-domain bit of region r (R397). -/
def regionBit (r : Nat) : Nat := if r < 4 then r else r + 1

/-- Is power domain k on? -/
def domainOn (s : State) (k : Nat) : Bool := s.power.on.getLsbD k

/-- Does a function whose block lies in domain `k` act (R19)? None does while domain 20, I/O fabric and Siphon, is off (R20). -/
def works (s : State) (k : Nat) : Bool := domainOn s k && domainOn s 20

/-- UNIT code of a kind and index (R417). -/
def unitOf (kind index : Nat) : BitVec 32 := BitVec.ofNat 32 (kind * 2 ^ 24 + index)
def unitKind (u : BitVec 32) : Nat := u.toNat / 2 ^ 24
def unitIndex (u : BitVec 32) : Nat := u.toNat % 2 ^ 24

/-- Is the unit in the retirement table (R421)? -/
def isRetired (s : State) (u : BitVec 32) : Bool := s.island.retired.any (fun e => e.1 = u) || decide (u ∈ s.island.extra)

/-- Is tile t retired: itself, through one of its SRAM banks, or with its cluster (R257)? -/
def tileRetired (s : State) (t : Nat) : Bool :=
  (s.island.retired.map (fun e => e.1) ++ s.island.extra).any (fun u =>
    (unitKind u == 1 && unitIndex u == t) || (unitKind u == 2 && unitIndex u / 16 == t)) ||
  (clusterOf s (clusterOfTile t)).lost

/-- Is the next item of the function or port of a code to be dropped, after a failure event there (R418; log 49)? -/
def spoilt (code : Nat) (s : State) : Bool := decide (code ∈ s.island.spoil)

/-- It has been dropped. -/
def unspoil (code : Nat) (s : State) : State := { s with island := { s.island with spoil := s.island.spoil.filter (· ≠ code) } }

/-- A tile that takes work: not retired, its region on, its cluster not copying a bank, not stopped by coolant loss. -/
def tileHealthy (s : State) (t : Nat) : Bool :=
  !(tileRetired s t) && domainOn s (regionBit (regionOfTile t)) && !((clusterOf s (clusterOfTile t)).copying) && !(s.power.stopped)

/-! ## Partitions (R259-R262) -/

/-- First tile and number of tiles of a SHAPE and BASE (R259). -/
def shapeTiles (shape base : Nat) : Nat × Nat :=
  match shape with
  | 0 => (8 * base, 8)
  | 1 => (64 * base, 64)
  | 2 => (256 * base, 256)
  | _ => (0, 512)

def partShape (s : State) (p : Nat) : Nat := cfg s (0x2100 + p) 1
def partBase (s : State) (p : Nat) : Nat := cfg s (0x2100 + p) 2

/-- The tiles of partition p by its configuration. -/
def partTiles (s : State) (p : Nat) : List Nat :=
  let r := shapeTiles (partShape s p) (partBase s p)
  (List.range r.2).map (fun i => r.1 + i)

def tileInPart (s : State) (p t : Nat) : Bool :=
  let r := shapeTiles (partShape s p) (partBase s p)
  decide (r.1 ≤ t) && decide (t < r.1 + r.2)

/-- Do two partitions share a tile (R260)? -/
def partsOverlap (s : State) (p q : Nat) : Bool :=
  let a := shapeTiles (partShape s p) (partBase s p)
  let b := shapeTiles (partShape s q) (partBase s q)
  overlaps a.1 a.2 b.1 b.2

/-- Affinity placement is for clusters and regions, first-free for dies and the module (R264). -/
def partFirstFree (s : State) (p : Nat) : Bool := decide (2 ≤ partShape s p)

/-- HEALTHY: tiles of the partition not retired (R259). -/
def partHealthy (s : State) (p : Nat) : Nat := ((partTiles s p).filter (fun t => !(tileRetired s t))).length

/-! ## Domains (R397) -/

/-- Allowance of domain k in mW. -/
def allowance : Nat → Nat
  | 0 => 1000 | 1 => 1000 | 2 => 1000 | 3 => 1000 | 4 => 2500
  | 5 => 1000 | 6 => 1000 | 7 => 1000 | 8 => 1000 | 9 => 2500
  | 10 => 1000 | 11 => 4000 | 12 => 5000 | 13 => 2000 | 14 => 8000 | 15 => 8000
  | 16 => 3000 | 17 => 3000 | 18 => 3000 | 19 => 2000 | 20 => 5000 | 21 => 500 | 22 => 1500 | 23 => 500
  | _ => 0

/-- Sum of the allowances of a set of domains, mW. -/
def allowanceSum (on : BitVec 32) : Nat := sumNat (((List.range 24).filter (fun k => on.getLsbD k)).map allowance)

/-- UNCORE: the allowances of the domains that are on (R400). -/
def uncore (s : State) : Nat := allowanceSum s.power.on

/-- The uncore allowance that the energy ledger leaves out: of the domains on, and of those switching on (R401). -/
def uncoreLedger (s : State) : Nat := allowanceSum (s.power.on ||| s.power.rising)

/-! ## Fabric reach (R30, R31) -/

/-- POSITION of this module. -/
def position (s : State) : Nat := cfg s 0x1020 1 % 4

/-- Body positions that port p reaches: one in the direct mesh, those of PEERS behind a switch. -/
def portReaches (s : State) (p : Nat) : List Nat :=
  if cfg s (0x3450 + p) 1 = 0 then [(position s + p + 1) % 4]
  else (chunksOf 20 (cfgBytes s (0x3450 + p) 4)).map (fun e => fieldAt e 0 1)

/-- The fabric port that reaches body position m. -/
def portToward (s : State) (m : Nat) : Option Nat := (List.range 3).find? (fun p => m ∈ portReaches s p)

/-- Is fabric port p's link up (STATE 2, 3 or 4, R383)? PEER_MISMATCH keeps down the one peer, not the link (R384; log 55). -/
def fabricUp (s : State) (p : Nat) : Bool := [2, 3, 4].contains (fabOf s p).state

/-- Is the peer at body position m up (0x3840+m:05)? -/
def peerUp (s : State) (m : Nat) : Bool :=
  match portToward s m with
  | some p => fabricUp s p && m ∈ (fabOf s p).peersUp
  | none => false

/-! ## RoCEv2 traffic (R250, R382) -/

/-- A frame leaves fabric port p; one of the paused priority waits in the port until the pause ends (R382). -/
def emitFabric (p : Nat) (f : OutFrame) (s : State) : State :=
  if now s < (fabOf s p).paused ∨ (fabOf s p).held ≠ [] then fabmod p (fun x => { x with held := x.held ++ [f] }) s else emit f s

/-- The packets of a request on fabric port p (R250, R382): a write in pieces of the path MTU of 4,096 bytes, a read in one, each
tagged with PFC_PRIO. -/
def packetsOf (s : State) (p peer qp : Nat) (op : RoceOp) (address : Nat) (data : Bytes) : List OutFrame :=
  let prio := cfg s (0x3450 + p) 5
  match op with
  | .read => [.roce (Fin.ofNat 3 p) peer qp .read address data prio]
  | .write => (chunksOf 4096 data).zipIdx.map (fun c => .roce (Fin.ofNat 3 p) peer qp .write (address + 4096 * c.2) c.1 prio)

/-- The packets of a request leave. -/
def sendPackets (p peer qp : Nat) (op : RoceOp) (address : Nat) (data : Bytes) (s : State) : State :=
  forEach (packetsOf s p peer qp op address data) (emitFabric p) s

/-- RDMA WRITEs of `data` to the module at body position m, on queue pair 0 (R250; log 13); none where no port reaches it. -/
def peerWrite (m address : Nat) (data : Bytes) (s : State) : State :=
  match portToward s m with
  | none => s
  | some p => sendPackets p m 0 .write address data s

/-- The lowest queue pair toward m with fewer than 16 reads outstanding, of 8 (R250). -/
def freeQp (reqs : List RoceReq) (m : Nat) : Option Nat :=
  (List.range 8).find? (fun k => decide ((reqs.filter (fun r => r.peer == m && r.op == .read && r.qp == some k)).length < 16))

/-- A RoCEv2 request for the module at body position m (R250): it leaves now, or waits in the port while the 8 queue pairs toward m
hold 16 reads each. -/
def newReq (m : Nat) (owner : RoceOwner) (op : RoceOp) (address : Nat) (data : Bytes) (s : State) : State :=
  match portToward s m with
  | none => s
  | some p =>
    let f := fabOf s p
    let qp := if op = .read then freeQp f.reqs m else some 0
    let s := fabmod p (fun f =>
      { f with reqs := f.reqs ++ [⟨f.nextReq, m, now s, 0, owner, op, address, data, qp⟩], nextReq := f.nextReq + 1 }) s
    match qp with
    | some k => sendPackets p m k op address data s
    | none => s

/-- A waiting request of fabric port p leaves once a queue pair has room (R250). -/
def promoteReq (p : Nat) (r : RoceReq) (s : State) : State :=
  match freeQp (fabOf s p).reqs r.peer with
  | none => s
  | some k => sendPackets p r.peer k r.op r.address r.data
      (fabmod p (fun f => { f with reqs := f.reqs.map (fun x => if x.id = r.id then { x with qp := some k, sentAt := now s } else x) }) s)

/-- The waiting requests of fabric port p, oldest first, as far as there is room. -/
def promoteReqs (p : Nat) (s : State) : State := forEach ((fabOf s p).reqs.filter (fun r => r.qp.isNone)) (promoteReq p) s

/-- Outstanding requests that are answered or given up; waiting ones take their places. -/
def dropReqs (which : RoceReq → Bool) (s : State) : State :=
  forEach (List.range 3) promoteReqs
    { s with fabric := tblMap {} (fun f => { f with reqs := f.reqs.filter (fun r => !(which r)) }) s.fabric }

/-- A PFC frame of fabric port p for priority PFC_PRIO, with a pause time (R382; IEEE 802.1Qbb, log 65). -/
def pfcFrame (s : State) (p time : Nat) : Bytes :=
  let prio := cfg s (0x3450 + p) 5
  padTo 60 ([0x01, 0x80, 0xc2, 0x00, 0x00, 0x01] ++ beBytes 6 (nth 0 s.boot.ident.macs (4 + p)).toNat ++ [0x88, 0x08, 0x01, 0x01] ++
    beBytes 2 (2 ^ prio) ++ ((List.range 8).map (fun i => beBytes 2 (if i = prio then time else 0))).flatten)

/-- What a port has held back leaves once the pause is over (R382). -/
def releaseHeld (p : Nat) (s : State) : State :=
  if (fabOf s p).held = [] ∨ now s < (fabOf s p).paused then s
  else forEach (fabOf s p).held emit (fabmod p (fun f => { f with held := [] }) s)

/-- `n` bytes come into the 2 MiB receive buffer of fabric port p and what has drained since the last time leaves it, which is free
(log 13): XOFF at 1.5 MiB, XON at 1 MiB (R382). -/
def receiveBytes (p n : Nat) (s : State) : State :=
  let (d, s) := freshNat s
  let f := fabOf s p
  let rx := min 0x200000 (f.rx - d % (f.rx + 1) + n)
  if rx ≤ 0x100000 ∧ f.xoff then emit (.fabric (Fin.ofNat 3 p) (pfcFrame s p 0)) (fabmod p (fun f => { f with rx := rx, xoff := false }) s)
  else if 0x180000 ≤ rx ∧ !f.xoff then
    emit (.fabric (Fin.ofNat 3 p) (pfcFrame s p 0xffff)) (fabmod p (fun f => { f with rx := rx, xoff := true }) s)
  else fabmod p (fun f => { f with rx := rx }) s

/-- A cycle of fabric port p: its receive buffer drains (R382), and what a pause held leaves when it is over. -/
def fabricTick (p : Nat) (s : State) : State :=
  let s := if (fabOf s p).rx = 0 then s else receiveBytes p 0 s
  releaseHeld p s

/-- The empty queue (log 1): one AOCLK cycle passes; none where the always-on domain has no power or is held in reset. -/
def idle (s : State) : State :=
  if s.boot.state = .off ∨ s.boot.state = .held then s else forEach (List.range 3) fabricTick (aoTick s)

/-! ## Cistern (R222-R227) -/

/-- Bytes of fitted Cistern. -/
def cisternBytes (s : State) : Nat := if s.boot.ident.m128 then 0x2000000000 else 0x4000000000

/-- One past the usable area (R227). -/
def usableEnd (s : State) : Nat := if s.boot.ident.m128 then 0x1eec000000 else 0x3ddc000000

/-- Subchannel of a physical Cistern address (R226). -/
def subchannel (a : Nat) : Nat := ((a / 2 ^ 8) % 32) ^^^ ((a / 2 ^ 13) % 32)

/-- Base of the peer window of body position m. -/
def windowBase (m : Nat) : Nat := 0x010000000000 + m * 0x004000000000

/-- Bytes of a peer window. -/
def windowBytes : Nat := 0x4000000000

/-- Does the range lie in the peer window of some position? Answers the position and the offset. -/
def windowOf (a : Nat) : Option (Nat × Nat) :=
  if windowBase 0 ≤ a ∧ a < windowBase 4 then some ((a - windowBase 0) / windowBytes, (a - windowBase 0) % windowBytes) else none

/-- An address of the own window as the physical one it reaches (R222, R472). -/
def ownPhysical (s : State) (a : Nat) : Nat :=
  match windowOf a with
  | some (m, off) => if m = position s then off else a
  | none => a

/-- Do `n` bytes at `a` lie in the usable area of own Cistern? -/
def inUsable (s : State) (a n : Nat) : Bool := decide (a + n ≤ usableEnd s)

/-- Cluster SRAM of cluster k (R222). -/
def clusterBase (k : Nat) : Nat := 0x080010000000 + k * 0x400000

/-- Tensor address of index i (R222). -/
def tensorAddr (i : Nat) : Nat := 0x400000000000 + i * 0x10000000

/-- Index and offset of a tensor-window address. -/
def tensorOfAddr (a : Nat) : Option (Nat × Nat) :=
  if 0x400000000000 ≤ a ∧ a < 0x800000000000 then some ((a - 0x400000000000) / 0x10000000, (a - 0x400000000000) % 0x10000000)
  else none

/-- Offset in cluster SRAM of the pre-emption reserve and of the rollback area (R267, R144). -/
def reserveOff : Nat := 0x378000
def rollbackOff : Nat := 0x3f0000

end Sys2Proof.Machine
end

