-- ==== Sys2Proof/Machine/Num.lean ====
section
/-!
DEFINITION. Sys2Proof/Machine/Num.lean: exact values, the floating-point formats of R78, rounding (R88), the
compensated pair (R96) and the function values of R93.
-/

namespace Sys2Proof

/-- An exact value: NaN, an infinity, or (-1)^neg x m x 2^e. -/
inductive Fp where
  | nan
  | inf (neg : Bool)
  | fin (neg : Bool) (m : Nat) (e : Int)
  deriving DecidableEq, Repr

/-- A floating-point layout of R78: exponent bits, mantissa bits, bias, and its special encodings. -/
structure FloatFmt where
  ebits  : Nat
  mbits  : Nat
  bias   : Nat
  /-- E all ones holds infinities and NaN as in IEEE 754 -/
  ieee   : Bool
  /-- the all-ones code alone is NaN, no infinity (FP8 E4M3) -/
  topNan : Bool
  deriving DecidableEq, Repr

def fmtF64  : FloatFmt := ⟨11, 52, 1023, true, false⟩
def fmtF32  : FloatFmt := ⟨8, 23, 127, true, false⟩
def fmtBF16 : FloatFmt := ⟨8, 7, 127, true, false⟩
def fmtF16  : FloatFmt := ⟨5, 10, 15, true, false⟩
def fmtE5M2 : FloatFmt := ⟨5, 2, 15, true, false⟩
def fmtE4M3 : FloatFmt := ⟨4, 3, 7, false, true⟩
def fmtE2M3 : FloatFmt := ⟨2, 3, 1, false, false⟩
def fmtE3M2 : FloatFmt := ⟨3, 2, 3, false, false⟩
def fmtE2M1 : FloatFmt := ⟨2, 1, 1, false, false⟩

/-- The sign bit's place. -/
def FloatFmt.signBit (f : FloatFmt) : Nat := f.ebits + f.mbits

/-- The value of an encoding (R78). -/
def fpDecode (f : FloatFmt) (w : Nat) : Fp :=
  let neg := w.testBit f.signBit
  let e := (w / 2 ^ f.mbits) % 2 ^ f.ebits
  let m := w % 2 ^ f.mbits
  if f.ieee ∧ e = 2 ^ f.ebits - 1 then (if m = 0 then .inf neg else .nan)
  else if f.topNan ∧ e = 2 ^ f.ebits - 1 ∧ m = 2 ^ f.mbits - 1 then .nan
  else if e = 0 then .fin neg m (1 - (f.bias : Int) - f.mbits)
  else .fin neg (m + 2 ^ f.mbits) ((e : Int) - f.bias - f.mbits)

/-- Encoding of the largest finite magnitude. -/
def FloatFmt.maxMag (f : FloatFmt) : Nat :=
  if f.ieee then (2 ^ f.ebits - 1) * 2 ^ f.mbits - 1
  else if f.topNan then 2 ^ (f.ebits + f.mbits) - 2
  else 2 ^ (f.ebits + f.mbits) - 1

/-- Encoding of +infinity. -/
def FloatFmt.infMag (f : FloatFmt) : Nat := (2 ^ f.ebits - 1) * 2 ^ f.mbits

/-- Encoding of the canonical NaN (R87, R88). -/
def FloatFmt.nanCode (f : FloatFmt) : Nat :=
  if f.ieee then f.infMag + 2 ^ (f.mbits - 1) else 2 ^ (f.ebits + f.mbits) - 1

/-- How a tie between two neighbours is broken. -/
inductive TieRule where
  | even | away
  deriving DecidableEq, Repr

/-- m / 2^k rounded to nearest. -/
def roundShift (tie : TieRule) (m k : Nat) : Nat :=
  let q := m / 2 ^ k
  let r := m % 2 ^ k
  if k = 0 then m
  else if 2 * r < 2 ^ k then q
  else if 2 ^ k < 2 * r then q + 1
  else match tie with
    | .away => q + 1
    | .even => if q % 2 = 0 then q else q + 1

/-- The encoding, sign apart, of m x 2^e rounded to nearest; above `maxMag` where it overflows. -/
def roundMag (tie : TieRule) (f : FloatFmt) (m : Nat) (e : Int) : Nat :=
  if m = 0 then 0
  else
    let top : Int := e + Nat.log2 m
    let emin : Int := 1 - (f.bias : Int)
    let q : Int := max top emin - f.mbits
    let n := if q ≤ e then m * 2 ^ (e - q).toNat else roundShift tie m (q - e).toNat
    ((max top emin + f.bias - 1) * 2 ^ f.mbits + n).toNat

/-- The sign bit as a number. -/
def FloatFmt.sign (f : FloatFmt) (neg : Bool) : Nat := if neg then 2 ^ f.signBit else 0

/-- A value rounded to the format to nearest; overflow gives infinity, or the largest finite magnitude where the format
has none or `sat` asks for it (R88). -/
def fpEncode (tie : TieRule) (sat : Bool) (f : FloatFmt) : Fp → Nat
  | .nan => f.nanCode
  | .inf neg => f.sign neg + (if f.ieee then f.infMag else f.maxMag)
  | .fin neg m e =>
    let n := roundMag tie f m e
    f.sign neg + (if n ≤ f.maxMag then n else if f.ieee ∧ ¬ sat then f.infMag else f.maxMag)

/-- The signed numerator of m x 2^e over 2^q, for q at most e. -/
def fpScaled (neg : Bool) (m : Nat) (e q : Int) : Int :=
  let n : Int := m * 2 ^ (e - q).toNat
  if neg then -n else n

/-- The exact value n x 2^e of an integer numerator; zero has the sign `zneg`. -/
def fpOfInt (zneg : Bool) (n : Int) (e : Int) : Fp :=
  if n = 0 then .fin zneg 0 0 else .fin (decide (n < 0)) n.natAbs e

/-- Exact sum (R92); opposite values give +0. -/
def fpAdd : Fp → Fp → Fp
  | .nan, _ => .nan
  | _, .nan => .nan
  | .inf a, .inf b => if a = b then .inf a else .nan
  | .inf a, _ => .inf a
  | _, .inf b => .inf b
  | .fin na ma ea, .fin nb mb eb =>
    let q := min ea eb
    fpOfInt (na && nb) (fpScaled na ma ea q + fpScaled nb mb eb q) q

/-- Exact product (R83). -/
def fpMul : Fp → Fp → Fp
  | .nan, _ => .nan
  | _, .nan => .nan
  | .inf a, .inf b => .inf (a != b)
  | .inf a, .fin b m _ => if m = 0 then .nan else .inf (a != b)
  | .fin a m _, .inf b => if m = 0 then .nan else .inf (a != b)
  | .fin na ma ea, .fin nb mb eb => .fin (na != nb) (ma * mb) (ea + eb)

/-- The negated value. -/
def fpNeg : Fp → Fp
  | .nan => .nan
  | .inf n => .inf (!n)
  | .fin n m e => .fin (!n) m e

/-- Is a < b? False where either is NaN. -/
def fpLt : Fp → Fp → Bool
  | .nan, _ => false
  | _, .nan => false
  | .inf a, .inf b => a && !b
  | .inf a, .fin _ _ _ => a
  | .fin _ _ _, .inf b => !b
  | .fin na ma ea, .fin nb mb eb =>
    let q := min ea eb
    decide (fpScaled na ma ea q < fpScaled nb mb eb q)

/-- Are two values equal (zeros of both signs are)? False where either is NaN. -/
def fpEq : Fp → Fp → Bool
  | .nan, _ => false
  | _, .nan => false
  | .inf a, .inf b => a == b
  | .inf _, .fin _ _ _ => false
  | .fin _ _ _, .inf _ => false
  | .fin na ma ea, .fin nb mb eb =>
    let q := min ea eb
    decide (fpScaled na ma ea q = fpScaled nb mb eb q)

/-- Is the value negative, the sign of a zero counted? -/
def fpNegative : Fp → Bool
  | .nan => false
  | .inf n => n
  | .fin n _ _ => n

/-- Is the value finite? -/
def fpFinite : Fp → Bool
  | .fin _ _ _ => true
  | _ => false

/-! ## binary32 (R92) -/

def f32 (w : BitVec 32) : Fp := fpDecode fmtF32 w.toNat
def toF32 (v : Fp) : BitVec 32 := BitVec.ofNat 32 (fpEncode .even false fmtF32 v)
def f32Add (a b : BitVec 32) : BitVec 32 := toF32 (fpAdd (f32 a) (f32 b))
def f32Mul (a b : BitVec 32) : BitVec 32 := toF32 (fpMul (f32 a) (f32 b))
def f32Sub (a b : BitVec 32) : BitVec 32 := toF32 (fpAdd (f32 a) (fpNeg (f32 b)))
/-- a x b + c with one rounding. -/
def f32Fma (a b c : BitVec 32) : BitVec 32 := toF32 (fpAdd (fpMul (f32 a) (f32 b)) (f32 c))
def f32Nan : BitVec 32 := 0x7fc00000

/-- Maximum; a NaN operand gives NaN, and -0 is below +0 (R92, R100). -/
def f32Max (a b : BitVec 32) : BitVec 32 :=
  match f32 a, f32 b with
  | .nan, _ => f32Nan
  | _, .nan => f32Nan
  | x, y => if fpLt x y then b else if fpLt y x then a else if fpNegative x then b else a

/-- Minimum; a NaN operand gives NaN, and -0 is below +0. -/
def f32Min (a b : BitVec 32) : BitVec 32 :=
  match f32 a, f32 b with
  | .nan, _ => f32Nan
  | _, .nan => f32Nan
  | x, y => if fpLt x y then a else if fpLt y x then b else if fpNegative x then a else b

/-- A finite value rounded to the nearest integer, ties to even. -/
def fpToInt (neg : Bool) (m : Nat) (e : Int) : Int :=
  let n := if 0 ≤ e then m * 2 ^ e.toNat else roundShift .even m (-e).toNat
  if neg then -(n : Int) else n

/-- `v` clamped to lo .. hi. -/
def clampInt (lo hi v : Int) : Int := max lo (min hi v)

/-- p / 2^k rounded to nearest even. -/
def roundShiftInt (p : Int) (k : Nat) : Int :=
  let n : Int := roundShift .even p.natAbs k
  if p < 0 then -n else n

/-! ## binary64, for the solver -/

def f64 (w : BitVec 64) : Fp := fpDecode fmtF64 w.toNat
def toF64 (v : Fp) : BitVec 64 := BitVec.ofNat 64 (fpEncode .even false fmtF64 v)
def f64Add (a b : BitVec 64) : BitVec 64 := toF64 (fpAdd (f64 a) (f64 b))
def f64Mul (a b : BitVec 64) : BitVec 64 := toF64 (fpMul (f64 a) (f64 b))
def f64Sub (a b : BitVec 64) : BitVec 64 := toF64 (fpAdd (f64 a) (fpNeg (f64 b)))
/-- a x b + c with one rounding. -/
def f64Fma (a b c : BitVec 64) : BitVec 64 := toF64 (fpAdd (fpMul (f64 a) (f64 b)) (f64 c))
def f64One : BitVec 64 := 0x3ff0000000000000

/-- A quotient as a value that rounds to binary64 as the exact one does: at least 70 quotient bits, then a sticky bit. -/
def fpDiv : Fp → Fp → Fp
  | .nan, _ => .nan
  | _, .nan => .nan
  | .inf _, .inf _ => .nan
  | .inf a, .fin b _ _ => .inf (a != b)
  | .fin a _ _, .inf b => .fin (a != b) 0 0
  | .fin na ma ea, .fin nb mb eb =>
    if mb = 0 then (if ma = 0 then .nan else .inf (na != nb))
    else
      let k := 71 + Nat.log2 mb
      .fin (na != nb) (2 * (ma * 2 ^ k / mb) + (if ma * 2 ^ k % mb = 0 then 0 else 1)) (ea - eb - k - 1)

def f64Div (a b : BitVec 64) : BitVec 64 := toF64 (fpDiv (f64 a) (f64 b))

/-! ## The compensated pair (R95, R96) -/

/-- Exponent of ulp(V): 2^(e - 23) for a normal V, 2^-149 for a subnormal or zero one. -/
def ulpExp (v : BitVec 32) : Int :=
  let e : Nat := (v.toNat / 2 ^ 23) % 256
  if e = 0 then -149 else Int.ofNat e - 150

/-- The exact value V + C x 2^-16 x ulp(V) of an entry (R96). -/
def compValue (entry : BitVec 48) : Fp :=
  let v := entry.extractLsb' 0 32
  let c := (entry.extractLsb' 32 16).toInt
  fpAdd (f32 v) (fpOfInt false c (ulpExp v - 16))

/-- C of `y` against V: (y - V) / (2^-16 x ulp(V)) rounded to nearest even. -/
def compWord (y : Fp) (v : BitVec 32) : Int :=
  match fpAdd y (fpNeg (f32 v)) with
  | .fin n m e => fpToInt n m (e - (ulpExp v - 16))
  | _ => 0

/-- The neighbour of V one ulp up (for a positive V away from zero; see log 20). -/
def f32Up (v : BitVec 32) : BitVec 32 :=
  if v = 0x80000000 then 1 else if v.getLsbD 31 then v - 1 else v + 1

/-- An entry of compensation word `c` and value `v`. -/
def mkEntry (c : Int) (v : BitVec 32) : BitVec 48 := BitVec.ofInt 16 c ++ v

/-- The entry of an exact result `y` (R96). -/
def compPair (y : Fp) : BitVec 48 :=
  let v := BitVec.ofNat 32 (fpEncode .away false fmtF32 y)
  if fpFinite (f32 v) = false then mkEntry 0 v
  else
    let c := compWord y v
    if c ≤ 32767 then mkEntry c v
    else
      let w := f32Up v
      if fpFinite (f32 w) then mkEntry (compWord y w) w else mkEntry 0 w

/-! ## Function values (R93) in fixed point with `fxP` fraction bits -/

/-- Fraction bits of the series below; binary32 needs at most 300. -/
def fxP : Nat := 400

def fxOne : Int := 2 ^ fxP
def fxMul (a b : Int) : Int := a * b / fxOne
def fxDiv (a b : Int) : Int := a * fxOne / b

/-- Sum of `n` further terms, each the last times a rational step: t_(k+1) = t_k x x / (k+1), the series of e^x. -/
def expTerms (x : Int) : Nat → Nat → Int → Int
  | 0, _, t => t
  | n + 1, k, t => t + expTerms x n (k + 1) (fxMul t x / (k + 1))

/-- ln 2 = sum of 1 / (k 2^k). -/
def fxLn2 : Int := (List.range fxP).foldl (fun a k => a + fxOne / Int.ofNat ((k + 1) * 2 ^ (k + 1))) 0

/-- e^x. Past 2^2000 either way it stands for itself: below, it is 0 in `fxP` bits; above, only its reciprocal is used, which is 0. -/
def fxExp (x : Int) : Int :=
  let q := x / fxLn2
  let y := expTerms (x - q * fxLn2) 90 0 fxOne
  let k : Int := max (-2000) (min 2000 q)
  if 0 ≤ k then y * 2 ^ k.toNat else y / 2 ^ (-k).toNat

/-- atanh z = z + z^3/3 + z^5/5 + ... -/
def atanhTerms (z2 : Int) : Nat → Nat → Int → Int
  | 0, _, _ => 0
  | n + 1, k, t => t / (2 * k + 1) + atanhTerms z2 n (k + 1) (fxMul t z2)

/-- ln y for y > 0. -/
def fxLn (y : Int) : Int :=
  let k : Int := Nat.log2 y.toNat - (fxP : Int)
  let m := if 0 ≤ k then y / 2 ^ k.toNat else y * 2 ^ (-k).toNat
  let z := fxDiv (m - fxOne) (m + fxOne)
  k * fxLn2 + 2 * atanhTerms (fxMul z z) 135 0 z

/-- Newton's iteration for the integer square root, from above, with fuel. -/
def isqrtGo (n : Nat) : Nat → Nat → Nat
  | 0, r => r
  | fuel + 1, r => let q := (r + n / r) / 2; if q < r then isqrtGo n fuel q else r

/-- floor (sqrt n). -/
def isqrt (n : Nat) : Nat := if n = 0 then 0 else isqrtGo n 1000 (2 ^ (Nat.log2 n / 2 + 1))

/-- arctan (1/q) = sum of (-1)^k / ((2k+1) q^(2k+1)). -/
def atanInv (q n : Nat) : Int :=
  (List.range n).foldl (fun a k =>
    let t : Int := fxOne / Int.ofNat ((2 * k + 1) * q ^ (2 * k + 1))
    if k % 2 = 0 then a + t else a - t) 0

/-- pi, by Machin's formula. -/
def fxPi : Int := 16 * atanInv 5 90 - 4 * atanInv 239 30

/-- sqrt of a fixed-point value. -/
def fxSqrt (y : Int) : Int := isqrt (y.toNat * 2 ^ fxP)

/-- erf z = 2/sqrt pi x sum of (-1)^k z^(2k+1) / (k! (2k+1)). -/
def erfTerms (z2 : Int) : Nat → Nat → Int → Int
  | 0, _, _ => 0
  | n + 1, k, t => t / (2 * k + 1) + erfTerms z2 n (k + 1) (-(fxMul t z2) / (k + 1))

def fxErf (z : Int) : Int := fxDiv (2 * erfTerms (fxMul z z) 330 0 z) (fxSqrt fxPi)

/-- A fixed-point value of a finite m x 2^e. -/
def fxOf (neg : Bool) (m : Nat) (e : Int) : Int :=
  let k := e + fxP
  let n : Int := if 0 ≤ k then m * 2 ^ k.toNat else m / 2 ^ (-k).toNat
  if neg then -n else n

/-- A fixed-point value as an exact value. -/
def fxFp (v : Int) : Fp := fpOfInt false v (-(fxP : Int))

def fxSigmoid (x : Int) : Int := fxDiv fxOne (fxOne + fxExp (-x))
def fxTanh (x : Int) : Int :=
  let t := fxExp (2 * x)
  fxDiv (t - fxOne) (t + fxOne)

/-- The function instructions (R93), in the order of their opcodes. -/
inductive FuncOp where
  | exp | log | rcp | rsq | sig | tanh | silu | gelu | splus
  deriving DecidableEq, Repr

/-- Bound in ulp (R93). -/
def FuncOp.bound : FuncOp → Int
  | .exp => 2 | .log => 2 | .rcp => 1 | .rsq => 1 | .sig => 2 | .tanh => 2 | .silu => 3 | .gelu => 4 | .splus => 3

/-- Opcode less 0x20, which names the function to `Config.funcUlp`. -/
def FuncOp.code : FuncOp → Nat
  | .exp => 0 | .log => 1 | .rcp => 2 | .rsq => 3 | .sig => 4 | .tanh => 5 | .silu => 6 | .gelu => 7 | .splus => 8

/-- What R93 fixes exactly, where it does: NaN, the infinities' limits, the named ranges; and exp(0), which R156 needs to be 1.0 exactly. The sign of VRSQ's infinity at -0 is free, as
the sign of a zero limit is (log 84). -/
def funcSpecial (op : FuncOp) (w : BitVec 32) : Option (BitVec 32) :=
  match op, f32 w with
  | _, .nan => some f32Nan
  | .exp, .inf n => some (if n then 0 else 0x7f800000)
  | .exp, .fin n m e => if m = 0 then some 0x3f800000 else if fpLt (.fin false 8873 0) (fpMul (.fin n m e) (.fin false 100 0)) then some 0x7f800000 else none
  | .log, .inf n => some (if n then f32Nan else 0x7f800000)
  | .log, .fin n m _ => if m = 0 then some 0xff800000 else if n then some f32Nan else none
  | .rcp, .inf n => some (if n then 0x80000000 else 0)
  | .rcp, .fin n m _ => if m = 0 then some (if n then 0xff800000 else 0x7f800000) else none
  | .rsq, .inf n => some (if n then f32Nan else 0)
  | .rsq, .fin n m _ =>
    if m = 0 then some (if n && Config.limitZeroNeg op.code then 0xff800000 else 0x7f800000) else if n then some f32Nan else none
  | .sig, .inf n => some (if n then 0 else 0x3f800000)
  | .tanh, .inf n => some (if n then 0xbf800000 else 0x3f800000)
  | .tanh, .fin n m e => if fpLt (.fin false m e) (.fin false 1 (-12)) then some w else if n && m == 0 then some w else none
  | .silu, .inf n => some (if n then Config.limitZero op.code else 0x7f800000)
  | .gelu, .inf n => some (if n then Config.limitZero op.code else 0x7f800000)
  | .gelu, .fin n m e =>
    if fpLt (.fin false 10 0) (.fin false m e) then some (if n then Config.limitZero op.code else w) else none
  | .splus, .inf n => some (if n then 0 else 0x7f800000)
  | _, _ => none

/-- The fixed-point value of the function at a finite operand of its domain. -/
def funcFx (op : FuncOp) (x : Int) (neg : Bool) (m : Nat) (e : Int) : Fp :=
  match op with
  | .exp => fxFp (fxExp x)
  | .log =>
    let k : Int := Nat.log2 m
    fxFp (fxLn (fxOf false m (-k)) + (e + k) * fxLn2)
  | .rcp => .fin neg (2 ^ (fxP + Nat.log2 m) / m) (-(fxP : Int) - Nat.log2 m - e)
  | .rsq =>
    let (m', e') := if e % 2 = 0 then (m, e) else (2 * m, e - 1)
    let k := 2 * fxP
    .fin false (isqrt (2 ^ (2 * k) / m')) (-(k : Int) - e' / 2)
  | .sig => fxFp (fxSigmoid x)
  | .tanh => fxFp (fxTanh x)
  | .silu => fxFp (fxMul x (fxSigmoid x))
  | .gelu => fxFp (fxMul x ((fxOne + fxErf (fxDiv x (fxSqrt (2 * fxOne)))) / 2))
  | .splus => if 0 < x then fxFp (x + fxLn (fxOne + fxExp (-x))) else fxFp (fxLn (fxOne + fxExp x))

/-- The exactly rounded result of a function instruction. -/
def funcExact (op : FuncOp) (w : BitVec 32) : BitVec 32 :=
  match f32 w with
  | .fin n m e => toF32 (funcFx op (fxOf n m e) n m e)
  | _ => f32Nan

/-- An encoding as a number that rises with its value, one per ulp. -/
def f32Ord (w : BitVec 32) : Int := if w.getLsbD 31 then -((w.toNat : Int) - 2 ^ 31) else w.toNat

/-- The encoding of an ordinal. -/
def f32OfOrd (n : Int) : BitVec 32 := if n < 0 then BitVec.ofNat 32 (2 ^ 31 + (-n).toNat) else BitVec.ofInt 32 n

/-- The ordinal of +infinity, which no offset in ulp passes. -/
def infOrd : Int := 0x7f800000

/-- The result of a function instruction: what R93 fixes, else any value within its bound in ulp of the exactly rounded
result, at most infinity, the offset free and the sign of a zero too (log 21). -/
def funcResult (op : FuncOp) (w : BitVec 32) : BitVec 32 :=
  match funcSpecial op w with
  | some r => r
  | none =>
    let n := clampInt (-infOrd) infOrd (f32Ord (funcExact op w) + clampInt (-op.bound) op.bound (Config.funcUlp op.code w))
    if n = 0 then Config.limitZero op.code else f32OfOrd n

end Sys2Proof
end

