-- ==== Sys2Proof/Machine/Operands.lean ====
section
/-!
DEFINITION. Sys2Proof/Machine/Operands.lean: operand forms of the tile: format codes (R78-R81), address-generator
streams and accesses (R112-R118), vector registers and accumulator rows (R94, R95).
-/

namespace Sys2Proof.Machine

/-- Tile SRAM of tile `t` (R222). -/
def tileBase (t : Nat) : Nat := 0x080000000000 + t * 0x80000

/-- Bytes of a tile's SRAM. -/
def tileBytes : Nat := 0x80000

/-! ## Format codes (R78) -/

/-- Element bits of a format code; 0 for a reserved code. -/
def fmtBits : Nat → Nat
  | 0x0 => 8 | 0x1 => 8 | 0x2 => 4 | 0x3 => 8 | 0x4 => 8 | 0x5 => 8 | 0x6 => 6 | 0x7 => 6 | 0x8 => 4
  | 0x9 => 16 | 0xa => 16 | 0xb => 32 | 0xc => 32
  | _ => 0

def fmtIsInt (c : Nat) : Bool := c == 0 || c == 1 || c == 2 || c == 0xc
def fmtIsMx (c : Nat) : Bool := c == 5 || c == 6 || c == 7 || c == 8

/-- Allowed as operand A of the array. -/
def fmtA (c : Nat) : Bool := decide (c ≤ 0xa)
/-- Allowed as operand B of the array. -/
def fmtB (c : Nat) : Bool := decide (c ≤ 0xa) && c != 1
/-- Allowed as the destination of DRAIN. -/
def fmtD (c : Nat) : Bool := c == 3 || c == 4 || c == 9 || c == 0xa || c == 0xb || c == 0xc
/-- Allowed as the source of a vector load (R78); ALD in value mode, which R78 does not list, takes the same (log 22). -/
def fmtLoad (c : Nat) : Bool := c == 0 || c == 1 || c == 0xb || c == 0xc
/-- Allowed as the destination of a vector store: those R78 lists, and the destinations that R88 gives VST's SATFIN (log 22). -/
def fmtStore (c : Nat) : Bool := decide (c ≤ 0xc)

/-- The floating-point layout of a code. -/
def fmtFloat : Nat → FloatFmt
  | 0x3 => fmtE4M3 | 0x4 => fmtE5M2 | 0x6 => fmtE2M3 | 0x7 => fmtE3M2 | 0x8 => fmtE2M1 | 0x9 => fmtBF16
  | 0xa => fmtF16 | _ => fmtF32

/-- The value of an integer element. -/
def intElem (c w : Nat) : Int := if c = 1 then w else signedOf (fmtBits c) w

/-- The value of a floating-point or MX element, its scale apart. -/
def fpElem (c w : Nat) : Fp := if c = 5 then fpOfInt false (signedOf 8 w) (-6) else fpDecode (fmtFloat c) w

/-- The encoding of 1 in a format: integer 1 or 1.0 (R115). -/
def fmtOne (c : Nat) : Nat := if fmtIsInt c then 1 else (fmtFloat c).bias * 2 ^ (fmtFloat c).mbits

/-! ## Slots (R113) -/

def slotBase (img : Bytes) : Nat := fieldAt img 0 4 % 2 ^ 19
def slotSBase (img : Bytes) : Nat := fieldAt img 4 4 % 2 ^ 19
def slotPad (img : Bytes) : Nat := fieldAt img 8 4
def slotCtrl (img : Bytes) : Nat := fieldAt img 12 4
def slotOffset (img : Bytes) : Nat := slotCtrl img / 2 ^ 16 % 256
def slotSkip (img : Bytes) : Nat := slotCtrl img / 2 ^ 8 % 256
def slotQuantCode (img : Bytes) : Nat := slotCtrl img / 2 ^ 4 % 4
def slotQuant (img : Bytes) : Nat := 16 * 2 ^ slotQuantCode img
def slotUnit (img : Bytes) : Bool := (slotCtrl img).testBit 3
def slotFlush (img : Bytes) : Nat := slotCtrl img % 8

/-- EXTENT and START of axis `a`. -/
def slotExtent (img : Bytes) (a : Nat) : Nat := fieldAt img (0x10 + 4 * a + 2) 2
def slotStart (img : Bytes) (a : Nat) : Int := signedOf 16 (fieldAt img (0x10 + 4 * a) 2)

/-- The 48-bit LEVEL entry `l`. -/
def slotLevel (img : Bytes) (l : Nat) : Nat := fieldAt img (0x1c + 6 * l) 6
def lvAxis (v : Nat) : Nat := v / 2 ^ 46
def lvCstep (v : Nat) : Int := signedOf 10 (v / 2 ^ 36 % 2 ^ 10)
def lvPitch (v : Nat) : Int := signedOf 20 (v / 2 ^ 16 % 2 ^ 20)
def lvCount (v : Nat) : Nat := v % 2 ^ 16 + 1

/-- Elements in a complete cycle of levels lo .. hi - 1. -/
def slotSpan (img : Bytes) (lo hi : Nat) : Nat :=
  ((List.range 6).filter (fun l => decide (lo ≤ l) && decide (l < hi))).foldl (fun a l => a * lvCount (slotLevel img l)) 1

/-- Elements between flushes before padding, and after it (R115). -/
def slotGroup (img : Bytes) : Nat := if slotFlush img ≤ 5 then slotSpan img 0 (slotFlush img + 1) else slotSpan img 0 6
def slotPadded (img : Bytes) : Nat :=
  if slotFlush img ≤ 5 then roundUp (slotGroup img) (slotQuant img) else slotGroup img

/-- The stream length, inserted padding counted. -/
def slotLength (img : Bytes) : Nat :=
  if slotFlush img ≤ 5 then slotPadded img * slotSpan img (slotFlush img + 1) 6 else slotSpan img 0 6

/-- The LEVEL entries from a list with the indices of linear element number `n`, the first fastest. -/
def indicesOf : Nat → List Nat → List (Nat × Nat)
  | _, [] => []
  | n, v :: vs => (v, n % lvCount v) :: indicesOf (n / lvCount v) vs

/-- The level indices of linear element number `n`. -/
def levelIndices (img : Bytes) (n : Nat) : List (Nat × Nat) := indicesOf n ((List.range 6).map (slotLevel img))

/-- What a stream position names. -/
inductive ElemRef where
  /-- an in-bounds element at this bit address -/
  | bit (a : Int)
  /-- an out-of-bounds element -/
  | out
  /-- an inserted element, the first of its flush or not -/
  | flush (first : Bool)
  deriving DecidableEq, Repr

/-- The element of linear number `n` at `b` bits per element (R114). -/
def elemAt (img : Bytes) (b n : Nat) : ElemRef :=
  let ix := levelIndices img n
  let off : Int := ix.foldl (fun a p => a + lvPitch p.1 * p.2) 0
  let axisOk (a : Nat) : Bool :=
    slotExtent img a == 0 ||
    (let c := ix.foldl (fun acc p => if lvAxis p.1 = a + 1 then acc + lvCstep p.1 * p.2 else acc) (slotStart img a)
     decide (0 ≤ c) && decide (c < slotExtent img a))
  if (List.range 3).all axisOk then .bit (slotBase img * 8 + off * b) else .out

/-- The element at stream position `p` (R112, R115). -/
def streamRef (img : Bytes) (b p : Nat) : ElemRef :=
  let p := p % slotLength img
  let g := p / slotPadded img
  let r := p % slotPadded img
  if r < slotGroup img then elemAt img b (g * slotGroup img + r) else .flush (r == slotGroup img)

/-! ## Accesses (R116-R118) -/

/-- Does an in-bounds element lie in the tile's SRAM, all its bytes among them (R117 speaks of its byte address; log 114, DESIGN CHOICE)? -/
def refInside (b : Nat) : ElemRef → Bool
  | .bit a => decide (0 ≤ a) && decide (a + b ≤ tileBytes * 8)
  | _ => true

/-- The slot is not one that R117 makes illegal for format code `c` (raw entries have code 16). An access judges it, not the AGSET that loads the slot
(log 113, DESIGN CHOICE). -/
def slotLegal (img : Bytes) (c : Nat) : Bool :=
  slotQuantCode img != 3 && slotFlush img != 6 && !(slotUnit img && fmtIsMx c)

/-- The references of an access of `n` elements at the slot's position; none where R117 makes it illegal. -/
def access (sl : AgSlot) (c b n : Nat) : Option (List ElemRef) :=
  let refs := (List.range n).map (fun i => streamRef sl.image b (sl.pos + i))
  if slotLegal sl.image c && refs.all (refInside b) then some refs else none

/-- The slot after an access of `n` elements (R115). -/
def advance (sl : AgSlot) (n : Nat) : AgSlot :=
  { sl with pos := (sl.pos + n + slotSkip sl.image) % slotLength sl.image }

/-- The `b` bits at bit address `a` of tile `t`'s SRAM. -/
def readBits (m : Memory) (t a b : Nat) : Nat :=
  memNat m (tileBase t + a / 8) ((a % 8 + b + 7) / 8) / 2 ^ (a % 8) % 2 ^ b

/-- The `b` bits at bit address `a` of tile `t`'s SRAM set to `v`. -/
def writeBits (m : Memory) (t a b v : Nat) : Memory :=
  let n := (a % 8 + b + 7) / 8
  let old := memNat m (tileBase t + a / 8) n
  let new := old - (old / 2 ^ (a % 8) % 2 ^ b) * 2 ^ (a % 8) + (v % 2 ^ b) * 2 ^ (a % 8)
  memWriteNat m (tileBase t + a / 8) n new

/-- The element a reference reads, encoded in format `c` (R114, R115). -/
def readRef (m : Memory) (t : Nat) (img : Bytes) (c b : Nat) : ElemRef → Nat
  | .bit a => readBits m t a.toNat b
  | .flush true => if slotUnit img then fmtOne c else slotPad img % 2 ^ b
  | _ => slotPad img % 2 ^ b

/-- A read access: its elements and the slot after it. -/
def readAccess (m : Memory) (t : Nat) (sl : AgSlot) (c b n : Nat) : Option (List Nat × AgSlot) :=
  (access sl c b n).map (fun refs => (refs.map (readRef m t sl.image c b), advance sl n))

/-- The write conditions of 4-bit and 6-bit formats (R117). -/
def writeLegal (sl : AgSlot) (b : Nat) (refs : List ElemRef) : Bool :=
  if b = 4 ∨ b = 6 then
    let unit := if b = 4 then 2 else 4
    let startOk : Bool := match refs with
      | .bit a :: _ => decide ((a - slotBase sl.image * 8) % ((unit * b : Nat) : Int) = 0)
      | _ => true
    startOk && decide (lvPitch (slotLevel sl.image 0) = 1) && refs.all (fun r => r != .out)
  else true

/-- A write access of the encoded elements `vs`; out-of-bounds and inserted elements are discarded (R114). -/
def writeAccess (m : Memory) (t : Nat) (sl : AgSlot) (c b : Nat) (vs : List Nat) : Option (Memory × AgSlot) :=
  match access sl c b vs.length with
  | none => none
  | some refs =>
    if writeLegal sl b refs then
      some ((refs.zip vs).foldl (fun m p => match p.1 with
        | .bit a => writeBits m t a.toNat b p.2
        | _ => m) m, advance sl vs.length)
    else none

/-- The bytes at offset `a` of tile `t`'s SRAM, if they lie in it: a scale access (R116, R117). -/
def scaleBytes (m : Memory) (t a n : Nat) : Option Bytes :=
  if a + n ≤ tileBytes then some (memRead m (tileBase t + a) n) else none

/-- Tile cycles of an access over a port of `width` bytes (R118). -/
def portCycles (refs : List ElemRef) (b width : Nat) : Nat :=
  let bits := refs.filterMap (fun r => match r with | .bit a => some a.toNat | _ => none)
  let lines := dedup (bits.map (fun a => a / 512) ++ bits.map (fun a => (a + b - 1) / 512))
  max 1 (max (ceilDiv (ceilDiv (bits.length * b) 8) width) (ceilDiv lines.length 2))

/-- Cycles of an access at the slot's position. -/
def accessCycles (sl : AgSlot) (b n width : Nat) : Nat :=
  portCycles ((List.range n).map (fun i => streamRef sl.image b (sl.pos + i))) b width

/-! ## Registers and rows of a tile -/

def lane (tl : Tile) (r i : Nat) : BitVec 32 := tblGet 0 tl.v (64 * r + i)
def lanes (tl : Tile) (r : Nat) : List (BitVec 32) := (List.range 64).map (lane tl r)
def setLane (r i : Nat) (v : BitVec 32) (tl : Tile) : Tile := { tl with v := tblSet 0 tl.v (64 * r + i) v }

/-- Register `r` written with 64 lanes, holding integers or not. -/
def setReg (r : Nat) (vs : List (BitVec 32)) (isInt : Bool) (tl : Tile) : Tile :=
  let tl := (vs.zipIdx.take 64).foldl (fun tl p => setLane r p.2 p.1 tl) tl
  { tl with intRegs := if isInt then (if r ∈ tl.intRegs then tl.intRegs else tl.intRegs ++ [r]) else tl.intRegs.filter (· ≠ r) }

def entry (tl : Tile) (r c : Nat) : BitVec 48 := tblGet 0 tl.acc (64 * r + c)
def setEntry (r c : Nat) (v : BitVec 48) (tl : Tile) : Tile := { tl with acc := tblSet 0 tl.acc (64 * r + c) v }
def rowV (tl : Tile) (r : Nat) : List (BitVec 32) := (List.range 64).map (fun c => (entry tl r c).extractLsb' 0 32)

/-- Row `r` written entry by entry, marked as integer or not (R104). -/
def setRow (r : Nat) (vs : List (BitVec 48)) (isInt : Bool) (tl : Tile) : Tile :=
  let tl := (vs.zipIdx.take 64).foldl (fun tl p => setEntry r p.2 p.1 tl) tl
  { tl with intRows := if isInt then (if r ∈ tl.intRows then tl.intRows else tl.intRows ++ [r]) else tl.intRows.filter (· ≠ r) }

def slotOf (tl : Tile) (g : Nat) : AgSlot := tblGet {} tl.slots g
def setSlot (g : Nat) (sl : AgSlot) (tl : Tile) : Tile := { tl with slots := tblSet {} tl.slots g sl }

end Sys2Proof.Machine
end

