-- ==== Sys2Proof/Machine/TileOps.lean ====
section
/-!
DEFINITION. Sys2Proof/Machine/TileOps.lean: what a tile instruction of the array, the accumulator file and the vector
engine does to the tile and its SRAM (R82-R106). `none` is an illegal operation (R102): nothing changed.
-/

namespace Sys2Proof.Machine

/-- What an instruction leaves: memory, the tile, and the tile cycles it took. -/
structure TileOut where
  mem    : Memory
  tile   : Tile
  cycles : Nat
  deriving DecidableEq, Repr

/-- Fields with every bit set in those named: masks of the bits a row of R100 names. -/
def tileNames : Nat → TileFields
  | 0x01 => ⟨0, 15, 0, 1, 0, 15, 0, 0, 0, 0⟩
  | 0x02 => ⟨15, 15, 0, 7, 15, 0, 0, 127, 127, 0⟩
  | 0x03 => ⟨0, 0, 0, 0, 0, 0, 0, 127, 127, 0⟩
  | 0x04 => ⟨0, 0, 15, 3, 0, 0, 15, 127, 127, 0⟩
  | 0x05 => ⟨15, 0, 0, 3, 15, 0, 0, 127, 127, 0⟩
  | 0x06 => ⟨0, 0, 0, 1, 0, 0, 15, 127, 127, 0⟩
  | 0x10 => ⟨15, 0, 0, 0, 15, 0, 15, 0, 0, 0⟩
  | 0x11 => ⟨0, 0, 15, 1, 15, 0, 15, 0, 0, 0⟩
  | 0x12 => ⟨0, 0, 0, 0, 0, 0, 15, 127, 0, 0⟩
  | 0x13 => ⟨0, 0, 0, 6, 15, 0, 0, 127, 0, 0⟩
  | 0x14 => ⟨0, 0, 0, 0, 15, 15, 15, 0, 0, 0⟩
  | 0x15 => ⟨0, 0, 0, 0, 15, 15, 15, 0, 0, 0⟩
  | 0x16 => ⟨0, 0, 0, 0, 15, 15, 15, 0, 0, 15⟩
  | 0x17 => ⟨0, 0, 0, 0, 15, 15, 15, 0, 0, 0⟩
  | 0x18 => ⟨0, 0, 0, 0, 15, 15, 15, 0, 0, 0⟩
  | 0x19 => ⟨0, 0, 0, 7, 15, 15, 15, 0, 0, 0⟩
  | 0x1a => ⟨0, 0, 0, 0, 15, 15, 15, 0, 0, 15⟩
  | 0x1b => ⟨15, 0, 15, 3, 15, 0, 15, 0, 0, 0⟩
  | 0x1c => ⟨0, 0, 15, 0, 15, 15, 15, 0, 0, 0x3fff⟩
  | 0x1d => ⟨0, 0, 15, 0, 15, 0, 15, 0, 0, 0⟩
  | 0x1e => ⟨0, 0, 0, 1, 15, 0, 15, 0, 0, 0⟩
  | 0x30 => ⟨0, 0, 0, 0, 15, 15, 0, 127, 0, 0⟩
  | 0x38 => ⟨0, 0, 0, 0, 15, 0, 0, 0, 0, 0x3f00⟩
  | 0x40 => ⟨0, 0, 0, 0, 15, 0, 0, 0, 0, 0x3fff⟩
  | 0x41 => ⟨0, 0, 0, 0, 0, 0, 0, 0, 0, 0x3fff⟩
  | 0x42 => ⟨0, 0, 0, 0, 0, 0, 0, 0, 0, 0x3fff⟩
  | 0x43 => ⟨0, 0, 0, 0, 0, 0, 0, 0, 0, 0xff⟩
  | 0x44 => ⟨0, 0, 0, 0, 0, 0, 0, 0, 0, 0x3fff⟩
  | 0x45 => ⟨0, 0, 0, 0, 0, 0, 0, 0, 0, 0x3fff⟩
  | 0x46 => ⟨0, 0, 0, 3, 0, 0, 0, 0, 0, 0x3fff⟩
  | 0x47 => ⟨0, 0, 0, 3, 0, 0, 0, 0, 0, 0x3fff⟩
  | op => if 0x20 ≤ op ∧ op ≤ 0x28 then ⟨0, 0, 0, 0, 15, 0, 15, 0, 0, 0⟩ else ⟨0, 0, 0, 0, 0, 0, 0, 0, 0, 0⟩

/-- Every field bit that the opcode's row does not name is 0 (R100, R102). -/
def fieldsNamed (op : Nat) (f : TileFields) : Bool :=
  let n := tileNames op
  decide (f.fa &&& ~~~n.fa = 0) && decide (f.fb &&& ~~~n.fb = 0) && decide (f.fd &&& ~~~n.fd = 0) &&
  decide (f.mod &&& ~~~n.mod = 0) && decide (f.ga &&& ~~~n.ga = 0) && decide (f.gb &&& ~~~n.gb = 0) &&
  decide (f.gd &&& ~~~n.gd = 0) && decide (f.row &&& ~~~n.row = 0) && decide (f.cnt &&& ~~~n.cnt = 0) &&
  decide (f.imm &&& ~~~n.imm = 0)

/-- Rows ROW .. ROW + CNT; none past row 127 (R94). -/
def rowsOf (f : TileFields) : Option (List Nat) :=
  if f.row.toNat + f.cnt.toNat ≤ 127 then some ((List.range (f.cnt.toNat + 1)).map (fun i => f.row.toNat + i)) else none

/-- Continues only where a condition of R102 does not make the instruction illegal. -/
def legal (c : Bool) (r : Option TileOut) : Option TileOut := if c then r else none

/-! ## Weight buffers and MMA (R82-R87) -/

/-- K rows of a weight block of format `c`, as LDW lays it (R82). -/
def blockK (c : Nat) : Nat := if c = 2 ∨ c = 6 ∨ c = 7 ∨ c = 8 then 32 else 16

/-- K of a pass (R81). -/
def passK (a b : Nat) : Nat :=
  if (a = 2 ∧ b = 2) ∨ ((a = 6 ∨ a = 7 ∨ a = 8) ∧ (b = 6 ∨ b = 7 ∨ b = 8)) then 32 else 16

/-- Tile cycles of a pass: 2 at 16-bit rate (R81). -/
def passCycles (a b : Nat) : Nat := if a = 9 ∨ a = 0xa ∨ b = 9 ∨ b = 0xa then 2 else 1

/-- Does R81 allow the pair? -/
def pairOk (a b : Nat) : Bool := fmtA a && fmtB b && (fmtIsInt a == fmtIsInt b)

/-- Elements packed into bytes, `b` bits each (R79). -/
def packElems (b : Nat) (vs : List Nat) : Bytes :=
  let n := (vs.zipIdx).foldl (fun a p => a + p.1 * 2 ^ (b * p.2)) 0
  leBytes ((vs.length * b + 7) / 8) n

/-- A byte string as table entries, zeros left out. -/
def bytesTbl (bs : Bytes) : Tbl (BitVec 8) := cellsOf 0 bs

/-- LDW (R82). A block shorter than 2,048 bytes leaves 0 in the rest of its buffer, and one of a format without scales leaves the old
column scales, which no MMA on it reads (log 85). -/
def opLdw (t : Nat) (f : TileFields) (m : Memory) (tl : Tile) : Option TileOut :=
  let c := f.fb.toNat
  let sl := slotOf tl f.gb.toNat
  let k := blockK c
  legal (fieldsNamed 0x01 f && fmtB c) <|
    match readAccess m t sl c (fmtBits c) (k * 64) with
    | none => none
    | some (es, sl') =>
      let old := if f.mod.getLsbD 0 then tl.w1 else tl.w0
      let scales := if fmtIsMx c then scaleBytes m t (slotSBase sl.image + 64 * (sl.pos / 2048)) 64 else some []
      match scales with
      | none => none
      | some sc =>
        let new : WBuf := { data := bytesTbl (packElems (fmtBits c) es), scales := if fmtIsMx c then bytesTbl sc else old.scales }
        let tl := setSlot f.gb.toNat sl' tl
        some ⟨m, if f.mod.getLsbD 0 then { tl with w1 := new } else { tl with w0 := new },
          accessCycles sl (fmtBits c) (k * 64) 128⟩

/-- Weight element k of column c in a buffer loaded in format `fb`. -/
def weight (w : WBuf) (fb k c : Nat) : Nat :=
  let b := fmtBits fb
  let a := (c * blockK fb + k) * b
  leNat ((List.range ((a % 8 + b + 7) / 8)).map (fun i => tblGet 0 w.data (a / 8 + i))) / 2 ^ (a % 8) % 2 ^ b

/-- The exact integer group sum of a row and a column. -/
def intGroup (a b : Nat) (as bs : List Nat) : Int := ((as.zip bs).map (fun p => intElem a p.1 * intElem b p.2)).foldl (· + ·) 0

/-- A finite product aligned to the window whose last bit weighs 2^q, truncated toward zero (R84). -/
def alignTrunc (q : Int) : Fp → Int
  | .fin n m e =>
    let v : Nat := if q ≤ e then m * 2 ^ (e - q).toNat else m / 2 ^ (q - e).toNat
    if n then -(v : Int) else v
  | _ => 0

/-- Exponent of the leading bit of a finite value's magnitude. -/
def topBit : Fp → Option Int
  | .fin _ m e => if m = 0 then none else some (e + Nat.log2 m)
  | _ => none

/-- The floating-point group sum of a list of exact products (R84, R87). -/
def groupSum (ps : List Fp) : Fp :=
  if ps.any (fun p => p == .nan) then .nan
  else
    let pos := ps.any (fun p => p == .inf false)
    let neg := ps.any (fun p => p == .inf true)
    if pos && neg then .nan else if pos then .inf false else if neg then .inf true
    else match (ps.filterMap topBit).max? with
      | none => .fin false 0 0
      | some e => fpOfInt false ((ps.map (alignTrunc (e - 31))).foldl (· + ·) 0) (e - 31)

/-- A group sum times an E8M0 scale (R80, R85). -/
def scaleBy (x : Option (BitVec 8)) (v : Fp) : Fp :=
  match x with
  | none => v
  | some x => if x = 0xff then .nan else fpMul v (.fin false 1 ((x.toNat : Int) - 127))

/-- An accumulator entry after a group sum under OVERWRITE and COMP (R86). The model's choices: the FP32 add takes the exact group sum and
rounds once; OVERWRITE with COMP makes the entry the compensated pair of the group sum alone (log 84). -/
def accumulate (overwrite comp : Bool) (old : BitVec 48) (g : Fp) : BitVec 48 :=
  if comp then compPair (if overwrite then g else fpAdd (compValue old) g)
  else mkEntry 0 (toF32 (if overwrite then g else fpAdd (f32 (old.extractLsb' 0 32)) g))

/-- An accumulator entry after an integer group sum (R86). -/
def accumulateInt (overwrite : Bool) (old : BitVec 48) (g : Int) : BitVec 48 :=
  let v := if overwrite then g else (old.extractLsb' 0 32).toInt + g
  mkEntry 0 (BitVec.ofInt 32 (clampInt (-2147483648) 2147483647 v))

/-- One pass of MMA: a row of operand A against the 64 columns. -/
def mmaPass (fa fb : Nat) (mod : BitVec 4) (w : WBuf) (as : List Nat) (xa : Option (BitVec 8)) (tl : Tile) (r : Nat) : Tile :=
  let k := passK fa fb
  let col (c : Nat) : List Nat := (List.range k).map (fun i => weight w fb i c)
  let isInt := fmtIsInt fa
  let out := (List.range 64).map (fun c =>
    if isInt then accumulateInt (mod.getLsbD 1) (entry tl r c) (intGroup fa fb as (col c))
    else
      let g := groupSum ((as.zip (col c)).map (fun p => fpMul (fpElem fa p.1) (fpElem fb p.2)))
      let xb := if fmtIsMx fb then some (tblGet 0 w.scales c) else none
      accumulate (mod.getLsbD 1) (mod.getLsbD 2) (entry tl r c) (scaleBy xb (scaleBy xa g)))
  setRow r out isInt tl

/-- The passes of MMA over its rows; none where an access is illegal. -/
def mmaRows (t fa fb : Nat) (f : TileFields) (w : WBuf) (m : Memory) : List Nat → Tile × Nat → Option (Tile × Nat)
  | [], r => some r
  | r :: rs, (tl, cyc) =>
    let sl := slotOf tl f.ga.toNat
    let k := passK fa fb
    let cost := max (passCycles fa fb) (accessCycles sl (fmtBits fa) k 64)
    match readAccess m t sl fa (fmtBits fa) k,
      (if fmtIsMx fa then (scaleBytes m t (slotSBase sl.image + sl.pos / 32) 1).map some else some none) with
    | some (as, sl'), some xs =>
      mmaRows t fa fb f w m rs
        (mmaPass fa fb f.mod w as (xs.bind List.head?) (setSlot f.ga.toNat sl' tl) r, cyc + cost)
    | _, _ => none

def inBank7 (rows : List Nat) : Bool := rows.any (fun r => decide (112 ≤ r))

def opMma (zgate : Bool) (t : Nat) (f : TileFields) (m : Memory) (tl : Tile) : Option TileOut :=
  let fa := f.fa.toNat
  let fb := f.fb.toNat
  match rowsOf f with
  | none => none
  | some rows =>
    legal (fieldsNamed 0x02 f && pairOk fa fb && !(f.mod.getLsbD 2 && fmtIsInt fa) &&
        !(zgate && f.mod.getLsbD 2 && inBank7 rows)) <|
      (mmaRows t fa fb f (if f.mod.getLsbD 0 then tl.w1 else tl.w0) m rows (tl, 0)).map (fun r => ⟨m, r.1, r.2⟩)

/-! ## Accumulator rows: ACLR, ALD, AST -/

def clearRow (r : Nat) (tl : Tile) : Tile := setRow r (List.replicate 64 0) false tl

def opAclr (f : TileFields) (m : Memory) (tl : Tile) : Option TileOut :=
  match rowsOf f with
  | none => none
  | some rows => legal (fieldsNamed 0x03 f) (some ⟨m, rows.foldl (fun tl r => clearRow r tl) tl, ceilDiv rows.length 4⟩)

/-- An element of a vector-load format as 32 bits: FP32, or INT32 for an integer format (R100). -/
def widen (c w : Nat) : BitVec 32 := if fmtIsInt c then BitVec.ofInt 32 (intElem c w) else toF32 (fpElem c w)

/-- Runs an access per row, threading memory, tile and cycles; none where one is illegal. -/
def perRow (g : Nat) (step : Nat → Memory → Tile → AgSlot → Option (Memory × Tile × AgSlot × Nat)) :
    List Nat → Memory → Tile → Nat → Option TileOut
  | [], m, tl, cyc => some ⟨m, tl, cyc⟩
  | r :: rs, m, tl, cyc =>
    match step r m tl (slotOf tl g) with
    | none => none
    | some (m, tl, sl, n) => perRow g step rs m (setSlot g sl tl) (cyc + n)

/-- CRC-32C continued from a finished value over more bytes (R423). -/
def crcMore (r : BitVec 32) (bs : Bytes) : BitVec 32 := ~~~(bs.foldl crcByte (~~~r))

/-- The elements of a result-port write folded into the signature of a paired tile: bit address and data (R423). -/
def foldWrites (sl : AgSlot) (c b : Nat) (vs : List Nat) (tl : Tile) : Tile :=
  if tl.paired then
    { tl with sigW := crcMore tl.sigW ((((access sl c b vs.length).getD []).zip vs).map (fun p => match p.1 with
        | .bit a => leBytes 4 a.toNat ++ leBytes (ceilDiv b 8) p.2
        | _ => [])).flatten }
  else tl

def aldRow (t : Nat) (f : TileFields) (r : Nat) (m : Memory) (tl : Tile) (sl : AgSlot) :
    Option (Memory × Tile × AgSlot × Nat) :=
  let c := f.fa.toNat
  match f.mod.toNat with
  | 0 => (readAccess m t sl c (fmtBits c) 64).map (fun p =>
      (m, setRow r (p.1.map (fun w => mkEntry 0 (if c = 0xb then BitVec.ofNat 32 w else widen c w))) (fmtIsInt c) tl, p.2,
        accessCycles sl (fmtBits c) 64 64))
  | 1 => (readAccess m t sl 16 64 64).map (fun p =>
      (m, setRow r (p.1.map (fun w => BitVec.ofNat 48 w)) false tl, p.2, accessCycles sl 64 64 64))
  | _ => (readAccess m t sl 9 16 64).map (fun p =>
      let vs := p.1.zipIdx.map (fun q => BitVec.ofNat 16 q.1 ++ (entry tl r q.2).extractLsb' 0 32)
      (m, setRow r vs (r ∈ tl.intRows) tl, p.2, accessCycles sl 16 64 64))

/-- ALD (R100). In gate mode, which the row gives for bank 7 rows, a row outside bank 7 is an illegal operation: the model's choice, since
R102 does not list it (log 85). FA is judged in value mode alone: raw and gate loads take any code (log 110, DESIGN CHOICE). -/
def opAld (t : Nat) (f : TileFields) (m : Memory) (tl : Tile) : Option TileOut :=
  match rowsOf f with
  | none => none
  | some rows =>
    legal (fieldsNamed 0x05 f && decide (f.mod.toNat ≤ 2) && (f.mod.toNat != 0 || fmtLoad f.fa.toNat) &&
        (f.mod.toNat != 2 || rows.all (fun r => decide (112 ≤ r)))) <|
      perRow f.ga.toNat (aldRow t f) rows m tl 0

def astRow (t : Nat) (f : TileFields) (r : Nat) (m : Memory) (tl : Tile) (sl : AgSlot) :
    Option (Memory × Tile × AgSlot × Nat) :=
  let raw := f.mod.getLsbD 0
  let b := if raw then 64 else 32
  let vs := (List.range 64).map (fun c => if raw then (entry tl r c).toNat else ((entry tl r c).extractLsb' 0 32).toNat)
  let c := if raw then 16 else 0xb
  (writeAccess m t sl c b vs).map (fun p => (p.1, foldWrites sl c b vs tl, p.2, accessCycles sl b 64 128))

def opAst (t : Nat) (f : TileFields) (m : Memory) (tl : Tile) : Option TileOut :=
  match rowsOf f with
  | none => none
  | some rows => legal (fieldsNamed 0x06 f) (perRow f.gd.toNat (astRow t f) rows m tl 0)

/-! ## Conversion to a destination format (R88) -/

/-- A 32-bit value as an element of format `c`: raw for FP32, INT32 and the packed formats VRQ and VMXQ leave. R88 has no conversion from
INT32 to a floating format: the bits of an INT32 row or register are read as FP32 there (log 87). -/
def narrow (c : Nat) (sat : Bool) (v : BitVec 32) : Nat :=
  if c = 3 ∨ c = 4 ∨ c = 9 ∨ c = 0xa then fpEncode .even (sat || c == 3) (fmtFloat c) (f32 v)
  else v.toNat % 2 ^ fmtBits c

/-! ## The fused gate pipeline (R103-R105) -/

/-- A value rounded to BF16, a subnormal flushed to +0 (R104, R106); -0 stays. With `sat` a finite overflow gives the largest finite
value, which SATFIN asks of FD BF16: so the pipeline with every stage off agrees with the plain path (R88, R106). -/
def toBf16z (sat : Bool) (v : Fp) : Nat :=
  let w := fpEncode .even sat fmtBF16 v
  if w / 2 ^ 7 % 2 ^ 8 = 0 ∧ w % 2 ^ 7 ≠ 0 then 0 else w

def bf16 (w : Nat) : Fp := fpDecode fmtBF16 w

/-- The gate functions with tables (R105). -/
inductive GateFn where
  | sigmoid | tanh | geluTanh
  deriving DecidableEq, Repr

/-- f at a fixed-point argument. -/
def gateFx (g : GateFn) (x : Int) : Int :=
  match g with
  | .sigmoid => fxSigmoid x
  | .tanh => fxTanh x
  | .geluTanh =>
    let inner := fxMul (fxSqrt (fxDiv (2 * fxOne) fxPi)) (x + fxMul (fxMul x (fxMul x x)) (fxOne * 44715 / 1000000))
    fxMul x (fxOne + fxTanh inner) / 2

/-- Knot i: f(-8 + i/16) rounded to FP32. -/
def knot (g : GateFn) (i : Nat) : BitVec 32 := toF32 (fxFp (gateFx g (fxOne * ((i : Int) - 128) / 16)))

/-- The table stage before its rounding to BF16 (R105). -/
def gateTable (g : GateFn) (w : Nat) : Fp :=
  match bf16 w with
  | .nan => .nan
  | v =>
    if fpLt v (.fin true 8 0) then
      (match g with | .sigmoid => .fin false 0 0 | .tanh => .fin true 1 0 | .geluTanh => .fin false 0 0)
    else if !(fpLt v (.fin false 8 0)) then
      (match g with | .sigmoid => .fin false 1 0 | .tanh => .fin false 1 0 | .geluTanh => v)
    else match v with
      | .fin n m e =>
        let i := ((fxOf n m e + 8 * fxOne) * 16 / fxOne).toNat
        let x := toF32 v
        let xi := toF32 (fpOfInt false ((i : Int) - 128) (-4))
        let t := f32Mul (f32Sub x xi) (toF32 (.fin false 16 0))
        f32 (f32Add (knot g i) (f32Mul (f32Sub (knot g (i + 1)) (knot g i)) t))
      | _ => .nan

/-- Stage Z2 (R104). -/
def gateAct (sat : Bool) (act w : Nat) : Nat :=
  match act with
  | 1 => if fpNegative (bf16 w) then 0 else w
  | 2 => toBf16z sat (gateTable .sigmoid w)
  | 3 => toBf16z sat (gateTable .tanh w)
  | 4 => toBf16z sat (fpMul (bf16 w) (bf16 (toBf16z sat (gateTable .sigmoid w))))
  | 5 => toBf16z sat (gateTable .geluTanh w)
  | _ => w

/-- Stage Z0: a NaN becomes +0 (R104). -/
def gateRead (sat : Bool) (v : BitVec 32) : Nat :=
  match f32 v with
  | .nan => 0
  | x => toBf16z sat x

/-- The pipeline for one value: bias, gate operand and scale where their stages are on (R104). SATFIN saturates a finite overflow of the
intermediate stages where FD is BF16 only (log 109, DESIGN CHOICE). -/
def gatePipe (zimm : BitVec 14) (v : BitVec 32) (bias gate scale : Nat) (fd : Nat) (sat : Bool) : Nat :=
  let z := sat && fd == 9
  let x := gateRead z v
  let x := if zimm.getLsbD 10 then toBf16z z (fpAdd (bf16 x) (bf16 bias)) else x
  let x := gateAct z (zimm.toNat / 2 ^ 11) x
  let x := if zimm.getLsbD 9 then toBf16z z (fpMul (bf16 x) (bf16 gate)) else x
  let x := if zimm.getLsbD 8 then toBf16z z (fpMul (bf16 x) (bf16 scale)) else x
  if fd = 9 then x else fpEncode .even (sat || fd == 3) (fmtFloat fd) (bf16 x)

/-! ## DRAIN -/

def drainRow (t : Nat) (f : TileFields) (r : Nat) (m : Memory) (tl : Tile) (sl : AgSlot) :
    Option (Memory × Tile × AgSlot × Nat) :=
  let c := f.fd.toNat
  let vs := (rowV tl r).map (narrow c (f.mod.getLsbD 0))
  (writeAccess m t sl c (fmtBits c) vs).map (fun p =>
    (p.1, foldWrites sl c (fmtBits c) vs (if f.mod.getLsbD 1 then tl else clearRow r tl), p.2, accessCycles sl (fmtBits c) 64 128))

def drainGateRow (t : Nat) (f : TileFields) (r : Nat) (m : Memory) (tl : Tile) (sl : AgSlot) :
    Option (Memory × Tile × AgSlot × Nat) :=
  let c := f.fd.toNat
  let zs := tl.zslot.toNat
  let bias := if tl.zimm.getLsbD 10 then readAccess m t (slotOf tl zs) 9 16 64 else some (List.replicate 64 0, slotOf tl zs)
  match bias with
  | none => none
  | some (bs, bsl) =>
    let scale := (lane tl 15 0).toNat % 2 ^ 16
    let vs := ((rowV tl r).zip bs).zipIdx.map (fun p =>
      gatePipe tl.zimm p.1.1 p.1.2 ((entry tl (112 + r % 16) p.2).extractLsb' 32 16).toNat scale c (f.mod.getLsbD 0))
    let tl := setSlot zs bsl tl
    let sl := if zs = f.gd.toNat then slotOf tl zs else sl
    (writeAccess m t sl c (fmtBits c) vs).map (fun p =>
      (p.1, foldWrites sl c (fmtBits c) vs (if f.mod.getLsbD 1 then tl else clearRow r tl), p.2,
        accessCycles sl (fmtBits c) 64 128))

def opDrain (zgate : Bool) (t : Nat) (f : TileFields) (m : Memory) (tl : Tile) : Option TileOut :=
  match rowsOf f with
  | none => none
  | some rows =>
    let c := f.fd.toNat
    if zgate then
      legal (fieldsNamed 0x04 f && (c == 9 || c == 3) && rows.all (fun r => !(r ∈ tl.intRows))) <|
        perRow f.gd.toNat (drainGateRow t f) rows m tl 0
    else legal (fieldsNamed 0x04 f && fmtD c) (perRow f.gd.toNat (drainRow t f) rows m tl 0)

def opZcfg (f : TileFields) (m : Memory) (tl : Tile) : Option TileOut :=
  legal (fieldsNamed 0x38 f && decide (f.imm.toNat / 2 ^ 11 ≤ 5))
    (some ⟨m, { tl with zimm := f.imm, zslot := f.ga }, 1⟩)

/-! ## Vector loads, stores and copies -/

def opVld (t : Nat) (f : TileFields) (m : Memory) (tl : Tile) : Option TileOut :=
  let c := f.fa.toNat
  let sl := slotOf tl f.ga.toNat
  legal (fieldsNamed 0x10 f && fmtLoad c) <|
    (readAccess m t sl c (fmtBits c) 64).map (fun p =>
      ⟨m, setSlot f.ga.toNat p.2
        (setReg f.gd.toNat (p.1.map (fun w => if c = 0xb then BitVec.ofNat 32 w else widen c w)) (fmtIsInt c) tl),
        accessCycles sl (fmtBits c) 64 64⟩)

/-- The scale bytes of an MX vector store, written beside its elements: address and data folded as the elements' are (R100, R423). -/
def foldScale (scaleAt v : Nat) (tl : Tile) : Tile :=
  if tl.paired then { tl with sigW := crcMore tl.sigW (leBytes 4 (8 * scaleAt) ++ leBytes 2 v) } else tl

def opVst (t : Nat) (f : TileFields) (m : Memory) (tl : Tile) : Option TileOut :=
  let c := f.fd.toNat
  let g := f.gd.toNat
  let sl := slotOf tl g
  let vs := (lanes tl f.ga.toNat).map (narrow c (f.mod.getLsbD 0))
  let scaleAt := slotSBase sl.image + sl.pos / 32
  legal (fieldsNamed 0x11 f && fmtStore c && (!(fmtIsMx c) || decide (scaleAt + 2 ≤ tileBytes))) <|
    (writeAccess m t sl c (fmtBits c) vs).map (fun p =>
      let scale := (lane tl ((f.ga.toNat + 1) % 16) 0).toNat % 65536
      let m := if fmtIsMx c then memWriteNat p.1 (tileBase t + scaleAt) 2 scale else p.1
      let out := foldWrites sl c (fmtBits c) vs tl
      ⟨m, setSlot g p.2 (if fmtIsMx c then foldScale scaleAt scale out else out), accessCycles sl (fmtBits c) 64 128⟩)

def opVlda (f : TileFields) (m : Memory) (tl : Tile) : Option TileOut :=
  legal (fieldsNamed 0x12 f)
    (some ⟨m, setReg f.gd.toNat (rowV tl f.row.toNat) (f.row.toNat ∈ tl.intRows) tl, 1⟩)

/-- INT32 addition of VSTA; a sum outside the format is a free value (R122 states none). -/
def addInt (a b : BitVec 32) : BitVec 32 :=
  let v := a.toInt + b.toInt
  if -2147483648 ≤ v ∧ v ≤ 2147483647 then a + b else Config.intSum a b

/-- VSTA (R122). The tag of the row picks the addition of MOD[1]: INT32 for a row of integers, else FP32 (log 115, DESIGN CHOICE). -/
def opVsta (zgate : Bool) (f : TileFields) (m : Memory) (tl : Tile) : Option TileOut :=
  let r := f.row.toNat
  let va := lanes tl f.ga.toNat
  let comp := f.mod.getLsbD 2
  let add := f.mod.getLsbD 1
  let isInt : Bool := r ∈ tl.intRows
  let row := va.zipIdx.map (fun p =>
    let e := entry tl r p.2
    if comp then compPair (fpAdd (compValue e) (f32 p.1))
    else if add then
      mkEntry 0 (if isInt then addInt (e.extractLsb' 0 32) p.1 else f32Add (e.extractLsb' 0 32) p.1)
    else mkEntry 0 p.1)
  legal (fieldsNamed 0x13 f && !(zgate && comp && decide (112 ≤ r)))
    (some ⟨m, setRow r row (if comp then false else if add then isInt else f.ga.toNat ∈ tl.intRegs) tl, 1⟩)

/-! ## Lane operations (R89-R93) -/

/-- A lane-by-lane operation on va and vb. -/
def opLanes (op : Nat) (f : TileFields) (g : BitVec 32 → BitVec 32 → BitVec 32) (m : Memory) (tl : Tile) : Option TileOut :=
  legal (fieldsNamed op f)
    (some ⟨m, setReg f.gd.toNat (((lanes tl f.ga.toNat).zip (lanes tl f.gb.toNat)).map (fun p => g p.1 p.2)) false tl, 1⟩)

def opVfma (f : TileFields) (m : Memory) (tl : Tile) : Option TileOut :=
  let vs := ((lanes tl f.ga.toNat).zip ((lanes tl f.gb.toNat).zip (lanes tl f.imm.toNat))).map
    (fun p => f32Fma p.1 p.2.1 p.2.2)
  legal (fieldsNamed 0x16 f) (some ⟨m, setReg f.gd.toNat vs false tl, 1⟩)

/-- The relations of VCMP, by MOD[2:0]. -/
def cmpLane (rel : Nat) (a b : BitVec 32) : Bool :=
  let x := f32 a
  let y := f32 b
  match rel with
  | 0 => fpEq x y
  | 1 => !(fpEq x y)
  | 2 => fpLt x y
  | 3 => fpLt x y || fpEq x y
  | 4 => fpLt y x
  | _ => fpLt y x || fpEq x y

def opVcmp (f : TileFields) (m : Memory) (tl : Tile) : Option TileOut :=
  legal (decide (f.mod.toNat ≤ 5))
    (opLanes 0x19 f (fun a b => if cmpLane f.mod.toNat a b then 0xffffffff else 0) m tl)

def opVsel (f : TileFields) (m : Memory) (tl : Tile) : Option TileOut :=
  let vs := ((lanes tl f.imm.toNat).zip ((lanes tl f.ga.toNat).zip (lanes tl f.gb.toNat))).map
    (fun p => if p.1 = 0 then p.2.2 else p.2.1)
  legal (fieldsNamed 0x1a f)
    (some ⟨m, setReg f.gd.toNat vs (f.ga.toNat ∈ tl.intRegs && f.gb.toNat ∈ tl.intRegs) tl, 1⟩)

/-- FP32 to INT32: nearest even, saturating; a NaN gives a free value. -/
def f32ToInt (v : BitVec 32) : BitVec 32 :=
  match f32 v with
  | .nan => Config.nanToInt v
  | .inf n => if n then 0x80000000 else 0x7fffffff
  | .fin n m e => BitVec.ofInt 32 (clampInt (-2147483648) 2147483647 (fpToInt n m e))

/-- INT32 to FP32, nearest even. -/
def intToF32 (v : BitVec 32) : BitVec 32 := toF32 (fpOfInt false v.toInt 0)

/-- x rounded to a format and back to FP32. -/
def roundThrough (c : Nat) (v : BitVec 32) : BitVec 32 :=
  if c = 0xb then v else toF32 (fpDecode (fmtFloat c) (narrow c false v))

/-- VCVT (R100). With MOD 2 (SPLIT) FA and FD are not judged (log 110, DESIGN CHOICE). -/
def opVcvt (f : TileFields) (m : Memory) (tl : Tile) : Option TileOut :=
  let fa := f.fa.toNat
  let fd := f.fd.toNat
  let va := lanes tl f.ga.toNat
  let d := f.gd.toNat
  legal (fieldsNamed 0x1b f) <|
    match f.mod.toNat with
    | 0 =>
      if fa = 0xb ∧ fd = 0xc then some ⟨m, setReg d (va.map f32ToInt) true tl, 1⟩
      else if fa = 0xc ∧ fd = 0xb then some ⟨m, setReg d (va.map intToF32) false tl, 1⟩
      else none
    | 1 =>
      if fa = 0xb ∧ (fd = 3 ∨ fd = 4 ∨ fd = 9 ∨ fd = 0xa ∨ fd = 0xb) then
        some ⟨m, setReg d (va.map (roundThrough fd)) false tl, 1⟩
      else none
    | 2 =>
      let hi := va.map (roundThrough 9)
      let lo := (va.zip hi).map (fun p => roundThrough 9 (f32Sub p.1 p.2))
      some ⟨m, setReg ((d + 1) % 16) lo false (setReg d hi false tl), 1⟩
    | _ => none

/-- Bounds of a VRQ destination (R89). -/
def vrqBounds : Nat → Option (Int × Int)
  | 0 => some (-128, 127)
  | 1 => some (0, 255)
  | 2 => some (-8, 7)
  | _ => none

def opVrq (f : TileFields) (m : Memory) (tl : Tile) : Option TileOut :=
  match vrqBounds f.fd.toNat with
  | none => none
  | some (lo, hi) =>
    let sh := f.imm.toNat % 64
    let zp := signedOf 8 (f.imm.toNat / 64)
    let vs := ((lanes tl f.ga.toNat).zip (lanes tl f.gb.toNat)).map (fun p =>
      BitVec.ofInt 32 (clampInt lo hi (roundShiftInt (p.1.toInt * p.2.toInt) sh + zp)))
    legal (fieldsNamed 0x1c f) (some ⟨m, setReg f.gd.toNat vs true tl, 1⟩)

/-- emax_elem of an MX format (R90). -/
def emaxElem (c : Nat) : Int := if c = 5 then 0 else if c = 7 then 4 else 2

/-- An element of an MX block with shared exponent X: v / 2^X to nearest even, saturated (R90). -/
def mxElem (c : Nat) (x : Int) (v : BitVec 32) : Nat :=
  match f32 v with
  | .fin n m e =>
    if c = 5 then wrapInt 8 (clampInt (-127) 127 (fpToInt n m (e - x + 6)))
    else fpEncode .even true (fmtFloat c) (.fin n m (e - x))
  | _ => 0

/-- One MX block of 32 lanes: its elements and its scale byte (R90). -/
def mxBlock (c : Nat) (vs : List (BitVec 32)) : List Nat × Nat :=
  if vs.any (fun v => !(fpFinite (f32 v))) then (vs.map (fun _ => 0), 0xff)
  else match (vs.filterMap (fun v => topBit (f32 v))).max? with
    | none => (vs.map (mxElem c 0), 0)
    | some top =>
      let x := clampInt (-127) 127 (top - emaxElem c)
      (vs.map (mxElem c x), (x + 127).toNat)

def opVmxq (f : TileFields) (m : Memory) (tl : Tile) : Option TileOut :=
  let c := f.fd.toNat
  let va := lanes tl f.ga.toNat
  let lo := mxBlock c (va.take 32)
  let hi := mxBlock c (va.drop 32)
  let d := f.gd.toNat
  let next := (d + 1) % 16
  legal (fieldsNamed 0x1d f && fmtIsMx c) <|
    let tl := setReg d ((lo.1 ++ hi.1).map (BitVec.ofNat 32)) false tl
    some ⟨m, setLane next 0 ((lane tl next 0).extractLsb' 16 16 ++ BitVec.ofNat 8 hi.2 ++ BitVec.ofNat 8 lo.2) tl, 4⟩

/-- One level of a pairwise tree over neighbours. -/
def pairUp (g : BitVec 32 → BitVec 32 → BitVec 32) : List (BitVec 32) → List (BitVec 32)
  | a :: b :: r => g a b :: pairUp g r
  | l => l

def opVred (f : TileFields) (m : Memory) (tl : Tile) : Option TileOut :=
  let g := if f.mod.getLsbD 0 then f32Max else f32Add
  let r := (List.range 6).foldl (fun l _ => pairUp g l) (lanes tl f.ga.toNat)
  let tl' := setLane f.gd.toNat 0 (r.headD 0) tl
  legal (fieldsNamed 0x1e f) (some ⟨m, { tl' with intRegs := tl'.intRegs.filter (· ≠ f.gd.toNat) }, 6⟩)

/-- Tile cycles of a function instruction (R93). -/
def funcCycles : FuncOp → Nat
  | .exp => 2 | .log => 2 | .rcp => 2 | .rsq => 2
  | _ => 4

def opFunc (g : FuncOp) (f : TileFields) (m : Memory) (tl : Tile) : Option TileOut :=
  legal (fieldsNamed (0x20 + g.code) f)
    (some ⟨m, setReg f.gd.toNat ((lanes tl f.ga.toNat).map (funcResult g)) false tl, funcCycles g⟩)

/-! ## RSTEP (R98) and AGSET (R113) -/

def opRstep (zgate : Bool) (f : TileFields) (m : Memory) (tl : Tile) : Option TileOut :=
  let r := f.row.toNat
  let row := ((lanes tl f.ga.toNat).zip (lanes tl f.gb.toNat)).zipIdx.map (fun p =>
    compPair (fpAdd (fpMul (f32 p.1.1) (compValue (entry tl r p.2))) (f32 p.1.2)))
  legal (fieldsNamed 0x30 f && decide (112 ≤ r) && !zgate) (some ⟨m, setRow r row false tl, 2⟩)

def opAgset (t : Nat) (f : TileFields) (m : Memory) (tl : Tile) : Option TileOut :=
  let a := f.imm.toNat * 64
  let img := memRead m (tileBase t + a) 64
  legal (fieldsNamed 0x40 f && decide (a + 64 ≤ tileBytes))
    (some ⟨m, setSlot f.ga.toNat { image := img, pos := slotOffset img % slotLength img } tl, 2⟩)

end Sys2Proof.Machine
end

