-- ==== Sys2Proof/Machine/Tiers.lean ====
section
/-!
DEFINITION. Sys2Proof/Machine/Tiers.lean: stored images and block compression (R237-R240), program images (R241, R242,
R52-R55, R406), the tensor heap and the homes of tensors (R229-R236, R244).
-/

namespace Sys2Proof.Machine

/-! ## Code lengths and compressed blocks (R239, R240) -/

/-- The 16 code lengths of table `tb` (0 or 1) in CODES. -/
def codeLens (codes : Bytes) (tb : Nat) : List Nat :=
  (List.range 16).map (fun i => let b := (nth 0 codes (8 * tb + i / 2)).toNat; if i % 2 = 0 then b % 16 else b / 16)

/-- The Kraft sum of a table is exactly 1. -/
def kraftOk (lens : List Nat) : Bool :=
  decide (sumNat (lens.map (fun l => if l = 0 then 0 else 2 ^ (16 - l))) = 2 ^ 16)

/-- Canonical codes of RFC 1951, 3.2.2: (symbol, length, code). -/
def canonCodes (lens : List Nat) : List (Nat × Nat × Nat) :=
  let count (l : Nat) : Nat := (lens.filter (fun x => x = l && l != 0)).length
  let first := (List.range 16).foldl (fun (acc : List Nat) l =>
    if l = 0 then acc ++ [0] else acc ++ [(nth 0 acc (l - 1) + (if l = 1 then 0 else count (l - 1))) * 2]) []
  let syms := lens.zipIdx.filter (fun p => p.1 != 0)
  syms.map (fun p =>
    (p.2, p.1, nth 0 first p.1 + (syms.filter (fun q => q.1 = p.1 && decide (q.2 < p.2))).length))

/-- Bit `i` of a byte string, least significant first. -/
def bitAt (bs : Bytes) (i : Nat) : Bool := (nth 0 bs (i / 8)).getLsbD (i % 8)

/-- Reads one symbol at bit `i`: the symbol and the bit after its code. -/
def readSym (codes : List (Nat × Nat × Nat)) (bs : Bytes) (i : Nat) : Nat → Nat → Nat → Option (Nat × Nat)
  | 0, _, _ => none
  | fuel + 1, len, code =>
    if bs.length * 8 ≤ i + len then none
    else
      let code := 2 * code + (if bitAt bs (i + len) then 1 else 0)
      match codes.find? (fun c => c.2.1 = len + 1 ∧ c.2.2 = code) with
      | some c => some (c.1, i + len + 1)
      | none => readSym codes bs i fuel (len + 1) code

/-- Reads `n` bytes, low nibble under table 0 and high nibble under table 1. -/
def readNibbles (c0 c1 : List (Nat × Nat × Nat)) (bs : Bytes) : Nat → Nat → Option (Bytes × Nat)
  | 0, i => some ([], i)
  | n + 1, i =>
    match readSym c0 bs i 15 0 0 with
    | none => none
    | some (lo, i) => match readSym c1 bs i 15 0 0 with
      | none => none
      | some (hi, i) => match readNibbles c0 c1 bs n i with
        | none => none
        | some (r, i) => some (BitVec.ofNat 8 (hi * 16 + lo) :: r, i)

/-- A compressed block expanded to 4,096 bytes; none is a decompression error (R240). -/
def expandBlock (codes bs : Bytes) : Option Bytes :=
  match readNibbles (canonCodes (codeLens codes 0)) (canonCodes (codeLens codes 1)) bs 4096 0 with
  | none => none
  | some (r, i) => if (List.range (bs.length * 8 - i)).all (fun k => !(bitAt bs (i + k))) then some r else none

/-- The bits of a symbol's code, first transmitted first. -/
def symBits (codes : List (Nat × Nat × Nat)) (sym : Nat) : Option (List Bool) :=
  (codes.find? (fun c => c.1 = sym)).map (fun c => (List.range c.2.1).map (fun k => c.2.2.testBit (c.2.1 - 1 - k)))

/-- Bits packed into bytes from the least significant bit. -/
def packBits (l : List Bool) : Bytes :=
  (chunksOf 8 l).map (fun c => BitVec.ofNat 8 (ofBits ((c.zipIdx.filter (fun p => p.1)).map (fun p => p.2))))

/-- A block of 4,096 bytes as the compressor stores it: LINES and bytes, or ZERO (R239). -/
def storeBlock (compressed : Bool) (codes bs : Bytes) : Nat × Bool × Bytes :=
  if compressed && bs.all (fun b => b == 0) then (0, true, [])
  else
    let raw := (63, false, bs)
    if compressed then
      let c0 := canonCodes (codeLens codes 0)
      let c1 := canonCodes (codeLens codes 1)
      let parts := bs.map (fun b => match symBits c0 (b.toNat % 16), symBits c1 (b.toNat / 16) with
        | some x, some y => some (x ++ y)
        | _, _ => none)
      if parts.all Option.isSome then
        let body := packBits (parts.filterMap id).flatten
        let lines := ceilDiv body.length 64
        if lines ≤ 63 then (lines - 1, false, padTo (64 * lines) body) else raw
      else raw
    else raw

/-! ## Images (R237, R238) -/

def blocksOf (size : Nat) : Nat := ceilDiv size 4096
def dataOff (size : Nat) : Nat := 64 + 64 * ceilDiv (blocksOf size) 16
/-- Bytes of a raw image, which a staging home takes (R236). -/
def rawImage (size : Nat) : Nat := dataOff size + 4096 * blocksOf size

/-- The 64-byte image header. -/
def imageHeader (layout : BitVec 8) (program compressed : Bool) (size stored : Nat) (codes : Bytes) : Bytes :=
  leBytes 2 1 ++ [layout, BitVec.ofNat 8 ((if program then 2 else 0) + (if compressed then 1 else 0))] ++ leBytes 4 size ++
  leBytes 4 (blocksOf size) ++ leBytes 4 stored ++ padTo 16 codes ++ zeros 32

/-- The image of `bs`, each block stored by R239. -/
def buildImage (layout : BitVec 8) (program compressed : Bool) (codes bs : Bytes) (size : Nat) : Bytes :=
  let blocks := (List.range (blocksOf size)).map (fun k => storeBlock compressed codes (padTo 4096 (bytesAt bs (4096 * k) 4096)))
  let table := blocks.foldl (fun (acc : List Nat × Nat) b =>
    (acc.1 ++ [acc.2 * 128 + (if b.2.1 then 64 else 0) + b.1], acc.2 + b.2.2.length / 64)) ([], 0)
  let body := (blocks.map (fun b => b.2.2)).flatten
  let stored := dataOff size + body.length
  imageHeader layout program compressed size stored codes ++
    padTo (64 * ceilDiv (blocksOf size) 16) (table.1.map (leBytes 4)).flatten ++ body

/-- Block `k` of an image whose bytes are read by `rd off n`; none is a decompression error (R240). -/
def imageBlock (rd : Nat → Nat → Bytes) (compressed : Bool) (codes : Bytes) (size stored k : Nat) : Option Bytes :=
  if !compressed then some (rd (dataOff size + 4096 * k) 4096)
  else
    let e := leNat (rd (64 + 4 * k) 4)
    let off := e / 128
    let n := if e % 64 = 63 then 4096 else 64 * (e % 64 + 1)
    if e.testBit 6 then (if e % 64 = 0 then some (zeros 4096) else none)
    else if stored < dataOff size + 64 * off + n then none
    else
      let bs := rd (dataOff size + 64 * off) n
      if e % 64 = 63 then some bs else expandBlock codes bs

/-- Is the block table of an image as R238 has it? In a raw image every block is raw and the blocks lie one after another; in a
compressed one `imageBlock` judges each entry. -/
def blockTableOk (rd : Nat → Nat → Bytes) (compressed : Bool) (size : Nat) : Bool :=
  compressed || (List.range (blocksOf size)).all (fun k => leNat (rd (64 + 4 * k) 4) == (64 * k) * 128 + 63)

/-- Ranges of an image (offset, bytes) that a read of bytes [off, off + n) of a tensor touches: the block-table lines and the blocks. -/
def imageRanges (rd : Nat → Nat → Bytes) (compressed : Bool) (size off n : Nat) : List (Nat × Nat) :=
  if n = 0 then []
  else
    let k0 := off / 4096
    let k1 := (off + n - 1) / 4096
    if !compressed then [(dataOff size + off, n)]
    else (64 + 4 * k0, 4 * (k1 + 1 - k0)) :: (List.range (k1 + 1 - k0)).filterMap (fun i =>
      let e := leNat (rd (64 + 4 * (k0 + i)) 4)
      if e.testBit 6 then none
      else some (dataOff size + 64 * (e / 128), if e % 64 = 63 then 4096 else 64 * (e % 64 + 1)))

/-- The SIZE decoded bytes of an image; none where a block is in error. -/
def imageBytes (rd : Nat → Nat → Bytes) (compressed : Bool) (codes : Bytes) (size stored : Nat) : Option Bytes :=
  ((List.range (blocksOf size)).foldl (fun (acc : Option Bytes) k =>
    match acc, imageBlock rd compressed codes size stored k with
    | some a, some b => some (a ++ b)
    | _, _ => none) (some [])).map (fun b => b.take size)

/-- Header fields of an image. -/
structure ImageHdr where
  layout     : BitVec 8
  program    : Bool
  compressed : Bool
  size       : Nat
  stored     : Nat
  codes      : Bytes
  deriving DecidableEq, Repr

/-- The structural checks of a header by R237-R239; none where it is malformed. -/
def imageHdr (rd : Nat → Nat → Bytes) : Option ImageHdr :=
  let h := rd 0 64
  let size := fieldAt h 4 4
  let flags := nth 0 h 3
  let stored := fieldAt h 12 4
  let codes := bytesAt h 16 16
  if fieldAt h 0 2 = 1 ∧ flags.toNat < 4 ∧ size % 64 = 0 ∧ 64 ≤ size ∧ size ≤ 268435456 ∧ fieldAt h 8 4 = blocksOf size ∧
      (h.drop 32).all (fun b => b == 0) ∧ dataOff size ≤ stored ∧ stored ≤ rawImage size ∧
      (flags.getLsbD 0 ∨ stored = rawImage size) ∧
      (!(flags.getLsbD 0) ∨ (kraftOk (codeLens codes 0) ∧ kraftOk (codeLens codes 1))) then
    some ⟨nth 0 h 2, flags.getLsbD 1, flags.getLsbD 0, size, stored, codes⟩
  else none

/-- Is the last block of an image padded with zero bytes past SIZE (R237)? -/
def paddingOk (rd : Nat → Nat → Bytes) (h : ImageHdr) : Bool :=
  h.size % 4096 == 0 || (match imageBlock rd h.compressed h.codes h.size h.stored (blocksOf h.size - 1) with
    | some b => (b.drop (h.size % 4096)).all (fun x => x == 0)
    | none => false)

/-! ## Program images (R241, R242, R52-R55, R406) -/

/-- The program header of R241 is well formed. -/
def programHeaderOk (b : Bytes) : Bool :=
  let f := fieldAt b
  decide (f 0 2 = 1 ∧ f 2 2 = 0 ∧ f 0x0e 2 = 0 ∧ f 0x0c 2 ≤ 1024 ∧ f 0x14 4 ≤ 65536) &&
  [4, 8, 0x10, 0x18].all (fun o => decide (f o 4 % 64 = 0)) && (bytesAt b 0x20 32).all (fun x => x == 0) &&
  decide (f 4 4 + 16 ≤ b.length ∧ f 8 4 + 4 * f 0x0c 2 ≤ b.length ∧ f 0x10 4 + 24 * f 0x14 4 ≤ b.length ∧
    f 0x18 4 + f 0x1c 4 ≤ b.length)

def parseSection (b : Bytes) (o : Nat) : Section :=
  let f (k n : Nat) := fieldAt b (o + k) n
  { die := f 0 1, shape := f 1 1, tilesNom := f 2 2, tilesMin := f 4 2, w := f 8 8, cisIn := f 0x10 4, cisOut := f 0x14 4,
    fabIn := (List.range 4).map (fun i => f (0x18 + 4 * i) 4), fabOut := (List.range 4).map (fun i => f (0x28 + 4 * i) 4),
    energy := f 0x38 4 }

def parseCert (b : Bytes) (o : Nat) : Cert :=
  let f (k n : Nat) := fieldAt b (o + k) n
  let ns := f 2 1
  let np := f 3 1
  let nt := f 4 2
  let tasks := o + 16 + 64 * ns
  let phases := tasks + 16 * nt
  { paths := BitVec.ofNat 16 (f 6 2), uses := BitVec.ofNat 32 (f 8 4),
    sections := (List.range ns).map (fun i => parseSection b (o + 16 + 64 * i)),
    tasks := (List.range nt).map (fun i =>
      { budget := fieldAt b (tasks + 16 * i) 8, section_ := fieldAt b (tasks + 16 * i + 8) 1,
        tflags := BitVec.ofNat 8 (fieldAt b (tasks + 16 * i + 9) 1) }),
    phases := (List.range np).map (fun i =>
      let q := phases + 16 * i
      { section_ := fieldAt b q 1, regions := BitVec.ofNat 8 (fieldAt b (q + 1) 1), step := fieldAt b (q + 2) 2,
        start := fieldAt b (q + 4) 4, length := fieldAt b (q + 8) 4, rsv := fieldAt b (q + 12) 4 }) }

/-- What the device reads of a program image's decoded bytes. The certificate's VERSION and zero fields are not judged: R241 names the
refusals of a program image and they are none of them (log 17). -/
def parseProgram (b : Bytes) : Program :=
  let f := fieldAt b
  { cert := parseCert b (f 4 4),
    tensors := (List.range (f 0x0c 2)).map (fun i => let e := f (f 8 4 + 4 * i) 4; (e % 2 ^ 18, e.testBit 24)),
    sched := (List.range (f 0x14 4)).map (fun i =>
      let o := f 0x10 4 + 24 * i
      { tensor := f o 2, plane := f (o + 2) 1, path := f (o + 3) 1, task := f (o + 4) 2, dest := BitVec.ofNat 32 (f (o + 8) 4),
        issue := f (o + 12) 4, need := f (o + 16) 4, slack := f (o + 20) 4 }) }

/-! ## Descriptors and homes -/

def tensorOf (s : State) (i : Nat) : Tensor := tblGet {} s.dir.tensors i
def tensorMod (i : Nat) (f : Tensor → Tensor) (s : State) : State :=
  { s with dir := { s.dir with tensors := tblMod {} s.dir.tensors i f } }
def tensorGen (s : State) (i : Nat) : BitVec 8 := tblGet 0 s.dir.gens i

/-- Handle of a tensor index (R230). -/
def tensorHandle (s : State) (i : Nat) : Nat := (tensorGen s i).toNat * 2 ^ 24 + i

/-- The live tensor that a handle names (R230). -/
def tensorNamed (s : State) (h : Nat) : Option Nat :=
  let i := h % 2 ^ 18
  if i ≠ 0 ∧ h / 2 ^ 18 % 64 = 0 ∧ (tensorGen s i).toNat = h / 2 ^ 24 % 256 ∧ (tensorOf s i).state ≠ .free then some i else none

/-- Indices of the live tensors. -/
def liveTensors (s : State) : List Nat := (s.dir.tensors.filter (fun e => e.2.state ≠ .free)).map (fun e => e.1)

/-- Accepted, uncompleted jobs whose tensor table lists the tensor (R231). -/
def listedCount (s : State) (i : Nat) : Nat :=
  (s.sluice.jobs.filter (fun j => j.prog.tensors.any (fun e => e.1 = i))).length

/-- Is a service job on the tensor accepted and uncompleted, or waiting for its decision? -/
def serviceTensor : Service → Option Nat
  | .load t _ => some t
  | .store t _ => some t
  | .fill t _ => some t
  | .migrateBasin t _ _ => some t
  | .migrateCistern t => some t
  | .migrateAquifer t _ _ => some t
  | _ => none

def tensorBusy (s : State) (i : Nat) : Bool :=
  s.sluice.jobs.any (fun j => (j.service.bind serviceTensor) == some i) ||
  s.sluice.arrivals.any (fun a => (a.service.bind serviceTensor) == some i)

/-- A reader of the image at a home: own Cistern, or the peer's memory, which holds what the MIGRATE wrote while its header matches
(R252, R253; log 15). -/
def imageRead (s : State) (aquifer : Bool) (remote : Bytes) (addr : Nat) : Nat → Nat → Bytes :=
  fun off n => if aquifer then padTo n (bytesAt remote off n) else peek s (addr + off) n

/-- A reader of the image at a tensor's home. -/
def homeRead (s : State) (t : Tensor) : Nat → Nat → Bytes := imageRead s (t.home = .aquifer) t.remote t.addr

/-- Decoded bytes of the current version of a tensor, wherever its home lies (R224); none where a block is in error. -/
def tensorBytes (s : State) (t : Tensor) : Option Bytes := imageBytes (homeRead s t) t.compressed t.codes t.size t.stored

/-- The home that a superseded version of a tensor keeps. -/
def oldHome (s : State) (i v : Nat) : Option OldHome := s.dir.old.find? (fun o => o.tensor = i && o.version = v)

/-- A reader of the image of version v of tensor i, current or superseded (R235); none where it has no home. -/
def versionRead (s : State) (i v : Nat) : Option (Nat → Nat → Bytes) :=
  let t := tensorOf s i
  if t.version = v ∧ t.state ≠ .free then (if t.state = .empty ∨ t.home = .none then none else some (homeRead s t))
  else (oldHome s i v).map (fun o => imageRead s o.aquifer o.remote o.extent.addr)

/-- Decoded bytes of version v of tensor i; none where it has no home or a block is in error (R224, R235). -/
def versionBytes (s : State) (i v : Nat) : Option Bytes :=
  let t := tensorOf s i
  if t.version = v ∧ t.state ≠ .free then (if t.state = .empty ∨ t.home = .none then none else tensorBytes s t)
  else match versionRead s i v with
    | none => none
    | some rd => match imageHdr rd with
      | some h => imageBytes rd h.compressed h.codes h.size h.stored
      | none => none

/-- Address in own Cistern of the image of version v of tensor i; none where it lies with a peer or nowhere. -/
def versionAddr (s : State) (i v : Nat) : Option Nat :=
  let t := tensorOf s i
  if t.version = v ∧ t.state ≠ .free then (if t.home = .cistern ∨ t.home = .basin then some t.addr else none)
  else (oldHome s i v).bind (fun o => if o.aquifer then none else some o.extent.addr)

/-- Peer, address and bytes of the image of version v of tensor i where its home is a peer's. -/
def remoteHome (s : State) (i v : Nat) : Option (Nat × Nat × Nat) :=
  let t := tensorOf s i
  if t.version = v ∧ t.state ≠ .free then (if t.home = .aquifer then some (t.peer, t.addr, t.stored) else none)
  else (oldHome s i v).bind (fun o =>
    if o.aquifer then (windowOf o.extent.addr).map (fun w => (w.1, o.extent.addr, o.stored)) else none)

/-- Bytes of the image of version v of tensor i. -/
def versionStored (s : State) (i v : Nat) : Nat :=
  if (tensorOf s i).version = v then (tensorOf s i).stored else ((oldHome s i v).map (fun o => o.stored)).getD 0

/-- The program image that a PROGRAM field names, if it is live, VALID and of KIND 1 (R44, R241). -/
def programOf (s : State) (program : BitVec 64) : Option (Nat × Program) :=
  match tensorOfAddr program.toNat with
  | some (i, 0) =>
    let t := tensorOf s i
    if t.state = .valid ∧ t.kind then (tensorBytes s t).map (fun b => (i, parseProgram b)) else none
  | _ => none

/-! ## The heap (R229, R236) -/

def heapBase (s : State) : Nat := cfg s 0x3800 1
def heapBytes (s : State) : Nat := cfg s 0x3800 2

/-- Heap unit of 64 KiB. -/
def heapUnit : Nat := 0x10000

def extent (addr size : Nat) : Extent := ⟨addr, roundUp size heapUnit⟩

/-- Extents that hold the heap: homes, homes of superseded versions still bound, staging homes, pre-emption images, and
those of ended attempts whose fences are outstanding (R64). -/
def heapHeld (s : State) : List Extent :=
  (s.dir.tensors.filterMap (fun e =>
    if e.2.home = .basin ∨ e.2.home = .cistern then some (extent e.2.addr e.2.stored) else none)) ++
  (s.dir.old.filterMap (fun o => if o.aquifer then none else some o.extent)) ++
  (s.sluice.jobs.map (fun j => j.staging.map (fun p => p.2) ++ j.preimage.toList)).flatten ++
  (s.sluice.dying.map (fun d => d.staging.map (fun p => p.2) ++ d.image.toList)).flatten

/-- First fit from the lowest address, in 64 KiB units, beside the extents `held`. -/
def heapFit (base bytes : Nat) (held : List Extent) (size : Nat) : Option Extent :=
  let n := roundUp size heapUnit
  let starts := base :: (held.map (fun e => e.addr + e.size))
  let ok (a : Nat) : Bool := decide (base ≤ a) && decide (a + n ≤ base + bytes) &&
    held.all (fun e => !(overlaps a n e.addr e.size))
  ((starts.filter ok).min?).map (fun a => ⟨a, n⟩)

/-- One contiguous heap range. -/
def heapAlloc (s : State) (size : Nat) : Option Extent := heapFit (heapBase s) (heapBytes s) (heapHeld s) size

/-- Ranges for several sizes taken in order; none unless every one fits. -/
def heapAllocAll (s : State) (sizes : List Nat) : Option (List Extent) :=
  (sizes.foldl (fun (acc : Option (List Extent)) n =>
    match acc with
    | none => none
    | some l => (heapFit (heapBase s) (heapBytes s) (heapHeld s ++ l) n).map (fun e => l ++ [e])) (some []))

/-- HEAP_FREE (R229). -/
def heapFree (s : State) : Nat := heapBytes s - sumNat ((heapHeld s).map (fun e => e.size))

/-! ## Freeing homes (R235, R244, R253) -/

/-- Is some job bound to version `v` of tensor `i`? -/
def versionBound (s : State) (i v : Nat) : Bool :=
  s.sluice.jobs.any (fun j => (i, v) ∈ j.bound) || s.sluice.dying.any (fun d => (i, v) ∈ d.bound)

/-- The header of an Aquifer home that is freed is written with 64 zero bytes (R253): a write to the peer. -/
def freeAquifer (s : State) (addr : Nat) : State :=
  match windowOf addr with
  | some (m, _) => peerWrite m addr (zeros 64) s
  | none => s

/-- Is a job that is bound to the tensor running on cluster k (R244)? -/
def boundOn (s : State) (i k : Nat) : Bool :=
  s.sluice.jobs.any (fun j => j.bound.any (fun b => b.1 = i) &&
    j.tasks.any (fun t => t.tile.any (fun x => clusterOfTile x == k)))

/-- The replicas that a MIGRATE to CISTERN leaves go cluster by cluster, once no job running there is bound to the tensor (R244). -/
def reapReplicas (s : State) : State :=
  forEach ((s.dir.tensors.filter (fun e => e.2.home != .basin && e.2.clusters != 0)).map (fun e => e.1)) (fun i =>
    tensorMod i (fun t =>
      let c := ofBits ((bitsOf 64 t.clusters.toNat).filter (boundOn s i))
      { t with clusters := BitVec.ofNat 64 c, offset := if c = 0 then 0 else t.offset })) s

/-- Old homes with no job bound to them are freed. -/
def reapHomes (s : State) : State :=
  let dead := s.dir.old.filter (fun o => !(versionBound s o.tensor o.version))
  let s := dead.foldl (fun s o => if o.aquifer then freeAquifer s o.extent.addr else s) s
  reapReplicas { s with dir := { s.dir with old := s.dir.old.filter (fun o => versionBound s o.tensor o.version) } }

/-- The present home of a tensor becomes an old one: superseded, migrated away from or freed (R235). -/
def retireHome (i : Nat) (s : State) : State :=
  let t := tensorOf s i
  match t.home with
  | .none => s
  | h => { s with dir := { s.dir with old := s.dir.old ++
      [⟨i, t.version, if h = .aquifer then ⟨t.addr, t.stored⟩ else extent t.addr t.stored, t.stored, h = .aquifer, t.remote⟩] } }

/-- A new version at an own-Cistern home (R232, R235). -/
def newVersion (i : Nat) (addr stored : Nat) (compressed : Bool) (codes : Bytes) (object : Option Nat) (s : State) : State :=
  let s := retireHome i s
  reapHomes (tensorMod i (fun t => { t with
    state := .valid, home := .cistern, peer := 0, addr := addr, stored := stored,
    compressed := compressed, codes := codes, object := object, version := (t.version + 1) % 2 ^ 32, clusters := 0, offset := 0,
    remote := [] }) s)

/-- The 64-byte descriptor of a tensor (R231). -/
def tensorDesc (s : State) (i : Nat) : Bytes :=
  let t := tensorOf s i
  let stateCode : Nat := match t.state with | .free => 0 | .empty => 1 | .valid => 2 | .damaged => 3
  let homeCode : Nat := match t.home with | .none => 0 | .basin => 1 | .cistern => 2 | .aquifer => 3
  let flags := (if t.object.isSome then 4 else 0) + (if t.compressed then 2 else 0) + (if tensorBusy s i then 1 else 0)
  leBytes 1 stateCode ++ leBytes 1 (if t.kind then 1 else 0) ++ [tensorGen s i] ++ leBytes 1 homeCode ++ [t.layout] ++
  leBytes 1 flags ++ leBytes 1 t.peer ++ [0] ++ leBytes 4 t.size ++ leBytes 4 t.stored ++ leBytes 8 t.addr ++ padTo 16 t.codes ++
  leBytes 4 (t.object.getD 0xffffffff) ++ leBytes 4 t.version ++ leBytes 2 (listedCount s i) ++ zeros 6 ++
  leBytes 8 t.clusters.toNat

/-! ## Writes to own Cistern (R228) -/

/-- Lines of own Cistern that a write of `n` bytes at `a` makes whole again (R228). -/
def healLines (a n : Nat) (s : State) : State :=
  if s.dir.poison = [] then s
  else { s with dir := { s.dir with poison := s.dir.poison.filter (fun l => !(overlaps (l * 64) 64 a n)) } }

/-- Bytes written to own Cistern: poisoned lines written are poisoned no more (R228). -/
def pokeCistern (a : Nat) (bs : Bytes) (s : State) : State := healLines a bs.length (poke a bs s)

/-- `n` bytes copied to own Cistern. -/
def copyCistern (src dst n : Nat) (s : State) : State := healLines dst n { s with mem := memCopy s.mem src dst n }

/-- Subchannel that holds own-Cistern address a: by R226, and by a free mapping to the other 31 once a retired subchannel has been
evacuated (R256; log 16). -/
def subchannelOf (s : State) (a : Nat) : Nat :=
  let j := subchannel a
  if tblGet 0 s.dir.sub j = 2 then (j + 1 + Config.evacuated (a / 256) % 31) % 32 else j

/-- Subchannel of a poisoned line in a range of own Cistern (R228, R416). -/
def poisonIn (s : State) (a n : Nat) : Option Nat :=
  (s.dir.poison.find? (fun l => overlaps (l * 64) 64 a n)).map (fun l => subchannelOf s (l * 64))

/-! ## BASIN replicas (R244) and Cistern faults -/

/-- Tensors with a replica on cluster k, those that a MIGRATE to CISTERN still leaves there among them (R231, R244). -/
def replicasOn (s : State) (k : Nat) : List Nat :=
  (s.dir.tensors.filter (fun e => e.2.clusters.getLsbD k)).map (fun e => e.1)

/-- The replica of tensor `i` on cluster `k` is dropped; with the last one the home is CISTERN. -/
def dropReplica (k i : Nat) (s : State) : State :=
  tensorMod i (fun t =>
    let c := t.clusters &&& ~~~(BitVec.ofNat 64 (2 ^ k))
    if c = 0 then { t with clusters := 0, home := .cistern, offset := 0 } else { t with clusters := c }) s

/-- Every replica on cluster `k` is dropped. -/
def dropReplicas (k : Nat) (s : State) : State := forEach (replicasOn s k) (dropReplica k) s

/-- Does the byte range of cluster `k`'s SRAM meet a replica area? -/
def inReplica (s : State) (k off n : Nat) : Bool :=
  (replicasOn s k).any (fun i => overlaps off n (tensorOf s i).offset (tensorOf s i).size)

/-- The tensor becomes DAMAGED (R232, R246). -/
def damageTensor (i : Nat) (s : State) : State :=
  if (tensorOf s i).state = .valid then
    notifySubs 0x24 (leBytes 4 (tensorHandle s i)) (tensorMod i (fun t => { t with state := .damaged }) s)
  else s

end Sys2Proof.Machine
end

