-- ==== Sys2Proof/Machine/Pages.lean ====
section
/-!
DEFINITION. Sys2Proof/Machine/Pages.lean: the page store: pools, the page table, sequences, branch tables, reservations,
pins, publish and drop (R160-R193). Entry keys are pool x 2^20 + INDEX.
-/

namespace Sys2Proof.Machine

/-! ## Pools (R160-R163) -/

structure Pool where
  base    : Nat
  pageB   : Nat
  tokenB  : Nat
  layers  : Nat
  frames  : Nat
  staging : Nat
  entries : Nat
  seqMax  : Nat
  deriving DecidableEq, Repr

/-- The configuration of pool p (R160). -/
def poolOf (s : State) (p : Nat) : Pool :=
  let c (k : Nat) := cfg s (0x3a20 + p) k
  { base := c 1, pageB := c 3, tokenB := c 4, layers := c 5, frames := c 6, staging := c 7, entries := c 8, seqMax := c 9 }

/-- Token positions of a page (R161). -/
def Pool.tp (q : Pool) : Nat := q.pageB / q.tokenB
def Pool.frameB (q : Pool) : Nat := q.layers * q.pageB
def Pool.stageB (q : Pool) : Nat := q.layers * 64 * q.tokenB
def Pool.stageBase (q : Pool) : Nat := q.base + q.frames * q.frameB
def Pool.tableBase (q : Pool) : Nat := q.stageBase + q.staging * q.stageB
def Pool.tableB (q : Pool) : Nat := roundUp (q.entries * 32) 0x200000
def Pool.areaBase (q : Pool) (a : Nat) : Nat := q.tableBase + q.tableB + a * 0x20000
/-- Bytes of the whole footprint (R163). -/
def Pool.bytes (q : Pool) : Nat := q.areaBase q.seqMax - q.base
/-- Highest entry index: the table holds 32 bytes at 32 x INDEX (R171). -/
def Pool.lastIndex (q : Pool) : Nat := min q.entries (q.tableB / 32 - 1)
/-- The longest LENGTH of a sequence (R164). -/
def Pool.maxLen (q : Pool) : Nat := min (4095 * q.tp) 16777215

/-! ## Entries (R171, R172) -/

def entryKey (p i : Nat) : Nat := p * 2 ^ 20 + i
def keyPool (e : Nat) : Nat := e / 2 ^ 20
def keyIndex (e : Nat) : Nat := e % 2 ^ 20

/-- GEN that every entry of entry e's pool has gained with the whole pool (R172). -/
def genBase (s : State) (e : Nat) : BitVec 8 := tblGet 0 s.pages.base (keyPool e)

/-- Entry e. -/
def entryOf (s : State) (e : Nat) : Entry :=
  let x := tblGet {} s.pages.entries e
  { x with gen := x.gen + genBase s e }

/-- The page handle of an entry (R171). -/
def pageHandle (s : State) (e : Nat) : Nat := (entryOf s e).gen.toNat * 2 ^ 24 + keyPool e * 2 ^ 22 + keyIndex e

def estateCode : EState → Nat
  | .free => 0 | .reserved => 1 | .filling => 2 | .sealed => 3 | .dropped => 4

/-- The 32 bytes of a page-table entry (R171). -/
def entryBytes (x : Entry) : Bytes :=
  leBytes 1 (estateCode x.state) ++ leBytes 1 (if x.staging then 1 else 0) ++ leBytes 1 x.gen.toNat ++ leBytes 1 x.cls ++
  leBytes 2 x.ref ++ leBytes 2 x.pins ++ leBytes 2 x.strips ++ zeros 2 ++ leBytes 4 x.lastRead.toNat ++ leBytes 8 x.addr ++ zeros 8

/-- An entry changed by `f`, in the table that programs read too. -/
def entryMod (e : Nat) (f : Entry → Entry) (s : State) : State :=
  let x := f (entryOf s e)
  pokeCistern ((poolOf s (keyPool e)).tableBase + 32 * keyIndex e) (entryBytes x)
    { s with pages := { s.pages with entries := tblSet {} s.pages.entries e { x with gen := x.gen - genBase s e } } }

/-- Reclaim: FREE, frame returned, GEN + 1, ADDRESS 0 (R172). -/
def reclaimEntry (e : Nat) (s : State) : State :=
  entryMod e (fun x => { gen := x.gen + 1 }) s

/-- Does the entry hold a frame? -/
def holdsFrame (x : Entry) : Bool := x.state != .free && x.state != .dropped

/-- Entries of pool p that are listed; the GEN here is without the pool's base. -/
def poolEntries (s : State) (p : Nat) : List (Nat × Entry) := s.pages.entries.filter (fun e => keyPool e.1 = p)

/-- Frame addresses of one kind in use or reserved in pool p. -/
def framesHeld (s : State) (p : Nat) (staging : Bool) : List Nat :=
  ((poolEntries s p).filter (fun e => holdsFrame e.2 && e.2.staging == staging)).map (fun e => e.2.addr)

def freeFrames (s : State) (p : Nat) : Nat := (poolOf s p).frames - (framesHeld s p false).length
def freeStaging (s : State) (p : Nat) : Nat := (poolOf s p).staging - (framesHeld s p true).length
def freeEntries (s : State) (p : Nat) : Nat :=
  (poolOf s p).lastIndex - ((poolEntries s p).filter (fun e => e.2.state ≠ .free)).length

/-- Reserves one entry with a frame, each a free choice among the free ones (R172, R177). -/
def reserveEntry (p : Nat) (staging : Bool) (s : State) : Nat × State :=
  let q := poolOf s p
  let held := framesHeld s p staging
  let all := if staging then (List.range q.staging).map (fun i => q.stageBase + i * q.stageB)
    else (List.range q.frames).map (fun i => q.base + i * q.frameB)
  let used := ((poolEntries s p).filter (fun e => e.2.state ≠ .free)).map (fun e => e.1)
  let idx := ((List.range q.lastIndex).map (fun i => entryKey p (i + 1))).filter (fun e => e ∉ used)
  let (a, s) := freshChoice (all.filter (fun a => a ∉ held)) s
  let (e, s) := freshChoice idx s
  let key := e.getD 0
  (key, entryMod key (fun x => { gen := x.gen, state := .reserved, staging := staging, addr := a.getD 0 }) s)

/-- Reclaim at the end of a cycle: the reserved entries of ended jobs, and every entry with REFCOUNT 0 and PINS 0 (R172, R181).
Before the end of a cycle that a command holds open nothing is reclaimed; each command of the page store is a cycle of its own (log 108,
DESIGN CHOICE). -/
def reclaim (s : State) : State :=
  if s.pages.cycle then s
  else
    let ended := s.pages.ended.filter (fun e => decide ((entryOf s e).state = .reserved))
    let s := forEach ended reclaimEntry { s with pages := { s.pages with ended := [] } }
    forEach ((s.pages.entries.filter (fun e => e.2.state != .free && e.2.state != .reserved && e.2.ref == 0 && e.2.pins == 0)).map
      (fun e => e.1)) reclaimEntry s

/-- The cycle opens: what follows belongs to one cycle of R181. -/
def openCycle (s : State) : State := { s with pages := { s.pages with cycle := true } }

/-- The end of the cycle: reclaim, once (R181). -/
def endCycle (s : State) : State := reclaim { s with pages := { s.pages with cycle := false } }

/-! ## Sequences (R164-R170) -/

def seqGen (s : State) (n : Nat) : BitVec 8 := tblGet 0 s.pages.gens n
/-- A sequence or table handle (R165, R186). -/
def seqHandle (s : State) (n : Nat) : Nat := (seqGen s n).toNat * 2 ^ 24 + n
def seqOf (s : State) (n : Nat) : Option Seq := (s.pages.seqs.find? (fun e => e.1 = n)).map (fun e => e.2)
def tableOf (s : State) (n : Nat) : Option Table := (s.pages.tables.find? (fun e => e.1 = n)).map (fun e => e.2)

/-- Number and generation of a handle name a number now in use with that generation. -/
def handleNumber (s : State) (h : Nat) : Option Nat :=
  let n := h % 2 ^ 14
  if n ≠ 0 ∧ h / 2 ^ 14 % 2 ^ 10 = 0 ∧ (seqGen s n).toNat = h / 2 ^ 24 % 256 then some n else none

def seqNamed (s : State) (h : Nat) : Option (Nat × Seq) :=
  match handleNumber s h with
  | some n => (seqOf s n).map (fun q => (n, q))
  | none => none
def tableNamed (s : State) (h : Nat) : Option (Nat × Table) :=
  match handleNumber s h with
  | some n => (tableOf s n).map (fun q => (n, q))
  | none => none

/-- FLUSHED (R164). -/
def Seq.flushed (q : Seq) : Nat := q.length / 64 * 64

/-- A block-table row as programs read it (R173). -/
def rowBytes (s : State) (r : BRow) : Bytes := leBytes 4 (pageHandle s r.entry) ++ leBytes 2 r.strips ++ zeros 2

/-- A sequence set, and its block table written for programs to read. -/
def seqPut (n : Nat) (q : Seq) (s : State) : State :=
  let s := { s with pages := { s.pages with seqs := (n, q) :: s.pages.seqs.filter (fun e => e.1 ≠ n) } }
  pokeCistern ((poolOf s q.pool).areaBase q.area) (q.rows.map (rowBytes s)).flatten s

/-- Numbers in use module-wide, sequences and tables. -/
def numbersUsed (s : State) : List Nat := s.pages.seqs.map (fun e => e.1) ++ s.pages.tables.map (fun e => e.1)
/-- Open sequences of pool p (R160). -/
def openSeqs (s : State) (p : Nat) : Nat := (s.pages.seqs.filter (fun e => e.2.pool = p)).length
/-- Sequences and tables of pool p (R186). -/
def poolSeqs (s : State) (p : Nat) : Nat :=
  (s.pages.seqs.filter (fun e => e.2.pool = p)).length + (s.pages.tables.filter (fun e => e.2.pool = p)).length
/-- Sequence areas of pool p in use. -/
def areasUsed (s : State) (p : Nat) : List Nat :=
  (s.pages.seqs.filter (fun e => e.2.pool = p)).map (fun e => e.2.area) ++
  (s.pages.tables.filter (fun e => e.2.pool = p)).map (fun e => e.2.area)

/-- A free number and a free area of pool p, each a free choice. -/
def freshSeq (p : Nat) (s : State) : Nat × Nat × State :=
  let (n, s) := freshChoice (((List.range 16383).map (· + 1)).filter (fun n => n ∉ numbersUsed s)) s
  let (a, s) := freshChoice ((List.range (poolOf s p).seqMax).filter (fun a => a ∉ areasUsed s p)) s
  (n.getD 0, a.getD 0, s)

/-- Are `n` numbers free, and the pool below SEQ_MAX by as many (R168, R190 LIMIT)? -/
def seqRoom (s : State) (p n : Nat) : Bool :=
  decide ((numbersUsed s).length + n ≤ 16383) && decide (poolSeqs s p + n ≤ (poolOf s p).seqMax)

/-- OPEN (R169). -/
def seqOpenOp (p cls owner : Nat) (s : State) : Nat × State :=
  let (n, a, s) := freshSeq p s
  (n, seqPut n { pool := p, owner := owner, cls := cls, area := a } s)

/-- Is N allowed for a FORK of `q` (R169)? -/
def forkOk (q : Seq) (n : Nat) : Bool :=
  (decide (n % 64 = 0) && decide (n ≤ q.flushed)) || (decide (q.flushed ≤ n) && decide (n ≤ q.length))

/-- FORK of sequence `q` at N with drop class `cls` (R169). -/
def seqForkOp (q : Seq) (n cls : Nat) (s : State) : Nat × State :=
  let tp := (poolOf s q.pool).tp
  let flushed := min n q.flushed
  let rows := ((q.rows.take (ceilDiv n tp)).zipIdx).map
    (fun r => { r.1 with strips := min r.1.strips ((flushed - r.2 * tp) / 64) })
  let stage := if q.flushed < n then q.stage else none
  let (k, a, s) := freshSeq q.pool s
  let s := forEach rows (fun r => entryMod r.entry (fun x => { x with ref := x.ref + 1, cls := min x.cls cls })) s
  let s := forEach stage.toList (fun e => entryMod e (fun x => { x with ref := x.ref + 1 })) s
  (k, seqPut k { pool := q.pool, owner := q.owner, cls := cls, length := n, rows := rows, stage := stage, area := a } s)

/-- Is the sequence number a branch of a table? Answers the table's number and the branch index (R186). -/
def branchOf (s : State) (n : Nat) : Option (Nat × Nat) :=
  s.pages.tables.findSome? (fun e => (e.2.branches.find? (fun b => b.2.handle.toNat == seqHandle s n)).map (fun b => (e.1, b.1)))

/-- CLOSE (R170); reclaim follows at the end of the cycle. -/
def seqCloseOp (n : Nat) (s : State) : State :=
  match seqOf s n with
  | none => s
  | some q =>
    let s := forEach (q.rows.map (fun r => r.entry) ++ q.stage.toList)
      (fun e => entryMod e (fun x => { x with ref := x.ref - 1 })) s
    { s with pages := { s.pages with
        seqs := s.pages.seqs.filter (fun e => e.1 ≠ n), gens := tblMod 0 s.pages.gens n (· + 1) } }

/-! ## Branch tables (R186-R193) -/

/-- Live branches of a table: those whose sequence is open, in index order. -/
def liveBranches (s : State) (t : Table) : List (Nat × Branch) := t.branches.filter (fun b => (seqNamed s b.2.handle.toNat).isSome)

/-- The number of a branch's sequence. -/
def branchSeq (b : Branch) : Nat := b.handle.toNat % 2 ^ 14

def tableMod (n : Nat) (f : Table → Table) (s : State) : State :=
  { s with pages := { s.pages with tables := s.pages.tables.map (fun e => if e.1 = n then (n, f e.2) else e) } }

/-- The first 16 bytes of a branch entry (R193). -/
def branchHead (b : Branch) : Bytes :=
  leBytes 4 b.handle.toNat ++ leBytes 2 b.parent.toNat ++ [1] ++ leBytes 1 b.cls ++ leBytes 4 b.forkN ++ zeros 4

/-- Do accepted, uncompleted jobs name the sequence? -/
def seqInJob (s : State) (n : Nat) : Bool := s.sluice.jobs.any (fun j => j.uses.any (fun u => u.seq = n))
def seqAppended (s : State) (n : Nat) : Bool := s.sluice.jobs.any (fun j => j.uses.any (fun u => u.seq = n && u.append))
def tableInJob (s : State) (n : Nat) : Bool := s.sluice.jobs.any (fun j => j.table == some n)

/-! ## Sequence lists of jobs (R173, R174, R192) -/

/-- A parsed sequence list. -/
structure SeqList where
  append  : Nat
  new     : Nat
  handles : List Nat
  deriving DecidableEq, Repr

/-- The sequence list in an argument block; none where it is malformed (R174). -/
def parseSeqList (b : Bytes) (argLen : Nat) : Option SeqList :=
  let f := fieldAt b
  let count := f 0 1
  let ap := f 2 2
  let new := f 4 2
  let hs := (List.range 14).map (fun i => f (8 + 4 * i) 4)
  if 1 ≤ count ∧ count ≤ 14 ∧ f 1 1 = 0 ∧ f 6 2 = 0 ∧ ap < 2 ^ count ∧
      (if ap = 0 then new = 0 else 1 ≤ new ∧ new ≤ 8192) ∧ 1 + ceilDiv (48 * count) 64 ≤ argLen ∧
      (hs.drop count).all (fun h => h == 0) then
    some ⟨ap, new, hs.take count⟩
  else none

/-- What a job's sequence list names, resolved at acceptance. -/
structure SeqNames where
  uses  : List SeqUse
  table : Option Nat
  new   : Nat
  deriving DecidableEq, Repr

/-- NEW of the earlier accepted jobs that append to sequence n. -/
def pendingNew (s : State) (n : Nat) : Nat :=
  sumNat (s.sluice.jobs.map (fun j => if j.uses.any (fun u => u.seq = n && u.append) then j.new else 0))

/-- The checks of R174 and R192 on a well-formed list; none refuses DESC_INVALID. -/
def resolveSeqs (s : State) (client : Nat) (l : SeqList) : Option SeqNames :=
  let ap (i : Nat) : Bool := l.append.testBit i
  let one (p : Nat × Nat) : Option (List SeqUse × List Nat) :=
    match seqNamed s p.1, tableNamed s p.1 with
    | some (n, q), _ => if q.owner = client then some ([⟨n, ap p.2⟩], []) else none
    | none, some (n, t) =>
      let live := liveBranches s t
      if t.owner = client ∧ live ≠ [] then some (live.map (fun b => ⟨branchSeq b.2, ap p.2⟩), [n]) else none
    | none, none => none
  let parts := l.handles.zipIdx.map one
  if parts.any Option.isNone then none
  else
    let ps := parts.filterMap id
    let uses := (ps.map (fun p => p.1)).flatten
    let tabs := (ps.map (fun p => p.2)).flatten
    let long := uses.any (fun u => u.append && match seqOf s u.seq with
      | some q => decide ((poolOf s q.pool).maxLen < q.length + pendingNew s u.seq + l.new)
      | none => true)
    let seqs : List Nat := uses.map (fun u => u.seq)
    if decide (tabs.length ≤ 1) && decide (dedup seqs = seqs) && !long then some ⟨uses, tabs.head?, l.new⟩ else none

/-! ## Reservations (R177) and dropping (R182) -/

/-- Entries that the named sequences reference now. -/
def namedEntries (s : State) (uses : List SeqUse) : List Nat :=
  dedup ((uses.map (fun u => match seqOf s u.seq with
    | some q => q.rows.map (fun r => r.entry) ++ q.stage.toList
    | none => [])).flatten)

/-- Reservations of one use: (role, row, staging) in order; role 3 is the staging frame. A shared SEALED tail page of which this
sequence counts only a part is copied too, since R179 never writes a shared original (log 18). -/
def useNeeds (s : State) (new : Nat) (u : SeqUse) : List (Nat × Nat × Bool) :=
  match seqOf s u.seq with
  | none => []
  | some q =>
    let tp := (poolOf s q.pool).tp
    let recomp := (q.rows.zipIdx.filter (fun r => (entryOf s r.1.entry).state = .dropped)).map (fun r => (2, r.2, false))
    if !u.append then recomp
    else
      let tail := q.rows.length - 1
      let copy := match q.rows.getLast? with
        | some r =>
          if ((entryOf s r.entry).state ≠ .sealed ∨ decide (r.strips < tp / 64)) ∧ 1 < (entryOf s r.entry).ref then [(1, tail, false)]
          else []
        | none => []
      let rows := (List.range (ceilDiv new tp)).map (fun i => (0, q.rows.length + i, false))
      let stage := match q.stage with
        | none => true
        | some e => decide (1 < (entryOf s e).ref) || decide (64 ≤ q.length % 64 + new) || seqAppended s u.seq
      rows ++ copy ++ recomp ++ (if stage then [(3, 0, true)] else [])

/-- Pool of a sequence in use. -/
def usePool (s : State) (u : SeqUse) : Nat := match seqOf s u.seq with | some q => q.pool | none => 0

/-- Droppable entries of pool p outside `keep`, in the order of R182. -/
def droppable (s : State) (p : Nat) (keep : List Nat) : List Nat :=
  let cands := (poolEntries s p).filter (fun e =>
    e.2.state = .sealed && e.2.pins = 0 && decide (1 ≤ e.2.cls) && !(decide (e.1 ∈ keep)))
  let age (e : Nat × Entry) : Nat := (stamp s - e.2.lastRead).toNat
  (sortBy (fun a b => decide (b.2.cls < a.2.cls) ||
    (decide (a.2.cls = b.2.cls) && (decide (age b < age a) || (decide (age a = age b) && decide (a.1 ≤ b.1))))) cands).map
    (fun e => e.1)

/-- A page dropped: its frame returns, its entry and GEN stay (R172, R182). -/
def dropEntry (e : Nat) (s : State) : State :=
  count 0x7413 3 1 (entryMod e (fun x => { x with state := .dropped, addr := 0 }) s)

/-- Outcome of the reservations of a job: granted with its entries and pins, or short of frames. -/
inductive PageGrant where
  | granted (resv : List Resv) (pins : List Nat) (s : State)
  | short (s : State)

/-- Takes pins and reservations at acceptance, dropping rows where frames fall short (R176, R177, R182). -/
def grantPages (names : SeqNames) (s : State) : PageGrant :=
  let pins := namedEntries s names.uses
  let needs := (names.uses.map (fun u => (useNeeds s names.new u).map (fun n => (u, n)))).flatten
  let need (p : Nat) (staging : Bool) : Nat := (needs.filter (fun n => usePool s n.1 = p && n.2.2.2 == staging)).length
  let all (p : Nat) : Nat := (needs.filter (fun n => usePool s n.1 = p)).length
  let s := forEach (List.range 4) (fun p s =>
    let lack := need p false - freeFrames s p
    forEach ((droppable s p pins).take lack) dropEntry s) s
  if (List.range 4).all (fun p => decide (need p false ≤ freeFrames s p) && decide (need p true ≤ freeStaging s p) &&
      decide (all p ≤ freeEntries s p)) then
    let r := needs.foldl (fun (acc : List Resv × State) n =>
      let x := reserveEntry (usePool acc.2 n.1) n.2.2.2 acc.2
      (acc.1 ++ [⟨n.2.1, n.2.2.1, n.1.seq, x.1⟩], x.2)) ([], s)
    .granted r.1 pins (forEach pins (fun e => entryMod e (fun x => { x with pins := x.pins + 1 })) r.2)
  else .short (count 0x7413 7 1 s)

/-- Reserved entries of an ended job, to be reclaimed at the end of the cycle (R172, R177). -/
def endReserved (es : List Nat) (s : State) : State := { s with pages := { s.pages with ended := s.pages.ended ++ es } }

/-- A job's pins released with LAST_READ the present stamp (R176). -/
def releasePins (j : Job) (s : State) : State :=
  forEach j.pins (fun e => entryMod e (fun x => { x with pins := x.pins - 1, lastRead := stamp s })) s

/-! ## Views (R173, R193) -/

def droppedRows (s : State) (q : Seq) : Nat := (q.rows.filter (fun r => (entryOf s r.entry).state = .dropped)).length

/-- The reservation of a role that the job holds for sequence n. -/
def resvOf (j : Job) (n role : Nat) : List Resv := j.resv.filter (fun r => r.seq = n && r.role = role)

/-- The reservation list of sequence n in a job: ROLE 0 rows follow the rows at its start. -/
def resvList (s : State) (j : Job) (n : Nat) (q : Seq) : List (Nat × Nat × Nat) :=
  ((resvOf j n 1).map (fun r => (1, q.rows.length - 1, (entryOf s r.entry).addr))) ++
  ((resvOf j n 0).zipIdx.map (fun r => (0, q.rows.length + r.2, (entryOf s r.1.entry).addr))) ++
  ((resvOf j n 2).map (fun r => (2, r.row, (entryOf s r.entry).addr)))

/-- Offset of the reservation list in a sequence area, past the 4,095 rows of the longest block table: a free multiple
of 16 (log 23). -/
def resvOff : Nat := 0x8000 + 16 * (Config.resvOff % 1920)

/-- A sequence view, its reservation list written in the sequence's area. -/
def seqView (j : Job) (n : Nat) (s : State) : Bytes × State :=
  match seqOf s n with
  | none => (zeros 48, s)
  | some q =>
    let p := poolOf s q.pool
    let l := resvList s j n q
    let area := p.areaBase q.area
    let s := pokeCistern (area + resvOff) (l.map (fun r => leBytes 1 r.1 ++ [0] ++ leBytes 2 r.2.1 ++ zeros 4 ++ leBytes 8 r.2.2)).flatten s
    let stage := match resvOf j n 3 with
      | r :: _ => (entryOf s r.entry).addr
      | [] => match q.stage with
        | some e => (entryOf s e).addr
        | none => 0
    (leBytes 4 q.length ++ leBytes 4 q.flushed ++ leBytes 8 area ++ leBytes 8 p.tableBase ++ leBytes 8 stage ++
      leBytes 8 (area + resvOff) ++ leBytes 2 l.length ++ leBytes 2 (droppedRows s q) ++ zeros 4, s)

/-- Writes the views of a job's sequence list into its argument block before its first task starts (R173, R193). -/
def writeViews (j : Job) (s : State) : State :=
  if j.uses = [] then s
  else
    let argsAddr := ownPhysical s (j.desc.args.toNat % 2 ^ 48 / 64 * 64)
    let list := peek s argsAddr 64
    let handles := (List.range (fieldAt list 0 1)).map (fun i => fieldAt list (8 + 4 * i) 4)
    forEach handles.zipIdx (fun h s =>
      let at_ := argsAddr + 0x40 + 48 * h.2
      match tableNamed s h.1 with
      | none =>
        let v := seqView j (h.1 % 2 ^ 14) s
        pokeCistern at_ v.1 v.2
      | some (_, t) =>
        let p := poolOf s t.pool
        let area := p.areaBase t.area
        let live := liveBranches s t
        let s := forEach live (fun b s =>
          let v := seqView j (branchSeq b.2) s
          pokeCistern (area + 64 * b.1) (branchHead b.2 ++ v.1) v.2) s
        pokeCistern at_ (leBytes 2 live.length ++ leBytes 2 t.max ++ zeros 4 ++ leBytes 8 area ++ leBytes 8 p.tableBase ++
          leBytes 4 t.root.toNat ++ zeros 20) s) s

/-- Rows dropped over every sequence a job names. -/
def jobDropped (s : State) (j : Job) : Nat :=
  sumNat (j.uses.map (fun u => match seqOf s u.seq with | some q => droppedRows s q | none => 0))

/-! ## Publish (R180, R184) -/

/-- One appending sequence advances by NEW at publish: rows, staging buffer, LENGTH (R178-R180). -/
def publishAppend (j : Job) (n : Nat) (s : State) : State :=
  match seqOf s n with
  | none => s
  | some q =>
    let tp := (poolOf s q.pool).tp
    let len := q.length + j.new
    let flushed := len / 64 * 64
    let full := tp / 64
    let stripsAt (row : Nat) : Nat := min full ((flushed - row * tp) / 64)
    let tailOpen := decide (q.flushed % tp ≠ 0)
    let tail := q.rows.length - 1
    -- the tail row, in place or through the ROLE 1 copy
    let r := if flushed = q.flushed ∨ !tailOpen then (q.rows, s)
      else match q.rows.getLast?, resvOf j n 1 with
        | some old, c :: _ =>
          let s := entryMod old.entry (fun x => { x with ref := x.ref - 1 }) s
          let s := entryMod c.entry (fun x => { x with
            state := if stripsAt tail = full then .sealed else .filling,
            ref := 1, strips := stripsAt tail, cls := q.cls, lastRead := stamp s }) s
          (q.rows.dropLast ++ [⟨c.entry, stripsAt tail⟩], count 0x7413 1 1 s)
        | some old, [] =>
          let s := entryMod old.entry (fun x => { x with
            state := if x.state = .filling ∧ stripsAt tail = full then .sealed else x.state, strips := stripsAt tail }) s
          (q.rows.dropLast ++ [⟨old.entry, stripsAt tail⟩], s)
        | none, _ => (q.rows, s)
    -- new rows from the ROLE 0 frames
    let r := ((resvOf j n 0).take (ceilDiv flushed tp - q.rows.length)).foldl (fun (acc : List BRow × State) c =>
      let st := stripsAt acc.1.length
      (acc.1 ++ [⟨c.entry, st⟩], entryMod c.entry (fun x => { x with
        state := if st = full then .sealed else .filling, ref := 1, strips := st, cls := q.cls, lastRead := stamp acc.2 }) acc.2)) r
    let s := count 0x7413 6 ((flushed - q.flushed) / 64) r.2
    -- the staging buffer
    let left := len - flushed
    let st := match resvOf j n 3, decide (0 < left) with
      | c :: _, true =>
        let s := match q.stage with
          | some e =>
            let s := if 1 < (entryOf s e).ref then count 0x7413 2 1 s else s
            entryMod e (fun x => { x with ref := x.ref - 1 }) s
          | none => s
        (some c.entry, entryMod c.entry (fun x => { x with state := .filling, ref := 1, cls := q.cls, lastRead := stamp s }) s)
      | _, false => (none, forEach q.stage.toList (fun e => entryMod e (fun x => { x with ref := x.ref - 1 })) s)
      | [], true => (q.stage, s)
    seqPut n { q with rows := r.1, stage := st.1, length := len } st.2

/-- A recomputed row published (R184). -/
def publishRecompute (r : Resv) (s : State) : State :=
  match seqOf s r.seq with
  | none => s
  | some q => match q.rows[r.row]? with
    | none => s
    | some row =>
      if (entryOf s row.entry).state = .dropped then
        let a := (entryOf s r.entry).addr
        count 0x7413 4 1 (entryMod row.entry (fun x => { x with state := .sealed, addr := a }) (reclaimEntry r.entry s))
      else count 0x7413 5 1 (reclaimEntry r.entry s)

/-- The page store's publish of a job (R180); new entries are pinned for every job that names their sequences (R176). -/
def publishPages (j : Job) (s : State) : State :=
  let before := s
  let s := if j.recomp then forEach (j.resv.filter (fun r => r.role = 2)) publishRecompute s else s
  let s := forEach (j.uses.filter (fun u => u.append)) (fun u => publishAppend j u.seq) s
  let gained := (j.uses.map (fun u =>
    (namedEntries s [u]).filter (fun e => e ∉ namedEntries before [u]) |>.map (fun e => (u.seq, e)))).flatten
  let s := forEach s.sluice.jobs (fun i s =>
    let mine := dedup ((gained.filter (fun g => i.uses.any (fun u => u.seq = g.1) && !(decide (g.2 ∈ i.pins)))).map (fun g => g.2))
    jmod i.tag (fun i => { i with pins := i.pins ++ mine })
      (forEach mine (fun e => entryMod e (fun x => { x with pins := x.pins + 1 })) s)) s
  reclaim s

/-! ## Pool reset (R172) -/

/-- The whole page table of pool p in its area, the FREE entries with their GEN among them (R171). -/
def writeTable (p : Nat) (s : State) : State :=
  let q := poolOf s p
  let n := 32 * (q.lastIndex + 1)
  let gen := tblGet 0 s.pages.base p
  let s := healLines q.tableBase n (wipe q.tableBase n s)
  let s := if gen = 0 then s else forEach (List.range q.lastIndex) (fun i => poke (q.tableBase + 32 * (i + 1) + 2) [gen]) s
  forEach ((poolEntries s p).map (fun e => e.1)) (fun e s => pokeCistern (q.tableBase + 32 * keyIndex e) (entryBytes (entryOf s e)) s) s

/-- FRAMES written 0, or a device reset: every entry of the pool, whatever its state, is reclaimed. -/
def reclaimPool (p : Nat) (s : State) : State :=
  let s := { s with pages := { s.pages with
    entries := (s.pages.entries.map (fun e => if keyPool e.1 = p then (e.1, ({ gen := e.2.gen } : Entry)) else e)).filter (fun e => decide (keyPool e.1 ≠ p) || decide (e.2 ≠ {})),
    base := tblMod 0 s.pages.base p (· + 1) } }
  if (poolOf s p).frames = 0 then s else writeTable p s

end Sys2Proof.Machine
end

