-- ==== Sys2Proof/Machine/Streams.lean ====
section
/-!
DEFINITION. Sys2Proof/Machine/Streams.lean: stream records, blocks, rollback images, images and loss of streams (R130-R154).
-/

namespace Sys2Proof.Machine

def streamOf (s : State) (n : Nat) : Stream := tblGet {} s.streams.recs n
def streamMod (n : Nat) (f : Stream → Stream) (s : State) : State :=
  { s with streams := { s.streams with recs := tblMod {} s.streams.recs n f } }
def streamGen (s : State) (n : Nat) : BitVec 8 := tblGet 0 s.streams.gens n
/-- The handle of stream number n (R133). -/
def streamHandle (s : State) (n : Nat) : Nat := (streamGen s n).toNat * 2 ^ 24 + n

/-- The stream that a handle names (R134). -/
def streamNamed (s : State) (h : Nat) : Option Nat :=
  let n := h % 2 ^ 12
  if n ≠ 0 ∧ h / 2 ^ 12 % 2 ^ 12 = 0 ∧ (streamGen s n).toNat = h / 2 ^ 24 % 256 ∧ (streamOf s n).state ≠ .free then some n else none

/-- Block tiles of the module with the stream each holds a block of (R141). -/
def blockTiles (s : State) : List (Nat × Nat) :=
  (s.streams.recs.map (fun e => if e.2.state = .open_ then e.2.blocks.map (fun t => (t, e.1)) else [])).flatten

/-- Is tile t excluded from a job on stream `own` (R141)? -/
def blockExcludes (s : State) (own : Option Nat) (t : Nat) : Bool :=
  (blockTiles s).any (fun b => b.1 == t && own != some b.2)

/-- Is tile t a target that an IMPORT in progress has chosen (R150)? -/
def importTarget (s : State) (t : Nat) : Bool :=
  s.sluice.jobs.any (fun j => decide (t ∈ j.targets) && j.phase == .running &&
    (match j.service with | some (.importStream _ _ _ _) => true | _ => false))

/-- Healthy tiles of partition p that hold no block and that no import in progress has chosen, lowest first (R139, R150). -/
def freeBlockTiles (s : State) (p : Nat) : List Nat :=
  (partTiles s p).filter (fun t => tileHealthy s t && !((blockTiles s).any (fun b => b.1 == t)) && !(importTarget s t))

/-- Stream number of a job; none where it is no chunk (R143). -/
def jobStream (j : Job) : Option Nat := if j.desc.stream = 0 then none else some (j.desc.stream.toNat % 2 ^ 12)

/-- Accepted, uncompleted chunks of stream n, in order of acceptance. -/
def chunksOfStream (s : State) (n : Nat) : List Job := s.sluice.jobs.filter (fun j => jobStream j = some n)

/-! ## Block rows (R131, R144) -/

/-- The raw entries of `rows` rows from row 112 of tile t. -/
def blockRows (s : State) (t rows : Nat) : List (BitVec 48) :=
  ((List.range rows).map (fun r => (List.range 64).map (fun c => entry (tileOf s t) (112 + r) c))).flatten

/-- Rows 112.. of tile t loaded raw. -/
def loadBlock (t : Nat) (es : List (BitVec 48)) (s : State) : State :=
  tmod t (fun tl => (chunksOf 64 es).zipIdx.foldl (fun tl r => setRow (112 + r.2) r.1 false tl) tl) s

def wipeBlock (t rows : Nat) (s : State) : State := loadBlock t (List.replicate (64 * rows) 0) s

/-- The tiles that hold the blocks of a stream: for a block that awaits relocation, the retired tile still (R153). -/
def blockHolders (r : Stream) : List Nat :=
  r.blocks.zipIdx.map (fun b => match r.moving.find? (fun m => m.block = b.2) with | some m => m.old | none => b.1)

/-- The rollback image of a stream's blocks stored (R144). -/
def storeRollback (n : Nat) (s : State) : State :=
  let r := streamOf s n
  forEach (blockHolders r) (fun t s => { s with streams := { s.streams with
    rollback := tblPut s.streams.rollback t (blockRows s t r.rows) } }) s

/-- The block rows of an OPEN stream restored from the rollback image; 0x7412:03 + 1 (R142, R144). -/
def restoreRollback (n : Nat) (s : State) : State :=
  let r := streamOf s n
  if r.state = .open_ then
    count 0x7412 3 1 (forEach (blockHolders r) (fun t s =>
      match s.streams.rollback.find? (fun e => e.1 = t) with
      | some e => loadBlock t e.2 s
      | none => s) s)
  else s

/-- The rollback images of a set of tiles wiped (R145). -/
def wipeRollback (ts : List Nat) (s : State) : State :=
  { s with streams := { s.streams with rollback := s.streams.rollback.filter (fun e => e.1 ∉ ts) } }
/-- The export buffers of a set of tiles wiped (R147, R150). -/
def wipeExport (ts : List Nat) (s : State) : State :=
  { s with streams := { s.streams with export_ := s.streams.export_.filter (fun e => e.1 ∉ ts) } }

/-- The stream's rows wiped, of a block that awaits relocation on the tile that holds it too, and its tiles given back (R142). -/
def releaseBlocks (n : Nat) (s : State) : State :=
  let r := streamOf s n
  streamMod n (fun x => { x with blocks := [], moving := [] })
    (wipeRollback (r.blocks ++ r.moving.map (fun m => m.old))
      (forEach (r.blocks ++ r.moving.map (fun m => m.old)) (fun t => wipeBlock t r.rows) s))

/-! ## The image (R148) -/

/-- Bytes of the image of a stream. -/
def imageSize (blocks rows : Nat) : Nat := 64 + blocks * rows * 384

/-- The rows of a block as the image holds them: 6 bytes an entry. -/
def rowsBytes (es : List (BitVec 48)) : Bytes := (es.map (fun e => leBytes 6 e.toNat)).flatten

/-- The block rows that image bytes spell. -/
def bytesRows (b : Bytes) : List (BitVec 48) := (chunksOf 6 b).map (fun e => BitVec.ofNat 48 (leNat e))

/-- The rows that the export buffer of tile t holds (R144). -/
def exportRows (s : State) (t : Nat) : List (BitVec 48) := ((s.streams.export_.find? (fun e => e.1 = t)).map (fun e => e.2)).getD []

/-- The body of an image from the export buffers of a set of tiles (R147, R148). -/
def exportBody (s : State) (ts : List Nat) : Bytes := ((ts.map (fun t => rowsBytes (exportRows s t)))).flatten

/-- Rows stored into the export buffers of a set of tiles. -/
def storeExport (ts : List Nat) (rows : Nat → List (BitVec 48)) (s : State) : State :=
  forEach ts (fun t s => { s with streams := { s.streams with export_ := tblPut s.streams.export_ t (rows t) } }) s

/-- The image header of stream n over a body, with the stamp of the commit instant (R148). -/
def imageHead (s : State) (n : Nat) (st : BitVec 32) (body : Bytes) : Bytes :=
  let r := streamOf s n
  let head := leBytes 2 1 ++ leBytes 1 r.rows ++ [0] ++ leBytes 2 r.nblocks ++ leBytes 1 (position s) ++ [0] ++
    leBytes 4 r.chunks.toNat ++ leBytes 4 (streamHandle s n) ++ leBytes 4 st.toNat ++ zeros 40
  head ++ leBytes 4 (crc32c (head ++ body)).toNat

/-- The image of an OPEN stream from its block tiles. -/
def streamImage (s : State) (n : Nat) (st : BitVec 32) : Bytes :=
  let r := streamOf s n
  let body := (r.blocks.map (fun t => rowsBytes (blockRows s t r.rows))).flatten
  imageHead s n st body ++ body

/-- The fields of an image that an import takes; none where R150 rejects it. -/
structure StreamImg where
  rows   : Nat
  blocks : Nat
  chunks : BitVec 32
  body   : List (List (BitVec 48))
  deriving DecidableEq, Repr

def parseImage (rd : Nat → Nat → Bytes) : Option StreamImg :=
  let h := rd 0 64
  let rows := fieldAt h 2 1
  let blocks := fieldAt h 4 2
  if fieldAt h 0 2 = 1 ∧ 1 ≤ rows ∧ rows ≤ 16 ∧ 1 ≤ blocks ∧ blocks ≤ 512 then
    let body := rd 64 (blocks * rows * 384)
    if crc32c (h.take 0x3c ++ body) = BitVec.ofNat 32 (fieldAt h 0x3c 4) then
      some ⟨rows, blocks, BitVec.ofNat 32 (fieldAt h 8 4),
        (chunksOf (rows * 384) body).map bytesRows⟩
    else none
  else none

end Sys2Proof.Machine
end

