-- ==== Sys2Proof/Machine/Ledger.lean ====
section
/-!
DEFINITION. Sys2Proof/Machine/Ledger.lean: sections and healthy tiles, the per-slot ledgers of R57, placements by R58, R59
and R268, and the job descriptor's fields (R44, R45).
-/

namespace Sys2Proof.Machine

/-- Nanoseconds of a slot (R56). -/
def slotNs : Nat := 10000
/-- Slots of the horizon (R56). -/
def horizonSlots : Nat := 10000

/-! ## The descriptor (R44, R45) -/

def parseDesc (b : Bytes) : JobDesc where
  program   := BitVec.ofNat _ (fieldAt b 0x00 8)
  parts     := BitVec.ofNat _ (fieldAt b 0x08 8)
  args      := BitVec.ofNat _ (fieldAt b 0x10 8)
  release   := BitVec.ofNat _ (fieldAt b 0x18 4)
  deadline  := BitVec.ofNat _ (fieldAt b 0x1c 4)
  stream    := BitVec.ofNat _ (fieldAt b 0x20 4)
  cookie    := BitVec.ofNat _ (fieldAt b 0x24 4)
  flags     := BitVec.ofNat _ (fieldAt b 0x28 2)
  pathAllow := BitVec.ofNat _ (fieldAt b 0x2a 2)
  reserved  := BitVec.ofNat _ (fieldAt b 0x2c 20)

def JobDesc.notify (d : JobDesc) : Bool := d.flags.getLsbD 7
def JobDesc.lockstep (d : JobDesc) : Bool := d.flags.getLsbD 6
def JobDesc.zgate (d : JobDesc) : Bool := d.flags.getLsbD 5
def JobDesc.preempt (d : JobDesc) : Bool := d.flags.getLsbD 4
def JobDesc.releaseNow (d : JobDesc) : Bool := d.flags.getLsbD 3
/-- Bytes of the argument block. -/
def JobDesc.argLen (d : JobDesc) : Nat := d.args.toNat / 2 ^ 48 % 256
def JobDesc.argAddr (d : JobDesc) : Nat := d.args.toNat % 2 ^ 48

/-- Is a reserved field or bit non-zero (R44, R45, R133)? -/
def descReserved (d : JobDesc) : Bool :=
  d.program.extractLsb' 48 16 != 0 || d.args.extractLsb' 56 8 != 0 || d.stream.extractLsb' 12 12 != 0 ||
  d.flags &&& 0xff07 != 0 || d.pathAllow.getLsbD 0 || d.reserved != 0

/-! ## Queues -/

def queueClient (s : State) (q : Nat) : Nat := cfg s (0x6000 + q) 1
def queueClass (s : State) (q : Nat) : Nat := cfg s (0x6000 + q) 2
def queuePermit (s : State) (q : Nat) : Nat := cfg s (0x6000 + q) 3
def queueDepth (s : State) (q : Nat) : Nat := cfg s (0x6000 + q) 4

/-- Accepted, uncompleted jobs of a queue. -/
def queueJobs (s : State) (q : Nat) : List Job := s.sluice.jobs.filter (fun j => j.q = q)
/-- OCCUPANCY (R40, R43). -/
def occupancy (s : State) (q : Nat) : Nat := (queueJobs s q).length + (qget s q).records.length

/-! ## Sections (R53, R54) -/

/-- The dies of partition p, one section each (R54). -/
def partDies (s : State) (p : Nat) : List Nat :=
  if partShape s p = 3 then [0, 1] else [dieOfTile (shapeTiles (partShape s p) (partBase s p)).1]

/-- Partition and die of each section of a job on `parts`, ascending (R54). -/
def sectionPlaces (s : State) (parts : List Nat) : List (Nat × Nat) :=
  (parts.map (fun p => (partDies s p).map (fun d => (p, d)))).flatten

/-- Do the certificate's sections match the partitions (R54)? -/
def sectionsMatch (s : State) (parts : List Nat) (c : Cert) : Bool :=
  let pl := sectionPlaces s parts
  decide (pl.length = c.sections.length) &&
  (pl.zip c.sections).all (fun x => decide (x.2.die = x.1.2) && decide (x.2.shape = partShape s x.1.1))

/-- Do the heavy-phase entries hold (R406)? -/
def phasesOk (s : State) (parts : List Nat) (c : Cert) : Bool :=
  let pl := sectionPlaces s parts
  c.phases.all (fun h => match pl[h.section_]? with
    | none => false
    | some (p, d) => decide (h.regions.toNat < 16) && decide (1 ≤ h.step) && decide (h.step ≤ 100) && decide (h.rsv = 0) &&
      (bitsOf 4 h.regions.toNat).all (fun b => (partTiles s p).any (fun t => regionOfTile t = 4 * d + b)))

/-- Healthy tiles of partition p on die d that a job on stream `own` may use (R58, R141). -/
def eligibleTiles (s : State) (own : Option Nat) (p d : Nat) : List Nat :=
  (partTiles s p).filter (fun t => dieOfTile t == d && tileHealthy s t && !(blockExcludes s own t))

/-- Even tiles of the complete healthy pairs among them (R422). -/
def eligiblePairs (s : State) (own : Option Nat) (p d : Nat) : List Nat :=
  (eligibleTiles s own p d).filter (fun t => t % 2 == 0 && decide ((t + 1) ∈ eligibleTiles s own p d))

/-- Tiles or pairs that R58 counts for each section: 0 on a partition that is not RUNNING where the job is new (R262). -/
def sectionCounts (s : State) (fresh lockstep : Bool) (own : Option Nat) (parts : List Nat) : List Nat :=
  (sectionPlaces s parts).map (fun x =>
    if fresh ∧ (partOf s x.1).state ≠ .running then 0
    else if lockstep then (eligiblePairs s own x.1 x.2).length else (eligibleTiles s own x.1 x.2).length)

/-- Is some section short of tiles (R58)? -/
def countsShort (c : Cert) (ns : List Nat) : Bool := (c.sections.zip ns).any (fun x => decide (x.2 = 0) || decide (x.2 < x.1.tilesMin))

/-- Clock of die d in MHz (R26). -/
def dieClock (s : State) (d : Nat) : Nat := cfg s 0x3002 (d + 1)

/-- Slots of a job (R58): 3 % droop margin and 4 us commit allowance. -/
def jobSlots (s : State) (c : Cert) (ns : List Nat) : Nat :=
  ((c.sections.zip ns).map (fun x =>
    let cyc := ceilDiv (x.1.w * 103) (100 * x.2)
    let f := dieClock s x.1.die
    ceilDiv (cyc + 4 * f) (10 * f))).foldl max 0

/-! ## Charges (R57) -/

def addPair (a b : Nat × Nat) : Nat × Nat := (a.1 + b.1, a.2 + b.2)
def onDie (d v : Nat) : Nat × Nat := if d = 0 then (v, 0) else (0, v)
def addCharge (a b : Charge) : Charge where
  dieIn := addPair a.dieIn b.dieIn
  dieOut := addPair a.dieOut b.dieOut
  cis := a.cis + b.cis
  fabIn := (a.fabIn.zip b.fabIn).map (fun x => x.1 + x.2)
  fabOut := (a.fabOut.zip b.fabOut).map (fun x => x.1 + x.2)

/-- Bytes toward position m on the port that reaches it. -/
def byPort (s : State) (f : Nat → Nat) : List Nat :=
  (List.range 3).map (fun p => sumNat ((List.range 4).map (fun m =>
    if m ≠ position s ∧ portToward s m = some p then f m else 0)))

/-- Charge per reserved slot of a certificate (R57). -/
def certCharge (s : State) (c : Cert) : Charge :=
  let sum (f : Section → Nat) := sumNat (c.sections.map f)
  let die (d : Nat) (f : Section → Nat) := sumNat ((c.sections.filter (fun x => x.die = d)).map f)
  { dieIn := (die 0 (fun x => x.cisIn + sumNat x.fabIn), die 1 (fun x => x.cisIn + sumNat x.fabIn)),
    dieOut := (die 0 (fun x => x.cisOut + sumNat x.fabOut), die 1 (fun x => x.cisOut + sumNat x.fabOut)),
    cis := sum (fun x => x.cisIn + x.cisOut),
    fabIn := byPort s (fun m => sum (fun x => nth 0 x.fabIn m)),
    fabOut := byPort s (fun m => sum (fun x => nth 0 x.fabOut m)) }

/-- Charged energy of a certificate over the job, uJ: twice under LOCKSTEP (R422). -/
def certEnergy (c : Cert) (lockstep : Bool) : Nat := (if lockstep then 2 else 1) * sumNat (c.sections.map (fun x => x.energy))

/-! ## A placement's load -/

/-- What is to be placed, or is placed: the partitions, the charge of a working slot, the energy over all slots. -/
structure Load where
  parts   : List Nat
  charge  : Charge
  energy  : Nat
  service : Bool
  /-- saved and in its gap: the first slot of each run to come restores it, and it holds its reserve entries until then (R267, R271) -/
  resumes : Bool := false
  runs    : List Run
  deriving DecidableEq, Repr

def jobLoad (j : Job) : Load := ⟨j.parts, j.charge, j.energy, j.service.isSome, j.phase == .gap, j.runs⟩

def runHas (r : Run) (k : Nat) : Bool := decide (r.first ≤ k) && decide (k < r.first + r.len)
def runEnd (r : Run) : Nat := r.first + r.len
/-- One past the last reserved slot. -/
def runsEnd (rs : List Run) : Nat := (rs.map runEnd).foldl max 0
def runsFirst (rs : List Run) : Option Nat := (rs.map (fun r => r.first)).min?
def slotsOf (rs : List Run) : Nat := sumNat (rs.map (fun r => r.len))

/-- Is slot k a save slot, or a restore slot, of the runs (R59, R269, R270)? -/
def saveSlot (rs : List Run) (k : Nat) : Bool := rs.dropLast.any (fun r => decide (k + 1 = runEnd r))
def restoreSlot (rs : List Run) (k : Nat) : Bool := (rs.drop 1).any (fun r => r.first = k)

/-- Bytes of a pre-emption image of one cluster partition (R268). -/
def imageBytesPerCluster : Nat := 4194304

/-- What a slot of a split job is: one in which it works, one that saves it, one that restores it (R59). -/
inductive SlotUse where
  | work | save | restore
  deriving DecidableEq, Repr

/-- Charge of a plain job's slot (R57, R268). -/
def useCharge (s : State) (l : Load) (u : SlotUse) : Charge :=
  let per (d : Nat) := imageBytesPerCluster * (l.parts.filter (fun p => d ∈ partDies s p)).length
  let img : Nat × Nat := (per 0, per 1)
  let c := l.charge
  match u with
  | .work => c
  | .save => { c with dieOut := addPair c.dieOut img, cis := c.cis + img.1 + img.2 }
  | .restore => { c with dieIn := addPair c.dieIn img, cis := c.cis + img.1 + img.2 }

/-- What slot k is in the runs of a load. -/
def slotUse (l : Load) (k : Nat) : SlotUse :=
  if saveSlot l.runs k then .save
  else if restoreSlot l.runs k || (l.resumes && l.runs.any (fun r => r.first = k)) then .restore else .work

/-- What a load charges in slot k (R57, R146, R234, R268); none where it does not hold the slot. -/
def loadAt (s : State) (l : Load) (k : Nat) : Option Charge :=
  match l.runs.find? (fun r => runHas r k) with
  | none => none
  | some r =>
    if l.service then some (if r.first < k ∧ k + 1 < runEnd r then l.charge else {})
    else some (useCharge s l (slotUse l k))

/-- The loads of the accepted, uncompleted jobs but the one named. -/
def otherLoads (s : State) (self : Option (BitVec 32)) : List Load :=
  (s.sluice.jobs.filter (fun j => self ≠ some j.tag)).map jobLoad

/-- The loads that a placement meets: those of the accepted jobs but the one named and those that await their own re-plan, since
the jobs to re-plan are placed anew in the order of R72. -/
def openLoads (s : State) (self : Option (BitVec 32)) : List Load :=
  (s.sluice.jobs.filter (fun j => self ≠ some j.tag && (!j.replan || j.phase == .committed || j.phase == .published))).map jobLoad

/-! ## Capacities (R57, R251, R256) -/

def dieLinkCap : Nat := 5760000
def cisternCap (s : State) : Nat :=
  (if s.dir.sub.any (fun e => e.2 = 1) then 10014400 else if s.dir.sub.any (fun e => e.2 = 2) then 10366400 else 10700800) -
  sumNat ((List.range 4).map (fun m => cfg s 0x3800 (6 + m)))
/-- Each way on a fabric port: half while it runs on 4 lanes (R385), 0 while it is down; with STATE PEER_MISMATCH, that of the
link while another peer is up (log 55). -/
def fabricCap (s : State) (p : Nat) : Nat :=
  let f := fabOf s p
  if f.state = 3 then 500000 else if f.state = 2 then 1000000
  else if f.state = 4 ∧ f.peersUp ≠ [] then (if f.four then 500000 else 1000000) else 0

/-- Codes of the ledgers, energy apart, that refuse charge `c` of partitions `parts` in slot k beside `others` (R57, R506). -/
def chargeBindings (s : State) (others : List Load) (parts : List Nat) (c : Charge) (k : Nat) : List Nat :=
  let here := others.filterMap (fun o => (loadAt s o k).map (fun x => (o, x)))
  let t := here.foldl (fun a o => addCharge a o.2) c
  (if here.any (fun o => o.1.parts.any (fun p => parts.any (fun q => partsOverlap s p q))) then [0] else []) ++
  (if t.dieIn.1 ≤ dieLinkCap ∧ t.dieIn.2 ≤ dieLinkCap ∧ t.dieOut.1 ≤ dieLinkCap ∧ t.dieOut.2 ≤ dieLinkCap then [] else [1]) ++
  (if t.cis ≤ cisternCap s then [] else [2]) ++
  (if (List.range 3).all (fun p => decide (nth 0 t.fabIn p ≤ fabricCap s p) && decide (nth 0 t.fabOut p ≤ fabricCap s p))
    then [] else [3])

/-- Codes of the ledgers, energy apart, that refuse load `l` in slot k. -/
def slotBindings (s : State) (others : List Load) (l : Load) (k : Nat) : List Nat :=
  match loadAt s l k with
  | none => []
  | some c => chargeBindings s others l.parts c k

/-- Do the ledgers, energy apart, hold slot k of a plain job in a use? -/
def useFits (s : State) (others : List Load) (l : Load) (u : SlotUse) (k : Nat) : Bool :=
  (chargeBindings s others l.parts (useCharge s l u) k).isEmpty

/-- Reserved slots of a load in the window of n slots from a. -/
def slotsIn (rs : List Run) (a n : Nat) : Nat :=
  sumNat (rs.map (fun r => min (runEnd r) (a + n) - max r.first a))

/-- Energy of a set of loads in a window, uJ (R57). -/
def windowEnergy (ls : List Load) (a n : Nat) : Rat :=
  (ls.map (fun l => ((l.energy * slotsIn l.runs a n : Nat) : Rat) / ((slotsOf l.runs : Nat) : Rat))).foldl (· + ·) 0

/-- The peak and sustained limits of R401 in uJ, for caps and an uncore allowance in mW. -/
def peakLimit (peak unc : Nat) : Int := 970 * peak - unc
def sustainedLimit (sust unc : Nat) : Int := 97000 * sust - 100 * unc

/-- Do the loads fit the energy ledger where windows starting in [lo, hi) may have changed (R401)? -/
def energyFits (cur : Nat) (caps : Nat × Nat) (unc : Nat) (ls : List Load) (lo hi : Nat) : Bool :=
  (List.range (hi - lo)).all (fun i => decide (windowEnergy ls (lo + i) 100 ≤ (peakLimit caps.2 unc : Rat))) &&
  decide (windowEnergy ls cur horizonSlots ≤ (sustainedLimit caps.1 unc : Rat))

/-- Energy test of one more load. -/
def energyOk (s : State) (cur : Nat) (others : List Load) (l : Load) : Bool :=
  energyFits cur s.sluice.caps (uncoreLedger s) (l :: others) (max cur (((runsFirst l.runs).getD 0) - 99)) (runsEnd l.runs)

/-- Does a save slot of one load fall while the other holds a reserve entry of a shared tile (R267)? -/
def reserveClash (s : State) (a b : Load) : Bool :=
  let held (l : Load) (k : Nat) : Bool :=
    (l.runs.zip (l.runs.drop 1)).any (fun p => decide (runEnd p.1 ≤ k + 1) && decide (k ≤ p.2.first)) ||
    (l.resumes && (match (l.runs.map (fun r => r.first)).min? with | some f => decide (k ≤ f) | none => true))
  a.parts.any (fun p => b.parts.any (fun q => partsOverlap s p q)) &&
  (a.runs.dropLast.any (fun r => held b (runEnd r - 1)) || b.runs.dropLast.any (fun r => held a (runEnd r - 1)))

/-- Does every ledger hold the load in every slot of its runs? -/
def loadFits (s : State) (cur : Nat) (others : List Load) (l : Load) : Bool :=
  l.runs.all (fun r => (List.range r.len).all (fun i => (slotBindings s others l (r.first + i)).isEmpty)) &&
  !(others.any (reserveClash s l)) && energyOk s cur others l

/-! ## Placement (R58, R59) -/

/-- A job to place: its load without runs, its slots, the first slot it may take, its deadline in ns. -/
structure Want where
  load     : Load
  len      : Nat
  first    : Nat
  deadline : Nat
  split    : Bool
  deriving DecidableEq, Repr

def withRuns (l : Load) (rs : List Run) : Load := { l with runs := rs }

/-- The first single run of a service job from slot k on that fits; `fuel` bounds the search by the horizon. -/
def firstFit (s : State) (cur : Nat) (others : List Load) (l : Load) (len : Nat) : Nat → Nat → Option Nat
  | 0, _ => none
  | fuel + 1, k =>
    if cur + horizonSlots < k + len then none
    else if loadFits s cur others (withRuns l [⟨k, len⟩]) then some k
    else firstFit s cur others l len fuel (k + 1)

/-- The first of `len` consecutive slots that hold (`fits`) and start where `energy` holds, over `fuel` slots from k; `streak`
slots before k hold. -/
def firstStreak (fits energy : Nat → Bool) (len : Nat) : Nat → Nat → Nat → Option Nat
  | 0, _, _ => none
  | fuel + 1, k, streak =>
    if fits k then
      if len ≤ streak + 1 ∧ energy (k + 1 - len) then some (k + 1 - len) else firstStreak fits energy len fuel (k + 1) (streak + 1)
    else firstStreak fits energy len fuel (k + 1) 0

/-- The earliest single run within the horizon (R58). -/
def singleFit (s : State) (cur : Nat) (others : List Load) (w : Want) : Option Nat :=
  if w.load.service || w.load.resumes then firstFit s cur others w.load w.len (horizonSlots + 1) w.first
  else firstStreak (useFits s others w.load .work) (fun k => energyOk s cur others (withRuns w.load [⟨k, w.len⟩])) w.len
    (cur + horizonSlots - w.first) w.first 0

/-- The maximal runs of slots that hold (`fits`) among the `n` from k. -/
def freeRuns (fits : Nat → Bool) : Nat → Nat → List Run
  | 0, _ => []
  | n + 1, k =>
    let rest := freeRuns fits n (k + 1)
    if fits k then
      match rest with
      | r :: rs => if r.first = k + 1 then ⟨k, r.len + 1⟩ :: rs else ⟨k, 1⟩ :: r :: rs
      | [] => [⟨k, 1⟩]
    else rest

/-- The parts of free runs in slots b .. e-1. -/
def clipRuns (free : List Run) (b e : Nat) : List Run :=
  (free.filter (fun r => decide (b < runEnd r) && decide (r.first < e))).map
    (fun r => let a := max b r.first; ⟨a, min e (runEnd r) - a⟩)

/-- A bound on the slots that n runs from b on can take, the last ending at e: the free run before e and the n - 1 longest others. -/
def mostSlots (free : List Run) (n b e : Nat) : Nat :=
  match (clipRuns free b e).reverse with
  | [] => 0
  | r :: rs =>
    if runEnd r = e then r.len + sumNat ((sortBy (fun a b => decide (b ≤ a)) (rs.map (fun x => x.len))).take (n - 1)) else 0

/-- Do the slots a .. a+n-1 lie in one free run? -/
def inFree (free : List Run) (a n : Nat) : Bool := free.any (fun r => decide (r.first ≤ a) && decide (a + n ≤ runEnd r))

/-- The first list of n runs, longest runs first, that starts at a, ends at e, takes `total` slots and passes `ok`: each run has
a working slot beside the restore slot that opens it (`head`) and the save slot that closes it (R59). -/
def splitRuns (free : List Run) (save restore : Nat → Bool) (ok : List Run → Bool) :
    Nat → Bool → Nat → Nat → Nat → List Run → Option (List Run)
  | 0, _, _, _, _, _ => none
  | 1, head, a, e, total, before =>
    let rs := before ++ [⟨a, total⟩]
    if a + total = e ∧ (if head then 2 else 1) ≤ total ∧ inFree free a total ∧ (!head || restore a) ∧ ok rs then some rs else none
  | n + 2, head, a, e, total, before =>
    if head && !(restore a) then none
    else (List.range total).reverse.findSome? (fun l =>
      if l < (if head then 3 else 2) ∨ !(inFree free a l) ∨ !(save (a + l - 1)) then none
      else (List.range (e - (a + l))).findSome? (fun g =>
        let b := a + l + 1 + g
        if mostSlots free (n + 1) b e < total - l then none
        else splitRuns free save restore ok (n + 1) true b e (total - l) (before ++ [⟨a, l⟩])))

/-- Is `rs` a split placement of the wanted job that every ledger holds? -/
def splitOk (s : State) (cur : Nat) (others : List Load) (w : Want) (rs : List Run) : Bool :=
  let n := rs.length
  decide (2 ≤ n) && decide (n ≤ 5) && decide (slotsOf rs = w.len + 2 * (n - 1)) &&
  (rs.zip (rs.drop 1)).all (fun p => decide (runEnd p.1 < p.2.first)) &&
  rs.zipIdx.all (fun r => decide ((if r.2 = 0 then 0 else 1) + (if r.2 + 1 = n then 0 else 1) < r.1.len)) &&
  loadFits s cur others (withRuns w.load rs)

/-- Split placements of R59: the earliest end, then the fewest runs, then the earliest first start. Among those equal in all three
the choice is free: the proposal of Config where it is one of them, else the first found (log 24). -/
def splitFit (s : State) (cur : Nat) (others : List Load) (w : Want) : Option (List Run) :=
  let last := min (w.deadline / slotNs) (cur + horizonSlots)
  let free := freeRuns (useFits s others w.load .work) (last - w.first) w.first
  let found := (List.range (last + 1 - w.first)).findSome? (fun i => (List.range 4).findSome? (fun m =>
    let e := w.first + i
    let n := m + 2
    let total := w.len + 2 * (n - 1)
    if mostSlots free n w.first e < total then none
    else (List.range (last - w.first)).findSome? (fun a =>
      if mostSlots free n (w.first + a) e < total then none
      else splitRuns free (useFits s others w.load .save) (useFits s others w.load .restore) (splitOk s cur others w)
        n false (w.first + a) e total [])))
  found.map (fun rs =>
    let pick := (Config.splitPick s.freeCtr).map (fun r => (⟨r.1, r.2⟩ : Run))
    if runsEnd pick = runsEnd rs ∧ pick.length = rs.length ∧ runsFirst pick = runsFirst rs ∧ splitOk s cur others w pick then pick else rs)

/-- Outcome of a placement search. -/
inductive Placed where
  | runs (rs : List Run)
  /-- NO_SLOT with BINDING and the earliest due slot end (R49, R506) -/
  | none (binding : Nat) (earliest : Option Nat)
  deriving DecidableEq, Repr

/-- BINDING of R506 for the placement tried at the first slot. -/
def bindingAt (s : State) (cur : Nat) (others : List Load) (w : Want) : Nat :=
  let l := withRuns w.load [⟨w.first, w.len⟩]
  let n := min w.len (cur + horizonSlots - w.first)
  let bs := ((List.range n).map (fun i => slotBindings s others l (w.first + i))).flatten ++
    (if energyOk s cur others l then [] else [4])
  (bs.min?).getD 5

/-- Places a job by R58 and R59; `heapOk` says whether the heap holds its pre-emption image (R268). -/
def place (s : State) (cur : Nat) (self : Option (BitVec 32)) (w : Want) (heapOk : Bool) : Placed × State :=
  let others := openLoads s self
  match singleFit s cur others w with
  | some k =>
    if (k + w.len) * slotNs ≤ w.deadline then (.runs [⟨k, w.len⟩], s)
    else
      let no : Placed := .none (bindingAt s cur others w) (some (k + w.len))
      if w.split then
        match splitFit s cur others w with
        | some rs => if heapOk then (.runs rs, { s with freeCtr := s.freeCtr + 1 }) else (no, count 0x7415 0x0a 1 s)
        | none => (no, s)
      else (no, s)
  | none =>
    let no : Placed := .none (bindingAt s cur others w) none
    if w.split then
      match splitFit s cur others w with
      | some rs => if heapOk then (.runs rs, { s with freeCtr := s.freeCtr + 1 }) else (no, count 0x7415 0x0a 1 s)
      | none => (no, s)
    else (no, s)

end Sys2Proof.Machine
end

