-- ==== Sys2Proof/Machine/Channels.lean ====
section
/-!
DEFINITION. Sys2Proof/Machine/Channels.lean: the tiles of an attempt, reads and writes over the range of R222, descriptors
(R387-R395) and the generator (R297, R298), Siphon channels and their fences (R386, R391-R394), metering (R57), and what an ended
attempt holds until its channels have stopped and are fenced (R64).
-/

namespace Sys2Proof.Machine

/-! ## Tiles of an attempt -/

/-- Is the attempt of the job in progress? -/
def attempting (j : Job) : Bool :=
  j.phase == .running || j.phase == .saving || j.phase == .gap || j.phase == .restoring || j.phase == .ending

/-- Tiles that hold a task of the job; under LOCKSTEP their shadows too (R422). -/
def jobTiles (j : Job) : List Nat :=
  let ts := dedup (j.tasks.filterMap (fun t => t.tile))
  if j.desc.lockstep then (ts.map (fun t => [t, t + 1])).flatten else ts

/-- The job and task index that run on tile t: the first unended task placed there of a running job. -/
def taskOn (s : State) (t : Nat) : Option (Job × Nat) :=
  s.sluice.jobs.findSome? (fun j =>
    if j.phase = .running then
      (j.tasks.zipIdx.find? (fun x => !x.1.ended && (x.1.tile == some t || (j.desc.lockstep && x.1.tile == some (t - 1) && t % 2 == 1)))).map
        (fun x => (j, x.2))
    else none)

/-- Does tile t hold a task started and not ended, or placed and not yet started (R426)? -/
def tileHeld (s : State) (t : Nat) : Bool :=
  s.sluice.jobs.any (fun j => (j.phase == .running || j.phase == .restoring || j.phase == .saving) &&
    j.tasks.any (fun x => !x.ended && (x.tile == some t || (j.desc.lockstep && t % 2 == 1 && x.tile == some (t - 1)))))

/-- The shadow of a pair (R422): its primary's tile. -/
def shadowOf (s : State) (t : Nat) : Option Nat :=
  if t % 2 = 1 ∧ s.sluice.jobs.any (fun j => attempting j && j.phase != .gap && j.desc.lockstep && j.tasks.any (fun x => x.tile == some (t - 1))) then
    some (t - 1)
  else none

/-- The version of a tensor a job is bound to. -/
def boundVersion (j : Job) (i : Nat) : Option Nat := (j.bound.find? (fun b => b.1 = i)).map (fun b => b.2)

def clusterTiles (k : Nat) : List Nat := (List.range 8).map (fun i => 8 * k + i)

/-! ## The counter-based generator (R297, R298) -/

def mix64 (z : BitVec 64) : BitVec 64 :=
  let z := (z ^^^ (z >>> 30)) * 0xbf58476d1ce4e5b9
  let z := (z ^^^ (z >>> 27)) * 0x94d049bb133111eb
  z ^^^ (z >>> 31)

def gen (key a b w : BitVec 64) : BitVec 64 :=
  mix64 (mix64 (mix64 (key + a * 0x9e3779b97f4a7c15) + b * 0x9e3779b97f4a7c15) + w)

/-- The bytes a generator request yields: the high 32 bits for each (b, w), w fastest (R298, R388). -/
def genBytes (req : Bytes) : Bytes :=
  let v (o n : Nat) := fieldAt req o n
  let n := v 24 2
  let m := v 26 2
  ((List.range (n * m)).map (fun i =>
    leBytes 4 ((gen (BitVec.ofNat 64 (v 0 8)) (BitVec.ofNat 64 (v 8 8)) (BitVec.ofNat 64 (v 16 8 + i / m))
      (BitVec.ofNat 64 (i % m))).toNat / 2 ^ 32))).flatten

/-! ## Places of the range (R222, R223) -/

/-- Where a byte range lies. -/
inductive Place where
  | cistern (a : Nat)
  | peer (m off : Nat)
  | tile (a : Nat)
  | cluster (k off : Nat)
  | tensor (i off : Nat)
  | unmapped
  deriving DecidableEq, Repr

/-- The place of `n` bytes at `a`; ranges that leave their area are unmapped (R223), as is what lies above the space
programs own in cluster SRAM (R144, R267). -/
def placeOf (s : State) (a n : Nat) : Place :=
  let p := ownPhysical s a
  if p < 0x004000000000 then (if inUsable s p n then .cistern p else .unmapped)
  else match windowOf p with
    | some (m, off) => if off + n ≤ windowBytes then .peer m off else .unmapped
    | none =>
      if 0x080000000000 ≤ p ∧ p + n ≤ 0x080010000000 then .tile p
      else if 0x080010000000 ≤ p ∧ p < 0x080020000000 then
        let k := (p - 0x080010000000) / 0x400000
        let off := (p - 0x080010000000) % 0x400000
        if off + n ≤ reserveOff then .cluster k off else .unmapped
      else match tensorOfAddr p with
        | some (i, off) => if (tensorOf s i).state ≠ .free ∧ off + n ≤ (tensorOf s i).size then .tensor i off else .unmapped
        | none => .unmapped

/-- Target number of a place that is written (R391): own Cistern 0, peer 1 + m, tile 8 + t, cluster 1024 + k. -/
def targetOf : Place → Nat
  | .cistern _ => 0
  | .peer m _ => 1 + m
  | .tile a => 8 + (a - 0x080000000000) / 0x80000
  | .cluster k _ => 1024 + k
  | .tensor _ _ => 0
  | .unmapped => 0

/-- Whose descriptor it is: no job's, a job's present attempt, or an ended attempt that runs on to its end (R394). -/
structure Actor where
  job  : Option (BitVec 32) := none
  dead : Option Nat := none
  deriving DecidableEq, Repr

def Posted.actor (p : Posted) : Actor := ⟨p.job, p.dead⟩

/-- The attempt of a job. -/
def byJob (tag : BitVec 32) : Actor := { job := some tag }

/-- The ended attempt with a number. -/
def dyingOf (s : State) (id : Nat) : Option Dying := s.sluice.dying.find? (fun d => d.id = id)

/-- An ended attempt changed by `f`. -/
def dyingMod (id : Nat) (f : Dying → Dying) (s : State) : State :=
  { s with sluice := { s.sluice with dying := s.sluice.dying.map (fun d => if d.id = id then f d else d) } }

/-- Staging homes, staged writes and bindings of the attempt. -/
def actorHolds (s : State) (a : Actor) : Option (List (Nat × Extent) × Tbl (BitVec 8) × List (Nat × Nat)) :=
  match a.dead with
  | some id => (dyingOf s id).map (fun d => (d.staging, d.staged, d.bound))
  | none => (a.job.bind (jobOf s)).map (fun j => (j.staging, j.staged, j.bound))

/-- The staging home of an output of the attempt. -/
def stagingOf (s : State) (a : Actor) (i : Nat) : Option Nat :=
  (actorHolds s a).bind (fun h => (h.1.find? (fun x => x.1 = i)).map (fun x => x.2.addr))

/-- What the attempt has written to own Cistern (R62). -/
def stagedOf (s : State) (a : Actor) : Tbl (BitVec 8) := ((actorHolds s a).map (fun h => h.2.1)).getD []

/-- The version of tensor i that the attempt reads: the one bound, else the current one (R235). -/
def versionFor (s : State) (a : Actor) (i : Nat) : Nat :=
  ((actorHolds s a).bind (fun h => (h.2.2.find? (fun b => b.1 = i)).map (fun b => b.2))).getD (tensorOf s i).version

/-- Bytes at a place, as a descriptor reads them; a peer's bytes are free. -/
def readPlace (w : Actor) (pl : Place) (n : Nat) (s : State) : Bytes × State :=
  match pl with
  | .cistern a => (overlayRead s.mem (stagedOf s w) a n, s)
  | .tile a => (peek s a n, s)
  | .cluster k off => (peek s (clusterBase k + off) n, s)
  | .tensor i off =>
    match stagingOf s w i with
    | some a => (peek s (a + dataOff (tensorOf s i).size + off) n, s)
    | none => match versionBytes s i (versionFor s w i) with
      | some b => (padTo n (bytesAt b off n), s)
      | none => freshBytes n s
  | .peer _ _ => freshBytes n s
  | .unmapped => (zeros n, s)

/-- Bytes written at a place: an attempt's writes to Cistern and to tensors are staged (R62); a peer's leave as RDMA WRITEs, since
they are fenced within the job's certified cycles (R62). -/
def writePlace (w : Actor) (pl : Place) (bs : Bytes) (s : State) : State :=
  match pl with
  | .cistern a => match w.dead, w.job with
    | some id, _ => dyingMod id (fun d => { d with staged := overlayPut d.staged a bs }) s
    | none, some tag => jmod tag (fun j => { j with staged := overlayPut j.staged a bs }) s
    | none, none => pokeCistern a bs s
  | .tile a => poke a bs s
  | .cluster k off => poke (clusterBase k + off) bs s
  | .tensor i off => match stagingOf s w i with
    | some a => pokeCistern (a + dataOff (tensorOf s i).size + off) bs s
    | none => s
  | .peer m off => peerWrite m (windowBase m + off) bs s
  | .unmapped => s

/-! ## Descriptors (R387-R389, R395) -/

structure SiphonDesc where
  src     : Nat
  dst     : Nat
  count   : Nat
  channel : Nat
  mode    : Nat
  event   : Nat
  deriving DecidableEq, Repr

def parseSiphon (b : Bytes) : SiphonDesc :=
  ⟨fieldAt b 0 8, fieldAt b 8 8, fieldAt b 16 4, fieldAt b 20 1, fieldAt b 21 1, fieldAt b 22 2⟩

def SiphonDesc.kind (d : SiphonDesc) : Nat := d.mode / 16 % 4
def SiphonDesc.eventOn (d : SiphonDesc) : Bool := d.mode.testBit 2
def SiphonDesc.dstFixed (d : SiphonDesc) : Bool := d.mode.testBit 1
def SiphonDesc.srcFixed (d : SiphonDesc) : Bool := d.mode.testBit 0

/-- Bytes that the source side of a descriptor names. -/
def srcSpan (d : SiphonDesc) : Nat := if d.kind = 2 then 32 else if d.srcFixed then 8 else d.count
def dstSpan (d : SiphonDesc) : Nat := if d.kind = 1 then 1 else if d.dstFixed then 8 else d.count

def isTensor : Place → Bool
  | .tensor _ _ => true
  | _ => false

/-- Does a descriptor keep the rules of R387 and R389 (R395)? A generator request is judged when it is read (`requestOk`). -/
def siphonRules (s : State) (b : Bytes) : Bool :=
  let d := parseSiphon b
  let fixedOk (fixed : Bool) (a : Nat) : Bool := !fixed || (a % 8 == 0 && d.count % 8 == 0 && !(isTensor (placeOf s a 8)))
  decide (d.src < 2 ^ 48) && decide (d.dst < 2 ^ 48) && decide (d.channel < 8) && decide (d.mode < 64) && !(d.mode.testBit 3) &&
  (b.drop 24).all (fun x => x == 0) && d.kind != 3 &&
  (if d.kind = 1 then d.count == 0 else decide (1 ≤ d.count) && decide (d.count ≤ 16384)) &&
  !(d.srcFixed && d.dstFixed) && fixedOk d.srcFixed d.src && fixedOk d.dstFixed d.dst

/-- Does a generator request keep R388: COUNT is 4 x NB x NW, and its last 4 bytes are 0? -/
def requestOk (count : Nat) (r : Bytes) : Bool := count == 4 * fieldAt r 24 2 * fieldAt r 26 2 && fieldAt r 28 4 == 0

/-- Does every byte that a descriptor names lie in the range (R223)? A tensor is written only as an output of the job. -/
def siphonMapped (s : State) (w : Actor) (b : Bytes) : Bool :=
  let d := parseSiphon b
  let dst := placeOf s d.dst (dstSpan d)
  (d.kind == 1 || placeOf s d.src (srcSpan d) != .unmapped) && dst != .unmapped &&
  (match dst with
   | .tensor i _ => d.kind == 1 || (stagingOf s w i).isSome
   | _ => true)

/-- What a posted descriptor transfers, COUNT bytes of it (R389, R390); none where its generator request breaks R388. -/
def siphonData (w : Actor) (d : SiphonDesc) (s : State) : Option Bytes × State :=
  let r := readPlace w (placeOf s d.src (srcSpan d)) (srcSpan d) s
  if d.kind = 2 then (if requestOk d.count r.1 then some (genBytes r.1) else none, r.2)
  else if d.srcFixed then (some (List.replicate (d.count / 8) r.1).flatten, r.2)
  else (some r.1, r.2)

/-- Does a write of the place touch a BASIN replica (R244)? -/
def touchesReplica (s : State) (pl : Place) (n : Nat) : Bool :=
  match pl with
  | .cluster k off => inReplica s k off n
  | _ => false

/-- Whether version v of tensor i is held compressed, and its size, by the record or by the header of its image (R237). -/
def versionShape (s : State) (i v : Nat) (rd : Nat → Nat → Bytes) : Bool × Nat :=
  let t := tensorOf s i
  let h := imageHdr rd
  if t.version = v then (t.compressed, t.size) else ((h.map (fun h => h.compressed)).getD false, (h.map (fun h => h.size)).getD t.size)

/-- Subchannel of a poisoned line that a read of the place meets (R228, R416): raw Cistern, or the blocks of a tensor's image. -/
def poisonHit (s : State) (w : Actor) (pl : Place) (n : Nat) : Option Nat :=
  match pl with
  | .cistern a => poisonIn s a n
  | .tensor i off =>
    match stagingOf s w i with
    | some a => poisonIn s (a + dataOff (tensorOf s i).size + off) n
    | none =>
      let v := versionFor s w i
      match versionAddr s i v, versionRead s i v with
      | some a, some rd =>
        let (compressed, size) := versionShape s i v rd
        (imageRanges rd compressed size off n).findSome? (fun r => poisonIn s (a + r.1) r.2)
      | _, _ => none
  | _ => none

/-! ## Channels (R386, R391-R394) -/

/-- Channel c of cluster k, and the I/O-die channels. -/
def clusterChannel (k c : Nat) : Nat := 8 * k + c

def isFence (p : Posted) : Bool := (parseSiphon p.desc).kind == 1

/-- The read-back of a peer target is an 8-byte RDMA READ (R393). -/
def fencePeer (ch t : Nat) (s : State) : State :=
  if 1 ≤ t ∧ t ≤ 4 then newReq (t - 1) (.channel ch) .read (windowBase (t - 1)) (leBytes 4 8) s else s

/-- The read-back of target t begins on a channel (R393); one that is under way serves. -/
def beginFence (ch t : Nat) (s : State) : State :=
  fencePeer ch t (chanmod ch (fun c =>
    if t ∈ c.fencing then c else { c with fencing := c.fencing ++ [t], issued := tblPut c.issued t (now s) }) s)

/-- The next posted descriptor starts; a fence descriptor begins its read-back. -/
def startNext (s : State) (ch : Nat) : State :=
  match (chanOf s ch).posted with
  | [] => chanmod ch (fun c => { c with running := false }) s
  | p :: _ =>
    let s := chanmod ch (fun c => { c with running := true }) s
    if isFence p then beginFence ch (targetOf (placeOf s (parseSiphon p.desc).dst 1)) s else s

/-- Posts a descriptor to a channel of at most 16. -/
def postTo (ch : Nat) (p : Posted) (s : State) : State :=
  let idle := (chanOf s ch).posted.isEmpty
  let s := chanmod ch (fun c => { c with posted := c.posted ++ [p] }) s
  if idle then startNext s ch else s

/-- Every target that a channel has written since its last fence is read back (R393). -/
def fenceTargets (ch : Nat) (s : State) : State :=
  chanmod ch (fun c => { c with targets := [] }) (forEach (chanOf s ch).targets (beginFence ch) s)

/-- Channels of the clusters that hold a job's tasks. -/
def jobChannels (j : Job) : List Nat :=
  ((dedup ((jobTiles j).map clusterOfTile)).map (fun k => (List.range 8).map (clusterChannel k))).flatten

/-- Is the descriptor one of the job's present attempt? -/
def ofJob (tag : BitVec 32) (p : Posted) : Bool := p.job == some tag && p.dead.isNone

/-- Does a descriptor of the job's present attempt run at the head of the channel? -/
def headRuns (s : State) (tag : BitVec 32) (ch : Nat) : Bool :=
  (chanOf s ch).running && ((chanOf s ch).posted.head?.any (ofJob tag))

/-- Has the channel a descriptor of the job's present attempt, running or waiting? -/
def jobPosted (s : State) (tag : BitVec 32) (ch : Nat) : Bool := (chanOf s ch).posted.any (ofJob tag)

/-- Unstarted descriptors of a job discarded from every channel; one that runs goes on to its end, as `f` makes it (R394). -/
def stopChannels (tag : BitVec 32) (f : Posted → Posted) (s : State) : State :=
  { s with channels := tblMap {} (fun c =>
      let keep := if c.running then (c.posted.take 1).map (fun p => if ofJob tag p then f p else p) else []
      let rest := (if c.running then c.posted.drop 1 else c.posted).filter (fun p => !(ofJob tag p))
      { c with posted := keep ++ rest }) s.channels }

/-! ## Metering (R57) -/

/-- The section of a job whose partition and die hold tile t (R54). -/
def sectionOfTile (s : State) (j : Job) (t : Nat) : Option Nat :=
  ((sectionPlaces s j.parts).zipIdx.find? (fun x => tileInPart s x.1.1 t && dieOfTile t == x.1.2)).map (fun x => x.2)

/-- The flow of a section that a read or a write of a place off the compute dies belongs to: 0 CIS_IN, 1 CIS_OUT, 4 + m FAB_IN, 8 + m
FAB_OUT; none for tile and cluster SRAM. -/
def flowOf (s : State) (w : Actor) (write : Bool) (pl : Place) : Option Nat :=
  match pl with
  | .cistern _ => some (if write then 1 else 0)
  | .peer m _ => some ((if write then 8 else 4) + m)
  | .tensor i _ =>
    if write then some 1
    else if (stagingOf s w i).isSome ∨ (versionAddr s i (versionFor s w i)).isSome then some 0 else some (4 + (tensorOf s i).peer)
  | _ => none

/-- A section's certified bytes per slot over its die link, toward the die and from it (R57). -/
def linkIn (x : Section) : Nat := x.cisIn + sumNat x.fabIn
def linkOut (x : Section) : Nat := x.cisOut + sumNat x.fabOut

/-- The certified bytes per slot of a flow: 2 and 3 are the die link, toward the die and from it. -/
def flowLimit (x : Section) (k : Nat) : Nat :=
  if k = 0 then x.cisIn else if k = 1 then x.cisOut else if k = 2 then linkIn x else if k = 3 then linkOut x
  else if k < 8 then nth 0 x.fabIn (k - 4) else nth 0 x.fabOut (k - 8)

/-- The die that a place of the compute dies lies on. -/
def placeDie : Place → Option Nat
  | .tile a => some (dieOfTile ((a - 0x080000000000) / 0x80000))
  | .cluster k _ => some (k / 32)
  | _ => none

/-- The section of a job on a die. -/
def sectionOnDie (s : State) (j : Job) (die : Nat) : Option Nat :=
  ((sectionPlaces s j.parts).zipIdx.find? (fun x => x.1.2 == die)).map (fun x => x.2)

/-- The flows that `n` bytes between a section i on die `d0` and a place count against, each with its bytes (R57): Cistern and peers over the
section's own link; a place of the other die over both links (R16). -/
def flowsAt (s : State) (j : Job) (w : Actor) (i d0 : Nat) (write : Bool) (pl : Place) (n : Nat) : List (Nat × Nat) :=
  let dir : Nat := if write then 3 else 2
  match placeDie pl with
  | some d => if d = d0 then [] else
    (16 * i + dir, n) :: ((sectionOnDie s j d).map (fun o => (16 * o + 5 - dir, n))).toList
  | none => match flowOf s w write pl with
    | some k => [(16 * i + k, n), (16 * i + dir, n)]
    | none => []

/-- Bytes of the source side that cross the die link: those of a compressed image as it is stored (R18, R53), else those named. -/
def sourceBytes (s : State) (w : Actor) (d : SiphonDesc) : Nat :=
  let pl := placeOf s d.src (srcSpan d)
  match pl with
  | .tensor i off =>
    if (stagingOf s w i).isSome then srcSpan d
    else
      let v := versionFor s w i
      match versionRead s i v with
      | some rd =>
        let (compressed, size) := versionShape s i v rd
        if compressed then sumNat ((imageRanges rd compressed size off (srcSpan d)).map (fun r => r.2)) else srcSpan d
      | none => srcSpan d
  | _ => srcSpan d

/-- The flows of a descriptor of a job's section i on die `d0`: of its source and its destination. -/
def descFlows (s : State) (j : Job) (w : Actor) (i d0 : Nat) (d : SiphonDesc) : List (Nat × Nat) :=
  (if d.kind = 1 then [] else flowsAt s j w i d0 false (placeOf s d.src (srcSpan d)) (if d.srcFixed then d.count else sourceBytes s w d)) ++
  flowsAt s j w i d0 true (placeOf s d.dst (dstSpan d)) d.count

/-- Bytes of a flow (16 x section + flow) that a job has moved in the present slot. -/
def flowUsed (s : State) (j : Job) (key : Nat) : Nat := if j.meter.slot = now s / slotNs then tblGet 0 j.meter.used key else 0

/-- Bytes of some flows charged to a job's present slot. -/
def chargeFlows (s : State) (flows : List (Nat × Nat)) (j : Job) : Job :=
  let used := if j.meter.slot = now s / slotNs then j.meter.used else []
  { j with meter := { slot := now s / slotNs, used := flows.foldl (fun u k => tblMod 0 u k.1 (· + k.2)) used } }

/-- What the certified figures leave of a flow's bytes in the present slot. -/
def flowRoom (s : State) (j : Job) (key n : Nat) : Nat :=
  match j.prog.cert.sections[key / 16]? with
  | some x => min n (flowLimit x (key % 16) - flowUsed s j key)
  | none => n

/-- The descriptor at the head of a channel metered (R57): whether what is left of it fits the certified figures of the present slot in
every flow. If not, what fits has moved and the rest is held until the next slot (log 19). -/
def meterHead (ch : Nat) (p : Posted) (s : State) : Bool × State :=
  match p.dead, p.job.bind (jobOf s) with
  | none, some j => match sectionOfTile s j p.tile with
    | none => (true, s)
    | some i =>
      let left := (descFlows s j p.actor i (dieOfTile p.tile) (parseSiphon p.desc)).map (fun k => (k.1, k.2 - tblGet 0 p.moved k.1))
      let go := left.map (fun k => (k.1, flowRoom s j k.1 k.2))
      let s := jmod j.tag (chargeFlows s go) s
      if go = left then (true, s)
      else (false, chanmod ch (fun c => { c with
        posted := { p with moved := go.foldl (fun u k => tblMod 0 u k.1 (· + k.2)) p.moved } :: c.posted.drop 1 }) s)
  | _, _ => (true, s)

/-! ## Ended attempts (R64) -/

/-- Ended attempts with no channel running and no fence outstanding let go of what they hold. -/
def settleDying (s : State) : State :=
  let gone := s.sluice.dying.filter (fun d => decide (d.running = []) && decide (d.waits = []))
  if gone = [] then s
  else
    let ids := gone.map (fun d => some d.id)
    reclaim (endReserved ((gone.map (fun d => d.resv)).flatten)
      (reapHomes { s with
        sluice := { s.sluice with dying := s.sluice.dying.filter (fun d => !(decide (d.running = []) && decide (d.waits = []))) },
        reserve := s.reserve.filter (fun e => e.2.dead.isNone || e.2.dead ∉ ids) }))

/-- The read-back of target t on channel ch has returned for the ended attempts that wait for it. -/
def dyingFence (ch t : Nat) (s : State) : State :=
  let n := (s.sluice.dying.filter (fun d => decide ((ch, t) ∈ d.waits))).length
  if n = 0 then s
  else settleDying (count 0x741b 0x0a n { s with sluice := { s.sluice with
    dying := s.sluice.dying.map (fun d => { d with waits := d.waits.filter (fun w => w ≠ (ch, t)) }) } })

/-- The last descriptor of an ended attempt on a channel has run: the channel is fenced (R64). -/
def dyingStopped (id ch : Nat) (s : State) : State :=
  let s := fenceTargets ch s
  settleDying (dyingMod id (fun d => { d with
    running := d.running.filter (· ≠ ch), waits := d.waits ++ (chanOf s ch).fencing.map (fun t => (ch, t)) }) s)

/-- The attempt of a job ends short of its commit (R64): its channels stop at their descriptor boundaries and are fenced, and until then
its staging, and what `image` and `resv` name, stay held. -/
def buryAttempt (j : Job) (image : Option Extent) (resv : List Nat) (s : State) : State :=
  let id := s.sluice.nextDying
  let chs := jobChannels j
  let run := chs.filter (headRuns s j.tag)
  let s := stopChannels j.tag (fun p => { p with dead := some id }) s
  let s := forEach (chs.filter (fun ch => decide (ch ∉ run) && decide ((chanOf s ch).targets ≠ []))) fenceTargets s
  let waits := (chs.map (fun ch => if ch ∈ run then [] else (chanOf s ch).fencing.map (fun t => (ch, t)))).flatten
  if run = [] ∧ waits = [] then endReserved resv { s with reserve := s.reserve.filter (fun e => e.2.tag ≠ j.tag || e.2.dead.isSome) }
  else
    let d : Dying := ⟨id, j.tag, run, waits, j.staging, j.staged, j.bound, image, resv⟩
    { s with
    sluice := { s.sluice with nextDying := id + 1, dying := s.sluice.dying ++ [d] },
    reserve := s.reserve.map (fun e =>
      if e.2.tag = j.tag ∧ e.2.dead.isNone then (e.1, { e.2 with dead := some id }) else e) }

/-- Is an ended attempt still stopping on a cluster of the partitions (R64)? -/
def stillStopping (s : State) (parts : List Nat) : Bool :=
  s.sluice.dying.any (fun d => (d.running ++ d.waits.map (fun w => w.1)).any (fun ch =>
    decide (ch < 512) && (clusterTiles (ch / 8)).any (fun t => parts.any (fun p => tileInPart s p t))))

end Sys2Proof.Machine
end

