-- ==== Sys2Proof/Machine/Jobs.lean ====
section
/-!
DEFINITION. Sys2Proof/Machine/Jobs.lean: the life of a job: attempts, kills, retries, commit effects and completion
(R38-R74, R141-R153, R235, R263-R272, R418), and the entry into safe state (R435-R443).
-/

namespace Sys2Proof.Machine

/-! ## Status codes (R68) -/

def stDone : BitVec 8 := 0
def stDegraded : BitVec 8 := 1
def stLate : BitVec 8 := 2
def stBudget : BitVec 8 := 3
def stCancelled : BitVec 8 := 4
def stInput : BitVec 8 := 5
def stMoved : BitVec 8 := 6
def stIntegrity : BitVec 8 := 7
def stTier : BitVec 8 := 8
def stSafe : BitVec 8 := 9

/-- Statuses after which a HARD job enters the safe-state path (R68). -/
def hardStatus (st : BitVec 8) : Bool := st == stLate || st == stBudget || st == stInput || st == stIntegrity || st == stTier

/-! ## Time of an attempt (R66, R69, R242) -/

/-- Tile cycles at `f` MHz since an instant; none where it has not come, or none counts. -/
def cyclesSince (s : State) (f : Nat) (since : Option Nat) : Nat := match since with | some t => (now s - t) * f / 1000 | none => 0

/-- The timing supervisor's count of a task (R66): the cycles it has held its tile and was not pre-empted, and no fewer than those of
the instructions it has issued. -/
def taskCount (s : State) (x : TaskRun) : Nat :=
  max x.cycles (x.held + (match x.tile with | some t => cyclesSince s (dieClock s (dieOfTile t)) x.since | none => 0))

/-- Tile cycles of the present attempt (R69). -/
def attemptCycles (s : State) (j : Job) : Nat := sumNat (j.tasks.map (taskCount s))

/-- Clock of the die of the job's first section, MHz (R242). -/
def jobClock (s : State) (j : Job) : Nat := match sectionPlaces s j.parts with | (_, d) :: _ => dieClock s d | [] => 0

/-- Job time (R242). -/
def jobTimeNow (s : State) (j : Job) : Nat := j.jobTime + cyclesSince s (jobClock s j) j.ranFrom

/-- A task holds its tile no more, or is pre-empted: its count stands. -/
def pauseTask (s : State) (x : TaskRun) : TaskRun :=
  { x with held := x.held + (match x.tile with | some t => cyclesSince s (dieClock s (dieOfTile t)) x.since | none => 0), since := none }

/-- The job is pre-empted: the counts of its tasks and its job time stand (R270). -/
def pauseJob (s : State) (j : Job) : Job :=
  { j with tasks := j.tasks.map (pauseTask s), jobTime := jobTimeNow s j, ranFrom := none }

/-- The task that holds tile b: the first of those placed there that has not ended. -/
def firstOn (j : Job) (b : Nat) : Option Nat :=
  (j.tasks.zipIdx.find? (fun x => !x.1.ended && x.1.tile == some b)).map (fun x => x.2)

/-- The counts and job time run on from instant t (R270). -/
def resumeFrom (t : Nat) (j : Job) : Job :=
  { j with tasks := j.tasks.zipIdx.map (fun x => if x.1.tile.any (fun b => firstOn j b == some x.2) then { x.1 with since := some t } else x.1),
           ranFrom := some t }

/-! ## Field tests end (R426-R429) -/

/-- The registers, buffers and accumulator entries that a logic part used read 0; banks of a stream block stay (R145, R426). -/
def clearTested (t : Nat) (s : State) : State :=
  let keep : Bool := blockExcludes s none t
  tmod t (fun x => { x with
    acc := if keep then x.acc.filter (fun e => 112 * 64 ≤ e.1) else [], intRows := if keep then x.intRows.filter (112 ≤ ·) else [],
    intRegs := [], v := [], w0 := {}, w1 := {} }) s

/-- A test of t leaves its tiles (R426, R428). -/
def endTest (t : Nat) (f : FieldTest) (s : State) : State :=
  let s := { s with island := { s.island with tests := s.island.tests.filter (fun e => e.1 ≠ t) } }
  match f.checker with
  | some c => clearTested c (clearTested t s)
  | none => s

/-- The tests with their subject or checker among the tiles of `ts`. -/
def testsOn (s : State) (ts : List Nat) : List (Nat × FieldTest) :=
  s.island.tests.filter (fun e => decide (e.1 ∈ ts) || e.2.checker.any (fun c => decide (c ∈ ts)))

/-- Tests on the tiles of `ts` stop without an outcome: a retirement touches them (R429). -/
def abandonTests (ts : List Nat) (s : State) : State := forEach (testsOn s ts) (fun e => endTest e.1 e.2) s

/-- Tests on the tiles of `ts` yield to a task, a restore or a relocation (R428). -/
def yieldTests (ts : List Nat) (s : State) : State :=
  if testsOn s ts = [] then s else count 0x741d 9 (testsOn s ts).length (abandonTests ts s)

/-- A test of a cluster-SRAM bank yields to a tile of its cluster that requests the cluster port (R428). -/
def yieldPort (k : Nat) (s : State) : State :=
  forEach (s.island.tests.filter (fun e => e.2.part = 17 && clusterOfTile e.1 == k)) (fun e s => count 0x741d 9 1 (endTest e.1 e.2 s)) s

/-! ## Tiles of an attempt -/

/-- Instruction at which a task of the job enters: 0 on the main path, else the entry of its cheaper path (R183, R248), which the
program's code gives (log 28). -/
def entryPc (j : Job) (task : Nat) : Nat :=
  if j.path = 0 then 0 else Config.pathEntry (((tensorOfAddr j.desc.program.toNat).map (fun x => x.1)).getD 0) task j.path

/-- Tile state a task starts with: its entry, no loops, every pipeline stage off (R104; log 7). The signature of a pair runs on over the
tasks of an attempt (R423): it starts at 0 with the `first` of them here. -/
def startTile (paired first : Bool) (pc : Nat) (tl : Tile) : Tile :=
  { tl with
    pc := pc, loops := [], zimm := 0, zslot := 0, wait := none, sigW := if first then 0 else tl.sigW,
    sigP := if first then 0 else tl.sigP, paired := paired, cycles := 0 }

/-- The first unended task placed on tile b starts there, and under LOCKSTEP on its shadow (R263, R422). -/
def startOn (tag : BitVec 32) (b : Nat) (s : State) : State :=
  match jobOf s tag with
  | none => s
  | some j => match firstOn j b with
    | none => s
    | some i =>
      let s := yieldTests (if j.desc.lockstep then [b, b + 1] else [b]) s
      let s := jmod tag (fun j => { j with tasks := j.tasks.zipIdx.map (fun x => if x.2 = i then { x.1 with since := some (now s) } else x.1) }) s
      let first := j.tasks.all (fun x => !(x.ended && x.tile == some b))
      let s := tmod b (startTile j.desc.lockstep first (entryPc j i)) s
      if j.desc.lockstep then tmod (b + 1) (startTile true first (entryPc j i)) s else s

/-- A FENCE, BAR or EVWAIT in progress is abandoned (R265); a tile that waits at a barrier has not arrived there. -/
def abandonWait (t : Nat) (s : State) : State :=
  match (tileOf s t).wait with
  | none => s
  | some w =>
    let s := tmod t (fun tl => { tl with wait := none }) s
    match w with
    | .bar _ => cmod (clusterOfTile t) (fun c => { c with arrived := c.arrived &&& ~~~(BitVec.ofNat 8 (2 ^ (t % 8))) }) s
    | _ => s

/-- The job's tasks stop: no tile waits for it any more, and the events meant for it go (R22). -/
def stopTasks (j : Job) (s : State) : State := dropEvents j.tag (forEach (jobTiles j) abandonWait s)

/-- The regions that a job had pre-armed are pre-armed no more (R407). -/
def dropPrearm (tag : BitVec 32) (s : State) : State :=
  { s with power := { s.power with prearm := s.power.prearm.filter (fun e => e.1 ≠ tag) } }

/-! ## Drains (R42, R261) -/

/-- A DRAINING queue without accepted jobs is STOPPED (R42). -/
def settleQueue (q : Nat) (s : State) : State :=
  if (qget s q).state = .draining ∧ queueJobs s q = [] then qmod q (fun x => { x with state := .stopped }) s else s

/-- Accepted, uncompleted jobs that name partition p. -/
def partJobs (s : State) (p : Nat) : List Job := s.sluice.jobs.filter (fun j => p ∈ j.parts)

/-- A DRAINING partition without accepted jobs is STOPPED (R261). -/
def settlePart (p : Nat) (s : State) : State :=
  if (partOf s p).state = .draining ∧ partJobs s p = [] then pmod p (fun x => { x with state := .stopped }) s else s

/-! ## Completion (R43, R48, R62, R69, R73) -/

/-- NOTES (R69). -/
def jobNotes (j : Job) : BitVec 8 :=
  BitVec.ofNat 8 ((if j.revised then 16 else 0) + (if j.atRisk then 8 else 0) + (if j.rerun then 4 else 0) +
    (if j.recomp then 2 else 0) + (if j.path ≠ 0 ∧ !j.masked then 1 else 0))

/-- The completion record of a job (R69). -/
def jobRecord (j : Job) (st : BitVec 8) : CompRec where
  tag := j.tag
  status := st
  notes := jobNotes j
  attempts := BitVec.ofNat 8 j.attempts
  path := BitVec.ofNat 8 j.path
  commit := match j.commit with | some t => stampOf t | none => 0
  due := stampOf (j.due * slotNs)
  cycles := BitVec.ofNat 64 j.cycles
  cookie := j.desc.cookie

/-- The 32 bytes of a completion record (R69). -/
def recordBytes (r : CompRec) : Bytes :=
  leBytes 4 r.tag.toNat ++ [r.status, r.notes, r.attempts, r.path] ++ leBytes 4 r.commit.toNat ++ leBytes 4 r.due.toNat ++
  leBytes 8 r.cycles.toNat ++ leBytes 4 r.cookie.toNat ++ zeros 4

/-- Is the job delivered: committed with an output status by its DEADLINE (R28)? -/
def delivered (j : Job) (st : BitVec 8) : Bool :=
  (st == stDone || st == stDegraded) && (match j.commit with | some t => decide (t ≤ j.deadline) | none => false)

/-- Certified tile-cycles of a job (R28). -/
def certifiedCycles (j : Job) : Nat := sumNat (j.prog.cert.sections.map (fun x => x.w))

/-- Counters of a completion (R29, R73, R419). -/
def countCompletion (j : Job) (st : BitVec 8) (s : State) : State :=
  let c := queueClient s j.q
  let s := count 0x741d 1 1 s
  if delivered j st then count 0x7410 2 1 (count 0x7410 1 (certifiedCycles j) (count (0x7000 + c) 4 1 s))
  else
    let s := count (0x7000 + c) 5 1 s
    if j.commit.isSome then count 0x7410 3 1 s else s

/-- The JOB_COMPLETE frame of a job with NOTIFY set is offered to its session (R62, R477, R478). -/
def notifyJob (j : Job) (r : CompRec) (s : State) : State :=
  if !j.desc.notify then s
  else match jobSession s j.session j.sgen (queueClient s j.q) 1 with
    | some k => notify k { code := 1, stamp := stamp s, data := recordBytes r, job := some j.tag } s
    | none => s

/-- Entries of a job's reservations that it has not published. -/
def unpublished (s : State) (j : Job) : List Nat :=
  (j.resv.map (fun r => r.entry)).filter (fun e => decide ((entryOf s e).state = .reserved))

/-- Frees what an ended job holds: waits, block rows, pins, bindings at once; staging, image, reserve entries and reserved page frames
after the fences of an attempt that ends short of its commit (R64, R144, R176, R177, R235, R271). -/
def releaseJob (j : Job) (done : Bool) (s : State) : State :=
  let ran := attempting j || j.phase == .committed || j.phase == .published
  let s := if ran then stopTasks j s else s
  let s := match jobStream j with
    | some n => if !done && ran then restoreRollback n s else s
    | none => s
  let s := wipeExport j.targets s
  let s := if attempting j then buryAttempt j j.preimage (unpublished s j) s
    else endReserved (unpublished s j) { s with reserve := s.reserve.filter (fun e => e.2.tag ≠ j.tag || e.2.dead.isSome) }
  let s := releasePins j s
  let s := dropPrearm j.tag { s with power := { s.power with overJobs := s.power.overJobs.filter (· ≠ j.tag) } }
  reclaim (reapHomes (jdel j.tag s))

/-- A job completes with a status: its record is placed, or dropped where the generation is stale (R48, R62, R64, R69). -/
def completeJob (tag : BitVec 32) (st : BitVec 8) (s : State) : State :=
  match jobOf s tag with
  | none => s
  | some j =>
    let j := { j with cycles := j.cycles + attemptCycles s j }
    let s := releaseJob j (st == stDone || st == stDegraded) s
    let s := countCompletion j st s
    let r := jobRecord j st
    let s := if tag.extractLsb' 0 4 = (qget s j.q).gen then
        notifyJob j r (qmod j.q (fun x => { x with records := x.records ++ [r] }) s)
      else count 0x7411 1 1 s
    settleQueue j.q (forEach j.parts settlePart s)

/-- A job ends without a completion: flushed (R42, R48). -/
def flushJob (tag : BitVec 32) (s : State) : State :=
  match jobOf s tag with
  | none => s
  | some j => forEach j.parts settlePart (count 0x741d 1 1 (releaseJob j false s))

/-! ## Safe state (R435-R443) -/

/-- The T1 ports of SF_PORTS. -/
def sfPorts (s : State) : List Nat := bitsOf 4 (cfg s 0x4000 0x0c)

/-- Is T1 port x up? -/
def t1Up (s : State) (x : Nat) : Bool := (t1Of s x).running && !((t1Of s x).retired) && (t1Of s x).link == 2

/-- MAC address of T1 port x. -/
def portMac (s : State) (x : Nat) : BitVec 64 := nth 0 s.boot.ident.macs x

/-- An Ethernet frame to `dst` with the EtherType of 0x5400:05. -/
def etherFrame (s : State) (x dst prio : Nat) (payload : Bytes) : Bytes :=
  beBytes 6 dst ++ beBytes 6 (portMac s x).toNat ++ vlanTag s x prio ++ beBytes 2 (cfg s 0x5400 5) ++ payload

/-- The payload of a safety frame (R347, R439). -/
def safetyPayload (s : State) (cleared : Bool) (cnt : BitVec 32) : Bytes :=
  let fault := decide (s.island.state = .safeFault)
  [3, BitVec.ofNat 8 ((if cleared then 2 else 0) + (if fault then 1 else 0)), s.island.first, 0] ++ leBytes 4 s.island.entry.toNat ++
  leBytes 4 s.island.seq.toNat ++ [0, 0, 0, 0] ++ leBytes 4 s.island.causes.toNat ++ leBytes 4 s.island.detail.toNat ++
  leBytes 4 cnt.toNat ++ zeros 4

/-- A safety frame on port x; nothing on a port that is down (R439). -/
def safetyFrame (x : Nat) (cleared : Bool) (s : State) : State :=
  if t1Up s x then
    let s := t1mod x (fun p => { p with safety := p.safety + 1 }) s
    count 0x741d 0x0d 1 (emit (.t1 (Fin.ofNat 4 x)
      (etherFrame s x (cfg s 0x4000 0x0d % 2 ^ 48) 7 (safetyPayload s cleared (t1Of s x).safety))) s)
  else s

/-- A safety frame on every port of SF_PORTS; the repeat interval runs from here (R439). -/
def safetyFrames (cleared : Bool) (s : State) : State :=
  forEach (sfPorts s) (fun x => safetyFrame x cleared) { s with island := { s.island with frameAt := now s } }

/-- Data of the SAFE_STATE notify frame (R476). -/
def safeData (s : State) : Bytes :=
  [s.island.first, 0] ++ leBytes 2 s.island.seq.toNat ++ leBytes 4 s.island.detail.toNat ++ leBytes 4 s.island.causes.toNat

/-- Has the job's commit instant passed (R438, R442)? -/
def hasCommitted (j : Job) : Bool := j.phase == .committed || j.phase == .published

/-- A set-point frame made safe: FLAGS SAFE, every slot VALID clear and SETPOINT +0 (R437). -/
def safeFrame (f : SetFrame) : SetFrame :=
  { f with flags := 2, slots := f.slots.map (fun x => { x with flags := x.flags &&& 0xfe, setpoint := 0 }) }

def safeLaunch (l : Launch) : Launch :=
  match l.body with
  | .setpoint f => { l with body := .setpoint (safeFrame f) }
  | .host _ => l

/-- Entry into safe state, or a further cause in it (R437, R442), of which one of a lower code in the AOCLK cycle of entry, at an equal NOW
(log 58), is the first: every accepted job not yet committed completes
SAFE_STATE, queues stop, set-point frames become invalid, pins and notify frames are driven. Cause ISLAND sends no frame. -/
def enterSafe (cause : Nat) (detail : BitVec 32) (fault : Bool) (s : State) : State :=
  let bit := BitVec.ofNat 32 (2 ^ cause)
  let st' : SafeState := if fault then .safeFault else .safe
  if s.island.state = .normal then
    let s := forEach (s.sluice.jobs.filter (fun j => !(hasCommitted j))) (fun j => completeJob j.tag stSafe) s
    let s := { s with
      queues := tblMap {} (fun x => { x with state := .stopped }) s.queues,
      pump := { s.pump with
        safe := s.pump.running,
        axes := tblMap ({} : Axis) (fun a =>
          if a.state == AState.disabled && a.pending.isNone then a else { a with pending := some false }) s.pump.axes },
      t1 := tblMap {} (fun p => { p with safety := 0, launch := p.launch.map safeLaunch }) s.t1 }
    let s := { s with
      island := { s.island with
        state := st', causes := bit, first := BitVec.ofNat 8 cause, detail := detail, entry := stamp s, entryAt := now s,
        seq := s.island.seq + 1, lost := s.island.lost },
      pins := { s.pins with safeN := false, faultN := s.pins.faultN && !fault } }
    let s := setEvent 0 (count 0x741d 0x0c 1 s)
    if cause = 10 then s else safetyFrames false (notifyAll 0x10 (safeData s) s)
  else
    let same : Bool := decide (s.island.entryAt = now s) && decide (cause < s.island.first.toNat)
    let s := { s with
      island := { s.island with
        state := if fault then .safeFault else s.island.state, causes := s.island.causes ||| bit,
        first := if same then BitVec.ofNat 8 cause else s.island.first, detail := if same then detail else s.island.detail },
      pins := { s.pins with faultN := s.pins.faultN && !fault } }
    if cause = 10 then s else safetyFrames false s

/-- A job completes; a HARD job's failure enters the safe-state path (R39, R68). -/
def finishJob (tag : BitVec 32) (st : BitVec 8) (s : State) : State :=
  match jobOf s tag with
  | none => s
  | some j =>
    let s' := completeJob tag st s
    if queueClass s j.q = 0 ∧ hardStatus st then enterSafe 2 tag false s' else s'

/-! ## Kills and failed attempts (R64, R272, R418) -/

/-- Fresh staging homes for a job's outputs, first fit, where it has none (R64, R236); none taken unless the heap holds them all. -/
def takeStaging (tag : BitVec 32) (s : State) : State :=
  match jobOf s tag with
  | none => s
  | some j =>
    let outs := (j.prog.tensors.filter (fun e => e.2)).map (fun e => e.1)
    if j.service.isSome ∨ j.staging ≠ [] then s
    else match heapAllocAll s (outs.map (fun i => rawImage (tensorOf s i).size)) with
      | some es => jmod tag (fun j => { j with staging := outs.zip es }) s
      | none => s

/-- The attempt is stopped (R64): its staging stays held until its channels are fenced, and the job takes fresh staging homes. -/
def endAttempt (j : Job) (s : State) : State :=
  let s := dropPrearm j.tag (stopTasks j s)
  let s := match jobStream j with
    | some n => if attempting j then restoreRollback n s else s
    | none => s
  let s := buryAttempt j none [] (wipeExport j.targets s)
  if j.service.isSome then s else takeStaging j.tag (jmod j.tag (fun j => { j with staging := [] }) s)

/-- State of a job back before its first instruction, to be re-planned; the cycles used stay counted (R69). -/
def rewound (s : State) (j : Job) : Job :=
  { j with phase := .waiting, cycles := j.cycles + attemptCycles s j, tasks := [], copies := [], commit := none, status := none,
           path := 0, masked := false, recomp := false, targets := [], extended := 0, staged := [], meter := {}, jobTime := 0,
           ranFrom := none, switched := none, body := [], replan := true }

/-- Kill for re-run: bindings, pins and reservations stay; the Sluice re-plans it (R64, R272). -/
def killJob (tag : BitVec 32) (s : State) : State :=
  match jobOf s tag with
  | none => s
  | some j => count 0x7416 3 1 (jmod tag (fun j => { rewound s j with attempts := j.attempts + 1, rerun := true }) (endAttempt j s))

/-- A failed attempt (R418): re-planned once; a second one completes INTEGRITY_FAIL. -/
def failAttempt (tag : BitVec 32) (s : State) : State :=
  match jobOf s tag with
  | none => s
  | some j =>
    if hasCommitted j then s
    else if j.retried then finishJob tag stIntegrity s
    else jmod tag (fun j => { rewound s j with failed := true }) (endAttempt j s)

/-- A fault of the program: INTEGRITY_FAIL without retry (R102, R223, R395). -/
def programFault (tag : BitVec 32) (s : State) : State :=
  match jobOf s tag with
  | none => s
  | some j => if hasCommitted j then s else finishJob tag stIntegrity s

/-! ## Loss of streams (R142, R153) -/

/-- The stream becomes LOST; its accepted chunks complete with the status. -/
def loseStream (n : Nat) (st : BitVec 8) (s : State) : State :=
  let r := streamOf s n
  let s := wipeRollback (r.blocks ++ r.moving.map (fun m => m.old)) s
  let s := streamMod n (fun x => { x with state := .lost, blocks := [], moving := [] }) s
  forEach ((chunksOfStream s n).filter (fun j => !(hasCommitted j))) (fun j => finishJob j.tag st) s

/-! ## Re-planning calls (R72) -/

/-- Marks jobs for the re-plan of the next slot boundary. -/
def callReplan (which : Job → Bool) (s : State) : State :=
  { s with sluice := { s.sluice with jobs := s.sluice.jobs.map (fun j =>
      if which j && !(hasCommitted j) then { j with replan := true } else j) } }

/-- Jobs whose ledgers the loss of a set of tiles shrinks: those on a partition that contains one. -/
def jobOnTiles (s : State) (ts : List Nat) (j : Job) : Bool := j.parts.any (fun p => ts.any (fun t => tileInPart s p t))

/-- Attempts with a task running on the tiles are killed; every job on their partitions is re-planned, one in its gap among them (R257,
R271, R420). -/
def tilesLost (ts : List Nat) (s : State) : State :=
  let hit := s.sluice.jobs.filter (fun j => attempting j && j.phase != .gap && (jobTiles j).any (fun t => decide (t ∈ ts)))
  callReplan (jobOnTiles s ts) (forEach hit (fun j => killJob j.tag) s)

end Sys2Proof.Machine
end

