-- ==== Sys2Proof/Machine/Sluice.lean ====
section
/-!
DEFINITION. Sys2Proof/Machine/Sluice.lean: admission (R50, R58-R60, R174-R177, R236), attempt starts (R143, R173, R235,
R263, R264), pre-emption (R265-R272), overruns (R67), re-plans (R72) and the effects of service jobs (R147, R150, R234).
-/

namespace Sys2Proof.Machine

/-! ## Replies -/

/-- The Sluice's answer to a submission (R49). -/
structure Admit where
  code    : Nat := 0
  binding : Nat := 0
  due     : BitVec 32 := 0
  start   : BitVec 32 := 0
  tag     : BitVec 32 := 0
  deriving DecidableEq, Repr

/-- The 16-byte submission reply (R49). -/
def admitBytes (a : Admit) : Bytes :=
  leBytes 4 a.tag.toNat ++ leBytes 1 a.code ++ leBytes 1 a.binding ++ zeros 2 ++ leBytes 4 a.due.toNat ++ leBytes 4 a.start.toNat

def noStamp : BitVec 32 := 0xffffffff

/-- The tag of the next acceptance in queue q (R47). -/
def nextTag (s : State) (q : Nat) : BitVec 32 :=
  BitVec.ofNat 32 (q * 2 ^ 20 + (qget s q).nextSeq * 2 ^ 4 + (qget s q).gen.toNat)

/-- SEQ advances: 65,535 is followed by 1 (R505). -/
def advanceSeq (q : Nat) (s : State) : State :=
  qmod q (fun x => { x with nextSeq := if x.nextSeq = 65535 then 1 else x.nextSeq + 1 }) s

/-! ## The checks of DESC_INVALID (R50) -/

/-- Task indices of a partition's sections, in task order (R143). -/
def partTasks (s : State) (parts : List Nat) (c : Cert) (p : Nat) : List TaskEntry :=
  let idx : List Nat := ((sectionPlaces s parts).zipIdx.filter (fun x => x.1.1 = p)).map (fun x => x.2)
  c.tasks.filter (fun t => decide (t.section_ ∈ idx))

/-- The stream rules of R143 and R422. -/
def streamOk (s : State) (q : Nat) (d : JobDesc) (parts : List Nat) (c : Cert) : Bool :=
  if d.stream = 0 then !(c.uses.getLsbD 1)
  else match streamNamed s d.stream.toNat with
    | none => false
    | some n =>
      let r := streamOf s n
      let ts := partTasks s parts c r.partition
      decide (r.state = .open_ ∨ r.state = .swapped) && decide (r.queue = q) && decide (r.partition ∈ parts) &&
      c.uses.getLsbD 1 && decide (r.nblocks ≤ ts.length) && (ts.take r.nblocks).all (fun t => t.tflags.getLsbD 0) &&
      !d.lockstep

/-- The tensor table of a program against the directory (R236, R241). -/
def tableOk (s : State) (p : Program) : Bool :=
  p.tensors.all (fun e =>
    let t := tensorOf s e.1
    if e.2 then t.state != .free && !t.kind && (t.home == .none || t.home == .cistern)
    else t.state != .free && t.state != .empty)

/-- Do two of the partitions overlap (R260)? -/
def anyOverlap (s : State) (parts : List Nat) : Bool := parts.any (fun p => parts.any (fun q => p != q && partsOverlap s p q))

/-- Program and sequences of a valid descriptor; none refuses DESC_INVALID. -/
def descCheck (s : State) (q : Nat) (d : JobDesc) : Option (Nat × Program × Option SeqNames) :=
  let parts := bitsOf 64 d.parts.toNat
  if d.program.toNat % 2 ^ 12 ≠ 0 ∨ d.args.toNat % 64 ≠ 0 ∨ d.parts = 0 ∨
      d.parts &&& ~~~(BitVec.ofNat 64 (queuePermit s q)) ≠ 0 ∨ anyOverlap s parts then none
  else match programOf s d.program with
    | none => none
    | some (i, p) =>
      if d.pathAllow &&& ~~~p.cert.paths ≠ 0 ∨ !(tableOk s p) ∨ !(streamOk s q d parts p.cert) then none
      else if p.cert.uses.getLsbD 2 then
        match parseSeqList (peek s (ownPhysical s d.argAddr) 64) d.argLen with
        | none => none
        | some l => (resolveSeqs s (queueClient s q) l).map (fun n => (i, p, some n))
      else some (i, p, none)

/-! ## Service jobs (R146, R234) -/

/-- Die-link share of `v` bytes by counts on each die. -/
def dieSplit (v a b : Nat) : Nat × Nat := if a + b = 0 then (0, 0) else (ceilDiv (v * a) (a + b), ceilDiv (v * b) (a + b))

def onPort (s : State) (m v : Nat) : List Nat := (List.range 3).map (fun p => if portToward s m = some p then v else 0)

/-- Slots, charge and partitions of a service job at its decision. -/
def serviceNeeds (s : State) : Service → Nat × Charge × List Nat
  | .exportStream n _ target =>
    let r := streamOf s n
    let m := 1000000
    let onZero := (r.blocks.filter (fun t => dieOfTile t = 0)).length
    (2 + ceilDiv (imageSize r.nblocks r.rows) m,
     { dieOut := dieSplit m onZero (r.blocks.length - onZero), cis := m,
       fabOut := if target = position s then [0, 0, 0] else onPort s target m }, [r.partition])
  | .importStream n img part _ =>
    let r := streamOf s n
    let p := if n = 0 then part else r.partition
    let rows := if n = 0 then peekNat s (ownPhysical s img + 2) 1 else r.rows
    let blocks := if n = 0 then peekNat s (ownPhysical s img + 4) 2 else r.nblocks
    let m := 1000000
    let ts := (freeBlockTiles s p).take blocks
    let onZero := (ts.filter (fun t => dieOfTile t = 0)).length
    (2 + ceilDiv (imageSize blocks rows) m, { dieIn := dieSplit m onZero (ts.length - onZero), cis := m }, [p])
  | .load _ o => (2 + ceilDiv (((s.dir.store.find? (fun e => e.1 = o)).map (fun e => e.2.stored)).getD 0) 140000, { cis := 140000 }, [])
  | .store t _ => (2 + ceilDiv (tensorOf s t).stored 70000, { cis := 70000 }, [])
  | .fill _ a => (2 + ceilDiv (2 * peekNat s (ownPhysical s a + 12) 4) 1000000, { cis := 1000000 }, [])
  | .migrateBasin t mask _ =>
    let ks := bitsOf 64 mask.toNat
    let onZero := (ks.filter (fun k => decide (k < 32))).length
    (2 + ceilDiv (ks.length * (tensorOf s t).stored) 1000000, { dieIn := dieSplit 1000000 onZero (ks.length - onZero), cis := 1000000 }, [])
  | .migrateCistern t =>
    let x := tensorOf s t
    if x.home = .aquifer then
      (2 + ceilDiv x.stored 1000000, { cis := 1000000, fabIn := onPort s x.peer 1000000 }, [])
    else (2, {}, [])
  | .migrateAquifer t m _ => (2 + ceilDiv (tensorOf s t).stored 1000000, { cis := 1000000, fabOut := onPort s m 1000000 }, [])

/-- Bytes of heap that a service job's new home takes (R232, R234). -/
def serviceHome (s : State) : Service → Option (Nat × Nat)
  | .load t o => some (t, ((s.dir.store.find? (fun e => e.1 = o)).map (fun e => e.2.stored)).getD 0)
  | .fill t a => some (t, peekNat s (ownPhysical s a + 12) 4)
  | .migrateCistern t => if (tensorOf s t).home = .aquifer then some (t, (tensorOf s t).stored) else none
  | _ => none

/-! ## Admission (R50, R58-R60) -/

/-- A job of an arrival, before its placement. -/
def newJob (s : State) (a : Arrival) : Job :=
  { tag := nextTag s a.q, q := a.q, session := a.session, sgen := a.sgen, desc := a.desc, service := a.service,
    deadline := extendStamp (now s) a.desc.deadline,
    release := if a.desc.releaseNow then 0 else extendStamp (now s) a.desc.release }

/-- The slot after the last reserved slot of a set of jobs (R144, R175). -/
def afterJobs (js : List Job) : Nat := (js.map (fun j => runsEnd j.runs)).foldl max 0

/-- Lower bound of the first slot by the order of streams and sequences. -/
def orderBound (s : State) (stream : Option Nat) (uses : List SeqUse) : Nat :=
  max (match stream with | some n => afterJobs (chunksOfStream s n) | none => 0)
    (afterJobs (s.sluice.jobs.filter (fun j => j.uses.any (fun u => uses.any (fun v => v.seq = u.seq)))))

/-- May the Sluice split the job (R59, R268)? -/
def splittable (s : State) (d : JobDesc) (parts : List Nat) : Bool := d.preempt && parts.all (fun p => partShape s p == 0)

/-- NO_SLOT for heap space or key-value frames (R177, R236). -/
def noSpace : Admit := { code := 0x0b, binding := 2, due := noStamp }

/-- The accepted job enters the Sluice. -/
def acceptJob (j : Job) (s : State) : Admit × State :=
  let start := (runsFirst j.runs).getD 0
  ({ due := stampOf (j.due * slotNs), start := stampOf (start * slotNs), tag := j.tag },
   count (0x7000 + queueClient s j.q) 2 1
     (advanceSeq j.q { s with sluice := { s.sluice with jobs := s.sluice.jobs ++ [j] } }))

def noSlotDue : Option Nat → BitVec 32
  | some e => stampOf (e * slotNs)
  | none => noStamp

/-- Decision on an ordinary job that passed the queue's checks. -/
def admitPlain (cur : Nat) (a : Arrival) (s : State) : Admit × State :=
  let d := a.desc
  if descReserved d then ({ code := 4 }, s)
  else match descCheck s a.q d with
    | none => ({ code := 5 }, s)
    | some (_, prog, names) =>
      let parts := bitsOf 64 d.parts.toNat
      let c := prog.cert
      let own := if d.stream = 0 then none else streamNamed s d.stream.toNat
      let ns := sectionCounts s true d.lockstep own parts
      if !(sectionsMatch s parts c) ∨ !(phasesOk s parts c) then ({ code := 6 }, s)
      else if d.zgate ∧ c.tasks.any (fun t => t.tflags.getLsbD 0) then ({ code := 7 }, s)
      else if countsShort c ns then ({ code := 8 }, s)
      else if !d.releaseNow ∧ now s + 100000000 < extendStamp (now s) d.release then ({ code := 9 }, s)
      else if 16384 ≤ s.sluice.jobs.length then ({ code := 0x0a }, s)
      else
        let j := newJob s a
        let uses := (names.map (fun n => n.uses)).getD []
        let len := jobSlots s c ns
        let outs := (prog.tensors.filter (fun e => e.2)).map (fun e => e.1)
        let sizes := outs.map (fun i => rawImage (tensorOf s i).size)
        let image := imageBytesPerCluster * parts.length
        let w : Want :=
          { load := ⟨parts, certCharge s c, certEnergy c d.lockstep, false, false, []⟩, len := len,
            first := max (max (cur + 2) (j.release / slotNs)) (orderBound s own uses),
            deadline := j.deadline, split := splittable s d parts }
        match place s cur none w (heapAllocAll s (sizes ++ [image])).isSome with
        | (.none b e, s) => ({ code := 0x0b, binding := b, due := noSlotDue e }, s)
        | (.runs rs, s) =>
          let sizes := if 1 < rs.length then sizes ++ [image] else sizes
          match heapAllocAll s sizes with
          | none => (noSpace, count 0x7415 0x0a 1 s)
          | some es =>
            let j := { j with
              prog := prog, parts := parts, charge := w.load.charge, energy := w.load.energy, runs := rs, due := runsEnd rs,
              len := len, staging := outs.zip es, preimage := es[outs.length]?, uses := uses,
              table := names.bind (fun n => n.table), new := (names.map (fun n => n.new)).getD 0,
              bound := [] }
            match names with
            | none => acceptJob j s
            | some n => match grantPages n s with
              | .short s => (noSpace, s)
              | .granted resv pins s => acceptJob { j with resv := resv, pins := pins } s

/-- Does a MIGRATE to BASIN meet a replica, or one that an accepted MIGRATE will place (R233)? -/
def basinTaken (s : State) (i : Nat) (mask : BitVec 64) (off : Nat) : Bool :=
  let n := (tensorOf s i).size
  (bitsOf 64 mask.toNat).any (fun k => inReplica s k off n) ||
  s.sluice.jobs.any (fun j => match j.service with
    | some (.migrateBasin t m o) => (m &&& mask != 0) && overlaps off n o (tensorOf s t).size
    | _ => false)

/-- Does a service job lack cluster SRAM for its new home? -/
def basinShort (s : State) : Service → Bool
  | .migrateBasin i mask off => basinTaken s i mask off
  | _ => false

/-- Decision on a service job that passed the queue's checks. -/
def admitService (cur : Nat) (a : Arrival) (v : Service) (s : State) : Admit × State :=
  let n := serviceNeeds s v
  if n.2.2.any (fun p => (partOf s p).state ≠ .running || ((partTiles s p).filter (tileHealthy s)).isEmpty) then ({ code := 8 }, s)
  else if 16384 ≤ s.sluice.jobs.length then ({ code := 0x0a }, s)
  else if basinShort s v then (noSpace, s)
  else
    let j := newJob s a
    let w : Want :=
      { load := ⟨n.2.2, n.2.1, 50 * n.1, true, false, []⟩, len := n.1, first := cur + 2, deadline := j.deadline, split := false }
    match place s cur none w false with
    | (.none b e, s) => ({ code := 0x0b, binding := b, due := noSlotDue e }, s)
    | (.runs rs, s) =>
      let home := serviceHome s v
      match heapAllocAll s (home.toList.map (fun h => h.2)) with
      | none => (noSpace, count 0x7415 0x0a 1 s)
      | some es => acceptJob { j with
          parts := n.2.2, charge := n.2.1, energy := 50 * n.1, runs := rs, due := runsEnd rs, len := n.1,
          staging := (home.toList.map (fun h => h.1)).zip es } s

/-- The Sluice's decision on one arrival (R50), counted for its client (R73). -/
def decideArrival (cur : Nat) (a : Arrival) (s : State) : Admit × State :=
  let s := count (0x7000 + queueClient s a.q) 1 1 s
  let r : Admit × State :=
    if s.island.state ≠ .normal then ({ code := 1 }, s)
    else if (qget s a.q).state ≠ .running then ({ code := 2 }, s)
    else if queueDepth s a.q ≤ occupancy s a.q then ({ code := 3 }, s)
    else match a.service with
      | some v => admitService cur a v s
      | none => admitPlain cur a s
  if r.1.code = 0 then r else (r.1, count (0x7000 + queueClient s a.q) 3 1 r.2)

/-! ## Attempt start (R143, R173, R235, R263, R264) -/

/-- STORED bytes of replicas that the task's schedule entries find in tile t's cluster (R264). -/
def affinity (s : State) (j : Job) (task t : Nat) : Nat :=
  sumNat ((j.prog.sched.filter (fun e => e.task = task)).map (fun e =>
    match j.prog.tensors[e.tensor]? with
    | some x => if (tensorOf s x.1).home = .basin ∧ (tensorOf s x.1).clusters.getLsbD (clusterOfTile t) then (tensorOf s x.1).stored else 0
    | none => 0))

/-- Tiles that a task of section i may take. -/
def taskTiles (s : State) (j : Job) (i : Nat) : List Nat :=
  match (sectionPlaces s j.parts)[i]? with
  | none => []
  | some (p, d) => if j.desc.lockstep then eligiblePairs s (jobStream j) p d else eligibleTiles s (jobStream j) p d

/-- The tile that scores highest, the lowest on a tie (R264). -/
def bestTile (score : Nat → Nat) (ts : List Nat) : Option Nat :=
  ts.foldl (fun acc t => match acc with
    | none => some t
    | some b => if score b < score t then some t else some b) none

/-- Block tile of a stream task: the j-th task of the stream's partition (R143). -/
def blockTile (s : State) (j : Job) (task : Nat) : Option Nat :=
  match jobStream j with
  | none => none
  | some n =>
    let r := streamOf s n
    let idx : List Nat := ((sectionPlaces s j.parts).zipIdx.filter (fun x => x.1.1 = r.partition)).map (fun x => x.2)
    let mine := (j.prog.cert.tasks.zipIdx.filter (fun t => decide (t.1.section_ ∈ idx))).map (fun t => t.2)
    ((mine.zip r.blocks).find? (fun p => p.1 = task)).map (fun p => p.2)

/-- Affinity placement of the tasks in order; a first-free section's tasks wait to become ready (R263, R264). -/
def placeTasks (s : State) (j : Job) : List TaskRun :=
  (j.prog.cert.tasks.zipIdx.foldl (fun (acc : List TaskRun) t =>
    match blockTile s j t.2 with
    | some b => acc ++ [{ tile := some b, ready := true }]
    | none =>
      match (sectionPlaces s j.parts)[t.1.section_]? with
      | none => acc ++ [{ ended := true }]
      | some (p, _) =>
        if partFirstFree s p then acc ++ [{}]
        else
          let all := (taskTiles s j t.1.section_).filter (fun x => (blockTile s j t.2).isNone || (blockTiles s).all (fun b => b.1 != x))
          let used := acc.filterMap (fun x => x.tile)
          let fresh := all.filter (fun x => decide (x ∉ used))
          acc ++ [{ tile := bestTile (affinity s j t.2) (if fresh = [] then all else fresh), ready := true }]) [])

/-- The healthy tile of lowest index without a running task that a task of section i may take (R264). -/
def freeTaskTile (s : State) (j : Job) (i : Nat) : Option Nat := (taskTiles s j i).find? (fun t => !(tileHeld s t))

/-- A ready task without a tile takes the first free one (R264). -/
def placeReady (tag : BitVec 32) (i : Nat) (s : State) : State :=
  match jobOf s tag with
  | none => s
  | some j => match j.tasks[i]?, j.prog.cert.tasks[i]? with
    | some x, some e =>
      if x.ready ∧ x.tile.isNone ∧ !x.ended then
        match freeTaskTile s j e.section_ with
        | none => s
        | some t =>
          startOn tag t (jmod tag (fun j => { j with tasks := setAt j.tasks i { x with tile := some t } }) s)
      else s
    | _, _ => s

/-- Every ready task of a job that waits for a tile is tried, in task order. -/
def placeWaiting (tag : BitVec 32) (s : State) : State :=
  match jobOf s tag with
  | none => s
  | some j => forEach (List.range j.tasks.length) (placeReady tag) s

/-- The bindings of an attempt: the program image, and the inputs at their current versions; a re-run keeps its own (R235). -/
def bindInputs (s : State) (j : Job) : List (Nat × Nat) :=
  if j.rerun then j.bound
  else (tensorOfAddr j.desc.program.toNat).toList.map (fun x => (x.1, (tensorOf s x.1).version)) ++
    (j.prog.tensors.filter (fun e => !e.2)).map (fun e => (e.1, (tensorOf s e.1).version))

/-- What a job reads of its program image: of the version it is bound to (R235, R241). -/
def boundProgram (s : State) (j : Job) (bound : List (Nat × Nat)) : Program :=
  match tensorOfAddr j.desc.program.toNat with
  | some (i, _) => match (bound.find? (fun b => b.1 = i)).bind (fun b => versionBytes s i b.2) with
    | some b => if programHeaderOk b then parseProgram b else j.prog
    | none => j.prog
  | none => j.prog

/-- The free value of a program's recompute allowance (R183), and the outcome for `n` dropped rows. -/
def recomputeOutcome (j : Job) (s : State) : Job × Bool × State :=
  let n := jobDropped s j
  if n = 0 then (j, true, s)
  else
    let (a, s) := freshNat s
    if n ≤ a then ({ j with recomp := true }, true, s)
    else match (bitsOf 16 (j.desc.pathAllow &&& j.prog.cert.paths).toNat).head? with
      | some k => ({ j with path := k, masked := true }, true, s)
      | none => (j, false, s)

/-- Does an earlier accepted, uncompleted job name the same stream or sequence (R144, R175)? -/
def mustWait (s : State) (j : Job) : Bool :=
  (s.sluice.jobs.takeWhile (fun i => i.tag ≠ j.tag)).any (fun i =>
    (jobStream j).isSome && jobStream i == jobStream j || i.uses.any (fun u => j.uses.any (fun v => v.seq = u.seq)))

/-- The attempt does not start: its slots are freed and the Sluice re-plans it at the next boundary (R264). -/
def deferJob (tag : BitVec 32) (s : State) : State := jmod tag (fun j => { j with runs := [], replan := true }) s

/-- A plain job reaches the start of its first reserved slot. It does not start while an ended attempt still stops on its partitions, whose
writes may land there, or while the heap holds no fresh staging for it (R64). -/
def startPlain (j : Job) (s : State) : State :=
  let moving : Bool := match jobStream j with | some n => decide ((streamOf s n).moving ≠ []) | none => false
  let swapped : Bool := match jobStream j with | some n => decide ((streamOf s n).state = .swapped) | none => false
  if swapped then count 0x7412 2 1 (jmod j.tag (fun j => { j with phase := .held }) s)
  else if moving ∨ mustWait s j ∨ stillStopping s j.parts ∨ countsShort j.prog.cert (sectionCounts s false j.desc.lockstep (jobStream j) j.parts) then deferJob j.tag s
  else if (jobOf (takeStaging j.tag s) j.tag).any (fun i => i.staging.isEmpty && j.prog.tensors.any (fun e => e.2)) then deferJob j.tag s
  else
    let s := takeStaging j.tag s
    let j := (jobOf s j.tag).getD j
    let bound := bindInputs s j
    let j := if j.rerun then j else { j with prog := boundProgram s j bound }
    let s := writeViews j s
    let s := match jobStream j with | some n => storeRollback n s | none => s
    let (j, runs, s) := recomputeOutcome j s
    if !runs then finishJob j.tag stTier s
    else
      let tasks := placeTasks s j
      let j := resumeFrom (now s) { j with phase := .running, bound := bound, tasks := tasks, started := now s, copies := [] }
      let s := jmod j.tag (fun _ => j) s
      forEach (dedup (j.tasks.filterMap (fun t => t.tile))) (startOn j.tag) s

/-- Do the flash controller and the security engine work, which LOAD and STORE need (R19)? -/
def storeWorks (s : State) : Service → Bool
  | .load _ _ => works s 22 && works s 21
  | .store _ _ => works s 22 && works s 21
  | _ => true

/-- A service job reaches the start of its first reserved slot (R147, R150). One that the model store's domains do not serve does not start
(log 61). An EXPORT whose stream is no longer OPEN ends INTEGRITY_FAIL, and an IMPORT that finds fewer free tiles than BLOCKS does not start
and is placed anew: the spec says neither (log 62). -/
def startService (j : Job) (v : Service) (s : State) : State :=
  if !(storeWorks s v) then deferJob j.tag s
  else
  let go := jmod j.tag (fun j => { j with phase := .running, started := now s })
  match v with
  | .exportStream n _ _ =>
    let r := streamOf s n
    if r.state ≠ .open_ then finishJob j.tag stIntegrity s
    else if r.moving ≠ [] then deferJob j.tag s
    else
      let s := storeExport r.blocks (fun t => blockRows s t r.rows) s
      go (jmod j.tag (fun j => { j with targets := r.blocks, body := exportBody s r.blocks }) s)
  | .importStream n img part _ =>
    let p := if n = 0 then part else (streamOf s n).partition
    let blocks := if n = 0 then peekNat s (ownPhysical s img + 4) 2 else (streamOf s n).nblocks
    let ts := freeBlockTiles s p
    if ts.length < blocks then deferJob j.tag s
    else go (jmod j.tag (fun j => { j with targets := ts.take blocks, body := [] }) s)
  | .store t _ => go (jmod j.tag (fun j => { j with bound := [(t, (tensorOf s t).version)] }) s)
  | .migrateBasin t _ _ => go (jmod j.tag (fun j => { j with bound := [(t, (tensorOf s t).version)] }) s)
  | .migrateCistern t => go (jmod j.tag (fun j => { j with bound := [(t, (tensorOf s t).version)] }) s)
  | .migrateAquifer t _ _ => go (jmod j.tag (fun j => { j with bound := [(t, (tensorOf s t).version)] }) s)
  | _ => go s

/-- Bytes of the image that an IMPORT reads: a stream's, or what a header without one says (R146). -/
def importBytes (s : State) (n img : Nat) : Nat :=
  if n = 0 then imageSize (peekNat s (ownPhysical s img + 4) 2) (peekNat s (ownPhysical s img + 2) 1)
  else imageSize (streamOf s n).nblocks (streamOf s n).rows

/-- Bytes of an image written in the Cistern of the module at position m (R147). -/
def writeImage (m a : Nat) (bs : Bytes) (s : State) : State :=
  if m = position s then pokeCistern (ownPhysical s a) bs s else peerWrite m a bs s

/-- The part of an image body that an EXPORT moves by the end of `k` transfer slots (R146, R147). -/
def exportSome (k : Nat) (tag : BitVec 32) (s : State) : State :=
  match jobOf s tag with
  | none => s
  | some j => match j.service with
    | some (.exportStream n img m) =>
      let total := imageSize (streamOf s n).nblocks (streamOf s n).rows - 64
      let moved := total - j.body.length
      let part := j.body.take (1000000 * k - moved)
      if part = [] then s
      else jmod tag (fun j => { j with body := j.body.drop part.length }) (writeImage m (img + 64 + moved) part s)
    | _ => s

/-- The part of an image that an IMPORT has read by the end of `k` transfer slots; the whole of it stands in the export buffers (R150). -/
def importSome (k : Nat) (tag : BitVec 32) (s : State) : State :=
  match jobOf s tag with
  | none => s
  | some j => match j.service with
    | some (.importStream n img _ _) =>
      let b := importBytes s n img
      let part := peek s (ownPhysical s img + j.body.length) (min b (1000000 * k) - j.body.length)
      let body := j.body ++ part
      let per := (b - 64) / j.targets.length
      let s := jmod tag (fun j => { j with body := body }) s
      if body.length < b then s
      else storeExport j.targets (fun t => bytesRows (bytesAt body (64 + j.targets.idxOf t * per) per)) s
    | _ => s

/-- Transfers of a service job on a stream up to the boundary of slot `cur`: slots 2 to L - 1 move 1,000,000 B each (R146). -/
def serviceTransfer (cur : Nat) (tag : BitVec 32) (s : State) : State :=
  match (jobOf s tag).bind (fun j => j.runs.head?) with
  | some r =>
    let k := cur - (r.first + 1)
    if k = 0 then s else importSome k tag (exportSome k tag s)
  | none => s

/-- A job reaches the start of its first reserved slot. -/
def startJob (tag : BitVec 32) (s : State) : State :=
  match jobOf s tag with
  | none => s
  | some j => match j.service with
    | some v => startService j v s
    | none => startPlain j s

/-! ## Pre-emption (R265-R272) -/

/-- Is a reserve entry needed for the tiles held, or in a bank being copied (R272)? -/
def reserveBusy (s : State) (j : Job) : Bool :=
  (jobTiles j).any (fun t => s.reserve.any (fun e => e.1 == t) || (clusterOf s (clusterOfTile t)).copying)

/-- Posted descriptors of tile t that have not started. -/
def unstarted (s : State) (tag : BitVec 32) (t : Nat) : List Posted :=
  (s.channels.map (fun e => ((if e.2.running then e.2.posted.drop 1 else e.2.posted).filter
    (fun p => ofJob tag p && p.tile == t)))).flatten

/-- The save slot opens (R269): issue stops, waits are abandoned, unstarted descriptors stand in the records with the tile state; else the
kill of R272. The tile-SRAM images are written when the channels have stopped and are fenced (`endSave`). -/
def saveJob (tag : BitVec 32) (s : State) : State :=
  match jobOf s tag with
  | none => s
  | some j =>
    if reserveBusy s j then count 0x7416 4 1 (killJob tag s)
    else
      let ts := jobTiles j
      let s := forEach ts abandonWait s
      let recs := ts.map (fun t => (t, ({ tag := tag, tile := tileOf s t, posted := unstarted s tag t } : SaveRecord)))
      let s := stopChannels tag id { s with
        reserve := s.reserve ++ recs, power := { s.power with prearm := s.power.prearm.filter (fun e => e.1 ≠ tag) } }
      jmod tag (fun j => { pauseJob s j with phase := .saving }) s

/-- Tiles of a job's partitions, in the order of the pre-emption image (R268). -/
def imageTiles (s : State) (j : Job) : List Nat := (j.parts.map (partTiles s)).flatten

/-- Bytes of a save record (R266). The order of the values in its 64 bytes at 0xe580 is the model's (log 90). -/
def saveRecordBytes (r : SaveRecord) : Bytes :=
  let t := r.tile
  let wbuf (w : WBuf) : Bytes := (List.range 2048).map (tblGet 0 w.data) ++ (List.range 64).map (tblGet 0 w.scales) ++ zeros 64
  let slot (i : Nat) : AgSlot := tblGet {} t.slots i
  ((List.range 8192).map (fun i => leBytes 6 (tblGet 0 t.acc i).toNat)).flatten ++ wbuf t.w0 ++ wbuf t.w1 ++
  ((List.range 1024).map (fun i => leBytes 4 (tblGet 0 t.v i).toNat)).flatten ++
  ((List.range 16).map (fun i => padTo 64 (slot i).image)).flatten ++ ((List.range 16).map (fun i => leBytes 8 (slot i).pos)).flatten ++
  padTo 64 (leBytes 8 t.pc ++ ((List.range 4).map (fun i => leBytes 8 (tblGet 0 t.loops i))).flatten ++
    leBytes 8 (t.zimm.toNat + 2 ^ 16 * t.zslot.toNat) ++ leBytes 8 (Config.abandonedWord (r.posted.map (fun p => p.desc))).toNat) ++
  zeros 2624

/-- Where the save record of tile t lies in the pre-emption reserve, and its bytes (R267). -/
def recordBase (t : Nat) : Nat := clusterBase (clusterOfTile t) + reserveOff + 0xf000 * (t % 8)
def recordSpan : Nat := 0xf000

/-- The save record of tile t in the pre-emption reserve (R267). -/
def pokeRecord (t : Nat) (r : SaveRecord) (s : State) : State := poke (recordBase t) (saveRecordBytes r) s

/-! ## Overrun (R67) -/

/-- The last run of a job that has ended by the boundary of slot `cur`, where no run of it holds that slot (R67, R270). -/
def endedRun (cur : Nat) (j : Job) : Option Run :=
  if j.runs.any (fun r => runHas r cur) then none else (j.runs.filter (fun r => decide (runEnd r ≤ cur))).getLast?

/-- A job still running at the end of a run: the run is extended one slot, or the job stopped BUDGET_EXCEEDED. -/
def overrunJob (cur : Nat) (tag : BitVec 32) (s : State) : State :=
  match jobOf s tag with
  | none => s
  | some j => match endedRun cur j with
    | none => s
    | some last =>
      let taken := (otherLoads s (some tag)).any (fun l => l.runs.any (fun r => runHas r cur) &&
        l.parts.any (fun p => j.parts.any (fun q => partsOverlap s p q)))
      if taken then finishJob tag stBudget s
      else jmod tag (fun j => { j with
        runs := j.runs.map (fun r => if r = last then { r with len := cur + 1 - r.first } else r),
        extended := j.extended + 1 }) s

/-! ## Re-plan (R72, R418) -/

/-- A frame about a job to the session of R477, dropped and counted where there is none. -/
def notifyAbout (j : Job) (code : Nat) (data : Bytes) (s : State) : State :=
  match jobSession s j.session j.sgen (queueClient s j.q) code with
  | some k => notify k { code := code, stamp := stamp s, data := data, job := some j.tag } s
  | none => count 0x741e 8 1 s

/-- The job is reported at risk, once (R72). -/
def reportRisk (j : Job) (s : State) : State :=
  notifyAbout j 3 (leBytes 4 j.tag.toNat) (setEvent 7 (count 0x7411 2 1 (jmod j.tag (fun j => { j with atRisk := true, risk := true }) s)))

/-- A running service job gives up its targets and what it has moved, to start again at its new slot 1 (R150). -/
def restartService (j : Job) (s : State) : State :=
  if j.service.isSome ∧ j.phase = .running then
    jmod j.tag (fun j => { j with phase := .waiting, targets := [], body := [] }) (wipeExport j.targets s)
  else s

/-- The job takes new runs; DUE_REVISED where its due time moved, or where it was at risk and has its promise again (R72, R256). -/
def takeRuns (j : Job) (rs : List Run) (len : Nat) (s : State) : State :=
  let s := jmod j.tag (fun i => { i with
    runs := rs, len := len, due := runsEnd rs, replan := false, risk := false, revised := j.revised || decide (runsEnd rs ≠ j.due),
    phase := if i.phase = .held then .waiting else i.phase }) (restartService j s)
  if runsEnd rs ≠ j.due ∨ j.risk then
    notifyAbout j 2 (leBytes 4 j.tag.toNat ++ leBytes 4 (stampOf (runsEnd rs * slotNs)).toNat) s else s

/-- The slots of runs that remain from slot `cur` on. -/
def runsFrom (cur : Nat) (rs : List Run) : List Run :=
  (rs.filter (fun r => decide (cur < runEnd r))).map (fun r => if r.first < cur then ⟨cur, runEnd r - cur⟩ else r)

/-- The runs of a job that have not begun by the boundary of slot `cur`. -/
def restRuns (cur : Nat) (j : Job) : List Run := j.runs.filter (fun r => decide (cur ≤ r.first))

/-- Slots, charge per slot and whether a partition is short, of a job placed anew (R57, R58). A job in its gap is placed for the slots it
has left, and those that the shrink adds (R271). -/
def replanNeeds (s : State) (cur : Nat) (j : Job) : Nat × Charge × Bool :=
  match j.service with
  | some v =>
    let n := serviceNeeds s v
    (n.1, n.2.1, n.2.2.any (fun p => ((partTiles s p).filter (tileHealthy s)).isEmpty))
  | none =>
    let ns := sectionCounts s false j.desc.lockstep (jobStream j) j.parts
    let len := jobSlots s j.prog.cert ns
    (if j.phase = .gap then slotsOf (restRuns cur j) + (len - j.len) else len, certCharge s j.prog.cert, countsShort j.prog.cert ns)

/-- The slots of runs before the first, from slot `cur` on, that a job placed by now holds on a partition of the job (R72). -/
def runsLeft (s : State) (cur : Nat) (j : Job) (rs : List Run) : List Run :=
  let others := openLoads s (some j.tag)
  let taken (k : Nat) : Bool := decide (cur ≤ k) && others.any (fun l => l.runs.any (fun r => runHas r k) &&
    l.parts.any (fun p => j.parts.any (fun q => partsOverlap s p q)))
  (rs.map (fun r => ⟨r.first, ((List.range r.len).takeWhile (fun i => !(taken (r.first + i)))).length⟩)).filter (fun r => decide (0 < r.len))

/-- A job that a re-plan does not place by its DEADLINE: a failed one ends (R418). Another is at risk: it keeps the slots that remain, those of
its runs that no job placed by now holds; where none does it takes the earliest fit, its DEADLINE left aside, since it runs on and R63
applies to it, and where there is none it is tried again at the next boundary (R72; log 26). A service job chooses its targets again at a
new slot 1 (R150). -/
def keepAtRisk (cur : Nat) (j : Job) (w : Want) (s : State) : State :=
  if j.failed then finishJob j.tag stIntegrity s
  else
    let again := j.service.isSome && j.phase == .running
    let s := restartService j s
    let rest := if again then [] else runsLeft s cur j (if attempting j then j.runs else runsFrom cur j.runs)
    let rs := if rest ≠ [] then rest
      else match singleFit s cur (openLoads s (some j.tag)) w with
        | some k => [⟨k, w.len⟩]
        | none => []
    let s := if j.risk ∧ j.runs = [] then s else reportRisk j s
    jmod j.tag (fun j => { j with runs := rs, replan := decide (rs = []), phase := if j.phase = .held then .waiting else j.phase }) s

/-- Re-plans one job at the boundary of slot `cur`, in progress or not: all its slots anew from the later of its old start and the
boundary (R72). -/
def replanJob (cur : Nat) (tag : BitVec 32) (s : State) : State :=
  match jobOf s tag with
  | none => s
  | some j =>
    let needs := replanNeeds s cur j
    let before := s.sluice.jobs.takeWhile (fun i => i.tag ≠ tag)
    let order := afterJobs (before.filter (fun i =>
      (jobStream j).isSome && jobStream i == jobStream j || i.uses.any (fun u => j.uses.any (fun v => v.seq = u.seq))))
    let w : Want :=
      { load := { jobLoad j with charge := needs.2.1 }, len := needs.1,
        first := max (max ((runsFirst (if j.phase = .gap then restRuns cur j else j.runs)).getD cur) cur) order, deadline := j.deadline,
        split := j.service.isNone && j.phase != .gap && splittable s j.desc j.parts }
    let heapOk := j.preimage.isSome || (heapAlloc s (imageBytesPerCluster * j.parts.length)).isSome
    let r : Placed × State := if needs.2.2 then (.none 0 none, s) else place s cur (some tag) w heapOk
    match r.1 with
    | .none _ _ => keepAtRisk cur j { w with len := if needs.2.2 then horizonSlots + 1 else w.len } r.2
    | .runs rs =>
      let s := jmod tag (fun j => { j with charge := needs.2.1 }) r.2
      let s := if 1 < rs.length ∧ j.preimage.isNone then
          jmod tag (fun j => { j with preimage := heapAlloc s (imageBytesPerCluster * j.parts.length) }) s else s
      let s := if j.failed then count 0x741d 6 1 (jmod tag (fun j => { j with
          failed := false, retried := true, rerun := true, attempts := j.attempts + 1 }) s) else s
      takeRuns j rs needs.1 s

/-- Arbitration order of jobs to re-plan: running first, then class, queue, order of acceptance (R60, R72). -/
def replanOrder (s : State) : List Job :=
  sortBy (fun a b =>
    let k (j : Job) : Nat := (if attempting j then 0 else 1) * 2 ^ 20 + queueClass s j.q * 2 ^ 16 + j.q
    decide (k a ≤ k b)) (s.sluice.jobs.filter (fun j => j.replan && !(hasCommitted j)))

/-! ## Effects of service jobs -/

/-- An image in own Cistern checked for FILL and LOAD (R255): header, every block decodes, the last one padded with
zeros, SIZE and KIND as the descriptor's, a program's header well formed. -/
def imageOk (t : Tensor) (rd : Nat → Nat → Bytes) : Option ImageHdr :=
  match imageHdr rd with
  | none => none
  | some h =>
    if h.size = t.size ∧ h.program = t.kind then
      match imageBytes rd h.compressed h.codes h.size h.stored with
      | none => none
      | some b => if !(blockTableOk rd h.compressed h.size) ∨ !(paddingOk rd h) ∨ (h.program ∧ !(programHeaderOk b)) then none else some h
    else none

def objectOf (s : State) (o : Nat) : Option StoreObject := (s.dir.store.find? (fun e => e.1 = o)).map (fun e => e.2)

/-- Subchannel of a poisoned line that the source of a service job meets in own Cistern (R228): what an IMPORT reads by the end of `k`
transfer slots, the image of a FILL, that of the tensor of a STORE or of a MIGRATE. -/
def servicePoison (s : State) (k : Nat) (j : Job) (v : Service) : Option Nat :=
  let home (t : Nat) : Option Nat := (versionAddr s t (tensorOf s t).version).bind (fun a => poisonIn s a (tensorOf s t).stored)
  match v with
  | .importStream n img _ _ => 
    poisonIn s (ownPhysical s img + j.body.length) (min (importBytes s n img) (1000000 * k) - j.body.length)
  | .fill _ a => poisonIn s (ownPhysical s a) (peekNat s (ownPhysical s a + 12) 4)
  | .store t _ => home t
  | .migrateBasin t _ _ => home t
  | .migrateAquifer t _ _ => home t
  | _ => none

/-- The stream side of a service job's commit instant; the status it then has. An EXPORT whose stream is no longer OPEN and an IMPORT whose
stream is no longer SWAPPED end INTEGRITY_FAIL, and an IMPORT with HANDLE 0 that finds no free number ends INPUT_REJECTED without a count:
the spec names no status for them (log 62). -/
def commitStream (j : Job) (v : Service) (s : State) : BitVec 8 × State :=
  match v with
  | .exportStream n img target =>
    let r := streamOf s n
    if r.state ≠ .open_ then (stIntegrity, s)
    else
      let head := imageHead s n (stamp s) (exportBody s j.targets)
      let s := writeImage target img head (exportSome j.len j.tag s)
      let chunks := (chunksOfStream s n).filter (fun c => !(hasCommitted c))
      let s := releaseBlocks n (wipeExport j.targets s)
      let s := count 0x7412 5 1 s
      if target = position s then (stDone, streamMod n (fun x => { x with state := .swapped }) s)
      else
        let s := streamMod n (fun x => { x with state := .moved, target := target }) s
        (stDone, forEach chunks (fun c s => count 0x7412 1 1 (finishJob c.tag stMoved s)) s)
  | .importStream n _ part q =>
    if n ≠ 0 ∧ (streamOf s n).state ≠ .swapped then (stIntegrity, s)
    else
    let s := importSome j.len j.tag s
    let body := ((jobOf s j.tag).map (fun j => j.body)).getD []
    match parseImage (fun off k => padTo k (bytesAt body off k)) with
    | none => (stInput, count 0x7412 7 1 s)
    | some i =>
      let r := streamOf s n
      if n ≠ 0 ∧ (i.rows ≠ r.rows ∨ i.blocks ≠ r.nblocks) then (stInput, count 0x7412 7 1 s)
      else if j.targets.length < i.blocks then (stInput, count 0x7412 7 1 s)
      else
        let num := if n ≠ 0 then some n else (List.range 4096).find? (fun k => decide (1 ≤ k) && (streamOf s k).state == .free)
        match num with
        | none => (stInput, s)
        | some k =>
          let s := forEach (j.targets.zip i.body) (fun b => loadBlock b.1 b.2) s
          let s := streamMod k (fun x => { x with
            state := .open_, partition := if n = 0 then part else x.partition, queue := if n = 0 then q else x.queue,
            rows := i.rows, nblocks := i.blocks, blocks := j.targets.take i.blocks, chunks := i.chunks, target := 0, moving := [] }) s
          let s := count 0x7412 6 1 (wipeExport j.targets s)
          (stDone, callReplan (fun c => jobStream c == some k && c.phase == .held) s)
  | .load t o =>
    match objectOf s o with
    | none => (stInput, count 0x7415 9 1 s)
    | some x =>
      match imageOk (tensorOf s t) (fun off k => bytesAt x.image off k) with
      | some _ => if sha512 x.image = x.digest then (stDone, s) else (stInput, count 0x7415 9 1 s)
      | none => (stInput, count 0x7415 9 1 s)
  | .fill t a => match imageOk (tensorOf s t) (fun off k => peek s (ownPhysical s a + off) k) with
    | some _ => (stDone, s)
    | none => (stInput, s)
  | _ => (stDone, s)

/-- The tensor of a service job was freed while it waited (log 43). -/
def orphaned (s : State) (v : Service) : Bool :=
  match serviceTensor v with
  | some t => (tensorOf s t).state == TState.free
  | none => false

/-- The publish step of a service job on a tensor (R232, R234, R244). -/
def publishService (j : Job) (v : Service) (s : State) : State :=
  let home := (j.staging.head?).map (fun x => x.2.addr)
  if orphaned s v then s
  else match v with
  | .load t o => match objectOf s o, home with
    | some x, some a => match imageHdr (fun off k => bytesAt x.image off k) with
      | some h => newVersion t a h.stored h.compressed h.codes (some o) (pokeCistern a x.image s)
      | none => s
    | _, _ => s
  | .fill t src => match home with
    | some a => match imageHdr (fun off k => peek s (ownPhysical s src + off) k) with
      | some h => newVersion t a h.stored h.compressed h.codes none (copyCistern (ownPhysical s src) a h.stored s)
      | none => s
    | none => s
  | .store t o =>
    if !(storeWorks s v) then s
    else
    let x := tensorOf s t
    let image := homeRead s x 0 x.stored
    let ob : StoreObject := ⟨x.kind, x.size, x.stored, stamp s, sha512 image, image⟩
    { s with dir := { s.dir with store := (o, ob) :: s.dir.store.filter (fun e => e.1 ≠ o) } }
  | .migrateBasin t mask off =>
    let x := tensorOf s t
    match tensorBytes s x with
    | some b => tensorMod t (fun x => { x with home := .basin, clusters := mask, offset := off })
        (forEach (bitsOf 64 mask.toNat) (fun k => poke (clusterBase k + off) b) s)
    | none => s
  | .migrateCistern t =>
    let x := tensorOf s t
    if x.home = .basin then reapReplicas (tensorMod t (fun x => { x with home := .cistern }) s)
    else match home with
      | some a =>
        let s := pokeCistern a (homeRead s x 0 x.stored) (retireHome t s)
        tensorMod t (fun x => { x with home := .cistern, peer := 0, addr := a, remote := [] }) s
      | none => s
  | .migrateAquifer t m a =>
    let x := tensorOf s t
    let image := homeRead s x 0 x.stored
    tensorMod t (fun x => { x with home := .aquifer, peer := m, addr := a, clusters := 0, offset := 0, remote := image }) (retireHome t s)
  | _ => s

/-! ## Publish of a job's outputs (R62, R236) -/

/-- A staged output becomes the tensor's new version, stored by its CODES and COMPRESSED (R236, R239). -/
def publishOutput (o : Nat × Extent) (s : State) : State :=
  let t := tensorOf s o.1
  if t.state = .free then s
  else
    let raw := peek s (o.2.addr + dataOff t.size) t.size
    let image := buildImage t.layout false t.compressed t.codes raw t.size
    newVersion o.1 o.2.addr image.length t.compressed t.codes none (pokeCistern o.2.addr image s)

/-- Outputs of a job published together; the staging tails return to the heap (R62, R236). -/
def publishOutputs (j : Job) (s : State) : State :=
  jmod j.tag (fun j => { j with staging := [] }) (forEach j.staging publishOutput s)

end Sys2Proof.Machine
end

