-- ==== Sys2Proof/Machine/Units.lean ====
section
/-!
DEFINITION. Sys2Proof/Machine/Units.lean: closing sessions (R469), the clock's state machine (R366, R372), tier faults and path
switches (R246-R248), fabric ports going down (R57, R246), failure events, their classification and retirement (R256, R257,
R416-R424, R153).
-/

namespace Sys2Proof.Machine

/-! ## Sessions close (R469) -/

/-- An update owned by the session is aborted (R453, R469). -/
def dropUpdate (k : Nat) (s : State) : State :=
  if s.boot.update.owner = some (k, (sess s k).gen) then { s with boot := { s.boot with update := {} } } else s

/-- The session in slot k closes: its queue, transfer and snapshots go and its generation increments (R465, R469). -/
def closeSession (k : Nat) (s : State) : State :=
  if (sess s k).open_ then smod k (fun e => { gen := e.gen + 1 }) (dropUpdate k s) else s

/-- Sessions on T1 port x. -/
def portSessions (s : State) (x : Nat) : List Nat := (openSlots s).filter (fun k => (sess s k).port.val = x)

def closePortSessions (x : Nat) (s : State) : State := forEach (portSessions s x) closeSession s

/-! ## Launch queues (R380) -/

/-- The launch queue of port x emptied, each frame counted at 0x741b:04; what it held back may start. -/
def dropLaunches (x : Nat) (s : State) : State :=
  releaseT1 x (t1mod x (fun p => { p with launch := [] }) (count 0x741b 4 (t1Of s x).launch.length s))

/-- The Pump groups whose PORT names port x, in use or not (R345, R376). -/
def groupsOn (s : State) (x : Nat) : List Nat := (List.range 8).filter (fun g => cfg s (0x5410 + g) 4 == x)

/-! ## The clock state machine (R366, R372) -/

def timeCode : TimeState → BitVec 8
  | .freeRun => 0 | .locking => 1 | .locked => 2 | .holdover => 3 | .grandmaster => 4

/-- TIME_STATE: the state and the last measured offset (R366, R476). -/
def timeNotice (s : State) : State :=
  notifySubs 0x30 ([timeCode s.clock.state] ++ zeros 7 ++ leBytes 8 s.as_.offset.toNat) s

/-- STATE of the clock changes (R366). -/
def setTime (st : TimeState) (s : State) : State :=
  if s.clock.state = st then s else timeNotice { s with clock := { s.clock with state := st } }

def setRate (r : Int) (s : State) : State := setCfg 0x3400 2 (leBytes 4 (wrapInt 32 r)) s

/-- The mean of the RATE values held; a fraction rounds freely (log 12). -/
def meanRate (s : State) : Int × State :=
  let n : Nat := s.as_.rates.length
  let sum : Int := s.as_.rates.foldl (· + ·) 0
  let (f, s) := freshNat s
  if n = 0 then (rate s, s) else (sum / (n : Int) + (if sum % (n : Int) = 0 then 0 else ((f % 2 : Nat) : Int)), s)

/-- Entry into HOLDOVER from LOCKING or LOCKED, RATE frozen; from GRANDMASTER RATE is kept (R372, R482; log 12). -/
def holdover (s : State) : State :=
  let s := if s.clock.state = .locking ∨ s.clock.state = .locked then
      let (r, s) := meanRate s
      setRate r s
    else s
  setTime .holdover (setEvent 3 (count 0x741b 5 1 { s with as_ := { s.as_ with rates := [], good := 0, slave := none } }))

/-- Is the clock following a grandmaster? -/
def following (s : State) : Bool := s.clock.state == .locking || s.clock.state == .locked

/-- Does T1 port x take part in 802.1AS (R370, R371)? -/
def asPort (s : State) (x : Nat) : Bool := s.as_.running && (cfg s 0x3410 2).testBit x && t1Up s x

/-- ROLES of port x: 0 disabled, 1 slave, 2 master. -/
def asRole (s : State) (x : Nat) : Nat := cfg s 0x3410 6 / 4 ^ x % 4

/-- Is x the slave port: by ROLES in MODE 2, in MODE 1 the port toward the grandmaster that the BMCA has selected (R370)? -/
def isSlavePort (s : State) (x : Nat) : Bool :=
  asPort s x && (if cfg s 0x3410 1 = 2 then asRole s x == 1 else s.as_.slave == some x)

/-- What the BMCA holds of port x is forgotten (R370). -/
def forgetAnnounce (x : Nat) (s : State) : State := { s with as_ := { s.as_ with heard := s.as_.heard.filter (fun e => e.1 ≠ x) } }

/-- A port goes down: the clock loses its grandmaster where it is the slave port (R372). -/
def slaveDown (x : Nat) (s : State) : State := forgetAnnounce x (if following s ∧ isSlavePort s x then holdover s else s)

/-! ## Cheaper paths (R247, R248) -/

/-- Plane on which an entry's miss or fault counts now: the present one, or the one left in this tile cycle (R247). -/
def eventPlane (s : State) (j : Job) (e : SchedEntry) : Option Nat :=
  if e.plane = j.path then some j.path
  else j.switched.bind (fun w => if w.at_ = jobTimeNow s j ∧ e.plane = w.plane then some w.plane else none)

/-- The path that a miss or fault of an entry allows on plane c (R247). -/
def pathFor (j : Job) (c : Nat) (e : SchedEntry) : Option Nat :=
  if c < e.path ∧ j.desc.pathAllow.getLsbD e.path ∧ j.prog.cert.paths.getLsbD e.path then some e.path else none

/-- Outstanding requests of a job's copies. -/
def ofCopies (tag : BitVec 32) (r : RoceReq) : Bool := match r.owner with | .job g (some _) => g == tag | _ => false

/-- The tasks of a job go on at path k's entries, their waits abandoned; copies of the plane left are dropped, tile state, bindings and
staging are kept (R248). -/
def movePath (tag : BitVec 32) (k : Nat) (s : State) : State :=
  let s := jmod tag (fun j => { j with path := k, masked := false, copies := [] }) (dropReqs (ofCopies tag) s)
  match jobOf s tag with
  | none => s
  | some j => forEach (dedup (j.tasks.filterMap (fun x => x.tile))) (fun b s => match firstOn j b with
    | none => s
    | some i => forEach (if j.desc.lockstep then [b, b + 1] else [b]) (fun t s => tmod t (fun tl => { tl with pc := entryPc j i }) (abandonWait t s)) s) s

/-- The switch to path k (R248). -/
def switchPath (tag : BitVec 32) (k : Nat) (s : State) : State :=
  movePath tag k (count 0x7415 3 1 (jmod tag (fun j => { j with switched := some ⟨jobTimeNow s j, j.path, j.copies⟩ }) s))

/-- Copies of a plane with an entry's miss or fault marked: it counts once. -/
def markFault (entry : Nat) (cs : List CopyRun) : List CopyRun :=
  cs.filter (fun c => c.entry ≠ entry) ++ [{ entry := entry, faulted := true }]

/-- A miss or fault of an entry: switch or fail. Of several in one tile cycle any that fails the test ends the job, else the lowest path
among them is taken (R247). -/
def pathEvent (tag : BitVec 32) (entry : Nat) (s : State) : State :=
  match jobOf s tag with
  | none => s
  | some j => match (j.prog.sched[entry]?).bind (fun e => (eventPlane s j e).map (fun c => (e, c))) with
    | none => s
    | some (e, c) =>
      let s := jmod tag (fun j => if c = j.path then { j with copies := markFault entry j.copies }
        else { j with switched := j.switched.map (fun w => { w with copies := markFault entry w.copies }) }) s
      match pathFor j c e with
      | none => finishJob tag stTier s
      | some k => if c = j.path then switchPath tag k s else if k < j.path then movePath tag k s else s

/-- Tensor index of a schedule entry. -/
def entryTensor (j : Job) (entry : Nat) : Option Nat :=
  (j.prog.sched[entry]?).bind (fun e => (j.prog.tensors[e.tensor]?).map (fun x => x.1))

/-- A tier fault of an entry (R246): counted, the tensor damaged where its current version is at fault, then R247. -/
def tierFaultAt (tag : BitVec 32) (entry : Nat) (kind : TierFaultKind) (s : State) : State :=
  match jobOf s tag with
  | none => s
  | some j =>
    let s := setEvent 9 (count 0x7415 2 1 s)
    let s := match kind with
      | .uncorrectable => count 0x7415 4 1 s
      | .decompression => count 0x7415 6 1 s
      | .damagedTensor => s
      | .aquiferPort => count 0x7415 7 1 s
      | .headerMismatch => count 0x7415 8 1 s
    let damages := kind != .damagedTensor && kind != .aquiferPort
    let s := match entryTensor j entry with
      | some i => if damages && boundVersion j i == some (tensorOf s i).version then damageTensor i s else s
      | none => s
    pathEvent tag entry s

/-- Is the entry one of the copies, in flight? -/
def flying (copies : List CopyRun) (entry : Nat) : Bool := copies.any (fun c => c.entry == entry && !c.arrived && !c.faulted)

/-- Is the entry a copy in flight of the job's present plane? -/
def inFlight (j : Job) (entry : Nat) : Bool := flying j.copies entry

/-- The same, or one in flight when the job left its plane in this tile cycle (R247). -/
def inFlightNow (s : State) (j : Job) (entry : Nat) : Bool :=
  inFlight j entry || j.switched.any (fun w => w.at_ == jobTimeNow s j && flying w.copies entry)

/-! ## Fabric ports down -/

/-- Copies in flight that come through port p: of a version whose home lies with a peer there (R246). -/
def copiesThrough (s : State) (p : Nat) : List (BitVec 32 × Nat) :=
  (s.sluice.jobs.map (fun j => (j.copies.filter (fun c => !c.arrived && !c.faulted &&
    (match entryTensor j c.entry with
     | some i => (remoteHome s i ((boundVersion j i).getD (tensorOf s i).version)).any (fun h => portToward s h.1 == some p)
     | none => false))).map (fun c => (j.tag, c.entry)))).flatten

/-- Does the request outlive its port: a service job's or a fence's stays unanswered until its transport fault (R62, R250)? -/
def outlivesPort (r : RoceReq) : Bool := match r.owner with | .job _ none => true | .channel _ => true | _ => false

/-- Has the job a charge on fabric port p? -/
def chargesPort (p : Nat) (j : Job) : Bool := decide (0 < nth 0 j.charge.fabIn p) || decide (0 < nth 0 j.charge.fabOut p)

/-- Port p leaves service in state `st`: its peers go down, copies through it are tier faults, its ledger is 0 (R57, R246). Its retirement
(state 5) re-plans the jobs with a charge on it; a link that goes down or a stop is no declared fault (R71). -/
def fabricOut (p : Nat) (st : BitVec 8) (s : State) : State :=
  let hit := copiesThrough s p
  let s := fabmod p (fun f => { f with
    state := st, peersUp := [], reqs := f.reqs.filter outlivesPort, paused := 0, held := [], rx := 0, xoff := false }) s
  let s := hit.foldl (fun s c => match jobOf s c.1 with
    | some j => if inFlight j c.2 then tierFaultAt c.1 c.2 .aquiferPort s else s
    | none => s) s
  if st = 5 then callReplan (chargesPort p) s else s

/-! ## Retirement (R153, R256, R257, R385, R420, R421) -/

/-- Streams with a block on tile t, and the block's number. -/
def blocksOn (s : State) (t : Nat) : List (Nat × Nat) :=
  (s.streams.recs.map (fun e => if e.2.state = .open_ then
    (e.2.blocks.zipIdx.filter (fun b => b.1 = t)).map (fun b => (e.1, b.2)) else [])).flatten

/-- Has a chunk of stream n an attempt in progress, one in its gap among them? Its blocks then come from the rollback image (R153). -/
def chunkRuns (s : State) (n : Nat) : Bool := (chunksOfStream s n).any attempting

/-- Block b of stream n stands on a tile that retires (R142, R153): it awaits a spare, or the stream is LOST. A spare that retires before
its block has moved gives the block back to the tile that still holds it. `running` are the streams with a chunk in progress. -/
def blockRetire (running : List Nat) (t n b : Nat) (s : State) : State :=
  if (streamOf s n).state ≠ .open_ then s
  else if (freeBlockTiles s (streamOf s n).partition).isEmpty then loseStream n stIntegrity s
  else callReplan (fun j => jobStream j == some n) (streamMod n (fun r =>
    match r.moving.find? (fun m => m.block = b) with
    | some m => if m.old = t then r else { r with blocks := setAt r.blocks b m.old }
    | none => { r with moving := r.moving ++ [⟨b, t, decide (n ∈ running)⟩] }) s)

/-- Tiles that retire: attempts on them are killed and their stream blocks relocate, or their stream is LOST (R142, R153). -/
def tilesRetire (ts : List Nat) (s : State) : State :=
  let running := (s.streams.recs.map (fun e => e.1)).filter (chunkRuns s)
  let s := tilesLost ts (abandonTests ts s)
  let s := { s with island := { s.island with suspects := s.island.suspects.filter (fun x => x.subject ∉ ts) } }
  forEach ts (fun t s => forEach (blocksOn s t) (fun b s => blockRetire running t b.1 b.2 s) s) s

/-- Spares taken at the re-plan boundary for blocks that await relocation (R153). -/
def assignSpares (s : State) : State :=
  forEach (s.streams.recs.map (fun e => e.1)) (fun n s =>
    forEach (streamOf s n).moving (fun m s =>
      if (streamOf s n).state = .open_ ∧ (streamOf s n).blocks[m.block]? = some m.old then
        match (freeBlockTiles s (streamOf s n).partition).head? with
        | some t => callReplan (fun j => jobOnTiles s [t] j && j.phase == .waiting)
            (streamMod n (fun r => { r with blocks := setAt r.blocks m.block t }) s)
        | none => loseStream n stIntegrity s
      else s) s) s

/-- Replicas on a cluster without a healthy tile are dropped (R257). -/
def dropDeadReplicas (k : Nat) (s : State) : State :=
  if (clusterTiles k).all (tileRetired s) then dropReplicas k s else s

/-- Both halves of a port's lanes hold a retired lane (R385). -/
def bothHalves (lanes : BitVec 8) : Bool := lanes &&& 0x0f != 0 && lanes &&& 0xf0 != 0

/-- A fabric lane retires (R385). -/
def laneRetire (p lane : Nat) (s : State) : State :=
  let s := fabmod p (fun f => { f with lanes := f.lanes ||| BitVec.ofNat 8 (2 ^ lane) }) s
  if bothHalves (fabOf s p).lanes then fabricOut p 5 s
  else if fabricUp s p then
    count 0x741b 0x0d 1 (callReplan (chargesPort p)
      (fabmod p (fun f => { f with state := if f.state = 4 then 4 else 3, four := true }) s))
  else s

/-- A cluster-SRAM bank retires (R257): the first is copied to the spare; a second takes the cluster's 8 tiles. -/
def bankRetire (k bank : Nat) (s : State) : State :=
  let c := clusterOf s k
  let all (s : State) : State :=
    dropDeadReplicas k (tilesRetire (clusterTiles k) (cmod k (fun c => { c with lost := true, copying := false }) s))
  if bank = 32 then
    if c.spareFor.isSome then all s else cmod k (fun c => { c with spareLost := true }) s
  else if c.spareFor.isNone ∧ !c.spareLost then
    tilesLost (clusterTiles k) (count 0x7415 0x0d 1 (cmod k (fun c => { c with spareFor := some bank, copying := true }) s))
  else all s

/-- A T1 port retires (R420): stopped, sessions closed; safe state where a Pump group names it. -/
def t1Retire (x : Nat) (u : BitVec 32) (s : State) : State :=
  let s := closePortSessions x (dropLaunches x (slaveDown x s))
  let s := t1mod x (fun p => { p with running := false, link := 0, retired := true, waiting := [] }) s
  if groupsOn s x = [] then s else enterSafe 9 u false s

/-- The further effects of a retirement by KIND (R420). -/
def retireEffect (u : BitVec 32) (s : State) : State :=
  let i := unitIndex u
  match unitKind u with
  | 1 => dropDeadReplicas (clusterOfTile i) (tilesRetire [i] s)
  | 2 => dropDeadReplicas (clusterOfTile (i / 16)) (tilesRetire [i / 16] s)
  | 3 => bankRetire (i / 64) (i % 64) s
  | 4 => callReplan (fun j => decide (0 < j.charge.cis)) (count 0x7415 0x0c 1 { s with dir := { s.dir with sub := tblSet 0 s.dir.sub i 1 } })
  | 5 => laneRetire (i / 8) (i % 8) s
  | 6 => fabricOut i 5 s
  | 7 => t1Retire i u s
  | _ => s

/-- The retirement table's entry of unit u, which stands in flash within 10 ms; with the table full there is none, and the device enters
safe state (R421). -/
def enterTable (u : BitVec 32) (s : State) : State :=
  if 512 ≤ s.island.retired.length then enterSafe 9 u true { s with island := { s.island with extra := s.island.extra ++ [u] } }
  else { s with island := { s.island with retired := s.island.retired ++ [(u, stamp s)], recent := s.island.recent ++ [(u, now s)] } }

/-- A unit retires (R420, R421). -/
def retireUnit (u : BitVec 32) (s : State) : State :=
  if isRetired s u then s
  else if unitKind u = 4 ∧ s.dir.sub ≠ [] then enterSafe 9 u true s
  else retireEffect u (setEvent 1 <| count 0x741d 0x0b 1 (notifySubs 0x21 (leBytes 4 u.toNat) (enterTable u s)))

/-! ## Failure events (R416-R419, R424) -/

/-- The jobs-completed values at a unit's earlier events, newest first. -/
def unitHistory (s : State) (u : BitVec 32) : List Nat := ((s.island.history.find? (fun e => e.1 = u)).map (fun e => e.2)).getD []

/-- Is the unit's present event permanent by count (R419)? `h` holds its events, this one first. -/
def permanentByCount (h : List Nat) : Bool :=
  match h with
  | a :: _ :: c :: _ => decide (a - c ≤ 1000000)
  | _ => false

/-- An uncorrectable read of a tile's accumulators (R415, R417) makes the stream LOST whose block the tile holds, where the word lies in
the block (R142); the event names no word, so whether it does is free (log 27). -/
def blockError (u : BitVec 32) (cause : EventCause) (s : State) : State :=
  if cause = .uncorrectable ∧ unitKind u = 1 ∧ blocksOn s (unitIndex u) ≠ [] then
    let (n, s) := freshNat s
    if n % 2 = 0 then s else forEach (blocksOn s (unitIndex u)) (fun b => loseStream b.1 stIntegrity) s
  else s

/-- The re-test of an uncorrectable SRAM word is due: where it failed a job, once that attempt's staging has been released (R64, R416). -/
def askRetest (u : BitVec 32) (attempt : Nat) (s : State) : State :=
  let awaited := if s.sluice.dying.any (fun d => d.id = attempt) then some attempt else none
  { s with island := { s.island with retests := s.island.retests ++ [(u, awaited)] } }

/-- A failure event charged to unit u (R417, R419): counted, notified, classified; the attempt concerned fails (R418). -/
def failureEvent (u : BitVec 32) (cause : EventCause) (confirmed : Bool) (job : Option (BitVec 32)) (s : State) : State :=
  let kind := unitKind u
  let s := setEvent 2 (count 0x741d 0x0a 1 s)
  let s := if cause = .parity then count 0x741d 2 1 s else s
  let s := if cause = .uncorrectable ∧ kind ≤ 3 then count 0x741d 4 1 s else s
  let s := if cause = .uncorrectable ∧ kind = 4 then count (0x3820 + unitIndex u) 3 1 s else s
  let s := if kind = 8 then count 0x741d 5 1 s else s
  let s := notifySubs 0x20 (leBytes 4 u.toNat) s
  let h := (counter s 0x741d 1).toNat :: unitHistory s u
  let s := { s with island := { s.island with history := (u, h) :: s.island.history.filter (fun e => e.1 ≠ u) } }
  let permanent := confirmed || permanentByCount h
  let s := if kind = 8 then { s with island := { s.island with
      urgent := s.island.urgent ++ [(unitIndex u, permanent), (unitIndex u + 1, permanent)] } } else s
  let s := blockError u cause s
  let attempt := s.sluice.nextDying
  let s := match job with
    | some tag => failAttempt tag s
    | none => s
  let s := if cause = .uncorrectable ∧ (kind = 2 ∨ kind = 3) then askRetest u attempt s else s
  if !permanent then s
  else if 1 ≤ kind ∧ kind ≤ 7 then retireUnit u s
  else if kind = 9 then enterSafe 9 u true s
  else s

end Sys2Proof.Machine
end

