-- ==== Sys2Proof/Machine/Siphon.lean ====
section
/-!
DEFINITION. Sys2Proof/Machine/Siphon.lean: running descriptors and settling fences (R389-R395), and the prefetch unit's copies
(R241-R244).
-/

namespace Sys2Proof.Machine

/-- Whether a shadow's tile SRAM takes the writes into its primary's (R422). -/
def mirrorTile (s : State) (pl : Place) (bs : Bytes) : State :=
  match pl with
  | .tile a =>
    let t := (a - 0x080000000000) / 0x80000
    if shadowOf s (t + 1) = some t then poke (a + tileBytes) bs s else s
  | _ => s

/-- The target that a descriptor writes. -/
def descTarget (s : State) (p : Posted) : Nat := targetOf (placeOf s (parseSiphon p.desc).dst (dstSpan (parseSiphon p.desc)))

/-- The oldest of a channel's 16 targets, where the descriptor would write a seventeenth: it is fenced first (R391). -/
def oldestFirst (s : State) (ch : Nat) (p : Posted) : Option Nat :=
  let c := chanOf s ch
  if isFence p ∨ descTarget s p ∈ c.targets ∨ c.targets.length < 16 then none else c.targets.head?

/-- A target added to those written since the last fence; the oldest of 16 has been fenced (R391). -/
def noteTarget (ch t : Nat) (s : State) : State :=
  let c := chanOf s ch
  if t ∈ c.targets then s
  else if c.targets.length < 16 then chanmod ch (fun c => { c with targets := c.targets ++ [t] }) s
  else count 0x741b 0x0a 1 (chanmod ch (fun c => { c with targets := c.targets.drop 1 ++ [t] }) s)

/-- A descriptor that breaks the rules is not run, and its job completes INTEGRITY_FAIL (R395). -/
def descriptorBad (job : Option (BitVec 32)) (s : State) : State :=
  let s := count 0x741b 0x0b 1 s
  match job with
  | some tag => programFault tag s
  | none => s

/-- A copy or generator descriptor runs: data moved, target noted, end-of-count event raised (R389-R392). A descriptor of an ended
attempt runs to its end for no job (R394); one whose generator request breaks R388 is not run (R395). -/
def runDescriptor (ch : Nat) (p : Posted) (s : State) : State :=
  let d := parseSiphon p.desc
  let job := if p.dead.isSome then none else p.job
  let src := placeOf s d.src (srcSpan d)
  let dst := placeOf s d.dst (dstSpan d)
  let hit := poisonHit s p.actor src (srcSpan d)
  match siphonData p.actor d s with
  | (none, s) => descriptorBad job s
  | (some data, s) =>
  let data := if d.dstFixed then data.drop (data.length - 8) else data
  let s := count 0x741b 9 1 s
  if touchesReplica s dst data.length then
    match job with
    | some tag => programFault tag s
    | none => s
  else
    let s := mirrorTile (writePlace p.actor dst data s) dst data
    let s := noteTarget ch (targetOf dst) s
    let s := if d.eventOn ∧ p.dead.isNone then raiseEvent job d.event s else s
    match hit with
    | some sc => failureEvent (unitOf 4 sc) .uncorrectable false job s
    | none => s

/-! ## Channels (R386, R391-R394) -/

/-- Tiles of the channel's cluster that wait in FENCE on it. -/
def fenceWaiters (s : State) (ch : Nat) : List Nat :=
  (clusterTiles (ch / 8)).filter (fun t => (tileOf s t).wait == some (.fence (ch % 8)))

/-- Has every descriptor that tile t posted on the channel run? -/
def postedDone (s : State) (ch t : Nat) : Bool := (chanOf s ch).posted.all (fun p => p.tile != t)

/-- A completed FENCE enters the signature of a pair's tile, once though it was abandoned and issued again (R265, R423). -/
def foldFence (c : Nat) (tl : Tile) : Tile := if tl.paired then { tl with sigP := crcMore tl.sigP (leBytes 1 c) } else tl

/-- Fences of waiting tiles whose descriptors have run begin; those with every target read back complete (R393). -/
def settleFences (ch : Nat) (s : State) : State :=
  if 512 ≤ ch then s
  else
    let ready := (fenceWaiters s ch).filter (postedDone s ch)
    if ready = [] then s
    else
      let s := if (chanOf s ch).targets = [] then s else fenceTargets ch s
      if (chanOf s ch).fencing = [] then
        forEach ready (fun t s => count 0x741b 0x0a 1 (tmod t (fun tl => { foldFence (ch % 8) tl with wait := none, pc := tl.pc + 1 }) s)) s
      else s

/-- The channels of a job that is at its commit, or whose save has begun, are fenced once no descriptor of it is left on them (R62, R269). -/
def fenceWhenDone (ch : Nat) (tag : Option (BitVec 32)) (s : State) : State :=
  match tag.bind (jobOf s) with
  | some j => if (j.phase = .ending ∨ j.phase = .saving) ∧ !(jobPosted s j.tag ch) ∧ (chanOf s ch).targets ≠ [] then fenceTargets ch s else s
  | none => s

/-- The head of a channel is done: the next descriptor starts, and what waited for it goes on. -/
def headDone (ch : Nat) (p : Posted) (s : State) : State :=
  let s := startNext (chanmod ch (fun c => { c with posted := c.posted.drop 1 }) s) ch
  let s := match p.dead with
    | some id => dyingStopped id ch s
    | none => fenceWhenDone ch p.job s
  settleFences ch s

/-- The descriptor at the head of a channel ends (R392), or waits for the fence of the oldest target (R391), or is held to the next slot by
its certified figures (R57); a fence descriptor ends at its read-back instead. -/
def descriptorDone (ch : Nat) (s : State) : State :=
  match (chanOf s ch).posted with
  | [] => s
  | p :: _ =>
    if isFence p then s
    else match oldestFirst s ch p with
    | some t => beginFence ch t s
    | none => match meterHead ch p s with
      | (false, s) => s
      | (true, s) =>
      let s := runDescriptor ch p s
      headDone ch (((chanOf s ch).posted.head?).getD p) s

/-- A fence read-back of target t returns (R393). -/
def fenceReturn (ch t : Nat) (s : State) : State :=
  let s := dropReqs (fun r => r.owner == .channel ch && r.peer + 1 == t) s
  let s := dyingFence ch t (chanmod ch (fun c => { c with
    fencing := c.fencing.filter (fun x => x ≠ t), issued := c.issued.filter (fun e => e.1 ≠ t) }) s)
  match (chanOf s ch).posted with
  | p :: _ =>
    if oldestFirst s ch p = some t then
      count 0x741b 0x0a 1 (chanmod ch (fun c => { c with targets := c.targets.filter (fun x => x ≠ t) }) s)
    else
    if isFence p ∧ targetOf (placeOf s (parseSiphon p.desc).dst 1) = t then
      let d := parseSiphon p.desc
      let s := chanmod ch (fun c => { c with targets := c.targets.filter (fun x => x ≠ t) }) s
      let s := count 0x741b 0x0a 1 s
      let s := if d.eventOn ∧ p.dead.isNone then raiseEvent p.job d.event s else s
      headDone ch p s
    else settleFences ch s
  | [] => settleFences ch s

/-- The fence of target t on a channel is given up: what waits for its return goes on. -/
def dropFence (t : Nat) (ch : Nat) (s : State) : State :=
  let s := dyingFence ch t (chanmod ch (fun c => { c with
    fencing := c.fencing.filter (fun x => x ≠ t), issued := c.issued.filter (fun e => e.1 ≠ t) }) s)
  match (chanOf s ch).posted with
  | p :: _ => if isFence p ∧ p.dead.isSome ∧ targetOf (placeOf s (parseSiphon p.desc).dst 1) = t then headDone ch p s else s
  | [] => s

/-- The commit fences of a job's channels (R62): those on which its descriptors have run; the others follow when they have. -/
def issueCommitFences (j : Job) (s : State) : State :=
  forEach (jobChannels j) (fun ch => fenceWhenDone ch (some j.tag)) s

/-- Has a job a descriptor left on one of its channels? -/
def anyPosted (s : State) (j : Job) : Bool := (jobChannels j).any (jobPosted s j.tag)

/-- The fences of a job's channels have returned. -/
def clearFences (j : Job) (s : State) : State :=
  forEach (jobChannels j) (fun ch s =>
    let n := (chanOf s ch).fencing.length
    if n = 0 then s
    else count 0x741b 0x0a n (chanmod ch (fun c => { c with fencing := [], issued := [] }) (dropReqs (fun r => r.owner == .channel ch) s))) s

/-! ## Prefetch copies (R242-R244) -/

/-- Destination of an entry: the tile or cluster SRAM of its task (R242). -/
def entryDest (s : State) (j : Job) (e : SchedEntry) (n : Nat) : Place :=
  match (j.tasks[e.task]?).bind (fun t => t.tile) with
  | none => .unmapped
  | some t =>
    let off := e.dest.toNat % 2 ^ 22
    if e.dest.getLsbD 31 then placeOf s (clusterBase (clusterOfTile t) + off) n
    else if off + n ≤ tileBytes then placeOf s (tileBase t + off) n else .unmapped

/-- The place `k` bytes into one. -/
def placeAfter (k : Nat) : Place → Place
  | .cistern a => .cistern (a + k)
  | .peer m off => .peer m (off + k)
  | .tile a => .tile (a + k)
  | .cluster c off => .cluster c (off + k)
  | .tensor i off => .tensor i (off + k)
  | .unmapped => .unmapped

/-- The bytes of an entry's copy: a replica of the task's cluster, else the home of the bound version, wherever it lies (R224, R244); none
in decompression error. -/
def copyBytes (s : State) (j : Job) (e : SchedEntry) (i : Nat) : Option Bytes :=
  let t := tensorOf s i
  let v := (boundVersion j i).getD t.version
  match ((j.tasks[e.task]?).bind (fun t => t.tile)).map clusterOfTile with
  | some k => if t.version = v ∧ t.clusters.getLsbD k then some (peek s (clusterBase k + t.offset) t.size) else versionBytes s i v
  | none => versionBytes s i v

end Sys2Proof.Machine
end

