-- ==== Sys2Proof/Machine/MapSel.lean ====
section
/-!
DEFINITION. Sys2Proof/Machine/MapSel.lean: the map (R194-R202) and the Selector's channels (R209-R220).
-/

namespace Sys2Proof.Machine

/-! ## Configuration of the map (R195, R202) -/

def mapDim (s : State) (a : Nat) : Nat := cfg s 0x5c40 (2 + a)
/-- Bricks of the grid (R194). -/
def mapBricks (s : State) : Nat := mapDim s 0 / 8 * (mapDim s 1 / 8) * (mapDim s 2 / 8)
def mapClusters (s : State) : List Nat := bitsOf 64 (cfg s 0x5c40 8)
def mapOffset (s : State) : Nat := cfg s 0x5c40 9
def mapSlots (s : State) : Nat := cfg s 0x5c40 0x0a

/-- `bs` written at an offset of every replica (R196). -/
def replicaPoke (off : Nat) (bs : Bytes) (s : State) : State :=
  forEach (mapClusters s) (fun k => poke (clusterBase k + mapOffset s + off) bs) s

/-- The 64-byte header line of epoch e (R196). -/
def mapHeader (s : State) (e : BitVec 32) : Bytes :=
  leBytes 4 e.toNat ++ leBytes 4 (0x1000 + 4096 * (e.toNat % 4)) ++ leBytes 2 (mapDim s 0) ++ leBytes 2 (mapDim s 1) ++
  leBytes 2 (mapDim s 2) ++ cfgBytes s 0x5c80 1 ++ [0] ++ cfgBytes s 0x5c40 1 ++ cfgBytes s 0x5c40 5 ++ cfgBytes s 0x5c40 6 ++
  cfgBytes s 0x5c40 7 ++ cfgBytes s 0x5c80 4 ++ cfgBytes s 0x5c80 5 ++ cfgBytes s 0x5c80 2 ++ [0, 0] ++ cfgBytes s 0x5c80 3 ++
  cfgBytes s 0x5c80 6 ++ zeros 8

/-- A brick index as it lies in a replica (R196). -/
def indexBytes (n : Nat) (ix : List (Nat × Nat)) : Bytes :=
  ((List.range n).map (fun b => leBytes 2 (((ix.find? (fun e => e.1 = b)).map (fun e => e.2)).getD 0xffff))).flatten

/-- A change-log entry as it lies in a replica (R200). -/
def logBytes : Option (List Nat) → Bytes
  | none => List.replicate 256 0xff
  | some bs => leBytes 256 (ofBits bs)

/-! ## Start and stop (R201) -/

def ringBase (s : State) (r : Nat) : Nat := cfg s (0x5c48 + r) 1
def ringTail (s : State) (r : Nat) : BitVec 32 := BitVec.ofNat 32 (peekNat s (ownPhysical s (ringBase s r)) 4)
/-- The update rings in use (R197). -/
def usedRings (s : State) : List Nat := (List.range 4).filter (fun r => ringBase s r != 0)

/-- Start from an empty state at EPOCH + 64 (R201); a function reset under way leaves the map stopped (R275; log 45). -/
def mapStart (s : State) : State :=
  if s.map.running ∨ s.resetting.getLsbD 2 then s
  else
    let e := s.map.epoch + 64
    let heads := (usedRings s).map (fun r => (r, ringTail s r))
    let s := { s with map := {
      running := true, epoch := e, heads := heads.filter (fun h => h.2 ≠ 0), index := [], apply := none, waiting := [],
      log := (List.range 64).map (fun i => ((e - BitVec.ofNat 32 i).toNat, none)) } }
    let s := replicaPoke 0 (mapHeader s e) s
    let s := replicaPoke (0x1000 + 4096 * (e.toNat % 4)) (indexBytes (mapBricks s) []) s
    let s := replicaPoke 0x5000 (List.replicate (64 * 256) 0xff) s
    replicaPoke 0x9000 (padTo 4096 (cfgBytes s 0x5c80 7)) s

/-- Stop: no further updates; EPOCH and the replicas stay (R201). -/
def mapStop (s : State) : State := { s with map := { s.map with running := false, apply := none } }

/-! ## Apply (R198, R199) -/

/-- Waiting slots and buffers whose jobs have not all completed (R199). -/
def mapWaiting (s : State) : List (List Nat × Nat × List (BitVec 32)) :=
  s.map.waiting.filter (fun w => w.2.2.any (fun t => (jobOf s t).isSome))

/-- Brick slots free for an apply. -/
def freeSlots (s : State) : List Nat :=
  (List.range (mapSlots s)).filter (fun k => !(s.map.index.any (fun e => e.2 = k)) && !((mapWaiting s).any (fun w => k ∈ w.1)))

/-- Is the index buffer of E + 1 free? -/
def bufferFree (s : State) : Bool := !((mapWaiting s).any (fun w => w.2.1 = (s.map.epoch.toNat + 1) % 4))

/-- Entries of ring r not yet consumed. -/
def ringPending (s : State) (r : Nat) : Nat := (ringTail s r - tblGet 0 s.map.heads r).toNat
def ringOverrun (s : State) (r : Nat) : Bool := decide (cfg s (0x5c48 + r) 2 < ringPending s r)

/-- The new entries of ring r as brick, KIND and SRC; entries outside R197's ranges are passed over (log 30). -/
def ringEntries (s : State) (r : Nat) : List (Nat × Nat × Nat) :=
  let at_ (i : Nat) : Nat :=
    ownPhysical s (ringBase s r) + 64 + 16 * (((tblGet 0 s.map.heads r).toNat + i) % 2 ^ 32 % cfg s (0x5c48 + r) 2)
  ((List.range (ringPending s r)).map (fun i => (peekNat s (at_ i) 2, peekNat s (at_ i + 2) 1, peekNat s (at_ i + 8) 8))).filter
    (fun e => decide (e.1 < mapBricks s) && decide (e.2.1 < 2))

/-- Later entries for a brick replace earlier ones. -/
def lastEntries (es : List (Nat × Nat × Nat)) : List (Nat × Nat × Nat) :=
  es.foldl (fun acc e => acc.filter (fun x => x.1 ≠ e.1) ++ [e]) []

/-- HEAD = TAIL on every ring. -/
def takeTails (s : State) : State :=
  { s with map := { s.map with heads := (usedRings s).foldl (fun t r => tblSet 0 t r (ringTail s r)) s.map.heads } }

/-- One changed brick: its new contents go to a free slot, or it becomes unknown. -/
def applyBrick (e : Nat × Nat × Nat) (acc : List (Nat × Nat) × List Nat × State) : List (Nat × Nat) × List Nat × State :=
  let ix := acc.1.filter (fun x => x.1 ≠ e.1)
  if e.2.1 = 1 then (ix, acc.2)
  else
    let (k, s) := freshChoice acc.2.1 acc.2.2
    let k := k.getD 0
    (ix ++ [(e.1, k)], acc.2.1.filter (fun x => x ≠ k), replicaPoke (0x10000 + 512 * k) (peek s (ownPhysical s e.2.2) 512) s)

/-- The brick index of E + 1 and its change-log entry written to every replica. -/
def writeApply (a : Apply) (s : State) : State :=
  let e := (s.map.epoch + 1).toNat
  replicaPoke (0x5000 + 256 * (e % 64)) (logBytes a.changed)
    (replicaPoke (0x1000 + 4096 * (e % 4)) (indexBytes (mapBricks s) a.index) { s with map := { s.map with apply := some a } })

/-- An apply of the new ring entries (R198). An overrun makes every brick unknown; its log entry has the bits of the bricks that were
known, whose contents or unknown state the flip changes (R200). -/
def mapApply (s : State) : State :=
  if !s.map.running ∨ s.map.apply.isSome ∨ (usedRings s).all (fun r => ringPending s r == 0) then s
  else if (usedRings s).any (ringOverrun s) then
    if !(bufferFree s) then count 0x7414 4 1 s
    else
      let n := ((usedRings s).filter (ringOverrun s)).length
      writeApply ⟨[], some (s.map.index.map (fun x => x.1))⟩ (takeTails (count 0x7414 5 n s))
  else
    let es := lastEntries ((usedRings s).map (ringEntries s)).flatten
    if (freeSlots s).length < (es.filter (fun e => e.2.1 = 0)).length ∨ !(bufferFree s) then count 0x7414 4 1 s
    else
      let changed := (es.filter (fun e => e.2.1 = 0 || s.map.index.any (fun x => x.1 = e.1))).map (fun e => e.1)
      let r := es.foldl (fun acc e => applyBrick e acc) (s.map.index, freeSlots s, s)
      writeApply ⟨r.1, some changed⟩ (takeTails r.2.2)

/-- Do the Selector and the map act: their domain on (R19), no function reset of them under way (R275)? -/
def selectorActs (s : State) : Bool := works s 13 && !(s.resetting.getLsbD 2)

/-- The map at the boundary of slot n: one apply is judged per boundary (R198); none while the map does not act. -/
def mapBoundary (n : Nat) (s : State) : State :=
  if s.map.judged = n ∨ !(selectorActs s) then s else mapApply { s with map := { s.map with judged := n } }

/-- Jobs running on a replica cluster (R199). -/
def mapReaders (s : State) : List (BitVec 32) :=
  (s.sluice.jobs.filter (fun j => attempting j &&
    j.parts.any (fun p => (mapClusters s).any (fun k => (partTiles s p).any (fun t => clusterOfTile t == k))))).map (fun j => j.tag)

/-- The flip to E + 1 (R198-R200). -/
def flipMap (a : Apply) (s : State) : State :=
  let e := s.map.epoch + 1
  let gone : List Nat := (s.map.index.map (fun x => x.2)).filter (fun k => !(a.index.any (fun x => x.2 = k)))
  let readers := mapReaders s
  let waiting := mapWaiting s ++ (if readers = [] then [] else [(gone, s.map.epoch.toNat % 4, readers)])
  let s := { s with map := { s.map with
    epoch := e, index := a.index, apply := none, waiting := waiting, log := ((e.toNat, a.changed) :: s.map.log).take 64 } }
  count 0x7414 3 1 (replicaPoke 0 (mapHeader s e) s)

/-! ## The Selector (R209-R219) -/

def chan (s : State) (ch : Nat) : SelChannel := tblGet {} s.selector ch
def chanSet (ch : Nat) (f : SelChannel → SelChannel) (s : State) : State := { s with selector := tblMod {} s.selector ch f }
def selCfg (s : State) (ch k : Nat) : Nat := cfg s (0x5d00 + ch) k

/-- Is the F32 finite? -/
def f32Finite (x : Nat) : Bool := decide (x / 2 ^ 23 % 256 < 255)

/-- COST as an ordered number: +0 and -0 compare equal (R211). -/
def costKey (x : BitVec 32) : Int :=
  let m := (x.toNat % 2 ^ 31 : Nat)
  if x.msb then -(m : Int) else m

/-- Order of R211: ascending COST, then ascending ID. -/
def candLe (a b : Cand) : Bool :=
  decide (costKey a.cost < costKey b.cost) || (decide (costKey a.cost = costKey b.cost) && decide (a.id.toNat ≤ b.id.toNat))

/-- An eligible record of slot `sl` (R210, R211). -/
def parseCand (s : State) (sl : Nat) (r : Bytes) : Option Cand :=
  let f := fieldAt r
  let ep := BitVec.ofNat 32 (f 8 4)
  if f 3 1 = 0 ∧ f 0x0c 1 < 4 ∧ f 0x0c 1 % 2 = 1 ∧ f 0x0d 1 = 0 ∧ f 0x1c 4 = 0 ∧ (r.drop 0x28).all (fun b => b == 0) ∧
      f32Finite (f 4 4) ∧ (s.map.epoch - ep).toNat ≤ 63 ∧ 1 ≤ f 0x0e 2 ∧ f 0x0e 2 ≤ 64 ∧ 1 ≤ f 0x18 4 ∧ f 0x18 4 ≤ 65536 then
    some { id := BitVec.ofNat 32 (sl * 2 ^ 24 + f 0 3), cost := BitVec.ofNat 32 (f 4 4), epoch := ep, segs := f 0x0e 2,
           payload := f 0x10 8, bytes := f 0x18 4, boxAddr := f 0x20 8 }
  else none

/-- The candidate records of a slot's 4,096 bytes: at most 63. -/
def slotRecords (b : Bytes) : List Bytes := (List.range (min (fieldAt b 4 2) 63)).map (fun k => bytesAt b (64 + 64 * k) 64)

/-- Takes a slot's records in: eligible ones kept, the others, and one that a failure event struck (R418), counted at
0x7414:06 (R211). -/
def takeRecords (ch sl : Nat) (b : Bytes) (s : State) : State :=
  let rs := slotRecords b
  let struck : Bool := decide (0x14 ∈ s.island.spoil)
  let ok := (if struck then rs.drop 1 else rs).filterMap (parseCand s sl)
  let s := if rs.isEmpty then s else { s with island := { s.island with spoil := s.island.spoil.filter (· ≠ 0x14) } }
  count 0x7414 6 (rs.length - ok.length) (chanSet ch (fun c => { c with cands := c.cands ++ ok, published := c.published ++ [sl] }) s)

/-- Discards every record of a slot (R211). -/
def dropRecords (b : Bytes) (s : State) : State := count 0x7414 6 (slotRecords b).length s

/-- A box: X0, Y0, Z0, X1, Y1, Z1 (R210). -/
def parseBox (b : Bytes) : Box :=
  let f (i : Nat) := fieldAt b i 1
  ⟨f 0, f 1, f 2, f 3, f 4, f 5⟩

/-- Address of the payload copy of rank k in round r (R217). -/
def copyAddr (s : State) (ch : Nat) (round : BitVec 32) (k : Nat) : Nat :=
  selCfg s ch 3 + 0x1000 + 0x80000 * (round.toNat % 2) + 0x10000 * (k - 1)

/-- The close: the first eight candidates are ranked, their boxes and payloads copied (R211, R212, R217). -/
def closeRound (ch : Nat) (s : State) : State :=
  let c := chan s ch
  let kept := (((sortBy candLe c.cands).take 8).zipIdx).map (fun x => { x.1 with
    boxes := (chunksOf 8 (peek s (ownPhysical s x.1.boxAddr) (8 * x.1.segs))).map parseBox, copy := copyAddr s ch c.round (x.2 + 1) })
  let s := forEach kept (fun k s => pokeCistern (ownPhysical s k.copy) (peek s (ownPhysical s k.payload) k.bytes) s) s
  chanSet ch (fun c => { c with kept := kept, cands := [], closing := true, closeAt := none }) s

/-- A producer slot is published (R210-R212). -/
def publishSlot (ch sl : Nat) (b : Bytes) (s : State) : State :=
  let c := chan s ch
  let round := BitVec.ofNat 32 (fieldAt b 0 4)
  match c.state with
  | .stopped => s
  | .idle =>
    if round ≠ c.round then dropRecords b s
    else
      let s := takeRecords ch sl b (chanSet ch (fun c => { c with
        state := .collecting, closeAt := some (now s + 1000 * selCfg s ch 6) }) s)
      if selCfg s ch 1 ≤ 1 then closeRound ch s else s
  | .collecting =>
    if c.closing then
      if round = c.round + 1 then chanSet ch (fun c => { c with held := c.held ++ [(sl, b)] }) s else dropRecords b s
    else if round ≠ c.round ∨ sl ∈ c.published then dropRecords b s
    else
      let s := takeRecords ch sl b s
      if selCfg s ch 1 ≤ (chan s ch).published.length then closeRound ch s else s
  | .closed => if round = c.round + 1 then chanSet ch (fun c => { c with held := c.held ++ [(sl, b)] }) s else dropRecords b s

/-- Voxel ranges of a brick meet a box (R215). -/
def brickMeets (s : State) (b : Nat) (x : Box) : Bool :=
  let nx := mapDim s 0 / 8
  let ny := mapDim s 1 / 8
  let hit (i lo hi : Nat) : Bool := decide (8 * i ≤ hi) && decide (lo ≤ 8 * i + 7)
  hit (b % nx) x.x0 x.x1 && hit (b / nx % ny) x.y0 x.y1 && hit (b / (nx * ny)) x.z0 x.z1

/-- Does a change-log entry meet a candidate? An entry the Selector no longer holds has no bit set (R220; log 31). -/
def logMeets (s : State) (e : Nat) (c : Cand) : Bool :=
  match s.map.log.find? (fun x => x.1 = e) with
  | none => false
  | some (_, none) => c.boxes.any (fun x => (List.range (mapBricks s)).any (fun b => brickMeets s b x))
  | some (_, some bs) => bs.any (fun b => c.boxes.any (brickMeets s b))

/-- The gate's test of one candidate against the present epoch (R215). -/
def gatePass (s : State) (c : Cand) : Bool :=
  let d := (s.map.epoch - c.epoch).toNat
  decide (d = 0) || (decide (d ≤ 63) && (List.range d).all (fun i => !(logMeets s (c.epoch + 1 + BitVec.ofNat 32 i).toNat c)))

/-- The gate over kept candidates from rank `k` on: what it discards, and the first that passes with its rank. -/
def gate (s : State) : List Cand → Nat → List Cand × Option (Nat × Cand)
  | [], _ => ([], none)
  | c :: cs, k =>
    if c.gone then let r := gate s cs (k + 1); (c :: r.1, r.2)
    else if gatePass s c then (c :: cs, some (k, c))
    else let r := gate s cs (k + 1); ({ c with gone := true } :: r.1, r.2)

def goneCount (l : List Cand) : Nat := (l.filter (fun c => c.gone)).length

/-- An output record (R218). -/
def outRecord (round : BitVec 32) (status : Nat) (win : Option (Nat × Cand)) (kept : List Cand) (epoch st out : BitVec 32) : Bytes :=
  let head := leBytes 4 round.toNat ++ leBytes 1 status
  let tail (id cost bytes addr : Nat) (rank : Nat) : Bytes :=
    leBytes 1 rank ++ leBytes 1 (goneCount kept) ++ leBytes 1 kept.length ++ leBytes 4 id ++ leBytes 4 cost ++
    leBytes 4 epoch.toNat ++ leBytes 4 bytes ++ leBytes 4 st.toNat ++ leBytes 4 out.toNat ++ leBytes 8 addr ++ zeros 24
  match win with
  | some (k, c) => head ++ tail c.id.toNat c.cost.toNat c.bytes c.copy k
  | none => head ++ tail 0xffffffff 0 0 0 0

/-- An output is written, delivered and counted (R215-R219). -/
def deliverOutput (ch : Nat) (round : BitVec 32) (status : Nat) (win : Option (Nat × Cand)) (kept : List Cand) (st : BitVec 32)
    (s : State) : State :=
  let o := (chan s ch).output
  let r := outRecord round status win kept s.map.epoch st o
  let s := pokeCistern (ownPhysical s (selCfg s ch 3 + 64 * (o.toNat % 2))) r s
  let s := chanSet ch (fun c => { c with output := c.output + 1, released := win.map (fun w => w.1) }) s
  let s := match win with
    | none => count 0x7414 9 1 s
    | some (k, _) => if 2 ≤ k then count 0x7414 8 1 s else s
  let s := if status = 2 then count 0x7414 0x0a 1 s else s
  match selCfg s ch 4 with
  | 0 => { s with solver := { s.solver with ref := some r } }
  | 1 => raiseEvent none (selCfg s ch 5) s
  | _ => notifySubs 0x51 (leBytes 1 ch ++ zeros 7 ++ r) s

/-- The release instant of a closed round (R213). -/
def releaseAt (s : State) (ch : Nat) : Nat :=
  let c := (chan s ch).closedAt
  let p := 1000 * selCfg s ch 7
  if p = 0 then c
  else
    let t := c / p * p + 1000 * selCfg s ch 8
    if c ≤ t then t else t + p

/-- The release: gate, output, next round, held slots taken in (R212, R215, R438). -/
def releaseRound (ch : Nat) (st : BitVec 32) (s : State) : State :=
  let c := chan s ch
  let safe := decide (s.island.state ≠ .normal) && selCfg s ch 4 == 0
  let g := if safe then (c.kept, none) else gate s c.kept 1
  let s := count 0x7414 7 (goneCount g.1 - goneCount c.kept) s
  let s := deliverOutput ch c.round (if g.2.isSome then 0 else 1) g.2 g.1 st s
  let s := chanSet ch (fun c => { c with
    state := .idle, closing := false, round := c.round + 1, published := [], cands := [], kept := [], watched := g.1, held := [] }) s
  forEach c.held (fun h => publishSlot ch h.1 h.2) s

/-- WATCH at a map flip: the released candidate is gated again (R219). -/
def watchChannel (st : BitVec 32) (ch : Nat) (s : State) : State :=
  let c := chan s ch
  match c.released with
  | none => s
  | some k =>
    if c.state = .stopped ∨ selCfg s ch 9 = 0 then s
    else
      let g := gate s (c.watched.drop (k - 1)) k
      if (g.2.map (fun w => w.1)) = some k then s
      else
        let kept := c.watched.take (k - 1) ++ g.1
        let s := count 0x7414 7 (goneCount kept - goneCount c.watched) s
        deliverOutput ch (c.round - 1) (if g.2.isSome then 2 else 1) g.2 kept st (chanSet ch (fun c => { c with watched := kept }) s)

/-- A channel starts: ROUND 1 (R212); a function reset under way leaves it stopped (R275; log 45). -/
def startChannel (ch : Nat) (s : State) : State :=
  if (chan s ch).state = .stopped ∧ !(s.resetting.getLsbD 2) then chanSet ch (fun c => { state := .idle, round := 1, output := c.output }) s else s

/-- A channel stops: kept candidates and held slots are dropped (R212). -/
def stopChannel (ch : Nat) (s : State) : State :=
  if (chan s ch).state = .stopped then s else chanSet ch (fun c => { state := .stopped, round := c.round, output := c.output }) s

/-- Producer slots that a job's staged bytes wrote, taken in at its publish (R210). -/
def selectorTakeIn (staged : Tbl (BitVec 8)) (s : State) : State :=
  forEach (List.range 16) (fun ch s =>
    if (chan s ch).state = .stopped ∨ !(selectorActs s) then s
    else
      let base := ownPhysical s (selCfg s ch 2)
      forEach ((List.range 8).filter (fun sl => overlayHits staged (base + 4096 * sl) 4096))
        (fun sl s => publishSlot ch sl (peek s (base + 4096 * sl) 4096) s) s) s

/-! ## The events -/

/-- MAP_FLIP: at the first boundary after the apply's fences return (R198); WATCH gates follow, then the next apply. -/
def execMapFlip (s : State) : Res :=
  match s.map.apply with
  | none => .next s
  | some a =>
    if selectorActs s then
      let s := clockTo (roundUp (max (now s) (s.clock.slot * 10000 + 1)) 10000) s
      let st := stamp s
      .next (mapBoundary (now s / 10000) (forEach (List.range 16) (watchChannel st) (flipMap a s)))
    else .next s

/-- SELECTOR_CLOSE_TIMER: the close timer of a collecting round expires (R212). -/
def execSelectorCloseTimer (ch : Fin 16) (s : State) : Res :=
  let c := chan s ch.val
  match c.closeAt with
  | none => .next s
  | some t => if c.state = .collecting ∧ !c.closing ∧ selectorActs s then .next (closeRound ch.val (clockTo t s)) else .next s

/-- SELECTOR_CLOSED: the close's copies are fenced and the channel is CLOSED (R212). -/
def execSelectorClosed (ch : Fin 16) (s : State) : Res :=
  let c := chan s ch.val
  if c.state = .collecting ∧ c.closing ∧ selectorActs s then
    .next (chanSet ch.val (fun c => { c with state := .closed, closing := false, closedAt := now s }) s)
  else .next s

/-- SELECTOR_RELEASE: the release instant of a closed round (R213). -/
def execSelectorRelease (ch : Fin 16) (s : State) : Res :=
  if (chan s ch.val).state = .closed ∧ selectorActs s then
    let t := releaseAt s ch.val
    .next (releaseRound ch.val (stampOf t) (clockTo t s))
  else .next s

end Sys2Proof.Machine
end

