-- ==== Sys2Proof/Machine/Fusion.lean ====
section
/-!
DEFINITION. Sys2Proof/Machine/Fusion.lean: the fusion unit (R308-R320): take-in, masks, contradictions, fused values, the
result buffer and the cycle.
-/

namespace Sys2Proof.Machine

/-! ## Exact helpers -/

/-- n / d as an exact value to 400 fraction bits and a sticky bit, so that rounding to binary32 or binary64 is that of the
quotient. -/
def fpOfRat (neg : Bool) (n d : Nat) : Fp :=
  let q := n * 2 ^ 400 / d
  .fin neg (2 * q + (if n * 2 ^ 400 % d = 0 then 0 else 1)) (-401)

/-- An F32 divided by a positive whole number, rounded to nearest even. -/
def f32DivNat (x : BitVec 32) (d : Nat) : BitVec 32 :=
  match f32 x with
  | .fin neg m e => toF32 (if 0 ≤ e then fpOfRat neg (m * 2 ^ e.toNat) d else fpOfRat neg m (d * 2 ^ (-e).toNat))
  | _ => x

def f32OfNat (n : Nat) : BitVec 32 := toF32 (.fin false n 0)
def f32Ratio (n d : Nat) : BitVec 32 := if d = 0 then 0 else toF32 (fpOfRat false n d)

def fpZero : Fp := .fin false 0 0
def fpSub (a b : Fp) : Fp := fpAdd a (fpNeg b)
def fpAbs (a : Fp) : Fp := if fpLt a fpZero then fpNeg a else a
def fpSum (l : List Fp) : Fp := l.foldl fpAdd fpZero
def fpSq (a : Fp) : Fp := fpMul a a

/-! ## Configuration (R309-R311) -/

def groupLevel (s : State) (g : Nat) : Nat := cfg s (0x5040 + g) 1
def groupElems (s : State) (g : Nat) : Nat := cfg s (0x5040 + g) 2
def groupTol (s : State) (g : Nat) : Fp := fpDecode fmtF32 (cfg s (0x5040 + g) 3)
def inputGroup (s : State) (i : Nat) : Nat := cfg s (0x5010 + i) 1
def inputTrust (s : State) (i : Nat) : Nat := cfg s (0x5010 + i) 4
/-- Is the input in a group in use? -/
def inputUsed (s : State) (i : Nat) : Bool := decide (inputGroup s i < 8) && groupLevel s (inputGroup s i) != 0xff
/-- Bytes of one element of a level (R312). -/
def elemBytes (level : Nat) : Nat := match level with | 0 => 4 | 1 => 2 | _ => 32
/-- Bytes of the longest record of input i. -/
def recordSize (s : State) (i : Nat) : Nat :=
  64 + elemBytes (groupLevel s (inputGroup s i)) * groupElems s (inputGroup s i)
/-- Record range of a SOURCE 0 input (R311). -/
def recordRange (s : State) (i : Nat) : Option (Nat × Nat) :=
  if inputUsed s i ∧ cfg s (0x5010 + i) 2 = 0 then some (ownPhysical s (cfg s (0x5010 + i) 3), recordSize s i) else none
def fusionOut (s : State) : Nat := cfg s 0x5000 3

/-! ## Take-in (R313) -/

/-- Does the unit take input and run cycles: running, its domain on (R19), not resetting (R275)? -/
def fusionActs (s : State) : Bool := s.fusion.running && works s 13 && !(s.resetting.getLsbD 1)

/-- A record reaches the store; an earlier STAMP than the held one's is discarded and counted. -/
def fusionTake (i : Nat) (r : Bytes) (s : State) : State :=
  if !(fusionActs s) then s
  else
    let old := s.fusion.store.find? (fun e => e.1 = i)
    let late : Bool := match old with
      | some e => decide ((BitVec.ofNat 32 (fieldAt r 0 4) - BitVec.ofNat 32 (fieldAt e.2 0 4)).toInt < 0)
      | none => false
    if late then count 0x7418 9 1 s
    else { s with fusion := { s.fusion with store := tblPut (s.fusion.store.filter (fun e => e.1 ≠ i)) i r } }

/-- Records that a job's staged bytes wrote, taken in at its publish. -/
def fusionTakeIn (staged : Tbl (BitVec 8)) (s : State) : State :=
  forEach (List.range 16) (fun i s =>
    match recordRange s i with
    | some (a, n) => if overlayHits staged a n then fusionTake i (peek s a n) s else s
    | none => s) s

/-! ## Masks (R315) -/

/-- A track entry (R312, R318). -/
structure Track where
  id  : Nat
  cls : Nat
  xs  : List (BitVec 32)
  deriving DecidableEq, Repr

def parseTrack (b : Bytes) : Track :=
  ⟨fieldAt b 0 4, fieldAt b 4 2, (List.range 6).map (fun k => BitVec.ofNat 32 (fieldAt b (8 + 4 * k) 4))⟩

def recCount (r : Bytes) : Nat := fieldAt r 6 2
def recTracks (r : Bytes) : List Track := (List.range (recCount r)).map (fun k => parseTrack (bytesAt r (64 + 32 * k) 32))
/-- RAW elements, or FEATURE elements widened from BF16. -/
def recElems (level : Nat) (r : Bytes) : List (BitVec 32) :=
  (List.range (recCount r)).map (fun k =>
    if level = 0 then BitVec.ofNat 32 (fieldAt r (64 + 4 * k) 4) else BitVec.ofNat 32 (fieldAt r (64 + 2 * k) 2 * 2 ^ 16))

/-- Is a record malformed for its group? A record shorter than its COUNT says is (log 32). -/
def recMalformed (level elems : Nat) (r : Bytes) : Bool :=
  fieldAt r 5 1 != level || (if level = 2 then decide (elems < recCount r) else recCount r != elems) ||
  decide (4 ≤ fieldAt r 4 1) || !((bytesAt r 8 56).all (fun b => b == 0)) ||
  decide (r.length < 64 + elemBytes level * recCount r) ||
  (level == 2 && (List.range (recCount r)).any (fun k => fieldAt r (64 + 32 * k + 6) 2 != 0))

/-- Is some value out of the range of R315? -/
def recOutOfRange (s : State) (i level : Nat) (r : Bytes) : Bool :=
  let lo := fpDecode fmtF32 (cfg s (0x5010 + i) 6)
  let hi := fpDecode fmtF32 (cfg s (0x5010 + i) 7)
  let bad (x : BitVec 32) : Bool := !(fpFinite (f32 x)) || fpLt (f32 x) lo || fpLt hi (f32 x)
  if level = 2 then (recTracks r).any (fun t => (t.xs.take 3).any bad || (t.xs.drop 3).any (fun x => !(fpFinite (f32 x))))
  else (recElems level r).any (fun x => if level = 0 then bad x else !(fpFinite (f32 x)))

/-- STATUS of an input at the cycle instant T (R315). -/
def inputStatus (s : State) (t i : Nat) : Nat :=
  match s.fusion.store.find? (fun e => e.1 = i) with
  | none => 1
  | some (_, r) =>
    let level := groupLevel s (inputGroup s i)
    let age := (stampOf t - BitVec.ofNat 32 (fieldAt r 0 4)).toInt
    if recMalformed level (groupElems s (inputGroup s i)) r then 2
    else if age < -1000000 then 3
    else if (1000 * cfg s (0x5010 + i) 5 : Nat) < age then 4
    else if fieldAt r 4 1 % 4 ≠ 1 then 5
    else if recOutOfRange s i level r then 6
    else 0

/-- Counter of a STATUS. -/
def statusCounter (st : Nat) : Option Nat :=
  match st with
  | 1 => some 3
  | 2 => some 5
  | 3 => some 6
  | 4 => some 2
  | 5 => some 4
  | 6 => some 5
  | _ => none

/-! ## Contradictions (R316) -/

/-- Decisions of one pass: the inputs left, those decided by trust, those of equal trust. -/
structure Verdict where
  masked : List Nat := []
  trust  : Nat := 0
  equal  : Nat := 0
  deriving DecidableEq, Repr

/-- Pairs in ascending a then b; a pair with a masked input is skipped. -/
def resolvePairs (trust : Nat → Nat) (contra : Nat → Nat → Bool) (ins : List Nat) : Verdict :=
  (ins.map (fun a => (ins.filter (fun b => decide (a < b))).map (fun b => (a, b)))).flatten.foldl (fun v p =>
    if p.1 ∈ v.masked ∨ p.2 ∈ v.masked ∨ !(contra p.1 p.2) then v
    else if trust p.1 < trust p.2 then { v with masked := p.1 :: v.masked, trust := v.trust + 1 }
    else if trust p.2 < trust p.1 then { v with masked := p.2 :: v.masked, trust := v.trust + 1 }
    else { v with masked := p.1 :: p.2 :: v.masked, equal := v.equal + 1 }) {}

/-- Mean over elements of |a - b| above TOLERANCE. -/
def rawContra (tol : Fp) (a b : List (BitVec 32)) : Bool :=
  fpLt (fpMul tol (.fin false a.length 0)) (fpSum ((a.zip b).map (fun x => fpAbs (fpSub (f32 x.1) (f32 x.2)))))

/-- Cosine below TOLERANCE; a vector of norm 0 has cosine 0. -/
def cosContra (tol : Fp) (a b : List (BitVec 32)) : Bool :=
  let dot := fpSum ((a.zip b).map (fun x => fpMul (f32 x.1) (f32 x.2)))
  let n := fpMul (fpSum (a.map (fun x => fpSq (f32 x)))) (fpSum (b.map (fun x => fpSq (f32 x))))
  if fpEq n fpZero then fpLt fpZero tol
  else if fpLt tol fpZero then fpLt dot fpZero && fpLt (fpMul (fpSq tol) n) (fpSq dot)
  else fpLt dot fpZero || fpLt (fpSq dot) (fpMul (fpSq tol) n)

/-- CLASS differs, or positions more than TOLERANCE apart. -/
def trackContra (tol : Fp) (a b : Track) : Bool :=
  let d2 := fpSum (((a.xs.take 3).zip (b.xs.take 3)).map (fun x => fpSq (fpSub (f32 x.1) (f32 x.2))))
  a.cls != b.cls || fpLt tol fpZero || fpLt (fpSq tol) d2

/-! ## Fused values (R317) -/

/-- Sum of TRUST x value over contributors in ascending input order, divided once by the sum of TRUST. -/
def fuse (vals : List (Nat × BitVec 32)) : BitVec 32 :=
  match vals.map (fun v => f32Mul (f32OfNat v.1) v.2) with
  | [] => 0
  | x :: xs => f32DivNat (xs.foldl f32Add x) (sumNat (vals.map (fun v => v.1)))

/-- One group's outcome of a cycle. -/
structure GroupOut where
  flags   : Nat
  mask    : Nat
  conf    : BitVec 32
  cnt     : Nat
  payload : Bytes
  trust   : Nat
  equal   : Nat
  dropped : Nat
  deriving DecidableEq, Repr

def trustSum (s : State) (ins : List Nat) : Nat := sumNat (ins.map (inputTrust s))

/-- Inputs configured in group g. -/
def groupInputs (s : State) (g : Nat) : List Nat := (List.range 16).filter (fun i => inputGroup s i = g)

def heldRec (s : State) (i : Nat) : Bytes := ((s.fusion.store.find? (fun e => e.1 = i)).map (fun e => e.2)).getD []

/-- A RAW or FEATURE group (R316-R318). -/
def fuseElems (s : State) (g : Nat) (ok : List Nat) : GroupOut :=
  let level := groupLevel s g
  let el (i : Nat) : List (BitVec 32) := recElems level (heldRec s i)
  let v := resolvePairs (inputTrust s)
    (fun a b => if level = 0 then rawContra (groupTol s g) (el a) (el b) else cosContra (groupTol s g) (el a) (el b)) ok
  let ins := ok.filter (fun i => !(decide (i ∈ v.masked)))
  let vals := ins.map (fun i => (inputTrust s i, el i))
  { flags := (if ins = [] then 2 else 0) + (if v.equal = 0 then 0 else 1), mask := ofBits ins,
    conf := f32Ratio (trustSum s ins) (trustSum s (groupInputs s g)), cnt := groupElems s g,
    payload := ((List.range (groupElems s g)).map (fun k => leBytes 4 (fuse (vals.map (fun x => (x.1, nth 0 x.2 k)))).toNat)).flatten,
    trust := v.trust, equal := v.equal, dropped := 0 }

/-- The track of an identity in an input's record: the first that has it. -/
def trackOf (s : State) (i id : Nat) : Option Track := (recTracks (heldRec s i)).find? (fun t => t.id = id)

/-- One fused track: its entry, its contributors, its verdict. -/
def fuseTrack (s : State) (g : Nat) (ok : List Nat) (id : Nat) : Bytes × List Nat × Verdict :=
  let who := ok.filter (fun i => (trackOf s i id).isSome)
  let tr (i : Nat) : Track := (trackOf s i id).getD ⟨id, 0, []⟩
  let v := resolvePairs (inputTrust s) (fun a b => trackContra (groupTol s g) (tr a) (tr b)) who
  let ins := who.filter (fun i => !(decide (i ∈ v.masked)))
  let best := ins.foldl (fun (acc : Option Nat) i => match acc with
    | none => some i
    | some b => if inputTrust s b < inputTrust s i then some i else some b) none
  let cls := (best.map (fun i => (tr i).cls)).getD 0
  let comp (k : Nat) : BitVec 32 := fuse (ins.map (fun i => (inputTrust s i, nth 0 (tr i).xs k)))
  (leBytes 4 id ++ leBytes 2 cls ++ leBytes 2 (ofBits ins) ++ ((List.range 6).map (fun k => leBytes 4 (comp k).toNat)).flatten ++
    leBytes 4 (f32Ratio (trustSum s ins) (trustSum s (groupInputs s g))).toNat ++ leBytes 1 (if v.equal = 0 then 0 else 1) ++
    zeros 11, ins, v)

/-- A TRACK group (R316-R318). -/
def fuseTracks (s : State) (g : Nat) (ok : List Nat) : GroupOut :=
  let ids : List Nat := sortBy (fun a b => decide (a ≤ b)) (dedup (ok.map (fun i => (recTracks (heldRec s i)).map (fun t => t.id))).flatten)
  let all := ids.map (fuseTrack s g ok)
  let kept := all.take 256
  let ins := ok.filter (fun i => kept.any (fun t => decide (i ∈ t.2.1)))
  let empty := ok = [] ∨ kept.any (fun t => t.2.1 = [])
  { flags := (if 256 < all.length then 4 else 0) + (if empty then 2 else 0) + (if all.any (fun t => t.2.2.equal != 0) then 1 else 0),
    mask := ofBits ins, conf := f32Ratio (trustSum s ins) (trustSum s (groupInputs s g)), cnt := kept.length,
    payload := (kept.map (fun t => t.1)).flatten, trust := sumNat (all.map (fun t => t.2.2.trust)),
    equal := sumNat (all.map (fun t => t.2.2.equal)), dropped := all.length - kept.length }

def fuseGroup (s : State) (g : Nat) (ok : List Nat) : GroupOut := if groupLevel s g = 2 then fuseTracks s g ok else fuseElems s g ok

/-! ## The cycle (R314, R318, R319) -/

/-- The first instant after `after`, not before `from_`, that is `phase` modulo `period`. -/
def nextInstant (period phase from_ : Nat) (after : Option Nat) : Nat :=
  let lo := max from_ ((after.map (· + 1)).getD 0)
  let t := lo / period * period + phase
  if lo ≤ t then t else t + period

/-- The cycle at instant T; one that a failure event struck (R418), and the first after a function reset (R276), has every group EMPTY. -/
def fusionCycle (t : Nat) (s : State) : State :=
  let used := (List.range 16).filter (inputUsed s)
  let sts := used.map (fun i => (i, inputStatus s t i))
  let spoiled : Bool := decide (0x13 ∈ s.island.spoil) || s.fusion.wiped
  let ok (g : Nat) : List Nat := if spoiled then [] else (sts.filter (fun x => x.2 = 0 && inputGroup s x.1 == g)).map (fun x => x.1)
  let groups := (List.range 8).filter (fun g => groupLevel s g != 0xff)
  let outs := groups.map (fun g => (g, fuseGroup s g (ok g)))
  let c := s.fusion.cycle + 1
  let base := ownPhysical s (fusionOut s) + 0x21000 * (c.toNat % 2)
  let degraded := outs.any (fun o => o.2.flags % 2 == 1)
  let s := forEach sts (fun x s => match statusCounter x.2 with | some k => count 0x7418 k 1 s | none => s) s
  let s := { s with fusion := { s.fusion with
    status := sts.foldl (fun m x => tblSet 1 m x.1 (BitVec.ofNat 8 x.2)) s.fusion.status } }
  let s := pokeCistern base (leBytes 4 c.toNat ++ leBytes 1 groups.length ++
    leBytes 1 ((if s.fusion.first then 2 else 0) + (if degraded then 1 else 0)) ++ zeros 58) s
  let s := forEach (List.range 8) (fun g s => match outs.find? (fun o => o.1 = g) with
    | some (_, o) => pokeCistern (base + 0x400 + 0x4000 * g) o.payload (pokeCistern (base + 0x40 + 32 * g)
        (leBytes 1 (groupLevel s g) ++ leBytes 1 o.flags ++ leBytes 2 o.mask ++ leBytes 4 o.conf.toNat ++ leBytes 2 o.cnt ++ [0, 0] ++
          leBytes 4 (0x400 + 0x4000 * g) ++ zeros 16) s)
    | none => pokeCistern (base + 0x40 + 32 * g) ([0xff] ++ zeros 31) s) s
  let s := { s with island := { s.island with spoil := s.island.spoil.filter (· ≠ 0x13) } }
  let s := count 0x7418 7 (sumNat (outs.map (fun o => o.2.trust))) s
  let s := count 0x7418 8 (sumNat (outs.map (fun o => o.2.equal))) s
  let s := count 0x7418 0x0a (sumNat (outs.map (fun o => o.2.dropped))) s
  let s := if outs.any (fun o => o.2.flags / 2 % 2 == 1) then count 0x7418 0x0b 1 s else s
  let s := count 0x7418 1 1 { s with fusion := { s.fusion with cycle := c, first := false, wiped := false, lastAt := some t } }
  if cfg s 0x5000 4 = 0 then raiseEvent none (cfg s 0x5000 5) s else notifySubs 0x50 (leBytes 4 c.toNat) s

/-- Start: the store is emptied; the first instant after the write is the first cycle (R320). -/
def fusionStart (s : State) : State :=
  if s.fusion.running then s
  else { s with fusion := { s.fusion with running := true, store := [], first := true, lastAt := some (now s) } }

/-- Stop: cycles end and the store is emptied (R320). -/
def fusionStop (s : State) : State := { s with fusion := { s.fusion with running := false, store := [] } }

/-- FUSION_CYCLE: the next cycle instant of a unit that acts (R314). -/
def execFusionCycle (s : State) : Res :=
  if fusionActs s then
    let t := nextInstant (1000 * cfg s 0x5000 1) (1000 * cfg s 0x5000 2) (now s) s.fusion.lastAt
    .next (fusionCycle t (clockTo t s))
  else .next s

end Sys2Proof.Machine
end

