-- ==== Sys2Proof/Machine/Solver.lean ====
section
/-!
DEFINITION. Sys2Proof/Machine/Solver.lean: the sparse solver (R322-R340): schedules, records, the reference, factor and
solve with bounded pivots, outputs. What the compiled program decides is free: its update program, the order of its sums, its
use of FMA (log 33).
-/

namespace Sys2Proof.Machine

/-! ## Schedules (R324, R325, R329, R330) -/

def schedSlot (s : State) (k : Nat) : SchedSlot := tblGet {} s.solver.slots k
def schedMod (k : Nat) (f : SchedSlot → SchedSlot) (s : State) : State :=
  { s with solver := { s.solver with slots := tblMod {} s.solver.slots k f } }

def schRounds (b : Bytes) : Nat := fieldAt b 2 1
def schN (b : Bytes) : Nat := fieldAt b 4 2
def schNP (b : Bytes) : Nat := fieldAt b 6 2
def schNnzK (b : Bytes) : Nat := fieldAt b 8 4
def schNnz (b : Bytes) : Nat := fieldAt b 0x0c 4
def schCycles (b : Bytes) : Nat := fieldAt b 0x10 4
def schConsts (b : Bytes) : Nat := fieldAt b 0x14 4
def schFinger (b : Bytes) : BitVec 64 := BitVec.ofNat 64 (fieldAt b 0x18 8)
def schPerm (b : Bytes) : List Nat := (List.range (schN b)).map (fun i => fieldAt b (fieldAt b 0x20 4 + 2 * i) 2)
/-- Column pointers of the pattern. -/
def schPtr (b : Bytes) : List Nat := (List.range (schN b + 1)).map (fun i => fieldAt b (fieldAt b 0x24 4 + 4 * i) 4)
/-- Row indices of column j. -/
def schCol (b : Bytes) (j : Nat) : List Nat :=
  let p := schPtr b
  let base := fieldAt b 0x24 4 + 4 * (schN b + 1)
  (List.range (nth 0 p (j + 1) - nth 0 p j)).map (fun i => fieldAt b (base + 2 * (nth 0 p j + i)) 2)

/-- The PERM and PATTERN sections. -/
def permBytes (b : Bytes) : Bytes := bytesAt b (fieldAt b 0x20 4) (2 * schN b)
def patternBytes (b : Bytes) : Bytes := bytesAt b (fieldAt b 0x24 4) (4 * (schN b + 1) + 2 * schNnzK b)

/-- The structure fingerprint (R325). -/
def fingerprint (b : Bytes) : BitVec 64 :=
  BitVec.ofNat 64 (leNat ((sha512 (bytesAt b 4 4 ++ permBytes b ++ patternBytes b)).take 8))

/-- Strictly rising? -/
def rising : List Nat → Bool
  | a :: b :: r => decide (a < b) && rising (b :: r)
  | _ => true

/-- Is the PATTERN section consistent: pointers from 0 to NNZ_K, each column its diagonal first, rows ascending below N? -/
def patternOk (b : Bytes) : Bool :=
  let p := schPtr b
  nth 0 p 0 == 0 && nth 0 p (schN b) == schNnzK b &&
  (List.range (schN b)).all (fun j =>
    decide (nth 0 p j < nth 0 p (j + 1)) && (schCol b j).head? == some j && rising (schCol b j) && (schCol b j).all (fun r => decide (r < schN b)))

/-- The checks of a load on the tensor's SIZE bytes (R329), the 1 MiB of the problem record among the limits of R323. -/
def scheduleOk (b : Bytes) : Bool :=
  let f := fieldAt b
  decide (64 ≤ b.length ∧ b.length ≤ 1048576 ∧ f 0 2 = 1 ∧ f 3 1 = 0 ∧ 1 ≤ schRounds b ∧ schRounds b ≤ 16 ∧ 1 ≤ schN b ∧ schN b ≤ 4096 ∧
    1 ≤ schNP b ∧ schNP b ≤ schN b ∧ schNnz b ≤ 65536 ∧ schN b ≤ schNnzK b ∧ schNnzK b ≤ schNnz b + schN b) &&
  (bytesAt b 0x34 12).all (fun x => x == 0) &&
  decide (64 + 8 * (schNnzK b + schN b + schConsts b) ≤ 1048576) &&
  decide (f 0x20 4 + 2 * schN b ≤ b.length ∧ f 0x24 4 + 4 * (schN b + 1) + 2 * schNnzK b ≤ b.length ∧ f 0x28 4 + f 0x2c 4 ≤ b.length) &&
  (List.range (schN b)).all (fun i => decide (i ∈ schPerm b)) && patternOk b &&
  BitVec.ofNat 32 (f 0x30 4) == crc32c (b.take 0x30 ++ b.drop 0x40) && fingerprint b == schFinger b

/-- T_SOLVE of a schedule in ns (R330). -/
def solveNs (b : Bytes) : Nat := 5000 + ceilDiv (schCycles b * 5) 4

/-- Does slot k meet the bound of R330 for a PERIOD in us? -/
def slotMeets (s : State) (k period : Nat) : Bool :=
  (schedSlot s k).state == .loaded && decide (solveNs (schedSlot s k).image + 10000 ≤ 1000 * period)

/-- The current version's SIZE bytes of a tensor at any home (R235). -/
def currentBytes (i : Nat) (s : State) : Option Bytes := versionBytes s i (tensorOf s i).version

/-- A load begins: the tensor's current version is read; earlier contents are lost (R329). -/
def loadSchedule (k : Nat) (s : State) : State :=
  let h := cfg s (0x5810 + k) 1
  match tensorNamed s h with
  | none => schedMod k (fun _ => { state := .loading }) s
  | some i =>
    let t := tensorOf s i
    if t.state = .valid ∧ !t.kind ∧ t.size ≤ 1048576 then
      schedMod k (fun _ => { state := .loading, image := (currentBytes i s).getD [] }) s
    else schedMod k (fun _ => { state := .loading }) s

/-- The load's outcome. -/
def finishSchedule (k : Nat) (s : State) : State :=
  if (schedSlot s k).state ≠ .loading then s
  else if scheduleOk (schedSlot s k).image then schedMod k (fun x => { x with state := .loaded }) s
  else count 0x7419 8 1 (schedMod k (fun _ => { state := .rejected }) s)

/-! ## Inputs (R331, R332) -/

/-- The schedule slot that SELECT names. -/
def solverSel (s : State) : Nat := cfg s 0x5800 0x0b
def selImage (s : State) : Bytes := (schedSlot s (solverSel s)).image
/-- Bytes of the problem record of the selected schedule. -/
def recordLen (b : Bytes) : Nat := 64 + 8 * (schNnzK b + schN b + schConsts b)

/-- Does the solver take input and run cycles: running, its domain on (R19), the control complex not resetting (R275)? -/
def solverActs (s : State) : Bool := s.solver.running && works s 11 && !(s.resetting.getLsbD 10)

/-- A record reaches the store; out of order it is discarded (R331, R313). -/
def solverTake (r : Bytes) (s : State) : State :=
  if !(solverActs s) then s
  else
    let late : Bool := match s.solver.record with
      | some old => decide ((BitVec.ofNat 32 (fieldAt r 0 4) - BitVec.ofNat 32 (fieldAt old 0 4)).toInt < 0)
      | none => false
    if late then count 0x7419 7 1 s else { s with solver := { s.solver with record := some r } }

/-- A record that a job's staged bytes wrote into AREA, taken in at its publish. -/
def solverTakeIn (staged : Tbl (BitVec 8)) (s : State) : State :=
  let n := recordLen (selImage s)
  let a := ownPhysical s (cfg s 0x5800 4)
  if cfg s 0x5800 3 = 0 ∧ overlayHits staged a n then solverTake (peek s a n) s else s

/-- An F32 widened exactly to F64. -/
def widen64 (x : BitVec 32) : BitVec 64 := toF64 (f32 x)

/-- The REF section at instant T: its values, the flags REF_END and NO_REF, the OUTPUT number used. -/
structure RefSection where
  vals   : List (BitVec 64)
  flags  : Nat
  output : BitVec 32
  deriving DecidableEq, Repr

def noRef (d : Nat) : RefSection := ⟨List.replicate (2 * d) 0, 4, 0xffffffff⟩

/-- Linear interpolation from a to b at f / dt of the interval: one of the rounded forms that R322 allows (log 33). -/
def lerp64 (a b : BitVec 64) (f dt : Nat) : BitVec 64 :=
  let w := f64Div (toF64 (.fin false f 0)) (toF64 (.fin false dt 0))
  match Config.lerpForm % 6 with
  | 0 => f64Add a (f64Mul w (f64Sub b a))
  | 1 => f64Fma w (f64Sub b a) a
  | 2 => f64Add (f64Mul (f64Sub f64One w) a) (f64Mul w b)
  | 3 => f64Fma w b (f64Mul (f64Sub f64One w) a)
  | 4 => f64Sub (f64Fma w b a) (f64Mul w a)
  | _ => f64Add a (f64Div (f64Mul (f64Sub b a) (toF64 (.fin false f 0))) (toF64 (.fin false dt 0)))

/-- The reference of a cycle (R332). -/
def reference (s : State) (t : Nat) : RefSection :=
  let d := cfg s 0x5800 6
  let dt := 1000 * cfg s 0x5800 7
  match s.solver.ref with
  | none => noRef d
  | some r =>
    let n := fieldAt r 0x14 4 / (8 * d)
    if d = 0 ∨ !(domainOn s 13) ∨ fieldAt r 4 1 = 1 ∨ fieldAt r 0x14 4 % (8 * d) ≠ 0 ∨ n < 2 then noRef d
    else
      let x := (stampOf t - BitVec.ofNat 32 (fieldAt r 0x18 4)).toInt
      let base := ownPhysical s (fieldAt r 0x20 8)
      let knot (j k : Nat) : BitVec 64 := widen64 (BitVec.ofNat 32 (peekNat s (base + 8 * d * j + 4 * k) 4))
      let out := BitVec.ofNat 32 (fieldAt r 0x1c 4)
      if x ≤ 0 then ⟨(List.range (2 * d)).map (knot 0), 0, out⟩
      else
        let j := x.toNat / dt
        let f := x.toNat % dt
        if n - 1 < j ∨ (j = n - 1 ∧ 0 < f) then ⟨(List.range (2 * d)).map (knot (n - 1)), 8, out⟩
        else if f = 0 then ⟨(List.range (2 * d)).map (knot j), 0, out⟩
        else ⟨(List.range (2 * d)).map (fun k => lerp64 (knot j k) (knot (j + 1) k) f dt), 0, out⟩

/-! ## Rounds (R334, R335) -/

def finite64 (x : BitVec 64) : Bool := fpFinite (f64 x)

/-- tau of a K's diagonal: 2^-40 x the largest |K_jj|, 2^-40 where that is 0; exact. -/
def pivotTau (diag : List (BitVec 64)) : BitVec 64 :=
  let m := diag.foldl (fun acc x => let a := fpAbs (f64 x); if fpLt acc a then a else acc) fpZero
  toF64 (fpMul (if fpEq m fpZero then .fin false 1 0 else m) (.fin false 1 (-40)))

/-- A pivot, and whether it was replaced (R334). -/
def boundPivot (tau d : BitVec 64) : BitVec 64 × Bool :=
  if fpEq (f64 d) fpZero then (tau, true)
  else if fpLt (fpAbs (f64 d)) (f64 tau) then ((if fpNegative (f64 d) then toF64 (fpNeg (f64 tau)) else tau), true)
  else (d, false)

/-- Entry (i, j) of K in pivot order; +0 outside the pattern. -/
def kEntry (b : Bytes) (k : List (BitVec 64)) (i j : Nat) : BitVec 64 :=
  match ((schCol b j).zipIdx.find? (fun x => x.1 = i)) with
  | some (_, p) => nth 0 k (nth 0 (schPtr b) j + p)
  | none => 0

/-! ## Sums of a compiled program (R322, R324) -/

/-- Leaves of a plan, left to right. -/
def planLeaves : Config.SumPlan → List Nat
  | .leaf k => [k]
  | .node _ l r => planLeaves l ++ planLeaves r

/-- The products one after another, each rounded. -/
def planSeq : Nat → Config.SumPlan
  | 0 => .leaf 0
  | n + 1 => .node false (planSeq n) (.leaf (n + 1))

/-- The plan where its leaves are 0 .. n, each once; else the sequential one. -/
def planFor (p : Config.SumPlan) (n : Nat) : Config.SumPlan :=
  if (planLeaves p).length = n + 1 ∧ (List.range (n + 1)).all (fun k => decide (k ∈ planLeaves p)) then p else planSeq n

/-- Product k of the list negated, as two factors. -/
def negTerm (ts : List (BitVec 64 × BitVec 64)) (k : Nat) : BitVec 64 × BitVec 64 :=
  let t := nth (0, 0) ts (k - 1)
  (t.1 ^^^ 0x8000000000000000, t.2)

/-- The sum of a plan: every addition and product rounds to nearest even, an FMA once (R322). -/
def planSum (a : BitVec 64) (ts : List (BitVec 64 × BitVec 64)) : Config.SumPlan → BitVec 64
  | .leaf k => if k = 0 then a else let t := negTerm ts k; f64Mul t.1 t.2
  | .node fma l r =>
    match fma, r with
    | true, .leaf k => if k = 0 then f64Add (planSum a ts l) a else let t := negTerm ts k; f64Fma t.1 t.2 (planSum a ts l)
    | _, _ => f64Add (planSum a ts l) (planSum a ts r)

/-- `a` less the products of `ts`, in the program's order for a place of a round. -/
def solverSum (b : Bytes) (round site : Nat) (a : BitVec 64) (ts : List (BitVec 64 × BitVec 64)) : BitVec 64 :=
  planSum a ts (planFor (Config.sumPlan b round site ts.length) ts.length)

/-- A quotient as the program forms it. -/
def solverQuot (b : Bytes) (x d : BitVec 64) : BitVec 64 :=
  if Config.solverRecip b then f64Mul x (f64Div f64One d) else f64Div x d

/-! ## Factor and solve (R334) -/

/-- Factor columns: entry (i, j) of L strictly below the diagonal and the undivided entry, by key i x 4096 + j; unlisted is 0. -/
structure Factor where
  l     : Tbl (BitVec 64) := []
  u     : Tbl (BitVec 64) := []
  d     : List (BitVec 64) := []
  regs  : Nat := 0
  deriving DecidableEq, Repr

def lEntry (f : Factor) (i j : Nat) : BitVec 64 := tblGet 0 f.l (4096 * i + j)
def uEntry (f : Factor) (i j : Nat) : BitVec 64 := tblGet 0 f.u (4096 * i + j)
/-- Is entry (i, j) of L stored? -/
def lHeld (f : Factor) (i j : Nat) : Bool := f.l.any (fun e => e.1 = 4096 * i + j)

/-- L_ic x D_c x L_jc as two factors: two of the three multiplied first, or an undivided entry L x D, as the program has it. -/
def tripleTerm (f : Factor) (pick i j c : Nat) : BitVec 64 × BitVec 64 :=
  let d := nth 0 f.d c
  match pick % 5 with
  | 0 => (f64Mul (lEntry f i c) d, lEntry f j c)
  | 1 => (lEntry f i c, f64Mul d (lEntry f j c))
  | 2 => (f64Mul (lEntry f i c) (lEntry f j c), d)
  | 3 => (uEntry f i c, lEntry f j c)
  | _ => (lEntry f i c, uEntry f j c)

/-- Columns c below j with L_jc and L_ic both stored: the products of entry (i, j). -/
def lCols (f : Factor) (i j : Nat) : List Nat := (List.range j).filter (fun c => lHeld f j c && (i = j || lHeld f i c))

/-- Entry (i, j) of the column before division: K_ij less the products. -/
def entrySum (b : Bytes) (round : Nat) (k : List (BitVec 64)) (f : Factor) (i j : Nat) : BitVec 64 :=
  let site := 4096 * i + j
  solverSum b round site (kEntry b k i j)
    ((lCols f i j).zipIdx.map (fun c => tripleTerm f (Config.solverAssoc b round site c.2) i j c.1))

/-- One column of K = L D L^T in pivot order, its pivot bounded (R334). -/
def factorColumn (b : Bytes) (round : Nat) (k : List (BitVec 64)) (tau : BitVec 64) (f : Factor) (j : Nat) : Factor :=
  let p := boundPivot tau (entrySum b round k f j j)
  let rows := (List.range (schN b)).filter (fun i => decide (j < i) && ((schCol b j).any (fun r => r == i) || lCols f i j != []))
  { l := rows.foldl (fun t i => tblPut t (4096 * i + j) (solverQuot b (entrySum b round k f i j) p.1)) f.l,
    u := rows.foldl (fun t i => tblPut t (4096 * i + j) (entrySum b round k f i j)) f.u,
    d := f.d ++ [p.1], regs := f.regs + (if p.2 then 1 else 0) }

def factorK (b : Bytes) (round : Nat) (k : List (BitVec 64)) : Factor :=
  let tau := pivotTau ((List.range (schN b)).map (fun j => kEntry b k j j))
  (List.range (schN b)).foldl (factorColumn b round k tau) {}

/-- Forward and backward substitution (R334): L y = rhs, D z = y, L^T x = z, in pivot order. -/
def solveStep (b : Bytes) (round : Nat) (f : Factor) (rhs : List (BitVec 64)) : List (BitVec 64) :=
  let n := schN b
  let y := (List.range n).foldl (fun (y : List (BitVec 64)) i =>
    y ++ [solverSum b round (2 ^ 24 + i) (nth 0 rhs i) (((List.range i).filter (lHeld f i)).map
      (fun c => (lEntry f i c, nth 0 y c)))]) []
  let z := (List.range n).map (fun i => solverQuot b (nth 0 y i) (nth 0 f.d i))
  (List.range n).reverse.foldl (fun (x : List (BitVec 64)) i =>
    solverSum b round (2 ^ 25 + i) (nth 0 z i) (((List.range n).filter (fun r => decide (i < r) && lHeld f r i)).map
      (fun r => (lEntry f r i, nth 0 x (r - i - 1)))) :: x) []

/-- What the rounds of a cycle give. -/
structure Solve where
  it    : List (BitVec 64)
  step  : List (BitVec 64) := []
  fac   : Factor := {}
  regs  : Nat := 0
  deriving DecidableEq, Repr

/-- One round: form, factor, solve, update. -/
def solveRound (b rec : Bytes) (ref : List (BitVec 64)) (w : Solve) (round : Nat) : Solve :=
  let v := Config.solverForm b rec ref round w.it
  let f := factorK b round (v.take (schNnzK b))
  let x := solveStep b round f (v.drop (schNnzK b))
  { it := Config.solverNext b rec ref round w.it x, step := x, fac := f, regs := w.regs + f.regs }

def solveAll (b rec : Bytes) (ref it : List (BitVec 64)) : Solve := (List.range (schRounds b)).foldl (solveRound b rec ref) { it := it }

/-- The check after the last round (R335): D, L, solution and final iterate. -/
def solveOk (w : Solve) : Bool :=
  w.fac.d.all finite64 && w.fac.l.all (fun e => finite64 e.2) && w.step.all finite64 && w.it.all finite64

/-- The primal solution in variable order, from the iterate in pivot order (R338; log 33). -/
def primal (b : Bytes) (it : List (BitVec 64)) : List (BitVec 64) :=
  (List.range (schNP b)).map (fun v => match ((schPerm b).zipIdx.find? (fun p => p.1 = v)) with
    | some (_, p) => nth 0 it p
    | none => 0)

/-! ## The cycle (R333, R336, R337) -/

/-- STATUS 1 to 7 of the input checks; 0 where they pass (R333). A record of another length is MALFORMED (log 33). -/
def solverChecks (s : State) (t : Nat) (ref : RefSection) : Nat :=
  match s.solver.record with
  | none => 1
  | some r =>
    let b := selImage s
    let age := (stampOf t - BitVec.ofNat 32 (fieldAt r 0 4)).toInt
    if BitVec.ofNat 64 (fieldAt r 8 8) ≠ schFinger b then 2
    else if 2 ≤ fieldAt r 4 1 ∨ fieldAt r 5 3 ≠ 0 ∨ !((bytesAt r 0x10 48).all (fun x => x == 0)) ∨ r.length ≠ recordLen b then 3
    else if age < -1000000 then 4
    else if (1000 * cfg s 0x5800 5 : Nat) < age then 5
    else if fieldAt r 4 1 = 0 then 6
    else if !((List.range (schNnzK b + schN b + schConsts b)).all (fun i => finite64 (BitVec.ofNat 64 (fieldAt r (64 + 8 * i) 8)))) ∨
        !(ref.vals.all finite64) then 7
    else 0

/-- May the cycle start warm (R336)? -/
def warmOk (s : State) : Bool :=
  cfg s 0x5800 0x0a == 1 && s.solver.prevValid &&
  (match s.solver.iterate with | some i => i.fingerprint == schFinger (selImage s) | none => false)

/-- The cycle at instant T: its output is computed and becomes visible at T + T_SOLVE. -/
def solverCycle (t : Nat) (s : State) : State :=
  let b := selImage s
  let ref := reference s t
  let st := solverChecks s t ref
  let rec_ := s.solver.record.getD []
  let warm := warmOk s
  let w : Solve := if st = 0 then
      solveAll b rec_ ref.vals (if warm then (s.solver.iterate.map (fun i => i.values)).getD [] else Config.solverInit b rec_)
    else { it := [] }
  let status := if st ≠ 0 then st else if solveOk w then 0 else 8
  let cold : Bool := decide (st = 0) && !warm
  let mismatch : Bool := match s.solver.iterate with
    | some i => cold && s.solver.prevValid && cfg s 0x5800 0x0a == 1 && i.fingerprint != schFinger b
    | none => false
  let s := if cold then count 0x7419 2 1 s else s
  let s := if mismatch then count 0x7419 3 1 s else s
  let s := count 0x7419 4 w.regs s
  let s := if ref.output = 0xffffffff then s else count 0x7419 9 1 s
  let c := s.solver.cycle + 1
  let out : SolverOut :=
    { cycle := c, status := BitVec.ofNat 8 status,
      flags := BitVec.ofNat 8 ((if s.solver.first then 16 else 0) + ref.flags + (if cold then 2 else 0) + (if w.regs = 0 then 0 else 1)),
      regCount := BitVec.ofNat 16 w.regs, fingerprint := schFinger b, stamp := BitVec.ofNat 32 (fieldAt rec_ 0 4),
      refOutput := ref.output, x := if status = 0 then primal b w.it else List.replicate (schNP b) 0 }
  let it : Option Iterate := if status = 0 then some ⟨schFinger b, w.it⟩ else none
  { s with solver := { s.solver with
    cycle := c, first := false, lastAt := some t, solving := some (out, it), outputAt := t + solveNs b } }

/-- The bytes of an output (R338). -/
def solverOutBytes (o : SolverOut) : Bytes :=
  leBytes 4 o.cycle.toNat ++ [o.status, o.flags] ++ leBytes 2 o.regCount.toNat ++ leBytes 8 o.fingerprint.toNat ++
  leBytes 4 o.stamp.toNat ++ leBytes 4 o.refOutput.toNat ++ zeros 8 ++ (o.x.map (fun x => leBytes 8 x.toNat)).flatten

/-- A safe-state cause that is configurable acts only while its TRIGGERS bit is set (R435, R436). -/
def trigger (cause : Nat) (detail : BitVec 32) (s : State) : State :=
  if (cfg s 0x4000 9).testBit cause then enterSafe cause detail false s else s

/-- The output that readers see, in the buffer switched to last (R338). -/
def solverVisible (s : State) : Option SolverOut :=
  s.solver.visible.bind (fun b => (s.solver.buffers.find? (fun e => e.1 = b)).map (fun e => e.2))

/-- The invalid outputs in a row have reached INVALID_LIMIT and not yet been reported: SOLVER_INVALID, once until the next VALID (R339). -/
def solverInvalid (o : SolverOut) (s : State) : State :=
  if o.status ≠ 0 ∧ !s.solver.warned ∧ cfg s 0x5800 9 ≤ s.solver.invalid then
    trigger 5 o.cycle (count 0x7419 0x0a 1 { s with solver := { s.solver with warned := true } })
  else s

/-- The output instant: buffer c mod 2 is written and the view switches to it, the copy goes to OUT, invalid outputs are counted (R335, R337, R339). -/
def solverOutput (s : State) : State :=
  match s.solver.solving with
  | none => s
  | some (o, it) =>
    let bad := decide (o.status ≠ 0)
    let b := o.cycle.toNat % 2
    let s := count 0x7419 1 1 { s with solver := { s.solver with
      solving := none, buffers := tblPut (s.solver.buffers.filter (fun e => e.1 ≠ b)) b o, visible := some b, outCycle := o.cycle,
      visibleAt := s.solver.outputAt, iterate := it, prevValid := !bad,
      invalid := if bad then s.solver.invalid + 1 else 0, warned := bad && s.solver.warned } }
    let s := if o.status = 8 then count 0x7419 5 1 s else if bad then count 0x7419 6 1 s else s
    let a := cfg s 0x5800 8
    let s := if a = 0 then s else pokeCistern (ownPhysical s a) (solverOutBytes o) s
    solverInvalid o s

/-- Start: the record store and the held iterate are emptied (R340). -/
def solverStart (s : State) : State :=
  if s.solver.running then s
  else { s with solver := { s.solver with
    running := true, record := none, iterate := none, prevValid := false, first := true, solving := none, ref := none,
    lastAt := some (now s) } }

/-- Stop: a solve in progress outputs nothing (R340). -/
def solverStop (s : State) : State :=
  { s with solver := { s.solver with running := false, solving := none, iterate := none, prevValid := false } }

/-! ## The events -/

/-- SOLVER_CYCLE: the next cycle instant of a solver that acts; a solve still in progress outputs first. -/
def execSolverCycle (s : State) : Res :=
  if solverActs s then
    let s := solverOutput s
    let t := nextInstant (1000 * cfg s 0x5800 1) (1000 * cfg s 0x5800 2) (now s) s.solver.lastAt
    .next (solverCycle t (clockTo t s))
  else .next s

/-- SOLVER_OUTPUT: T + T_SOLVE of the solve in progress. -/
def execSolverOutput (s : State) : Res := .next (if s.solver.solving.isSome ∧ solverActs s then solverOutput (clockTo s.solver.outputAt s) else s)

/-- SCHEDULE_LOAD_DONE: a load completes (R329). -/
def execScheduleLoadDone (slot : Fin 2) (s : State) : Res := .next (finishSchedule slot.val s)

end Sys2Proof.Machine
end

