-- ==== Sys2Proof/Machine/Pump.lean ====
section
/-!
DEFINITION. Sys2Proof/Machine/Pump.lean: the Pump engine (R342-R363): feedback, command records, block-floating stages,
tables, enable and ramp, samples, set-point frames; and the launch queue they enter (R380).
-/

namespace Sys2Proof.Machine

/-! ## The launch queue (R380) -/

/-- Does an entry stay ahead of a new one: an earlier stamp, or an equal one unless both are set-point frames in the wrong
group order (R360)? -/
def launchAhead (old new : Launch) : Bool :=
  decide (old.stamp < new.stamp) || (decide (old.stamp = new.stamp) &&
    (match old.body, new.body with
     | .setpoint a, .setpoint b => decide (a.group ≤ b.group)
     | _, _ => true))

/-- A frame offered to the launch queue of port x (R380). -/
def offerLaunch (x : Nat) (l : Launch) (s : State) : State :=
  if !(t1Up s x) ∨ 16 ≤ (t1Of s x).launch.length ∨ now s + 100000000 < l.stamp then count 0x741b 4 1 s
  else t1mod x (fun p => { p with
    launch := p.launch.takeWhile (fun o => launchAhead o l) ++ [l] ++ p.launch.dropWhile (fun o => launchAhead o l) }) s

/-! ## Configuration (R343-R346, R361) -/

def groupUsed (s : State) (g : Nat) : Bool := cfg s (0x5410 + g) 1 != 0xff
/-- Period P of group g in ns (R342). -/
def groupPeriod (s : State) (g : Nat) : Nat := 1000000 / 2 ^ (cfg s (0x5410 + g) 1)
def groupOffset (s : State) (g : Nat) : Nat := cfg s (0x5410 + g) 2
def groupLatency (s : State) (g : Nat) : Nat := cfg s (0x5410 + g) 3
def groupPort (s : State) (g : Nat) : Nat := cfg s (0x5410 + g) 4
def axisCfg (s : State) (n k : Nat) : Nat := cfg s (0x5500 + n) k
def groupAxes (s : State) (g : Nat) : List Nat := (List.range 64).filter (fun n => axisCfg s n 1 = g)

/-- A stage entry (R352). -/
structure StageEntry where
  kind : Nat
  ins  : List Nat
  ks   : List (BitVec 32)
  deriving DecidableEq, Repr

def parseStage (b : Bytes) (i : Nat) : StageEntry :=
  { kind := fieldAt b (32 * i) 1, ins := (List.range 4).map (fun k => fieldAt b (32 * i + 1 + k) 1),
    ks := (List.range 6).map (fun k => BitVec.ofNat 32 (fieldAt b (32 * i + 8 + 4 * k) 4)) }

def parseLaw (b : Bytes) : List StageEntry := (List.range 8).map (parseStage b)
def axisLaw (s : State) (n : Nat) : List StageEntry := parseLaw (cfgBytes s (0x5500 + n) 5)

/-- Inputs that a kind reads (R354). -/
def kindInputs : Nat → Nat
  | 1 => 4
  | 2 => 1
  | 3 => 1
  | 4 => 1
  | 5 => 2
  | 6 => 1
  | _ => 0

/-- CCCLK cycles of a kind (R354). -/
def kindCycles : Nat → Nat
  | 1 => 8
  | 2 => 24
  | 3 => 20
  | 4 => 12
  | 5 => 32
  | 6 => 8
  | _ => 0

/-- Is the source code defined (R353)? Solver values need XSEL, so stage 7 of KIND 0. -/
def sourceOk (law : List StageEntry) (c : Nat) : Bool :=
  decide (c ≤ 3) || (decide (0x10 ≤ c) && decide (c ≤ 0x13)) ||
  (decide (0x20 ≤ c) && decide (c ≤ 0x23) && (nth ⟨0, [], []⟩ law 7).kind == 0) || c == 0x30 ||
  (decide (0x40 ≤ c) && decide (c ≤ 0x47)) || (decide (0x50 ≤ c) && decide (c ≤ 0x57))

/-- Does a LAW value keep R352's limits, COMP tables apart? -/
def lawOk (b : Bytes) : Bool :=
  let law := parseLaw b
  law.zipIdx.all (fun e =>
    decide (e.1.kind ≤ 6) && e.1.ins.all (sourceOk law) && e.1.ks.all (fun k => f32Finite k.toNat) &&
    e.1.ins.all (fun c => !(decide (0x40 ≤ c) && decide (c ≤ 0x47)) || decide (c - 0x40 < e.2)))

/-- C_g: 64 plus, for every axis of the group, 40 plus its stage cycles (R361). -/
def groupCycles (s : State) (g : Nat) : Nat :=
  64 + sumNat ((groupAxes s g).map (fun n => 40 + sumNat ((axisLaw s n).map (fun e => kindCycles e.kind))))

/-- Groups due at tick k of the 1 ms hyperperiod. -/
def groupsDue (s : State) (k : Nat) : List Nat :=
  (List.range 8).filter (fun g => groupUsed s g && decide (62500 * k % groupPeriod s g = groupOffset s g))

/-- The load check of R361. -/
def loadOk (s : State) : Bool :=
  (List.range 16).all (fun k =>
    let due := groupsDue s k
    let sum (l : List Nat) : Nat := sumNat (l.map (groupCycles s))
    decide (4 * 2000 + 5 * sum due ≤ 4 * 61500) &&
    due.all (fun g => decide (4 * 2000 + 5 * sum (due.filter (fun h => decide (h ≤ g))) + 4 * 1000 ≤ 4 * groupLatency s g)))

/-- LOAD: cycles of the busiest tick (R344). -/
def busiestTick (s : State) : Nat := ((List.range 16).map (fun k => sumNat ((groupsDue s k).map (groupCycles s)))).foldl max 0

/-! ## Axes -/

def axisOf (s : State) (n : Nat) : Axis := tblGet {} s.pump.axes n
def axisMod (n : Nat) (f : Axis → Axis) (s : State) : State :=
  { s with pump := { s.pump with axes := tblMod {} s.pump.axes n f } }

def axisEnabled (a : Axis) : Bool := a.state == .ramping || a.state == .running

/-- Do the law's COMP stages have loaded tables (R352, R359)? -/
def compOk (s : State) (n : Nat) : Bool :=
  (axisLaw s n).all (fun e => e.kind != 5) || (axisOf s n).tstate == .loaded

/-! ## Feedback and commands (R349-R351) -/

/-- Is a feedback payload well formed (R347, R349)? -/
def feedbackOk (b : Bytes) : Bool :=
  let n := fieldAt b 0x0c 1
  decide (16 ≤ b.length) && fieldAt b 1 1 == 0 && fieldAt b 8 4 == 0 && decide (1 ≤ n) && decide (n ≤ 8) && fieldAt b 0x0d 3 == 0 &&
  decide (16 + 16 * n ≤ b.length) &&
  (List.range n).all (fun i => decide (fieldAt b (16 + 16 * i + 12) 1 < 4) && fieldAt b (16 + 16 * i + 13) 3 == 0)

/-- Does the engine take input: running, its domain on (R19), the control complex not resetting (R275)? -/
def pumpTakes (s : State) : Bool := s.pump.running && works s 11 && !(s.resetting.getLsbD 10)

/-- A drive frame received on port C or D (R347, R349, R350): other KINDs are discarded. -/
def takeFeedback (b : Bytes) (s : State) : State :=
  if !(pumpTakes s) ∨ fieldAt b 0 1 ≠ 2 then s
  else if !(feedbackOk b) then count 0x741a 6 1 s
  else
    let d := fieldAt b 2 2
    let old := s.pump.feedback.find? (fun e => e.1 = d)
    let late : Bool := match old with
      | some e => decide ((BitVec.ofNat 32 (fieldAt b 4 4) - BitVec.ofNat 32 (fieldAt e.2 4 4)).toInt < 0)
      | none => false
    if late then count 0x741a 6 1 s
    else count 0x741a 5 1 { s with pump := { s.pump with feedback := tblPut (s.pump.feedback.filter (fun e => e.1 ≠ d)) d b } }

/-- A command record is taken in (R351, R313). -/
def pumpTake (r : Bytes) (s : State) : State :=
  if !(pumpTakes s) then s
  else
    let late : Bool := match s.pump.cmd with
      | some old => decide ((BitVec.ofNat 32 (fieldAt r 0 4) - BitVec.ofNat 32 (fieldAt old 0 4)).toInt < 0)
      | none => false
    if late then s else { s with pump := { s.pump with cmd := some r } }

/-- Bytes of a command record. -/
def cmdLen : Nat := 1088

/-- A record that a job's staged bytes wrote into CMD_AREA, taken in at its publish. -/
def pumpTakeIn (staged : Tbl (BitVec 8)) (s : State) : State :=
  let a := ownPhysical s (cfg s 0x5400 2)
  if cfg s 0x5400 1 = 0 ∧ overlayHits staged a cmdLen then pumpTake (peek s a cmdLen) s else s

/-! ## Block-floating arithmetic (R355, R356) -/

def pow2 (e : Int) : Rat := if 0 ≤ e then ((2 ^ e.toNat : Nat) : Rat) else 1 / ((2 ^ (-e).toNat : Nat) : Rat)

/-- A finite value as a rational; 0 otherwise. -/
def fpRat : Fp → Rat
  | .fin neg m e => (if neg then -1 else 1) * (m : Rat) * pow2 e
  | _ => 0

def ratAbs (x : Rat) : Rat := if x < 0 then -x else x

/-- Nearest integer, ties to even. -/
def ratRound (x : Rat) : Int :=
  let f := x.floor
  let r := x - (f : Rat)
  if r < 1 / 2 then f else if 1 / 2 < r then f + 1 else if f % 2 = 0 then f else f + 1

/-- Do the values, rounded at exponent E, all have magnitudes below 2^E? -/
def fitsAt (vs : List Rat) (e : Int) : Bool := vs.all (fun v => decide ((ratRound (v * pow2 (23 - e))).natAbs < 2 ^ 23))

/-- The block of a list of values: the least exponent from -128 at which they fit; none above 127 (R356). -/
def packBlock (vs : List Rat) : Option Block :=
  (((List.range 256).map (fun i => (i : Int) - 128)).find? (fitsAt vs)).map (fun e =>
    { e := e, m := vs.map (fun v => ratRound (v * pow2 (23 - e))) })

/-- Value i of a block. -/
def blockVal (b : Block) (i : Nat) : Rat := ((nth 0 b.m i : Int) : Rat) * pow2 (b.e - 23)

/-- A coefficient or input converted to a 24-bit mantissa with its own exponent. -/
def toMantissa (x : Rat) : Option Rat := (packBlock [x]).map (fun b => blockVal b 0)

/-- A sum; terms below 2^-64 of the largest are dropped (R356). -/
def blockSum (ts : List Rat) : Rat :=
  let m := (ts.map ratAbs).foldl max 0
  (ts.filter (fun t => decide (m * pow2 (-64) ≤ ratAbs t))).foldl (· + ·) 0

def ratClamp (x lo hi : Rat) : Rat := min (max x lo) hi

/-! ## COMP (R357, R358) -/

def tableEntry (tb : Bytes) (base i : Nat) : Rat := fpRat (fpDecode fmtF32 (fieldAt tb (base + 4 * i) 4))

/-- Linear interpolation at f in a table; with wrap both indices are modulo 1,024. -/
def interp (tb : Bytes) (base : Nat) (wrap : Bool) (f : Rat) : Rat :=
  let f := if wrap then f else ratClamp f 0 1023
  let i := f.floor
  let t := blockSum [f, -(i : Rat)]
  let a : Nat := if wrap then (i % 1024).toNat else i.toNat
  let b : Nat := if wrap then ((i + 1) % 1024).toNat else min (i.toNat + 1) 1023
  blockSum [tableEntry tb base a, t * blockSum [tableEntry tb base b, -(tableEntry tb base a)]]

/-- The compensation output. -/
def compStage (tb : Bytes) (p v k0 : Rat) : Rat :=
  let f := blockSum [p, -(fpRat (fpDecode fmtF32 (fieldAt tb 4 4)))] * 1024 / fpRat (fpDecode fmtF32 (fieldAt tb 8 4))
  let sgn : Rat := if k0 = 0 then (if 0 < v then 1 else if v < 0 then -1 else 0)
    else if k0 < v then 1 else if v < -k0 then -1 else v / k0
  blockSum [interp tb (64 + 4096) (fieldAt tb 2 1 % 2 == 1) f, sgn * interp tb 64 false f]

/-- The checks of a table load (R357). -/
def tablesOk (b : Bytes) : Bool :=
  b.length == 8256 && fieldAt b 0 2 == 1 && decide (fieldAt b 2 2 < 2) && f32Finite (fieldAt b 4 4) && f32Finite (fieldAt b 8 4) &&
  fpLt fpZero (fpDecode fmtF32 (fieldAt b 8 4)) && (bytesAt b 0x0c 52).all (fun x => x == 0) &&
  (List.range 2048).all (fun i => f32Finite (fieldAt b (64 + 4 * i) 4))

/-- A table load begins: the tensor's current version is read. -/
def loadTables (n : Nat) (s : State) : State :=
  match tensorNamed s (axisCfg s n 0x0b) with
  | none => axisMod n (fun a => { a with tstate := .loading, tables := [] }) s
  | some i =>
    if (tensorOf s i).state = .valid ∧ !(tensorOf s i).kind ∧ (tensorOf s i).size = 8256 then
      axisMod n (fun a => { a with tstate := .loading, tables := (currentBytes i s).getD [] }) s
    else axisMod n (fun a => { a with tstate := .loading, tables := [] }) s

/-- The load's outcome. -/
def finishTables (n : Nat) (s : State) : State :=
  let a := axisOf s n
  if a.tstate ≠ .loading then s
  else if tablesOk a.tables then axisMod n (fun a => { a with tstate := .loaded }) s
  else count 0x741a 9 1 (axisMod n (fun a => { a with tstate := .rejected, tables := [] }) s)

/-! ## Sources (R353) -/

/-- What a sample latches for one axis. -/
structure Latch where
  fb     : Option (List (BitVec 32))
  cmd    : List (BitVec 32)
  x      : List (BitVec 64)
  xsel   : List Nat
  deriving DecidableEq, Repr

def latchAxis (s : State) (n : Nat) : Latch :=
  let slot := axisCfg s n 3
  { fb := match s.pump.feedback.find? (fun e => e.1 = axisCfg s n 2) with
      | some (_, b) => if slot < fieldAt b 0x0c 1 then
          some ((List.range 3).map (fun k => BitVec.ofNat 32 (fieldAt b (16 + 16 * slot + 4 * k) 4))) else none
      | none => none,
    cmd := match s.pump.cmd with
      | some r => (List.range 4).map (fun k => BitVec.ofNat 32 (fieldAt r (64 + 16 * n + 4 * k) 4))
      | none => [],
    x := match solverVisible s with | some o => o.x | none => [],
    xsel := ((nth ⟨0, [], []⟩ (axisLaw s n) 7).ks.drop 2).map (fun k => k.toNat) }

/-- The value of an external source code, before conversion; stage outputs are read from `blocks`. -/
def sourceFp (l : Latch) (ramp : BitVec 64) (blocks : List Block) (c : Nat) : Fp :=
  if c = 0 then fpZero
  else if c ≤ 3 then f32 (nth 0 (l.fb.getD []) (c - 1))
  else if c < 0x20 then f32 (nth 0 l.cmd (c - 0x10))
  else if c < 0x30 then f64 (nth 0 l.x (nth 0 l.xsel (c - 0x20)))
  else if c = 0x30 then f64 ramp
  else
    let b := nth {} blocks (c % 16)
    fpOfInt false (nth 0 b.m 0) (b.e - 23)

/-- Source codes that an axis's law reads; the ramped value r is read from RAMP_SRC, at the enable sample (`fresh`) from RAMP_MEAS
(R353, R359, R362; log 29). -/
def codesRead (s : State) (n : Nat) (fresh : Bool) : List Nat :=
  let law := ((axisLaw s n).map (fun e => e.ins.take (kindInputs e.kind))).flatten
  law ++ (if 0x30 ∈ law then [axisCfg s n (if fresh then 9 else 8)] else [])

/-- Is a source held at all: a command record for CMD0-CMD3, an output with the element for x? -/
def sourceHeld (s : State) (l : Latch) (c : Nat) : Bool :=
  if 0x10 ≤ c ∧ c < 0x14 then s.pump.cmd.isSome
  else if 0x20 ≤ c ∧ c < 0x24 then decide (nth 0 l.xsel (c - 0x20) < l.x.length)
  else if 1 ≤ c ∧ c ≤ 3 then l.fb.isSome
  else true

/-! ## Stages (R354) -/

/-- New values of a stage's block, its output first, from the old block, the inputs and the coefficients. -/
def stageVals (kind : Nat) (old : Block) (ins ks : List Rat) (ts : Rat) (tables : Bytes) : List Rat :=
  let i (j : Nat) := nth 0 ins j
  let k (j : Nat) := nth 0 ks j
  let st (j : Nat) := blockVal old j
  match kind with
  | 1 => [blockSum ((List.range 4).map (fun j => k j * i j))]
  | 2 =>
    let e := i 0
    let acc := ratClamp (blockSum [st 1, k 1 * ts * e]) (-(k 3)) (k 3)
    [blockSum [k 0 * e, acc, k 2 * blockSum [e, -(st 2)] / ts], acc, e]
  | 3 => [blockSum [k 0 * i 0, k 1 * st 1, k 2 * st 2, -(k 3 * st 3), -(k 4 * st 4)], i 0, st 1,
      blockSum [k 0 * i 0, k 1 * st 1, k 2 * st 2, -(k 3 * st 3), -(k 4 * st 4)], st 3]
  | 4 =>
    let y := ratClamp (i 0) (k 0) (k 1)
    let y := if 0 < k 2 then ratClamp y (blockSum [st 1, -(k 2 * ts)]) (blockSum [st 1, k 2 * ts]) else y
    [y, y]
  | 5 => [compStage tables (i 0) (i 1) (k 0)]
  | 6 => [k 0 * blockSum [i 0, -(st 1)] / ts, i 0]
  | _ => [0]

/-- A value converted for a stage; stage outputs pass as they are. -/
def stageInput (l : Latch) (ramp : BitVec 64) (prev cur : List Block) (c : Nat) : Option Rat :=
  if 0x50 ≤ c then some (blockVal (nth {} prev (c - 0x50)) 0)
  else if 0x40 ≤ c then some (blockVal (nth {} cur (c - 0x40)) 0)
  else toMantissa (fpRat (sourceFp l ramp prev c))

/-- Conversion of a list, none where one value overflows. -/
def allSome {α : Type} (l : List (Option α)) : Option (List α) := if l.all Option.isSome then some (l.filterMap id) else none

/-- The stages of a sample in ascending order; none is OVERFLOW. -/
def runLaw (law : List StageEntry) (l : Latch) (ramp : BitVec 64) (prev : List Block) (ts : Rat) (tables : Bytes) :
    Option (List Block) :=
  law.zipIdx.foldl (fun (acc : Option (List Block)) e =>
    acc.bind (fun cur =>
      (allSome ((e.1.ins.take (kindInputs e.1.kind)).map (stageInput l ramp prev cur))).bind (fun ins =>
        (allSome (if e.1.kind = 0 then [] else e.1.ks.map (fun k => toMantissa (fpRat (f32 k))))).bind (fun ks =>
          (packBlock (stageVals e.1.kind (nth {} prev e.2) ins ks ts tables)).map (fun b => cur ++ [b]))))) (some [])

/-! ## Samples (R359, R360, R362) -/

/-- The input checks of an enabled axis at S, up to NONFINITE, `ramp` the ramped value that the sample reads; 0 where they pass (R362). -/
def axisChecks (s : State) (n at_ : Nat) (fresh : Bool) (l : Latch) (ramp : BitVec 64) : Nat :=
  let a := axisOf s n
  let codes := codesRead s n fresh
  let age (st : Nat) : Int := (stampOf at_ - BitVec.ofNat 32 st).toInt
  let cmdBad : Bool := match s.pump.cmd with
    | none => true
    | some r => fieldAt r 4 1 % 2 == 0 || decide ((1000 * cfg s 0x5400 3 : Nat) < age (fieldAt r 0 4))
  let xBad : Bool := match solverVisible s with
    | none => true
    | some o => o.status != 0 || decide (1000 * cfg s 0x5400 4 < at_ - s.solver.visibleAt) ||
      codes.any (fun c => decide (0x20 ≤ c) && decide (c < 0x24) && decide (o.x.length ≤ nth 0 l.xsel (c - 0x20)))
  match s.pump.feedback.find? (fun e => e.1 = axisCfg s n 2) with
  | none => 3
  | some (_, b) =>
    if age (fieldAt b 4 4) < -10000 then 4
    else if (1000 * axisCfg s n 4 : Nat) < age (fieldAt b 4 4) then 5
    else if l.fb = none ∨ fieldAt b (16 + 16 * axisCfg s n 3 + 12) 1 % 4 ≠ 1 then 6
    else if codes.any (fun c => decide (0x10 ≤ c) && decide (c < 0x14)) && cmdBad then 7
    else if codes.any (fun c => decide (0x20 ≤ c) && decide (c < 0x24)) && xBad then 8
    else if codes.any (fun c => !(fpFinite (sourceFp l ramp a.stages c))) then 9
    else 0

/-- A ramp source as F64; what it reads where nothing holds it is free (log 34). -/
def rampSource (s : State) (l : Latch) (a : Axis) (c : Nat) : BitVec 64 × State :=
  if sourceHeld s l c then (toF64 (sourceFp l a.ramp a.stages c), s)
  else (BitVec.ofNat 64 (freshNat s).1, (freshNat s).2)

/-- The ramp's next step (R359) toward `src`: the new r, and whether the ramp is complete. A NaN SLOPE compares false, as in the
rule's code. -/
def rampStep (s : State) (n : Nat) (src : BitVec 64) (a : Axis) (ts : Rat) : BitVec 64 × Bool :=
  let slope := fpDecode fmtF32 (axisCfg s n 0x0a)
  let tsF := toF64 (fpOfRat false ts.num.toNat ts.den)
  let delta := f64Mul (toF64 slope) tsF
  let d := f64Add src (toF64 (fpNeg (f64 a.ramp)))
  let m := fpAbs (f64 d)
  if fpEq slope fpZero ∨ fpLt m (f64 delta) ∨ fpEq m (f64 delta) then (src, true)
  else (f64Add a.ramp (if fpLt fpZero (f64 d) then delta else toF64 (fpNeg (f64 delta))), false)

/-- A slot of a set-point frame. -/
def mkSlot (s : State) (n : Nat) (a : Axis) (valid : Bool) (set : BitVec 32) : SetSlot :=
  { axis := n, setpoint := if valid then set else 0,
    flags := BitVec.ofNat 8 ((if axisCfg s n 7 = 1 then 8 else 0) + (if a.state = .ramping then 4 else 0) +
      (if axisEnabled a then 2 else 0) + (if valid then 1 else 0)) }

/-- An invalid sample with codes 3 to 11: counted; FAULT_LIMIT of them in a row put the axis in FAULT (R362). -/
def invalidSample (n reason : Nat) (s : State) : State :=
  let s := count 0x741a 2 1 s
  let s := if reason = 10 then count 0x741a 7 1 s else if reason = 11 then count 0x741a 3 1 s else s
  let s := axisMod n (fun a => { a with status := BitVec.ofNat 8 reason, invalid := a.invalid + 1 }) s
  if (axisOf s n).invalid < cfg s 0x5400 6 then s
  else
    let s := axisMod n (fun a => { a with state := .fault, invalid := 0 }) s
    trigger 6 (BitVec.ofNat 32 n) (setEvent 11 <| count 0x741a 4 1 (notifySubs 0x23 [BitVec.ofNat 8 n, BitVec.ofNat 8 reason] s))

/-- A pending enable or disable takes effect at the sample instant (R359). At an enable the stages are 0 and r is RAMP_MEAS,
whose value is free where nothing holds it (log 34). An enable whose COMP stages have lost their tables since the write leaves the axis
as it is (log 34). -/
def takePending (n : Nat) (s : State) : State :=
  let a := axisOf s n
  match a.pending with
  | none => s
  | some false => axisMod n (fun a => { a with state := .disabled, pending := none }) s
  | some true =>
    if compOk s n then
      let r := rampSource s (latchAxis s n) {} (axisCfg s n 9)
      axisMod n (fun a => { a with
        state := .ramping, pending := none, stages := List.replicate 8 {}, ramp := r.1, invalid := 0, back := none }) r.2
    else axisMod n (fun a => { a with pending := none }) s

/-- One axis of a group sample at S: its slot and the state after it. -/
def sampleAxis (at_ g n : Nat) (s : State) : SetSlot × State :=
  let fresh := decide ((axisOf s n).pending = some true) && compOk s n
  let s := takePending n s
  let a := axisOf s n
  if !(axisEnabled a) then
    let s := axisMod n (fun a => { a with status := if a.state = .fault then 2 else 1, back := none }) s
    (mkSlot s n a false 0, s)
  else
    let ts : Rat := (groupPeriod s g : Rat) / (nsPerS : Rat)
    let l := latchAxis s n
    let src := if fresh then (a.ramp, s) else rampSource s l a (axisCfg s n 8)
    let s := src.2
    let r := if fresh then (a.ramp, false) else rampStep s n src.1 a ts
    let reason := axisChecks s n at_ fresh l r.1
    let law := if reason = 0 then runLaw (axisLaw s n) l r.1 a.stages ts a.tables else none
    match law with
    | none =>
      let s := invalidSample n (if reason = 0 then 10 else reason) (axisMod n (fun a => { a with back := none }) s)
      (mkSlot s n (axisOf s n) false 0, s)
    | some bs =>
      let y := toF32 (fpOfInt false (nth 0 (nth {} bs (axisCfg s n 6)).m 0) ((nth {} bs (axisCfg s n 6)).e - 23))
      let done := decide (a.state = .ramping) && r.2
      let back : AxisBack := ⟨a.state, a.invalid, a.stages, a.ramp, done⟩
      let s := if done then count 0x741a 8 1 s else s
      let s := count 0x741a 1 1 (axisMod n (fun a => { a with
        stages := bs, ramp := r.1, state := if r.2 then .running else a.state, status := 0, invalid := 0, back := some back }) s)
      (mkSlot s n (axisOf s n) true y, s)

/-- FLAGS of a set-point frame: ALL_VALID when every slot is VALID. -/
def frameFlags (slots : List SetSlot) : BitVec 8 := if slots.all (fun x => x.flags.getLsbD 0) then 1 else 0

/-- Do drive frames carry SAFE (R363, R438)? -/
def driveSafe (s : State) : Bool := s.pump.safe || decide (s.island.state ≠ .normal)

/-- A solver output due at or before the instant is the one that the sample uses (R351). -/
def outputDue (at_ : Nat) (s : State) : State :=
  if s.solver.solving.isSome ∧ s.solver.outputAt ≤ at_ ∧ solverActs s then solverOutput s else s

/-- A group sample at S: every axis of the group in ascending order, and the frame to hand over. -/
def groupSample (g at_ : Nat) (s : State) : State :=
  let r := (groupAxes s g).foldl (fun (acc : List SetSlot × State) n =>
    let x := sampleAxis at_ g n acc.2
    (acc.1 ++ [x.1], x.2)) ([], outputDue at_ s)
  let s := r.2
  let s := { s with pump := { s.pump with samples := tblMod 0 s.pump.samples g (· + 1), lastAt := tblPut s.pump.lastAt g at_ } }
  let st := at_ + groupLatency s g
  let f : SetFrame :=
    { group := g, flags := frameFlags r.1, stamp := st, sample := (tblGet 0 s.pump.samples g).setWidth 32, slots := r.1 }
  if r.1 = [] then s
  else { s with pump := { s.pump with frames := s.pump.frames.filter (fun e => e.1 ≠ g) ++ [(g, f)] } }

/-- A slot not ready at the hand-off: VALID clear, NOT_READY, the axis held as it was before the sample; a ramp that it completed
counts when it completes in a sample that goes out (log 38). -/
def notReady (n : Nat) (s : State) : State :=
  match (axisOf s n).back with
  | none => s
  | some b => invalidSample n 11 (axisMod n (fun a => { a with
      state := b.state, invalid := b.invalid, stages := b.stages, ramp := b.ramp, back := none })
      (if b.ramped then count 0x741a 8 (2 ^ 64 - 1) s else s))

/-- The hand-off of group g's frame to its port's launch queue (R360, R437). -/
def handOff (f : SetFrame) (late : BitVec 16) (s : State) : State :=
  let bad : List Nat := (f.slots.zipIdx.filter (fun x => x.1.flags.getLsbD 0 && late.getLsbD x.2)).map (fun x => x.1.axis)
  let s := forEach bad notReady s
  let slots := f.slots.map (fun x => if x.axis ∈ bad then mkSlot s x.axis (axisOf s x.axis) false 0 else x)
  let f := { f with slots := slots, flags := frameFlags slots }
  let f := if driveSafe s then safeFrame f else f
  let s := { s with pump := { s.pump with frames := s.pump.frames.filter (fun e => e.1 ≠ f.group) } }
  offerLaunch (groupPort s f.group) { stamp := f.stamp, body := .setpoint f } s

/-- The payload of a set-point frame (R347, R348). -/
def setpointPayload (f : SetFrame) : Bytes :=
  [1, f.flags] ++ leBytes 2 f.group ++ leBytes 4 (stampOf f.stamp).toNat ++ leBytes 4 f.sample.toNat ++ leBytes 1 f.slots.length ++
  zeros 3 ++ (f.slots.map (fun x => leBytes 1 x.axis ++ [x.flags, 0, 0] ++ leBytes 4 x.setpoint.toNat)).flatten

/-! ## Start and stop -/

/-- Start (R344, R362): feedback and command stores are empty; the next sample instants follow. -/
def pumpStart (s : State) : State :=
  if s.pump.running then s
  else { s with pump := { s.pump with
    running := true, feedback := [], cmd := none, samples := [], frames := [], safe := false,
    lastAt := (List.range 8).map (fun g => (g, now s)) } }

/-- Stop: sampling ends at once, without a last frame (R363). -/
def pumpStop (s : State) : State := { s with pump := { s.pump with running := false, frames := [], safe := false } }

/-! ## The events -/

/-- FEEDBACK_FRAME: a drive frame received on port C or D (R377, R349). -/
def execFeedbackFrame (x : Fin 4) (payload : Bytes) (s : State) : Res :=
  .next (if x.val < 2 ∨ !(t1Up s x.val) then s
    else if spoilt (0x30 + x.val) s then unspoil (0x30 + x.val) s
    else takeFeedback payload s)

/-- PUMP_SAMPLE: the next sample instant of group g (R343, R360). -/
def execPumpSample (g : Fin 8) (s : State) : Res :=
  if s.pump.running ∧ works s 11 ∧ groupUsed s g.val then
    let t := nextInstant (groupPeriod s g.val) (groupOffset s g.val) (now s)
      ((s.pump.lastAt.find? (fun e => e.1 = g.val)).map (fun e => e.2))
    .next (groupSample g.val t (clockTo t s))
  else .next s

/-- PUMP_FRAME_HANDOFF: LATENCY - 1.0 us after the sample instant (R360). -/
def execPumpFrameHandoff (g : Fin 8) (lateSlots : BitVec 16) (s : State) : Res :=
  match s.pump.frames.find? (fun e => e.1 = g.val) with
  | none => .next s
  | some (_, f) => .next (handOff f lateSlots (clockTo (f.stamp - 1000) s))

/-- TABLES_LOAD_DONE: a table load completes (R357). -/
def execTablesLoadDone (n : Fin 64) (s : State) : Res := .next (finishTables n.val s)

end Sys2Proof.Machine
end

