-- ==== Sys2Proof/Machine/Tile.lean ====
section
/-!
DEFINITION. Sys2Proof/Machine/Tile.lean: the meanings of the tile instructions (R99-R108, R112-R117, R386-R393) on the
sequencer of one tile, with illegal operations (R102), barriers, events, loops and the end of a task (R62, R423).
-/

namespace Sys2Proof.Machine

/-! ## Issue (R101, R102) -/

/-- May the tile issue: a task of a running job holds it (R263, R265), it does not wait, is not gated by the island (R433), and issue is
not stopped by coolant loss (R410)? -/
def mayIssue (s : State) (t : Nat) : Bool :=
  (taskOn s t).isSome && (tileOf s t).wait.isNone && !(tileOf s t).gated && !s.power.stopped

/-- An illegal operation on tile t: counted at 0x7420:01; the running job completes INTEGRITY_FAIL without retry (R102). -/
def illegalOp (t : Nat) (s : State) : State :=
  let s := count 0x7420 1 1 s
  match taskOn s t with
  | some (j, _) => programFault j.tag s
  | none => s

/-- An undefined opcode on tile t is an illegal operation where the tile may issue (R102). -/
def undefinedOp (t : Nat) (s : State) : State := if mayIssue s t then illegalOp t s else s

/-- Tile cycles charged to the task that holds tile t (R66, R69); none in a restore slot (R270). -/
def chargeCycles (t n : Nat) (s : State) : State :=
  match taskOn s t with
  | some (j, i) =>
    let counts : Bool := match (j.tasks[i]?).bind (fun x => x.since) with | some u => decide (u ≤ now s) | none => true
    if counts then
      jmod j.tag (fun j => { j with
        tasks := j.tasks.zipIdx.map (fun x => if x.2 = i then { x.1 with cycles := x.1.cycles + n } else x.1) }) s
    else s
  | none => s

/-- Does the job on tile t set ZGATE (R103)? -/
def zgateOn (s : State) (t : Nat) : Bool := match taskOn s t with | some (j, _) => j.desc.zgate | none => false

/-- Issues one instruction of the array, accumulator file, vector engine or address generators; a shadow's stores are
discarded (R422). An instruction that may not issue leaves the state as it is. -/
def issue (t : Nat) (op : Bool → Memory → Tile → Option TileOut) (s : State) : State :=
  if !(mayIssue s t) then s
  else match op (zgateOn s t) s.mem (tileOf s t) with
    | none => illegalOp t s
    | some r =>
      let m := if (shadowOf s t).isSome then s.mem else r.mem
      chargeCycles t r.cycles (tmod t (fun _ => { r.tile with pc := r.tile.pc + 1, cycles := r.tile.cycles + r.cycles }) { s with mem := m })

/-- Issues a sequencer instruction whose fields are those its opcode names. -/
def sequence (op t : Nat) (f : TileFields) (go : State → State) (s : State) : State :=
  if !(mayIssue s t) then s
  else if !(fieldsNamed op f) then illegalOp t s
  else go s

/-- The program counter moves on. -/
def pcNext (t : Nat) (s : State) : State := chargeCycles t 1 (tmod t (fun tl => { tl with pc := tl.pc + 1, cycles := tl.cycles + 1 }) s)

/-! ## The sequencer's instructions -/

/-- LOOP: counter MOD[1:0] counts IMM further iterations (R100). -/
def beginLoop (t : Nat) (f : TileFields) (s : State) : State :=
  pcNext t (tmod t (fun tl => { tl with loops := tblSet 0 tl.loops f.mod.toNat f.imm.toNat }) s)

/-- ENDL: branches back IMM words while the counter runs (R100); the program counter stops at 0 where IMM exceeds it (log 111, DESIGN
CHOICE). -/
def endLoop (t : Nat) (f : TileFields) (s : State) : State :=
  let n := tblGet 0 (tileOf s t).loops f.mod.toNat
  if n = 0 then pcNext t s
  else chargeCycles t 1 (tmod t (fun tl => { tl with
    loops := tblSet 0 tl.loops f.mod.toNat (n - 1), pc := tl.pc - f.imm.toNat, cycles := tl.cycles + 1 }) s)

/-- A job's paired tiles whose signatures differ (R423). -/
def pairMismatch (s : State) (j : Job) : List Nat :=
  (dedup (j.tasks.filterMap (fun x => x.tile))).filter (fun t =>
    (tileOf s t).sigW != (tileOf s (t + 1)).sigW || (tileOf s t).sigP != (tileOf s (t + 1)).sigP)

/-- The end of a job's last task (R62, R423): pairs are compared, then commit fences are issued. -/
def lastTaskEnded (tag : BitVec 32) (s : State) : State :=
  match jobOf s tag with
  | none => s
  | some j =>
    match (if j.desc.lockstep then pairMismatch s j else []) with
    | [] => issueCommitFences j (jmod tag (fun j => { j with phase := .ending }) s)
    | ts => forEach ts (fun t s =>
        failureEvent (unitOf 8 t) .lockstep false (if ts.head? = some t then some tag else none) s) s

/-- END: the task that runs on the tile ends; the last one ends the attempt's run (R62, R100). A pair's task ends with its
shadow's END, which its primary's precedes in the same tile cycle (R422). -/
def endTask (t : Nat) (s : State) : State :=
  let s := pcNext t s
  match taskOn s t with
  | none => s
  | some (j, i) =>
    if j.desc.lockstep && t % 2 == 0 then s
    else
      let s := jmod j.tag (fun j => { j with
        tasks := j.tasks.zipIdx.map (fun x => if x.2 = i then { pauseTask s x.1 with ended := true } else x.1) }) s
      match jobOf s j.tag with
      | none => s
      | some k =>
        if k.tasks.all (fun x => x.ended) then lastTaskEnded j.tag s
        -- a tile with a further task of the list starts it (R264)
        else
          let b := if k.desc.lockstep then t - 1 else t
          if (firstOn k b).isSome then startOn j.tag b s else placeWaiting j.tag s

/-- DMA: the descriptor at IMM x 32 is posted, stalls on a full channel, or is refused (R223, R386, R395). The cluster's round-robin
pointer moves to the tile after the one granted (R273). -/
def postDma (t : Nat) (f : TileFields) (s : State) : State :=
  let desc := peek s (tileBase t + f.imm.toNat * 32) 32
  let ch := clusterChannel (clusterOfTile t) (fieldAt desc 20 1 % 8)
  let job := (taskOn s t).map (fun x => x.1.tag)
  let grant : State → State := cmod (clusterOfTile t) (fun c => { c with rr := (t % 8 + 1) % 8 })
  let fold (s : State) : State := tmod t (fun tl => if tl.paired then { tl with sigP := crcMore tl.sigP desc } else tl) s
  let fail (s : State) : State := match job with | some tag => programFault tag s | none => s
  if (shadowOf s t).isSome then pcNext t (fold s)
  else if !(siphonRules s desc) then descriptorBad job s
  else if !(siphonMapped s ⟨job, none⟩ desc) then fail (count 0x7415 0x0b 1 s)
  else if 16 ≤ (chanOf s ch).posted.length then s
  else pcNext t (fold (grant (postTo ch { desc := desc, tile := t, job := job } (yieldPort (clusterOfTile t) s))))

/-- FENCE on channel IMM[2:0]: waits until what the task posted there has run and every target is read back (R393). -/
def fenceWait (t : Nat) (f : TileFields) (s : State) : State :=
  let c := f.imm.toNat % 8
  if (shadowOf s t).isSome then pcNext t (tmod t (foldFence c) s)
  else settleFences (clusterChannel (clusterOfTile t) c) (chargeCycles t 1 (tmod t (fun tl => { tl with wait := some (.fence c) }) s))

/-- BAR: waits for every tile of the mask; the last arrival lets all of them go on (R100), whatever masks those wait with (log 112, DESIGN
CHOICE). -/
def barrier (t : Nat) (f : TileFields) (s : State) : State :=
  let k := clusterOfTile t
  let mask := f.imm.setWidth 8
  let here := (clusterOf s k).arrived ||| BitVec.ofNat 8 (2 ^ (t % 8))
  if mask &&& ~~~here = 0 then
    let go := (clusterTiles k).filter (fun x => x == t || (mask.getLsbD (x % 8) && (match (tileOf s x).wait with | some (.bar _) => true | _ => false)))
    let s := cmod k (fun c => { c with arrived := here &&& ~~~(mask ||| BitVec.ofNat 8 (2 ^ (t % 8))) }) s
    forEach go (fun x => tmod x (fun tl => { tl with wait := none, pc := tl.pc + 1 })) s
  else cmod k (fun c => { c with arrived := here }) (tmod t (fun tl => { tl with wait := some (.bar mask) }) s)

/-- An event raised before that an EVWAIT of job `tag` takes: the first of its number that is meant for the job (R22). -/
def raisedFor (s : State) (tag : BitVec 32) (n : Nat) : Option Raised :=
  s.raised.find? (fun e => e.number == n && meantFor e.job tag)

/-- EVWAIT: an event raised before for the job is taken; else the tile waits for it (R22, R100). -/
def eventWait (t : Nat) (f : TileFields) (s : State) : State :=
  match taskOn s t with
  | none => s
  | some (j, _) => match raisedFor s j.tag f.imm.toNat with
    | some e => pcNext t { s with raised := s.raised.erase e }
    | none => tmod t (fun tl => { tl with wait := some (.event f.imm.toNat j.tag) }) s

/-- EVSIG: the event is raised for the job whose task runs here (R22, R100). -/
def eventSignal (t : Nat) (f : TileFields) (s : State) : State :=
  pcNext t (raiseEvent ((taskOn s t).map (fun x => x.1.tag)) f.imm.toNat s)

/-- NOP (R100). -/
def execNop (t : Fin 512) (f : TileFields) (s : State) : Res := .next (sequence 0x00 t.val f (pcNext t.val) s)

/-- weight block load (R82). -/
def execLdw (t : Fin 512) (f : TileFields) (s : State) : Res :=
  .next (issue t.val (fun _ m tl => opLdw t.val f m tl) s)

/-- multiply-accumulate (R84-R87). -/
def execMma (t : Fin 512) (f : TileFields) (s : State) : Res :=
  .next (issue t.val (fun z m tl => opMma z t.val f m tl) s)

/-- clear of accumulator rows (R100). -/
def execAclr (t : Fin 512) (f : TileFields) (s : State) : Res :=
  .next (issue t.val (fun _ m tl => opAclr f m tl) s)

/-- DRAIN (R88), through the fused gate pipeline under ZGATE (R103). -/
def execDrain (t : Fin 512) (f : TileFields) (s : State) : Res :=
  .next (issue t.val (fun z m tl => opDrain z t.val f m tl) s)

/-- accumulator load (R100). -/
def execAld (t : Fin 512) (f : TileFields) (s : State) : Res :=
  .next (issue t.val (fun _ m tl => opAld t.val f m tl) s)

/-- accumulator store (R100). -/
def execAst (t : Fin 512) (f : TileFields) (s : State) : Res :=
  .next (issue t.val (fun _ m tl => opAst t.val f m tl) s)

/-- vector load (R100). -/
def execVld (t : Fin 512) (f : TileFields) (s : State) : Res :=
  .next (issue t.val (fun _ m tl => opVld t.val f m tl) s)

/-- vector store (R88). -/
def execVst (t : Fin 512) (f : TileFields) (s : State) : Res :=
  .next (issue t.val (fun _ m tl => opVst t.val f m tl) s)

/-- VLDA (R100). -/
def execVlda (t : Fin 512) (f : TileFields) (s : State) : Res :=
  .next (issue t.val (fun _ m tl => opVlda f m tl) s)

/-- VSTA (R96, R100). -/
def execVsta (t : Fin 512) (f : TileFields) (s : State) : Res :=
  .next (issue t.val (fun z m tl => opVsta z f m tl) s)

/-- VADD (R92). -/
def execVadd (t : Fin 512) (f : TileFields) (s : State) : Res :=
  .next (issue t.val (fun _ m tl => opLanes 0x14 f f32Add m tl) s)

/-- VMUL (R92). -/
def execVmul (t : Fin 512) (f : TileFields) (s : State) : Res :=
  .next (issue t.val (fun _ m tl => opLanes 0x15 f f32Mul m tl) s)

/-- VFMA, one rounding (R92). -/
def execVfma (t : Fin 512) (f : TileFields) (s : State) : Res :=
  .next (issue t.val (fun _ m tl => opVfma f m tl) s)

/-- VMAX (R100). -/
def execVmax (t : Fin 512) (f : TileFields) (s : State) : Res :=
  .next (issue t.val (fun _ m tl => opLanes 0x17 f f32Max m tl) s)

/-- VMIN (R100). -/
def execVmin (t : Fin 512) (f : TileFields) (s : State) : Res :=
  .next (issue t.val (fun _ m tl => opLanes 0x18 f f32Min m tl) s)

/-- VCMP (R100). -/
def execVcmp (t : Fin 512) (f : TileFields) (s : State) : Res :=
  .next (issue t.val (fun _ m tl => opVcmp f m tl) s)

/-- VSEL (R100). -/
def execVsel (t : Fin 512) (f : TileFields) (s : State) : Res :=
  .next (issue t.val (fun _ m tl => opVsel f m tl) s)

/-- VCVT (R91). -/
def execVcvt (t : Fin 512) (f : TileFields) (s : State) : Res :=
  .next (issue t.val (fun _ m tl => opVcvt f m tl) s)

/-- VRQ (R89). -/
def execVrq (t : Fin 512) (f : TileFields) (s : State) : Res :=
  .next (issue t.val (fun _ m tl => opVrq f m tl) s)

/-- VMXQ (R90). -/
def execVmxq (t : Fin 512) (f : TileFields) (s : State) : Res :=
  .next (issue t.val (fun _ m tl => opVmxq f m tl) s)

/-- VRED (R100). -/
def execVred (t : Fin 512) (f : TileFields) (s : State) : Res :=
  .next (issue t.val (fun _ m tl => opVred f m tl) s)

/-- VEXP (R93). -/
def execVexp (t : Fin 512) (f : TileFields) (s : State) : Res :=
  .next (issue t.val (fun _ m tl => opFunc .exp f m tl) s)

/-- VLOG (R93). -/
def execVlog (t : Fin 512) (f : TileFields) (s : State) : Res :=
  .next (issue t.val (fun _ m tl => opFunc .log f m tl) s)

/-- VRCP (R93). -/
def execVrcp (t : Fin 512) (f : TileFields) (s : State) : Res :=
  .next (issue t.val (fun _ m tl => opFunc .rcp f m tl) s)

/-- VRSQ (R93). -/
def execVrsq (t : Fin 512) (f : TileFields) (s : State) : Res :=
  .next (issue t.val (fun _ m tl => opFunc .rsq f m tl) s)

/-- VSIG (R93). -/
def execVsig (t : Fin 512) (f : TileFields) (s : State) : Res :=
  .next (issue t.val (fun _ m tl => opFunc .sig f m tl) s)

/-- VTANH (R93). -/
def execVtanh (t : Fin 512) (f : TileFields) (s : State) : Res :=
  .next (issue t.val (fun _ m tl => opFunc .tanh f m tl) s)

/-- VSILU (R93). -/
def execVsilu (t : Fin 512) (f : TileFields) (s : State) : Res :=
  .next (issue t.val (fun _ m tl => opFunc .silu f m tl) s)

/-- VGELU (R93). -/
def execVgelu (t : Fin 512) (f : TileFields) (s : State) : Res :=
  .next (issue t.val (fun _ m tl => opFunc .gelu f m tl) s)

/-- VSPLUS (R93). -/
def execVsplus (t : Fin 512) (f : TileFields) (s : State) : Res :=
  .next (issue t.val (fun _ m tl => opFunc .splus f m tl) s)

/-- RSTEP (R98). -/
def execRstep (t : Fin 512) (f : TileFields) (s : State) : Res :=
  .next (issue t.val (fun z m tl => opRstep z f m tl) s)

/-- ZCFG (R104). -/
def execZcfg (t : Fin 512) (f : TileFields) (s : State) : Res :=
  .next (issue t.val (fun _ m tl => opZcfg f m tl) s)

/-- AGSET (R113). -/
def execAgset (t : Fin 512) (f : TileFields) (s : State) : Res :=
  .next (issue t.val (fun _ m tl => opAgset t.val f m tl) s)

/-- DMA (R386). -/
def execDma (t : Fin 512) (f : TileFields) (s : State) : Res := .next (sequence 0x41 t.val f (postDma t.val f) s)

/-- FENCE (R393). -/
def execFence (t : Fin 512) (f : TileFields) (s : State) : Res := .next (sequence 0x42 t.val f (fenceWait t.val f) s)

/-- BAR (R100). -/
def execBar (t : Fin 512) (f : TileFields) (s : State) : Res := .next (sequence 0x43 t.val f (barrier t.val f) s)

/-- EVWAIT (R100). -/
def execEvwait (t : Fin 512) (f : TileFields) (s : State) : Res := .next (sequence 0x44 t.val f (eventWait t.val f) s)

/-- EVSIG (R100). -/
def execEvsig (t : Fin 512) (f : TileFields) (s : State) : Res :=
  .next (sequence 0x45 t.val f (eventSignal t.val f) s)

/-- LOOP (R100). -/
def execLoop (t : Fin 512) (f : TileFields) (s : State) : Res := .next (sequence 0x46 t.val f (beginLoop t.val f) s)

/-- ENDL (R100). -/
def execEndl (t : Fin 512) (f : TileFields) (s : State) : Res := .next (sequence 0x47 t.val f (endLoop t.val f) s)

/-- END (R100). -/
def execEnd (t : Fin 512) (f : TileFields) (s : State) : Res := .next (sequence 0x4f t.val f (endTask t.val) s)

end Sys2Proof.Machine
end

