-- ==== Sys2Proof/Machine/JobEvents.lean ====
section
/-!
DEFINITION. Sys2Proof/Machine/JobEvents.lean: the slot boundary (R56, R60, R61, R67, R72, R149, R269, R270), the commit of a job
(R62, R63, R69, R150, R151), budgets (R66), placement of ready tasks (R264), prefetch copies, tier misses and faults
(R243-R248), relocation (R153), Siphon channels (R392, R393), scrub, evacuation and spare copies (R228, R256, R257), and the
requests of peers (R249, R250).
-/

namespace Sys2Proof.Machine

/-! ## Replies of stream and directory commands (R137, R233) -/

def sstateCode : SState → Nat
  | .free => 0 | .open_ => 1 | .swapped => 2 | .moved => 3 | .lost => 4

/-- The 32-byte stream reply about handle h, which names stream n (R137). -/
def streamReply (s : State) (h : Nat) (n : Option Nat) (result : Nat) (a : Admit) : Bytes :=
  let r : Stream := match n with | some n => streamOf s n | none => {}
  leBytes 4 h ++ leBytes 1 result ++ leBytes 1 a.code ++ leBytes 1 a.binding ++ leBytes 1 (sstateCode r.state) ++
  leBytes 4 a.tag.toNat ++ leBytes 4 a.due.toNat ++ leBytes 4 r.chunks.toNat ++ leBytes 1 r.partition ++ leBytes 1 r.rows ++
  leBytes 2 r.nblocks ++ leBytes 2 r.queue ++ leBytes 1 (if r.state = .moved then r.target else 0) ++ zeros 5

def tstateCode : TState → Nat
  | .free => 0 | .empty => 1 | .valid => 2 | .damaged => 3

/-- The 32-byte directory reply about handle h, which names tensor i (R233). -/
def dirReply (s : State) (h : Nat) (i : Option Nat) (result : Nat) (a : Admit) : Bytes :=
  let t : Tensor := match i with | some i => tensorOf s i | none => {}
  leBytes 4 h ++ leBytes 1 result ++ leBytes 1 a.code ++ leBytes 1 a.binding ++ leBytes 1 (tstateCode t.state) ++
  leBytes 4 a.tag.toNat ++ leBytes 4 a.due.toNat ++ leBytes 4 t.size ++ leBytes 4 t.stored ++ leBytes 8 t.addr

/-- The answer to an arrival: the submission reply, or the reply of the command that submitted a service job. -/
def arrivalReply (s : State) (a : Arrival) (r : Admit) : Bytes :=
  match a.service with
  | none => admitBytes r
  | some v =>
    let strm (n : Nat) : Bytes := streamReply s (if n = 0 then 0 else streamHandle s n) (if n = 0 then none else some n) (if r.code = 0 then 0 else 7) r
    match v with
    | .exportStream n _ _ => strm n
    | .importStream n _ _ _ => strm n
    | v => match serviceTensor v with
      | some i => dirReply s (tensorHandle s i) (some i) (if r.code = 0 then 0 else 6) r
      | none => []

/-- Is a service job on stream n accepted and not yet completed (R138)? -/
def streamBusy (s : State) (n : Nat) : Bool :=
  let on (v : Option Service) : Bool := match v with
    | some (.exportStream m _ _) => m == n
    | some (.importStream m _ _ _) => m == n
    | _ => false
  s.sluice.jobs.any (fun j => on j.service)

/-- Is the OP refused BAD_STATE (R138, R142)? No state of the stream refuses a QUERY; a service job on it does (log 41). -/
def streamBadState (s : State) (op n : Nat) : Bool :=
  let r := streamOf s n
  let idle := decide (chunksOfStream s n = [])
  streamBusy s n || (op != 5 &&
    (match op with
     | 2 => (r.state == .open_ || r.state == .swapped) && !idle
     | 3 => r.state != .open_
     | 4 => r.state != .swapped
     | _ => r.state != .open_ || !idle))

/-- The refusal of an EXPORT or IMPORT whose stream has changed since its command was written, as R138 judges it at the decision: closed, in
a state that does not allow it, or with another service job accepted in the same boundary. -/
def lateRefusal (s : State) (v : Service) : Option Bytes :=
  let judge (op n : Nat) : Option Bytes :=
    if n = 0 then none
    else if (streamOf s n).state = .free then some (streamReply s (streamHandle s n) none 2 {})
    else if streamBadState s op n then some (streamReply s (streamHandle s n) (some n) 4 {})
    else none
  match v with
  | .exportStream n _ _ => judge 3 n
  | .importStream n _ _ _ => judge 4 n
  | _ => none

/-- An answer to an arrival goes to its session, if it is still the one that asked. -/
def answerArrival (a : Arrival) (b : Bytes) (s : State) : State :=
  if (sess s a.session).open_ ∧ (sess s a.session).gen = a.sgen then accept a.session b s else s

/-- An arrival is decided and its session answered. -/
def settleArrival (cur : Nat) (a : Arrival) (s : State) : State :=
  match a.service.bind (lateRefusal s) with
  | some b => answerArrival a b s
  | none =>
  let r := decideArrival cur a s
  answerArrival a (arrivalReply r.2 a r.1) r.2

/-- The arrivals a boundary decides, in the order of R60: at most 64 of those of earlier slots. -/
def boundaryArrivals (s : State) (cur : Nat) : List Arrival :=
  let key (a : Arrival) : Nat := (a.slot * 4 + queueClass s a.q) * 4096 + a.q
  (sortBy (fun a b => decide (key a ≤ key b)) (s.sluice.arrivals.filter (fun a => a.slot < cur))).take 64

/-! ## The slot boundary (R60) -/

/-- The slot that the next boundary starts. -/
def nextSlot (s : State) : Nat := if s.clock.slot < now s / slotNs then now s / slotNs else now s / slotNs + 1

/-- A descriptor of the job that runs at the head of a channel ends by the save's time-line (R269). -/
def finishHead (tag : BitVec 32) (ch : Nat) (s : State) : State :=
  if headRuns s tag ch then
    match (chanOf s ch).posted.head? with
    | some p =>
      if isFence p then fenceReturn ch (targetOf (placeOf s (parseSiphon p.desc).dst 1)) s
      else
        let s := match oldestFirst s ch p with
          | some t => fenceReturn ch t s
          | none => s
        headDone ch p (runDescriptor ch p s)
    | none => s
  else s

/-- Place of tile t's image in the pre-emption image of a job: the n-th tile of its partitions (R268). -/
def imageAt (x : Extent) (n : Nat) : Nat := x.addr + n * tileBytes

/-- A copy in flight at a save stops at a descriptor boundary and is fenced (R243, R269): a free number of its descriptors of 16,384 B has run
(log 63); its request to a peer is given up, to be made again. -/
def stopCopy (tag : BitVec 32) (c : CopyRun) (s : State) : State :=
  match jobOf s tag with
  | none => s
  | some j => match j.prog.sched[c.entry]?, entryTensor j c.entry with
    | some e, some i => match copyBytes s j e i with
      | none => s
      | some b =>
        let (f, s) := freshNat s
        let left := (b.length - c.moved) / 16384
        let upto := c.moved + 16384 * (f % (left + 1))
        let pl := placeAfter c.moved (entryDest s j e b.length)
        let part := bytesAt b c.moved (upto - c.moved)
        let s := if part = [] ∨ touchesReplica s pl part.length then s else mirrorTile (writePlace (byJob tag) pl part s) pl part
        count 0x741b 0x0a 1 (jmod tag (fun j => { j with copies := j.copies.map (fun x =>
            if x.entry = c.entry then { x with moved := upto } else x) })
          (dropReqs (fun r => r.owner == .job tag (some c.entry)) s))
    | _, _ => s

/-- The copies of a job in flight. -/
def copiesInFlight (j : Job) : List CopyRun := j.copies.filter (fun c => !c.arrived && !c.faulted)

/-- A copy from a peer asks for the bytes it still lacks (R243, R250). -/
def askCopy (tag : BitVec 32) (c : CopyRun) (s : State) : State :=
  match jobOf s tag with
  | none => s
  | some j => match (entryTensor j c.entry).bind (fun i => remoteHome s i ((boundVersion j i).getD (tensorOf s i).version)) with
    | none => s
    | some (m, a, n) =>
      if peerUp s m then newReq m (.job tag (some c.entry)) .read (a + c.moved) (leBytes 4 (n - c.moved)) s
      else tierFaultAt tag c.entry .aquiferPort s

/-- A save that has met its budgets is complete (R269): the channels have stopped and are fenced, the records stand in the reserve and
every tile of the job's partitions in the image; the job is in its gap. A fault of a descriptor on the way has ended the save. -/
def endSave (tag : BitVec 32) (s : State) : State :=
  match jobOf s tag with
  | none => s
  | some j =>
    let s := forEach (jobChannels j) (finishHead tag) s
    if (jobOf s tag).any (fun j => j.phase == .saving) then
      let s := forEach (jobChannels j) (fun ch => fenceWhenDone ch (some tag)) s
      let s := forEach (copiesInFlight j) (stopCopy tag) (clearFences j s)
      let s := forEach (s.reserve.filter (fun e => e.2.tag = tag && e.2.dead.isNone)) (fun e => pokeRecord e.1 e.2) s
      let s := match j.preimage with
        | some x => forEach (imageTiles s j).zipIdx (fun t => copyCistern (tileBase t.1) (imageAt x t.2) tileBytes) s
        | none => s
      count 0x7416 1 1 (jmod tag (fun j => { j with phase := .gap }) s)
    else s

/-- A tile for each tile that a saved job's tasks hold: its own, or for one retired or made a block tile in the gap the lowest eligible tile of the same
partition and die without a task of the job; none where there is none (R271; log 94). Under LOCKSTEP the pair moves as one, to a complete
healthy pair (R422). -/
def restoreTile (s : State) (j : Job) (used : List Nat) (t : Nat) : Option Nat :=
  let stays (x : Nat) : Bool := tileHealthy s x && !(blockExcludes s (jobStream j) x)
  if stays t ∧ (!j.desc.lockstep || stays (t + 1)) then some t
  else (j.parts.filter (fun p => tileInPart s p t)).findSome? (fun p =>
    (if j.desc.lockstep then eligiblePairs s (jobStream j) p (dieOfTile t) else eligibleTiles s (jobStream j) p (dieOfTile t)).find?
      (fun x => decide (x ∉ used) && (blockTiles s).all (fun b => b.1 != x)))

/-- The tiles held by the tasks, shadows among them, with those that take their places; none where one finds no place. -/
def restoreMap (s : State) (j : Job) : Option (List (Nat × Nat)) :=
  let ts := dedup (j.tasks.filterMap (fun t => t.tile))
  (ts.foldl (fun (acc : Option (List (Nat × Nat))) t => acc.bind (fun m =>
    (restoreTile s j (ts ++ m.map (fun x => x.2)) t).map (fun x => m ++ [(t, x)]))) (some [])).map (fun m =>
      if j.desc.lockstep then (m.map (fun x => [x, (x.1 + 1, x.2 + 1)])).flatten else m)

/-- The place of a tile under a map. -/
def mapped (m : List (Nat × Nat)) (t : Nat) : Nat := ((m.find? (fun x => x.1 = t)).map (fun x => x.2)).getD t

/-- The images and records of a job read back (R270): tile SRAM, tile state, unstarted descriptors; its reserve entries are released. -/
def loadSaved (j : Job) (m : List (Nat × Nat)) (s : State) : State :=
  let recs := s.reserve.filter (fun e => e.2.tag = j.tag && e.2.dead.isNone)
  let s := match j.preimage with
    | some x => forEach (imageTiles s j).zipIdx (fun t s => { s with mem := memCopy s.mem (imageAt x t.2) (tileBase (mapped m t.1)) tileBytes }) s
    | none => s
  let s := forEach recs (fun e => tmod (mapped m e.1) (fun tl => { e.2.tile with gated := tl.gated })) s
  let s := { s with reserve := s.reserve.filter (fun e => e.2.tag ≠ j.tag || e.2.dead.isSome) }
  let s := jmod j.tag (fun j => { j with
    phase := .restoring, tasks := j.tasks.map (fun x => { x with tile := x.tile.map (mapped m) }) }) s
  forEach (recs.map (fun e => e.2.posted.map (fun p => { p with tile := mapped m p.tile }))).flatten
    (fun p => postTo (clusterChannel (clusterOfTile p.tile) (parseSiphon p.desc).channel) p)
    (forEach (copiesInFlight j) (askCopy j.tag) s)

/-- The restore slot opens (R270). An uncorrectable line in the image is an uncorrectable error of the job; a task whose tile has retired
and that finds no other has the job killed for re-run (R271; log 94). So has a chunk of a stream whose relocation is not complete: none of its
chunks runs before that, and the relocation needs the reserve entry it holds (R153, R272; log 57). -/
def restoreJob (tag : BitVec 32) (s : State) : State :=
  match jobOf s tag with
  | none => s
  | some j =>
    if (jobStream j).any (fun n => decide ((streamOf s n).moving ≠ [])) then count 0x7416 4 1 (killJob tag s)
    else
    match j.preimage.bind (fun x => poisonIn s x.addr ((imageTiles s j).length * tileBytes)) with
    | some sc => failureEvent (unitOf 4 sc) .uncorrectable false (some tag) s
    | none => match restoreMap s j with
      | none => killJob tag s
      | some m => loadSaved j m (yieldTests ((jobTiles j).map (mapped m)) s)

/-- A held chunk at a boundary: its slots are freed, and past its DEADLINE it completes LATE_INVALID (R149). -/
def holdChunk (tag : BitVec 32) (s : State) : State :=
  match jobOf s tag with
  | none => s
  | some j => if j.deadline < now s then finishJob tag stLate s else jmod tag (fun j => { j with runs := [] }) s

/-- Tags of the accepted jobs that a test picks, in order of acceptance. -/
def tagsOf (s : State) (p : Job → Bool) : List (BitVec 32) := (s.sluice.jobs.filter p).map (fun j => j.tag)

/-- A request to a peer that a service job carries (R147, R234, R250): the bytes an EXPORT writes leave slot by slot. -/
def serviceReq (tag : BitVec 32) (s : State) : State :=
  match (jobOf s tag).bind (fun j => if j.phase = .running then j.service else none) with
  | some (.exportStream _ img m) => if m = position s then s else newReq m (.job tag none) .write img [] s
  | some (.migrateAquifer t m a) => newReq m (.job tag none) .write a (homeRead s (tensorOf s t) 0 (tensorOf s t).stored) s
  | some (.migrateCistern t) => match remoteHome s t (tensorOf s t).version with
    | some (m, a, n) => newReq m (.job tag none) .read a (leBytes 4 n) s
    | none => s
  | _ => s

/-- The source of a service job meets a poisoned line: an uncorrectable error in the job's own data (R228, R416, R418). -/
def spoilService (sc : Nat) (tag : BitVec 32) (s : State) : State := failureEvent (unitOf 4 sc) .uncorrectable false (some tag) s

/-- The transfers of a running service job up to the boundary of slot `cur`; an IMPORT that reads a poisoned line fails. -/
def transferSlot (cur : Nat) (tag : BitVec 32) (s : State) : State :=
  match jobOf s tag with
  | none => s
  | some j => match j.service, j.runs.head? with
    | some (.importStream n img p q), some r => match servicePoison s (cur - (r.first + 1)) j (.importStream n img p q) with
      | some sc => spoilService sc tag s
      | none => serviceTransfer cur tag s
    | _, _ => serviceTransfer cur tag s

/-- What a boundary finds done: service transfers of the slot before, saves that are complete, held chunks, overruns; a job that has
committed holds no slots any more (R61). -/
def boundaryEnds (cur : Nat) (s : State) : State :=
  let s := forEach (tagsOf s (fun j => j.phase == .running && j.service.isSome)) (transferSlot cur) s
  let s := forEach (tagsOf s hasCommitted) (fun tag => jmod tag (fun j => { j with runs := [] })) s
  let s := forEach (tagsOf s (fun j => j.phase == .saving)) endSave s
  let s := forEach (tagsOf s (fun j => j.phase == .held)) holdChunk s
  forEach (tagsOf s (fun j => (j.phase == .running || j.phase == .restoring || j.phase == .ending) && (endedRun cur j).isSome))
    (overrunJob cur) s

/-- Has the job a task on one of the tiles that blocks of other streams are to move to? -/
def onSpare (s : State) (j : Job) : Bool :=
  s.streams.recs.any (fun e => e.2.state == .open_ && jobStream j != some e.1 && e.2.moving.any (fun m => match e.2.blocks[m.block]? with
    | some t => t != m.old && decide (t ∈ jobTiles j)
    | none => false))

/-- A running job in the way of a relocation is pre-empted in slot `cur` (R265): this slot saves it, and what is left of its run follows in a
run with its restore slot, to be placed at the next boundary. One that R268 does not let split runs on, and the block waits for it (R153;
log 57). -/
def yieldSpare (cur : Nat) (tag : BitVec 32) (s : State) : State :=
  match jobOf s tag with
  | none => s
  | some j => match j.runs.find? (fun r => runHas r cur), (if j.preimage.isSome then j.preimage else heapAlloc s (imageBytesPerCluster * j.parts.length)) with
    | some r, some x =>
      if j.service.isNone ∧ splittable s j.desc j.parts ∧ cur + 1 < runEnd r then
        jmod tag (fun j => { j with
          preimage := some x, replan := true,
          runs := j.runs.filter (fun y => decide (y.first < r.first)) ++ [⟨r.first, cur + 1 - r.first⟩, ⟨cur + 2, runEnd r - cur + 1⟩] ++
            j.runs.filter (fun y => decide (r.first < y.first)) }) s
      else s
    | _, _ => s

/-- The re-plans of a boundary, before its decisions (R60, R72, R153), and the pre-emptions that a relocation needs (R265). -/
def boundaryPlans (cur : Nat) (s : State) : State :=
  let s := assignSpares s
  let s := forEach (replanOrder s) (fun j => replanJob cur j.tag) s
  forEach (tagsOf s (fun j => j.phase == .running && onSpare s j)) (yieldSpare cur) s

/-- The decisions of a boundary (R60). -/
def boundaryDecides (cur : Nat) (s : State) : State :=
  let due := boundaryArrivals s cur
  forEach due (settleArrival cur) { s with sluice := { s.sluice with arrivals := s.sluice.arrivals.filter (fun a => a ∉ due) } }

/-- What starts at a boundary: jobs, saves, restores (R264, R269, R270). -/
def boundaryStarts (cur : Nat) (s : State) : State :=
  let s := forEach (tagsOf s (fun j => j.phase == .waiting && (match runsFirst j.runs with | some k => decide (k ≤ cur) | none => false)))
    (fun tag s => serviceReq tag (startJob tag s)) s
  let s := forEach (tagsOf s (fun j => j.phase == .running && saveSlot j.runs cur)) saveJob s
  forEach (tagsOf s (fun j => j.phase == .gap && j.runs.any (fun r => r.first = cur))) restoreJob s

/-- The boundary of slot `cur`, one cycle of the page store (R181): what ends, re-plans, decisions, what starts, the map's apply. -/
def boundary (cur : Nat) (s : State) : State :=
  let s := openCycle { s with
    clock := { s.clock with slot := cur },
    sluice := { s.sluice with caps := (cfg s 0x3000 1, cfg s 0x3000 2) } }
  mapBoundary cur (endCycle (boundaryStarts cur (boundaryDecides cur (boundaryPlans cur (boundaryEnds cur s)))))

/-- SLOT_BOUNDARY (R60); none while the Sluice's domain is off (R20). -/
def execSlotBoundary (s : State) : Res :=
  let cur := nextSlot s
  if works s 20 then .next (boundary cur (clockTo (cur * slotNs) s)) else .next s

/-! ## Commit (R62, R63) -/

/-- The status that the commit instant gives a job, and its effect on a stream. -/
def commitStatus (j : Job) (s : State) : BitVec 8 × State :=
  if j.deadline < now s then (stLate, s)
  else match j.service with
    | some v => commitStream j v s
    | none =>
      let s := match jobStream j with
        | some n => streamMod n (fun x => { x with chunks := x.chunks + 1 }) s
        | none => s
      (if j.path = 0 then stDone else stDegraded, s)

/-- Is the job in the last slot of its runs, or past it? -/
def inLastSlot (s : State) (j : Job) : Bool := decide (runsEnd j.runs ≤ now s / slotNs + 1)

/-- Is the job at its commit: its tasks ended, or a service job in its slot L (R147, R150), with the targets that it chose healthy still? One
that the retirement of a target calls to a re-plan chooses them again there. -/
def atCommit (s : State) (j : Job) : Bool :=
  j.phase == .ending || (j.phase == .running && inLastSlot s j && (match j.service with
    | some v => storeWorks s v && (match v with | .importStream _ _ _ _ => j.targets.all (tileHealthy s) | _ => true)
    | none => false))

/-- The commit instant of a job: fences returned, stamp taken and compared with DEADLINE. A service job that has met a poisoned line fails
instead. -/
def commitJob (tag : BitVec 32) (s : State) : State :=
  match jobOf s tag with
  | none => s
  | some j =>
    match j.service.bind (servicePoison s j.len j) with
    | some sc => spoilService sc tag s
    | none =>
    let s := dropReqs (fun r => r.owner == .job tag none) (clearFences j s)
    let r := commitStatus j s
    jmod tag (fun j => { j with phase := .committed, commit := some (now s), status := some r.1 }) r.2

/-- Does the last fence of a job's commit wait: for a descriptor still on a channel of it, or for a peer that is not up (R62)? -/
def commitWaits (s : State) (j : Job) : Bool :=
  anyPosted s j || (jobChannels j).any (fun ch => (chanOf s ch).fencing.any (fun t => decide (1 ≤ t) && decide (t ≤ 4) && !(peerUp s (t - 1)))) ||
  (List.range 3).any (fun p => (fabOf s p).reqs.any (fun r => r.owner == .job j.tag none && !(peerUp s r.peer)))

/-- COMMIT_INSTANT (R62): the last fence has returned. -/
def execCommitInstant (tag : BitVec 32) (at_ : Nat) (s : State) : Res :=
  match jobOf s tag with
  | none => .next s
  | some j => if atCommit (clockTo at_ s) j ∧ !(commitWaits s j) ∧ works s 20 then .next (commitJob tag (clockTo at_ s)) else .next s

/-- What an attempt has written to own Cistern becomes visible at once (R62); poisoned lines written are whole again (R228). -/
def publishStaged (t : Tbl (BitVec 8)) (s : State) : State :=
  { s with
    mem := overlayFlush s.mem t,
    dir := { s.dir with poison := s.dir.poison.filter (fun l => !(overlayHits t (l * 64) 64)) } }

/-- The publish step (R62): everything visible at once, then what the device's functions take in (R210, R313, R331, R351). -/
def publishJob (j : Job) (s : State) : State :=
  let s := match j.service with
    | some v => publishService j v s
    | none => publishPages j (publishOutputs j (publishStaged j.staged s))
  pumpTakeIn j.staged (solverTakeIn j.staged (fusionTakeIn j.staged (selectorTakeIn j.staged s)))

/-- Does the status allow publishing (R68)? -/
def publishes (st : Option (BitVec 8)) : Bool := st == some stDone || st == some stDegraded

/-- Does the commit of job i stand before that of j: earlier, or in the same cycle on a lower queue, or there accepted earlier (R236, R313)? -/
def commitBefore (s : State) (i j : Job) : Bool :=
  let at_ (x : Job) : Nat := s.sluice.jobs.findIdx (fun y => y.tag = x.tag)
  match i.commit, j.commit with
  | some a, some b => decide (a < b) || (decide (a = b) && (decide (i.q < j.q) || (decide (i.q = j.q) && decide (at_ i < at_ j))))
  | _, _ => false

/-- Is the commit of the job the next to publish: none of those not yet published stands before it? -/
def publishNext (s : State) (j : Job) : Bool := s.sluice.jobs.all (fun i => i.phase != .committed || !(commitBefore s i j))

/-- Is the record of the job the next of its queue (R70)? -/
def recordNext (s : State) (j : Job) : Bool := s.sluice.jobs.all (fun i => !(hasCommitted i) || i.q != j.q || !(commitBefore s i j))

/-- COMMIT_PUBLISH: 0.8 us after the commit instant, in commit order (R62, R236). -/
def execCommitPublish (tag : BitVec 32) (s : State) : Res :=
  match jobOf s tag with
  | none => .next s
  | some j =>
    match j.phase, j.commit with
    | .committed, some t =>
      if publishNext s j ∧ works s 20 then
        let s := openCycle (clockTo (t + 800) s)
        let s := if publishes j.status then publishJob j s else s
        .next (endCycle (jmod tag (fun j => { j with phase := .published, staging := [], staged := [] }) s))
      else .next s
    | _, _ => .next s

/-- COMPLETION_RECORD: 1.0 us after the commit instant, in the commit order of its queue (R62, R70). -/
def execCompletionRecord (tag : BitVec 32) (s : State) : Res :=
  match jobOf s tag with
  | none => .next s
  | some j =>
    match j.phase, j.commit, j.status with
    | .published, some t, some st =>
      if recordNext s j ∧ works s 20 then .next (finishJob tag st (clockTo (t + 1000) s)) else .next s
    | _, _, _ => .next s

/-- The unit that a fence on an own target charges (R417): the Cistern half of the read-back address, or a die link. -/
def fenceUnit (s : State) (a : Nat) : Option (BitVec 32) :=
  match placeOf s a 1 with
  | .cistern p => some (unitOf 9 (if subchannelOf s p < 16 then 0x23 else 0x24))
  | .tile p => some (unitOf 9 (dieOfTile ((p - 0x080000000000) / 0x80000)))
  | .cluster k _ => some (unitOf 9 (k / 32))
  | .tensor _ _ => none
  | .peer _ _ => none
  | .unmapped => none

/-- Channels among `chs` with a fence of target t outstanding. -/
def fencedOn (s : State) (chs : List Nat) (t : Nat) : List Nat := chs.filter (fun ch => decide (t ∈ (chanOf s ch).fencing))

/-- Is a fence of the job on target t outstanding: one of its tasks', of a fence descriptor, of its save or of its commit, or the fence at
the end of a service job's slots? -/
def fenceOpen (s : State) (j : Job) (t : Nat) : Bool :=
  (attempting j && decide (fencedOn s (jobChannels j) t ≠ [])) ||
  (j.phase == .running && j.service.isSome && t == 0 && inLastSlot s j)

/-- The instant 100 us after the first fence of target t on some channels was issued; the present one where none is known. -/
def fenceLimit (s : State) (chs : List Nat) (t : Nat) : Nat :=
  match (chs.filterMap (fun ch => ((chanOf s ch).issued.find? (fun e => e.1 = t)).map (fun e => e.2))).min? with
  | some i => i + 100000
  | none => now s

/-- The fences of target t on some channels are given up. -/
def dropFences (chs : List Nat) (t : Nat) (s : State) : State := forEach chs (dropFence t) s

/-- FENCE_TIMEOUT: a fence on an own target is outstanding 100 us after it was issued (R62, R393), which is the instant it acts at; `target` is its read-back
address. That of an ended attempt (R64) fails no attempt any more. -/
def execFenceTimeout (tag : BitVec 32) (target : BitVec 48) (s : State) : Res :=
  let t := targetOf (placeOf s target.toNat 1)
  match fenceUnit s target.toNat with
  | none => .next s
  | some u =>
    match s.sluice.dying.find? (fun d => d.tag = tag && d.waits.any (fun w => w.2 = t)) with
    | some d =>
      let chs := (d.waits.filter (fun w => w.2 = t)).map (fun w => w.1)
      .next (failureEvent u .other false none (dropFences chs t (clockTo (fenceLimit s chs t) s)))
    | none => match jobOf s tag with
      | none => .next s
      | some j =>
        if fenceOpen s j t then
          let chs := fencedOn s (jobChannels j) t
          .next (dropFences chs t (failureEvent u .other false (some tag) (clockTo (fenceLimit s chs t) s)))
        else .next s

/-- Does the supervisor's count of a task exceed 1.03 x BUDGET (R66)? -/
def overBudget (s : State) (j : Job) (task : Nat) : Bool :=
  match j.tasks[task]?, j.prog.cert.tasks[task]? with
  | some x, some e => x.tile.isSome && !x.ended && decide (103 * e.budget < 100 * taskCount s x)
  | _, _ => false

/-- BUDGET_EXCEEDED: the timing supervisor stops a task whose count exceeds its budget (R66). -/
def execBudgetExceeded (tag : BitVec 32) (task : Nat) (s : State) : Res :=
  match jobOf s tag with
  | none => .next s
  | some j => if j.phase = .running ∧ overBudget s j task then .next (finishJob tag stBudget s) else .next s

/-! ## Placement and pre-emption (R264, R270, R272) -/

/-- TASK_READY: a task of a first-free partition becomes ready and takes a tile, or waits for one (R264). -/
def execTaskReady (tag : BitVec 32) (task : Nat) (s : State) : Res :=
  match jobOf s tag with
  | none => .next s
  | some j =>
    match j.tasks[task]? with
    | some x =>
      if j.phase = .running ∧ !x.ready ∧ !x.ended then
        .next (placeReady tag task (jmod tag (fun j => { j with tasks := setAt j.tasks task { x with ready := true } }) s))
      else .next s
    | none => .next s

/-- SAVE_BUDGET_MISS: a save that misses budget 1 or 2 kills the job for re-run (R272). -/
def execSaveBudgetMiss (tag : BitVec 32) (budget : Fin 2) (s : State) : Res :=
  match jobOf s tag with
  | none => .next s
  | some j => if j.phase = .saving ∧ budget.val < 2 then .next (count 0x7416 5 1 (killJob tag s)) else .next s

/-- Instant from which a resumed job's cycles count: not within the restore slot (R270). -/
def countFrom (s : State) (j : Job) : Nat :=
  if j.runs.any (fun r => r.first = now s / slotNs) then (now s / slotNs + 1) * slotNs else now s

/-- RESTORE_RESUME: the restore is complete and tasks resume (R270). -/
def execRestoreResume (tag : BitVec 32) (at_ : Nat) (s : State) : Res :=
  match jobOf s tag with
  | none => .next s
  | some j =>
    if j.phase = .restoring then
      let s := clockTo at_ s
      .next (count 0x7416 2 1 (jmod tag (fun j => resumeFrom (countFrom s j) { j with phase := .running }) s))
    else .next s

/-! ## Prefetch copies, misses and faults (R242-R248) -/

/-- The entry, where it belongs to the job's present plane. -/
def planeEntry (j : Job) (entry : Nat) : Option SchedEntry :=
  (j.prog.sched[entry]?).bind (fun e => if e.plane = j.path then some e else none)

/-- Cluster that an entry's copy goes to. -/
def entryCluster (j : Job) (e : SchedEntry) : Option Nat := ((j.tasks[e.task]?).bind (fun t => t.tile)).map clusterOfTile

/-- Copies in flight to cluster k, over all jobs. -/
def flightsTo (s : State) (k : Nat) : Nat :=
  sumNat ((s.sluice.jobs.filter (fun j => j.phase != .gap)).map (fun j => (j.copies.filter (fun c => !c.arrived && !c.faulted &&
    (match j.prog.sched[c.entry]? with | some e => entryCluster j e == some k | none => false))).length))

/-- Have the earlier entries of the plane all been issued (R243)? -/
def earlierIssued (j : Job) (entry : Nat) : Bool :=
  (List.range entry).all (fun i => (planeEntry j i).isNone || j.copies.any (fun c => c.entry == i))

/-- PREFETCH_ISSUE: the next entry of the present plane is issued, none before its ISSUE; a DAMAGED tensor or a peer that is down faults at once (R243,
R246). -/
def execPrefetchIssue (tag : BitVec 32) (entry : Nat) (s : State) : Res :=
  match jobOf s tag with
  | none => .next s
  | some j =>
    match planeEntry j entry with
    | none => .next s
    | some e =>
      match entryCluster j e, entryTensor j entry with
      | some k, some i =>
        if j.phase = .running ∧ e.issue ≤ jobTimeNow s j ∧ earlierIssued j entry ∧ j.copies.all (fun c => c.entry ≠ entry) ∧ flightsTo s k < 8 then
          let s := jmod tag (fun j => { j with copies := j.copies ++ [{ entry := entry }] }) s
          let v := (boundVersion j i).getD (tensorOf s i).version
          if (tensorOf s i).state = .damaged ∧ v = (tensorOf s i).version then .next (tierFaultAt tag entry .damagedTensor s)
          else match remoteHome s i v with
            | none => .next s
            | some (m, a, n) =>
              if peerUp s m then .next (newReq m (.job tag (some entry)) .read a (leBytes 4 n) s)
              else .next (tierFaultAt tag entry .aquiferPort s)
        else .next s
      | _, _ => .next s

/-- Subchannel of a poisoned line that a copy reads from its home in own Cistern (R246). -/
def copyPoison (s : State) (j : Job) (e : SchedEntry) (i : Nat) : Option Nat :=
  let t := tensorOf s i
  let v := (boundVersion j i).getD t.version
  let served : Bool := match entryCluster j e with | some k => t.version == v && t.clusters.getLsbD k | none => false
  if served then none else (versionAddr s i v).bind (fun a => poisonIn s a (versionStored s i v))

/-- A copy arrives: its bytes stand at its destination, those moved before a pre-emption since then, and its internal event is raised (R243). -/
def arriveCopy (tag : BitVec 32) (entry : Nat) (pl : Place) (b : Bytes) (s : State) : State :=
  let k := (((jobOf s tag).bind (fun j => j.copies.find? (fun c => c.entry = entry))).map (fun c => c.moved)).getD 0
  let pl := placeAfter k pl
  let b := b.drop k
  let s := jmod tag (fun j => { j with copies := j.copies.map (fun c => if c.entry = entry then { c with arrived := true } else c) }) s
  raiseEvent (some tag) (0x2000 + entry % 4096) (mirrorTile (writePlace (byJob tag) pl b s) pl b)

/-- PREFETCH_ARRIVAL: the fence on a copy's last descriptor returns (R243). A read that meets a poisoned line or a block in error
is a tier fault instead (R246). -/
def execPrefetchArrival (tag : BitVec 32) (entry : Nat) (s : State) : Res :=
  match jobOf s tag with
  | none => .next s
  | some j =>
    match planeEntry j entry, entryTensor j entry with
    | some e, some i =>
      if j.phase = .running ∧ inFlight j entry then
        let s := dropReqs (fun r => r.owner == .job tag (some entry)) s
        match copyPoison s j e i with
        | some sc => .next (tierFaultAt tag entry .uncorrectable (failureEvent (unitOf 4 sc) .uncorrectable false none s))
        | none =>
          match copyBytes s j e i with
          | none => .next (tierFaultAt tag entry .decompression s)
          | some b =>
            let pl := entryDest s j e b.length
            if pl = .unmapped then .next (programFault tag (count 0x7415 0x0b 1 s))
            else if touchesReplica s pl b.length then .next (programFault tag s)
            else .next (arriveCopy tag entry pl b s)
      else .next s
    | _, _ => .next s

/-- Has the entry missed: job time NEED + SLACK has come on the plane its miss counts on, and it has neither arrived nor faulted (R245, R247)? -/
def hasMissed (s : State) (j : Job) (entry : Nat) : Bool :=
  match j.prog.sched[entry]? with
  | none => false
  | some e =>
    let cs := if e.plane = j.path then j.copies else (j.switched.map (fun w => w.copies)).getD []
    (eventPlane s j e).isSome && decide (e.need + e.slack ≤ jobTimeNow s j) &&
    cs.all (fun c => c.entry != entry || (!c.arrived && !c.faulted))

/-- TIER_MISS: an entry has not arrived by job time NEED + SLACK (R245, R247). -/
def execTierMiss (tag : BitVec 32) (entry : Nat) (s : State) : Res :=
  match jobOf s tag with
  | none => .next s
  | some j =>
    if j.phase = .running ∧ hasMissed s j entry then .next (pathEvent tag entry (count 0x7415 1 1 s)) else .next s

/-- Is it a running MIGRATE to AQUIFER, whose write a peer may refuse (R252)? -/
def migratesOut (j : Job) : Bool :=
  j.phase == .running && (match j.service with | some (.migrateAquifer _ _ _) => true | _ => false)

/-- TIER_FAULT: a copy in flight meets one of the faults of R246, or a peer refuses the write of a MIGRATE to AQUIFER (R252). -/
def execTierFault (tag : BitVec 32) (entry : Nat) (kind : TierFaultKind) (s : State) : Res :=
  match jobOf s tag with
  | none => .next s
  | some j =>
    if j.phase = .running ∧ inFlightNow s j entry then
      .next (tierFaultAt tag entry kind (dropReqs (fun r => r.owner == .job tag (some entry)) s))
    else if migratesOut j ∧ kind = .aquiferPort then
      .next (finishJob tag stTier (setEvent 9 (count 0x7415 7 1 (count 0x7415 2 1 (dropReqs (fun r => r.owner == .job tag none) s)))))
    else .next s

/-! ## Relocation (R153) -/

/-- A block's rows move from the retired tile to the spare that it holds since the re-plan boundary. -/
def moveBlock (n : Nat) (m : Move) (spare : Nat) (s : State) : State :=
  let r := streamOf s n
  let rows := blockRows s m.old r.rows
  count 0x7412 4 1 (streamMod n (fun x => { x with moving := x.moving.filter (fun y => y.block ≠ m.block) })
    (wipeRollback [m.old] (wipeBlock m.old r.rows (loadBlock spare rows s))))

/-- STREAM_RELOCATE: at the first instant when no task runs on either tile (R153; log 57). A reserve entry of the retired tile that
another job holds kills that job (R272). A block that comes from the rollback image is not read from the tile, so that an uncorrectable
word there loses nothing. -/
def execStreamRelocate (number : BitVec 12) (block : Nat) (readable : Bool) (s : State) : Res :=
  let n := number.toNat
  let r := streamOf s n
  match r.moving.find? (fun m => m.block = block), r.blocks[block]? with
  | some m, some spare =>
    if r.state ≠ .open_ ∨ spare = m.old ∨ tileHeld s m.old ∨ tileHeld s spare then .next s
    else
      let holders := (s.reserve.filter (fun e => e.1 = m.old && e.2.dead.isNone)).map (fun e => e.2.tag)
      let s := forEach (dedup holders) (fun tag s => count 0x7416 4 1 (killJob tag s)) s
      if readable ∨ m.image then .next (yieldTests [spare] (moveBlock n m spare s)) else .next (loseStream n stIntegrity s)
  | _, _ => .next s

/-! ## Siphon channels (R392, R393) -/

/-- SIPHON_DESCRIPTOR_DONE: the descriptor at the head of a channel ends and the next starts (R391, R392). -/
def execSiphonDescriptorDone (channel : Fin 544) (s : State) : Res :=
  if works s 20 then .next (descriptorDone channel.val s) else .next s

/-- SIPHON_FENCE_RETURN: the read-back at an address of a target returns (R393). -/
def execSiphonFenceReturn (channel : Fin 544) (target : BitVec 48) (s : State) : Res :=
  let t := targetOf (placeOf s target.toNat 1)
  if t ∈ (chanOf s channel.val).fencing ∧ works s 20 then .next (fenceReturn channel.val t s) else .next s

/-! ## Cistern and cluster-SRAM upkeep (R228, R256, R257) -/

/-- PATROL_SCRUB: a burst is read with a number of erroneous symbols: up to 8 are corrected, up to 16 poison the line; beyond
that the code may miss the error, which stays free (R228; log 40). None while the domain of its controller is off (R19, R20). -/
def execPatrolScrub (burst : BitVec 48) (symbols : Nat) (s : State) : Res :=
  let a := burst.toNat
  let sc := subchannelOf s a
  if !(works s (if sc < 16 then 14 else 15)) then .next s
  else if !(inUsable s a 64) ∧ !(s.dir.sub ≠ [] ∧ a + 64 ≤ cisternBytes s - 0x4000000) then .next s
  else if symbols = 0 then .next s
  else if symbols ≤ 8 then
    let s := count 0x7415 5 1 (count (0x3820 + sc) 2 1 s)
    if 4 < symbols then .next (failureEvent (unitOf 4 sc) .other false none s) else .next s
  else
    let seen := if symbols ≤ 16 then 1 else Config.freeNat s.freeCtr % 2
    let s := if symbols ≤ 16 then s else { s with freeCtr := s.freeCtr + 1 }
    if seen = 0 then .next s
    else
      let l := a / 64
      let s := { s with dir := { s.dir with poison := if l ∈ s.dir.poison then s.dir.poison else s.dir.poison ++ [l] } }
      .next (failureEvent (unitOf 4 sc) .uncorrectable false none (count 0x7415 4 1 s))

/-- EVACUATION_END: the Cistern ledger grows and the jobs at risk are re-planned at the next boundary (R256). -/
def execEvacuationEnd (sub : Fin 32) (s : State) : Res :=
  if works s 20 ∧ tblGet 0 s.dir.sub sub.val = 1 then
    .next (callReplan (fun j => j.risk) { s with dir := { s.dir with sub := tblSet 0 s.dir.sub sub.val 2 } })
  else .next s

/-- SPARE_COPY_END: the cluster's tiles count again, and the jobs at risk are re-planned at the next boundary (R257). -/
def execSpareCopyEnd (cluster : Fin 64) (s : State) : Res :=
  if works s 20 ∧ (clusterOf s cluster.val).copying then
    .next (callReplan (fun j => j.risk) (cmod cluster.val (fun c => { c with copying := false }) s))
  else .next s

/-! ## Peers (R249, R250) -/

/-- Do `n` bytes at `a` lie in the range that objects 0x3840+m give from `sub` on? -/
def inGrant (s : State) (m sub a n : Nat) : Bool :=
  let base := cfg s (0x3840 + m) sub
  let len := cfg s (0x3840 + m) (sub + 1)
  decide (base ≤ a) && decide (a + n ≤ base + len) && decide (0 < n)

/-- The answer to a peer's request leaves its port: packets of at most the path MTU with PFC_PRIO (R250, R382). -/
def roceReply (m : Nat) (nak : Bool) (data : Bytes) (s : State) : State :=
  match portToward s m with
  | none => s
  | some p =>
    let prio := cfg s (0x3450 + p) 5
    forEach (if data = [] then [[]] else chunksOf 4096 data) (fun d => emitFabric p (.roceAnswer (Fin.ofNat 3 p) m nak d prio)) s

/-- AQUIFER_REQUEST: a peer's RDMA READ or WRITE is served within its ranges, else answered NAK (R249). -/
def execAquiferRequest (m : Fin 4) (write : Bool) (address : BitVec 48) (length : Nat) (data : Bytes) (s : State) : Res :=
  let a := ownPhysical s address.toNat
  if !(peerUp s m.val) then .next s
  else
  let s := receiveBytes ((portToward s m.val).getD 0) (if write then data.length else 0) s
  if write then
    if inGrant s m.val 3 a data.length then .next (roceReply m.val false [] (pokeCistern a data s))
    else .next (roceReply m.val true [] s)
  else if inGrant s m.val 1 a length then .next (roceReply m.val false (peek s a length) s)
  else .next (roceReply m.val true [] s)

/-- The attempt that a channel of cluster Siphons works for. -/
def channelJob (s : State) (ch : Nat) : Option (BitVec 32) :=
  (s.sluice.jobs.find? (fun j => attempting j && decide (ch ∈ jobChannels j))).map (fun j => j.tag)

/-- What a request lost to the transport means for whoever waits for it (R62, R246, R250). -/
def transportLost (p : Nat) (r : RoceReq) (s : State) : State :=
  match r.owner with
  | .job tag (some entry) => match jobOf s tag with
    | some j => if inFlight j entry then tierFaultAt tag entry .aquiferPort s else s
    | none => s
  | .job tag none => failureEvent (unitOf 6 p) .other false (some tag) s
  | .channel ch =>
    let ended := s.sluice.dying.any (fun d => decide ((ch, r.peer + 1) ∈ d.waits))
    let job := if ended then none else channelJob s ch
    dropFences [ch] (r.peer + 1) (failureEvent (unitOf 6 p) .other false job s)
  | .discovery => s

/-- The request with a number that fabric port p has sent and that is not answered, with its queue pair. -/
def sentReq (s : State) (p id : Nat) : Option (RoceReq × Nat) :=
  ((fabOf s p).reqs.find? (fun r => r.id = id)).bind (fun r => r.qp.map (fun k => (r, k)))

/-- A request unacknowledged 32.768 us after it was last sent is sent again at that instant, up to 3 times (R250). -/
def resend (p id : Nat) (s : State) : State :=
  match sentReq s p id with
  | none => s
  | some (r, k) =>
    if r.retries < 3 then
      sendPackets p r.peer k r.op r.address r.data (fabmod p (fun f => { f with
        reqs := f.reqs.map (fun x => if x.id = id then { x with retries := x.retries + 1 } else x) })
          (clockTo (r.sentAt + 32768 * (r.retries + 1)) s))
    else s

/-- TRANSPORT_FAULT: a request that was sent is unanswered 131.072 us later, after 3 retries (R250). -/
def execTransportFault (p : Fin 3) (request : Nat) (s : State) : Res :=
  match sentReq s p.val request with
  | none => .next s
  | some (r, _) =>
    let s := clockTo (r.sentAt + 131072) (forEach (List.range (3 - r.retries)) (fun _ => resend p.val request) s)
    .next (transportLost p.val r (dropReqs (fun x => x.id = request && x.peer = r.peer && x.owner = r.owner) s))

/-- ACK_TIMEOUT: a request unacknowledged for 32.768 us is sent again (R250). -/
def execAckTimeout (p : Fin 3) (request : Nat) (s : State) : Res := .next (resend p.val request s)

end Sys2Proof.Machine
end

