-- ==== Sys2Proof/Machine/Commands.lean ====
section
/-!
DEFINITION. Sys2Proof/Machine/Commands.lean: what the queue, stream, sequence, table and directory objects do with a write
(R38-R43, R65, R135-R142, R166-R172, R186-R191, R230-R234, R254, R473).
-/

namespace Sys2Proof.Machine

/-- What becomes of a write that passed the common checks of R474. -/
inductive WRes where
  /-- aborted with a code; nothing changes (R11) -/
  | abort (code : BitVec 32)
  /-- in effect, with the data of the response -/
  | done (data : Bytes) (s : State)
  /-- taken; the session is answered later (R60) -/
  | wait (s : State)
  deriving Repr

/-- The client of the session in slot k. -/
def clientOf (s : State) (k : Nat) : Nat := (sess s k).client.toNat

/-! ## Queues (R40-R43) -/

/-- A queue's configuration is set and its GENERATION advances (R41). -/
def queueConfig (q sub : Nat) (data : Bytes) (s : State) : State :=
  setCfg (0x6000 + q) sub data (qmod q (fun x => { x with gen := x.gen + 1 }) s)

def queueStart (q : Nat) (s : State) : State := qmod q (fun x => { x with state := .running }) s

/-- A stop: DRAINING with an accepted job, else STOPPED (R42). -/
def queueStop (q : Nat) (s : State) : State :=
  if (qget s q).state = .running then
    qmod q (fun x => { x with state := if queueJobs s q = [] then .stopped else .draining }) s
  else s

/-- A flush: accepted jobs end without completion, records go, GENERATION advances (R42). A job past its commit instant keeps to
its time-line and its record is dropped as stale (R48). -/
def queueFlush (q : Nat) (s : State) : State :=
  let s := forEach ((queueJobs s q).filter (fun j => !(hasCommitted j))) (fun j => flushJob j.tag) s
  qmod q (fun x => { x with state := .stopped, records := [], gen := x.gen + 1 }) s

/-- CONTROL of a queue. -/
def queueControl (q code : Nat) (s : State) : WRes :=
  match code with
  | 1 => .done [] (queueStart q s)
  | 2 => .done [] (queueStop q s)
  | 3 => .done [] (queueFlush q s)
  | _ => .abort abValueRange

/-- An arrival of session k waits for the next boundary (R49, R60). -/
def arrive (k q : Nat) (d : JobDesc) (v : Option Service) (s : State) : State :=
  { s with sluice := { s.sluice with arrivals := s.sluice.arrivals ++
    [{ q := q, session := k, sgen := (sess s k).gen, slot := now s / slotNs, desc := d, service := v }] } }

/-- The arrival of a service job of queue q with its DEADLINE, COOKIE 0 (R146). -/
def arriveService (k q : Nat) (v : Service) (dl : Nat) (s : State) : State :=
  arrive k q { deadline := BitVec.ofNat 32 dl, flags := 8 } (some v) s

/-- RESULT of a cancel (R65, R473): a committed job, or its record, is reported as such (log 44). -/
def cancelResult (s : State) (q : Nat) (tag : BitVec 32) : Nat :=
  match jobOf s tag with
  | some j => if j.q ≠ q then 2 else if hasCommitted j then 1 else 0
  | none => if (qget s q).records.any (fun r => r.tag = tag && r.commit != 0) then 1 else 2

/-- A cancel (R65). -/
def cancelJob (q : Nat) (tag : BitVec 32) (s : State) : WRes :=
  let r := cancelResult s q tag
  .done (leBytes 4 tag.toNat ++ leBytes 1 r ++ zeros 3) (if r = 0 then finishJob tag stCancelled s else s)

/-- NEXT_COMPLETION: the oldest record, or 32 zero bytes, and the queue after it is removed (R43, R473). -/
def nextRecord (q : Nat) (s : State) : Bytes × State :=
  match (qget s q).records with
  | [] => (zeros 32, s)
  | r :: rs => (recordBytes r, qmod q (fun x => { x with records := rs }) s)

/-! ## Streams (R135-R142) -/

/-- The 32 bytes of a stream command (R136). -/
def streamCmdBytes (op : Nat) (c : StreamCmd) : Bytes :=
  leBytes 1 op ++ leBytes 1 c.partition.toNat ++ leBytes 2 c.queue.toNat ++ leBytes 4 c.handle.toNat ++ leBytes 8 c.image.toNat ++
  leBytes 8 c.reserved.toNat ++ leBytes 4 c.deadline.toNat ++ leBytes 2 c.blocks.toNat ++ leBytes 1 c.rows.toNat ++
  leBytes 1 c.target.toNat

def parseStreamCmd (b : Bytes) : Nat × StreamCmd :=
  (fieldAt b 0 1,
   { partition := BitVec.ofNat 8 (fieldAt b 1 1), queue := BitVec.ofNat 16 (fieldAt b 2 2), handle := BitVec.ofNat 32 (fieldAt b 4 4),
     image := BitVec.ofNat 64 (fieldAt b 8 8), reserved := BitVec.ofNat 64 (fieldAt b 16 8),
     deadline := BitVec.ofNat 32 (fieldAt b 24 4), blocks := BitVec.ofNat 16 (fieldAt b 28 2), rows := BitVec.ofNat 8 (fieldAt b 30 1),
     target := BitVec.ofNat 8 (fieldAt b 31 1) })

/-- Does an image of `n` bytes at `a` lie in the Cistern of the module at position m (R147, R150)? -/
def imageInCistern (s : State) (m a n : Nat) : Bool :=
  decide (a < 2 ^ 48) && decide (a % 4096 = 0) &&
  (if m = position s then inUsable s (ownPhysical s a) n
   else match windowOf a with
     | some (x, off) => x == m && decide (off + n ≤ windowBytes)
     | none => false)

/-- Bytes of the image that an export or an import of stream n moves; a header's where the stream is not known. -/
def cmdImageBytes (s : State) (n : Option Nat) : Nat :=
  match n with
  | some n => imageSize (streamOf s n).nblocks (streamOf s n).rows
  | none => 64

/-- Is the command BAD_ARG (R138)? -/
def streamBadArg (s : State) (op : Nat) (c : StreamCmd) : Bool :=
  let h := c.handle.toNat
  let new := op == 1 || (op == 4 && h == 0)
  let z (b : Bool) (v : Nat) : Bool := !b || v == 0
  let named := if new then none else streamNamed s h
  !(decide (1 ≤ op) && decide (op ≤ 6)) || c.reserved != 0 || decide (h / 2 ^ 12 % 2 ^ 12 ≠ 0) ||
  !(z (op == 1) h) || !(z (!new) c.partition.toNat) || !(z (!new) c.queue.toNat) || !(z (op != 3 && op != 4) c.image.toNat) ||
  !(z (op != 3 && op != 4) c.deadline.toNat) || !(z (op != 1) c.blocks.toNat) || !(z (op != 1) c.rows.toNat) ||
  !(z (op != 3) c.target.toNat) ||
  (new && (decide (64 ≤ c.partition.toNat) || decide (4096 ≤ c.queue.toNat))) ||
  (op == 1 && (c.blocks == 0 || decide (512 < c.blocks.toNat) || c.rows == 0 || decide (16 < c.rows.toNat) ||
    !((BitVec.ofNat 64 (queuePermit s c.queue.toNat)).getLsbD c.partition.toNat))) ||
  (op == 3 && (decide (4 ≤ c.target.toNat) || !(imageInCistern s c.target.toNat c.image.toNat (cmdImageBytes s named)))) ||
  (op == 4 && !(imageInCistern s (position s) c.image.toNat (cmdImageBytes s named)))

/-- A reply that carries a record (R137). -/
def streamDone (s : State) (h : Nat) (n : Option Nat) (result : Nat) : WRes := .done (streamReply s h n result {}) s

/-- Free stream numbers. -/
def freeStreams (s : State) : List Nat := ((List.range 4095).map (· + 1)).filter (fun n => (streamOf s n).state == .free)

/-- OPEN takes the lowest free tiles and zeroes their rows (R139). An attempt with a task on one of them is killed for re-run, since no
task of another job runs on a block tile (R141; log 39). -/
def openStream (n : Nat) (c : StreamCmd) (s : State) : State :=
  let p := c.partition.toNat
  let ts := (freeBlockTiles s p).take c.blocks.toNat
  let s := streamMod n (fun _ => { state := .open_, partition := p, queue := c.queue.toNat, rows := c.rows.toNat, blocks := ts, nblocks := c.blocks.toNat }) s
  let s := if ts.any (tileHeld s) then tilesLost ts s else s
  forEach ts (fun t => wipeBlock t c.rows.toNat) s

/-- CLOSE frees the record and advances the number's generation (R134, R142). -/
def closeStream (n : Nat) (s : State) : State :=
  let s := streamMod n (fun _ => {}) (releaseBlocks n s)
  { s with streams := { s.streams with gens := tblMod 0 s.streams.gens n (· + 1) } }

/-- The reply of a CLOSE: the record as it was, in state FREE. -/
def closedReply (s : State) (n : Nat) : Bytes := splice (splice (streamReply s (streamHandle s n) (some n) 0 {}) 7 [0]) 0x1a [0]

/-- ZERO sets V and C of every row to 0 (R140), of a block that awaits relocation on the tile that holds it. -/
def zeroStream (n : Nat) (s : State) : State :=
  let r := streamOf s n
  forEach (r.blocks ++ r.moving.map (fun m => m.old)) (fun t => wipeBlock t r.rows) s

/-- A stream command of session k (R138). A refusal by a check that comes before the
stream is known and owned describes none; a later one describes the stream (log 66). -/
def streamCommand (k : Nat) (b : Bytes) (s : State) : WRes :=
  let (op, c) := parseStreamCmd b
  let h := c.handle.toNat
  let new := op == 1 || (op == 4 && h == 0)
  if streamBadArg s op c then streamDone s h none 1
  else if new then
    let q := c.queue.toNat
    let p := c.partition.toNat
    let need := if op = 1 then c.blocks.toNat else peekNat s (ownPhysical s c.image.toNat + 4) 2
    if queueClient s q ≠ clientOf s k then streamDone s h none 3
    else if (partOf s p).state ≠ .running ∨ (freeBlockTiles s p).length < need then streamDone s h none 5
    else if freeStreams s = [] then streamDone s h none 6
    else if op = 1 then
      let (n, s) := freshChoice (freeStreams s) s
      let n := n.getD 0
      let s := openStream n c s
      .done (streamReply s (streamHandle s n) (some n) 0 {}) s
    else .wait (arriveService k q (.importStream 0 c.image.toNat p q) c.deadline.toNat s)
  else match streamNamed s h with
    | none => streamDone s h none 2
    | some n =>
      let r := streamOf s n
      if queueClient s r.queue ≠ clientOf s k then streamDone s h none 3
      else if streamBadState s op n then streamDone s h (some n) 4
      else match op with
        | 2 => .done (closedReply s n) (closeStream n s)
        | 3 => .wait (arriveService k r.queue (.exportStream n c.image.toNat c.target.toNat) c.deadline.toNat s)
        | 4 => .wait (arriveService k r.queue (.importStream n c.image.toNat 0 0) c.deadline.toNat s)
        | 5 => streamDone s h (some n) 0
        | _ => streamDone (zeroStream n s) h (some n) 0

/-! ## Sequences (R166-R170) -/

def seqCmdBytes (op : Nat) (c : SeqCmd) : Bytes :=
  leBytes 1 op ++ leBytes 1 c.pool.toNat ++ leBytes 1 c.cls.toNat ++ leBytes 1 c.reserved0.toNat ++ leBytes 4 c.handle.toNat ++
  leBytes 4 c.tokens.toNat ++ leBytes 20 c.reserved1.toNat

def parseSeqCmd (b : Bytes) : Nat × SeqCmd :=
  (fieldAt b 0 1,
   { pool := BitVec.ofNat 8 (fieldAt b 1 1), cls := BitVec.ofNat 8 (fieldAt b 2 1), reserved0 := BitVec.ofNat 8 (fieldAt b 3 1),
     handle := BitVec.ofNat 32 (fieldAt b 4 4), tokens := BitVec.ofNat 32 (fieldAt b 8 4), reserved1 := BitVec.ofNat 160 (fieldAt b 12 20) })

/-- The reply about a sequence (R167). -/
def seqReply (s : State) (h result : Nat) (n : Option Nat) : Bytes :=
  match n.bind (fun n => (seqOf s n).map (fun q => (n, q))) with
  | none => leBytes 4 h ++ leBytes 1 result ++ zeros 27
  | some (_, q) =>
    leBytes 4 h ++ leBytes 1 result ++ [1] ++ leBytes 1 q.cls ++ leBytes 1 q.pool ++ leBytes 4 q.length ++ leBytes 4 q.flushed ++
    leBytes 2 q.rows.length ++ leBytes 2 (droppedRows s q) ++ zeros 4 ++ leBytes 8 ((poolOf s q.pool).areaBase q.area)

/-- The entry that a page handle names (R168). -/
def pageNamed (s : State) (h : Nat) : Option Nat :=
  let e := entryKey (h / 2 ^ 22 % 4) (h % 2 ^ 20)
  if h % 2 ^ 20 ≠ 0 ∧ (entryOf s e).state ≠ .free ∧ (entryOf s e).gen.toNat = h / 2 ^ 24 % 256 then some e else none

/-- The reply of PAGE (R167). -/
def pageReply (s : State) (h e : Nat) : Bytes :=
  let x := entryOf s e
  leBytes 4 h ++ [0] ++ leBytes 1 (estateCode x.state) ++ leBytes 1 x.cls ++ leBytes 1 (keyPool e) ++ leBytes 4 x.strips ++ zeros 8 ++
  leBytes 2 x.ref ++ leBytes 2 x.pins ++ leBytes 8 (if x.state = .dropped then 0 else x.addr)

/-- Is the command BAD_ARG before its parent is known (R168)? -/
def seqBadArg (s : State) (op : Nat) (c : SeqCmd) : Bool :=
  let h := c.handle.toNat
  !(decide (1 ≤ op) && decide (op ≤ 5)) || c.reserved0 != 0 || c.reserved1 != 0 ||
  (op != 1 && c.pool != 0) || (op != 1 && op != 2 && c.cls != 0) || (op == 1 && h != 0) || (op != 2 && c.tokens != 0) ||
  decide (4 ≤ c.cls.toNat) || (op == 1 && (decide (4 ≤ c.pool.toNat) || (poolOf s c.pool.toNat).frames == 0)) ||
  (op != 5 && decide (h / 2 ^ 14 % 2 ^ 10 ≠ 0)) || (op == 5 && decide (h / 2 ^ 20 % 4 ≠ 0))

def seqDone (s : State) (h : Nat) (n : Option Nat) (result : Nat) : WRes := .done (seqReply s h result n) s

/-- The first 16 bytes of a branch entry as programs read it, after a change (R193). -/
def writeBranch (t : Table) (i : Nat) (b : Option Branch) (s : State) : State :=
  pokeCistern ((poolOf s t.pool).areaBase t.area + 64 * i) (match b with | some b => branchHead b | none => zeros 16) s

/-- Sequence n closes: the branch indices that hold it are empty (R193). -/
def emptyBranches (n : Nat) (s : State) : State :=
  forEach s.pages.tables (fun e s =>
    forEach ((liveBranches s e.2).filter (fun b => branchSeq b.2 = n)) (fun b s =>
      writeBranch e.2 b.1 none (tableMod e.1 (fun t => { t with branches := t.branches.filter (fun x => x.1 ≠ b.1) }) s)) s) s

/-- A sequence command of session k (R168). -/
def seqCommand (k : Nat) (b : Bytes) (s : State) : WRes :=
  let (op, c) := parseSeqCmd b
  let h := c.handle.toNat
  if seqBadArg s op c then seqDone s h none 1
  else if op = 1 then
    if seqRoom s c.pool.toNat 1 ∧ 0 < freeEntries s c.pool.toNat then
      let (n, s) := seqOpenOp c.pool.toNat c.cls.toNat (clientOf s k) s
      seqDone s (seqHandle s n) (some n) 0
    else seqDone s h none 5
  else if op = 5 then
    match pageNamed s h with
    | some e => .done (pageReply s h e) s
    | none => seqDone (count 0x7413 8 1 s) h none 6
  else match seqNamed s h with
    | none => seqDone s h none 2
    | some (n, q) =>
      if op = 2 ∧ !(forkOk q c.tokens.toNat) then seqDone s h none 1
      else if q.owner ≠ clientOf s k then seqDone s h none 3
      else match op with
        | 2 =>
          if seqAppended s n then seqDone s h (some n) 4
          else if seqRoom s q.pool 1 ∧ 0 < freeEntries s q.pool then
            let (m, s) := seqForkOp q c.tokens.toNat c.cls.toNat s
            seqDone s (seqHandle s m) (some m) 0
          else seqDone s h (some n) 5
        | 3 =>
          if seqInJob s n then seqDone s h (some n) 4
          else .done (splice (seqReply s h 0 (some n)) 5 [0]) (reclaim (seqCloseOp n (emptyBranches n s)))
        | _ => seqDone s h (some n) 0

/-! ## Pools (R160, R163) -/

/-- Are a pool's fields consistent and its footprint placed (R160, R163)? -/
def poolOk (s : State) (p : Nat) : Bool :=
  let q := poolOf s p
  q.frames == 0 ||
  (decide (q.tokenB ≤ q.pageB / 64) && decide (q.frames + q.staging ≤ q.entries) && decide (q.entries ≤ 1048575) &&
   inUsable s q.base q.bytes &&
   (List.range 4).all (fun r => r == p || (poolOf s r).frames == 0 || !(overlaps q.base q.bytes (poolOf s r).base (poolOf s r).bytes)))

/-- Does the pool run: it holds a sequence or a reservation (R160)? -/
def poolRuns (s : State) (p : Nat) : Bool :=
  decide (0 < openSeqs s p) || (poolEntries s p).any (fun e => e.2.state == .reserved)

/-- A pool's object set; FRAMES 0 reclaims every entry (R160, R172), and a configured pool's page table stands in its area (R171). -/
def poolWrite (p sub : Nat) (data : Bytes) (s : State) : WRes :=
  if sub = 6 ∧ leNat data = 0 then .done [] (setCfg (0x3a20 + p) 6 data (reclaimPool p s))
  else
    let s' := setCfg (0x3a20 + p) sub data s
    if poolOk s' p then .done [] (if (poolOf s' p).frames = 0 then s' else writeTable p s') else .abort abValueRange

/-! ## Branch tables (R187-R191) -/

def tableCmdBytes (op : Nat) (c : TableCmd) : Bytes :=
  leBytes 1 op ++ leBytes 1 c.cls.toNat ++ leBytes 2 c.count.toNat ++ leBytes 4 c.table.toNat ++ leBytes 4 c.root.toNat ++
  leBytes 2 c.source.toNat ++ leBytes 2 c.first.toNat ++ leBytes 4 c.n.toNat ++ leBytes 2 c.max.toNat ++ leBytes 10 c.reserved.toNat

def parseTableCmd (b : Bytes) : Nat × TableCmd :=
  (fieldAt b 0 1,
   { cls := BitVec.ofNat 8 (fieldAt b 1 1), count := BitVec.ofNat 16 (fieldAt b 2 2), table := BitVec.ofNat 32 (fieldAt b 4 4),
     root := BitVec.ofNat 32 (fieldAt b 8 4), source := BitVec.ofNat 16 (fieldAt b 12 2), first := BitVec.ofNat 16 (fieldAt b 14 2),
     n := BitVec.ofNat 32 (fieldAt b 16 4), max := BitVec.ofNat 16 (fieldAt b 20 2), reserved := BitVec.ofNat 80 (fieldAt b 22 10) })

/-- The table reply (R189). -/
def tableReply (s : State) (h result first : Nat) (n : Option Nat) : Bytes :=
  match n.bind (tableOf s) with
  | none => leBytes 4 h ++ leBytes 1 result ++ zeros 27
  | some t =>
    leBytes 4 h ++ leBytes 1 result ++ [1] ++ leBytes 2 (liveBranches s t).length ++ leBytes 4 t.root.toNat ++ leBytes 2 first ++
    leBytes 2 t.max ++ leBytes 8 ((poolOf s t.pool).areaBase t.area) ++ leBytes 1 t.pool ++ zeros 7

/-- Is the command BAD_ARG by its own fields (R190)? -/
def tableBadArg (op : Nat) (c : TableCmd) : Bool :=
  !(decide (1 ≤ op) && decide (op ≤ 5)) || c.reserved != 0 ||
  (op != 2 && c.cls != 0) || (op != 2 && op != 3 && c.count != 0) || (op == 1 && c.table != 0) || (op != 1 && c.root != 0) ||
  (op != 2 && c.source != 0) || (op != 3 && c.first != 0) || (op != 2 && c.n != 0) || (op != 1 && c.max != 0) ||
  decide (4 ≤ c.cls.toNat) || ((op == 2 || op == 3) && (c.count == 0 || decide (256 < c.count.toNat))) ||
  (op == 1 && (c.max == 0 || decide (256 < c.max.toNat))) || (op == 3 && decide (256 ≤ c.first.toNat)) ||
  (op == 2 && decide (256 ≤ c.source.toNat) && c.source != 0xffff) ||
  decide (c.table.toNat / 2 ^ 14 % 2 ^ 10 ≠ 0) || decide (c.root.toNat / 2 ^ 14 % 2 ^ 10 ≠ 0)

def tableDone (s : State) (h : Nat) (n : Option Nat) (result : Nat) : WRes := .done (tableReply s h result 0 n) s

/-- The sequence that BRANCH forks: a live branch, or the root. -/
def branchParent (s : State) (t : Table) (source : Nat) : Option (Nat × Seq) :=
  if source = 0xffff then seqNamed s t.root.toNat
  else ((liveBranches s t).find? (fun b => b.1 = source)).bind (fun b => seqNamed s b.2.handle.toNat)

/-- Branch indices of a table that no live branch holds. -/
def freeBranches (s : State) (t : Table) : List Nat :=
  (List.range t.max).filter (fun i => !((liveBranches s t).any (fun b => b.1 == i)))

/-- One branch created at the lowest free index (R191). -/
def addBranch (tn : Nat) (q : Seq) (c : TableCmd) (s : State) : State :=
  match tableOf s tn with
  | none => s
  | some t =>
    let i := ((freeBranches s t).head?).getD 0
    let (m, s) := seqForkOp q c.n.toNat c.cls.toNat s
    let b : Branch := { handle := BitVec.ofNat 32 (seqHandle s m), parent := c.source, cls := c.cls.toNat, forkN := c.n.toNat }
    let s := tableMod tn (fun t => { t with branches := tblPut t.branches i b }) s
    count 0x7414 1 1 (writeBranch t i (some b) s)

/-- One live branch closed (R170, R191). -/
def dropBranch (tn : Nat) (b : Nat × Branch) (s : State) : State :=
  match tableOf s tn with
  | none => s
  | some t =>
    let s := seqCloseOp (branchSeq b.2) s
    let s := tableMod tn (fun t => { t with branches := t.branches.filter (fun x => x.1 ≠ b.1) }) s
    count 0x7414 2 1 (writeBranch t b.1 none s)

/-- BRANCH (R190, R191). -/
def tableBranch (h tn : Nat) (t : Table) (c : TableCmd) (s : State) : WRes :=
  match branchParent s t c.source.toNat with
  | none => tableDone s h (some tn) (if c.source = 0xffff then 2 else 1)
  | some (pn, q) =>
    if !(forkOk q c.n.toNat) then tableDone s h (some tn) 1
    else if tableInJob s tn ∨ seqInJob s pn then tableDone s h (some tn) 4
    else if !(seqRoom s t.pool c.count.toNat) ∨ (freeBranches s t).length < c.count.toNat then tableDone s h (some tn) 5
    else
      let first := ((freeBranches s t).head?).getD 0
      -- the parent's record serves every fork: a fork changes neither its rows nor its LENGTH
      let s := forEach (List.range c.count.toNat) (fun _ => addBranch tn q c) s
      .done (tableReply s h 0 first (some tn)) s

/-- A table command of session k (R190, R191). FROM and N are judged with the table known, before its owner. -/
def tableCommand (k : Nat) (b : Bytes) (s : State) : WRes :=
  let (op, c) := parseTableCmd b
  let h := c.table.toNat
  if tableBadArg op c then tableDone s h none 1
  else if op = 1 then
    match seqNamed s c.root.toNat with
    | none => tableDone s h none 2
    | some (_, q) =>
      if q.owner ≠ clientOf s k then tableDone s h none 3
      else if 16 ≤ s.pages.tables.length ∨ 16383 ≤ (numbersUsed s).length ∨ (poolOf s q.pool).seqMax ≤ poolSeqs s q.pool then tableDone s h none 5
      else
        let (n, a, s) := freshSeq q.pool s
        let t : Table := { pool := q.pool, owner := clientOf s k, root := c.root, max := c.max.toNat, area := a }
        let base := (poolOf s q.pool).areaBase a
        let s := healLines base (64 * c.max.toNat) <| wipe base (64 * c.max.toNat) { s with pages := { s.pages with tables := (n, t) :: s.pages.tables } }
        .done (tableReply s (seqHandle s n) 0 0 (some n)) s
  else match tableNamed s h with
    | none => tableDone s h none 2
    | some (tn, t) =>
      let argBad := op == 2 && (match branchParent s t c.source.toNat with
        | none => c.source != 0xffff
        | some (_, q) => !(forkOk q c.n.toNat))
      if argBad then tableDone s h none 1
      else if op == 2 && (branchParent s t c.source.toNat).isNone then tableDone s h none 2
      else if t.owner ≠ clientOf s k then tableDone s h none 3
      else match op with
        | 2 => tableBranch h tn t c s
        | 3 =>
          let hit := (liveBranches s t).filter (fun b => decide (c.first.toNat ≤ b.1) && decide (b.1 < c.first.toNat + c.count.toNat))
          if tableInJob s tn ∨ hit.any (fun b => seqInJob s (branchSeq b.2)) then tableDone s h (some tn) 4
          else tableDone (reclaim (forEach hit (dropBranch tn) s)) h (some tn) 0
        | 4 =>
          if tableInJob s tn then tableDone s h (some tn) 4
          else
            let reply := splice (tableReply s h 0 0 (some tn)) 5 [0, 0, 0]
            let s := forEach (liveBranches s t) (dropBranch tn) s
            .done reply (reclaim { s with pages := { s.pages with
              tables := s.pages.tables.filter (fun e => e.1 ≠ tn), gens := tblMod 0 s.pages.gens tn (· + 1) } })
        | _ => tableDone s h (some tn) 0

/-! ## The tensor directory (R230-R234) -/

def dirCmdBytes (op : Nat) (c : DirCmd) : Bytes :=
  leBytes 1 op ++ leBytes 1 c.arg.toNat ++ leBytes 2 c.queue.toNat ++ leBytes 4 c.handle.toNat ++ leBytes 4 c.size.toNat ++
  leBytes 4 c.object.toNat ++ leBytes 4 c.offset.toNat ++ leBytes 4 c.deadline.toNat ++ leBytes 8 c.addr.toNat

def parseDirCmd (b : Bytes) : Nat × DirCmd :=
  (fieldAt b 0 1,
   { arg := BitVec.ofNat 8 (fieldAt b 1 1), queue := BitVec.ofNat 16 (fieldAt b 2 2), handle := BitVec.ofNat 32 (fieldAt b 4 4),
     size := BitVec.ofNat 32 (fieldAt b 8 4), object := BitVec.ofNat 32 (fieldAt b 12 4), offset := BitVec.ofNat 32 (fieldAt b 16 4),
     deadline := BitVec.ofNat 32 (fieldAt b 20 4), addr := BitVec.ofNat 64 (fieldAt b 24 8) })

/-- Bytes of a map replica (R196). -/
def mapFootprint (s : State) : Nat := 0x10000 + 512 * mapSlots s

/-- Does an area of cluster SRAM meet a map replica (R196)? A map that has never been given CLUSTERS has none. -/
def meetsMap (s : State) (k off n : Nat) : Bool := decide (k ∈ mapClusters s) && overlaps off n (mapOffset s) (mapFootprint s)

/-- Is MIGRATE's target out of order (R233)? The spec gives no form from AQUIFER to BASIN (log 42). -/
def migrateBad (s : State) (i : Option Nat) (c : DirCmd) : Bool :=
  let target := c.arg.toNat % 16
  let m := c.arg.toNat / 16
  let size := match i with | some i => (tensorOf s i).size | none => 64
  let home := match i with | some i => (tensorOf s i).home | none => Home.none
  match target with
  | 1 => m != 0 || decide (c.offset.toNat % 4096 ≠ 0) || c.addr == 0 || decide (reserveOff < c.offset.toNat + size) ||
      (bitsOf 64 c.addr.toNat).any (fun k => meetsMap s k c.offset.toNat size) || home == .basin || home == .aquifer
  | 2 => m != 0 || c.offset != 0 || c.addr != 0 || home == .cistern
  | 3 => c.offset != 0 || decide (4 ≤ m) || m == position s || decide (c.addr.toNat % 0x10000 ≠ 0) ||
      (match windowOf c.addr.toNat with | some (x, _) => x != m | none => true) || home == .aquifer
  | _ => true

/-- Is the command BAD_ARG (R233)? -/
def dirBadArg (s : State) (op : Nat) (c : DirCmd) : Bool :=
  let h := c.handle.toNat
  let svc := decide (3 ≤ op) && decide (op ≤ 6)
  let size := c.size.toNat % 2 ^ 31
  !(decide (1 ≤ op) && decide (op ≤ 7)) || decide (h / 2 ^ 18 % 64 ≠ 0) || decide (h % 2 ^ 18 = 0) ||
  (op != 1 && op != 6 && c.arg != 0) || (!svc && (c.queue != 0 || c.deadline != 0)) || (op != 1 && c.size != 0) ||
  (op != 3 && op != 4 && c.object != 0) || (op != 6 && c.offset != 0) || (op != 5 && op != 6 && c.addr != 0) ||
  (op == 1 && (decide (size % 64 ≠ 0) || decide (size < 64) || decide (268435456 < size) || decide (5 < c.arg.toNat % 16) ||
    decide (0xc < c.arg.toNat / 16))) ||
  (svc && decide (4096 ≤ c.queue.toNat)) || ((op == 3 || op == 4) && decide (65536 ≤ c.object.toNat)) ||
  (op == 5 && !(inUsable s (ownPhysical s c.addr.toNat) 64)) ||
  (op == 6 && migrateBad s (tensorNamed s h) c)

/-- The service job of an OP on tensor i. -/
def dirService (op i : Nat) (c : DirCmd) : Service :=
  match op with
  | 3 => .load i c.object.toNat
  | 4 => .store i c.object.toNat
  | 5 => .fill i c.addr.toNat
  | _ => match c.arg.toNat % 16 with
    | 1 => .migrateBasin i (BitVec.ofNat 64 c.addr.toNat) c.offset.toNat
    | 2 => .migrateCistern i
    | _ => .migrateAquifer i (c.arg.toNat / 16) c.addr.toNat

/-- Is there no room for the new home (R233 NO_SPACE)? -/
def dirNoSpace (s : State) (i : Nat) (v : Service) : Bool :=
  match v with
  | .load _ o => (objectOf s o).isSome && (heapAlloc s (((objectOf s o).map (fun x => x.stored)).getD 0)).isNone
  | .fill _ a => (heapAlloc s (peekNat s (ownPhysical s a + 12) 4)).isNone
  | .migrateCistern _ => (tensorOf s i).home == .aquifer && (heapAlloc s (tensorOf s i).stored).isNone
  | .migrateBasin _ mask off => basinTaken s i mask off
  | _ => false

/-- LOAD of an empty object, or STORE to an occupied one (R233 NO_OBJECT)? -/
def dirNoObject (s : State) (v : Service) : Bool :=
  match v with
  | .load _ o => (objectOf s o).isNone
  | .store _ o => (objectOf s o).isSome
  | _ => false

def dirDone (s : State) (h : Nat) (i : Option Nat) (result : Nat) : WRes := .done (dirReply s h i result {}) s

/-- A service job whose tensor is freed under it no longer names a tensor (log 43). -/
def orphan (i : Nat) (v : Option Service) : Option Service :=
  match v with
  | some (.load t o) => some (.load (if t = i then 0 else t) o)
  | some (.store t o) => some (.store (if t = i then 0 else t) o)
  | some (.fill t a) => some (.fill (if t = i then 0 else t) a)
  | some (.migrateBasin t m o) => some (.migrateBasin (if t = i then 0 else t) m o)
  | some (.migrateCistern t) => some (.migrateCistern (if t = i then 0 else t))
  | some (.migrateAquifer t m a) => some (.migrateAquifer (if t = i then 0 else t) m a)
  | v => v

/-- FREE (R232, R235). -/
def freeTensor (i : Nat) (s : State) : State :=
  let s := retireHome i s
  let s := { s with
    dir := { s.dir with tensors := tblSet {} s.dir.tensors i {}, gens := tblMod 0 s.dir.gens i (· + 1) },
    sluice := { s.sluice with
      jobs := s.sluice.jobs.map (fun j => { j with service := orphan i j.service }),
      arrivals := s.sluice.arrivals.map (fun a => { a with service := orphan i a.service }) } }
  reapHomes s

/-- CREATE (R232). -/
def createTensor (i : Nat) (c : DirCmd) (s : State) : State :=
  tensorMod i (fun _ => { state := .empty, kind := c.size.getLsbD 31, layout := c.arg, size := c.size.toNat % 2 ^ 31 }) s

/-- A directory command of session k (R233). -/
def dirCommand (k : Nat) (b : Bytes) (s : State) : WRes :=
  let (op, c) := parseDirCmd b
  let h := c.handle.toNat
  if dirBadArg s op c then dirDone s h (if op = 1 then some (h % 2 ^ 18) else tensorNamed s h) 1
  else if op = 1 then
    let i := h % 2 ^ 18
    if (tensorOf s i).state ≠ .free then dirDone s h (some i) 3
    else
      let s := createTensor i c s
      dirDone s (tensorHandle s i) (some i) 0
  else match tensorNamed s h with
    | none => dirDone s h none 2
    | some i =>
      let t := tensorOf s i
      if op = 2 then
        if 0 < listedCount s i then dirDone s h (some i) 3
        else .done (dirReply (freeTensor i s) h (some i) 0 {}) (freeTensor i s)
      else if op = 7 then .done (dirReply s h (some i) 0 {}) (smod k (fun e => { e with query := tensorDesc s i }) s)
      else
        let v := dirService op i c
        if queueClient s c.queue.toNat ≠ clientOf s k then dirDone s h (some i) 7
        else if tensorBusy s i ∨ ((op = 4 ∨ op = 6) ∧ t.state ≠ .valid) then dirDone s h (some i) 3
        else if dirNoSpace s i v then dirDone s h (some i) 4
        else if dirNoObject s v then dirDone s h (some i) 5
        else .wait (arriveService k c.queue.toNat v c.deadline.toNat s)

/-! ## The model store (R254) -/

/-- DELETE of an object. A LOAD or STORE in progress has its own view of it. -/
def deleteObject (o : Nat) (s : State) : State :=
  { s with dir := { s.dir with store := s.dir.store.filter (fun e => e.1 ≠ o) } }

/-- Bytes of the user area. -/
def storeBytes : Nat := 3840 * 2 ^ 30
def storeFree (s : State) : Nat := storeBytes - sumNat (s.dir.store.map (fun e => e.2.stored))

/-- The session's catalogue selection (R254, R479). -/
def selectEntry (k : Nat) (o : BitVec 16) (s : State) : State := smod k (fun e => { e with entry := o }) s

/-! ## Partitions (R261) -/

/-- A partition starts; a DRAINING one runs again (R261). -/
def partStart (p : Nat) (s : State) : State :=
  let r := shapeTiles (partShape s p) (partBase s p)
  pmod p (fun x => { x with state := .running, first := r.1, tiles := r.2 }) s

/-- A partition stops: DRAINING with an accepted job that names it, else STOPPED (R261). -/
def partStop (p : Nat) (s : State) : State :=
  if (partOf s p).state = .running then
    pmod p (fun x => { x with state := if partJobs s p = [] then .stopped else .draining }) s
  else s

end Sys2Proof.Machine
end

