-- ==== Sys2Proof/Machine/Jpeg.lean ====
section
/-!
DEFINITION. Sys2Proof/Machine/Jpeg.lean: what Wellhead does to one sample (R290-R301): the checks of marker segments, the
baseline decode with the IDCT bounded by its accuracy limits (log 35), the tokenizer, UTF-8 counting and augmentation.
-/

namespace Sys2Proof.Machine

/-! ## Marker segments (R290, R291) -/

/-- A Huffman code: length, code, symbol. -/
abbrev HuffTable := List (Nat × Nat × Nat)

/-- A component of the frame: its identifier, sampling factors and quantisation table. -/
structure JComp where
  cid : Nat
  h   : Nat
  v   : Nat
  tq  : Nat
  deriving DecidableEq, Repr

/-- What the marker segments up to a scan give. -/
structure JHead where
  sof    : Option (Nat × Bytes) := none
  quant  : List (Nat × List Nat) := []
  huff   : List (Nat × HuffTable) := []
  ri     : Nat := 0
  deriving DecidableEq, Repr

/-- Codes from the 16 counts and the symbols of a DHT table, in order of length. -/
def huffOf (counts : List Nat) (syms : Bytes) : HuffTable :=
  (counts.zipIdx.foldl (fun (acc : HuffTable × Nat × Nat) c =>
    let code := acc.2.1 * 2
    (acc.1 ++ (List.range c.1).map (fun i => (c.2 + 1, code + i, (nth 0 syms (acc.2.2 + i)).toNat)), code + c.1, acc.2.2 + c.1))
    ([], 0, 0)).1

/-- Tables of a DHT segment; class x 16 + destination names each. -/
def readDht : Nat → Bytes → List (Nat × HuffTable)
  | 0, _ => []
  | fuel + 1, b =>
    if b.length < 17 then []
    else
      let counts := (bytesAt b 1 16).map (fun x => x.toNat)
      (fieldAt b 0 1, huffOf counts (b.drop 17)) :: readDht fuel (b.drop (17 + sumNat counts))

/-- Tables of a DQT segment, in zig-zag order. -/
def readDqt : Nat → Bytes → List (Nat × List Nat)
  | 0, _ => []
  | fuel + 1, b =>
    if b.length < 65 then []
    else
      let wide := decide (16 ≤ fieldAt b 0 1)
      let n := if wide then 129 else 65
      (fieldAt b 0 1 % 16, (List.range 64).map (fun i => if wide then beNat (bytesAt b (1 + 2 * i) 2) else fieldAt b (1 + i) 1)) ::
        readDqt fuel (b.drop n)

/-- A start-of-frame marker (DHT, JPG and DAC share its range). -/
def isSof (m : Nat) : Bool := decide (0xc0 ≤ m) && decide (m ≤ 0xcf) && m != 0xc4 && m != 0xc8 && m != 0xcc

/-- Outcome of reading marker segments: the header, the scan header and the bytes after it; or no further scan. -/
inductive Markers where
  | scan (h : JHead) (sos rest : Bytes)
  | done (h : JHead)
  deriving DecidableEq, Repr

/-- Bytes from the next marker on, past entropy-coded data with its stuffed bytes and restart markers. -/
def skipEntropy : Nat → Bytes → Bytes
  | 0, _ => []
  | fuel + 1, b =>
    match b with
    | 0xff :: m :: r => if m = 0 ∨ 0xd0 ≤ m ∧ m ≤ 0xd7 then skipEntropy fuel r else 0xff :: m :: r
    | [0xff] => []
    | _ :: r => skipEntropy fuel r
    | [] => []

/-- Check 1 of R291 behind SOI, over every marker segment up to EOI or the end of the sample: its length lies within BYTES. -/
def segmentsOk : Nat → Bytes → Bool
  | 0, _ => false
  | fuel + 1, b =>
    match b with
    | [] => true
    | [0xff] => true
    | 0xff :: m :: rest =>
      if m = 0xff then segmentsOk fuel (m :: rest)
      else if m = 0xd9 then true
      else if 0xd0 ≤ m ∧ m ≤ 0xd8 ∨ m = 1 then segmentsOk fuel rest
      else
        let n := beNat (rest.take 2)
        if rest.length < 2 ∨ n < 2 ∨ rest.length < n then false
        else
          let next := rest.drop n
          segmentsOk fuel (if m = 0xda then skipEntropy (next.length + 1) next else next)
    | _ => false

/-- Marker segments up to the next scan, EOI or the end of the sample. -/
def readMarkers : Nat → JHead → Bytes → Markers
  | 0, h, _ => .done h
  | fuel + 1, h, b =>
    match b with
    | 0xff :: m :: rest =>
      if m = 0xff then readMarkers fuel h (m :: rest)
      else if m = 0xd9 then .done h
      else if 0xd0 ≤ m ∧ m ≤ 0xd8 ∨ m = 1 then readMarkers fuel h rest
      else
        let n := beNat (rest.take 2)
        if rest.length < 2 ∨ n < 2 ∨ rest.length < n then .done h
        else
          let seg := (rest.take n).drop 2
          let next := rest.drop n
          if m = 0xda then .scan h seg next
          else if m = 0xc4 then readMarkers fuel { h with huff := readDht 8 seg ++ h.huff } next
          else if m = 0xdb then readMarkers fuel { h with quant := readDqt 8 seg ++ h.quant } next
          else if m = 0xdd then readMarkers fuel { h with ri := beNat (seg.take 2) } next
          else if isSof m.toNat ∧ h.sof = none then readMarkers fuel { h with sof := some (m.toNat, seg) } next
          else readMarkers fuel h next
    | _ => .done h

/-- The frame header: height, width and components. -/
def sofComps (seg : Bytes) : List JComp :=
  (List.range (fieldAt seg 5 1)).map (fun i =>
    ⟨fieldAt seg (6 + 3 * i) 1, fieldAt seg (7 + 3 * i) 1 / 16, fieldAt seg (7 + 3 * i) 1 % 16, fieldAt seg (8 + 3 * i) 1⟩)
def sofH (seg : Bytes) : Nat := beNat (bytesAt seg 1 2)
def sofW (seg : Bytes) : Nat := beNat (bytesAt seg 3 2)

/-- Is the frame header SOF0 with the subset of R290? -/
def sofOk (m : Nat) (seg : Bytes) : Bool :=
  let cs := sofComps seg
  m == 0xc0 && fieldAt seg 0 1 == 8 && sofH seg != 0 && decide (6 + 3 * cs.length ≤ seg.length) &&
  (match cs with
   | [_] => true
   | [y, b, r] => (y.h, y.v) ∈ [(1, 1), (2, 1), (2, 2)] && (b.h, b.v) == (1, 1) && (r.h, r.v) == (1, 1)
   | _ => false)

/-- Checks 2 to 4 of R291 on the frame header, of a sample of n bytes. -/
def frameChecks (h : JHead) (n : Nat) : Option Nat :=
  match h.sof with
  | none => some 2
  | some (m, seg) =>
    if !(sofOk m seg) then some 2
    else if sofW seg = 0 ∨ 8192 < sofW seg ∨ 8192 < sofH seg then some 3
    else if 4096 * n < sofW seg * sofH seg then some 4
    else none

/-- Checks 1 to 4 of R291: the reason of the first that fails, or the markers up to the first scan. A sample without a scan has
no entropy data for its MCUs: check 5. -/
def jpegChecks (b : Bytes) : Nat ⊕ (JHead × Bytes × Bytes) :=
  if b.take 2 ≠ [0xff, 0xd8] ∨ !(segmentsOk (b.length + 1) (b.drop 2)) then .inl 1
  else match readMarkers (b.length + 1) {} (b.drop 2) with
    | .done h => .inl ((frameChecks h b.length).getD 5)
    | .scan h sos rest =>
      match frameChecks h b.length with
      | some r => .inl r
      | none => .inr (h, sos, rest)

/-! ## Entropy data -/

/-- Entropy-coded bytes up to the next marker, unstuffed and cut at restart markers; and what follows. -/
def entropy : Nat → Bytes → List Bytes × Bytes → List Bytes × Bytes
  | 0, _, acc => acc
  | fuel + 1, b, acc =>
    match b with
    | [] => (acc.1, [])
    | 0xff :: 0 :: r => entropy fuel r ((acc.1.dropLast ++ [(acc.1.getLast?.getD []) ++ [0xff]]), [])
    | 0xff :: m :: r =>
      if 0xd0 ≤ m ∧ m ≤ 0xd7 then entropy fuel r (acc.1 ++ [[]], [])
      else if m = 0xff then entropy fuel (m :: r) acc
      else (acc.1, 0xff :: m :: r)
    | x :: r => entropy fuel r ((acc.1.dropLast ++ [(acc.1.getLast?.getD []) ++ [x]]), [])

/-- Bit i of an interval, most significant first. -/
def msbBit (b : Bytes) (i : Nat) : Bool := (nth 0 b (i / 8)).getLsbD (7 - i % 8)

/-- One Huffman symbol from bit i. -/
def huffSym (t : HuffTable) (b : Bytes) (i : Nat) : Nat → Nat → Nat → Option (Nat × Nat)
  | 0, _, _ => none
  | fuel + 1, len, code =>
    if 8 * b.length ≤ i + len then none
    else
      let code := 2 * code + (if msbBit b (i + len) then 1 else 0)
      match t.find? (fun c => c.1 = len + 1 && c.2.1 == code) with
      | some c => some (c.2.2, i + len + 1)
      | none => huffSym t b i fuel (len + 1) code

/-- `n` further bits as a signed difference. -/
def receive (b : Bytes) (i n : Nat) : Option (Int × Nat) :=
  if 8 * b.length < i + n then none
  else
    let v := (List.range n).foldl (fun a k => 2 * a + (if msbBit b (i + k) then 1 else 0)) 0
    some (if n = 0 then 0 else if v < 2 ^ (n - 1) then (v : Int) - 2 ^ n + 1 else v, i + n)

/-- AC coefficients from place k on. -/
def acCoefs (t : HuffTable) (b : Bytes) : Nat → Nat → Nat → List Int → Option (List Int × Nat)
  | 0, i, _, acc => some (acc, i)
  | fuel + 1, i, k, acc =>
    if 64 ≤ k then some (acc, i)
    else match huffSym t b i 16 0 0 with
      | none => none
      | some (rs, i) =>
        if rs = 0 then some (acc ++ List.replicate (64 - k) 0, i)
        else if rs = 0xf0 then acCoefs t b fuel i (k + 16) (acc ++ List.replicate 16 0)
        else match receive b i (rs % 16) with
          | none => none
          | some (v, i) => acCoefs t b fuel i (k + rs / 16 + 1) (acc ++ List.replicate (rs / 16) 0 ++ [v])

/-- One block of 64 coefficients in zig-zag order. -/
def readBlock (dc ac : HuffTable) (b : Bytes) (i : Nat) (pred : Int) : Option (List Int × Nat) :=
  match huffSym dc b i 16 0 0 with
  | none => none
  | some (n, i) => match receive b i n with
    | none => none
    | some (d, i) => (acCoefs ac b 64 i 1 [pred + d]).map (fun r => (r.1.take 64, r.2))

/-- A block of a component: component index, block column and row, coefficients. -/
structure JBlock where
  comp : Nat
  bx   : Nat
  by_  : Nat
  co   : List Int
  deriving DecidableEq, Repr

/-- Blocks of one scan: places in MCU order, decoded over the restart intervals. -/
structure ScanState where
  parts : List Bytes
  pos   : Nat := 0
  preds : List (Nat × Int) := []
  out   : List JBlock := []
  deriving DecidableEq, Repr

/-- A scan's components with their Huffman tables. -/
def scanComps (h : JHead) (sos : Bytes) : List (Nat × HuffTable × HuffTable) :=
  let cs := (h.sof.map (fun x => sofComps x.2)).getD []
  (List.range (fieldAt sos 0 1)).filterMap (fun i =>
    let sel := fieldAt sos (1 + 2 * i) 1
    let td := fieldAt sos (2 + 2 * i) 1
    let tab (k : Nat) : HuffTable := ((h.huff.find? (fun x => x.1 = k)).map (fun x => x.2)).getD []
    (cs.zipIdx.find? (fun c => c.1.cid = sel)).map (fun c => (c.2, tab (td / 16), tab (16 + td % 16))))

/-- Places of a scan's blocks, MCU by MCU: component and block coordinates. -/
def scanPlaces (h : JHead) (sos : Bytes) : List (List (Nat × Nat × Nat)) :=
  match h.sof with
  | none => []
  | some (_, seg) =>
    let cs := sofComps seg
    let hm := (cs.map (fun c => c.h)).foldl max 1
    let vm := (cs.map (fun c => c.v)).foldl max 1
    match scanComps h sos with
    | [(c, _)] =>
      let k := nth ⟨0, 1, 1, 0⟩ cs c
      let one := decide (cs.length = 1)
      let w := ceilDiv (if one then sofW seg else ceilDiv (sofW seg * k.h) hm) 8
      let hh := ceilDiv (if one then sofH seg else ceilDiv (sofH seg * k.v) vm) 8
      (List.range (w * hh)).map (fun i => [(c, i % w, i / w)])
    | sc =>
      let mw := ceilDiv (sofW seg) (8 * hm)
      let mh := ceilDiv (sofH seg) (8 * vm)
      (List.range (mw * mh)).map (fun i => (sc.map (fun c =>
        let k := nth ⟨0, 1, 1, 0⟩ cs c.1
        (List.range (k.h * k.v)).map (fun j => (c.1, i % mw * k.h + j % k.h, i / mw * k.v + j / k.h)))).flatten)

/-- One block of an MCU. -/
def scanBlock (sc : List (Nat × HuffTable × HuffTable)) (p : Nat × Nat × Nat) (st : Option ScanState) : Option ScanState :=
  st.bind (fun st =>
    match sc.find? (fun c => c.1 = p.1), st.parts with
    | some (_, dc, ac), b :: _ =>
      let pred := ((st.preds.find? (fun x => x.1 = p.1)).map (fun x => x.2)).getD 0
      (readBlock dc ac b st.pos pred).map (fun r =>
        { st with pos := r.2, preds := (p.1, nth 0 r.1 0) :: st.preds.filter (fun x => x.1 ≠ p.1),
                  out := ⟨p.1, p.2.1, p.2.2, r.1⟩ :: st.out })
    | _, _ => none)

/-- A scan's blocks; none where the data ends early or holds no code (check 5 of R291). -/
def readScan (h : JHead) (sos : Bytes) (parts : List Bytes) : Option (List JBlock) :=
  let sc := scanComps h sos
  ((scanPlaces h sos).zipIdx.foldl (fun st m =>
    let st := if 0 < h.ri ∧ 0 < m.2 ∧ m.2 % h.ri = 0 then
        st.map (fun st => { st with parts := st.parts.drop 1, pos := 0, preds := [] }) else st
    m.1.foldl (fun st p => scanBlock sc p st) st) (some { parts := parts })).map (fun st => st.out)

/-- Every scan of the image; none is SHORT. -/
def readScans : Nat → JHead → Bytes → Bytes → List JBlock → Option (List JBlock)
  | 0, _, _, _, _ => none
  | fuel + 1, h, sos, rest, acc =>
    let e := entropy (rest.length + 1) rest ([[]], [])
    match readScan h sos e.1 with
    | none => none
    | some bs =>
      let acc := acc ++ bs
      let comps := (h.sof.map (fun x => (sofComps x.2).length)).getD 0
      if (List.range comps).all (fun c => acc.any (fun b => b.comp == c)) then some acc
      else match readMarkers (e.2.length + 1) h e.2 with
        | .scan h sos rest => readScans fuel h sos rest acc
        | _ => none

/-- Place of zig-zag index k in natural order. -/
def zigzag : List Nat := [
  0, 1, 8, 16, 9, 2, 3, 10, 17, 24, 32, 25, 18, 11, 4, 5] ++ [
  12, 19, 26, 33, 40, 48, 41, 34, 27, 20, 13, 6, 7, 14, 21, 28] ++ [
  35, 42, 49, 56, 57, 50, 43, 36, 29, 22, 15, 23, 30, 37, 44, 51] ++ [
  58, 59, 52, 45, 38, 31, 39, 46, 53, 60, 61, 54, 47, 55, 62, 63]

/-- A block dequantised, in natural order. -/
def dequant (q : List Nat) (co : List Int) : List Int :=
  (List.range 64).map (fun n => match zigzag.zipIdx.find? (fun z => z.1 = n) with
    | some (_, k) => nth 0 co k * (nth 0 q k : Nat)
    | none => 0)

/-! ## The inverse transform (R290) -/

/-- cos(k pi / 16) in units of 2^-40, k from 0 to 8. -/
def cosTable : List Nat := [
  1099511627776, 1078384820155, 1015816288660, 914210506869, 777472127994, 610855931251, 420764883643, 214504077523, 0]

/-- cos(k pi / 16) in units of 2^-40. -/
def cos16 (k : Nat) : Int :=
  let k := k % 32
  let q := if k ≤ 16 then k else 32 - k
  if q ≤ 8 then (nth 0 cosTable q : Nat) else -((nth 0 cosTable (16 - q) : Nat) : Int)

/-- c(u) cos((2x + 1) u pi / 16) of the transform, in units of 2^-40. -/
def dctBasis (x u : Nat) : Int := if u = 0 then cos16 4 else cos16 ((2 * x + 1) * u)

/-- The inverse DCT of ISO/IEC 10918-1 at place i of the block, to the nearest integer. -/
def idctNearest (co : List Int) (i : Nat) : Int :=
  let sum := (List.range 64).foldl (fun a n =>
    a + nth 0 co n * dctBasis (i % 8) (n % 8) * dctBasis (i / 8) (n / 8)) (0 : Int)
  (sum + 2 ^ 81) / 2 ^ 82

/-- The Kilwiond IDCT: within the accuracy limits of IEEE 1180, a peak error of one and zeros for zeros, it is free (log 35). -/
def idctSample (co : List Int) (i : Nat) : Int :=
  if co.all (fun c => c == 0) then 0 else idctNearest co i + (((Config.idct co i).toNat % 3 : Nat) : Int) - 1

/-! ## Rounding of pixel values -/

/-- Nearest integer. An exact half rounds to even where the FP32 path is exact; close to a half, or at one on an inexact path,
which neighbour it is stays free (log 35). -/
def pixRound (exact : Bool) (x : Rat) : Int :=
  let f := x.floor
  let r := x - (f : Rat)
  if exact then ratRound x
  else if ratAbs (r - 1 / 2) < 1 / 1024 then (if Config.halfUp x.num x.den then f + 1 else f)
  else ratRound x

def clamp255 (i : Int) : Nat := (max 0 (min 255 i)).toNat

/-- A decoded image: size, and its RGB or mono value at (x, y, channel). -/
structure Image where
  w  : Nat
  h  : Nat
  ch : Nat
  px : List (List (List Nat))
  deriving DecidableEq, Repr

/-- The decoded image in CONVERT's channels: components through the IDCT, chroma replicated, JFIF full range (R290). -/
def jpegImage (h : JHead) (bs : List JBlock) (rgb : Bool) : Image :=
  match h.sof with
  | none => ⟨0, 0, 1, []⟩
  | some (_, seg) =>
    let cs := sofComps seg
    let hm := (cs.map (fun c => c.h)).foldl max 1
    let vm := (cs.map (fun c => c.v)).foldl max 1
    let samp (c x y : Nat) : Nat :=
      let k := nth ⟨0, 1, 1, 0⟩ cs c
      let x := if cs.length = 1 then x else x * k.h / hm
      let y := if cs.length = 1 then y else y * k.v / vm
      match bs.find? (fun b => b.comp = c && b.bx == x / 8 && b.by_ == y / 8) with
      | some b => clamp255 (128 + idctSample (dequant (((h.quant.find? (fun q => q.1 = k.tq)).map (fun q => q.2)).getD []) b.co)
          (8 * (y % 8) + x % 8))
      | none => 0
    let rat (n : Nat) : Rat := (n : Rat)
    let px (x y : Nat) : List Nat :=
      let l := samp 0 x y
      if !rgb then [l]
      else if cs.length = 1 then [l, l, l]
      else
        let b := rat (samp 1 x y) - 128
        let r := rat (samp 2 x y) - 128
        [clamp255 (pixRound false (rat l + 1402 / 1000 * r)),
         clamp255 (pixRound false (rat l - 1772 / 1000 * 114 / 587 * b - 1402 / 1000 * 299 / 587 * r)),
         clamp255 (pixRound false (rat l + 1772 / 1000 * b))]
    ⟨sofW seg, sofH seg, if rgb then 3 else 1,
      (List.range (sofH seg)).map (fun y => (List.range (sofW seg)).map (fun x => px x y))⟩

/-! ## Augmentation (R299-R301) -/

/-- An augmentation record. -/
structure AugRec where
  flip   : Bool := false
  noise  : Nat := 0
  cx     : Nat := 0
  cy     : Nat := 0
  cw     : Nat := 0
  ch     : Nat := 0
  gain   : Nat := 256
  offset : Int := 0
  nseed  : BitVec 64 := 0
  deriving DecidableEq, Repr

/-- The record of an entry's PARAMS; none rejects the sample BAD_SOURCE (R299). -/
def parseAug (b : Bytes) : Option AugRec :=
  let f := fieldAt b
  let off := signedOf 16 (f 0x0c 2)
  if f 0 1 ≤ 1 ∧ f 1 1 ≤ 64 ∧ f 0x0e 2 = 0 ∧ f 0x18 8 = 0 ∧ -255 ≤ off ∧ off ≤ 255 then
    some { flip := f 0 1 == 1, noise := f 1 1, cx := f 2 2, cy := f 4 2, cw := f 6 2, ch := f 8 2,
           gain := if f 0x0a 2 = 0 then 256 else f 0x0a 2, offset := off, nseed := BitVec.ofNat 64 (f 0x10 8) }
  else none

/-- u(x) as F32: exact (R297). -/
def uniform (x : BitVec 64) : BitVec 32 := toF32 (.fin false (x.toNat / 2 ^ 40) (-24))

def f32One : BitVec 32 := 0x3f800000
/-- Correctly rounded square root of a finite, non-negative F32. -/
def f32Sqrt (x : BitVec 32) : BitVec 32 :=
  match f32 x with
  | .fin _ m e =>
    let n := m * 2 ^ ((e + 600).toNat)
    let r := isqrt n
    toF32 (.fin false (2 * r + (if r * r = n then 0 else 1)) (-301))
  | _ => x
def f32Div (a b : BitVec 32) : BitVec 32 :=
  let x := fpRat (f32 a) / fpRat (f32 b)
  toF32 (fpOfRat (decide (x < 0)) x.num.natAbs x.den)
/-- 2^x, correctly rounded. -/
def f32Exp2 (x : BitVec 32) : BitVec 32 :=
  match f32 x with
  | .fin n m e => toF32 (fxFp (fxExp (fxMul (fxOf n m e) fxLn2)))
  | _ => x
def f32Int (x : BitVec 32) : Int := ratRound (fpRat (f32 x))
def f32Floor (x : BitVec 32) : Int := (fpRat (f32 x)).floor

/-- The record that AUG 1 derives (R300). -/
def seededAug (seed : BitVec 64) (range : Bytes) (index str w h : Nat) : AugRec :=
  let u (k : Nat) : BitVec 32 := uniform (gen seed (BitVec.ofNat 64 index) (BitVec.ofNat 64 str) (BitVec.ofNat 64 k))
  let r (k : Nat) : Nat := fieldAt range k 1
  let two (k : Nat) : BitVec 32 := f32Sub (f32Mul (f32OfNat 2) (u k)) f32One
  let smin := f32DivNat (f32OfNat (r 1)) 256
  let a := f32Add smin (f32Mul (u 1) (f32Sub f32One smin))
  let asp := f32Exp2 (f32DivNat (f32Mul (two 2) (f32OfNat (r 2))) 64)
  let side (n : Nat) (x : BitVec 32) : Nat := min n (max 1 (f32Int (f32Mul (f32OfNat n) (f32Sqrt x))).toNat)
  let cw := side w (f32Mul a asp)
  let ch := side h (f32Div a asp)
  { flip := fpLt (f32 (u 0)) (f32 (f32DivNat (f32OfNat (r 0)) 256)), noise := r 5, cw := cw, ch := ch,
    cx := (f32Floor (f32Mul (u 3) (f32OfNat (w - cw + 1)))).toNat, cy := (f32Floor (f32Mul (u 4) (f32OfNat (h - ch + 1)))).toNat,
    gain := (256 + f32Int (f32Mul (two 5) (f32OfNat (r 3)))).toNat, offset := f32Int (f32Mul (two 6) (f32OfNat (r 4))),
    nseed := gen seed (BitVec.ofNat 64 index) (BitVec.ofNat 64 str) 7 }

def pixelAt (im : Image) (x y c : Nat) : Nat := nth 0 (nth [] (nth [] im.px y) x) c

/-- Crop window of a record: clipped to the image; W or H 0 is the whole image. -/
def cropOf (r : AugRec) (im : Image) : Nat × Nat × Nat × Nat :=
  let w := min r.cw (im.w - r.cx)
  let h := min r.ch (im.h - r.cy)
  if w = 0 ∨ h = 0 then (0, 0, im.w, im.h) else (r.cx, r.cy, w, h)

/-- Bilinear resample of a crop at output pixel (ox, oy) with half-pixel centres; a neighbour outside the crop is free. -/
def resample (im : Image) (crop : Nat × Nat × Nat × Nat) (ow oh free ox oy c : Nat) : Rat :=
  let sx : Rat := ((2 * ox + 1) * crop.2.2.1 : Nat) / (2 * ow : Nat) - 1 / 2
  let sy : Rat := ((2 * oy + 1) * crop.2.2.2 : Nat) / (2 * oh : Nat) - 1 / 2
  let fx := sx - (sx.floor : Rat)
  let fy := sy - (sy.floor : Rat)
  let px (dx dy : Int) : Rat :=
    let x := sx.floor + dx
    let y := sy.floor + dy
    if 0 ≤ x ∧ x < crop.2.2.1 ∧ 0 ≤ y ∧ y < crop.2.2.2 then ((pixelAt im (crop.1 + x.toNat) (crop.2.1 + y.toNat) c : Nat) : Rat)
    else (((Config.freeByte free ((oy * 8192 + ox) * 4 + c)).toNat : Nat) : Rat)
  let row (dy : Int) : Rat := if fx = 0 then px 0 dy else (1 - fx) * px 0 dy + fx * px 1 dy
  if fy = 0 then row 0 else (1 - fy) * row 0 + fy * row 1

/-- An image sample's bytes in ACT_PK (R301, R109). -/
def augImage (im : Image) (r : Option AugRec) (ow oh free : Nat) : Bytes :=
  let rc := r.getD {}
  let crop := match r with | some r => cropOf r im | none => (0, 0, im.w, im.h)
  let exact := decide (crop.2.2.1 = ow ∧ crop.2.2.2 = oh)
  let value (x y c : Nat) : BitVec 8 :=
    let v := resample im crop ow oh free (if rc.flip then ow - 1 - x else x) y c
    let v := match r with
      | none => v
      | some r =>
        let n : Int := ((((gen r.nseed (BitVec.ofNat 64 (y * ow + x)) (BitVec.ofNat 64 c) 0).toNat / 2 ^ 40 * (2 * r.noise + 1)) / 2 ^ 24 : Nat) : Int)
        (v - 128) * ((r.gain : Nat) : Rat) / 256 + 128 + ((r.offset + n - r.noise : Int) : Rat)
    BitVec.ofNat 8 (clamp255 (pixRound exact v))
  ((List.range oh).map (fun y => padTo (roundUp (ow * im.ch) 64)
    ((List.range (ow * im.ch)).map (fun i => value (i / im.ch) y (i % im.ch))))).flatten

/-! ## The tokenizer (R294-R296) -/

/-- Entries of a dictionary tensor, every byte of it in an entry; none where an entry breaks R294 (log 36). -/
def parseDict : Nat → Bytes → Option (List Bytes)
  | 0, b => if b = [] then some [] else none
  | fuel + 1, b =>
    match b with
    | [] => some []
    | n :: r =>
      if n = 0 ∨ 64 < n ∨ r.length < n.toNat then none
      else (parseDict fuel (r.drop n.toNat)).map (fun l => r.take n.toNat :: l)

/-- May the dictionary be loaded (R294)? -/
def dictOk (l : List Bytes) : Bool :=
  decide (l.length ≤ 262144) && decide (l.Nodup) && (List.range 256).all (fun i => decide ([BitVec.ofNat 8 i] ∈ l))

/-- The longest entry that the bytes begin with, and its ordinal. -/
def longestMatch (dict : List Bytes) (b : Bytes) : Option (Nat × Nat) :=
  dict.zipIdx.foldl (fun (acc : Option (Nat × Nat)) e =>
    if e.1 ≠ [] ∧ b.take e.1.length = e.1 then
      match acc with
      | some a => if a.2 < e.1.length then some (e.2, e.1.length) else acc
      | none => some (e.2, e.1.length)
    else acc) none

/-- Token IDs of a byte string. -/
def tokenize (dict : List Bytes) : Nat → Bytes → List Nat
  | 0, _ => []
  | fuel + 1, b =>
    if b = [] then []
    else match longestMatch dict b with
      | some (t, n) => t :: tokenize dict fuel (b.drop n)
      | none => []

/-- Bytes of the well-formed UTF-8 sequence at the head (none), or of the longest beginning of one that is invalid (some). -/
def utf8Step (b : Bytes) : Nat × Bool :=
  let at_ (i : Nat) : Nat := (nth 0 b i).toNat
  let cont (i : Nat) : Bool := decide (0x80 ≤ at_ i) && decide (at_ i ≤ 0xbf)
  let c : Nat := at_ 0
  let second (lo hi : Nat) : Bool := decide (lo ≤ at_ 1) && decide (at_ 1 ≤ hi)
  if c < 0x80 then (1, true)
  else if 0xc2 ≤ c ∧ c ≤ 0xdf then (if cont 1 then (2, true) else (1, false))
  else if 0xe0 ≤ c ∧ c ≤ 0xef then
    let lo : Nat := if c = 0xe0 then 0xa0 else 0x80
    let hi : Nat := if c = 0xed then 0x9f else 0xbf
    if !(second lo hi) then (1, false) else if cont 2 then (3, true) else (2, false)
  else if 0xf0 ≤ c ∧ c ≤ 0xf4 then
    let lo : Nat := if c = 0xf0 then 0x90 else 0x80
    let hi : Nat := if c = 0xf4 then 0x8f else 0xbf
    if !(second lo hi) then (1, false) else if !(cont 2) then (2, false) else if cont 3 then (4, true) else (3, false)
  else (1, false)

/-- Invalid UTF-8 sequences of a byte string (R295). -/
def utf8Invalid : Nat → Bytes → Nat
  | 0, _ => 0
  | fuel + 1, b =>
    if b = [] then 0
    else
      let s := utf8Step b
      (if s.2 then 0 else 1) + utf8Invalid fuel (b.drop s.1)

end Sys2Proof.Machine
end

