-- ==== Sys2Proof/Machine/Wellhead.lean ====
section
/-!
DEFINITION. Sys2Proof/Machine/Wellhead.lean: Wellhead: the camera frame path with its signature and batches (R278-R287, R293,
R302-R306, R430, R431), sample streams, decoders and the tokenizer (R288-R296).
-/

namespace Sys2Proof.Machine

def wmod (f : Wellhead → Wellhead) (s : State) : State := { s with wellhead := f s.wellhead }
def camOf (s : State) (n : Nat) : Camera := tblGet {} s.wellhead.cams n
def cammod (n : Nat) (f : Camera → Camera) (s : State) : State := wmod (fun w => { w with cams := tblMod {} w.cams n f }) s
def sampOf (s : State) (n : Nat) : SampleStream := tblGet {} s.wellhead.streams n
def sampmod (n : Nat) (f : SampleStream → SampleStream) (s : State) : State :=
  wmod (fun w => { w with streams := tblMod {} w.streams n f }) s
def camCfg (s : State) (n k : Nat) : Nat := cfg s (0x4800 + n) k
def sampCfg (s : State) (n k : Nat) : Nat := cfg s (0x4900 + n) k

/-- Is Wellhead under function reset, or its power domain off: it takes nothing in (R275, R19)? -/
def wellheadReset (s : State) : Bool := s.resetting.getLsbD 0 || !(works s 12)

/-- Has the receiver of camera port p the symbol clock (R280)? -/
def linkLocked (s : State) (p : Nat) : Bool := tblGet false s.wellhead.links p

/-- The started camera stream on a port and virtual channel. -/
def camOn (s : State) (p vc : Nat) : Option Nat :=
  (List.range 32).find? (fun n => (camOf s n).state != 0 && camCfg s n 1 == p && camCfg s n 2 == vc)

/-! ## Raw words (R279, R283, R430) -/

/-- Bytes of one line of `w` pixels. -/
def lineBytes (dtype w : Nat) : Nat :=
  if dtype = 0x1e then 2 * w else if dtype = 0x2b then 5 * ceilDiv w 4 else if dtype = 0x2c then 3 * ceilDiv w 2 else w

/-- The raw words of a line: pixel values, or Y + 256 x the chroma byte of the pixel (CSI-2 packing; log 35). -/
def unpackLine (dtype w : Nat) (b : Bytes) : List Nat :=
  let v (i : Nat) : Nat := (nth 0 b i).toNat
  (List.range w).map (fun x =>
    if dtype = 0x1e then v (2 * x + 1) + 256 * v (2 * x)
    else if dtype = 0x2b then 4 * v (5 * (x / 4) + x % 4) + v (5 * (x / 4) + 4) / 4 ^ (x % 4) % 4
    else if dtype = 0x2c then 16 * v (3 * (x / 2) + x % 2) + v (3 * (x / 2) + 2) / 16 ^ (x % 2) % 16
    else v x)

/-- The full lines of a payload; a last part of a line keeps the pixels that came whole. -/
def payloadLines (dtype w : Nat) (b : Bytes) : List (List Nat) :=
  (chunksOf (lineBytes dtype w) b).map (fun l =>
    (unpackLine dtype w l).take (if l.length = lineBytes dtype w then w else l.length * w / lineBytes dtype w))

/-- Bits of a raw word. -/
def wordBits (dtype : Nat) : Nat := if dtype = 0x1e then 16 else if dtype = 0x2b then 10 else if dtype = 0x2c then 12 else 8

/-- Word (x, y) of a frame; one that no packet brought is free (log 37). -/
def rawWord (dtype free : Nat) (lines : List (List Nat)) (x y : Nat) : Nat :=
  match (nth [] lines y)[x]? with
  | some v => v
  | none =>
    let i := 2 * (y * 8192 + x)
    ((Config.freeByte free i).toNat + 256 * (Config.freeByte free (i + 1)).toNat) % 2 ^ wordBits dtype

/-- The signature of R430: words above 8 bits as two bytes. -/
def frameSignature (dtype w h : Nat) (word : Nat → Nat → Nat) : BitVec 32 :=
  crc32c (((List.range 16).map (fun j => ((List.range 16).map (fun i =>
    leBytes (if wordBits dtype = 8 then 1 else 2) (word ((2 * i + 1) * w / 32) ((2 * j + 1) * h / 32)))).flatten)).flatten)

/-! ## Conversion (R283, R284) -/

/-- Colour of Bayer site (x, y): 0 red, 1 green, 2 blue (R281). -/
def bayerColour (bayer x y : Nat) : Nat :=
  let x := (x + bayer % 2) % 2
  let y := (y + bayer / 2) % 2
  if x ≠ y then 1 else if x = 0 then 0 else 2

/-- Value of colour c at a site: the site's own, or the mean of the neighbours of that colour; a neighbour outside the frame
leaves the value, of `bits` bits, free (log 35). -/
def demosaic (bits bayer w h free : Nat) (word : Nat → Nat → Nat) (x y c : Nat) : Rat :=
  if bayerColour bayer x y = c then ((word x y : Nat) : Rat)
  else
    let around : List (Int × Int) :=
      [(-1, -1), (0, -1), (1, -1), (-1, 0), (1, 0), (-1, 1), (0, 1), (1, 1)].filter (fun d =>
        bayerColour bayer ((x : Int) + 2 + d.1).toNat ((y : Int) + 2 + d.2).toNat == c)
    let ok : Bool := around.all (fun d => decide (0 ≤ (x : Int) + d.1) && decide ((x : Int) + d.1 < w) &&
      decide (0 ≤ (y : Int) + d.2) && decide ((y : Int) + d.2 < h))
    if ok then
      ((sumNat (around.map (fun d => word ((x : Int) + d.1).toNat ((y : Int) + d.2).toNat)) : Nat) : Rat) /
        ((around.length : Nat) : Rat)
    else
      let i := 2 * ((y * 8192 + x) * 4 + c)
      ((((Config.freeByte free i).toNat + 256 * (Config.freeByte free (i + 1)).toNat) % 2 ^ bits : Nat) : Rat)

/-- BT.601 limited range to RGB, the exact value of channel c. -/
def bt601 (y u v : Nat) (c : Nat) : Rat :=
  let y : Rat := 255 / 219 * (((y : Nat) : Rat) - 16)
  let u : Rat := 255 / 224 * (((u : Nat) : Rat) - 128)
  let v : Rat := 255 / 224 * (((v : Nat) : Rat) - 128)
  if c = 0 then y + 1402 / 1000 * v
  else if c = 1 then y - 1772 / 1000 * 114 / 587 * u - 1402 / 1000 * 299 / 587 * v
  else y + 1772 / 1000 * u

/-- Channel c of the converted pixel (x, y) (R283). -/
def convertPixel (dtype bayer w h free : Nat) (rgb : Bool) (word : Nat → Nat → Nat) (x y c : Nat) : Nat :=
  let scale : Rat := if dtype = 0x2b then 4 else if dtype = 0x2c then 16 else 1
  if dtype = 0x1e then
    let l := word x y % 256
    if rgb then clamp255 (pixRound false (bt601 l (word (x / 2 * 2) y / 256) (word (x / 2 * 2 + 1) y / 256) c)) else l
  else if rgb then clamp255 (ratRound (demosaic (wordBits dtype) bayer w h free word x y c / scale))
  else clamp255 (ratRound (((word x y : Nat) : Rat) / scale))

/-- Rows of `w` pixels of `ch` channels in ACT_PK (R109, R110). -/
def actPk (w h ch : Nat) (f : Nat → Nat → Nat → Nat) : Bytes :=
  ((List.range h).map (fun y => padTo (roundUp (w * ch) 64)
    ((List.range (w * ch)).map (fun i => BitVec.ofNat 8 (f (i / ch) y (i % ch)))))).flatten
def actPkBytes (w h ch : Nat) : Nat := h * roundUp (w * ch) 64

/-- The context pixel: the mean of a 2 x 2 block (R284). -/
def contextPixel (f : Nat → Nat → Nat → Nat) (x y c : Nat) : Nat :=
  (ratRound (((f (2 * x) (2 * y) c + f (2 * x + 1) (2 * y) c + f (2 * x) (2 * y + 1) c + f (2 * x + 1) (2 * y + 1) c : Nat) : Rat) / 4)).toNat

/-! ## Output rings (R302, R303) -/

structure CamGeom where
  dtype : Nat
  w     : Nat
  h     : Nat
  ch    : Nat
  bayer : Nat
  roi   : Bool
  rw    : Nat
  rh    : Nat
  ring  : Nat
  slots : Nat
  deriving DecidableEq, Repr

def camGeom (s : State) (n : Nat) : CamGeom where
  dtype := camCfg s n 3
  w := camCfg s n 4
  h := camCfg s n 5
  ch := if camCfg s n 6 = 1 then 3 else 1
  bayer := camCfg s n 7
  roi := camCfg s n 8 == 1
  rw := camCfg s n 9
  rh := camCfg s n 0x0a
  ring := ownPhysical s (camCfg s n 0x0d)
  slots := camCfg s n 0x0e

/-- SLOT_BYTES of a camera stream. -/
def camSlotBytes (g : CamGeom) : Nat :=
  roundUp (if g.roi then 64 + 64 + 512 + actPkBytes (g.w / 2) (g.h / 2) g.ch + 32 * actPkBytes g.rw g.rh g.ch
    else 64 + 64 + actPkBytes g.w g.h g.ch) 64

/-- Bytes of one sample of a sample stream. -/
def sampleBytes (s : State) (n : Nat) : Nat :=
  roundUp (if sampCfg s n 1 = 1 then 4 * sampCfg s n 7
    else actPkBytes (sampCfg s n 4) (sampCfg s n 5) (if sampCfg s n 6 = 1 then 3 else 1)) 64

/-- SLOT_BYTES of a sample stream. -/
def sampSlotBytes (s : State) (n : Nat) : Nat := 64 + roundUp (8 * sampCfg s n 9) 64 + sampCfg s n 9 * sampleBytes s n

/-- Bytes of an output ring. -/
def ringBytes (slots slotBytes : Nat) : Nat := 128 + slots * slotBytes

/-- HANDED - CONSUMED < SLOTS (R304). -/
def ringRoom (s : State) (ring slots : Nat) (handed : BitVec 32) : Bool :=
  decide ((handed - BitVec.ofNat 32 (peekNat s (ring + 64) 4)).toNat < slots)

/-- The slot header (R303). -/
def slotHeader (seq frame st : BitVec 32) (mask : List Nat) : Bytes :=
  leBytes 4 seq.toNat ++ leBytes 4 frame.toNat ++ leBytes 4 st.toNat ++ leBytes 2 mask.length ++ zeros 2 ++
  leBytes 32 (ofBits mask) ++ zeros 16

/-- A sample's status (R303). -/
def statusBytes (index : BitVec 32) (st : BitVec 8) (reason len : Nat) : Bytes :=
  leBytes 4 index.toNat ++ [st] ++ leBytes 1 reason ++ leBytes 2 len

/-! ## Camera batches (R284-R287, R293, R304) -/

def roiRow (r : RoiRect) (st reason : Nat) : Bytes :=
  leBytes 2 r.x0 ++ leBytes 2 r.y0 ++ leBytes 2 r.w ++ leBytes 2 r.h ++ leBytes 1 st ++ leBytes 1 reason ++ zeros 6

def noRect : RoiRect := ⟨0, 0, 0, 0, true, false⟩

/-- The 32 crop rectangles of a frame: slots past the list are masked. -/
def roiSlots (f : CamFrame) : List RoiRect := (List.range 32).map (fun i => nth noRect f.rois i)

/-- The slot of a good frame (R284, R286, R303). -/
def goodSlot (g : CamGeom) (f : CamFrame) (b : BitVec 32) (frozen : Bool) (free : Nat) : Bytes :=
  let word := rawWord g.dtype free f.lines
  let px := convertPixel g.dtype g.bayer g.w g.h free (g.ch == 3) word
  let fr := if frozen then 8 else 0
  if g.roi then
    let rs := roiSlots f
    let mask : List Nat := 0 :: (rs.zipIdx.filter (fun r => !r.1.masked)).map (fun r => r.2 + 1)
    slotHeader b f.number f.stamp mask ++ padTo 64 (statusBytes f.number (BitVec.ofNat 8 fr) 0 0) ++
    (rs.map (fun r => roiRow r ((if r.clipped then 4 else 0) + (if r.masked then 0 else fr)) 0)).flatten ++
    actPk (g.w / 2) (g.h / 2) g.ch (contextPixel px) ++
    (rs.map (fun r => actPk g.rw g.rh g.ch (fun x y c =>
      if !r.masked ∧ x < r.w ∧ y < r.h then px (r.x0 + x) (r.y0 + y) c else 0))).flatten
  else
    slotHeader b f.number f.stamp [0] ++ padTo 64 (statusBytes f.number (BitVec.ofNat 8 fr) 0 0) ++ actPk g.w g.h g.ch px

/-- The slot of a frame marked LINK_ERROR: the last good batch copied and marked REPLACED, or zeros and PAD (R293). -/
def replacedSlot (g : CamGeom) (f : CamFrame) (b : BitVec 32) (last : Option Bytes) : Bytes :=
  let mark (sl : Bytes) (at_ : Nat) (reasonAt : Nat) : Bytes :=
    splice (splice sl at_ [nth 0 sl at_ ||| 1]) reasonAt [7]
  let rows (sl : Bytes) (which : Nat → Bool) : Bytes :=
    if g.roi then (List.range 32).foldl (fun sl i => if which i then mark sl (128 + 16 * i + 8) (128 + 16 * i + 9) else sl) sl else sl
  match last with
  | some l =>
    let l := splice (splice l 0 (leBytes 4 b.toNat)) 4 (leBytes 4 f.number.toNat)
    rows (mark l 68 69) (fun i => (nth 0 l (0x10 + (i + 1) / 8)).getLsbD ((i + 1) % 8))
  | none =>
    rows (padTo (camSlotBytes g) (slotHeader b f.number f.stamp [] ++ statusBytes f.number 1 7 0)) (fun _ => true)

/-- A frame is marked LINK_ERROR once. -/
def markLinkError (n : Nat) (s : State) : State :=
  match (camOf s n).frame with
  | none => s
  | some f => if f.linkError then s else count 0x7417 3 1 (cammod n (fun c => { c with frame := some { f with linkError := true } }) s)

/-- The region-of-interest rectangles that steer frame k, and whether a list was ignored (R285). -/
def readRoi (s : State) (n : Nat) (k : BitVec 32) : Option (List (Nat × Nat × Nat × Nat)) :=
  let a := ownPhysical s (camCfg s n 0x0b)
  let h := peek s a 64
  let age := (k - BitVec.ofNat 32 (fieldAt h 0 4)).toNat
  let cnt := fieldAt h 4 1
  if 1 ≤ age ∧ age ≤ camCfg s n 0x0c ∧ cnt ≤ 32 ∧ (h.drop 5).all (fun x => x == 0) then
    some ((List.range cnt).map (fun i =>
      let r := peek s (a + 64 + 8 * i) 8
      (fieldAt r 0 2, fieldAt r 2 2, fieldAt r 4 2, fieldAt r 6 2)))
  else none

/-- A rectangle as taken (R286). -/
def takeRect (g : CamGeom) (r : Nat × Nat × Nat × Nat) : RoiRect :=
  let w := min r.2.2.1 (g.w - r.1)
  let h := min r.2.2.2 (g.h - r.2.1)
  if w = 0 ∨ h = 0 then ⟨r.1, r.2.1, w, h, true, false⟩
  else
    ⟨if g.rw < w then r.1 + (w - g.rw) / 2 else r.1, if g.rh < h then r.2.1 + (h - g.rh) / 2 else r.2.1,
      min w g.rw, min h g.rh, false, decide (g.rw < w ∨ g.rh < h)⟩

/-- The handover of a batch: HANDED written, EVENT raised (R304). -/
def handOver (ring : Nat) (handed : BitVec 32) (event : Nat) (s : State) : State :=
  raiseEvent none event (pokeCistern ring (leBytes 4 handed.toNat) s)

/-- The waiting camera batch of stream n is handed over; REPLACED counts a replacement as it is delivered (R281). -/
def camHandover (n : Nat) (s : State) : State :=
  let c := camOf s n
  match c.ready with
  | none => s
  | some (sl, good) =>
    let b := c.handed + 1
    let s := if good then s else count (0x4800 + n) 0x13 1 s
    handOver (camGeom s n).ring b (camCfg s n 0x0f)
      (cammod n (fun c => { c with handed := b, ready := none, lastGood := if good then some sl else c.lastGood }) s)

/-- A frame-start packet on a started stream (R285, R304). -/
def camFrameStart (n : Nat) (s : State) : State :=
  let s := camHandover n s
  let g := camGeom s n
  let k := (camOf s n).frameNo + 1
  let s := count 0x7417 1 1 s
  if !(ringRoom s g.ring g.slots (camOf s n).handed) then
    cammod n (fun c => { c with state := 2, frameNo := k, frame := some { number := k, stamp := stamp s, dropped := true } })
      (count (0x4800 + n) 0x14 1 (count 0x7417 0x0b 1 s))
  else
    let list := if g.roi then readRoi s n k else none
    let rs := (list.getD []).map (takeRect g)
    let s := if g.roi ∧ list.isNone then count 0x7417 0x0c 1 s else s
    let s := count 0x7417 0x0d (rs.filter (fun r => r.clipped)).length s
    cammod n (fun c => { c with state := 2, frameNo := k, frame := some { number := k, stamp := stamp s, dropped := false, rois := rs } }) s

/-- The signature of a frame against the last one, and the detector (R430, R431): is the frame FROZEN? -/
def checkFrozen (n : Nat) (sig : BitVec 32) (s : State) : Bool × State :=
  let c := camOf s n
  let reps : BitVec 8 := if c.signature = some sig then (if c.repeats = 255 then 255 else c.repeats + 1) else 0
  let lim := cfg s (0x4040 + n) 1
  let frozen := decide (lim ≠ 0 ∧ lim ≤ reps.toNat)
  let first := frozen && !c.frozen
  let s := cammod n (fun c => { c with signature := some sig, repeats := reps, frozen := frozen }) s
  let s := if frozen then setEvent 10 (count 0x741d 0x0e 1 s) else s
  (frozen, if first then notifySubs 0x22 (leBytes 1 n) s else s)

/-- A frame-end packet: signature, slot contents or replacement (R287, R293, R304). -/
def camFrameEnd (n : Nat) (s : State) : State :=
  match (camOf s n).frame with
  | none => s
  | some f =>
    let g := camGeom s n
    let free := s.freeCtr
    let s := { s with freeCtr := s.freeCtr + 1 }
    let s := cammod n (fun c => { c with frame := none }) s
    let b := (camOf s n).handed + 1
    let place (sl : Bytes) (good : Bool) (s : State) : State :=
      if f.dropped then s
      else cammod n (fun c => { c with ready := some (sl, good) })
        (pokeCistern (g.ring + 128 + camSlotBytes g * (((camOf s n).handed).toNat % g.slots)) sl s)
    if f.linkError then
      if f.dropped then s
      else place (replacedSlot g f b (camOf s n).lastGood) false
        (count 0x7417 2 1 s)
    else
      let r := checkFrozen n (frameSignature g.dtype g.w g.h (rawWord g.dtype free f.lines)) s
      if f.dropped then r.2 else place (goodSlot g f b r.1 free) true r.2

/-- A long packet of lines joins the frame in progress. -/
def camLines (n : Nat) (crcOk : Bool) (payload : Bytes) (s : State) : State :=
  let g := camGeom s n
  let s := if crcOk then s else markLinkError n s
  cammod n (fun c => { c with frame := c.frame.map (fun f => { f with lines := (f.lines ++ payloadLines g.dtype g.w payload).take g.h }) }) s

/-- A camera stream starts: WAITING, HANDED 0 (R306). -/
def camStart (n : Nat) (s : State) : State :=
  pokeCistern (camGeom s n).ring (zeros 4)
    (cammod n (fun c => { c with state := 1, handed := 0, frame := none, ready := none, lastGood := none }) s)

/-- A camera stream stops: the batch being filled is abandoned (R306). -/
def camStop (n : Nat) (s : State) : State :=
  cammod n (fun c => { c with state := 0, frame := none, ready := none }) s

/-! ## Sample streams (R289-R296, R304) -/

def smpIsText (s : State) (n : Nat) : Bool := sampCfg s n 1 == 1
def smpRing (s : State) (n : Nat) : Nat := ownPhysical s (sampCfg s n 0x0e)
def smpTail (s : State) (n : Nat) : Nat := peekNat s (ownPhysical s (sampCfg s n 2)) 4

/-- Object 0x7417's counter of a reason (R307). -/
def reasonCounter : Nat → Nat
  | 1 => 9 | 2 => 9 | 3 => 5 | 4 => 6 | 5 => 7 | 6 => 8 | 8 => 0x0a
  | _ => 0

/-- The replacement of a sample: zeros, or PAD_ID tokens (R293). -/
def padData (s : State) (n : Nat) : Bytes :=
  padTo (sampleBytes s n) (if smpIsText s n then (List.replicate (sampCfg s n 7) (leBytes 4 (sampCfg s n 8))).flatten else [])

def samplePut (n i : Nat) (f : Sample → Sample) (s : State) : State :=
  sampmod n (fun x => { x with batch := match x.batch[i]? with | some e => setAt x.batch i (f e) | none => x.batch }) s

/-- Sample i of the batch is replaced with a reason (R293). -/
def rejectSample (n i reason : Nat) (s : State) : State :=
  let d := padData s n
  let s := count 0x7417 2 1 s
  let s := if reasonCounter reason = 0 then s else count 0x7417 (reasonCounter reason) 1 s
  samplePut n i (fun e => { e with settled := true, reason := reason, status := 1, len := 0, data := d }) s

/-- The lowest-numbered running stream of a kind with a sample that waits and that no decoder holds, and the sample. -/
def nextSample (s : State) (text : Bool) : Option (Nat × Nat) :=
  (List.range 16).findSome? (fun n =>
    if (sampOf s n).running ∧ smpIsText s n = text then
      ((sampOf s n).batch.zipIdx.find? (fun e => !e.1.settled &&
        (List.range 5).all (fun d => match tblGet none s.wellhead.decoders d with
          | some x => !(x.stream == n && x.sample == e.2)
          | none => true))).map (fun e => (n, e.2))
    else none)

def decoderSet (d : Nat) (v : Option Decoder) (s : State) : State :=
  wmod (fun w => { w with decoders := tblSet none w.decoders d v }) s

/-- The tokenizer, unit 4, takes the next text sample as soon as it is free (R292): a sample's decode time runs from there. -/
def tokenizerTake (s : State) : State :=
  if tblGet none s.wellhead.decoders 4 ≠ none ∨ !s.wellhead.loaded then s
  else match nextSample s true with
    | some (n, i) => decoderSet 4 (some ⟨n, i, now s⟩) s
    | none => s

/-- Decoders at work on stream n stop. -/
def dropDecoders (n : Nat) (s : State) : State :=
  wmod (fun w => { w with decoders := w.decoders.filter (fun e => (e.2.map (fun d => d.stream)) ≠ some n) }) s

/-- A sample's source bytes. -/
def sampleSrc (s : State) (e : Sample) : Bytes := peek s (ownPhysical s e.src) e.bytes

/-- The augmentation record of a sample, under AUG 2 as it was read when the sample was taken; none is identity (AUG 0, or PARAMS 0 under
AUG 2). -/
def sampleAug (s : State) (n : Nat) (e : Sample) (w h : Nat) : Option AugRec :=
  match sampCfg s n 0x0b with
  | 1 => some (seededAug (BitVec.ofNat 64 (sampCfg s n 0x0c)) (cfgBytes s (0x4900 + n) 0x0d) e.index.toNat n w h)
  | 2 => if e.params = 0 then some {} else parseAug e.aug
  | _ => none

/-- A decoder finishes sample i of stream n (R290, R291 check 5, R301). -/
def finishImage (n i : Nat) (e : Sample) (s : State) : State :=
  match jpegChecks (sampleSrc s e) with
  | .inl r => rejectSample n i r s
  | .inr (h, sos, rest) =>
    match readScans (rest.length + 1) h sos rest [] with
    | none => rejectSample n i 5 s
    | some bs =>
      let im := jpegImage h bs (sampCfg s n 6 == 1)
      let free := s.freeCtr
      let d := padTo (sampleBytes s n) (augImage im (sampleAug s n e im.w im.h) (sampCfg s n 4) (sampCfg s n 5) free)
      count 0x7417 4 1 (samplePut n i (fun e => { e with settled := true, data := d }) { s with freeCtr := s.freeCtr + 1 })

/-- LEN of a text: a count of 65,536 does not fit its 16 bits (log 37). -/
def textLen (k free : Nat) : Nat := if k < 65536 then k else Config.freeNat free % 65536

/-- The tokenizer finishes sample i of stream n (R295, R296). -/
def finishText (n i : Nat) (e : Sample) (s : State) : State :=
  let src := sampleSrc s e
  let ts := tokenize s.wellhead.dict (src.length + 1) src
  let m := sampCfg s n 7
  let kept := ts.take m
  let d := padTo (sampleBytes s n) ((kept ++ List.replicate (m - kept.length) (sampCfg s n 8)).map (leBytes 4)).flatten
  let cut := decide (m < ts.length)
  let s := count 0x7417 0x0f (utf8Invalid (src.length + 1) src) (count 0x7417 4 1 s)
  let s := if cut then count 0x7417 0x0e 1 s else s
  samplePut n i (fun e => { e with settled := true, status := if cut then 2 else 0, len := textLen kept.length s.freeCtr, data := d })
    { s with freeCtr := s.freeCtr + 1 }

/-- A sample stream takes its next input entry (R289): HEAD is judged against TAIL at a batch's start (R305); nothing while its batch or its ring is full, or the input is empty. -/
def takeSample (n : Nat) (s : State) : State :=
  let x := sampOf s n
  let entries := sampCfg s n 3
  let waiting := (smpTail s n + 2 ^ 32 - x.head % 2 ^ 32) % 2 ^ 32
  if !x.running ∨ sampCfg s n 9 ≤ x.batch.length ∨ waiting = 0 ∨ !(ringRoom s (smpRing s n) (sampCfg s n 0x0f) x.handed) then s
  else
    let skip := if x.batch = [] then waiting - entries else 0
    let head := x.head + skip
    let s := if skip = 0 then s else count 0x7417 0x10 skip s
    let b := peek s (ownPhysical s (sampCfg s n 2) + 64 + 32 * (head % entries)) 32
    let params := fieldAt b 16 8
    let aug := decide (sampCfg s n 1 = 0 ∧ sampCfg s n 0x0b = 2 ∧ params ≠ 0)
    let e : Sample := { index := BitVec.ofNat 32 (fieldAt b 12 4), src := fieldAt b 0 8, bytes := fieldAt b 8 4, params := params,
                        aug := if aug then peek s (ownPhysical s params) 32 else [] }
    let i := x.batch.length
    let s := sampmod n (fun x => { x with head := head + 1, batch := x.batch ++ [e] }) s
    let bad : Bool := decide (fieldAt b 24 8 ≠ 0) || decide (e.bytes = 0) || decide (16777216 < e.bytes) ||
      !(inUsable s (ownPhysical s e.src) e.bytes) ||
      (aug && (!(inUsable s (ownPhysical s e.params) 32) || (parseAug e.aug).isNone))
    if bad then rejectSample n i 8 s else s

/-- The slot of a settled sample batch (R303). -/
def sampleSlot (s : State) (n : Nat) (b : BitVec 32) (l : List Sample) : Bytes :=
  let good := (l.zipIdx.filter (fun e => e.1.reason = 0)).map (fun e => e.2)
  slotHeader b ((l.head?.map (fun e => e.index)).getD 0) (stamp s) good ++
  padTo (roundUp (8 * sampCfg s n 9) 64) ((l.map (fun e => statusBytes e.index e.status e.reason e.len)).flatten) ++
  (l.map (fun e => e.data)).flatten

/-- The batch of a sample stream is handed over once every sample is settled (R304). -/
def sampleHandover (n : Nat) (s : State) : State :=
  let x := sampOf s n
  if x.running ∧ x.batch.length = sampCfg s n 9 ∧ x.batch.all (fun e => e.settled) then
    let b := x.handed + 1
    let sl := sampleSlot s n b x.batch
    let s := pokeCistern (smpRing s n + 128 + sampSlotBytes s n * (x.handed.toNat % sampCfg s n 0x0f)) sl s
    handOver (smpRing s n) b (sampCfg s n 0x10) (sampmod n (fun x => { x with handed := b, batch := [] }) s)
  else s

/-- A flush: unfilled samples are PAD and FLUSHED and the batch is handed over at once; a stream that has taken nothing has no
batch to hand over (R304; log 37). -/
def flushStream (n : Nat) (s : State) : State :=
  if (sampOf s n).batch = [] then s
  else
    let s := dropDecoders n s
    let missing := sampCfg s n 9 - (sampOf s n).batch.length
    let s := sampmod n (fun x => { x with batch := x.batch ++ List.replicate missing { index := 0, src := 0, bytes := 0, params := 0 } }) s
    let open_ := ((sampOf s n).batch.zipIdx.filter (fun e => !e.1.settled)).map (fun e => e.2)
    tokenizerTake (sampleHandover n (forEach open_ (fun i => rejectSample n i 9) s))

/-- A sample stream starts at HEAD = TAIL (R306). -/
def sampleStart (n : Nat) (s : State) : State :=
  pokeCistern (smpRing s n) (zeros 4) (sampmod n (fun _ => { running := true, head := smpTail s n, handed := 0, batch := [] }) s)

/-- A sample stream stops: the batch is abandoned (R306). -/
def sampleStop (n : Nat) (s : State) : State :=
  tokenizerTake (sampmod n (fun x => { x with running := false, batch := [] }) (dropDecoders n s))

/-- DICT is loaded from its VALID tensor, wherever that is held; none is a load that R294 aborts. -/
def loadDict (s : State) : Option State :=
  match (tensorNamed s (cfg s 0x4980 1)).filter (fun t => (tensorOf s t).state == .valid) with
  | none => none
  | some t => match versionBytes s t (tensorOf s t).version with
    | none => none
    | some b => match parseDict (b.length + 1) b with
      | none => none
      | some l => if dictOk l then some (wmod (fun w => { w with dict := l, loaded := true }) s) else none

/-- A function reset of Wellhead takes effect (R276, R306): nothing handed over is lost; started streams restart. -/
def wipeWellhead (s : State) : State :=
  wmod (fun w => { w with
    cams := tblMap ({} : Camera) (fun c =>
      { c with state := if c.state = 0 then 0 else 1, frame := none, ready := none, lastGood := none, signature := none, repeats := 0,
               frozen := false }) w.cams,
    streams := tblMap ({} : SampleStream) (fun x => { x with batch := [] }) w.streams,
    decoders := [] }) s

/-! ## Commands -/

/-- FRAME_START: a frame-start packet on a port and virtual channel (R285, R304, R306). -/
def execFrameStart (port : Fin 12) (vc : Fin 16) (at_ : Nat) (s : State) : Res :=
  let s := clockTo at_ s
  if wellheadReset s ∨ !(linkLocked s port.val) then .next s
  else match camOn s port.val vc.val with
    | none => .next s
    | some n => .next (camFrameStart n s)

/-- CSI_LONG_PACKET: a long packet is checked and its lines taken (R279, R280). -/
def execCsiLongPacket (port : Fin 12) (vc : Fin 16) (dtype : BitVec 8) (headerOk crcOk : Bool) (payload : Bytes) (s : State) : Res :=
  let d := dtype.toNat
  if wellheadReset s ∨ !(linkLocked s port.val) then .next s
  else if !headerOk then .next (count (0x4880 + port.val) 4 1 s)
  else if d ≠ 0x1e ∧ d ≠ 0x2a ∧ d ≠ 0x2b ∧ d ≠ 0x2c then .next (count (0x4880 + port.val) 5 1 s)
  else
    let s := if crcOk then s else count (0x4880 + port.val) 3 1 s
    match camOn s port.val vc.val with
    | none => .next s
    | some n => if camCfg s n 3 ≠ d then .next s else .next (camLines n crcOk payload s)

/-- FRAME_END: a frame-end packet completes the frame (R304). -/
def execFrameEnd (port : Fin 12) (vc : Fin 16) (s : State) : Res :=
  if wellheadReset s ∨ !(linkLocked s port.val) then .next s
  else match camOn s port.val vc.val with
    | none => .next s
    | some n => .next (camFrameEnd n s)

/-- BATCH_HANDOVER: the writes of a batch are fenced and HANDED is written; streams 32 to 47 are the sample streams (R304). -/
def execBatchHandover (stream : Fin 48) (s : State) : Res :=
  if wellheadReset s then .next s
  else if stream.val < 32 then .next (camHandover stream.val s)
  else .next (sampleHandover (stream.val - 32) s)

/-- SAMPLE_TAKEN: a sample stream takes an input entry (R289). -/
def execSampleTaken (n : Fin 16) (s : State) : Res :=
  if wellheadReset s then .next s else .next (tokenizerTake (takeSample n.val s))

/-- DECODE_START: a free decoder takes the oldest waiting sample and makes checks 1 to 4 (R291, R292). -/
def execDecodeStart (decoder : Fin 4) (at_ : Nat) (s : State) : Res :=
  let s := clockTo at_ s
  if wellheadReset s ∨ tblGet none s.wellhead.decoders decoder.val ≠ none then .next s
  else match nextSample s false with
    | none => .next s
    | some (n, i) => match (sampOf s n).batch[i]? with
      | none => .next s
      | some e => match jpegChecks (sampleSrc s e) with
        | .inl r => .next (rejectSample n i r s)
        | .inr _ => .next (decoderSet decoder.val (some ⟨n, i, now s⟩) s)

/-- What a decoder, or the tokenizer as unit 4, works on: stream, sample and the instant it was taken. -/
def unitWork (s : State) (unit : Nat) : Option Decoder := tblGet none s.wellhead.decoders unit

/-- BUDGET of a sample stream in ns (R288, R292). -/
def smpBudget (s : State) (n : Nat) : Nat := 1000 * sampCfg s n 0x0a

/-- DECODE_DONE: a decoder or the tokenizer finishes a sample (R290, R295). -/
def execDecodeDone (unit : Fin 5) (at_ : Nat) (s : State) : Res :=
  let s := clockTo at_ s
  if wellheadReset s then .next s
  else match unitWork s unit.val with
    | none => .next s
    | some d =>
      let s := decoderSet unit.val none s
      match (sampOf s d.stream).batch[d.sample]? with
      | none => .next (tokenizerTake s)
      | some e =>
        if smpBudget s d.stream < now s - d.since then .next (tokenizerTake (rejectSample d.stream d.sample 6 s))
        else if unit.val = 4 then .next (tokenizerTake (finishText d.stream d.sample e s))
        else .next (finishImage d.stream d.sample e s)

/-- OVER_BUDGET: the sample's decode time exceeds BUDGET and it is abandoned (R292). -/
def execOverBudget (unit : Fin 5) (at_ : Nat) (s : State) : Res :=
  let s := clockTo at_ s
  if wellheadReset s then .next s
  else match unitWork s unit.val with
    | none => .next s
    | some d =>
      if smpBudget s d.stream < now s - d.since then
        .next (tokenizerTake (rejectSample d.stream d.sample 6 (decoderSet unit.val none s)))
      else .next s

/-- CAMERA_LINK_LOCKED: the receiver of a camera port recovers the symbol clock (R280). -/
def execCameraLinkLocked (port : Fin 12) (s : State) : Res :=
  .next (wmod (fun w => { w with links := tblSet false w.links port.val true }) s)

/-- CAMERA_LINK_LOST: a camera port loses its symbols (R280). -/
def execCameraLinkLost (port : Fin 12) (s : State) : Res :=
  .next (wmod (fun w => { w with links := tblSet false w.links port.val false }) s)

end Sys2Proof.Machine
end

