-- ==== Sys2Proof/Machine/Resets.lean ====
section
/-!
DEFINITION. Sys2Proof/Machine/Resets.lean: what a loss of power or a function reset wipes (R276, R399), and the function resets
(R274-R276). A reset's effect falls at its write, and what its channels wrote till they were fenced is wiped at
FUNCTION_RESET_DONE, which ends it (log 45).
-/

namespace Sys2Proof.Machine

/-! ## Wipes -/

/-- The state of a tile blank; the island's gate stays (R276, R433). -/
def blankTile (t : Nat) (s : State) : State := tmod t (fun x => { gated := x.gated }) s

/-- Tile SRAM and state of the tiles wiped (R276). -/
def wipeTiles (ts : List Nat) (s : State) : State :=
  forEach ts (fun t s => wipe (tileBase t) tileBytes (blankTile t s)) s

/-- Ranges of cluster `k`'s SRAM that a partition reset keeps: the map's and the BASIN replicas' (R276). -/
def keptRanges (s : State) (k : Nat) : List (Nat × Nat) :=
  (if k ∈ mapClusters s then [(mapOffset s, mapFootprint s)] else []) ++
  (replicasOn s k).map (fun i => ((tensorOf s i).offset, (tensorOf s i).size))

/-- Cluster SRAM below 0x37_8000 wiped but for the kept ranges (R276). -/
def wipeCluster (k : Nat) (s : State) : State :=
  let keep := keptRanges s k
  { s with mem := s.mem.filter (fun c =>
      decide (c.1 < clusterBase k) || decide (clusterBase k + reserveOff ≤ c.1) ||
      keep.any (fun r => decide (clusterBase k + r.1 ≤ c.1) && decide (c.1 < clusterBase k + r.1 + r.2))) }

/-- Reserve entries with their record bytes, rollback images and export buffers of the tiles wiped (R276). -/
def wipeReserve (ts : List Nat) (s : State) : State :=
  let s := forEach ts (fun t => wipe (recordBase t) recordSpan) s
  wipeExport ts (wipeRollback ts { s with reserve := s.reserve.filter (fun e => e.1 ∉ ts) })

/-- Streams OPEN with a block on one of the tiles become LOST (R142, R399); their chunks complete with the status. -/
def loseStreamsOn (ts : List Nat) (st : BitVec 8) (s : State) : State :=
  forEach (dedup ((ts.map (blocksOn s)).flatten.map (fun b => b.1))) (fun n => loseStream n st) s

/-! ## A region powered off (R399) -/

def regionTiles (r : Nat) : List Nat := (List.range 64).map (fun i => 64 * r + i)
def regionClusters (r : Nat) : List Nat := (List.range 8).map (fun i => 8 * r + i)

/-- Tile SRAM, tile state and cluster SRAM of region r wiped (R398, R399). -/
def scrubRegion (r : Nat) (s : State) : State :=
  let ts := regionTiles r
  let s := wipeReserve ts (wipeTiles ts s)
  forEach (regionClusters r) (fun k s => wipe (clusterBase k) 0x400000 (cmod k (fun c => { c with arrived := 0, rr := 0 }) s)) s

/-- Region r loses its tile SRAM, accumulators and cluster SRAM: attempts on its tiles are killed, its streams are LOST, its
BASIN and map replicas are gone (R399). -/
def regionLost (r : Nat) (s : State) : State :=
  let ts := regionTiles r
  let s := tilesLost ts (abandonTests ts s)
  let s := loseStreamsOn ts stIntegrity s
  forEach (regionClusters r) dropReplicas (scrubRegion r s)

/-! ## Partition reset (R261, R275, R276) -/

/-- Does the job name the partition or one that overlaps it? -/
def namesPart (s : State) (p : Nat) (j : Job) : Bool := j.parts.any (fun q => q == p || partsOverlap s p q)

/-- What a partition's reset wipes of the tiles `ts` and of their clusters (R276). -/
def wipePart (ts : List Nat) (s : State) : State :=
  forEach (dedup (ts.map clusterOfTile)) (fun k s => wipeCluster k (cmod k (fun c => { c with arrived := 0 }) s))
    (wipeReserve ts (wipeTiles ts s))

/-- A partition's function reset: jobs concerned CANCELLED, its streams LOST, its tiles and clusters wiped (R276). -/
def partReset (p : Nat) (s : State) : State :=
  let ts := partTiles s p
  let s := forEach (s.sluice.jobs.filter (fun j => namesPart s p j && !(hasCommitted j))) (fun j => finishJob j.tag stCancelled) s
  pmod p (fun x => { x with state := .resetting }) (wipePart ts (loseStreamsOn ts stCancelled s))

/-- The end of a partition's reset: what descriptors of the cancelled jobs wrote up to their fences is wiped (R275, R276). A cluster on
which a job of a partition that overlaps has a task again is left alone (log 45). -/
def partResetEnd (p : Nat) (s : State) : State :=
  let busy (k : Nat) : Bool := (clusterTiles k).any (fun t => (taskOn s t).isSome)
  wipePart ((partTiles s p).filter (fun t => !(busy (clusterOfTile t)))) (pmod p (fun x => { x with state := .stopped }) s)

/-- CONTROL of a partition (R261). -/
def partControl (p code : Nat) (s : State) : WRes :=
  if code = 0 ∨ 3 < code then .abort abValueRange
  else if (partOf s p).state = .resetting then .abort abConflict
  else match code with
    | 1 => .done [] (partStart p s)
    | 2 => .done [] (partStop p s)
    | _ => .done [] (partReset p s)

/-! ## Function resets of 0x2010:01 (R274, R276) -/

/-- Bit of 0x2010:02 for a reset code; none where the kind or instance is undefined. -/
def resetBit (code : Nat) : Option Nat :=
  let i := code % 256
  match code / 256 with
  | 2 => if i = 0 then some 0 else none
  | 3 => if i = 0 then some 1 else none
  | 4 => if i = 0 then some 2 else none
  | 5 => if i < 3 then some (3 + i) else none
  | 6 => if i < 4 then some (6 + i) else none
  | 7 => if i = 0 then some 10 else none
  | _ => none

/-- The Selector and the map stop, keeping what is in Cistern; the Selector's copy of the change log is cleared (R220). -/
def resetSelector (s : State) : State :=
  let s := mapStop (forEach (List.range 16) stopChannel s)
  { s with map := { s.map with log := [] } }

/-- Fusion: the store is empty; the next cycle sets flag [1] (R276, R320). -/
def resetFusion (s : State) : State := { s with fusion := { s.fusion with store := [], first := true, wiped := true } }

/-- A fabric port loses its queue pairs; a running one trains again (R276). -/
def resetFabric (p : Nat) (s : State) : State :=
  if (fabOf s p).state = 5 then s else fabricOut p (if (fabOf s p).running then 1 else 0) s

/-- A T1 port goes down, its launch queue and what waits for the wire with it, closes its sessions and trains again (R276, R372, R469). -/
def resetT1 (x : Nat) (s : State) : State :=
  let s := dropLaunches x (closePortSessions x (slaveDown x s))
  t1mod x (fun p => { p with link := if p.running && !p.retired then 1 else 0, waiting := [] }) s

/-- A set-point frame whose axes are disabled: every slot VALID clear, SETPOINT +0 (R276, R348). -/
def invalidFrame (f : SetFrame) : SetFrame :=
  { f with flags := f.flags &&& 0xfe, slots := f.slots.map (fun x => { x with flags := x.flags &&& 0xfe, setpoint := 0 }) }

def invalidLaunch (l : Launch) : Launch :=
  match l.body with
  | .setpoint f => { l with body := .setpoint (invalidFrame f) }
  | .host _ => l

/-- An axis after a control-complex reset: disabled, its stage state wiped, its tables kept (R276). -/
def resetAxis (a : Axis) : Axis := { a with state := .disabled, stages := [], ramp := 0, pending := none, back := none, invalid := 0 }

/-- The solver is STOPPED with its factors and held iterate gone and its schedules kept; every axis is disabled; frames not yet
launched are invalid (R276, R340). -/
def resetControl (s : State) : State :=
  let s := solverStop s
  { s with
    pump := { s.pump with axes := tblMap ({} : Axis) resetAxis s.pump.axes,
                          frames := s.pump.frames.map (fun e => (e.1, invalidFrame e.2)) }
    t1 := tblMap {} (fun p => { p with launch := p.launch.map invalidLaunch }) s.t1 }

/-- What the reset of a code wipes and stops. -/
def resetEffect (code : Nat) (s : State) : State :=
  match code / 256 with
  | 2 => wipeWellhead s
  | 3 => resetFusion s
  | 4 => resetSelector s
  | 5 => resetFabric (code % 256) s
  | 6 => resetT1 (code % 256) s
  | _ => resetControl s

/-- A write of a function reset code by session k (R274). -/
def functionReset (k code : Nat) (s : State) : WRes :=
  match resetBit code with
  | none => .abort abValueRange
  | some b =>
    if s.resetting.getLsbD b then .abort abConflict
    else if code / 256 = 6 ∧ (sess s k).port.val = code % 256 then .abort abConflict
    else .done [] (resetEffect code { s with resetting := s.resetting ||| BitVec.ofNat 32 (2 ^ b) })

/-- Heartbeat code of the function a reset code names, as `Island.lost` holds it (R417, R432, R441). -/
def heartbeatOf (code : Nat) : Nat := if code / 256 = 6 then 0x30 + code % 256 else 0x10 + code / 256

/-- The end of a reset: counted and reported (R274). -/
def resetReport (code : Nat) (s : State) : State := notifySubs 0x25 (leBytes 2 code) (count 0x7416 6 1 s)

/-- FUNCTION_RESET_DONE: the reset of a code that is under way completes (R261, R274); any other code changes nothing. -/
def execFunctionResetDone (code : BitVec 16) (s : State) : Res :=
  let c := code.toNat
  if c / 256 = 1 ∧ c % 256 < 64 then
    .next (if (partOf s (c % 256)).state = .resetting then resetReport c (partResetEnd (c % 256) s) else s)
  else match resetBit c with
    | none => .next s
    | some b =>
      .next (if s.resetting.getLsbD b then
        resetReport c { (if c / 256 = 3 ∨ c / 256 = 4 ∨ c / 256 = 7 then resetEffect c s else s) with
          resetting := s.resetting &&& ~~~(BitVec.ofNat 32 (2 ^ b)),
          island := { s.island with lost := s.island.lost.filter (· ≠ heartbeatOf c) } }
      else s)

end Sys2Proof.Machine
end

