-- ==== Sys2Proof/Machine/Time.lean ====
section
/-!
DEFINITION. Sys2Proof/Machine/Time.lean: the clock's corrections and 802.1AS (R365-R373), PPS and event timers (R374-R376), T1
ports and their launch queues (R377-R381), fabric ports and discovery (R382-R385).
-/

namespace Sys2Proof.Machine

/-! ## Corrections of the clock (R366, R367) -/

/-- A full time moved by a step of the clock. -/
def shifted (d : Int) (t : Nat) : Nat := ((t : Int) + d).toNat

/-- Instants that the machine holds for elapsed time, moved with the clock; cycle instants count in the new time (log 11). A submission
that waits keeps the number of the slot in which it arrived, also where the clock steps back past that slot (R60; log 11). -/
def shiftInstants (d : Int) (t : Nat) (s : State) : State :=
  { s with
    pps := { s.pps with fallsAt := shifted d s.pps.fallsAt },
    fabric := tblMap {} (fun f =>
      { f with reqs := f.reqs.map (fun r => { r with sentAt := shifted d r.sentAt }), paused := shifted d f.paused }) s.fabric,
    channels := tblMap {} (fun c => { c with issued := c.issued.map (fun e => (e.1, shifted d e.2)) }) s.channels,
    map := { s.map with judged := 0 },
    sessions := tblMap {} (fun e => { e with heard := shifted d e.heard,
                                             unacked := e.unacked.map (fun u => { u with sentAt := shifted d u.sentAt }) }) s.sessions,
    sluice := { s.sluice with jobs := s.sluice.jobs.map (fun j =>
      { j with started := shifted d j.started, ranFrom := j.ranFrom.map (shifted d),
               tasks := j.tasks.map (fun x => { x with since := x.since.map (shifted d) }) }) },
    eventsAt := shifted d s.eventsAt,
    selector := tblMap {} (fun c => { c with closeAt := c.closeAt.map (shifted d), closedAt := shifted d c.closedAt }) s.selector,
    wellhead := { s.wellhead with decoders := tblMap none (fun e => e.map (fun x => { x with since := shifted d x.since })) s.wellhead.decoders },
    fusion := { s.fusion with lastAt := s.fusion.lastAt.map (min t) },
    solver := { s.solver with lastAt := s.solver.lastAt.map (min t), outputAt := shifted d s.solver.outputAt,
                              visibleAt := shifted d s.solver.visibleAt },
    pump := { s.pump with lastAt := s.pump.lastAt.map (fun e => (e.1, min e.2 t)) },
    island := { s.island with hostHeard := shifted d s.island.hostHeard, frameAt := shifted d s.island.frameAt,
                              suspects := s.island.suspects.map (fun x => { x with since := shifted d x.since }),
                              recent := s.island.recent.map (fun e => (e.1, shifted d e.2)),
                              lastTest := s.island.lastTest.map (fun e => (e.1, shifted d e.2)) } }

/-- The clock steps by `d` ns: launch queues are emptied and every accepted job is re-planned (R71, R367). -/
def clockStep (d : Int) (s : State) : State :=
  let t := (((now s : Int) + d) % ((2 ^ 48 * nsPerS : Nat) : Int)).toNat
  let s := shiftInstants d t s
  let s := { s with clock := { setClock t s.clock.frac.toNat s.clock with slewLeft := 0, slot := t / slotNs } }
  callReplan (fun _ => true) (setEvent 6 (count 0x741b 6 1 (forEach (List.range 4) dropLaunches s)))

/-- ADJUST: a correction of at most 10 us slews, a larger one steps (R367). -/
def clockAdjust (d : Int) (s : State) : State :=
  if d.natAbs ≤ 10000 then count 0x741b 7 1 { s with clock := { s.clock with slewLeft := d * 2 ^ 38 } }
  else clockStep d s

/-- CLOCK_SLEW_END: the cycles pass in which the slew in progress is absorbed, and the clock runs at RATE again (R367). -/
def execClockSlewEnd (s : State) : Res :=
  let s := aoTicks ((s.clock.slewLeft.natAbs + slewRate.toNat - 1) / slewRate.toNat) s
  .next { s with clock := { s.clock with slewLeft := 0 } }

/-! ## The clock state machine (R366, R372) -/

/-- RATE range (R366). -/
def maxRate : Nat := 549755813

/-- The servo's next RATE, which the spec leaves open inside the range of R366: a free value (log 12). -/
def servo (s : State) : State :=
  let (n, s) := freshNat s
  let r : Int := ((n % (2 * maxRate + 1) : Nat) : Int) - (maxRate : Int)
  setRate r { s with as_ := { s.as_ with rates := (r :: s.as_.rates).take 16 } }

/-- A Sync and Follow_Up of a grandmaster on port x (R372, R373). -/
def takeSync (x : Nat) (gm offset : BitVec 64) (s : State) : State :=
  let off : Int := offset.toInt
  let s := if following s ∧ gm ≠ s.as_.gm then holdover s else s
  let s := { s with as_ := { s.as_ with gm := gm, offset := offset, slave := some x } }
  match s.clock.state with
  | .grandmaster => s
  | .locking =>
    let s := servo { s with as_ := { s.as_ with good := if off.natAbs ≤ 100 then s.as_.good + 1 else 0 } }
    if 16 ≤ s.as_.good then setTime .locked s else s
  | .locked => servo s
  | _ =>
    if off.natAbs ≤ 10000 then servo (setTime .locking { s with as_ := { s.as_ with good := 0, rates := [] } })
    else if cfg s 0x3410 7 = 1 then servo (setTime .locking (clockStep (-off) { s with as_ := { s.as_ with good := 0, rates := [] } }))
    else timeNotice s

/-- Is port x the one that a grandmaster is heard on, or may it become so: role slave in MODE 2; in MODE 1 the slave port, or any port
while the BMCA has made none (R370; log 12)? -/
def maySlave (s : State) (x : Nat) : Bool :=
  asPort s x && (if cfg s 0x3410 1 = 2 then asRole s x == 1 else s.as_.slave == none || s.as_.slave == some x)

/-- 802.1AS starts (R371). -/
def asStart (s : State) : State := { s with as_ := { s.as_ with running := true } }

/-- 802.1AS stops: FREE_RUN, RATE kept (R372). -/
def asStop (s : State) : State :=
  if s.as_.running then setTime .freeRun { s with as_ := { s.as_ with running := false, good := 0, rates := [], slave := none, heard := [] } } else s

/-- SYNC_RECEIVED: a Sync and its Follow_Up on a port, where that is the slave port or becomes it (R370, R372). -/
def execSyncReceived (gm : GmClock) (offset : BitVec 64) (s : State) : Res :=
  .next (if maySlave s gm.port.val ∧ s.clock.state ≠ .grandmaster then takeSync gm.port.val gm.id offset s else s)

/-- SYNC_TIMEOUT: no Sync for 3 sync intervals (R372); what the slave port announced is out of date. -/
def execSyncTimeout (s : State) : Res :=
  .next (if s.as_.running ∧ following s then
    holdover (match s.as_.slave with
      | some x => forgetAnnounce x s
      | none => s)
  else s)

/-! ## The BMCA (R370; the compared fields and the layout of Announce are those of IEEE 802.1AS, log 12) -/

/-- Is a list of numbers before another in lexicographic order? -/
def lexLt : List Nat → List Nat → Bool
  | [], [] => false
  | [], _ => true
  | _, [] => false
  | a :: x, b :: y => decide (a < b) || (decide (a = b) && lexLt x y)

/-- The clockIdentity of this module: the EUI-64 of port A's MAC. -/
def ownClock (s : State) : Nat :=
  let m := beBytes 6 (nth 0 s.boot.ident.macs 0).toNat
  beNat (m.take 3 ++ [0xff, 0xfe] ++ m.drop 3)

/-- What this module announces as grandmaster: priority1, clockClass, clockAccuracy, variance, priority2, identity. -/
def ownVector (s : State) : List Nat := [cfg s 0x3410 3, 248, 0xfe, 0x436a, cfg s 0x3410 4, ownClock s]

/-- What an Announce says, in the order of comparison: the grandmaster's six, steps removed, the sender's identity and port. -/
def announceVector (b : Bytes) : List Nat :=
  let f (at_ n : Nat) : Nat := beNat (bytesAt b at_ n)
  [f 47 1, f 48 1, f 49 1, f 50 2, f 52 1, f 53 8, f 61 2, f 20 8, f 28 2]

/-- The best of the clocks heard on ports that take part, and its port. -/
def bestHeard (s : State) : Option (Nat × List Nat) :=
  (s.as_.heard.filter (fun e => asPort s e.1)).foldl (fun b e =>
    match b with
    | none => some e
    | some c => if lexLt e.2 c.2 then some e else some c) none

/-- Does the BMCA make this module the grandmaster, of those heard? -/
def selfBest (s : State) : Bool :=
  match bestHeard s with
  | none => true
  | some (_, v) => lexLt (ownVector s) v

/-- May the selection stand: another clock on a port that takes part, with role slave in MODE 2; this module, with no such role in
MODE 2; in MODE 1 the one that the BMCA makes of the Announces held, where any is (R370)? -/
def maySelect (s : State) (self : Bool) (gm : BitVec 64) (x : Nat) : Bool :=
  if cfg s 0x3410 1 = 2 then
    if self then (List.range 4).all (fun y => !(asPort s y && asRole s y == 1)) else asPort s x && asRole s x == 1
  else match bestHeard s with
    | none => self || asPort s x
    | some (y, v) => if self then selfBest s else !(selfBest s) && decide (x = y) && nth 0 v 5 == gm.toNat

/-- This module, or the clock `gm` heard on port x, is selected as grandmaster (R372). -/
def selectGm (self : Bool) (gm : BitVec 64) (x : Nat) (s : State) : State :=
  let s := if following s ∧ (self ∨ gm ≠ s.as_.gm) then holdover s
    else if s.clock.state = .grandmaster ∧ !self then holdover s
    else s
  let s := { s with as_ := { s.as_ with gm := gm, slave := if self then none else some x } }
  if self then setTime .grandmaster s else s

/-- GM_SELECTED: this module, or another clock heard on a port, is the grandmaster (R372; log 12). -/
def execGmSelected (self : Bool) (gm : GmClock) (s : State) : Res :=
  .next (if s.as_.running ∧ s.boot.state = .ready ∧ maySelect s self gm.id gm.port.val then selectGm self gm.id gm.port.val s else s)

/-- An Announce comes in on port x: in MODE 1 the BMCA selects the best of this module and of the clocks heard (R370). One that this
module sent is not heard. -/
def takeAnnounce (x : Nat) (b : Bytes) (s : State) : State :=
  let v := announceVector b
  if cfg s 0x3410 1 = 2 ∨ b.length < 64 ∨ nth 0 v 7 = ownClock s then s
  else
    let s := { s with as_ := { s.as_ with heard := tblPut s.as_.heard x v } }
    match bestHeard s with
    | none => s
    | some (y, w) => if selfBest s then selectGm true (BitVec.ofNat 64 (ownClock s)) 0 s else selectGm false (BitVec.ofNat 64 (nth 0 w 5)) y s

/-! ## Ports of 802.1AS (R370, R371) -/

/-- Is x a master port (R370)? -/
def isMasterPort (s : State) (x : Nat) : Bool :=
  asPort s x && (if cfg s 0x3410 1 = 2 then asRole s x == 2 else s.as_.slave != some x)

/-- A message of the time function leaves in class 3, untagged (R379); `n` bytes of payload (log 12). -/
def sendPtp (x : Fin 4) (m : PtpMsg) (n : Nat) (s : State) : State := sendT1 x.val ⟨3, .ptp x m, wireLen [] n⟩ s

/-- The Announce of this module as grandmaster: clockClass 248, clockAccuracy 0xfe (R370). -/
def announceMsg (s : State) : PtpMsg := .announce (cfg s 0x3410 3) 248 0xfe (cfg s 0x3410 4)

/-- SYNC_TRANSMIT: a master port sends Sync and Follow_Up; a grandmaster's Announce goes with them (R370; log 12). -/
def execSyncTransmit (x : Fin 4) (s : State) : Res :=
  .next (if isMasterPort s x.val then
    let s := sendPtp x (.sync (now s)) 76 s
    if s.clock.state = .grandmaster then sendPtp x (announceMsg s) 76 s else s
  else s)

/-- A message of the time function received on port x (R370, R377): in domain 0 an Announce is taken and a peer-delay request answered;
Syncs and peer-delay answers stand in rows of their own. -/
def takeTime (x : Fin 4) (b : Bytes) (s : State) : State :=
  if !(asPort s x.val) ∨ nth 0 b 4 ≠ 0 then s
  else match (nth 0 b 0).toNat % 16 with
    | 0x0b => takeAnnounce x.val b s
    | 2 => if cfg s 0x3410 1 = 2 ∧ asRole s x.val = 0 then s else sendPtp x .pdelayAnswer 54 s
    | _ => s

/-- PDELAY_EXCHANGE: the port measures its peer delay (R370). -/
def execPdelayExchange (x : Fin 4) (delay : Nat) (s : State) : Res :=
  .next (if asPort s x.val ∧ (cfg s 0x3410 1 = 2 → asRole s x.val ≠ 0) then
    sendPtp x .pdelay 54 { s with as_ := { s.as_ with pdelay := tblPut s.as_.pdelay x.val delay } } else s)

/-! ## PPS and event timers (R374-R376) -/

/-- Level of the PPS_OUT pin. -/
def ppsOut (s : State) : Bool := decide (now s < s.pps.fallsAt)

/-- PPS_OUT rises for WIDTH (R374). -/
def ppsPulse (s : State) : State := { s with pps := { s.pps with fallsAt := now s + 1000 * cfg s 0x3420 2 } }

/-- The next instant NANOSECONDS = 0 at which no pulse has begun. -/
def nextSecond (s : State) : Nat := if s.clock.nanos = 0 ∧ !(ppsOut s) then now s else (now s / nsPerS + 1) * nsPerS

/-- PPS_OUT_PULSE: PPS_OUT rises at the instant NANOSECONDS = 0 where PPS_ENABLE owns the pin (R374, R376). -/
def execPpsOutPulse (s : State) : Res :=
  .next (if s.pps.owner = some .enable then ppsPulse (clockTo (nextSecond s) s) else s)

/-- PPS_IN_EDGE: a rising edge at `at_`, captured within 12 ns of it (R374), while the always-on domain runs (R497, R498). -/
def execPpsInEdge (at_ : Nat) (s : State) : Res :=
  if cfg s 0x3420 3 = 1 ∧ s.boot.state ≠ .off ∧ s.boot.state ≠ .held then
    let s := clockTo at_ s
    let (n, s) := freshNat s
    let c := BitVec.ofNat 64 (at_ + n % 25 - 12)
    .next (notifySubs 0x31 (leBytes 8 c.toNat)
      (count 0x741b 8 1 { s with pps := { s.pps with inCapture := c, inCount := s.pps.inCount + 1 } }))
  else .next s

/-- A write of PPS_ENABLE claims or releases the pin (R376). -/
def ppsEnable (v : Nat) (s : State) : WRes :=
  let s' := setCfg 0x3420 1 (leBytes 1 v) s
  if v = 0 then .done [] { s' with pps := { s.pps with owner := if s.pps.owner = some .enable then none else s.pps.owner } }
  else match s.pps.owner with
    | some (.timer _) => .abort abConflict
    | _ => .done [] { s' with pps := { s.pps with owner := some .enable } }

def timerOf (s : State) (k : Nat) : Timer := tblGet {} s.timers k
def timerSet (k : Nat) (t : Timer) (s : State) : State := { s with timers := tblSet {} s.timers k t }
def timerCfg (s : State) (k sub : Nat) : Nat := cfg s (0x3428 + k) sub

/-- Instant of firing i of timer k (R375). -/
def firing (s : State) (k i : Nat) : Nat := timerCfg s k 1 + i * (1000 * timerCfg s k 2)

/-- The first firing whose instant has not passed (R375). -/
def firstFiring (s : State) (k : Nat) : Nat := ceilDiv (now s - timerCfg s k 1) (1000 * timerCfg s k 2)

/-- CONTROL of event timer k: a start with DEST 2 claims PPS_OUT, a stop releases it (R375, R376). -/
def timerControl (k code : Nat) (s : State) : WRes :=
  match code with
  | 1 =>
    if (timerOf s k).running then .done [] s
    else if timerCfg s k 3 = 2 then
      if s.pps.owner = none then
        .done [] (timerSet k ⟨true, firstFiring s k⟩ { s with pps := { s.pps with owner := some (.timer k) } })
      else .abort abConflict
    else .done [] (timerSet k ⟨true, firstFiring s k⟩ s)
  | 2 => .done [] (timerSet k {} { s with pps := { s.pps with
      owner := if s.pps.owner = some (.timer k) then none else s.pps.owner } })
  | _ => .abort abValueRange

/-- TIMER_FIRE: the next firing of a running timer (R375). -/
def execTimerFire (timer : Fin 8) (s : State) : Res :=
  let k := timer.val
  let r := timerOf s k
  if r.running ∧ s.boot.state = .ready then
    let t := firing s k r.next
    let s := timerSet k ⟨true, r.next + 1⟩ (clockTo t s)
    .next (match timerCfg s k 3 with
      | 0 => raiseEvent none (timerCfg s k 4) s
      | 1 => notifySubs 0x32 (leBytes 1 k ++ zeros 7 ++ leBytes 8 t) s
      | _ => ppsPulse s)
  else .next s

/-! ## T1 ports (R377-R381) -/

/-- A T1 port starts and trains; a retired one takes no work (R378, R420; log 46). -/
def t1Start (x : Nat) (s : State) : State :=
  if (t1Of s x).running ∨ (t1Of s x).retired then s else t1mod x (fun p => { p with running := true, link := 1 }) s

/-- A T1 port stops: its link is down, its sessions close, its launch queue is emptied (R380, R469). -/
def t1Stop (x : Nat) (s : State) : State :=
  if (t1Of s x).running then
    t1mod x (fun p => { p with running := false, link := 0, waiting := [] }) (closePortSessions x (dropLaunches x (slaveDown x s)))
  else s

/-- CONTROL of T1 port x. -/
def t1Control (x code : Nat) (s : State) : WRes :=
  match code with
  | 1 => .done [] (t1Start x s)
  | 2 => .done [] (t1Stop x s)
  | _ => .abort abValueRange

/-- The safety frame of cause RESET, sent when a port of SF_PORTS first comes up (R443). -/
def firstSafety (x : Nat) (s : State) : State :=
  if s.island.unsent ∧ x ∈ sfPorts s ∧ s.island.state ≠ .normal then
    safetyFrame x false { s with island := { s.island with unsent := false, frameAt := now s } }
  else s

/-- T1_LINK_UP: training completes (R377, R443); none while the port's domain or the I/O fabric is off (R19, R20). -/
def execT1LinkUp (x : Fin 4) (s : State) : Res :=
  let p := t1Of s x.val
  .next (if p.running ∧ !p.retired ∧ p.link = 1 ∧ works s 19 then firstSafety x.val (t1mod x.val (fun p => { p with link := 2 }) s) else s)

/-- T1_LINK_DOWN: the launch queue is emptied and the port trains again (R372, R380). -/
def execT1LinkDown (x : Fin 4) (s : State) : Res :=
  .next (if t1Up s x.val then t1mod x.val (fun p => { p with link := 1, waiting := [] }) (dropLaunches x.val (slaveDown x.val s)) else s)

/-- TIMED_FRAME on port x: STAMP, 4 B of 0 and a frame of 60 to 1,518 B (R381). -/
def timedFrame (x : Nat) (b : Bytes) (s : State) : WRes :=
  if b.length < 68 ∨ 1526 < b.length then .abort abType
  else if fieldAt b 4 4 ≠ 0 then .abort abReservedBit
  else if cfg s (0x3430 + x) 7 = 0 then .abort abConflict
  else .done [] (offerLaunch x { stamp := extendStamp (now s) (BitVec.ofNat 32 (fieldAt b 0 4)), body := .host (b.drop 8) } s)

/-- The Ethernet frame of a launch-queue entry, without its FCS (R347, R379, R381). -/
def launchFrame (s : State) (x : Nat) (l : Launch) : Bytes :=
  match l.body with
  | .setpoint f => etherFrame s x (cfg s (0x5410 + f.group) 5 % 2 ^ 48) 6 (setpointPayload f)
  | .host b => b

/-- Lateness of a frame sent now at the earliest, in tenths of a nanosecond (R380). -/
def lateness (s : State) (l : Launch) (late : Nat) : Nat := max late (10 * (now s - l.stamp))

/-- The set-points of a launched frame are those that its axes were last sent (R346). -/
def noteSent (l : Launch) (s : State) : State :=
  match l.body with
  | .setpoint f => forEach f.slots (fun x s => axisMod x.axis (fun a => { a with set := x.setpoint }) s) s
  | .host _ => s

/-- LAUNCH_ELIGIBLE: the head frame of port x is sent or dropped by its lateness L, in tenths of a nanosecond (R380); what waited behind
it may start (R379). -/
def execLaunchEligible (x : Fin 4) (late : Nat) (s : State) : Res :=
  match (t1Of s x.val).launch with
  | [] => .next s
  | l :: rest =>
    let v := lateness s l late
    let s := t1mod x.val (fun p => { p with launch := rest }) (clockTo (l.stamp + v / 10) s)
    .next (releaseT1 x.val (if v ≤ 104 then emit (.t1 x (launchFrame s x.val l)) (noteSent l (count 0x741b 1 1 s))
      else if v ≤ 10 * cfg s (0x3430 + x.val) 6 then emit (.t1 x (launchFrame s x.val l)) (noteSent l (count 0x741b 2 1 s))
      else count 0x741b 3 1 s))

/-! ## Fabric ports (R382-R385) -/

/-- A fabric port starts and trains; a retired one takes no work (log 46). -/
def fabStart (p : Nat) (s : State) : State :=
  if (fabOf s p).running then s
  else fabmod p (fun f => { f with running := true, state := if f.state = 5 then 5 else 1 }) s

/-- A fabric port stops (R57, R246, R383). -/
def fabStop (p : Nat) (s : State) : State :=
  if (fabOf s p).running then
    fabmod p (fun f => { f with running := false }) (if (fabOf s p).state = 5 then s else fabricOut p 0 s)
  else s

/-- CONTROL of fabric port p. -/
def fabControl (p code : Nat) (s : State) : WRes :=
  match code with
  | 1 => .done [] (fabStart p s)
  | 2 => .done [] (fabStop p s)
  | _ => .abort abValueRange

/-- The half of a port's lanes without a retired lane; none where no lane, or one in each half, is retired. -/
def goodHalf (lanes : BitVec 8) : Option (BitVec 8) :=
  if lanes = 0 ∨ bothHalves lanes then none else if lanes &&& 0x0f = 0 then some 0x0f else some 0xf0

/-- The discovery SEND of this module (R384), behind the tag that every RoCEv2 frame carries: PCP = PFC_PRIO (R382). -/
def discoverySend (s : State) (p : Nat) : Bytes :=
  [0x81, 0x00] ++ beBytes 2 (8192 * cfg s (0x3450 + p) 5) ++
  (List.range 64).map (Config.discoveryByte (position s) s.boot.ident.serial s.boot.running.version)

/-- Discovery with each peer after link-up (R384). -/
def discover (p : Nat) (s : State) : State :=
  forEach (portReaches s p) (fun m s => newReq m .discovery .write 0 [] (emitFabric p (.fabric (Fin.ofNat 3 p) (discoverySend s p)) s)) s

/-- The kept CONTROLs act again once the module is READY (R451): running timers fire from their next instant, PPS_OUT has its owner, and
running ports train. -/
def restartKept (s : State) : State :=
  let dest2 := (List.range 8).find? (fun k => (timerOf s k).running && timerCfg s k 3 == 2)
  let s := { s with
    timers := s.timers.map (fun e => (e.1, if e.2.running then ⟨true, firstFiring s e.1⟩ else e.2))
    pps := { s.pps with owner := if cfg s 0x3420 1 = 1 then some .enable else dest2.map PpsOwner.timer }
    t1 := tblMap {} (fun p => { p with link := if p.running then 1 else 0 }) s.t1 }
  forEach (List.range 3) (fun p s =>
    if (fabOf s p).running ∧ domainOn s (16 + p) then fabmod p (fun f => { f with state := 1 }) s else s) s

/-- FABRIC_LINK_UP: training ends on the lanes of a mask; 0 where the peer cannot train on the half that is left, which retires
also the port that a lane's retirement retrained while it was up (R384, R385; log 55). -/
def execFabricLinkUp (p : Fin 3) (lanes : BitVec 8) (s : State) : Res :=
  let f := fabOf s p.val
  if f.running ∧ f.four ∧ fabricUp s p.val ∧ goodHalf f.lanes ≠ some lanes then .next (fabricOut p.val 5 s)
  else if !f.running ∨ f.state ≠ 1 ∨ !(domainOn s (16 + p.val)) then .next s
  else if f.lanes = 0 then
    .next (if lanes = 0xff then discover p.val (fabmod p.val (fun f => { f with state := 2, four := false }) s) else s)
  else if goodHalf f.lanes = some lanes then
    .next (discover p.val (callReplan (chargesPort p.val)
      (count 0x741b 0x0d 1 (fabmod p.val (fun f => { f with state := 3, four := true }) s))))
  else .next (fabricOut p.val 5 s)

/-- DISCOVERY_RECEIVED: the SEND of the peer expected at an entry (R384). -/
def execDiscoveryReceived (p : Fin 3) (entry : Fin 3) (payload : Bytes) (s : State) : Res :=
  if !(fabricUp s p.val) then .next s
  else match (portReaches s p.val)[entry.val]? with
    | none => .next s
    | some m =>
      let s := dropReqs (fun r => r.owner == .discovery && r.peer == m) s
      .next (if Config.discoveryPosition payload = m then
          fabmod p.val (fun f => { f with peersUp := if m ∈ f.peersUp then f.peersUp else f.peersUp ++ [m] }) s
        else count 0x741b 0x0c 1 (fabmod p.val (fun f => { f with state := 4, peersUp := f.peersUp.filter (fun x => decide (x ≠ m)) }) s))

/-- FABRIC_LINK_DOWN: the port's peers, copies and ledger go (R57, R246). -/
def execFabricLinkDown (p : Fin 3) (s : State) : Res :=
  let f := fabOf s p.val
  .next (if f.running ∧ 2 ≤ f.state ∧ f.state ≤ 4 then fabricOut p.val 1 s else s)

end Sys2Proof.Machine
end

