-- ==== Sys2Proof/Machine/Power.lean ====
section
/-!
DEFINITION. Sys2Proof/Machine/Power.lean: domains and caps (R397-R401), the Weir (R402-R407), temperature (R408, R409), coolant loss
(R410, R411) and standby (R412, R413).
-/

namespace Sys2Proof.Machine

/-- The module is READY: firmware runs and the dictionary is served whole (R449, R450). -/
def ready (s : State) : Bool := s.boot.state == .ready

/-! ## Domains (R397, R398) -/

/-- DOMAINS_ENABLE as read: bit 23 is 0 in FIELD (R398, R455). -/
def enabled (s : State) : BitVec 32 :=
  let v := BitVec.ofNat 32 (cfg s 0x3020 2)
  if s.boot.lifecycle = 2 then v &&& 0x007fffff else v

/-- Every present reservation fits the energy ledger under caps and an uncore allowance (R398, R400, R401). -/
def ledgerHolds (s : State) (caps : Nat × Nat) (unc : Nat) : Bool :=
  let ls := s.sluice.jobs.map jobLoad
  let cur := now s / slotNs
  energyFits cur caps unc ls cur ((ls.map (fun l => runsEnd l.runs)).foldl max cur)

def capsNow (s : State) : Nat × Nat := (cfg s 0x3000 1, cfg s 0x3000 2)

/-- The domains that a coolant-loss stop switches off (R410). -/
def coolDomains : List Nat := [0, 1, 2, 3, 4, 5, 6, 7, 8, 9, 12, 13, 16, 17, 18, 23]

def coolMask : BitVec 32 := BitVec.ofNat 32 (ofBits coolDomains)

/-- Domains of a mask that may power on now: after a coolant-loss stop the ones it switched off stay off (R411). -/
def mayRise (s : State) (m : BitVec 32) : BitVec 32 := if s.power.held then m &&& ~~~coolMask else m

/-- Domains that never switch off, or only in standby (R397). -/
def fixedDomains : BitVec 32 := 0x0010c400

/-- A write of DOMAINS_ENABLE (R398). -/
def domainsWrite (v : BitVec 32) (s : State) : WRes :=
  let rise := v &&& ~~~(s.power.on ||| s.power.rising)
  if v &&& fixedDomains ≠ fixedDomains then .abort abValueRange
  else if s.boot.lifecycle = 2 ∧ v.getLsbD 23 then .abort abConflict
  else if rise ≠ 0 ∧ !(ledgerHolds s (capsNow s) (allowanceSum (s.power.on ||| s.power.rising ||| rise))) then .abort abConflict
  else
    let s := setCfg 0x3020 2 (leBytes 4 v.toNat) s
    .done [] { s with power := { s.power with rising := s.power.rising ||| mayRise s rise } }

/-- The last domain of a wake is on: ACTIVE, and the T1 ports start as configured (R413). -/
def settleWake (s : State) : State :=
  if s.power.standby = .waking ∧ s.power.rising = 0 then
    { s with
      power := { s.power with standby := .active },
      t1 := tblMap {} (fun p => if p.running && !p.retired then { p with link := 1 } else p) s.t1,
      pins := { s.pins with safeN := decide (s.island.state = .normal) } }
  else s

/-- Region of a domain bit. -/
def regionOfBit (d : Nat) : Option Nat := if d < 4 then some d else if 5 ≤ d ∧ d < 9 then some (d - 1) else none

/-- A domain that was switched on is on; a region is scrubbed, a running fabric port trains (R398). -/
def switchedOn (d : Fin 24) (s : State) : State :=
  let b := BitVec.ofNat 32 (2 ^ d.val)
  if !(s.power.rising.getLsbD d.val) then s
  else
    let s := { s with power := { s.power with rising := s.power.rising &&& ~~~b, on := s.power.on ||| b } }
    let s := match regionOfBit d.val with
      | some r => scrubRegion r s
      | none => s
    let s := if 16 ≤ d.val ∧ d.val ≤ 18 ∧ (fabOf s (d.val - 16)).running ∧ (fabOf s (d.val - 16)).state = 0 then
        fabmod (d.val - 16) (fun f => { f with state := 1 }) s
      else s
    settleWake s

/-- Is every Wellhead stream stopped? -/
def wellheadStopped (s : State) : Bool :=
  (List.range 32).all (fun n => (camOf s n).state == 0) && (List.range 16).all (fun n => !(sampOf s n).running)

def selectorStopped (s : State) : Bool := (List.range 16).all (fun c => (chan s c).state == .stopped)

/-- Is a partition that includes region r RUNNING (R397)? -/
def regionInUse (s : State) (r : Nat) : Bool :=
  (List.range 64).any (fun p => (partOf s p).state == .running && (partTiles s p).any (fun t => regionOfTile t == r))

/-- A service job, accepted or waiting (R146, R234). -/
def anyService (s : State) : Bool := s.sluice.jobs.any (fun j => j.service.isSome) || s.sluice.arrivals.any (fun a => a.service.isSome)

def storeService : Option Service → Bool
  | some (.load _ _) => true
  | some (.store _ _) => true
  | _ => false

def anyStore (s : State) : Bool :=
  s.sluice.jobs.any (fun j => storeService j.service) || s.sluice.arrivals.any (fun a => storeService a.service)

/-- May domain d be switched off (R397)? -/
def mayOff (s : State) (d : Nat) : Bool :=
  let off (k : Nat) : Bool := !(s.power.on.getLsbD k)
  match d with
  | 4 => off 0 && off 1 && off 2 && off 3
  | 9 => off 5 && off 6 && off 7 && off 8
  | 10 => false
  | 11 => !s.pump.running && !s.solver.running
  | 12 => wellheadStopped s
  | 13 => !s.fusion.running && !s.map.running && selectorStopped s
  | 14 => false
  | 15 => false
  | 16 => !(fabOf s 0).running
  | 17 => !(fabOf s 1).running
  | 18 => !(fabOf s 2).running
  | 19 => (List.range 4).all (fun x => !(t1Of s x).running)
  | 20 => false
  | 21 => !(anyService s) && s.boot.update.status != 2
  | 22 => !(anyStore s)
  | 23 => true
  | _ => !(regionInUse s (if d < 4 then d else d - 1))

/-- A domain goes off; a region loses what it held (R399). -/
def switchOff (d : Nat) (s : State) : State :=
  let b := BitVec.ofNat 32 (2 ^ d)
  if s.power.on.getLsbD d then
    let s := { s with power := { s.power with on := s.power.on &&& ~~~b } }
    match regionOfBit d with
    | some r => regionLost r s
    | none => s
  else { s with power := { s.power with rising := s.power.rising &&& ~~~b } }

/-- DOMAIN_OFF: a domain whose enable bit is clear goes off where R397 lets it. -/
def execDomainOff (d : Fin 24) (s : State) : Res :=
  .next (if (enabled s).getLsbD d.val ∨ !(mayOff s d.val) then s else switchOff d.val s)

/-! ## Caps (R400) -/

/-- A write of SUSTAINED_CAP (false) or PEAK_CAP (true), in W. -/
def capCommand (peak : Bool) (v : Nat) (s : State) : WRes :=
  let caps := if peak then ((capsNow s).1, v) else (v, (capsNow s).2)
  if caps.1 < 60 ∨ 220 < caps.1 ∨ caps.2 < caps.1 ∨ 280 < caps.2 ∨ 970 * v < uncore s + 1000 then .abort abValueRange
  else if !(ledgerHolds s caps (uncoreLedger s)) then .abort abConflict
  else .done [] (setCfg 0x3000 (if peak then 2 else 1) (leBytes 2 v) s)

/-! ## The Weir (R402-R405) -/

/-- Mean input power over the last n samples, mW (R402). -/
def meanPower (s : State) (n : Nat) : Rat :=
  let l := s.power.samples.take n
  ((sumNat l : Nat) : Rat) / ((max 1 l.length : Nat) : Rat)

/-- Tiles that job j occupies in region r. -/
def tilesIn (j : Job) (r : Nat) : Nat := ((jobTiles j).filter (fun t => regionOfTile t = r)).length

/-- Jobs that run on tiles. -/
def runningJobs (s : State) : List Job := s.sluice.jobs.filter (fun j => j.phase == .running)

/-- Power attributed to a job: its share of each region by tiles, mW (R402). -/
def jobPower (s : State) (regions : List Nat) (j : Job) : Rat :=
  ((List.range 8).map (fun r =>
    let all : Nat := sumNat ((runningJobs s).map (fun i => tilesIn i r))
    if all = 0 then (0 : Rat) else ((nth 0 regions r * tilesIn j r : Nat) : Rat) / ((all : Nat) : Rat))).foldl (· + ·) 0

/-- Is the job over its charge in this sample: its power over its per-slot energy charge / 10 us (R402)? -/
def overCharge (s : State) (regions : List Nat) (j : Job) : Bool :=
  decide (((100 * j.energy : Nat) : Rat) < jobPower s regions j * ((slotsOf j.runs : Nat) : Rat))

/-- b_power in units of 2^-16 (R403). -/
def powerRate (s : State) : Nat :=
  let e (p : Rat) (cap : Nat) : Rat := (p - ((970 * cap : Nat) : Rat)) / ((1000 * cap : Nat) : Rat)
  let b := 32 * max (e (meanPower s 1000) (capsNow s).2) (e (meanPower s 100000) (capsNow s).1)
  if b ≤ 0 then 0 else min 57344 (b * 65536).floor.toNat

def droopRate (s : State) (r : Nat) : Nat := tblGet 0 s.power.droop r
def thermalRate (s : State) (r : Nat) : Nat := tblGet 0 s.power.thermal r

/-- Power rate of tile t in units of 2^-16 (R403). -/
def tilePowerRate (s : State) (t : Nat) : Nat :=
  match taskOn s t with
  | none => 0
  | some (j, _) => if s.power.uncoreX ∨ j.tag ∈ s.power.overJobs then s.power.bPower else 0

/-- Bubble rate of tile t: the largest of its three rates; 1 where tiles are stopped (R405, R410). -/
def bubbleRate (s : State) (t : Nat) : Nat :=
  if s.power.stopped then 65536
  else max (tilePowerRate s t) (max (droopRate s (regionOfTile t)) (thermalRate s (regionOfTile t)))

/-- 0x3000:07: the largest rate on any tile of each region, 1 as 0xffff (R400). -/
def rateBytes (s : State) : Bytes :=
  ((List.range 8).map (fun r =>
    leBytes 2 (min 0xffff (((List.range 64).map (fun i => bubbleRate s (64 * r + i))).foldl max 0)))).flatten

/-- Tile cycles suppressed in one microsecond, for power and for droop or temperature (R405); a fraction rounds freely (log 48). -/
def countBubbles (s : State) : State :=
  let held := (List.range 512).filter (fun t => (taskOn s t).isSome)
  let part (power : Bool) : Nat := sumNat (held.map (fun t =>
    let p : Nat := tilePowerRate s t
    let b : Nat := bubbleRate s t
    if (p == b) == power then b * dieClock s (dieOfTile t) else 0))
  let (f, s) := freshNat s
  let cycles (x : Nat) : Nat := if x % 65536 = 0 then x / 65536 else x / 65536 + f % 2
  count 0x741c 2 (cycles (part true)) (count 0x741c 4 (cycles (part false)) s)

/-- The jobs over their charge after one sample (R402): those found before that have not ended, and those found now, tested while no power
bubbles fall on them. -/
def overNow (regions : List Nat) (s : State) : List (BitVec 32) :=
  let old := s.power.overJobs.filter (fun t => (jobOf s t).isSome)
  old ++ ((runningJobs s).filter (fun j =>
    overCharge s regions j && !(s.power.uncoreX && decide (0 < s.power.bPower)) && !(decide (j.tag ∈ old)))).map (fun j => j.tag)

/-- The power rule of one sample (R402, R403); the set of jobs over their charge is emptied where an episode ends. -/
def weirRule (regions : List Nat) (s : State) : State :=
  let old := s.power.bPower
  let b := powerRate s
  let marked := overNow regions s
  if b = 0 then { s with power := { s.power with bPower := 0, overJobs := if old = 0 then marked else [], uncoreX := false } }
  else
    let excess : Bool := marked.isEmpty
    let s := if excess ∧ !s.power.uncoreX then count 0x741c 0x0a 1 s else s
    let s := { s with power := { s.power with bPower := b, overJobs := marked, uncoreX := excess } }
    if old = 0 then setEvent 4 (count 0x741c 1 1 (notifySubs 0x40 (rateBytes s) s)) else s

/-- Does the Weir act: the module READY, the Weir's domain on (R19, R20)? -/
def weirActs (s : State) : Bool := s.power.powered && ready s && works s 20

/-- WEIR_SAMPLE: one microsecond: input power in mW, input voltage in mV, the regions' power in mW (R402, R403); none while the Weir's
domain is off (R19, R20). -/
def execWeirSample (input : Nat) (volts : Nat) (regions : List Nat) (s : State) : Res :=
  if weirActs s then
    let s := clockTo ((now s / 1000 + 1) * 1000) s
    let s := { s with power := { s.power with
      samples := (input :: s.power.samples).take 100000, inputV := BitVec.ofNat 32 volts, energy := s.power.energy + input } }
    .next (countBubbles (weirRule regions s))
  else .next s

/-- DROOP_ALARM: the alarm of a region has held for `micros` us past its first (R404). -/
def execDroopAlarm (region : Fin 8) (micros : Nat) (s : State) : Res :=
  let r := region.val
  if !(weirActs s) then .next s
  else
    let s := if tblGet false s.power.alarms r then s
      else count 0x741c 3 1 { s with power := { s.power with alarms := tblSet false s.power.alarms r true } }
    .next { s with power := { s.power with
      droopRem := tblSet 0 s.power.droopRem r 0,
      droop := tblSet 0 s.power.droop r (min 32768 (max (droopRate s r) (16384 + 8192 * micros))) } }

/-- DROOP_CLEAR: the alarm is clear, `micros` us since it cleared or since the last such event: the rate falls by 1/8 at each 10 us since
the alarm cleared (R404). -/
def execDroopClear (region : Fin 8) (micros : Nat) (s : State) : Res :=
  let r := region.val
  let m := (if tblGet false s.power.alarms r then 0 else tblGet 0 s.power.droopRem r) + micros
  .next (if weirActs s then { s with power := { s.power with
    alarms := tblSet false s.power.alarms r false, droopRem := tblSet 0 s.power.droopRem r (m % 10),
    droop := tblSet 0 s.power.droop r (droopRate s r - 8192 * (m / 10)) } } else s)

/-- Has the job time of `j` reached heavy phase `h`: 5 us before its START (R407)? -/
def phaseDue (s : State) (j : Job) (h : Phase) : Bool := decide (h.start ≤ jobTimeNow s j + 5 * jobClock s j)

/-- Has the job time of `j` reached START + LENGTH of heavy phase `h` (R407)? -/
def phaseOver (s : State) (j : Job) (h : Phase) : Bool := decide (h.start + h.length ≤ jobTimeNow s j)

/-- PREARM_START: a heavy phase of a running or restoring job is pre-armed from 5 us of job time before its START (R407). -/
def execPrearmStart (tag : BitVec 32) (phase : Fin 4) (s : State) : Res :=
  match jobOf s tag with
  | none => .next s
  | some j => match j.prog.cert.phases[phase.val]? with
    | none => .next s
    | some h =>
      if (j.phase = .running ∨ j.phase = .restoring) ∧ phaseDue s j h ∧ !(phaseOver s j h) ∧ (tag, phase.val) ∉ s.power.prearm then
        .next (count 0x741c 5 1 { s with power := { s.power with prearm := s.power.prearm ++ [(tag, phase.val)] } })
      else .next s

/-- PREARM_END: START + LENGTH of a heavy phase (R407). -/
def execPrearmEnd (tag : BitVec 32) (phase : Fin 4) (s : State) : Res :=
  match jobOf s tag with
  | none => .next s
  | some j => match j.prog.cert.phases[phase.val]? with
    | none => .next s
    | some h =>
      if phaseOver s j h then
        .next { s with power := { s.power with prearm := s.power.prearm.filter (fun e => e ≠ (tag, phase.val)) } }
      else .next s

/-! ## Coolant loss and thermal trips (R409-R411) -/

/-- Wellhead's streams, the fusion unit, the map and every Selector channel stop (R410). -/
def stopIngest (s : State) : State :=
  let s := forEach (List.range 32) camStop (forEach (List.range 16) sampleStop s)
  mapStop (forEach (List.range 16) stopChannel (fusionStop s))

/-- The tile stop of R410: issue stops, the domains go off and stay off until R411. -/
def coolStop (s : State) : State :=
  let s := { s with power := { s.power with stopped := true, held := true, rising := s.power.rising &&& ~~~coolMask } }
  let s := forEach (List.range 3) (fun p s => if fabricUp s p ∨ (fabOf s p).state = 4 ∨ (fabOf s p).state = 1 then fabricOut p 0 s else s) s
  forEach coolDomains switchOff (stopIngest s)

/-- The held domains return by DOMAINS_ENABLE (R411). -/
def domainsReturn (s : State) : State :=
  { s with power := { s.power with held := false, stopped := false, rising := enabled s &&& ~~~s.power.on } }

/-- COOL_OK_LOW: safe state with cause COOLANT, and the tile stop (R410). -/
def execCoolOkLow (s : State) : Res :=
  if s.pins.coolOk ∧ s.power.powered then
    let s := count 0x741c 8 1 { s with pins := { s.pins with coolOk := false, coolQ := false } }
    .next (if ready s then coolStop (notifySubs 0x42 [] (enterSafe 3 0 false s)) else s)
  else .next { s with pins := { s.pins with coolOk := false, coolQ := false } }

/-- COOL_OK_QUALIFIED: COOL_OK has read 1 for 1 s (R411). -/
def execCoolOkQualified (s : State) : Res := .next { s with pins := { s.pins with coolOk := true, coolQ := true } }

/-- A sensor's value in degrees. -/
def sensor (s : State) (i : Nat) : Rat := fpRat (f32 (nth 0 s.power.temps i))

/-- Index of the hottest sensor, the lowest on a tie. -/
def hottest (s : State) : Nat :=
  (List.range 11).foldl (fun b i => if sensor s b < sensor s i then i else b) 0

/-- THROTTLE in degrees (R408). -/
def throttleAt (s : State) : Rat := fpRat (f32 (BitVec.ofNat 32 (cfg s 0x3030 2)))

/-- Thermal rate for a temperature, in units of 2^-16 (R409). -/
def thermalFor (throttle t : Rat) : Nat := if t ≤ throttle then 0 else min 57344 ((t - throttle) / 10 * 65536).floor.toNat

/-- The new thermal rate of region r; its rise from 0 is that of the exact rate (R409). -/
def regionThermal (r : Nat) (s : State) : State :=
  let v := thermalFor (throttleAt s) (sensor s r)
  let hot : Bool := decide (throttleAt s < sensor s r)
  let up : Bool := hot && !(tblGet false s.power.hot r)
  let s := { s with power := { s.power with thermal := tblSet 0 s.power.thermal r v, hot := tblSet false s.power.hot r hot } }
  if up then
    setEvent 5 (count 0x741c 6 1 (notifySubs 0x41 (leBytes 1 r ++ zeros 3 ++ leBytes 4 (nth 0 s.power.temps r).toNat) s))
  else s

/-- Does sensor i read TRIP or more (R408)? -/
def tripped (s : State) (i : Nat) : Bool := decide (110 ≤ sensor s i)

/-- A trip in the I/O die: every domain but always-on goes off; no port answers until RESET_N (R20, R409). -/
def ioTrip (s : State) : State :=
  let s := solverStop (pumpStop s)
  let s := forEach (List.range 4) (fun x s =>
    t1mod x (fun p => { p with link := 0, waiting := [] }) (dropLaunches x (closePortSessions x (slaveDown x s)))) s
  { s with power := { s.power with on := 0x400, rising := 0 } }

/-- A thermal trip, in the I/O die too where `io` says so (R409). -/
def thermalTrip (io : Bool) (s : State) : State :=
  let s := coolStop (count 0x741c 7 1 (enterSafe 4 (BitVec.ofNat 32 (hottest s)) io s))
  if io then ioTrip s else s

/-- TEMP_SAMPLE: the eleven sensors of 0x3030:01; any that reaches TRIP is a trip (R408, R409). -/
def execTempSample (temps : List (BitVec 32)) (s : State) : Res :=
  if s.power.powered ∧ ready s then
    let before := (List.range 11).filter (tripped s)
    let s := { clockTo ((now s / slotNs + 1) * slotNs) s with power := { s.power with temps := temps.take 11 } }
    let s := forEach (List.range 8) regionThermal s
    let new := (List.range 11).filter (fun i => tripped s i && !(decide (i ∈ before)))
    .next (if new = [] then s else thermalTrip (decide (10 ∈ new)) s)
  else .next s

/-! ## Standby (R412, R413) -/

/-- Does any function other than the T1 ports and 802.1AS run (R412)? -/
def anyRunning (s : State) : Bool :=
  (List.range 64).any (fun p => (partOf s p).state != .stopped) || !(wellheadStopped s) || s.fusion.running || s.map.running ||
  !(selectorStopped s) || s.solver.running || s.pump.running || (List.range 3).any (fun p => (fabOf s p).running) ||
  (List.range 8).any (fun k => (timerOf s k).running)

/-- May standby be entered (R412)? -/
def standbyOk (s : State) : Bool :=
  s.queues.all (fun e => e.2.state == .stopped) && s.streams.recs.all (fun e => e.2.state != .open_) &&
  !(anyRunning s) && (cfg s 0x3001 2 == 0 || decide (now s + nsPerS ≤ cfg s 0x3001 2))

/-- Entry into standby: sessions close, 802.1AS stops, every domain but always-on goes off (R413). -/
def standbyEnter (s : State) : State :=
  let s := forEach (List.range 4) (fun x s =>
    t1mod x (fun p => { p with link := 0, waiting := [] }) (dropLaunches x s)) (forEach (openSlots s) closeSession (asStop s))
  let s := forEach (List.range 8) regionLost s
  { s with
    power := { s.power with standby := .standby, on := 0x400, rising := 0 },
    pins := { s.pins with safeN := false } }

/-- CONTROL of standby (R412). -/
def standbyControl (code : Nat) (s : State) : WRes :=
  if code ≠ 1 then .abort abValueRange else if standbyOk s then .done [] (standbyEnter s) else .abort abConflict

/-- STANDBY_WAKE: WAKE_AT is reached; the domains of DOMAINS_ENABLE power on (R413). -/
def execStandbyWake (s : State) : Res :=
  if s.power.standby = .standby ∧ cfg s 0x3001 2 ≠ 0 then
    let s := count 0x741c 9 1 (clockTo (cfg s 0x3001 2) s)
    .next { s with power := { s.power with standby := .waking, wakeNote := some (stamp s), rising := mayRise s (enabled s &&& ~~~s.power.on) } }
  else .next s

end Sys2Proof.Machine
end

