-- ==== Sys2Proof/Machine/Island.lean ====
section
/-!
DEFINITION. Sys2Proof/Machine/Island.lean: failure events at the functions of the I/O die (R418), field tests and re-tests
(R416, R424-R429), supervision (R432-R434) and safe state (R435-R443).
-/

namespace Sys2Proof.Machine

/-! ## Failure events (R417, R418) -/

/-- Fixed units of KIND 9 (R417). -/
def fixedUnits : List Nat := [0, 1, 0x12, 0x13, 0x14, 0x17, 0x20, 0x21, 0x22, 0x23, 0x24, 0x25, 0x26]

/-- Does a UNIT code name a unit (R417)? -/
def unitOk (u : BitVec 32) : Bool :=
  let i := unitIndex u
  match unitKind u with
  | 1 => decide (i < 512)
  | 2 => decide (i < 8192)
  | 3 => decide (i < 4096) && decide (i % 64 ≤ 32)
  | 4 => decide (i < 32)
  | 5 => decide (i < 24)
  | 6 => decide (i < 3)
  | 7 => decide (i < 4)
  | 8 => decide (i < 512) && i % 2 == 0
  | 9 => decide (i ∈ fixedUnits)
  | _ => false

/-- Wellhead drops one item in process: a decoder's sample, replaced with LINK_ERROR, or a camera frame, marked LINK_ERROR; which
of several is free (R418; log 49). -/
def spoilWellhead (s : State) : State :=
  let decs := (s.wellhead.decoders.filter (fun e => e.2.isSome)).map (fun e => e.1)
  let cams := (s.wellhead.cams.filter (fun e => e.2.frame.isSome)).map (fun e => 100 + e.1)
  let (c, s) := freshChoice (decs ++ cams) s
  match c with
  | none => s
  | some x =>
    if 100 ≤ x then markLinkError (x - 100) s
    else match tblGet none s.wellhead.decoders x with
      | some d => rejectSample d.stream d.sample 7 (decoderSet x none s)
      | none => s

/-- The solve in progress outputs MALFORMED (R418). -/
def spoilSolver (s : State) : State :=
  { s with solver := { s.solver with solving := s.solver.solving.map (fun w =>
      ({ w.1 with status := 3, regCount := 0, x := w.1.x.map (fun _ => 0) }, none)) } }

/-- An axis slot of a frame not yet handed over is sent VALID clear, NOT_READY (R418). -/
def spoilAxis (n : Nat) (s : State) : State :=
  let s := notReady n s
  let fix (f : SetFrame) : SetFrame :=
    let slots := f.slots.map (fun x => if x.axis = n then mkSlot s n (axisOf s n) false 0 else x)
    { f with slots := slots, flags := frameFlags slots }
  { s with pump := { s.pump with frames := s.pump.frames.map (fun e => if e.2.slots.any (fun x => x.axis == n) then (e.1, fix e.2) else e) } }

/-- The control complex drops one item in process: the solve or an axis slot; which of several is free (R418; log 49). -/
def spoilControl (s : State) : State :=
  let axes := (s.pump.frames.map (fun e => e.2.slots.map (fun x => 1 + x.axis))).flatten
  let (c, s) := freshChoice ((if s.solver.solving.isSome then [0] else []) ++ axes) s
  match c with
  | none => s
  | some 0 => spoilSolver s
  | some (n + 1) => spoilAxis n s

/-- The next item of the function or port of a code is dropped (R418; log 49). -/
def spoilNext (code : Nat) (s : State) : State := { s with island := { s.island with spoil := dedup (code :: s.island.spoil) } }

/-- A failure event inside an I/O-die function or a port MAC drops the item in process (R418). -/
def spoilUnit (u : BitVec 32) (s : State) : State :=
  if unitKind u = 6 ∧ fabricUp s (unitIndex u) then spoilNext (0x40 + unitIndex u) s
  else if unitKind u = 7 ∧ t1Up s (unitIndex u) then spoilNext (0x30 + unitIndex u) s
  else if unitKind u ≠ 9 then s
  else match unitIndex u with
    | 0x12 => spoilWellhead s
    | 0x13 => if s.fusion.running then spoilNext 0x13 s else s
    | 0x14 => if selectorStopped s then s else spoilNext 0x14 s
    | 0x17 => spoilControl s
    | _ => s

/-- FAILURE_EVENT: a detected error charged to a unit; a code that names no unit is none (R417-R419). A correctable error of SRAM or of an
accumulator is counted and is no failure event (R415; log 107). -/
def execFailureEvent (unit : BitVec 32) (cause : EventCause) (confirmed : Bool) (job : Option (BitVec 32)) (s : State) : Res :=
  .next (if !(unitOk unit) ∨ !(ready s) then s
    else if cause = .corrected then (if 1 ≤ unitKind unit ∧ unitKind unit ≤ 3 then count 0x741d 3 1 s else s)
    else failureEvent unit cause confirmed job (spoilUnit unit s))

/-! ## Re-tests of SRAM words (R416, R427) -/

/-- Is tile t free for test (R426)? A tile that tests or checks is not. -/
def freeForTest (s : State) (t : Nat) : Bool :=
  domainOn s (regionBit (regionOfTile t)) && !(tileHeld s t) && !(tileRetired s t) &&
  s.island.tests.all (fun e => e.1 != t && e.2.checker != some t)

/-- May a re-test run (R416): the staging of the attempt that the word failed has been released; the word's tile is free for test, or no
channel of the word's cluster uses its port? -/
def retestFree (s : State) (r : BitVec 32 × Option Nat) : Bool :=
  r.2.all (fun id => s.sluice.dying.all (fun d => d.id != id)) &&
  (if unitKind r.1 = 2 then freeForTest s (unitIndex r.1 / 16)
   else domainOn s (regionBit (regionOfTile (unitIndex r.1 / 64 * 8))) &&
     (List.range 8).all (fun c => !((chanOf s (clusterChannel (unitIndex r.1 / 64) c)).running)))

/-- SRAM_RETEST: the two patterns read back (passed), or the word is confirmed bad and its bank retires. -/
def execSramRetest (unit : BitVec 32) (passed : Bool) (s : State) : Res :=
  match s.island.retests.find? (fun r => r.1 = unit && retestFree s r) with
  | none => .next s
  | some r =>
    let s := { s with island := { s.island with retests := s.island.retests.erase r } }
    .next (if passed then s else retireUnit unit s)

/-! ## Field tests (R424-R429) -/

def testOf (s : State) (t : Nat) : Option FieldTest := (s.island.tests.find? (fun e => e.1 = t)).map (fun e => e.2)

/-- The checker of a subject (R427): the free tile of lowest index in its region, past `after` for a re-test. -/
def checkerFor (s : State) (t : Nat) (after : Option Nat) : Option Nat :=
  (regionTiles (regionOfTile t)).find? (fun c => c != t && freeForTest s c &&
    (match after with | some a => decide (a < c) | none => true))

/-- The re-test that t awaits as a suspect (R427). -/
def retestOf (s : State) (t : Nat) : Option Suspect := s.island.suspects.find? (fun x => x.subject = t)

/-- Tiles whose logic test is called for ahead of others (R424, R427). -/
def urgentTiles (s : State) : List Nat := s.island.suspects.map (fun x => x.subject) ++ s.island.urgent.map (fun e => e.1)

/-- The tile and the part that the pass comes to next: healthy tiles in ascending index, the parts of a visit in order (R426; log 81). -/
def nextVisit (s : State) : Nat × Nat :=
  match (List.range 512).find? (fun u => decide (s.island.visit ≤ u) && tileHealthy s u) with
  | some u => (u, if u = s.island.visit then s.island.part else 0)
  | none => (((List.range 512).find? (tileHealthy s)).getD 512, 0)

/-- May a part of a test of t start (R416, R424-R427)? A re-test of a word comes first, then what R424 and R427 call for, then the visits. -/
def testAllowed (s : State) (t part : Nat) : Bool :=
  cfg s 0x4020 1 == 1 && freeForTest s t && s.island.tests.all (fun e => regionOfTile e.1 != regionOfTile t) &&
  s.island.retests.all (fun r => !(retestFree s r)) &&
  ((decide (t ∈ urgentTiles s) && part == 0) ||
    ((tblGet 0 s.island.lastTest t == 0 || decide (tblGet 0 s.island.lastTest t + 1000000 ≤ now s + 1)) &&
      (urgentTiles s).all (fun u => !(freeForTest s u)) && nextVisit s == (t, part)))

/-- A pass over all healthy tiles is complete once the visit is past the last of them (R425). -/
def notePass (s : State) : State :=
  if s.island.visit = 0 ∨ (List.range 512).any (fun u => decide (s.island.visit ≤ u) && tileHealthy s u) then s
  else { s with island := { s.island with
    visit := 0, part := 0, passFrom := now s, lastPass := BitVec.ofNat 64 (now s),
    passTime := BitVec.ofNat 32 ((now s - s.island.passFrom) / 1000) } }

/-- The visit goes on past a part that has ended. -/
def passPart (t part : Nat) (s : State) : State :=
  if nextVisit s = (t, part) then
    notePass { s with island := { s.island with visit := if part < 17 then t else t + 1, part := if part < 17 then part + 1 else 0 } }
  else s

/-- FIELD_TEST_START: part 0 the logic test, 1 to 16 tile SRAM bank part - 1, 17 the cluster bank in turn (R426). -/
def execFieldTestStart (subject : Fin 512) (part : Fin 18) (s : State) : Res :=
  let t := subject.val
  let s := notePass s
  if !(testAllowed s t part.val) ∨ !(ready s) then .next s
  else
    let start (c : Option Nat) (n : Nat) (re : Bool) : State :=
      { s with island := { s.island with
          tests := s.island.tests ++ [(t, ⟨c, part.val, n, re⟩)], testNo := max n s.island.testNo,
          lastTest := tblPut s.island.lastTest t (now s + 1) } }
    if part.val ≠ 0 then .next (start none s.island.testNo false)
    else match retestOf s t with
      | some x => .next (match checkerFor s t (some x.checker) with
          | some c => start (some c) (x.number + 1) true
          | none => s)
      | none => .next (match checkerFor s t none with
          | some c => start (some c) (s.island.testNo + 1) false
          | none => s)

/-- The other tile of a pair. -/
def partner (t : Nat) : Nat := if t % 2 = 0 then t + 1 else t - 1

/-- A tile that R424 had tested passes: with its partner's pass, a permanent pair retires whole. -/
def pairPassed (t : Nat) (s : State) : State :=
  let permanent : Bool := s.island.urgent.any (fun e => e.1 == t && e.2)
  let s := { s with island := { s.island with urgent := s.island.urgent.filter (fun e => e.1 ≠ t) } }
  if !permanent then s
  else if partner t ∈ s.island.pairPass then
    retireUnit (unitOf 1 (max t (partner t))) (retireUnit (unitOf 1 (min t (partner t)))
      { s with island := { s.island with pairPass := s.island.pairPass.filter (· ≠ partner t) } })
  else { s with island := { s.island with pairPass := t :: s.island.pairPass } }

/-- A subject is confirmed failed: permanent and retired (R419, R427). -/
def confirmFailed (t : Nat) (s : State) : State :=
  let s := { s with island := { s.island with
    suspects := s.island.suspects.filter (fun x => x.subject ≠ t), urgent := s.island.urgent.filter (fun e => e.1 ≠ t), pairPass := s.island.pairPass.filter (· ≠ partner t) } }
  failureEvent (unitOf 1 t) .fieldTest true none (count 0x741d 8 1 s)

/-- The outcome of a logic part (R427). -/
def logicOutcome (t : Nat) (f : FieldTest) (passed : Bool) (s : State) : State :=
  if f.retest then
    if passed then
      pairPassed t { s with island := { s.island with
        suspects := s.island.suspects.filter (fun x => x.subject ≠ t),
        urgent := (retestOf s t).toList.map (fun x => (x.checker, false)) ++ s.island.urgent } }
    else confirmFailed t s
  else if passed then pairPassed t s
  else { s with island := { s.island with suspects := s.island.suspects ++ [⟨t, f.checker.getD t, f.number, now s⟩] } }

/-- The unit an SRAM part reads. -/
def sramUnit (s : State) (t part : Nat) : BitVec 32 :=
  if part = 17 then unitOf 3 (64 * clusterOfTile t + (clusterOf s (clusterOfTile t)).testBank) else unitOf 2 (16 * t + (part - 1))

/-- FIELD_TEST_DONE: a part ends (R426, R427). -/
def execFieldTestDone (subject : Fin 512) (passed : Bool) (s : State) : Res :=
  let t := subject.val
  match testOf s t with
  | none => .next s
  | some f =>
    let u := sramUnit s t f.part
    let s := passPart t f.part (count 0x741d 7 1 (endTest t f s))
    let s := if f.part = 17 then cmod (clusterOfTile t) (fun c => { c with testBank := (c.testBank + 1) % 33 }) s else s
    .next (if f.part = 0 then logicOutcome t f passed s
      else if passed then s else failureEvent u .uncorrectable false none s)

/-- FIELD_TEST_YIELD: the tile is handed over; the part restarts later (R428). -/
def execFieldTestYield (subject : Fin 512) (s : State) : Res :=
  match testOf s subject.val with
  | none => .next s
  | some f => .next (count 0x741d 9 1 (endTest subject.val f s))

/-- CHECKER_TIMEOUT: no second checker within 10 ms, and no re-test under way: one failure event of the subject (R427). -/
def execCheckerTimeout (subject : Fin 512) (s : State) : Res :=
  let t := subject.val
  match retestOf s t with
  | none => .next s
  | some x =>
    if (testOf s t).isSome ∨ (checkerFor s t (some x.checker)).isSome then .next s
    else .next (failureEvent (unitOf 1 t) .fieldTest false none (clockTo (x.since + 10000000)
      { s with island := { s.island with suspects := s.island.suspects.filter (fun x => x.subject ≠ t) } }))

/-! ## Supervision (R432-R434) -/

/-- Does the monitored function run with its domain on (R432)? T1 port MACs are codes 0x30 to 0x33 (log 50). -/
def monitored (s : State) (f : Nat) : Bool :=
  match f with
  | 0x12 => domainOn s 12 && !(wellheadStopped s)
  | 0x13 => domainOn s 13 && s.fusion.running
  | 0x14 => domainOn s 13 && (s.map.running || !(selectorStopped s))
  | 0x17 => domainOn s 11 && (s.pump.running || s.solver.running)
  | 0x20 => domainOn s 20
  | 0x21 => domainOn s 20
  | 0x22 => domainOn s 20
  | 0x23 => domainOn s 14
  | 0x24 => domainOn s 15
  | 0x25 => domainOn s 21
  | 0x26 => domainOn s 22
  | _ => decide (0x30 ≤ f) && decide (f < 0x34) && domainOn s 19 && (t1Of s (f - 0x30)).running

/-- HEARTBEAT_LOSS: safe state with cause HEARTBEAT (R432). -/
def execHeartbeatLoss (function : BitVec 8) (s : State) : Res :=
  let f := function.toNat
  if monitored s f ∧ ready s then
    let s := count 0x741d 0x0f 1 { s with island := { s.island with lost := dedup (f :: s.island.lost) } }
    let (n, s) := if 0x30 ≤ f then freshNat s else (f, s)
    .next (enterSafe 7 (BitVec.ofNat 32 n) (decide (0x20 ≤ f) && decide (f ≤ 0x24)) s)
  else .next s

/-- STOP_ACK_TIMEOUT: the tile's issue is gated and the failure is permanent (R433). -/
def execStopAckTimeout (t : Fin 512) (s : State) : Res :=
  .next (if ready s then
    failureEvent (unitOf 1 t.val) .other true none (tmod t.val (fun x => { x with gated := true }) s) else s)

/-- HOST_SILENT: HOST_WD ms without a frame of a listed client (R434). -/
def execHostSilent (s : State) : Res :=
  let w := cfg s 0x4000 0x0a
  .next (if w = 0 ∨ !(ready s) then s else trigger 8 0 (clockTo (s.island.hostHeard + 1000000 * w) s))

/-- Does the island run: not while the module has no power or is held in reset (R497, R498)? -/
def islandRuns (s : State) : Bool := s.power.powered && s.boot.state != .off && s.boot.state != .held

/-- ISLAND_MISMATCH: SAFE_N and FAULT_N through the independent path; no frame (R437). -/
def execIslandMismatch (s : State) : Res := .next (if islandRuns s then enterSafe 10 0 true s else s)

/-! ## Safe state (R435-R443) -/

/-- REQUEST (R436): the writing session's client is the detail. -/
def safeCommand (k v : Nat) (s : State) : WRes :=
  if v = 1 then .done [] (enterSafe 1 (BitVec.ofNat 32 (clientOf s k)) false s) else .abort abValueRange

/-- Does a cause assert FAULT_N (R435)? -/
def causeFaults (cause : Nat) (detail : BitVec 32) : Bool :=
  match cause with
  | 4 => detail == 10
  | 7 => decide (0x20 ≤ detail.toNat) && decide (detail.toNat ≤ 0x24)
  | 9 => unitKind detail != 7
  | 10 => true
  | _ => false

/-- SAFE_STATE_ENTRY: the island latches a cause; a configurable one only while its TRIGGERS bit is set (R435, R437). Whether
FAULT_N is asserted follows R435, not the operand. -/
def execSafeStateEntry (cause : Fin 11) (detail : BitVec 32) (_fault : Bool) (s : State) : Res :=
  let c := cause.val
  .next (if !(islandRuns s) then s
    else if c = 5 ∨ c = 6 ∨ c = 8 then trigger c detail s
    else enterSafe c detail (causeFaults c detail) s)

/-- SAFETY_FRAME_REPEAT: the frame repeats every SF_REPEAT us until safe state is left, a further cause restarting the interval (R439); none
for cause ISLAND, or before R443's first. -/
def execSafetyFrameRepeat (s : State) : Res :=
  .next (if s.island.state = .normal ∨ s.island.unsent ∨ s.island.causes.getLsbD 10 then s
    else safetyFrames false (clockTo (s.island.frameAt + 1000 * cfg s 0x4000 0x0e) s))

/-- May safe state be left by CLEAR (R441)? -/
def clearOk (s : State) (v : Nat) : Bool :=
  s.island.state == .safe && s.island.seq.toNat == v && s.pins.coolQ && s.island.lost.isEmpty &&
  (List.range 11).all (fun i => decide (sensor s i < throttleAt s))

/-- Safe state is left (R441): pins, the CLEARED frame, SAFE_CLEARED, and the domains of R411. -/
def leaveSafe (s : State) : State :=
  let s := safetyFrames true s
  let s := { s with
    island := { s.island with state := .normal, unsent := false }
    pins := { s.pins with safeN := true } }
  let s := if s.power.held then domainsReturn s else { s with power := { s.power with stopped := false } }
  notifyAll 0x11 (leBytes 2 s.island.seq.toNat) s

/-- CLEAR (R441). -/
def clearCommand (v : Nat) (s : State) : WRes := if clearOk s v then .done [] (leaveSafe s) else .abort abConflict

/-- TRIGGERS: bits may be removed only in safe state (R436). -/
def triggersCommand (v : BitVec 32) (s : State) : WRes :=
  if v &&& ~~~(0x160 : BitVec 32) ≠ 0 then .abort abReservedBit
  else if s.island.state = .normal ∧ BitVec.ofNat 32 (cfg s 0x4000 9) &&& ~~~v ≠ 0 then .abort abConflict
  else .done [] (setCfg 0x4000 9 (leBytes 4 v.toNat) s)

end Sys2Proof.Machine
end

