-- ==== Sys2Proof/Machine/Boot.lean ====
section
/-!
DEFINITION. Sys2Proof/Machine/Boot.lean: the firmware image and its checks (R445-R448), device reset, power-down and start
(R449-R452, R459, R495-R500), update (R453, R454), life cycle and debug access (R455-R458), quotes (R460, R461).
-/

namespace Sys2Proof.Machine

/-! ## The image (R445, R446, R448) -/

/-- Byte `i` of the image area. -/
def areaByte (b : Bytes) (i : Nat) : BitVec 8 := match b[i]? with | some x => x | none => Config.flashErased i

def areaBytes (b : Bytes) (off n : Nat) : Bytes := (List.range n).map (fun i => areaByte b (off + i))

/-- The image digest (R446). -/
def imageDigest (b : Bytes) : Bytes := sha512 (areaBytes b 0 0xa0 ++ areaBytes b 0x200 (leNat (areaBytes b 0xc 4)))

def imageField (b : Bytes) (off n : Nat) : Nat := leNat (areaBytes b off n)

/-- What the header says of an image. -/
def imageInfo (b : Bytes) : FwInfo where
  version := BitVec.ofNat 32 (imageField b 4 4)
  svn := BitVec.ofNat 16 (imageField b 8 2)
  keySlot := BitVec.ofNat 8 (imageField b 0xa 1)
  diag := (imageField b 2 2).testBit 0
  digest := imageDigest b

/-- Images accepted in a life-cycle state (R455). -/
def diagOk (lc : BitVec 8) (diag : Bool) : Bool := match lc.toNat with | 2 => !diag | 3 => diag | _ => true

/-- FORMAT 1, reserved bytes 0, LENGTH in range (R445, R448). -/
def imageFormat (b : Bytes) : Bool :=
  let n := imageField b 0xc 4
  imageField b 0 2 == 1 && decide (imageField b 2 2 < 2) && areaByte b 0xb == 0 && (areaBytes b 0x95 11).all (fun x => x == 0) &&
  (areaBytes b 0x124 220).all (fun x => x == 0) && decide (1 ≤ n) && decide (n ≤ 67108352)

/-- Does the image's PUBKEY match its slot's digest, the slot one of the four and not revoked (R447, R448)? -/
def imageKeyOk (s : State) (b : Bytes) : Bool :=
  let k := imageField b 0xa 1
  decide (k < 4) && !(s.boot.revoked.getLsbD k) && sha512 (areaBytes b 0x10 133) == nth (sha512 (4 :: Config.slotKey k)) s.boot.keyDigest k

def imageSigned (b : Bytes) : Bool :=
  areaByte b 0x10 == 4 && ecdsaVerify (beNat (areaBytes b 0x11 66)) (beNat (areaBytes b 0x53 66)) (imageDigest b) (areaBytes b 0xa0 132)

/-- The first check of R448 that fails, or 0: 1 FORMAT, 2 KEY, 3 ROLLBACK, 4 STATE, 5 SIGNATURE. -/
def checkImage (s : State) : BitVec 8 :=
  match s.boot.area with
  | .shipped i =>
    if s.boot.revoked.getLsbD i.keySlot.toNat then 2
    else if i.svn.toNat < s.boot.minSvn then 3
    else if !(diagOk s.boot.lifecycle i.diag) then 4
    else 0
  | .bytes b =>
    if !(imageFormat b) then 1
    else if !(imageKeyOk s b) then 2
    else if imageField b 8 2 < s.boot.minSvn then 3
    else if !(diagOk s.boot.lifecycle (imageInfo b).diag) then 4
    else if !(imageSigned b) then 5
    else 0

/-- The reason at boot: an area without a valid image fails even where its bytes would pass (R453; log 51). -/
def bootReason (s : State) : BitVec 8 := if checkImage s = 0 ∧ !s.boot.areaValid then 1 else checkImage s

def areaInfo (s : State) : FwInfo := match s.boot.area with | .shipped i => i | .bytes b => imageInfo b

/-! ## Down and up (R449, R451, R459, R495-R500) -/

/-- What a reset or power-down leaves of the module: fuses, flash, the retention memory with the CONTROLs of access RW (R451), its pins, the
record of frames and, but for a power-down, the GEN of page-table entries (R172); no session, job, queue or running function. A reset does not turn the I/O fabric
off (R20). -/
def quiet (st : DevState) (s : State) : State where
  pending := s.pending
  freeCtr := s.freeCtr
  out := s.out
  dict := tblDel s.dict (objKey 0x3400 2)
  as_ := { running := s.as_.running }
  timers := s.timers
  fabric := tblMap {} (fun f => { running := f.running }) s.fabric
  t1 := (List.range 4).map (fun x => (x, { running := (t1Of s x).running, link := 0 }))
  dir := { store := s.dir.store }
  pages := if st = .off then {} else
    { entries := tblMap {} (fun e => { gen := e.gen }) s.pages.entries,
      base := (List.range 4).foldl (fun b p => tblMod 0 b p (· + 1)) s.pages.base }
  power := { on := 0x400 ||| (s.power.on &&& 0x100000), inputV := s.power.inputV, powered := s.power.powered, retry := s.power.retry, failed := s.power.failed, energy := 0 }
  island := { retired := s.island.retired }
  boot := { s.boot with state := st, update := {}, nonce := none, debugOpen := false, challenge := none, quoteState := 0,
                        quoteNonce := [], quote := [] }
  pins := { s.pins with safeN := false, faultN := false }

/-- A device reset begins for a cause (R450, R457, R498). -/
def beginReset (cause : BitVec 8) (st : DevState) (s : State) : State :=
  let s := quiet st s
  { s with boot := { s.boot with cause := cause } }

/-- The retention memory at its defaults: no object written, and the CONTROLs of access RW with them (R451, R459, R483). -/
def defaultConfig (s : State) : State :=
  { s with dict := [], as_ := {}, timers := [], fabric := [], t1 := (List.range 4).map (fun x => (x, { link := 0 })) }

/-- A life-cycle change that has begun is finished before boot goes on (R449, R457, R458). -/
def finishChange (s : State) : State :=
  match s.boot.pendingLc with
  | none => s
  | some lc =>
    { defaultConfig s with
      dir := {}
      boot := { s.boot with lifecycle := lc, pendingLc := none, mediaEpoch := s.boot.mediaEpoch + 1,
                            keyState := if lc = 3 then 2 else s.boot.keyState,
                            idSecret := if lc = 3 then 0 else s.boot.idSecret } }

/-- A unit of the retirement table retired again before READY (R421). -/
def reapply (u : BitVec 32) (s : State) : State :=
  let i := unitIndex u
  match unitKind u with
  | 3 =>
    let c := clusterOf s (i / 64)
    if i % 64 = 32 then cmod (i / 64) (fun c => { c with lost := c.spareFor.isSome, spareLost := true }) s
    else if c.spareFor.isNone ∧ !c.spareLost then cmod (i / 64) (fun c => { c with spareFor := some (i % 64) }) s
    else cmod (i / 64) (fun c => { c with lost := true }) s
  | 4 => { s with dir := { s.dir with sub := tblSet 0 s.dir.sub i 2 } }
  | 5 =>
    let s := fabmod (i / 8) (fun f => { f with lanes := f.lanes ||| BitVec.ofNat 8 (2 ^ (i % 8)) }) s
    if bothHalves (fabOf s (i / 8)).lanes then fabmod (i / 8) (fun f => { f with state := 5 }) s else s
  | 6 => fabmod i (fun f => { f with state := 5 }) s
  | 7 => t1mod i (fun p => { p with retired := true, running := false, link := 0 }) s
  | _ => s

/-- READY (R443, R449, R451, R500): domains by DOMAINS_ENABLE, the functions whose kept CONTROL says so started, safe state with cause RESET; with COOL_OK at 0 cause
COOLANT too and the domains of R410 held off. -/
def reachReady (s : State) : State :=
  let cold := !s.pins.coolOk
  let on := if cold then enabled s &&& ~~~(BitVec.ofNat 32 (ofBits coolDomains)) else enabled s
  let s := { s with
    power := { s.power with on := on, held := cold, stopped := cold }
    island := { s.island with causes := if cold then 9 else 1 }
    sluice := { s.sluice with caps := capsNow s }
    boot := { s.boot with state := .ready, running := areaInfo s }
    pins := { s.pins with faultN := true } }
  let s := forEach ((List.range 4).filter (fun p => decide (0 < (poolOf s p).frames))) writeTable (restartKept s)
  forEach (s.island.retired.map (fun e => e.1)) reapply s

/-- RECOVERY (R448, R452): the boot ROM alone, ports A and B, SAFE_N and FAULT_N asserted (log 51). -/
def reachRecovery (s : State) : State :=
  { s with
    t1 := (List.range 4).map (fun x => (x, { running := (t1Of s x).running, link := if (t1Of s x).running && decide (x < 2) then 1 else 0 }))
    power := { s.power with on := 0x780400 ||| (enabled s &&& 0x800000) }
    boot := { s.boot with state := .recovery, reason := bootReason s } }

/-- The boot: a pending change is finished, the image verified, READY or RECOVERY reached `at_` ns after the release (R449). -/
def bootUp (at_ : Nat) (s : State) : State :=
  let s := finishChange s
  let s := { s with
    pins := { s.pins with resetN := true }
    boot := { s.boot with bootTime := BitVec.ofNat 32 (at_ / 1000),
                          resets := if s.boot.cause = 0 then 0 else s.boot.resets + 1 } }
  clockTo at_ (if bootReason s = 0 then reachReady s else reachRecovery s)

/-- DEVICE_RESET: from RESET_N rising, or the release of an internal reset, to READY or RECOVERY (R449). -/
def execDeviceReset (at_ : Nat) (s : State) : Res :=
  .next (if s.boot.state = .boot ∨ s.boot.state = .held then bootUp at_ s else s)

/-- A write of RESET is answered, and the reset begins (R450). -/
def resetCommand (v : Nat) (s : State) : WRes := if v = 1 then .done [] (beginReset 2 .boot s) else .abort abValueRange

/-- RESET_N_LOW: held in reset with SAFE_N low; no effect while PWR_OK is low (R498, R499). -/
def execResetNLow (s : State) : Res :=
  let s := { s with pins := { s.pins with resetN := false } }
  .next (if s.pins.pwrOk then beginReset 1 .held s else s)

/-- Retirement entries younger than 10 ms may not stand in flash yet, and are then absent (R421, R499): which of them is free (log 77). -/
def losePending (s : State) : State :=
  forEach (s.island.recent.filter (fun e => decide (now s < e.2 + 10000000))) (fun e s =>
    let (n, s) := freshNat s
    if n % 2 = 0 then s else { s with island := { s.island with retired := s.island.retired.filter (fun r => r.1 ≠ e.1) } }) s

/-- A power-down runs to its end (R495, R497): every output at its unpowered level; the next start is a power-on. -/
def powerDown (s : State) : State :=
  let s := quiet .off (losePending s)
  { s with
    power := { s.power with powered := false, on := 0, retry := false, failed := false }
    pins := { s.pins with pwrOk := false, safeN := false, faultN := false } }

/-- Is there power to lose? -/
def isOn (s : State) : Bool := s.boot.state != .off

/-- The input is not good: a power-down (R495); with the module already off the input has been cycled, and no retry is to come (R496). -/
def inputLost (s : State) : State :=
  if isOn s then powerDown s else { s with power := { s.power with retry := false, failed := false } }

/-- UNDERVOLTAGE: VIN below the threshold for 200 us (R495). -/
def execUndervoltage (s : State) : Res := .next (inputLost s)

/-- OVERVOLTAGE: VIN above the threshold for 200 us (R495). -/
def execOvervoltage (s : State) : Res := .next (inputLost s)

/-- PWR_EN_LOW: PWR_EN low for 10 us (R495). -/
def execPwrEnLow (s : State) : Res :=
  .next (inputLost { s with pins := { s.pins with pwrEn := false } })

/-- The regulators are good: PWR_OK high, configuration at its defaults, boot follows RESET_N (R451, R459, R496, R499). -/
def powerUp (s : State) : State :=
  { defaultConfig s with
    power := { s.power with powered := true, on := 0x400, retry := false, failed := false }
    pins := { s.pins with pwrOk := true }
    boot := { s.boot with state := if s.pins.resetN then .boot else .held, cause := 0, resets := 0 } }

/-- COLD_START: the input has been good for 10 ms; the self-checks pass or the module stays held, but for one retry, until the input is
cycled (R496). -/
def execColdStart (selfCheckOk : Bool) (s : State) : Res :=
  if isOn s ∨ s.power.failed then .next s
  else
    let s := { s with pins := { s.pins with pwrEn := true } }
    .next (if selfCheckOk then powerUp s else { s with power := { s.power with retry := true, failed := true } })

/-- REGULATOR_RETRY: the one retry, 1 s after a failed self-check, the input good all the while (R496). -/
def execRegulatorRetry (selfCheckOk : Bool) (s : State) : Res :=
  .next (if isOn s ∨ !s.power.retry then s
    else if selfCheckOk then powerUp s
    else { s with power := { s.power with retry := false } })

/-! ## Update (R453, R454) -/

/-- Another session owns the update (R453). -/
def updateForeign (k : Nat) (s : State) : Bool :=
  match s.boot.update.owner with
  | some (j, g) => !(j == k && g == (sess s k).gen)
  | none => false

def updateBegin (k : Nat) (s : State) : State :=
  { s with boot := { s.boot with
    area := .bytes [], areaValid := false, update := { owner := some (k, (sess s k).gen), status := 1, written := 0, reason := 0 } } }

/-- CHUNK (R453): OFFSET, then 1 to 1,024 bytes of image. -/
def updateChunk (k : Nat) (b : Bytes) (s : State) : WRes :=
  if fieldAt b 0 4 ≠ s.boot.update.written ∨ 0x4000000 < fieldAt b 0 4 + (b.length - 4) then .abort abValueRange
  else if updateForeign k s ∨ s.boot.update.status ≠ 1 then .abort abConflict
  else
    let old := match s.boot.area with | .bytes x => x | .shipped _ => []
    .done [] { s with boot := { s.boot with
      area := .bytes (old ++ b.drop 4), update := { s.boot.update with written := s.boot.update.written + (b.length - 4) } } }

/-- The flash contents are verified (R453); in RECOVERY a DONE image is followed by a device reset. -/
def verifyUpdate (s : State) : State :=
  let r := checkImage s
  let s := { s with boot := { s.boot with
    areaValid := decide (r = 0), update := { s.boot.update with owner := none, status := if r = 0 then 3 else 4, reason := r } } }
  if r = 0 ∧ s.boot.state = .recovery then beginReset 2 .boot s else s

/-- COMMIT (R453): VERIFYING till the security engine has verified the image, which it does with its domain on (R19). -/
def updateCommit (s : State) : State :=
  if works s 21 then verifyUpdate s else { s with boot := { s.boot with update := { s.boot.update with status := 2 } } }

/-- DOMAIN_ON_DONE: a domain that was switched on is on (R398); the security engine's takes up a verification that waits. -/
def execDomainOnDone (d : Fin 24) (s : State) : Res :=
  let s := switchedOn d s
  .next (if d.val = 21 ∧ s.boot.update.status = 2 ∧ works s 21 then verifyUpdate s else s)

def updateAbort (s : State) : State := { s with boot := { s.boot with update := {} } }

/-- CONTROL of the update (R453). -/
def updateControl (k code : Nat) (s : State) : WRes :=
  if code = 0 ∨ 3 < code then .abort abValueRange
  else if updateForeign k s then .abort abConflict
  else match code with
    | 1 => .done [] (updateBegin k s)
    | 2 => if s.boot.update.status = 1 then .done [] (updateCommit s) else .abort abConflict
    | _ => .done [] (if s.boot.update.status = 1 then updateAbort s else s)

/-- MIN_SVN: the running SVN, above the present floor (R454). -/
def minSvnCommand (v : Nat) (s : State) : WRes :=
  if v ≠ s.boot.running.svn.toNat ∨ v ≤ s.boot.minSvn then .abort abValueRange
  else .done [] { s with boot := { s.boot with minSvn := v } }

/-- REVOKE: a slot other than the running image's (R454). -/
def revokeCommand (v : Nat) (s : State) : WRes :=
  if 3 < v then .abort abValueRange
  else if v = s.boot.running.keySlot.toNat then .abort abConflict
  else .done [] { s with boot := { s.boot with revoked := s.boot.revoked ||| BitVec.ofNat 4 (2 ^ v) } }

/-! ## Life cycle (R455-R457) -/

/-- A read of NONCE draws 32 new bytes (R456); with the security engine's domain off none is drawn, and it reads the last (R19; log 53). -/
def drawNonce (s : State) : Bytes × State :=
  if works s 21 then
    let (n, s) := freshBytes 32 s
    (n, { s with boot := { s.boot with nonce := some n } })
  else (s.boot.nonce.getD (zeros 32), s)

/-- Does SIG of a request verify under a slot that is not revoked (R456)? -/
def requestSigned (s : State) (b : Bytes) : Bool :=
  (List.range 4).any (fun i => !(s.boot.revoked.getLsbD i) &&
    ecdsaVerify (beNat (bytesAt (Config.slotKey i) 0 66)) (beNat (bytesAt (Config.slotKey i) 66 66)) (sha512 (bytesAt b 0 0x30))
      (bytesAt b 0x30 132))

/-- Is the transition that the request names authorised (R456)? -/
def changeOk (s : State) (b : Bytes) : Bool :=
  let target := fieldAt b 0 1
  let serial : Bool := BitVec.ofNat 64 (fieldAt b 8 8) == s.boot.ident.serial
  match s.boot.lifecycle.toNat, target with
  | 1, 2 => serial && (bytesAt b 0x10 164).all (fun x => x == 0)
  | 1, 3 => serial && s.boot.nonce == some (bytesAt b 0x10 32) && requestSigned s b
  | 2, 3 => serial && s.boot.nonce == some (bytesAt b 0x10 32) && requestSigned s b
  | _, _ => false

/-- A life-cycle change request: PENDING is fused and the device resets (R456, R457). -/
def changeCommand (b : Bytes) (s : State) : WRes :=
  if fieldAt b 1 7 ≠ 0 then .abort abReservedBit
  else if s.boot.update.status = 1 ∨ s.boot.update.status = 2 ∨ !(changeOk s b) then .abort abConflict
  else .done [] (beginReset 3 .boot { s with boot := { s.boot with pendingLc := some (BitVec.ofNat 8 (fieldAt b 0 1)) } })

/-- State of the debug access port: 0 closed, 1 awaiting authentication, 2 open (R455). -/
def debugState (s : State) : BitVec 8 :=
  match s.boot.lifecycle.toNat with
  | 0 => 2
  | 2 => 0
  | _ => if s.boot.debugOpen then 2 else 1

/-- A fresh challenge is drawn and put out at the port (R455). -/
def newChallenge (s : State) : State :=
  let (c, s) := freshBytes 32 s
  emit (.debug c) { s with boot := { s.boot with challenge := some c } }

/-- DEBUG_AUTH: the debugger's signature over the challenge opens the port; each attempt draws a fresh one from the security engine
(R455). Nothing answers while the port's domain or the engine's is off (R19, R20). -/
def execDebugAuth (signature : Bytes) (s : State) : Res :=
  if !(works s 23) ∨ !(works s 21) ∨ debugState s ≠ 1 then .next s
  else match s.boot.challenge with
    | none => .next (newChallenge s)
    | some c =>
      .next (if ecdsaVerify (beNat (bytesAt Config.debugKey 0 66)) (beNat (bytesAt Config.debugKey 66 66)) (sha512 c) signature then
          { s with boot := { s.boot with debugOpen := true, challenge := none } }
        else newChallenge s)

/-- DEBUG_TRANSACTION (R455, R456): ignored in FIELD; a port that awaits authentication gives its challenge; in BLANK the
provisioning request makes the identity key and resets the device; any other transaction is answered with free bytes (log 52). -/
def execDebugTransaction (request : Bytes) (s : State) : Res :=
  if !(works s 23) then .next s
  else match (debugState s).toNat with
  | 0 => .next s
  | 1 => .next (if works s 21 then newChallenge s else s)
  | _ =>
    if s.boot.lifecycle = 0 ∧ Config.provisionRequest request then
      let (n, s) := freshNat s
      let d := 1 + n % (n521 - 1)
      .next (beginReset 3 .boot { s with boot := { s.boot with pendingLc := some 1, keyState := 1, idSecret := d, idPoint := publicPoint d } })
    else
      let (a, s) := freshBytes request.length s
      .next (emit (.debug a) s)

/-! ## Quotes (R461) -/

/-- NONCE starts a quote (R461). -/
def quoteCommand (nonce : Bytes) (s : State) : WRes :=
  if s.boot.quoteState = 1 ∨ s.boot.lifecycle = 0 ∨ s.boot.lifecycle = 3 ∨ !(ready s) then .abort abConflict
  else .done [] { s with boot := { s.boot with quoteState := 1, quoteNonce := nonce } }

/-- ID_KEY: the public point, uncompressed (R460). -/
def idKeyBytes (s : State) : Bytes := 4 :: beBytes 66 s.boot.idPoint.1 ++ beBytes 66 s.boot.idPoint.2

def safeCode : SafeState → BitVec 8
  | .normal => 0 | .safe => 1 | .safeFault => 2

/-- The signed bytes of a quote (R461). -/
def quoteBody (s : State) : Bytes :=
  leBytes 2 1 ++ [s.boot.lifecycle, debugState s] ++ leBytes 4 s.boot.running.version.toNat ++ leBytes 2 s.boot.running.svn.toNat ++
  leBytes 2 s.boot.minSvn ++ leBytes 2 s.island.retired.length ++ [safeCode s.island.state, 0] ++ leBytes 8 s.boot.ident.serial.toNat ++
  leBytes 4 (stamp s).toNat ++ zeros 4 ++ leBytes 4 s.boot.bootRom.toNat ++ zeros 12 ++ padTo 64 s.boot.running.digest ++
  padTo 32 s.boot.quoteNonce

/-- QUOTE_READY: the quote is signed by the identity key over its SHA-512, with a free per-message number (R461; log 53). The security
engine signs only with its domain on (R19, R20). -/
def execQuoteReady (s : State) : Res :=
  if s.boot.quoteState = 1 ∧ works s 21 then
    let (k, s) := freshNat s
    .next { s with boot := { s.boot with
      quoteState := 2, quote := quoteBody s ++ ecdsaSign s.boot.idSecret k (sha512 (quoteBody s)) } }
  else .next s

end Sys2Proof.Machine
end

