-- ==== Sys2Proof/Machine/DictRead.lean ====
section
/-!
DEFINITION. Sys2Proof/Machine/DictRead.lean: rights (R466, R467), reachability in RECOVERY (R452) and the values that dictionary
reads return (R471, R479-R485).
-/

namespace Sys2Proof.Machine

/-! ## Rights (R465-R467) -/

/-- May client `c` use T1 port `x` (0x1110+x:02)? -/
def admitted (s : State) (x c : Nat) : Bool := (cfg s (0x1110 + x) 2).testBit c

/-- CLIENT_RIGHTS[client] AND RIGHTS_MASK of the port (R467). -/
def rightsOf (s : State) (x c : Nat) : Nat := fieldAt (cfgBytes s 0x1100 3) (2 * c) 2 &&& cfg s (0x1110 + x) 1

/-- Rights of the session in slot k, recomputed at every request. -/
def sessionRights (s : State) (k : Nat) : Nat := rightsOf s (sess s k).port.val (clientOf s k)

/-- Is the client admitted on its port, with right bit `r` set? -/
def hasRight (s : State) (k r : Nat) : Bool := admitted s (sess s k).port.val (clientOf s k) && (sessionRights s k).testBit r

/-- The right that a read needs (R466). -/
def readRight (idx sub : Nat) : Nat :=
  if idx = 0x2001 ∧ sub = 4 then 7
  else if (famBase idx).1 = 0x6000 ∧ sub = 0x0a then 2
  else 0

/-- The right that a write of session k needs (R466). -/
def writeRight (k idx sub : Nat) (data : Bytes) : Nat :=
  let b := (famBase idx).1
  let n := (famBase idx).2
  if (idx = 0x1100 ∧ 2 ≤ sub ∧ sub ≤ 4) ∨ b = 0x1110 ∨ (idx = 0x1020 ∧ sub = 1) ∨ (b = 0x1180 ∧ sub = 7 ∧ n ≠ k) then 11
  else if 0x3000 ≤ idx ∧ idx ≤ 0x33ff then 10
  else if (idx = 0x3400 ∧ (sub = 2 ∨ sub = 3)) ∨ idx = 0x3410 ∨ idx = 0x3420 ∨ b = 0x3428 then 9
  else if (0x5400 ≤ idx ∧ idx ≤ 0x5bff) ∨ b = 0x5d00 then 8
  else if (idx = 0x2001 ∧ sub = 2) ∨ (idx = 0x2002 ∧ (sub = 3 ∨ sub = 7)) ∨ idx = 0x2030 then 7
  else if (idx = 0x2000 ∧ sub = 5) ∨ (idx = 0x2010 ∧ sub = 1) ∨ (b = 0x2100 ∧ sub = 3 ∧ data = [3]) then 6
  else if (idx = 0x4000 ∧ 7 ≤ sub ∧ sub ≤ 0x0e) ∨ idx = 0x4020 ∨ b = 0x4040 then 5
  else if (b = 0x6000 ∧ (sub = 5 ∨ sub = 8 ∨ sub = 9)) ∨
      ((idx = 0x3810 ∨ idx = 0x3850 ∨ idx = 0x3a00 ∨ idx = 0x3a28 ∨ idx = 0x5c00) ∧ sub = 1) then 2
  else if (idx = 0x7810 ∧ sub = 1) ∨ (b = 0x1180 ∧ (sub = 6 ∨ sub = 7) ∧ n = k) then 0
  else 1

/-- Is the object reachable: in RECOVERY only 0x2030 and the read-only objects of 0x2000-0x2002 and 0x7800 are (R452)? -/
def reachable (s : State) (idx sub : Nat) : Bool :=
  s.boot.state != .recovery || idx == 0x2030 ||
  ((idx == 0x2000 || idx == 0x2001 || idx == 0x2002 || idx == 0x7800) &&
    (match objDef idx sub with | some (_, .ro, _) => true | _ => false))

/-! ## STATUS and encodings (R481) -/

def devCode : DevState → Nat
  | .recovery => 1 | .ready => 2 | _ => 0
def pstateCode : PState → Nat
  | .stopped => 0 | .running => 1 | .draining => 2 | .resetting => 3
def qstateCode : QState → Nat
  | .stopped => 0 | .running => 1 | .draining => 2
def standbyCode : Standby → Nat
  | .active => 0 | .entering => 1 | .standby => 2 | .waking => 3
def cstateCode : CState → Nat
  | .stopped => 0 | .idle => 1 | .collecting => 2 | .closed => 3
def slotCode : SlotState → Nat
  | .empty => 0 | .loading => 1 | .loaded => 2 | .rejected => 3
def astateCode : AState → Nat
  | .disabled => 0 | .ramping => 1 | .running => 2 | .fault => 3

def flag (b : Bool) : Nat := if b then 1 else 0

/-- The tile that has awaited re-test longest, or 0xffff (R425; log 81). -/
def suspectTile (s : State) : Nat := match s.island.suspects with | x :: _ => x.subject | [] => 0xffff

/-- STATUS (R481), bits 0 to 13. -/
def statusBits (s : State) : List Bool :=
  [s.boot.state == .ready, s.island.state != .normal, s.island.state == .safeFault, s.boot.state == .recovery,
   s.clock.state == .holdover, s.clock.state == .locked || s.clock.state == .grandmaster, s.power.bPower != 0,
   s.power.hot.any (fun e => e.2), s.pins.coolOk, !s.island.retired.isEmpty, !s.island.suspects.isEmpty,
   s.resetting != 0, s.boot.state == .ready && s.boot.update.status == 3, s.dir.sub.any (fun e => e.2 == 1)]

def statusWord (s : State) : Nat := ofBits ((List.range 14).filter (fun i => nth false (statusBits s) i))

/-! ## Values of computed objects -/

/-- The entry of `l` for subindex `sub`; `d` for any other. -/
def sel {α : Type} (sub : Nat) (l : List (Nat × α)) (d : α) : α := tblGet d l sub

def strBytes (t : String) : Bytes := t.toList.map (fun c => BitVec.ofNat 8 c.toNat)

/-- The 96-byte catalogue entry (R254, R483). -/
def catalogueEntry (s : State) (o : Nat) : Bytes :=
  leBytes 2 o ++
  match objectOf s o with
  | none => zeros 94
  | some x => leBytes 1 (flag x.kind) ++ [0] ++ leBytes 4 x.size ++ leBytes 4 x.stored ++ leBytes 4 x.stamp.toNat ++ zeros 16 ++
      padTo 64 x.digest

/-- The answer to DESCRIBE (R485). -/
def describeBytes (idx sub : Nat) : Bytes :=
  match objDef idx sub with
  | none => zeros 8
  | some (ty, acc, _) => leBytes 1 (otyCode ty) ++ leBytes 1 (oaccCode acc) ++ zeros 2 ++ leBytes 4 (otyLen ty)

/-- INDEX_LIST: every index defined, ascending (R483). -/
def indexList : Bytes := (((List.range 65536).filter idxDefined).map (leBytes 2)).flatten

/-- 0x1000 to 0x1180 (R465-R478, R483). -/
def readIdentity (b n sub : Nat) (s : State) : Bytes :=
  if b = 0x1000 then sel sub [
    (1, strBytes "Kilwiond"),
    (2, strBytes "KTU-9512"),
    (3, leBytes 1 (flag s.boot.ident.m128)),
    (4, leBytes 8 s.boot.ident.serial.toNat),
    (5, leBytes 2 s.boot.ident.board.toNat),
    (6, leBytes 8 (cisternBytes s))] (leBytes 8 (nth 0 s.boot.ident.macs (sub - 7)).toNat)
  else if b = 0x1100 then (leBytes 1 (openSlots s).length)
  else sel sub [
    (1, leBytes 1 (flag (sess s n).open_)),
    (2, leBytes 1 (clientOf s n)),
    (3, leBytes 1 (sess s n).port.val),
    (4, leBytes 2 (if (sess s n).open_ then sessionRights s n else 0)),
    (5, padTo 18 ((sess s n).peer.drop 6)),
    (6, leBytes 32 (sess s n).mask.toNat),
    (8, leBytes 2 (sess s n).queue.length)] (leBytes 4 (sess s n).lost.toNat)

/-- 0x2000 to 0x2100 (R259, R450, R453-R456, R481, R482). The NONCE is drawn apart. -/
def readDevice (b n sub : Nat) (s : State) : Bytes :=
  if b = 0x2000 then sel sub [
    (1, leBytes 1 (devCode s.boot.state)),
    (2, leBytes 4 s.boot.bootTime.toNat),
    (3, leBytes 1 s.boot.cause.toNat)] (leBytes 4 s.boot.resets.toNat)
  else if b = 0x2001 then sel sub [
    (1, leBytes 1 s.boot.lifecycle.toNat)] (leBytes 1 (debugState s).toNat)
  else if b = 0x2002 then sel sub [
    (1, leBytes 4 s.boot.running.version.toNat),
    (2, leBytes 2 s.boot.running.svn.toNat),
    (3, leBytes 2 s.boot.minSvn),
    (4, padTo 64 s.boot.running.digest),
    (5, leBytes 4 s.boot.bootRom.toNat),
    (6, leBytes 1 s.boot.running.keySlot.toNat)] (leBytes 1 s.boot.reason.toNat)
  else if b = 0x2003 then sel sub [
    (1, leBytes 4 (statusWord s))] (leBytes 4 s.events.toNat)
  else if b = 0x2010 then (leBytes 4 s.resetting.toNat)
  else if b = 0x2030 then sel sub [
    (3, leBytes 1 s.boot.update.status.toNat),
    (4, leBytes 4 s.boot.update.written)] (leBytes 1 s.boot.update.reason.toNat)
  else sel sub [
    (4, leBytes 1 (pstateCode (partOf s n).state)),
    (5, leBytes 2 (partOf s n).first),
    (6, leBytes 2 (partOf s n).tiles),
    (7, leBytes 2 (partHealthy s n))] (leBytes 1 (flag (partFirstFree s n)))

/-- 0x3000 to 0x3030 (R397-R412). Means of power are read apart. -/
def readPower (b sub : Nat) (s : State) : Bytes :=
  if b = 0x3000 then sel sub [
    (3, leBytes 4 (uncore s)),
    (6, leBytes 4 s.power.inputV.toNat)] (rateBytes s)
  else if b = 0x3001 then (leBytes 1 (standbyCode s.power.standby))
  else if b = 0x3010 then (leBytes 8 (s.power.energy / 1000000))
  else if b = 0x3020 then sel sub [
    (1, leBytes 4 s.power.on.toNat)] (leBytes 4 (enabled s).toNat)
  else if b = 0x3030 then sel sub [
    (1, ((List.range 11).map (fun i => leBytes 4 (nth 0 s.power.temps i).toNat)).flatten),
    (3, leBytes 4 0x42dc0000)] (leBytes 1 (flag s.pins.coolOk))
  else zeros 8

/-- 0x3400 to 0x3450 (R365-R384). SLEW_LEFT is read apart. -/
def readTime (b n sub : Nat) (s : State) : Bytes :=
  if b = 0x3400 then sel sub [
    (1, leBytes 8 (now s))] (leBytes 1 (timeCode s.clock.state).toNat)
  else if b = 0x3410 then sel sub [
    (9, leBytes 8 s.as_.gm.toNat),
    (0x0a, leBytes 8 s.as_.offset.toNat)] (leBytes 1 (flag s.as_.running))
  else if b = 0x3420 then sel sub [
    (4, leBytes 8 s.pps.inCapture.toNat)] (leBytes 4 s.pps.inCount.toNat)
  else if b = 0x3428 then (leBytes 1 (flag (timerOf s n).running))
  else if b = 0x3430 then sel sub [
    (8, leBytes 8 (portMac s n).toNat),
    (0x0a, leBytes 1 (t1Of s n).link.toNat)] (leBytes 1 (flag (t1Of s n).running))
  else sel sub [
    (6, leBytes 1 (fabOf s n).state.toNat),
    (7, leBytes 1 (fabOf s n).lanes.toNat)] (leBytes 1 (flag (fabOf s n).running))

/-- 0x3800 to 0x3a28 (R229, R249, R254, R256, R135, R160, R166) as session k reads them. -/
def readMemoryObj (k b n sub : Nat) (s : State) : Bytes :=
  if b = 0x3800 then sel sub [
    (3, leBytes 8 (heapFree s))] (leBytes 8 (usableEnd s - 1))
  else if b = 0x3810 then sel sub [
    (2, leBytes 4 (liveTensors s).length)] (padTo 64 (sess s k).query)
  else if b = 0x3820 then (leBytes 1 (tblGet 0 s.dir.sub n).toNat)
  else if b = 0x3840 then (leBytes 1 (flag (peerUp s n)))
  else if b = 0x3850 then sel sub [
    (2, leBytes 4 s.dir.store.length),
    (3, leBytes 8 (storeFree s))] (catalogueEntry s (sess s k).entry.toNat)
  else if b = 0x3a00 then sel sub [
    (2, leBytes 2 (s.streams.recs.filter (fun e => e.2.state != .free)).length)] (leBytes 2 (blockTiles s).length)
  else if b = 0x3a20 then sel sub [
    (0x0a, leBytes 4 (freeFrames s n)),
    (0x0b, leBytes 4 (freeStaging s n))] (leBytes 2 (openSeqs s n))
  else leBytes 2 s.pages.seqs.length

/-- 0x4000 to 0x4040 (R421, R425, R431, R436). -/
def readSafety (b n sub : Nat) (s : State) : Bytes :=
  if b = 0x4000 then sel sub [
    (1, leBytes 1 (safeCode s.island.state).toNat),
    (2, leBytes 4 s.island.causes.toNat),
    (3, leBytes 1 s.island.first.toNat),
    (4, leBytes 4 s.island.detail.toNat),
    (5, leBytes 4 s.island.entry.toNat),
    (6, leBytes 2 s.island.seq.toNat)] (leBytes 1 (2 * flag s.pins.faultN + flag s.pins.safeN))
  else if b = 0x4010 then sel sub [
    (1, leBytes 2 s.island.retired.length)] ((s.island.retired.map (fun e => leBytes 4 e.1.toNat ++ leBytes 4 e.2.toNat)).flatten)
  else if b = 0x4020 then sel sub [
    (3, leBytes 8 s.island.lastPass.toNat),
    (4, leBytes 4 s.island.passTime.toNat)] (leBytes 2 (suspectTile s))
  else sel sub [
    (2, leBytes 4 ((camOf s n).signature.getD 0).toNat)] (leBytes 1 (camOf s n).repeats.toNat)

/-- 0x4800 to 0x4980 (R280, R281, R288, R294). -/
def readIngest (b n sub : Nat) (s : State) : Bytes :=
  if b = 0x4800 then sel sub [
    (0x11, leBytes 1 (camOf s n).state.toNat)] (leBytes 4 (camOf s n).frameNo.toNat)
  else if b = 0x4880 then (leBytes 1 (flag (linkLocked s n)))
  else if b = 0x4900 then sel sub [
    (0x12, leBytes 1 (flag (sampOf s n).running))] (leBytes 8 (sampOf s n).head)
  else sel sub [
    (3, leBytes 1 (flag s.wellhead.loaded))] (leBytes 4 s.wellhead.dict.length)

/-- A field of a slot's loaded schedule; 0 while none is loaded. -/
def loadedField (s : State) (n : Nat) (f : Bytes → Nat) : Nat :=
  if (schedSlot s n).state = .loaded then f (schedSlot s n).image else 0

/-- 0x5000 to 0x5810 (R309, R311, R327, R328, R344-R346). -/
def readMotion (b n sub : Nat) (s : State) : Bytes :=
  if b = 0x5000 then sel sub [
    (8, leBytes 1 (flag s.fusion.running))] (leBytes 4 s.fusion.cycle.toNat)
  else if b = 0x5010 then (leBytes 1 (tblGet 1 s.fusion.status n).toNat)
  else if b = 0x5400 then sel sub [
    (9, leBytes 1 (flag s.pump.running))] (leBytes 4 (busiestTick s))
  else if b = 0x5410 then (leBytes 8 (tblGet 0 s.pump.samples n).toNat)
  else if b = 0x5500 then sel sub [
    (0x0d, leBytes 1 (astateCode (axisOf s n).state)),
    (0x0e, leBytes 1 (axisOf s n).status.toNat),
    (0x0f, leBytes 4 (axisOf s n).set.toNat)] (leBytes 1 (slotCode (axisOf s n).tstate))
  else if b = 0x5800 then sel sub [
    (0x0e, leBytes 1 (flag s.solver.running))] (leBytes 4 s.solver.outCycle.toNat)
  else sel sub [
    (3, leBytes 1 (slotCode (schedSlot s n).state)),
    (4, leBytes 8 (loadedField s n (fun b => (schFinger b).toNat))),
    (5, leBytes 2 (loadedField s n schN)),
    (6, leBytes 4 (loadedField s n schNnz)),
    (7, leBytes 4 (loadedField s n schCycles))] (leBytes 1 (loadedField s n schRounds))

/-- 0x5c00 to 0x7810 (R40, R187, R195, R197, R209, R460, R461), and 0xf000:02 of session k. -/
def readRest (k b n sub : Nat) (s : State) : Bytes :=
  if b = 0x5c00 then (leBytes 1 s.pages.tables.length)
  else if b = 0x5c40 then sel sub [
    (0x0c, leBytes 1 (flag s.map.running))] (leBytes 4 s.map.epoch.toNat)
  else if b = 0x5c48 then (leBytes 4 (tblGet 0 s.map.heads n).toNat)
  else if b = 0x5d00 then sel sub [
    (0x0b, leBytes 1 (cstateCode (chan s n).state))] (leBytes 4 (chan s n).round.toNat)
  else if b = 0x6000 then sel sub [
    (6, leBytes 1 (qstateCode (qget s n).state)),
    (7, leBytes 1 (qget s n).gen.toNat)] (leBytes 2 (occupancy s n))
  else if b = 0x7800 then sel sub [
    (1, if s.boot.lifecycle = 0 then [] else idKeyBytes s),
    (2, if s.boot.lifecycle = 0 then [] else certificate s.boot.ident.serial (idKeyBytes s))] (leBytes 1 s.boot.keyState.toNat)
  else if b = 0x7810 then sel sub [
    (2, s.boot.quote)] (leBytes 1 s.boot.quoteState.toNat)
  else sel sub [
    (1, indexList)] (padTo 8 (sess s k).describe)

/-- The value of a computed object, by its range of R483. -/
def readComputed (k idx sub : Nat) (s : State) : Bytes :=
  let b := (famBase idx).1
  let n := (famBase idx).2
  if b < 0x2000 then readIdentity b n sub s
  else if b < 0x3000 then readDevice b n sub s
  else if b < 0x3400 then readPower b sub s
  else if b < 0x3800 then readTime b n sub s
  else if b < 0x4000 then readMemoryObj k b n sub s
  else if b < 0x4800 then readSafety b n sub s
  else if b < 0x5000 then readIngest b n sub s
  else if b < 0x5c00 then readMotion b n sub s
  else readRest k b n sub s

/-- Counters that stand outside 0x7000-0x77ff (R484). -/
def ownCounter (b sub : Nat) : Bool :=
  (b == 0x3820 && (sub == 2 || sub == 3)) || (b == 0x4800 && (sub == 0x13 || sub == 0x14)) ||
  (b == 0x4880 && decide (3 ≤ sub) && decide (sub ≤ 5))

/-- RW, RWS and W1C objects whose value the unit holds itself, not `dict`. -/
def heldElsewhere (b sub : Nat) : Bool :=
  (b == 0x1180 && sub == 6) || (b == 0x2002 && sub == 3) || (b == 0x2003 && sub == 2) || (b == 0x3020 && sub == 2) ||
  (b == 0x3410 && sub == 0x0b) || (b == 0x3428 && sub == 5) || (b == 0x3430 && sub == 0x0b) || (b == 0x3450 && sub == 8) ||
  (b == 0x3850 && sub == 4) || (b == 0xf000 && sub == 2)

/-- Subindices marked reserved: they read 0 (R479). -/
def reservedSub (b sub : Nat) : Bool := (b == 0x3410 && sub == 8) || (b == 0x3800 && sub == 5) || (b == 0x5000 && sub == 6)

/-- The value of a defined, readable object as session k reads it; the three of `readValue` apart. -/
def readObj (k idx sub : Nat) (s : State) : Bytes :=
  let b := (famBase idx).1
  if sub = 0 then leBytes 1 (highSub idx)
  else if (counterSubs idx).isSome ∨ ownCounter b sub then leBytes 8 (counter s idx sub).toNat
  else if reservedSub b sub then [0]
  else match objDef idx sub with
    | some (_, .ro, _) => readComputed k idx sub s
    | _ => if heldElsewhere b sub then readComputed k idx sub s else cfgBytes s idx sub

/-- A rational reading as a whole number: its floor, a fraction rounded freely (log 59). -/
def roundFree (x : Rat) (s : State) : Int × State :=
  let (n, s) := freshNat s
  (x.floor + (if x = (x.floor : Rat) then 0 else ((n % 2 : Nat) : Int)), s)

/-- A read of session k: the value, and what the read itself does: a NONCE is drawn (R456), a completion record is taken (R43),
SLEW_LEFT and the means of power round freely. -/
def readValue (k idx sub : Nat) (s : State) : Bytes × State :=
  if idx = 0x2001 ∧ sub = 4 then drawNonce s
  else if (famBase idx).1 = 0x6000 ∧ sub = 0x0a then nextRecord (famBase idx).2 s
  else if idx = 0x3400 ∧ sub = 4 then
    let (v, s) := roundFree ((s.clock.slewLeft : Rat) / ((2 ^ 38 : Nat) : Rat)) s
    (leBytes 4 (wrapInt 32 v), s)
  else if idx = 0x3000 ∧ (sub = 4 ∨ sub = 5) then
    let (v, s) := roundFree (meanPower s (if sub = 4 then 1000 else 100000)) s
    (leBytes 4 v.toNat, s)
  else (readObj k idx sub s, s)

end Sys2Proof.Machine
end

