-- ==== Sys2Proof/Machine/DictWrite.lean ====
section
/-!
DEFINITION. Sys2Proof/Machine/DictWrite.lean: the checks of a dictionary write in the order of R474, the ranges and conflicts of
every chapter, and the effect of each write.
-/

namespace Sys2Proof.Machine

/-! ## TYPE (R471, R474, R479) -/

/-- Lengths of the solver's RECORD: the selected LOADED schedule's own; with none, what some schedule has (R323, R331). -/
def solverRecLen (s : State) (n : Nat) : Bool :=
  let x := schedSlot s (solverSel s)
  if x.state = .loaded then n == recordLen x.image else decide (64 ≤ n) && decide (n ≤ 1048576) && n % 8 == 0

/-- May a BLOB be written with `n` bytes (R479)? -/
def blobLenOk (s : State) (b sub n : Nat) : Bool :=
  match sel (b * 256 + sub) [
    (0x110003, 512), (0x111002, 32), (0x118006, 32), (0x40000b, 32), (0x200102, 180), (0x343002, 16), (0x345002, 16), (0x381001, 32),
    (0x3a0001, 32), (0x3a2801, 32), (0x5c0001, 32), (0x49000d, 16), (0x540007, 1088), (0x550005, 256), (0x600008, 64), (0x781001, 32),
    (0x385004, 2), (0xf00002, 8)] 0 with
  | 0 =>
    if b = 0x2030 then decide (5 ≤ n) && decide (n ≤ 1028)
    else if b = 0x3430 then decide (1 ≤ n) && decide (n ≤ 1526)
    else if b = 0x3450 then decide (1 ≤ n) && decide (n ≤ 60) && decide (n % 20 = 0)
    else if b = 0x5010 then decide (64 ≤ n) && decide (n ≤ 16448)
    else if b = 0x5800 then solverRecLen s n
    else if b = 0x5c80 then decide (n = 16 * cfg s 0x5c80 2)
    else true
  | m => decide (n = m)

/-- The longest value a write may carry. -/
def writeMax (b sub : Nat) (ty : OTy) : Nat :=
  if b = 0x3850 ∧ sub = 4 then 2 else otyLen ty

/-- Does a whole value have the length and form of its type? -/
def typeOk (s : State) (b sub : Nat) (ty : OTy) (data : Bytes) : Bool :=
  match ty with
  | .bool => data == [0] || data == [1]
  | .str => decide (data.length ≤ 64) && utf8Invalid (data.length + 1) data == 0
  | .blob _ => blobLenOk s b sub data.length
  | t => decide (data.length = otyLen t)

/-! ## RESERVED_BIT (R8) -/

/-- Bits of a tensor handle: GEN and INDEX (R230). -/
def handleBits : Nat := 0xff03ffff

/-- Bits that a value may set. -/
def valueMask (b sub : Nat) : Option Nat :=
  sel (b * 256 + sub) [
    (0x111001, some 0x0fff), (0x200302, some 0xfff), (0x302002, some 0xffffff), (0x341002, some 0x0f), (0x40000c, some 0x0f),
    (0x40000d, some 0xffffffffffff), (0x541005, some 0xffffffffffff), (0x498001, some handleBits), (0x55000b, some handleBits),
    (0x581001, some handleBits)] none

/-- Bytes of a BLOB that must be 0: the offsets within entries of `n` bytes. -/
def zeroFields (b sub : Nat) : Option (Nat × List Nat) :=
  sel (b * 256 + sub) [
    (0x345004, some (20, [1, 2, 3])), (0x49000d, some (16, (List.range 10).map (· + 6))), (0x550005, some (32, [5, 6, 7])),
    (0x5c8007, some (16, [1, 10, 11, 12, 13, 14, 15])), (0xf00002, some (8, [3, 4, 5, 6, 7]))] none

/-- Header of a record BLOB: offsets that must be 0, and the bits of the byte at 4, FLAGS, that may be set (R312, R331, R351). -/
def recordHeader (b sub : Nat) : Option (List Nat × BitVec 8) :=
  sel (b * 256 + sub) [
    (0x501008, some ((List.range 56).map (· + 8), 3)),
    (0x540007, some ((List.range 59).map (· + 5), 1)),
    (0x58000c, some ([5, 6, 7] ++ (List.range 48).map (· + 16), 1))] none

/-- Are all reserved bits of the value 0? -/
def reservedOk (b sub : Nat) (data : Bytes) : Bool :=
  (match valueMask b sub with
   | some m => leNat data &&& m == leNat data
   | none => true) &&
  (match zeroFields b sub with
   | some (n, offs) => (chunksOf n data).all (fun e => offs.all (fun o => nth 0 e o == 0))
   | none => true) &&
  (match recordHeader b sub with
   | some (offs, m) => offs.all (fun o => nth 0 data o == 0) && nth 0 data 4 &&& ~~~m == 0
   | none => true) &&
  (b * 256 + sub != 0x501008 || nth 0 data 5 != 2 ||
    (chunksOf 32 (bytesAt data 64 (32 * fieldAt data 6 2))).all (fun e => fieldAt e 6 2 == 0)) &&
  (b * 256 + sub != 0x110003 || (chunksOf 2 data).all (fun e => decide (leNat e < 0x1000)))

/-! ## RUNNING: owners of RWS objects -/

/-- Does a job, accepted and uncompleted, have a section or a partition on die d (R26)? -/
def dieBusy (s : State) (d : Nat) : Bool :=
  s.sluice.jobs.any (fun j => j.prog.cert.sections.any (fun x => x.die == d) || j.parts.any (fun p => decide (d ∈ partDies s p)))

/-- Does the function that owns the object run? -/
def ownerRuns (s : State) (b n sub : Nat) : Bool :=
  if b = 0x1020 then (List.range 3).any (fun p => (fabOf s p).running)
  else if b = 0x2100 then (partOf s n).state != .stopped
  else if b = 0x3002 then dieBusy s (sub - 1)
  else if b = 0x3410 then s.as_.running
  else if b = 0x3428 then (timerOf s n).running
  else if b = 0x3430 then (t1Of s n).running
  else if b = 0x3450 then (fabOf s n).running
  else if b = 0x3800 then (if sub ≤ 2 then !(liveTensors s).isEmpty else !s.sluice.jobs.isEmpty)
  else if b = 0x3840 then (match portToward s n with | some p => (fabOf s p).running | none => false)
  else if b = 0x3a20 then poolRuns s n
  else if b = 0x4800 then (camOf s n).state != 0
  else if b = 0x4880 then (List.range 32).any (fun m => camCfg s m 1 == n && (camOf s m).state == 2)
  else if b = 0x4900 then (sampOf s n).running
  else if b = 0x4980 then (List.range 16).any (fun m => (sampOf s m).running && smpIsText s m)
  else if b = 0x5000 ∨ b = 0x5010 ∨ b = 0x5040 then s.fusion.running
  else if b = 0x5400 ∨ b = 0x5410 then s.pump.running
  else if b = 0x5500 then axisEnabled (axisOf s n)
  else if b = 0x5800 then s.solver.running
  else if b = 0x5c40 ∨ b = 0x5c48 ∨ b = 0x5c80 then s.map.running
  else if b = 0x5d00 then (chan s n).state != .stopped
  else if b = 0x6000 then (qget s n).state != .stopped
  else false

/-! ## Ranges -/

def inRange (lo hi v : Nat) : Bool := decide (lo ≤ v) && decide (v ≤ hi)
def multiple (m lo hi v : Nat) : Bool := decide (v % m = 0) && inRange lo hi v
def powerOf2 (lo hi v : Nat) : Bool := inRange lo hi v && v == 2 ^ Nat.log2 v

/-- An own-Cistern address, aligned, whose first `n` bytes lie in the usable area. -/
def ownAddr (s : State) (align n v : Nat) : Bool := decide (v % align = 0) && inUsable s (ownPhysical s v) n

/-- A finite F32 between two rationals. -/
def f32In (lo hi : Rat) (v : Nat) : Bool :=
  let x := f32 (BitVec.ofNat 32 v)
  fpFinite x && decide (lo ≤ fpRat x) && decide (fpRat x ≤ hi)

/-- The rational that an F32 word spells. -/
def f32Rat (v : Nat) : Rat := fpRat (f32 (BitVec.ofNat 32 v))

/-- Ranges of the objects up to 0x3fff; values that a later check judges pass. -/
def rangeLow (s : State) (b n sub v : Nat) : Bool :=
  sel (b * 256 + sub) [
    (0x102001, inRange 0 3 v), (0x110002, inRange 10 60000 v), (0x110004, inRange 100 100000 v),
    (0x210001, inRange 0 3 v),
    (0x210002, inRange 0 (nth 0 [63, 7, 1, 0] (partShape s n)) v),
    (0x300201, multiple 25 400 1000 v), (0x300202, multiple 25 400 1000 v), (0x303002, f32In 85 105 v),
    (0x340002, decide ((signedOf 32 v).natAbs ≤ maxRate)),
    (0x341001, inRange 1 2 v), (0x341005, decide (-7 ≤ signedOf 8 v) && decide (signedOf 8 v ≤ 0)),
    (0x341006, (List.range 4).all (fun x => decide (v / 4 ^ x % 4 ≤ 2))),
    (0x342002, inRange 1 500000 v), (0x342802, inRange 10 4000000 v), (0x342803, inRange 0 2 v),
    (0x343001, inRange 0 1 v), (0x343003, inRange 1 128 v), (0x343005, inRange 0 4094 v), (0x343006, inRange 0 100000 v),
    (0x345001, inRange 0 1 v), (0x345005, inRange 0 7 v),
    (0x380001, decide (v % 0x10000 = 0) && inUsable s v (heapBytes s)), (0x380002, decide (v % 0x10000 = 0) && inUsable s (heapBase s) v),
    (0x380006, inRange 0 (if position s = 0 then 0 else 1000000) v), (0x380007, inRange 0 (if position s = 1 then 0 else 1000000) v),
    (0x380008, inRange 0 (if position s = 2 then 0 else 1000000) v), (0x380009, inRange 0 (if position s = 3 then 0 else 1000000) v),
    (0x384001, decide (v % 4096 = 0) && inUsable s v (cfg s (0x3840 + n) 2)),
    (0x384002, decide (v % 4096 = 0) && inUsable s (cfg s (0x3840 + n) 1) v),
    (0x384003, decide (v % 4096 = 0) && inUsable s v (cfg s (0x3840 + n) 4)),
    (0x384004, decide (v % 4096 = 0) && inUsable s (cfg s (0x3840 + n) 3) v),
    (0x3a2001, decide (v % 0x200000 = 0)), (0x3a2002, v == 3 || v == 4 || v == 9 || v == 0xa), (0x3a2003, powerOf2 4096 2097152 v),
    (0x3a2004, powerOf2 64 32768 v), (0x3a2005, inRange 1 128 v), (0x3a2008, inRange 0 1048575 v), (0x3a2009, inRange 1 16383 v)] true

/-- LEVEL of fusion group n, beside the ELEMENTS and TOLERANCE that stand (R310). -/
def levelOk (s : State) (n v : Nat) : Bool :=
  v == 0xff || v == 0 || (v == 1 && f32In (-1) 1 (cfg s (0x5040 + n) 3)) || (v == 2 && decide (cfg s (0x5040 + n) 2 ≤ 64))

/-- Ranges of the objects from 0x4000 to 0x53ff. -/
def rangeMid (s : State) (b n sub v : Nat) : Bool :=
  sel (b * 256 + sub) [
    (0x40000a, v == 0 || inRange 10 10000 v), (0x40000e, inRange 1000 100000 v),
    (0x480001, inRange 0 11 v), (0x480002, inRange 0 15 v), (0x480003, v == 0x1e || v == 0x2a || v == 0x2b || v == 0x2c),
    (0x480004, multiple 2 16 8192 v), (0x480005, multiple 2 16 8192 v), (0x480006, inRange 0 1 v), (0x480007, inRange 0 3 v),
    (0x480008, inRange 0 1 v), (0x480009, inRange 16 512 v), (0x48000a, inRange 16 512 v), (0x48000b, ownAddr s 64 64 v),
    (0x48000c, inRange 1 4 v), (0x48000d, decide (v % 64 = 0)), (0x48000e, inRange 2 64 v),
    (0x488001, inRange 1 3 v),
    (0x490001, inRange 0 1 v), (0x490002, ownAddr s 4096 64 v), (0x490003, powerOf2 16 65536 v), (0x490004, inRange 16 8192 v),
    (0x490005, inRange 16 8192 v), (0x490006, inRange 0 1 v), (0x490007, inRange 1 65536 v), (0x490009, inRange 1 256 v),
    (0x49000a, inRange 100 100000 v), (0x49000b, inRange 0 2 v), (0x49000e, decide (v % 64 = 0)), (0x49000f, inRange 2 64 v),
    (0x500001, multiple 10 100 100000 v && decide (cfg s 0x5000 2 < v)),
    (0x500002, decide (v % 10 = 0) && decide (v < cfg s 0x5000 1)),
    (0x500003, ownAddr s 4096 0x42000 v), (0x500004, inRange 0 1 v),
    (0x501001, inRange 0 7 v || v == 0xff), (0x501002, inRange 0 1 v), (0x501003, ownAddr s 64 64 v), (0x501004, inRange 1 255 v),
    (0x501005, inRange 10 1000000 v),
    (0x504001, levelOk s n v), (0x504002, inRange 1 (if groupLevel s n = 2 then 64 else 4096) v),
    (0x504003, groupLevel s n != 1 || f32In (-1) 1 v)] true

/-- Ranges of the objects from 0x5400 on. -/
def rangeHigh (s : State) (b n sub v : Nat) : Bool :=
  sel (b * 256 + sub) [
    (0x540001, inRange 0 1 v), (0x540002, ownAddr s 64 cmdLen v), (0x540003, inRange 10 100000 v), (0x540004, inRange 10 100000 v),
    (0x540006, inRange 1 1000 v),
    (0x541001, inRange 0 4 v || v == 0xff),
    (0x541002, decide (v % 62500 = 0) && (!(groupUsed s n) || decide (v < groupPeriod s n))),
    (0x541003, inRange 4000 (if groupUsed s n then groupPeriod s n else 1000000) v), (0x541004, inRange 2 3 v),
    (0x550001, inRange 0 7 v || v == 0xff), (0x550003, inRange 0 7 v), (0x550004, inRange 10 100000 v), (0x550006, inRange 0 7 v),
    (0x550007, inRange 0 1 v), (0x550008, sourceOk (axisLaw s n) v), (0x550009, sourceOk (axisLaw s n) v),
    (0x580001, multiple 10 100 10000 v && decide (cfg s 0x5800 2 < v)),
    (0x580002, decide (v % 10 = 0) && decide (v < cfg s 0x5800 1)),
    (0x580003, inRange 0 1 v), (0x580004, ownAddr s 64 64 v), (0x580005, inRange 10 100000 v), (0x580006, inRange 0 64 v),
    (0x580007, inRange 100 1000000 v), (0x580008, ownAddr s 64 64 v), (0x580009, inRange 1 1000 v), (0x58000b, inRange 0 1 v),
    (0x5c4001, inRange 0x3c23d70a 0x3e4ccccd v), (0x5c4002, multiple 8 8 128 v), (0x5c4003, multiple 8 8 128 v),
    (0x5c4004, multiple 8 8 128 v), (0x5c4008, v != 0), (0x5c4009, decide (v % 0x10000 = 0)), (0x5c400a, inRange 1 4096 v),
    (0x5c4801, ownAddr s 4096 64 v), (0x5c4802, powerOf2 16 4096 v),
    (0x5c8001, inRange 1 48 v), (0x5c8002, inRange 1 256 v), (0x5c8003, inRange 1 65536 v),
    (0x5d0001, inRange 1 8 v), (0x5d0002, ownAddr s 4096 0x8000 v), (0x5d0003, ownAddr s 4096 0x101000 v), (0x5d0004, inRange 0 2 v),
    (0x5d0006, inRange 10 200000 v),
    (0x5d0007, v == 0 || multiple 10 10 1000000 v),
    (0x5d0008, decide (v % 10 = 0) && (selCfg s n 7 == 0 || decide (v < selCfg s n 7))),
    (0x600002, inRange 0 2 v), (0x600004, inRange 1 256 v)] true

/-- Is a numeric value inside its object's range? -/
def rangeOk (s : State) (b n sub v : Nat) : Bool :=
  if b < 0x4000 then rangeLow s b n sub v else if b < 0x5400 then rangeMid s b n sub v else rangeHigh s b n sub v

/-! ## Rules over several fields -/

/-- PEERS: positions 0 to 3 (R383). -/
def peersOk (data : Bytes) : Bool := (chunksOf 20 data).all (fun e => decide ((nth 0 e 0).toNat < 4))

/-- Does a replica's footprint keep clear of the reserve and end by 0x3f_0000 (R195)? -/
def footprintOk (s : State) : Bool :=
  decide (mapOffset s + mapFootprint s ≤ rollbackOff) && !(overlaps (mapOffset s) (mapFootprint s) reserveOff (rollbackOff - reserveOff))

/-- The planner limits of R202. -/
def plannerOk (s : State) : Bool :=
  let voxel := f32Rat (cfg s 0x5c40 1)
  let margin := f32Rat (cfg s 0x5c80 4)
  let step := f32Rat (cfg s 0x5c80 5)
  fpFinite (f32 (BitVec.ofNat 32 (cfg s 0x5c80 4))) && fpFinite (f32 (BitVec.ofNat 32 (cfg s 0x5c80 5))) &&
  decide (7 / 8 * voxel + step / 2 ≤ margin) && decide (0 < step) && decide (step ≤ voxel / 2) &&
  (chunksOf 16 (cfgBytes s 0x5c80 7)).all (fun e =>
    let r : Nat := fieldAt e 2 2
    decide ((nth 0 e 0).toNat ≤ 63) && inRange 1 2000 r && decide ((r : Rat) / 1000 + margin ≤ 127 / 16 * voxel))

/-- Rules that a write of the map's or planner's configuration must leave true (R195, R202). -/
def mapConfigOk (s : State) : Bool :=
  decide (mapDim s 0 * mapDim s 1 * mapDim s 2 ≤ 1048576) && footprintOk s && plannerOk s

/-- Record ranges of the fusion inputs, and the output area (R311, R318). -/
def fusionClear (s : State) : Bool :=
  let rs := (List.range 16).map (recordRange s)
  (List.range 16).all (fun i => match nth none rs i with
    | none => true
    | some (a, n) =>
      !(overlaps a n (ownPhysical s (fusionOut s)) 0x42000) &&
      (List.range i).all (fun j => match nth none rs j with | none => true | some (c, m) => !(overlaps a n c m)))

/-- A fusion configuration that leaves two ranges overlapping aborts CONFLICT (R311). -/
def fusionConfig (idx sub : Nat) (data : Bytes) (s : State) : WRes :=
  let s' := setCfg idx sub data s
  if !(fusionClear s') then .abort abConflict else .done [] s'

/-- The output rings of the 32 camera and 16 sample streams: address and length (R282, R302). -/
def ringOf (s : State) (m : Nat) : Nat × Nat :=
  if m < 32 then ((camGeom s m).ring, ringBytes (camGeom s m).slots (camSlotBytes (camGeom s m)))
  else (ownPhysical s (sampCfg s (m - 32) 0x0e), ringBytes (sampCfg s (m - 32) 0x0f) (sampSlotBytes s (m - 32)))

/-- Does ring m lie in the usable area, or in one cluster's SRAM below the reserve and clear of map and BASIN replicas (R282)? -/
def ringPlaced (s : State) (m : Nat) : Bool :=
  let r := ringOf s m
  inUsable s r.1 r.2 ||
  (List.range 64).any (fun k =>
    decide (clusterBase k ≤ r.1) && decide (r.1 + r.2 ≤ clusterBase k + reserveOff) &&
    !(meetsMap s k (r.1 - clusterBase k) r.2) && !(inReplica s k (r.1 - clusterBase k) r.2))

/-- Two rings that overlap in s' and did not in s. -/
def ringsMeet (s s' : State) (m : Nat) : Bool :=
  (List.range 48).any (fun j => j != m &&
    overlaps (ringOf s' m).1 (ringOf s' m).2 (ringOf s' j).1 (ringOf s' j).2 &&
    !(overlaps (ringOf s m).1 (ringOf s m).2 (ringOf s j).1 (ringOf s j).2))

/-- Another camera stream, not STOPPED, with the PORT and VC of stream n (R282). -/
def portTaken (s : State) (n : Nat) : Bool :=
  (List.range 32).any (fun m => m != n && (camOf s m).state != 0 && camCfg s m 1 == camCfg s n 1 && camCfg s m 2 == camCfg s n 2)

/-- A stream's configuration is set (R282). Stream m counts cameras first. -/
def streamConfig (m idx sub : Nat) (data : Bytes) (s : State) : WRes :=
  let s' := setCfg idx sub data s
  let ringSub : Bool := if m < 32 then sub == 0x0d || sub == 0x0e else sub == 0x0e || sub == 0x0f
  if (ringSub && !(ringPlaced s' m)) || ringsMeet s s' m then .abort abValueRange
  else if m < 32 ∧ (sub = 1 ∨ sub = 2) ∧ portTaken s' m then .abort abConflict
  else .done [] s'

/-- Does T1 port x's launch queue belong to host timed frames (R376)? -/
def timedHolds (s : State) (x : Nat) : Bool := cfg s (0x3430 + x) 7 == 1

/-- Does a Pump group, in use or not, name a port whose queue TIMED holds (R346, R376)? -/
def launchTaken (s : State) : Bool := (List.range 8).any (fun g => timedHolds s (groupPort s g))

/-- A Pump group's configuration is set (R345, R346). RATE must leave OFFSET and LATENCY inside its period. -/
def groupConfig (idx sub : Nat) (data : Bytes) (g : Nat) (s : State) : WRes :=
  let s' := setCfg idx sub data s
  if groupUsed s' g ∧ (groupPeriod s' g ≤ groupOffset s' g ∨ groupPeriod s' g < groupLatency s' g) then .abort abValueRange
  else if sub = 4 ∧ timedHolds s (groupPort s' g) then .abort abConflict
  else .done [] s'

/-- The configuration of axis n is set (R346, R352, R361). While an enable is pending a LAW whose COMP stages lack tables is refused. -/
def axisConfig (idx sub : Nat) (data : Bytes) (n : Nat) (s : State) : WRes :=
  let s' := setCfg idx sub data s
  if sub = 5 ∧ (!(lawOk data) ∨ (axisOf s n).pending = some true ∧ !(compOk s' n)) then .abort abValueRange
  else if sub = 1 ∧ leNat data < 8 ∧ 16 < (groupAxes s' (leNat data)).length then .abort abValueRange
  else if (sub = 1 ∨ sub = 5) ∧ s.pump.running ∧ !(loadOk s') then .abort abValueRange
  else .done [] s'

/-- A solver PERIOD must leave both LOADED slots their bound (R330). -/
def solverPeriodOk (s : State) (v : Nat) : Bool :=
  (List.range 2).all (fun k => (schedSlot s k).state != .loaded || slotMeets s k v)

/-! ## Commands of the function controls -/

def mapControl (code : Nat) (s : State) : WRes :=
  match code with
  | 1 => .done [] (mapStart s)
  | 2 => .done [] (mapStop s)
  | _ => .abort abValueRange

def selectorControl (ch code : Nat) (s : State) : WRes :=
  match code with
  | 1 => .done [] (startChannel ch s)
  | 2 => .done [] (stopChannel ch s)
  | _ => .abort abValueRange

/-- CONTROL of camera stream n (R281, R282, R306). As with every function's CONTROL, a start is accepted while its power domain is off;
the function then takes nothing in and does nothing until the domain is on (R19; log 54). -/
def cameraControl (n code : Nat) (s : State) : WRes :=
  match code with
  | 1 =>
    if (camOf s n).state ≠ 0 then .done [] s
    else if portTaken s n then .abort abConflict
    else .done [] (camStart n s)
  | 2 => .done [] (if (camOf s n).state = 0 then s else camStop n s)
  | _ => .abort abValueRange

/-- CONTROL of sample stream n (R288, R294, R306). -/
def sampleControl (n code : Nat) (s : State) : WRes :=
  match code with
  | 1 =>
    if (sampOf s n).running then .done [] s
    else if smpIsText s n ∧ !s.wellhead.loaded then .abort abConflict
    else .done [] (sampleStart n s)
  | 2 => .done [] (if (sampOf s n).running then sampleStop n s else s)
  | 3 => .done [] (if (sampOf s n).running then flushStream n s else s)
  | _ => .abort abValueRange

/-- CONTROL of the tokenizer: a load (R294). -/
def dictControl (code : Nat) (s : State) : WRes :=
  if code ≠ 1 then .abort abValueRange
  else match loadDict s with
    | some s => .done [] s
    | none => .abort abValueRange

def fusionControl (code : Nat) (s : State) : WRes :=
  match code with
  | 1 => .done [] (if s.fusion.running then s else fusionStart s)
  | 2 => .done [] (if s.fusion.running then fusionStop s else s)
  | _ => .abort abValueRange

/-- RECORD of a fusion input: only a SOURCE 1 input of a running unit takes it (R311, R313). -/
def fusionRecord (i : Nat) (data : Bytes) (s : State) : WRes :=
  if cfg s (0x5010 + i) 2 = 0 ∨ !s.fusion.running then .abort abConflict else .done [] (fusionTake i data s)

/-- CONTROL of the solver (R330, R340). -/
def solverControl (code : Nat) (s : State) : WRes :=
  match code with
  | 1 =>
    if s.solver.running then .done [] s
    else if slotMeets s (solverSel s) (cfg s 0x5800 1) then .done [] (solverStart s)
    else .abort abValueRange
  | 2 => .done [] (if s.solver.running then solverStop s else s)
  | _ => .abort abValueRange

/-- SELECT (R327, R330). -/
def solverSelect (v : Nat) (s : State) : WRes :=
  if s.solver.running ∧ !(slotMeets s v (cfg s 0x5800 1)) then .abort abValueRange
  else .done [] (setCfg 0x5800 0x0b (leBytes 1 v) s)

/-- RECORD of the solver (R331). -/
def solverRecord (data : Bytes) (s : State) : WRes :=
  if cfg s 0x5800 3 = 0 then .abort abConflict else .done [] (solverTake data s)

/-- HANDLE and CONTROL of a schedule slot; the SELECTed one is closed to both while the solver runs (R328). -/
def scheduleWrite (k sub : Nat) (data : Bytes) (s : State) : WRes :=
  if sub = 2 ∧ leNat data ≠ 1 then .abort abValueRange
  else if s.solver.running ∧ solverSel s = k then .abort abConflict
  else if sub = 1 then .done [] (setCfg (0x5810 + k) 1 data s)
  else .done [] (loadSchedule k s)

/-- CONTROL of the engine (R346, R361). -/
def pumpControl (code : Nat) (s : State) : WRes :=
  match code with
  | 1 =>
    if s.pump.running then .done [] s
    else if !(loadOk s) then .abort abValueRange
    else if launchTaken s then .abort abConflict
    else .done [] (pumpStart s)
  | 2 => .done [] (if s.pump.running then pumpStop s else s)
  | _ => .abort abValueRange

/-- CMD_RECORD: taken in by a running engine with CMD_SOURCE 1 (R313, R344, R351). -/
def pumpRecord (data : Bytes) (s : State) : WRes :=
  .done [] (if cfg s 0x5400 1 = 1 then pumpTake data s else s)

/-- May axis n be enabled (R359)? -/
def mayEnable (s : State) (n : Nat) : Bool :=
  s.pump.running && decide (axisCfg s n 1 < 8) && groupUsed s (axisCfg s n 1) && compOk s n

def axisStopped (a : Axis) : Bool := !(axisEnabled a)

/-- CONTROL of axis n (R357, R359): an enable or disable takes effect at the group's next sample. -/
def axisControl (n code : Nat) (s : State) : WRes :=
  match code with
  | 1 =>
    if s.resetting.getLsbD 10 then .done [] s
    else if mayEnable s n then .done [] (axisMod n (fun a => { a with pending := if axisStopped a then some true else none }) s)
    else .abort abValueRange
  | 2 => .done [] (axisMod n (fun a => { a with pending := if axisStopped a then none else some false }) s)
  | 3 => if axisStopped (axisOf s n) then .done [] (loadTables n s) else .abort abConflict
  | _ => .abort abValueRange

/-- CONTROL of 802.1AS. -/
def asControl (code : Nat) (s : State) : WRes :=
  match code with
  | 1 => .done [] (asStart s)
  | 2 => .done [] (asStop s)
  | _ => .abort abValueRange

/-- A subscription mask is its own session's (R466, R483). -/
def maskWrite (k j : Nat) (data : Bytes) (s : State) : WRes :=
  if j = k then .done [] (smod k (fun e => { e with mask := BitVec.ofNat 256 (leNat data) }) s) else .abort abConflict

/-- CLOSE of session j (R469). -/
def closeWrite (j v : Nat) (s : State) : WRes := if v = 1 then .done [] (closeSession j s) else .abort abValueRange

/-- A queue's :01-:04 (R41): CONFLICT while OCCUPANCY is not 0. -/
def queueWrite (q sub : Nat) (data : Bytes) (s : State) : WRes :=
  if occupancy s q = 0 then .done [] (queueConfig q sub data s) else .abort abConflict

/-- Does the clock belong to the 802.1AS servo (R367)? -/
def servoOwns (s : State) : Bool := s.clock.state == .locking || s.clock.state == .locked

/-! ## The effect of a write that passed the common checks -/

/-- Identity, sessions, device state and partitions. -/
def writeDevice (k b n sub : Nat) (data : Bytes) (s : State) : WRes :=
  let v := leNat data
  if b = 0x1180 then (if sub = 6 then maskWrite k n data s else closeWrite n v s)
  else if b = 0x2000 then resetCommand v s
  else if b = 0x2001 then changeCommand data s
  else if b = 0x2002 then (if sub = 3 then minSvnCommand v s else revokeCommand v s)
  else if b = 0x2003 then .done [] (clearEvents (BitVec.ofNat 32 v) s)
  else if b = 0x2010 then functionReset k v s
  else if b = 0x2030 then (if sub = 1 then updateControl k v s else updateChunk k data s)
  else if b = 0x2100 then
    if sub = 3 then partControl n v s
    else if sub = 1 then .done [] (setCfg (0x2100 + n) 2 [0] (setCfg (0x2100 + n) 1 data s))
    else .done [] (setCfg (0x2100 + n) 2 data s)
  else .done [] (setCfg (b + n) sub data s)

/-- Power, time and ports. -/
def writeTime (b n sub : Nat) (data : Bytes) (s : State) : WRes :=
  let v := leNat data
  let set : WRes := .done [] (setCfg (b + n) sub data s)
  if b = 0x3000 then capCommand (sub == 2) v s
  else if b = 0x3001 ∧ sub = 1 then standbyControl v s
  else if b = 0x3020 then domainsWrite (BitVec.ofNat 32 v) s
  else if b = 0x3400 then
    if servoOwns s then .abort abConflict
    else if sub = 2 then set
    else .done [] (clockAdjust (signedOf 64 v) s)
  else if b = 0x3410 ∧ sub = 0x0b then asControl v s
  else if b = 0x3420 ∧ sub = 1 then ppsEnable v s
  else if b = 0x3428 ∧ sub = 5 then timerControl n v s
  else if b = 0x3430 then
    if sub = 9 then timedFrame n data s
    else if sub = 0x0b then t1Control n v s
    else if sub = 7 ∧ v = 1 ∧ groupsOn s n ≠ [] then .abort abConflict
    else set
  else if b = 0x3450 then
    if sub = 8 then fabControl n v s
    else if sub = 4 ∧ !(peersOk data) then .abort abValueRange
    else set
  else set

/-- Memory tiers, streams and pages, as session k writes them. -/
def writeMemoryObj (k b n sub : Nat) (data : Bytes) (s : State) : WRes :=
  let v := leNat data
  if b = 0x3810 then dirCommand k data s
  else if b = 0x3850 then
    if sub = 1 then .done [] (deleteObject v s) else .done [] (selectEntry k (BitVec.ofNat 16 v) s)
  else if b = 0x3a00 then streamCommand k data s
  else if b = 0x3a20 then poolWrite n sub data s
  else if b = 0x3a28 then seqCommand k data s
  else .done [] (setCfg (b + n) sub data s)

/-- Safety and ingest. -/
def writeSafety (k b n sub : Nat) (data : Bytes) (s : State) : WRes :=
  let v := leNat data
  if b = 0x4000 then
    if sub = 7 then safeCommand k v s
    else if sub = 8 then clearCommand v s
    else if sub = 9 then triggersCommand (BitVec.ofNat 32 v) s
    else .done [] (setCfg 0x4000 sub data s)
  else if b = 0x4800 then (if sub = 0x10 then cameraControl n v s else streamConfig n (b + n) sub data s)
  else if b = 0x4900 then (if sub = 0x11 then sampleControl n v s else streamConfig (32 + n) (b + n) sub data s)
  else if b = 0x4980 ∧ sub = 2 then dictControl v s
  else .done [] (setCfg (b + n) sub data s)

/-- Fusion, the Pump engine and the solver. -/
def writeMotion (b n sub : Nat) (data : Bytes) (s : State) : WRes :=
  let v := leNat data
  let set : WRes := .done [] (setCfg (b + n) sub data s)
  if b = 0x5000 ∧ sub = 7 then fusionControl v s
  else if b = 0x5010 ∧ sub = 8 then fusionRecord n data s
  else if b = 0x5000 ∨ b = 0x5010 ∨ b = 0x5040 then fusionConfig (b + n) sub data s
  else if b = 0x5400 then (if sub = 8 then pumpControl v s else if sub = 7 then pumpRecord data s else set)
  else if b = 0x5410 then groupConfig (b + n) sub data n s
  else if b = 0x5500 then (if sub = 0x0c then axisControl n v s else axisConfig (b + n) sub data n s)
  else if b = 0x5810 then scheduleWrite n sub data s
  else if sub = 0x0d then solverControl v s
  else if sub = 0x0c then solverRecord data s
  else if sub = 0x0b then solverSelect v s
  else if sub = 1 ∧ !(solverPeriodOk s v) then .abort abValueRange
  else set

/-- Planner, Selector, queues, attestation and DESCRIBE. -/
def writeRest (k b n sub : Nat) (data : Bytes) (s : State) : WRes :=
  let v := leNat data
  if b = 0x5c00 then tableCommand k data s
  else if b = 0x5c40 ∧ sub = 0x0b then mapControl v s
  else if b = 0x5c40 ∨ b = 0x5c80 then
    if !(mapConfigOk (setCfg b sub data s)) then .abort abValueRange else .done [] (setCfg b sub data s)
  else if b = 0x5d00 then
    if sub = 0x0a then selectorControl n v s
    else if sub = 7 ∧ v ≠ 0 ∧ v ≤ selCfg s n 8 then .abort abValueRange
    else if sub = 4 ∧ v = 0 ∧ (List.range 16).any (fun c => c != n && selCfg s c 4 == 0) then .abort abConflict
    else .done [] (setCfg (b + n) sub data s)
  else if b = 0x6000 then
    if sub = 5 then queueControl n v s
    else if sub = 8 then .wait (arrive k n (parseDesc data) none s)
    else if sub = 9 then cancelJob n (BitVec.ofNat 32 v) s
    else queueWrite n sub data s
  else if b = 0x7810 then quoteCommand data s
  else if b = 0xf000 then .done [] (smod k (fun e => { e with describe := describeBytes (fieldAt data 0 2) (fieldAt data 2 1) }) s)
  else .done [] (setCfg (b + n) sub data s)

/-- What a write does once the checks of R474 up to the object's own rules have passed. -/
def writeEffect (k idx sub : Nat) (data : Bytes) (s : State) : WRes :=
  let b := (famBase idx).1
  let n := (famBase idx).2
  if b < 0x3000 then writeDevice k b n sub data s
  else if b < 0x3800 then writeTime b n sub data s
  else if b < 0x4000 then writeMemoryObj k b n sub data s
  else if b < 0x5000 then writeSafety k b n sub data s
  else if b < 0x5c00 then writeMotion b n sub data s
  else writeRest k b n sub data s

/-! ## The checks (R474) -/

/-- Is the queue another client's (R467)? -/
def notOwner (s : State) (k idx sub : Nat) : Bool :=
  (famBase idx).1 == 0x6000 && decide (8 ≤ sub) && decide (sub ≤ 0x0a) && queueClient s (famBase idx).2 != clientOf s k

/-- Checks 4 to 10 of a write: the object's type and access, or the abort. -/
def writeTarget (s : State) (k idx sub : Nat) (data : Bytes) : Except (BitVec 32) (OTy × OAcc) :=
  if !(reachable s idx sub) then .error abConflict
  else if !(idxDefined idx) then .error abNoObject
  else match objDef idx sub with
    | none => .error abNoSubindex
    | some (_, .ro, _) => .error abReadOnly
    | some (ty, acc, _) =>
      if !(hasRight s k (writeRight k idx sub data)) then .error abRights
      else if notOwner s k idx sub then .error abNotOwner
      else .ok (ty, acc)

/-- Checks 4 to 10 of a read. -/
def readTarget (s : State) (k idx sub : Nat) : Except (BitVec 32) OTy :=
  if !(reachable s idx sub) then .error abConflict
  else if !(idxDefined idx) then .error abNoObject
  else match objDef idx sub with
    | none => .error abNoSubindex
    | some (_, .wo, _) => .error abWriteOnly
    | some (ty, _, _) =>
      if !(hasRight s k (readRight idx sub)) then .error abRights
      else if notOwner s k idx sub then .error abNotOwner
      else .ok ty

/-- A whole value written by session k: the checks of R474 in their order, then the effect. -/
def writeValue (k idx sub : Nat) (data : Bytes) (s : State) : WRes :=
  let b := (famBase idx).1
  let n := (famBase idx).2
  match writeTarget s k idx sub data with
  | .error e => .abort e
  | .ok (ty, acc) =>
    if !(typeOk s b sub ty data) then .abort abType
    else if !(reservedOk b sub data) then .abort abReservedBit
    else if acc = .rws ∧ ownerRuns s b n sub then .abort abRunning
    else if !(otyVar ty) ∧ !(rangeOk s b n sub (leNat data)) then .abort abValueRange
    else writeEffect k idx sub data s

end Sys2Proof.Machine
end

