-- ==== Sys2Proof/Machine/Host.lean ====
section
/-!
DEFINITION. Sys2Proof/Machine/Host.lean: Ixide frames, sessions and requests (R462-R475), notify frames (R476-R478), frames received
on T1 and fabric ports (R377, R382), and the dictionary's host commands.
-/

namespace Sys2Proof.Machine

/-! ## What a request ends in -/

/-- The end of an executed request: an abort, which may still abandon a transfer; an answer; or an answer that comes later. -/
inductive ReqRes where
  | abort (code : BitVec 32) (s : State)
  | done (r : Reply) (s : State)
  | wait (s : State)
  deriving Repr

/-- Answers the request of slot k: the session as it was addressed in `s0` where the request itself closed it (R450, R469). -/
def respond (k : Nat) (s0 : State) (r : Reply) (s : State) : State :=
  if (sess s k).open_ ∧ (sess s k).gen = (sess s0 k).gen then answer k r s
  else ixSend (sess s0 k).port (sess s0 k).source (ixFrame s0 k 5 (sess s0 k).last (stamp s0) (responsePayload r)) s

def settle (k : Nat) (s0 : State) : ReqRes → State
  | .abort c s => abort k c s
  | .done r s => respond k s0 r s
  | .wait s => s

/-- A frame of session k has come: its silence ends, and HOST_WD's where its client is listed and its port is A or B (R434, R469). -/
def heardFrom (k : Nat) (s : State) : State :=
  let s := smod k (fun e => { e with heard := now s }) s
  if (sess s k).port.val < 2 ∧ (cfg s 0x4000 0x0b).testBit (clientOf s k) then
    { s with island := { s.island with hostHeard := now s } }
  else s

/-- A RESPONSE with abort SEQUENCE to the source of the request, not cached (R462, R468). -/
def refuseSeq (k : Nat) (seq : BitVec 32) (src : Bytes) (s : State) : State :=
  count 0x741e 4 1 (ixSend (sess s k).port src (ixFrame s k 5 seq (stamp s) (responsePayload { abort := abSequence })) s)

/-- The request `seq` of slot k from address `src` is taken for execution (R468). -/
def takeReq (k : Nat) (seq : BitVec 32) (src : Bytes) (s : State) : State :=
  smod k (fun e => { e with last := seq, busy := true, source := src }) s

/-- A request executes (R468). -/
def runTaken (k : Nat) (f : State → ReqRes) (s : State) : State := settle k s (f s)

/-- Can a frame of session k reach the module? -/
def reachesModule (s : State) (k : Nat) : Bool := t1Up s (sess s k).port.val

/-- The next request of slot k, as a command of the table: its SEQ is Last + 1 and it comes from the session's peer. A closed slot's
frame is dropped (R464), a busy session's is refused (R468). -/
def runReq (k : Nat) (f : State → ReqRes) (s : State) : State :=
  if !(sess s k).open_ then
    (if (List.range 4).any (t1Up s) then count 0x741e 3 1 (count 0x741e 1 1 s) else s)
  else if !(reachesModule s k) then s
  else
    let s := heardFrom k (count 0x741e 1 1 s)
    if (sess s k).busy then refuseSeq k ((sess s k).last + 1) (sess s k).peer s
    else runTaken k f (takeReq k ((sess s k).last + 1) (sess s k).peer s)

/-! ## Operations (R470-R472, R507) -/

/-- The operation's fields agree with OP (R507). -/
def opOk (o : IxideOp) : Bool :=
  let op := o.op.toNat
  let n := o.count.toNat
  let mem := decide (op = 3) || decide (op = 4)
  let write := decide (op = 2) || decide (op = 4)
  decide (1 ≤ op) && decide (op ≤ 4) && decide (o.flags.toNat < 2) && o.rsv0 == 0 && o.rsv1 == 0 &&
  decide (n ≤ 1024) && (decide (op = 2) || decide (1 ≤ n)) && decide (o.data.length = if write then n else 0) &&
  (!mem || (o.index == 0 && o.sub == 0 && o.offset == 0 && o.flags == 0 && decide (o.address.toNat < 2 ^ 48))) &&
  (mem || o.address == 0) && (decide (op ≠ 1) || o.flags == 0)

def opKey (o : IxideOp) : Nat := objKey o.index.toNat o.sub.toNat

/-- Is the object a STR or BLOB? -/
def isVar (idx sub : Nat) : Bool := match objDef idx sub with | some (ty, _, _) => otyVar ty | none => false

/-- A segment out of place (R471): an operation that does not continue the transfer, a write or read past OFFSET 0 with nothing to
continue. -/
def segmentBad (s : State) (k : Nat) (o : IxideOp) : Bool :=
  let off := o.offset.toNat
  match (sess s k).transfer with
  | some (key, b) => !(o.op == 2 && key == opKey o && off == b.length)
  | none =>
    decide (off ≠ 0) && isVar o.index.toNat o.sub.toNat &&
    (o.op == 2 || (o.op == 1 && (match (sess s k).snapshot with | some (key, _) => key != opKey o | none => true)))

/-- READ (R471). -/
def readOp (k : Nat) (o : IxideOp) (s : State) : ReqRes :=
  let idx := o.index.toNat
  let sub := o.sub.toNat
  let off := o.offset.toNat
  let n := o.count.toNat
  match readTarget s k idx sub with
  | .error e => .abort e s
  | .ok ty =>
    if otyVar ty then
      if off = 0 then
        let (v, s) := readValue k idx sub s
        .done { data := v.take n, total := v.length } (smod k (fun e => { e with snapshot := some (opKey o, v) }) s)
      else
        let v := match (sess s k).snapshot with | some (_, v) => v | none => []
        .done { data := bytesAt v off n, total := v.length } s
    else if off ≠ 0 ∨ n ≠ otyLen ty then .abort abType s
    else
      let (v, s) := readValue k idx sub s
      .done { data := v } s

def ofWRes (s : State) : WRes → ReqRes
  | .abort c => .abort c s
  | .done d s => .done { data := d } s
  | .wait s => .wait s

/-- WRITE (R471): checks 4 to 11 on every segment, the rest on the last. -/
def writeOp (k : Nat) (o : IxideOp) (s : State) : ReqRes :=
  let idx := o.index.toNat
  let sub := o.sub.toNat
  let more := o.flags.getLsbD 0
  let old := match (sess s k).transfer with | some (_, b) => b | none => []
  let data := old ++ o.data
  let s := smod k (fun e => { e with transfer := none }) s
  match writeTarget s k idx sub data with
  | .error e => .abort e s
  | .ok (ty, _) =>
    if !(otyVar ty) ∧ (more ∨ o.offset ≠ 0) then .abort abType s
    else if writeMax (famBase idx).1 sub ty < data.length then .abort abType s
    else if more then .done {} (smod k (fun e => { e with transfer := some (opKey o, data) }) s)
    else ofWRes s (writeValue k idx sub data s)

/-- MEM_READ (R472): a poisoned line is a failure event that strikes the access (R228, R474). -/
def memReadOp (k : Nat) (o : IxideOp) (s : State) : ReqRes :=
  let n := o.count.toNat
  if s.boot.state = .recovery then .abort abConflict s
  else if !(hasRight s k 3) then .abort abRights s
  else
    let pl := placeOf s o.address.toNat n
    match pl with
    | .cistern _ | .tensor _ _ =>
      match poisonHit s {} pl n with
      | some sc => .abort 0x06000001 (failureEvent (unitOf 4 sc) .uncorrectable false none s)
      | none =>
        let (v, s) := readPlace {} pl n s
        .done { data := v } s
    | _ => .abort abAddress s

/-- MEM_WRITE (R472): the usable area outside the tensor heap. -/
def memWriteOp (k : Nat) (o : IxideOp) (s : State) : ReqRes :=
  let n := o.count.toNat
  if s.boot.state = .recovery then .abort abConflict s
  else if !(hasRight s k 4) then .abort abRights s
  else match placeOf s o.address.toNat n with
    | .cistern a =>
      if overlaps a n (heapBase s) (heapBytes s) then .abort abAddress s
      else .done {} (pokeCistern a o.data s)
    | _ => .abort abAddress s

/-- One operation of session k: SEGMENT, OPERATION, then its own checks (R474). -/
def operation (k : Nat) (o : IxideOp) (s : State) : ReqRes :=
  let drop := smod k (fun e => { e with transfer := none }) s
  if segmentBad s k o then .abort abSegment drop
  else if !(opOk o) then .abort abOperation drop
  else match o.op.toNat with
    | 1 => readOp k o s
    | 2 => writeOp k o s
    | 3 => memReadOp k o s
    | _ => memWriteOp k o s

/-- A whole value written to an object, its segments joined. -/
def wholeWrite (k idx sub : Nat) (data : Bytes) (s : State) : ReqRes :=
  if (sess s k).transfer.isSome then .abort abSegment (smod k (fun e => { e with transfer := none }) s)
  else ofWRes s (writeValue k idx sub data s)

/-- The dictionary write that a command of the table makes. -/
def hostWrite (k idx sub : Nat) (data : Bytes) (s : State) : State := runReq k (wholeWrite k idx sub data) s

/-- A read of an object from OFFSET 0. -/
def readCmd (idx sub n : Nat) : IxideOp :=
  { op := 1, flags := 0, index := BitVec.ofNat 16 idx, sub := BitVec.ofNat 8 sub, rsv0 := 0, count := BitVec.ofNat 16 n, offset := 0,
    rsv1 := 0, address := 0, data := [] }

def hostRead (k idx sub n : Nat) (s : State) : State := runReq k (operation k (readCmd idx sub n)) s

/-! ## Frames (R462-R465, R468, R469) -/

/-- Is the frame well formed (R464)? -/
def frameOk (f : Bytes) : Bool :=
  let ty := fieldAt f 1 1
  let len := fieldAt f 0x0c 2
  decide (16 ≤ f.length) && decide (fieldAt f 0 1 = 1) && decide (len = f.length - 16) && decide (fieldAt f 8 4 = 0) &&
  decide (fieldAt f 0x0e 2 = 0) &&
  (match ty with
   | 1 => decide (fieldAt f 2 6 = 0) && decide (len = 8) && decide (fieldAt f 17 7 = 0)
   | 3 => decide (len = 0) && decide (fieldAt f 4 4 = 0)
   | 4 => decide (24 ≤ len)
   | 7 => decide (len = 0)
   | 8 => decide (len = 0) && decide (fieldAt f 4 4 = 0)
   | _ => false)

/-- The open session that a frame on port x names (R464, R465). -/
def namedSession (s : State) (x : Nat) (f : Bytes) : Option Nat :=
  let k := fieldAt f 2 1
  if k < 64 ∧ (sess s k).open_ ∧ (sess s k).gen.toNat = fieldAt f 3 1 ∧ (sess s k).port.val = x then some k else none

/-- OPEN_REPLY (R465). -/
def openReply (x : Fin 4) (src : Bytes) (code : BitVec 32) (id rights : Nat) (s : State) : State :=
  let body := leBytes 4 code.toNat ++ leBytes 2 id ++ leBytes 2 rights ++ leBytes 2 (cfg s 0x1100 2) ++ zeros 6
  ixSend x src (ixHeader 2 id 0 (stamp s) 16 ++ body) (if code = 0 then s else count 0x741e 4 1 s)

/-- The lowest free slot. -/
def freeSlot (s : State) : Option Nat := (List.range 64).find? (fun k => !(sess s k).open_)

/-- An OPEN frame of a client on port x (R465); the first session after a wake gets STANDBY_WAKE (R413). -/
def openSession (x : Fin 4) (src : Bytes) (client : BitVec 8) (s : State) : State :=
  match freeSlot s with
  | none => openReply x src abNoSession 0 0 s
  | some k =>
    if !(admitted s x.val client.toNat) then openReply x src abRights 0 0 s
    else
      let s := smod k (fun e => { gen := e.gen, open_ := true, client := client, port := x, peer := src, source := src, heard := now s }) s
      let s := openReply x src 0 (sessionId s k) (sessionRights s k) (count 0x741e 9 1 (heardFrom k s))
      match s.power.wakeNote with
      | some st => notify k { code := 0x12, stamp := st, data := leBytes 8 (cfg s 0x3001 2) } { s with power := { s.power with wakeNote := none } }
      | none => s

/-- A bare frame of a type answered to its source. -/
def bareFrame (k ty : Nat) (src : Bytes) (s : State) : State := ixSend (sess s k).port src (ixFrame s k ty 0 (stamp s) []) s

/-- The operation in a REQUEST payload (R470). -/
def parseOp (b : Bytes) : IxideOp :=
  { op := BitVec.ofNat 8 (fieldAt b 0 1), flags := BitVec.ofNat 8 (fieldAt b 1 1), index := BitVec.ofNat 16 (fieldAt b 2 2),
    sub := BitVec.ofNat 8 (fieldAt b 4 1), rsv0 := BitVec.ofNat 8 (fieldAt b 5 1), count := BitVec.ofNat 16 (fieldAt b 6 2),
    offset := BitVec.ofNat 32 (fieldAt b 8 4), rsv1 := BitVec.ofNat 32 (fieldAt b 0x0c 4), address := BitVec.ofNat 64 (fieldAt b 0x10 8),
    data := b.drop 0x18 }

/-- A REQUEST frame of session k from `src` (R468). -/
def requestFrame (k : Nat) (src f : Bytes) (s : State) : State :=
  let seq := BitVec.ofNat 32 (fieldAt f 4 4)
  let e := sess s k
  if e.busy then
    (if seq = e.last then s else refuseSeq k seq src s)
  else if seq = e.last + 1 then runTaken k (operation k (parseOp (f.drop 16))) (takeReq k seq src s)
  else if seq = e.last ∧ e.cached ≠ [] then
    count 0x741e 5 1 (ixSend e.port src (splice e.cached 8 (leBytes 4 (stamp s).toNat)) s)
  else refuseSeq k seq src s

/-- An acknowledged notify frame leaves the window (R478). -/
def ackFrame (k : Nat) (seq : BitVec 32) (s : State) : State :=
  smod k (fun e => { e with unacked := e.unacked.filter (fun u => u.seq ≠ seq) }) s

/-- What a frame of a type does in the session it names. -/
def sessionFrame (k ty : Nat) (src f : Bytes) (s : State) : State :=
  let s := heardFrom k s
  match ty with
  | 3 => closeSession k (bareFrame k 3 src s)
  | 4 => requestFrame k src f s
  | 7 => ackFrame k (BitVec.ofNat 32 (fieldAt f 4 4)) s
  | _ => bareFrame k 8 src s

/-- An Ixide frame received on port x (R462-R465); without a given source it comes from its session's peer. -/
def ixideFrame (x : Fin 4) (src : Option Bytes) (f : Bytes) (s : State) : State :=
  let s := count 0x741e 1 1 s
  if !(frameOk f) then count 0x741e 2 1 s
  else if fieldAt f 1 1 = 1 then openSession x (src.getD []) (BitVec.ofNat 8 (fieldAt f 16 1)) s
  else match namedSession s x.val f with
    | none => count 0x741e 3 1 s
    | some k => sessionFrame k (fieldAt f 1 1) (src.getD (sess s k).peer) f s

/-- The frame of a row that names its TYPE, taken on a port that is up. -/
def frameOfType (x : Fin 4) (src : Option Bytes) (ty : BitVec 8) (f : Bytes) (s : State) : Res :=
  .next (if !(t1Up s x.val) then s else if spoilt (0x30 + x.val) s then unspoil (0x30 + x.val) s
    else ixideFrame x src (splice f 1 [ty]) s)

def execSessionOpen (x : Fin 4) (peer : Bytes) (frame : Bytes) (s : State) : Res := frameOfType x (some peer) 1 frame s
def execSessionClose (x : Fin 4) (frame : Bytes) (s : State) : Res := frameOfType x none 3 frame s
def execRequest (x : Fin 4) (frame : Bytes) (s : State) : Res := frameOfType x none 4 frame s
def execNotifyAck (x : Fin 4) (frame : Bytes) (s : State) : Res := frameOfType x none 7 frame s
def execKeepalive (x : Fin 4) (frame : Bytes) (s : State) : Res := frameOfType x none 8 frame s

/-- SESSION_TIMEOUT: a session silent for 3 x KEEPALIVE closes (R469). -/
def execSessionTimeout (k : Fin 64) (s : State) : Res :=
  .next (if (sess s k.val).open_ then
    count 0x741e 0x0a 1 (closeSession k.val (clockTo ((sess s k.val).heard + 3000000 * cfg s 0x1100 2) s)) else s)

/-! ## Notify frames leave (R43, R48, R476, R478) -/

/-- The queue of a job's tag, and whether its GEN is the queue's (R45, R48). -/
def tagQueue (tag : BitVec 32) : Nat := tag.toNat / 2 ^ 20
def tagStale (s : State) (tag : BitVec 32) : Bool := decide (tag.toNat % 16 ≠ (qget s (tagQueue tag)).gen.toNat)

/-- The record of a job is removed at its frame's first sending (R43). -/
def dropRecord (tag : BitVec 32) (s : State) : State :=
  qmod (tagQueue tag) (fun q => { q with records := q.records.filter (fun r => r.tag ≠ tag) }) s

/-- The NOTIFY payload (R476). -/
def notifyPayload (lost : Bool) (n : Notify) : Bytes := leBytes 2 n.code ++ leBytes 1 (flag lost) ++ [0] ++ n.data

/-- A queued notify frame is sent with the next SEQ. -/
def sendNotify (k : Nat) (n : Notify) (s : State) : State :=
  let e := sess s k
  let f := ixFrame s k 6 (e.nseq + 1) n.stamp (notifyPayload e.lostFlag n)
  let s := sendTo k f (smod k (fun e => { e with
    nseq := e.nseq + 1, lostFlag := false, unacked := e.unacked ++ [⟨e.nseq + 1, 0, now s, f⟩] }) s)
  let s := count 0x741e 6 1 s
  match n.job with
  | some tag => if n.code = 1 then dropRecord tag s else s
  | none => s

/-- NOTIFY_TRANSMIT: the oldest queued frame of session k goes where the window of 16 has room; a stale job's is dropped (R48). -/
def execNotifyTransmit (k : Fin 64) (s : State) : Res :=
  let e := sess s k.val
  if !e.open_ ∨ !(reachesModule s k.val) ∨ 16 ≤ e.unacked.length then .next s
  else match e.queue with
    | [] => .next s
    | n :: rest =>
      let s := smod k.val (fun e => { e with queue := rest }) s
      .next (match n.job with
        | some tag => if tagStale s tag then count 0x7411 1 1 s else sendNotify k.val n s
        | none => sendNotify k.val n s)

/-- NOTIFY_RETRY: NOTIFY_RETRY us after the last sending; dropped after 16 retries (R478). -/
def execNotifyRetry (k : Fin 64) (seq : BitVec 32) (s : State) : Res :=
  match (sess s k.val).unacked.find? (fun u => u.seq = seq) with
  | none => .next s
  | some u =>
    let s := clockTo (u.sentAt + 1000 * cfg s 0x1100 4) s
    .next (if 16 ≤ u.retries then notifyDropped k.val (ackFrame k.val seq s)
      else if !(reachesModule s k.val) then s
      else count 0x741e 7 1 (sendTo k.val u.frame (smod k.val (fun e => { e with
        unacked := e.unacked.map (fun v => if v.seq = seq then { v with retries := v.retries + 1, sentAt := now s } else v) }) s)))

/-! ## Frames on T1 ports (R377) -/

/-- VLAN tag of an Ethernet frame: its VID, and the frame's EtherType and payload behind it. -/
structure EtherIn where
  vid     : Option Nat
  etype   : Nat
  payload : Bytes
  deriving DecidableEq, Repr

def parseEther (f : Bytes) : EtherIn :=
  if beNat (bytesAt f 12 2) = 0x8100 then ⟨some (beNat (bytesAt f 14 2) % 4096), beNat (bytesAt f 16 2), f.drop 18⟩
  else ⟨none, beNat (bytesAt f 12 2), f.drop 14⟩

/-- Is the frame sent to this port: its MAC or a group address? -/
def toPort (s : State) (x : Nat) (f : Bytes) : Bool :=
  (nth 0 f 0).getLsbD 0 || beNat (bytesAt f 0 6) == (portMac s x).toNat

/-- Does the tag suit the port's VLAN (R378; log 64)? -/
def vlanOk (s : State) (x : Nat) (v : Option Nat) : Bool :=
  match v with
  | none => cfg s (0x3430 + x) 5 == 0
  | some n => n == cfg s (0x3430 + x) 5

/-- The link-local address of a port: modified EUI-64 of its MAC (R451). -/
def linkLocal (s : State) (x : Nat) : Bytes :=
  let m := beBytes 6 (portMac s x).toNat
  [0xfe, 0x80] ++ zeros 6 ++ [(nth 0 m 0) ^^^ 2, nth 0 m 1, nth 0 m 2, 0xff, 0xfe, nth 0 m 3, nth 0 m 4, nth 0 m 5]

/-- Is an IPv6 address one of port x's? -/
def ownIpv6 (s : State) (x : Nat) (a : Bytes) : Bool :=
  a == linkLocal s x || (a == cfgBytes s (0x3430 + x) 2 && a != zeros 16)

/-- Is an IPv4 address port x's? -/
def ownIpv4 (s : State) (x : Nat) (a : Nat) : Bool := a != 0 && a == cfg s (0x3430 + x) 4

/-- What a received frame is to the module; the source of an Ixide frame is its link-layer address, its IP address and its port. -/
inductive FrameUse where
  | time (message : Bytes)
  | drive (payload : Bytes)
  | ixide (src : Bytes) (datagram : Bytes)
  | reply
  | discard
  deriving DecidableEq, Repr

/-- The datagram of an Ixide UDP payload: source addresses and port, and the bytes that UDP's length gives. -/
def udpUse (src udp : Bytes) : FrameUse :=
  if beNat (bytesAt udp 2 2) = 47100 ∧ 8 ≤ beNat (bytesAt udp 4 2) then
    .ixide (src ++ leBytes 2 (beNat (bytesAt udp 0 2))) ((udp.take (beNat (bytesAt udp 4 2))).drop 8)
  else .discard

/-- An IPv4 packet: no options, no fragments; UDP to 47,100 or an echo request. -/
def ipv4Use (s : State) (x : Nat) (mac p : Bytes) : FrameUse :=
  let body := (p.take (beNat (bytesAt p 2 2))).drop 20
  if nth 0 p 0 ≠ 0x45 ∨ beNat (bytesAt p 6 2) % 2 ^ 14 ≠ 0 ∨ !(ownIpv4 s x (beNat (bytesAt p 16 4))) then .discard
  else match (nth 0 p 9).toNat with
    | 17 => udpUse (mac ++ zeros 10 ++ [0xff, 0xff] ++ bytesAt p 12 4) body
    | 1 => if nth 0 body 0 = 8 then .reply else .discard
    | _ => .discard

/-- An IPv6 packet: no extension headers; UDP to 47,100, an echo request, or a neighbour solicitation for an own address. -/
def ipv6Use (s : State) (x : Nat) (mac p : Bytes) : FrameUse :=
  let body := (p.drop 40).take (beNat (bytesAt p 4 2))
  match (nth 0 p 6).toNat with
  | 17 => if ownIpv6 s x (bytesAt p 24 16) then udpUse (mac ++ bytesAt p 8 16) body else .discard
  | 58 =>
    if nth 0 body 0 = 135 then (if ownIpv6 s x (bytesAt body 8 16) then .reply else .discard)
    else if nth 0 body 0 = 128 ∧ ownIpv6 s x (bytesAt p 24 16) then .reply
    else .discard
  | _ => .discard

/-- Steering by type (R377). -/
def frameUse (s : State) (x : Nat) (f : Bytes) : FrameUse :=
  let e := parseEther f
  if f.length < 60 ∨ 1518 < f.length ∨ !(toPort s x f) then .discard
  else if e.etype = 0x88f7 ∧ e.vid = none then .time e.payload
  else if !(vlanOk s x e.vid) then .discard
  else if e.etype = cfg s 0x5400 5 then (if 2 ≤ x then .drive e.payload else .discard)
  else match e.etype with
    | 0x0800 => ipv4Use s x (bytesAt f 6 6) e.payload
    | 0x86dd => ipv6Use s x (bytesAt f 6 6) e.payload
    | 0x0806 => if beNat (bytesAt e.payload 6 2) = 1 ∧ ownIpv4 s x (beNat (bytesAt e.payload 24 4)) then .reply else .discard
    | _ => .discard

/-! ## Answers to ARP, neighbour solicitation and echo (R377, R382; bytes by the IETF's layouts, log 65) -/

/-- The Internet checksum of bytes: the complement of their one's-complement sum as 16-bit words. -/
def inetSum (b : Bytes) : Nat :=
  let n := sumNat ((chunksOf 2 b).map (fun w => beNat (padTo 2 w)))
  let fold (n : Nat) : Nat := n % 65536 + n / 65536
  65535 - fold (fold n)

/-- An ARP reply to the ARP request `q`, of a port with address `mac`. -/
def arpAnswer (mac : Bytes) (q : Bytes) : Bytes :=
  bytesAt q 0 6 ++ [0, 2] ++ mac ++ bytesAt q 24 4 ++ bytesAt q 8 10

/-- An IPv6 packet that carries an ICMPv6 message whose checksum field, at offset 2, holds 0. -/
def icmp6Packet (src dst : Bytes) (hops : BitVec 8) (m : Bytes) : Bytes :=
  let sum := inetSum (src ++ dst ++ beBytes 4 m.length ++ [0, 0, 0, 58] ++ m)
  [0x60, 0, 0, 0] ++ beBytes 2 m.length ++ [58, hops] ++ src ++ dst ++ splice m 2 (beBytes 2 sum)

/-- The neighbour advertisement that answers solicitation `q`, of a port with address `mac`; one from the unspecified address is answered
to all nodes, unsolicited. -/
def neighbourAnswer (mac : Bytes) (q : Bytes) : Bytes :=
  let target := bytesAt q 48 16
  let any : Bool := bytesAt q 8 16 == zeros 16
  icmp6Packet target (if any then [0xff, 2] ++ zeros 13 ++ [1] else bytesAt q 8 16) 255
    ([136, 0, 0, 0, if any then 0x20 else 0x60, 0, 0, 0] ++ target ++ [2, 1] ++ mac)

/-- The echo reply to an IPv4 echo request. -/
def echoAnswer (q : Bytes) : Bytes :=
  let body := (q.take (beNat (bytesAt q 2 2))).drop 20
  let m := [0, nth 0 body 1, 0, 0] ++ body.drop 4
  let h := [0x45, 0] ++ beBytes 2 (20 + m.length) ++ [0, 0, 0x40, 0, 64, 1, 0, 0] ++ bytesAt q 16 4 ++ bytesAt q 12 4
  splice h 10 (beBytes 2 (inetSum h)) ++ splice m 2 (beBytes 2 (inetSum m))

/-- The echo reply to an ICMPv6 echo request. -/
def echoAnswer6 (q : Bytes) : Bytes :=
  let body := (q.drop 40).take (beNat (bytesAt q 4 2))
  icmp6Packet (bytesAt q 24 16) (bytesAt q 8 16) 64 ([129, nth 0 body 1, 0, 0] ++ body.drop 4)

/-- The answer's payload to the request in a frame of an EtherType. -/
def netAnswer (mac : Bytes) (etype : Nat) (q : Bytes) : Bytes :=
  if etype = 0x0806 then arpAnswer mac q
  else if etype = 0x0800 then echoAnswer q
  else if nth 0 q 40 = 135 then neighbourAnswer mac q
  else echoAnswer6 q

/-- An answer goes to the link-layer source of its request (R377), padded to the least Ethernet frame. -/
def answerFrame (mac tag : Bytes) (f : Bytes) : Bytes :=
  let e := parseEther f
  let b := bytesAt f 6 6 ++ mac ++ tag ++ beBytes 2 e.etype ++ netAnswer mac e.etype e.payload
  padTo (max b.length 60) b

/-- The answer of T1 port x leaves in class 5 (R379). -/
def t1Answer (x : Fin 4) (f : Bytes) (s : State) : State :=
  let b := answerFrame (beBytes 6 (portMac s x.val).toNat) (vlanTag s x.val 0) f
  sendT1 x.val ⟨5, .t1 x b, b.length + 4⟩ s

/-- T1_FRAME_RECEIVED: a frame without its FCS, taken at `at_` (R377). -/
def execT1FrameReceived (x : Fin 4) (at_ : Nat) (frame : Bytes) (s : State) : Res :=
  if !(t1Up s x.val) then .next s
  else if spoilt (0x30 + x.val) s then .next (unspoil (0x30 + x.val) (clockTo at_ s))
  else
    let s := clockTo at_ s
    .next (match frameUse s x.val frame with
      | .time b => takeTime x b s
      | .drive p => takeFeedback p s
      | .ixide src d => ixideFrame x (some src) d s
      | .reply => t1Answer x frame s
      | .discard => count 0x741b 0x0e 1 s)

/-! ## Frames on fabric ports (R382) -/

/-- A PFC frame: the pause time of priority `prio`, where its class is enabled (IEEE 802.1Qbb; PRESUMED, log 65). -/
def pfcTime (f : Bytes) (prio : Nat) : Option Nat :=
  if beNat (bytesAt f 12 2) = 0x8808 ∧ beNat (bytesAt f 14 2) = 0x0101 ∧ (beNat (bytesAt f 16 2)).testBit prio then
    some (beNat (bytesAt f (18 + 2 * prio) 2))
  else none

/-- Is the frame an ARP request for the port's IPv4, or a neighbour solicitation for its IPv6? -/
def fabricAsks (s : State) (p : Nat) (f : Bytes) : Bool :=
  let e := parseEther f
  let body := e.payload.drop 40
  (e.etype == 0x0806 && beNat (bytesAt e.payload 6 2) == 1 && cfg s (0x3450 + p) 3 != 0 &&
    beNat (bytesAt e.payload 24 4) == cfg s (0x3450 + p) 3) ||
  (e.etype == 0x86dd && nth 0 e.payload 6 == 58 && nth 0 body 0 == 135 && cfgBytes s (0x3450 + p) 2 != zeros 16 &&
    bytesAt body 8 16 == cfgBytes s (0x3450 + p) 2)

/-- The answer of fabric port p, untagged. -/
def fabricAnswer (p : Fin 3) (f : Bytes) (s : State) : State :=
  emit (.fabric p (answerFrame (beBytes 6 (portMac s (4 + p.val)).toNat) [] f)) s

/-- The peer pauses priority PFC_PRIO for a time in units of 512 bit times of the port, 0 to resume: what the port held leaves once the
pause is over (R382; IEEE 802.1Qbb, log 65). -/
def takePfc (p : Nat) (time : Nat) (s : State) : State :=
  let rate := if (fabOf s p).four then 400 else 800
  releaseHeld p (fabmod p (fun f => { f with paused := now s + ceilDiv (512 * time) rate }) s)

/-- FABRIC_FRAME_RECEIVED: PFC on PFC_PRIO, ARP and neighbour solicitation are taken; every other frame is discarded (R382). -/
def execFabricFrameReceived (p : Fin 3) (frame : Bytes) (s : State) : Res :=
  if !(fabricUp s p.val) ∨ 9216 < frame.length then .next s
  else if spoilt (0x40 + p.val) s then .next (unspoil (0x40 + p.val) s)
  else
    let s := receiveBytes p.val frame.length s
    match pfcTime frame (cfg s (0x3450 + p.val) 5) with
    | some t => .next (takePfc p.val t s)
    | none => .next (if fabricAsks s p.val frame then fabricAnswer p frame s else s)

/-! ## Ixide operations as commands -/

def execIxideRead (k : Fin 64) (o : IxideOp) (s : State) : Res := .next (runReq k.val (operation k.val { o with op := 1 }) s)
def execIxideWrite (k : Fin 64) (o : IxideOp) (s : State) : Res := .next (runReq k.val (operation k.val { o with op := 2 }) s)
def execMemRead (k : Fin 64) (o : IxideOp) (s : State) : Res := .next (runReq k.val (operation k.val { o with op := 3 }) s)
def execMemWrite (k : Fin 64) (o : IxideOp) (s : State) : Res := .next (runReq k.val (operation k.val { o with op := 4 }) s)
def execDescribe (k : Fin 64) (data : Bytes) (s : State) : Res := .next (hostWrite k.val 0xf000 2 data s)
def execLifecycleNonceRead (k : Fin 64) (s : State) : Res := .next (hostRead k.val 0x2001 4 32 s)
def execNextCompletion (k : Fin 64) (q : Fin 4096) (s : State) : Res := .next (hostRead k.val (0x6000 + q.val) 0x0a 32 s)

/-! ## Dictionary writes as commands -/

def execConfigWrite (k : Fin 64) (index : BitVec 16) (sub : BitVec 8) (data : Bytes) (s : State) : Res :=
  .next (hostWrite k.val index.toNat sub.toNat data s)
def execEventsClear (k : Fin 64) (value : BitVec 32) (s : State) : Res := .next (hostWrite k.val 0x2003 2 (leBytes 4 value.toNat) s)

/-- QUEUE_CONFIG_WRITE: `sub` counts CLIENT, CLASS, PART_PERMIT, DEPTH from 0. -/
def execQueueConfigWrite (k : Fin 64) (q : Fin 4096) (sub : Fin 4) (data : Bytes) (s : State) : Res :=
  .next (hostWrite k.val (0x6000 + q.val) (sub.val + 1) data s)
def execQueueStart (k : Fin 64) (q : Fin 4096) (s : State) : Res := .next (hostWrite k.val (0x6000 + q.val) 5 [1] s)
def execQueueStop (k : Fin 64) (q : Fin 4096) (s : State) : Res := .next (hostWrite k.val (0x6000 + q.val) 5 [2] s)
def execQueueFlush (k : Fin 64) (q : Fin 4096) (s : State) : Res := .next (hostWrite k.val (0x6000 + q.val) 5 [3] s)
def execSubmit (k : Fin 64) (q : Fin 4096) (desc : Bytes) (s : State) : Res := .next (hostWrite k.val (0x6000 + q.val) 8 desc s)
def execCancel (k : Fin 64) (q : Fin 4096) (tag : BitVec 32) (s : State) : Res :=
  .next (hostWrite k.val (0x6000 + q.val) 9 (leBytes 4 tag.toNat) s)

def execStreamOpen (k : Fin 64) (c : StreamCmd) (s : State) : Res := .next (hostWrite k.val 0x3a00 1 (streamCmdBytes 1 c) s)
def execStreamClose (k : Fin 64) (c : StreamCmd) (s : State) : Res := .next (hostWrite k.val 0x3a00 1 (streamCmdBytes 2 c) s)
def execStreamExport (k : Fin 64) (c : StreamCmd) (s : State) : Res := .next (hostWrite k.val 0x3a00 1 (streamCmdBytes 3 c) s)
def execStreamImport (k : Fin 64) (c : StreamCmd) (s : State) : Res := .next (hostWrite k.val 0x3a00 1 (streamCmdBytes 4 c) s)
def execStreamQuery (k : Fin 64) (c : StreamCmd) (s : State) : Res := .next (hostWrite k.val 0x3a00 1 (streamCmdBytes 5 c) s)
def execStreamZero (k : Fin 64) (c : StreamCmd) (s : State) : Res := .next (hostWrite k.val 0x3a00 1 (streamCmdBytes 6 c) s)

def execSeqOpen (k : Fin 64) (c : SeqCmd) (s : State) : Res := .next (hostWrite k.val 0x3a28 1 (seqCmdBytes 1 c) s)
def execSeqFork (k : Fin 64) (c : SeqCmd) (s : State) : Res := .next (hostWrite k.val 0x3a28 1 (seqCmdBytes 2 c) s)
def execSeqClose (k : Fin 64) (c : SeqCmd) (s : State) : Res := .next (hostWrite k.val 0x3a28 1 (seqCmdBytes 3 c) s)
def execSeqQuery (k : Fin 64) (c : SeqCmd) (s : State) : Res := .next (hostWrite k.val 0x3a28 1 (seqCmdBytes 4 c) s)
def execSeqPage (k : Fin 64) (c : SeqCmd) (s : State) : Res := .next (hostWrite k.val 0x3a28 1 (seqCmdBytes 5 c) s)
def execPoolFramesWrite (k : Fin 64) (p : Fin 4) (value : BitVec 32) (s : State) : Res :=
  .next (hostWrite k.val (0x3a20 + p.val) 6 (leBytes 4 value.toNat) s)

def execTableCreate (k : Fin 64) (c : TableCmd) (s : State) : Res := .next (hostWrite k.val 0x5c00 1 (tableCmdBytes 1 c) s)
def execTableBranch (k : Fin 64) (c : TableCmd) (s : State) : Res := .next (hostWrite k.val 0x5c00 1 (tableCmdBytes 2 c) s)
def execTablePrune (k : Fin 64) (c : TableCmd) (s : State) : Res := .next (hostWrite k.val 0x5c00 1 (tableCmdBytes 3 c) s)
def execTableClose (k : Fin 64) (c : TableCmd) (s : State) : Res := .next (hostWrite k.val 0x5c00 1 (tableCmdBytes 4 c) s)
def execTableQuery (k : Fin 64) (c : TableCmd) (s : State) : Res := .next (hostWrite k.val 0x5c00 1 (tableCmdBytes 5 c) s)

def execMapStart (k : Fin 64) (s : State) : Res := .next (hostWrite k.val 0x5c40 0x0b [1] s)
def execMapStop (k : Fin 64) (s : State) : Res := .next (hostWrite k.val 0x5c40 0x0b [2] s)
def execSelectorStart (k : Fin 64) (ch : Fin 16) (s : State) : Res := .next (hostWrite k.val (0x5d00 + ch.val) 0x0a [1] s)
def execSelectorStop (k : Fin 64) (ch : Fin 16) (s : State) : Res := .next (hostWrite k.val (0x5d00 + ch.val) 0x0a [2] s)

def execTensorCreate (k : Fin 64) (c : DirCmd) (s : State) : Res := .next (hostWrite k.val 0x3810 1 (dirCmdBytes 1 c) s)
def execTensorFree (k : Fin 64) (c : DirCmd) (s : State) : Res := .next (hostWrite k.val 0x3810 1 (dirCmdBytes 2 c) s)
def execTensorLoad (k : Fin 64) (c : DirCmd) (s : State) : Res := .next (hostWrite k.val 0x3810 1 (dirCmdBytes 3 c) s)
def execTensorStore (k : Fin 64) (c : DirCmd) (s : State) : Res := .next (hostWrite k.val 0x3810 1 (dirCmdBytes 4 c) s)
def execTensorFill (k : Fin 64) (c : DirCmd) (s : State) : Res := .next (hostWrite k.val 0x3810 1 (dirCmdBytes 5 c) s)
def execTensorMigrate (k : Fin 64) (c : DirCmd) (s : State) : Res := .next (hostWrite k.val 0x3810 1 (dirCmdBytes 6 c) s)
def execTensorQuery (k : Fin 64) (c : DirCmd) (s : State) : Res := .next (hostWrite k.val 0x3810 1 (dirCmdBytes 7 c) s)
def execObjectDelete (k : Fin 64) (object : BitVec 16) (s : State) : Res := .next (hostWrite k.val 0x3850 1 (leBytes 2 object.toNat) s)
def execCatalogueSelect (k : Fin 64) (object : BitVec 16) (s : State) : Res := .next (hostWrite k.val 0x3850 4 (leBytes 2 object.toNat) s)

def execPartitionStart (k : Fin 64) (p : Fin 64) (s : State) : Res := .next (hostWrite k.val (0x2100 + p.val) 3 [1] s)
def execPartitionStop (k : Fin 64) (p : Fin 64) (s : State) : Res := .next (hostWrite k.val (0x2100 + p.val) 3 [2] s)
def execPartitionReset (k : Fin 64) (p : Fin 64) (s : State) : Res := .next (hostWrite k.val (0x2100 + p.val) 3 [3] s)

/-- A reset code: kind and instance (R274). -/
def resetCode (kind : BitVec 8) (inst : BitVec 8) : Bytes := [inst, kind]
def execResetWellhead (k : Fin 64) (inst : BitVec 8) (s : State) : Res := .next (hostWrite k.val 0x2010 1 (resetCode 2 inst) s)
def execResetFusion (k : Fin 64) (inst : BitVec 8) (s : State) : Res := .next (hostWrite k.val 0x2010 1 (resetCode 3 inst) s)
def execResetSelector (k : Fin 64) (inst : BitVec 8) (s : State) : Res := .next (hostWrite k.val 0x2010 1 (resetCode 4 inst) s)
def execResetFabricPort (k : Fin 64) (inst : BitVec 8) (s : State) : Res := .next (hostWrite k.val 0x2010 1 (resetCode 5 inst) s)
def execResetT1Port (k : Fin 64) (inst : BitVec 8) (s : State) : Res := .next (hostWrite k.val 0x2010 1 (resetCode 6 inst) s)
def execResetControlComplex (k : Fin 64) (inst : BitVec 8) (s : State) : Res := .next (hostWrite k.val 0x2010 1 (resetCode 7 inst) s)

def execCameraStreamStart (k : Fin 64) (n : Fin 32) (s : State) : Res := .next (hostWrite k.val (0x4800 + n.val) 0x10 [1] s)
def execCameraStreamStop (k : Fin 64) (n : Fin 32) (s : State) : Res := .next (hostWrite k.val (0x4800 + n.val) 0x10 [2] s)
def execSampleStreamStart (k : Fin 64) (n : Fin 16) (s : State) : Res := .next (hostWrite k.val (0x4900 + n.val) 0x11 [1] s)
def execSampleStreamStop (k : Fin 64) (n : Fin 16) (s : State) : Res := .next (hostWrite k.val (0x4900 + n.val) 0x11 [2] s)
def execSampleStreamFlush (k : Fin 64) (n : Fin 16) (s : State) : Res := .next (hostWrite k.val (0x4900 + n.val) 0x11 [3] s)
def execDictLoad (k : Fin 64) (s : State) : Res := .next (hostWrite k.val 0x4980 2 [1] s)

def execFusionStart (k : Fin 64) (s : State) : Res := .next (hostWrite k.val 0x5000 7 [1] s)
def execFusionStop (k : Fin 64) (s : State) : Res := .next (hostWrite k.val 0x5000 7 [2] s)
def execFusionRecordWrite (k : Fin 64) (i : Fin 16) (record : Bytes) (s : State) : Res := .next (hostWrite k.val (0x5010 + i.val) 8 record s)
def execSolverStart (k : Fin 64) (s : State) : Res := .next (hostWrite k.val 0x5800 0x0d [1] s)
def execSolverStop (k : Fin 64) (s : State) : Res := .next (hostWrite k.val 0x5800 0x0d [2] s)
def execSolverSelect (k : Fin 64) (slot : BitVec 8) (s : State) : Res := .next (hostWrite k.val 0x5800 0x0b [slot] s)
def execSolverRecordWrite (k : Fin 64) (record : Bytes) (s : State) : Res := .next (hostWrite k.val 0x5800 0x0c record s)
def execScheduleLoad (k : Fin 64) (slot : Fin 2) (s : State) : Res := .next (hostWrite k.val (0x5810 + slot.val) 2 [1] s)
def execPumpStart (k : Fin 64) (s : State) : Res := .next (hostWrite k.val 0x5400 8 [1] s)
def execPumpStop (k : Fin 64) (s : State) : Res := .next (hostWrite k.val 0x5400 8 [2] s)
def execPumpCmdRecordWrite (k : Fin 64) (record : Bytes) (s : State) : Res := .next (hostWrite k.val 0x5400 7 record s)
def execAxisEnable (k : Fin 64) (n : Fin 64) (s : State) : Res := .next (hostWrite k.val (0x5500 + n.val) 0x0c [1] s)
def execAxisDisable (k : Fin 64) (n : Fin 64) (s : State) : Res := .next (hostWrite k.val (0x5500 + n.val) 0x0c [2] s)
def execTablesLoad (k : Fin 64) (n : Fin 64) (s : State) : Res := .next (hostWrite k.val (0x5500 + n.val) 0x0c [3] s)
def execAxisLawWrite (k : Fin 64) (n : Fin 64) (law : Bytes) (s : State) : Res := .next (hostWrite k.val (0x5500 + n.val) 5 law s)

def execClockAdjust (k : Fin 64) (delta : BitVec 64) (s : State) : Res := .next (hostWrite k.val 0x3400 3 (leBytes 8 delta.toNat) s)
def execAsStart (k : Fin 64) (s : State) : Res := .next (hostWrite k.val 0x3410 0x0b [1] s)
def execAsStop (k : Fin 64) (s : State) : Res := .next (hostWrite k.val 0x3410 0x0b [2] s)
def execPpsEnableWrite (k : Fin 64) (value : BitVec 8) (s : State) : Res := .next (hostWrite k.val 0x3420 1 [value] s)
def execTimerStart (k : Fin 64) (timer : Fin 8) (s : State) : Res := .next (hostWrite k.val (0x3428 + timer.val) 5 [1] s)
def execTimerStop (k : Fin 64) (timer : Fin 8) (s : State) : Res := .next (hostWrite k.val (0x3428 + timer.val) 5 [2] s)
def execT1PortStart (k : Fin 64) (x : Fin 4) (s : State) : Res := .next (hostWrite k.val (0x3430 + x.val) 0x0b [1] s)
def execT1PortStop (k : Fin 64) (x : Fin 4) (s : State) : Res := .next (hostWrite k.val (0x3430 + x.val) 0x0b [2] s)
def execTimedWrite (k : Fin 64) (x : Fin 4) (value : BitVec 8) (s : State) : Res := .next (hostWrite k.val (0x3430 + x.val) 7 [value] s)
def execTimedFrame (k : Fin 64) (x : Fin 4) (data : Bytes) (s : State) : Res := .next (hostWrite k.val (0x3430 + x.val) 9 data s)
def execFabricPortStart (k : Fin 64) (p : Fin 3) (s : State) : Res := .next (hostWrite k.val (0x3450 + p.val) 8 [1] s)
def execFabricPortStop (k : Fin 64) (p : Fin 3) (s : State) : Res := .next (hostWrite k.val (0x3450 + p.val) 8 [2] s)

def execDomainsEnableWrite (k : Fin 64) (value : BitVec 32) (s : State) : Res := .next (hostWrite k.val 0x3020 2 (leBytes 4 value.toNat) s)
def execCapWrite (k : Fin 64) (peak : Bool) (value : BitVec 16) (s : State) : Res :=
  .next (hostWrite k.val 0x3000 (if peak then 2 else 1) (leBytes 2 value.toNat) s)
def execStandbyEnter (k : Fin 64) (s : State) : Res := .next (hostWrite k.val 0x3001 1 [1] s)
def execSafeRequest (k : Fin 64) (value : BitVec 8) (s : State) : Res := .next (hostWrite k.val 0x4000 7 [value] s)
def execSafeClear (k : Fin 64) (value : BitVec 16) (s : State) : Res := .next (hostWrite k.val 0x4000 8 (leBytes 2 value.toNat) s)
def execTriggersWrite (k : Fin 64) (value : BitVec 32) (s : State) : Res := .next (hostWrite k.val 0x4000 9 (leBytes 4 value.toNat) s)

def execDeviceResetWrite (k : Fin 64) (value : BitVec 8) (s : State) : Res := .next (hostWrite k.val 0x2000 5 [value] s)
def execUpdateBegin (k : Fin 64) (s : State) : Res := .next (hostWrite k.val 0x2030 1 [1] s)
def execUpdateChunk (k : Fin 64) (chunk : Bytes) (s : State) : Res := .next (hostWrite k.val 0x2030 2 chunk s)
def execUpdateCommit (k : Fin 64) (s : State) : Res := .next (hostWrite k.val 0x2030 1 [2] s)
def execUpdateAbort (k : Fin 64) (s : State) : Res := .next (hostWrite k.val 0x2030 1 [3] s)
def execMinSvnWrite (k : Fin 64) (value : BitVec 16) (s : State) : Res := .next (hostWrite k.val 0x2002 3 (leBytes 2 value.toNat) s)
def execKeyRevoke (k : Fin 64) (slot : BitVec 8) (s : State) : Res := .next (hostWrite k.val 0x2002 7 [slot] s)
def execLifecycleRequest (k : Fin 64) (request : Bytes) (s : State) : Res := .next (hostWrite k.val 0x2001 2 request s)
def execQuoteRequest (k : Fin 64) (nonce : Bytes) (s : State) : Res := .next (hostWrite k.val 0x7810 1 nonce s)
def execSessionCloseWrite (k : Fin 64) (j : Fin 64) (value : BitVec 8) (s : State) : Res :=
  .next (hostWrite k.val (0x1180 + j.val) 7 [value] s)

end Sys2Proof.Machine
end

