-- ==== Sys2Proof/Machine/Dispatch.lean ====
section
/-!
DEFINITION. Sys2Proof/Machine/Dispatch.lean: one arm per command.
-/

namespace Sys2Proof.Machine

/-- The effect of one command on everything but the queue. -/
def exec (ins : Instr) (st : State) : Host.Outcome State Fault Refusal :=
  match ins with
  | .configWrite k index sub data => Sys2Proof.Machine.execConfigWrite k index sub data st
  | .eventsClear k value => Sys2Proof.Machine.execEventsClear k value st
  | .queueConfigWrite k q sub data => Sys2Proof.Machine.execQueueConfigWrite k q sub data st
  | .queueStart k q => Sys2Proof.Machine.execQueueStart k q st
  | .queueStop k q => Sys2Proof.Machine.execQueueStop k q st
  | .queueFlush k q => Sys2Proof.Machine.execQueueFlush k q st
  | .submit k q desc => Sys2Proof.Machine.execSubmit k q desc st
  | .cancel k q tag => Sys2Proof.Machine.execCancel k q tag st
  | .nextCompletion k q => Sys2Proof.Machine.execNextCompletion k q st
  | .slotBoundary => Sys2Proof.Machine.execSlotBoundary st
  | .commitInstant tag at_ => Sys2Proof.Machine.execCommitInstant tag at_ st
  | .commitPublish tag => Sys2Proof.Machine.execCommitPublish tag st
  | .completionRecord tag => Sys2Proof.Machine.execCompletionRecord tag st
  | .fenceTimeout tag target => Sys2Proof.Machine.execFenceTimeout tag target st
  | .budgetExceeded tag task => Sys2Proof.Machine.execBudgetExceeded tag task st
  | .nop t f => Sys2Proof.Machine.execNop t f st
  | .ldw t f => Sys2Proof.Machine.execLdw t f st
  | .mma t f => Sys2Proof.Machine.execMma t f st
  | .aclr t f => Sys2Proof.Machine.execAclr t f st
  | .drain t f => Sys2Proof.Machine.execDrain t f st
  | .ald t f => Sys2Proof.Machine.execAld t f st
  | .ast t f => Sys2Proof.Machine.execAst t f st
  | .vld t f => Sys2Proof.Machine.execVld t f st
  | .vst t f => Sys2Proof.Machine.execVst t f st
  | .vlda t f => Sys2Proof.Machine.execVlda t f st
  | .vsta t f => Sys2Proof.Machine.execVsta t f st
  | .vadd t f => Sys2Proof.Machine.execVadd t f st
  | .vmul t f => Sys2Proof.Machine.execVmul t f st
  | .vfma t f => Sys2Proof.Machine.execVfma t f st
  | .vmax t f => Sys2Proof.Machine.execVmax t f st
  | .vmin t f => Sys2Proof.Machine.execVmin t f st
  | .vcmp t f => Sys2Proof.Machine.execVcmp t f st
  | .vsel t f => Sys2Proof.Machine.execVsel t f st
  | .vcvt t f => Sys2Proof.Machine.execVcvt t f st
  | .vrq t f => Sys2Proof.Machine.execVrq t f st
  | .vmxq t f => Sys2Proof.Machine.execVmxq t f st
  | .vred t f => Sys2Proof.Machine.execVred t f st
  | .vexp t f => Sys2Proof.Machine.execVexp t f st
  | .vlog t f => Sys2Proof.Machine.execVlog t f st
  | .vrcp t f => Sys2Proof.Machine.execVrcp t f st
  | .vrsq t f => Sys2Proof.Machine.execVrsq t f st
  | .vsig t f => Sys2Proof.Machine.execVsig t f st
  | .vtanh t f => Sys2Proof.Machine.execVtanh t f st
  | .vsilu t f => Sys2Proof.Machine.execVsilu t f st
  | .vgelu t f => Sys2Proof.Machine.execVgelu t f st
  | .vsplus t f => Sys2Proof.Machine.execVsplus t f st
  | .rstep t f => Sys2Proof.Machine.execRstep t f st
  | .zcfg t f => Sys2Proof.Machine.execZcfg t f st
  | .agset t f => Sys2Proof.Machine.execAgset t f st
  | .dma t f => Sys2Proof.Machine.execDma t f st
  | .fence t f => Sys2Proof.Machine.execFence t f st
  | .bar t f => Sys2Proof.Machine.execBar t f st
  | .evwait t f => Sys2Proof.Machine.execEvwait t f st
  | .evsig t f => Sys2Proof.Machine.execEvsig t f st
  | .loop t f => Sys2Proof.Machine.execLoop t f st
  | .endl t f => Sys2Proof.Machine.execEndl t f st
  | .end_ t f => Sys2Proof.Machine.execEnd t f st
  | .streamOpen k c => Sys2Proof.Machine.execStreamOpen k c st
  | .streamClose k c => Sys2Proof.Machine.execStreamClose k c st
  | .streamExport k c => Sys2Proof.Machine.execStreamExport k c st
  | .streamImport k c => Sys2Proof.Machine.execStreamImport k c st
  | .streamQuery k c => Sys2Proof.Machine.execStreamQuery k c st
  | .streamZero k c => Sys2Proof.Machine.execStreamZero k c st
  | .streamRelocate number block readable => Sys2Proof.Machine.execStreamRelocate number block readable st
  | .seqOpen k c => Sys2Proof.Machine.execSeqOpen k c st
  | .seqFork k c => Sys2Proof.Machine.execSeqFork k c st
  | .seqClose k c => Sys2Proof.Machine.execSeqClose k c st
  | .seqQuery k c => Sys2Proof.Machine.execSeqQuery k c st
  | .seqPage k c => Sys2Proof.Machine.execSeqPage k c st
  | .poolFramesWrite k p value => Sys2Proof.Machine.execPoolFramesWrite k p value st
  | .tableCreate k c => Sys2Proof.Machine.execTableCreate k c st
  | .tableBranch k c => Sys2Proof.Machine.execTableBranch k c st
  | .tablePrune k c => Sys2Proof.Machine.execTablePrune k c st
  | .tableClose k c => Sys2Proof.Machine.execTableClose k c st
  | .tableQuery k c => Sys2Proof.Machine.execTableQuery k c st
  | .mapStart k => Sys2Proof.Machine.execMapStart k st
  | .mapStop k => Sys2Proof.Machine.execMapStop k st
  | .mapFlip => Sys2Proof.Machine.execMapFlip st
  | .selectorStart k ch => Sys2Proof.Machine.execSelectorStart k ch st
  | .selectorStop k ch => Sys2Proof.Machine.execSelectorStop k ch st
  | .selectorCloseTimer ch => Sys2Proof.Machine.execSelectorCloseTimer ch st
  | .selectorClosed ch => Sys2Proof.Machine.execSelectorClosed ch st
  | .selectorRelease ch => Sys2Proof.Machine.execSelectorRelease ch st
  | .tensorCreate k c => Sys2Proof.Machine.execTensorCreate k c st
  | .tensorFree k c => Sys2Proof.Machine.execTensorFree k c st
  | .tensorLoad k c => Sys2Proof.Machine.execTensorLoad k c st
  | .tensorStore k c => Sys2Proof.Machine.execTensorStore k c st
  | .tensorFill k c => Sys2Proof.Machine.execTensorFill k c st
  | .tensorMigrate k c => Sys2Proof.Machine.execTensorMigrate k c st
  | .tensorQuery k c => Sys2Proof.Machine.execTensorQuery k c st
  | .objectDelete k object => Sys2Proof.Machine.execObjectDelete k object st
  | .catalogueSelect k object => Sys2Proof.Machine.execCatalogueSelect k object st
  | .prefetchIssue tag entry => Sys2Proof.Machine.execPrefetchIssue tag entry st
  | .prefetchArrival tag entry => Sys2Proof.Machine.execPrefetchArrival tag entry st
  | .tierMiss tag entry => Sys2Proof.Machine.execTierMiss tag entry st
  | .tierFault tag entry kind => Sys2Proof.Machine.execTierFault tag entry kind st
  | .patrolScrub burst symbols => Sys2Proof.Machine.execPatrolScrub burst symbols st
  | .evacuationEnd s => Sys2Proof.Machine.execEvacuationEnd s st
  | .spareCopyEnd cluster => Sys2Proof.Machine.execSpareCopyEnd cluster st
  | .aquiferRequest m write address length data => Sys2Proof.Machine.execAquiferRequest m write address length data st
  | .transportFault p request => Sys2Proof.Machine.execTransportFault p request st
  | .partitionStart k p => Sys2Proof.Machine.execPartitionStart k p st
  | .partitionStop k p => Sys2Proof.Machine.execPartitionStop k p st
  | .partitionReset k p => Sys2Proof.Machine.execPartitionReset k p st
  | .taskReady tag task => Sys2Proof.Machine.execTaskReady tag task st
  | .saveBudgetMiss tag budget => Sys2Proof.Machine.execSaveBudgetMiss tag budget st
  | .restoreResume tag at_ => Sys2Proof.Machine.execRestoreResume tag at_ st
  | .resetWellhead k inst => Sys2Proof.Machine.execResetWellhead k inst st
  | .resetFusion k inst => Sys2Proof.Machine.execResetFusion k inst st
  | .resetSelector k inst => Sys2Proof.Machine.execResetSelector k inst st
  | .resetFabricPort k inst => Sys2Proof.Machine.execResetFabricPort k inst st
  | .resetT1Port k inst => Sys2Proof.Machine.execResetT1Port k inst st
  | .resetControlComplex k inst => Sys2Proof.Machine.execResetControlComplex k inst st
  | .functionResetDone code => Sys2Proof.Machine.execFunctionResetDone code st
  | .cameraStreamStart k n => Sys2Proof.Machine.execCameraStreamStart k n st
  | .cameraStreamStop k n => Sys2Proof.Machine.execCameraStreamStop k n st
  | .sampleStreamStart k n => Sys2Proof.Machine.execSampleStreamStart k n st
  | .sampleStreamStop k n => Sys2Proof.Machine.execSampleStreamStop k n st
  | .sampleStreamFlush k n => Sys2Proof.Machine.execSampleStreamFlush k n st
  | .dictLoad k => Sys2Proof.Machine.execDictLoad k st
  | .frameStart port vc at_ => Sys2Proof.Machine.execFrameStart port vc at_ st
  | .csiLongPacket port vc dtype headerOk crcOk payload => Sys2Proof.Machine.execCsiLongPacket port vc dtype headerOk crcOk payload st
  | .frameEnd port vc => Sys2Proof.Machine.execFrameEnd port vc st
  | .batchHandover stream => Sys2Proof.Machine.execBatchHandover stream st
  | .sampleTaken n => Sys2Proof.Machine.execSampleTaken n st
  | .decodeStart decoder at_ => Sys2Proof.Machine.execDecodeStart decoder at_ st
  | .decodeDone unit at_ => Sys2Proof.Machine.execDecodeDone unit at_ st
  | .overBudget unit at_ => Sys2Proof.Machine.execOverBudget unit at_ st
  | .fusionStart k => Sys2Proof.Machine.execFusionStart k st
  | .fusionStop k => Sys2Proof.Machine.execFusionStop k st
  | .fusionRecordWrite k i record => Sys2Proof.Machine.execFusionRecordWrite k i record st
  | .fusionCycle => Sys2Proof.Machine.execFusionCycle st
  | .solverStart k => Sys2Proof.Machine.execSolverStart k st
  | .solverStop k => Sys2Proof.Machine.execSolverStop k st
  | .solverSelect k slot => Sys2Proof.Machine.execSolverSelect k slot st
  | .solverRecordWrite k record => Sys2Proof.Machine.execSolverRecordWrite k record st
  | .scheduleLoad k slot => Sys2Proof.Machine.execScheduleLoad k slot st
  | .scheduleLoadDone slot => Sys2Proof.Machine.execScheduleLoadDone slot st
  | .solverCycle => Sys2Proof.Machine.execSolverCycle st
  | .solverOutput => Sys2Proof.Machine.execSolverOutput st
  | .pumpStart k => Sys2Proof.Machine.execPumpStart k st
  | .pumpStop k => Sys2Proof.Machine.execPumpStop k st
  | .pumpCmdRecordWrite k record => Sys2Proof.Machine.execPumpCmdRecordWrite k record st
  | .axisEnable k n => Sys2Proof.Machine.execAxisEnable k n st
  | .axisDisable k n => Sys2Proof.Machine.execAxisDisable k n st
  | .tablesLoad k n => Sys2Proof.Machine.execTablesLoad k n st
  | .tablesLoadDone n => Sys2Proof.Machine.execTablesLoadDone n st
  | .axisLawWrite k n law => Sys2Proof.Machine.execAxisLawWrite k n law st
  | .feedbackFrame x payload => Sys2Proof.Machine.execFeedbackFrame x payload st
  | .pumpSample g => Sys2Proof.Machine.execPumpSample g st
  | .pumpFrameHandoff g lateSlots => Sys2Proof.Machine.execPumpFrameHandoff g lateSlots st
  | .clockAdjust k delta => Sys2Proof.Machine.execClockAdjust k delta st
  | .clockSlewEnd => Sys2Proof.Machine.execClockSlewEnd st
  | .asStart k => Sys2Proof.Machine.execAsStart k st
  | .asStop k => Sys2Proof.Machine.execAsStop k st
  | .syncReceived gm offset => Sys2Proof.Machine.execSyncReceived gm offset st
  | .syncTimeout => Sys2Proof.Machine.execSyncTimeout st
  | .gmSelected self gm => Sys2Proof.Machine.execGmSelected self gm st
  | .syncTransmit x => Sys2Proof.Machine.execSyncTransmit x st
  | .pdelayExchange x delay => Sys2Proof.Machine.execPdelayExchange x delay st
  | .ppsOutPulse => Sys2Proof.Machine.execPpsOutPulse st
  | .ppsInEdge at_ => Sys2Proof.Machine.execPpsInEdge at_ st
  | .ppsEnableWrite k value => Sys2Proof.Machine.execPpsEnableWrite k value st
  | .timerStart k timer => Sys2Proof.Machine.execTimerStart k timer st
  | .timerStop k timer => Sys2Proof.Machine.execTimerStop k timer st
  | .timerFire timer => Sys2Proof.Machine.execTimerFire timer st
  | .t1PortStart k x => Sys2Proof.Machine.execT1PortStart k x st
  | .t1PortStop k x => Sys2Proof.Machine.execT1PortStop k x st
  | .t1LinkUp x => Sys2Proof.Machine.execT1LinkUp x st
  | .t1LinkDown x => Sys2Proof.Machine.execT1LinkDown x st
  | .t1FrameReceived x at_ frame => Sys2Proof.Machine.execT1FrameReceived x at_ frame st
  | .timedWrite k x value => Sys2Proof.Machine.execTimedWrite k x value st
  | .timedFrame k x data => Sys2Proof.Machine.execTimedFrame k x data st
  | .launchEligible x late => Sys2Proof.Machine.execLaunchEligible x late st
  | .fabricPortStart k p => Sys2Proof.Machine.execFabricPortStart k p st
  | .fabricPortStop k p => Sys2Proof.Machine.execFabricPortStop k p st
  | .fabricLinkUp p lanes => Sys2Proof.Machine.execFabricLinkUp p lanes st
  | .discoveryReceived p entry payload => Sys2Proof.Machine.execDiscoveryReceived p entry payload st
  | .siphonDescriptorDone channel => Sys2Proof.Machine.execSiphonDescriptorDone channel st
  | .siphonFenceReturn channel target => Sys2Proof.Machine.execSiphonFenceReturn channel target st
  | .domainsEnableWrite k value => Sys2Proof.Machine.execDomainsEnableWrite k value st
  | .domainOnDone d => Sys2Proof.Machine.execDomainOnDone d st
  | .domainOff d => Sys2Proof.Machine.execDomainOff d st
  | .capWrite k peak value => Sys2Proof.Machine.execCapWrite k peak value st
  | .weirSample input volts regions => Sys2Proof.Machine.execWeirSample input volts regions st
  | .droopAlarm region micros => Sys2Proof.Machine.execDroopAlarm region micros st
  | .droopClear region micros => Sys2Proof.Machine.execDroopClear region micros st
  | .prearmStart tag phase => Sys2Proof.Machine.execPrearmStart tag phase st
  | .prearmEnd tag phase => Sys2Proof.Machine.execPrearmEnd tag phase st
  | .tempSample temps => Sys2Proof.Machine.execTempSample temps st
  | .coolOkLow => Sys2Proof.Machine.execCoolOkLow st
  | .coolOkQualified => Sys2Proof.Machine.execCoolOkQualified st
  | .standbyEnter k => Sys2Proof.Machine.execStandbyEnter k st
  | .standbyWake => Sys2Proof.Machine.execStandbyWake st
  | .failureEvent unit cause confirmed job => Sys2Proof.Machine.execFailureEvent unit cause confirmed job st
  | .sramRetest unit passed => Sys2Proof.Machine.execSramRetest unit passed st
  | .fieldTestStart subject part => Sys2Proof.Machine.execFieldTestStart subject part st
  | .fieldTestDone subject passed => Sys2Proof.Machine.execFieldTestDone subject passed st
  | .fieldTestYield subject => Sys2Proof.Machine.execFieldTestYield subject st
  | .checkerTimeout subject => Sys2Proof.Machine.execCheckerTimeout subject st
  | .heartbeatLoss function => Sys2Proof.Machine.execHeartbeatLoss function st
  | .stopAckTimeout t => Sys2Proof.Machine.execStopAckTimeout t st
  | .hostSilent => Sys2Proof.Machine.execHostSilent st
  | .islandMismatch => Sys2Proof.Machine.execIslandMismatch st
  | .safeRequest k value => Sys2Proof.Machine.execSafeRequest k value st
  | .safeStateEntry cause detail fault => Sys2Proof.Machine.execSafeStateEntry cause detail fault st
  | .safetyFrameRepeat => Sys2Proof.Machine.execSafetyFrameRepeat st
  | .safeClear k value => Sys2Proof.Machine.execSafeClear k value st
  | .triggersWrite k value => Sys2Proof.Machine.execTriggersWrite k value st
  | .deviceResetWrite k value => Sys2Proof.Machine.execDeviceResetWrite k value st
  | .resetNLow => Sys2Proof.Machine.execResetNLow st
  | .deviceReset at_ => Sys2Proof.Machine.execDeviceReset at_ st
  | .updateBegin k => Sys2Proof.Machine.execUpdateBegin k st
  | .updateChunk k chunk => Sys2Proof.Machine.execUpdateChunk k chunk st
  | .updateCommit k => Sys2Proof.Machine.execUpdateCommit k st
  | .updateAbort k => Sys2Proof.Machine.execUpdateAbort k st
  | .minSvnWrite k value => Sys2Proof.Machine.execMinSvnWrite k value st
  | .keyRevoke k slot => Sys2Proof.Machine.execKeyRevoke k slot st
  | .lifecycleNonceRead k => Sys2Proof.Machine.execLifecycleNonceRead k st
  | .lifecycleRequest k request => Sys2Proof.Machine.execLifecycleRequest k request st
  | .debugAuth signature => Sys2Proof.Machine.execDebugAuth signature st
  | .quoteRequest k nonce => Sys2Proof.Machine.execQuoteRequest k nonce st
  | .quoteReady => Sys2Proof.Machine.execQuoteReady st
  | .sessionOpen x peer frame => Sys2Proof.Machine.execSessionOpen x peer frame st
  | .sessionClose x frame => Sys2Proof.Machine.execSessionClose x frame st
  | .sessionCloseWrite k j value => Sys2Proof.Machine.execSessionCloseWrite k j value st
  | .keepalive x frame => Sys2Proof.Machine.execKeepalive x frame st
  | .sessionTimeout k => Sys2Proof.Machine.execSessionTimeout k st
  | .request x frame => Sys2Proof.Machine.execRequest x frame st
  | .ixideRead k o => Sys2Proof.Machine.execIxideRead k o st
  | .ixideWrite k o => Sys2Proof.Machine.execIxideWrite k o st
  | .memRead k o => Sys2Proof.Machine.execMemRead k o st
  | .memWrite k o => Sys2Proof.Machine.execMemWrite k o st
  | .describe k data => Sys2Proof.Machine.execDescribe k data st
  | .notifyAck x frame => Sys2Proof.Machine.execNotifyAck x frame st
  | .notifyTransmit k => Sys2Proof.Machine.execNotifyTransmit k st
  | .notifyRetry k seq => Sys2Proof.Machine.execNotifyRetry k seq st
  | .undervoltage => Sys2Proof.Machine.execUndervoltage st
  | .overvoltage => Sys2Proof.Machine.execOvervoltage st
  | .pwrEnLow => Sys2Proof.Machine.execPwrEnLow st
  | .coldStart selfCheckOk => Sys2Proof.Machine.execColdStart selfCheckOk st
  | .regulatorRetry selfCheckOk => Sys2Proof.Machine.execRegulatorRetry selfCheckOk st
  | .cameraLinkLocked port => Sys2Proof.Machine.execCameraLinkLocked port st
  | .cameraLinkLost port => Sys2Proof.Machine.execCameraLinkLost port st
  | .fabricLinkDown p => Sys2Proof.Machine.execFabricLinkDown p st
  | .fabricFrameReceived p frame => Sys2Proof.Machine.execFabricFrameReceived p frame st
  | .ackTimeout p request => Sys2Proof.Machine.execAckTimeout p request st
  | .debugTransaction request => Sys2Proof.Machine.execDebugTransaction request st

end Sys2Proof.Machine
end

