-- ==== Sys2Proof/Machine/Step.lean ====
section
/-!
DEFINITION. Sys2Proof/Machine/Step.lean: the step takes the command at the front of the queue (log 1).
-/

namespace Sys2Proof.Machine

/-- One step: the front command's effect with the queue's rest; on an empty queue one AOCLK cycle passes (R365, log 1). -/
def step (s : State) : Host.Outcome State Fault Refusal :=
  match s.pending with
  | [] => .next (idle s)
  | c :: rest => exec c { s with pending := rest }

/-- The state with the command that a word spells put at the front of its queue. -/
def State.withFetchWord (s : State) (nbits w : Nat) : State :=
  match decodeTableWord nbits w with
  | none => s
  | some i => { s with pending := i :: s.pending }

/-- A program word that tile `t` issues: its instruction, or the illegal operation of an undefined opcode (R100, R102). The table has no
row for such a word, so no command of the queue spells one. -/
def issueWord (t : Fin 512) (w : BitVec 64) (s : State) : Host.Outcome State Fault Refusal :=
  match decodeTile t w with
  | some i => exec i s
  | none => .next (undefinedOp t.val s)

end Sys2Proof.Machine
end

