-- ==== Sys2Proof/Safety.lean ====
section
/-!
DEFINITION. Sys2Proof/Safety.lean: what claims mean by a safe step, a session that may command, an answered request and what a
command leaves alone.
-/

namespace Sys2Proof

/-- The step at `s` answers a next state: neither a fault nor a refusal. -/
def Runs (s : Machine.State) : Prop := ∃ t, Machine.step s = .next t

namespace Claims

open Machine

/-- The state in which the next request of session `k` executes: its frame is counted and heard, the session is busy (R468, R469). -/
def taken (k : Nat) (s : State) : State :=
  takeReq k ((sess s k).last + 1) (sess s k).peer (heardFrom k (count 0x741e 1 1 s))

/-- Session `k` is open on a port that is up, idle, in no transfer; the device is not in RECOVERY (R452, R464, R468). -/
def HostReady (k : Nat) (s : State) : Prop :=
  (sess s k).open_ = true ∧ (sess s k).busy = false ∧ (sess s k).transfer = none ∧ t1Up s (sess s k).port.val = true ∧
  s.boot.state ≠ .recovery

/-- Session `k` may command and holds right `r` (R466, R467). -/
def HostMay (k r : Nat) (s : State) : Prop := HostReady k s ∧ hasRight s k r = true

/-- Every session but `k` is as it was. -/
def OthersQuiet (k : Nat) (s t : State) : Prop := ∀ j, j ≠ k → sess t j = sess s j

/-- Every counter but those named is as it was; each name is index x 256 + subindex. -/
def CountersBut (l : List Nat) (s t : State) : Prop := ∀ i, i ∉ l → tblGet 0 t.counters i = tblGet 0 s.counters i

/-- What every answered request of session `k` does beside its effect: `t` is `u` but for the frame counted (0x741e:01), the
session heard and answered with `r` to its peer, the answer kept (R462, R468, R470). The answer is handed to the session's port,
which sends it at once or holds it before a launch (R379). -/
def AnsweredWith (k : Nat) (r : Reply) (u s t : State) : Prop :=
  let f := ixFrame s k 5 ((sess s k).last + 1) (stamp u) (responsePayload r)
  let w := ixSend (sess s k).port (sess s k).peer f u
  t = { u with sessions := t.sessions, counters := t.counters, out := w.out, t1 := w.t1,
               island := { u.island with hostHeard := t.island.hostHeard } } ∧
  sess t k = { sess u k with last := (sess s k).last + 1, busy := false, source := (sess s k).peer, cached := f, reply := r,
                             heard := now s } ∧
  OthersQuiet k u t ∧ counter t 0x741e 1 = counter u 0x741e 1 + 1

/-- The request of session `k` took effect, `u` being `s` with that effect, and is answered with `r`. -/
def Did (k : Nat) (r : Reply) (u s t : State) : Prop := AnsweredWith k r u s t ∧ CountersBut [0x741e01] u t

/-- The request of session `k` is refused with an abort code, counted at 0x741e:04; it changes nothing (R11, R474). -/
def RefusedWith (k : Nat) (code : BitVec 32) (s t : State) : Prop :=
  AnsweredWith k { abort := code } s s t ∧ CountersBut [0x741e01, 0x741e04] s t ∧ counter t 0x741e 4 = counter s 0x741e 4 + 1

/-- The request of session `k` is taken, `u` being `s` with its effect, and its answer waits (R60, R468). -/
def Awaits (k : Nat) (u s t : State) : Prop :=
  t = { u with sessions := t.sessions, counters := t.counters, island := { u.island with hostHeard := t.island.hostHeard } } ∧
  sess t k = { sess u k with last := (sess s k).last + 1, busy := true, source := (sess s k).peer, heard := now s } ∧
  OthersQuiet k u t ∧ CountersBut [0x741e01] u t

/-- Command `c` of session `k` is answered with `r`, with the effect that makes `u` of `s`. -/
def Answers (c : Instr) (k : Nat) (r : Reply) (u s : State) : Prop := ∃ t, exec c s = .next t ∧ Did k r u s t

/-- Command `c` of session `k` completes: answered with abort code 0 and `d`, with the effect that makes `u` of `s`. -/
def Completes (c : Instr) (k : Nat) (d : Bytes) (u s : State) : Prop := Answers c k { data := d } u s

/-- Command `c` of session `k` is taken, with the effect that makes `u` of `s`, and its answer waits for the Sluice (R60). -/
def Submits (c : Instr) (k : Nat) (u s : State) : Prop := ∃ t, exec c s = .next t ∧ Awaits k u s t

/-- The index and subindex hold plain configuration: a write that passes its checks only sets the value. -/
def plainObject (idx sub : Nat) : Bool :=
  let b := (famBase idx).1
  (b, sub) ∈ [(0x1020, 1), (0x1100, 2), (0x1100, 4), (0x1110, 1), (0x3002, 1), (0x3002, 2), (0x3410, 1), (0x3410, 5), (0x3410, 6),
    (0x3420, 2), (0x3428, 1), (0x3428, 2), (0x3428, 3), (0x3428, 4), (0x3430, 1), (0x3430, 3), (0x3430, 4), (0x3430, 5), (0x3430, 6),
    (0x3450, 1), (0x3450, 3), (0x3450, 5), (0x3800, 6), (0x3840, 1), (0x3840, 2), (0x4000, 0x0a), (0x4000, 0x0e)]

/-- Nothing changed but sessions, counters, the frames sent or held back on the T1 ports (R379) and HOST_WD's last word. -/
def HostOnly (s t : State) : Prop :=
  t = { s with sessions := t.sessions, counters := t.counters, out := t.out, t1 := t.t1,
               island := { s.island with hostHeard := t.island.hostHeard } } ∧
  ∀ x, t1Of t x = { t1Of s x with waiting := (t1Of t x).waiting }

/-- `t` has sent, or holds back on port `x`, what `u` has with one more Ixide frame to `peer` (R379). -/
def Sent (x : Fin 4) (peer frame : Bytes) (u t : State) : Prop :=
  t.out = (ixSend x peer frame u).out ∧ t.t1 = (ixSend x peer frame u).t1

/-- Memory in its canonical form: addresses strictly rising, no listed byte equal to what an unlisted one reads as. -/
def MemCanonical (s : State) : Prop := Memory.wf s.mem = true

/-- A tile instruction may issue on tile `t` with the fields its opcode names (R100, R102). -/
def MayRun (op t : Nat) (f : TileFields) (s : State) : Prop := mayIssue s t = true ∧ fieldsNamed op f = true

/-- A job without its counts of tile cycles. -/
def uncounted (j : Job) : Job :=
  { j with cycles := 0, tasks := j.tasks.map (fun (x : TaskRun) => { x with cycles := 0 }) }

/-- What an instruction of tile `t` that writes no memory leaves: every other tile, and everything else but the cycle counts of
the job that runs there; the program counter moves to the next instruction. -/
def TileOnly (t : Nat) (s s' : State) : Prop :=
  s' = { s with tiles := s'.tiles, sluice := { s.sluice with jobs := s'.sluice.jobs } } ∧
  (∀ u, u ≠ t → tileOf s' u = tileOf s u) ∧
  (tileOf s' t).pc = (tileOf s t).pc + 1 ∧
  s'.sluice.jobs.map uncounted = s.sluice.jobs.map uncounted

/-- Of tile `t`, only the vector registers of `rs` may have changed, beside the program counter and the cycle count. -/
def VecOnly (rs : List Nat) (x y : Tile) : Prop :=
  y = { x with v := y.v, intRegs := y.intRegs, pc := y.pc, cycles := y.cycles } ∧
  ∀ r i, r < 16 → i < 64 → r ∉ rs → lane y r i = lane x r i

/-- Of tile `t`, only the accumulator rows of `rs` may have changed, beside the program counter and the cycle count. -/
def AccOnly (rs : List Nat) (x y : Tile) : Prop :=
  y = { x with acc := y.acc, intRows := y.intRows, pc := y.pc, cycles := y.cycles } ∧
  ∀ r c, r < 128 → c < 64 → r ∉ rs → entry y r c = entry x r c

/-- What tile `t` leaves after an instruction that made `r` of it: its registers as `r` says, the program counter past the
instruction; memory as `r` says, unless the tile is a shadow, whose stores are discarded (R422). -/
def TileMade (t : Nat) (r : TileOut) (s s' : State) : Prop :=
  tileOf s' t = { r.tile with pc := r.tile.pc + 1, cycles := r.tile.cycles + r.cycles } ∧
  (∀ u, u ≠ t → tileOf s' u = tileOf s u) ∧
  s'.mem = (if (shadowOf s t).isSome then s.mem else r.mem) ∧
  s' = { s with tiles := s'.tiles, mem := s'.mem, sluice := { s.sluice with jobs := s'.sluice.jobs } } ∧
  s'.sluice.jobs.map uncounted = s.sluice.jobs.map uncounted

/-- Slot `sl` after `k` accesses of `n` elements each (R115). -/
def slotAfter (sl : AgSlot) (n : Nat) : Nat → AgSlot
  | 0 => sl
  | k + 1 => advance (slotAfter sl n k) n

/-- R117 allows each of `k` accesses of `n` elements in turn: format code `c`, `b` bits an element. -/
def Reaches (sl : AgSlot) (c b n k : Nat) : Prop := ∀ i, i < k → (access (slotAfter sl n i) c b n).isSome = true

/-- Address `a` is one of the bytes that hold an element of `b` bits which a store of tile `t` names in `refs` (R79, R114). -/
def StoredTo (t b : Nat) (refs : List ElemRef) (a : Nat) : Prop :=
  ∃ x : Int, ElemRef.bit x ∈ refs ∧ tileBase t + x.toNat / 8 ≤ a ∧ a < tileBase t + x.toNat / 8 + (x.toNat % 8 + b + 7) / 8

/-- The elements that a store of rows names, row by row: `at_` gives the slot at which a row's write stands. -/
def rowStores (g c b : Nat) (at_ : Memory → Tile → AgSlot)
    (step : Nat → Memory → Tile → AgSlot → Option (Memory × Tile × AgSlot × Nat)) : List Nat → Memory → Tile → List ElemRef
  | [], _, _ => []
  | r :: rs, m, tl =>
    (access (at_ m tl) c b 64).getD [] ++
    match step r m tl (slotOf tl g) with
    | some (m', tl', sl', _) => rowStores g c b at_ step rs m' (setSlot g sl' tl')
    | none => []

/-- The slot at which DRAIN writes a row under ZGATE: after the bias was read, where both use one slot (R104). -/
def gateSlot (t : Nat) (f : TileFields) (m : Memory) (tl : Tile) : AgSlot :=
  let sl := slotOf tl f.gd.toNat
  if tl.zimm.getLsbD 10 ∧ tl.zslot = f.gd then (match readAccess m t sl 9 16 64 with | some p => p.2 | none => sl) else sl

end Claims

end Sys2Proof
end

