-- ==== Sys2Proof/WellFormed.lean ====
section
/-!
DEFINITION. Sys2Proof/WellFormed.lean: which commands a sender can put on the module's wires. The checks bound lengths
and counts that the wire fixes; every check of a value by the module itself is part of a meaning, not of this file.
-/

namespace Sys2Proof

/-- The longest Ethernet frame that a port takes, a fabric port's (R382). -/
def maxFrame : Nat := 9216

/-- The longest value a dictionary write carries after its segments are joined: RECORD of 0x5800, 1 MiB (R483). -/
def maxValue : Nat := 1048576

/-- Is the command one that the module's wires can carry? -/
def Instr.wf : Instr → Bool
  | .configWrite _ _ _ data => decide (data.length ≤ maxValue)
  | .queueConfigWrite _ _ sub data => decide (data.length ≤ maxValue) && decide (sub.val < 4)
  | .submit _ _ desc => decide (desc.length ≤ maxValue)
  | .aquiferRequest _ write _ length data => decide (data.length = if write then length else 0)
  | .csiLongPacket _ _ _ _ _ payload => decide (payload.length < 65536)
  | .fusionRecordWrite _ _ record => decide (record.length ≤ maxValue)
  | .solverRecordWrite _ record => decide (record.length ≤ maxValue)
  | .pumpCmdRecordWrite _ record => decide (record.length ≤ maxValue)
  | .axisLawWrite _ _ law => decide (law.length ≤ maxValue)
  | .feedbackFrame _ payload => decide (payload.length ≤ maxFrame)
  | .t1FrameReceived _ _ frame => decide (frame.length ≤ maxFrame)
  | .timedFrame _ _ data => decide (data.length ≤ maxValue)
  | .discoveryReceived _ _ payload => decide (payload.length ≤ maxFrame)
  | .weirSample _ _ regions => decide (regions.length = 8)
  | .tempSample temps => decide (temps.length = 11)
  | .updateChunk _ chunk => decide (chunk.length ≤ maxValue)
  | .lifecycleRequest _ req => decide (req.length ≤ maxValue)
  | .quoteRequest _ nonce => decide (nonce.length ≤ maxValue)
  | .sessionOpen _ peer frame => decide (peer.length = 18) && decide (frame.length ≤ maxFrame)
  | .sessionClose _ frame => decide (frame.length ≤ maxFrame)
  | .keepalive _ frame => decide (frame.length ≤ maxFrame)
  | .request _ frame => decide (frame.length ≤ maxFrame)
  | .ixideRead _ o => decide (o.data.length ≤ maxFrame)
  | .ixideWrite _ o => decide (o.data.length ≤ maxFrame)
  | .memRead _ o => decide (o.data.length ≤ maxFrame)
  | .memWrite _ o => decide (o.data.length ≤ maxFrame)
  | .describe _ data => decide (data.length ≤ maxValue)
  | .notifyAck _ frame => decide (frame.length ≤ maxFrame)
  | .fabricFrameReceived _ frame => decide (frame.length ≤ maxFrame)
  | _ => true

end Sys2Proof
end

