-- ==== Sys2Proof/Certificates/Slice0/Obligations.lean ====
section
/-!
DEFINITION. Sys2Proof/Certificates/Slice0/Obligations.lean: the statements for the provers.
-/

open Sys2Proof Sys2Proof.Machine Sys2Proof.Claims

/-! ## The queue, reset and the whole machine -/

/-- The command at the front is run on the state with the queue's rest; on an empty queue one AOCLK cycle passes (the model's
choice, log 1). -/
def Obligations.StepRunsFrontCommand : Prop :=
  (∀ (c : Instr) (rest : List Instr) (s : State), s.pending = c :: rest → step s = exec c { s with pending := rest }) ∧
  (∀ s : State, s.pending = [] → step s = .next (idle s))

/-- What reset leaves: the values that R483 and the chapters state. Model's choices in it: logs 4, 7, 103. -/
def Obligations.ResetValues : Prop :=
  State.reset.events = 1 ∧ State.reset.boot.state = .ready ∧
  (∀ q : Fin 4096, qget State.reset q.val = { state := .stopped, gen := 0, nextSeq := 1, records := [] } ∧
    queueClient State.reset q.val = 0 ∧ queueClass State.reset q.val = 2 ∧ queuePermit State.reset q.val = 0) ∧
  (∀ p : Fin 64, (partOf State.reset p.val).state = .stopped ∧ partShape State.reset p.val = 0) ∧
  (∀ t : Fin 512, ∀ g : Fin 16, (slotOf (tileOf State.reset t.val) g.val).image = List.replicate 12 0 ++ 7 :: List.replicate 51 0) ∧
  (∀ k : Fin 64, (sess State.reset k.val).open_ = false) ∧
  (∀ i j, counter State.reset i j = 0) ∧
  State.reset.pending = [] ∧ State.reset.solver.running = false ∧ State.reset.fusion.running = false ∧
  State.reset.pump.running = false ∧ State.reset.map.running = false ∧ (∀ a, memByte State.reset.mem a = 0)

/-- Memory at reset is in its canonical form. Model's choices in it: log 103. -/
def Obligations.ResetMemoryCanonical : Prop := MemCanonical State.reset

/-- Every step keeps memory in its canonical form. Model's choices in it: log 103. -/
def Obligations.StepKeepsMemoryCanonical : Prop := ∀ s t : State, MemCanonical s → step s = .next t → MemCanonical t

/-- A write of bytes: what it leaves readable inside and outside its range, and the canonical form, of which each content has
one. Model's choices in it: log 103. -/
def Obligations.MemoryReadAfterWrite : Prop :=
  ∀ (s : State), MemCanonical s →
    (∀ (a : Nat) (bs : Bytes), MemCanonical (poke a bs s) ∧ peek (poke a bs s) a bs.length = bs ∧
      ∀ j, ¬(a ≤ j ∧ j < a + bs.length) → memByte (poke a bs s).mem j = memByte s.mem j) ∧
    ∀ t : State, MemCanonical t → (∀ a, memByte s.mem a = memByte t.mem a) → s.mem = t.mem

/-- A tile instruction is a word of 64 bits, little-endian in memory, whose fields lie where R99 puts them: OP in [63:56], its last byte,
FA, FB, FD, MOD, GA, GB and GD below it, four bits each, then ROW and CNT, and IMM in [13:0]. Encode and decode agree on it: every
encoded instruction is read back, a word that decodes is the word of its instruction, and no instruction has two spellings (R99). -/
def Obligations.TileCodingExact : Prop :=
  ∀ (i : Instr) (t : Fin 512) (w : BitVec 64),
    (encodeTile i = some (t, w) ↔ decodeTile t w = some i) ∧
    (decodeTile t w = some i → ∃ (op : BitVec 8) (f : TileFields), tileParts i = some (t, op, f) ∧
      op = w.extractLsb' 56 8 ∧ f.fa = w.extractLsb' 52 4 ∧ f.fb = w.extractLsb' 48 4 ∧ f.fd = w.extractLsb' 44 4 ∧
      f.mod = w.extractLsb' 40 4 ∧ f.ga = w.extractLsb' 36 4 ∧ f.gb = w.extractLsb' 32 4 ∧ f.gd = w.extractLsb' 28 4 ∧
      f.row = w.extractLsb' 21 7 ∧ f.cnt = w.extractLsb' 14 7 ∧ f.imm = w.extractLsb' 0 14 ∧
      ∀ bytes : Bytes, bytes.length = 8 → w.toNat = leNat bytes → nth 0 bytes 7 = op)

/-! ## The tile (R82-R108) -/

/-- VADD, VMUL, VMAX, VMIN, VFMA, VCMP and VSEL complete: each lane of vd is the operation on the lanes of its operands, and
nothing else of the tile changes (R92, R100). Model's choices in it: logs 84, 86. -/
def Obligations.VectorArithmetic : Prop :=
  ∀ (s : State) (t : Fin 512) (f : TileFields),
    let Lanes := fun (c : Instr) (g : Nat → BitVec 32) => ∃ s', exec c s = .next s' ∧ TileOnly t.val s s' ∧ s'.mem = s.mem ∧
      VecOnly [f.gd.toNat] (tileOf s t.val) (tileOf s' t.val) ∧ ∀ i, i < 64 → lane (tileOf s' t.val) f.gd.toNat i = g i
    let a := fun i => lane (tileOf s t.val) f.ga.toNat i
    let b := fun i => lane (tileOf s t.val) f.gb.toNat i
    let c := fun i => lane (tileOf s t.val) f.imm.toNat i
    (MayRun 0x14 t.val f s → Lanes (.vadd t f) (fun i => f32Add (a i) (b i))) ∧
    (MayRun 0x15 t.val f s → Lanes (.vmul t f) (fun i => f32Mul (a i) (b i))) ∧
    (MayRun 0x16 t.val f s → Lanes (.vfma t f) (fun i => f32Fma (a i) (b i) (c i))) ∧
    (MayRun 0x17 t.val f s → Lanes (.vmax t f) (fun i => f32Max (a i) (b i))) ∧
    (MayRun 0x18 t.val f s → Lanes (.vmin t f) (fun i => f32Min (a i) (b i))) ∧
    (MayRun 0x19 t.val f s → f.mod.toNat ≤ 5 →
      Lanes (.vcmp t f) (fun i => if cmpLane f.mod.toNat (a i) (b i) then 0xffffffff else 0)) ∧
    (MayRun 0x1a t.val f s → Lanes (.vsel t f) (fun i => if c i = 0 then b i else a i))

/-- The nine functions complete: each lane of vd is the function of va's lane, within the bound of R93 that `funcResult` keeps.
Model's choices in it: logs 21, 84. -/
def Obligations.VectorFunctions : Prop :=
  ∀ (s : State) (t : Fin 512) (f : TileFields),
    let Lanes := fun (op : Nat) (c : Instr) (g : FuncOp) => MayRun op t.val f s →
      ∃ s', exec c s = .next s' ∧ TileOnly t.val s s' ∧ s'.mem = s.mem ∧ VecOnly [f.gd.toNat] (tileOf s t.val) (tileOf s' t.val) ∧
        ∀ i, i < 64 → lane (tileOf s' t.val) f.gd.toNat i = funcResult g (lane (tileOf s t.val) f.ga.toNat i)
    Lanes 0x20 (.vexp t f) .exp ∧ Lanes 0x21 (.vlog t f) .log ∧ Lanes 0x22 (.vrcp t f) .rcp ∧ Lanes 0x23 (.vrsq t f) .rsq ∧
    Lanes 0x24 (.vsig t f) .sig ∧ Lanes 0x25 (.vtanh t f) .tanh ∧ Lanes 0x26 (.vsilu t f) .silu ∧ Lanes 0x27 (.vgelu t f) .gelu ∧
    Lanes 0x28 (.vsplus t f) .splus

/-- VCVT, VRQ, VMXQ and VRED complete: the lanes of their results by R89-R91 and R100, only vd (and vd + 1 where the rule names
it) changed. Model's choices in it: logs 84, 85, 86, 110. -/
def Obligations.VectorConversions : Prop :=
  ∀ (s : State) (t : Fin 512) (f : TileFields),
    let x := tileOf s t.val
    let a := fun i => lane x f.ga.toNat i
    let d := f.gd.toNat
    let e := (d + 1) % 16
    let Made := fun (c : Instr) (rs : List Nat) (p : Tile → Prop) => ∃ s', exec c s = .next s' ∧ TileOnly t.val s s' ∧
      s'.mem = s.mem ∧ VecOnly rs x (tileOf s' t.val) ∧ p (tileOf s' t.val)
    (MayRun 0x1b t.val f s →
      (f.mod = 0 → f.fa = 0xb → f.fd = 0xc → Made (.vcvt t f) [d] (fun y => ∀ i, i < 64 → lane y d i = f32ToInt (a i))) ∧
      (f.mod = 0 → f.fa = 0xc → f.fd = 0xb → Made (.vcvt t f) [d] (fun y => ∀ i, i < 64 → lane y d i = intToF32 (a i))) ∧
      (f.mod = 1 → f.fa = 0xb → f.fd ∈ [3, 4, 9, 0xa, 0xb] →
        Made (.vcvt t f) [d] (fun y => ∀ i, i < 64 → lane y d i = roundThrough f.fd.toNat (a i))) ∧
      (f.mod = 2 → Made (.vcvt t f) [d, e] (fun y => ∀ i, i < 64 →
        lane y d i = roundThrough 9 (a i) ∧ lane y e i = roundThrough 9 (f32Sub (a i) (roundThrough 9 (a i)))))) ∧
    (MayRun 0x1c t.val f s → ∀ lo hi : Int, vrqBounds f.fd.toNat = some (lo, hi) →
      Made (.vrq t f) [d] (fun y => ∀ i, i < 64 → lane y d i = BitVec.ofInt 32 (clampInt lo hi
        (roundShiftInt ((a i).toInt * (lane x f.gb.toNat i).toInt) (f.imm.toNat % 64) + signedOf 8 (f.imm.toNat / 64))))) ∧
    (MayRun 0x1d t.val f s → fmtIsMx f.fd.toNat = true →
      Made (.vmxq t f) [d, e] (fun y =>
        (∀ i, i < 32 → lane y d i = BitVec.ofNat 32 (nth 0 (mxBlock f.fd.toNat ((List.range 32).map a)).1 i)) ∧
        (∀ i, i < 32 → lane y d (32 + i) =
          BitVec.ofNat 32 (nth 0 (mxBlock f.fd.toNat ((List.range 32).map (fun j => a (32 + j)))).1 i)) ∧
        lane y e 0 = (lane x e 0).extractLsb' 16 16 ++
          BitVec.ofNat 8 (mxBlock f.fd.toNat ((List.range 32).map (fun j => a (32 + j)))).2 ++
          BitVec.ofNat 8 (mxBlock f.fd.toNat ((List.range 32).map a)).2 ∧
        (∀ i, 0 < i → i < 64 → lane y e i = lane x e i))) ∧
    (MayRun 0x1e t.val f s → Made (.vred t f) [d] (fun y =>
      [lane y d 0] = (List.range 6).foldl (fun l _ => pairUp (if f.mod.getLsbD 0 then f32Max else f32Add) l) ((List.range 64).map a) ∧
      ∀ i, 0 < i → i < 64 → lane y d i = lane x d i))

/-- ACLR, VLDA, VSTA, RSTEP and ZCFG complete: what they make of rows, of vd and of the gate configuration (R96, R98, R100,
R104). Model's choices in it: logs 85, 115. -/
def Obligations.AccumulatorRegisters : Prop :=
  ∀ (s : State) (t : Fin 512) (f : TileFields),
    let x := tileOf s t.val
    let r := f.row.toNat
    let a := fun i => lane x f.ga.toNat i
    let Made := fun (c : Instr) (p : Tile → Prop) => ∃ s', exec c s = .next s' ∧ TileOnly t.val s s' ∧ s'.mem = s.mem ∧ p (tileOf s' t.val)
    (MayRun 0x03 t.val f s → r + f.cnt.toNat ≤ 127 → Made (.aclr t f) (fun y =>
      AccOnly ((List.range (f.cnt.toNat + 1)).map (fun i => r + i)) x y ∧
      ∀ i c, i ≤ f.cnt.toNat → c < 64 → entry y (r + i) c = 0)) ∧
    (MayRun 0x12 t.val f s → Made (.vlda t f) (fun y => VecOnly [f.gd.toNat] x y ∧
      ∀ i, i < 64 → lane y f.gd.toNat i = (entry x r i).extractLsb' 0 32)) ∧
    (MayRun 0x13 t.val f s → ¬(zgateOn s t.val = true ∧ f.mod.getLsbD 2 = true ∧ 112 ≤ r) → Made (.vsta t f) (fun y => AccOnly [r] x y ∧
      (f.mod = 0 → ∀ c, c < 64 → entry y r c = mkEntry 0 (a c)) ∧
      (f.mod.getLsbD 2 = true → ∀ c, c < 64 → entry y r c = compPair (fpAdd (compValue (entry x r c)) (f32 (a c)))) ∧
      (f.mod = 2 → r ∉ x.intRows → ∀ c, c < 64 → entry y r c = mkEntry 0 (f32Add ((entry x r c).extractLsb' 0 32) (a c))))) ∧
    (MayRun 0x30 t.val f s → 112 ≤ r → zgateOn s t.val = false → Made (.rstep t f) (fun y => AccOnly [r] x y ∧
      ∀ c, c < 64 → entry y r c = compPair (fpAdd (fpMul (f32 (a c)) (compValue (entry x r c))) (f32 (lane x f.gb.toNat c))))) ∧
    (MayRun 0x38 t.val f s → f.imm.toNat / 2 ^ 11 ≤ 5 → Made (.zcfg t f) (fun y =>
      y = { x with zimm := f.imm, zslot := f.ga, pc := y.pc, cycles := y.cycles }))

/-- LDW, MMA, ALD, VLD and AGSET: wherever the operation is legal they complete, the tile is what the operation makes of it,
memory stays as it was, and only the state that the row names changes. Each is legal, and completes, where its fields and
formats are those of R81, R78 and R100, no row lies past 127 (R94), and R117 allows its accesses (R102). Model's choices in it:
logs 22, 85, 88, 110, 113, 114. -/
def Obligations.TileReads : Prop :=
  ∀ (s : State) (t : Fin 512) (f : TileFields), mayIssue s t.val = true →
    let x := tileOf s t.val
    let z := zgateOn s t.val
    let n := f.cnt.toNat + 1
    let rows := (List.range n).map (fun i => f.row.toNat + i)
    let a := f.fa.toNat
    let b := f.fb.toNat
    let sa := slotOf x f.ga.toNat
    let sb := slotOf x f.gb.toNat
    let Made := fun (c : Instr) (o : Option TileOut) (p : Tile → Prop) => ∀ r, o = some r →
      ∃ s', exec c s = .next s' ∧ TileMade t.val r s s' ∧ s'.mem = s.mem ∧ p r.tile
    let Ends := fun (c : Instr) (o : Option TileOut) => ∃ r s', o = some r ∧ exec c s = .next s' ∧ TileMade t.val r s s'
    Made (.ldw t f) (opLdw t.val f s.mem x) (fun y =>
      y = { x with w0 := if f.mod.getLsbD 0 then x.w0 else y.w0, w1 := if f.mod.getLsbD 0 then y.w1 else x.w1, slots := y.slots } ∧
      ∀ g, g ≠ f.gb.toNat → slotOf y g = slotOf x g) ∧
    Made (.mma t f) (opMma z t.val f s.mem x) (fun y =>
      y = { x with acc := y.acc, intRows := y.intRows, slots := y.slots } ∧
      (∀ g, g ≠ f.ga.toNat → slotOf y g = slotOf x g) ∧ ∀ q c, q < 128 → c < 64 → q ∉ rows → entry y q c = entry x q c) ∧
    Made (.ald t f) (opAld t.val f s.mem x) (fun y =>
      y = { x with acc := y.acc, intRows := y.intRows, slots := y.slots } ∧
      (∀ g, g ≠ f.ga.toNat → slotOf y g = slotOf x g) ∧ ∀ q c, q < 128 → c < 64 → q ∉ rows → entry y q c = entry x q c) ∧
    Made (.vld t f) (opVld t.val f s.mem x) (fun y =>
      y = { x with v := y.v, intRegs := y.intRegs, slots := y.slots } ∧
      (∀ g, g ≠ f.ga.toNat → slotOf y g = slotOf x g) ∧
      ∀ q i, q < 16 → i < 64 → q ≠ f.gd.toNat → lane y q i = lane x q i) ∧
    Made (.agset t f) (opAgset t.val f s.mem x) (fun y =>
      y = { x with slots := y.slots } ∧ (∀ g, g ≠ f.ga.toNat → slotOf y g = slotOf x g) ∧
      (slotOf y f.ga.toNat).image = peek s (tileBase t.val + f.imm.toNat * 64) 64) ∧
    (fieldsNamed 0x01 f = true → fmtB b = true → (access sb b (fmtBits b) (blockK b * 64)).isSome = true →
      (fmtIsMx b = true → slotSBase sb.image + 64 * (sb.pos / 2048) + 64 ≤ tileBytes) →
      Ends (.ldw t f) (opLdw t.val f s.mem x)) ∧
    (fieldsNamed 0x02 f = true → pairOk a b = true → f.row.toNat + f.cnt.toNat ≤ 127 → Reaches sa a (fmtBits a) (passK a b) n →
      ¬(f.mod.getLsbD 2 = true ∧ (fmtIsInt a = true ∨ (z = true ∧ inBank7 rows = true))) →
      (fmtIsMx a = true → ∀ i, i < n → slotSBase sa.image + (slotAfter sa (passK a b) i).pos / 32 + 1 ≤ tileBytes) →
      Ends (.mma t f) (opMma z t.val f s.mem x)) ∧
    (fieldsNamed 0x05 f = true → f.row.toNat + f.cnt.toNat ≤ 127 →
      ((f.mod = 0 ∧ fmtLoad a = true ∧ Reaches sa a (fmtBits a) 64 n) ∨ (f.mod = 1 ∧ Reaches sa 16 64 64 n) ∨
        (f.mod = 2 ∧ 112 ≤ f.row.toNat ∧ Reaches sa 9 16 64 n)) →
      Ends (.ald t f) (opAld t.val f s.mem x)) ∧
    (fieldsNamed 0x10 f = true → fmtLoad a = true → (access sa a (fmtBits a) 64).isSome = true →
      Ends (.vld t f) (opVld t.val f s.mem x)) ∧
    (fieldsNamed 0x40 f = true → f.imm.toNat * 64 + 64 ≤ tileBytes → Ends (.agset t f) (opAgset t.val f s.mem x))

/-- MMA over its rows (R84-R87): row ROW + i takes the elements of the i-th access of slot GA and, where A is an MX format, that
access's scale. Every column takes the exact integer sum of row and column, saturated, or the group sum times both scales, by
OVERWRITE and COMP; an operand without a scale counts as 1. No other row changes. Model's choices in it: logs 84, 85, 113, 114.
-/
def Obligations.MmaRowSum : Prop :=
  ∀ (s : State) (t : Fin 512) (f : TileFields) (as : Nat → List Nat),
    let x := tileOf s t.val
    let fa := f.fa.toNat
    let fb := f.fb.toNat
    let k := passK fa fb
    let n := f.cnt.toNat
    let w := if f.mod.getLsbD 0 then x.w1 else x.w0
    let sl := slotOf x f.ga.toNat
    let scaleAt := fun i => slotSBase sl.image + (slotAfter sl k i).pos / 32
    let xa := fun i => if fmtIsMx fa then some (memByte s.mem (tileBase t.val + scaleAt i)) else none
    let xb := fun c => if fmtIsMx fb then some (tblGet 0 w.scales c) else none
    let col := fun c => (List.range k).map (fun i => weight w fb i c)
    MayRun 0x02 t.val f s → pairOk fa fb = true → f.row.toNat + n ≤ 127 →
    ¬(f.mod.getLsbD 2 = true ∧ (fmtIsInt fa = true ∨ (zgateOn s t.val = true ∧ 112 ≤ f.row.toNat + n))) →
    (∀ i, i ≤ n → readAccess s.mem t.val (slotAfter sl k i) fa (fmtBits fa) k = some (as i, slotAfter sl k (i + 1))) →
    (fmtIsMx fa = true → ∀ i, i ≤ n → scaleAt i + 1 ≤ tileBytes) →
    ∃ s', exec (.mma t f) s = .next s' ∧ TileOnly t.val s s' ∧ s'.mem = s.mem ∧
      slotOf (tileOf s' t.val) f.ga.toNat = slotAfter sl k (n + 1) ∧
      (∀ r c, r < 128 → c < 64 → ¬(f.row.toNat ≤ r ∧ r ≤ f.row.toNat + n) → entry (tileOf s' t.val) r c = entry x r c) ∧
      ∀ i c, i ≤ n → c < 64 → entry (tileOf s' t.val) (f.row.toNat + i) c =
        if fmtIsInt fa then accumulateInt (f.mod.getLsbD 1) (entry x (f.row.toNat + i) c) (intGroup fa fb (as i) (col c))
        else accumulate (f.mod.getLsbD 1) (f.mod.getLsbD 2) (entry x (f.row.toNat + i) c)
          (scaleBy (xb c) (scaleBy (xa i) (groupSum (((as i).zip (col c)).map (fun p => fpMul (fpElem fa p.1) (fpElem fb p.2))))))

/-- AST, DRAIN and VST: wherever the operation is legal they complete and no byte changes outside the elements they store, whose
addresses the slot's stream gives (VST: and its two scale bytes, R116). Each is legal, and completes, where its fields and
formats are those of R100 and R104, no row lies past 127 (R94), and R117 allows its accesses (R102). Model's choices in it: logs
22, 87, 88, 89, 100, 109, 113, 114. -/
def Obligations.TileStores : Prop :=
  ∀ (s : State) (t : Fin 512) (f : TileFields), mayIssue s t.val = true →
    let x := tileOf s t.val
    let n := f.cnt.toNat + 1
    let rows := (List.range n).map (fun i => f.row.toNat + i)
    let z := zgateOn s t.val
    let c := f.fd.toNat
    let g := f.gd.toNat
    let sl := slotOf x g
    let scaleAt := slotSBase sl.image + sl.pos / 32
    let bias := x.zimm.getLsbD 10
    let b := if f.mod.getLsbD 0 then 64 else 32
    let Made := fun (i : Instr) (o : Option TileOut) (dest : Nat → Prop) (p : Tile → Prop) => ∀ r, o = some r →
      ∃ s', exec i s = .next s' ∧ TileMade t.val r s s' ∧ (∀ a, ¬dest a → memByte s'.mem a = memByte s.mem a) ∧ p r.tile
    let Ends := fun (i : Instr) (o : Option TileOut) => ∃ r s', o = some r ∧ exec i s = .next s' ∧ TileMade t.val r s s'
    Made (.ast t f) (opAst t.val f s.mem x) (StoredTo t.val b (rowStores g (if f.mod.getLsbD 0 then 16 else 0xb) b
        (fun _ tl => slotOf tl g) (astRow t.val f) rows s.mem x))
      (fun y => y = { x with slots := y.slots, sigW := y.sigW }) ∧
    Made (.drain t f) (opDrain z t.val f s.mem x) (StoredTo t.val (fmtBits c) (if z
        then rowStores g c (fmtBits c) (gateSlot t.val f) (drainGateRow t.val f) rows s.mem x
        else rowStores g c (fmtBits c) (fun _ tl => slotOf tl g) (drainRow t.val f) rows s.mem x))
      (fun y => y = { x with acc := y.acc, intRows := y.intRows, slots := y.slots, sigW := y.sigW } ∧
        (f.mod.getLsbD 1 = true → y.acc = x.acc) ∧
        (f.mod.getLsbD 1 = false → ∀ q i, q ∈ rows → i < 64 → entry y q i = 0) ∧
        ∀ q i, q < 128 → i < 64 → q ∉ rows → entry y q i = entry x q i) ∧
    Made (.vst t f) (opVst t.val f s.mem x)
      (fun a => StoredTo t.val (fmtBits c) ((access sl c (fmtBits c) 64).getD []) a ∨
        (fmtIsMx c = true ∧ tileBase t.val + scaleAt ≤ a ∧ a < tileBase t.val + scaleAt + 2))
      (fun y => y = { x with slots := y.slots, sigW := y.sigW }) ∧
    (fieldsNamed 0x06 f = true → f.row.toNat + f.cnt.toNat ≤ 127 →
      (if f.mod.getLsbD 0 then Reaches sl 16 64 64 n else Reaches sl 0xb 32 64 n) → Ends (.ast t f) (opAst t.val f s.mem x)) ∧
    (fieldsNamed 0x04 f = true → f.row.toNat + f.cnt.toNat ≤ 127 → z = false → fmtD c = true → Reaches sl c (fmtBits c) 64 n →
      Ends (.drain t f) (opDrain z t.val f s.mem x)) ∧
    (fieldsNamed 0x04 f = true → f.row.toNat + f.cnt.toNat ≤ 127 → z = true → c = 9 ∨ c = 3 → (∀ r ∈ rows, r ∉ x.intRows) →
      (bias = false ∨ x.zslot ≠ f.gd → Reaches sl c (fmtBits c) 64 n) →
      (bias = true → x.zslot ≠ f.gd → Reaches (slotOf x x.zslot.toNat) 9 16 64 n) →
      (bias = true → x.zslot = f.gd → ∀ i, i < n → (access (slotAfter sl 64 (2 * i)) 9 16 64).isSome = true ∧
        (access (slotAfter sl 64 (2 * i + 1)) c (fmtBits c) 64).isSome = true) →
      Ends (.drain t f) (opDrain z t.val f s.mem x)) ∧
    (fieldsNamed 0x11 f = true → fmtStore c = true → (fmtIsMx c = true → scaleAt + 2 ≤ tileBytes) →
      (∃ refs, access sl c (fmtBits c) 64 = some refs ∧ writeLegal sl (fmtBits c) refs = true) →
      Ends (.vst t f) (opVst t.val f s.mem x))

/-- NOP, LOOP, ENDL, EVSIG, EVWAIT on an event raised for the tile's job and BAR of a mask that has all arrived complete; BAR of
any other mask and EVWAIT on an event that is not raised for the job make the tile wait (R22, R100). END ends the task that runs
on the tile (R62, R100): while the job has further tasks it runs on; the last task's END brings the job to its commit fences, on
a pair if the signatures agree (R423); the END of a pair's primary only moves on to its shadow's (R422). Model's choices in it:
logs 25, 88, 100, 111, 112. -/
def Obligations.Sequencer : Prop :=
  (∀ (s : State) (t : Fin 512) (f : TileFields),
    let x := tileOf s t.val
    let n := tblGet 0 x.loops f.mod.toNat
    (MayRun 0x00 t.val f s → ∃ s', exec (.nop t f) s = .next s' ∧ TileOnly t.val s s' ∧ s'.mem = s.mem ∧
      tileOf s' t.val = { x with pc := x.pc + 1, cycles := x.cycles + 1 }) ∧
    (MayRun 0x46 t.val f s → ∃ s', exec (.loop t f) s = .next s' ∧ TileOnly t.val s s' ∧
      tblGet 0 (tileOf s' t.val).loops f.mod.toNat = f.imm.toNat) ∧
    (MayRun 0x47 t.val f s → ∃ s', exec (.endl t f) s = .next s' ∧
      tblGet 0 (tileOf s' t.val).loops f.mod.toNat = n - 1 ∧
      (tileOf s' t.val).pc = (if n = 0 then x.pc + 1 else x.pc - f.imm.toNat) ∧ s'.mem = s.mem) ∧
    (∀ j m, taskOn s t.val = some (j, m) →
      (∀ e, MayRun 0x44 t.val f s → raisedFor s j.tag f.imm.toNat = some e → ∃ s', exec (.evwait t f) s = .next s' ∧
        s'.raised = s.raised.erase e ∧ (e.job = none ∨ e.job = some j.tag) ∧ e.number = f.imm.toNat ∧
        (tileOf s' t.val).wait = none ∧ (tileOf s' t.val).pc = x.pc + 1) ∧
      (MayRun 0x44 t.val f s → raisedFor s j.tag f.imm.toNat = none → ∃ s', exec (.evwait t f) s = .next s' ∧
        s'.raised = s.raised ∧ (tileOf s' t.val).wait = some (.event f.imm.toNat j.tag) ∧ (tileOf s' t.val).pc = x.pc) ∧
      (MayRun 0x45 t.val f s → eventWaiters s (some j.tag) f.imm.toNat = [] → ∃ s', exec (.evsig t f) s = .next s' ∧
        ⟨f.imm.toNat, some j.tag⟩ ∈ s'.raised ∧ (∀ e, e ∈ s.raised → e ∈ s'.raised) ∧ (tileOf s' t.val).pc = x.pc + 1)) ∧
    (MayRun 0x43 t.val f s →
      (f.imm.setWidth 8 : BitVec 8) &&& ~~~((clusterOf s (clusterOfTile t.val)).arrived ||| BitVec.ofNat 8 (2 ^ (t.val % 8))) = 0 →
      ∃ s', exec (.bar t f) s = .next s' ∧ (tileOf s' t.val).wait = none ∧ (tileOf s' t.val).pc = x.pc + 1 ∧
        (clusterOf s' (clusterOfTile t.val)).arrived.getLsbD (t.val % 8) = false ∧ s'.mem = s.mem) ∧
    (MayRun 0x43 t.val f s →
      (f.imm.setWidth 8 : BitVec 8) &&& ~~~((clusterOf s (clusterOfTile t.val)).arrived ||| BitVec.ofNat 8 (2 ^ (t.val % 8))) ≠ 0 →
      ∃ s', exec (.bar t f) s = .next s' ∧ (tileOf s' t.val).wait = some (.bar (f.imm.setWidth 8)) ∧ (tileOf s' t.val).pc = x.pc ∧
        (clusterOf s' (clusterOfTile t.val)).arrived.getLsbD (t.val % 8) = true)) ∧
  ∀ (s : State) (t : Fin 512) (f : TileFields) (j : Job) (i : Nat),
    MayRun 0x4f t.val f s → taskOn s t.val = some (j, i) → jobOf s j.tag = some j →
    let ends := j.desc.lockstep = false ∨ (t.val % 2 = 1 ∧ pairMismatch s j = [])
    let last := ∀ m y, m ≠ i → j.tasks[m]? = some y → y.ended = true
    ∃ s', exec (.end_ t f) s = .next s' ∧
      (j.desc.lockstep = true → t.val % 2 = 0 → TileOnly t.val s s') ∧
      (ends → ¬last → ∃ k, jobOf s' j.tag = some k ∧ k.phase = .running ∧ s'.mem = s.mem ∧
        (k.tasks[i]?).map (fun y => y.ended) = some true ∧
        ∀ m, m ≠ i → (k.tasks[m]?).map (fun y => y.ended) = (j.tasks[m]?).map (fun y => y.ended)) ∧
      (ends → last → ∃ k, jobOf s' j.tag = some k ∧ k.phase = .ending ∧ s'.mem = s.mem ∧ ∀ y, y ∈ k.tasks → y.ended = true)

/-- DMA posts the descriptor at IMM x 32 of the tile's SRAM to the channel its byte 0x14 names, and the tile goes on; on a full
channel it stalls; a descriptor against the rules, or one that names an unmapped byte, ends the job (R223, R386, R395); a shadow
posts nothing (R422). A FENCE completes where nothing it waits for is outstanding, and else the tile waits (R393). Model's
choices in it: log 100. -/
def Obligations.SequencerDmaFence : Prop :=
  ∀ (s : State) (t : Fin 512) (f : TileFields),
    let x := tileOf s t.val
    let k := clusterOfTile t.val
    let desc := peek s (tileBase t.val + f.imm.toNat * 32) 32
    let ch := clusterChannel k (fieldAt desc 20 1 % 8)
    let fc := clusterChannel k (f.imm.toNat % 8)
    let job := (taskOn s t.val).map (fun p => p.1.tag)
    let ok := siphonRules s desc = true
    let mapped := siphonMapped s ⟨job, none⟩ desc = true
    let clear := postedDone s fc t.val = true ∧ (chanOf s fc).targets = [] ∧ (chanOf s fc).fencing = []
    (MayRun 0x41 t.val f s → (shadowOf s t.val).isSome = false →
      (ok → mapped → (chanOf s ch).posted.length < 16 → ∃ s', exec (.dma t f) s = .next s' ∧ s'.mem = s.mem ∧
        (chanOf s' ch).posted = (chanOf s ch).posted ++ [{ desc := desc, tile := t.val, job := job }] ∧
        (∀ c, c ≠ ch → chanOf s' c = chanOf s c) ∧ (tileOf s' t.val).pc = x.pc + 1 ∧
        clusterOf s' k = { clusterOf s k with rr := (t.val % 8 + 1) % 8 }) ∧
      (ok → mapped → 16 ≤ (chanOf s ch).posted.length → exec (.dma t f) s = .next s) ∧
      (∀ tag, job = some tag → ¬ok → exec (.dma t f) s = .next (programFault tag (count 0x741b 0x0b 1 s))) ∧
      (∀ tag, job = some tag → ok → ¬mapped → exec (.dma t f) s = .next (programFault tag (count 0x7415 0x0b 1 s)))) ∧
    ((shadowOf s t.val).isSome = true →
      (MayRun 0x41 t.val f s → ∃ s', exec (.dma t f) s = .next s' ∧ TileOnly t.val s s') ∧
      (MayRun 0x42 t.val f s → ∃ s', exec (.fence t f) s = .next s' ∧ TileOnly t.val s s')) ∧
    (MayRun 0x42 t.val f s → (shadowOf s t.val).isSome = false →
      (clear → ∃ s', exec (.fence t f) s = .next s' ∧ (tileOf s' t.val).wait = none ∧ (tileOf s' t.val).pc = x.pc + 1 ∧
        s'.mem = s.mem) ∧
      (¬clear → ∃ s', exec (.fence t f) s = .next s' ∧ (tileOf s' t.val).wait = some (.fence (f.imm.toNat % 8)) ∧
        (tileOf s' t.val).pc = x.pc ∧ s'.mem = s.mem))

/-- A tile instruction with a bit set that its opcode's row does not name is an illegal operation, and so is a word whose opcode
is undefined: counted at 0x7420:01, it does nothing of its own, and the job that runs there fails by its program (R100, R102).
On a tile where no task runs, that waits, is gated by the island or is stopped by coolant loss no instruction issues (R263,
R410, R433). Model's choices in it: log 100. -/
def Obligations.IllegalOperation : Prop :=
  ∀ (s : State) (t : Fin 512),
    (∀ (i : Instr) (op : BitVec 8) (f : TileFields), tileParts i = some (t, op, f) →
      (mayIssue s t.val = false → exec i s = .next s) ∧
      (∀ j m, mayIssue s t.val = true → taskOn s t.val = some (j, m) → fieldsNamed op.toNat f = false →
        exec i s = .next (programFault j.tag (count 0x7420 1 1 s)))) ∧
    (∀ w : BitVec 64, (∀ (i : Instr), decodeTile t w = some i → issueWord t w s = exec i s) ∧
      (decodeTile t w = none →
        (mayIssue s t.val = false → issueWord t w s = .next s) ∧
        (∀ j m, mayIssue s t.val = true → taskOn s t.val = some (j, m) →
          issueWord t w s = .next (programFault j.tag (count 0x7420 1 1 s)))))

/-! ## Sessions, requests and the dictionary (R462-R485) -/

/-- OPEN takes the lowest free slot, counts at 0x741e:09 and is answered with the session's identifier, rights and keepalive
interval; a client that its port does not admit, or a 65th session, is answered with an abort code and opens nothing (R465).
Model's choices in it: log 71. -/
def Obligations.SessionOpens : Prop :=
  ∀ (s : State) (x : Fin 4) (peer frame : Bytes),
    let f := splice frame 1 [1]
    let c := BitVec.ofNat 8 (fieldAt f 16 1)
    let Answered := fun (code : BitVec 32) (id rights : Nat) (t : State) => Sent x peer (ixHeader 2 id 0 (stamp s) 16 ++
      (leBytes 4 code.toNat ++ leBytes 2 id ++ leBytes 2 rights ++ leBytes 2 (cfg s 0x1100 2) ++ zeros 6)) s t
    let Refused := fun (code : BitVec 32) => ∃ t, exec (.sessionOpen x peer frame) s = .next t ∧
      t = { s with counters := t.counters, out := t.out, t1 := t.t1 } ∧ Answered code 0 0 t ∧
      counter t 0x741e 4 = counter s 0x741e 4 + 1
    t1Up s x.val = true → spoilt (0x30 + x.val) s = false → frameOk f = true →
    (∀ k, freeSlot s = some k → admitted s x.val c.toNat = true → s.power.wakeNote = none →
      ∃ t, exec (.sessionOpen x peer frame) s = .next t ∧ HostOnly s t ∧ OthersQuiet k s t ∧
        sess t k = { gen := (sess s k).gen, open_ := true, client := c, port := x, peer := peer, source := peer, heard := now s } ∧
        Answered 0 ((sess s k).gen.toNat * 256 + k) (rightsOf s x.val c.toNat) t ∧
        counter t 0x741e 9 = counter s 0x741e 9 + 1 ∧ CountersBut [0x741e01, 0x741e09] s t) ∧
    (∀ k, freeSlot s = some k → admitted s x.val c.toNat = false → Refused abRights) ∧
    (freeSlot s = none → Refused abNoSession)

/-- CLOSE is answered and closes the session, KEEPALIVE is answered, a NOTIFY_ACK takes the frame of its SEQ from the window:
for a frame that names an open session on its port, each ends that session's silence (R465, R469, R478). A session silent for
three keepalive intervals closes and is counted at 0x741e:0a (R469). Model's choices in it: log 71. -/
def Obligations.SessionFrames : Prop :=
  (∀ (s : State) (x : Fin 4) (frame : Bytes) (k : Nat) (ty : BitVec 8),
    let f := splice frame 1 [ty]
    let Bare := fun (n : Nat) (t : State) => Sent (sess s k).port (sess s k).peer (ixFrame s k n 0 (stamp s) []) s t
    t1Up s x.val = true → spoilt (0x30 + x.val) s = false → frameOk f = true → namedSession s x.val f = some k →
    (ty = 3 → ∃ t, exec (.sessionClose x frame) s = .next t ∧ HostOnly { s with boot := t.boot } t ∧ OthersQuiet k s t ∧
      sess t k = { gen := (sess s k).gen + 1 } ∧ Bare 3 t ∧
      t.boot = (if s.boot.update.owner = some (k, (sess s k).gen) then { s.boot with update := {} } else s.boot)) ∧
    (ty = 8 → ∃ t, exec (.keepalive x frame) s = .next t ∧ HostOnly s t ∧ OthersQuiet k s t ∧
      sess t k = { sess s k with heard := now s } ∧ Bare 8 t) ∧
    (ty = 7 → ∃ t, exec (.notifyAck x frame) s = .next t ∧ HostOnly s t ∧ OthersQuiet k s t ∧ t.out = s.out ∧ t.t1 = s.t1 ∧
      sess t k = { sess s k with
        heard := now s, unacked := (sess s k).unacked.filter (fun u => u.seq ≠ BitVec.ofNat 32 (fieldAt f 4 4)) })) ∧
  ∀ (s : State) (k : Fin 64), (sess s k.val).open_ = true →
    ∃ t, exec (.sessionTimeout k) s = .next t ∧ sess t k.val = { gen := (sess s k.val).gen + 1 } ∧ OthersQuiet k.val s t ∧
      t = { s with sessions := t.sessions, counters := t.counters, boot := t.boot, clock := t.clock } ∧
      counter t 0x741e 0x0a = counter s 0x741e 0x0a + 1 ∧ CountersBut [0x741e0a] s t

/-- A REQUEST whose SEQ is Last + 1 on an idle session executes its operation, as the rows of the four operations do; one whose
SEQ is Last is answered again from the cache and executes nothing; every other SEQ is answered with abort SEQUENCE (R468).
Model's choices in it: log 72. -/
def Obligations.RequestsExecuteOnce : Prop :=
  ∀ (s : State) (x : Fin 4) (frame : Bytes) (k : Fin 64),
    let f := splice frame 1 [4]
    let seq := BitVec.ofNat 32 (fieldAt f 4 4)
    let o := parseOp (f.drop 16)
    t1Up s x.val = true → spoilt (0x30 + x.val) s = false → frameOk f = true → namedSession s x.val f = some k.val →
    (sess s k.val).busy = false →
    (seq = (sess s k.val).last + 1 → ∃ t, exec (.request x frame) s = .next t ∧
      (o.op = 1 → exec (.ixideRead k o) s = .next t) ∧ (o.op = 2 → exec (.ixideWrite k o) s = .next t) ∧
      (o.op = 3 → exec (.memRead k o) s = .next t) ∧ (o.op = 4 → exec (.memWrite k o) s = .next t)) ∧
    (seq = (sess s k.val).last → (sess s k.val).cached ≠ [] → ∃ t, exec (.request x frame) s = .next t ∧ HostOnly s t ∧
      OthersQuiet k.val s t ∧ sess t k.val = { sess s k.val with heard := now s } ∧ counter t 0x741e 5 = counter s 0x741e 5 + 1 ∧
      Sent (sess s k.val).port (sess s k.val).peer (splice (sess s k.val).cached 8 (leBytes 4 (stamp s).toNat)) s t) ∧
    (seq ≠ (sess s k.val).last + 1 → seq ≠ (sess s k.val).last → ∃ t, exec (.request x frame) s = .next t ∧ HostOnly s t ∧
      OthersQuiet k.val s t ∧ (sess t k.val).last = (sess s k.val).last ∧ (sess t k.val).busy = false ∧
      Sent (sess s k.val).port (sess s k.val).peer
        (ixFrame s k.val 5 seq (stamp s) (responsePayload { abort := abSequence })) s t)

/-- The notify window (R476, R478): the oldest frame of a queue is sent with the next SEQ while fewer than 16 are
unacknowledged, and is retried until its 16th retry, after which it is dropped and counted as lost. Model's choices in it: log
76. -/
def Obligations.NotifyWindow : Prop :=
  (∀ (s : State) (k : Fin 64) (n : Notify) (rest : List Notify),
    let e := sess s k.val
    let f := ixFrame s k.val 6 (e.nseq + 1) n.stamp (notifyPayload e.lostFlag n)
    e.open_ = true → t1Up s e.port.val = true → e.unacked.length < 16 → e.queue = n :: rest →
    (∀ g, n.job = some g → tagStale s g = false) →
    ∃ t, exec (.notifyTransmit k) s = .next t ∧ OthersQuiet k.val s t ∧
      sess t k.val = { e with
        queue := rest, nseq := e.nseq + 1, lostFlag := false, unacked := e.unacked ++ [⟨e.nseq + 1, 0, now s, f⟩] } ∧
      Sent e.port e.peer f s t ∧ counter t 0x741e 6 = counter s 0x741e 6 + 1 ∧ CountersBut [0x741e06] s t ∧
      t = { s with sessions := t.sessions, counters := t.counters, out := t.out, t1 := t.t1, queues := t.queues } ∧
      (n.job = none ∨ n.code ≠ 1 → t.queues = s.queues) ∧
      (∀ g, n.job = some g → n.code = 1 → ∀ q, (qget t q).records =
        if q = tagQueue g then (qget s q).records.filter (fun r => r.tag ≠ g) else (qget s q).records)) ∧
  ∀ (s : State) (k : Fin 64) (seq : BitVec 32) (u : Unacked),
    (sess s k.val).unacked.find? (fun v => v.seq = seq) = some u → t1Up s (sess s k.val).port.val = true →
    (u.retries < 16 → ∃ t, exec (.notifyRetry k seq) s = .next t ∧ OthersQuiet k.val s t ∧
      Sent (sess s k.val).port (sess s k.val).peer u.frame (clockTo (u.sentAt + 1000 * cfg s 0x1100 4) s) t ∧
      counter t 0x741e 7 = counter s 0x741e 7 + 1 ∧
      sess t k.val = { sess s k.val with unacked := (sess s k.val).unacked.map (fun v =>
        if v.seq = seq then { v with retries := v.retries + 1, sentAt := now t } else v) }) ∧
    (16 ≤ u.retries → ∃ t, exec (.notifyRetry k seq) s = .next t ∧ OthersQuiet k.val s t ∧ t.out = s.out ∧
      sess t k.val = { sess s k.val with
        unacked := (sess s k.val).unacked.filter (fun v => v.seq ≠ seq), lost := (sess s k.val).lost + 1, lostFlag := true } ∧
      counter t 0x741e 8 = counter s 0x741e 8 + 1 ∧ t.events.getLsbD 8 = true)

/-- READ of an object of fixed length answers its value and changes nothing (R471). MEM_READ answers the bytes at its address,
in own Cistern or in a tensor's current version; MEM_WRITE leaves its bytes there, and every other byte and everything else but
poisoned lines that it writes as it was (R228, R472). Model's choices in it: log 67. -/
def Obligations.HostReads : Prop :=
  (∀ (s : State) (k : Fin 64) (o : IxideOp) (ty : OTy) (acc : OAcc) (d : Nat),
    let i := o.index.toNat
    let j := o.sub.toNat
    HostReady k.val s → objDef i j = some (ty, acc, d) → acc ≠ .wo → otyVar ty = false → hasRight s k.val (readRight i j) = true →
    notOwner s k.val i j = false → opOk { o with op := 1 } = true → o.offset = 0 → o.count.toNat = otyLen ty →
    ¬(i = 0x3400 ∧ j = 4) → ¬(i = 0x3000 ∧ (j = 4 ∨ j = 5)) →
    Completes (.ixideRead k o) k.val (readObj k.val i j (taken k.val s)) s s) ∧
  (∀ (s : State) (k : Fin 64) (o : IxideOp) (i off : Nat) (b : Bytes), placeOf s o.address.toNat o.count.toNat = .tensor i off →
    HostMay k.val 3 s → opOk { o with op := 3 } = true → poisonHit s {} (.tensor i off) o.count.toNat = none →
    versionBytes s i (tensorOf s i).version = some b → Completes (.memRead k o) k.val (padTo o.count.toNat (bytesAt b off o.count.toNat)) s s) ∧
  ∀ (s : State) (k : Fin 64) (o : IxideOp) (a : Nat), placeOf s o.address.toNat o.count.toNat = .cistern a →
    (HostMay k.val 3 s → opOk { o with op := 3 } = true → poisonHit s {} (.cistern a) o.count.toNat = none →
      Completes (.memRead k o) k.val (peek s a o.count.toNat) s s) ∧
    (HostMay k.val 4 s → opOk { o with op := 4 } = true → overlaps a o.count.toNat (heapBase s) (heapBytes s) = false →
      ∃ u, Completes (.memWrite k o) k.val [] u s ∧ u = { s with mem := u.mem, dir := { s.dir with poison := u.dir.poison } } ∧
        (∀ b, ¬(a ≤ b ∧ b < a + o.data.length) → memByte u.mem b = memByte s.mem b) ∧
        (∀ i, i < o.data.length → memByte u.mem (a + i) = o.data.getD i 0) ∧
        ∀ l, l ∈ u.dir.poison ↔ l ∈ s.dir.poison ∧ overlaps (l * 64) 64 a o.data.length = false)

/-- A dictionary write that passes the checks of R474 sets the object's value, whether it comes as a command of configuration or as
a WRITE operation; every other object keeps its value (R11, R471, R474). -/
def Obligations.ConfigurationWrites : Prop :=
  ∀ (s : State) (k : Fin 64) (index : BitVec 16) (sub : BitVec 8) (data : Bytes) (ty : OTy) (acc : OAcc),
    let i := index.toNat
    let j := sub.toNat
    let u := setCfg i j data s
    HostReady k.val s → plainObject i j = true → writeTarget s k.val i j data = .ok (ty, acc) → otyVar ty = false →
    typeOk s (famBase i).1 j ty data = true → reservedOk (famBase i).1 j data = true →
    (acc = .rws → ownerRuns s (famBase i).1 (famBase i).2 j = false) →
    rangeOk s (famBase i).1 (famBase i).2 j (leNat data) = true →
    Completes (.configWrite k index sub data) k.val [] u s ∧
    (∀ o : IxideOp, o.index = index → o.sub = sub → o.data = data → o.flags = 0 → o.offset = 0 → opOk { o with op := 2 } = true →
      Completes (.ixideWrite k o) k.val [] u s) ∧
    cfgBytes u i j = data ∧ ∀ a b, b < 256 → ¬(a = i ∧ b = j) → cfgBytes u a b = cfgBytes s a b

/-- A write that any check of R474 refuses is answered with that check's abort code and changes nothing; the checks come in the
order of R474: no such object, no such subindex, read-only, the right. -/
def Obligations.RefusedWriteChangesNothing : Prop :=
  ∀ (s : State) (k : Fin 64) (index : BitVec 16) (sub : BitVec 8) (data : Bytes),
    let i := index.toNat
    let j := sub.toNat
    let Refused := fun code => ∃ t, exec (.configWrite k index sub data) s = .next t ∧ RefusedWith k.val code s t
    HostReady k.val s →
    (∀ code, code ≠ 0 → writeValue k.val i j data (taken k.val s) = .abort code → Refused code) ∧
    (idxDefined i = false → Refused abNoObject) ∧
    (idxDefined i = true → objDef i j = none → Refused abNoSubindex) ∧
    (∀ ty d, idxDefined i = true → objDef i j = some (ty, .ro, d) → Refused abReadOnly) ∧
    (∀ ty acc d, idxDefined i = true → objDef i j = some (ty, acc, d) → acc ≠ .ro →
      hasRight s k.val (writeRight k.val i j data) = false → Refused abRights)

/-- EVENTS bits written with 1 are cleared, but those set in the present tick: the set wins (R12, R482); DESCRIBE names an
object whose description the session then reads (R485); reading the NONCE draws a fresh one, which the answer carries (R456); a
CLOSE written to a session closes it (R469). Model's choices in it: logs 2, 53, 58. -/
def Obligations.SessionObjects : Prop :=
  ∀ (s : State) (k : Fin 64),
    (∀ v : BitVec 32, HostMay k.val 1 s → v &&& 0xfffff000 = 0 →
      Completes (.eventsClear k v) k.val [] (clearEvents v s) s ∧
      ∀ n, n < 32 → (clearEvents v s).events.getLsbD n = (s.events.getLsbD n && (!(v.getLsbD n) || (eventsFresh s).getLsbD n)) ∧
        (clearEvents v (setEvent n s)).events.getLsbD n = true) ∧
    (∀ data : Bytes, HostMay k.val 1 s → data.length = 8 → (∀ i, 3 ≤ i → i < 8 → data.getD i 0 = 0) →
      Completes (.describe k data) k.val []
        (smod k.val (fun e => { e with describe := describeBytes (fieldAt data 0 2) (fieldAt data 2 1) }) s) s) ∧
    (HostMay k.val 7 s → works s 21 = true →
      let n := (List.range 32).map (Config.freeByte s.freeCtr)
      Answers (.lifecycleNonceRead k) k.val { data := n, total := 32 }
        (smod k.val (fun e => { e with snapshot := some (objKey 0x2001 4, n) })
          { s with freeCtr := s.freeCtr + 1, boot := { s.boot with nonce := some n } }) s) ∧
    (∀ j : Fin 64, j ≠ k → HostMay k.val 11 s → (sess s j.val).open_ = true →
      Completes (.sessionCloseWrite k j 1) k.val []
        (smod j.val (fun e => { gen := e.gen + 1 })
          (if s.boot.update.owner = some (j.val, (sess s j.val).gen) then { s with boot := { s.boot with update := {} } } else s)) s)

/-! ## Queues and jobs (R38-R74, R264-R272) -/

/-- Subindices 1 to 4 of a queue are written only while it is STOPPED with OCCUPANCY 0, and its GENERATION, of 4 bits, then advances
by one; while it is RUNNING or DRAINING the write is answered RUNNING, while it still holds records CONFLICT, and nothing changes; so
DEPTH never lies below OCCUPANCY by such a write (R41). -/
def Obligations.QueueConfiguration : Prop :=
  ∀ (s : State) (k : Fin 64) (q : Fin 4096),
    let i := 0x6000 + q.val
    ∀ (sub : Fin 4) (data : Bytes) (ty : OTy) (acc : OAcc) (d : Nat), HostMay k.val 1 s →
      objDef i (sub.val + 1) = some (ty, acc, d) → data.length = otyLen ty → rangeOk s 0x6000 q.val (sub.val + 1) (leNat data) = true →
      ((qget s q.val).state = .stopped → occupancy s q.val = 0 →
        ∃ u, Completes (.queueConfigWrite k q sub data) k.val [] u s ∧
          u = setCfg i (sub.val + 1) data (qmod q.val (fun x => { x with gen := x.gen + 1 }) s) ∧
          qget u q.val = { qget s q.val with gen := (qget s q.val).gen + 1 } ∧ occupancy u q.val = 0 ∧
          (qget u q.val).gen.toNat = ((qget s q.val).gen.toNat + 1) % 16) ∧
      ((qget s q.val).state ≠ .stopped → ∃ t, exec (.queueConfigWrite k q sub data) s = .next t ∧ RefusedWith k.val abRunning s t) ∧
      ((qget s q.val).state = .stopped → occupancy s q.val ≠ 0 →
        ∃ t, exec (.queueConfigWrite k q sub data) s = .next t ∧ RefusedWith k.val abConflict s t)

/-- START makes a queue RUNNING, STOP drains it or stops it, FLUSH empties it (R42). Model's choices in it: log 99. -/
def Obligations.QueueControls : Prop :=
  ∀ (s : State) (k : Fin 64) (q : Fin 4096),
    (HostMay k.val 2 s → Completes (.queueStart k q) k.val [] (qmod q.val (fun x => { x with state := .running }) s) s) ∧
    (HostMay k.val 2 s → (qget s q.val).state = .running →
      Completes (.queueStop k q) k.val []
        (qmod q.val (fun x => { x with state := if queueJobs s q.val = [] then .stopped else .draining }) s) s) ∧
    (HostMay k.val 2 s → (qget s q.val).state = .stopped → Completes (.queueStop k q) k.val [] s s) ∧
    (HostMay k.val 2 s → queueJobs s q.val = [] →
      Completes (.queueFlush k q) k.val []
        (qmod q.val (fun x => { x with state := .stopped, records := [], gen := x.gen + 1 }) s) s) ∧
    (HostMay k.val 2 s → ∃ t, exec (.queueFlush k q) s = .next t ∧ (sess t k.val).busy = false ∧
      qget t q.val = { qget s q.val with state := .stopped, records := [], gen := (qget s q.val).gen + 1 } ∧
      ∀ j ∈ t.sluice.jobs, j.q = q.val → hasCommitted j = true)

/-- A submission of the queue's client waits for the next slot boundary (R49, R60); a cancel answers whether the job ended, and
a job that it names does (R65, R473); NEXT_COMPLETION answers the oldest record and takes it, or answers zeros (R43, R473).
Model's choices in it: log 44. -/
def Obligations.QueueCommands : Prop :=
  ∀ (s : State) (k : Fin 64) (q : Fin 4096), HostMay k.val 2 s → queueClient s q.val = clientOf s k.val →
    (∀ desc : Bytes, desc.length = 64 → Submits (.submit k q desc) k.val { s with
      sluice := { s.sluice with arrivals := s.sluice.arrivals ++
        [{ q := q.val, session := k.val, sgen := (sess s k.val).gen, slot := now s / slotNs, desc := parseDesc desc }] } } s) ∧
    (∀ g : BitVec 32, cancelResult s q.val g ≠ 0 → Completes (.cancel k q g) k.val
      (leBytes 4 g.toNat ++ leBytes 1 (cancelResult s q.val g) ++ zeros 3) s s) ∧
    (∀ (g : BitVec 32) (j : Job), jobOf s g = some j → j.q = q.val → hasCommitted j = true →
      Completes (.cancel k q g) k.val (leBytes 4 g.toNat ++ [1] ++ zeros 3) s s) ∧
    (∀ (g : BitVec 32) (j : Job), jobOf s g = some j → j.q = q.val → hasCommitted j = false →
      ∃ t, exec (.cancel k q g) s = .next t ∧ (sess t k.val).reply = { data := leBytes 4 g.toNat ++ [0] ++ zeros 3 } ∧
        jobOf t g = none ∧ t.island.state = s.island.state ∧
        (g.extractLsb' 0 4 = (qget s q.val).gen → (qget t q.val).records = (qget s q.val).records ++
          [jobRecord { j with cycles := j.cycles + attemptCycles s j } stCancelled])) ∧
    (∀ (r : CompRec) (rs : List CompRec), (qget s q.val).records = r :: rs →
      Answers (.nextCompletion k q) k.val { data := recordBytes r, total := 32 }
        (smod k.val (fun e => { e with snapshot := some (objKey (0x6000 + q.val) 0x0a, recordBytes r) })
          (qmod q.val (fun x => { x with records := rs }) s)) s) ∧
    ((qget s q.val).records = [] →
      Answers (.nextCompletion k q) k.val { data := zeros 32, total := 32 }
        (smod k.val (fun e => { e with snapshot := some (objKey (0x6000 + q.val) 0x0a, zeros 32) }) s) s)

/-- The commit of a job (R62, R63, R70). At the commit instant, with every descriptor run and no fence still waiting for a peer,
the status is fixed by DEADLINE and by the path, and a stream's chunk count advances. The commits publish in their order: where
the status is DONE or DEGRADED what the job wrote becomes visible at once, and is discarded otherwise. Then its record is
placed, in the commit order of its queue, and the job is gone; a HARD job's failure enters safe state (R68). Model's choices in
it: logs 11, 90. -/
def Obligations.CommitOfJob : Prop :=
  ∀ (s : State) (g : BitVec 32) (j : Job), jobOf s g = some j → works s 20 = true →
    let still := s.pages.ended = [] ∧ ∀ e, e ∈ s.pages.entries → e.2.state = .free ∨ e.2.state = .reserved ∨ e.2.ref ≠ 0 ∨ e.2.pins ≠ 0
    let kept := fun (t : State) (p : JobPhase) (n : Nat) (st : BitVec 8) =>
      ∃ k, jobOf t g = some k ∧ k.phase = p ∧ k.commit = some n ∧ k.status = some st
    (∀ at_ : Nat, atCommit (clockTo at_ s) j = true → commitWaits s j = false → j.service = none →
      ∃ t, exec (.commitInstant g at_) s = .next t ∧ t.clock = (clockTo at_ s).clock ∧ t.mem = s.mem ∧
        kept t .committed (now t) (if j.deadline < now t then stLate else if j.path = 0 then stDone else stDegraded) ∧
        (∀ ch, ch ∈ jobChannels j → (chanOf t ch).fencing = []) ∧
        ∀ n, jobStream j = some n →
          (streamOf t n).chunks = (if j.deadline < now t then (streamOf s n).chunks else (streamOf s n).chunks + 1)) ∧
    (∀ (at_ : Nat) (v : Service), atCommit (clockTo at_ s) j = true → commitWaits s j = false → j.service = some v →
      servicePoison (clockTo at_ s) j.len j v = none →
      (∀ n i m, v = .exportStream n i m → ∀ c, c ∈ chunksOfStream s n → c.tag ≠ g) →
      ∃ t st, exec (.commitInstant g at_) s = .next t ∧ t.clock = (clockTo at_ s).clock ∧ kept t .committed (now t) st ∧
        (j.deadline < now t → st = stLate) ∧
        (now t ≤ j.deadline → (∀ n i m, v ≠ .exportStream n i m) → (∀ n i p q, v ≠ .importStream n i p q) →
          (∀ i o, v ≠ .load i o) → (∀ i a, v ≠ .fill i a) → st = stDone)) ∧
    (∀ (n : Nat) (st : BitVec 8), j.phase = .committed → j.commit = some n → j.status = some st → publishNext s j = true →
      ∃ t, exec (.commitPublish g) s = .next t ∧ kept t .published n st ∧ t.clock = (clockTo (n + 800) s).clock ∧
        (∀ k, jobOf t g = some k → k.staging = [] ∧ k.staged = []) ∧
        (st ≠ stDone → st ≠ stDegraded → still → t.mem = s.mem ∧ t.dir = s.dir) ∧
        (st = stDone ∨ st = stDegraded → still → j.service = none → j.staging = [] → j.uses = [] → j.recomp = false →
          (∀ ch, ch < 16 → (chan s ch).state = .stopped) → t.mem = overlayFlush s.mem j.staged)) ∧
    ∀ (n : Nat) (st : BitVec 8), j.phase = .published → j.commit = some n → j.status = some st → recordNext s j = true →
      ∃ t, exec (.completionRecord g) s = .next t ∧ jobOf t g = none ∧ t.clock = (clockTo (n + 1000) s).clock ∧
        let r := jobRecord { j with cycles := j.cycles + attemptCycles (clockTo (n + 1000) s) j } st
        (queueClass s j.q ≠ 0 ∨ hardStatus st = false → (∀ i ∈ s.sluice.jobs, i.tag ≠ g → i ∈ t.sluice.jobs) ∧
          (g.extractLsb' 0 4 = (qget s j.q).gen → (qget t j.q).records = (qget s j.q).records ++ [r]) ∧
          (g.extractLsb' 0 4 ≠ (qget s j.q).gen → (qget t j.q).records = (qget s j.q).records ∧
            counter t 0x7411 1 = counter s 0x7411 1 + 1)) ∧
        (queueClass s j.q = 0 → hardStatus st = true → t.island.state ≠ .normal ∧
          (g.extractLsb' 0 4 = (qget s j.q).gen → r ∈ (qget t j.q).records))

/-- The timing supervisor ends a job whose task's count exceeds 1.03 x BUDGET, and no other (R66); a commit fence on an own
target that does not return is a failure event that fails the attempt, one of an ended attempt fails none (R62, R64, R418); a
save that misses a budget kills the job for re-run (R272); a restore resumes its job, the restore slot's cycles not counted
(R270); a task that becomes ready takes a free tile and enters there, or waits for one (R264). Model's choices in it: logs 7,
11. -/
def Obligations.AttemptEvents : Prop :=
  ∀ (s : State) (g : BitVec 32) (j : Job), jobOf s g = some j →
    (∀ m : Nat, j.phase = .running →
      (overBudget s j m = true → ∃ t, exec (.budgetExceeded g m) s = .next t ∧ jobOf t g = none ∧
        (queueClass s j.q ≠ 0 → t.island.state = s.island.state ∧
          (g.extractLsb' 0 4 = (qget s j.q).gen → (qget t j.q).records = (qget s j.q).records ++
            [jobRecord { j with cycles := j.cycles + attemptCycles s j } stBudget]))) ∧
      (overBudget s j m = false → exec (.budgetExceeded g m) s = .next s)) ∧
    (∀ (a : BitVec 48) (u : BitVec 32), fenceUnit s a.toNat = some u →
      let T := targetOf (placeOf s a.toNat 1)
      (fenceOpen s j T = true → (∀ d, d ∈ s.sluice.dying → d.tag = g → ∀ w, w ∈ d.waits → w.2 ≠ T) →
        ∃ t, exec (.fenceTimeout g a) s = .next t ∧ t.events.getLsbD 2 = true ∧
          ∀ k, jobOf t g = some k → k.phase = .waiting ∧ k.failed = true ∧ k.replan = true ∧ k.staged = []) ∧
      (∀ d : Dying, s.sluice.dying.find? (fun d => d.tag = g && d.waits.any (fun w => w.2 = T)) = some d →
        ∃ t, exec (.fenceTimeout g a) s = .next t ∧ t.events.getLsbD 2 = true ∧
          (t.island.state = s.island.state → ∀ ch, (ch, T) ∈ d.waits → ∀ e, e ∈ t.sluice.dying → (ch, T) ∉ e.waits))) ∧
    (∀ b : Fin 2, j.phase = .saving → ∃ t k, exec (.saveBudgetMiss g b) s = .next t ∧ jobOf t g = some k ∧ k.phase = .waiting ∧
      k.rerun = true ∧ k.replan = true ∧ k.attempts = j.attempts + 1 ∧ k.bound = j.bound ∧
      counter t 0x7416 5 = counter s 0x7416 5 + 1 ∧ counter t 0x7416 3 = counter s 0x7416 3 + 1) ∧
    (∀ at_ : Nat, j.phase = .restoring → ∃ t, exec (.restoreResume g at_) s = .next t ∧
      jobOf t g = some (resumeFrom (countFrom (clockTo at_ s) j) { j with phase := .running }) ∧
      t.clock = (clockTo at_ s).clock ∧ t.tiles = s.tiles ∧ t.mem = s.mem ∧ counter t 0x7416 2 = counter s 0x7416 2 + 1) ∧
    (∀ (m : Nat) (x : TaskRun), j.tasks[m]? = some x → j.phase = .running → x.ready = false → x.ended = false →
      ∃ t k y, exec (.taskReady g m) s = .next t ∧ jobOf t g = some k ∧ k.tasks[m]? = some y ∧ y.ready = true ∧ y.ended = false ∧
        (∀ i, i ≠ m → k.tasks[i]? = j.tasks[i]?) ∧ (x.tile.isSome = true → y.tile = x.tile) ∧
        (∀ i, x.tile = none → y.tile = some i → tileHeld s i = false ∧ (tileOf t i).pc = entryPc j m ∧ y.since = some (now s)))

/-- The slot boundary (R60): the clock reaches the new slot, the Sluice's caps move to it, what ends and the re-plans come
first, then at most 64 arrivals of earlier slots are decided one after the other, in the order of slot, class and queue and,
within a queue, of arrival; every other arrival waits on, behind them in that order. With the Sluice's domain off there is no
boundary (R20). The decision on a job is the first code of R50 that holds; an accepted one takes the placement of R58, and a
single run is the earliest that every ledger holds. Model's choices in it: logs 91, 97. -/
def Obligations.SlotBoundary : Prop :=
  (∀ s : State,
    let cur := nextSlot s
    let due := boundaryArrivals s cur
    let key := fun (a : Arrival) => (a.slot * 4 + queueClass s a.q) * 4096 + a.q
    let old := s.sluice.arrivals.filter (fun a => a.slot < cur)
    (works s 20 = false → exec .slotBoundary s = .next s) ∧
    due.length = min 64 old.length ∧ due.Pairwise (fun a b => key a ≤ key b) ∧
    (∀ k, (due.filter (fun a => key a == k)).IsPrefix (old.filter (fun a => key a == k))) ∧
    (∀ a ∈ due, ∀ b ∈ old, b ∉ due → key a ≤ key b) ∧
    (works s 20 = true → ∃ t, exec .slotBoundary s = .next t ∧
      t.clock = { (clockTo (cur * slotNs) s).clock with slot := cur } ∧ t.sluice.caps = (cfg s 0x3000 1, cfg s 0x3000 2) ∧
      t.sluice.arrivals = s.sluice.arrivals.filter (fun a => a ∉ due) ∧
      (let u := boundaryPlans cur (boundaryEnds cur (openCycle { clockTo (cur * slotNs) s with
          clock := { (clockTo (cur * slotNs) s).clock with slot := cur },
          sluice := { s.sluice with caps := (cfg s 0x3000 1, cfg s 0x3000 2) } }))
       t = mapBoundary cur (endCycle (boundaryStarts cur ((boundaryArrivals u cur).foldl (fun v a => settleArrival cur a v)
          { u with sluice := { u.sluice with arrivals := u.sluice.arrivals.filter (fun a => a ∉ boundaryArrivals u cur) } })))) ∧
      ∀ a, due = [a] → s.sluice.jobs = [] → a.service = none → (sess s a.session).open_ = true → (sess s a.session).gen = a.sgen →
        (s.island.state ≠ .normal → (sess t a.session).reply = { data := admitBytes { code := 1 } }) ∧
        (s.island.state = .normal → (qget s a.q).state ≠ .running →
          (sess t a.session).reply = { data := admitBytes { code := 2 } }))) ∧
  (∀ (u : State) (cur : Nat) (a : Arrival), a.service = none → (sess u a.session).open_ = true → (sess u a.session).gen = a.sgen →
    let v := count (0x7000 + queueClient u a.q) 1 1 u
    let w := settleArrival cur a u
    let d := a.desc
    let parts := bitsOf 64 d.parts.toNat
    let own := if d.stream = 0 then none else streamNamed v d.stream.toNat
    let ns := sectionCounts v true d.lockstep own parts
    let Says := fun (r : Admit) => (sess w a.session).reply = { data := admitBytes r }
    let Refused := fun (n : Nat) => Says { code := n } ∧ w.sluice.jobs = u.sluice.jobs ∧
      counter w (0x7000 + queueClient u a.q) 3 = counter v (0x7000 + queueClient u a.q) 3 + 1
    (u.island.state ≠ .normal → Refused 1) ∧
    (u.island.state = .normal →
      ((qget u a.q).state ≠ .running → Refused 2) ∧
      ((qget u a.q).state = .running →
        (queueDepth u a.q ≤ occupancy u a.q → Refused 3) ∧
        (occupancy u a.q < queueDepth u a.q →
          (descReserved d = true → Refused 4) ∧
          (descReserved d = false →
            (descCheck v a.q d = none → Refused 5) ∧
            (∀ n prog names, descCheck v a.q d = some (n, prog, names) →
              let c := prog.cert
              let bad6 := sectionsMatch v parts c = false ∨ phasesOk v parts c = false
              let bad7 := d.zgate = true ∧ c.tasks.any (fun x => x.tflags.getLsbD 0) = true
              let bad8 := countsShort c ns = true
              let bad9 := d.releaseNow = false ∧ now u + 100000000 < extendStamp (now u) d.release
              let bad10 := 16384 ≤ u.sluice.jobs.length
              let outs := (prog.tensors.filter (fun e => e.2)).map (fun e => e.1)
              let sizes := outs.map (fun i => rawImage (tensorOf v i).size)
              let image := imageBytesPerCluster * parts.length
              let want : Want := {
                load := ⟨parts, certCharge v c, certEnergy c d.lockstep, false, false, []⟩, len := jobSlots v c ns,
                first := max (max (cur + 2) ((newJob v a).release / slotNs))
                  (orderBound v own ((names.map (fun x => x.uses)).getD [])),
                deadline := extendStamp (now u) d.deadline, split := splittable v d parts }
              (bad6 → Refused 6) ∧ (¬bad6 → bad7 → Refused 7) ∧ (¬bad6 → ¬bad7 → bad8 → Refused 8) ∧
              (¬bad6 → ¬bad7 → ¬bad8 → bad9 → Refused 9) ∧ (¬bad6 → ¬bad7 → ¬bad8 → ¬bad9 → bad10 → Refused 10) ∧
              (¬bad6 → ¬bad7 → ¬bad8 → ¬bad9 → ¬bad10 →
                let placed := (place v cur none want (heapAllocAll v (sizes ++ [image])).isSome).1
                (∀ b e, placed = .none b e → Says { code := 11, binding := b, due := noSlotDue e } ∧ w.sluice.jobs = u.sluice.jobs) ∧
                (∀ rs, placed = .runs rs → names = none →
                  (heapAllocAll v (if 1 < rs.length then sizes ++ [image] else sizes)).isSome = true →
                  Says { due := stampOf (runsEnd rs * slotNs), start := stampOf ((runsFirst rs).getD 0 * slotNs), tag := nextTag u a.q } ∧
                  ∃ j, w.sluice.jobs = u.sluice.jobs ++ [j] ∧ j.tag = nextTag u a.q ∧ j.q = a.q ∧ j.desc = d ∧ j.runs = rs ∧
                    j.parts = parts ∧ j.phase = .waiting ∧ j.deadline = want.deadline ∧ j.charge = want.load.charge ∧
                    j.energy = want.load.energy ∧
                    (qget w a.q).nextSeq = (if (qget u a.q).nextSeq = 65535 then 1 else (qget u a.q).nextSeq + 1))))))))) ∧
  (∀ (s : State) (cur : Nat) (others : List Load) (w : Want) (k : Nat), 1 ≤ w.len → cur ≤ w.first → w.load.resumes = false →
    let Fits := fun (i : Nat) => loadFits s cur others (withRuns w.load [⟨i, w.len⟩]) = true
    (singleFit s cur others w = some k ↔
      w.first ≤ k ∧ k + w.len ≤ cur + horizonSlots ∧ Fits k ∧ ∀ i, w.first ≤ i → i < k → ¬Fits i)) ∧
  ∀ (s : State) (cur : Nat) (w : Want) (heap : Bool) (k : Nat), singleFit s cur (openLoads s none) w = some k →
    ((k + w.len) * slotNs ≤ w.deadline → place s cur none w heap = (.runs [⟨k, w.len⟩], s)) ∧
    (w.deadline < (k + w.len) * slotNs → w.split = false →
      place s cur none w heap = (.none (bindingAt s cur (openLoads s none) w) (some (k + w.len)), s))

/-! ## Streams (R130-R154) -/

/-- OPEN takes the lowest free tiles of its partition for a free stream number and zeroes the rows it takes (R139); CLOSE gives
the rows and tiles back and advances the number's generation (R134, R142); QUERY changes nothing; each is refused BAD_STATE
while a service job on the stream is accepted, and a handle that names no stream is answered NO_STREAM (R138). Model's choices
in it: logs 2, 41, 66. -/
def Obligations.StreamCommands : Prop :=
  ∀ (s : State) (k : Fin 64) (c : StreamCmd), HostMay k.val 2 s →
    let p := c.partition.toNat
    let h := c.handle.toNat
    let all := fun (n : Nat) => (streamOf s n).blocks ++ (streamOf s n).moving.map (fun m => m.old)
    let owned := fun (op n : Nat) => streamBadArg s op c = false ∧ streamNamed s h = some n ∧
      queueClient s (streamOf s n).queue = clientOf s k.val
    let zeroed := fun (u : State) (ts : List Nat) (rows : Nat) =>
      ∀ b ∈ ts, ∀ i, i < rows → ∀ x, x < 64 → entry (tileOf u b) (112 + i) x = 0
    (streamBadArg s 1 c = false → queueClient s c.queue.toNat = clientOf s k.val → (partOf s p).state = .running →
      c.blocks.toNat ≤ (freeBlockTiles s p).length → freeStreams s ≠ [] →
      (∀ b ∈ (freeBlockTiles s p).take c.blocks.toNat, tileHeld s b = false) →
      ∃ n u, n ∈ freeStreams s ∧ Completes (.streamOpen k c) k.val (streamReply u (streamHandle s n) (some n) 0 {}) u s ∧
        u = { s with freeCtr := s.freeCtr + 1, tiles := u.tiles, streams := { s.streams with recs := u.streams.recs } } ∧
        streamOf u n = { state := .open_, partition := p, queue := c.queue.toNat, rows := c.rows.toNat,
                         blocks := (freeBlockTiles s p).take c.blocks.toNat, nblocks := c.blocks.toNat } ∧
        (∀ m, m ≠ n → streamOf u m = streamOf s m) ∧
        zeroed u ((freeBlockTiles s p).take c.blocks.toNat) c.rows.toNat ∧
        ∀ b, b ∉ (freeBlockTiles s p).take c.blocks.toNat → tileOf u b = tileOf s b) ∧
    (∀ n, owned 2 n → streamBadState s 2 n = false →
      ∃ u, Completes (.streamClose k c) k.val (closedReply s n) u s ∧ u = { s with tiles := u.tiles, streams := u.streams } ∧
        streamOf u n = {} ∧ streamGen u n = streamGen s n + 1 ∧
        (∀ m, m ≠ n → streamOf u m = streamOf s m ∧ streamGen u m = streamGen s m) ∧
        zeroed u (all n) (streamOf s n).rows ∧ ∀ b, b ∉ all n → tileOf u b = tileOf s b) ∧
    (∀ n, owned 5 n → streamBusy s n = false → Completes (.streamQuery k c) k.val (streamReply s h (some n) 0 {}) s s) ∧
    (∀ n, owned 5 n → streamBusy s n = true → Completes (.streamQuery k c) k.val (streamReply s h (some n) 4 {}) s s) ∧
    (∀ n, owned 6 n → (streamOf s n).state ≠ .open_ ∨ streamBusy s n = true →
      Completes (.streamZero k c) k.val (streamReply s h (some n) 4 {}) s s) ∧
    (streamNamed s h = none →
      (streamBadArg s 2 c = false → Completes (.streamClose k c) k.val (streamReply s h none 2 {}) s s) ∧
      (streamBadArg s 5 c = false → Completes (.streamQuery k c) k.val (streamReply s h none 2 {}) s s) ∧
      (streamBadArg s 6 c = false → Completes (.streamZero k c) k.val (streamReply s h none 2 {}) s s))

/-- ZERO sets V and C of every row of an OPEN stream to 0 and leaves CHUNKS, and all else, unchanged; on a stream with an accepted chunk it
is refused and changes nothing (R140). -/
def Obligations.StreamZero : Prop :=
  ∀ (s : State) (k : Fin 64) (c : StreamCmd) (n : Nat), HostMay k.val 2 s →
    let h := c.handle.toNat
    streamBadArg s 6 c = false → streamNamed s h = some n → queueClient s (streamOf s n).queue = clientOf s k.val →
    (streamOf s n).state = .open_ → streamBusy s n = false →
    (chunksOfStream s n = [] →
      ∃ u, Completes (.streamZero k c) k.val (streamReply s h (some n) 0 {}) u s ∧ u = { s with tiles := u.tiles } ∧
        (streamOf u n).chunks = (streamOf s n).chunks ∧
        (∀ b ∈ (streamOf s n).blocks ++ (streamOf s n).moving.map (fun m => m.old), ∀ i < (streamOf s n).rows, ∀ x < 64,
          entry (tileOf u b) (112 + i) x = 0) ∧
        ∀ b, b ∉ (streamOf s n).blocks ++ (streamOf s n).moving.map (fun m => m.old) → tileOf u b = tileOf s b) ∧
    (chunksOfStream s n ≠ [] → ∃ result, result ≠ 0 ∧ Completes (.streamZero k c) k.val (streamReply s h (some n) result {}) s s)

/-- EXPORT and IMPORT submit a service job to the stream's queue, or to the queue that the command names for a new stream, and
the reply waits for the Sluice's decision (R138, R146, R150). A block that awaits relocation moves to the spare assigned to it
once no task holds either tile; unreadable, it loses its stream, unless it comes from the rollback image (R153). Model's choices
in it: logs 57, 62, 66, 102. -/
def Obligations.StreamMoves : Prop :=
  (∀ (s : State) (k : Fin 64) (c : StreamCmd), HostMay k.val 2 s →
    let arrived := fun (q : Nat) (v : Service) => { s with
      sluice := { s.sluice with arrivals := s.sluice.arrivals ++ [{
        q := q, session := k.val, sgen := (sess s k.val).gen, slot := now s / slotNs, desc := { deadline := c.deadline, flags := 8 },
        service := some v }] } }
    (∀ n, streamNamed s c.handle.toNat = some n → queueClient s (streamOf s n).queue = clientOf s k.val →
      (streamBadArg s 3 c = false → streamBadState s 3 n = false →
        Submits (.streamExport k c) k.val (arrived (streamOf s n).queue (.exportStream n c.image.toNat c.target.toNat)) s) ∧
      (streamBadArg s 4 c = false → streamBadState s 4 n = false → c.handle ≠ 0 →
        Submits (.streamImport k c) k.val (arrived (streamOf s n).queue (.importStream n c.image.toNat 0 0)) s)) ∧
    (streamBadArg s 4 c = false → c.handle = 0 → queueClient s c.queue.toNat = clientOf s k.val →
      (partOf s c.partition.toNat).state = .running →
      peekNat s (ownPhysical s c.image.toNat + 4) 2 ≤ (freeBlockTiles s c.partition.toNat).length → freeStreams s ≠ [] →
      Submits (.streamImport k c) k.val
        (arrived c.queue.toNat (.importStream 0 c.image.toNat c.partition.toNat c.queue.toNat)) s)) ∧
  ∀ (s : State) (n : BitVec 12) (block spare : Nat) (m : Move) (readable : Bool),
    let r := streamOf s n.toNat
    r.moving.find? (fun m => m.block = block) = some m → r.blocks[block]? = some spare → r.state = .open_ → spare ≠ m.old →
    tileHeld s m.old = false → tileHeld s spare = false → (∀ e ∈ s.reserve, e.1 = m.old → e.2.dead.isSome = true) →
    (readable = true ∨ m.image = true → ∃ t, exec (.streamRelocate n block readable) s = .next t ∧
      (∀ i, i < r.rows → ∀ x, x < 64 → entry (tileOf t spare) (112 + i) x = entry (tileOf s m.old) (112 + i) x ∧
        entry (tileOf t m.old) (112 + i) x = 0) ∧
      streamOf t n.toNat = { r with moving := r.moving.filter (fun y => y.block ≠ m.block) } ∧
      (∀ m, m ≠ n.toNat → streamOf t m = streamOf s m) ∧ counter t 0x7412 4 = counter s 0x7412 4 + 1 ∧
      t = { s with tiles := t.tiles, streams := t.streams, counters := t.counters, island := t.island } ∧
      t.island = { s.island with tests := t.island.tests }) ∧
    (readable = false → m.image = false →
      ∃ t, exec (.streamRelocate n block readable) s = .next t ∧ (streamOf t n.toNat).state = .lost ∧ (streamOf t n.toNat).blocks = [])

/-! ## Sequences, pools and branch tables (R160-R193) -/

/-- OPEN gives a free number an empty sequence (R169); FORK gives one a sequence of N tokens of its parent (R169); CLOSE ends a
sequence that no job names, advances its number's generation and empties the branch index that held it (R170, R193); QUERY and
PAGE answer and change nothing (R167). Model's choices in it: logs 2, 66. -/
def Obligations.SequenceCommands : Prop :=
  ∀ (s : State) (k : Fin 64) (c : SeqCmd), HostMay k.val 2 s →
    let h := c.handle.toNat
    let PagesOnly := fun (n : Nat) (u : State) =>
      u = { s with freeCtr := s.freeCtr + n, mem := u.mem, pages := u.pages, dir := { s.dir with poison := u.dir.poison } }
    (seqBadArg s 1 c = false → seqRoom s c.pool.toNat 1 = true → 0 < freeEntries s c.pool.toNat →
      ∃ n a u, n ≠ 0 ∧ n ∉ numbersUsed s ∧ a ∉ areasUsed s c.pool.toNat ∧
        Completes (.seqOpen k c) k.val (seqReply u (seqHandle s n) 0 (some n)) u s ∧ PagesOnly 2 u ∧
        u.pages = { s.pages with seqs := u.pages.seqs } ∧
        seqOf u n = some { pool := c.pool.toNat, owner := clientOf s k.val, cls := c.cls.toNat, area := a } ∧
        (∀ m, m ≠ n → seqOf u m = seqOf s m) ∧ ∀ b, memByte u.mem b = memByte s.mem b) ∧
    (∀ n q, seqBadArg s 2 c = false → seqNamed s h = some (n, q) → forkOk q c.tokens.toNat = true → q.owner = clientOf s k.val →
      seqAppended s n = false → seqRoom s q.pool 1 = true → 0 < freeEntries s q.pool →
      ∃ m u f, m ∉ numbersUsed s ∧ Completes (.seqFork k c) k.val (seqReply u (seqHandle s m) 0 (some m)) u s ∧ PagesOnly 2 u ∧
        seqOf u m = some f ∧ f.pool = q.pool ∧ f.owner = q.owner ∧ f.cls = c.cls.toNat ∧ f.length = c.tokens.toNat ∧
        f.rows.map (fun r => r.entry) = (q.rows.take (ceilDiv c.tokens.toNat (poolOf s q.pool).tp)).map (fun r => r.entry) ∧
        ∀ i, i ≠ m → seqOf u i = seqOf s i) ∧
    (∀ n q, seqBadArg s 3 c = false → seqNamed s h = some (n, q) → q.owner = clientOf s k.val → seqInJob s n = false →
      ∃ u, Completes (.seqClose k c) k.val (splice (seqReply s h 0 (some n)) 5 [0]) u s ∧ PagesOnly 0 u ∧ seqOf u n = none ∧
        seqGen u n = seqGen s n + 1 ∧ u.pages.tables.map (fun e => e.1) = s.pages.tables.map (fun e => e.1) ∧
        (∀ e ∈ u.pages.tables, ∀ b ∈ e.2.branches, (seqNamed s b.2.handle.toNat).isSome = true → branchSeq b.2 ≠ n) ∧
        ∀ m, m ≠ n → seqOf u m = seqOf s m ∧ seqGen u m = seqGen s m) ∧
    (∀ n q, seqBadArg s 4 c = false → seqNamed s h = some (n, q) → q.owner = clientOf s k.val →
      Completes (.seqQuery k c) k.val (seqReply s h 0 (some n)) s s) ∧
    (∀ e, seqBadArg s 5 c = false → pageNamed s h = some e → Completes (.seqPage k c) k.val (pageReply s h e) s s)

/-- A FRAMES write to a pool that runs nothing sets it where the pool's fields agree, and the page table then stands in the
pool's area (R160, R163, R171); FRAMES 0 reclaims every entry, whatever its state: it is FREE, its GEN one further (R172).
Model's choices in it: log 108. -/
def Obligations.PoolFrames : Prop :=
  ∀ (s : State) (k : Fin 64) (p : Fin 4) (v : BitVec 32), HostMay k.val 1 s → poolRuns s p.val = false →
    let set := setCfg (0x3a20 + p.val) 6 (leBytes 4 v.toNat)
    let q := poolOf (set s) p.val
    (v ≠ 0 → poolOk (set s) p.val = true → ∃ u, Completes (.poolFramesWrite k p v) k.val [] u s ∧
      u = { set s with mem := u.mem, dir := { s.dir with poison := u.dir.poison } } ∧
      (poolEntries s p.val = [] → ∀ a, memByte u.mem a =
        if q.tableBase ≤ a ∧ a < q.tableBase + 32 * (q.lastIndex + 1) then
          (if 32 ≤ a - q.tableBase ∧ (a - q.tableBase) % 32 = 2 then tblGet 0 s.pages.base p.val else 0)
        else memByte s.mem a)) ∧
    (v = 0 → ∃ u, Completes (.poolFramesWrite k p v) k.val [] (set u) s ∧
      u = { s with mem := u.mem, pages := { s.pages with entries := u.pages.entries, base := u.pages.base },
                   dir := { s.dir with poison := u.dir.poison } } ∧
      ∀ e, (keyPool e = p.val → (entryOf u e).state = .free) ∧ (keyPool e ≠ p.val → entryOf u e = entryOf s e) ∧
        (keyPool e = p.val → (s.pages.entries.map (fun x => x.1)).Nodup → entryOf u e = { gen := (entryOf s e).gen + 1 }))

/-- CREATE makes an empty branch table on a free number (R190); BRANCH forks its parent COUNT times, from the lowest free branch
index on (R191); PRUNE closes the live branches of its range and CLOSE all of them with the table (R191); QUERY changes nothing.
Model's choices in it: logs 2, 66. -/
def Obligations.TableCommands : Prop :=
  ∀ (s : State) (k : Fin 64) (c : TableCmd), HostMay k.val 2 s →
    let h := c.table.toNat
    let PagesOnly := fun (n : Nat) (u : State) => u = { s with
      freeCtr := s.freeCtr + n, mem := u.mem, pages := u.pages, counters := u.counters, dir := { s.dir with poison := u.dir.poison } }
    (∀ m q, tableBadArg 1 c = false → seqNamed s c.root.toNat = some (m, q) → q.owner = clientOf s k.val → s.pages.tables.length < 16 →
      (numbersUsed s).length < 16383 → poolSeqs s q.pool < (poolOf s q.pool).seqMax →
      ∃ n a u, n ∉ numbersUsed s ∧ a ∉ areasUsed s q.pool ∧
        Completes (.tableCreate k c) k.val (tableReply u (seqHandle s n) 0 0 (some n)) u s ∧ PagesOnly 2 u ∧
        u.pages = { s.pages with tables := (n, { pool := q.pool, owner := clientOf s k.val, root := c.root, max := c.max.toNat,
                                                 area := a }) :: s.pages.tables }) ∧
    (∀ n t, tableNamed s h = some (n, t) → t.owner = clientOf s k.val →
      let hit := (liveBranches s t).filter (fun b => decide (c.first.toNat ≤ b.1) && decide (b.1 < c.first.toNat + c.count.toNat))
      (∀ m q i, tableBadArg 2 c = false → branchParent s t c.source.toNat = some (m, q) → forkOk q c.n.toNat = true →
        tableInJob s n = false → seqInJob s m = false → seqRoom s t.pool c.count.toNat = true →
        c.count.toNat ≤ (freeBranches s t).length → (freeBranches s t).head? = some i →
        ∃ u T b, Completes (.tableBranch k c) k.val (tableReply u h 0 i (some n)) u s ∧ PagesOnly (2 * c.count.toNat) u ∧
          tableOf u n = some T ∧ (i, b) ∈ T.branches ∧ b.parent = c.source ∧ b.cls = c.cls.toNat ∧ b.forkN = c.n.toNat ∧
          u.pages.seqs.length = s.pages.seqs.length + c.count.toNat ∧
          counter u 0x7414 1 = counter s 0x7414 1 + BitVec.ofNat 64 c.count.toNat) ∧
      (tableBadArg 3 c = false → tableInJob s n = false → (∀ b ∈ hit, seqInJob s (branchSeq b.2) = false) →
        ∃ u T, Completes (.tablePrune k c) k.val (tableReply u h 0 0 (some n)) u s ∧ PagesOnly 0 u ∧ tableOf u n = some T ∧
          T.branches = t.branches.filter (fun x => x.1 ∉ hit.map (fun b => b.1)) ∧
          ∀ b ∈ hit, seqOf u (branchSeq b.2) = none) ∧
      (tableBadArg 4 c = false → tableInJob s n = false →
        ∃ u, Completes (.tableClose k c) k.val (splice (tableReply s h 0 0 (some n)) 5 [0, 0, 0]) u s ∧ PagesOnly 0 u ∧
          u.pages.tables = s.pages.tables.filter (fun e => e.1 ≠ n) ∧
          ∀ b ∈ liveBranches s t, seqOf u (branchSeq b.2) = none) ∧
      (tableBadArg 5 c = false → Completes (.tableQuery k c) k.val (tableReply s h 0 0 (some n)) s s))

/-! ## The map and the Selector (R194-R220) -/

/-- START empties the map at EPOCH + 64 with no change known (R201), STOP keeps EPOCH and the replicas (R201), and a flip makes
E + 1 the epoch, with the index of the apply and its change at the head of the log of 64 (R198, R200). Model's choices in it:
logs 30, 31, 45, 54, 68. -/
def Obligations.MapCommands : Prop :=
  ∀ (s : State) (k : Fin 64),
    (HostMay k.val 1 s → s.map.running = false → s.resetting.getLsbD 2 = false →
      ∃ u, Completes (.mapStart k) k.val [] u s ∧ u = { s with mem := u.mem, map := u.map } ∧ u.map.running = true ∧
        u.map.epoch = s.map.epoch + 64 ∧ u.map.index = [] ∧ u.map.apply = none ∧ u.map.log.length = 64 ∧
        (∀ e ∈ u.map.log, e.2 = none) ∧ ∀ a, a < 0x080010000000 → memByte u.mem a = memByte s.mem a) ∧
    (HostMay k.val 1 s →
      Completes (.mapStop k) k.val [] { s with map := { s.map with running := false, apply := none } } s) ∧
    (∀ a, s.map.apply = some a → selectorActs s = true → ∃ t, exec .mapFlip s = .next t ∧ t.map.epoch = s.map.epoch + 1 ∧ t.map.index = a.index ∧
      t.map.log = (((s.map.epoch + 1).toNat, a.changed) :: s.map.log).take 64 ∧
      counter t 0x7414 3 = counter s 0x7414 3 + 1)

/-- A Selector channel starts at round 1 and stops with its candidates dropped, keeping ROUND and OUTPUT (R212); a round closes
at its timer with its first eight candidates in order of COST and ID (R211, R212), is CLOSED when its copies are fenced (R212),
and is released with the first candidate that passes the gate, none in safe state for the solver's channel (R213, R215, R438).
Model's choices in it: logs 11, 45, 54, 98. -/
def Obligations.SelectorRounds : Prop :=
  ∀ (s : State) (k : Fin 64) (ch : Fin 16),
    let c := chan s ch.val
    (HostMay k.val 8 s → c.state = .stopped → s.resetting.getLsbD 2 = false →
      Completes (.selectorStart k ch) k.val [] (chanSet ch.val (fun c => { state := .idle, round := 1, output := c.output }) s) s) ∧
    (HostMay k.val 8 s → c.state ≠ .stopped →
      Completes (.selectorStop k ch) k.val []
        (chanSet ch.val (fun c => { state := .stopped, round := c.round, output := c.output }) s) s) ∧
    (∀ n, selectorActs s = true → c.closeAt = some n → c.state = .collecting → c.closing = false →
      ∃ t, exec (.selectorCloseTimer ch) s = .next t ∧ (chan t ch.val).closing = true ∧ (chan t ch.val).closeAt = none ∧
        (chan t ch.val).cands = [] ∧ (chan t ch.val).state = .collecting ∧
        (chan t ch.val).kept.map (fun x => (x.id, x.cost)) = ((sortBy candLe c.cands).take 8).map (fun x => (x.id, x.cost)) ∧
        t.clock = (clockTo n s).clock) ∧
    (selectorActs s = true → c.state = .collecting → c.closing = true → exec (.selectorClosed ch) s =
      .next (chanSet ch.val (fun c => { c with state := .closed, closing := false, closedAt := now s }) s)) ∧
    (selectorActs s = true → c.state = .closed → ∃ t, exec (.selectorRelease ch) s = .next t ∧ (chan t ch.val).round = c.round + 1 ∧
      (chan t ch.val).output = c.output + 1 ∧ t.clock = (clockTo (releaseAt s ch.val) s).clock ∧
      (c.held = [] → (chan t ch.val).state = .idle ∧ (chan t ch.val).kept = [] ∧ (chan t ch.val).cands = []) ∧
      (s.island.state ≠ .normal → selCfg s ch.val 4 = 0 → (chan t ch.val).released = none) ∧
      (s.island.state = .normal ∨ selCfg s ch.val 4 ≠ 0 → (chan t ch.val).released = (gate s c.kept 1).2.map (fun w => w.1)))

/-! ## The tensor directory, the tiers and the model store (R222-R258) -/

/-- CREATE makes an EMPTY tensor of a free index (R232); FREE ends it, advances its generation and leaves every other tensor
(R232, R235); QUERY puts its descriptor where the session reads it (R231). An object is deleted and a catalogue entry selected
(R254). Model's choices in it: log 66. -/
def Obligations.DirectoryCommands : Prop :=
  ∀ (s : State) (k : Fin 64),
    (∀ c : DirCmd, HostMay k.val 2 s →
      let h := c.handle.toNat
      (dirBadArg s 1 c = false → (tensorOf s (h % 2 ^ 18)).state = .free →
        let u := tensorMod (h % 2 ^ 18)
          (fun _ => { state := .empty, kind := c.size.getLsbD 31, layout := c.arg, size := c.size.toNat % 2 ^ 31 }) s
        Completes (.tensorCreate k c) k.val (dirReply u (tensorHandle s (h % 2 ^ 18)) (some (h % 2 ^ 18)) 0 {}) u s) ∧
      (∀ i, dirBadArg s 2 c = false → tensorNamed s h = some i → listedCount s i = 0 →
        ∃ u, Completes (.tensorFree k c) k.val (dirReply u h (some i) 0 {}) u s ∧ tensorOf u i = {} ∧
          tensorGen u i = tensorGen s i + 1 ∧
          u = { s with dir := u.dir, sluice := u.sluice, out := u.out, fabric := u.fabric } ∧
          ∀ m, m ≠ i → tensorGen u m = tensorGen s m ∧
            ((∀ e ∈ s.dir.tensors, e.1 = m → e.2.home = .basin ∨ e.2.clusters = 0) → tensorOf u m = tensorOf s m)) ∧
      (∀ i, dirBadArg s 7 c = false → tensorNamed s h = some i →
        Completes (.tensorQuery k c) k.val (dirReply s h (some i) 0 {}) (smod k.val (fun e => { e with query := tensorDesc s i }) s) s)) ∧
    (∀ o : BitVec 16, HostMay k.val 2 s → Completes (.objectDelete k o) k.val []
      { s with dir := { s.dir with store := s.dir.store.filter (fun e => e.1 ≠ o.toNat) } } s) ∧
    (∀ o : BitVec 16, HostMay k.val 1 s → Completes (.catalogueSelect k o) k.val [] (smod k.val (fun e => { e with entry := o }) s) s)

/-- LOAD, STORE, FILL and MIGRATE submit a service job on an idle tensor of the client's, and the reply waits for the Sluice's
decision (R233, R234). Model's choices in it: logs 43, 66. -/
def Obligations.DirectoryServices : Prop :=
  ∀ (s : State) (k : Fin 64) (c : DirCmd) (i : Nat) (op : Nat), HostMay k.val 2 s → dirBadArg s op c = false →
    tensorNamed s c.handle.toNat = some i → queueClient s c.queue.toNat = clientOf s k.val → tensorBusy s i = false →
    let v := dirService op i c
    dirNoSpace s i v = false → dirNoObject s v = false →
    let Submitted := fun (x : Instr) => Submits x k.val { s with
      sluice := { s.sluice with arrivals := s.sluice.arrivals ++ [{
        q := c.queue.toNat, session := k.val, sgen := (sess s k.val).gen, slot := now s / slotNs,
        desc := { deadline := c.deadline, flags := 8 }, service := some v }] } } s
    (op = 3 → Submitted (.tensorLoad k c)) ∧ (op = 4 → (tensorOf s i).state = .valid → Submitted (.tensorStore k c)) ∧
    (op = 5 → Submitted (.tensorFill k c)) ∧ (op = 6 → (tensorOf s i).state = .valid → Submitted (.tensorMigrate k c))

/-- The copies of a plane are issued in order, none before its ISSUE, and one from a peer is read by RDMA (R243, R250); the
bytes of one stand at its destination when it arrives; an entry that has not arrived in time is counted and switches its job to
a cheaper allowed path, at whose entry its tasks go on, or ends it (R245, R247, R248); a fault of a copy, or of a MIGRATE's
write at a peer, is counted (R246, R252; that a refused write counts as a fault of the AQUIFER port is the model's reading, log
60). Model's choices in it: logs 13, 25, 28, 60, 96. -/
def Obligations.PrefetchCopies : Prop :=
  (∀ (s : State) (g : BitVec 32) (j : Job) (x i : Nat) (e : SchedEntry), jobOf s g = some j → j.phase = .running →
    planeEntry j x = some e → entryTensor j x = some i →
    let v := (boundVersion j i).getD (tensorOf s i).version
    let issued := jmod g (fun j => { j with copies := j.copies ++ [{ entry := x }] }) s
    let damaged := (tensorOf s i).state = .damaged ∧ v = (tensorOf s i).version
    (∀ c, entryCluster j e = some c → e.issue ≤ jobTimeNow s j → earlierIssued j x = true → (∀ y ∈ j.copies, y.entry ≠ x) →
      flightsTo s c < 8 →
      (damaged → ∃ t, exec (.prefetchIssue g x) s = .next t ∧ counter t 0x7415 2 = counter s 0x7415 2 + 1 ∧ t.events.getLsbD 9 = true) ∧
      (¬damaged → remoteHome s i v = none → exec (.prefetchIssue g x) s = .next issued) ∧
      (∀ m a n, ¬damaged → remoteHome s i v = some (m, a, n) → peerUp s m = true →
        exec (.prefetchIssue g x) s = .next (newReq m (.job g (some x)) .read a (leBytes 4 n) issued))) ∧
    (jobTimeNow s j < e.issue → exec (.prefetchIssue g x) s = .next s) ∧
    (earlierIssued j x = false → exec (.prefetchIssue g x) s = .next s) ∧
    (∀ (b : Bytes) (a : Nat), inFlight j x = true → copyPoison s j e i = none → copyBytes s j e i = some b →
      entryDest s j e b.length = .tile a → (∀ y ∈ j.copies, y.entry = x → y.moved = 0) →
      eventWaiters s (some g) (0x2000 + x % 4096) = [] →
      ∃ t k, exec (.prefetchArrival g x) s = .next t ∧ jobOf t g = some k ∧ (∀ y ∈ k.copies, y.entry = x → y.arrived = true) ∧
        peek t a b.length = b ∧ ⟨0x2000 + x % 4096, some g⟩ ∈ t.raised) ∧
    (hasMissed s j x = false → exec (.tierMiss g x) s = .next s) ∧
    (hasMissed s j x = true →
      (∀ p, pathFor j j.path e = some p → ∃ t, exec (.tierMiss g x) s = .next t ∧
        jobOf t g = some { j with path := p, masked := false, copies := [],
                                  switched := some ⟨jobTimeNow s j, j.path, markFault x j.copies⟩ } ∧
        (j.desc.lockstep = false → ∀ b n, (∃ y ∈ j.tasks, y.tile = some b) → firstOn j b = some n →
          (tileOf t b).pc = entryPc { j with path := p } n ∧ (tileOf t b).wait = none) ∧
        counter t 0x7415 1 = counter s 0x7415 1 + 1 ∧ counter t 0x7415 3 = counter s 0x7415 3 + 1) ∧
      (pathFor j j.path e = none → ∃ t, exec (.tierMiss g x) s = .next t ∧ jobOf t g = none ∧
        counter t 0x7415 1 = counter s 0x7415 1 + 1)) ∧
    (∀ kind : TierFaultKind, inFlight j x = true → ∃ t, exec (.tierFault g x kind) s = .next t ∧
      counter t 0x7415 2 = counter s 0x7415 2 + 1 ∧ t.events.getLsbD 9 = true ∧
      (pathFor j j.path e = none → jobOf t g = none) ∧
      (∀ p, pathFor j j.path e = some p → (jobOf t g).map (fun k => k.path) = some p))) ∧
  ∀ (s : State) (g : BitVec 32) (j : Job) (x : Nat), jobOf s g = some j → migratesOut j = true → inFlightNow s j x = false →
    ∃ t, exec (.tierFault g x .aquiferPort) s = .next t ∧ jobOf t g = none ∧ t.events.getLsbD 9 = true ∧
      counter t 0x7415 2 = counter s 0x7415 2 + 1 ∧ counter t 0x7415 7 = counter s 0x7415 7 + 1

/-- Scrub corrects up to 8 symbols of a burst, counted, and poisons a line it cannot (R228); beyond 16 the code may miss the
error, which is left free (log 40). A subchannel is retired at the end of its evacuation (R256) and a cluster's tiles count
again at the end of its spare copy (R257). Model's choices in it: logs 16, 40. -/
def Obligations.MemoryUpkeep : Prop :=
  (∀ (s : State) (b : BitVec 48) (n : Nat), inUsable s b.toNat 64 = true →
    let sc := subchannelOf s b.toNat
    let half := if sc < 16 then 14 else 15
    (works s half = false → exec (.patrolScrub b n) s = .next s) ∧ (works s half = true →
    let lasting := permanentByCount ((counter s 0x741d 1).toNat :: unitHistory s (unitOf 4 sc))
    let Poisons := ∃ t, exec (.patrolScrub b n) s = .next t ∧ counter t 0x7415 4 = counter s 0x7415 4 + 1 ∧
      t.events.getLsbD 2 = true ∧ (lasting = false → b.toNat / 64 ∈ t.dir.poison ∧ t.mem = s.mem)
    (n = 0 → exec (.patrolScrub b n) s = .next s) ∧
    (1 ≤ n → n ≤ 4 → exec (.patrolScrub b n) s = .next (count 0x7415 5 1 (count (0x3820 + sc) 2 1 s))) ∧
    (4 < n → n ≤ 8 → ∃ t, exec (.patrolScrub b n) s = .next t ∧ counter t 0x7415 5 = counter s 0x7415 5 + 1 ∧
      counter t (0x3820 + sc) 2 = counter s (0x3820 + sc) 2 + 1 ∧ t.events.getLsbD 2 = true ∧ (lasting = false → t.mem = s.mem)) ∧
    (8 < n → n ≤ 16 → Poisons) ∧
    (16 < n → Poisons ∨ exec (.patrolScrub b n) s = .next { s with freeCtr := s.freeCtr + 1 }))) ∧
  (∀ (s : State) (n : Fin 32), works s 20 = true → tblGet 0 s.dir.sub n.val = 1 →
    exec (.evacuationEnd n) s = .next { s with
      dir := { s.dir with sub := tblSet 0 s.dir.sub n.val 2 },
      sluice := { s.sluice with jobs := s.sluice.jobs.map (fun j =>
        if j.risk && !(hasCommitted j) then { j with replan := true } else j) } }) ∧
  ∀ (s : State) (c : Fin 64), works s 20 = true → (clusterOf s c.val).copying = true →
    exec (.spareCopyEnd c) s = .next (callReplan (fun j => j.risk) (cmod c.val (fun x => { x with copying := false }) s))

/-- A peer's RDMA request is served within the range it is granted and refused outside, in packets of the path MTU (R249, R250);
a request unacknowledged for 32.768 us is sent again, up to three times (R250), and one that was sent and is lost to the
transport is given up: a copy faults (R246), anything else is a failure event (R62, R417). Packets wait while the port is paused
(R382). Model's choices in it: logs 13, 65, 104. -/
def Obligations.PeerRequests : Prop :=
  (∀ (s : State) (m : Fin 4) (p : Nat) (addr : BitVec 48) (n : Nat) (data : Bytes), portToward s m.val = some p → peerUp s m.val = true →
    let a := ownPhysical s addr.toNat
    let Answered := fun (nak : Bool) (l : List Bytes) (t : State) =>
      let ans := l.map (fun d => OutFrame.roceAnswer (Fin.ofNat 3 p) m.val nak d (cfg s (0x3450 + p) 5))
      t = { s with fabric := t.fabric, out := t.out, freeCtr := s.freeCtr + 1, mem := t.mem, dir := t.dir } ∧
      ∃ pfc : List OutFrame, (pfc = [] ∨ ∃ f, pfc = [.fabric (Fin.ofNat 3 p) f]) ∧
        (if now s < (fabOf s p).paused ∨ (fabOf s p).held ≠ [] then t.out = s.out ++ pfc ∧ (fabOf t p).held = (fabOf s p).held ++ ans
         else t.out = s.out ++ pfc ++ ans ∧ (fabOf t p).held = [])
    (inGrant s m.val 1 a n = true → ∃ t, exec (.aquiferRequest m false addr n data) s = .next t ∧
      Answered false (chunksOf 4096 (peek s a n)) t ∧ t.mem = s.mem ∧ t.dir = s.dir) ∧
    (inGrant s m.val 3 a data.length = true → ∃ t, exec (.aquiferRequest m true addr n data) s = .next t ∧
      Answered false [[]] t ∧ peek t a data.length = data ∧
      (∀ b, ¬(a ≤ b ∧ b < a + data.length) → memByte t.mem b = memByte s.mem b)) ∧
    (inGrant s m.val 3 a data.length = false → ∃ t, exec (.aquiferRequest m true addr n data) s = .next t ∧
      Answered true [[]] t ∧ t.mem = s.mem ∧ t.dir = s.dir) ∧
    (inGrant s m.val 1 a n = false → ∃ t, exec (.aquiferRequest m false addr n data) s = .next t ∧
      Answered true [[]] t ∧ t.mem = s.mem ∧ t.dir = s.dir)) ∧
  ∀ (s : State) (p : Fin 3) (n : Nat) (r : RoceReq), (fabOf s p.val).reqs.find? (fun y => y.id = n) = some r →
    (∀ k, r.qp = some k → r.retries < 3 → ∃ t, exec (.ackTimeout p n) s = .next t ∧
      t = { s with clock := (clockTo (r.sentAt + 32768 * (r.retries + 1)) s).clock, fabric := t.fabric, out := t.out } ∧
      (fabOf t p.val).reqs = (fabOf s p.val).reqs.map (fun y => if y.id = n then { y with retries := y.retries + 1 } else y) ∧
      ((fabOf s p.val).paused ≤ now t → (fabOf s p.val).held = [] → t.out = s.out ++ packetsOf s p.val r.peer k r.op r.address r.data)) ∧
    (r.qp = none ∨ 3 ≤ r.retries → exec (.ackTimeout p n) s = .next s) ∧
    (r.qp = none → exec (.transportFault p n) s = .next s) ∧
    (r.qp ≠ none → ∃ t, exec (.transportFault p n) s = .next t ∧
      match r.owner with
      | .discovery => t = { s with clock := t.clock, fabric := t.fabric, out := t.out } ∧ ∀ y ∈ (fabOf t p.val).reqs, ¬(y.id = n ∧ y.peer = r.peer ∧ y.owner = r.owner)
      | .job g (some x) => ∀ j, jobOf s g = some j → inFlight j x = true →
          counter t 0x7415 2 = counter s 0x7415 2 + 1 ∧ counter t 0x7415 7 = counter s 0x7415 7 + 1 ∧ t.events.getLsbD 9 = true
      | _ => t.events.getLsbD 2 = true)

/-! ## Partitions and function resets (R259-R277) -/

/-- START runs a partition on the tiles of its configuration, STOP drains or stops it (R261), and a reset of it cancels the jobs
that name it and wipes its tiles (R275, R276). Model's choices in it: log 45. -/
def Obligations.PartitionCommands : Prop :=
  ∀ (s : State) (k p : Fin 64), (partOf s p.val).state ≠ .resetting →
    (HostMay k.val 1 s →
      let r := shapeTiles (partShape s p.val) (partBase s p.val)
      Completes (.partitionStart k p) k.val [] (pmod p.val (fun x => { x with state := .running, first := r.1, tiles := r.2 }) s) s) ∧
    (HostMay k.val 1 s → (partOf s p.val).state = .running →
      Completes (.partitionStop k p) k.val []
        (pmod p.val (fun x => { x with state := if partJobs s p.val = [] then .stopped else .draining }) s) s) ∧
    (HostMay k.val 6 s → ∃ t, exec (.partitionReset k p) s = .next t ∧ (sess t k.val).busy = false ∧
      (sess t k.val).reply = {} ∧ (partOf t p.val).state = .resetting ∧
      (∀ j ∈ t.sluice.jobs, namesPart s p.val j = true → hasCommitted j = true) ∧
      ∀ x ∈ partTiles s p.val, tileOf t x = { gated := (tileOf s x).gated } ∧
        ∀ a, tileBase x ≤ a → a < tileBase x + tileBytes → memByte t.mem a = 0)

/-- A function reset (R274) marks its bit of 0x2010:02, stops its function and wipes what R276 says; a second request while it
lasts of the same function, or of a partition that is being reset, aborts CONFLICT; its end clears the bit and is counted at
0x7416:06. Model's choices in it: log 45. -/
def Obligations.FunctionResets : Prop :=
  ∀ (s : State) (k : Fin 64),
    let begun := fun (b : Nat) => { s with resetting := s.resetting ||| BitVec.ofNat 32 (2 ^ b) }
    (HostMay k.val 6 s →
      (s.resetting.getLsbD 0 = false → Completes (.resetWellhead k 0) k.val [] (wipeWellhead (begun 0)) s) ∧
      (s.resetting.getLsbD 1 = false → Completes (.resetFusion k 0) k.val []
        { begun 1 with fusion := { s.fusion with store := [], first := true, wiped := true } } s) ∧
      (s.resetting.getLsbD 2 = false → ∃ u, Completes (.resetSelector k 0) k.val [] u s ∧
        u = { begun 2 with map := { s.map with running := false, apply := none, log := [] }, selector := u.selector } ∧
        ∀ c : Fin 16, (chan u c.val).state = .stopped ∧ (chan u c.val).kept = (if (chan s c.val).state = .stopped then (chan s c.val).kept else []) ∧
          (chan u c.val).round = (chan s c.val).round ∧ (chan u c.val).output = (chan s c.val).output) ∧
      (∀ p : Fin 3, s.resetting.getLsbD (3 + p.val) = false → (fabOf s p.val).state ≠ 5 →
        ∃ t, exec (.resetFabricPort k (BitVec.ofNat 8 p.val)) s = .next t ∧ t.resetting = (begun (3 + p.val)).resetting ∧
          (fabOf t p.val).state = (if (fabOf s p.val).running then 1 else 0) ∧ (fabOf t p.val).peersUp = [] ∧
          (∀ r ∈ (fabOf t p.val).reqs, outlivesPort r = true) ∧ (sess t k.val).busy = false) ∧
      (∀ x : Fin 4, s.resetting.getLsbD (6 + x.val) = false → (sess s k.val).port ≠ x →
        ∃ t, exec (.resetT1Port k (BitVec.ofNat 8 x.val)) s = .next t ∧ t.resetting = (begun (6 + x.val)).resetting ∧
          (∀ j : Fin 64, (sess s j.val).open_ = true → (sess s j.val).port = x → sess t j.val = { gen := (sess s j.val).gen + 1 }) ∧
          (t1Of t x.val).launch = [] ∧ (t1Of t x.val).waiting = [] ∧ (t1Of t x.val).link = (if (t1Of s x.val).running && !(t1Of s x.val).retired then 1 else 0) ∧
          counter t 0x741b 4 = counter s 0x741b 4 + BitVec.ofNat 64 (t1Of s x.val).launch.length) ∧
      (let Twice := fun (b : Nat) (c : Instr) => s.resetting.getLsbD b = true → ∃ t, exec c s = .next t ∧ RefusedWith k.val abConflict s t
       Twice 0 (.resetWellhead k 0) ∧ Twice 1 (.resetFusion k 0) ∧ Twice 2 (.resetSelector k 0) ∧
       (∀ p : Fin 3, Twice (3 + p.val) (.resetFabricPort k (BitVec.ofNat 8 p.val))) ∧
       (∀ x : Fin 4, Twice (6 + x.val) (.resetT1Port k (BitVec.ofNat 8 x.val))) ∧ Twice 10 (.resetControlComplex k 0) ∧
       ∀ p : Fin 64, (partOf s p.val).state = .resetting →
         ∃ t, exec (.partitionReset k p) s = .next t ∧ RefusedWith k.val abConflict s t) ∧
      (s.resetting.getLsbD 10 = false → ∃ u, Completes (.resetControlComplex k 0) k.val [] u s ∧
        u = { begun 10 with solver := u.solver, pump := u.pump, t1 := u.t1 } ∧ u.solver.running = false ∧ u.solver.solving = none ∧
        u.solver.iterate = none ∧ u.solver.slots = s.solver.slots ∧ u.pump.running = s.pump.running ∧
        ∀ n : Fin 64, (axisOf u n.val).state = .disabled ∧ (axisOf u n.val).stages = [] ∧ (axisOf u n.val).pending = none)) ∧
    (∀ (c : BitVec 16) (b : Nat), c.toNat / 256 ≠ 1 → resetBit c.toNat = some b → s.resetting.getLsbD b = true →
      ∃ t, exec (.functionResetDone c) s = .next t ∧ t.resetting = s.resetting &&& ~~~(BitVec.ofNat 32 (2 ^ b)) ∧
        counter t 0x7416 6 = counter s 0x7416 6 + 1 ∧ t.mem = s.mem ∧ t.sluice = s.sluice) ∧
    (∀ p : Fin 64, (partOf s p.val).state = .resetting →
      ∃ t, exec (.functionResetDone (BitVec.ofNat 16 (256 + p.val))) s = .next t ∧ (partOf t p.val).state = .stopped ∧
        counter t 0x7416 6 = counter s 0x7416 6 + 1)

/-! ## Wellhead (R278-R307, R430) -/

/-- A STOPPED camera stream starts WAITING with HANDED 0 in its ring (R306); a stop abandons its frame (R306). A sample stream
starts at HEAD = TAIL, a text stream only with a DICT (R294, R306); a stop abandons its batch (R306), and a flush settles every
sample left as FLUSHED and hands the batch over (R304). A load of a DICT that R294 accepts puts it in place. Model's choices in
it: logs 36, 37, 54. -/
def Obligations.WellheadControls : Prop :=
  ∀ (s : State) (k : Fin 64), HostMay k.val 1 s →
    (∀ n : Fin 32,
      let r := (camGeom s n.val).ring
      ((camOf s n.val).state = 0 → portTaken s n.val = false →
        ∃ u, Completes (.cameraStreamStart k n) k.val [] u s ∧ u = { s with mem := u.mem, dir := u.dir, wellhead := u.wellhead } ∧
          u.wellhead = { s.wellhead with cams := u.wellhead.cams } ∧
          camOf u n.val = { camOf s n.val with state := 1, handed := 0, frame := none, ready := none, lastGood := none } ∧
          (∀ m, m ≠ n.val → camOf u m = camOf s m) ∧ peekNat u r 4 = 0 ∧
          ∀ a, ¬(r ≤ a ∧ a < r + 4) → memByte u.mem a = memByte s.mem a) ∧
      ((camOf s n.val).state ≠ 0 → Completes (.cameraStreamStop k n) k.val []
        (cammod n.val (fun c => { c with state := 0, frame := none, ready := none }) s) s)) ∧
    (∀ n : Fin 16,
      let x := sampOf s n.val
      let r := smpRing s n.val
      (x.running = false → (smpIsText s n.val = true → s.wellhead.loaded = true) →
        ∃ u, Completes (.sampleStreamStart k n) k.val [] u s ∧ u = { s with mem := u.mem, dir := u.dir, wellhead := u.wellhead } ∧
          u.wellhead = { s.wellhead with streams := u.wellhead.streams } ∧
          sampOf u n.val = { running := true, head := smpTail s n.val, handed := 0, batch := [] } ∧
          (∀ m, m ≠ n.val → sampOf u m = sampOf s m) ∧ peekNat u r 4 = 0 ∧
          ∀ a, ¬(r ≤ a ∧ a < r + 4) → memByte u.mem a = memByte s.mem a) ∧
      (x.running = false → smpIsText s n.val = true → s.wellhead.loaded = false →
        ∃ t, exec (.sampleStreamStart k n) s = .next t ∧ RefusedWith k.val abConflict s t) ∧
      (x.running = true →
        (∃ u, Completes (.sampleStreamStop k n) k.val [] u s ∧ u = { s with wellhead := u.wellhead } ∧
          u.wellhead = { s.wellhead with streams := u.wellhead.streams, decoders := u.wellhead.decoders } ∧
          sampOf u n.val = { x with running := false, batch := [] } ∧ (∀ m, m ≠ n.val → sampOf u m = sampOf s m) ∧
          ∀ e ∈ u.wellhead.decoders, e.1 ≠ 4 → e ∈ s.wellhead.decoders ∧ e.2.map (fun d => d.stream) ≠ some n.val) ∧
        (x.batch = [] → Completes (.sampleStreamFlush k n) k.val [] s s) ∧
        (x.batch ≠ [] → x.batch.length ≤ sampCfg s n.val 9 →
          ∃ u, Completes (.sampleStreamFlush k n) k.val [] u s ∧
            sampOf u n.val = { x with handed := x.handed + 1, batch := [] } ∧ (∀ m, m ≠ n.val → sampOf u m = sampOf s m) ∧
            peekNat u r 4 = (x.handed + 1).toNat ∧
            counter u 0x7417 2 = counter s 0x7417 2 + BitVec.ofNat 64 ((x.batch.filter (fun e => !e.settled)).length +
              (sampCfg s n.val 9 - x.batch.length))))) ∧
    (∀ (i : Nat) (b : Bytes) (l : List Bytes), tensorNamed s (cfg s 0x4980 1) = some i → (tensorOf s i).state = .valid →
      versionBytes s i (tensorOf s i).version = some b → parseDict (b.length + 1) b = some l → dictOk l = true →
      Completes (.dictLoad k) k.val [] { s with wellhead := { s.wellhead with dict := l, loaded := true } } s)

/-- The receiver of a camera port has the symbol clock or not (R280); without it nothing is taken. A frame-start packet numbers
the frame, dropped where the ring has no room (R285, R304); a long packet's lines join it, an error of its CRC marking it (R279,
R280, R293); a frame-end packet puts the frame, or its replacement, into its slot (R293, R304) with its signature (R430); and
the handover writes HANDED (R304). Model's choices in it: logs 25, 35, 37, 49. -/
def Obligations.CameraFrames : Prop :=
  (∀ (s : State) (p : Fin 12),
    exec (.cameraLinkLocked p) s = .next (wmod (fun w => { w with links := tblSet false w.links p.val true }) s) ∧
    exec (.cameraLinkLost p) s = .next (wmod (fun w => { w with links := tblSet false w.links p.val false }) s) ∧
    (linkLocked s p.val = false → ∀ (vc : Fin 16) (n : Nat) (d : BitVec 8) (h c : Bool) (b : Bytes),
      exec (.frameStart p vc n) s = .next (clockTo n s) ∧ exec (.csiLongPacket p vc d h c b) s = .next s ∧
      exec (.frameEnd p vc) s = .next s)) ∧
  (∀ (s : State) (p : Fin 12) (vc : Fin 16) (n : Nat), wellheadReset s = false → linkLocked s p.val = true →
    camOn s p.val vc.val = some n →
    let c := camOf s n
    let g := camGeom s n
    (∀ at_ : Nat, c.ready = none →
      let k := c.frameNo + 1
      let st := stamp (clockTo at_ s)
      (ringRoom s g.ring g.slots c.handed = false → exec (.frameStart p vc at_) s =
        .next (cammod n (fun c => { c with state := 2, frameNo := k, frame := some { number := k, stamp := st, dropped := true } })
          (count (0x4800 + n) 0x14 1 (count 0x7417 0x0b 1 (count 0x7417 1 1 (clockTo at_ s)))))) ∧
      (ringRoom s g.ring g.slots c.handed = true → ∃ t, exec (.frameStart p vc at_) s = .next t ∧
        t = { s with clock := (clockTo at_ s).clock, counters := t.counters, wellhead := { s.wellhead with cams := t.wellhead.cams } } ∧
        camOf t n = { c with
          state := 2, frameNo := k,
          frame := some { number := k, stamp := st, dropped := false,
                          rois := if g.roi then ((readRoi s n k).getD []).map (takeRect g) else [] } } ∧
        (∀ m, m ≠ n → camOf t m = camOf s m) ∧ counter t 0x7417 1 = counter s 0x7417 1 + 1)) ∧
    (∀ (d : BitVec 8) (b : Bytes), camCfg s n 3 = d.toNat → d.toNat ∈ [0x1e, 0x2a, 0x2b, 0x2c] →
      exec (.csiLongPacket p vc d true true b) s = .next (cammod n (fun c => { c with
        frame := c.frame.map (fun f => { f with lines := (f.lines ++ payloadLines d.toNat g.w b).take g.h }) }) s) ∧
      ∃ t, exec (.csiLongPacket p vc d true false b) s = .next t ∧ counter t (0x4880 + p.val) 3 = counter s (0x4880 + p.val) 3 + 1 ∧
        (camOf t n).frame = c.frame.map (fun f => { f with
          linkError := true, lines := (f.lines ++ payloadLines d.toNat g.w b).take g.h })) ∧
    (∀ f, c.frame = some f → f.dropped = false →
      let a := g.ring + 128 + camSlotBytes g * (c.handed.toNat % g.slots)
      ∃ t sl, exec (.frameEnd p vc) s = .next t ∧ (camOf t n).frame = none ∧ (camOf t n).handed = c.handed ∧
        peek t a sl.length = sl ∧ (∀ x, ¬(a ≤ x ∧ x < a + sl.length) → memByte t.mem x = memByte s.mem x) ∧
        (f.linkError = false → (camOf t n).ready = some (sl, true) ∧
          (camOf t n).signature = some (frameSignature g.dtype g.w g.h (rawWord g.dtype s.freeCtr f.lines)) ∧
          ∃ frozen, sl = goodSlot g f (c.handed + 1) frozen s.freeCtr) ∧
        (f.linkError = true → (camOf t n).ready = some (sl, false) ∧ sl = replacedSlot g f (c.handed + 1) c.lastGood ∧
          counter t 0x7417 2 = counter s 0x7417 2 + 1))) ∧
  ∀ (s : State) (x : Fin 48) (sl : Bytes) (good : Bool), wellheadReset s = false → x.val < 32 →
    (camOf s x.val).ready = some (sl, good) →
    let c := camOf s x.val
    let r := (camGeom s x.val).ring
    ∃ t, exec (.batchHandover x) s = .next t ∧ peekNat t r 4 = (c.handed + 1).toNat ∧
      camOf t x.val = { c with handed := c.handed + 1, ready := none, lastGood := if good then some sl else c.lastGood } ∧
      (∀ a, ¬(r ≤ a ∧ a < r + 4) → memByte t.mem a = memByte s.mem a) ∧
      (good = false → counter t (0x4800 + x.val) 0x13 = counter s (0x4800 + x.val) 0x13 + 1) ∧
      (eventWaiters s none (camCfg s x.val 0x0f) = [] → ⟨camCfg s x.val 0x0f, none⟩ ∈ t.raised)

/-- A running sample stream takes its next input entry into the batch, skipping what an overrun has lost at a batch's start only
(R289, R305); a decoder takes the oldest sample that waits (R292) and settles it with its image (R290), the tokenizer with its
tokens (R295), or it is replaced for the check it fails (R291, R293) or the time it spends (R292); the tokenizer takes the next
text sample as soon as it is free (R292; log 37); the batch goes to its slot once every sample is settled (R304). Model's
choices in it: logs 25, 35, 36, 37. -/
def Obligations.SampleBatches : Prop :=
  (∀ (s : State) (n : Fin 16), wellheadReset s = false →
    let x := sampOf s n.val
    let waiting := (smpTail s n.val + 2 ^ 32 - x.head % 2 ^ 32) % 2 ^ 32
    let entries := sampCfg s n.val 3
    let b := peek s (ownPhysical s (sampCfg s n.val 2) + 64 + 32 * (x.head % entries)) 32
    let aug := sampCfg s n.val 1 = 0 ∧ sampCfg s n.val 0x0b = 2 ∧ fieldAt b 16 8 ≠ 0
    let e : Sample := { index := BitVec.ofNat 32 (fieldAt b 12 4), src := fieldAt b 0 8, bytes := fieldAt b 8 4, params := fieldAt b 16 8,
                        aug := if aug then peek s (ownPhysical s (fieldAt b 16 8)) 32 else [] }
    let bad := fieldAt b 24 8 ≠ 0 ∨ e.bytes = 0 ∨ 16777216 < e.bytes ∨ inUsable s (ownPhysical s e.src) e.bytes = false ∨
      (aug ∧ (inUsable s (ownPhysical s e.params) 32 = false ∨ parseAug e.aug = none))
    x.running = true → x.batch.length < sampCfg s n.val 9 → ringRoom s (smpRing s n.val) (sampCfg s n.val 0x0f) x.handed = true →
    (waiting = 0 → exec (.sampleTaken n) s = .next (tokenizerTake s)) ∧
    (0 < waiting → waiting ≤ entries → ∃ t e', exec (.sampleTaken n) s = .next t ∧
      t = { s with counters := t.counters, wellhead := { s.wellhead with streams := t.wellhead.streams, decoders := t.wellhead.decoders } } ∧
      sampOf t n.val = { x with head := x.head + 1, batch := x.batch ++ [e'] } ∧ (∀ m, m ≠ n.val → sampOf t m = sampOf s m) ∧
      (¬bad → e' = e ∧
        (smpIsText s n.val = true → s.wellhead.loaded = true → nextSample s true = none →
          (∀ d, d < 5 → tblGet none s.wellhead.decoders d = none) →
          tblGet none t.wellhead.decoders 4 = some ⟨n.val, x.batch.length, now s⟩)) ∧
      (bad → e' = { e with settled := true, reason := 8, status := 1, len := 0, data := padData s n.val } ∧
        counter t 0x7417 0x0a = counter s 0x7417 0x0a + 1)) ∧
    (entries < waiting → ∃ t, exec (.sampleTaken n) s = .next t ∧
      (sampOf t n.val).head = x.head + 1 + (if x.batch = [] then waiting - entries else 0))) ∧
  (∀ (s : State) (d : Fin 4) (at_ n i : Nat) (e : Sample), wellheadReset s = false → tblGet none s.wellhead.decoders d.val = none →
    nextSample s false = some (n, i) → (sampOf s n).batch[i]? = some e →
    (∀ p, jpegChecks (sampleSrc s e) = .inr p → exec (.decodeStart d at_) s =
      .next (decoderSet d.val (some ⟨n, i, now (clockTo at_ s)⟩) (clockTo at_ s))) ∧
    (∀ r, jpegChecks (sampleSrc s e) = .inl r → ∃ t, exec (.decodeStart d at_) s = .next t ∧
      (sampOf t n).batch[i]? = some { e with settled := true, reason := r, status := 1, len := 0, data := padData s n } ∧
      counter t 0x7417 2 = counter s 0x7417 2 + 1 ∧ t.mem = s.mem)) ∧
  (∀ (s : State) (u : Fin 5) (at_ : Nat) (d : Decoder) (e : Sample), wellheadReset s = false →
    unitWork (clockTo at_ s) u.val = some d → (sampOf s d.stream).batch[d.sample]? = some e →
    let late := smpBudget s d.stream < now (clockTo at_ s) - d.since
    let Settled := fun (c : Instr) (e' : Sample) => ∃ t, exec c s = .next t ∧ (sampOf t d.stream).batch[d.sample]? = some e' ∧
      (u.val ≠ 4 → tblGet none t.wellhead.decoders u.val = none) ∧ t.clock = (clockTo at_ s).clock ∧ t.mem = s.mem
    let spent := { e with settled := true, reason := 6, status := 1, len := 0, data := padData s d.stream }
    (late → Settled (.overBudget u at_) spent) ∧ (¬late → exec (.overBudget u at_) s = .next (clockTo at_ s)) ∧ (late → Settled (.decodeDone u at_) spent) ∧
    (¬late → u.val = 4 →
      let ts := tokenize s.wellhead.dict ((sampleSrc s e).length + 1) (sampleSrc s e)
      let m := sampCfg s d.stream 7
      let b := ((ts.take m ++ List.replicate (m - (ts.take m).length) (sampCfg s d.stream 8)).map (leBytes 4)).flatten
      ∃ n, ((ts.take m).length < 65536 → n = (ts.take m).length) ∧ Settled (.decodeDone u at_)
        { e with settled := true, status := (if m < ts.length then 2 else 0), len := n, data := padTo (sampleBytes s d.stream) b }) ∧
    (¬late → u.val ≠ 4 → ∀ h sos rest, jpegChecks (sampleSrc s e) = .inr (h, sos, rest) →
      (∀ bs, readScans (rest.length + 1) h sos rest [] = some bs →
        let im := jpegImage h bs (sampCfg s d.stream 6 == 1)
        let b := augImage im (sampleAug s d.stream e im.w im.h) (sampCfg s d.stream 4) (sampCfg s d.stream 5) s.freeCtr
        Settled (.decodeDone u at_) { e with settled := true, data := padTo (sampleBytes s d.stream) b }) ∧
      (readScans (rest.length + 1) h sos rest [] = none →
        Settled (.decodeDone u at_) { e with settled := true, reason := 5, status := 1, len := 0, data := padData s d.stream }))) ∧
  ∀ (s : State) (y : Fin 48), wellheadReset s = false → 32 ≤ y.val →
    let n := y.val - 32
    let x := sampOf s n
    let r := smpRing s n
    let sl := sampleSlot s n (x.handed + 1) x.batch
    x.running = true → x.batch.length = sampCfg s n 9 → (∀ e ∈ x.batch, e.settled = true) →
    ∃ t, exec (.batchHandover y) s = .next t ∧ sampOf t n = { x with handed := x.handed + 1, batch := [] } ∧
      peekNat t r 4 = (x.handed + 1).toNat ∧
      peek t (r + 128 + sampSlotBytes s n * (x.handed.toNat % sampCfg s n 0x0f)) sl.length = sl ∧
      (eventWaiters s none (sampCfg s n 0x10) = [] → ⟨sampCfg s n 0x10, none⟩ ∈ t.raised)

/-! ## Fusion, the sparse solver and the Pump engine (R308-R363) -/

/-- The fusion unit starts with an empty store and stops (R320); a record of an input fed by the host is taken in unless its
STAMP is earlier than the held one's (R311, R313); the next cycle instant gives every input its STATUS and writes the buffer of
CYCLE + 1, whose header says the groups and flags (R314, R315, R318). Model's choices in it: logs 11, 25, 32, 54. -/
def Obligations.FusionUnit : Prop :=
  (∀ (s : State) (k : Fin 64), HostMay k.val 1 s →
    (s.fusion.running = false → Completes (.fusionStart k) k.val []
      { s with fusion := { s.fusion with running := true, store := [], first := true, lastAt := some (now s) } } s) ∧
    (s.fusion.running = true → Completes (.fusionStop k) k.val []
      { s with fusion := { s.fusion with running := false, store := [] } } s) ∧
    ∀ (i : Fin 16) (r : Bytes), s.fusion.running = true → cfg s (0x5010 + i.val) 2 ≠ 0 → 64 ≤ r.length → r.length ≤ 16448 →
      reservedOk 0x5010 8 r = true →
      let late := ∃ old, s.fusion.store.find? (fun e => e.1 = i.val) = some (i.val, old) ∧
        (BitVec.ofNat 32 (fieldAt r 0 4) - BitVec.ofNat 32 (fieldAt old 0 4)).toInt < 0
      (fusionActs s = false → Completes (.fusionRecordWrite k i r) k.val [] s s) ∧
      (fusionActs s = true → ¬late → ∃ u, Completes (.fusionRecordWrite k i r) k.val [] u s ∧
        u = { s with fusion := { s.fusion with store := u.fusion.store } } ∧
        u.fusion.store.find? (fun e => e.1 = i.val) = some (i.val, r) ∧
        ∀ j, j ≠ i.val → u.fusion.store.find? (fun e => e.1 = j) = s.fusion.store.find? (fun e => e.1 = j)) ∧
      (fusionActs s = true → late → Completes (.fusionRecordWrite k i r) k.val [] (count 0x7418 9 1 s) s)) ∧
  ∀ s : State, fusionActs s = true →
    let T := nextInstant (1000 * cfg s 0x5000 1) (1000 * cfg s 0x5000 2) (now s) s.fusion.lastAt
    let c := s.fusion.cycle + 1
    let base := ownPhysical s (fusionOut s) + 0x21000 * (c.toNat % 2)
    ∃ t, exec .fusionCycle s = .next t ∧ t.clock = (clockTo T s).clock ∧ t.fusion.cycle = c ∧ t.fusion.first = false ∧
      t.fusion.lastAt = some T ∧ t.fusion.store = s.fusion.store ∧ t.fusion.running = true ∧
      (∀ i, i < 16 → inputUsed s i = true → tblGet 1 t.fusion.status i = BitVec.ofNat 8 (inputStatus s T i)) ∧
      counter t 0x7418 1 = counter s 0x7418 1 + 1 ∧
      peekNat t base 4 = c.toNat ∧ peekNat t (base + 4) 1 = ((List.range 8).filter (fun g => groupLevel s g != 0xff)).length ∧
      (peekNat t (base + 5) 1).testBit 1 = s.fusion.first ∧
      (cfg s 0x5000 4 = 0 → eventWaiters s none (cfg s 0x5000 5) = [] → ⟨cfg s 0x5000 5, none⟩ ∈ t.raised)

/-- The solver starts and stops (R340), takes its SELECT (R327), its records in order of STAMP (R331) and the load of a schedule
slot (R329); a load ends LOADED or REJECTED (R329); the next cycle instant begins a solve, with the STATUS of the first input
check that fails (R333), and its output appears at T + T_SOLVE (R337, R339). Model's choices in it: logs 11, 33, 54, 68, 69. -/
def Obligations.SparseSolver : Prop :=
  (∀ (s : State) (k : Fin 64), HostMay k.val 8 s →
    (s.solver.running = false → slotMeets s (solverSel s) (cfg s 0x5800 1) = true →
      Completes (.solverStart k) k.val [] { s with
        solver := { s.solver with
          running := true, record := none, iterate := none, prevValid := false, first := true, solving := none, ref := none,
          lastAt := some (now s) } } s) ∧
    (s.solver.running = true → Completes (.solverStop k) k.val []
      { s with solver := { s.solver with running := false, solving := none, iterate := none, prevValid := false } } s) ∧
    (∀ v : BitVec 8, v.toNat ≤ 1 → (s.solver.running = true → slotMeets s v.toNat (cfg s 0x5800 1) = true) →
      Completes (.solverSelect k v) k.val [] (setCfg 0x5800 0x0b [v] s) s) ∧
    (∀ r : Bytes, cfg s 0x5800 3 ≠ 0 → solverRecLen s r.length = true → r.length ≤ 1048576 → reservedOk 0x5800 0x0c r = true →
      let late := ∃ old, s.solver.record = some old ∧
        (BitVec.ofNat 32 (fieldAt r 0 4) - BitVec.ofNat 32 (fieldAt old 0 4)).toInt < 0
      (solverActs s = false → Completes (.solverRecordWrite k r) k.val [] s s) ∧
      (solverActs s = true → ¬late → Completes (.solverRecordWrite k r) k.val [] { s with solver := { s.solver with record := some r } } s) ∧
      (solverActs s = true → late → Completes (.solverRecordWrite k r) k.val [] (count 0x7419 7 1 s) s)) ∧
    (∀ (x : Fin 2) (i : Nat), ¬(s.solver.running = true ∧ solverSel s = x.val) → tensorNamed s (cfg s (0x5810 + x.val) 1) = some i →
      (tensorOf s i).state = .valid → (tensorOf s i).kind = false → (tensorOf s i).size ≤ 1048576 →
      Completes (.scheduleLoad k x) k.val []
        (schedMod x.val (fun _ => { state := .loading, image := (currentBytes i s).getD [] }) s) s)) ∧
  (∀ (s : State) (x : Fin 2), (schedSlot s x.val).state = .loading →
    (scheduleOk (schedSlot s x.val).image = true →
      exec (.scheduleLoadDone x) s = .next (schedMod x.val (fun y => { y with state := .loaded }) s)) ∧
    (scheduleOk (schedSlot s x.val).image = false →
      exec (.scheduleLoadDone x) s = .next (count 0x7419 8 1 (schedMod x.val (fun _ => { state := .rejected }) s)))) ∧
  (∀ s : State, solverActs s = true → s.solver.solving = none →
    let T := nextInstant (1000 * cfg s 0x5800 1) (1000 * cfg s 0x5800 2) (now s) s.solver.lastAt
    let st := solverChecks s T (reference s T)
    ∃ t o it, exec .solverCycle s = .next t ∧
      t = { s with clock := (clockTo T s).clock, counters := t.counters, solver := t.solver } ∧
      t.solver = { s.solver with
        cycle := s.solver.cycle + 1, first := false, lastAt := some T, solving := some (o, it), outputAt := T + solveNs (selImage s) } ∧
      o.cycle = s.solver.cycle + 1 ∧ o.fingerprint = schFinger (selImage s) ∧ o.x.length = schNP (selImage s) ∧
      (st ≠ 0 → o.status = BitVec.ofNat 8 st ∧ o.x = List.replicate (schNP (selImage s)) 0 ∧ it = none) ∧
      (st = 0 → (o.status = 0 ∧ it.isSome = true) ∨ (o.status = 8 ∧ it = none ∧ o.x = List.replicate (schNP (selImage s)) 0))) ∧
  ∀ (s : State) (o : SolverOut) (it : Option Iterate), solverActs s = true → s.solver.solving = some (o, it) →
    let b := o.cycle.toNat % 2
    let out := { s.solver with
      solving := none, buffers := tblPut (s.solver.buffers.filter (fun e => e.1 ≠ b)) b o, visible := some b, outCycle := o.cycle,
      visibleAt := s.solver.outputAt, iterate := it, prevValid := decide (o.status = 0),
      invalid := if o.status = 0 then 0 else s.solver.invalid + 1, warned := decide (o.status ≠ 0) && s.solver.warned }
    (o.status = 0 → ∃ t, exec .solverOutput s = .next t ∧ t.solver = out ∧ t.clock = (clockTo s.solver.outputAt s).clock ∧
      counter t 0x7419 1 = counter s 0x7419 1 + 1 ∧
      (cfg s 0x5800 8 = 0 → t.mem = s.mem) ∧
      (cfg s 0x5800 8 ≠ 0 → peek t (ownPhysical s (cfg s 0x5800 8)) (solverOutBytes o).length = solverOutBytes o)) ∧
    (o.status ≠ 0 → ∃ t, exec .solverOutput s = .next t ∧ t.clock = (clockTo s.solver.outputAt s).clock ∧
      (s.solver.warned = true ∨ s.solver.invalid + 1 < cfg s 0x5800 9 → t.solver = out) ∧
      (s.solver.warned = false → cfg s 0x5800 9 ≤ s.solver.invalid + 1 → t.solver = { out with warned := true } ∧
        counter t 0x7419 0x0a = counter s 0x7419 0x0a + 1) ∧
      counter t 0x7419 (if o.status = 8 then 5 else 6) = counter s 0x7419 (if o.status = 8 then 5 else 6) + 1)

/-- The Pump engine starts where its load is met (R361) and stops (R363); it takes command records in order of STAMP (R351); an
axis is enabled or disabled at its group's next sample (R359); its tables are read from a tensor of 8,256 bytes and checked
(R357); its law is written while it is disabled (R352). Model's choices in it: logs 34, 45, 54, 68. -/
def Obligations.PumpControls : Prop :=
  (∀ (s : State) (k : Fin 64), HostMay k.val 8 s →
    (s.pump.running = false → loadOk s = true → launchTaken s = false →
      Completes (.pumpStart k) k.val [] { s with
        pump := { s.pump with
          running := true, feedback := [], cmd := none, samples := [], frames := [], safe := false,
          lastAt := (List.range 8).map (fun g => (g, now s)) } } s) ∧
    (s.pump.running = true → Completes (.pumpStop k) k.val []
      { s with pump := { s.pump with running := false, frames := [], safe := false } } s) ∧
    (∀ r : Bytes, r.length = 1088 → reservedOk 0x5400 7 r = true →
      let late := ∃ old, s.pump.cmd = some old ∧ (BitVec.ofNat 32 (fieldAt r 0 4) - BitVec.ofNat 32 (fieldAt old 0 4)).toInt < 0
      (cfg s 0x5400 1 = 1 → pumpTakes s = true → ¬late → Completes (.pumpCmdRecordWrite k r) k.val [] { s with pump := { s.pump with cmd := some r } } s) ∧
      (cfg s 0x5400 1 ≠ 1 ∨ pumpTakes s = false ∨ late → Completes (.pumpCmdRecordWrite k r) k.val [] s s)) ∧
    ∀ n : Fin 64,
      (s.resetting.getLsbD 10 = true → Completes (.axisEnable k n) k.val [] s s) ∧
      (s.resetting.getLsbD 10 = false → mayEnable s n.val = true → Completes (.axisEnable k n) k.val []
        (axisMod n.val (fun a => { a with pending := if axisEnabled a then none else some true }) s) s) ∧
      Completes (.axisDisable k n) k.val []
        (axisMod n.val (fun a => { a with pending := if axisEnabled a then some false else none }) s) s ∧
      (axisEnabled (axisOf s n.val) = false →
        (∀ i, tensorNamed s (axisCfg s n.val 0x0b) = some i → (tensorOf s i).state = .valid → (tensorOf s i).kind = false →
          (tensorOf s i).size = 8256 → Completes (.tablesLoad k n) k.val []
            (axisMod n.val (fun a => { a with tstate := .loading, tables := (currentBytes i s).getD [] }) s) s) ∧
        (tensorNamed s (axisCfg s n.val 0x0b) = none → Completes (.tablesLoad k n) k.val []
          (axisMod n.val (fun a => { a with tstate := .loading, tables := [] }) s) s) ∧
        ∀ law : Bytes, law.length = 256 → lawOk law = true → reservedOk 0x5500 5 law = true →
          ((axisOf s n.val).pending = some true → compOk (setCfg (0x5500 + n.val) 5 law s) n.val = true) →
          (s.pump.running = true → loadOk (setCfg (0x5500 + n.val) 5 law s) = true) →
          Completes (.axisLawWrite k n law) k.val [] (setCfg (0x5500 + n.val) 5 law s) s)) ∧
  ∀ (s : State) (n : Fin 64), (axisOf s n.val).tstate = .loading →
    (tablesOk (axisOf s n.val).tables = true →
      exec (.tablesLoadDone n) s = .next (axisMod n.val (fun a => { a with tstate := .loaded }) s)) ∧
    (tablesOk (axisOf s n.val).tables = false →
      exec (.tablesLoadDone n) s = .next (count 0x741a 9 1 (axisMod n.val (fun a => { a with tstate := .rejected, tables := [] }) s)))

/-- A feedback frame on port C or D is kept for its drive unless it is malformed or its STAMP earlier than the held one's (R347,
R349, R350). The next sample instant of a group gives one slot for each of its axes, in ascending order, for a frame stamped
LATENCY later (R343, R348, R360); a disabled axis holds no set-point (R362); a pending enable puts the axis into RAMPING unless
its sample is invalid (R359, R362). What an axis was last sent stays until a frame is launched (R346). 1.0 us before its stamp
the frame enters the launch queue of its port (R360), made safe in safe state (R363). Model's choices in it: logs 11, 34, 49. -/
def Obligations.PumpSamples : Prop :=
  (∀ (s : State) (x : Fin 4) (b : Bytes), t1Up s x.val = true → spoilt (0x30 + x.val) s = false →
    pumpTakes s = false ∨ fieldAt b 0 1 ≠ 2 →
    exec (.feedbackFrame x b) s = .next s) ∧
  (∀ (s : State) (x : Fin 4) (b : Bytes), 2 ≤ x.val → t1Up s x.val = true → spoilt (0x30 + x.val) s = false → pumpTakes s = true →
    fieldAt b 0 1 = 2 →
    let d := fieldAt b 2 2
    let late := ∃ old, s.pump.feedback.find? (fun e => e.1 = d) = some (d, old) ∧
      (BitVec.ofNat 32 (fieldAt b 4 4) - BitVec.ofNat 32 (fieldAt old 4 4)).toInt < 0
    (feedbackOk b = false ∨ late → exec (.feedbackFrame x b) s = .next (count 0x741a 6 1 s)) ∧
    (feedbackOk b = true → ¬late → ∃ t, exec (.feedbackFrame x b) s = .next t ∧
      t = { s with counters := t.counters, pump := { s.pump with feedback := t.pump.feedback } } ∧
      t.pump.feedback.find? (fun e => e.1 = d) = some (d, b) ∧
      (∀ j, j ≠ d → t.pump.feedback.find? (fun e => e.1 = j) = s.pump.feedback.find? (fun e => e.1 = j)) ∧
      counter t 0x741a 5 = counter s 0x741a 5 + 1)) ∧
  (∀ (s : State) (g : Fin 8), s.pump.running = true → works s 11 = true → groupUsed s g.val = true →
    ((cfg s 0x4000 9).testBit 6 = false ∨
      ∀ n ∈ groupAxes s g.val, axisEnabled (axisOf s n) = false ∧ (axisOf s n).pending ≠ some true) →
    let T := nextInstant (groupPeriod s g.val) (groupOffset s g.val) (now s)
      ((s.pump.lastAt.find? (fun e => e.1 = g.val)).map (fun e => e.2))
    let quiet := s.solver.solving = none ∨ T < s.solver.outputAt ∨ solverActs s = false
    ∃ t, exec (.pumpSample g) s = .next t ∧ t.clock = (clockTo T s).clock ∧
      tblGet 0 t.pump.samples g.val = tblGet 0 s.pump.samples g.val + 1 ∧ (quiet → t.mem = s.mem ∧ t.sluice = s.sluice) ∧
      (groupAxes s g.val = [] → t.pump.frames = s.pump.frames) ∧
      (groupAxes s g.val ≠ [] → ∃ f, t.pump.frames = s.pump.frames.filter (fun e => e.1 ≠ g.val) ++ [(g.val, f)] ∧
        f.group = g.val ∧ f.stamp = T + groupLatency s g.val ∧ f.flags = frameFlags f.slots ∧
        f.slots.map (fun x => x.axis) = groupAxes s g.val ∧
        ∀ x ∈ f.slots, x.flags.getLsbD 0 = false → x.setpoint = 0) ∧
      (quiet → ∀ n, n ∉ groupAxes s g.val → axisOf t n = axisOf s n) ∧
      (quiet → ∀ n ∈ groupAxes s g.val, let a := axisOf s n
        (a.state = .disabled → a.pending = none → axisOf t n = { a with status := 1, back := none }) ∧
        (a.pending = some true → (axisOf t n).pending = none) ∧
        (a.pending = some true → compOk s n = true → ((axisOf t n).state = .ramping ∨ (axisOf t n).state = .fault)) ∧
        (a.pending = some false → axisOf t n = { a with state := .disabled, pending := none, status := 1, back := none }))) ∧
  ∀ (s : State) (g : Fin 8) (f : SetFrame), s.pump.frames.find? (fun e => e.1 = g.val) = some (g.val, f) → f.group = g.val →
    let p := groupPort s g.val
    let f' := { f with flags := frameFlags f.slots }
    let l : Launch := { stamp := f.stamp, body := .setpoint (if driveSafe s then safeFrame f' else f') }
    t1Up s p = true → (t1Of s p).launch.length < 16 → f.stamp ≤ now (clockTo (f.stamp - 1000) s) + 100000000 →
    ∃ t, exec (.pumpFrameHandoff g 0) s = .next t ∧
      t = { s with clock := (clockTo (f.stamp - 1000) s).clock, pump := { s.pump with frames := t.pump.frames }, t1 := t.t1 } ∧
      t.pump.frames = s.pump.frames.filter (fun e => e.1 ≠ g.val) ∧
      (t1Of t p).launch = (t1Of s p).launch.takeWhile (fun o => launchAhead o l) ++ [l] ++
        (t1Of s p).launch.dropWhile (fun o => launchAhead o l) ∧ ∀ y, y ≠ p → t1Of t y = t1Of s y

/-! ## Time, ports and Siphon (R365-R394) -/

/-- ADJUST slews a correction of at most 10 us and steps a larger one, which empties the launch queues and has every accepted
job re-planned (R367); a slew ends at RATE. 802.1AS starts and stops in FREE_RUN (R371, R372). A Sync on the slave port moves
the clock toward LOCKED (R372) with RATE in its range (R366), three intervals without one to HOLDOVER; the module may become
grandmaster (R372); a master port sends Sync, a grandmaster its Announce with it, a port measures its peer delay (R370). That
the Announce goes with the Sync, which port may become the slave port, and the servo's RATE are the model's choices (log 12).
Model's choices in it: logs 10, 11, 12. -/
def Obligations.TimeBase : Prop :=
  (∀ (s : State) (k : Fin 64), HostMay k.val 9 s →
    (∀ d : BitVec 64, servoOwns s = false →
      (d.toInt.natAbs ≤ 10000 → Completes (.clockAdjust k d) k.val []
        (count 0x741b 7 1 { s with clock := { s.clock with slewLeft := d.toInt * 2 ^ 38 } }) s) ∧
      (10000 < d.toInt.natAbs → ∃ t, exec (.clockAdjust k d) s = .next t ∧
        (now t : Int) = ((now s : Int) + d.toInt) % ((2 ^ 48 * nsPerS : Nat) : Int) ∧ t.clock.slewLeft = 0 ∧
        (∀ x, x < 4 → (t1Of t x).launch = []) ∧ (∀ j ∈ t.sluice.jobs, hasCommitted j = false → j.replan = true) ∧
        (sess t k.val).busy = false ∧ (sess t k.val).reply = {} ∧ t.events.getLsbD 6 = true ∧
        counter t 0x741b 6 = counter s 0x741b 6 + 1 ∧ t.mem = s.mem ∧ t.dict = s.dict)) ∧
    Completes (.asStart k) k.val [] { s with as_ := { s.as_ with running := true } } s ∧
    (s.as_.running = true → Completes (.asStop k) k.val []
      (setTime .freeRun { s with as_ := { s.as_ with running := false, good := 0, rates := [], slave := none, heard := [] } }) s)) ∧
  (∀ s : State,
    let n := (s.clock.slewLeft.natAbs + slewRate.toNat - 1) / slewRate.toNat
    exec .clockSlewEnd s = .next { s with clock := { (aoTicks n s).clock with slewLeft := 0 } } ∧
    (s.as_.running = true →
      (following s = true → ∃ t, exec .syncTimeout s = .next t ∧ t.clock.state = .holdover ∧ now t = now s ∧
        t.events.getLsbD 3 = true ∧ counter t 0x741b 5 = counter s 0x741b 5 + 1) ∧
      (following s = false → exec .syncTimeout s = .next s) ∧
      (∀ (x : Fin 4) (gm : BitVec 64),
        (s.boot.state = .ready → maySelect s true gm x.val = true → ∃ t, exec (.gmSelected true ⟨x, gm⟩) s = .next t ∧ t.clock.state = .grandmaster ∧
          t.as_.gm = gm ∧ t.as_.slave = none ∧ now t = now s) ∧
        (s.boot.state = .ready → maySelect s false gm x.val = true → ∃ t, exec (.gmSelected false ⟨x, gm⟩) s = .next t ∧ t.as_.gm = gm ∧
          t.as_.slave = some x.val ∧ (following s = false → t.dict = s.dict) ∧
          (s.clock.state = .grandmaster ∨ (following s = true ∧ gm ≠ s.as_.gm) → t.clock.state = .holdover) ∧
          (s.clock.state ≠ .grandmaster → following s = false ∨ gm = s.as_.gm → t.clock = s.clock)) ∧
        ((cfg s 0x3410 1 ≠ 2 → ∀ y v, bestHeard s = some (y, v) →
          (maySelect s true gm x.val = true ↔ lexLt (ownVector s) v = true) ∧
          (maySelect s false gm x.val = true ↔ lexLt (ownVector s) v = false ∧ x.val = y ∧ nth 0 v 5 = gm.toNat))) ∧
        ∀ self, maySelect s self gm x.val = false → exec (.gmSelected self ⟨x, gm⟩) s = .next s) ∧
      ∀ (x : Fin 4) (gm off : BitVec 64),
        (s.clock.state = .grandmaster ∨ maySlave s x.val = false → exec (.syncReceived ⟨x, gm⟩ off) s = .next s) ∧
        (s.clock.state ≠ .grandmaster → maySlave s x.val = true → ∃ t, exec (.syncReceived ⟨x, gm⟩ off) s = .next t ∧
          t.as_.gm = gm ∧ t.as_.offset = off ∧ t.as_.slave = some x.val ∧
          (s.clock.state = .locking → gm = s.as_.gm → off.toInt.natAbs ≤ 100 →
            (15 ≤ s.as_.good → t.clock.state = .locked) ∧ (s.as_.good < 15 → t.clock.state = .locking ∧ t.as_.good = s.as_.good + 1)) ∧
          (s.clock.state = .locking → gm = s.as_.gm → 100 < off.toInt.natAbs → t.as_.good = 0 ∧ t.clock.state = .locking) ∧
          (s.clock.state = .locked → gm = s.as_.gm → t.clock.state = .locked) ∧
          (following s = false → off.toInt.natAbs ≤ 10000 ∨ cfg s 0x3410 7 = 1 → t.clock.state = .locking ∧ t.as_.good = 0) ∧
          (following s = false → 10000 < off.toInt.natAbs → cfg s 0x3410 7 ≠ 1 → t.clock = s.clock) ∧
          (following t = true → (rate t).natAbs ≤ maxRate)))) ∧
  ∀ (s : State) (x : Fin 4),
    (∀ b : Bytes, asPort s x.val = true → nth 0 b 4 = 0 → (nth 0 b 0).toNat % 16 = 2 → cfg s 0x3410 1 ≠ 2 ∨ asRole s x.val ≠ 0 →
      takeTime x b s = sendT1 x.val ⟨3, .ptp x .pdelayAnswer, wireLen [] 54⟩ s) ∧
    (isMasterPort s x.val = true → exec (.syncTransmit x) s =
      let t := sendT1 x.val ⟨3, .ptp x (.sync (now s)), wireLen [] 76⟩ s
      .next (if s.clock.state = .grandmaster then
        sendT1 x.val ⟨3, .ptp x (.announce (cfg s 0x3410 3) 248 0xfe (cfg s 0x3410 4)), wireLen [] 76⟩ t else t)) ∧
    (asPort s x.val = true → asRole s x.val ≠ 0 ∨ cfg s 0x3410 1 ≠ 2 → ∀ d : Nat, exec (.pdelayExchange x d) s =
      .next (sendT1 x.val ⟨3, .ptp x .pdelay, wireLen [] 54⟩ { s with as_ := { s.as_ with pdelay := tblPut s.as_.pdelay x.val d } }))

/-- PPS_OUT rises for WIDTH at NANOSECONDS = 0, an edge of PPS_IN is captured within 12 ns (R374); the pin has one owner (R376).
An event timer starts, fires at START + i x PERIOD and stops (R375). A T1 port starts, trains, comes up and goes down, dropping
its launch queue (R378, R380); TIMED and TIMED_FRAME are the host's (R381); the head of a launch queue is sent or dropped by its
lateness (R380); a frame of classes 3 to 5 leaves unless it cannot end before the next launch, else it waits behind those of its
class and of higher ones (R379); a frame received goes where its type says, and an answer to the link-layer source (R377). That
the time on the wire is no state is the model's choice (log 14), as is the layout of the answers (log 65). Model's choices in
it: logs 14, 46, 64, 65, 82. -/
def Obligations.PinsTimersAndT1 : Prop :=
  (∀ s : State,
    (s.pps.owner = some .enable → exec .ppsOutPulse s = .next
      { clockTo (nextSecond s) s with pps := { s.pps with fallsAt := now (clockTo (nextSecond s) s) + 1000 * cfg s 0x3420 2 } }) ∧
    (s.pps.owner ≠ some .enable → exec .ppsOutPulse s = .next s) ∧
    (∀ n : Nat, cfg s 0x3420 3 = 1 → s.boot.state ≠ .off → s.boot.state ≠ .held → n + 12 < 2 ^ 64 → ∃ t, exec (.ppsInEdge n) s = .next t ∧ t.clock = (clockTo n s).clock ∧
      t.pps.inCount = s.pps.inCount + 1 ∧ n ≤ t.pps.inCapture.toNat + 12 ∧ t.pps.inCapture.toNat ≤ n + 12 ∧
      counter t 0x741b 8 = counter s 0x741b 8 + 1)) ∧
  (∀ (s : State) (k : Fin 64), HostMay k.val 9 s →
    Completes (.ppsEnableWrite k 0) k.val [] { setCfg 0x3420 1 [0] s with
      pps := { s.pps with owner := if s.pps.owner = some .enable then none else s.pps.owner } } s ∧
    ((∀ i, s.pps.owner ≠ some (.timer i)) →
      Completes (.ppsEnableWrite k 1) k.val [] { setCfg 0x3420 1 [1] s with pps := { s.pps with owner := some .enable } } s) ∧
    ∀ i : Fin 8,
      ((timerOf s i.val).running = false → timerCfg s i.val 3 ≠ 2 →
        Completes (.timerStart k i) k.val [] (timerSet i.val ⟨true, firstFiring s i.val⟩ s) s) ∧
      ((timerOf s i.val).running = false → timerCfg s i.val 3 = 2 → s.pps.owner = none → Completes (.timerStart k i) k.val []
        (timerSet i.val ⟨true, firstFiring s i.val⟩ { s with pps := { s.pps with owner := some (.timer i.val) } }) s) ∧
      Completes (.timerStop k i) k.val [] (timerSet i.val {} { s with
        pps := { s.pps with owner := if s.pps.owner = some (.timer i.val) then none else s.pps.owner } }) s) ∧
  (∀ (s : State) (i : Fin 8), (timerOf s i.val).running = true → s.boot.state = .ready →
    let n := (timerOf s i.val).next
    ∃ t, exec (.timerFire i) s = .next t ∧ timerOf t i.val = ⟨true, n + 1⟩ ∧ t.clock = (clockTo (firing s i.val n) s).clock ∧
      (timerCfg s i.val 3 = 0 → eventWaiters s none (timerCfg s i.val 4) = [] → ⟨timerCfg s i.val 4, none⟩ ∈ t.raised) ∧
      (timerCfg s i.val 3 = 2 → t.pps.fallsAt = now t + 1000 * cfg s 0x3420 2)) ∧
  (∀ (s : State) (k : Fin 64) (x : Fin 4), HostMay k.val 1 s →
    let p := t1Of s x.val
    (p.running = false → p.retired = false → Completes (.t1PortStart k x) k.val []
      (t1mod x.val (fun p => { p with running := true, link := 1 }) s) s) ∧
    (p.running = true → (sess s k.val).port ≠ x → ∃ t, exec (.t1PortStop k x) s = .next t ∧
      t1Of t x.val = { p with running := false, link := 0, launch := [], waiting := [] } ∧
      (∀ j : Fin 64, (sess s j.val).open_ = true → (sess s j.val).port = x → sess t j.val = { gen := (sess s j.val).gen + 1 }) ∧
      counter t 0x741b 4 = counter s 0x741b 4 + BitVec.ofNat 64 p.launch.length) ∧
    (∀ v : BitVec 8, p.running = false → v = 0 ∨ (v = 1 ∧ groupsOn s x.val = []) →
      Completes (.timedWrite k x v) k.val [] (setCfg (0x3430 + x.val) 7 [v] s) s) ∧
    ∀ b : Bytes, fieldAt b 4 4 = 0 → 68 ≤ b.length → b.length ≤ 1526 → cfg s (0x3430 + x.val) 7 ≠ 0 →
      let l : Launch := { stamp := extendStamp (now s) (BitVec.ofNat 32 (fieldAt b 0 4)), body := .host (b.drop 8) }
      (t1Up s x.val = true → p.launch.length < 16 → l.stamp ≤ now s + 100000000 → Completes (.timedFrame k x b) k.val []
        (t1mod x.val (fun p => { p with
          launch := p.launch.takeWhile (fun o => launchAhead o l) ++ [l] ++ p.launch.dropWhile (fun o => launchAhead o l) }) s) s) ∧
      (t1Up s x.val = false ∨ 16 ≤ p.launch.length ∨ now s + 100000000 < l.stamp →
        Completes (.timedFrame k x b) k.val [] (count 0x741b 4 1 s) s)) ∧
  (∀ (s : State) (x : Nat) (f : TxFrame),
    let p := t1Of s x
    let May := fun (g : TxFrame) => mayStart (now s) p.launch g.len = true
    (p.waiting = [] → May f → sendT1 x f s = emit f.frame s) ∧
    (p.waiting ≠ [] ∨ ¬May f → ∃ gone rest, txInsert f p.waiting = gone ++ rest ∧ (∀ g ∈ gone, May g) ∧
      (∀ g, rest.head? = some g → ¬May g) ∧ (sendT1 x f s).out = s.out ++ gone.map (fun g => g.frame) ∧
      t1Of (sendT1 x f s) x = { p with waiting := rest })) ∧
  ∀ (s : State) (x : Fin 4),
    let p := t1Of s x.val
    (p.running = true → p.retired = false → p.link = 1 → works s 19 = true → ∃ t, exec (.t1LinkUp x) s = .next t ∧
      t1Up t x.val = true ∧ t.clock = s.clock) ∧
    (t1Up s x.val = true → ∃ t, exec (.t1LinkDown x) s = .next t ∧ t1Of t x.val = { p with link := 1, launch := [], waiting := [] } ∧
      counter t 0x741b 4 = counter s 0x741b 4 + BitVec.ofNat 64 p.launch.length) ∧
    (∀ (l : Launch) (rest : List Launch) (late : Nat), p.launch = l :: rest →
      let v := lateness s l late
      let f := OutFrame.t1 x (launchFrame s x.val l)
      ∃ t more, exec (.launchEligible x late) s = .next t ∧ t1Of t x.val = { p with launch := rest, waiting := (t1Of t x.val).waiting } ∧
        (p.waiting = [] → more = [] ∧ (t1Of t x.val).waiting = []) ∧
        t.clock = (clockTo (l.stamp + v / 10) s).clock ∧ (∀ y, y ≠ x.val → t1Of t y = t1Of s y) ∧
        (v ≤ 104 → t.out = s.out ++ [f] ++ more ∧ counter t 0x741b 1 = counter s 0x741b 1 + 1) ∧
        (104 < v → v ≤ 10 * cfg s (0x3430 + x.val) 6 → t.out = s.out ++ [f] ++ more ∧ counter t 0x741b 2 = counter s 0x741b 2 + 1) ∧
        (104 < v → 10 * cfg s (0x3430 + x.val) 6 < v → t.out = s.out ++ more ∧ counter t 0x741b 3 = counter s 0x741b 3 + 1)) ∧
    (∀ (n : Nat) (b : Bytes),
      (t1Up s x.val = false → exec (.t1FrameReceived x n b) s = .next s) ∧
      (t1Up s x.val = true → spoilt (0x30 + x.val) s = true →
        exec (.t1FrameReceived x n b) s = .next (unspoil (0x30 + x.val) (clockTo n s))) ∧
      (t1Up s x.val = true → spoilt (0x30 + x.val) s = false →
        (frameUse s x.val b = .discard → exec (.t1FrameReceived x n b) s = .next (count 0x741b 0x0e 1 (clockTo n s))) ∧
        (frameUse s x.val b = .reply →
          let r := answerFrame (beBytes 6 (portMac s x.val).toNat) (vlanTag s x.val 0) b
          r.take 6 = bytesAt b 6 6 ∧
          exec (.t1FrameReceived x n b) s = .next (sendT1 x.val ⟨5, .t1 x r, r.length + 4⟩ (clockTo n s))) ∧
        (∀ d, frameUse s x.val b = .time d → exec (.t1FrameReceived x n b) s = .next (takeTime x d (clockTo n s))) ∧
        (∀ d, frameUse s x.val b = .drive d → 2 ≤ x.val ∧ exec (.t1FrameReceived x n b) s =
          exec (.feedbackFrame x d) (clockTo n s)) ∧
        (∀ src d, frameUse s x.val b = .ixide src d → exec (.t1FrameReceived x n b) s = .next (ixideFrame x (some src) d (clockTo n s)))))

/-- A fabric port starts, trains on its lanes, falls back to the half without a retired lane, and goes down with its peers and
requests (R383, R384, R385, R246); discovery brings a peer up or marks a mismatch (R384); PFC pauses the port, and the port
sends XOFF at 1.5 MiB of its receive buffer and XON at 1 MiB (R382; what has left the buffer is free, log 13). A copy descriptor
moves its bytes and its target is noted (R389, R391, R392), unless its traffic is held to the next slot (R57) or the oldest of
16 targets is fenced first (R391); the read-back of a fence descriptor completes it (R393). Model's choices in it: logs 13, 19,
25, 46, 54, 55, 56, 65, 83. -/
def Obligations.FabricAndSiphon : Prop :=
  (∀ (s : State) (k : Fin 64) (p : Fin 3), HostMay k.val 1 s →
    let f := fabOf s p.val
    (f.running = false → Completes (.fabricPortStart k p) k.val []
      (fabmod p.val (fun f => { f with running := true, state := if f.state = 5 then 5 else 1 }) s) s) ∧
    (f.running = true → f.state = 5 → Completes (.fabricPortStop k p) k.val [] (fabmod p.val (fun f => { f with running := false }) s) s) ∧
    (f.running = true → f.state ≠ 5 → copiesThrough s p.val = [] → ∃ u, Completes (.fabricPortStop k p) k.val [] u s ∧
      fabOf u p.val = { f with running := false, state := 0, peersUp := [], reqs := f.reqs.filter outlivesPort, paused := 0,
                               held := [], rx := 0, xoff := false } ∧
      (∀ y, y ≠ p.val → fabOf u y = fabOf s y) ∧ u.mem = s.mem)) ∧
  (∀ (s : State) (p : Fin 3),
    let f := fabOf s p.val
    (f.running = true → f.state = 1 → domainOn s (16 + p.val) = true →
      (f.lanes = 0 → ∃ t, exec (.fabricLinkUp p 0xff) s = .next t ∧ (fabOf t p.val).state = 2 ∧ (fabOf t p.val).four = false ∧
        (f.paused ≤ now s → f.held = [] →
          t.out = s.out ++ List.replicate (portReaches s p.val).length (.fabric p (discoverySend s p.val)))) ∧
      (∀ m, f.lanes ≠ 0 → goodHalf f.lanes = some m → ∃ t, exec (.fabricLinkUp p m) s = .next t ∧ (fabOf t p.val).state = 3 ∧
        (fabOf t p.val).four = true ∧ counter t 0x741b 0x0d = counter s 0x741b 0x0d + 1) ∧
      (∀ m, f.lanes ≠ 0 → goodHalf f.lanes ≠ some m → copiesThrough s p.val = [] → ∃ t, exec (.fabricLinkUp p m) s = .next t ∧
        (fabOf t p.val).state = 5 ∧ (fabOf t p.val).peersUp = [])) ∧
    (f.running = true → 2 ≤ f.state → f.state ≤ 4 → copiesThrough s p.val = [] → ∃ t, exec (.fabricLinkDown p) s = .next t ∧
      fabOf t p.val = { f with state := 1, peersUp := [], reqs := f.reqs.filter outlivesPort, paused := 0, held := [],
                               rx := 0, xoff := false } ∧ ∀ y, y ≠ p.val → fabOf t y = fabOf s y) ∧
    (∀ (e : Fin 3) (b : Bytes) (m : Nat), fabricUp s p.val = true → (portReaches s p.val)[e.val]? = some m →
      ∃ t, exec (.discoveryReceived p e b) s = .next t ∧
        (Config.discoveryPosition b = m → t = { s with fabric := t.fabric, out := t.out } ∧ m ∈ (fabOf t p.val).peersUp) ∧
        (Config.discoveryPosition b ≠ m → (fabOf t p.val).state = 4 ∧ counter t 0x741b 0x0c = counter s 0x741b 0x0c + 1)) ∧
    ∀ b : Bytes, fabricUp s p.val = true → spoilt (0x40 + p.val) s = false → b.length ≤ 9216 →
      ∃ t, exec (.fabricFrameReceived p b) s = .next t ∧
        t = { s with fabric := t.fabric, out := t.out, freeCtr := s.freeCtr + 1 } ∧
        let g := fabOf t p.val
        let pfc : List OutFrame := if g.xoff = f.xoff then [] else [.fabric p (pfcFrame s p.val (if g.xoff then 0xffff else 0))]
        let r := answerFrame (beBytes 6 (portMac s (4 + p.val)).toNat) [] b
        g.rx ≤ 0x200000 ∧ (g.rx ≤ 0x100000 → g.xoff = false) ∧ (0x180000 ≤ g.rx → g.xoff = true) ∧
        (∀ n, pfcTime b (cfg s (0x3450 + p.val) 5) = some n →
          g = { f with rx := g.rx, xoff := g.xoff, paused := now s + ceilDiv (512 * n) (if f.four then 400 else 800),
                       held := if n = 0 then [] else f.held } ∧
          t.out = s.out ++ pfc ++ (if n = 0 then f.held else [])) ∧
        (pfcTime b (cfg s (0x3450 + p.val) 5) = none → g = { f with rx := g.rx, xoff := g.xoff } ∧
          t.out = s.out ++ pfc ++ (if fabricAsks s p.val b then [.fabric p r] else []) ∧
          (14 ≤ b.length → r.take 6 = bytesAt b 6 6))) ∧
  ∀ (s : State) (ch : Fin 544) (p : Posted) (rest : List Posted), works s 20 = true → (chanOf s ch.val).posted = p :: rest →
    fenceWaiters s ch.val = [] →
    let d := parseSiphon p.desc
    (∀ n, oldestFirst s ch.val p = some n → exec (.siphonDescriptorDone ch) s = .next (beginFence ch.val n s)) ∧
    (isFence p = false → oldestFirst s ch.val p = none → (meterHead ch.val p s).1 = false →
      ∃ t, exec (.siphonDescriptorDone ch) s = .next t ∧ t.mem = s.mem ∧ t.tiles = s.tiles ∧
        ((chanOf t ch.val).posted.map (fun q => q.desc)) = (p :: rest).map (fun q => q.desc)) ∧
    (∀ a c off, oldestFirst s ch.val p = none → (meterHead ch.val p s).1 = true → p.dead = none → isFence p = false → d.kind = 0 → d.srcFixed = false → d.dstFixed = false → d.eventOn = false →
      placeOf s d.src d.count = .tile a → placeOf s d.dst d.count = .cluster c off → inReplica s c off d.count = false →
      ∃ t, exec (.siphonDescriptorDone ch) s = .next t ∧ peek t (clusterBase c + off) d.count = peek s a d.count ∧
        (∀ x, ¬(clusterBase c + off ≤ x ∧ x < clusterBase c + off + d.count) → memByte t.mem x = memByte s.mem x) ∧
        (chanOf t ch.val).posted = rest ∧ (1024 + c ∈ (chanOf t ch.val).targets ∨ 1024 + c ∈ (chanOf t ch.val).fencing) ∧ counter t 0x741b 9 = counter s 0x741b 9 + 1 ∧
        t.tiles = s.tiles) ∧
    (∀ a : BitVec 48, isFence p = true → d.eventOn = false →
      let n := targetOf (placeOf s a.toNat 1)
      n = targetOf (placeOf s d.dst 1) → n ∈ (chanOf s ch.val).fencing →
      ∃ t, exec (.siphonFenceReturn ch a) s = .next t ∧ (chanOf t ch.val).posted = rest ∧ n ∉ (chanOf t ch.val).targets ∧
        (p.dead = none → (∀ e ∈ s.sluice.dying, (ch.val, n) ∉ e.waits) →
          counter t 0x741b 0x0a = counter s 0x741b 0x0a + 1 ∧ t.mem = s.mem))

/-! ## Power, safety, boot (R397-R461, R495-R500) -/

/-- DOMAINS_ENABLE and the caps are written where the energy ledger holds (R398, R400); a domain that was switched on is on
(R398), one whose bit is clear goes off where R397 lets it, a region scrubbed both times (R398, R399); a microsecond is sampled
(R402, R403); droop rates rise and fall (R404); heavy phases are pre-armed (R407); temperatures set the thermal rates (R409);
coolant loss stops the tiles (R410); the module enters standby and wakes (R412, R413). Model's choices in it: logs 47, 48, 79,
80. -/
def Obligations.PowerControl : Prop :=
  (∀ (s : State) (k : Fin 64), HostMay k.val 10 s →
    (∀ v : BitVec 32,
      let rise := v &&& ~~~(s.power.on ||| s.power.rising)
      let set := setCfg 0x3020 2 (leBytes 4 v.toNat)
      v.toNat < 2 ^ 24 → v &&& fixedDomains = fixedDomains → ¬(s.boot.lifecycle = 2 ∧ v.getLsbD 23 = true) →
      (rise ≠ 0 → ledgerHolds s (capsNow s) (allowanceSum (s.power.on ||| s.power.rising ||| rise)) = true) →
      (s.power.held = false → Completes (.domainsEnableWrite k v) k.val []
        { set s with power := { s.power with rising := s.power.rising ||| rise } } s) ∧
      (s.power.held = true → Completes (.domainsEnableWrite k v) k.val []
        { set s with power := { s.power with rising := s.power.rising ||| (rise &&& ~~~coolMask) } } s)) ∧
    (∀ (peak : Bool) (v : BitVec 16),
      let caps := if peak then ((capsNow s).1, v.toNat) else (v.toNat, (capsNow s).2)
      60 ≤ caps.1 → caps.1 ≤ 220 → caps.1 ≤ caps.2 → caps.2 ≤ 280 → uncore s + 1000 ≤ 970 * v.toNat →
      ledgerHolds s caps (uncoreLedger s) = true →
      Completes (.capWrite k peak v) k.val [] (setCfg 0x3000 (if peak then 2 else 1) (leBytes 2 v.toNat) s) s) ∧
    (standbyOk s = true → ∃ t, exec (.standbyEnter k) s = .next t ∧ t.power.standby = .standby ∧ t.power.on = 0x400 ∧
      t.power.rising = 0 ∧ t.pins.safeN = false)) ∧
  (∀ (s : State) (d : Fin 24),
    (s.power.rising.getLsbD d.val = true → d.val ≠ 21 ∨ s.boot.update.status ≠ 2 →
      ∃ t, exec (.domainOnDone d) s = .next t ∧ domainOn t d.val = true ∧
        t.power.rising = s.power.rising &&& ~~~(BitVec.ofNat 32 (2 ^ d.val)) ∧
        (regionOfBit d.val = none → t.mem = s.mem ∧ t.tiles = s.tiles) ∧
        ∀ r, regionOfBit d.val = some r → ∀ i < 64,
          (∀ a < tileBytes, memByte t.mem (tileBase (64 * r + i) + a) = 0) ∧
          (∀ a < 0x400000, memByte t.mem (clusterBase (8 * r + i / 8) + a) = 0)) ∧
    (s.power.rising.getLsbD d.val = false → exec (.domainOnDone d) s = .next s) ∧
    ((enabled s).getLsbD d.val = true ∨ mayOff s d.val = false → exec (.domainOff d) s = .next s) ∧
    ((enabled s).getLsbD d.val = false → mayOff s d.val = true → regionOfBit d.val = none → domainOn s d.val = true →
      exec (.domainOff d) s = .next { s with power := { s.power with on := s.power.on &&& ~~~(BitVec.ofNat 32 (2 ^ d.val)) } }) ∧
    (∀ r, (enabled s).getLsbD d.val = false → mayOff s d.val = true → regionOfBit d.val = some r → domainOn s d.val = true →
      exec (.domainOff d) s = .next (regionLost r
        { s with power := { s.power with on := s.power.on &&& ~~~(BitVec.ofNat 32 (2 ^ d.val)) } }))) ∧
  (∀ (s : State) (input volts : Nat) (regions : List Nat), s.power.powered = true → ready s = true → works s 20 = true →
    let samples := (input :: s.power.samples).take 100000
    ∃ t, exec (.weirSample input volts regions) s = .next t ∧ t.clock = (clockTo ((now s / 1000 + 1) * 1000) s).clock ∧
      t.power.samples = samples ∧ t.power.energy = s.power.energy + input ∧ t.power.inputV = BitVec.ofNat 32 volts ∧
      t.power.bPower = powerRate { s with power := { s.power with samples := samples } } ∧ t.mem = s.mem ∧ t.tiles = s.tiles ∧
      (s.power.bPower = 0 → t.power.bPower ≠ 0 → counter t 0x741c 1 = counter s 0x741c 1 + 1 ∧ t.events.getLsbD 4 = true)) ∧
  (∀ (s : State) (r : Fin 8) (n : Nat),
    (weirActs s = false → exec (.droopAlarm r n) s = .next s ∧ exec (.droopClear r n) s = .next s) ∧
    (weirActs s = true → ∃ t, exec (.droopAlarm r n) s = .next t ∧ droopRate t r.val = min 32768 (max (droopRate s r.val) (16384 + 8192 * n)) ∧
      tblGet false t.power.alarms r.val = true ∧ (∀ q, q ≠ r.val → droopRate t q = droopRate s q) ∧
      counter t 0x741c 3 = counter s 0x741c 3 + (if tblGet false s.power.alarms r.val then 0 else 1)) ∧
    (weirActs s = true → ∃ t, exec (.droopClear r n) s = .next t ∧ t = { s with power := t.power } ∧
      (let m := (if tblGet false s.power.alarms r.val then 0 else tblGet 0 s.power.droopRem r.val) + n
       droopRate t r.val = droopRate s r.val - 8192 * (m / 10) ∧ tblGet 0 t.power.droopRem r.val = m % 10) ∧
      tblGet false t.power.alarms r.val = false ∧
      ∀ q, q ≠ r.val → droopRate t q = droopRate s q)) ∧
  (∀ (s : State) (g : BitVec 32) (x : Fin 4) (j : Job) (h : Phase), jobOf s g = some j → j.prog.cert.phases[x.val]? = some h →
    (j.phase = .running ∨ j.phase = .restoring → h.start ≤ jobTimeNow s j + 5 * jobClock s j →
      jobTimeNow s j < h.start + h.length → (g, x.val) ∉ s.power.prearm → exec (.prearmStart g x) s = .next
        (count 0x741c 5 1 { s with power := { s.power with prearm := s.power.prearm ++ [(g, x.val)] } })) ∧
    (jobTimeNow s j + 5 * jobClock s j < h.start → exec (.prearmStart g x) s = .next s) ∧
    (h.start + h.length ≤ jobTimeNow s j →
      exec (.prearmEnd g x) s = .next { s with power := { s.power with prearm := s.power.prearm.filter (fun e => e ≠ (g, x.val)) } }) ∧
    (jobTimeNow s j < h.start + h.length → exec (.prearmEnd g x) s = .next s)) ∧
  (∀ (s : State) (temps : List (BitVec 32)), s.power.powered = true → ready s = true →
    (∀ i, i < 11 → fpRat (f32 (nth 0 temps i)) < 110) → ∃ t, exec (.tempSample temps) s = .next t ∧
      t.clock = (clockTo ((now s / slotNs + 1) * slotNs) s).clock ∧ t.power.temps = temps.take 11 ∧ t.mem = s.mem ∧
      ∀ r, r < 8 → thermalRate t r = thermalFor (throttleAt s) (fpRat (f32 (nth 0 temps r)))) ∧
  ∀ s : State,
    exec .coolOkQualified s = .next { s with pins := { s.pins with coolOk := true, coolQ := true } } ∧
    (let low := { s with pins := { s.pins with coolOk := false, coolQ := false } }
     (s.pins.coolOk = false ∨ s.power.powered = false → exec .coolOkLow s = .next low) ∧
     (s.pins.coolOk = true → s.power.powered = true → ready s = false → exec .coolOkLow s = .next (count 0x741c 8 1 low)) ∧
     (s.pins.coolOk = true → s.power.powered = true → ready s = true →
       exec .coolOkLow s = .next (coolStop (notifySubs 0x42 [] (enterSafe 3 0 false (count 0x741c 8 1 low)))))) ∧
    (∀ w, cfg s 0x3001 2 = w → w ≠ 0 → s.power.standby = .standby → exec .standbyWake s = .next { count 0x741c 9 1 (clockTo w s) with
      power := { s.power with standby := .waking, wakeNote := some (stamp (clockTo w s)),
                              rising := mayRise s (enabled s &&& ~~~s.power.on) } })

/-- Entering safe state latches the cause, stops every queue, asserts SAFE_N (R437) and counts the entry; a further cause adds
its bit (R442), and is the first where it is of a lower code at the time of entry (log 58). The host requests it (R436), the
island finds it (R434, R435, R437); the safety frames repeat (R439); CLEAR leaves it where R441 allows, and TRIGGERS loses a bit
in safe state only (R436). Model's choices in it: logs 50, 58, 101. -/
def Obligations.SafeState : Prop :=
  (∀ (s : State) (c : Fin 11) (detail : BitVec 32) (fault : Bool),
    let t := enterSafe c.val detail fault s
    t.island.causes.getLsbD c.val = true ∧
    (s.island.state = .normal → t.island.state = (if fault then .safeFault else .safe) ∧ t.island.causes = BitVec.ofNat 32 (2 ^ c.val) ∧
      t.island.first = BitVec.ofNat 8 c.val ∧ t.island.detail = detail ∧ t.pins.safeN = false ∧ (∀ q, (qget t q).state = .stopped) ∧
      t.island.seq = s.island.seq + 1 ∧ counter t 0x741d 0x0c = counter s 0x741d 0x0c + 1) ∧
    (s.island.state ≠ .normal → t.island.state = (if fault then .safeFault else s.island.state) ∧
      t.island.causes = s.island.causes ||| BitVec.ofNat 32 (2 ^ c.val) ∧ t.island.seq = s.island.seq ∧ t.sluice = s.sluice ∧
      counter t 0x741d 0x0c = counter s 0x741d 0x0c ∧
      (s.island.entryAt = now s → c.val < s.island.first.toNat → t.island.first = BitVec.ofNat 8 c.val ∧ t.island.detail = detail) ∧
      (s.island.entryAt ≠ now s ∨ s.island.first.toNat ≤ c.val → t.island.first = s.island.first ∧ t.island.detail = s.island.detail)) ∧
    (islandRuns s = true →
      (c.val ∉ [5, 6, 8] ∨ (cfg s 0x4000 9).testBit c.val = true → exec (.safeStateEntry c detail fault) s =
        .next (enterSafe c.val detail (causeFaults c.val detail) s)) ∧
      (c.val ∈ [5, 6, 8] → (cfg s 0x4000 9).testBit c.val = false → exec (.safeStateEntry c detail fault) s = .next s))) ∧
  (∀ s : State, islandRuns s = true →
    exec .islandMismatch s = .next (enterSafe 10 0 true s) ∧
    (ready s = true →
      (∀ w, cfg s 0x4000 0x0a = w →
        (w ≠ 0 → (cfg s 0x4000 9).testBit 8 = true →
          exec .hostSilent s = .next (enterSafe 8 0 false (clockTo (s.island.hostHeard + 1000000 * w) s))) ∧
        (w = 0 → exec .hostSilent s = .next s)) ∧
      (∀ f : BitVec 8, monitored s f.toNat = true → ∃ t, exec (.heartbeatLoss f) s = .next t ∧ t.island.causes.getLsbD 7 = true ∧
        (s.island.state ≠ .normal → f.toNat ∈ t.island.lost ∧ counter t 0x741d 0x0f = counter s 0x741d 0x0f + 1)))) ∧
  (∀ (s : State) (k : Fin 64), HostMay k.val 5 s →
    (∃ t, exec (.safeRequest k 1) s = .next t ∧ t.island.causes.getLsbD 1 = true ∧
      (s.island.state = .normal → t.island.state = .safe ∧ t.island.detail = BitVec.ofNat 32 (clientOf s k.val) ∧ t.pins.safeN = false)) ∧
    (∀ v : BitVec 16, clearOk s v.toNat = true → ∃ t, exec (.safeClear k v) s = .next t ∧ t.island.state = .normal ∧
      t.pins.safeN = true ∧ t.power.held = false ∧ t.power.stopped = false ∧
      (s.power.held = true → t.power.rising = enabled s &&& ~~~s.power.on)) ∧
    (∀ v : BitVec 16, clearOk s v.toNat = false → ∃ t, exec (.safeClear k v) s = .next t ∧ RefusedWith k.val abConflict s t) ∧
    ∀ v : BitVec 32, v &&& ~~~(0x160 : BitVec 32) = 0 →
      (s.island.state ≠ .normal ∨ BitVec.ofNat 32 (cfg s 0x4000 9) &&& ~~~v = 0 →
        Completes (.triggersWrite k v) k.val [] (setCfg 0x4000 9 (leBytes 4 v.toNat) s) s) ∧
      (s.island.state = .normal → BitVec.ofNat 32 (cfg s 0x4000 9) &&& ~~~v ≠ 0 →
        ∃ t, exec (.triggersWrite k v) s = .next t ∧ RefusedWith k.val abConflict s t)) ∧
  ∀ s : State,
    (s.island.state = .normal → exec .safetyFrameRepeat s = .next s) ∧
    (s.island.state ≠ .normal → s.island.unsent = false → s.island.causes.getLsbD 10 = false →
      ∃ t, exec .safetyFrameRepeat s = .next t ∧ 
        t = { s with out := t.out, t1 := t.t1, counters := t.counters,
                     clock := (clockTo (s.island.frameAt + 1000 * cfg s 0x4000 0x0e) s).clock,
                     island := { s.island with frameAt := t.island.frameAt } } ∧
        t.island.frameAt = now t ∧
        t.out.length = s.out.length + ((sfPorts s).filter (t1Up s)).length ∧
        ∀ x, (t1Of t x).safety = (t1Of s x).safety + (if x ∈ sfPorts s ∧ t1Up s x = true then 1 else 0))

/-- A failure event is counted and remembered (R417, R419); a bank is re-tested (R416); a checker pair's tiles are tested ahead
of others (R424); the field test of a tile starts where R424 to R426 allow, ends or yields (R426 to R428); no stop acknowledge
gates the tile (R433). Model's choices in it: logs 27, 77, 81, 107. -/
def Obligations.FailuresAndTests : Prop :=
  (∀ (s : State) (u : BitVec 32) (c : EventCause), unitOk u = true → ready s = true →
    (c = .corrected → unitKind u = 1 ∨ unitKind u = 2 ∨ unitKind u = 3 → exec (.failureEvent u c false none) s = .next (count 0x741d 3 1 s)) ∧
    (c ≠ .corrected → unitKind u ≠ 9 →
    let h := (counter s 0x741d 1).toNat :: unitHistory s u
    permanentByCount h = false → ∃ t, exec (.failureEvent u c false none) s = .next t ∧
      counter t 0x741d 0x0a = counter s 0x741d 0x0a + 1 ∧ t.events.getLsbD 2 = true ∧
      (c ≠ .uncorrectable ∨ unitKind u ≠ 1 ∨ blocksOn s (unitIndex u) = [] →
        t = { s with counters := t.counters, events := t.events, eventsAt := now s, eventsNew := t.eventsNew,
                     sessions := t.sessions, island := t.island } ∧
        unitHistory t u = h ∧ (∀ v, v ≠ u → unitHistory t v = unitHistory s v) ∧ t.island.retired = s.island.retired ∧
        t.island.state = s.island.state ∧
        (unitKind u = 8 → t.island.urgent = s.island.urgent ++ [(unitIndex u, false), (unitIndex u + 1, false)]) ∧
        (c = .uncorrectable → unitKind u = 2 ∨ unitKind u = 3 → ∃ a, (u, a) ∈ t.island.retests)))) ∧
  (∀ (s : State) (u : BitVec 32) (r : BitVec 32 × Option Nat), s.island.retests.find? (fun r => r.1 = u && retestFree s r) = some r →
    let done := { s with island := { s.island with retests := s.island.retests.erase r } }
    exec (.sramRetest u true) s = .next done ∧ exec (.sramRetest u false) s = .next (retireUnit u done)) ∧
  (∀ (s : State) (t : Fin 512), ready s = true →
    (∀ (p : Fin 18),
      let v := notePass s
      let start := fun (c : Option Nat) (n : Nat) (re : Bool) => { v with
        island := { v.island with
          tests := v.island.tests ++ [(t.val, ⟨c, p.val, n, re⟩)], testNo := max n v.island.testNo,
          lastTest := tblPut v.island.lastTest t.val (now s + 1) } }
      (testAllowed v t.val p.val = false → exec (.fieldTestStart t p) s = .next v) ∧
      (testAllowed v t.val p.val = true →
        (p.val ≠ 0 → exec (.fieldTestStart t p) s = .next (start none v.island.testNo false)) ∧
        (p.val = 0 → retestOf v t.val = none →
          (∀ c, checkerFor v t.val none = some c → exec (.fieldTestStart t p) s = .next (start (some c) (v.island.testNo + 1) false)) ∧
          (checkerFor v t.val none = none → exec (.fieldTestStart t p) s = .next v)) ∧
        (∀ x, p.val = 0 → retestOf v t.val = some x →
          (∀ c, checkerFor v t.val (some x.checker) = some c → exec (.fieldTestStart t p) s = .next (start (some c) (x.number + 1) true)) ∧
          (checkerFor v t.val (some x.checker) = none → exec (.fieldTestStart t p) s = .next v)))) ∧
    exec (.stopAckTimeout t) s = .next (failureEvent (unitOf 1 t.val) .other true none (tmod t.val (fun x => { x with gated := true }) s)) ∧
    (∀ x, retestOf s t.val = some x →
      (testOf s t.val = none → checkerFor s t.val (some x.checker) = none → exec (.checkerTimeout t) s =
        .next (failureEvent (unitOf 1 t.val) .fieldTest false none (clockTo (x.since + 10000000)
          { s with island := { s.island with suspects := s.island.suspects.filter (fun x => x.subject ≠ t.val) } }))) ∧
      ((testOf s t.val).isSome = true ∨ (checkerFor s t.val (some x.checker)).isSome = true → exec (.checkerTimeout t) s = .next s)) ∧
    (retestOf s t.val = none → exec (.checkerTimeout t) s = .next s)) ∧
  ∀ (s : State) (t : Fin 512) (f : FieldTest), testOf s t.val = some f →
    let Ended := fun (u : State) => testOf u t.val = none ∧ u.mem = s.mem ∧ u.sluice = s.sluice ∧
      (∀ c, f.checker = some c → (tileOf u t.val).v = [] ∧ (tileOf u c).v = [] ∧ (tileOf u t.val).w0 = {} ∧ (tileOf u c).w0 = {})
    (∃ u, exec (.fieldTestYield t) s = .next u ∧ Ended u ∧ counter u 0x741d 9 = counter s 0x741d 9 + 1) ∧
    (f.part ≠ 0 → ∃ u, exec (.fieldTestDone t true) s = .next u ∧ Ended u ∧ counter u 0x741d 7 = counter s 0x741d 7 + 1 ∧
      (f.part = 17 → (clusterOf u (clusterOfTile t.val)).testBank = ((clusterOf s (clusterOfTile t.val)).testBank + 1) % 33)) ∧
    (f.part = 0 → f.retest = false → ∃ u, exec (.fieldTestDone t false) s = .next u ∧ Ended u ∧
      u.island.suspects = s.island.suspects ++ [⟨t.val, f.checker.getD t.val, f.number, now s⟩] ∧ counter u 0x741d 7 = counter s 0x741d 7 + 1)

/-- A reset, a power-down and a start leave what R449 to R451, R459 and R495 to R500 say: the state, the cause, the retirement
table and the model store. The boot ends READY with the image that passes R448, else in RECOVERY with the reason (R449, R452).
Model's choices in it: logs 4, 11, 51. -/
def Obligations.ResetAndPowerUp : Prop :=
  (∀ s : State,
    let Down := fun (st : DevState) (t : State) => t.boot.state = st ∧ t.pins.safeN = false ∧ t.sluice = {} ∧
      t.island.retired = s.island.retired ∧ t.dir.store = s.dir.store ∧ t.boot.area = s.boot.area ∧ t.boot.minSvn = s.boot.minSvn ∧
      (∀ q, (qget t q).state = .stopped) ∧ (∀ j, (sess t j).open_ = false)
    let Pages := fun (t : State) =>
      t.pages.entries = tblMap {} (fun e => { gen := e.gen }) s.pages.entries ∧
      ∀ p < 4, tblGet 0 t.pages.base p = tblGet 0 s.pages.base p + 1
    (∀ k : Fin 64, HostMay k.val 6 s → ∃ t, exec (.deviceResetWrite k 1) s = .next t ∧ Down .boot t ∧ t.boot.cause = 2 ∧ Pages t ∧
      t.power.on = 0x400 ||| (s.power.on &&& 0x100000)) ∧
    (s.pins.pwrOk = true → ∃ t, exec .resetNLow s = .next t ∧ Down .held t ∧ t.boot.cause = 1 ∧ Pages t ∧
      t.pins.resetN = false ∧ t.power.on = 0x400 ||| (s.power.on &&& 0x100000)) ∧
    (s.pins.pwrOk = false → exec .resetNLow s = .next { s with pins := { s.pins with resetN := false } }) ∧
    (isOn s = true → (∀ e ∈ s.island.recent, e.2 + 10000000 ≤ now s) → ∀ c ∈ [Instr.undervoltage, .overvoltage, .pwrEnLow], ∃ t, exec c s = .next t ∧ Down .off t ∧
      t.power.powered = false ∧ t.power.on = 0 ∧ t.pins.pwrOk = false ∧ t.pins.faultN = false) ∧
    (isOn s = false → ∀ c ∈ [Instr.undervoltage, .overvoltage, .pwrEnLow], ∃ t, exec c s = .next t ∧
      t.power = { s.power with retry := false, failed := false } ∧ t.boot = s.boot ∧ t.pins.pwrOk = s.pins.pwrOk) ∧
    (isOn s = false → s.power.failed = true → exec (.coldStart true) s = .next s ∧ exec (.coldStart false) s = .next s) ∧
    (isOn s = false → s.power.failed = false → ∃ t, exec (.coldStart true) s = .next t ∧ t.boot.state = (if s.pins.resetN then .boot else .held) ∧
      t.boot.cause = 0 ∧ t.pins.pwrOk = true ∧ t.pins.pwrEn = true ∧ t.power.powered = true ∧ t.dict = []) ∧
    (isOn s = false → s.power.failed = false → exec (.coldStart false) s = .next { s with
      pins := { s.pins with pwrEn := true }, power := { s.power with retry := true, failed := true } }) ∧
    (isOn s = false → s.power.retry = false → ∀ b, exec (.regulatorRetry b) s = .next s) ∧
    (isOn s = false → s.power.retry = true →
      (∃ t, exec (.regulatorRetry true) s = .next t ∧ t.boot.state = (if s.pins.resetN then .boot else .held) ∧ t.boot.cause = 0 ∧
        t.pins.pwrOk = true ∧ t.power.powered = true ∧ t.dict = []) ∧
      exec (.regulatorRetry false) s = .next { s with power := { s.power with retry := false } })) ∧
  ∀ (s : State) (n : Nat),
    (s.boot.state ≠ .boot → s.boot.state ≠ .held → exec (.deviceReset n) s = .next s) ∧
    (s.boot.state = .boot ∨ s.boot.state = .held → s.boot.pendingLc = none → ∃ t, exec (.deviceReset n) s = .next t ∧
      t.pins.resetN = true ∧ t.boot.bootTime = BitVec.ofNat 32 (n / 1000) ∧
      t.boot.resets = (if s.boot.cause = 0 then 0 else s.boot.resets + 1) ∧ t.clock = (clockTo n s).clock ∧
      (bootReason s = 0 → t.boot.state = .ready ∧ t.boot.running = areaInfo s ∧ t.pins.faultN = true ∧
        t.island.causes = (if s.pins.coolOk then 1 else 9)) ∧
      (bootReason s ≠ 0 → t.boot.state = .recovery ∧ t.boot.reason = bootReason s ∧ t.power.on = 0x780400 ||| (enabled s &&& 0x800000)))

/-- The update writes the image area in order, is verified at its COMMIT, or when the security engine's domain is on again
(R453, R19); MIN_SVN and REVOKE only tighten: neither a lower MIN_SVN nor the running image's slot is taken (R454); a life-cycle
change that R456 authorises resets the device (R457); the debug port opens to the signature of its challenge (R455); the
provisioning request makes the identity key (R456); a quote is made on request and signed by that key, with a free per-message
number (R461; log 53). Model's choices in it: logs 51, 52, 53. -/
def Obligations.FirmwareAndIdentity : Prop :=
  (∀ (s : State) (k : Fin 64), HostMay k.val 7 s →
    (updateForeign k.val s = false →
      Completes (.updateBegin k) k.val [] { s with
        boot := { s.boot with
          area := .bytes [], areaValid := false,
          update := { owner := some (k.val, (sess s k.val).gen), status := 1, written := 0, reason := 0 } } } s ∧
      (s.boot.update.status = 1 → ∀ (b c : Bytes), s.boot.area = .bytes b → 5 ≤ c.length → c.length ≤ 1028 →
        fieldAt c 0 4 = s.boot.update.written → s.boot.update.written + (c.length - 4) ≤ 0x4000000 →
        Completes (.updateChunk k c) k.val [] { s with
          boot := { s.boot with
            area := .bytes (b ++ c.drop 4),
            update := { s.boot.update with written := s.boot.update.written + (c.length - 4) } } } s) ∧
      (s.boot.update.status = 1 → works s 21 = false → Completes (.updateCommit k) k.val [] { s with
        boot := { s.boot with update := { s.boot.update with status := 2 } } } s) ∧
      (s.boot.update.status = 1 → works s 21 = true → Completes (.updateCommit k) k.val [] { s with
        boot := { s.boot with
          areaValid := decide (checkImage s = 0),
          update := { s.boot.update with owner := none, status := if checkImage s = 0 then 3 else 4, reason := checkImage s } } } s) ∧
      (s.boot.update.status = 1 → Completes (.updateAbort k) k.val [] { s with boot := { s.boot with update := {} } } s) ∧
      (s.boot.update.status ≠ 1 → Completes (.updateAbort k) k.val [] s s)) ∧
    (∀ v : BitVec 16, v = s.boot.running.svn → s.boot.minSvn < v.toNat →
      Completes (.minSvnWrite k v) k.val [] { s with boot := { s.boot with minSvn := v.toNat } } s) ∧
    (∀ v : BitVec 16, v.toNat ≤ s.boot.minSvn ∨ v ≠ s.boot.running.svn →
      ∃ t, exec (.minSvnWrite k v) s = .next t ∧ RefusedWith k.val abValueRange s t) ∧
    (s.boot.running.keySlot.toNat ≤ 3 → ∃ t, exec (.keyRevoke k s.boot.running.keySlot) s = .next t ∧ RefusedWith k.val abConflict s t) ∧
    (∀ v : BitVec 8, 3 < v.toNat → ∃ t, exec (.keyRevoke k v) s = .next t ∧ RefusedWith k.val abValueRange s t) ∧
    (∀ v : BitVec 8, v.toNat ≤ 3 → v ≠ s.boot.running.keySlot →
      Completes (.keyRevoke k v) k.val [] { s with boot := { s.boot with revoked := s.boot.revoked ||| BitVec.ofNat 4 (2 ^ v.toNat) } } s) ∧
    ∀ b : Bytes, b.length = 180 → fieldAt b 1 7 = 0 → s.boot.update.status ≠ 1 → s.boot.update.status ≠ 2 → changeOk s b = true →
      ∃ t, exec (.lifecycleRequest k b) s = .next t ∧ t.boot.state = .boot ∧ t.boot.cause = 3 ∧
        t.boot.pendingLc = some (BitVec.ofNat 8 (fieldAt b 0 1)) ∧ t.boot.lifecycle = s.boot.lifecycle) ∧
  (∀ (s : State) (k : Fin 64) (b : Bytes), HostMay k.val 0 s → b.length = 32 → s.boot.quoteState ≠ 1 → s.boot.lifecycle ≠ 0 →
    s.boot.lifecycle ≠ 3 → ready s = true →
    Completes (.quoteRequest k b) k.val [] { s with boot := { s.boot with quoteState := 1, quoteNonce := b } } s) ∧
  (∀ s : State,
    (s.boot.quoteState = 1 → works s 21 = true → ∃ n : Nat, exec .quoteReady s = .next { s with
      freeCtr := s.freeCtr + 1,
      boot := { s.boot with quoteState := 2, quote := quoteBody s ++ ecdsaSign s.boot.idSecret n (sha512 (quoteBody s)) } }) ∧
    (s.boot.quoteState ≠ 1 ∨ works s 21 = false → exec .quoteReady s = .next s) ∧
    (s.power.rising.getLsbD 21 = true → domainOn s 20 = true → s.boot.update.status = 2 → s.boot.state = .ready →
      ∃ t, exec (.domainOnDone 21) s = .next t ∧ t.boot = { s.boot with
        areaValid := decide (checkImage s = 0),
        update := { s.boot.update with
          owner := none, status := if checkImage s = 0 then 3 else 4, reason := checkImage s } })) ∧
  ∀ (s : State) (b : Bytes),
    (works s 23 = false → exec (.debugAuth b) s = .next s ∧ exec (.debugTransaction b) s = .next s) ∧
    (works s 23 = true → works s 21 = true → debugState s = 1 →
      (∀ c, s.boot.challenge = some c →
        let good := ecdsaVerify (beNat (bytesAt Config.debugKey 0 66)) (beNat (bytesAt Config.debugKey 66 66)) (sha512 c) b
        ∃ t, exec (.debugAuth b) s = .next t ∧
          (good = true → t = { s with boot := { s.boot with debugOpen := true, challenge := none } }) ∧
          (good = false → t.boot.debugOpen = s.boot.debugOpen ∧ ∃ d : Bytes, d.length = 32 ∧ t.boot.challenge = some d)) ∧
      (s.boot.challenge = none → ∃ c : Bytes, c.length = 32 ∧ exec (.debugAuth b) s = .next { s with
        freeCtr := s.freeCtr + 1, boot := { s.boot with challenge := some c }, out := s.out ++ [.debug c] }) ∧
      ∃ c : Bytes, c.length = 32 ∧ exec (.debugTransaction b) s = .next { s with
        freeCtr := s.freeCtr + 1, boot := { s.boot with challenge := some c }, out := s.out ++ [.debug c] }) ∧
    (debugState s = 0 → exec (.debugTransaction b) s = .next s) ∧
    (works s 23 = true → s.boot.lifecycle = 0 → ∃ t, exec (.debugTransaction b) s = .next t ∧ t.boot.lifecycle = 0 ∧
      (Config.provisionRequest b = true → t.boot.state = .boot ∧ t.boot.cause = 3 ∧ t.boot.pendingLc = some 1 ∧ t.boot.keyState = 1 ∧
        1 ≤ t.boot.idSecret ∧ t.boot.idSecret < n521 ∧ t.boot.idPoint = publicPoint t.boot.idSecret) ∧
      (Config.provisionRequest b = false → t.boot = s.boot)) ∧
    (works s 23 = true → debugState s = 2 → s.boot.lifecycle ≠ 0 → ∃ a : Bytes, a.length = b.length ∧ exec (.debugTransaction b) s = .next { s with
      freeCtr := s.freeCtr + 1, out := s.out ++ [.debug a] })
end

