-- ==== Sys2Proof/Laws/Table.lean ====
section
/-!
SUPPORT. Sys2Proof/Laws/Table.lean: what a sorted table and the sparse memory read after a change, and that every operation keeps
their canonical form.
-/

namespace Sys2Proof

/-! ## Reading a table after a change -/

theorem tblGet_del {α : Type} (d : α) (t : Tbl α) (k j : Nat) :
    tblGet d (tblDel t k) j = if j = k then d else tblGet d t j := by
  induction t with
  | nil => simp [tblDel, tblGet]
  | cons e t ih =>
    obtain ⟨i, v⟩ := e
    simp only [tblDel] at ih
    by_cases h : i = k
    · subst h
      simp only [tblDel, List.filter_cons, ne_eq, not_true_eq_false, decide_false, Bool.false_eq_true, ↓reduceIte, ih, tblGet]
      by_cases hj : j = i
      · simp [hj]
      · simp [hj, Ne.symm hj]
    · simp only [tblDel, List.filter_cons, ne_eq, h, not_false_eq_true, decide_true, ↓reduceIte, tblGet, ih]
      by_cases hj : i = j
      · subst hj; simp [h]
      · simp [hj]

theorem tblGet_put {α : Type} (d : α) (t : Tbl α) (k : Nat) (v : α) (j : Nat) :
    tblGet d (tblPut t k v) j = if j = k then v else tblGet d t j := by
  induction t with
  | nil =>
    by_cases h : j = k
    · simp [tblPut, tblGet, h]
    · simp [tblPut, tblGet, h, Ne.symm h]
  | cons e t ih =>
    obtain ⟨i, u⟩ := e
    by_cases h1 : k < i
    · by_cases h : j = k
      · subst h; simp [tblPut, tblGet, h1]
      · simp [tblPut, tblGet, h1, h, Ne.symm h]
    · by_cases h2 : k = i
      · subst h2
        by_cases h : j = k
        · subst h; simp [tblPut, tblGet]
        · simp [tblPut, tblGet, h, Ne.symm h]
      · simp only [tblPut, h1, h2, ↓reduceIte, tblGet, ih]
        by_cases hij : i = j
        · subst hij; simp [Ne.symm h2]
        · simp [hij]

theorem tblGet_set {α : Type} [DecidableEq α] (d : α) (t : Tbl α) (k : Nat) (v : α) (j : Nat) :
    tblGet d (tblSet d t k v) j = if j = k then v else tblGet d t j := by
  unfold tblSet
  split
  · next h => rw [tblGet_del]; split <;> simp_all
  · exact tblGet_put d t k v j

theorem tblGet_mod {α : Type} [DecidableEq α] (d : α) (t : Tbl α) (k : Nat) (f : α → α) (j : Nat) :
    tblGet d (tblMod d t k f) j = if j = k then f (tblGet d t k) else tblGet d t j := tblGet_set d t k _ j

/-! ## The canonical form -/

/-- The canonical form, said of all entries: keys rising pairwise, no value the unlisted one. -/
theorem tblWf_iff {α : Type} [DecidableEq α] (d : α) (t : Tbl α) :
    tblWf d t = true ↔ t.Pairwise (fun a b => a.1 < b.1) ∧ ∀ e ∈ t, e.2 ≠ d := by
  induction t with
  | nil => simp [tblWf]
  | cons e r ih =>
    obtain ⟨i, v⟩ := e
    cases r with
    | nil => simp [tblWf]
    | cons f r =>
      obtain ⟨j, w⟩ := f
      simp only [tblWf, Bool.and_eq_true, decide_eq_true_eq, ih]
      constructor
      · rintro ⟨⟨hij, hv⟩, hp, hd⟩
        refine ⟨List.pairwise_cons.2 ⟨?_, hp⟩, ?_⟩
        · intro a ha
          rcases List.mem_cons.1 ha with rfl | ha
          · exact hij
          · exact lt_trans hij ((List.pairwise_cons.1 hp).1 a ha)
        · intro a ha
          rcases List.mem_cons.1 ha with rfl | ha
          · exact hv
          · exact hd a ha
      · rintro ⟨hp, hd⟩
        have hp' := List.pairwise_cons.1 hp
        exact ⟨⟨hp'.1 (j, w) (by simp), hd (i, v) (by simp)⟩, hp'.2, fun a ha => hd a (List.mem_cons_of_mem _ ha)⟩

theorem tblWf_filter {α : Type} [DecidableEq α] (d : α) (t : Tbl α) (p : Nat × α → Bool) (h : tblWf d t = true) :
    tblWf d (t.filter p) = true := by
  rw [tblWf_iff] at h ⊢
  exact ⟨h.1.filter p, fun e he => h.2 e (List.mem_filter.1 he).1⟩

/-- The entries of `tblPut` are those of the table and the one put. -/
theorem mem_tblPut {α : Type} (t : Tbl α) (k : Nat) (v : α) (e : Nat × α) (h : e ∈ tblPut t k v) : e = (k, v) ∨ e ∈ t := by
  induction t with
  | nil => simpa [tblPut] using h
  | cons x t ih =>
    obtain ⟨i, u⟩ := x
    simp only [tblPut] at h
    split at h
    · simpa using h
    · split at h
      · rcases List.mem_cons.1 h with h | h
        · exact .inl h
        · exact .inr (List.mem_cons_of_mem _ h)
      · rcases List.mem_cons.1 h with h | h
        · exact .inr (h ▸ List.mem_cons_self)
        · exact (ih h).imp id (List.mem_cons_of_mem _)

theorem tblWf_put {α : Type} [DecidableEq α] (d : α) (t : Tbl α) (k : Nat) (v : α) (hv : v ≠ d) (h : tblWf d t = true) :
    tblWf d (tblPut t k v) = true := by
  rw [tblWf_iff] at h ⊢
  refine ⟨?_, fun e he => (mem_tblPut t k v e he).elim (fun hh => hh ▸ hv) (h.2 e)⟩
  have hp := h.1
  clear h
  induction t with
  | nil => simp [tblPut]
  | cons x t ih =>
    obtain ⟨i, u⟩ := x
    obtain ⟨h1, h2⟩ := List.pairwise_cons.1 hp
    simp only [tblPut]
    split
    · next hk =>
      refine List.pairwise_cons.2 ⟨fun a ha => ?_, hp⟩
      rcases List.mem_cons.1 ha with rfl | ha
      · exact hk
      · exact lt_trans hk (h1 a ha)
    · split
      · next hk =>
        subst hk
        exact List.pairwise_cons.2 ⟨h1, h2⟩
      · refine List.pairwise_cons.2 ⟨fun a ha => ?_, ih h2⟩
        rcases mem_tblPut t k v a ha with rfl | ha
        · simp only; omega
        · exact h1 a ha

theorem tblWf_set {α : Type} [DecidableEq α] (d : α) (t : Tbl α) (k : Nat) (v : α) (h : tblWf d t = true) :
    tblWf d (tblSet d t k v) = true := by
  unfold tblSet
  split
  · exact tblWf_filter d t _ h
  · next hv => exact tblWf_put d t k v hv h

/-! ## Memory -/

theorem cellsOf_mem (a : Nat) (bs : Bytes) (e : Nat × BitVec 8) (h : e ∈ cellsOf a bs) :
    a ≤ e.1 ∧ e.1 < a + bs.length ∧ e.2 ≠ 0 := by
  induction bs generalizing a with
  | nil => simp [cellsOf] at h
  | cons b bs ih =>
    simp only [cellsOf] at h
    split at h
    · have := ih (a + 1) h
      simp only [List.length_cons]
      exact ⟨by omega, by omega, this.2.2⟩
    · next hb =>
      rcases List.mem_cons.1 h with rfl | h
      · exact ⟨le_refl _, by simp, hb⟩
      · have := ih (a + 1) h
        simp only [List.length_cons]
        exact ⟨by omega, by omega, this.2.2⟩

theorem cellsOf_pairwise (a : Nat) (bs : Bytes) : (cellsOf a bs).Pairwise (fun x y => x.1 < y.1) := by
  induction bs generalizing a with
  | nil => simp [cellsOf]
  | cons b bs ih =>
    simp only [cellsOf]
    split
    · exact ih (a + 1)
    · refine List.pairwise_cons.2 ⟨fun e he => ?_, ih (a + 1)⟩
      have := cellsOf_mem (a + 1) bs e he
      simp only; omega

/-- Three pieces of memory, each canonical, laid in rising order. -/
theorem wf_pieces (x y z : Memory) (lo hi : Nat)
    (hx : Memory.wf x = true) (hy : Memory.wf y = true) (hz : Memory.wf z = true)
    (h1 : ∀ e ∈ x, e.1 < lo) (h2 : ∀ e ∈ y, lo ≤ e.1 ∧ e.1 < hi) (h3 : ∀ e ∈ z, hi ≤ e.1) (hl : lo ≤ hi) :
    Memory.wf (x ++ y ++ z) = true := by
  simp only [Memory.wf, tblWf_iff] at *
  refine ⟨?_, fun e he => ?_⟩
  · rw [List.pairwise_append, List.pairwise_append]
    refine ⟨⟨hx.1, hy.1, fun a ha b hb => ?_⟩, hz.1, fun a ha b hb => ?_⟩
    · have := h1 a ha; have := h2 b hb; omega
    · have := h3 b hb
      rcases List.mem_append.1 ha with ha | ha
      · have := h1 a ha; omega
      · have := h2 a ha; omega
  · rcases List.mem_append.1 he with he | he
    · rcases List.mem_append.1 he with he | he
      · exact hx.2 e he
      · exact hy.2 e he
    · exact hz.2 e he

theorem memWrite_wf (m : Memory) (a : Nat) (bs : Bytes) (h : Memory.wf m = true) : Memory.wf (memWrite m a bs) = true := by
  refine wf_pieces _ _ _ a (a + bs.length) (tblWf_filter _ _ _ h) ?_ (tblWf_filter _ _ _ h) ?_ ?_ ?_ (by omega)
  · simp only [Memory.wf, tblWf_iff]
    exact ⟨cellsOf_pairwise a bs, fun e he => (cellsOf_mem a bs e he).2.2⟩
  · intro e he; simpa using (List.mem_filter.1 he).2
  · intro e he; have := cellsOf_mem a bs e he; exact ⟨this.1, this.2.1⟩
  · intro e he; simpa using (List.mem_filter.1 he).2

theorem memWipe_wf (m : Memory) (a n : Nat) (h : Memory.wf m = true) : Memory.wf (memWipe m a n) = true := tblWf_filter _ _ _ h

theorem memCopy_wf (m : Memory) (src dst n : Nat) (h : Memory.wf m = true) : Memory.wf (memCopy m src dst n) = true := by
  refine wf_pieces _ _ _ dst (dst + n) (tblWf_filter _ _ _ h) ?_ (tblWf_filter _ _ _ h) ?_ ?_ ?_ (by omega)
  · simp only [Memory.wf, tblWf_iff] at h ⊢
    refine ⟨?_, fun e he => ?_⟩
    · rw [List.pairwise_map]
      have h1 := h.1.filter (fun c : Nat × BitVec 8 => decide (src ≤ c.1) && decide (c.1 < src + n))
      refine List.Pairwise.imp_of_mem ?_ h1
      intro a b ha hb hab
      have ha := (List.mem_filter.1 ha).2
      have hb := (List.mem_filter.1 hb).2
      simp only [Bool.and_eq_true, decide_eq_true_eq] at ha hb
      simp only; omega
    · obtain ⟨c, hc, rfl⟩ := List.mem_map.1 he
      exact h.2 c (List.mem_filter.1 hc).1
  · intro e he; simpa using (List.mem_filter.1 he).2
  · intro e he
    obtain ⟨c, hc, rfl⟩ := List.mem_map.1 he
    have hc := (List.mem_filter.1 hc).2
    simp only [Bool.and_eq_true, decide_eq_true_eq] at hc
    simp only; omega
  · intro e he; simpa using (List.mem_filter.1 he).2

theorem overlayFlush_wf (t : Tbl (BitVec 8)) (m : Memory) (h : Memory.wf m = true) : Memory.wf (overlayFlush m t) = true := by
  unfold overlayFlush
  induction t generalizing m with
  | nil => exact h
  | cons c t ih => exact ih _ (memWrite_wf m c.1 [c.2] h)

theorem memWriteNat_wf (m : Memory) (a n v : Nat) (h : Memory.wf m = true) : Memory.wf (memWriteNat m a n v) = true :=
  memWrite_wf m a _ h

theorem tblGet_append {α : Type} (d : α) (x y : Tbl α) (j : Nat) :
    tblGet d (x ++ y) j = if j ∈ x.map (fun e => e.1) then tblGet d x j else tblGet d y j := by
  induction x with
  | nil => simp
  | cons e x ih =>
    obtain ⟨i, v⟩ := e
    by_cases h : i = j
    · simp [tblGet, h]
    · have h' : ¬ j = i := fun e => h e.symm
      simp only [List.cons_append, tblGet, h, ↓reduceIte, ih, List.map_cons, List.mem_cons, h', false_or]

theorem tblGet_filter {α : Type} (d : α) (t : Tbl α) (p : Nat → Bool) (j : Nat) :
    tblGet d (t.filter (fun e => p e.1)) j = if p j then tblGet d t j else d := by
  induction t with
  | nil => simp [tblGet]
  | cons e t ih =>
    obtain ⟨i, v⟩ := e
    by_cases hp : p i
    · by_cases h : i = j
      · subst h; simp [hp, tblGet]
      · simp [hp, tblGet, h, ih]
    · by_cases h : i = j
      · subst h; simpa [hp] using ih
      · simp [hp, tblGet, h, ih]

theorem tblGet_cellsOf (a : Nat) (bs : Bytes) (j : Nat) :
    tblGet 0 (cellsOf a bs) j = if a ≤ j then (bs[j - a]?).getD 0 else 0 := by
  induction bs generalizing a with
  | nil => simp [cellsOf, tblGet]
  | cons b bs ih =>
    have hstep : (if a + 1 ≤ j then (bs[j - (a + 1)]?).getD 0 else 0) =
        if a = j then 0 else if a ≤ j then ((b :: bs)[j - a]?).getD 0 else 0 := by
      by_cases h : a = j
      · subst h; simp
      · by_cases h2 : a ≤ j
        · have h3 : a + 1 ≤ j := by omega
          have h4 : j - a = (j - (a + 1)) + 1 := by omega
          simp [h, h2, h3, h4]
        · have h3 : ¬ a + 1 ≤ j := by omega
          simp [h, h2, h3]
    simp only [cellsOf]
    split
    · next hb =>
      rw [ih, hstep]
      by_cases h : a = j
      · subst h; simp [hb]
      · simp [h]
    · simp only [tblGet, ih, hstep]
      by_cases h : a = j
      · subst h; simp
      · simp [h]

theorem mem_keys_filter {α : Type} (t : Tbl α) (p : Nat → Bool) (j : Nat) :
    j ∈ (t.filter (fun e => p e.1)).map (fun e => e.1) ↔ p j = true ∧ j ∈ t.map (fun e => e.1) := by
  simp only [List.mem_map, List.mem_filter]
  constructor
  · rintro ⟨e, ⟨he, hp⟩, rfl⟩; exact ⟨hp, e, he, rfl⟩
  · rintro ⟨hp, e, he, rfl⟩; exact ⟨e, ⟨he, hp⟩, rfl⟩

theorem tblGet_absent {α : Type} (d : α) (t : Tbl α) (j : Nat) (h : j ∉ t.map (fun e => e.1)) : tblGet d t j = d := by
  induction t with
  | nil => rfl
  | cons e t ih =>
    obtain ⟨i, v⟩ := e
    simp only [List.map_cons, List.mem_cons, not_or] at h
    simp [tblGet, Ne.symm h.1, ih h.2]

/-- A byte read after a write: the byte written inside the range, what stood there outside it. -/
theorem memByte_write (m : Memory) (a : Nat) (bs : Bytes) (j : Nat) :
    memByte (memWrite m a bs) j = if a ≤ j ∧ j < a + bs.length then (bs[j - a]?).getD 0 else memByte m j := by
  simp only [memByte, memWrite, List.append_assoc]
  rw [tblGet_append, tblGet_append, tblGet_filter 0 m (fun i => decide (i < a)),
    tblGet_filter 0 m (fun i => decide (a + bs.length ≤ i)), tblGet_cellsOf]
  by_cases h1 : j < a
  · have h2 : ¬ (a ≤ j ∧ j < a + bs.length) := by omega
    have h3 : ¬ a ≤ j := by omega
    have h4 : ¬ a + bs.length ≤ j := by omega
    have h5 : j ∉ (cellsOf a bs).map (fun e => e.1) := fun hm => by
      obtain ⟨e, he, rfl⟩ := List.mem_map.1 hm
      exact h3 (cellsOf_mem a bs e he).1
    by_cases hm : j ∈ (m.filter (fun c => decide (c.1 < a))).map (fun e => e.1)
    · simp [hm, h1, h2]
    · have : j ∉ m.map (fun e => e.1) := fun hx => hm ((mem_keys_filter m (fun i => decide (i < a)) j).2 ⟨by simpa using h1, hx⟩)
      simp only [hm, h2, h5, h4, ↓reduceIte, decide_false, Bool.false_eq_true]
      exact (tblGet_absent 0 m j this).symm
  · have hm : j ∉ (m.filter (fun c => decide (c.1 < a))).map (fun e => e.1) := fun hx => by
      have := ((mem_keys_filter m (fun i => decide (i < a)) j).1 hx).1
      exact h1 (by simpa using this)
    simp only [hm, ↓reduceIte]
    by_cases h2 : j < a + bs.length
    · have h4 : ¬ a + bs.length ≤ j := by omega
      have h3 : a ≤ j := by omega
      simp only [h3, h2, and_self, ↓reduceIte, h4, decide_false, Bool.false_eq_true]
      split
      · rfl
      · next hc =>
        have := tblGet_absent 0 (cellsOf a bs) j hc
        rw [tblGet_cellsOf, if_pos h3] at this
        exact this.symm
    · have h3 : ¬ (a ≤ j ∧ j < a + bs.length) := by omega
      have h4 : a + bs.length ≤ j := by omega
      have h5 : j ∉ (cellsOf a bs).map (fun e => e.1) := fun hm => by
        obtain ⟨e, he, rfl⟩ := List.mem_map.1 hm
        exact h2 (cellsOf_mem a bs e he).2.1
      simp [h5, h4, h3]

/-- Bytes read after they are written are the bytes written. -/
theorem memRead_write (m : Memory) (a : Nat) (bs : Bytes) : memRead (memWrite m a bs) a bs.length = bs := by
  apply List.ext_getElem
  · simp [memRead]
  · intro i _ h
    simp [memRead, memByte_write, h]

/-- A read is the front of a longer read. -/
theorem memRead_take (m : Memory) (a n k : Nat) (h : k ≤ n) : (memRead m a n).take k = memRead m a k := by
  simp [memRead, ← List.map_take, List.take_range, Nat.min_eq_left h]

end Sys2Proof
end

