-- ==== Sys2Proof/Laws/State.lean ====
section
/-!
SUPPORT. Sys2Proof/Laws/State.lean: what each named update of State leaves alone, field by field, and what it makes an accessor
read.
-/

namespace Sys2Proof.Machine

variable (s : State)

/-! ## count -/

@[simp] theorem count_pending (i j n : Nat) : (count i j n s).pending = s.pending := rfl
@[simp] theorem count_freeCtr (i j n : Nat) : (count i j n s).freeCtr = s.freeCtr := rfl
@[simp] theorem count_out (i j n : Nat) : (count i j n s).out = s.out := rfl
@[simp] theorem count_clock (i j n : Nat) : (count i j n s).clock = s.clock := rfl
@[simp] theorem count_as (i j n : Nat) : (count i j n s).as_ = s.as_ := rfl
@[simp] theorem count_pps (i j n : Nat) : (count i j n s).pps = s.pps := rfl
@[simp] theorem count_timers (i j n : Nat) : (count i j n s).timers = s.timers := rfl
@[simp] theorem count_t1 (i j n : Nat) : (count i j n s).t1 = s.t1 := rfl
@[simp] theorem count_fabric (i j n : Nat) : (count i j n s).fabric = s.fabric := rfl
@[simp] theorem count_channels (i j n : Nat) : (count i j n s).channels = s.channels := rfl
@[simp] theorem count_dict (i j n : Nat) : (count i j n s).dict = s.dict := rfl
@[simp] theorem count_events (i j n : Nat) : (count i j n s).events = s.events := rfl
@[simp] theorem count_eventsAt (i j n : Nat) : (count i j n s).eventsAt = s.eventsAt := rfl
@[simp] theorem count_eventsNew (i j n : Nat) : (count i j n s).eventsNew = s.eventsNew := rfl
@[simp] theorem count_sessions (i j n : Nat) : (count i j n s).sessions = s.sessions := rfl
@[simp] theorem count_queues (i j n : Nat) : (count i j n s).queues = s.queues := rfl
@[simp] theorem count_sluice (i j n : Nat) : (count i j n s).sluice = s.sluice := rfl
@[simp] theorem count_parts (i j n : Nat) : (count i j n s).parts = s.parts := rfl
@[simp] theorem count_resetting (i j n : Nat) : (count i j n s).resetting = s.resetting := rfl
@[simp] theorem count_raised (i j n : Nat) : (count i j n s).raised = s.raised := rfl
@[simp] theorem count_tiles (i j n : Nat) : (count i j n s).tiles = s.tiles := rfl
@[simp] theorem count_clusters (i j n : Nat) : (count i j n s).clusters = s.clusters := rfl
@[simp] theorem count_reserve (i j n : Nat) : (count i j n s).reserve = s.reserve := rfl
@[simp] theorem count_streams (i j n : Nat) : (count i j n s).streams = s.streams := rfl
@[simp] theorem count_pages (i j n : Nat) : (count i j n s).pages = s.pages := rfl
@[simp] theorem count_dir (i j n : Nat) : (count i j n s).dir = s.dir := rfl
@[simp] theorem count_mem (i j n : Nat) : (count i j n s).mem = s.mem := rfl
@[simp] theorem count_map (i j n : Nat) : (count i j n s).map = s.map := rfl
@[simp] theorem count_selector (i j n : Nat) : (count i j n s).selector = s.selector := rfl
@[simp] theorem count_wellhead (i j n : Nat) : (count i j n s).wellhead = s.wellhead := rfl
@[simp] theorem count_fusion (i j n : Nat) : (count i j n s).fusion = s.fusion := rfl
@[simp] theorem count_solver (i j n : Nat) : (count i j n s).solver = s.solver := rfl
@[simp] theorem count_pump (i j n : Nat) : (count i j n s).pump = s.pump := rfl
@[simp] theorem count_power (i j n : Nat) : (count i j n s).power = s.power := rfl
@[simp] theorem count_island (i j n : Nat) : (count i j n s).island = s.island := rfl
@[simp] theorem count_boot (i j n : Nat) : (count i j n s).boot = s.boot := rfl
@[simp] theorem count_pins (i j n : Nat) : (count i j n s).pins = s.pins := rfl

/-! ## setEvent -/

@[simp] theorem setEvent_pending (n : Nat) : (setEvent n s).pending = s.pending := rfl
@[simp] theorem setEvent_freeCtr (n : Nat) : (setEvent n s).freeCtr = s.freeCtr := rfl
@[simp] theorem setEvent_out (n : Nat) : (setEvent n s).out = s.out := rfl
@[simp] theorem setEvent_clock (n : Nat) : (setEvent n s).clock = s.clock := rfl
@[simp] theorem setEvent_as (n : Nat) : (setEvent n s).as_ = s.as_ := rfl
@[simp] theorem setEvent_pps (n : Nat) : (setEvent n s).pps = s.pps := rfl
@[simp] theorem setEvent_timers (n : Nat) : (setEvent n s).timers = s.timers := rfl
@[simp] theorem setEvent_t1 (n : Nat) : (setEvent n s).t1 = s.t1 := rfl
@[simp] theorem setEvent_fabric (n : Nat) : (setEvent n s).fabric = s.fabric := rfl
@[simp] theorem setEvent_channels (n : Nat) : (setEvent n s).channels = s.channels := rfl
@[simp] theorem setEvent_dict (n : Nat) : (setEvent n s).dict = s.dict := rfl
@[simp] theorem setEvent_counters (n : Nat) : (setEvent n s).counters = s.counters := rfl
@[simp] theorem setEvent_sessions (n : Nat) : (setEvent n s).sessions = s.sessions := rfl
@[simp] theorem setEvent_queues (n : Nat) : (setEvent n s).queues = s.queues := rfl
@[simp] theorem setEvent_sluice (n : Nat) : (setEvent n s).sluice = s.sluice := rfl
@[simp] theorem setEvent_parts (n : Nat) : (setEvent n s).parts = s.parts := rfl
@[simp] theorem setEvent_resetting (n : Nat) : (setEvent n s).resetting = s.resetting := rfl
@[simp] theorem setEvent_raised (n : Nat) : (setEvent n s).raised = s.raised := rfl
@[simp] theorem setEvent_tiles (n : Nat) : (setEvent n s).tiles = s.tiles := rfl
@[simp] theorem setEvent_clusters (n : Nat) : (setEvent n s).clusters = s.clusters := rfl
@[simp] theorem setEvent_reserve (n : Nat) : (setEvent n s).reserve = s.reserve := rfl
@[simp] theorem setEvent_streams (n : Nat) : (setEvent n s).streams = s.streams := rfl
@[simp] theorem setEvent_pages (n : Nat) : (setEvent n s).pages = s.pages := rfl
@[simp] theorem setEvent_dir (n : Nat) : (setEvent n s).dir = s.dir := rfl
@[simp] theorem setEvent_mem (n : Nat) : (setEvent n s).mem = s.mem := rfl
@[simp] theorem setEvent_map (n : Nat) : (setEvent n s).map = s.map := rfl
@[simp] theorem setEvent_selector (n : Nat) : (setEvent n s).selector = s.selector := rfl
@[simp] theorem setEvent_wellhead (n : Nat) : (setEvent n s).wellhead = s.wellhead := rfl
@[simp] theorem setEvent_fusion (n : Nat) : (setEvent n s).fusion = s.fusion := rfl
@[simp] theorem setEvent_solver (n : Nat) : (setEvent n s).solver = s.solver := rfl
@[simp] theorem setEvent_pump (n : Nat) : (setEvent n s).pump = s.pump := rfl
@[simp] theorem setEvent_power (n : Nat) : (setEvent n s).power = s.power := rfl
@[simp] theorem setEvent_island (n : Nat) : (setEvent n s).island = s.island := rfl
@[simp] theorem setEvent_boot (n : Nat) : (setEvent n s).boot = s.boot := rfl
@[simp] theorem setEvent_pins (n : Nat) : (setEvent n s).pins = s.pins := rfl

/-! ## setCfg -/

@[simp] theorem setCfg_pending (i j : Nat) (v : Bytes) : (setCfg i j v s).pending = s.pending := rfl
@[simp] theorem setCfg_freeCtr (i j : Nat) (v : Bytes) : (setCfg i j v s).freeCtr = s.freeCtr := rfl
@[simp] theorem setCfg_out (i j : Nat) (v : Bytes) : (setCfg i j v s).out = s.out := rfl
@[simp] theorem setCfg_clock (i j : Nat) (v : Bytes) : (setCfg i j v s).clock = s.clock := rfl
@[simp] theorem setCfg_as (i j : Nat) (v : Bytes) : (setCfg i j v s).as_ = s.as_ := rfl
@[simp] theorem setCfg_pps (i j : Nat) (v : Bytes) : (setCfg i j v s).pps = s.pps := rfl
@[simp] theorem setCfg_timers (i j : Nat) (v : Bytes) : (setCfg i j v s).timers = s.timers := rfl
@[simp] theorem setCfg_t1 (i j : Nat) (v : Bytes) : (setCfg i j v s).t1 = s.t1 := rfl
@[simp] theorem setCfg_fabric (i j : Nat) (v : Bytes) : (setCfg i j v s).fabric = s.fabric := rfl
@[simp] theorem setCfg_channels (i j : Nat) (v : Bytes) : (setCfg i j v s).channels = s.channels := rfl
@[simp] theorem setCfg_counters (i j : Nat) (v : Bytes) : (setCfg i j v s).counters = s.counters := rfl
@[simp] theorem setCfg_events (i j : Nat) (v : Bytes) : (setCfg i j v s).events = s.events := rfl
@[simp] theorem setCfg_eventsAt (i j : Nat) (v : Bytes) : (setCfg i j v s).eventsAt = s.eventsAt := rfl
@[simp] theorem setCfg_eventsNew (i j : Nat) (v : Bytes) : (setCfg i j v s).eventsNew = s.eventsNew := rfl
@[simp] theorem setCfg_sessions (i j : Nat) (v : Bytes) : (setCfg i j v s).sessions = s.sessions := rfl
@[simp] theorem setCfg_queues (i j : Nat) (v : Bytes) : (setCfg i j v s).queues = s.queues := rfl
@[simp] theorem setCfg_sluice (i j : Nat) (v : Bytes) : (setCfg i j v s).sluice = s.sluice := rfl
@[simp] theorem setCfg_parts (i j : Nat) (v : Bytes) : (setCfg i j v s).parts = s.parts := rfl
@[simp] theorem setCfg_resetting (i j : Nat) (v : Bytes) : (setCfg i j v s).resetting = s.resetting := rfl
@[simp] theorem setCfg_raised (i j : Nat) (v : Bytes) : (setCfg i j v s).raised = s.raised := rfl
@[simp] theorem setCfg_tiles (i j : Nat) (v : Bytes) : (setCfg i j v s).tiles = s.tiles := rfl
@[simp] theorem setCfg_clusters (i j : Nat) (v : Bytes) : (setCfg i j v s).clusters = s.clusters := rfl
@[simp] theorem setCfg_reserve (i j : Nat) (v : Bytes) : (setCfg i j v s).reserve = s.reserve := rfl
@[simp] theorem setCfg_streams (i j : Nat) (v : Bytes) : (setCfg i j v s).streams = s.streams := rfl
@[simp] theorem setCfg_pages (i j : Nat) (v : Bytes) : (setCfg i j v s).pages = s.pages := rfl
@[simp] theorem setCfg_dir (i j : Nat) (v : Bytes) : (setCfg i j v s).dir = s.dir := rfl
@[simp] theorem setCfg_mem (i j : Nat) (v : Bytes) : (setCfg i j v s).mem = s.mem := rfl
@[simp] theorem setCfg_map (i j : Nat) (v : Bytes) : (setCfg i j v s).map = s.map := rfl
@[simp] theorem setCfg_selector (i j : Nat) (v : Bytes) : (setCfg i j v s).selector = s.selector := rfl
@[simp] theorem setCfg_wellhead (i j : Nat) (v : Bytes) : (setCfg i j v s).wellhead = s.wellhead := rfl
@[simp] theorem setCfg_fusion (i j : Nat) (v : Bytes) : (setCfg i j v s).fusion = s.fusion := rfl
@[simp] theorem setCfg_solver (i j : Nat) (v : Bytes) : (setCfg i j v s).solver = s.solver := rfl
@[simp] theorem setCfg_pump (i j : Nat) (v : Bytes) : (setCfg i j v s).pump = s.pump := rfl
@[simp] theorem setCfg_power (i j : Nat) (v : Bytes) : (setCfg i j v s).power = s.power := rfl
@[simp] theorem setCfg_island (i j : Nat) (v : Bytes) : (setCfg i j v s).island = s.island := rfl
@[simp] theorem setCfg_boot (i j : Nat) (v : Bytes) : (setCfg i j v s).boot = s.boot := rfl
@[simp] theorem setCfg_pins (i j : Nat) (v : Bytes) : (setCfg i j v s).pins = s.pins := rfl

/-! ## emit -/

@[simp] theorem emit_pending (o : OutFrame) : (emit o s).pending = s.pending := rfl
@[simp] theorem emit_freeCtr (o : OutFrame) : (emit o s).freeCtr = s.freeCtr := rfl
@[simp] theorem emit_clock (o : OutFrame) : (emit o s).clock = s.clock := rfl
@[simp] theorem emit_as (o : OutFrame) : (emit o s).as_ = s.as_ := rfl
@[simp] theorem emit_pps (o : OutFrame) : (emit o s).pps = s.pps := rfl
@[simp] theorem emit_timers (o : OutFrame) : (emit o s).timers = s.timers := rfl
@[simp] theorem emit_t1 (o : OutFrame) : (emit o s).t1 = s.t1 := rfl
@[simp] theorem emit_fabric (o : OutFrame) : (emit o s).fabric = s.fabric := rfl
@[simp] theorem emit_channels (o : OutFrame) : (emit o s).channels = s.channels := rfl
@[simp] theorem emit_dict (o : OutFrame) : (emit o s).dict = s.dict := rfl
@[simp] theorem emit_counters (o : OutFrame) : (emit o s).counters = s.counters := rfl
@[simp] theorem emit_events (o : OutFrame) : (emit o s).events = s.events := rfl
@[simp] theorem emit_eventsAt (o : OutFrame) : (emit o s).eventsAt = s.eventsAt := rfl
@[simp] theorem emit_eventsNew (o : OutFrame) : (emit o s).eventsNew = s.eventsNew := rfl
@[simp] theorem emit_sessions (o : OutFrame) : (emit o s).sessions = s.sessions := rfl
@[simp] theorem emit_queues (o : OutFrame) : (emit o s).queues = s.queues := rfl
@[simp] theorem emit_sluice (o : OutFrame) : (emit o s).sluice = s.sluice := rfl
@[simp] theorem emit_parts (o : OutFrame) : (emit o s).parts = s.parts := rfl
@[simp] theorem emit_resetting (o : OutFrame) : (emit o s).resetting = s.resetting := rfl
@[simp] theorem emit_raised (o : OutFrame) : (emit o s).raised = s.raised := rfl
@[simp] theorem emit_tiles (o : OutFrame) : (emit o s).tiles = s.tiles := rfl
@[simp] theorem emit_clusters (o : OutFrame) : (emit o s).clusters = s.clusters := rfl
@[simp] theorem emit_reserve (o : OutFrame) : (emit o s).reserve = s.reserve := rfl
@[simp] theorem emit_streams (o : OutFrame) : (emit o s).streams = s.streams := rfl
@[simp] theorem emit_pages (o : OutFrame) : (emit o s).pages = s.pages := rfl
@[simp] theorem emit_dir (o : OutFrame) : (emit o s).dir = s.dir := rfl
@[simp] theorem emit_mem (o : OutFrame) : (emit o s).mem = s.mem := rfl
@[simp] theorem emit_map (o : OutFrame) : (emit o s).map = s.map := rfl
@[simp] theorem emit_selector (o : OutFrame) : (emit o s).selector = s.selector := rfl
@[simp] theorem emit_wellhead (o : OutFrame) : (emit o s).wellhead = s.wellhead := rfl
@[simp] theorem emit_fusion (o : OutFrame) : (emit o s).fusion = s.fusion := rfl
@[simp] theorem emit_solver (o : OutFrame) : (emit o s).solver = s.solver := rfl
@[simp] theorem emit_pump (o : OutFrame) : (emit o s).pump = s.pump := rfl
@[simp] theorem emit_power (o : OutFrame) : (emit o s).power = s.power := rfl
@[simp] theorem emit_island (o : OutFrame) : (emit o s).island = s.island := rfl
@[simp] theorem emit_boot (o : OutFrame) : (emit o s).boot = s.boot := rfl
@[simp] theorem emit_pins (o : OutFrame) : (emit o s).pins = s.pins := rfl

/-! ## smod -/

@[simp] theorem smod_pending (k : Nat) (f : Session → Session) : (smod k f s).pending = s.pending := rfl
@[simp] theorem smod_freeCtr (k : Nat) (f : Session → Session) : (smod k f s).freeCtr = s.freeCtr := rfl
@[simp] theorem smod_out (k : Nat) (f : Session → Session) : (smod k f s).out = s.out := rfl
@[simp] theorem smod_clock (k : Nat) (f : Session → Session) : (smod k f s).clock = s.clock := rfl
@[simp] theorem smod_as (k : Nat) (f : Session → Session) : (smod k f s).as_ = s.as_ := rfl
@[simp] theorem smod_pps (k : Nat) (f : Session → Session) : (smod k f s).pps = s.pps := rfl
@[simp] theorem smod_timers (k : Nat) (f : Session → Session) : (smod k f s).timers = s.timers := rfl
@[simp] theorem smod_t1 (k : Nat) (f : Session → Session) : (smod k f s).t1 = s.t1 := rfl
@[simp] theorem smod_fabric (k : Nat) (f : Session → Session) : (smod k f s).fabric = s.fabric := rfl
@[simp] theorem smod_channels (k : Nat) (f : Session → Session) : (smod k f s).channels = s.channels := rfl
@[simp] theorem smod_dict (k : Nat) (f : Session → Session) : (smod k f s).dict = s.dict := rfl
@[simp] theorem smod_counters (k : Nat) (f : Session → Session) : (smod k f s).counters = s.counters := rfl
@[simp] theorem smod_events (k : Nat) (f : Session → Session) : (smod k f s).events = s.events := rfl
@[simp] theorem smod_eventsAt (k : Nat) (f : Session → Session) : (smod k f s).eventsAt = s.eventsAt := rfl
@[simp] theorem smod_eventsNew (k : Nat) (f : Session → Session) : (smod k f s).eventsNew = s.eventsNew := rfl
@[simp] theorem smod_queues (k : Nat) (f : Session → Session) : (smod k f s).queues = s.queues := rfl
@[simp] theorem smod_sluice (k : Nat) (f : Session → Session) : (smod k f s).sluice = s.sluice := rfl
@[simp] theorem smod_parts (k : Nat) (f : Session → Session) : (smod k f s).parts = s.parts := rfl
@[simp] theorem smod_resetting (k : Nat) (f : Session → Session) : (smod k f s).resetting = s.resetting := rfl
@[simp] theorem smod_raised (k : Nat) (f : Session → Session) : (smod k f s).raised = s.raised := rfl
@[simp] theorem smod_tiles (k : Nat) (f : Session → Session) : (smod k f s).tiles = s.tiles := rfl
@[simp] theorem smod_clusters (k : Nat) (f : Session → Session) : (smod k f s).clusters = s.clusters := rfl
@[simp] theorem smod_reserve (k : Nat) (f : Session → Session) : (smod k f s).reserve = s.reserve := rfl
@[simp] theorem smod_streams (k : Nat) (f : Session → Session) : (smod k f s).streams = s.streams := rfl
@[simp] theorem smod_pages (k : Nat) (f : Session → Session) : (smod k f s).pages = s.pages := rfl
@[simp] theorem smod_dir (k : Nat) (f : Session → Session) : (smod k f s).dir = s.dir := rfl
@[simp] theorem smod_mem (k : Nat) (f : Session → Session) : (smod k f s).mem = s.mem := rfl
@[simp] theorem smod_map (k : Nat) (f : Session → Session) : (smod k f s).map = s.map := rfl
@[simp] theorem smod_selector (k : Nat) (f : Session → Session) : (smod k f s).selector = s.selector := rfl
@[simp] theorem smod_wellhead (k : Nat) (f : Session → Session) : (smod k f s).wellhead = s.wellhead := rfl
@[simp] theorem smod_fusion (k : Nat) (f : Session → Session) : (smod k f s).fusion = s.fusion := rfl
@[simp] theorem smod_solver (k : Nat) (f : Session → Session) : (smod k f s).solver = s.solver := rfl
@[simp] theorem smod_pump (k : Nat) (f : Session → Session) : (smod k f s).pump = s.pump := rfl
@[simp] theorem smod_power (k : Nat) (f : Session → Session) : (smod k f s).power = s.power := rfl
@[simp] theorem smod_island (k : Nat) (f : Session → Session) : (smod k f s).island = s.island := rfl
@[simp] theorem smod_boot (k : Nat) (f : Session → Session) : (smod k f s).boot = s.boot := rfl
@[simp] theorem smod_pins (k : Nat) (f : Session → Session) : (smod k f s).pins = s.pins := rfl

/-! ## qmod -/

@[simp] theorem qmod_pending (k : Nat) (f : Queue → Queue) : (qmod k f s).pending = s.pending := rfl
@[simp] theorem qmod_freeCtr (k : Nat) (f : Queue → Queue) : (qmod k f s).freeCtr = s.freeCtr := rfl
@[simp] theorem qmod_out (k : Nat) (f : Queue → Queue) : (qmod k f s).out = s.out := rfl
@[simp] theorem qmod_clock (k : Nat) (f : Queue → Queue) : (qmod k f s).clock = s.clock := rfl
@[simp] theorem qmod_as (k : Nat) (f : Queue → Queue) : (qmod k f s).as_ = s.as_ := rfl
@[simp] theorem qmod_pps (k : Nat) (f : Queue → Queue) : (qmod k f s).pps = s.pps := rfl
@[simp] theorem qmod_timers (k : Nat) (f : Queue → Queue) : (qmod k f s).timers = s.timers := rfl
@[simp] theorem qmod_t1 (k : Nat) (f : Queue → Queue) : (qmod k f s).t1 = s.t1 := rfl
@[simp] theorem qmod_fabric (k : Nat) (f : Queue → Queue) : (qmod k f s).fabric = s.fabric := rfl
@[simp] theorem qmod_channels (k : Nat) (f : Queue → Queue) : (qmod k f s).channels = s.channels := rfl
@[simp] theorem qmod_dict (k : Nat) (f : Queue → Queue) : (qmod k f s).dict = s.dict := rfl
@[simp] theorem qmod_counters (k : Nat) (f : Queue → Queue) : (qmod k f s).counters = s.counters := rfl
@[simp] theorem qmod_events (k : Nat) (f : Queue → Queue) : (qmod k f s).events = s.events := rfl
@[simp] theorem qmod_eventsAt (k : Nat) (f : Queue → Queue) : (qmod k f s).eventsAt = s.eventsAt := rfl
@[simp] theorem qmod_eventsNew (k : Nat) (f : Queue → Queue) : (qmod k f s).eventsNew = s.eventsNew := rfl
@[simp] theorem qmod_sessions (k : Nat) (f : Queue → Queue) : (qmod k f s).sessions = s.sessions := rfl
@[simp] theorem qmod_sluice (k : Nat) (f : Queue → Queue) : (qmod k f s).sluice = s.sluice := rfl
@[simp] theorem qmod_parts (k : Nat) (f : Queue → Queue) : (qmod k f s).parts = s.parts := rfl
@[simp] theorem qmod_resetting (k : Nat) (f : Queue → Queue) : (qmod k f s).resetting = s.resetting := rfl
@[simp] theorem qmod_raised (k : Nat) (f : Queue → Queue) : (qmod k f s).raised = s.raised := rfl
@[simp] theorem qmod_tiles (k : Nat) (f : Queue → Queue) : (qmod k f s).tiles = s.tiles := rfl
@[simp] theorem qmod_clusters (k : Nat) (f : Queue → Queue) : (qmod k f s).clusters = s.clusters := rfl
@[simp] theorem qmod_reserve (k : Nat) (f : Queue → Queue) : (qmod k f s).reserve = s.reserve := rfl
@[simp] theorem qmod_streams (k : Nat) (f : Queue → Queue) : (qmod k f s).streams = s.streams := rfl
@[simp] theorem qmod_pages (k : Nat) (f : Queue → Queue) : (qmod k f s).pages = s.pages := rfl
@[simp] theorem qmod_dir (k : Nat) (f : Queue → Queue) : (qmod k f s).dir = s.dir := rfl
@[simp] theorem qmod_mem (k : Nat) (f : Queue → Queue) : (qmod k f s).mem = s.mem := rfl
@[simp] theorem qmod_map (k : Nat) (f : Queue → Queue) : (qmod k f s).map = s.map := rfl
@[simp] theorem qmod_selector (k : Nat) (f : Queue → Queue) : (qmod k f s).selector = s.selector := rfl
@[simp] theorem qmod_wellhead (k : Nat) (f : Queue → Queue) : (qmod k f s).wellhead = s.wellhead := rfl
@[simp] theorem qmod_fusion (k : Nat) (f : Queue → Queue) : (qmod k f s).fusion = s.fusion := rfl
@[simp] theorem qmod_solver (k : Nat) (f : Queue → Queue) : (qmod k f s).solver = s.solver := rfl
@[simp] theorem qmod_pump (k : Nat) (f : Queue → Queue) : (qmod k f s).pump = s.pump := rfl
@[simp] theorem qmod_power (k : Nat) (f : Queue → Queue) : (qmod k f s).power = s.power := rfl
@[simp] theorem qmod_island (k : Nat) (f : Queue → Queue) : (qmod k f s).island = s.island := rfl
@[simp] theorem qmod_boot (k : Nat) (f : Queue → Queue) : (qmod k f s).boot = s.boot := rfl
@[simp] theorem qmod_pins (k : Nat) (f : Queue → Queue) : (qmod k f s).pins = s.pins := rfl

/-! ## pmod -/

@[simp] theorem pmod_pending (k : Nat) (f : Partition → Partition) : (pmod k f s).pending = s.pending := rfl
@[simp] theorem pmod_freeCtr (k : Nat) (f : Partition → Partition) : (pmod k f s).freeCtr = s.freeCtr := rfl
@[simp] theorem pmod_out (k : Nat) (f : Partition → Partition) : (pmod k f s).out = s.out := rfl
@[simp] theorem pmod_clock (k : Nat) (f : Partition → Partition) : (pmod k f s).clock = s.clock := rfl
@[simp] theorem pmod_as (k : Nat) (f : Partition → Partition) : (pmod k f s).as_ = s.as_ := rfl
@[simp] theorem pmod_pps (k : Nat) (f : Partition → Partition) : (pmod k f s).pps = s.pps := rfl
@[simp] theorem pmod_timers (k : Nat) (f : Partition → Partition) : (pmod k f s).timers = s.timers := rfl
@[simp] theorem pmod_t1 (k : Nat) (f : Partition → Partition) : (pmod k f s).t1 = s.t1 := rfl
@[simp] theorem pmod_fabric (k : Nat) (f : Partition → Partition) : (pmod k f s).fabric = s.fabric := rfl
@[simp] theorem pmod_channels (k : Nat) (f : Partition → Partition) : (pmod k f s).channels = s.channels := rfl
@[simp] theorem pmod_dict (k : Nat) (f : Partition → Partition) : (pmod k f s).dict = s.dict := rfl
@[simp] theorem pmod_counters (k : Nat) (f : Partition → Partition) : (pmod k f s).counters = s.counters := rfl
@[simp] theorem pmod_events (k : Nat) (f : Partition → Partition) : (pmod k f s).events = s.events := rfl
@[simp] theorem pmod_eventsAt (k : Nat) (f : Partition → Partition) : (pmod k f s).eventsAt = s.eventsAt := rfl
@[simp] theorem pmod_eventsNew (k : Nat) (f : Partition → Partition) : (pmod k f s).eventsNew = s.eventsNew := rfl
@[simp] theorem pmod_sessions (k : Nat) (f : Partition → Partition) : (pmod k f s).sessions = s.sessions := rfl
@[simp] theorem pmod_queues (k : Nat) (f : Partition → Partition) : (pmod k f s).queues = s.queues := rfl
@[simp] theorem pmod_sluice (k : Nat) (f : Partition → Partition) : (pmod k f s).sluice = s.sluice := rfl
@[simp] theorem pmod_resetting (k : Nat) (f : Partition → Partition) : (pmod k f s).resetting = s.resetting := rfl
@[simp] theorem pmod_raised (k : Nat) (f : Partition → Partition) : (pmod k f s).raised = s.raised := rfl
@[simp] theorem pmod_tiles (k : Nat) (f : Partition → Partition) : (pmod k f s).tiles = s.tiles := rfl
@[simp] theorem pmod_clusters (k : Nat) (f : Partition → Partition) : (pmod k f s).clusters = s.clusters := rfl
@[simp] theorem pmod_reserve (k : Nat) (f : Partition → Partition) : (pmod k f s).reserve = s.reserve := rfl
@[simp] theorem pmod_streams (k : Nat) (f : Partition → Partition) : (pmod k f s).streams = s.streams := rfl
@[simp] theorem pmod_pages (k : Nat) (f : Partition → Partition) : (pmod k f s).pages = s.pages := rfl
@[simp] theorem pmod_dir (k : Nat) (f : Partition → Partition) : (pmod k f s).dir = s.dir := rfl
@[simp] theorem pmod_mem (k : Nat) (f : Partition → Partition) : (pmod k f s).mem = s.mem := rfl
@[simp] theorem pmod_map (k : Nat) (f : Partition → Partition) : (pmod k f s).map = s.map := rfl
@[simp] theorem pmod_selector (k : Nat) (f : Partition → Partition) : (pmod k f s).selector = s.selector := rfl
@[simp] theorem pmod_wellhead (k : Nat) (f : Partition → Partition) : (pmod k f s).wellhead = s.wellhead := rfl
@[simp] theorem pmod_fusion (k : Nat) (f : Partition → Partition) : (pmod k f s).fusion = s.fusion := rfl
@[simp] theorem pmod_solver (k : Nat) (f : Partition → Partition) : (pmod k f s).solver = s.solver := rfl
@[simp] theorem pmod_pump (k : Nat) (f : Partition → Partition) : (pmod k f s).pump = s.pump := rfl
@[simp] theorem pmod_power (k : Nat) (f : Partition → Partition) : (pmod k f s).power = s.power := rfl
@[simp] theorem pmod_island (k : Nat) (f : Partition → Partition) : (pmod k f s).island = s.island := rfl
@[simp] theorem pmod_boot (k : Nat) (f : Partition → Partition) : (pmod k f s).boot = s.boot := rfl
@[simp] theorem pmod_pins (k : Nat) (f : Partition → Partition) : (pmod k f s).pins = s.pins := rfl

/-! ## tmod -/

@[simp] theorem tmod_pending (k : Nat) (f : Tile → Tile) : (tmod k f s).pending = s.pending := rfl
@[simp] theorem tmod_freeCtr (k : Nat) (f : Tile → Tile) : (tmod k f s).freeCtr = s.freeCtr := rfl
@[simp] theorem tmod_out (k : Nat) (f : Tile → Tile) : (tmod k f s).out = s.out := rfl
@[simp] theorem tmod_clock (k : Nat) (f : Tile → Tile) : (tmod k f s).clock = s.clock := rfl
@[simp] theorem tmod_as (k : Nat) (f : Tile → Tile) : (tmod k f s).as_ = s.as_ := rfl
@[simp] theorem tmod_pps (k : Nat) (f : Tile → Tile) : (tmod k f s).pps = s.pps := rfl
@[simp] theorem tmod_timers (k : Nat) (f : Tile → Tile) : (tmod k f s).timers = s.timers := rfl
@[simp] theorem tmod_t1 (k : Nat) (f : Tile → Tile) : (tmod k f s).t1 = s.t1 := rfl
@[simp] theorem tmod_fabric (k : Nat) (f : Tile → Tile) : (tmod k f s).fabric = s.fabric := rfl
@[simp] theorem tmod_channels (k : Nat) (f : Tile → Tile) : (tmod k f s).channels = s.channels := rfl
@[simp] theorem tmod_dict (k : Nat) (f : Tile → Tile) : (tmod k f s).dict = s.dict := rfl
@[simp] theorem tmod_counters (k : Nat) (f : Tile → Tile) : (tmod k f s).counters = s.counters := rfl
@[simp] theorem tmod_events (k : Nat) (f : Tile → Tile) : (tmod k f s).events = s.events := rfl
@[simp] theorem tmod_eventsAt (k : Nat) (f : Tile → Tile) : (tmod k f s).eventsAt = s.eventsAt := rfl
@[simp] theorem tmod_eventsNew (k : Nat) (f : Tile → Tile) : (tmod k f s).eventsNew = s.eventsNew := rfl
@[simp] theorem tmod_sessions (k : Nat) (f : Tile → Tile) : (tmod k f s).sessions = s.sessions := rfl
@[simp] theorem tmod_queues (k : Nat) (f : Tile → Tile) : (tmod k f s).queues = s.queues := rfl
@[simp] theorem tmod_sluice (k : Nat) (f : Tile → Tile) : (tmod k f s).sluice = s.sluice := rfl
@[simp] theorem tmod_parts (k : Nat) (f : Tile → Tile) : (tmod k f s).parts = s.parts := rfl
@[simp] theorem tmod_resetting (k : Nat) (f : Tile → Tile) : (tmod k f s).resetting = s.resetting := rfl
@[simp] theorem tmod_raised (k : Nat) (f : Tile → Tile) : (tmod k f s).raised = s.raised := rfl
@[simp] theorem tmod_clusters (k : Nat) (f : Tile → Tile) : (tmod k f s).clusters = s.clusters := rfl
@[simp] theorem tmod_reserve (k : Nat) (f : Tile → Tile) : (tmod k f s).reserve = s.reserve := rfl
@[simp] theorem tmod_streams (k : Nat) (f : Tile → Tile) : (tmod k f s).streams = s.streams := rfl
@[simp] theorem tmod_pages (k : Nat) (f : Tile → Tile) : (tmod k f s).pages = s.pages := rfl
@[simp] theorem tmod_dir (k : Nat) (f : Tile → Tile) : (tmod k f s).dir = s.dir := rfl
@[simp] theorem tmod_mem (k : Nat) (f : Tile → Tile) : (tmod k f s).mem = s.mem := rfl
@[simp] theorem tmod_map (k : Nat) (f : Tile → Tile) : (tmod k f s).map = s.map := rfl
@[simp] theorem tmod_selector (k : Nat) (f : Tile → Tile) : (tmod k f s).selector = s.selector := rfl
@[simp] theorem tmod_wellhead (k : Nat) (f : Tile → Tile) : (tmod k f s).wellhead = s.wellhead := rfl
@[simp] theorem tmod_fusion (k : Nat) (f : Tile → Tile) : (tmod k f s).fusion = s.fusion := rfl
@[simp] theorem tmod_solver (k : Nat) (f : Tile → Tile) : (tmod k f s).solver = s.solver := rfl
@[simp] theorem tmod_pump (k : Nat) (f : Tile → Tile) : (tmod k f s).pump = s.pump := rfl
@[simp] theorem tmod_power (k : Nat) (f : Tile → Tile) : (tmod k f s).power = s.power := rfl
@[simp] theorem tmod_island (k : Nat) (f : Tile → Tile) : (tmod k f s).island = s.island := rfl
@[simp] theorem tmod_boot (k : Nat) (f : Tile → Tile) : (tmod k f s).boot = s.boot := rfl
@[simp] theorem tmod_pins (k : Nat) (f : Tile → Tile) : (tmod k f s).pins = s.pins := rfl

/-! ## cmod -/

@[simp] theorem cmod_pending (k : Nat) (f : Cluster → Cluster) : (cmod k f s).pending = s.pending := rfl
@[simp] theorem cmod_freeCtr (k : Nat) (f : Cluster → Cluster) : (cmod k f s).freeCtr = s.freeCtr := rfl
@[simp] theorem cmod_out (k : Nat) (f : Cluster → Cluster) : (cmod k f s).out = s.out := rfl
@[simp] theorem cmod_clock (k : Nat) (f : Cluster → Cluster) : (cmod k f s).clock = s.clock := rfl
@[simp] theorem cmod_as (k : Nat) (f : Cluster → Cluster) : (cmod k f s).as_ = s.as_ := rfl
@[simp] theorem cmod_pps (k : Nat) (f : Cluster → Cluster) : (cmod k f s).pps = s.pps := rfl
@[simp] theorem cmod_timers (k : Nat) (f : Cluster → Cluster) : (cmod k f s).timers = s.timers := rfl
@[simp] theorem cmod_t1 (k : Nat) (f : Cluster → Cluster) : (cmod k f s).t1 = s.t1 := rfl
@[simp] theorem cmod_fabric (k : Nat) (f : Cluster → Cluster) : (cmod k f s).fabric = s.fabric := rfl
@[simp] theorem cmod_channels (k : Nat) (f : Cluster → Cluster) : (cmod k f s).channels = s.channels := rfl
@[simp] theorem cmod_dict (k : Nat) (f : Cluster → Cluster) : (cmod k f s).dict = s.dict := rfl
@[simp] theorem cmod_counters (k : Nat) (f : Cluster → Cluster) : (cmod k f s).counters = s.counters := rfl
@[simp] theorem cmod_events (k : Nat) (f : Cluster → Cluster) : (cmod k f s).events = s.events := rfl
@[simp] theorem cmod_eventsAt (k : Nat) (f : Cluster → Cluster) : (cmod k f s).eventsAt = s.eventsAt := rfl
@[simp] theorem cmod_eventsNew (k : Nat) (f : Cluster → Cluster) : (cmod k f s).eventsNew = s.eventsNew := rfl
@[simp] theorem cmod_sessions (k : Nat) (f : Cluster → Cluster) : (cmod k f s).sessions = s.sessions := rfl
@[simp] theorem cmod_queues (k : Nat) (f : Cluster → Cluster) : (cmod k f s).queues = s.queues := rfl
@[simp] theorem cmod_sluice (k : Nat) (f : Cluster → Cluster) : (cmod k f s).sluice = s.sluice := rfl
@[simp] theorem cmod_parts (k : Nat) (f : Cluster → Cluster) : (cmod k f s).parts = s.parts := rfl
@[simp] theorem cmod_resetting (k : Nat) (f : Cluster → Cluster) : (cmod k f s).resetting = s.resetting := rfl
@[simp] theorem cmod_raised (k : Nat) (f : Cluster → Cluster) : (cmod k f s).raised = s.raised := rfl
@[simp] theorem cmod_tiles (k : Nat) (f : Cluster → Cluster) : (cmod k f s).tiles = s.tiles := rfl
@[simp] theorem cmod_reserve (k : Nat) (f : Cluster → Cluster) : (cmod k f s).reserve = s.reserve := rfl
@[simp] theorem cmod_streams (k : Nat) (f : Cluster → Cluster) : (cmod k f s).streams = s.streams := rfl
@[simp] theorem cmod_pages (k : Nat) (f : Cluster → Cluster) : (cmod k f s).pages = s.pages := rfl
@[simp] theorem cmod_dir (k : Nat) (f : Cluster → Cluster) : (cmod k f s).dir = s.dir := rfl
@[simp] theorem cmod_mem (k : Nat) (f : Cluster → Cluster) : (cmod k f s).mem = s.mem := rfl
@[simp] theorem cmod_map (k : Nat) (f : Cluster → Cluster) : (cmod k f s).map = s.map := rfl
@[simp] theorem cmod_selector (k : Nat) (f : Cluster → Cluster) : (cmod k f s).selector = s.selector := rfl
@[simp] theorem cmod_wellhead (k : Nat) (f : Cluster → Cluster) : (cmod k f s).wellhead = s.wellhead := rfl
@[simp] theorem cmod_fusion (k : Nat) (f : Cluster → Cluster) : (cmod k f s).fusion = s.fusion := rfl
@[simp] theorem cmod_solver (k : Nat) (f : Cluster → Cluster) : (cmod k f s).solver = s.solver := rfl
@[simp] theorem cmod_pump (k : Nat) (f : Cluster → Cluster) : (cmod k f s).pump = s.pump := rfl
@[simp] theorem cmod_power (k : Nat) (f : Cluster → Cluster) : (cmod k f s).power = s.power := rfl
@[simp] theorem cmod_island (k : Nat) (f : Cluster → Cluster) : (cmod k f s).island = s.island := rfl
@[simp] theorem cmod_boot (k : Nat) (f : Cluster → Cluster) : (cmod k f s).boot = s.boot := rfl
@[simp] theorem cmod_pins (k : Nat) (f : Cluster → Cluster) : (cmod k f s).pins = s.pins := rfl

/-! ## t1mod -/

@[simp] theorem t1mod_pending (k : Nat) (f : T1Port → T1Port) : (t1mod k f s).pending = s.pending := rfl
@[simp] theorem t1mod_freeCtr (k : Nat) (f : T1Port → T1Port) : (t1mod k f s).freeCtr = s.freeCtr := rfl
@[simp] theorem t1mod_out (k : Nat) (f : T1Port → T1Port) : (t1mod k f s).out = s.out := rfl
@[simp] theorem t1mod_clock (k : Nat) (f : T1Port → T1Port) : (t1mod k f s).clock = s.clock := rfl
@[simp] theorem t1mod_as (k : Nat) (f : T1Port → T1Port) : (t1mod k f s).as_ = s.as_ := rfl
@[simp] theorem t1mod_pps (k : Nat) (f : T1Port → T1Port) : (t1mod k f s).pps = s.pps := rfl
@[simp] theorem t1mod_timers (k : Nat) (f : T1Port → T1Port) : (t1mod k f s).timers = s.timers := rfl
@[simp] theorem t1mod_fabric (k : Nat) (f : T1Port → T1Port) : (t1mod k f s).fabric = s.fabric := rfl
@[simp] theorem t1mod_channels (k : Nat) (f : T1Port → T1Port) : (t1mod k f s).channels = s.channels := rfl
@[simp] theorem t1mod_dict (k : Nat) (f : T1Port → T1Port) : (t1mod k f s).dict = s.dict := rfl
@[simp] theorem t1mod_counters (k : Nat) (f : T1Port → T1Port) : (t1mod k f s).counters = s.counters := rfl
@[simp] theorem t1mod_events (k : Nat) (f : T1Port → T1Port) : (t1mod k f s).events = s.events := rfl
@[simp] theorem t1mod_eventsAt (k : Nat) (f : T1Port → T1Port) : (t1mod k f s).eventsAt = s.eventsAt := rfl
@[simp] theorem t1mod_eventsNew (k : Nat) (f : T1Port → T1Port) : (t1mod k f s).eventsNew = s.eventsNew := rfl
@[simp] theorem t1mod_sessions (k : Nat) (f : T1Port → T1Port) : (t1mod k f s).sessions = s.sessions := rfl
@[simp] theorem t1mod_queues (k : Nat) (f : T1Port → T1Port) : (t1mod k f s).queues = s.queues := rfl
@[simp] theorem t1mod_sluice (k : Nat) (f : T1Port → T1Port) : (t1mod k f s).sluice = s.sluice := rfl
@[simp] theorem t1mod_parts (k : Nat) (f : T1Port → T1Port) : (t1mod k f s).parts = s.parts := rfl
@[simp] theorem t1mod_resetting (k : Nat) (f : T1Port → T1Port) : (t1mod k f s).resetting = s.resetting := rfl
@[simp] theorem t1mod_raised (k : Nat) (f : T1Port → T1Port) : (t1mod k f s).raised = s.raised := rfl
@[simp] theorem t1mod_tiles (k : Nat) (f : T1Port → T1Port) : (t1mod k f s).tiles = s.tiles := rfl
@[simp] theorem t1mod_clusters (k : Nat) (f : T1Port → T1Port) : (t1mod k f s).clusters = s.clusters := rfl
@[simp] theorem t1mod_reserve (k : Nat) (f : T1Port → T1Port) : (t1mod k f s).reserve = s.reserve := rfl
@[simp] theorem t1mod_streams (k : Nat) (f : T1Port → T1Port) : (t1mod k f s).streams = s.streams := rfl
@[simp] theorem t1mod_pages (k : Nat) (f : T1Port → T1Port) : (t1mod k f s).pages = s.pages := rfl
@[simp] theorem t1mod_dir (k : Nat) (f : T1Port → T1Port) : (t1mod k f s).dir = s.dir := rfl
@[simp] theorem t1mod_mem (k : Nat) (f : T1Port → T1Port) : (t1mod k f s).mem = s.mem := rfl
@[simp] theorem t1mod_map (k : Nat) (f : T1Port → T1Port) : (t1mod k f s).map = s.map := rfl
@[simp] theorem t1mod_selector (k : Nat) (f : T1Port → T1Port) : (t1mod k f s).selector = s.selector := rfl
@[simp] theorem t1mod_wellhead (k : Nat) (f : T1Port → T1Port) : (t1mod k f s).wellhead = s.wellhead := rfl
@[simp] theorem t1mod_fusion (k : Nat) (f : T1Port → T1Port) : (t1mod k f s).fusion = s.fusion := rfl
@[simp] theorem t1mod_solver (k : Nat) (f : T1Port → T1Port) : (t1mod k f s).solver = s.solver := rfl
@[simp] theorem t1mod_pump (k : Nat) (f : T1Port → T1Port) : (t1mod k f s).pump = s.pump := rfl
@[simp] theorem t1mod_power (k : Nat) (f : T1Port → T1Port) : (t1mod k f s).power = s.power := rfl
@[simp] theorem t1mod_island (k : Nat) (f : T1Port → T1Port) : (t1mod k f s).island = s.island := rfl
@[simp] theorem t1mod_boot (k : Nat) (f : T1Port → T1Port) : (t1mod k f s).boot = s.boot := rfl
@[simp] theorem t1mod_pins (k : Nat) (f : T1Port → T1Port) : (t1mod k f s).pins = s.pins := rfl

/-! ## fabmod -/

@[simp] theorem fabmod_pending (k : Nat) (f : FabricPort → FabricPort) : (fabmod k f s).pending = s.pending := rfl
@[simp] theorem fabmod_freeCtr (k : Nat) (f : FabricPort → FabricPort) : (fabmod k f s).freeCtr = s.freeCtr := rfl
@[simp] theorem fabmod_out (k : Nat) (f : FabricPort → FabricPort) : (fabmod k f s).out = s.out := rfl
@[simp] theorem fabmod_clock (k : Nat) (f : FabricPort → FabricPort) : (fabmod k f s).clock = s.clock := rfl
@[simp] theorem fabmod_as (k : Nat) (f : FabricPort → FabricPort) : (fabmod k f s).as_ = s.as_ := rfl
@[simp] theorem fabmod_pps (k : Nat) (f : FabricPort → FabricPort) : (fabmod k f s).pps = s.pps := rfl
@[simp] theorem fabmod_timers (k : Nat) (f : FabricPort → FabricPort) : (fabmod k f s).timers = s.timers := rfl
@[simp] theorem fabmod_t1 (k : Nat) (f : FabricPort → FabricPort) : (fabmod k f s).t1 = s.t1 := rfl
@[simp] theorem fabmod_channels (k : Nat) (f : FabricPort → FabricPort) : (fabmod k f s).channels = s.channels := rfl
@[simp] theorem fabmod_dict (k : Nat) (f : FabricPort → FabricPort) : (fabmod k f s).dict = s.dict := rfl
@[simp] theorem fabmod_counters (k : Nat) (f : FabricPort → FabricPort) : (fabmod k f s).counters = s.counters := rfl
@[simp] theorem fabmod_events (k : Nat) (f : FabricPort → FabricPort) : (fabmod k f s).events = s.events := rfl
@[simp] theorem fabmod_eventsAt (k : Nat) (f : FabricPort → FabricPort) : (fabmod k f s).eventsAt = s.eventsAt := rfl
@[simp] theorem fabmod_eventsNew (k : Nat) (f : FabricPort → FabricPort) : (fabmod k f s).eventsNew = s.eventsNew := rfl
@[simp] theorem fabmod_sessions (k : Nat) (f : FabricPort → FabricPort) : (fabmod k f s).sessions = s.sessions := rfl
@[simp] theorem fabmod_queues (k : Nat) (f : FabricPort → FabricPort) : (fabmod k f s).queues = s.queues := rfl
@[simp] theorem fabmod_sluice (k : Nat) (f : FabricPort → FabricPort) : (fabmod k f s).sluice = s.sluice := rfl
@[simp] theorem fabmod_parts (k : Nat) (f : FabricPort → FabricPort) : (fabmod k f s).parts = s.parts := rfl
@[simp] theorem fabmod_resetting (k : Nat) (f : FabricPort → FabricPort) : (fabmod k f s).resetting = s.resetting := rfl
@[simp] theorem fabmod_raised (k : Nat) (f : FabricPort → FabricPort) : (fabmod k f s).raised = s.raised := rfl
@[simp] theorem fabmod_tiles (k : Nat) (f : FabricPort → FabricPort) : (fabmod k f s).tiles = s.tiles := rfl
@[simp] theorem fabmod_clusters (k : Nat) (f : FabricPort → FabricPort) : (fabmod k f s).clusters = s.clusters := rfl
@[simp] theorem fabmod_reserve (k : Nat) (f : FabricPort → FabricPort) : (fabmod k f s).reserve = s.reserve := rfl
@[simp] theorem fabmod_streams (k : Nat) (f : FabricPort → FabricPort) : (fabmod k f s).streams = s.streams := rfl
@[simp] theorem fabmod_pages (k : Nat) (f : FabricPort → FabricPort) : (fabmod k f s).pages = s.pages := rfl
@[simp] theorem fabmod_dir (k : Nat) (f : FabricPort → FabricPort) : (fabmod k f s).dir = s.dir := rfl
@[simp] theorem fabmod_mem (k : Nat) (f : FabricPort → FabricPort) : (fabmod k f s).mem = s.mem := rfl
@[simp] theorem fabmod_map (k : Nat) (f : FabricPort → FabricPort) : (fabmod k f s).map = s.map := rfl
@[simp] theorem fabmod_selector (k : Nat) (f : FabricPort → FabricPort) : (fabmod k f s).selector = s.selector := rfl
@[simp] theorem fabmod_wellhead (k : Nat) (f : FabricPort → FabricPort) : (fabmod k f s).wellhead = s.wellhead := rfl
@[simp] theorem fabmod_fusion (k : Nat) (f : FabricPort → FabricPort) : (fabmod k f s).fusion = s.fusion := rfl
@[simp] theorem fabmod_solver (k : Nat) (f : FabricPort → FabricPort) : (fabmod k f s).solver = s.solver := rfl
@[simp] theorem fabmod_pump (k : Nat) (f : FabricPort → FabricPort) : (fabmod k f s).pump = s.pump := rfl
@[simp] theorem fabmod_power (k : Nat) (f : FabricPort → FabricPort) : (fabmod k f s).power = s.power := rfl
@[simp] theorem fabmod_island (k : Nat) (f : FabricPort → FabricPort) : (fabmod k f s).island = s.island := rfl
@[simp] theorem fabmod_boot (k : Nat) (f : FabricPort → FabricPort) : (fabmod k f s).boot = s.boot := rfl
@[simp] theorem fabmod_pins (k : Nat) (f : FabricPort → FabricPort) : (fabmod k f s).pins = s.pins := rfl

/-! ## chanmod -/

@[simp] theorem chanmod_pending (k : Nat) (f : Channel → Channel) : (chanmod k f s).pending = s.pending := rfl
@[simp] theorem chanmod_freeCtr (k : Nat) (f : Channel → Channel) : (chanmod k f s).freeCtr = s.freeCtr := rfl
@[simp] theorem chanmod_out (k : Nat) (f : Channel → Channel) : (chanmod k f s).out = s.out := rfl
@[simp] theorem chanmod_clock (k : Nat) (f : Channel → Channel) : (chanmod k f s).clock = s.clock := rfl
@[simp] theorem chanmod_as (k : Nat) (f : Channel → Channel) : (chanmod k f s).as_ = s.as_ := rfl
@[simp] theorem chanmod_pps (k : Nat) (f : Channel → Channel) : (chanmod k f s).pps = s.pps := rfl
@[simp] theorem chanmod_timers (k : Nat) (f : Channel → Channel) : (chanmod k f s).timers = s.timers := rfl
@[simp] theorem chanmod_t1 (k : Nat) (f : Channel → Channel) : (chanmod k f s).t1 = s.t1 := rfl
@[simp] theorem chanmod_fabric (k : Nat) (f : Channel → Channel) : (chanmod k f s).fabric = s.fabric := rfl
@[simp] theorem chanmod_dict (k : Nat) (f : Channel → Channel) : (chanmod k f s).dict = s.dict := rfl
@[simp] theorem chanmod_counters (k : Nat) (f : Channel → Channel) : (chanmod k f s).counters = s.counters := rfl
@[simp] theorem chanmod_events (k : Nat) (f : Channel → Channel) : (chanmod k f s).events = s.events := rfl
@[simp] theorem chanmod_eventsAt (k : Nat) (f : Channel → Channel) : (chanmod k f s).eventsAt = s.eventsAt := rfl
@[simp] theorem chanmod_eventsNew (k : Nat) (f : Channel → Channel) : (chanmod k f s).eventsNew = s.eventsNew := rfl
@[simp] theorem chanmod_sessions (k : Nat) (f : Channel → Channel) : (chanmod k f s).sessions = s.sessions := rfl
@[simp] theorem chanmod_queues (k : Nat) (f : Channel → Channel) : (chanmod k f s).queues = s.queues := rfl
@[simp] theorem chanmod_sluice (k : Nat) (f : Channel → Channel) : (chanmod k f s).sluice = s.sluice := rfl
@[simp] theorem chanmod_parts (k : Nat) (f : Channel → Channel) : (chanmod k f s).parts = s.parts := rfl
@[simp] theorem chanmod_resetting (k : Nat) (f : Channel → Channel) : (chanmod k f s).resetting = s.resetting := rfl
@[simp] theorem chanmod_raised (k : Nat) (f : Channel → Channel) : (chanmod k f s).raised = s.raised := rfl
@[simp] theorem chanmod_tiles (k : Nat) (f : Channel → Channel) : (chanmod k f s).tiles = s.tiles := rfl
@[simp] theorem chanmod_clusters (k : Nat) (f : Channel → Channel) : (chanmod k f s).clusters = s.clusters := rfl
@[simp] theorem chanmod_reserve (k : Nat) (f : Channel → Channel) : (chanmod k f s).reserve = s.reserve := rfl
@[simp] theorem chanmod_streams (k : Nat) (f : Channel → Channel) : (chanmod k f s).streams = s.streams := rfl
@[simp] theorem chanmod_pages (k : Nat) (f : Channel → Channel) : (chanmod k f s).pages = s.pages := rfl
@[simp] theorem chanmod_dir (k : Nat) (f : Channel → Channel) : (chanmod k f s).dir = s.dir := rfl
@[simp] theorem chanmod_mem (k : Nat) (f : Channel → Channel) : (chanmod k f s).mem = s.mem := rfl
@[simp] theorem chanmod_map (k : Nat) (f : Channel → Channel) : (chanmod k f s).map = s.map := rfl
@[simp] theorem chanmod_selector (k : Nat) (f : Channel → Channel) : (chanmod k f s).selector = s.selector := rfl
@[simp] theorem chanmod_wellhead (k : Nat) (f : Channel → Channel) : (chanmod k f s).wellhead = s.wellhead := rfl
@[simp] theorem chanmod_fusion (k : Nat) (f : Channel → Channel) : (chanmod k f s).fusion = s.fusion := rfl
@[simp] theorem chanmod_solver (k : Nat) (f : Channel → Channel) : (chanmod k f s).solver = s.solver := rfl
@[simp] theorem chanmod_pump (k : Nat) (f : Channel → Channel) : (chanmod k f s).pump = s.pump := rfl
@[simp] theorem chanmod_power (k : Nat) (f : Channel → Channel) : (chanmod k f s).power = s.power := rfl
@[simp] theorem chanmod_island (k : Nat) (f : Channel → Channel) : (chanmod k f s).island = s.island := rfl
@[simp] theorem chanmod_boot (k : Nat) (f : Channel → Channel) : (chanmod k f s).boot = s.boot := rfl
@[simp] theorem chanmod_pins (k : Nat) (f : Channel → Channel) : (chanmod k f s).pins = s.pins := rfl

/-! ## jmod -/

@[simp] theorem jmod_pending (g : BitVec 32) (f : Job → Job) : (jmod g f s).pending = s.pending := rfl
@[simp] theorem jmod_freeCtr (g : BitVec 32) (f : Job → Job) : (jmod g f s).freeCtr = s.freeCtr := rfl
@[simp] theorem jmod_out (g : BitVec 32) (f : Job → Job) : (jmod g f s).out = s.out := rfl
@[simp] theorem jmod_clock (g : BitVec 32) (f : Job → Job) : (jmod g f s).clock = s.clock := rfl
@[simp] theorem jmod_as (g : BitVec 32) (f : Job → Job) : (jmod g f s).as_ = s.as_ := rfl
@[simp] theorem jmod_pps (g : BitVec 32) (f : Job → Job) : (jmod g f s).pps = s.pps := rfl
@[simp] theorem jmod_timers (g : BitVec 32) (f : Job → Job) : (jmod g f s).timers = s.timers := rfl
@[simp] theorem jmod_t1 (g : BitVec 32) (f : Job → Job) : (jmod g f s).t1 = s.t1 := rfl
@[simp] theorem jmod_fabric (g : BitVec 32) (f : Job → Job) : (jmod g f s).fabric = s.fabric := rfl
@[simp] theorem jmod_channels (g : BitVec 32) (f : Job → Job) : (jmod g f s).channels = s.channels := rfl
@[simp] theorem jmod_dict (g : BitVec 32) (f : Job → Job) : (jmod g f s).dict = s.dict := rfl
@[simp] theorem jmod_counters (g : BitVec 32) (f : Job → Job) : (jmod g f s).counters = s.counters := rfl
@[simp] theorem jmod_events (g : BitVec 32) (f : Job → Job) : (jmod g f s).events = s.events := rfl
@[simp] theorem jmod_eventsAt (g : BitVec 32) (f : Job → Job) : (jmod g f s).eventsAt = s.eventsAt := rfl
@[simp] theorem jmod_eventsNew (g : BitVec 32) (f : Job → Job) : (jmod g f s).eventsNew = s.eventsNew := rfl
@[simp] theorem jmod_sessions (g : BitVec 32) (f : Job → Job) : (jmod g f s).sessions = s.sessions := rfl
@[simp] theorem jmod_queues (g : BitVec 32) (f : Job → Job) : (jmod g f s).queues = s.queues := rfl
@[simp] theorem jmod_parts (g : BitVec 32) (f : Job → Job) : (jmod g f s).parts = s.parts := rfl
@[simp] theorem jmod_resetting (g : BitVec 32) (f : Job → Job) : (jmod g f s).resetting = s.resetting := rfl
@[simp] theorem jmod_raised (g : BitVec 32) (f : Job → Job) : (jmod g f s).raised = s.raised := rfl
@[simp] theorem jmod_tiles (g : BitVec 32) (f : Job → Job) : (jmod g f s).tiles = s.tiles := rfl
@[simp] theorem jmod_clusters (g : BitVec 32) (f : Job → Job) : (jmod g f s).clusters = s.clusters := rfl
@[simp] theorem jmod_reserve (g : BitVec 32) (f : Job → Job) : (jmod g f s).reserve = s.reserve := rfl
@[simp] theorem jmod_streams (g : BitVec 32) (f : Job → Job) : (jmod g f s).streams = s.streams := rfl
@[simp] theorem jmod_pages (g : BitVec 32) (f : Job → Job) : (jmod g f s).pages = s.pages := rfl
@[simp] theorem jmod_dir (g : BitVec 32) (f : Job → Job) : (jmod g f s).dir = s.dir := rfl
@[simp] theorem jmod_mem (g : BitVec 32) (f : Job → Job) : (jmod g f s).mem = s.mem := rfl
@[simp] theorem jmod_map (g : BitVec 32) (f : Job → Job) : (jmod g f s).map = s.map := rfl
@[simp] theorem jmod_selector (g : BitVec 32) (f : Job → Job) : (jmod g f s).selector = s.selector := rfl
@[simp] theorem jmod_wellhead (g : BitVec 32) (f : Job → Job) : (jmod g f s).wellhead = s.wellhead := rfl
@[simp] theorem jmod_fusion (g : BitVec 32) (f : Job → Job) : (jmod g f s).fusion = s.fusion := rfl
@[simp] theorem jmod_solver (g : BitVec 32) (f : Job → Job) : (jmod g f s).solver = s.solver := rfl
@[simp] theorem jmod_pump (g : BitVec 32) (f : Job → Job) : (jmod g f s).pump = s.pump := rfl
@[simp] theorem jmod_power (g : BitVec 32) (f : Job → Job) : (jmod g f s).power = s.power := rfl
@[simp] theorem jmod_island (g : BitVec 32) (f : Job → Job) : (jmod g f s).island = s.island := rfl
@[simp] theorem jmod_boot (g : BitVec 32) (f : Job → Job) : (jmod g f s).boot = s.boot := rfl
@[simp] theorem jmod_pins (g : BitVec 32) (f : Job → Job) : (jmod g f s).pins = s.pins := rfl

/-! ## jdel -/

@[simp] theorem jdel_pending (g : BitVec 32) : (jdel g s).pending = s.pending := rfl
@[simp] theorem jdel_freeCtr (g : BitVec 32) : (jdel g s).freeCtr = s.freeCtr := rfl
@[simp] theorem jdel_out (g : BitVec 32) : (jdel g s).out = s.out := rfl
@[simp] theorem jdel_clock (g : BitVec 32) : (jdel g s).clock = s.clock := rfl
@[simp] theorem jdel_as (g : BitVec 32) : (jdel g s).as_ = s.as_ := rfl
@[simp] theorem jdel_pps (g : BitVec 32) : (jdel g s).pps = s.pps := rfl
@[simp] theorem jdel_timers (g : BitVec 32) : (jdel g s).timers = s.timers := rfl
@[simp] theorem jdel_t1 (g : BitVec 32) : (jdel g s).t1 = s.t1 := rfl
@[simp] theorem jdel_fabric (g : BitVec 32) : (jdel g s).fabric = s.fabric := rfl
@[simp] theorem jdel_channels (g : BitVec 32) : (jdel g s).channels = s.channels := rfl
@[simp] theorem jdel_dict (g : BitVec 32) : (jdel g s).dict = s.dict := rfl
@[simp] theorem jdel_counters (g : BitVec 32) : (jdel g s).counters = s.counters := rfl
@[simp] theorem jdel_events (g : BitVec 32) : (jdel g s).events = s.events := rfl
@[simp] theorem jdel_eventsAt (g : BitVec 32) : (jdel g s).eventsAt = s.eventsAt := rfl
@[simp] theorem jdel_eventsNew (g : BitVec 32) : (jdel g s).eventsNew = s.eventsNew := rfl
@[simp] theorem jdel_sessions (g : BitVec 32) : (jdel g s).sessions = s.sessions := rfl
@[simp] theorem jdel_queues (g : BitVec 32) : (jdel g s).queues = s.queues := rfl
@[simp] theorem jdel_parts (g : BitVec 32) : (jdel g s).parts = s.parts := rfl
@[simp] theorem jdel_resetting (g : BitVec 32) : (jdel g s).resetting = s.resetting := rfl
@[simp] theorem jdel_raised (g : BitVec 32) : (jdel g s).raised = s.raised := rfl
@[simp] theorem jdel_tiles (g : BitVec 32) : (jdel g s).tiles = s.tiles := rfl
@[simp] theorem jdel_clusters (g : BitVec 32) : (jdel g s).clusters = s.clusters := rfl
@[simp] theorem jdel_reserve (g : BitVec 32) : (jdel g s).reserve = s.reserve := rfl
@[simp] theorem jdel_streams (g : BitVec 32) : (jdel g s).streams = s.streams := rfl
@[simp] theorem jdel_pages (g : BitVec 32) : (jdel g s).pages = s.pages := rfl
@[simp] theorem jdel_dir (g : BitVec 32) : (jdel g s).dir = s.dir := rfl
@[simp] theorem jdel_mem (g : BitVec 32) : (jdel g s).mem = s.mem := rfl
@[simp] theorem jdel_map (g : BitVec 32) : (jdel g s).map = s.map := rfl
@[simp] theorem jdel_selector (g : BitVec 32) : (jdel g s).selector = s.selector := rfl
@[simp] theorem jdel_wellhead (g : BitVec 32) : (jdel g s).wellhead = s.wellhead := rfl
@[simp] theorem jdel_fusion (g : BitVec 32) : (jdel g s).fusion = s.fusion := rfl
@[simp] theorem jdel_solver (g : BitVec 32) : (jdel g s).solver = s.solver := rfl
@[simp] theorem jdel_pump (g : BitVec 32) : (jdel g s).pump = s.pump := rfl
@[simp] theorem jdel_power (g : BitVec 32) : (jdel g s).power = s.power := rfl
@[simp] theorem jdel_island (g : BitVec 32) : (jdel g s).island = s.island := rfl
@[simp] theorem jdel_boot (g : BitVec 32) : (jdel g s).boot = s.boot := rfl
@[simp] theorem jdel_pins (g : BitVec 32) : (jdel g s).pins = s.pins := rfl

/-! ## poke -/

@[simp] theorem poke_pending (a : Nat) (b : Bytes) : (poke a b s).pending = s.pending := rfl
@[simp] theorem poke_freeCtr (a : Nat) (b : Bytes) : (poke a b s).freeCtr = s.freeCtr := rfl
@[simp] theorem poke_out (a : Nat) (b : Bytes) : (poke a b s).out = s.out := rfl
@[simp] theorem poke_clock (a : Nat) (b : Bytes) : (poke a b s).clock = s.clock := rfl
@[simp] theorem poke_as (a : Nat) (b : Bytes) : (poke a b s).as_ = s.as_ := rfl
@[simp] theorem poke_pps (a : Nat) (b : Bytes) : (poke a b s).pps = s.pps := rfl
@[simp] theorem poke_timers (a : Nat) (b : Bytes) : (poke a b s).timers = s.timers := rfl
@[simp] theorem poke_t1 (a : Nat) (b : Bytes) : (poke a b s).t1 = s.t1 := rfl
@[simp] theorem poke_fabric (a : Nat) (b : Bytes) : (poke a b s).fabric = s.fabric := rfl
@[simp] theorem poke_channels (a : Nat) (b : Bytes) : (poke a b s).channels = s.channels := rfl
@[simp] theorem poke_dict (a : Nat) (b : Bytes) : (poke a b s).dict = s.dict := rfl
@[simp] theorem poke_counters (a : Nat) (b : Bytes) : (poke a b s).counters = s.counters := rfl
@[simp] theorem poke_events (a : Nat) (b : Bytes) : (poke a b s).events = s.events := rfl
@[simp] theorem poke_eventsAt (a : Nat) (b : Bytes) : (poke a b s).eventsAt = s.eventsAt := rfl
@[simp] theorem poke_eventsNew (a : Nat) (b : Bytes) : (poke a b s).eventsNew = s.eventsNew := rfl
@[simp] theorem poke_sessions (a : Nat) (b : Bytes) : (poke a b s).sessions = s.sessions := rfl
@[simp] theorem poke_queues (a : Nat) (b : Bytes) : (poke a b s).queues = s.queues := rfl
@[simp] theorem poke_sluice (a : Nat) (b : Bytes) : (poke a b s).sluice = s.sluice := rfl
@[simp] theorem poke_parts (a : Nat) (b : Bytes) : (poke a b s).parts = s.parts := rfl
@[simp] theorem poke_resetting (a : Nat) (b : Bytes) : (poke a b s).resetting = s.resetting := rfl
@[simp] theorem poke_raised (a : Nat) (b : Bytes) : (poke a b s).raised = s.raised := rfl
@[simp] theorem poke_tiles (a : Nat) (b : Bytes) : (poke a b s).tiles = s.tiles := rfl
@[simp] theorem poke_clusters (a : Nat) (b : Bytes) : (poke a b s).clusters = s.clusters := rfl
@[simp] theorem poke_reserve (a : Nat) (b : Bytes) : (poke a b s).reserve = s.reserve := rfl
@[simp] theorem poke_streams (a : Nat) (b : Bytes) : (poke a b s).streams = s.streams := rfl
@[simp] theorem poke_pages (a : Nat) (b : Bytes) : (poke a b s).pages = s.pages := rfl
@[simp] theorem poke_dir (a : Nat) (b : Bytes) : (poke a b s).dir = s.dir := rfl
@[simp] theorem poke_map (a : Nat) (b : Bytes) : (poke a b s).map = s.map := rfl
@[simp] theorem poke_selector (a : Nat) (b : Bytes) : (poke a b s).selector = s.selector := rfl
@[simp] theorem poke_wellhead (a : Nat) (b : Bytes) : (poke a b s).wellhead = s.wellhead := rfl
@[simp] theorem poke_fusion (a : Nat) (b : Bytes) : (poke a b s).fusion = s.fusion := rfl
@[simp] theorem poke_solver (a : Nat) (b : Bytes) : (poke a b s).solver = s.solver := rfl
@[simp] theorem poke_pump (a : Nat) (b : Bytes) : (poke a b s).pump = s.pump := rfl
@[simp] theorem poke_power (a : Nat) (b : Bytes) : (poke a b s).power = s.power := rfl
@[simp] theorem poke_island (a : Nat) (b : Bytes) : (poke a b s).island = s.island := rfl
@[simp] theorem poke_boot (a : Nat) (b : Bytes) : (poke a b s).boot = s.boot := rfl
@[simp] theorem poke_pins (a : Nat) (b : Bytes) : (poke a b s).pins = s.pins := rfl

/-! ## wipe -/

@[simp] theorem wipe_pending (a n : Nat) : (wipe a n s).pending = s.pending := rfl
@[simp] theorem wipe_freeCtr (a n : Nat) : (wipe a n s).freeCtr = s.freeCtr := rfl
@[simp] theorem wipe_out (a n : Nat) : (wipe a n s).out = s.out := rfl
@[simp] theorem wipe_clock (a n : Nat) : (wipe a n s).clock = s.clock := rfl
@[simp] theorem wipe_as (a n : Nat) : (wipe a n s).as_ = s.as_ := rfl
@[simp] theorem wipe_pps (a n : Nat) : (wipe a n s).pps = s.pps := rfl
@[simp] theorem wipe_timers (a n : Nat) : (wipe a n s).timers = s.timers := rfl
@[simp] theorem wipe_t1 (a n : Nat) : (wipe a n s).t1 = s.t1 := rfl
@[simp] theorem wipe_fabric (a n : Nat) : (wipe a n s).fabric = s.fabric := rfl
@[simp] theorem wipe_channels (a n : Nat) : (wipe a n s).channels = s.channels := rfl
@[simp] theorem wipe_dict (a n : Nat) : (wipe a n s).dict = s.dict := rfl
@[simp] theorem wipe_counters (a n : Nat) : (wipe a n s).counters = s.counters := rfl
@[simp] theorem wipe_events (a n : Nat) : (wipe a n s).events = s.events := rfl
@[simp] theorem wipe_eventsAt (a n : Nat) : (wipe a n s).eventsAt = s.eventsAt := rfl
@[simp] theorem wipe_eventsNew (a n : Nat) : (wipe a n s).eventsNew = s.eventsNew := rfl
@[simp] theorem wipe_sessions (a n : Nat) : (wipe a n s).sessions = s.sessions := rfl
@[simp] theorem wipe_queues (a n : Nat) : (wipe a n s).queues = s.queues := rfl
@[simp] theorem wipe_sluice (a n : Nat) : (wipe a n s).sluice = s.sluice := rfl
@[simp] theorem wipe_parts (a n : Nat) : (wipe a n s).parts = s.parts := rfl
@[simp] theorem wipe_resetting (a n : Nat) : (wipe a n s).resetting = s.resetting := rfl
@[simp] theorem wipe_raised (a n : Nat) : (wipe a n s).raised = s.raised := rfl
@[simp] theorem wipe_tiles (a n : Nat) : (wipe a n s).tiles = s.tiles := rfl
@[simp] theorem wipe_clusters (a n : Nat) : (wipe a n s).clusters = s.clusters := rfl
@[simp] theorem wipe_reserve (a n : Nat) : (wipe a n s).reserve = s.reserve := rfl
@[simp] theorem wipe_streams (a n : Nat) : (wipe a n s).streams = s.streams := rfl
@[simp] theorem wipe_pages (a n : Nat) : (wipe a n s).pages = s.pages := rfl
@[simp] theorem wipe_dir (a n : Nat) : (wipe a n s).dir = s.dir := rfl
@[simp] theorem wipe_map (a n : Nat) : (wipe a n s).map = s.map := rfl
@[simp] theorem wipe_selector (a n : Nat) : (wipe a n s).selector = s.selector := rfl
@[simp] theorem wipe_wellhead (a n : Nat) : (wipe a n s).wellhead = s.wellhead := rfl
@[simp] theorem wipe_fusion (a n : Nat) : (wipe a n s).fusion = s.fusion := rfl
@[simp] theorem wipe_solver (a n : Nat) : (wipe a n s).solver = s.solver := rfl
@[simp] theorem wipe_pump (a n : Nat) : (wipe a n s).pump = s.pump := rfl
@[simp] theorem wipe_power (a n : Nat) : (wipe a n s).power = s.power := rfl
@[simp] theorem wipe_island (a n : Nat) : (wipe a n s).island = s.island := rfl
@[simp] theorem wipe_boot (a n : Nat) : (wipe a n s).boot = s.boot := rfl
@[simp] theorem wipe_pins (a n : Nat) : (wipe a n s).pins = s.pins := rfl

/-! ## clockTo -/

@[simp] theorem clockTo_pending (t : Nat) : (clockTo t s).pending = s.pending := by unfold clockTo; split <;> rfl
@[simp] theorem clockTo_freeCtr (t : Nat) : (clockTo t s).freeCtr = s.freeCtr := by unfold clockTo; split <;> rfl
@[simp] theorem clockTo_out (t : Nat) : (clockTo t s).out = s.out := by unfold clockTo; split <;> rfl
@[simp] theorem clockTo_as (t : Nat) : (clockTo t s).as_ = s.as_ := by unfold clockTo; split <;> rfl
@[simp] theorem clockTo_pps (t : Nat) : (clockTo t s).pps = s.pps := by unfold clockTo; split <;> rfl
@[simp] theorem clockTo_timers (t : Nat) : (clockTo t s).timers = s.timers := by unfold clockTo; split <;> rfl
@[simp] theorem clockTo_t1 (t : Nat) : (clockTo t s).t1 = s.t1 := by unfold clockTo; split <;> rfl
@[simp] theorem clockTo_fabric (t : Nat) : (clockTo t s).fabric = s.fabric := by unfold clockTo; split <;> rfl
@[simp] theorem clockTo_channels (t : Nat) : (clockTo t s).channels = s.channels := by unfold clockTo; split <;> rfl
@[simp] theorem clockTo_dict (t : Nat) : (clockTo t s).dict = s.dict := by unfold clockTo; split <;> rfl
@[simp] theorem clockTo_counters (t : Nat) : (clockTo t s).counters = s.counters := by unfold clockTo; split <;> rfl
@[simp] theorem clockTo_events (t : Nat) : (clockTo t s).events = s.events := by unfold clockTo; split <;> rfl
@[simp] theorem clockTo_eventsAt (t : Nat) : (clockTo t s).eventsAt = s.eventsAt := by unfold clockTo; split <;> rfl
@[simp] theorem clockTo_eventsNew (t : Nat) : (clockTo t s).eventsNew = s.eventsNew := by unfold clockTo; split <;> rfl
@[simp] theorem clockTo_sessions (t : Nat) : (clockTo t s).sessions = s.sessions := by unfold clockTo; split <;> rfl
@[simp] theorem clockTo_queues (t : Nat) : (clockTo t s).queues = s.queues := by unfold clockTo; split <;> rfl
@[simp] theorem clockTo_sluice (t : Nat) : (clockTo t s).sluice = s.sluice := by unfold clockTo; split <;> rfl
@[simp] theorem clockTo_parts (t : Nat) : (clockTo t s).parts = s.parts := by unfold clockTo; split <;> rfl
@[simp] theorem clockTo_resetting (t : Nat) : (clockTo t s).resetting = s.resetting := by unfold clockTo; split <;> rfl
@[simp] theorem clockTo_raised (t : Nat) : (clockTo t s).raised = s.raised := by unfold clockTo; split <;> rfl
@[simp] theorem clockTo_tiles (t : Nat) : (clockTo t s).tiles = s.tiles := by unfold clockTo; split <;> rfl
@[simp] theorem clockTo_clusters (t : Nat) : (clockTo t s).clusters = s.clusters := by unfold clockTo; split <;> rfl
@[simp] theorem clockTo_reserve (t : Nat) : (clockTo t s).reserve = s.reserve := by unfold clockTo; split <;> rfl
@[simp] theorem clockTo_streams (t : Nat) : (clockTo t s).streams = s.streams := by unfold clockTo; split <;> rfl
@[simp] theorem clockTo_pages (t : Nat) : (clockTo t s).pages = s.pages := by unfold clockTo; split <;> rfl
@[simp] theorem clockTo_dir (t : Nat) : (clockTo t s).dir = s.dir := by unfold clockTo; split <;> rfl
@[simp] theorem clockTo_mem (t : Nat) : (clockTo t s).mem = s.mem := by unfold clockTo; split <;> rfl
@[simp] theorem clockTo_map (t : Nat) : (clockTo t s).map = s.map := by unfold clockTo; split <;> rfl
@[simp] theorem clockTo_selector (t : Nat) : (clockTo t s).selector = s.selector := by unfold clockTo; split <;> rfl
@[simp] theorem clockTo_wellhead (t : Nat) : (clockTo t s).wellhead = s.wellhead := by unfold clockTo; split <;> rfl
@[simp] theorem clockTo_fusion (t : Nat) : (clockTo t s).fusion = s.fusion := by unfold clockTo; split <;> rfl
@[simp] theorem clockTo_solver (t : Nat) : (clockTo t s).solver = s.solver := by unfold clockTo; split <;> rfl
@[simp] theorem clockTo_pump (t : Nat) : (clockTo t s).pump = s.pump := by unfold clockTo; split <;> rfl
@[simp] theorem clockTo_power (t : Nat) : (clockTo t s).power = s.power := by unfold clockTo; split <;> rfl
@[simp] theorem clockTo_island (t : Nat) : (clockTo t s).island = s.island := by unfold clockTo; split <;> rfl
@[simp] theorem clockTo_boot (t : Nat) : (clockTo t s).boot = s.boot := by unfold clockTo; split <;> rfl
@[simp] theorem clockTo_pins (t : Nat) : (clockTo t s).pins = s.pins := by unfold clockTo; split <;> rfl

/-! ## Accessors -/

theorem qget_qmod (k j : Nat) (f : Queue → Queue) : qget (qmod k f s) j = if j = k then f (qget s k) else qget s j :=
  tblGet_mod _ _ _ _ _
@[simp] theorem qget_qmod_same (k : Nat) (f : Queue → Queue) : qget (qmod k f s) k = f (qget s k) := by simp [qget_qmod]
@[simp] theorem qget_count (k : Nat) (i j n : Nat) : qget (count i j n s) k = qget s k := rfl
@[simp] theorem qget_setEvent (k : Nat) (n : Nat) : qget (setEvent n s) k = qget s k := rfl
@[simp] theorem qget_setCfg (k : Nat) (i j : Nat) (v : Bytes) : qget (setCfg i j v s) k = qget s k := rfl
@[simp] theorem qget_emit (k : Nat) (o : OutFrame) : qget (emit o s) k = qget s k := rfl
@[simp] theorem qget_smod (k : Nat) (l : Nat) (h : Session → Session) : qget (smod l h s) k = qget s k := rfl
@[simp] theorem qget_pmod (k : Nat) (l : Nat) (h : Partition → Partition) : qget (pmod l h s) k = qget s k := rfl
@[simp] theorem qget_tmod (k : Nat) (l : Nat) (h : Tile → Tile) : qget (tmod l h s) k = qget s k := rfl
@[simp] theorem qget_cmod (k : Nat) (l : Nat) (h : Cluster → Cluster) : qget (cmod l h s) k = qget s k := rfl
@[simp] theorem qget_t1mod (k : Nat) (l : Nat) (h : T1Port → T1Port) : qget (t1mod l h s) k = qget s k := rfl
@[simp] theorem qget_fabmod (k : Nat) (l : Nat) (h : FabricPort → FabricPort) : qget (fabmod l h s) k = qget s k := rfl
@[simp] theorem qget_chanmod (k : Nat) (l : Nat) (h : Channel → Channel) : qget (chanmod l h s) k = qget s k := rfl
@[simp] theorem qget_jmod (k : Nat) (g : BitVec 32) (h : Job → Job) : qget (jmod g h s) k = qget s k := rfl
@[simp] theorem qget_jdel (k : Nat) (g : BitVec 32) : qget (jdel g s) k = qget s k := rfl
@[simp] theorem qget_poke (k : Nat) (a : Nat) (b : Bytes) : qget (poke a b s) k = qget s k := rfl
@[simp] theorem qget_wipe (k : Nat) (a n : Nat) : qget (wipe a n s) k = qget s k := rfl
@[simp] theorem qget_clockTo (k : Nat) (u : Nat) : qget (clockTo u s) k = qget s k := by simp [qget]

theorem sess_smod (k j : Nat) (f : Session → Session) : sess (smod k f s) j = if j = k then f (sess s k) else sess s j :=
  tblGet_mod _ _ _ _ _
@[simp] theorem sess_smod_same (k : Nat) (f : Session → Session) : sess (smod k f s) k = f (sess s k) := by simp [sess_smod]
@[simp] theorem sess_count (k : Nat) (i j n : Nat) : sess (count i j n s) k = sess s k := rfl
@[simp] theorem sess_setEvent (k : Nat) (n : Nat) : sess (setEvent n s) k = sess s k := rfl
@[simp] theorem sess_setCfg (k : Nat) (i j : Nat) (v : Bytes) : sess (setCfg i j v s) k = sess s k := rfl
@[simp] theorem sess_emit (k : Nat) (o : OutFrame) : sess (emit o s) k = sess s k := rfl
@[simp] theorem sess_qmod (k : Nat) (l : Nat) (h : Queue → Queue) : sess (qmod l h s) k = sess s k := rfl
@[simp] theorem sess_pmod (k : Nat) (l : Nat) (h : Partition → Partition) : sess (pmod l h s) k = sess s k := rfl
@[simp] theorem sess_tmod (k : Nat) (l : Nat) (h : Tile → Tile) : sess (tmod l h s) k = sess s k := rfl
@[simp] theorem sess_cmod (k : Nat) (l : Nat) (h : Cluster → Cluster) : sess (cmod l h s) k = sess s k := rfl
@[simp] theorem sess_t1mod (k : Nat) (l : Nat) (h : T1Port → T1Port) : sess (t1mod l h s) k = sess s k := rfl
@[simp] theorem sess_fabmod (k : Nat) (l : Nat) (h : FabricPort → FabricPort) : sess (fabmod l h s) k = sess s k := rfl
@[simp] theorem sess_chanmod (k : Nat) (l : Nat) (h : Channel → Channel) : sess (chanmod l h s) k = sess s k := rfl
@[simp] theorem sess_jmod (k : Nat) (g : BitVec 32) (h : Job → Job) : sess (jmod g h s) k = sess s k := rfl
@[simp] theorem sess_jdel (k : Nat) (g : BitVec 32) : sess (jdel g s) k = sess s k := rfl
@[simp] theorem sess_poke (k : Nat) (a : Nat) (b : Bytes) : sess (poke a b s) k = sess s k := rfl
@[simp] theorem sess_wipe (k : Nat) (a n : Nat) : sess (wipe a n s) k = sess s k := rfl
@[simp] theorem sess_clockTo (k : Nat) (u : Nat) : sess (clockTo u s) k = sess s k := by simp [sess]

theorem tileOf_tmod (k j : Nat) (f : Tile → Tile) : tileOf (tmod k f s) j = if j = k then f (tileOf s k) else tileOf s j :=
  tblGet_mod _ _ _ _ _
@[simp] theorem tileOf_tmod_same (k : Nat) (f : Tile → Tile) : tileOf (tmod k f s) k = f (tileOf s k) := by simp [tileOf_tmod]
@[simp] theorem tileOf_count (k : Nat) (i j n : Nat) : tileOf (count i j n s) k = tileOf s k := rfl
@[simp] theorem tileOf_setEvent (k : Nat) (n : Nat) : tileOf (setEvent n s) k = tileOf s k := rfl
@[simp] theorem tileOf_setCfg (k : Nat) (i j : Nat) (v : Bytes) : tileOf (setCfg i j v s) k = tileOf s k := rfl
@[simp] theorem tileOf_emit (k : Nat) (o : OutFrame) : tileOf (emit o s) k = tileOf s k := rfl
@[simp] theorem tileOf_smod (k : Nat) (l : Nat) (h : Session → Session) : tileOf (smod l h s) k = tileOf s k := rfl
@[simp] theorem tileOf_qmod (k : Nat) (l : Nat) (h : Queue → Queue) : tileOf (qmod l h s) k = tileOf s k := rfl
@[simp] theorem tileOf_pmod (k : Nat) (l : Nat) (h : Partition → Partition) : tileOf (pmod l h s) k = tileOf s k := rfl
@[simp] theorem tileOf_cmod (k : Nat) (l : Nat) (h : Cluster → Cluster) : tileOf (cmod l h s) k = tileOf s k := rfl
@[simp] theorem tileOf_t1mod (k : Nat) (l : Nat) (h : T1Port → T1Port) : tileOf (t1mod l h s) k = tileOf s k := rfl
@[simp] theorem tileOf_fabmod (k : Nat) (l : Nat) (h : FabricPort → FabricPort) : tileOf (fabmod l h s) k = tileOf s k := rfl
@[simp] theorem tileOf_chanmod (k : Nat) (l : Nat) (h : Channel → Channel) : tileOf (chanmod l h s) k = tileOf s k := rfl
@[simp] theorem tileOf_jmod (k : Nat) (g : BitVec 32) (h : Job → Job) : tileOf (jmod g h s) k = tileOf s k := rfl
@[simp] theorem tileOf_jdel (k : Nat) (g : BitVec 32) : tileOf (jdel g s) k = tileOf s k := rfl
@[simp] theorem tileOf_poke (k : Nat) (a : Nat) (b : Bytes) : tileOf (poke a b s) k = tileOf s k := rfl
@[simp] theorem tileOf_wipe (k : Nat) (a n : Nat) : tileOf (wipe a n s) k = tileOf s k := rfl
@[simp] theorem tileOf_clockTo (k : Nat) (u : Nat) : tileOf (clockTo u s) k = tileOf s k := by simp [tileOf]

theorem clusterOf_cmod (k j : Nat) (f : Cluster → Cluster) : clusterOf (cmod k f s) j = if j = k then f (clusterOf s k) else clusterOf s j :=
  tblGet_mod _ _ _ _ _
@[simp] theorem clusterOf_cmod_same (k : Nat) (f : Cluster → Cluster) : clusterOf (cmod k f s) k = f (clusterOf s k) := by simp [clusterOf_cmod]
@[simp] theorem clusterOf_count (k : Nat) (i j n : Nat) : clusterOf (count i j n s) k = clusterOf s k := rfl
@[simp] theorem clusterOf_setEvent (k : Nat) (n : Nat) : clusterOf (setEvent n s) k = clusterOf s k := rfl
@[simp] theorem clusterOf_setCfg (k : Nat) (i j : Nat) (v : Bytes) : clusterOf (setCfg i j v s) k = clusterOf s k := rfl
@[simp] theorem clusterOf_emit (k : Nat) (o : OutFrame) : clusterOf (emit o s) k = clusterOf s k := rfl
@[simp] theorem clusterOf_smod (k : Nat) (l : Nat) (h : Session → Session) : clusterOf (smod l h s) k = clusterOf s k := rfl
@[simp] theorem clusterOf_qmod (k : Nat) (l : Nat) (h : Queue → Queue) : clusterOf (qmod l h s) k = clusterOf s k := rfl
@[simp] theorem clusterOf_pmod (k : Nat) (l : Nat) (h : Partition → Partition) : clusterOf (pmod l h s) k = clusterOf s k := rfl
@[simp] theorem clusterOf_tmod (k : Nat) (l : Nat) (h : Tile → Tile) : clusterOf (tmod l h s) k = clusterOf s k := rfl
@[simp] theorem clusterOf_t1mod (k : Nat) (l : Nat) (h : T1Port → T1Port) : clusterOf (t1mod l h s) k = clusterOf s k := rfl
@[simp] theorem clusterOf_fabmod (k : Nat) (l : Nat) (h : FabricPort → FabricPort) : clusterOf (fabmod l h s) k = clusterOf s k := rfl
@[simp] theorem clusterOf_chanmod (k : Nat) (l : Nat) (h : Channel → Channel) : clusterOf (chanmod l h s) k = clusterOf s k := rfl
@[simp] theorem clusterOf_jmod (k : Nat) (g : BitVec 32) (h : Job → Job) : clusterOf (jmod g h s) k = clusterOf s k := rfl
@[simp] theorem clusterOf_jdel (k : Nat) (g : BitVec 32) : clusterOf (jdel g s) k = clusterOf s k := rfl
@[simp] theorem clusterOf_poke (k : Nat) (a : Nat) (b : Bytes) : clusterOf (poke a b s) k = clusterOf s k := rfl
@[simp] theorem clusterOf_wipe (k : Nat) (a n : Nat) : clusterOf (wipe a n s) k = clusterOf s k := rfl
@[simp] theorem clusterOf_clockTo (k : Nat) (u : Nat) : clusterOf (clockTo u s) k = clusterOf s k := by simp [clusterOf]

theorem partOf_pmod (k j : Nat) (f : Partition → Partition) : partOf (pmod k f s) j = if j = k then f (partOf s k) else partOf s j :=
  tblGet_mod _ _ _ _ _
@[simp] theorem partOf_pmod_same (k : Nat) (f : Partition → Partition) : partOf (pmod k f s) k = f (partOf s k) := by simp [partOf_pmod]
@[simp] theorem partOf_count (k : Nat) (i j n : Nat) : partOf (count i j n s) k = partOf s k := rfl
@[simp] theorem partOf_setEvent (k : Nat) (n : Nat) : partOf (setEvent n s) k = partOf s k := rfl
@[simp] theorem partOf_setCfg (k : Nat) (i j : Nat) (v : Bytes) : partOf (setCfg i j v s) k = partOf s k := rfl
@[simp] theorem partOf_emit (k : Nat) (o : OutFrame) : partOf (emit o s) k = partOf s k := rfl
@[simp] theorem partOf_smod (k : Nat) (l : Nat) (h : Session → Session) : partOf (smod l h s) k = partOf s k := rfl
@[simp] theorem partOf_qmod (k : Nat) (l : Nat) (h : Queue → Queue) : partOf (qmod l h s) k = partOf s k := rfl
@[simp] theorem partOf_tmod (k : Nat) (l : Nat) (h : Tile → Tile) : partOf (tmod l h s) k = partOf s k := rfl
@[simp] theorem partOf_cmod (k : Nat) (l : Nat) (h : Cluster → Cluster) : partOf (cmod l h s) k = partOf s k := rfl
@[simp] theorem partOf_t1mod (k : Nat) (l : Nat) (h : T1Port → T1Port) : partOf (t1mod l h s) k = partOf s k := rfl
@[simp] theorem partOf_fabmod (k : Nat) (l : Nat) (h : FabricPort → FabricPort) : partOf (fabmod l h s) k = partOf s k := rfl
@[simp] theorem partOf_chanmod (k : Nat) (l : Nat) (h : Channel → Channel) : partOf (chanmod l h s) k = partOf s k := rfl
@[simp] theorem partOf_jmod (k : Nat) (g : BitVec 32) (h : Job → Job) : partOf (jmod g h s) k = partOf s k := rfl
@[simp] theorem partOf_jdel (k : Nat) (g : BitVec 32) : partOf (jdel g s) k = partOf s k := rfl
@[simp] theorem partOf_poke (k : Nat) (a : Nat) (b : Bytes) : partOf (poke a b s) k = partOf s k := rfl
@[simp] theorem partOf_wipe (k : Nat) (a n : Nat) : partOf (wipe a n s) k = partOf s k := rfl
@[simp] theorem partOf_clockTo (k : Nat) (u : Nat) : partOf (clockTo u s) k = partOf s k := by simp [partOf]

theorem t1Of_t1mod (k j : Nat) (f : T1Port → T1Port) : t1Of (t1mod k f s) j = if j = k then f (t1Of s k) else t1Of s j :=
  tblGet_mod _ _ _ _ _
@[simp] theorem t1Of_t1mod_same (k : Nat) (f : T1Port → T1Port) : t1Of (t1mod k f s) k = f (t1Of s k) := by simp [t1Of_t1mod]
@[simp] theorem t1Of_count (k : Nat) (i j n : Nat) : t1Of (count i j n s) k = t1Of s k := rfl
@[simp] theorem t1Of_setEvent (k : Nat) (n : Nat) : t1Of (setEvent n s) k = t1Of s k := rfl
@[simp] theorem t1Of_setCfg (k : Nat) (i j : Nat) (v : Bytes) : t1Of (setCfg i j v s) k = t1Of s k := rfl
@[simp] theorem t1Of_emit (k : Nat) (o : OutFrame) : t1Of (emit o s) k = t1Of s k := rfl
@[simp] theorem t1Of_smod (k : Nat) (l : Nat) (h : Session → Session) : t1Of (smod l h s) k = t1Of s k := rfl
@[simp] theorem t1Of_qmod (k : Nat) (l : Nat) (h : Queue → Queue) : t1Of (qmod l h s) k = t1Of s k := rfl
@[simp] theorem t1Of_pmod (k : Nat) (l : Nat) (h : Partition → Partition) : t1Of (pmod l h s) k = t1Of s k := rfl
@[simp] theorem t1Of_tmod (k : Nat) (l : Nat) (h : Tile → Tile) : t1Of (tmod l h s) k = t1Of s k := rfl
@[simp] theorem t1Of_cmod (k : Nat) (l : Nat) (h : Cluster → Cluster) : t1Of (cmod l h s) k = t1Of s k := rfl
@[simp] theorem t1Of_fabmod (k : Nat) (l : Nat) (h : FabricPort → FabricPort) : t1Of (fabmod l h s) k = t1Of s k := rfl
@[simp] theorem t1Of_chanmod (k : Nat) (l : Nat) (h : Channel → Channel) : t1Of (chanmod l h s) k = t1Of s k := rfl
@[simp] theorem t1Of_jmod (k : Nat) (g : BitVec 32) (h : Job → Job) : t1Of (jmod g h s) k = t1Of s k := rfl
@[simp] theorem t1Of_jdel (k : Nat) (g : BitVec 32) : t1Of (jdel g s) k = t1Of s k := rfl
@[simp] theorem t1Of_poke (k : Nat) (a : Nat) (b : Bytes) : t1Of (poke a b s) k = t1Of s k := rfl
@[simp] theorem t1Of_wipe (k : Nat) (a n : Nat) : t1Of (wipe a n s) k = t1Of s k := rfl
@[simp] theorem t1Of_clockTo (k : Nat) (u : Nat) : t1Of (clockTo u s) k = t1Of s k := by simp [t1Of]

theorem fabOf_fabmod (k j : Nat) (f : FabricPort → FabricPort) : fabOf (fabmod k f s) j = if j = k then f (fabOf s k) else fabOf s j :=
  tblGet_mod _ _ _ _ _
@[simp] theorem fabOf_fabmod_same (k : Nat) (f : FabricPort → FabricPort) : fabOf (fabmod k f s) k = f (fabOf s k) := by simp [fabOf_fabmod]
@[simp] theorem fabOf_count (k : Nat) (i j n : Nat) : fabOf (count i j n s) k = fabOf s k := rfl
@[simp] theorem fabOf_setEvent (k : Nat) (n : Nat) : fabOf (setEvent n s) k = fabOf s k := rfl
@[simp] theorem fabOf_setCfg (k : Nat) (i j : Nat) (v : Bytes) : fabOf (setCfg i j v s) k = fabOf s k := rfl
@[simp] theorem fabOf_emit (k : Nat) (o : OutFrame) : fabOf (emit o s) k = fabOf s k := rfl
@[simp] theorem fabOf_smod (k : Nat) (l : Nat) (h : Session → Session) : fabOf (smod l h s) k = fabOf s k := rfl
@[simp] theorem fabOf_qmod (k : Nat) (l : Nat) (h : Queue → Queue) : fabOf (qmod l h s) k = fabOf s k := rfl
@[simp] theorem fabOf_pmod (k : Nat) (l : Nat) (h : Partition → Partition) : fabOf (pmod l h s) k = fabOf s k := rfl
@[simp] theorem fabOf_tmod (k : Nat) (l : Nat) (h : Tile → Tile) : fabOf (tmod l h s) k = fabOf s k := rfl
@[simp] theorem fabOf_cmod (k : Nat) (l : Nat) (h : Cluster → Cluster) : fabOf (cmod l h s) k = fabOf s k := rfl
@[simp] theorem fabOf_t1mod (k : Nat) (l : Nat) (h : T1Port → T1Port) : fabOf (t1mod l h s) k = fabOf s k := rfl
@[simp] theorem fabOf_chanmod (k : Nat) (l : Nat) (h : Channel → Channel) : fabOf (chanmod l h s) k = fabOf s k := rfl
@[simp] theorem fabOf_jmod (k : Nat) (g : BitVec 32) (h : Job → Job) : fabOf (jmod g h s) k = fabOf s k := rfl
@[simp] theorem fabOf_jdel (k : Nat) (g : BitVec 32) : fabOf (jdel g s) k = fabOf s k := rfl
@[simp] theorem fabOf_poke (k : Nat) (a : Nat) (b : Bytes) : fabOf (poke a b s) k = fabOf s k := rfl
@[simp] theorem fabOf_wipe (k : Nat) (a n : Nat) : fabOf (wipe a n s) k = fabOf s k := rfl
@[simp] theorem fabOf_clockTo (k : Nat) (u : Nat) : fabOf (clockTo u s) k = fabOf s k := by simp [fabOf]

theorem chanOf_chanmod (k j : Nat) (f : Channel → Channel) : chanOf (chanmod k f s) j = if j = k then f (chanOf s k) else chanOf s j :=
  tblGet_mod _ _ _ _ _
@[simp] theorem chanOf_chanmod_same (k : Nat) (f : Channel → Channel) : chanOf (chanmod k f s) k = f (chanOf s k) := by simp [chanOf_chanmod]
@[simp] theorem chanOf_count (k : Nat) (i j n : Nat) : chanOf (count i j n s) k = chanOf s k := rfl
@[simp] theorem chanOf_setEvent (k : Nat) (n : Nat) : chanOf (setEvent n s) k = chanOf s k := rfl
@[simp] theorem chanOf_setCfg (k : Nat) (i j : Nat) (v : Bytes) : chanOf (setCfg i j v s) k = chanOf s k := rfl
@[simp] theorem chanOf_emit (k : Nat) (o : OutFrame) : chanOf (emit o s) k = chanOf s k := rfl
@[simp] theorem chanOf_smod (k : Nat) (l : Nat) (h : Session → Session) : chanOf (smod l h s) k = chanOf s k := rfl
@[simp] theorem chanOf_qmod (k : Nat) (l : Nat) (h : Queue → Queue) : chanOf (qmod l h s) k = chanOf s k := rfl
@[simp] theorem chanOf_pmod (k : Nat) (l : Nat) (h : Partition → Partition) : chanOf (pmod l h s) k = chanOf s k := rfl
@[simp] theorem chanOf_tmod (k : Nat) (l : Nat) (h : Tile → Tile) : chanOf (tmod l h s) k = chanOf s k := rfl
@[simp] theorem chanOf_cmod (k : Nat) (l : Nat) (h : Cluster → Cluster) : chanOf (cmod l h s) k = chanOf s k := rfl
@[simp] theorem chanOf_t1mod (k : Nat) (l : Nat) (h : T1Port → T1Port) : chanOf (t1mod l h s) k = chanOf s k := rfl
@[simp] theorem chanOf_fabmod (k : Nat) (l : Nat) (h : FabricPort → FabricPort) : chanOf (fabmod l h s) k = chanOf s k := rfl
@[simp] theorem chanOf_jmod (k : Nat) (g : BitVec 32) (h : Job → Job) : chanOf (jmod g h s) k = chanOf s k := rfl
@[simp] theorem chanOf_jdel (k : Nat) (g : BitVec 32) : chanOf (jdel g s) k = chanOf s k := rfl
@[simp] theorem chanOf_poke (k : Nat) (a : Nat) (b : Bytes) : chanOf (poke a b s) k = chanOf s k := rfl
@[simp] theorem chanOf_wipe (k : Nat) (a n : Nat) : chanOf (wipe a n s) k = chanOf s k := rfl
@[simp] theorem chanOf_clockTo (k : Nat) (u : Nat) : chanOf (clockTo u s) k = chanOf s k := by simp [chanOf]

/-- A stored value is the table's, with the object's default where it is not listed. -/
theorem cfgBytes_eq (a b : Nat) : cfgBytes s a b = tblGet (objDefault a b) s.dict (objKey a b) := by
  unfold cfgBytes
  generalize s.dict = t
  induction t with
  | nil => rfl
  | cons e t ih =>
    obtain ⟨x, u⟩ := e
    by_cases h : x = objKey a b
    · simp [tblGet, h]
    · simpa [tblGet, h] using ih

/-- What an object reads after a write of the same or another object. -/
theorem cfgBytes_setCfg (i j : Nat) (v : Bytes) (a b : Nat) :
    cfgBytes (setCfg i j v s) a b = if objKey a b = objKey i j then (if v = objDefault i j then objDefault a b else v) else cfgBytes s a b := by
  simp only [cfgBytes_eq, setCfg]
  by_cases h : v = objDefault i j
  · simp [h, tblGet_del]
  · simp [h, tblGet_put]

/-- An object reads what was written to it. -/
@[simp] theorem cfgBytes_setCfg_same (i j : Nat) (v : Bytes) : cfgBytes (setCfg i j v s) i j = v := by
  rw [cfgBytes_setCfg]; split <;> simp_all

@[simp] theorem cfgBytes_count (i j n : Nat) (x y : Nat) : cfgBytes (count i j n s) x y = cfgBytes s x y := rfl
@[simp] theorem cfg_count (i j n : Nat) (x y : Nat) : cfg (count i j n s) x y = cfg s x y := rfl
@[simp] theorem cfgBytes_setEvent (n : Nat) (x y : Nat) : cfgBytes (setEvent n s) x y = cfgBytes s x y := rfl
@[simp] theorem cfg_setEvent (n : Nat) (x y : Nat) : cfg (setEvent n s) x y = cfg s x y := rfl
@[simp] theorem cfgBytes_emit (o : OutFrame) (x y : Nat) : cfgBytes (emit o s) x y = cfgBytes s x y := rfl
@[simp] theorem cfg_emit (o : OutFrame) (x y : Nat) : cfg (emit o s) x y = cfg s x y := rfl
@[simp] theorem cfgBytes_smod (k : Nat) (f : Session → Session) (x y : Nat) : cfgBytes (smod k f s) x y = cfgBytes s x y := rfl
@[simp] theorem cfg_smod (k : Nat) (f : Session → Session) (x y : Nat) : cfg (smod k f s) x y = cfg s x y := rfl
@[simp] theorem cfgBytes_qmod (k : Nat) (f : Queue → Queue) (x y : Nat) : cfgBytes (qmod k f s) x y = cfgBytes s x y := rfl
@[simp] theorem cfg_qmod (k : Nat) (f : Queue → Queue) (x y : Nat) : cfg (qmod k f s) x y = cfg s x y := rfl
@[simp] theorem cfgBytes_pmod (k : Nat) (f : Partition → Partition) (x y : Nat) : cfgBytes (pmod k f s) x y = cfgBytes s x y := rfl
@[simp] theorem cfg_pmod (k : Nat) (f : Partition → Partition) (x y : Nat) : cfg (pmod k f s) x y = cfg s x y := rfl
@[simp] theorem cfgBytes_tmod (k : Nat) (f : Tile → Tile) (x y : Nat) : cfgBytes (tmod k f s) x y = cfgBytes s x y := rfl
@[simp] theorem cfg_tmod (k : Nat) (f : Tile → Tile) (x y : Nat) : cfg (tmod k f s) x y = cfg s x y := rfl
@[simp] theorem cfgBytes_cmod (k : Nat) (f : Cluster → Cluster) (x y : Nat) : cfgBytes (cmod k f s) x y = cfgBytes s x y := rfl
@[simp] theorem cfg_cmod (k : Nat) (f : Cluster → Cluster) (x y : Nat) : cfg (cmod k f s) x y = cfg s x y := rfl
@[simp] theorem cfgBytes_t1mod (k : Nat) (f : T1Port → T1Port) (x y : Nat) : cfgBytes (t1mod k f s) x y = cfgBytes s x y := rfl
@[simp] theorem cfg_t1mod (k : Nat) (f : T1Port → T1Port) (x y : Nat) : cfg (t1mod k f s) x y = cfg s x y := rfl
@[simp] theorem cfgBytes_fabmod (k : Nat) (f : FabricPort → FabricPort) (x y : Nat) : cfgBytes (fabmod k f s) x y = cfgBytes s x y := rfl
@[simp] theorem cfg_fabmod (k : Nat) (f : FabricPort → FabricPort) (x y : Nat) : cfg (fabmod k f s) x y = cfg s x y := rfl
@[simp] theorem cfgBytes_chanmod (k : Nat) (f : Channel → Channel) (x y : Nat) : cfgBytes (chanmod k f s) x y = cfgBytes s x y := rfl
@[simp] theorem cfg_chanmod (k : Nat) (f : Channel → Channel) (x y : Nat) : cfg (chanmod k f s) x y = cfg s x y := rfl
@[simp] theorem cfgBytes_jmod (g : BitVec 32) (f : Job → Job) (x y : Nat) : cfgBytes (jmod g f s) x y = cfgBytes s x y := rfl
@[simp] theorem cfg_jmod (g : BitVec 32) (f : Job → Job) (x y : Nat) : cfg (jmod g f s) x y = cfg s x y := rfl
@[simp] theorem cfgBytes_jdel (g : BitVec 32) (x y : Nat) : cfgBytes (jdel g s) x y = cfgBytes s x y := rfl
@[simp] theorem cfg_jdel (g : BitVec 32) (x y : Nat) : cfg (jdel g s) x y = cfg s x y := rfl
@[simp] theorem cfgBytes_poke (a : Nat) (b : Bytes) (x y : Nat) : cfgBytes (poke a b s) x y = cfgBytes s x y := rfl
@[simp] theorem cfg_poke (a : Nat) (b : Bytes) (x y : Nat) : cfg (poke a b s) x y = cfg s x y := rfl
@[simp] theorem cfgBytes_wipe (a n : Nat) (x y : Nat) : cfgBytes (wipe a n s) x y = cfgBytes s x y := rfl
@[simp] theorem cfg_wipe (a n : Nat) (x y : Nat) : cfg (wipe a n s) x y = cfg s x y := rfl
@[simp] theorem cfgBytes_clockTo (u : Nat) (x y : Nat) : cfgBytes (clockTo u s) x y = cfgBytes s x y := by simp [cfgBytes]
@[simp] theorem cfg_clockTo (u : Nat) (x y : Nat) : cfg (clockTo u s) x y = cfg s x y := by simp [cfg]
@[simp] theorem now_count (i j n : Nat) : now (count i j n s) = now s := rfl
@[simp] theorem stamp_count (i j n : Nat) : stamp (count i j n s) = stamp s := rfl
@[simp] theorem now_setEvent (n : Nat) : now (setEvent n s) = now s := rfl
@[simp] theorem stamp_setEvent (n : Nat) : stamp (setEvent n s) = stamp s := rfl
@[simp] theorem now_setCfg (i j : Nat) (v : Bytes) : now (setCfg i j v s) = now s := rfl
@[simp] theorem stamp_setCfg (i j : Nat) (v : Bytes) : stamp (setCfg i j v s) = stamp s := rfl
@[simp] theorem now_emit (o : OutFrame) : now (emit o s) = now s := rfl
@[simp] theorem stamp_emit (o : OutFrame) : stamp (emit o s) = stamp s := rfl
@[simp] theorem now_smod (k : Nat) (f : Session → Session) : now (smod k f s) = now s := rfl
@[simp] theorem stamp_smod (k : Nat) (f : Session → Session) : stamp (smod k f s) = stamp s := rfl
@[simp] theorem now_qmod (k : Nat) (f : Queue → Queue) : now (qmod k f s) = now s := rfl
@[simp] theorem stamp_qmod (k : Nat) (f : Queue → Queue) : stamp (qmod k f s) = stamp s := rfl
@[simp] theorem now_pmod (k : Nat) (f : Partition → Partition) : now (pmod k f s) = now s := rfl
@[simp] theorem stamp_pmod (k : Nat) (f : Partition → Partition) : stamp (pmod k f s) = stamp s := rfl
@[simp] theorem now_tmod (k : Nat) (f : Tile → Tile) : now (tmod k f s) = now s := rfl
@[simp] theorem stamp_tmod (k : Nat) (f : Tile → Tile) : stamp (tmod k f s) = stamp s := rfl
@[simp] theorem now_cmod (k : Nat) (f : Cluster → Cluster) : now (cmod k f s) = now s := rfl
@[simp] theorem stamp_cmod (k : Nat) (f : Cluster → Cluster) : stamp (cmod k f s) = stamp s := rfl
@[simp] theorem now_t1mod (k : Nat) (f : T1Port → T1Port) : now (t1mod k f s) = now s := rfl
@[simp] theorem stamp_t1mod (k : Nat) (f : T1Port → T1Port) : stamp (t1mod k f s) = stamp s := rfl
@[simp] theorem now_fabmod (k : Nat) (f : FabricPort → FabricPort) : now (fabmod k f s) = now s := rfl
@[simp] theorem stamp_fabmod (k : Nat) (f : FabricPort → FabricPort) : stamp (fabmod k f s) = stamp s := rfl
@[simp] theorem now_chanmod (k : Nat) (f : Channel → Channel) : now (chanmod k f s) = now s := rfl
@[simp] theorem stamp_chanmod (k : Nat) (f : Channel → Channel) : stamp (chanmod k f s) = stamp s := rfl
@[simp] theorem now_jmod (g : BitVec 32) (f : Job → Job) : now (jmod g f s) = now s := rfl
@[simp] theorem stamp_jmod (g : BitVec 32) (f : Job → Job) : stamp (jmod g f s) = stamp s := rfl
@[simp] theorem now_jdel (g : BitVec 32) : now (jdel g s) = now s := rfl
@[simp] theorem stamp_jdel (g : BitVec 32) : stamp (jdel g s) = stamp s := rfl
@[simp] theorem now_poke (a : Nat) (b : Bytes) : now (poke a b s) = now s := rfl
@[simp] theorem stamp_poke (a : Nat) (b : Bytes) : stamp (poke a b s) = stamp s := rfl
@[simp] theorem now_wipe (a n : Nat) : now (wipe a n s) = now s := rfl
@[simp] theorem stamp_wipe (a n : Nat) : stamp (wipe a n s) = stamp s := rfl
@[simp] theorem jobOf_count (i j n : Nat) (tag : BitVec 32) : jobOf (count i j n s) tag = jobOf s tag := rfl
@[simp] theorem jobOf_setEvent (n : Nat) (tag : BitVec 32) : jobOf (setEvent n s) tag = jobOf s tag := rfl
@[simp] theorem jobOf_setCfg (i j : Nat) (v : Bytes) (tag : BitVec 32) : jobOf (setCfg i j v s) tag = jobOf s tag := rfl
@[simp] theorem jobOf_emit (o : OutFrame) (tag : BitVec 32) : jobOf (emit o s) tag = jobOf s tag := rfl
@[simp] theorem jobOf_smod (k : Nat) (f : Session → Session) (tag : BitVec 32) : jobOf (smod k f s) tag = jobOf s tag := rfl
@[simp] theorem jobOf_qmod (k : Nat) (f : Queue → Queue) (tag : BitVec 32) : jobOf (qmod k f s) tag = jobOf s tag := rfl
@[simp] theorem jobOf_pmod (k : Nat) (f : Partition → Partition) (tag : BitVec 32) : jobOf (pmod k f s) tag = jobOf s tag := rfl
@[simp] theorem jobOf_tmod (k : Nat) (f : Tile → Tile) (tag : BitVec 32) : jobOf (tmod k f s) tag = jobOf s tag := rfl
@[simp] theorem jobOf_cmod (k : Nat) (f : Cluster → Cluster) (tag : BitVec 32) : jobOf (cmod k f s) tag = jobOf s tag := rfl
@[simp] theorem jobOf_t1mod (k : Nat) (f : T1Port → T1Port) (tag : BitVec 32) : jobOf (t1mod k f s) tag = jobOf s tag := rfl
@[simp] theorem jobOf_fabmod (k : Nat) (f : FabricPort → FabricPort) (tag : BitVec 32) : jobOf (fabmod k f s) tag = jobOf s tag := rfl
@[simp] theorem jobOf_chanmod (k : Nat) (f : Channel → Channel) (tag : BitVec 32) : jobOf (chanmod k f s) tag = jobOf s tag := rfl
@[simp] theorem jobOf_poke (a : Nat) (b : Bytes) (tag : BitVec 32) : jobOf (poke a b s) tag = jobOf s tag := rfl
@[simp] theorem jobOf_wipe (a n : Nat) (tag : BitVec 32) : jobOf (wipe a n s) tag = jobOf s tag := rfl

end Sys2Proof.Machine
end

