-- ==== Sys2Proof/Laws/Host.lean ====
section
/-!
SUPPORT. Sys2Proof/Laws/Host.lean: what the state reads in which a request executes, and how a request ends: one lemma for each
way of `runReq`.
-/

namespace Sys2Proof.Machine

open Claims

variable (s : State)

/-! ## The state in which a request executes -/

theorem emit_out (f : OutFrame) : (emit f s).out = s.out ++ [f] := rfl

/-- A frame handed to a T1 port leaves or waits; nothing else changes (R379). -/
theorem sendT1_eq (x : Nat) (f : TxFrame) : sendT1 x f s = { s with out := (sendT1 x f s).out, t1 := (sendT1 x f s).t1 } := by
  unfold sendT1
  split <;> rfl

theorem ixSend_eq (x : Fin 4) (p f : Bytes) : ixSend x p f s = { s with out := (ixSend x p f s).out, t1 := (ixSend x p f s).t1 } :=
  sendT1_eq s _ _

/-- Frames, ports, clock and configuration decide what an Ixide frame does at its port. -/
theorem ixSend_congr (x : Fin 4) (p f : Bytes) (u v : State) (h1 : u.out = v.out) (h2 : u.t1 = v.t1) (h3 : u.clock = v.clock)
    (h4 : u.dict = v.dict) : (ixSend x p f u).out = (ixSend x p f v).out ∧ (ixSend x p f u).t1 = (ixSend x p f v).t1 := by
  have ht : ∀ y, t1Of u y = t1Of v y := fun y => by unfold t1Of; rw [h2]
  have hn : now u = now v := by unfold now; rw [h3]
  have hc : ∀ i j, cfg u i j = cfg v i j := fun i j => by unfold cfg cfgBytes; rw [h4]
  have hg : vlanTag u x.val 5 = vlanTag v x.val 5 := by unfold vlanTag; simp only [hc]
  unfold ixSend
  simp only [hg]
  generalize (if (p.drop 6).take 12 = zeros 10 ++ [0xff, 0xff] then 20 else 40 : Nat) = ip
  generalize (⟨4, .ixide x p (vlanTag v x.val 5) f, wireLen (vlanTag v x.val 5) (ip + 8 + f.length)⟩ : TxFrame) = tx
  unfold sendT1
  simp only [ht, hn]
  by_cases hc : (t1Of v x.val).waiting = [] ∧ mayStart (now v) (t1Of v x.val).launch tx.len = true
  · rw [if_pos hc, if_pos hc]
    exact ⟨by simp only [emit_out, h1], h2⟩
  · rw [if_neg hc, if_neg hc]
    unfold flushT1
    exact ⟨by simp only [ht, hn, h1], by simp only [ht, hn, h2]⟩

theorem heardFrom_eq (k : Nat) : heardFrom k s =
    { smod k (fun e => { e with heard := now s }) s with island := { s.island with hostHeard := (heardFrom k s).island.hostHeard } } := by
  unfold heardFrom
  simp only
  split <;> rfl

/-- The state in which a request executes differs in its session, 0x741e:01 and HOST_WD's last word only. -/
theorem taken_eq (k : Nat) : taken k s = { s with
    sessions := (taken k s).sessions, counters := (count 0x741e 1 1 s).counters,
    island := { s.island with hostHeard := (taken k s).island.hostHeard } } := by
  unfold taken takeReq
  rw [heardFrom_eq]
  rfl

theorem sess_heardFrom (k j : Nat) : sess (heardFrom k s) j = if j = k then { sess s k with heard := now s } else sess s j := by
  have h : (heardFrom k s).sessions = (smod k (fun e => { e with heard := now s }) s).sessions := by rw [heardFrom_eq]
  have hj : sess (heardFrom k s) j = sess (smod k (fun e => { e with heard := now s }) s) j := by unfold sess; rw [h]
  rw [hj, sess_smod]

theorem sess_taken (k : Nat) : sess (taken k s) k =
    { sess s k with heard := now s, last := (sess s k).last + 1, busy := true, source := (sess s k).peer } := by
  simp [taken, takeReq, sess_heardFrom]

theorem sess_taken_other (k j : Nat) (h : j ≠ k) : sess (taken k s) j = sess s j := by
  simp [taken, takeReq, sess_smod, sess_heardFrom, h]

@[simp] theorem cfgBytes_taken (k i j : Nat) : cfgBytes (taken k s) i j = cfgBytes s i j := by
  rw [taken_eq]; rfl
@[simp] theorem cfg_taken (k i j : Nat) : cfg (taken k s) i j = cfg s i j := by simp [cfg]
@[simp] theorem clientOf_taken (k : Nat) : clientOf (taken k s) k = clientOf s k := by simp [clientOf, sess_taken]
@[simp] theorem hasRight_taken (k r : Nat) : hasRight (taken k s) k r = hasRight s k r := by
  simp [hasRight, admitted, sessionRights, rightsOf, sess_taken]
@[simp] theorem now_taken (k : Nat) : now (taken k s) = now s := by rw [taken_eq]; rfl
@[simp] theorem stamp_taken (k : Nat) : stamp (taken k s) = stamp s := by rw [taken_eq]; rfl
@[simp] theorem taken_boot (k : Nat) : (taken k s).boot = s.boot := by rw [taken_eq]
@[simp] theorem taken_queues (k : Nat) : (taken k s).queues = s.queues := by rw [taken_eq]
@[simp] theorem taken_sluice (k : Nat) : (taken k s).sluice = s.sluice := by rw [taken_eq]
@[simp] theorem taken_parts (k : Nat) : (taken k s).parts = s.parts := by rw [taken_eq]
@[simp] theorem taken_dict (k : Nat) : (taken k s).dict = s.dict := by rw [taken_eq]
@[simp] theorem taken_mem (k : Nat) : (taken k s).mem = s.mem := by rw [taken_eq]
@[simp] theorem taken_out (k : Nat) : (taken k s).out = s.out := by rw [taken_eq]
@[simp] theorem taken_clock (k : Nat) : (taken k s).clock = s.clock := by rw [taken_eq]
@[simp] theorem taken_pages (k : Nat) : (taken k s).pages = s.pages := by rw [taken_eq]
@[simp] theorem taken_dir (k : Nat) : (taken k s).dir = s.dir := by rw [taken_eq]
@[simp] theorem taken_streams (k : Nat) : (taken k s).streams = s.streams := by rw [taken_eq]
@[simp] theorem taken_map (k : Nat) : (taken k s).map = s.map := by rw [taken_eq]
@[simp] theorem taken_selector (k : Nat) : (taken k s).selector = s.selector := by rw [taken_eq]
@[simp] theorem taken_wellhead (k : Nat) : (taken k s).wellhead = s.wellhead := by rw [taken_eq]
@[simp] theorem taken_fusion (k : Nat) : (taken k s).fusion = s.fusion := by rw [taken_eq]
@[simp] theorem taken_solver (k : Nat) : (taken k s).solver = s.solver := by rw [taken_eq]
@[simp] theorem taken_pump (k : Nat) : (taken k s).pump = s.pump := by rw [taken_eq]
@[simp] theorem taken_power (k : Nat) : (taken k s).power = s.power := by rw [taken_eq]
@[simp] theorem taken_t1 (k : Nat) : (taken k s).t1 = s.t1 := by rw [taken_eq]
@[simp] theorem taken_fabric (k : Nat) : (taken k s).fabric = s.fabric := by rw [taken_eq]
@[simp] theorem taken_timers (k : Nat) : (taken k s).timers = s.timers := by rw [taken_eq]
@[simp] theorem taken_pps (k : Nat) : (taken k s).pps = s.pps := by rw [taken_eq]
@[simp] theorem taken_as (k : Nat) : (taken k s).as_ = s.as_ := by rw [taken_eq]
@[simp] theorem taken_events (k : Nat) : (taken k s).events = s.events := by rw [taken_eq]
@[simp] theorem taken_pins (k : Nat) : (taken k s).pins = s.pins := by rw [taken_eq]
@[simp] theorem taken_islandState (k : Nat) : (taken k s).island.state = s.island.state := by rw [taken_eq]
@[simp] theorem taken_freeCtr (k : Nat) : (taken k s).freeCtr = s.freeCtr := by rw [taken_eq]
@[simp] theorem taken_resetting (k : Nat) : (taken k s).resetting = s.resetting := by rw [taken_eq]

/-! ## How a request ends -/

theorem runReq_ready (k : Nat) (f : State → ReqRes) (h : HostReady k s) : runReq k f s = settle k (taken k s) (f (taken k s)) := by
  obtain ⟨h1, h2, _, h4, _⟩ := h
  have hb : (sess (heardFrom k (count 0x741e 1 1 s)) k).busy = false := by simp [sess_heardFrom, h2]
  have hl : (sess (heardFrom k (count 0x741e 1 1 s)) k).last = (sess s k).last := by simp [sess_heardFrom]
  have hp : (sess (heardFrom k (count 0x741e 1 1 s)) k).peer = (sess s k).peer := by simp [sess_heardFrom]
  unfold runReq reachesModule
  simp only [h1, h4, Bool.not_true, Bool.false_eq_true, ↓reduceIte, hb, hl, hp]
  rfl

theorem hostWrite_ready (k i j : Nat) (d : Bytes) (h : HostReady k s) :
    hostWrite k i j d s = settle k (taken k s) (ofWRes (taken k s) (writeValue k i j d (taken k s))) := by
  unfold hostWrite
  rw [runReq_ready s k _ h]
  have ht : (sess (taken k s) k).transfer.isSome = false := by simp [sess_taken, h.2.2.1]
  simp [wholeWrite, ht]

/-- A write of a ready session that takes effect is answered with the response data (R468, R470). -/
theorem hostWrite_done (k i j : Nat) (d r : Bytes) (u : State) (h : HostReady k s)
    (hw : writeValue k i j d (taken k s) = .done r u) (ho : (sess u k).open_ = true) (hg : (sess u k).gen = (sess s k).gen) :
    hostWrite k i j d s = answer k { data := r } u := by
  rw [hostWrite_ready s k i j d h, hw]
  simp [ofWRes, settle, respond, ho, hg, sess_taken]

/-- A write of a ready session that is refused changes nothing but the session and is answered with the abort code (R11, R474). -/
theorem hostWrite_abort (k i j : Nat) (d : Bytes) (c : BitVec 32) (h : HostReady k s)
    (hw : writeValue k i j d (taken k s) = .abort c) : hostWrite k i j d s = abort k c (taken k s) := by
  rw [hostWrite_ready s k i j d h, hw]
  rfl

/-- A submission of a ready session waits for its answer (R60). -/
theorem hostWrite_wait (k i j : Nat) (d : Bytes) (u : State) (h : HostReady k s)
    (hw : writeValue k i j d (taken k s) = .wait u) : hostWrite k i j d s = u := by
  rw [hostWrite_ready s k i j d h, hw]
  rfl

/-- What an answer leaves: the session, the frames and 0x741e:04 of an abort are all that changes. -/
theorem answer_eq (k : Nat) (r : Reply) : answer k r s = { s with
    sessions := (answer k r s).sessions, out := (answer k r s).out, t1 := (answer k r s).t1, counters := (answer k r s).counters } := by
  unfold answer reply
  simp only
  split <;> (rw [ixSend_eq]; rfl)

theorem answer_counters (k : Nat) (r : Reply) (h : r.abort = 0) : (answer k r s).counters = s.counters := by
  unfold answer reply
  simp only [if_pos h]
  rw [ixSend_eq]
  rfl

theorem answer_counters_abort (k : Nat) (r : Reply) (h : r.abort ≠ 0) : (answer k r s).counters = (count 0x741e 4 1 s).counters := by
  have hc : ∀ u : State, u.counters = s.counters → (count 0x741e 4 1 u).counters = (count 0x741e 4 1 s).counters := by
    intro u hu; simp only [count, counter, hu]
  unfold answer
  simp only [if_neg h]
  exact hc _ (by unfold reply; rw [ixSend_eq]; rfl)

theorem sess_answer (k j : Nat) (r : Reply) : sess (answer k r s) j =
    if j = k then { sess s k with
      busy := false, reply := r, cached := ixFrame s k 5 (sess s k).last (stamp s) (responsePayload r) } else sess s j := by
  have h : ∀ (y : Fin 4) (p f : Bytes) (v : State), sess (ixSend y p f v) j = sess v j := fun y p f v => by
    rw [ixSend_eq]; rfl
  unfold answer reply
  simp only
  split <;> simp [h, sess_smod]

/-- An answer is handed to the session's port. -/
theorem answer_sent (k : Nat) (r : Reply) :
    Sent (sess s k).port (sess s k).source (ixFrame s k 5 (sess s k).last (stamp s) (responsePayload r)) s (answer k r s) := by
  have h : ∀ v : State, v.out = s.out → v.t1 = s.t1 → v.clock = s.clock → v.dict = s.dict → ∀ y p f,
      Sent y p f s (ixSend y p f v) := fun v h1 h2 h3 h4 y p f => ixSend_congr y p f v s h1 h2 h3 h4
  have hs := h (smod k (fun e => { e with
    busy := false, cached := ixFrame s k 5 (sess s k).last (stamp s) (responsePayload r), reply := r }) s) rfl rfl rfl rfl
    (sess s k).port (sess s k).source (ixFrame s k 5 (sess s k).last (stamp s) (responsePayload r))
  unfold answer reply
  simp only [sess_smod, ↓reduceIte]
  split <;> exact ⟨hs.1, hs.2⟩

/-- A state that differs in its books only, with other books. -/
theorem books_eq (u v : State) (ss : Tbl Session) (cs : Tbl (BitVec 64)) (o : List OutFrame) (p : Tbl T1Port)
    (h : v = { u with sessions := v.sessions, counters := v.counters, island := { u.island with hostHeard := v.island.hostHeard } }) :
    ({ v with sessions := ss, out := o, t1 := p, counters := cs } : State) =
      { u with sessions := ss, counters := cs, out := o, t1 := p, island := { u.island with hostHeard := v.island.hostHeard } } := by
  rw [h]

/-- A request that took effect is answered: `v` is what the effect made of the state in which the request executes, `u` what it
makes of the state before. -/
theorem did_answer (k : Nat) (r : Reply) (hr : r.abort = 0) (u v : State)
    (h1 : v = { u with sessions := v.sessions, counters := v.counters, island := { u.island with hostHeard := v.island.hostHeard } })
    (h2 : sess v k = { sess u k with heard := now s, last := (sess s k).last + 1, busy := true, source := (sess s k).peer })
    (h3 : (sess u k).port = (sess s k).port ∧ (sess u k).gen = (sess s k).gen)
    (h4 : ∀ j, j ≠ k → sess v j = sess u j)
    (h5 : counter v 0x741e 1 = counter u 0x741e 1 + 1) (h6 : CountersBut [0x741e01] u v) :
    Did k r u s (answer k r v) := by
  have hst : stamp v = stamp u := by rw [h1]; rfl
  have hf : ixFrame v k 5 (sess v k).last (stamp v) (responsePayload r) =
      ixFrame s k 5 ((sess s k).last + 1) (stamp u) (responsePayload r) := by
    simp [ixFrame, sessionId, h2, h3.2, hst]
  have hi : (answer k r v).island = v.island := by rw [answer_eq]
  refine ⟨⟨?_, ?_, ?_, ?_⟩, ?_⟩
  · have ho := answer_sent v k r
    rw [hf] at ho
    have h8 : (sess v k).port = (sess s k).port := by rw [h2]; exact h3.1
    have h9 : (sess v k).source = (sess s k).peer := by rw [h2]
    rw [h8, h9] at ho
    have hc := ixSend_congr (sess s k).port (sess s k).peer (ixFrame s k 5 ((sess s k).last + 1) (stamp u) (responsePayload r)) v u
      (by rw [h1]) (by rw [h1]) (by rw [h1]) (by rw [h1])
    have he := books_eq u v (answer k r v).sessions (answer k r v).counters (answer k r v).out (answer k r v).t1 h1
    simp only
    rw [hi, ← hc.1, ← hc.2, ← ho.1, ← ho.2, ← he]
    exact answer_eq v k _
  · rw [sess_answer, if_pos rfl, hf, h2]
  · intro j hj
    rw [sess_answer, if_neg hj, h4 j hj]
  · unfold counter; rw [answer_counters _ _ _ hr]; exact h5
  · intro i hi
    rw [answer_counters _ _ _ hr]
    exact h6 i hi

/-- A refused request changed nothing. -/
theorem refused_abort (k : Nat) (c : BitVec 32) (hc : c ≠ 0) : RefusedWith k c s (abort k c (taken k s)) := by
  have hf : ixFrame (taken k s) k 5 (sess (taken k s) k).last (stamp (taken k s)) (responsePayload { abort := c }) =
      ixFrame s k 5 ((sess s k).last + 1) (stamp s) (responsePayload { abort := c }) := by
    simp [ixFrame, sessionId, sess_taken]
  have hn : (abort k c (taken k s)).counters = (count 0x741e 4 1 (taken k s)).counters := by
    unfold abort
    exact answer_counters_abort _ k _ hc
  have hct : (taken k s).counters = (count 0x741e 1 1 s).counters := by rw [taken_eq]
  refine ⟨⟨?_, ?_, ?_, ?_⟩, ?_, ?_⟩
  · have ho := answer_sent (taken k s) k { abort := c }
    rw [hf] at ho
    have h8 : (sess (taken k s) k).port = (sess s k).port := by rw [sess_taken]
    have h9 : (sess (taken k s) k).source = (sess s k).peer := by rw [sess_taken]
    rw [h8, h9] at ho
    have hg := ixSend_congr (sess s k).port (sess s k).peer
      (ixFrame s k 5 ((sess s k).last + 1) (stamp s) (responsePayload { abort := c })) (taken k s) s
      (taken_out s k) (taken_t1 s k) (taken_clock s k) (taken_dict s k)
    have hi : (answer k { abort := c } (taken k s)).island = (taken k s).island := by rw [answer_eq]
    have ht : taken k s = { s with
        sessions := (taken k s).sessions, counters := (taken k s).counters,
        island := { s.island with hostHeard := (taken k s).island.hostHeard } } := by rw [taken_eq]
    have he := books_eq s (taken k s) (answer k { abort := c } (taken k s)).sessions
      (answer k { abort := c } (taken k s)).counters (answer k { abort := c } (taken k s)).out
      (answer k { abort := c } (taken k s)).t1 ht
    unfold abort
    simp only
    rw [hi, ← hg.1, ← hg.2, ← ho.1, ← ho.2, ← he]
    exact answer_eq (taken k s) k _
  · unfold abort; rw [sess_answer, if_pos rfl, hf, sess_taken]
  · intro j hj
    unfold abort; rw [sess_answer, if_neg hj, sess_taken_other s k j hj]
  · unfold counter; rw [hn]
    simp [count, tblGet_set, hct, counter, objKey]
  · intro i hi
    rw [hn]
    simp only [List.mem_cons, List.not_mem_nil, or_false, not_or] at hi
    simp [count, tblGet_set, hct, counter, objKey, hi.1, hi.2]
  · unfold counter; rw [hn]
    simp [count, tblGet_set, hct, counter, objKey]

end Sys2Proof.Machine
end

