-- ==== Sys2Proof/Laws/Dict.lean ====
section
/-!
SUPPORT. Sys2Proof/Laws/Dict.lean: the family of each indexed object, and a dictionary write that passes the checks of R474.
-/

namespace Sys2Proof.Machine

/-! ## Families -/

theorem famBase_portRights (n : Fin 4) : famBase (0x1110 + n.val) = (0x1110, n.val) := by revert n; decide
theorem famBase_session (n : Fin 64) : famBase (0x1180 + n.val) = (0x1180, n.val) := by revert n; decide
theorem famBase_partition (n : Fin 64) : famBase (0x2100 + n.val) = (0x2100, n.val) := by revert n; decide
theorem famBase_timer (n : Fin 8) : famBase (0x3428 + n.val) = (0x3428, n.val) := by revert n; decide
theorem famBase_t1 (n : Fin 4) : famBase (0x3430 + n.val) = (0x3430, n.val) := by revert n; decide
theorem famBase_fabric (n : Fin 3) : famBase (0x3450 + n.val) = (0x3450, n.val) := by revert n; decide
theorem famBase_pool (n : Fin 4) : famBase (0x3a20 + n.val) = (0x3a20, n.val) := by revert n; decide
theorem famBase_camera (n : Fin 32) : famBase (0x4800 + n.val) = (0x4800, n.val) := by revert n; decide
theorem famBase_sample (n : Fin 16) : famBase (0x4900 + n.val) = (0x4900, n.val) := by revert n; decide
theorem famBase_input (n : Fin 16) : famBase (0x5010 + n.val) = (0x5010, n.val) := by revert n; decide
theorem famBase_axis (n : Fin 64) : famBase (0x5500 + n.val) = (0x5500, n.val) := by revert n; decide
theorem famBase_schedule (n : Fin 2) : famBase (0x5810 + n.val) = (0x5810, n.val) := by revert n; decide
theorem famBase_selector (n : Fin 16) : famBase (0x5d00 + n.val) = (0x5d00, n.val) := by revert n; decide

/-- The families below the queues end by 0x6000. -/
theorem fams_below_queues : ∀ f ∈ objsIdentity ++ objsDevice ++ objsPower ++ objsTime ++ objsMemory ++ objsSafety ++ objsIngest ++
    objsFusion ++ objsPump ++ objsSolver ++ objsPlanner, f.base + f.count ≤ 0x6000 := by decide

theorem famOf_queue (q : Nat) (h : q < 4096) : famOf (0x6000 + q) = famOf 0x6000 := by
  have hn : ∀ i, 0x6000 ≤ i → (objsIdentity ++ objsDevice ++ objsPower ++ objsTime ++ objsMemory ++ objsSafety ++ objsIngest ++
      objsFusion ++ objsPump ++ objsSolver ++ objsPlanner).find?
        (fun f => decide (f.base ≤ i) && decide (i < f.base + f.count)) = none := by
    intro i hi
    rw [List.find?_eq_none]
    intro f hf
    have := fams_below_queues f hf
    simp only [Bool.and_eq_true, decide_eq_true_eq, not_and]
    omega
  have ha : ∀ i, 0x6000 ≤ i → famOf i = objsQueue.find? (fun f => decide (f.base ≤ i) && decide (i < f.base + f.count)) := by
    intro i hi
    have := hn i hi
    unfold famOf objFams
    rw [List.find?_append, this]
    rfl
  have hb : ∀ i, 0x6000 ≤ i → i < 0x7000 →
      objsQueue.find? (fun f => decide (f.base ≤ i) && decide (i < f.base + f.count)) = objsQueue.head? := by
    intro i h1 h2
    have h3 : (decide (0x6000 ≤ i) && decide (i < 0x6000 + 4096)) = true := by
      simp only [Bool.and_eq_true, decide_eq_true_eq]; omega
    simp only [objsQueue, List.find?_cons, h3, List.head?_cons]
  rw [ha _ (by omega), ha _ (le_refl _), hb _ (by omega) (by omega), hb _ (le_refl _) (by omega)]

theorem famBase_queue (q : Fin 4096) : famBase (0x6000 + q.val) = (0x6000, q.val) := by
  unfold famBase
  rw [famOf_queue q.val q.isLt]
  have : famOf 0x6000 = some (objsQueue.headD ⟨0, 0, []⟩) := by decide
  rw [this]
  simp [objsQueue]

theorem counterSubs_queue (q : Fin 4096) : counterSubs (0x6000 + q.val) = none := by
  have := q.isLt
  unfold counterSubs
  split
  · omega
  · split <;> first | rfl | omega

/-- Objects of a queue are those of queue 0. -/
theorem objDef_queue (q : Fin 4096) (j : Nat) : objDef (0x6000 + q.val) j = objDef 0x6000 j := by
  have h0 : counterSubs 0x6000 = none := by decide
  have h1 : highSub (0x6000 + q.val) = highSub 0x6000 := by
    unfold highSub; rw [counterSubs_queue, h0, famOf_queue q.val q.isLt]
  unfold objDef idxDefined
  rw [counterSubs_queue, h0, famOf_queue q.val q.isLt, h1]

theorem idxDefined_queue (q : Fin 4096) : idxDefined (0x6000 + q.val) = true := by
  have h : (famOf 0x6000).isSome = true := by decide
  unfold idxDefined
  rw [famOf_queue q.val q.isLt, h]
  rfl

/-! ## A write that passes the checks -/

/-- Checks 4 to 10 passed (R474): reachable, defined, not read-only, the right held, the queue the client's own. -/
theorem writeTarget_ok (s : State) (k i j : Nat) (d : Bytes) (ty : OTy) (acc : OAcc) (df : Nat)
    (h1 : reachable s i j = true) (h2 : idxDefined i = true) (h3 : objDef i j = some (ty, acc, df)) (h4 : acc ≠ .ro)
    (h5 : hasRight s k (writeRight k i j d) = true) (h6 : notOwner s k i j = false) :
    writeTarget s k i j d = .ok (ty, acc) := by
  unfold writeTarget
  simp only [h1, h2, h3, Bool.not_true, Bool.false_eq_true, ↓reduceIte]
  cases acc <;> simp_all

/-- A write whose checks pass has the object's effect. -/
theorem writeValue_effect (s : State) (k i j : Nat) (d : Bytes) (ty : OTy) (acc : OAcc)
    (h0 : writeTarget s k i j d = .ok (ty, acc))
    (h1 : typeOk s (famBase i).1 j ty d = true) (h2 : reservedOk (famBase i).1 j d = true)
    (h3 : acc = .rws → ownerRuns s (famBase i).1 (famBase i).2 j = false)
    (h4 : otyVar ty = false → rangeOk s (famBase i).1 (famBase i).2 j (leNat d) = true) :
    writeValue k i j d s = writeEffect k i j d s := by
  unfold writeValue
  simp only [h0, h1, h2, Bool.not_true, Bool.false_eq_true, ↓reduceIte]
  split
  · next h => exact absurd (h3 h.1) (by simp [h.2])
  · split
    · next h =>
      have ha : otyVar ty = false := by simpa using h.1
      have hb : rangeOk s (famBase i).1 (famBase i).2 j (leNat d) = false := by simpa using h.2
      exact absurd (h4 ha) (by simp [hb])
    · rfl

theorem reachable_ready (s : State) (i j : Nat) (h : s.boot.state ≠ .recovery) : reachable s i j = true := by
  simp [reachable, h]

end Sys2Proof.Machine
end

