-- ==== Sys2Proof/Laws/Ops.lean ====
section
/-!
SUPPORT. Sys2Proof/Laws/Ops.lean: what each shared operation can do, said once: the clock, notify frames, internal events, free
values, the issue of a tile instruction and the fold over a list.
-/

namespace Sys2Proof.Machine

open Claims

/-! ## Folds -/

/-- What every step of a fold keeps, the fold keeps. -/
theorem forEach_rel {α : Type} (r : State → State → Prop) (hr : ∀ s, r s s) (ht : ∀ s u v, r s u → r u v → r s v)
    (f : α → State → State) (l : List α) (hf : ∀ a ∈ l, ∀ s, r s (f a s)) (s : State) : r s (forEach l f s) := by
  unfold forEach
  induction l generalizing s with
  | nil => exact hr s
  | cons a l ih =>
    exact ht _ _ _ (hf a (by simp) s) (ih (fun b hb => hf b (List.mem_cons_of_mem _ hb)) _)

/-- A field that no step of a fold changes, the fold does not change. -/
theorem forEach_keeps {α β : Type} (g : State → β) (f : α → State → State) (l : List α) (hf : ∀ a ∈ l, ∀ s, g (f a s) = g s)
    (s : State) : g (forEach l f s) = g s :=
  forEach_rel (fun s t => g t = g s) (fun _ => rfl) (fun _ _ _ h k => k.trans h) f l hf s

/-! ## The clock -/

/-- Time that passes changes the clock only. -/
theorem clockTo_eq (t : Nat) (s : State) : clockTo t s = { s with clock := (clockTo t s).clock } := by
  unfold clockTo; split <;> rfl

/-- The clock goes forward to the instant and never back. -/
theorem now_clockTo (t : Nat) (s : State) (h : t < 2 ^ 48 * nsPerS) : now (clockTo t s) = max t (now s) := by
  unfold clockTo
  split
  · next hle => exact (max_eq_right hle).symm
  · next hlt =>
    have h1 : t / nsPerS < 2 ^ 48 := Nat.div_lt_of_lt_mul (by rwa [Nat.mul_comm] at h)
    have h2 : t % nsPerS + nsPerS * (t / nsPerS) = t := Nat.mod_add_div t nsPerS
    have h3 : (BitVec.ofNat 48 (t / nsPerS)).toNat = t / nsPerS := by rw [BitVec.toNat_ofNat]; exact Nat.mod_eq_of_lt h1
    show (BitVec.ofNat 48 (t / nsPerS)).toNat * nsPerS + t % nsPerS = max t (now s)
    rw [h3, max_eq_left (by omega), Nat.mul_comm]
    omega

/-- What a cycle of a fabric port can change: what its buffer drains and what it sends (R382). -/
theorem fabricTick_eq (p : Nat) (s : State) : fabricTick p s = { s with
    freeCtr := (fabricTick p s).freeCtr, out := (fabricTick p s).out, fabric := (fabricTick p s).fabric } := by
  have rel : ∀ u v w : State, v = { u with freeCtr := v.freeCtr, out := v.out, fabric := v.fabric } →
      w = { v with freeCtr := w.freeCtr, out := w.out, fabric := w.fabric } →
      w = { u with freeCtr := w.freeCtr, out := w.out, fabric := w.fabric } := fun u v w h k => by rw [k, h]
  have hr : ∀ n (u : State), receiveBytes p n u = { u with
      freeCtr := (receiveBytes p n u).freeCtr, out := (receiveBytes p n u).out, fabric := (receiveBytes p n u).fabric } := fun n u => by
    unfold receiveBytes
    simp only
    split
    · rfl
    · split <;> rfl
  have hh : ∀ u : State, releaseHeld p u = { u with
      freeCtr := (releaseHeld p u).freeCtr, out := (releaseHeld p u).out, fabric := (releaseHeld p u).fabric } := fun u => by
    unfold releaseHeld
    split
    · rfl
    · exact rel u _ _ rfl (forEach_rel (fun u v => v = { u with freeCtr := v.freeCtr, out := v.out, fabric := v.fabric })
        (fun _ => rfl) rel _ _ (fun _ _ _ => rfl) _)
  unfold fabricTick
  simp only
  split
  · exact hh s
  · exact rel s _ _ (hr 0 s) (hh _)

/-- An idle cycle changes the clock, and the fabric ports with what they send. -/
theorem idle_eq (s : State) : idle s = { s with
    clock := (idle s).clock, freeCtr := (idle s).freeCtr, out := (idle s).out, fabric := (idle s).fabric } := by
  unfold idle
  split
  · rfl
  · have h := forEach_rel (fun s t => t = { s with freeCtr := t.freeCtr, out := t.out, fabric := t.fabric }) (fun _ => rfl)
      (fun _ _ _ h k => by rw [k, h]) fabricTick (List.range 3) (fun p _ s => fabricTick_eq p s) (aoTick s)
    generalize forEach (List.range 3) fabricTick (aoTick s) = y at h ⊢
    obtain ⟨c, hc⟩ : ∃ c, aoTick s = { s with clock := c } := ⟨_, rfl⟩
    rw [hc] at h
    obtain ⟨a, b, d, rfl⟩ : ∃ a b d, y = { s with clock := c, freeCtr := a, out := b, fabric := d } := ⟨_, _, _, h⟩
    rfl

/-! ## Notify frames -/

/-- A step that changes sessions, counters and event bits only, after another such. -/
theorem three_trans (s u v : State) (h : u = { s with sessions := u.sessions, counters := u.counters, events := u.events, eventsAt := u.eventsAt, eventsNew := u.eventsNew })
    (k : v = { u with sessions := v.sessions, counters := v.counters, events := v.events, eventsAt := v.eventsAt, eventsNew := v.eventsNew }) :
    v = { s with sessions := v.sessions, counters := v.counters, events := v.events, eventsAt := v.eventsAt, eventsNew := v.eventsNew } := by
  rw [k, h]

theorem smod_three (k : Nat) (f : Session → Session) (s : State) : smod k f s = { s with
    sessions := (smod k f s).sessions, counters := (smod k f s).counters, events := (smod k f s).events,
    eventsAt := (smod k f s).eventsAt, eventsNew := (smod k f s).eventsNew } := rfl

/-- A dropped notify frame is counted and marked (R478). -/
theorem notifyDropped_eq (k : Nat) (s : State) : notifyDropped k s = { s with
    sessions := (notifyDropped k s).sessions, counters := (notifyDropped k s).counters, events := (notifyDropped k s).events,
    eventsAt := (notifyDropped k s).eventsAt, eventsNew := (notifyDropped k s).eventsNew } :=
  three_trans _ _ _ (three_trans _ _ _ (smod_three k _ s) rfl) rfl

/-- A notify frame offered to a session changes sessions, 0x741e:08 and the events only (R478). -/
theorem notify_eq (k : Nat) (n : Notify) (s : State) : notify k n s = { s with
    sessions := (notify k n s).sessions, counters := (notify k n s).counters, events := (notify k n s).events,
    eventsAt := (notify k n s).eventsAt, eventsNew := (notify k n s).eventsNew } := by
  unfold notify
  split
  · exact smod_three _ _ _
  · split
    · exact three_trans _ _ _ (smod_three _ _ _) (notifyDropped_eq _ _)
    · exact notifyDropped_eq _ _

/-- It leaves every other session as it was. -/
theorem sess_notify_other (k j : Nat) (n : Notify) (s : State) (h : j ≠ k) : sess (notify k n s) j = sess s j := by
  have hs : ∀ f u, sess (smod k f u) j = sess u j := fun f u => by simp [sess_smod, h]
  unfold notify
  split
  · exact hs _ _
  · split <;> · unfold notifyDropped; simp [sess, setEvent, count] at hs ⊢; simp [hs]

/-- Below 256 waiting frames it joins the queue, and nothing else changes (R478). -/
theorem notify_queued (k : Nat) (n : Notify) (s : State) (h : (sess s k).queue.length < 256) :
    notify k n s = smod k (fun e => { e with queue := e.queue ++ [n] }) s := by
  unfold notify; simp only [h, ↓reduceIte]

/-- A notify frame offered to every open session. -/
theorem notifyAll_eq (c : Nat) (d : Bytes) (s : State) : notifyAll c d s = { s with
    sessions := (notifyAll c d s).sessions, counters := (notifyAll c d s).counters, events := (notifyAll c d s).events,
    eventsAt := (notifyAll c d s).eventsAt, eventsNew := (notifyAll c d s).eventsNew } := by
  unfold notifyAll
  exact forEach_rel (fun s t => t = { s with sessions := t.sessions, counters := t.counters, events := t.events, eventsAt := t.eventsAt, eventsNew := t.eventsNew })
    (fun _ => rfl) three_trans _ _ (fun a _ s => notify_eq a _ s) s

/-- A notify frame offered to every subscribed session. -/
theorem notifySubs_eq (c : Nat) (d : Bytes) (s : State) : notifySubs c d s = { s with
    sessions := (notifySubs c d s).sessions, counters := (notifySubs c d s).counters, events := (notifySubs c d s).events,
    eventsAt := (notifySubs c d s).eventsAt, eventsNew := (notifySubs c d s).eventsNew } := by
  unfold notifySubs
  exact forEach_rel (fun s t => t = { s with sessions := t.sessions, counters := t.counters, events := t.events, eventsAt := t.eventsAt, eventsNew := t.eventsNew })
    (fun _ => rfl) three_trans _ _ (fun a _ s => notify_eq a _ s) s

/-! ## Internal events -/

/-- An internal event changes the waiting tiles and the raised events only (R22, R100). -/
theorem raiseEvent_eq (job : Option (BitVec 32)) (n : Nat) (s : State) : raiseEvent job n s = { s with
    tiles := (raiseEvent job n s).tiles, raised := (raiseEvent job n s).raised } := by
  unfold raiseEvent
  split
  · rfl
  · exact forEach_rel (fun s t => t = { s with tiles := t.tiles, raised := t.raised })
      (fun _ => rfl) (fun s u v h k => by rw [k, h]) _ _ (fun a _ s => rfl) s

/-- Where no tile waits for it, an event is raised and stays (log 25). -/
theorem raised_raiseEvent (job : Option (BitVec 32)) (n : Nat) (s : State) (h : eventWaiters s job n = []) :
    ⟨n, job⟩ ∈ (raiseEvent job n s).raised := by
  unfold raiseEvent
  rw [if_pos h]
  show (⟨n, job⟩ : Raised) ∈ (if ⟨n, job⟩ ∈ s.raised then s.raised else s.raised ++ [⟨n, job⟩])
  split
  · assumption
  · simp

/-! ## Free values -/

theorem freshNat_state (s : State) : (freshNat s).2 = { s with freeCtr := s.freeCtr + 1 } := rfl
theorem freshBytes_state (n : Nat) (s : State) : (freshBytes n s).2 = { s with freeCtr := s.freeCtr + 1 } := rfl
theorem freshBytes_length (n : Nat) (s : State) : (freshBytes n s).1.length = n := by simp [freshBytes]
theorem freshChoice_state (l : List Nat) (s : State) : (freshChoice l s).2 = { s with freeCtr := s.freeCtr + 1 } := rfl

/-- A free choice is one of the elements, whichever it is (log 2). -/
theorem freshChoice_mem (l : List Nat) (s : State) (h : l ≠ []) : ∃ n, (freshChoice l s).1 = some n ∧ n ∈ l := by
  have hl : 0 < l.length := List.length_pos_iff.2 h
  have hi : Config.choice s.freeCtr l.length % l.length < l.length := Nat.mod_lt _ hl
  exact ⟨l[_]'hi, by simp [freshChoice, List.getElem?_eq_getElem hi], List.getElem_mem hi⟩

/-! ## Tile instructions -/

/-- Cycles charged change the counts of the job that holds the tile, and nothing else. -/
theorem chargeCycles_eq (t n : Nat) (s : State) : chargeCycles t n s = { s with
    sluice := { s.sluice with jobs := (chargeCycles t n s).sluice.jobs } } := by
  unfold chargeCycles
  split
  · simp only
    split <;> split <;> rfl
  · rfl

/-- An instruction that may not issue changes nothing (R410, R433). -/
theorem issue_stopped (t : Nat) (op : Bool → Memory → Tile → Option TileOut) (s : State) (h : mayIssue s t = false) :
    issue t op s = s := by
  unfold issue; simp [h]

/-- An instruction that finds something illegal is an illegal operation (R102). -/
theorem issue_illegal (t : Nat) (op : Bool → Memory → Tile → Option TileOut) (s : State) (h : mayIssue s t = true)
    (ho : op (zgateOn s t) s.mem (tileOf s t) = none) : issue t op s = illegalOp t s := by
  unfold issue; simp [h, ho]

/-- An instruction that runs leaves of its tile what its operation made, of memory what it stored unless the tile is a shadow, and
of everything else the cycle counts of its job (R100, R422). -/
theorem issue_runs (t : Nat) (op : Bool → Memory → Tile → Option TileOut) (s : State) (r : TileOut) (h : mayIssue s t = true)
    (ho : op (zgateOn s t) s.mem (tileOf s t) = some r) :
    issue t op s = { s with
      tiles := tblSet {} s.tiles t { r.tile with pc := r.tile.pc + 1, cycles := r.tile.cycles + r.cycles },
      mem := if (shadowOf s t).isSome then s.mem else r.mem,
      sluice := { s.sluice with jobs := (issue t op s).sluice.jobs } } := by
  unfold issue
  simp only [h, ho, Bool.not_true, Bool.false_eq_true, ↓reduceIte]
  rw [chargeCycles_eq]
  rfl

/-- A sequencer instruction with a field that its opcode does not name is an illegal operation (R102). -/
theorem sequence_illegal (op t : Nat) (f : TileFields) (go : State → State) (s : State) (h : mayIssue s t = true)
    (hf : fieldsNamed op f = false) : sequence op t f go s = illegalOp t s := by
  unfold sequence; simp [h, hf]

theorem sequence_stopped (op t : Nat) (f : TileFields) (go : State → State) (s : State) (h : mayIssue s t = false) :
    sequence op t f go s = s := by
  unfold sequence; simp [h]

theorem sequence_runs (op t : Nat) (f : TileFields) (go : State → State) (s : State) (h : MayRun op t f s) :
    sequence op t f go s = go s := by
  unfold sequence; simp [h.1, h.2]

end Sys2Proof.Machine
end

