-- ==== Sys2Proof/Laws/PerInstr.lean ====
section
/-!
SUPPORT. Sys2Proof/Laws/PerInstr.lean: for each command, that its word carries its opcode and fields where R99 places them; a
command that is no tile instruction has no word.
-/

namespace Sys2Proof

open BitVec in
@[simp] theorem tileOpOf_pack (op : BitVec 8) (f : TileFields) : tileOpOf (packTile op f) = op := by
  unfold tileOpOf packTile
  repeat (first | exact extractLsb'_eq_self | refine (extractLsb'_append_eq_of_le (by decide)).trans ?_)

open BitVec in
@[simp] theorem unpack_pack (op : BitVec 8) (f : TileFields) : unpackTile (packTile op f) = f := by
  obtain ⟨fa, fb, fd, mod, ga, gb, gd, row, cnt, imm⟩ := f
  unfold unpackTile packTile
  congr 1 <;>
    repeat (first
      | exact extractLsb'_eq_self
      | refine (extractLsb'_append_eq_of_add_le (by decide)).trans ?_
      | refine (extractLsb'_append_eq_of_le (by decide)).trans ?_)

namespace Laws.Coded

/-- A tile instruction's word holds its opcode and its fields (R99); another command has no word. -/
def Statement (i : Instr) : Prop :=
  match tileParts i with
  | none => encodeTile i = none
  | some (t, op, f) => ∃ w, encodeTile i = some (t, w) ∧ tileOpOf w = op ∧ unpackTile w = f

theorem of_parts (i : Instr) : Statement i := by
  unfold Statement encodeTile
  split
  · next h => rw [h]; rfl
  · next t op f h => exact ⟨packTile op f, by rw [h]; rfl, tileOpOf_pack op f, unpack_pack op f⟩

theorem configWrite : ∀ k index sub data, Statement (.configWrite k index sub data) := fun _ _ _ _ => of_parts _
theorem eventsClear : ∀ k value, Statement (.eventsClear k value) := fun _ _ => of_parts _
theorem queueConfigWrite : ∀ k q sub data, Statement (.queueConfigWrite k q sub data) := fun _ _ _ _ => of_parts _
theorem queueStart : ∀ k q, Statement (.queueStart k q) := fun _ _ => of_parts _
theorem queueStop : ∀ k q, Statement (.queueStop k q) := fun _ _ => of_parts _
theorem queueFlush : ∀ k q, Statement (.queueFlush k q) := fun _ _ => of_parts _
theorem submit : ∀ k q desc, Statement (.submit k q desc) := fun _ _ _ => of_parts _
theorem cancel : ∀ k q tag, Statement (.cancel k q tag) := fun _ _ _ => of_parts _
theorem nextCompletion : ∀ k q, Statement (.nextCompletion k q) := fun _ _ => of_parts _
theorem slotBoundary : Statement .slotBoundary := of_parts _
theorem commitInstant : ∀ tag at_, Statement (.commitInstant tag at_) := fun _ _ => of_parts _
theorem commitPublish : ∀ tag, Statement (.commitPublish tag) := fun _ => of_parts _
theorem completionRecord : ∀ tag, Statement (.completionRecord tag) := fun _ => of_parts _
theorem fenceTimeout : ∀ tag target, Statement (.fenceTimeout tag target) := fun _ _ => of_parts _
theorem budgetExceeded : ∀ tag task, Statement (.budgetExceeded tag task) := fun _ _ => of_parts _
theorem nop : ∀ t f, Statement (.nop t f) := fun _ _ => of_parts _
theorem ldw : ∀ t f, Statement (.ldw t f) := fun _ _ => of_parts _
theorem mma : ∀ t f, Statement (.mma t f) := fun _ _ => of_parts _
theorem aclr : ∀ t f, Statement (.aclr t f) := fun _ _ => of_parts _
theorem drain : ∀ t f, Statement (.drain t f) := fun _ _ => of_parts _
theorem ald : ∀ t f, Statement (.ald t f) := fun _ _ => of_parts _
theorem ast : ∀ t f, Statement (.ast t f) := fun _ _ => of_parts _
theorem vld : ∀ t f, Statement (.vld t f) := fun _ _ => of_parts _
theorem vst : ∀ t f, Statement (.vst t f) := fun _ _ => of_parts _
theorem vlda : ∀ t f, Statement (.vlda t f) := fun _ _ => of_parts _
theorem vsta : ∀ t f, Statement (.vsta t f) := fun _ _ => of_parts _
theorem vadd : ∀ t f, Statement (.vadd t f) := fun _ _ => of_parts _
theorem vmul : ∀ t f, Statement (.vmul t f) := fun _ _ => of_parts _
theorem vfma : ∀ t f, Statement (.vfma t f) := fun _ _ => of_parts _
theorem vmax : ∀ t f, Statement (.vmax t f) := fun _ _ => of_parts _
theorem vmin : ∀ t f, Statement (.vmin t f) := fun _ _ => of_parts _
theorem vcmp : ∀ t f, Statement (.vcmp t f) := fun _ _ => of_parts _
theorem vsel : ∀ t f, Statement (.vsel t f) := fun _ _ => of_parts _
theorem vcvt : ∀ t f, Statement (.vcvt t f) := fun _ _ => of_parts _
theorem vrq : ∀ t f, Statement (.vrq t f) := fun _ _ => of_parts _
theorem vmxq : ∀ t f, Statement (.vmxq t f) := fun _ _ => of_parts _
theorem vred : ∀ t f, Statement (.vred t f) := fun _ _ => of_parts _
theorem vexp : ∀ t f, Statement (.vexp t f) := fun _ _ => of_parts _
theorem vlog : ∀ t f, Statement (.vlog t f) := fun _ _ => of_parts _
theorem vrcp : ∀ t f, Statement (.vrcp t f) := fun _ _ => of_parts _
theorem vrsq : ∀ t f, Statement (.vrsq t f) := fun _ _ => of_parts _
theorem vsig : ∀ t f, Statement (.vsig t f) := fun _ _ => of_parts _
theorem vtanh : ∀ t f, Statement (.vtanh t f) := fun _ _ => of_parts _
theorem vsilu : ∀ t f, Statement (.vsilu t f) := fun _ _ => of_parts _
theorem vgelu : ∀ t f, Statement (.vgelu t f) := fun _ _ => of_parts _
theorem vsplus : ∀ t f, Statement (.vsplus t f) := fun _ _ => of_parts _
theorem rstep : ∀ t f, Statement (.rstep t f) := fun _ _ => of_parts _
theorem zcfg : ∀ t f, Statement (.zcfg t f) := fun _ _ => of_parts _
theorem agset : ∀ t f, Statement (.agset t f) := fun _ _ => of_parts _
theorem dma : ∀ t f, Statement (.dma t f) := fun _ _ => of_parts _
theorem fence : ∀ t f, Statement (.fence t f) := fun _ _ => of_parts _
theorem bar : ∀ t f, Statement (.bar t f) := fun _ _ => of_parts _
theorem evwait : ∀ t f, Statement (.evwait t f) := fun _ _ => of_parts _
theorem evsig : ∀ t f, Statement (.evsig t f) := fun _ _ => of_parts _
theorem loop : ∀ t f, Statement (.loop t f) := fun _ _ => of_parts _
theorem endl : ∀ t f, Statement (.endl t f) := fun _ _ => of_parts _
theorem end_ : ∀ t f, Statement (.end_ t f) := fun _ _ => of_parts _
theorem streamOpen : ∀ k c, Statement (.streamOpen k c) := fun _ _ => of_parts _
theorem streamClose : ∀ k c, Statement (.streamClose k c) := fun _ _ => of_parts _
theorem streamExport : ∀ k c, Statement (.streamExport k c) := fun _ _ => of_parts _
theorem streamImport : ∀ k c, Statement (.streamImport k c) := fun _ _ => of_parts _
theorem streamQuery : ∀ k c, Statement (.streamQuery k c) := fun _ _ => of_parts _
theorem streamZero : ∀ k c, Statement (.streamZero k c) := fun _ _ => of_parts _
theorem streamRelocate : ∀ number block readable, Statement (.streamRelocate number block readable) := fun _ _ _ => of_parts _
theorem seqOpen : ∀ k c, Statement (.seqOpen k c) := fun _ _ => of_parts _
theorem seqFork : ∀ k c, Statement (.seqFork k c) := fun _ _ => of_parts _
theorem seqClose : ∀ k c, Statement (.seqClose k c) := fun _ _ => of_parts _
theorem seqQuery : ∀ k c, Statement (.seqQuery k c) := fun _ _ => of_parts _
theorem seqPage : ∀ k c, Statement (.seqPage k c) := fun _ _ => of_parts _
theorem poolFramesWrite : ∀ k p value, Statement (.poolFramesWrite k p value) := fun _ _ _ => of_parts _
theorem tableCreate : ∀ k c, Statement (.tableCreate k c) := fun _ _ => of_parts _
theorem tableBranch : ∀ k c, Statement (.tableBranch k c) := fun _ _ => of_parts _
theorem tablePrune : ∀ k c, Statement (.tablePrune k c) := fun _ _ => of_parts _
theorem tableClose : ∀ k c, Statement (.tableClose k c) := fun _ _ => of_parts _
theorem tableQuery : ∀ k c, Statement (.tableQuery k c) := fun _ _ => of_parts _
theorem mapStart : ∀ k, Statement (.mapStart k) := fun _ => of_parts _
theorem mapStop : ∀ k, Statement (.mapStop k) := fun _ => of_parts _
theorem mapFlip : Statement .mapFlip := of_parts _
theorem selectorStart : ∀ k ch, Statement (.selectorStart k ch) := fun _ _ => of_parts _
theorem selectorStop : ∀ k ch, Statement (.selectorStop k ch) := fun _ _ => of_parts _
theorem selectorCloseTimer : ∀ ch, Statement (.selectorCloseTimer ch) := fun _ => of_parts _
theorem selectorClosed : ∀ ch, Statement (.selectorClosed ch) := fun _ => of_parts _
theorem selectorRelease : ∀ ch, Statement (.selectorRelease ch) := fun _ => of_parts _
theorem tensorCreate : ∀ k c, Statement (.tensorCreate k c) := fun _ _ => of_parts _
theorem tensorFree : ∀ k c, Statement (.tensorFree k c) := fun _ _ => of_parts _
theorem tensorLoad : ∀ k c, Statement (.tensorLoad k c) := fun _ _ => of_parts _
theorem tensorStore : ∀ k c, Statement (.tensorStore k c) := fun _ _ => of_parts _
theorem tensorFill : ∀ k c, Statement (.tensorFill k c) := fun _ _ => of_parts _
theorem tensorMigrate : ∀ k c, Statement (.tensorMigrate k c) := fun _ _ => of_parts _
theorem tensorQuery : ∀ k c, Statement (.tensorQuery k c) := fun _ _ => of_parts _
theorem objectDelete : ∀ k object, Statement (.objectDelete k object) := fun _ _ => of_parts _
theorem catalogueSelect : ∀ k object, Statement (.catalogueSelect k object) := fun _ _ => of_parts _
theorem prefetchIssue : ∀ tag entry, Statement (.prefetchIssue tag entry) := fun _ _ => of_parts _
theorem prefetchArrival : ∀ tag entry, Statement (.prefetchArrival tag entry) := fun _ _ => of_parts _
theorem tierMiss : ∀ tag entry, Statement (.tierMiss tag entry) := fun _ _ => of_parts _
theorem tierFault : ∀ tag entry kind, Statement (.tierFault tag entry kind) := fun _ _ _ => of_parts _
theorem patrolScrub : ∀ burst symbols, Statement (.patrolScrub burst symbols) := fun _ _ => of_parts _
theorem evacuationEnd : ∀ s, Statement (.evacuationEnd s) := fun _ => of_parts _
theorem spareCopyEnd : ∀ cluster, Statement (.spareCopyEnd cluster) := fun _ => of_parts _
theorem aquiferRequest : ∀ m write address length data, Statement (.aquiferRequest m write address length data) := fun _ _ _ _ _ => of_parts _
theorem transportFault : ∀ p request, Statement (.transportFault p request) := fun _ _ => of_parts _
theorem partitionStart : ∀ k p, Statement (.partitionStart k p) := fun _ _ => of_parts _
theorem partitionStop : ∀ k p, Statement (.partitionStop k p) := fun _ _ => of_parts _
theorem partitionReset : ∀ k p, Statement (.partitionReset k p) := fun _ _ => of_parts _
theorem taskReady : ∀ tag task, Statement (.taskReady tag task) := fun _ _ => of_parts _
theorem saveBudgetMiss : ∀ tag budget, Statement (.saveBudgetMiss tag budget) := fun _ _ => of_parts _
theorem restoreResume : ∀ tag at_, Statement (.restoreResume tag at_) := fun _ _ => of_parts _
theorem resetWellhead : ∀ k inst, Statement (.resetWellhead k inst) := fun _ _ => of_parts _
theorem resetFusion : ∀ k inst, Statement (.resetFusion k inst) := fun _ _ => of_parts _
theorem resetSelector : ∀ k inst, Statement (.resetSelector k inst) := fun _ _ => of_parts _
theorem resetFabricPort : ∀ k inst, Statement (.resetFabricPort k inst) := fun _ _ => of_parts _
theorem resetT1Port : ∀ k inst, Statement (.resetT1Port k inst) := fun _ _ => of_parts _
theorem resetControlComplex : ∀ k inst, Statement (.resetControlComplex k inst) := fun _ _ => of_parts _
theorem functionResetDone : ∀ code, Statement (.functionResetDone code) := fun _ => of_parts _
theorem cameraStreamStart : ∀ k n, Statement (.cameraStreamStart k n) := fun _ _ => of_parts _
theorem cameraStreamStop : ∀ k n, Statement (.cameraStreamStop k n) := fun _ _ => of_parts _
theorem sampleStreamStart : ∀ k n, Statement (.sampleStreamStart k n) := fun _ _ => of_parts _
theorem sampleStreamStop : ∀ k n, Statement (.sampleStreamStop k n) := fun _ _ => of_parts _
theorem sampleStreamFlush : ∀ k n, Statement (.sampleStreamFlush k n) := fun _ _ => of_parts _
theorem dictLoad : ∀ k, Statement (.dictLoad k) := fun _ => of_parts _
theorem frameStart : ∀ port vc at_, Statement (.frameStart port vc at_) := fun _ _ _ => of_parts _
theorem csiLongPacket : ∀ port vc dtype headerOk crcOk payload, Statement (.csiLongPacket port vc dtype headerOk crcOk payload) := fun _ _ _ _ _ _ => of_parts _
theorem frameEnd : ∀ port vc, Statement (.frameEnd port vc) := fun _ _ => of_parts _
theorem batchHandover : ∀ stream, Statement (.batchHandover stream) := fun _ => of_parts _
theorem sampleTaken : ∀ n, Statement (.sampleTaken n) := fun _ => of_parts _
theorem decodeStart : ∀ decoder at_, Statement (.decodeStart decoder at_) := fun _ _ => of_parts _
theorem decodeDone : ∀ unit at_, Statement (.decodeDone unit at_) := fun _ _ => of_parts _
theorem overBudget : ∀ unit at_, Statement (.overBudget unit at_) := fun _ _ => of_parts _
theorem fusionStart : ∀ k, Statement (.fusionStart k) := fun _ => of_parts _
theorem fusionStop : ∀ k, Statement (.fusionStop k) := fun _ => of_parts _
theorem fusionRecordWrite : ∀ k i record, Statement (.fusionRecordWrite k i record) := fun _ _ _ => of_parts _
theorem fusionCycle : Statement .fusionCycle := of_parts _
theorem solverStart : ∀ k, Statement (.solverStart k) := fun _ => of_parts _
theorem solverStop : ∀ k, Statement (.solverStop k) := fun _ => of_parts _
theorem solverSelect : ∀ k slot, Statement (.solverSelect k slot) := fun _ _ => of_parts _
theorem solverRecordWrite : ∀ k record, Statement (.solverRecordWrite k record) := fun _ _ => of_parts _
theorem scheduleLoad : ∀ k slot, Statement (.scheduleLoad k slot) := fun _ _ => of_parts _
theorem scheduleLoadDone : ∀ slot, Statement (.scheduleLoadDone slot) := fun _ => of_parts _
theorem solverCycle : Statement .solverCycle := of_parts _
theorem solverOutput : Statement .solverOutput := of_parts _
theorem pumpStart : ∀ k, Statement (.pumpStart k) := fun _ => of_parts _
theorem pumpStop : ∀ k, Statement (.pumpStop k) := fun _ => of_parts _
theorem pumpCmdRecordWrite : ∀ k record, Statement (.pumpCmdRecordWrite k record) := fun _ _ => of_parts _
theorem axisEnable : ∀ k n, Statement (.axisEnable k n) := fun _ _ => of_parts _
theorem axisDisable : ∀ k n, Statement (.axisDisable k n) := fun _ _ => of_parts _
theorem tablesLoad : ∀ k n, Statement (.tablesLoad k n) := fun _ _ => of_parts _
theorem tablesLoadDone : ∀ n, Statement (.tablesLoadDone n) := fun _ => of_parts _
theorem axisLawWrite : ∀ k n law, Statement (.axisLawWrite k n law) := fun _ _ _ => of_parts _
theorem feedbackFrame : ∀ x payload, Statement (.feedbackFrame x payload) := fun _ _ => of_parts _
theorem pumpSample : ∀ g, Statement (.pumpSample g) := fun _ => of_parts _
theorem pumpFrameHandoff : ∀ g lateSlots, Statement (.pumpFrameHandoff g lateSlots) := fun _ _ => of_parts _
theorem clockAdjust : ∀ k delta, Statement (.clockAdjust k delta) := fun _ _ => of_parts _
theorem clockSlewEnd : Statement .clockSlewEnd := of_parts _
theorem asStart : ∀ k, Statement (.asStart k) := fun _ => of_parts _
theorem asStop : ∀ k, Statement (.asStop k) := fun _ => of_parts _
theorem syncReceived : ∀ gm offset, Statement (.syncReceived gm offset) := fun _ _ => of_parts _
theorem syncTimeout : Statement .syncTimeout := of_parts _
theorem gmSelected : ∀ self gm, Statement (.gmSelected self gm) := fun _ _ => of_parts _
theorem syncTransmit : ∀ x, Statement (.syncTransmit x) := fun _ => of_parts _
theorem pdelayExchange : ∀ x delay, Statement (.pdelayExchange x delay) := fun _ _ => of_parts _
theorem ppsOutPulse : Statement .ppsOutPulse := of_parts _
theorem ppsInEdge : ∀ at_, Statement (.ppsInEdge at_) := fun _ => of_parts _
theorem ppsEnableWrite : ∀ k value, Statement (.ppsEnableWrite k value) := fun _ _ => of_parts _
theorem timerStart : ∀ k timer, Statement (.timerStart k timer) := fun _ _ => of_parts _
theorem timerStop : ∀ k timer, Statement (.timerStop k timer) := fun _ _ => of_parts _
theorem timerFire : ∀ timer, Statement (.timerFire timer) := fun _ => of_parts _
theorem t1PortStart : ∀ k x, Statement (.t1PortStart k x) := fun _ _ => of_parts _
theorem t1PortStop : ∀ k x, Statement (.t1PortStop k x) := fun _ _ => of_parts _
theorem t1LinkUp : ∀ x, Statement (.t1LinkUp x) := fun _ => of_parts _
theorem t1LinkDown : ∀ x, Statement (.t1LinkDown x) := fun _ => of_parts _
theorem t1FrameReceived : ∀ x at_ frame, Statement (.t1FrameReceived x at_ frame) := fun _ _ _ => of_parts _
theorem timedWrite : ∀ k x value, Statement (.timedWrite k x value) := fun _ _ _ => of_parts _
theorem timedFrame : ∀ k x data, Statement (.timedFrame k x data) := fun _ _ _ => of_parts _
theorem launchEligible : ∀ x late, Statement (.launchEligible x late) := fun _ _ => of_parts _
theorem fabricPortStart : ∀ k p, Statement (.fabricPortStart k p) := fun _ _ => of_parts _
theorem fabricPortStop : ∀ k p, Statement (.fabricPortStop k p) := fun _ _ => of_parts _
theorem fabricLinkUp : ∀ p lanes, Statement (.fabricLinkUp p lanes) := fun _ _ => of_parts _
theorem discoveryReceived : ∀ p entry payload, Statement (.discoveryReceived p entry payload) := fun _ _ _ => of_parts _
theorem siphonDescriptorDone : ∀ channel, Statement (.siphonDescriptorDone channel) := fun _ => of_parts _
theorem siphonFenceReturn : ∀ channel target, Statement (.siphonFenceReturn channel target) := fun _ _ => of_parts _
theorem domainsEnableWrite : ∀ k value, Statement (.domainsEnableWrite k value) := fun _ _ => of_parts _
theorem domainOnDone : ∀ d, Statement (.domainOnDone d) := fun _ => of_parts _
theorem domainOff : ∀ d, Statement (.domainOff d) := fun _ => of_parts _
theorem capWrite : ∀ k peak value, Statement (.capWrite k peak value) := fun _ _ _ => of_parts _
theorem weirSample : ∀ input volts regions, Statement (.weirSample input volts regions) := fun _ _ _ => of_parts _
theorem droopAlarm : ∀ region micros, Statement (.droopAlarm region micros) := fun _ _ => of_parts _
theorem droopClear : ∀ region micros, Statement (.droopClear region micros) := fun _ _ => of_parts _
theorem prearmStart : ∀ tag phase, Statement (.prearmStart tag phase) := fun _ _ => of_parts _
theorem prearmEnd : ∀ tag phase, Statement (.prearmEnd tag phase) := fun _ _ => of_parts _
theorem tempSample : ∀ temps, Statement (.tempSample temps) := fun _ => of_parts _
theorem coolOkLow : Statement .coolOkLow := of_parts _
theorem coolOkQualified : Statement .coolOkQualified := of_parts _
theorem standbyEnter : ∀ k, Statement (.standbyEnter k) := fun _ => of_parts _
theorem standbyWake : Statement .standbyWake := of_parts _
theorem failureEvent : ∀ unit cause confirmed job, Statement (.failureEvent unit cause confirmed job) := fun _ _ _ _ => of_parts _
theorem sramRetest : ∀ unit passed, Statement (.sramRetest unit passed) := fun _ _ => of_parts _
theorem fieldTestStart : ∀ subject part, Statement (.fieldTestStart subject part) := fun _ _ => of_parts _
theorem fieldTestDone : ∀ subject passed, Statement (.fieldTestDone subject passed) := fun _ _ => of_parts _
theorem fieldTestYield : ∀ subject, Statement (.fieldTestYield subject) := fun _ => of_parts _
theorem checkerTimeout : ∀ subject, Statement (.checkerTimeout subject) := fun _ => of_parts _
theorem heartbeatLoss : ∀ function, Statement (.heartbeatLoss function) := fun _ => of_parts _
theorem stopAckTimeout : ∀ t, Statement (.stopAckTimeout t) := fun _ => of_parts _
theorem hostSilent : Statement .hostSilent := of_parts _
theorem islandMismatch : Statement .islandMismatch := of_parts _
theorem safeRequest : ∀ k value, Statement (.safeRequest k value) := fun _ _ => of_parts _
theorem safeStateEntry : ∀ cause detail fault, Statement (.safeStateEntry cause detail fault) := fun _ _ _ => of_parts _
theorem safetyFrameRepeat : Statement .safetyFrameRepeat := of_parts _
theorem safeClear : ∀ k value, Statement (.safeClear k value) := fun _ _ => of_parts _
theorem triggersWrite : ∀ k value, Statement (.triggersWrite k value) := fun _ _ => of_parts _
theorem deviceResetWrite : ∀ k value, Statement (.deviceResetWrite k value) := fun _ _ => of_parts _
theorem resetNLow : Statement .resetNLow := of_parts _
theorem deviceReset : ∀ at_, Statement (.deviceReset at_) := fun _ => of_parts _
theorem updateBegin : ∀ k, Statement (.updateBegin k) := fun _ => of_parts _
theorem updateChunk : ∀ k chunk, Statement (.updateChunk k chunk) := fun _ _ => of_parts _
theorem updateCommit : ∀ k, Statement (.updateCommit k) := fun _ => of_parts _
theorem updateAbort : ∀ k, Statement (.updateAbort k) := fun _ => of_parts _
theorem minSvnWrite : ∀ k value, Statement (.minSvnWrite k value) := fun _ _ => of_parts _
theorem keyRevoke : ∀ k slot, Statement (.keyRevoke k slot) := fun _ _ => of_parts _
theorem lifecycleNonceRead : ∀ k, Statement (.lifecycleNonceRead k) := fun _ => of_parts _
theorem lifecycleRequest : ∀ k request, Statement (.lifecycleRequest k request) := fun _ _ => of_parts _
theorem debugAuth : ∀ signature, Statement (.debugAuth signature) := fun _ => of_parts _
theorem quoteRequest : ∀ k nonce, Statement (.quoteRequest k nonce) := fun _ _ => of_parts _
theorem quoteReady : Statement .quoteReady := of_parts _
theorem sessionOpen : ∀ x peer frame, Statement (.sessionOpen x peer frame) := fun _ _ _ => of_parts _
theorem sessionClose : ∀ x frame, Statement (.sessionClose x frame) := fun _ _ => of_parts _
theorem sessionCloseWrite : ∀ k j value, Statement (.sessionCloseWrite k j value) := fun _ _ _ => of_parts _
theorem keepalive : ∀ x frame, Statement (.keepalive x frame) := fun _ _ => of_parts _
theorem sessionTimeout : ∀ k, Statement (.sessionTimeout k) := fun _ => of_parts _
theorem request : ∀ x frame, Statement (.request x frame) := fun _ _ => of_parts _
theorem ixideRead : ∀ k o, Statement (.ixideRead k o) := fun _ _ => of_parts _
theorem ixideWrite : ∀ k o, Statement (.ixideWrite k o) := fun _ _ => of_parts _
theorem memRead : ∀ k o, Statement (.memRead k o) := fun _ _ => of_parts _
theorem memWrite : ∀ k o, Statement (.memWrite k o) := fun _ _ => of_parts _
theorem describe : ∀ k data, Statement (.describe k data) := fun _ _ => of_parts _
theorem notifyAck : ∀ x frame, Statement (.notifyAck x frame) := fun _ _ => of_parts _
theorem notifyTransmit : ∀ k, Statement (.notifyTransmit k) := fun _ => of_parts _
theorem notifyRetry : ∀ k seq, Statement (.notifyRetry k seq) := fun _ _ => of_parts _
theorem undervoltage : Statement .undervoltage := of_parts _
theorem overvoltage : Statement .overvoltage := of_parts _
theorem pwrEnLow : Statement .pwrEnLow := of_parts _
theorem coldStart : ∀ selfCheckOk, Statement (.coldStart selfCheckOk) := fun _ => of_parts _
theorem regulatorRetry : ∀ selfCheckOk, Statement (.regulatorRetry selfCheckOk) := fun _ => of_parts _
theorem cameraLinkLocked : ∀ port, Statement (.cameraLinkLocked port) := fun _ => of_parts _
theorem cameraLinkLost : ∀ port, Statement (.cameraLinkLost port) := fun _ => of_parts _
theorem fabricLinkDown : ∀ p, Statement (.fabricLinkDown p) := fun _ => of_parts _
theorem fabricFrameReceived : ∀ p frame, Statement (.fabricFrameReceived p frame) := fun _ _ => of_parts _
theorem ackTimeout : ∀ p request, Statement (.ackTimeout p request) := fun _ _ => of_parts _
theorem debugTransaction : ∀ request, Statement (.debugTransaction request) := fun _ => of_parts _

end Laws.Coded

end Sys2Proof
end

