-- ==== Sys2Proof/Tests/Slice0.lean ====
section
/-!
SUPPORT. Sys2Proof/Tests/Slice0.lean: the well-formedness checks on ill-formed commands, tile words written out from R99 and R100, and
a witness for the hypotheses of every statement of Certificates/Slice0.
-/

namespace Sys2Proof.Tests

open Machine Claims

set_option Elab.async false

/-! ## Well-formedness: each check refuses an ill-formed command -/

/-- One byte more than the bound. -/
def long (n : Nat) : Bytes := List.replicate (n + 1) 0

theorem length_long (n : Nat) : (long n).length = n + 1 := by simp [long]

def opLong : IxideOp := ⟨1, 0, 0, 0, 0, 0, 0, 0, 0, long maxFrame⟩

theorem test_wf_values : ∀ c ∈ [Instr.configWrite 0 0 0 (long maxValue), .submit 0 0 (long maxValue), .fusionRecordWrite 0 0 (long maxValue),
    .solverRecordWrite 0 (long maxValue), .pumpCmdRecordWrite 0 (long maxValue), .axisLawWrite 0 0 (long maxValue),
    .timedFrame 0 0 (long maxValue), .updateChunk 0 (long maxValue), .lifecycleRequest 0 (long maxValue),
    .quoteRequest 0 (long maxValue), .describe 0 (long maxValue), .queueConfigWrite 0 0 0 (long maxValue)], c.wf = false := by
  simp [Instr.wf, length_long]

theorem test_wf_frames : ∀ c ∈ [Instr.feedbackFrame 0 (long maxFrame), .t1FrameReceived 0 0 (long maxFrame),
    .discoveryReceived 0 0 (long maxFrame), .sessionOpen 0 (zeros 18) (long maxFrame), .sessionClose 0 (long maxFrame),
    .keepalive 0 (long maxFrame), .request 0 (long maxFrame), .notifyAck 0 (long maxFrame), .fabricFrameReceived 0 (long maxFrame),
    .ixideRead 0 opLong, .ixideWrite 0 opLong, .memRead 0 opLong, .memWrite 0 opLong], c.wf = false := by
  simp [Instr.wf, length_long, opLong]

theorem test_wf_counts : ∀ c ∈ [Instr.aquiferRequest 0 true 0 2 [0], .aquiferRequest 0 false 0 2 [0],
    .csiLongPacket 0 0 0 true true (long 65535), .weirSample 0 0 [], .tempSample [],
    .sessionOpen 0 [] []], c.wf = false := by
  simp [Instr.wf, length_long]

theorem test_wf_good : (Instr.configWrite 0 0x3000 1 [0, 0]).wf = true := by decide

/-! ## Tile words, bit by bit from R99: OP FA FB FD MOD GA GB GD ROW CNT IMM -/

def fields (fa fb fd mod ga gb gd : BitVec 4) (row cnt : BitVec 7) (imm : BitVec 14) : TileFields :=
  ⟨fa, fb, fd, mod, ga, gb, gd, row, cnt, imm⟩

theorem test_decode_mma : decodeTile 3
    0b00000010_1001_1010_0000_0111_0001_0010_0000_0000101_0000011_00000000000000#64 =
    some (.mma 3 (fields 9 10 0 7 1 2 0 5 3 0)) := by decide

theorem test_decode_drain : decodeTile 0
    0b00000100_0000_0000_1011_0010_0000_0000_1111_1111111_0000000_00000000000000#64 =
    some (.drain 0 (fields 0 0 11 2 0 0 15 127 0 0)) := by decide

theorem test_decode_vfma : decodeTile 511
    0b00010110_0000_0000_0000_0000_0001_0010_0011_0000000_0000000_00000000000100#64 =
    some (.vfma 511 (fields 0 0 0 0 1 2 3 0 0 4)) := by decide

theorem test_decode_vsplus : decodeTile 0
    0b00101000_0000_0000_0000_0000_0001_0000_0010_0000000_0000000_00000000000000#64 =
    some (.vsplus 0 (fields 0 0 0 0 1 0 2 0 0 0)) := by decide

theorem test_decode_endl : decodeTile 0
    0b01000111_0000_0000_0000_0011_0000_0000_0000_0000000_0000000_11111111111111#64 =
    some (.endl 0 (fields 0 0 0 3 0 0 0 0 0 16383)) := by decide

/-- A word as its eight bytes stand in memory, MMA with IMM 1 (R99): its last byte is OP. -/
theorem test_word_bytes : (0x0200000000000001#64).toNat = leNat [1, 0, 0, 0, 0, 0, 0, 2] ∧
    (decodeTile 3 0x0200000000000001#64).isSome = true ∧ nth 0 ([1, 0, 0, 0, 0, 0, 0, 2] : Bytes) 7 = 2 := by decide

theorem test_decode_undefined : decodeTile 0 (0x07#8 ++ 0#56) = none ∧ decodeTile 0 (0xff#8 ++ 0#56) = none := by decide

/-! ## States of the witnesses -/

/-- Session 0 is open on port A, which is up; client 0 holds every right. -/
def host : State := { State.reset with sessions := [(0, { open_ := true, peer := zeros 18 })], t1 := [(0, { link := 2 })] }

theorem test_host_may : ∀ r : Fin 12, HostMay 0 r.val host := by
  unfold HostMay HostReady; decide

/-- Session 1 is open too. -/
def host2 : State := { host with sessions := host.sessions ++ [(1, { open_ := true, peer := zeros 18 })] }

/-! ## The queue, reset and the whole machine -/

theorem test_hyp_step : ({ host with pending := [.slotBoundary] } : State).pending = [.slotBoundary] ∧ host.pending = [] := ⟨rfl, rfl⟩

theorem test_hyp_canonical : MemCanonical State.reset ∧ (∃ t, step State.reset = .next t) ∧
    MemCanonical (poke 7 [1, 0, 2] State.reset) := by
  refine ⟨by unfold MemCanonical; decide, ⟨_, rfl⟩, by unfold MemCanonical; decide⟩

/-! ## The tile -/

def f0 : TileFields := fields 0 0 0 0 0 0 0 0 0 0

/-- A job of queue 0 runs two tasks on tile 0. -/
def job0 : Job := { tag := 0x10, q := 0, session := 0, sgen := 0, desc := {}, phase := .running, tasks := [{ tile := some 0, ready := true },
  { tile := some 0, ready := true }] }
def running (j : Job) : State := { host with sluice := { host.sluice with jobs := [j] } }
/-- A task runs on tile t. -/
def busy (t : Nat) : State := running { job0 with tasks := [{ tile := some t, ready := true }] }
/-- The slots of tile 0 as reset left them. -/
def slot0 : AgSlot := slotOf (tileOf (busy 0) 0) 0

theorem test_hyp_vectorArithmetic : (∀ op ∈ [0x14, 0x15, 0x16, 0x17, 0x18, 0x1a], MayRun op 0 f0 (busy 0)) ∧
    MayRun 0x19 511 { f0 with mod := 5 } (busy 511) := by
  unfold MayRun; decide

theorem test_hyp_vectorFunctions : ∀ op ∈ [0x20, 0x21, 0x22, 0x23, 0x24, 0x25, 0x26, 0x27, 0x28], MayRun op 0 f0 (busy 0) := by
  unfold MayRun; decide

theorem test_hyp_vectorConversions : MayRun 0x1b 0 { f0 with fa := 0xb, fd := 0xc } (busy 0) ∧
    MayRun 0x1b 0 { f0 with fa := 0xc, fd := 0xb } (busy 0) ∧ MayRun 0x1b 0 { f0 with mod := 1, fa := 0xb, fd := 0xb } (busy 0) ∧
    MayRun 0x1b 0 { f0 with mod := 2, gd := 15 } (busy 0) ∧
    (MayRun 0x1c 0 { f0 with fd := 2 } (busy 0) ∧ vrqBounds 2 = some (-8, 7)) ∧
    (MayRun 0x1d 0 { f0 with fd := 8, gd := 15 } (busy 0) ∧ fmtIsMx 8 = true) ∧ MayRun 0x1e 0 { f0 with mod := 1 } (busy 0) := by
  unfold MayRun; decide

theorem test_hyp_accumulator : MayRun 0x03 0 { f0 with row := 127 } (busy 0) ∧ MayRun 0x12 0 { f0 with row := 127 } (busy 0) ∧
    (∀ m ∈ ([0, 4, 2] : List (BitVec 4)), MayRun 0x13 0 { f0 with mod := m, row := 127 } (busy 0)) ∧
    MayRun 0x30 0 { f0 with row := 112 } (busy 0) ∧ zgateOn (busy 0) 0 = false ∧ 127 ∉ (tileOf (busy 0) 0).intRows ∧
    (MayRun 0x38 0 { f0 with imm := 11264 } (busy 0) ∧ (11264 : BitVec 14).toNat / 2 ^ 11 ≤ 5) := by
  unfold MayRun; decide

theorem test_hyp_tileReads : mayIssue (busy 0) 0 = true ∧
    (opLdw 0 { f0 with fb := 9 } (busy 0).mem (tileOf (busy 0) 0)).isSome = true ∧
    (opMma (zgateOn (busy 0) 0) 0 { f0 with fa := 9, fb := 9, row := 127 } (busy 0).mem (tileOf (busy 0) 0)).isSome = true ∧
    (opAld 0 { f0 with fa := 0xb } (busy 0).mem (tileOf (busy 0) 0)).isSome = true ∧
    (opVld 0 { f0 with fa := 0xb } (busy 0).mem (tileOf (busy 0) 0)).isSome = true ∧
    (opAgset 0 { f0 with imm := 8191 } (busy 0).mem (tileOf (busy 0) 0)).isSome = true := by
  decide +kernel

theorem test_hyp_tileReadsEnd :
    (fieldsNamed 0x01 { f0 with fb := 8 } = true ∧ fmtB 8 = true ∧ (access slot0 8 (fmtBits 8) (blockK 8 * 64)).isSome = true ∧
      slotSBase slot0.image + 64 * (slot0.pos / 2048) + 64 ≤ tileBytes) ∧
    (fieldsNamed 0x02 { f0 with fa := 6, fb := 7, mod := 6, row := 126, cnt := 1 } = true ∧ pairOk 6 7 = true ∧ fmtIsInt 6 = false ∧
      Reaches slot0 6 (fmtBits 6) (passK 6 7) 2 ∧
      ∀ i, i < 2 → slotSBase slot0.image + (slotAfter slot0 (passK 6 7) i).pos / 32 + 1 ≤ tileBytes) ∧
    (fieldsNamed 0x05 { f0 with fa := 0xc, row := 126, cnt := 1 } = true ∧ fmtLoad 0xc = true ∧ Reaches slot0 0xc (fmtBits 0xc) 64 2) ∧
    (fieldsNamed 0x05 { f0 with mod := 1, row := 127 } = true ∧ Reaches slot0 16 64 64 1) ∧
    (fieldsNamed 0x05 { f0 with mod := 2, row := 112 } = true ∧ Reaches slot0 9 16 64 1) ∧
    (fieldsNamed 0x10 { f0 with fa := 1 } = true ∧ fmtLoad 1 = true ∧ (access slot0 1 (fmtBits 1) 64).isSome = true) ∧
    (fieldsNamed 0x40 { f0 with imm := 8191 } = true ∧ (8191 : BitVec 14).toNat * 64 + 64 ≤ tileBytes) := by
  unfold Reaches; decide +kernel

/-- The elements of the i-th access of slot 0. -/
def rowElems (fa fb i : Nat) : List Nat := ((readAccess (busy 0).mem 0 (slotAfter slot0 (passK fa fb) i) fa (fmtBits fa) (passK fa fb)).map
  (fun p => p.1)).getD []

theorem test_hyp_mmaRowSum : zgateOn (busy 0) 0 = false ∧
    ∀ p ∈ ([(9, 10, 4), (1, 2, 2), (6, 7, 6)] : List (BitVec 4 × BitVec 4 × BitVec 4)),
      let fa := p.1.toNat
      let fb := p.2.1.toNat
      MayRun 0x02 0 { f0 with fa := p.1, fb := p.2.1, mod := p.2.2, row := 126, cnt := 1 } (busy 0) ∧ pairOk fa fb = true ∧
      ¬(p.2.2.getLsbD 2 = true ∧ fmtIsInt fa = true) ∧
      (∀ i, i ≤ 1 → readAccess (busy 0).mem 0 (slotAfter slot0 (passK fa fb) i) fa (fmtBits fa) (passK fa fb) =
        some (rowElems fa fb i, slotAfter slot0 (passK fa fb) (i + 1))) ∧
      ∀ i, i ≤ 1 → slotSBase slot0.image + (slotAfter slot0 (passK fa fb) i).pos / 32 + 1 ≤ tileBytes := by
  unfold MayRun
  refine ⟨by decide, List.forall_mem_cons.2 ⟨?_, List.forall_mem_cons.2 ⟨?_, List.forall_mem_singleton.2 ?_⟩⟩⟩ <;> decide +kernel

theorem test_hyp_tileStores : (opAst 0 { f0 with mod := 1 } (busy 0).mem (tileOf (busy 0) 0)).isSome = true ∧
    (∀ z : Bool, ∀ m ∈ ([0, 2] : List (BitVec 4)),
      (opDrain z 0 { f0 with fd := 9, mod := m } (busy 0).mem (tileOf (busy 0) 0)).isSome = true) ∧
    (opVst 0 { f0 with fd := 0xb } (busy 0).mem (tileOf (busy 0) 0)).isSome = true ∧
    (opVst 0 { f0 with fd := 5 } (busy 0).mem (tileOf (busy 0) 0)).isSome = true := by
  decide +kernel

/-- A slot whose level 0 runs over 64 elements one after another, without flush. -/
def denseSlot : AgSlot := { image := zeros 12 ++ 7 :: zeros 15 ++ [63, 0, 1, 0, 0, 0] ++ zeros 30, pos := 0 }

theorem test_hyp_tileStoresEnd :
    (fieldsNamed 0x06 { f0 with row := 126, cnt := 1 } = true ∧ Reaches slot0 0xb 32 64 2) ∧
    (fieldsNamed 0x06 { f0 with mod := 1, row := 127 } = true ∧ Reaches slot0 16 64 64 1) ∧
    (fieldsNamed 0x04 { f0 with fd := 0xc, row := 126, cnt := 1 } = true ∧ zgateOn (busy 0) 0 = false ∧ fmtD 0xc = true ∧
      Reaches slot0 0xc (fmtBits 0xc) 64 2) ∧
    (fieldsNamed 0x04 { f0 with fd := 3, gd := 0, row := 127 } = true ∧ 127 ∉ (tileOf (busy 0) 0).intRows ∧
      zgateOn (running { job0 with desc := { flags := 32 } }) 0 = true ∧ Reaches slot0 3 (fmtBits 3) 64 1) ∧
    (let x := { tileOf (busy 0) 0 with zimm := 0x400, zslot := 5 }
     x.zimm.getLsbD 10 = true ∧ x.zslot ≠ 0 ∧ Reaches (slotOf x x.zslot.toNat) 9 16 64 1) ∧
    (∀ i, i < 1 → (access (slotAfter slot0 64 (2 * i)) 9 16 64).isSome = true ∧
      (access (slotAfter slot0 64 (2 * i + 1)) 3 (fmtBits 3) 64).isSome = true) ∧
    (fieldsNamed 0x11 { f0 with fd := 6 } = true ∧ fmtStore 6 = true ∧
      slotSBase denseSlot.image + denseSlot.pos / 32 + 2 ≤ tileBytes ∧
      ∃ refs, access denseSlot 6 (fmtBits 6) 64 = some refs ∧ writeLegal denseSlot (fmtBits 6) refs = true) := by
  unfold Reaches
  refine ⟨by decide +kernel, by decide +kernel, by decide +kernel, by decide +kernel, by decide +kernel, by decide +kernel,
    by decide +kernel, by decide +kernel, by decide +kernel, ⟨_, rfl, by decide +kernel⟩⟩

/-- Internal event 3 is raised for job 0x10, event 5 for every job, event 6 for another. -/
def raised3 : State := { busy 0 with raised := [⟨3, some 0x10⟩, ⟨5, none⟩, ⟨6, some 0x20⟩] }
/-- Tile 1 of cluster 0 has arrived. -/
def arrived1 : State := cmod 0 (fun c => { c with arrived := 2 }) (busy 0)

theorem test_hyp_sequencer : (∀ op ∈ [0x00, 0x46, 0x47], MayRun op 0 f0 (busy 0)) ∧
    ((taskOn raised3 0).map (fun p => p.1.tag) = some 0x10 ∧ raisedFor raised3 0x10 3 = some ⟨3, some 0x10⟩ ∧
      raisedFor raised3 0x10 5 = some ⟨5, none⟩ ∧ raisedFor raised3 0x10 6 = none) ∧
    (MayRun 0x44 0 { f0 with imm := 3 } raised3 ∧ MayRun 0x44 0 { f0 with imm := 5 } raised3 ∧ MayRun 0x44 0 { f0 with imm := 6 } raised3) ∧
    (MayRun 0x45 0 { f0 with imm := 4 } raised3 ∧ eventWaiters raised3 (some 0x10) 4 = []) ∧
    (MayRun 0x43 0 { f0 with imm := 3 } arrived1 ∧
      (3 : BitVec 14).setWidth 8 &&& ~~~((clusterOf arrived1 (clusterOfTile 0)).arrived ||| BitVec.ofNat 8 (2 ^ (0 % 8))) = 0) ∧
    (MayRun 0x43 0 { f0 with imm := 7 } arrived1 ∧
      (7 : BitVec 14).setWidth 8 &&& ~~~((clusterOf arrived1 (clusterOfTile 0)).arrived ||| BitVec.ofNat 8 (2 ^ (0 % 8))) ≠ 0) := by
  unfold MayRun; decide +kernel


theorem test_hyp_endOfTask : MayRun 0x4f 1 f0 (running { job0 with desc := { flags := 64 } }) ∧ pairMismatch (running { job0 with desc := { flags := 64 } })
      { job0 with desc := { flags := 64 } } = [] ∧ (taskOn (busy 0) 0).map (fun p => p.2) = some 0 ∧ (∀ m, m < 1 → m = 0) ∧ MayRun 0x4f 0 f0 (running job0) ∧ taskOn State.reset 0 = none ∧ taskOn (running job0) 0 = some (job0, 0) ∧
    jobOf (running job0) 0x10 = some job0 ∧ job0.desc.lockstep = false ∧ job0.tasks[1]? = some { tile := some 0, ready := true } := by
  unfold MayRun; decide

/-- A copy of 64 bytes from tile 0 to cluster 0 over channel 0, at byte 0 of tile 0's SRAM, where a task runs. -/
def copyDesc : Bytes := leBytes 8 (tileBase 0) ++ leBytes 8 (clusterBase 0) ++ leBytes 4 64 ++ zeros 12
def withDesc (b : Bytes) : State := poke (tileBase 0) b (busy 0)
def fullChannel : State := chanmod 0 (fun c => { c with posted := List.replicate 16 { desc := copyDesc, tile := 1, job := none } })
  (withDesc copyDesc)
/-- The copy from tile 0 into the save area of cluster 0, which no address names (R267). -/
def unmappedDesc : Bytes := leBytes 8 (tileBase 0) ++ leBytes 8 (clusterBase 0 + reserveOff) ++ leBytes 4 64 ++ zeros 12
/-- A LOCKSTEP job holds the pair of tiles 0 and 1. -/
def lockJob : Job := { job0 with desc := { flags := 0xffff } }

theorem test_hyp_sequencerDmaFence : ((taskOn (withDesc copyDesc) 0).map (fun p => p.1.tag) = some 0x10 ∧
      MayRun 0x41 0 f0 (withDesc copyDesc) ∧ (shadowOf (withDesc copyDesc) 0).isSome = false ∧
      peek (withDesc copyDesc) (tileBase 0) 32 = copyDesc ∧ siphonRules (withDesc copyDesc) copyDesc = true ∧
      siphonMapped (withDesc copyDesc) ⟨some 0x10, none⟩ copyDesc = true ∧ (chanOf (withDesc copyDesc) 0).posted.length < 16) ∧
    (MayRun 0x41 0 f0 fullChannel ∧ siphonRules fullChannel copyDesc = true ∧
      siphonMapped fullChannel ⟨some 0x10, none⟩ copyDesc = true ∧ (chanOf fullChannel 0).posted.length = 16) ∧
    siphonRules (withDesc (zeros 32)) (peek (withDesc (zeros 32)) (tileBase 0) 32) = false ∧
    (peek (withDesc unmappedDesc) (tileBase 0) 32 = unmappedDesc ∧ siphonRules (withDesc unmappedDesc) unmappedDesc = true ∧
      siphonMapped (withDesc unmappedDesc) ⟨some 0x10, none⟩ unmappedDesc = false) ∧
    ((shadowOf (running lockJob) 1).isSome = true ∧ MayRun 0x41 1 f0 (running lockJob) ∧ MayRun 0x42 1 f0 (running lockJob)) ∧
    (MayRun 0x42 0 f0 (withDesc copyDesc) ∧ postedDone (withDesc copyDesc) 0 0 = true ∧ (chanOf (withDesc copyDesc) 0).targets = [] ∧
      (chanOf (withDesc copyDesc) 0).fencing = []) ∧
    postedDone (chanmod 0 (fun c => { c with posted := [{ desc := copyDesc, tile := 0, job := none }] }) (busy 0)) 0 0 = false := by
  unfold MayRun; decide +kernel

theorem test_hyp_illegalOperation : tileParts (.nop 0 { f0 with imm := 1 }) = some (0, 0x00, { f0 with imm := 1 }) ∧
    mayIssue (busy 0) 0 = true ∧ (taskOn (busy 0) 0).isSome = true ∧ fieldsNamed 0x00 { f0 with imm := 1 } = false ∧
    decodeTile 0 (0x07#8 ++ 0#56) = none ∧ (decodeTile 0 0).isSome = true ∧ mayIssue State.reset 0 = false ∧
    mayIssue (tmod 0 (fun t => { t with gated := true }) (busy 0)) 0 = false := by decide


/-! ## Sessions, requests and the dictionary -/

/-- A frame of type `ty` for session 0, with SEQ `n` and a payload. -/
def frameOf (ty n : Nat) (payload : Bytes) : Bytes := ixHeader ty 0 (BitVec.ofNat 32 n) 0 payload.length ++ payload

/-- All 64 sessions are open on port A. -/
def crowded : State := { host with sessions := (List.range 64).map (fun k => (k, { open_ := true })) }
/-- Port A admits no client. -/
def closedPort : State := setCfg 0x1110 2 (zeros 32) host

theorem test_hyp_sessionOpens : t1Up host 0 = true ∧ spoilt 0x30 host = false ∧ frameOk (splice (frameOf 1 0 (0 :: zeros 7)) 1 [1]) = true ∧
    (freeSlot host = some 1 ∧ admitted host 0 0 = true ∧ host.power.wakeNote = none) ∧
    (freeSlot closedPort = some 1 ∧ admitted closedPort 0 0 = false ∧ t1Up closedPort 0 = true) ∧
    freeSlot crowded = none ∧ t1Up crowded 0 = true := by decide +kernel

theorem test_hyp_sessionFrames : t1Up host 0 = true ∧ spoilt 0x30 host = false ∧ (∀ ty ∈ [3, 8, 7], frameOk (splice (frameOf ty 0 []) 1 [BitVec.ofNat 8 ty]) = true ∧
    namedSession host 0 (splice (frameOf ty 0 []) 1 [BitVec.ofNat 8 ty]) = some 0) ∧ (sess host 0).open_ = true := by decide +kernel

/-- READ of 0x2003:01, four bytes. -/
def readOp : IxideOp := ⟨1, 0, 0x2003, 1, 0, 4, 0, 0, 0, []⟩
/-- Session 0 answered its request 1. -/
def answered : State := smod 0 (fun e => { e with last := 1, cached := [1] }) host

theorem test_hyp_requestsExecuteOnce : t1Up answered 0 = true ∧ spoilt 0x30 answered = false ∧ (∀ n ∈ [1, 2, 3],
      frameOk (splice (frameOf 4 n (encodeOp readOp)) 1 [4]) = true ∧
      namedSession answered 0 (splice (frameOf 4 n (encodeOp readOp)) 1 [4]) = some 0) ∧
    (sess answered 0).busy = false ∧ (sess answered 0).last = 1 ∧ (sess answered 0).cached ≠ [] ∧
    (∀ n ∈ [1, 2, 3], BitVec.ofNat 32 (fieldAt (splice (frameOf 4 n (encodeOp readOp)) 1 [4]) 4 4) = BitVec.ofNat 32 n) ∧
    (∀ op ∈ ([1, 2, 3, 4] : List (BitVec 8)), (parseOp (encodeOp { readOp with op := op })).op = op) := by decide +kernel

/-- Session 0 has a frame to send, and 16 or 15 unacknowledged. -/
def waiting (r : Nat) (job : Option (BitVec 32)) : State := smod 0 (fun e => { e with
  queue := [⟨1, 0, [], job⟩], unacked := [⟨1, r, 0, []⟩] }) host

theorem test_hyp_notifyWindow : ((sess (waiting 0 none) 0).open_ = true ∧ t1Up (waiting 0 none) 0 = true ∧
      (sess (waiting 0 none) 0).unacked.length < 16 ∧ (sess (waiting 0 none) 0).queue = [⟨1, 0, [], none⟩]) ∧
    ((sess (waiting 0 (some 0x10)) 0).queue = [⟨1, 0, [], some 0x10⟩] ∧ tagStale (waiting 0 (some 0x10)) 0x10 = false) ∧
    (sess (waiting 15 none) 0).unacked.find? (fun v => v.seq = 1) = some ⟨1, 15, 0, []⟩ ∧
    (sess (waiting 16 none) 0).unacked.find? (fun v => v.seq = 1) = some ⟨1, 16, 0, []⟩ := by decide

theorem test_hyp_hostReads : HostReady 0 host ∧ objDef 0x2003 1 = some (.u32, .ro, 0) ∧ OAcc.ro ≠ .wo ∧ otyVar .u32 = false ∧
    hasRight host 0 (readRight 0x2003 1) = true ∧ notOwner host 0 0x2003 1 = false ∧ opOk { readOp with op := 1 } = true ∧
    otyLen .u32 = 4 := by
  unfold HostReady; decide

/-- MEM_READ and MEM_WRITE of two bytes at the bottom of the usable area. -/
def memOp (op : BitVec 8) (data : Bytes) : IxideOp := ⟨op, 0, 0, 0, 0, 2, 0, 0, 0, data⟩
theorem test_hyp_hostMemory : (placeOf host 0 2 = .cistern 0 ∧ HostMay 0 3 host ∧ opOk (memOp 3 []) = true ∧
      poisonHit host {} (.cistern 0) 2 = none) ∧
    (HostMay 0 4 host ∧ opOk (memOp 4 [1, 2]) = true ∧ overlaps 0 2 (heapBase host) (heapBytes host) = false) := by
  unfold HostMay HostReady; decide +kernel

theorem test_hyp_configurationWrites : HostReady 0 host ∧ plainObject 0x3420 2 = true ∧
    writeTarget host 0 0x3420 2 (leBytes 4 500000) = .ok (.u32, .rw) ∧ otyVar .u32 = false ∧
    typeOk host 0x3420 2 .u32 (leBytes 4 500000) = true ∧ reservedOk 0x3420 2 (leBytes 4 500000) = true ∧
    rangeOk host 0x3420 0 2 500000 = true ∧ opOk ⟨2, 0, 0x3420, 2, 0, 4, 0, 0, 0, leBytes 4 500000⟩ = true ∧
    ((objDef 0x3430 1).map (fun p => p.2.1) = some .rws ∧ plainObject 0x3430 1 = true ∧ ownerRuns (t1mod 1 (fun p => { p with running := false }) host) 0x3430 1 1 = false) := by
  refine ⟨by unfold HostReady; decide, by decide, ?_, by decide, by decide, by decide, by decide, by decide, ?_⟩
  · rfl
  · decide

theorem test_hyp_refusedWrite : HostReady 0 host ∧ (∃ c, c ≠ 0 ∧ writeValue 0 0x3420 2 [] (taken 0 host) = .abort c) ∧
    idxDefined 0x0fff = false ∧ (idxDefined 0x2003 = true ∧ objDef 0x2003 0xff = none) ∧
    objDef 0x2003 1 = some (.u32, .ro, 0) ∧
    ((objDef 0x3420 2).isSome = true ∧ hasRight (setCfg 0x1110 1 [0, 0] host) 0 (writeRight 0 0x3420 2 []) = false) := by
  refine ⟨by unfold HostReady; decide, ⟨abType, by decide, rfl⟩, by decide, by decide, by decide, by decide, by decide +kernel⟩

theorem test_hyp_sessionObjects : HostMay 0 1 host ∧ HostMay 0 7 host ∧ works host 21 = true ∧ (0xfff : BitVec 32) &&& 0xfffff000 = 0 ∧
    (∀ i, 3 ≤ i → i < 8 → (leBytes 2 0x2003 ++ [1] ++ zeros 5 : Bytes).getD i 0 = 0) ∧ (leBytes 2 0x2003 ++ [1] ++ zeros 5 : Bytes).length = 8 ∧
    HostMay 0 11 host2 ∧ (1 : Fin 64) ≠ 0 ∧ (sess host2 1).open_ = true := by
  unfold HostMay HostReady
  refine ⟨by decide, by decide, by decide, by decide, ?_, by decide, by decide, by decide, by decide⟩
  intro i h1 h2
  interval_cases i <;> rfl

/-! ## Queues and jobs -/

def record1 : CompRec := ⟨0x10, 0, 0, 0, 0, 1, 0, 0, 0⟩
/-- Queue 0 holds a record; in `q0 .running []` it runs. -/
def q0 (st : QState) (rs : List CompRec) : State := qmod 0 (fun x => { x with state := st, records := rs }) host

theorem test_hyp_queueControls : HostMay 0 1 host ∧ HostMay 0 2 host ∧ (qget host 0).state = .stopped ∧ occupancy host 0 = 0 ∧
    ((∀ j : Fin 4, (objDef 0x6000 (j.val + 1)).isSome = true) ∧ (objDef 0x6000 4).map (fun p => otyLen p.1) = some 2 ∧
      rangeOk host 0x6000 0 4 256 = true ∧ (leBytes 2 256).length = 2) ∧
    (HostMay 0 1 (q0 .running []) ∧ (qget (q0 .running []) 0).state ≠ .stopped ∧ HostMay 0 1 (q0 .draining []) ∧ (qget (q0 .draining []) 0).state ≠ .stopped) ∧
    (HostMay 0 1 (q0 .stopped [record1]) ∧ occupancy (q0 .stopped [record1]) 0 ≠ 0 ∧ rangeOk (q0 .stopped [record1]) 0x6000 0 4 1 = true) ∧
    (HostMay 0 2 (q0 .running []) ∧ (qget (q0 .running []) 0).state = .running ∧ queueJobs (q0 .running []) 0 = []) := by
  unfold HostMay HostReady; decide

/-- A job past its commit instant. -/
def committed : Job := { job0 with phase := .committed, commit := some 5, status := some stDone }

theorem test_hyp_queueCommands : HostMay 0 2 host ∧ queueClient host 0 = clientOf host 0 ∧ (zeros 64).length = 64 ∧
    cancelResult host 0 0x10 = 2 ∧
    (HostMay 0 2 (running job0) ∧ jobOf (running job0) 0x10 = some job0 ∧ job0.q = 0 ∧ hasCommitted job0 = false ∧
      (0x10 : BitVec 32).extractLsb' 0 4 = (qget (running job0) 0).gen) ∧
    (HostMay 0 2 (running committed) ∧ jobOf (running committed) 0x10 = some committed ∧ hasCommitted committed = true) ∧
    (HostMay 0 2 (q0 .running [record1]) ∧ (qget (q0 .running [record1]) 0).records = [record1]) := by
  unfold HostMay HostReady; decide

/-- A job at its commit, and a service job in its slots. -/
def ending : Job := { job0 with phase := .ending }
def serving (v : Service) : Job := { job0 with service := some v, tasks := [] }
def published (st : BitVec 8) : Job := { committed with phase := .published, status := some st }

theorem test_hyp_commitOfJob : works (running ending) 20 = true ∧
    (jobOf (running ending) 0x10 = some ending ∧ atCommit (clockTo 5 (running ending)) ending = true ∧ commitWaits (running ending) ending = false ∧ ending.service = none ∧
      jobStream { ending with desc := { stream := 0x1000 } } = some 0 ∧ ending.deadline < now (clockTo 5 (running ending)) ∧
      ¬(ending.deadline < now (running ending))) ∧
    (∀ v ∈ [Service.exportStream 1 0 0, .load 0 9, .migrateCistern 1],
      atCommit (clockTo 5 (running (serving v))) (serving v) = true ∧ servicePoison (clockTo 5 (running (serving v))) 0 (serving v) v = none ∧
        (serving v).len = 0 ∧ commitWaits (running (serving v)) (serving v) = false ∧ (serving v).service = some v ∧
        chunksOfStream (running (serving v)) 1 = [] ∧ now (running (serving v)) ≤ (serving v).deadline) ∧
    (committed.phase = .committed ∧ committed.commit = some 5 ∧ committed.status = some stDone ∧
      publishNext (running committed) committed = true ∧ (running committed).pages.ended = [] ∧ (running committed).pages.entries = [] ∧
      committed.staging = [] ∧ committed.uses = [] ∧ committed.recomp = false ∧ ∀ ch : Fin 16, (chan (running committed) ch).state = .stopped) ∧
    (∀ st ∈ [stDone, stLate], recordNext (running (published st)) (published st) = true ∧ (published st).commit = some 5) ∧
    (hardStatus stDone = false ∧ hardStatus stLate = true ∧ queueClass (running committed) 0 ≠ 0 ∧
      queueClass (setCfg 0x6000 2 [0] (running committed)) 0 = 0) ∧
    (BitVec.extractLsb' 0 4 (0x10 : BitVec 32) = (qget (running committed) 0).gen ∧
      BitVec.extractLsb' 0 4 (0x11 : BitVec 32) ≠ (qget (running committed) 0).gen) := by decide

/-- A job whose task has used `n` cycles of a budget of 100. -/
def spent (n : Nat) : Job := { job0 with
  tasks := [{ tile := some 0, ready := true, cycles := n }], prog := { job0.prog with cert := { job0.prog.cert with tasks := [⟨100, 0, 0⟩] } } }
/-- An attempt of job 0x10 has ended, with a fence of cluster 0's staging outstanding on channel 0. -/
def dying0 : Dying := { id := 1, tag := 0x10, running := [], waits := [(0, 1024)], staging := [], staged := [], bound := [], image := none, resv := [] }

theorem test_hyp_attemptEvents : (overBudget (running (spent 103)) (spent 103) 0 = false ∧ overBudget (running (spent 104)) (spent 104) 0 = true ∧
      (spent 104).phase = .running ∧ queueClass (running (spent 104)) 0 ≠ 0) ∧
    (let s := chanmod (clusterChannel 0 0) (fun c => { c with fencing := [1024] }) (running ending)
     jobOf s 0x10 = some ending ∧ (fenceUnit s (BitVec.ofNat 48 (clusterBase 0)).toNat).isSome = true ∧
       targetOf (placeOf s (BitVec.ofNat 48 (clusterBase 0)).toNat 1) = 1024 ∧ fenceOpen s ending 1024 = true ∧ s.sluice.dying = []) ∧
    (let s : State := { running job0 with sluice := { (running job0).sluice with dying := [dying0] } }
     s.sluice.dying.find? (fun d => d.tag = 0x10 && d.waits.any (fun w => w.2 = 1024)) = some dying0 ∧
       (fenceUnit s (BitVec.ofNat 48 (clusterBase 0)).toNat).isSome = true) ∧
    jobOf (running { job0 with phase := .saving }) 0x10 = some { job0 with phase := .saving } ∧
    jobOf (running { job0 with phase := .restoring }) 0x10 = some { job0 with phase := .restoring } ∧
    (∀ x ∈ [({} : TaskRun), { tile := some 0 }], let j := { job0 with tasks := [x] }
     jobOf (running j) 0x10 = some j ∧ j.tasks[0]? = some x ∧ j.phase = .running ∧ x.ready = false ∧ x.ended = false) := by decide +kernel

/-- One submission waits, of an earlier slot; queue 0 is as `st` says. -/
def arrival0 : Arrival := { q := 0, session := 0, sgen := 0, slot := 0, desc := {} }
def arriving (st : QState) : State := { q0 st [] with sluice := { (q0 st []).sluice with arrivals := [arrival0] } }

theorem test_hyp_slotBoundary : works (arriving .running) 20 = true ∧
    works { host with power := { host.power with on := 0x6fffff } } 20 = false ∧
    (∀ st ∈ [QState.running, .stopped], boundaryArrivals (arriving st) (nextSlot (arriving st)) = [arrival0]) ∧
    (arriving .running).sluice.jobs = [] ∧ arrival0.service = none ∧ (sess (arriving .running) 0).open_ = true ∧
    (sess (arriving .running) 0).gen = arrival0.sgen ∧ (arriving .running).island.state ≠ .normal ∧
    (let s : State := { arriving .stopped with island := { host.island with state := .normal } }
     s.island.state = .normal ∧ (qget s 0).state ≠ .running) := by decide +kernel


/-! ## Streams, sequences, pools and branch tables -/

/-- Partition 0 runs on die 0. -/
def parted : State := pmod 0 (fun x => { x with state := .running, first := 0, tiles := 8 }) (setCfg 0x6000 3 (leBytes 8 1) host)
/-- A program of one section, of die 0 and an M8 partition, and one task; its tensor is 1. -/
def progBytes : Bytes := [1, 0, 0, 0] ++ leBytes 4 64 ++ leBytes 4 192 ++ zeros 4 ++ leBytes 4 192 ++ zeros 4 ++ leBytes 4 192 ++ zeros 36 ++
  ([1, 0, 1, 0, 1, 0, 1, 0] ++ zeros 8) ++ ([0, 0, 8, 0, 1, 0] ++ zeros 58) ++ zeros 48
/-- The state at a slot boundary: queue 0 runs, partition 0 runs, tensor 1 is the program. -/
def admitting : State := poke 0x100080 progBytes (qmod 0 (fun x => { x with state := .running }) (setCfg 0x6000 3 (leBytes 8 1)
  (setCfg 0x3800 1 (leBytes 8 0x100000) (setCfg 0x3800 2 (leBytes 8 0x40000) { parted with
    island := { host.island with state := .normal },
    dir := { tensors := [(1, { state := .valid, kind := true, home := .cistern, size := 192, stored := 320, addr := 0x100000, version := 1 })] } }))))
/-- A job of the program by `deadline`, released at once. -/
def progDesc (deadline : BitVec 32) : JobDesc := { program := BitVec.ofNat 64 (tensorAddr 1), parts := 1, deadline := deadline, flags := 8 }
def wanted (deadline : BitVec 32) (n : Nat) (c : Cert) : Want :=
  { load := ⟨[0], certCharge admitting c, certEnergy c false, false, false, []⟩, len := jobSlots admitting c [n], first := 2,
    deadline := extendStamp 0 deadline, split := false }

theorem test_hyp_slotDecisions : admitting.island.state = .normal ∧ (qget admitting 0).state = .running ∧
    (sess admitting 0).open_ = true ∧ occupancy admitting 0 < queueDepth admitting 0 ∧
    queueDepth (setCfg 0x6000 4 (leBytes 2 0) admitting) 0 ≤ occupancy (setCfg 0x6000 4 (leBytes 2 0) admitting) 0 ∧
    descReserved (progDesc 0) = false ∧ descReserved { progDesc 0 with flags := 1 } = true ∧
    descCheck admitting 0 { progDesc 0 with parts := 2 } = none := by decide +kernel

def prog1 : Program := { cert := { paths := 1, sections := [⟨0, 0, 8, 1, 0, 0, 0, [0, 0, 0, 0], [0, 0, 0, 0], 0⟩], tasks := [⟨0, 0, 0⟩] } }

theorem test_hyp_slotChecks : descCheck admitting 0 (progDesc 1000000) = some (1, prog1, none) ∧
    sectionCounts admitting true false none [0] = [8] ∧ sectionsMatch admitting [0] prog1.cert = true ∧ phasesOk admitting [0] prog1.cert = true ∧
    countsShort prog1.cert [8] = false ∧ countsShort prog1.cert [0] = true ∧ (heapAllocAll admitting []).isSome = true := by decide +kernel

theorem test_hyp_slotPlacement : singleFit admitting 0 (openLoads admitting none) (wanted 1000000 8 prog1.cert) = some 2 ∧
    (place admitting 0 none (wanted 1000000 8 prog1.cert) true).1 = .runs [⟨2, 1⟩] ∧
    (place admitting 0 none (wanted 0 8 prog1.cert) true).1 = .none 5 (some 3) := by decide +kernel

/-- Stream 1, generation 0, is open on tile 0 with two rows. -/
def streamed : State := { parted with streams := { recs := [(1, { state := .open_, queue := 0, rows := 2, blocks := [0], nblocks := 1 })] } }
def streamCmd : StreamCmd := ⟨0, 0, 0, 0, 0, 0, 0, 0, 0⟩
def openCmd : StreamCmd := { streamCmd with blocks := 8, rows := 16 }
def handle1 : BitVec 32 := BitVec.ofNat 32 (streamHandle streamed 1)

theorem test_hyp_streamCommands : HostMay 0 2 streamed ∧
    (streamBadArg streamed 1 { openCmd with blocks := 7 } = false ∧ queueClient streamed 0 = clientOf streamed 0 ∧
      (partOf streamed 0).state = .running ∧ 7 ≤ (freeBlockTiles streamed 0).length ∧ freeStreams streamed ≠ [] ∧
      ∀ b ∈ (freeBlockTiles streamed 0).take 7, tileHeld streamed b = false) ∧
    (∀ op ∈ [2, 5, 6], streamBadArg streamed op { streamCmd with handle := handle1 } = false) ∧
    streamNamed streamed handle1.toNat = some 1 ∧ queueClient streamed (streamOf streamed 1).queue = clientOf streamed 0 ∧
    streamBadState streamed 2 1 = false ∧ streamBusy streamed 1 = false ∧
    (let s : State := { streamed with sluice := { host.sluice with jobs := [serving (.exportStream 1 0 0)] } }
     HostMay 0 2 s ∧ streamBusy s 1 = true ∧ streamNamed s handle1.toNat = some 1 ∧ queueClient s (streamOf s 1).queue = clientOf s 0 ∧
       ∀ op ∈ [5, 6], streamBadArg s op { streamCmd with handle := handle1 } = false) ∧
    (let s := { streamed with streams := { recs := [(1, { state := .swapped, rows := 2 })] } }
     HostMay 0 2 s ∧ streamNamed s handle1.toNat = some 1 ∧ (streamOf s 1).state ≠ .open_ ∧
       streamBadArg s 6 { streamCmd with handle := handle1 } = false) ∧
    (streamNamed parted handle1.toNat = none ∧ streamBadArg parted 2 { streamCmd with handle := handle1 } = false) := by
  unfold HostMay HostReady; decide +kernel

/-- A chunk of stream 1 is accepted. -/
def chunked : State := { streamed with sluice := { host.sluice with jobs := [{ job0 with desc := { stream := handle1 } }] } }

theorem test_hyp_streamZero : (∀ s ∈ [streamed, chunked], HostMay 0 2 s ∧ streamBadArg s 6 { streamCmd with handle := handle1 } = false ∧
      streamNamed s handle1.toNat = some 1 ∧ queueClient s (streamOf s 1).queue = clientOf s 0 ∧ (streamOf s 1).state = .open_ ∧
      streamBusy s 1 = false) ∧ chunksOfStream streamed 1 = [] ∧ chunksOfStream chunked 1 ≠ [] := by
  unfold HostMay HostReady; decide +kernel

/-- Block 0 of stream 1 moves from tile 0 to tile 1, from the rollback image or not. -/
def movingStream (img : Bool) : State := { streamed with
  streams := { recs := [(1, { state := .open_, rows := 2, blocks := [1], nblocks := 1, moving := [⟨0, 0, img⟩] })] } }

theorem test_hyp_streamMoves : HostMay 0 2 streamed ∧
    (streamBadArg streamed 3 { streamCmd with handle := handle1 } = false ∧ streamBadState streamed 3 1 = false) ∧
    (let s := { streamed with streams := { recs := [(1, { state := .swapped, rows := 2, nblocks := 1 })] } }
     HostMay 0 2 s ∧ streamNamed s handle1.toNat = some 1 ∧ streamBadArg s 4 { streamCmd with handle := handle1 } = false ∧
       streamBadState s 4 1 = false ∧ handle1 ≠ 0) ∧
    (streamBadArg streamed 4 streamCmd = false ∧ (partOf streamed 0).state = .running ∧
      peekNat streamed (ownPhysical streamed 0 + 4) 2 ≤ (freeBlockTiles streamed 0).length) ∧
    (∀ img : Bool, let s := movingStream img
     let r := streamOf s 1
     r.moving.find? (fun m => m.block = 0) = some ⟨0, 0, img⟩ ∧ r.blocks[0]? = some 1 ∧ r.state = .open_ ∧ (1 : Nat) ≠ 0 ∧
       tileHeld s 0 = false ∧ tileHeld s 1 = false ∧ s.reserve = []) := by
  unfold HostMay HostReady; decide +kernel

/-- Pool 0 holds 16 frames and 2 staging frames. -/
def poolCfg (s : State) : State :=
  [(1, 0), (3, 4096), (4, 64), (5, 1), (6, 16), (7, 2), (8, 32), (9, 8)].foldl (fun s (p : Nat × Nat) => setCfg 0x3a20 p.1 (leBytes 8 p.2) s) s
/-- Sequence 5 of pool 0 has 64 tokens in the page of entry 1; table 7 has its branch 0 on sequence 6. -/
def seq5 : Seq := { pool := 0, owner := 0, cls := 0, length := 64, rows := [⟨1, 1⟩], area := 0 }
def table7 : Table := { pool := 0, owner := 0, root := 5, max := 4, area := 2, branches := [(0, ⟨6, 0xffff, 0, 0⟩)] }
def pooled : State := { poolCfg host with
  pages := {
    seqs := [(5, seq5), (6, { seq5 with area := 1, length := 0, rows := [] })], tables := [(7, table7)],
    entries := [(1, { state := .filling, ref := 1, strips := 1 })] } }
def seqCmd : SeqCmd := ⟨0, 0, 0, 0, 0, 0⟩
def tableCmd : TableCmd := ⟨0, 0, 0, 0, 0, 0, 0, 0, 0⟩

theorem test_hyp_sequenceCommands : HostMay 0 2 pooled ∧ (seqBadArg pooled 1 seqCmd = false ∧ seqRoom pooled 0 1 = true ∧ 0 < freeEntries pooled 0) ∧
    (seqNamed pooled 5 = some (5, seq5) ∧ forkOk seq5 64 = true ∧ seq5.owner = clientOf pooled 0 ∧ seqAppended pooled 5 = false ∧
      seqInJob pooled 5 = false ∧ seqBadArg pooled 2 { seqCmd with handle := 5, tokens := 64 } = false) ∧
    (∀ op ∈ [3, 4], seqBadArg pooled op { seqCmd with handle := 5 } = false) ∧
    (seqBadArg pooled 5 { seqCmd with handle := 1 } = false ∧ pageNamed pooled 1 = some 1 ∧ (seqNamed pooled 6).isSome = true) := by
  unfold HostMay HostReady; decide +kernel

theorem test_hyp_poolFrames : (pooled.pages.entries.map (fun x => x.1)).Nodup ∧ HostMay 0 1 (poolCfg host) ∧ poolRuns (poolCfg host) 0 = false ∧ (16 : BitVec 32) ≠ 0 ∧
    poolOk (setCfg 0x3a20 6 (leBytes 4 16) (poolCfg host)) 0 = true := by
  unfold HostMay HostReady; decide +kernel

theorem test_hyp_tableCommands : HostMay 0 2 pooled ∧ (tableBadArg 1 { tableCmd with root := 5, max := 256 } = false ∧
      pooled.pages.tables.length < 16 ∧ (numbersUsed pooled).length < 16383 ∧ poolSeqs pooled 0 < (poolOf pooled 0).seqMax) ∧
    (tableNamed pooled 7 = some (7, table7) ∧ table7.owner = clientOf pooled 0) ∧
    (tableBadArg 2 { tableCmd with table := 7, source := 0xffff, n := 64, count := 2 } = false ∧
      branchParent pooled table7 0xffff = some (5, seq5) ∧ tableInJob pooled 7 = false ∧ seqRoom pooled 0 2 = true ∧
      2 ≤ (freeBranches pooled table7).length ∧ (freeBranches pooled table7).head? = some 1) ∧
    (tableBadArg 3 { tableCmd with table := 7, count := 1 } = false ∧ ∀ b ∈ liveBranches pooled table7, seqInJob pooled (branchSeq b.2) = false) ∧
    (∀ op ∈ [4, 5], tableBadArg op { tableCmd with table := 7 } = false) := by
  unfold HostMay HostReady; decide +kernel

/-! ## The map, the Selector, the directory, the tiers, partitions and function resets -/

theorem test_hyp_mapCommands : HostMay 0 1 host ∧ host.map.running = false ∧ host.resetting.getLsbD 2 = false ∧ selectorActs host = true ∧
    ({ host with map := { host.map with running := true, apply := some ⟨[(1, 0)], some [1]⟩ } } : State).map.apply =
      some ⟨[(1, 0)], some [1]⟩ := by
  unfold HostMay HostReady; decide

def cand1 : Cand := ⟨7, 0, 0, 0, 0, 0, 0, [], 0, false⟩
def selecting (st : CState) (closing : Bool) (n : Option Nat) : State :=
  chanSet 3 (fun c => { c with state := st, closing := closing, closeAt := n, cands := [cand1], kept := [cand1] }) host

theorem test_hyp_selectorRounds : HostMay 0 8 host ∧ (chan host 3).state = .stopped ∧ host.resetting.getLsbD 2 = false ∧
    (∀ st ∈ [CState.collecting, .closed], selectorActs (selecting st false none) = true) ∧
    (HostMay 0 8 (selecting .idle false none) ∧ (chan (selecting .idle false none) 3).state ≠ .stopped) ∧
    ((chan (selecting .collecting false (some 9)) 3).closeAt = some 9 ∧ (chan (selecting .collecting false (some 9)) 3).closing = false ∧
      (chan (selecting .collecting false (some 9)) 3).state = .collecting) ∧
    ((chan (selecting .collecting true none) 3).state = .collecting ∧ (chan (selecting .collecting true none) 3).closing = true) ∧
    ((chan (selecting .closed false none) 3).state = .closed ∧ (chan (selecting .closed false none) 3).held = [] ∧
      (selecting .closed false none).island.state ≠ .normal) ∧
    ({ selecting .closed false none with island := { host.island with state := .normal } } : State).island.state = .normal := by
  unfold HostMay HostReady; decide

/-- Tensor 1 is VALID data in own Cistern; the heap holds 4 units above 1 MiB. -/
def tensor1 : Tensor := { state := .valid, home := .cistern, size := 64, stored := 64, addr := 0x100000, version := 1 }
def directory : State := setCfg 0x3800 1 (leBytes 8 0x100000) (setCfg 0x3800 2 (leBytes 8 0x40000)
  { host with dir := { tensors := [(1, tensor1)], store := [(9, ⟨false, 64, 64, 0, [], []⟩)] } })
def dirCmd : DirCmd := ⟨0, 0, 1, 0, 0, 0, 0, 0⟩

theorem test_hyp_directoryCommands : HostMay 0 2 directory ∧ HostMay 0 1 directory ∧
    (dirBadArg directory 1 { dirCmd with handle := 0x3ffff, size := 268435456 } = false ∧ (tensorOf directory 0x3ffff).state = .free) ∧
    (dirBadArg directory 2 dirCmd = false ∧ tensorNamed directory 1 = some 1 ∧ listedCount directory 1 = 0) ∧
    dirBadArg directory 7 dirCmd = false := by
  unfold HostMay HostReady; decide +kernel

theorem test_hyp_directoryServices : HostMay 0 2 directory ∧ tensorNamed directory 1 = some 1 ∧
    queueClient directory 0 = clientOf directory 0 ∧ tensorBusy directory 1 = false ∧ (tensorOf directory 1).state = .valid ∧
    ∀ p ∈ [(3, { dirCmd with object := 9 }), (4, { dirCmd with object := 10 }), (5, { dirCmd with addr := 0 }),
      (6, { dirCmd with arg := 1, addr := 1 })],
      dirBadArg directory p.1 p.2 = false ∧ dirNoSpace directory 1 (dirService p.1 1 p.2) = false ∧
        dirNoObject directory (dirService p.1 1 p.2) = false := by
  unfold HostMay HostReady; decide +kernel

/-- MEM_READ of two bytes at the tensor address of tensor 1. -/
def tensorRead : IxideOp := { memOp 3 [] with address := BitVec.ofNat 64 (tensorAddr 1) }
theorem test_hyp_hostMemoryTensor : placeOf directory tensorRead.address.toNat 2 = .tensor 1 0 ∧ HostMay 0 3 directory ∧ opOk tensorRead = true ∧
    poisonHit directory {} (.tensor 1 0) 2 = none ∧ versionBytes directory 1 (tensorOf directory 1).version = some (zeros 64) := by
  unfold HostMay HostReady; decide +kernel

/-- Entry 0 copies tensor 1 to tile 0 in plane 0; its NEED and SLACK are past after `need` cycles; it may fall to path 1. -/
def entry0 (need issue : Nat) : SchedEntry := ⟨0, 0, 1, 0, 0x400, issue, need, 0⟩
/-- Job 0x10 runs path 0 with that entry, allowed to fall to path 1 in `allow`. -/
def copying (allow : BitVec 16) (e : SchedEntry) (copies : List CopyRun) : Job := { job0 with
  desc := { pathAllow := allow }, copies := copies, bound := [(1, 1)],
  prog := { cert := { paths := 3 }, tensors := [(1, false)], sched := [e] } }
def tiers (j : Job) : State := { directory with sluice := { host.sluice with jobs := [j] } }
/-- Tensor 1 is DAMAGED or homed at peer 1. -/
def damagedDir (j : Job) : State := { tiers j with dir := { directory.dir with tensors := [(1, { tensor1 with state := .damaged })] } }
def peerHome (j : Job) : State := { fabmod 0 (fun f => { f with running := true, state := 2, peersUp := [1] }) (tiers j) with
  dir := { directory.dir with tensors := [(1, { tensor1 with home := .aquifer, peer := 1, addr := 0x008000000000 })] } }
def migrating : Job := { job0 with service := some (.migrateAquifer 1 1 0x008000000000), tasks := [] }

theorem test_hyp_prefetchCopies : (let j := copying 3 (entry0 1 0) []
     let s := tiers j
     jobOf s 0x10 = some j ∧ j.phase = .running ∧ planeEntry j 0 = some (entry0 1 0) ∧ entryTensor j 0 = some 1 ∧
       boundVersion j 1 = some 1 ∧ entryCluster j (entry0 1 0) = some 0 ∧ (entry0 1 0).issue ≤ jobTimeNow s j ∧
       earlierIssued j 0 = true ∧ flightsTo s 0 < 8 ∧ (tensorOf s 1).state ≠ .damaged ∧ remoteHome s 1 1 = none ∧
       (tensorOf (damagedDir j) 1).state = .damaged ∧ remoteHome (peerHome j) 1 1 = some (1, 0x008000000000, 64) ∧ peerUp (peerHome j) 1 = true ∧
       jobTimeNow s (copying 3 (entry0 1 1) []) < (entry0 1 1).issue ∧ earlierIssued j 1 = false ∧
       hasMissed s j 0 = false) ∧
    (let j := copying 3 (entry0 0 0) [{ entry := 0 }]
     let s := tiers j
     inFlight j 0 = true ∧ copyPoison s j (entry0 0 0) 1 = none ∧ copyBytes s j (entry0 0 0) 1 = some (zeros 64) ∧
       entryDest s j (entry0 0 0) 64 = .tile (tileBase 0 + 0x400) ∧ (∀ y ∈ j.copies, y.entry = 0 → y.moved = 0) ∧
       eventWaiters s (some 0x10) 0x2000 = [] ∧ hasMissed s j 0 = true ∧
       pathFor j j.path (entry0 0 0) = some 1 ∧ j.desc.lockstep = false ∧ firstOn j 0 = some 0) ∧
    (let j := copying 1 (entry0 0 0) [{ entry := 0 }]
     pathFor j j.path (entry0 0 0) = none ∧ hasMissed (tiers j) j 0 = true) ∧
    (jobOf (tiers migrating) 0x10 = some migrating ∧ migratesOut migrating = true ∧ inFlightNow (tiers migrating) migrating 0 = false) := by
  decide +kernel

/-- Domain m is off. -/
def coldDomain (m : Nat) : State := { host with power := { host.power with on := BitVec.ofNat 32 (0x7fffff - 2 ^ m) } }

theorem test_hyp_memoryUpkeep : inUsable host 0 64 = true ∧ (∀ n ∈ [14, 15, 20], works host n = true) ∧ works (coldDomain 15) 15 = false ∧
    permanentByCount ((counter host 0x741d 1).toNat :: unitHistory host (unitOf 4 (subchannelOf host 0))) = false ∧
    tblGet 0 ({ host with dir := { host.dir with sub := [(31, 1)] } } : State).dir.sub 31 = 1 ∧
    (clusterOf (cmod 63 (fun c => { c with copying := true }) host) 63).copying = true := by decide +kernel

/-- Request n to peer 1, sent again r times, on queue pair 7 or waiting for one. -/
def req (n r : Nat) (o : RoceOwner) (qp : Option Nat) : RoceReq := ⟨n, 1, 0, r, o, .read, 0, leBytes 4 16, qp⟩
/-- Port 0 reaches position 1, whose module is up and may read 16 bytes and write 8. -/
def peered : State := setCfg 0x3841 2 (leBytes 8 16) (setCfg 0x3841 4 (leBytes 8 8)
  (fabmod 0 (fun f => { f with running := true, state := 2, peersUp := [1], reqs := [req 4 2 .discovery (some 7), req 5 3 (.channel 0) (some 0),
    req 6 0 (.job 0x10 (some 0)) none] }) (tiers (copying 3 (entry0 0 0) [{ entry := 0 }]))))

theorem test_hyp_peerRequests : portToward peered 1 = some 0 ∧ peerUp peered 1 = true ∧ inGrant peered 1 1 (ownPhysical peered 0) 16 = true ∧
    inGrant peered 1 3 (ownPhysical peered 0) 8 = true ∧ inGrant peered 1 3 (ownPhysical peered 0) 9 = false ∧
    inGrant peered 1 1 (ownPhysical peered 1) 16 = false ∧ (fabOf peered 0).paused ≤ now peered ∧ (fabOf peered 0).held = [] ∧
    now peered < (fabOf (fabmod 0 (fun f => { f with paused := 2 ^ 40 }) peered) 0).paused ∧
    (fabOf peered 0).reqs.find? (fun y => y.id = 4) = some (req 4 2 .discovery (some 7)) ∧
    (fabOf peered 0).reqs.find? (fun y => y.id = 5) = some (req 5 3 (.channel 0) (some 0)) ∧
    (fabOf peered 0).reqs.find? (fun y => y.id = 6) = some (req 6 0 (.job 0x10 (some 0)) none) ∧
    (jobOf peered 0x10).map (fun j => inFlight j 0) = some true := by decide +kernel

theorem test_hyp_partitionCommands : (partOf host 63).state ≠ .resetting ∧ HostMay 0 1 host ∧ HostMay 0 6 host ∧
    (HostMay 0 1 parted ∧ (partOf parted 0).state = .running) := by
  unfold HostMay HostReady; decide

theorem test_hyp_functionResets : HostMay 0 6 host ∧ (∀ b : Fin 11, host.resetting.getLsbD b.val = false) ∧
    (∀ p : Fin 3, (fabOf host p.val).state ≠ 5) ∧ (sess host 0).port ≠ 3 ∧
    (∀ b : Fin 11, ({ host with resetting := 0x7ff } : State).resetting.getLsbD b.val = true ∧ HostMay 0 6 { host with resetting := 0x7ff }) ∧
    (resetBit 0x0603 = some 9 ∧ 0x0603 / 256 ≠ 1 ∧ ({ host with resetting := 0x200 } : State).resetting.getLsbD 9 = true) ∧
    (partOf (pmod 63 (fun x => { x with state := .resetting }) host) 63).state = .resetting ∧
    HostMay 0 6 (pmod 63 (fun x => { x with state := .resetting }) host) := by
  unfold HostMay HostReady; decide

/-! ## Wellhead -/

/-- A raw tensor of one block. -/
theorem tensorBytes_raw (s : State) (t : Tensor) (h : t.compressed = false) (hh : t.home ≠ .aquifer) (h0 : 0 < t.size)
    (h1 : t.size ≤ 4096) :
    tensorBytes s t = some (peek s (t.addr + 128) t.size) := by
  have hb : blocksOf t.size = 1 := by unfold blocksOf ceilDiv; omega
  have hd : dataOff t.size = 128 := by simp [dataOff, hb, ceilDiv]
  simp [tensorBytes, imageBytes, imageBlock, hb, hd, h, hh, homeRead, imageRead, peek, memRead_take _ _ _ _ h1]

/-- A dictionary tensor of the 256 single bytes. -/
def dictBytes : Bytes := ((List.range 256).map (fun i => [1, BitVec.ofNat 8 i])).flatten
def dictList : List Bytes := (List.range 256).map (fun i => [BitVec.ofNat 8 i])
def dictState : State := setCfg 0x4980 1 (leBytes 4 1) (poke 0x100080 dictBytes
  { host with dir := { tensors := [(1, { tensor1 with size := 512, stored := 640 })] } })

def sampling (x : SampleStream) : State := sampmod 2 (fun _ => x) host
def sample1 : Sample := { index := 0, src := 0, bytes := 1, params := 0 }

theorem test_hyp_wellheadControls : HostMay 0 1 host ∧ ((camOf host 31).state = 0 ∧ portTaken host 31 = false) ∧
    (let s := cammod 31 (fun c => { c with state := 1 }) host
     HostMay 0 1 s ∧ (camOf s 31).state ≠ 0) ∧
    ((sampOf host 2).running = false ∧ smpIsText host 2 = false) ∧
    (let s := setCfg 0x4902 1 [1] host
     HostMay 0 1 s ∧ (sampOf s 2).running = false ∧ smpIsText s 2 = true ∧ s.wellhead.loaded = false) ∧
    (let s := sampling { running := true, batch := [sample1] }
     HostMay 0 1 s ∧ (sampOf s 2).running = true ∧ (sampOf s 2).batch ≠ [] ∧ (sampOf s 2).batch.length ≤ sampCfg s 2 9) ∧
    (sampOf (sampling { running := true }) 2).batch = [] := by
  unfold HostMay HostReady; decide +kernel

theorem dictList_ok : dictOk dictList = true := by
  have inj : ∀ i ∈ List.range 256, ∀ j ∈ List.range 256, [BitVec.ofNat 8 i] = [BitVec.ofNat 8 j] → i = j := by
    intro i hi j hj h
    have := congrArg BitVec.toNat (List.cons.inj h).1
    simp only [List.mem_range, BitVec.toNat_ofNat] at *
    omega
  have hn : dictList.Nodup := List.Nodup.map_on inj List.nodup_range
  simp only [dictOk, hn, decide_true, Bool.and_true, Bool.and_eq_true, decide_eq_true_eq, List.all_eq_true]
  exact ⟨by simp [dictList], fun i hi => List.mem_map.2 ⟨i, hi, rfl⟩⟩

theorem test_hyp_dictLoad : HostMay 0 1 dictState ∧ tensorNamed dictState (cfg dictState 0x4980 1) = some 1 ∧
    (tensorOf dictState 1).state = .valid ∧ versionBytes dictState 1 (tensorOf dictState 1).version = some dictBytes ∧
    parseDict (dictBytes.length + 1) dictBytes = some dictList ∧ dictOk dictList = true := by
  have hb : tensorOf dictState 1 = { tensor1 with size := 512, stored := 640 } := by rfl
  have hv : versionBytes dictState 1 (tensorOf dictState 1).version = tensorBytes dictState (tensorOf dictState 1) := rfl
  refine ⟨by unfold HostMay HostReady; decide +kernel, by decide +kernel, by decide +kernel, ?_, by decide +kernel, dictList_ok⟩
  rw [hv, hb, tensorBytes_raw _ _ rfl (by decide) (by decide) (by decide)]
  exact congrArg some ((congrArg (memRead _ 0x100080) (by decide +kernel)).trans (memRead_write [] 0x100080 dictBytes))

/-- Camera stream 0 runs on port 0 with a frame begun, its link without or with an error. -/
def filming (err : Bool) : State := wmod (fun w => { w with links := [(0, true)] })
  (cammod 0 (fun c => { c with state := 2, frame := some { number := 1, stamp := 0, dropped := false, linkError := err } }) host)
/-- The ring of camera stream 0 is full: two batches handed over, none consumed. -/
def ringFull : State := cammod 0 (fun c => { c with handed := 2 }) (filming false)

theorem test_hyp_cameraFrames : linkLocked host 0 = false ∧ wellheadReset (filming true) = false ∧ linkLocked (filming true) 0 = true ∧
    camOn (filming true) 0 0 = some 0 ∧ (camOf (filming true) 0).ready = none ∧
    (ringRoom (filming true) (camGeom (filming true) 0).ring 2 0 = true ∧ (camGeom (filming true) 0).slots = 2) ∧
    (ringRoom ringFull (camGeom ringFull 0).ring (camGeom ringFull 0).slots (camOf ringFull 0).handed = false ∧ camOn ringFull 0 0 = some 0) ∧
    (camCfg (filming true) 0 3 = (0x2a : BitVec 8).toNat ∧ (0x2a : BitVec 8).toNat ∈ [0x1e, 0x2a, 0x2b, 0x2c]) ∧
    (∀ e : Bool, ((camOf (filming e) 0).frame.map (fun f => (f.dropped, f.linkError))) = some (false, e)) ∧
    (let s := cammod 31 (fun c => { c with ready := some ([1], true) }) host
     (camOf s 31).ready = some ([1], true) ∧ eventWaiters s none (camCfg s 31 0x0f) = []) := by decide +kernel

/-- A baseline JPEG of one grey block, with its scan `data`. -/
def jpegOf (data : Bytes) : Bytes := [0xff, 0xd8, 0xff, 0xdb, 0, 0x43, 0] ++ List.replicate 64 1 ++
  [0xff, 0xc0, 0, 0x0b, 8, 0, 8, 0, 8, 1, 1, 0x11, 0] ++
  [0xff, 0xc4, 0, 0x14, 0, 1] ++ zeros 15 ++ [0] ++ [0xff, 0xc4, 0, 0x14, 0x10, 1] ++ zeros 15 ++ [0] ++
  [0xff, 0xda, 0, 8, 1, 1, 0, 0, 0x3f, 0] ++ data ++ [0xff, 0xd9]
/-- Sample stream 2 has one sample of `b` at address 0, taken by decoder 3 at instant 0 or waiting. -/
def decoding (taken : Bool) (b : Bytes) : State := poke 0 b (wmod (fun w => { w with
  decoders := if taken then [(3, some ⟨2, 0, 0⟩)] else [] }) (sampling { running := true, batch := [{ sample1 with bytes := b.length }] }))
def scanOk (b : Bytes) : Option Bool := match jpegChecks b with
  | .inr (h, sos, rest) => some (readScans (rest.length + 1) h sos rest []).isSome
  | .inl _ => none

/-- One input entry waits in sample stream 2's ring: `b` are its 32 bytes. -/
def oneEntry (b : Bytes) : State := poke 0 (leBytes 4 1 ++ zeros 60 ++ b) (sampling { running := true })

/-- Nine entries wait in a ring of eight or fewer. -/
def overEntry : State := poke 0 (leBytes 4 9 ++ zeros 60) (setCfg 0x4902 3 (leBytes 4 8) (sampling { running := true }))

theorem test_hyp_sampleTaken : wellheadReset (oneEntry []) = false ∧ (sampOf (oneEntry []) 2).running = true ∧
    (sampOf (oneEntry []) 2).batch.length < sampCfg (oneEntry []) 2 9 ∧
    ringRoom (oneEntry []) (smpRing (oneEntry []) 2) (sampCfg (oneEntry []) 2 0x0f) 0 = true ∧
    (smpTail (oneEntry []) 2 = 1 ∧ 1 ≤ sampCfg (oneEntry []) 2 3) ∧ smpTail (sampling { running := true }) 2 = 0 ∧
    (let b := leBytes 8 0 ++ leBytes 4 16777216 ++ zeros 20
     fieldAt b 24 8 = 0 ∧ fieldAt b 8 4 = 16777216 ∧ inUsable (oneEntry b) (ownPhysical (oneEntry b) 0) 16777216 = true ∧
       sampCfg (oneEntry b) 2 0x0b ≠ 2) ∧
    (smpTail overEntry 2 = 9 ∧ sampCfg overEntry 2 3 < 9 ∧ (sampOf overEntry 2).running = true ∧
      ringRoom overEntry (smpRing overEntry 2) (sampCfg overEntry 2 0x0f) 0 = true) ∧ fieldAt (zeros 24 ++ [1] ++ zeros 7) 24 8 ≠ 0 := by decide +kernel

theorem test_hyp_decoding : (wellheadReset (decoding false (jpegOf [0x3f])) = false ∧
      tblGet none (decoding false (jpegOf [0x3f])).wellhead.decoders 3 = none ∧
      nextSample (decoding false (jpegOf [0x3f])) false = some (2, 0) ∧ scanOk (jpegOf [0x3f]) = some true) ∧
    scanOk (jpegOf [0xff, 0]) = some false ∧ scanOk [0xff, 0xd8] = none ∧
    (unitWork (clockTo 0 (decoding true (jpegOf [0x3f]))) 3 = some ⟨2, 0, 0⟩ ∧
      sampleSrc (decoding true (jpegOf [0x3f])) { sample1 with bytes := (jpegOf [0x3f]).length } = jpegOf [0x3f] ∧
      ¬(smpBudget host 2 < now host - 0) ∧ smpBudget host 2 < now (clockTo 8000001 host) - 0) := by decide +kernel

/-- A text stream whose tokenizer has one sample of one byte. -/
def texting : State := setCfg 0x4902 1 [1] (wmod (fun w => { w with loaded := true, decoders := [(4, some ⟨2, 0, 0⟩)] })
  (sampling { running := true, batch := [sample1] }))
/-- A batch of sample stream 15 with its one sample settled. -/
def settled : State := sampmod 15 (fun _ => { running := true, batch := [{ sample1 with settled := true }] }) host

theorem test_hyp_textAndHandover : unitWork (clockTo 0 texting) 4 = some ⟨2, 0, 0⟩ ∧
    ¬(smpBudget texting 2 < now (clockTo 0 texting) - 0) ∧ smpBudget texting 2 < now (clockTo 8000001 texting) - 0 ∧
    smpIsText texting 2 = true ∧
    nextSample (wmod (fun w => { w with decoders := [] }) (sampmod 2 (fun x => { x with batch := [] }) texting)) true = none ∧
    ((sampOf settled 15).running = true ∧ (sampOf settled 15).batch.length = sampCfg settled 15 9 ∧
      (∀ e ∈ (sampOf settled 15).batch, e.settled = true) ∧ eventWaiters settled none (sampCfg settled 15 0x10) = []) := by decide +kernel

/-! ## Fusion, the solver and the Pump engine -/

/-- The fusion unit runs with `st` in its store; input 15 is fed by the host, input 0 is in group 0 at level 0. -/
def fusing (st : List (Nat × Bytes)) : State := setCfg 0x501f 2 [1] (setCfg 0x5010 1 [0] (setCfg 0x5040 1 [0]
  { host with fusion := { running := true, store := st } }))
/-- A record of 64 bytes with its STAMP. -/
def rec64 (n : Nat) : Bytes := leBytes 4 n ++ zeros 60

theorem test_hyp_fusionUnit : HostMay 0 1 host ∧ host.fusion.running = false ∧ HostMay 0 1 (fusing []) ∧ (fusing []).fusion.running = true ∧
    cfg (fusing []) 0x501f 2 ≠ 0 ∧ (rec64 5).length = 64 ∧ (zeros 16448).length ≤ 16448 ∧
    reservedOk 0x5010 8 (rec64 5) = true ∧ fusionActs (fusing []) = true ∧
    fusionActs { fusing [] with resetting := 2 } = false ∧
    (fusing []).fusion.store.find? (fun e => e.1 = 15) = none ∧
    (let s := fusing [(15, rec64 5)]
     s.fusion.store.find? (fun e => e.1 = 15) = some (15, rec64 5) ∧
      (BitVec.ofNat 32 (fieldAt (rec64 4) 0 4) - BitVec.ofNat 32 (fieldAt (rec64 5) 0 4)).toInt < 0 ∧
      ¬(BitVec.ofNat 32 (fieldAt (rec64 5) 0 4) - BitVec.ofNat 32 (fieldAt (rec64 5) 0 4)).toInt < 0) ∧
    inputUsed (fusing []) 0 = true ∧
    (cfg (fusing []) 0x5000 4 = 0 ∧ eventWaiters (fusing []) none (cfg (fusing []) 0x5000 5) = []) := by
  simp only [zeros, List.length_replicate]
  unfold HostMay HostReady; decide +kernel

/-- A schedule of one unknown, with its fingerprint and CRC (R324, R325). -/
def sched : Bytes :=
  let tail : Bytes := [0, 0, 0, 0, 0, 0, 0, 0, 1, 0, 0, 0, 0, 0]
  let top (f : BitVec 64) : Bytes := [1, 0, 1, 0, 1, 0, 1, 0] ++ leBytes 4 1 ++ leBytes 4 1 ++ zeros 8 ++ leBytes 8 f.toNat ++
    leBytes 4 0x40 ++ leBytes 4 0x44 ++ zeros 8
  let b := top (fingerprint (top 0 ++ zeros 16 ++ tail))
  b ++ leBytes 4 (crc32c (b ++ tail)).toNat ++ zeros 12 ++ tail
theorem sched_ok : scheduleOk sched = true := by decide +kernel

/-- The solver with `sched` in both slots. -/
def solving (x : Solver) : State := { host with
  solver := { x with slots := [(0, { state := .loaded, image := sched }), (1, { state := .loaded, image := sched })] } }
/-- Schedule slot 1 names tensor 1. -/
def slotNamed : State := setCfg 0x5811 1 (leBytes 4 1) { host with dir := { tensors := [(1, tensor1)] } }
/-- The host feeds the records of a running solver. -/
def solverFed (r : Option Bytes) : State := setCfg 0x5800 3 [1] (solving { running := true, record := r })
/-- A problem record that `sched` accepts, with its STAMP. -/
def problemAt (n : Nat) : Bytes := leBytes 4 n ++ [1, 0, 0, 0] ++ bytesAt sched 0x18 8 ++ zeros 64
def problem : Bytes := problemAt 0
def out0 (st : BitVec 8) : SolverOut := ⟨1, st, 0, 0, 0, 0, 0, []⟩

theorem test_hyp_solverControls : HostMay 0 8 (solving {}) ∧ (solving {}).solver.running = false ∧
    slotMeets (solving {}) (solverSel (solving {})) (cfg (solving {}) 0x5800 1) = true ∧
    (HostMay 0 8 (solving { running := true }) ∧ ∀ v ∈ [0, 1], slotMeets (solving { running := true }) v (cfg (solving { running := true }) 0x5800 1) = true) ∧
    (HostMay 0 8 (solverFed none) ∧ cfg (solverFed none) 0x5800 3 ≠ 0 ∧ solverActs (solverFed none) = true ∧
      solverActs { solverFed none with resetting := 0x400 } = false ∧ (solverFed none).solver.record = none ∧
      solverRecLen (solverFed none) (problemAt 4).length = true ∧ (problemAt 4).length ≤ 1048576 ∧ reservedOk 0x5800 0x0c (problemAt 4) = true ∧
      (solverFed (some (problemAt 5))).solver.record = some (problemAt 5) ∧
      (BitVec.ofNat 32 (fieldAt (problemAt 4) 0 4) - BitVec.ofNat 32 (fieldAt (problemAt 5) 0 4)).toInt < 0) ∧
    (HostMay 0 8 slotNamed ∧ slotNamed.solver.running = false ∧ tensorNamed slotNamed (cfg slotNamed 0x5811 1) = some 1 ∧
      (tensorOf slotNamed 1).state = .valid ∧ (tensorOf slotNamed 1).kind = false ∧ (tensorOf slotNamed 1).size ≤ 1048576) := by
  unfold HostMay HostReady; decide +kernel

theorem test_hyp_sparseSolver :
    (∀ b ∈ [sched, []], (schedSlot (schedMod 0 (fun _ => { state := .loading, image := b }) host) 0).state = .loading ∧
      (schedSlot (schedMod 0 (fun _ => { state := .loading, image := b }) host) 0).image = b) ∧ scheduleOk [] = false ∧
    (let s := solving { running := true }
     solverActs s = true ∧ s.solver.solving = none ∧ solverChecks s 200000 (reference s 200000) = 1) ∧
    (let s := solving { running := true, record := some problem }
     solverChecks s 200000 (reference s 200000) = 0) ∧
    (let s := solving { running := true, solving := some (out0 0, none) }
     solverActs s = true ∧ s.solver.solving = some (out0 0, none) ∧ (out0 0).status = 0 ∧ cfg s 0x5800 8 = 0 ∧ cfg (setCfg 0x5800 8 (leBytes 8 4096) s) 0x5800 8 ≠ 0) ∧
    (let s := solving { running := true, solving := some (out0 8, none) }
     (out0 8).status ≠ 0 ∧ s.solver.invalid + 1 < cfg s 0x5800 9) ∧
    (∀ w : Bool, let s := solving { running := true, solving := some (out0 8, none), invalid := 15, warned := w }
     cfg (setCfg 0x5800 9 (leBytes 2 16) s) 0x5800 9 ≤ s.solver.invalid + 1 ∧ s.solver.warned = w) := by decide +kernel

/-- Group 0 runs at RATE 0 on port C with axis 63 alone, which names tables in tensor 1. -/
def axes (x : Pump) : State :=
  [(0x5410, 1, 0, 1), (0x5410, 3, 500000, 4), (0x5410, 4, 2, 1), (0x553f, 1, 0, 1), (0x553f, 0x0b, 1, 4)].foldl
    (fun s (p : Nat × Nat × Nat × Nat) => setCfg p.1 p.2.1 (leBytes p.2.2.2 p.2.2.1) s)
    { host with pump := x, t1 := [(0, { link := 2 }), (2, { link := 2 })], dir := { tensors := [(1, { tensor1 with size := 8256 })] } }
/-- Axis 63 has an enable or a disable pending. -/
def axesPending (p : Option Bool) : State := axisMod 63 (fun a => { a with pending := p }) (axes { running := true })
def cmdRec (n : Nat) : Bytes := leBytes 4 n ++ zeros 1084

theorem test_hyp_pumpControls : (HostMay 0 8 (axes {}) ∧ (axes {}).pump.running = false ∧ loadOk (axes {}) = true ∧ launchTaken (axes {}) = false) ∧
    (HostMay 0 8 (axes { running := true }) ∧ (cmdRec 5).length = 1088 ∧ reservedOk 0x5400 7 (cmdRec 5) = true ∧
      pumpTakes (axes { running := true }) = true ∧ pumpTakes (axes {}) = false ∧ (axes { running := true }).pump.cmd = none ∧
      cfg (axes { running := true }) 0x5400 1 ≠ 1 ∧ cfg (setCfg 0x5400 1 [1] (axes { running := true, cmd := some (cmdRec 5) })) 0x5400 1 = 1 ∧
      (BitVec.ofNat 32 (fieldAt (cmdRec 4) 0 4) - BitVec.ofNat 32 (fieldAt (cmdRec 5) 0 4)).toInt < 0 ∧
      mayEnable (axes { running := true }) 63 = true ∧ (axes { running := true }).resetting.getLsbD 10 = false ∧
      HostMay 0 8 { axes { running := true } with resetting := 0x400 }) ∧
    (axisEnabled (axisOf (axes {}) 63) = false ∧ tensorNamed (axes {}) (axisCfg (axes {}) 63 0x0b) = some 1 ∧
      (tensorOf (axes {}) 1).state = .valid ∧ (tensorOf (axes {}) 1).kind = false ∧ (tensorOf (axes {}) 1).size = 8256) ∧
    (axisEnabled (axisOf (axes {}) 0) = false ∧ tensorNamed (axes {}) (axisCfg (axes {}) 0 0x0b) = none) ∧
    ((zeros 256).length = 256 ∧ lawOk (zeros 256) = true ∧ reservedOk 0x5500 5 (zeros 256) = true ∧
      loadOk (setCfg 0x553f 5 (zeros 256) (axes { running := true })) = true ∧
      compOk (setCfg 0x553f 5 (zeros 256) (axesPending (some true))) 63 = true ∧ (axisOf (axesPending (some true)) 63).pending = some true) := by
  unfold HostMay HostReady; decide +kernel

/-- A field past the end of a header that zeros follow is 0. -/
theorem fieldAt_pad (h : Bytes) (n o k : Nat) (ho : h.length ≤ o) : fieldAt (h ++ zeros n) o k = 0 := by
  have hz : ∀ j, leNat (List.replicate j 0) = 0 := by
    intro j
    induction j with
    | zero => rfl
    | succ j ih => simpa [List.replicate_succ, leNat] using ih
  rw [fieldAt, bytesAt, List.drop_append, List.drop_eq_nil_of_le ho, List.nil_append, zeros, List.drop_replicate, List.take_replicate, hz]

/-- The head of tables: VERSION 1, POS_SPAN 1.0. -/
def tablesHead : Bytes := [1, 0, 0, 0, 0, 0, 0, 0, 0, 0, 0x80, 0x3f]
/-- Tables with every coefficient 0. -/
def tables : Bytes := tablesHead ++ zeros 8244

theorem tables_ok : tablesOk tables = true := by
  have hl : tables.length = 8256 := by rw [tables, List.length_append, zeros, List.length_replicate]; rfl
  have hf : (List.range 2048).all (fun i => f32Finite (fieldAt tables (64 + 4 * i) 4)) = true := by
    rw [List.all_eq_true]
    intro i _
    rw [tables, fieldAt_pad _ _ _ _ (by simp only [tablesHead, List.length_cons, List.length_nil]; omega)]
    rfl
  unfold tablesOk
  rw [hl, hf]
  decide +kernel

/-- A feedback payload of drive 7 with one slot. -/
def feedback (n : Nat) : Bytes := [2, 0, 7, 0] ++ leBytes 4 n ++ zeros 4 ++ [1, 0, 0, 0] ++ zeros 16
def frame0 : SetFrame := { group := 0, flags := 0, stamp := 500000, sample := 0, slots := [] }

theorem test_hyp_pumpSamples :
    (∀ b ∈ [tables, []], (axisOf (axisMod 63 (fun a => { a with tstate := .loading, tables := b }) host) 63).tstate = .loading) ∧ tablesOk [] = false ∧
    (∀ x ∈ [[], [(7, feedback 5)]], let s := axes { running := true, feedback := x }
      t1Up s 2 = true ∧ spoilt 0x32 s = false ∧ pumpTakes s = true ∧ fieldAt (feedback 4) 0 1 = 2 ∧ fieldAt (feedback 4) 2 2 = 7) ∧
    (feedbackOk [2] = false ∧ fieldAt [2] 0 1 = 2 ∧ feedbackOk (feedback 4) = true ∧
      (BitVec.ofNat 32 (fieldAt (feedback 4) 4 4) - BitVec.ofNat 32 (fieldAt (feedback 5) 4 4)).toInt < 0) ∧
    (let s := axes { running := true }
     s.pump.running = true ∧ works s 11 = true ∧ s.solver.solving = none ∧ compOk s 63 = true ∧ groupUsed s 0 = true ∧ (cfg (setCfg 0x4000 9 (zeros 4) s) 0x4000 9).testBit 6 = false ∧
       (∀ n ∈ groupAxes s 0, axisEnabled (axisOf s n) = false ∧ (axisOf s n).pending ≠ some true) ∧ groupAxes s 0 = [63] ∧ 0 ∉ groupAxes s 0 ∧
       groupAxes (setCfg 0x553f 1 [0xff] s) 0 = [] ∧ (axisOf s 63).state = .disabled ∧ (axisOf s 63).pending = none) ∧
    (∀ p : Bool, (axisOf (axesPending (some p)) 63).pending = some p ∧ compOk (axesPending (some p)) 63 = true) ∧
    (let s := axes { running := true, frames := [(0, frame0)] }
     s.pump.frames.find? (fun e => e.1 = 0) = some (0, frame0) ∧ frame0.group = 0 ∧ groupPort s 0 = 2 ∧ t1Up s 2 = true ∧
       (t1Of s 2).launch.length < 16 ∧ frame0.stamp ≤ now (clockTo (frame0.stamp - 1000) s) + 100000000) := by decide +kernel

/-! ## Time, ports and Siphon -/

def clocked (st : TimeState) (a : AsState) : State := { host with clock := { host.clock with state := st }, as_ := a }

theorem test_hyp_timeBase : HostMay 0 9 host ∧ servoOwns host = false ∧
    ((10000 : BitVec 64).toInt.natAbs ≤ 10000 ∧ (-10000 : BitVec 64).toInt.natAbs ≤ 10000 ∧ 10000 < (10001 : BitVec 64).toInt.natAbs) ∧
    (HostMay 0 9 (clocked .locked { running := true }) ∧ (clocked .locked { running := true }).as_.running = true) ∧
    (∀ st ∈ [TimeState.locking, .locked], following (clocked st { running := true }) = true) ∧
    (∀ st ∈ [TimeState.freeRun, .holdover, .grandmaster], following (clocked st { running := true }) = false) ∧
    (clocked .grandmaster { running := true }).clock.state = .grandmaster ∧
    (∀ n ∈ [14, 15], let s := clocked .locking { running := true, good := n, gm := 7 }
      s.clock.state = .locking ∧ (7 : BitVec 64) = s.as_.gm ∧ s.as_.good = n) ∧
    ((100 : BitVec 64).toInt.natAbs ≤ 100 ∧ 100 < (-101 : BitVec 64).toInt.natAbs) ∧
    (cfg host 0x3410 7 ≠ 1 ∧ cfg (setCfg 0x3410 7 [1] host) 0x3410 7 = 1) ∧
    (∀ st ∈ [TimeState.freeRun, .locking, .grandmaster], let s := setCfg 0x3410 2 [1] (clocked st { running := true })
     s.boot.state = .ready ∧ maySelect s true 7 0 = true ∧ maySelect s false 7 1 = false ∧ maySlave s 0 = true ∧ maySlave s 1 = false ∧
       isMasterPort s 0 = true ∧ asPort s 0 = true ∧ cfg s 0x3410 1 ≠ 2) ∧
    (let s := setCfg 0x3410 6 [1] (setCfg 0x3410 1 [2] (setCfg 0x3410 2 [1] (clocked .freeRun { running := true })))
     asRole s 0 = 1 ∧ maySelect s true 7 0 = false ∧ maySelect s false 7 0 = true ∧ maySlave s 0 = true ∧ isMasterPort s 0 = false) ∧
    (let heard := fun (p : Nat) => setCfg 0x3410 2 [1] (clocked .locked { running := true, heard := [(0, [p, 248, 0xfe, 0x436a, 128, 7])] })
     bestHeard (heard 1) = some (0, [1, 248, 0xfe, 0x436a, 128, 7]) ∧ maySelect (heard 1) false 7 0 = true ∧ maySelect (heard 1) true 7 0 = false ∧
       maySelect (heard 255) false 7 0 = false ∧ maySelect (heard 255) true 7 0 = true ∧ asPort (heard 1) 0 = true ∧ cfg (heard 1) 0x3410 1 ≠ 2) ∧
    maySlave (setCfg 0x3410 2 [3] (clocked .locked { running := true, slave := some 0 })) 1 = false := by
  unfold HostMay HostReady; decide +kernel

def owned (o : Option PpsOwner) : State := { host with pps := { owner := o } }
/-- Timer 7 has PERIOD 1 us and the DEST; it runs or not. -/
def timing (dest : Nat) (on : Bool) : State := timerSet 7 ⟨on, 0⟩ (setCfg 0x342f 3 [BitVec.ofNat 8 dest] (setCfg 0x342f 2 (leBytes 4 1) host))
def hostLaunch : Launch := { stamp := 1000, body := .host [] }
/-- Port D with its state; the session is on port A. -/
def portD (p : T1Port) : State := { host with t1 := [(0, { link := 2 }), (3, p)] }
/-- TIMED_FRAME for the stamp. -/
def timedBytes (st : Nat) : Bytes := leBytes 4 st ++ zeros 64
/-- A frame of class 3 of 64 bytes: it holds the wire for 672 tenths of a ns. -/
def frame64 : TxFrame := ⟨3, .t1 3 (zeros 60), 64⟩

theorem test_hyp_pins : (owned (some .enable)).pps.owner = some .enable ∧ (owned none).pps.owner ≠ some .enable ∧
    (cfg (setCfg 0x3420 3 [1] host) 0x3420 3 = 1 ∧ (setCfg 0x3420 3 [1] host).boot.state = .ready ∧ 0 + 12 < 2 ^ 64) ∧ HostMay 0 9 (owned none) ∧ (∀ i < 8, (owned none).pps.owner ≠ some (.timer i)) ∧
    (HostMay 0 9 (timing 0 false) ∧ (timerOf (timing 0 false) 7).running = false ∧ timerCfg (timing 0 false) 7 3 ≠ 2) ∧
    (timerCfg (timing 2 false) 7 3 = 2 ∧ (timing 2 false).pps.owner = none ∧ (timerOf (timing 2 false) 7).running = false) ∧
    (timerOf (timing 0 true) 7).running = true ∧ (timing 0 true).boot.state = .ready ∧ timerCfg (timing 0 true) 7 3 = 0 ∧
    eventWaiters (timing 0 true) none (timerCfg (timing 0 true) 7 4) = [] := by
  unfold HostMay HostReady; decide +kernel

theorem test_hyp_transmit : (t1Of (portD { link := 2 }) 3).waiting = [] ∧ mayStart 0 [] frame64.len = true ∧
    (∀ p ∈ [(72, false), (73, true)], mayStart (now (portD { link := 2 })) (t1Of (portD { link := 2, launch := [{ hostLaunch with stamp := p.1 }] }) 3).launch
      frame64.len = p.2) ∧
    (t1Of (portD { link := 2, waiting := [frame64] }) 3).waiting ≠ [] := by decide +kernel

theorem test_hyp_t1 : (HostMay 0 1 (portD { running := false, link := 0 }) ∧ (t1Of (portD { running := false, link := 0 }) 3).running = false ∧
      (t1Of (portD { running := false, link := 0 }) 3).retired = false ∧ groupsOn (portD { running := false, link := 0 }) 3 = []) ∧
    (let s := setCfg 0x3433 7 [1] (portD { link := 2, launch := [hostLaunch] })
     HostMay 0 1 s ∧ (t1Of s 3).running = true ∧ (sess s 0).port.val ≠ 3 ∧ cfg s 0x3433 7 ≠ 0 ∧ t1Up s 3 = true ∧ (t1Of s 3).launch.length < 16 ∧
       t1Up (portD { running := false, link := 0 }) 3 = false ∧
       (t1Of (portD { link := 2, launch := List.replicate 16 hostLaunch }) 3).launch.length = 16) ∧
    (fieldAt (timedBytes 1000) 4 4 = 0 ∧ (timedBytes 1000).length = 68 ∧ extendStamp (now host) (BitVec.ofNat 32 (fieldAt (timedBytes 1000) 0 4)) = 1000 ∧
      extendStamp (now host) 100000000 ≤ now host + 100000000 ∧ now host + 100000000 < extendStamp (now host) 100000001) ∧
    (let s := portD { link := 1 }
     (t1Of s 3).running = true ∧ (t1Of s 3).retired = false ∧ (t1Of s 3).link = 1 ∧ works s 19 = true) ∧
    (let s := portD { link := 2, launch := [hostLaunch] }
     (t1Of s 3).launch = hostLaunch :: [] ∧ lateness s hostLaunch 104 = 104 ∧ lateness s hostLaunch 105 = 105 ∧
       105 ≤ 10 * cfg (setCfg 0x3433 6 (leBytes 4 11) s) 0x3433 6 ∧ 10 * cfg (setCfg 0x3433 6 (leBytes 4 0) s) 0x3433 6 < 105) := by
  unfold HostMay HostReady; decide +kernel

/-- A broadcast frame of the type with the payload. -/
def ether (ty : Nat) (p : Bytes) : Bytes := List.replicate 6 0xff ++ [2, 0, 0, 0, 0, 1] ++ (leBytes 2 ty).reverse ++ p ++ zeros 46
def addressed : State := setCfg 0x3433 4 (leBytes 4 0x0a000001) (portD { link := 2 })
def arp : Bytes := [0, 1, 8, 0, 6, 4, 0, 1] ++ zeros 16 ++ [10, 0, 0, 1]
/-- IPv4 and UDP to port 47,100 with no bytes. -/
def udp : Bytes := [0x45, 0, 0, 28, 0, 0, 0, 0, 64, 17, 0, 0, 10, 0, 0, 2, 10, 0, 0, 1, 0xb7, 0xfc, 0xb7, 0xfc, 0, 8, 0, 0]

theorem test_hyp_frames : t1Up addressed 3 = true ∧ spoilt 0x33 addressed = false ∧
    (let s : State := { addressed with island := { addressed.island with spoil := [0x33] } }; t1Up s 3 = true ∧ spoilt 0x33 s = true) ∧
    t1Up (portD { link := 1 }) 3 = false ∧ frameUse addressed 3 (zeros 59) = .discard ∧
    frameUse addressed 3 (ether 0x88f7 []) = .time (zeros 46) ∧ frameUse addressed 3 (ether 0x0806 arp) = .reply ∧
    frameUse addressed 3 (ether (cfg addressed 0x5400 5) []) = .drive (zeros 46) ∧
    frameUse addressed 3 (ether 0x0800 udp) = .ixide ([2, 0, 0, 0, 0, 1] ++ zeros 10 ++ [0xff, 0xff, 10, 0, 0, 2, 0xfc, 0xb7]) [] := by decide +kernel

/-- Fabric port 2 with its state. -/
def fabric2 (f : FabricPort) : State := fabmod 2 (fun _ => f) host
/-- A PFC frame that pauses priority `n`. -/
def pfc (n : Nat) : Bytes := zeros 12 ++ [0x88, 0x08, 1, 1] ++ (leBytes 2 (2 ^ n)).reverse ++ List.replicate 16 0xff
/-- A descriptor of channel 543 that copies `n` bytes from own Cistern or SRAM of tile 0 to cluster 1, and a fence of it. -/
def siphonDesc (mode : BitVec 8) : Bytes := leBytes 8 (tileBase 0) ++ leBytes 8 (clusterBase 1) ++ leBytes 4 64 ++ [0, mode, 0, 0] ++ zeros 8
def copying1 (p : Posted) : State := chanmod 543 (fun c => { c with posted := [p], fencing := [1025] }) host

theorem test_hyp_fabric : (HostMay 0 1 (fabric2 {}) ∧ (fabOf (fabric2 {}) 2).running = false) ∧
    (∀ st ∈ [1, 2, 3, 4, 5], HostMay 0 1 (fabric2 { running := true, state := st }) ∧ (fabOf (fabric2 { running := true, state := st }) 2).running = true ∧
      (fabOf (fabric2 { running := true, state := st }) 2).state = st ∧ copiesThrough (fabric2 { running := true, state := st }) 2 = []) ∧
    (domainOn (fabric2 { running := true, state := 1 }) 18 = true ∧ (fabOf (fabric2 { running := true, state := 1 }) 2).lanes = 0 ∧
      (fabOf (fabric2 { running := true, state := 1, lanes := 1 }) 2).lanes ≠ 0 ∧ goodHalf 1 = some 0xf0 ∧ goodHalf 0x11 = none) ∧
    (∀ st ∈ [2, 3], fabricUp (fabric2 { running := true, state := st }) 2 = true ∧ spoilt 0x42 (fabric2 { running := true, state := st }) = false ∧
      (fabOf (fabric2 { running := true, state := st }) 2).paused ≤ now host ∧ (fabOf (fabric2 { running := true, state := st }) 2).held = []) ∧
    (portReaches (fabric2 { running := true, state := 2 }) 2)[0]? = some ((position host + 3) % 4) ∧
    (let n := cfg (fabric2 { running := true, state := 2 }) 0x3452 5
     (pfc n).length ≤ 9216 ∧ pfcTime (pfc n) n = some 0xffff ∧ pfcTime (pfc (n + 1)) n = none) ∧
    (let s := setCfg 0x3452 3 (leBytes 4 0x0a000001) (fabric2 { running := true, state := 2 })
     fabricUp s 2 = true ∧ fabricAsks s 2 (ether 0x0806 arp) = true ∧ fabricAsks s 2 (pfc 0) = false ∧
       pfcTime (ether 0x0806 arp) (cfg s 0x3452 5) = none ∧ (ether 0x0806 arp).length ≤ 9216) := by
  unfold HostMay HostReady; decide +kernel

/-- A copy of 64 bytes from own Cistern to cluster 0, posted by tile 0 for job0. -/
def fromCistern : Posted := { desc := leBytes 8 0 ++ leBytes 8 (clusterBase 0) ++ leBytes 4 64 ++ zeros 12, tile := 0, job := some 0x10 }
/-- Channel 0 has noted its 16 targets. -/
def sixteen (p : Posted) : State := chanmod 0 (fun c => { c with posted := [p], targets := (List.range 16).map (fun i => 1030 + i) }) host
/-- A task of job0 with a certified CIS_IN of `n` bytes a slot has posted a copy out of Cistern on channel 0. -/
def metered (n : Nat) : State := chanmod 0 (fun c => { c with posted := [fromCistern] }) (running { job0 with
  parts := [0], prog := { cert := { sections := [⟨0, 0, 1, 1, 0, n, 0, [0, 0, 0, 0], [0, 0, 0, 0], 0⟩] } } })

theorem test_hyp_siphonHeld : (let p : Posted := { desc := siphonDesc 0, tile := 0, job := none }
     oldestFirst (sixteen p) 0 p = some 1030 ∧ oldestFirst (copying1 p) 543 p = none ∧ (meterHead 543 p (copying1 p)).1 = true) ∧
    isFence fromCistern = false ∧ oldestFirst (metered 63) 0 fromCistern = none ∧ (meterHead 0 fromCistern (metered 63)).1 = false ∧
    (meterHead 0 fromCistern (metered 64)).1 = true := by decide +kernel

theorem test_hyp_siphon : (let p : Posted := { desc := siphonDesc 0, tile := 0, job := none }
     let s := copying1 p
     let d := parseSiphon p.desc
     works s 20 = true ∧ p.dead = none ∧ (chanOf s 543).posted = p :: [] ∧ fenceWaiters s 543 = [] ∧ isFence p = false ∧ d.kind = 0 ∧ d.srcFixed = false ∧ d.dstFixed = false ∧
       d.eventOn = false ∧ placeOf s d.src d.count = .tile (tileBase 0) ∧ placeOf s d.dst d.count = .cluster 1 0 ∧ inReplica s 1 0 d.count = false) ∧
    (let p : Posted := { desc := siphonDesc 0x10, tile := 0, job := none }
     let s := copying1 p
     let d := parseSiphon p.desc
     works s 20 = true ∧ s.sluice.dying = [] ∧ (chanOf s 543).posted = p :: [] ∧ fenceWaiters s 543 = [] ∧ isFence p = true ∧ d.eventOn = false ∧ targetOf (placeOf s d.dst 1) = 1025 ∧
       targetOf (placeOf s (BitVec.ofNat 48 (clusterBase 1)).toNat 1) = 1025 ∧ 1025 ∈ (chanOf s 543).fencing) := by decide +kernel

/-! ## Power, safety and boot -/

/-- Domain m is off and not enabled. -/
def dark (m : Nat) : State := setCfg 0x3020 2 (leBytes 4 (0x7fffff - 2 ^ m)) { host with power := { host.power with on := BitVec.ofNat 32 (0x7fffff - 2 ^ m) } }
def rising22 : State := { host with power := { host.power with on := 0x3fffff, rising := 0x400000 } }
/-- Domain m is on and no longer enabled. -/
def disabledOn (m : Nat) : State := setCfg 0x3020 2 (leBytes 4 (0x7fffff - 2 ^ m)) host
/-- The domains of R411 are held off. -/
def held : State := { host with power := { host.power with held := true } }
def coolIs (ok : Bool) (st : DevState) (on : Bool) : State := { host with
  pins := { host.pins with coolOk := ok }, boot := { host.boot with state := st }, power := { host.power with powered := on } }
/-- The host's state, READY. -/
def up : State := coolIs true .ready true

theorem test_hyp_powerDomains : HostMay 0 10 (dark 22) ∧
    (let v : BitVec 32 := 0x7fffff
     v.toNat < 2 ^ 24 ∧ v &&& fixedDomains = fixedDomains ∧ ¬((dark 22).boot.lifecycle = 2 ∧ v.getLsbD 23 = true) ∧
       v &&& ~~~((dark 22).power.on ||| (dark 22).power.rising) ≠ 0 ∧
       ledgerHolds (dark 22) (capsNow (dark 22)) (allowanceSum ((dark 22).power.on ||| (dark 22).power.rising ||| 0x400000)) = true) ∧
    ((dark 22).power.held = false ∧ held.power.held = true ∧ HostMay 0 10 held) ∧
    (60 ≤ (220 : Nat) ∧ (capsNow host).1 ≤ 280 ∧ 60 ≤ (capsNow host).1 ∧ (capsNow host).1 ≤ 220 ∧ HostMay 0 10 host ∧
      uncore host + 1000 ≤ 970 * 280 ∧ ledgerHolds host ((capsNow host).1, 280) (uncoreLedger host) = true) ∧
    rising22.power.rising.getLsbD 22 = true ∧ weirActs host = true ∧ weirActs (coldDomain 20) = false ∧
    ({ host with power := { host.power with rising := 8 } } : State).power.rising.getLsbD 3 = true ∧ host.power.rising.getLsbD 22 = false ∧
    ((enabled host).getLsbD 0 = true ∧ mayOff host 10 = false ∧ mayOff host 14 = false) ∧
    (∀ m ∈ [22, 3, 8], (enabled (disabledOn m)).getLsbD m = false ∧ mayOff (disabledOn m) m = true ∧ domainOn (disabledOn m) m = true) ∧
    regionOfBit 22 = none ∧ regionOfBit 3 = some 3 ∧ regionOfBit 8 = some 7 ∧ regionOfBit 4 = none := by
  unfold HostMay HostReady; decide +kernel

/-- A Weir that read `n` uW in each of the last 1,000 samples. -/
def drawing (n : Nat) : State := { host with power := { host.power with samples := List.replicate 1000 n } }
/-- job0 at job time `t`, with the heavy phase [n, n + 1] in its certificate. -/
def phased (n t : Nat) : Job :=
  { job0 with jobTime := t, ranFrom := none, prog := { job0.prog with cert := { job0.prog.cert with phases := [⟨0, 1, 0, n, 1, 0⟩] } } }
/-- The module stands by with an alarm at w ns. -/
def asleep (w : Nat) : State := setCfg 0x3001 2 (leBytes 8 w) { host with power := { host.power with standby := .standby } }

theorem test_hyp_powerControl : (HostMay 0 10 host ∧ standbyOk host = true) ∧
    (host.power.powered = true ∧ ready host = true ∧ works host 20 = true ∧ host.power.bPower = 0 ∧ powerRate (drawing 600000) ≠ 0) ∧
    (∀ p ∈ [(0, 0), (5 * jobClock host (phased 0 0), 0)], jobOf (running (phased p.1 p.2)) 0x10 = some (phased p.1 p.2) ∧
      (phased p.1 p.2).phase = .running ∧ (phased p.1 p.2).prog.cert.phases.length = 1 ∧
      p.1 ≤ jobTimeNow (running (phased p.1 p.2)) (phased p.1 p.2) + 5 * jobClock (running (phased p.1 p.2)) (phased p.1 p.2) ∧
      jobTimeNow (running (phased p.1 p.2)) (phased p.1 p.2) < p.1 + 1 ∧ ((0x10 : BitVec 32), 0) ∉ (running (phased p.1 p.2)).power.prearm) ∧
    (jobTimeNow (running (phased 100000 0)) (phased 100000 0) + 5 * jobClock (running (phased 100000 0)) (phased 100000 0) < 100000) ∧
    (0 + 1 ≤ jobTimeNow (running (phased 0 1)) (phased 0 1)) ∧
    (∀ i < 11, fpRat (f32 (nth 0 [] i)) < 110) ∧
    ((coolIs false .ready true).pins.coolOk = false ∧ (coolIs true .ready false).power.powered = false) ∧
    ((coolIs true .boot true).pins.coolOk = true ∧ (coolIs true .boot true).power.powered = true ∧ ready (coolIs true .boot true) = false) ∧
    (up.pins.coolOk = true ∧ up.power.powered = true ∧ ready up = true) ∧
    (cfg (asleep 5000) 0x3001 2 = 5000 ∧ (asleep 5000).power.standby = .standby) := by
  unfold HostMay HostReady; decide +kernel

/-- The island in the state `i`, TRIGGERS at `v`. -/
def safeIs (i : Island) (v : Nat) : State := setCfg 0x4000 9 (leBytes 4 v) { up with island := i }
/-- SILENT_MS of the host watchdog is 1 or 0. -/
def watched (w : Nat) : State := setCfg 0x4000 0x0a (leBytes 2 w) (safeIs {} 0x160)

theorem test_hyp_safeState : (up.power.powered = true ∧ islandRuns up = true ∧ ready up = true) ∧
    (let s := safeIs { state := .safe, first := 5, entryAt := now up } 0
     s.island.state ≠ .normal ∧ s.island.entryAt = now s ∧ 2 < s.island.first.toNat ∧ s.island.first.toNat ≤ 7) ∧ (safeIs { state := .normal } 0x160).island.state = .normal ∧
    (∀ c ∈ [5, 6, 8], (cfg (safeIs {} 0x160) 0x4000 9).testBit c = true ∧ (cfg (safeIs {} 0) 0x4000 9).testBit c = false) ∧ 7 ∉ [5, 6, 8] ∧
    (cfg (watched 1) 0x4000 0x0a = 1 ∧ cfg (watched 0) 0x4000 0x0a = 0 ∧ (cfg (watched 1) 0x4000 9).testBit 8 = true) ∧
    (monitored up 0x20 = true ∧ (safeIs { state := .safe } 0).island.state ≠ .normal) ∧
    (let s := safeIs { state := .safe, seq := 3 } 0
     HostMay 0 5 s ∧ clearOk { s with pins := { s.pins with coolQ := true } } 3 = true ∧ clearOk s 4 = false) ∧
    ((0x120 : BitVec 32) &&& ~~~(0x160 : BitVec 32) = 0 ∧ BitVec.ofNat 32 (cfg (safeIs {} 0x120) 0x4000 9) &&& ~~~(0x120 : BitVec 32) = 0 ∧
      HostMay 0 5 (safeIs { state := .normal } 0x160) ∧
      BitVec.ofNat 32 (cfg (safeIs { state := .normal } 0x160) 0x4000 9) &&& ~~~(0x120 : BitVec 32) ≠ 0) ∧
    ((safeIs { state := .safe, unsent := false, causes := 2 } 0).island.causes.getLsbD 10 = false) := by
  unfold HostMay HostReady; decide +kernel

/-- The field test is on; `i` is the island. -/
def testing (i : Island) : State := setCfg 0x4020 1 [1] { up with island := i }

theorem test_hyp_failuresAndTests : (∀ k ∈ [1, 2, 3, 8], unitOk (unitOf k 0) = true ∧ unitKind (unitOf k 0) = k) ∧ unitOk (unitOf 1 511) = true ∧
    ready up = true ∧ permanentByCount [1000001, 5, 0] = false ∧ permanentByCount [7] = false ∧
    (let s : State := { up with island := { retests := [(unitOf 2 8191, none)] } }
     s.island.retests.find? (fun r => r.1 = unitOf 2 8191 && retestFree s r) = some (unitOf 2 8191, none)) ∧
    (∀ p ∈ [0, 1, 17], notePass (testing { visit := 511, part := p }) = testing { visit := 511, part := p } ∧
      testAllowed (testing { visit := 511, part := p }) 511 p = true) ∧ testAllowed (testing {}) 511 0 = false ∧
    ready (testing {}) = true ∧ retestOf (testing { visit := 511 }) 511 = none ∧
    (checkerFor (testing { visit := 511 }) 511 none).isSome = true ∧
    (let s := testing { visit := 3, suspects := [⟨3, 4, 1, 0⟩] }
     retestOf s 3 = some ⟨3, 4, 1, 0⟩ ∧ testAllowed (notePass s) 3 0 = true ∧ checkerFor s 3 (some 4) = some 5 ∧ testOf s 3 = none) ∧
    (let s := testing { suspects := [⟨63, 62, 1, 0⟩] }
     retestOf s 63 = some ⟨63, 62, 1, 0⟩ ∧ checkerFor s 63 (some 62) = none ∧ testOf s 63 = none) ∧
    (∀ p ∈ [0, 1, 17], testOf (testing { tests := [(511, ⟨some 510, p, 1, false⟩)] }) 511 = some ⟨some 510, p, 1, false⟩) := by decide +kernel

/-- The boot block `b` in the host's state. -/
def booted (b : Boot) : State := { host with boot := b }

theorem test_hyp_resetAndPowerUp : (HostMay 0 6 up ∧ isOn up = true ∧ isOn (booted { state := .off }) = false) ∧
    (∀ e ∈ up.island.recent, e.2 + 10000000 ≤ now up) ∧ (booted { state := .off }).power.failed = false ∧
    (let s := { booted { state := .off } with power := { host.power with failed := true } }; isOn s = false ∧ s.power.failed = true ∧ s.power.retry = false) ∧
    ((∀ b : Bool, ({ host with pins := { host.pins with pwrOk := b } } : State).pins.pwrOk = b)) ∧
    (let s := { booted { state := .off } with power := { host.power with retry := true } }
     isOn s = false ∧ s.power.retry = true) ∧
    (up.boot.state ≠ .boot ∧ up.boot.state ≠ .held) ∧
    ((∀ st ∈ [DevState.boot, .held], bootReason (booted { state := st }) = 0 ∧ (booted { state := st }).boot.pendingLc = none)) ∧
    bootReason (booted { state := .boot, areaValid := false }) = 1 := by
  refine ⟨?_, ?_, ?_, ?_, fun _ => rfl, ?_⟩
  · unfold HostMay HostReady; decide +kernel
  all_goals decide +kernel

/-- A request to go from 1 to 2, which carries no signature (R456). -/
def toField : Bytes := [2] ++ zeros 7 ++ leBytes 8 (({} : Identity).serial.toNat) ++ zeros 164

theorem test_hyp_firmware : HostMay 0 7 host ∧ updateForeign 0 host = false ∧ host.boot.update.status ≠ 1 ∧ host.boot.update.status ≠ 2 ∧
    (let s := booted { area := .bytes [], update := { owner := some (0, 0), status := 1 } }
     HostMay 0 7 s ∧ updateForeign 0 s = false ∧ s.boot.update.status = 1 ∧ s.boot.area = .bytes [] ∧ (zeros 5).length = 5 ∧
       (zeros 1028).length ≤ 1028 ∧ fieldAt (zeros 5) 0 4 = s.boot.update.written ∧ s.boot.update.written + 1024 ≤ 0x4000000) ∧
    (let s := booted { running := { svn := 5 }, minSvn := 4 }
     HostMay 0 7 s ∧ (5 : BitVec 16) = s.boot.running.svn ∧ s.boot.minSvn < 5 ∧ (4 : BitVec 16).toNat ≤ s.boot.minSvn ∧ (6 : BitVec 16) ≠ s.boot.running.svn ∧
       (3 : BitVec 8) ≠ s.boot.running.keySlot ∧ s.boot.running.keySlot.toNat ≤ 3) ∧
    (works host 21 = true ∧ works (coldDomain 21) 21 = false) ∧
    (let s := booted { lifecycle := 1 }
     HostMay 0 7 s ∧ toField.length = 180 ∧ fieldAt toField 1 7 = 0 ∧ s.boot.update.status ≠ 1 ∧ s.boot.update.status ≠ 2 ∧ changeOk s toField = true) := by
  unfold HostMay HostReady; decide +kernel

theorem test_hyp_identity : (HostMay 0 0 host ∧ (zeros 32).length = 32 ∧ host.boot.quoteState ≠ 1 ∧ host.boot.lifecycle ≠ 0 ∧ host.boot.lifecycle ≠ 3 ∧
      ready host = true) ∧ (let s : State := { booted { update := { status := 2 } } with power := { host.power with on := 0x5fffff, rising := 0x200000 } }
     s.power.rising.getLsbD 21 = true ∧ domainOn s 20 = true ∧ s.boot.update.status = 2 ∧ s.boot.state = .ready) ∧
    (booted { quoteState := 1 }).boot.quoteState = 1 ∧ works (booted { quoteState := 1 }) 21 = true ∧
    (∀ l : Fin 4, let s : State := { booted { lifecycle := BitVec.ofNat 8 l.val } with power := { host.power with on := 0xffffff } }
     works s 23 = true ∧ works s 21 = true) ∧ works host 23 = false ∧
    (debugState (booted { lifecycle := 1 }) = 1 ∧ (booted { lifecycle := 1 }).boot.challenge = none ∧
      (booted { lifecycle := 1, challenge := some [] }).boot.challenge = some []) ∧
    debugState host = 0 ∧ (debugState (booted { lifecycle := 3, debugOpen := true }) = 2 ∧ (booted { lifecycle := 3 }).boot.lifecycle ≠ 0) := by
  unfold HostMay HostReady; decide +kernel

end Sys2Proof.Tests
end

section
/-!
PROOF. Writes of a queue's configuration (R41): a dictionary write whose effect leaves the session's books alone completes with
that effect; the objects :01 to :04 of a queue, and the checks of R474 that a write of one passes.
-/

namespace Sys2Proof.Machine

open Claims

section

variable (s : State)

/-! ## A write whose effect leaves the session's books alone -/

/-- At `s`, the effect neither reads nor writes what taking a request changes: sessions, counters and HOST_WD's last word. -/
def KeepsBooks (f : State → State) (s : State) : Prop :=
  ∀ (ss : Tbl Session) (cs : Tbl (BitVec 64)) (h : Nat),
    f { s with sessions := ss, counters := cs, island := { s.island with hostHeard := h } } =
      { f s with sessions := ss, counters := cs, island := { (f s).island with hostHeard := h } }

namespace KeepsBooks

variable {f : State → State} {s : State}

theorem sessions_eq (hf : KeepsBooks f s) : (f s).sessions = s.sessions :=
  (congrArg State.sessions (hf s.sessions s.counters s.island.hostHeard) :)

theorem counters_eq (hf : KeepsBooks f s) : (f s).counters = s.counters :=
  (congrArg State.counters (hf s.sessions s.counters s.island.hostHeard) :)

theorem sess_eq (hf : KeepsBooks f s) (j : Nat) : sess (f s) j = sess s j := by
  unfold sess; rw [hf.sessions_eq]

theorem taken_eq (hf : KeepsBooks f s) (k : Nat) : f (taken k s) = { f s with
    sessions := (taken k s).sessions, counters := (taken k s).counters,
    island := { (f s).island with hostHeard := (taken k s).island.hostHeard } } := by
  rw [Machine.taken_eq]; exact hf _ _ _

theorem sess_taken_eq (hf : KeepsBooks f s) (k j : Nat) : sess (f (taken k s)) j = sess (taken k s) j := by
  rw [hf.taken_eq]; rfl

theorem counters_taken_eq (hf : KeepsBooks f s) (k : Nat) : (f (taken k s)).counters = (count 0x741e 1 1 (f s)).counters := by
  rw [hf.taken_eq, Machine.taken_eq]
  simp only [count, counter, hf.counters_eq]

end KeepsBooks

/-- A write whose effect keeps the books is answered, with that effect on the state before the request (R468, R470). -/
theorem hostWrite_did (k i j : Nat) (d r : Bytes) (f : State → State) (hf : KeepsBooks f s) (h : HostReady k s)
    (hw : writeValue k i j d (taken k s) = .done r (f (taken k s))) :
    Did k { data := r } (f s) s (hostWrite k i j d s) := by
  have hsess : sess (f (taken k s)) k = _ := (hf.sess_taken_eq k k).trans (sess_taken s k)
  have hcount : ∀ n, tblGet 0 (f (taken k s)).counters n =
      if n = objKey 0x741e 1 then counter (f s) 0x741e 1 + 1 else tblGet 0 (f s).counters n := fun n => by
    rw [hf.counters_taken_eq]; exact tblGet_set ..
  rw [hostWrite_done s k i j d r (f (taken k s)) h hw (by rw [hsess]; exact h.1) (by rw [hsess])]
  apply did_answer s k _ rfl (f s) (f (taken k s))
  · rw [hf.taken_eq]
  · rw [hsess, hf.sess_eq]
  · rw [hf.sess_eq]; exact ⟨rfl, rfl⟩
  · intro n hn
    rw [hf.sess_taken_eq, sess_taken_other s k n hn, hf.sess_eq]
  · exact (hcount _).trans (if_pos rfl)
  · intro n hn
    exact (hcount n).trans (if_neg (by simpa [objKey] using hn))

/-! ## A write to an object whose owner runs -/

/-- A write to a RWS object of a function that runs is refused RUNNING (R11, R474). -/
theorem writeValue_running (k i j : Nat) (d : Bytes) (ty : OTy) (h0 : writeTarget s k i j d = .ok (ty, .rws))
    (h1 : typeOk s (famBase i).1 j ty d = true) (h2 : reservedOk (famBase i).1 j d = true)
    (h3 : ownerRuns s (famBase i).1 (famBase i).2 j = true) : writeValue k i j d s = .abort abRunning := by
  unfold writeValue
  simp [h0, h1, h2, h3]

/-! ## The objects :01 to :04 of a queue -/

/-- They are writable while STOPPED, of unsigned types (R483). -/
theorem objDef_queueConfig (sub : Fin 4) (ty : OTy) (acc : OAcc) (df : Nat)
    (h : objDef 0x6000 (sub.val + 1) = some (ty, acc, df)) : acc = .rws ∧ ty ∈ [.u8, .u16, .u64] := by
  have hall : ∀ n : Fin 4, ∀ p ∈ objDef 0x6000 (n.val + 1), p.2.1 = OAcc.rws ∧ p.1 ∈ [OTy.u8, .u16, .u64] := by decide
  exact hall sub _ h

theorem typeOk_unsigned (b j : Nat) (ty : OTy) (d : Bytes) (hty : ty ∈ [OTy.u8, .u16, .u64]) (hd : d.length = otyLen ty) :
    typeOk s b j ty d = true := by
  simp only [List.mem_cons, List.not_mem_nil, or_false] at hty
  rcases hty with rfl | rfl | rfl <;> exact decide_eq_true hd

theorem reservedOk_queueConfig (sub : Fin 4) (d : Bytes) : reservedOk 0x6000 (sub.val + 1) d = true := by
  revert sub
  simp [Fin.forall_fin_succ, reservedOk, valueMask, zeroFields, recordHeader, sel, tblGet]

/-- Their ranges are constants of the object, the same in every state (R40). -/
theorem rangeOk_queueConfig (t : State) (n v : Nat) (sub : Fin 4) :
    rangeOk t 0x6000 n (sub.val + 1) v = rangeOk s 0x6000 n (sub.val + 1) v := by
  revert sub
  simp [Fin.forall_fin_succ, rangeOk, rangeHigh, sel, tblGet]

/-- Right 1 writes them (R466). -/
theorem writeRight_queueConfig (k : Nat) (q : Fin 4096) (sub : Fin 4) (d : Bytes) :
    writeRight k (0x6000 + q.val) (sub.val + 1) d = 1 := by
  have hq := q.isLt
  have hs := sub.isLt
  unfold writeRight
  simp only [famBase_queue]
  repeat rw [if_neg (by omega)]

theorem notOwner_queueConfig (k : Nat) (q : Fin 4096) (sub : Fin 4) : notOwner s k (0x6000 + q.val) (sub.val + 1) = false := by
  have hlow : decide (8 ≤ sub.val + 1) = false := decide_eq_false (by omega)
  unfold notOwner
  rw [hlow]; simp

theorem ownerRuns_queue (n j : Nat) : ownerRuns s 0x6000 n j = ((qget s n).state != .stopped) := rfl

theorem writeTarget_queueConfig (k : Nat) (q : Fin 4096) (sub : Fin 4) (d : Bytes) (ty : OTy) (df : Nat)
    (hb : s.boot.state ≠ .recovery) (hr : hasRight s k 1 = true)
    (ho : objDef (0x6000 + q.val) (sub.val + 1) = some (ty, .rws, df)) :
    writeTarget s k (0x6000 + q.val) (sub.val + 1) d = .ok (ty, .rws) :=
  writeTarget_ok s k _ _ d ty .rws df (reachable_ready s _ _ hb) (idxDefined_queue q) ho (by decide)
    (by rwa [writeRight_queueConfig]) (notOwner_queueConfig s k q sub)

theorem writeEffect_queueConfig (k : Nat) (q : Fin 4096) (sub : Fin 4) (d : Bytes) :
    writeEffect k (0x6000 + q.val) (sub.val + 1) d s = queueWrite q.val (sub.val + 1) d s := by
  have hs := sub.isLt
  unfold writeEffect
  simp only [famBase_queue]
  show (if sub.val + 1 = 5 then _ else if sub.val + 1 = 8 then _ else if sub.val + 1 = 9 then _ else _) = _
  rw [if_neg (by omega), if_neg (by omega), if_neg (by omega)]

/-- A write to one of them that its checks let through: RUNNING, or CONFLICT, or the new value and the next GENERATION (R41). -/
theorem writeValue_queueConfig (k : Nat) (q : Fin 4096) (sub : Fin 4) (d : Bytes) (ty : OTy) (acc : OAcc) (df : Nat)
    (hb : s.boot.state ≠ .recovery) (hr : hasRight s k 1 = true)
    (ho : objDef (0x6000 + q.val) (sub.val + 1) = some (ty, acc, df)) (hd : d.length = otyLen ty)
    (hv : rangeOk s 0x6000 q.val (sub.val + 1) (leNat d) = true) :
    writeValue k (0x6000 + q.val) (sub.val + 1) d s =
      if (qget s q.val).state = .stopped then
        if occupancy s q.val = 0 then .done [] (queueConfig q.val (sub.val + 1) d s) else .abort abConflict
      else .abort abRunning := by
  obtain ⟨rfl, hty⟩ := objDef_queueConfig sub ty acc df (by rwa [objDef_queue] at ho)
  have htarget := writeTarget_queueConfig s k q sub d ty df hb hr ho
  have htype := typeOk_unsigned s (famBase (0x6000 + q.val)).1 (sub.val + 1) ty d hty hd
  have hres : reservedOk (famBase (0x6000 + q.val)).1 (sub.val + 1) d = true := by
    rw [famBase_queue]; exact reservedOk_queueConfig sub d
  have howner : ownerRuns s (famBase (0x6000 + q.val)).1 (famBase (0x6000 + q.val)).2 (sub.val + 1) =
      ((qget s q.val).state != .stopped) := by rw [famBase_queue, ownerRuns_queue]
  split
  next hstop =>
    rw [writeValue_effect s k _ _ d ty .rws htarget htype hres (fun _ => by simp [howner, hstop])
      (fun _ => by rw [famBase_queue]; exact hv), writeEffect_queueConfig]
    rfl
  next hrun => exact writeValue_running s k _ _ d ty htarget htype hres (by simpa [howner] using hrun)

/-! ## The effect of a configuration write -/

theorem queueConfig_keepsBooks (n j : Nat) (d : Bytes) : KeepsBooks (queueConfig n j d) s := fun _ _ _ => rfl

theorem qget_queueConfig (n j : Nat) (d : Bytes) :
    qget (queueConfig n j d s) n = { qget s n with gen := (qget s n).gen + 1 } :=
  qget_qmod_same s n (fun x => { x with gen := x.gen + 1 })

/-- It accepts and ends no job, and places and takes no record (R41). -/
theorem occupancy_queueConfig (n j : Nat) (d : Bytes) : occupancy (queueConfig n j d s) n = occupancy s n := by
  unfold occupancy
  rw [qget_queueConfig]
  rfl

@[simp] theorem qget_taken (k n : Nat) : qget (taken k s) n = qget s n := by simp [qget]
@[simp] theorem occupancy_taken (k n : Nat) : occupancy (taken k s) n = occupancy s n := by simp [occupancy, queueJobs]

/-- The command is the dictionary write to the queue's object. -/
theorem exec_queueConfigWrite (k : Fin 64) (q : Fin 4096) (sub : Fin 4) (d : Bytes) :
    exec (.queueConfigWrite k q sub d) s = .next (hostWrite k.val (0x6000 + q.val) (sub.val + 1) d s) := rfl

end

/-- Settles O25: one equation says what such a write does in the state in which it executes; its three branches are the three
cases of R41. -/
theorem queueConfiguration : Obligations.QueueConfiguration := by
  intro s k q i sub data ty acc d hmay hdef hlen hrange
  obtain ⟨hready, hright⟩ := hmay
  have ⟨_, _, _, _, hboot⟩ := hready
  have hwrite := writeValue_queueConfig (taken k.val s) k.val q sub data ty acc d (by rwa [taken_boot])
    (by rwa [hasRight_taken]) hdef hlen (by rwa [rangeOk_queueConfig s])
  simp only [qget_taken, occupancy_taken] at hwrite
  have hrefused : ∀ c, c ≠ 0 → writeValue k.val i (sub.val + 1) data (taken k.val s) = .abort c →
      ∃ t, exec (.queueConfigWrite k q sub data) s = .next t ∧ RefusedWith k.val c s t := fun c hc hw =>
    ⟨_, exec_queueConfigWrite s k q sub data, by
      rw [hostWrite_abort s _ _ _ _ c hready hw]; exact refused_abort s k.val c hc⟩
  refine ⟨fun hstop hempty => ⟨queueConfig q.val (sub.val + 1) data s, ?_, rfl, qget_queueConfig .., ?_, ?_⟩, fun hrun => ?_,
    fun hstop hfull => ?_⟩
  · rw [if_pos hstop, if_pos hempty] at hwrite
    exact ⟨_, exec_queueConfigWrite s k q sub data,
      hostWrite_did s _ _ _ _ _ _ (queueConfig_keepsBooks s _ _ _) hready hwrite⟩
  · rw [occupancy_queueConfig, hempty]
  · rw [qget_queueConfig]; exact BitVec.toNat_add _ 1
  · rw [if_neg hrun] at hwrite
    exact hrefused abRunning (by decide) hwrite
  · rw [if_pos hstop, if_neg hfull] at hwrite
    exact hrefused abConflict (by decide) hwrite

end Sys2Proof.Machine
end

section
/-!
PROOF. The tile instruction word (R99): its fields joined again are the word, `decodeTile` undoes `encodeTile` and the other way
round, and byte `i` of a little-endian number is the number's digit `i` in base 256.
-/

namespace Sys2Proof

/-! ## The word and its fields -/

open BitVec in
/-- The fields of R99 leave no bit of the word out. -/
@[simp] theorem packTile_tileOpOf_unpackTile (w : BitVec 64) : packTile (tileOpOf w) (unpackTile w) = w := by
  simp (disch := decide) only [packTile, tileOpOf, unpackTile, extractLsb'_append_extractLsb'_eq_extractLsb']
  exact extractLsb'_eq_self

/-! ## Instructions and words -/

/-- The word of an instruction is the one word with its opcode and fields. -/
theorem encodeTile_eq_some_iff {i : Instr} {t : Fin 512} {w : BitVec 64} :
    encodeTile i = some (t, w) ↔ tileParts i = some (t, tileOpOf w, unpackTile w) := by
  constructor
  · intro h
    obtain ⟨⟨u, op, f⟩, hparts, hword⟩ := Option.map_eq_some_iff.mp h
    obtain ⟨rfl, rfl⟩ := Prod.mk.inj hword
    simpa using hparts
  · intro h
    simp [encodeTile, h]

theorem tileParts_of_decodeTile {i : Instr} {t : Fin 512} {w : BitVec 64} (h : decodeTile t w = some i) :
    tileParts i = some (t, tileOpOf w, unpackTile w) := by
  have hop : BitVec.ofNat 8 (tileOpOf w).toNat = tileOpOf w := by simp
  rw [← hop]
  unfold decodeTile at h
  generalize (tileOpOf w).toNat = n at h ⊢
  split at h <;> cases h <;> rfl

theorem decodeTile_packTile {i : Instr} {t : Fin 512} {op : BitVec 8} {f : TileFields}
    (h : tileParts i = some (t, op, f)) : decodeTile t (packTile op f) = some i := by
  simp only [decodeTile, tileOpOf_pack, unpack_pack]
  unfold tileParts at h
  split at h <;> cases h <;> rfl

/-- `decodeTile` inverts `tileParts`: both list each opcode of R100 once. -/
theorem decodeTile_eq_some_iff {i : Instr} {t : Fin 512} {w : BitVec 64} :
    decodeTile t w = some i ↔ tileParts i = some (t, tileOpOf w, unpackTile w) :=
  ⟨tileParts_of_decodeTile, fun h => by simpa using decodeTile_packTile h⟩

/-! ## The word in memory -/

theorem leNat_div_pow_mod (bs : Bytes) (i : Nat) : leNat bs / 256 ^ i % 256 = (nth 0 bs i).toNat := by
  induction bs generalizing i with
  | nil => simp [leNat, nth]
  | cons b bs ih =>
    have hb := b.isLt
    cases i with
    | zero => simp [leNat, nth]; omega
    | succ i =>
      have htail : leNat (b :: bs) / 256 = leNat bs := by simp [leNat]; omega
      rw [Nat.pow_succ', ← Nat.div_div_eq_div_mul, htail, ih]
      rfl

/-- OP is the last byte of the word (R99). -/
theorem nth_seven_eq_tileOpOf {w : BitVec 64} {bs : Bytes} (h : w.toNat = leNat bs) : nth 0 bs 7 = tileOpOf w := by
  apply BitVec.eq_of_toNat_eq
  rw [← leNat_div_pow_mod, ← h]
  simp [tileOpOf, Nat.shiftRight_eq_div_pow]

/-- Settles O6: encode and decode both say that the instruction's parts are the word's opcode and fields. -/
theorem tileCodingExact : Obligations.TileCodingExact := by
  intro i t w
  refine ⟨encodeTile_eq_some_iff.trans decodeTile_eq_some_iff.symm, fun h => ?_⟩
  exact ⟨tileOpOf w, unpackTile w, decodeTile_eq_some_iff.mp h, rfl, rfl, rfl, rfl, rfl, rfl, rfl, rfl, rfl, rfl, rfl,
    fun _ _ hbytes => nth_seven_eq_tileOpOf hbytes⟩

end Sys2Proof
end

section
/-!
PROOF. ZERO of a stream (R140): the bytes of a stream command and the dictionary write that carries it, the rows that a wipe of
block tiles leaves, and the command on a stream that its session's client owns.
-/

namespace Sys2Proof

/-! ## Fields of a byte string laid field by field (R4) -/

@[simp] theorem length_leBytes (n v : Nat) : (leBytes n v).length = n := by
  induction n generalizing v with
  | zero => rfl
  | succ n ih => simp [leBytes, ih]

theorem leNat_leBytes (n v : Nat) : leNat (leBytes n v) = v % 2 ^ (8 * n) := by
  induction n generalizing v with
  | zero => simp [leBytes, leNat, Nat.mod_one]
  | succ n ih => simp [leBytes, leNat, ih, Nat.mul_succ, Nat.pow_add, Nat.mul_comm _ 256, Nat.mod_mul]

theorem fieldAt_leBytes_append (n v : Nat) (bs : Bytes) : fieldAt (leBytes n v ++ bs) 0 n = v % 2 ^ (8 * n) := by
  simp [fieldAt, bytesAt, leNat_leBytes]

theorem fieldAt_leBytes (n v : Nat) : fieldAt (leBytes n v) 0 n = v % 2 ^ (8 * n) := by
  simpa using fieldAt_leBytes_append n v []

theorem fieldAt_append_of_le (as bs : Bytes) (o n : Nat) (h : as.length ≤ o) :
    fieldAt (as ++ bs) o n = fieldAt bs (o - as.length) n := by
  simp [fieldAt, bytesAt, List.drop_append, List.drop_eq_nil_of_le h]

/-! ## Lists cut into pieces -/

theorem chunksOf_replicate {α : Type} (n m : Nat) (a : α) (hn : 0 < n) :
    chunksOf n (List.replicate (n * m) a) = List.replicate m (List.replicate n a) := by
  have hcount : ceilDiv (n * m) n = m := by
    rw [ceilDiv, Nat.add_sub_assoc hn, Nat.mul_add_div hn, Nat.div_eq_of_lt (by omega), Nat.add_zero]
  apply List.ext_getElem
  · simp [chunksOf, hcount]
  · intro i hi _
    have him : i < m := by simpa [chunksOf, hcount] using hi
    have hroom : n ≤ n * m - n * i := by
      rw [← Nat.mul_sub]; exact Nat.le_mul_of_pos_right n (by omega)
    simp [chunksOf, hroom]

namespace Machine

open Claims

/-! ## Rows of a tile after a write -/

theorem entry_setEntry (r c r' c' : Nat) (v : BitVec 48) (tl : Tile) :
    entry (setEntry r c v tl) r' c' = if 64 * r' + c' = 64 * r + c then v else entry tl r' c' := tblGet_set ..

/-- Entries written from column `k` on, all within the row. -/
theorem entry_foldl_setEntry (r r' x k : Nat) (vs : List (BitVec 48)) (tl : Tile) (hx : x < 64) (hk : k + vs.length ≤ 64) :
    entry ((vs.zipIdx k).foldl (fun tl p => setEntry r p.2 p.1 tl) tl) r' x =
      if r' = r ∧ k ≤ x then (vs[x - k]?).getD (entry tl r' x) else entry tl r' x := by
  induction vs generalizing k tl with
  | nil => simp
  | cons v vs ih =>
    simp only [List.length_cons] at hk
    rw [List.zipIdx_cons, List.foldl_cons, ih (k + 1) _ (by omega), entry_setEntry]
    by_cases hr : r' = r
    · subst hr
      rcases Nat.lt_trichotomy x k with hlt | rfl | hgt
      · rw [if_neg (by omega), if_neg (by omega), if_neg (by omega)]
      · simp
      · have hsub : x - k = x - (k + 1) + 1 := by omega
        rw [if_pos ⟨rfl, by omega⟩, if_neg (by omega), if_pos ⟨rfl, by omega⟩, hsub, List.getElem?_cons_succ]
    · rw [if_neg (by omega), if_neg (by omega), if_neg (by omega)]

/-- A row written reads what was written, up to the columns given; no other row changes. -/
theorem entry_setRow (r r' x : Nat) (vs : List (BitVec 48)) (isInt : Bool) (tl : Tile) (hx : x < 64) :
    entry (setRow r vs isInt tl) r' x = if r' = r then (vs[x]?).getD (entry tl r' x) else entry tl r' x := by
  have hcut : vs.zipIdx.take 64 = (vs.take 64).zipIdx :=
    List.ext_getElem (by simp) fun _ _ _ => by simp
  show entry ((vs.zipIdx.take 64).foldl (fun tl p => setEntry r p.2 p.1 tl) tl) r' x = _
  rw [hcut, entry_foldl_setEntry r r' x 0 _ tl hx (by simp)]
  simp [hx]

/-! ## Block rows wiped -/

/-- The tile with the first `rows` block rows all zero. -/
def zeroRows (rows : Nat) (tl : Tile) : Tile :=
  (List.replicate rows (List.replicate 64 0)).zipIdx.foldl (fun tl r => setRow (112 + r.2) r.1 false tl) tl

theorem wipeBlock_eq_tmod (t rows : Nat) (s : State) : wipeBlock t rows s = tmod t (zeroRows rows) s := by
  unfold wipeBlock loadBlock zeroRows
  rw [chunksOf_replicate 64 rows 0 (by decide)]

/-- `n` rows of zeros written from block row `k` on. -/
theorem entry_foldl_setRow_zero (n k i x : Nat) (tl : Tile) (hx : x < 64) :
    entry (((List.replicate n (List.replicate 64 0)).zipIdx k).foldl (fun tl r => setRow (112 + r.2) r.1 false tl) tl)
      (112 + i) x = if k ≤ i ∧ i < k + n then 0 else entry tl (112 + i) x := by
  induction n generalizing k tl with
  | zero => simp
  | succ n ih =>
    rw [List.replicate_succ, List.zipIdx_cons, List.foldl_cons, ih (k + 1), entry_setRow _ _ _ _ _ _ hx]
    rcases Nat.lt_trichotomy i k with hlt | rfl | hgt
    · rw [if_neg (by omega), if_neg (by omega), if_neg (by omega)]
    · rw [if_neg (by omega), if_pos rfl, List.getElem?_replicate, if_pos hx, if_pos (by omega), Option.getD_some]
    · rw [if_neg (by omega : ¬ 112 + i = 112 + k)]
      exact if_congr (by omega) rfl rfl

theorem entry_zeroRows (rows i x : Nat) (tl : Tile) (hi : i < rows) (hx : x < 64) : entry (zeroRows rows tl) (112 + i) x = 0 := by
  unfold zeroRows
  rw [entry_foldl_setRow_zero _ _ _ _ _ hx, if_pos (by omega)]

/-- The tiles after the first `rows` block rows of those of `ts` are wiped. -/
def wipedTiles (rows : Nat) (ts : List Nat) (tiles : Tbl Tile) : Tbl Tile :=
  ts.foldl (fun tiles t => tblMod {} tiles t (zeroRows rows)) tiles

theorem forEach_wipeBlock (rows : Nat) (ts : List Nat) (s : State) :
    forEach ts (fun t => wipeBlock t rows) s = { s with tiles := wipedTiles rows ts s.tiles } := by
  induction ts generalizing s with
  | nil => rfl
  | cons t ts ih =>
    show forEach ts (fun t => wipeBlock t rows) (wipeBlock t rows s) = _
    rw [ih, wipeBlock_eq_tmod]
    rfl

theorem tblGet_wipedTiles_of_not_mem (rows b : Nat) (ts : List Nat) (tiles : Tbl Tile) (hb : b ∉ ts) :
    tblGet {} (wipedTiles rows ts tiles) b = tblGet {} tiles b := by
  induction ts generalizing tiles with
  | nil => rfl
  | cons t ts ih =>
    have hne : b ≠ t := List.ne_of_not_mem_cons hb
    exact (ih _ (List.not_mem_of_not_mem_cons hb)).trans ((tblGet_mod ..).trans (if_neg hne))

theorem entry_wipedTiles_of_mem (rows b i x : Nat) (ts : List Nat) (tiles : Tbl Tile) (hb : b ∈ ts) (hi : i < rows) (hx : x < 64) :
    entry (tblGet {} (wipedTiles rows ts tiles) b) (112 + i) x = 0 := by
  induction ts generalizing tiles with
  | nil => cases hb
  | cons t ts ih =>
    by_cases hlater : b ∈ ts
    · exact ih _ hlater
    · obtain rfl : b = t := (List.mem_cons.mp hb).resolve_right hlater
      have hlast : tblGet {} (wipedTiles rows (b :: ts) tiles) b = zeroRows rows (tblGet {} tiles b) :=
        (tblGet_wipedTiles_of_not_mem rows b ts _ hlater).trans ((tblGet_mod ..).trans (if_pos rfl))
      rw [hlast]
      exact entry_zeroRows rows i x _ hi hx

/-! ## The effect of ZERO -/

section

variable (s : State)

/-- The tiles that hold rows of stream `n`: its blocks, and the old tile of each block that awaits relocation (R140, R153). -/
def rowTiles (n : Nat) : List Nat := (streamOf s n).blocks ++ (streamOf s n).moving.map (fun m => m.old)

theorem zeroStream_eq (n : Nat) :
    zeroStream n s = { s with tiles := wipedTiles (streamOf s n).rows (rowTiles s n) s.tiles } := forEach_wipeBlock ..

theorem streamOf_zeroStream (n m : Nat) : streamOf (zeroStream n s) m = streamOf s m := by
  rw [zeroStream_eq]; rfl

theorem tileOf_zeroStream_of_not_mem (n b : Nat) (hb : b ∉ rowTiles s n) : tileOf (zeroStream n s) b = tileOf s b := by
  rw [zeroStream_eq]
  exact tblGet_wipedTiles_of_not_mem _ b _ s.tiles hb

theorem entry_zeroStream (n b i x : Nat) (hb : b ∈ rowTiles s n) (hi : i < (streamOf s n).rows) (hx : x < 64) :
    entry (tileOf (zeroStream n s) b) (112 + i) x = 0 := by
  rw [zeroStream_eq]
  exact entry_wipedTiles_of_mem _ b i x _ s.tiles hb hi hx

theorem zeroStream_keepsBooks (n : Nat) : KeepsBooks (zeroStream n) s := fun _ _ _ => by
  rw [zeroStream_eq, zeroStream_eq]; rfl

/-! ## The bytes of a stream command (R136) -/

theorem length_streamCmdBytes (op : Nat) (c : StreamCmd) : (streamCmdBytes op c).length = 32 := by simp [streamCmdBytes]

theorem parseStreamCmd_streamCmdBytes (op : Nat) (c : StreamCmd) (hop : op < 256) :
    parseStreamCmd (streamCmdBytes op c) = (op, c) := by
  have hbyte : op % 2 ^ 8 = op := Nat.mod_eq_of_lt hop
  unfold parseStreamCmd streamCmdBytes
  simp (disch := simp) only [List.append_assoc, fieldAt_append_of_le, fieldAt_leBytes_append, fieldAt_leBytes, length_leBytes,
    Nat.reduceSub, Nat.reduceMul, BitVec.toNat_mod_cancel, BitVec.ofNat_toNat, BitVec.setWidth_eq, hbyte]

/-! ## A stream command as a dictionary write -/

@[simp] theorem streamOf_taken (k n : Nat) : streamOf (taken k s) n = streamOf s n := by simp [streamOf]
@[simp] theorem streamNamed_taken (k h : Nat) : streamNamed (taken k s) h = streamNamed s h := by rw [taken_eq]; rfl
@[simp] theorem streamBusy_taken (k n : Nat) : streamBusy (taken k s) n = streamBusy s n := by simp [streamBusy]
@[simp] theorem chunksOfStream_taken (k n : Nat) : chunksOfStream (taken k s) n = chunksOfStream s n := by simp [chunksOfStream]
@[simp] theorem queueClient_taken (k q : Nat) : queueClient (taken k s) q = queueClient s q := by simp [queueClient]
@[simp] theorem streamBadState_taken (k op n : Nat) : streamBadState (taken k s) op n = streamBadState s op n := by
  simp [streamBadState]
@[simp] theorem streamBadArg_taken (k op : Nat) (c : StreamCmd) : streamBadArg (taken k s) op c = streamBadArg s op c := by
  rw [taken_eq]; rfl

/-- Two states with the same record of a stream give the same reply about it. -/
theorem streamReply_congr (u v : State) (h n result : Nat) (a : Admit) (hn : streamOf u n = streamOf v n) :
    streamReply u h (some n) result a = streamReply v h (some n) result a := by
  simp only [streamReply, hn]

/-- A write of a stream command by a session that may make it is the command: the object's checks all pass (R466, R474). -/
theorem writeValue_streamCmd (k op : Nat) (c : StreamCmd) (hb : s.boot.state ≠ .recovery) (hr : hasRight s k 2 = true) :
    writeValue k 0x3a00 1 (streamCmdBytes op c) s = streamCommand k (streamCmdBytes op c) s := by
  have hfam : famBase 0x3a00 = (0x3a00, 0) := by decide
  have hright : writeRight k 0x3a00 1 (streamCmdBytes op c) = 2 := by simp [writeRight, hfam]
  have htarget : writeTarget s k 0x3a00 1 (streamCmdBytes op c) = .ok (.blob 32, .wo) :=
    writeTarget_ok s k _ _ _ (.blob 32) .wo 0 (reachable_ready s _ _ hb) (by decide) (by decide) (by decide) (by rwa [hright])
      (by simp [notOwner, hfam])
  rw [writeValue_effect s k _ _ _ _ _ htarget ?_ ?_ (fun h => by cases h) (fun h => by cases h)]
  · simp [writeEffect, writeMemoryObj, hfam]
  · simp [typeOk, blobLenOk, hfam, length_streamCmdBytes, sel, tblGet]
  · simp [reservedOk, valueMask, zeroFields, recordHeader, hfam, sel, tblGet]

/-- A stream command whose effect leaves the session's books alone is answered with that effect (R137, R468). -/
theorem hostWrite_streamCmd (k op : Nat) (c : StreamCmd) (r : Bytes) (f : State → State) (h : HostMay k 2 s) (hf : KeepsBooks f s)
    (hc : streamCommand k (streamCmdBytes op c) (taken k s) = .done r (f (taken k s))) :
    Did k { data := r } (f s) s (hostWrite k 0x3a00 1 (streamCmdBytes op c) s) := by
  obtain ⟨hready, hright⟩ := h
  have ⟨_, _, _, _, hboot⟩ := hready
  exact hostWrite_did s k _ _ _ r f hf hready
    ((writeValue_streamCmd (taken k s) k op c (by rwa [taken_boot]) (by rwa [hasRight_taken])).trans hc)

/-! ## ZERO of a stream of the client's own -/

/-- The command is the dictionary write of its 32 bytes. -/
theorem exec_streamZero (k : Fin 64) (c : StreamCmd) :
    exec (.streamZero k c) s = .next (hostWrite k.val 0x3a00 1 (streamCmdBytes 6 c) s) := rfl

/-- ZERO is refused BAD_STATE or wipes the stream, as R138 judges it. -/
theorem streamCommand_zero (k n : Nat) (c : StreamCmd) (harg : streamBadArg s 6 c = false)
    (hname : streamNamed s c.handle.toNat = some n) (hown : queueClient s (streamOf s n).queue = clientOf s k) :
    streamCommand k (streamCmdBytes 6 c) s =
      if streamBadState s 6 n then streamDone s c.handle.toNat (some n) 4
      else streamDone (zeroStream n s) c.handle.toNat (some n) 0 := by
  unfold streamCommand
  rw [parseStreamCmd_streamCmdBytes 6 c (by decide)]
  simp [harg, hname, hown]

/-- An OPEN stream without a service job refuses ZERO exactly while a chunk of it is accepted (R140). -/
theorem streamBadState_zero (n : Nat) (hopen : (streamOf s n).state = .open_) (hbusy : streamBusy s n = false) :
    streamBadState s 6 n = true ↔ chunksOfStream s n ≠ [] := by
  simp [streamBadState, hopen, hbusy]

end

/-- Settles O32: R138 judges the command in the state in which it executes, where it either wipes the rows or answers
BAD_STATE. -/
theorem streamZero : Obligations.StreamZero := by
  intro s k c n hmay h harg hname hown hopen hbusy
  have hjudge := streamBadState_zero s n hopen hbusy
  have hcommand := streamCommand_zero (taken k.val s) k.val n c (by simpa) (by simpa) (by simpa)
  rw [streamBadState_taken] at hcommand
  have hreply : ∀ u result, streamOf u n = streamOf s n → streamDone u h (some n) result =
      .done (streamReply s h (some n) result {}) u := fun u result hu => by
    rw [streamDone, streamReply_congr u s h n result {} hu]
  constructor
  · intro hidle
    rw [if_neg fun hbad => hjudge.mp hbad hidle, hreply _ 0 (by simp [streamOf_zeroStream])] at hcommand
    refine ⟨zeroStream n s, ⟨_, exec_streamZero s k c, hostWrite_streamCmd s k.val 6 c _ _ hmay (zeroStream_keepsBooks s n) hcommand⟩,
      ?_, ?_, fun b hb i hi x hx => entry_zeroStream s n b i x hb hi hx, fun b hb => tileOf_zeroStream_of_not_mem s n b hb⟩
    · rw [zeroStream_eq]
    · rw [streamOf_zeroStream]
  · intro hchunk
    rw [if_pos (hjudge.mpr hchunk), hreply _ 4 (streamOf_taken ..)] at hcommand
    exact ⟨4, by decide, _, exec_streamZero s k c, hostWrite_streamCmd s k.val 6 c _ id hmay (fun _ _ _ => rfl) hcommand⟩

end Machine

end Sys2Proof
end

section
/-!
PROOF. The queue, reset and memory: what a step runs, what reset leaves, and a write of bytes read back; a canonical memory is
determined by the bytes it reads.
-/

namespace Sys2Proof

/-! ## The canonical form is unique -/

/-- In a canonical table no key of the rest is the first entry's. -/
theorem tblGet_tail_head {α : Type} [DecidableEq α] (d : α) (i : Nat) (v : α) (t : Tbl α) (h : tblWf d ((i, v) :: t) = true) :
    ∀ k, k ≤ i → tblGet d t k = d := by
  intro k hk
  refine tblGet_absent d t k fun hmem => ?_
  obtain ⟨e, he, rfl⟩ := List.mem_map.1 hmem
  have := (List.pairwise_cons.1 ((tblWf_iff d _).1 h).1).1 e he
  simp only at this
  omega

theorem tblWf_tail {α : Type} [DecidableEq α] (d : α) (e : Nat × α) (t : Tbl α) (h : tblWf d (e :: t) = true) :
    tblWf d t = true := by
  rw [tblWf_iff] at h ⊢
  exact ⟨(List.pairwise_cons.1 h.1).2, fun x hx => h.2 x (List.mem_cons_of_mem _ hx)⟩

/-- Each content has one canonical table. -/
theorem tblWf_ext {α : Type} [DecidableEq α] (d : α) (t u : Tbl α) (ht : tblWf d t = true) (hu : tblWf d u = true)
    (h : ∀ k, tblGet d t k = tblGet d u k) : t = u := by
  induction t generalizing u with
  | nil =>
    cases u with
    | nil => rfl
    | cons e u =>
      have hv : tblGet d (e :: u) e.1 = d := (h e.1).symm
      exact absurd (by simpa [tblGet] using hv) (((tblWf_iff d _).1 hu).2 e (by simp))
  | cons e t ih =>
    obtain ⟨i, v⟩ := e
    have hv : v ≠ d := ((tblWf_iff d _).1 ht).2 (i, v) (by simp)
    cases u with
    | nil => exact absurd (by simpa [tblGet] using h i) hv
    | cons e u =>
      obtain ⟨j, w⟩ := e
      have hw : w ≠ d := ((tblWf_iff d _).1 hu).2 (j, w) (by simp)
      have hhead := h i
      have hhead' := h j
      have hij : i = j := by
        rcases Nat.lt_trichotomy i j with hlt | heq | hgt
        · have := tblGet_tail_head d j w u hu i (by omega)
          simp [tblGet, Nat.ne_of_gt hlt, this] at hhead
          exact absurd hhead hv
        · exact heq
        · have := tblGet_tail_head d i v t ht j (by omega)
          simp [tblGet, Nat.ne_of_gt hgt, this] at hhead'
          exact absurd hhead'.symm hw
      subst hij
      have hvw : v = w := by simpa [tblGet] using hhead
      subst hvw
      congr 1
      refine ih u (tblWf_tail d _ t ht) (tblWf_tail d _ u hu) fun k => ?_
      by_cases hk : i = k
      · subst hk
        rw [tblGet_tail_head d i v t ht i (le_refl _), tblGet_tail_head d i v u hu i (le_refl _)]
      · simpa [tblGet, hk] using h k

namespace Machine

open Claims

/-- Settles O1. -/
theorem stepRunsFrontCommand : Obligations.StepRunsFrontCommand :=
  ⟨fun c rest s h => by unfold step; rw [h], fun s h => by unfold step; rw [h]⟩

/-! ## Reset -/

/-- At reset an object holds its default. -/
theorem cfgBytes_reset (i j : Nat) : cfgBytes State.reset i j = objDefault i j := rfl

/-- The defaults of a queue's numbers are those of queue 0. -/
theorem cfg_reset_queue (q : Fin 4096) (j : Nat) : cfg State.reset (0x6000 + q.val) j = cfg State.reset 0x6000 j := by
  have hbase : famBase 0x6000 = (0x6000, 0) := by decide
  have hblob : blobDefault (0x6000 + q.val) j = blobDefault 0x6000 j := by
    unfold blobDefault
    rw [famBase_queue, hbase]
  have hsafe : ¬((0x6000 + q.val = 0x1112 ∨ 0x6000 + q.val = 0x1113) ∧ j = 1) := by omega
  simp only [cfg, cfgBytes_reset, objDefault, objDef_queue, hblob, if_neg hsafe]
  rfl

/-- Settles O2. -/
theorem resetValues : Obligations.ResetValues := by
  refine ⟨rfl, rfl, fun q => ⟨rfl, ?_, ?_, ?_⟩, fun p => ⟨rfl, ?_⟩, fun t g => rfl, fun k => rfl, fun i j => rfl, rfl, rfl, rfl,
    rfl, rfl, fun a => rfl⟩
  · rw [queueClient, cfg_reset_queue]; decide
  · rw [queueClass, cfg_reset_queue]; decide
  · rw [queuePermit, cfg_reset_queue]; decide
  · revert p; decide

/-- Settles O3: memory at reset lists no byte. -/
theorem resetMemoryCanonical : Obligations.ResetMemoryCanonical := rfl

/-! ## Bytes written -/

/-- Settles O5: the laws of `memWrite`, and that a canonical table is determined by what it reads. -/
theorem memoryReadAfterWrite : Obligations.MemoryReadAfterWrite := by
  intro s hs
  refine ⟨fun a bs => ⟨memWrite_wf s.mem a bs hs, memRead_write s.mem a bs, fun j hj => ?_⟩, fun t ht h => tblWf_ext 0 _ _ hs ht h⟩
  show memByte (memWrite s.mem a bs) j = memByte s.mem j
  rw [memByte_write, if_neg hj]

end Machine

end Sys2Proof
end

section
/-!
PROOF. Memory under the named operations, one lemma each: those that leave it as it was.
-/

namespace Sys2Proof.Machine

open Claims

variable (s : State)

/-! ## Folds and branches -/

@[simp] theorem forEach_mem {α : Type} (l : List α) (f : α → State → State) (h : ∀ a s, (f a s).mem = s.mem) :
    (forEach l f s).mem = s.mem :=
  forEach_keeps State.mem f l (fun a _ s => h a s) s

/-- The same with the step's result under a name of its own: the kernel then has no call of the step to unfold. -/
theorem forEach_mem_of {α : Type} (l : List α) (f : α → State → State) (h : ∀ a s t, t = f a s → t.mem = s.mem) :
    (forEach l f s).mem = s.mem :=
  forEach_mem s l f fun a s => h a s _ rfl

@[simp] theorem foldl_mem {α : Type} (l : List α) (f : State → α → State) (h : ∀ a s, (f s a).mem = s.mem) :
    (l.foldl f s).mem = s.mem :=
  forEach_mem s l (fun a s => f s a) h

@[simp] theorem ite_mem (c : Prop) [Decidable c] (a b : State) : (if c then a else b).mem = if c then a.mem else b.mem :=
  apply_ite State.mem c a b

@[simp] theorem freshNat_snd_mem : (freshNat s).2.mem = s.mem := by simp [freshNat]
@[simp] theorem freshBytes_snd_mem (n : Nat) : (freshBytes n s).2.mem = s.mem := by simp [freshBytes]
@[simp] theorem freshChoice_snd_mem (l : List Nat) : (freshChoice l s).2.mem = s.mem := by simp [freshChoice]
@[simp] theorem clearEvents_mem (v : BitVec 32) : (clearEvents v s).mem = s.mem := by simp [clearEvents]
@[simp] theorem aoTicks_mem (n : Nat) : (aoTicks n s).mem = s.mem := by unfold aoTicks; rfl
@[simp] theorem aoTick_mem : (aoTick s).mem = s.mem := by simp [aoTick]
@[simp] theorem flushT1_mem (x : Nat) (w : List TxFrame) : (flushT1 x w s).mem = s.mem := by simp [flushT1]
@[simp] theorem sendT1_mem (x : Nat) (f : TxFrame) : (sendT1 x f s).mem = s.mem := by simp [sendT1]
@[simp] theorem releaseT1_mem (x : Nat) : (releaseT1 x s).mem = s.mem := by simp [releaseT1]
@[simp] theorem ixSend_mem (x : Fin 4) (peer frame : Bytes) : (ixSend x peer frame s).mem = s.mem := by simp [ixSend]
@[simp] theorem sendTo_mem (k : Nat) (frame : Bytes) : (sendTo k frame s).mem = s.mem := by simp [sendTo]
@[simp] theorem reply_mem (k : Nat) (frame : Bytes) : (reply k frame s).mem = s.mem := by simp [reply]
@[simp] theorem notifyDropped_mem (k : Nat) : (notifyDropped k s).mem = s.mem := by simp [notifyDropped]
@[simp] theorem notify_mem (k : Nat) (n : Notify) : (notify k n s).mem = s.mem := by simp [notify]
@[simp] theorem notifyAll_mem (code : Nat) (data : Bytes) : (notifyAll code data s).mem = s.mem := by simp [notifyAll]
@[simp] theorem notifySubs_mem (code : Nat) (data : Bytes) : (notifySubs code data s).mem = s.mem := by simp [notifySubs]
@[simp] theorem answer_mem (k : Nat) (r : Reply) : (answer k r s).mem = s.mem := by simp [answer]
@[simp] theorem abort_mem (k : Nat) (code : BitVec 32) : (abort k code s).mem = s.mem := by simp [abort]
@[simp] theorem accept_mem (k : Nat) (data : Bytes) : (accept k data s).mem = s.mem := by simp [accept]

@[simp] theorem raiseEvent_mem (job : Option (BitVec 32)) (n : Nat) : (raiseEvent job n s).mem = s.mem := by
  rw [raiseEvent_eq]

@[simp] theorem dropEvents_mem (tag : BitVec 32) : (dropEvents tag s).mem = s.mem := by simp [dropEvents]
@[simp] theorem unspoil_mem (code : Nat) : (unspoil code s).mem = s.mem := by simp [unspoil]
@[simp] theorem emitFabric_mem (p : Nat) (f : OutFrame) : (emitFabric p f s).mem = s.mem := by simp [emitFabric]

@[simp] theorem sendPackets_mem (p peer qp : Nat) (op : RoceOp) (address : Nat) (data : Bytes) :
    (sendPackets p peer qp op address data s).mem = s.mem := by
  simp [sendPackets]

@[simp] theorem peerWrite_mem (m address : Nat) (data : Bytes) : (peerWrite m address data s).mem = s.mem := by
  unfold peerWrite; split <;> simp

@[simp] theorem newReq_mem (m : Nat) (owner : RoceOwner) (op : RoceOp) (address : Nat) (data : Bytes) :
    (newReq m owner op address data s).mem = s.mem := by
  unfold newReq; simp only []; (repeat' split) <;> simp

@[simp] theorem promoteReq_mem (p : Nat) (r : RoceReq) : (promoteReq p r s).mem = s.mem := by
  unfold promoteReq; split <;> simp

@[simp] theorem promoteReqs_mem (p : Nat) : (promoteReqs p s).mem = s.mem := by simp [promoteReqs]
@[simp] theorem dropReqs_mem (which : RoceReq → Bool) : (dropReqs which s).mem = s.mem := by simp [dropReqs]

@[simp] theorem releaseHeld_mem (p : Nat) : (releaseHeld p s).mem = s.mem := by
  rw [releaseHeld]
  split
  · rfl
  · rw [forEach_mem _ _ _ fun f s => emit_mem s f, fabmod_mem]

@[simp] theorem receiveBytes_mem (p n : Nat) : (receiveBytes p n s).mem = s.mem := by simp [receiveBytes]
@[simp] theorem fabricTick_mem (p : Nat) : (fabricTick p s).mem = s.mem := by simp [fabricTick]
@[simp] theorem idle_mem : (idle s).mem = s.mem := by simp [idle]
@[simp] theorem tensorMod_mem (i : Nat) (f : Tensor → Tensor) : (tensorMod i f s).mem = s.mem := by simp [tensorMod]
@[simp] theorem freeAquifer_mem (addr : Nat) : (freeAquifer s addr).mem = s.mem := by unfold freeAquifer; split <;> simp
@[simp] theorem reapReplicas_mem : (reapReplicas s).mem = s.mem := by simp [reapReplicas]
@[simp] theorem reapHomes_mem : (reapHomes s).mem = s.mem := by simp [reapHomes]
@[simp] theorem retireHome_mem (i : Nat) : (retireHome i s).mem = s.mem := by unfold retireHome; simp only []; split <;> simp

@[simp] theorem newVersion_mem (i addr stored : Nat) (compressed : Bool) (codes : Bytes) (object : Option Nat) :
    (newVersion i addr stored compressed codes object s).mem = s.mem := by
  simp [newVersion]

@[simp] theorem healLines_mem (a n : Nat) : (healLines a n s).mem = s.mem := by simp [healLines]
@[simp] theorem dropReplica_mem (k i : Nat) : (dropReplica k i s).mem = s.mem := by simp [dropReplica]
@[simp] theorem dropReplicas_mem (k : Nat) : (dropReplicas k s).mem = s.mem := by simp [dropReplicas]
@[simp] theorem damageTensor_mem (i : Nat) : (damageTensor i s).mem = s.mem := by simp [damageTensor]
@[simp] theorem openCycle_mem : (openCycle s).mem = s.mem := by simp [openCycle]
@[simp] theorem freshSeq_snd_mem (p : Nat) : (freshSeq p s).2.2.mem = s.mem := by simp [freshSeq]
@[simp] theorem tableMod_mem (n : Nat) (f : Table → Table) : (tableMod n f s).mem = s.mem := by simp [tableMod]
@[simp] theorem endReserved_mem (es : List Nat) : (endReserved es s).mem = s.mem := by simp [endReserved]
@[simp] theorem streamMod_mem (n : Nat) (f : Stream → Stream) : (streamMod n f s).mem = s.mem := by simp [streamMod]
@[simp] theorem loadBlock_mem (t : Nat) (es : List (BitVec 48)) : (loadBlock t es s).mem = s.mem := by simp [loadBlock]
@[simp] theorem wipeBlock_mem (t rows : Nat) : (wipeBlock t rows s).mem = s.mem := by simp [wipeBlock]
@[simp] theorem storeRollback_mem (n : Nat) : (storeRollback n s).mem = s.mem := by simp [storeRollback]

@[simp] theorem restoreRollback_mem (n : Nat) : (restoreRollback n s).mem = s.mem := by
  rw [restoreRollback]
  split
  · rw [count_mem]
    exact forEach_mem s _ _ fun t s => by split <;> simp
  · rfl

@[simp] theorem wipeRollback_mem (ts : List Nat) : (wipeRollback ts s).mem = s.mem := by simp [wipeRollback]
@[simp] theorem wipeExport_mem (ts : List Nat) : (wipeExport ts s).mem = s.mem := by simp [wipeExport]
@[simp] theorem releaseBlocks_mem (n : Nat) : (releaseBlocks n s).mem = s.mem := by simp [releaseBlocks]

@[simp] theorem storeExport_mem (ts : List Nat) (rows : Nat → List (BitVec 48)) : (storeExport ts rows s).mem = s.mem := by
  simp [storeExport]

@[simp] theorem place_snd_mem (cur : Nat) (self : Option (BitVec 32)) (w : Want) (heapOk : Bool) :
    (place s cur self w heapOk).2.mem = s.mem := by
  unfold place; simp only []; (repeat' split) <;> simp

@[simp] theorem dyingMod_mem (id : Nat) (f : Dying → Dying) : (dyingMod id f s).mem = s.mem := by simp [dyingMod]

@[simp] theorem readPlace_snd_mem (w : Actor) (pl : Place) (n : Nat) : (readPlace w pl n s).2.mem = s.mem := by
  unfold readPlace; (repeat' split) <;> simp

@[simp] theorem siphonData_snd_mem (w : Actor) (d : SiphonDesc) : (siphonData w d s).2.mem = s.mem := by
  unfold siphonData; (repeat' split) <;> simp

@[simp] theorem fencePeer_mem (ch t : Nat) : (fencePeer ch t s).mem = s.mem := by simp [fencePeer]
@[simp] theorem beginFence_mem (ch t : Nat) : (beginFence ch t s).mem = s.mem := by simp [beginFence]
@[simp] theorem startNext_mem (ch : Nat) : (startNext s ch).mem = s.mem := by unfold startNext; split <;> simp
@[simp] theorem postTo_mem (ch : Nat) (p : Posted) : (postTo ch p s).mem = s.mem := by simp [postTo]
@[simp] theorem fenceTargets_mem (ch : Nat) : (fenceTargets ch s).mem = s.mem := by simp [fenceTargets]

@[simp] theorem stopChannels_mem (tag : BitVec 32) (f : Posted → Posted) : (stopChannels tag f s).mem = s.mem := by
  simp [stopChannels]

@[simp] theorem meterHead_snd_mem (ch : Nat) (p : Posted) : (meterHead ch p s).2.mem = s.mem := by
  unfold meterHead; simp only []; (repeat' split) <;> simp

@[simp] theorem buryAttempt_mem (j : Job) (image : Option Extent) (resv : List Nat) : (buryAttempt j image resv s).mem = s.mem := by
  simp [buryAttempt]

@[simp] theorem clearTested_mem (t : Nat) : (clearTested t s).mem = s.mem := by simp [clearTested]
@[simp] theorem endTest_mem (t : Nat) (f : FieldTest) : (endTest t f s).mem = s.mem := by unfold endTest; split <;> simp
@[simp] theorem abandonTests_mem (ts : List Nat) : (abandonTests ts s).mem = s.mem := by simp [abandonTests]
@[simp] theorem yieldTests_mem (ts : List Nat) : (yieldTests ts s).mem = s.mem := by simp [yieldTests]
@[simp] theorem yieldPort_mem (k : Nat) : (yieldPort k s).mem = s.mem := by simp [yieldPort]

@[simp] theorem startOn_mem (tag : BitVec 32) (b : Nat) : (startOn tag b s).mem = s.mem := by
  unfold startOn
  split
  · rfl
  · split
    · rfl
    · simp

@[simp] theorem abandonWait_mem (t : Nat) : (abandonWait t s).mem = s.mem := by unfold abandonWait; (repeat' split) <;> simp
@[simp] theorem stopTasks_mem (j : Job) : (stopTasks j s).mem = s.mem := by simp [stopTasks]
@[simp] theorem dropPrearm_mem (tag : BitVec 32) : (dropPrearm tag s).mem = s.mem := by simp [dropPrearm]
@[simp] theorem settleQueue_mem (q : Nat) : (settleQueue q s).mem = s.mem := by simp [settleQueue]
@[simp] theorem settlePart_mem (p : Nat) : (settlePart p s).mem = s.mem := by simp [settlePart]

@[simp] theorem countCompletion_mem (j : Job) (st : BitVec 8) : (countCompletion j st s).mem = s.mem := by
  simp [countCompletion]

@[simp] theorem notifyJob_mem (j : Job) (r : CompRec) : (notifyJob j r s).mem = s.mem := by
  unfold notifyJob; (repeat' split) <;> simp

@[simp] theorem safetyFrame_mem (x : Nat) (cleared : Bool) : (safetyFrame x cleared s).mem = s.mem := by simp [safetyFrame]
@[simp] theorem safetyFrames_mem (cleared : Bool) : (safetyFrames cleared s).mem = s.mem := by simp [safetyFrames]

@[simp] theorem takeStaging_mem (tag : BitVec 32) : (takeStaging tag s).mem = s.mem := by
  unfold takeStaging; simp only []; (repeat' split) <;> simp

@[simp] theorem endAttempt_mem (j : Job) : (endAttempt j s).mem = s.mem := by unfold endAttempt; split <;> simp
@[simp] theorem killJob_mem (tag : BitVec 32) : (killJob tag s).mem = s.mem := by unfold killJob; split <;> simp
@[simp] theorem callReplan_mem (which : Job → Bool) : (callReplan which s).mem = s.mem := by simp [callReplan]
@[simp] theorem tilesLost_mem (ts : List Nat) : (tilesLost ts s).mem = s.mem := by simp [tilesLost]
@[simp] theorem advanceSeq_mem (q : Nat) : (advanceSeq q s).mem = s.mem := by simp [advanceSeq]
@[simp] theorem acceptJob_snd_mem (j : Job) : (acceptJob j s).2.mem = s.mem := by simp [acceptJob]

@[simp] theorem admitService_snd_mem (cur : Nat) (a : Arrival) (v : Service) : (admitService cur a v s).2.mem = s.mem := by
  unfold admitService
  simp only
  iterate 3 (split; · rfl)
  have hp := place_snd_mem s cur none
  split
  next h => exact (congrArg (fun x => x.2.mem) h).symm.trans (hp _ _)
  next h =>
    have hm := (congrArg (fun x => x.2.mem) h).symm.trans (hp _ _)
    split
    · rw [count_mem]; exact hm
    · rw [acceptJob_snd_mem]; exact hm

@[simp] theorem placeReady_mem (tag : BitVec 32) (i : Nat) : (placeReady tag i s).mem = s.mem := by
  unfold placeReady; (repeat' split) <;> simp

@[simp] theorem placeWaiting_mem (tag : BitVec 32) : (placeWaiting tag s).mem = s.mem := by
  unfold placeWaiting; split <;> simp

@[simp] theorem recomputeOutcome_snd_mem (j : Job) : (recomputeOutcome j s).2.2.mem = s.mem := by
  unfold recomputeOutcome; simp only []; (repeat' split) <;> simp

@[simp] theorem deferJob_mem (tag : BitVec 32) : (deferJob tag s).mem = s.mem := by simp [deferJob]

@[simp] theorem importSome_mem (k : Nat) (tag : BitVec 32) : (importSome k tag s).mem = s.mem := by
  unfold importSome; (repeat' split) <;> simp

@[simp] theorem notifyAbout_mem (j : Job) (code : Nat) (data : Bytes) : (notifyAbout j code data s).mem = s.mem := by
  unfold notifyAbout; split <;> simp

@[simp] theorem reportRisk_mem (j : Job) : (reportRisk j s).mem = s.mem := by simp [reportRisk]
@[simp] theorem restartService_mem (j : Job) : (restartService j s).mem = s.mem := by simp [restartService]
@[simp] theorem takeRuns_mem (j : Job) (rs : List Run) (len : Nat) : (takeRuns j rs len s).mem = s.mem := by simp [takeRuns]
@[simp] theorem dropUpdate_mem (k : Nat) : (dropUpdate k s).mem = s.mem := by simp [dropUpdate]
@[simp] theorem closeSession_mem (k : Nat) : (closeSession k s).mem = s.mem := by simp [closeSession]
@[simp] theorem closePortSessions_mem (x : Nat) : (closePortSessions x s).mem = s.mem := by simp [closePortSessions]
@[simp] theorem dropLaunches_mem (x : Nat) : (dropLaunches x s).mem = s.mem := by simp [dropLaunches]
@[simp] theorem timeNotice_mem : (timeNotice s).mem = s.mem := by simp [timeNotice]
@[simp] theorem setTime_mem (st : TimeState) : (setTime st s).mem = s.mem := by simp [setTime]
@[simp] theorem setRate_mem (r : Int) : (setRate r s).mem = s.mem := by simp [setRate]
@[simp] theorem meanRate_snd_mem : (meanRate s).2.mem = s.mem := by unfold meanRate; simp only []; split <;> simp
@[simp] theorem holdover_mem : (holdover s).mem = s.mem := by simp [holdover]
@[simp] theorem forgetAnnounce_mem (x : Nat) : (forgetAnnounce x s).mem = s.mem := by simp [forgetAnnounce]
@[simp] theorem slaveDown_mem (x : Nat) : (slaveDown x s).mem = s.mem := by simp [slaveDown]

@[simp] theorem movePath_mem (tag : BitVec 32) (k : Nat) : (movePath tag k s).mem = s.mem := by
  unfold movePath
  simp only
  split
  · simp
  · rw [forEach_mem _ _ _ fun b s => ?_]
    · simp
    · split
      · rfl
      · exact forEach_mem s _ _ fun t s => by simp

@[simp] theorem switchPath_mem (tag : BitVec 32) (k : Nat) : (switchPath tag k s).mem = s.mem := by simp [switchPath]
@[simp] theorem dropDeadReplicas_mem (k : Nat) : (dropDeadReplicas k s).mem = s.mem := by simp [dropDeadReplicas]
@[simp] theorem askRetest_mem (u : BitVec 32) (attempt : Nat) : (askRetest u attempt s).mem = s.mem := by simp [askRetest]
@[simp] theorem noteTarget_mem (ch t : Nat) : (noteTarget ch t s).mem = s.mem := by simp [noteTarget]

@[simp] theorem settleFences_mem (ch : Nat) : (settleFences ch s).mem = s.mem := by
  rw [settleFences]
  split
  · rfl
  · simp only
    generalize hu : (if (chanOf s ch).targets = [] then s else fenceTargets ch s) = u
    have hm : u.mem = s.mem := by rw [← hu]; simp
    split
    · rfl
    · split
      · rw [forEach_mem _ _ _ fun t s => by rw [count_mem, tmod_mem], hm]
      · exact hm

@[simp] theorem fenceWhenDone_mem (ch : Nat) (tag : Option (BitVec 32)) : (fenceWhenDone ch tag s).mem = s.mem := by
  unfold fenceWhenDone; split <;> simp

@[simp] theorem issueCommitFences_mem (j : Job) : (issueCommitFences j s).mem = s.mem := by simp [issueCommitFences]
@[simp] theorem clearFences_mem (j : Job) : (clearFences j s).mem = s.mem := by simp [clearFences]
@[simp] theorem mapStop_mem : (mapStop s).mem = s.mem := by simp [mapStop]
@[simp] theorem takeTails_mem : (takeTails s).mem = s.mem := by simp [takeTails]
@[simp] theorem chanSet_mem (ch : Nat) (f : SelChannel → SelChannel) : (chanSet ch f s).mem = s.mem := by simp [chanSet]
@[simp] theorem takeRecords_mem (ch sl : Nat) (b : Bytes) : (takeRecords ch sl b s).mem = s.mem := by simp [takeRecords]
@[simp] theorem dropRecords_mem (b : Bytes) : (dropRecords b s).mem = s.mem := by simp [dropRecords]
@[simp] theorem startChannel_mem (ch : Nat) : (startChannel ch s).mem = s.mem := by simp [startChannel]
@[simp] theorem stopChannel_mem (ch : Nat) : (stopChannel ch s).mem = s.mem := by simp [stopChannel]
@[simp] theorem fusionTake_mem (i : Nat) (r : Bytes) : (fusionTake i r s).mem = s.mem := by simp [fusionTake]

@[simp] theorem fusionTakeIn_mem (staged : Tbl (BitVec 8)) : (fusionTakeIn staged s).mem = s.mem := by
  unfold fusionTakeIn
  refine forEach_mem s _ _ fun i s => ?_
  split
  · split <;> simp
  · rfl

@[simp] theorem fusionStart_mem : (fusionStart s).mem = s.mem := by simp [fusionStart]
@[simp] theorem fusionStop_mem : (fusionStop s).mem = s.mem := by simp [fusionStop]
@[simp] theorem schedMod_mem (k : Nat) (f : SchedSlot → SchedSlot) : (schedMod k f s).mem = s.mem := by simp [schedMod]

@[simp] theorem loadSchedule_mem (k : Nat) : (loadSchedule k s).mem = s.mem := by
  unfold loadSchedule; simp only []; split <;> simp

@[simp] theorem finishSchedule_mem (k : Nat) : (finishSchedule k s).mem = s.mem := by simp [finishSchedule]
@[simp] theorem solverTake_mem (r : Bytes) : (solverTake r s).mem = s.mem := by simp [solverTake]
@[simp] theorem solverTakeIn_mem (staged : Tbl (BitVec 8)) : (solverTakeIn staged s).mem = s.mem := by simp [solverTakeIn]
@[simp] theorem solverCycle_mem (t : Nat) : (solverCycle t s).mem = s.mem := by simp [solverCycle]
@[simp] theorem solverStart_mem : (solverStart s).mem = s.mem := by simp [solverStart]
@[simp] theorem solverStop_mem : (solverStop s).mem = s.mem := by simp [solverStop]
@[simp] theorem offerLaunch_mem (x : Nat) (l : Launch) : (offerLaunch x l s).mem = s.mem := by simp [offerLaunch]
@[simp] theorem axisMod_mem (n : Nat) (f : Axis → Axis) : (axisMod n f s).mem = s.mem := by simp [axisMod]
@[simp] theorem takeFeedback_mem (b : Bytes) : (takeFeedback b s).mem = s.mem := by simp [takeFeedback]
@[simp] theorem pumpTake_mem (r : Bytes) : (pumpTake r s).mem = s.mem := by simp [pumpTake]
@[simp] theorem pumpTakeIn_mem (staged : Tbl (BitVec 8)) : (pumpTakeIn staged s).mem = s.mem := by simp [pumpTakeIn]
@[simp] theorem loadTables_mem (n : Nat) : (loadTables n s).mem = s.mem := by unfold loadTables; split <;> simp
@[simp] theorem finishTables_mem (n : Nat) : (finishTables n s).mem = s.mem := by simp [finishTables]

@[simp] theorem rampSource_snd_mem (l : Latch) (a : Axis) (c : Nat) : (rampSource s l a c).2.mem = s.mem := by
  unfold rampSource; split <;> simp

@[simp] theorem takePending_mem (n : Nat) : (takePending n s).mem = s.mem := by
  unfold takePending; simp only []; split <;> simp

@[simp] theorem pumpStart_mem : (pumpStart s).mem = s.mem := by simp [pumpStart]
@[simp] theorem pumpStop_mem : (pumpStop s).mem = s.mem := by simp [pumpStop]
@[simp] theorem chargeCycles_mem (t n : Nat) : (chargeCycles t n s).mem = s.mem := by rw [chargeCycles_eq]
@[simp] theorem pcNext_mem (t : Nat) : (pcNext t s).mem = s.mem := by simp [pcNext]
@[simp] theorem beginLoop_mem (t : Nat) (f : TileFields) : (beginLoop t f s).mem = s.mem := by simp [beginLoop]
@[simp] theorem endLoop_mem (t : Nat) (f : TileFields) : (endLoop t f s).mem = s.mem := by simp [endLoop]
@[simp] theorem fenceWait_mem (t : Nat) (f : TileFields) : (fenceWait t f s).mem = s.mem := by simp [fenceWait]

@[simp] theorem barrier_mem (t : Nat) (f : TileFields) : (barrier t f s).mem = s.mem := by
  unfold barrier
  simp only
  split
  · rw [forEach_mem _ _ _ fun x s => tmod_mem s x _, cmod_mem]
  · rw [cmod_mem, tmod_mem]

@[simp] theorem eventWait_mem (t : Nat) (f : TileFields) : (eventWait t f s).mem = s.mem := by
  unfold eventWait; (repeat' split) <;> simp

@[simp] theorem eventSignal_mem (t : Nat) (f : TileFields) : (eventSignal t f s).mem = s.mem := by simp [eventSignal]
@[simp] theorem answerArrival_mem (a : Arrival) (b : Bytes) : (answerArrival a b s).mem = s.mem := by simp [answerArrival]

@[simp] theorem serviceReq_mem (tag : BitVec 32) : (serviceReq tag s).mem = s.mem := by
  unfold serviceReq; (repeat' split) <;> simp

@[simp] theorem moveBlock_mem (n : Nat) (m : Move) (spare : Nat) : (moveBlock n m spare s).mem = s.mem := by simp [moveBlock]

@[simp] theorem roceReply_mem (m : Nat) (nak : Bool) (data : Bytes) : (roceReply m nak data s).mem = s.mem := by
  rw [roceReply]
  split
  · rfl
  · exact forEach_mem_of s _ _ fun d s t ht => by rw [ht, emitFabric_mem]

@[simp] theorem resend_mem (p id : Nat) : (resend p id s).mem = s.mem := by
  rw [resend]
  split
  · rfl
  · split
    · rw [sendPackets_mem, fabmod_mem, clockTo_mem]
    · rfl

@[simp] theorem queueConfig_mem (q sub : Nat) (data : Bytes) : (queueConfig q sub data s).mem = s.mem := by
  simp [queueConfig]

@[simp] theorem queueStart_mem (q : Nat) : (queueStart q s).mem = s.mem := by simp [queueStart]
@[simp] theorem queueStop_mem (q : Nat) : (queueStop q s).mem = s.mem := by simp [queueStop]

@[simp] theorem arrive_mem (k q : Nat) (d : JobDesc) (v : Option Service) : (arrive k q d v s).mem = s.mem := by
  simp [arrive]

@[simp] theorem arriveService_mem (k q : Nat) (v : Service) (dl : Nat) : (arriveService k q v dl s).mem = s.mem := by
  simp [arriveService]

@[simp] theorem nextRecord_snd_mem (q : Nat) : (nextRecord q s).2.mem = s.mem := by unfold nextRecord; split <;> simp
@[simp] theorem openStream_mem (n : Nat) (c : StreamCmd) : (openStream n c s).mem = s.mem := by simp [openStream]
@[simp] theorem closeStream_mem (n : Nat) : (closeStream n s).mem = s.mem := by simp [closeStream]
@[simp] theorem zeroStream_mem (n : Nat) : (zeroStream n s).mem = s.mem := by simp [zeroStream]
@[simp] theorem freeTensor_mem (i : Nat) : (freeTensor i s).mem = s.mem := by simp [freeTensor]
@[simp] theorem createTensor_mem (i : Nat) (c : DirCmd) : (createTensor i c s).mem = s.mem := by simp [createTensor]
@[simp] theorem deleteObject_mem (o : Nat) : (deleteObject o s).mem = s.mem := by simp [deleteObject]
@[simp] theorem selectEntry_mem (k : Nat) (o : BitVec 16) : (selectEntry k o s).mem = s.mem := by simp [selectEntry]
@[simp] theorem partStart_mem (p : Nat) : (partStart p s).mem = s.mem := by simp [partStart]
@[simp] theorem partStop_mem (p : Nat) : (partStop p s).mem = s.mem := by simp [partStop]
@[simp] theorem wmod_mem (f : Wellhead → Wellhead) : (wmod f s).mem = s.mem := by simp [wmod]
@[simp] theorem cammod_mem (n : Nat) (f : Camera → Camera) : (cammod n f s).mem = s.mem := by simp [cammod]
@[simp] theorem sampmod_mem (n : Nat) (f : SampleStream → SampleStream) : (sampmod n f s).mem = s.mem := by simp [sampmod]
@[simp] theorem markLinkError_mem (n : Nat) : (markLinkError n s).mem = s.mem := by unfold markLinkError; split <;> simp

@[simp] theorem checkFrozen_snd_mem (n : Nat) (sig : BitVec 32) : (checkFrozen n sig s).2.mem = s.mem := by
  simp [checkFrozen]

@[simp] theorem camLines_mem (n : Nat) (crcOk : Bool) (payload : Bytes) : (camLines n crcOk payload s).mem = s.mem := by
  simp [camLines]

@[simp] theorem camStop_mem (n : Nat) : (camStop n s).mem = s.mem := by simp [camStop]
@[simp] theorem samplePut_mem (n i : Nat) (f : Sample → Sample) : (samplePut n i f s).mem = s.mem := by simp [samplePut]
@[simp] theorem rejectSample_mem (n i reason : Nat) : (rejectSample n i reason s).mem = s.mem := by simp [rejectSample]
@[simp] theorem decoderSet_mem (d : Nat) (v : Option Decoder) : (decoderSet d v s).mem = s.mem := by simp [decoderSet]
@[simp] theorem tokenizerTake_mem : (tokenizerTake s).mem = s.mem := by unfold tokenizerTake; (repeat' split) <;> simp
@[simp] theorem dropDecoders_mem (n : Nat) : (dropDecoders n s).mem = s.mem := by simp [dropDecoders]

@[simp] theorem finishImage_mem (n i : Nat) (e : Sample) : (finishImage n i e s).mem = s.mem := by
  unfold finishImage; (repeat' split) <;> simp

@[simp] theorem finishText_mem (n i : Nat) (e : Sample) : (finishText n i e s).mem = s.mem := by simp [finishText]
@[simp] theorem takeSample_mem (n : Nat) : (takeSample n s).mem = s.mem := by simp [takeSample]
@[simp] theorem sampleStop_mem (n : Nat) : (sampleStop n s).mem = s.mem := by simp [sampleStop]
@[simp] theorem wipeWellhead_mem : (wipeWellhead s).mem = s.mem := by simp [wipeWellhead]
@[simp] theorem blankTile_mem (t : Nat) : (blankTile t s).mem = s.mem := by simp [blankTile]
@[simp] theorem resetSelector_mem : (resetSelector s).mem = s.mem := by simp [resetSelector]
@[simp] theorem resetFusion_mem : (resetFusion s).mem = s.mem := by simp [resetFusion]
@[simp] theorem resetT1_mem (x : Nat) : (resetT1 x s).mem = s.mem := by simp [resetT1]
@[simp] theorem resetControl_mem : (resetControl s).mem = s.mem := by simp [resetControl]
@[simp] theorem resetReport_mem (code : Nat) : (resetReport code s).mem = s.mem := by simp [resetReport]
@[simp] theorem shiftInstants_mem (d : Int) (t : Nat) : (shiftInstants d t s).mem = s.mem := by simp [shiftInstants]
@[simp] theorem clockStep_mem (d : Int) : (clockStep d s).mem = s.mem := by simp [clockStep]
@[simp] theorem clockAdjust_mem (d : Int) : (clockAdjust d s).mem = s.mem := by simp [clockAdjust]
@[simp] theorem servo_mem : (servo s).mem = s.mem := by simp [servo]

@[simp] theorem takeSync_mem (x : Nat) (gm offset : BitVec 64) : (takeSync x gm offset s).mem = s.mem := by
  unfold takeSync; simp only []; split <;> simp

@[simp] theorem asStart_mem : (asStart s).mem = s.mem := by simp [asStart]
@[simp] theorem asStop_mem : (asStop s).mem = s.mem := by simp [asStop]

@[simp] theorem selectGm_mem (self : Bool) (gm : BitVec 64) (x : Nat) : (selectGm self gm x s).mem = s.mem := by
  simp [selectGm]

@[simp] theorem takeAnnounce_mem (x : Nat) (b : Bytes) : (takeAnnounce x b s).mem = s.mem := by
  unfold takeAnnounce; simp only []; (repeat' split) <;> simp

@[simp] theorem sendPtp_mem (x : Fin 4) (m : PtpMsg) (n : Nat) : (sendPtp x m n s).mem = s.mem := by simp [sendPtp]

@[simp] theorem takeTime_mem (x : Fin 4) (b : Bytes) : (takeTime x b s).mem = s.mem := by
  unfold takeTime; (repeat' split) <;> simp

@[simp] theorem ppsPulse_mem : (ppsPulse s).mem = s.mem := by simp [ppsPulse]
@[simp] theorem timerSet_mem (k : Nat) (t : Timer) : (timerSet k t s).mem = s.mem := by simp [timerSet]
@[simp] theorem t1Start_mem (x : Nat) : (t1Start x s).mem = s.mem := by simp [t1Start]
@[simp] theorem t1Stop_mem (x : Nat) : (t1Stop x s).mem = s.mem := by simp [t1Stop]
@[simp] theorem firstSafety_mem (x : Nat) : (firstSafety x s).mem = s.mem := by simp [firstSafety]
@[simp] theorem noteSent_mem (l : Launch) : (noteSent l s).mem = s.mem := by unfold noteSent; split <;> simp
@[simp] theorem fabStart_mem (p : Nat) : (fabStart p s).mem = s.mem := by simp [fabStart]

@[simp] theorem discover_mem (p : Nat) : (discover p s).mem = s.mem := by
  rw [discover]
  exact forEach_mem_of s _ _ fun m s t ht => by rw [ht, newReq_mem, emitFabric_mem]

@[simp] theorem restartKept_mem : (restartKept s).mem = s.mem := by simp [restartKept]
@[simp] theorem settleWake_mem : (settleWake s).mem = s.mem := by simp [settleWake]
@[simp] theorem countBubbles_mem : (countBubbles s).mem = s.mem := by simp [countBubbles]
@[simp] theorem weirRule_mem (regions : List Nat) : (weirRule regions s).mem = s.mem := by simp [weirRule]
@[simp] theorem stopIngest_mem : (stopIngest s).mem = s.mem := by simp [stopIngest]
@[simp] theorem domainsReturn_mem : (domainsReturn s).mem = s.mem := by simp [domainsReturn]
@[simp] theorem regionThermal_mem (r : Nat) : (regionThermal r s).mem = s.mem := by simp [regionThermal]
@[simp] theorem ioTrip_mem : (ioTrip s).mem = s.mem := by simp [ioTrip]

@[simp] theorem spoilWellhead_mem : (spoilWellhead s).mem = s.mem := by
  unfold spoilWellhead; simp only []; (repeat' split) <;> simp

@[simp] theorem spoilSolver_mem : (spoilSolver s).mem = s.mem := by simp [spoilSolver]
@[simp] theorem spoilNext_mem (code : Nat) : (spoilNext code s).mem = s.mem := by simp [spoilNext]
@[simp] theorem notePass_mem : (notePass s).mem = s.mem := by simp [notePass]
@[simp] theorem passPart_mem (t part : Nat) : (passPart t part s).mem = s.mem := by simp [passPart]
@[simp] theorem leaveSafe_mem : (leaveSafe s).mem = s.mem := by simp [leaveSafe]
@[simp] theorem defaultConfig_mem : (defaultConfig s).mem = s.mem := by simp [defaultConfig]
@[simp] theorem finishChange_mem : (finishChange s).mem = s.mem := by unfold finishChange; split <;> simp
@[simp] theorem reapply_mem (u : BitVec 32) : (reapply u s).mem = s.mem := by unfold reapply; split <;> simp
@[simp] theorem reachRecovery_mem : (reachRecovery s).mem = s.mem := by simp [reachRecovery]
@[simp] theorem losePending_mem : (losePending s).mem = s.mem := by simp [losePending]
@[simp] theorem powerUp_mem : (powerUp s).mem = s.mem := by simp [powerUp]
@[simp] theorem updateBegin_mem (k : Nat) : (updateBegin k s).mem = s.mem := by simp [updateBegin]
@[simp] theorem updateAbort_mem : (updateAbort s).mem = s.mem := by simp [updateAbort]
@[simp] theorem drawNonce_snd_mem : (drawNonce s).2.mem = s.mem := by unfold drawNonce; split <;> simp
@[simp] theorem newChallenge_mem : (newChallenge s).mem = s.mem := by simp [newChallenge]
@[simp] theorem roundFree_snd_mem (x : Rat) : (roundFree x s).2.mem = s.mem := by simp [roundFree]

@[simp] theorem readValue_snd_mem (k idx sub : Nat) : (readValue k idx sub s).2.mem = s.mem := by
  unfold readValue; simp only []; (repeat' split) <;> simp

@[simp] theorem respond_mem (k : Nat) (s0 : State) (r : Reply) : (respond k s0 r s).mem = s.mem := by simp [respond]
@[simp] theorem heardFrom_mem (k : Nat) : (heardFrom k s).mem = s.mem := by simp [heardFrom]

@[simp] theorem refuseSeq_mem (k : Nat) (seq : BitVec 32) (src : Bytes) : (refuseSeq k seq src s).mem = s.mem := by
  simp [refuseSeq]

@[simp] theorem takeReq_mem (k : Nat) (seq : BitVec 32) (src : Bytes) : (takeReq k seq src s).mem = s.mem := by
  simp [takeReq]

@[simp] theorem openReply_mem (x : Fin 4) (src : Bytes) (code : BitVec 32) (id rights : Nat) :
    (openReply x src code id rights s).mem = s.mem := by
  simp [openReply]

@[simp] theorem openSession_mem (x : Fin 4) (src : Bytes) (client : BitVec 8) : (openSession x src client s).mem = s.mem := by
  unfold openSession; simp only []; (repeat' split) <;> simp

@[simp] theorem bareFrame_mem (k ty : Nat) (src : Bytes) : (bareFrame k ty src s).mem = s.mem := by simp [bareFrame]
@[simp] theorem ackFrame_mem (k : Nat) (seq : BitVec 32) : (ackFrame k seq s).mem = s.mem := by simp [ackFrame]
@[simp] theorem dropRecord_mem (tag : BitVec 32) : (dropRecord tag s).mem = s.mem := by simp [dropRecord]

@[simp] theorem sendNotify_mem (k : Nat) (n : Notify) : (sendNotify k n s).mem = s.mem := by
  unfold sendNotify; split <;> simp

@[simp] theorem t1Answer_mem (x : Fin 4) (f : Bytes) : (t1Answer x f s).mem = s.mem := by simp [t1Answer]
@[simp] theorem fabricAnswer_mem (p : Fin 3) (f : Bytes) : (fabricAnswer p f s).mem = s.mem := by simp [fabricAnswer]
@[simp] theorem takePfc_mem (p time : Nat) : (takePfc p time s).mem = s.mem := by simp [takePfc]

end Sys2Proof.Machine
end

section
/-!
PROOF. Memory under the named operations, one lemma each: those that write it keep its canonical form.
-/

namespace Sys2Proof.Machine

open Claims

variable (s : State)

/-! ## Folds, branches and the operations on memory itself -/

@[simp] theorem forEach_wf {α : Type} (l : List α) (f : α → State → State) (hf : ∀ a s, s.mem.wf = true → (f a s).mem.wf = true)
    (h : s.mem.wf = true) : (forEach l f s).mem.wf = true :=
  forEach_rel (fun s t => s.mem.wf = true → t.mem.wf = true) (fun _ h => h) (fun _ _ _ h k h' => k (h h')) f l (fun a _ s => hf a s) s h

@[simp] theorem foldl_wf {α : Type} (l : List α) (f : State → α → State) (hf : ∀ a s, s.mem.wf = true → (f s a).mem.wf = true)
    (h : s.mem.wf = true) : (l.foldl f s).mem.wf = true :=
  forEach_wf s l (fun a s => f s a) hf h

/-- A fold that carries a value beside the state. -/
theorem foldl_snd_wf {α β : Type} (l : List α) (f : β × State → α → β × State)
    (hf : ∀ a acc, acc.2.mem.wf = true → (f acc a).2.mem.wf = true) (acc : β × State) (h : acc.2.mem.wf = true) :
    (l.foldl f acc).2.mem.wf = true := by
  induction l generalizing acc with
  | nil => exact h
  | cons a l ih => exact ih _ (hf a acc h)

@[simp] theorem wf_ite (c : Prop) [Decidable c] (m n : Memory) :
    Memory.wf (if c then m else n) = if c then Memory.wf m else Memory.wf n :=
  apply_ite Memory.wf c m n

@[simp] theorem poke_wf (a : Nat) (b : Bytes) (h : s.mem.wf = true) : (poke a b s).mem.wf = true := memWrite_wf _ _ _ h
@[simp] theorem wipe_wf (a n : Nat) (h : s.mem.wf = true) : (wipe a n s).mem.wf = true := memWipe_wf _ _ _ h

/-- Every state that an outcome of a write holds has its memory in canonical form. -/
def WRes.MemWf : WRes → Prop
  | .abort _ => True
  | .done _ u => u.mem.wf = true
  | .wait u => u.mem.wf = true

/-- Every state that an outcome of a request holds has its memory in canonical form. -/
def ReqRes.MemWf : ReqRes → Prop
  | .abort _ u => u.mem.wf = true
  | .done _ u => u.mem.wf = true
  | .wait u => u.mem.wf = true

@[simp] theorem WRes.memWf_abort (c : BitVec 32) : (WRes.abort c).MemWf := trivial
@[simp] theorem WRes.memWf_done (d : Bytes) : (WRes.done d s).MemWf ↔ s.mem.wf = true := Iff.rfl
@[simp] theorem WRes.memWf_wait : (WRes.wait s).MemWf ↔ s.mem.wf = true := Iff.rfl
@[simp] theorem ReqRes.memWf_abort (c : BitVec 32) : (ReqRes.abort c s).MemWf ↔ s.mem.wf = true := Iff.rfl
@[simp] theorem ReqRes.memWf_done (r : Reply) : (ReqRes.done r s).MemWf ↔ s.mem.wf = true := Iff.rfl
@[simp] theorem ReqRes.memWf_wait : (ReqRes.wait s).MemWf ↔ s.mem.wf = true := Iff.rfl

@[simp] theorem WRes.memWf_ite (c : Prop) [Decidable c] (a b : WRes) :
    (if c then a else b).MemWf = if c then a.MemWf else b.MemWf :=
  apply_ite WRes.MemWf c a b

@[simp] theorem ReqRes.memWf_ite (c : Prop) [Decidable c] (a b : ReqRes) :
    (if c then a else b).MemWf = if c then a.MemWf else b.MemWf :=
  apply_ite ReqRes.MemWf c a b

@[simp] theorem pokeCistern_wf (a : Nat) (bs : Bytes) (h : s.mem.wf = true) : (pokeCistern a bs s).mem.wf = true := by
  simp [pokeCistern, h]

@[simp] theorem copyCistern_wf (src dst n : Nat) (h : s.mem.wf = true) : (copyCistern src dst n s).mem.wf = true := by
  rw [copyCistern, healLines_mem]
  exact memCopy_wf _ _ _ _ h

@[simp] theorem entryMod_wf (e : Nat) (f : Entry → Entry) (h : s.mem.wf = true) : (entryMod e f s).mem.wf = true := by
  simp [entryMod, h]

@[simp] theorem reclaimEntry_wf (e : Nat) (h : s.mem.wf = true) : (reclaimEntry e s).mem.wf = true := by
  simp [reclaimEntry, h]

@[simp] theorem reserveEntry_snd_wf (p : Nat) (staging : Bool) (h : s.mem.wf = true) :
    (reserveEntry p staging s).2.mem.wf = true := by
  simp [reserveEntry, h]

@[simp] theorem reclaim_wf (h : s.mem.wf = true) : (reclaim s).mem.wf = true := by
  rw [reclaim]
  split
  · exact h
  · exact forEach_wf _ _ _ (fun e s hs => reclaimEntry_wf s e hs) (forEach_wf _ _ _ (fun e s hs => reclaimEntry_wf s e hs) h)

@[simp] theorem endCycle_wf (h : s.mem.wf = true) : (endCycle s).mem.wf = true := by simp [endCycle, h]
@[simp] theorem seqPut_wf (n : Nat) (q : Seq) (h : s.mem.wf = true) : (seqPut n q s).mem.wf = true := by simp [seqPut, h]

@[simp] theorem seqOpenOp_snd_wf (p cls owner : Nat) (h : s.mem.wf = true) : (seqOpenOp p cls owner s).2.mem.wf = true := by
  simp [seqOpenOp, h]

@[simp] theorem seqForkOp_snd_wf (q : Seq) (n cls : Nat) (h : s.mem.wf = true) : (seqForkOp q n cls s).2.mem.wf = true := by
  unfold seqForkOp
  simp only
  refine seqPut_wf _ _ _ (forEach_wf _ _ _ (fun e s hs => entryMod_wf s _ _ hs) (forEach_wf _ _ _ (fun e s hs => entryMod_wf s _ _ hs) ?_))
  rw [freshSeq_snd_mem]
  exact h

@[simp] theorem seqCloseOp_wf (n : Nat) (h : s.mem.wf = true) : (seqCloseOp n s).mem.wf = true := by
  unfold seqCloseOp; split <;> simp +contextual [h]

@[simp] theorem dropEntry_wf (e : Nat) (h : s.mem.wf = true) : (dropEntry e s).mem.wf = true := by simp [dropEntry, h]

@[simp] theorem releasePins_wf (j : Job) (h : s.mem.wf = true) : (releasePins j s).mem.wf = true := by
  simp +contextual [releasePins, h]

@[simp] theorem seqView_snd_wf (j : Job) (n : Nat) (h : s.mem.wf = true) : (seqView j n s).2.mem.wf = true := by
  unfold seqView; split <;> simp [h]

@[simp] theorem writeViews_wf (j : Job) (h : s.mem.wf = true) : (writeViews j s).mem.wf = true := by
  unfold writeViews
  split
  · exact h
  · refine forEach_wf _ _ _ (fun a s hs => ?_) h
    simp only
    split
    · simp [hs]
    · exact pokeCistern_wf _ _ _ (forEach_wf _ _ _ (fun b s hs => by simp [hs]) hs)

@[simp] theorem publishAppend_wf (j : Job) (n : Nat) (h : s.mem.wf = true) : (publishAppend j n s).mem.wf = true := by
  unfold publishAppend
  split
  · exact h
  next q _ =>
    extract_lets tp len flushed full stripsAt tailOpen tail r r2 s1 left s2 st
    have hr : r.2.mem.wf = true := by
      unfold r
      split
      · exact h
      · split
        · dsimp only
          rw [count_mem]
          exact entryMod_wf _ _ _ (entryMod_wf _ _ _ h)
        · dsimp only
          exact entryMod_wf _ _ _ h
        · exact h
    have hr2 : s1.mem.wf = true := by
      unfold s1 r2
      rw [count_mem]
      refine foldl_snd_wf _ _ (fun c acc hacc => ?_) _ hr
      dsimp only
      exact entryMod_wf _ _ _ hacc
    have hs2 : s2.mem.wf = true := by
      unfold s2
      split
      · dsimp only
        exact entryMod_wf _ _ _ (by rw [ite_mem, count_mem, ite_self]; exact hr2)
      · exact hr2
    refine seqPut_wf _ _ _ ?_
    unfold st
    split
    · dsimp only
      exact entryMod_wf s2 _ _ hs2
    · exact forEach_wf _ _ _ (fun e s hs => entryMod_wf s _ _ hs) hr2
    · exact hr2

@[simp] theorem publishRecompute_wf (r : Resv) (h : s.mem.wf = true) : (publishRecompute r s).mem.wf = true := by
  rw [publishRecompute]; (repeat' split) <;> simp [h]

@[simp] theorem publishPages_wf (j : Job) (h : s.mem.wf = true) : (publishPages j s).mem.wf = true := by
  unfold publishPages
  simp only
  refine reclaim_wf _ (forEach_wf _ _ _ (fun i s hs => ?_) ?_)
  · rw [jmod_mem]
    exact forEach_wf _ _ _ (fun e s hs => entryMod_wf s _ _ hs) hs
  · refine forEach_wf _ _ _ (fun u s hs => publishAppend_wf s _ _ hs) ?_
    split
    · exact forEach_wf _ _ _ (fun r s hs => publishRecompute_wf s _ hs) h
    · exact h

@[simp] theorem writeTable_wf (p : Nat) (h : s.mem.wf = true) : (writeTable p s).mem.wf = true := by
  rw [writeTable]
  refine forEach_wf _ _ _ (fun e s hs => pokeCistern_wf s _ _ hs) ?_
  have hw := wipe_wf s (poolOf s p).tableBase (32 * ((poolOf s p).lastIndex + 1)) h
  rw [← healLines_mem] at hw
  split
  · exact hw
  · exact forEach_wf _ _ _ (fun i s hs => poke_wf s _ _ hs) hw

@[simp] theorem reclaimPool_wf (p : Nat) (h : s.mem.wf = true) : (reclaimPool p s).mem.wf = true := by simp [reclaimPool, h]

@[simp] theorem writePlace_wf (w : Actor) (pl : Place) (bs : Bytes) (h : s.mem.wf = true) :
    (writePlace w pl bs s).mem.wf = true := by
  unfold writePlace; (repeat' split) <;> simp +contextual [h]

@[simp] theorem settleDying_wf (h : s.mem.wf = true) : (settleDying s).mem.wf = true := by simp [settleDying, h]

@[simp] theorem dyingFence_wf (ch t : Nat) (h : s.mem.wf = true) : (dyingFence ch t s).mem.wf = true := by
  simp [dyingFence, h]

@[simp] theorem dyingStopped_wf (id ch : Nat) (h : s.mem.wf = true) : (dyingStopped id ch s).mem.wf = true := by
  simp [dyingStopped, h]

@[simp] theorem releaseJob_wf (j : Job) (done : Bool) (h : s.mem.wf = true) : (releaseJob j done s).mem.wf = true := by
  unfold releaseJob; split <;> simp [h]

@[simp] theorem completeJob_wf (tag : BitVec 32) (st : BitVec 8) (h : s.mem.wf = true) : (completeJob tag st s).mem.wf = true := by
  unfold completeJob; split <;> simp [h]

@[simp] theorem flushJob_wf (tag : BitVec 32) (h : s.mem.wf = true) : (flushJob tag s).mem.wf = true := by
  unfold flushJob; split <;> simp [h]

@[simp] theorem enterSafe_wf (cause : Nat) (detail : BitVec 32) (fault : Bool) (h : s.mem.wf = true) :
    (enterSafe cause detail fault s).mem.wf = true := by
  simp +contextual [enterSafe, h]

@[simp] theorem finishJob_wf (tag : BitVec 32) (st : BitVec 8) (h : s.mem.wf = true) : (finishJob tag st s).mem.wf = true := by
  unfold finishJob; split <;> simp [h]

@[simp] theorem failAttempt_wf (tag : BitVec 32) (h : s.mem.wf = true) : (failAttempt tag s).mem.wf = true := by
  unfold failAttempt; split <;> simp [h]

@[simp] theorem programFault_wf (tag : BitVec 32) (h : s.mem.wf = true) : (programFault tag s).mem.wf = true := by
  unfold programFault; split <;> simp [h]

@[simp] theorem loseStream_wf (n : Nat) (st : BitVec 8) (h : s.mem.wf = true) : (loseStream n st s).mem.wf = true := by
  simp +contextual [loseStream, h]

theorem ite_snd_wf {β : Type} (c : Prop) [Decidable c] (x y : β × State) (hx : x.2.mem.wf = true) (hy : y.2.mem.wf = true) :
    (if c then x else y).2.mem.wf = true := by
  split
  · exact hx
  · exact hy

/-- Every state that the outcome of a page grant holds has its memory in canonical form. -/
def PageGrant.MemWf : PageGrant → Prop
  | .granted _ _ u => u.mem.wf = true
  | .short u => u.mem.wf = true

theorem grantPages_wf (names : SeqNames) (h : s.mem.wf = true) : (grantPages names s).MemWf := by
  unfold grantPages
  extract_lets pins needs need all u r
  have hu : u.mem.wf = true := forEach_wf _ _ _ (fun p s hs => forEach_wf _ _ _ (fun e s hs => dropEntry_wf s _ hs) hs) h
  split
  · refine forEach_wf _ _ _ (fun e s hs => entryMod_wf s _ _ hs) ?_
    refine foldl_snd_wf _ _ (fun n acc hacc => ?_) ([], u) hu
    exact reserveEntry_snd_wf acc.2 _ _ hacc
  · show (count 0x7413 7 1 u).mem.wf = true
    rw [count_mem]; exact hu

@[simp] theorem admitPlain_snd_wf (cur : Nat) (a : Arrival) (h : s.mem.wf = true) : (admitPlain cur a s).2.mem.wf = true := by
  unfold admitPlain
  simp only
  refine ite_snd_wf _ _ _ h ?_
  split
  · exact h
  next names _ =>
    iterate 5 refine ite_snd_wf _ _ _ h ?_
    generalize hr : place s cur none _ _ = r
    have hu : r.2.mem.wf = true := by rw [← hr, place_snd_mem]; exact h
    obtain ⟨p, u⟩ := r
    cases p with
    | none b e => exact hu
    | runs rs =>
      simp only
      split
      · rw [count_mem]; exact hu
      · cases names with
        | none => rw [acceptJob_snd_mem]; exact hu
        | some n =>
          have hg := grantPages_wf u n hu
          simp only
          generalize grantPages n u = g at hg ⊢
          cases g with
          | short v => exact hg
          | granted resv pins v => rw [acceptJob_snd_mem]; exact hg

@[simp] theorem decideArrival_snd_wf (cur : Nat) (a : Arrival) (h : s.mem.wf = true) : (decideArrival cur a s).2.mem.wf = true := by
  rw [decideArrival]; (repeat' split) <;> simp [h]

@[simp] theorem startPlain_wf (j : Job) (h : s.mem.wf = true) : (startPlain j s).mem.wf = true := by
  unfold startPlain
  extract_lets moving swapped s1 j1 bound j2 s2 s3
  have h2 : s2.mem.wf = true := writeViews_wf _ _ (by rw [takeStaging_mem]; exact h)
  have h3 : s3.mem.wf = true := by
    unfold s3
    split
    · rw [storeRollback_mem]; exact h2
    · exact h2
  have h4 : (recomputeOutcome j2 s3).2.2.mem.wf = true := by rw [recomputeOutcome_snd_mem]; exact h3
  split
  · rw [count_mem, jmod_mem]; exact h
  · split
    · rw [deferJob_mem]; exact h
    · split
      · rw [deferJob_mem]; exact h
      · simp only
        split
        · exact finishJob_wf _ _ _ h4
        · rw [forEach_mem _ _ _ fun b s => startOn_mem s _ _, jmod_mem]
          exact h4

@[simp] theorem startService_wf (j : Job) (v : Service) (h : s.mem.wf = true) : (startService j v s).mem.wf = true := by
  rw [startService]; (repeat' split) <;> simp [h]

@[simp] theorem writeImage_wf (m a : Nat) (bs : Bytes) (h : s.mem.wf = true) : (writeImage m a bs s).mem.wf = true := by
  simp [writeImage, h]

@[simp] theorem exportSome_wf (k : Nat) (tag : BitVec 32) (h : s.mem.wf = true) : (exportSome k tag s).mem.wf = true := by
  unfold exportSome
  split
  · exact h
  · split
    · simp only
      split
      · exact h
      · rw [jmod_mem]; exact writeImage_wf s _ _ _ h
    · exact h

@[simp] theorem serviceTransfer_wf (cur : Nat) (tag : BitVec 32) (h : s.mem.wf = true) :
    (serviceTransfer cur tag s).mem.wf = true := by
  unfold serviceTransfer; split <;> simp [h]

@[simp] theorem startJob_wf (tag : BitVec 32) (h : s.mem.wf = true) : (startJob tag s).mem.wf = true := by
  rw [startJob]; (repeat' split) <;> simp [h]

@[simp] theorem saveJob_wf (tag : BitVec 32) (h : s.mem.wf = true) : (saveJob tag s).mem.wf = true := by
  unfold saveJob; split <;> simp [h]

@[simp] theorem pokeRecord_wf (t : Nat) (r : SaveRecord) (h : s.mem.wf = true) : (pokeRecord t r s).mem.wf = true := by
  simp [pokeRecord, h]

@[simp] theorem overrunJob_wf (cur : Nat) (tag : BitVec 32) (h : s.mem.wf = true) : (overrunJob cur tag s).mem.wf = true := by
  rw [overrunJob]; (repeat' split) <;> simp [h]

@[simp] theorem keepAtRisk_wf (cur : Nat) (j : Job) (w : Want) (h : s.mem.wf = true) : (keepAtRisk cur j w s).mem.wf = true := by
  simp [keepAtRisk, h]

@[simp] theorem replanJob_wf (cur : Nat) (tag : BitVec 32) (h : s.mem.wf = true) : (replanJob cur tag s).mem.wf = true := by
  unfold replanJob
  split
  · exact h
  · simp only
    generalize hr : (if (replanNeeds s cur _).2.2 = true then _ else _ : Placed × State) = r
    have hm : r.2.mem.wf = true := by
      rw [← hr]
      split
      · exact h
      · rw [place_snd_mem]; exact h
    split
    · exact keepAtRisk_wf _ _ _ _ hm
    · simp only [takeRuns_mem, ite_mem, count_mem, jmod_mem, ite_self]
      exact hm

@[simp] theorem commitStream_snd_wf (j : Job) (v : Service) (h : s.mem.wf = true) : (commitStream j v s).2.mem.wf = true := by
  unfold commitStream
  cases v with
  | exportStream n img target =>
    simp only
    split
    · exact h
    · have h3 : (count 0x7412 5 1 (releaseBlocks n (wipeExport j.targets (writeImage target img
          (imageHead s n (stamp s) (exportBody s j.targets)) (exportSome j.len j.tag s))))).mem.wf = true := by
        rw [count_mem, releaseBlocks_mem, wipeExport_mem]
        exact writeImage_wf _ _ _ _ (exportSome_wf s _ _ h)
      split
      · exact h3
      · exact forEach_wf _ _ _ (fun c s hs => by rw [count_mem]; exact finishJob_wf s _ _ hs) h3
  | importStream n a part q =>
    simp only
    split
    · exact h
    · split
      · simp [h]
      · split
        · simp [h]
        · split
          · simp [h]
          · split
            · simp [h]
            · simp [h]
  | _ => 
    simp only
    repeat' split
    all_goals simp [h]

@[simp] theorem publishService_wf (j : Job) (v : Service) (h : s.mem.wf = true) : (publishService j v s).mem.wf = true := by
  unfold publishService; simp only []; (repeat' split) <;> simp +contextual [h]

@[simp] theorem publishOutput_wf (o : Nat × Extent) (h : s.mem.wf = true) : (publishOutput o s).mem.wf = true := by
  simp [publishOutput, h]

@[simp] theorem publishOutputs_wf (j : Job) (h : s.mem.wf = true) : (publishOutputs j s).mem.wf = true := by
  simp +contextual [publishOutputs, h]

@[simp] theorem pathEvent_wf (tag : BitVec 32) (entry : Nat) (h : s.mem.wf = true) : (pathEvent tag entry s).mem.wf = true := by
  rw [pathEvent]; (repeat' split) <;> simp [h]

@[simp] theorem tierFaultAt_wf (tag : BitVec 32) (entry : Nat) (kind : TierFaultKind) (h : s.mem.wf = true) :
    (tierFaultAt tag entry kind s).mem.wf = true := by
  rw [tierFaultAt]; (repeat' split) <;> simp [h]

@[simp] theorem fabricOut_wf (p : Nat) (st : BitVec 8) (h : s.mem.wf = true) : (fabricOut p st s).mem.wf = true := by
  rw [fabricOut]
  simp only [ite_mem, callReplan_mem, ite_self]
  refine foldl_wf _ _ _ (fun c s hs => ?_) (by rw [fabmod_mem]; exact h)
  split
  · split
    · exact tierFaultAt_wf s _ _ _ hs
    · exact hs
  · exact hs

@[simp] theorem blockRetire_wf (running : List Nat) (t n b : Nat) (h : s.mem.wf = true) :
    (blockRetire running t n b s).mem.wf = true := by
  simp [blockRetire, h]

@[simp] theorem tilesRetire_wf (ts : List Nat) (h : s.mem.wf = true) : (tilesRetire ts s).mem.wf = true := by
  unfold tilesRetire
  refine forEach_wf _ _ _ (fun t s hs => forEach_wf _ _ _ (fun b s hs => blockRetire_wf s _ _ _ _ hs) hs) ?_
  simp [h]

@[simp] theorem assignSpares_wf (h : s.mem.wf = true) : (assignSpares s).mem.wf = true := by
  unfold assignSpares
  refine forEach_wf _ _ _ (fun n s hs => forEach_wf _ _ _ (fun m s hs => ?_) hs) h
  split
  · split
    · simp [hs]
    · exact loseStream_wf s _ _ hs
  · exact hs

@[simp] theorem laneRetire_wf (p lane : Nat) (h : s.mem.wf = true) : (laneRetire p lane s).mem.wf = true := by
  simp [laneRetire, h]

@[simp] theorem bankRetire_wf (k bank : Nat) (h : s.mem.wf = true) : (bankRetire k bank s).mem.wf = true := by
  simp [bankRetire, h]

@[simp] theorem t1Retire_wf (x : Nat) (u : BitVec 32) (h : s.mem.wf = true) : (t1Retire x u s).mem.wf = true := by
  simp [t1Retire, h]

@[simp] theorem retireEffect_wf (u : BitVec 32) (h : s.mem.wf = true) : (retireEffect u s).mem.wf = true := by
  unfold retireEffect; split <;> simp [h]

@[simp] theorem enterTable_wf (u : BitVec 32) (h : s.mem.wf = true) : (enterTable u s).mem.wf = true := by
  simp [enterTable, h]

@[simp] theorem retireUnit_wf (u : BitVec 32) (h : s.mem.wf = true) : (retireUnit u s).mem.wf = true := by
  simp [retireUnit, h]

@[simp] theorem blockError_wf (u : BitVec 32) (cause : EventCause) (h : s.mem.wf = true) : (blockError u cause s).mem.wf = true := by
  simp +contextual [blockError, h]

@[simp] theorem failureEvent_wf (u : BitVec 32) (cause : EventCause) (confirmed : Bool) (job : Option (BitVec 32)) (h : s.mem.wf = true) :
    (failureEvent u cause confirmed job s).mem.wf = true := by
  unfold failureEvent
  simp only
  generalize (confirmed || permanentByCount _) = permanent
  generalize ha : blockError u cause _ = a
  have h1 : a.mem.wf = true := by
    rw [← ha]
    exact blockError_wf _ _ _ (by simp [h])
  cases job with
  | none => cases permanent <;> simp [h1]
  | some tag => cases permanent <;> simp [failAttempt_wf _ _ h1]

@[simp] theorem mirrorTile_wf (pl : Place) (bs : Bytes) (h : s.mem.wf = true) : (mirrorTile s pl bs).mem.wf = true := by
  cases pl with
  | tile a =>
    rw [mirrorTile]
    split
    · exact poke_wf s _ _ h
    · exact h
  | _ => exact h

@[simp] theorem descriptorBad_wf (job : Option (BitVec 32)) (h : s.mem.wf = true) : (descriptorBad job s).mem.wf = true := by
  unfold descriptorBad; split <;> simp [h]

@[simp] theorem runDescriptor_wf (ch : Nat) (p : Posted) (h : s.mem.wf = true) : (runDescriptor ch p s).mem.wf = true := by
  unfold runDescriptor
  have hd := siphonData_snd_mem s p.actor (parseSiphon p.desc)
  simp only
  generalize siphonData p.actor (parseSiphon p.desc) s = r at hd ⊢
  generalize (if p.dead.isSome = true then none else p.job) = job
  generalize placeOf s (parseSiphon p.desc).dst (dstSpan (parseSiphon p.desc)) = dst
  generalize poisonHit s p.actor _ _ = hit
  obtain ⟨data, u⟩ := r
  have hu : u.mem.wf = true := by rw [hd]; exact h
  cases data with
  | none => exact descriptorBad_wf u _ hu
  | some data =>
    simp only
    generalize (if (parseSiphon p.desc).dstFixed = true then data.drop (data.length - 8) else data) = data
    split
    · cases job with
      | none => exact hu
      | some tag => exact programFault_wf _ _ hu
    · have hw : (noteTarget ch (targetOf dst) (mirrorTile (writePlace p.actor dst data (count 0x741b 9 1 u)) dst data)).mem.wf = true := by
        rw [noteTarget_mem]
        exact mirrorTile_wf _ _ _ (writePlace_wf _ _ _ _ hu)
      split
      · exact failureEvent_wf _ _ _ _ _ (by rw [ite_mem, raiseEvent_mem, ite_self]; exact hw)
      · rw [ite_mem, raiseEvent_mem, ite_self]
        exact hw

@[simp] theorem headDone_wf (ch : Nat) (p : Posted) (h : s.mem.wf = true) : (headDone ch p s).mem.wf = true := by
  unfold headDone; split <;> simp [h]

@[simp] theorem descriptorDone_wf (ch : Nat) (h : s.mem.wf = true) : (descriptorDone ch s).mem.wf = true := by
  unfold descriptorDone
  split
  · exact h
  next p _ _ =>
    have hm := meterHead_snd_mem s ch p
    split
    · exact h
    · split
      · simp [h]
      · generalize meterHead ch p s = r at hm ⊢
        obtain ⟨go, u⟩ := r
        have hu : u.mem.wf = true := by rw [hm]; exact h
        cases go
        · exact hu
        · exact headDone_wf _ _ _ (runDescriptor_wf u _ _ hu)

@[simp] theorem fenceReturn_wf (ch t : Nat) (h : s.mem.wf = true) : (fenceReturn ch t s).mem.wf = true := by
  rw [fenceReturn]; (repeat' split) <;> simp [h]

@[simp] theorem dropFence_wf (t ch : Nat) (h : s.mem.wf = true) : (dropFence t ch s).mem.wf = true := by
  rw [dropFence]; (repeat' split) <;> simp [h]

@[simp] theorem replicaPoke_wf (off : Nat) (bs : Bytes) (h : s.mem.wf = true) : (replicaPoke off bs s).mem.wf = true := by
  simp +contextual [replicaPoke, h]

@[simp] theorem mapStart_wf (h : s.mem.wf = true) : (mapStart s).mem.wf = true := by
  rw [mapStart]
  split
  · exact h
  · exact replicaPoke_wf _ _ _ (replicaPoke_wf _ _ _ (replicaPoke_wf _ _ _ (replicaPoke_wf _ _ _ h)))

theorem applyBrick_wf (e : Nat × Nat × Nat) (acc : List (Nat × Nat) × List Nat × State) (h : acc.2.2.mem.wf = true) :
    (applyBrick e acc).2.2.mem.wf = true := by
  unfold applyBrick
  simp only
  split
  · exact h
  · exact replicaPoke_wf _ _ _ h

theorem applyBrick_foldl_wf (es : List (Nat × Nat × Nat)) (acc : List (Nat × Nat) × List Nat × State) (h : acc.2.2.mem.wf = true) :
    (es.foldl (fun acc e => applyBrick e acc) acc).2.2.mem.wf = true := by
  induction es generalizing acc with
  | nil => exact h
  | cons e es ih => exact ih _ (applyBrick_wf e acc h)

@[simp] theorem writeApply_wf (a : Apply) (h : s.mem.wf = true) : (writeApply a s).mem.wf = true := by simp [writeApply, h]

@[simp] theorem mapApply_wf (h : s.mem.wf = true) : (mapApply s).mem.wf = true := by
  rw [mapApply]
  split
  · exact h
  · split
    · split
      · rw [count_mem]; exact h
      · exact writeApply_wf _ _ (by rw [takeTails_mem, count_mem]; exact h)
    · simp only
      split
      · rw [count_mem]; exact h
      · exact writeApply_wf _ _ (by rw [takeTails_mem]; exact applyBrick_foldl_wf _ _ h)

@[simp] theorem mapBoundary_wf (n : Nat) (h : s.mem.wf = true) : (mapBoundary n s).mem.wf = true := by simp [mapBoundary, h]
@[simp] theorem flipMap_wf (a : Apply) (h : s.mem.wf = true) : (flipMap a s).mem.wf = true := by simp [flipMap, h]

@[simp] theorem closeRound_wf (ch : Nat) (h : s.mem.wf = true) : (closeRound ch s).mem.wf = true := by
  simp +contextual [closeRound, h]

@[simp] theorem publishSlot_wf (ch sl : Nat) (b : Bytes) (h : s.mem.wf = true) : (publishSlot ch sl b s).mem.wf = true := by
  rw [publishSlot]; (repeat' split) <;> simp [h]

@[simp] theorem deliverOutput_wf (ch : Nat) (round : BitVec 32) (status : Nat) (win : Option (Nat × Cand)) (kept : List Cand) (st : BitVec 32) (h : s.mem.wf = true) :
    (deliverOutput ch round status win kept st s).mem.wf = true := by
  unfold deliverOutput; simp only []; (repeat' split) <;> simp +contextual [h]

@[simp] theorem releaseRound_wf (ch : Nat) (st : BitVec 32) (h : s.mem.wf = true) : (releaseRound ch st s).mem.wf = true := by
  simp +contextual [releaseRound, h]

@[simp] theorem watchChannel_wf (st : BitVec 32) (ch : Nat) (h : s.mem.wf = true) : (watchChannel st ch s).mem.wf = true := by
  rw [watchChannel]; (repeat' split) <;> simp [h]

@[simp] theorem selectorTakeIn_wf (staged : Tbl (BitVec 8)) (h : s.mem.wf = true) : (selectorTakeIn staged s).mem.wf = true := by
  rw [selectorTakeIn]
  refine forEach_wf _ _ _ (fun ch s hs => ?_) h
  split
  · exact hs
  · exact forEach_wf _ _ _ (fun sl s hs => publishSlot_wf s _ _ _ hs) hs

@[simp] theorem fusionCycle_wf (t : Nat) (h : s.mem.wf = true) : (fusionCycle t s).mem.wf = true := by
  unfold fusionCycle
  simp only [ite_mem, raiseEvent_mem, notifySubs_mem, ite_self, count_mem]
  refine forEach_wf _ _ _ (fun g s hs => ?_) (pokeCistern_wf _ _ _ ?_)
  · split
    · exact pokeCistern_wf _ _ _ (pokeCistern_wf _ _ _ hs)
    · exact pokeCistern_wf _ _ _ hs
  · show (forEach _ _ s).mem.wf = true
    rw [forEach_mem _ _ _ fun x s => by split <;> simp]
    exact h

@[simp] theorem trigger_wf (cause : Nat) (detail : BitVec 32) (h : s.mem.wf = true) : (trigger cause detail s).mem.wf = true := by
  simp [trigger, h]

@[simp] theorem solverInvalid_wf (o : SolverOut) (h : s.mem.wf = true) : (solverInvalid o s).mem.wf = true := by
  simp [solverInvalid, h]

@[simp] theorem solverOutput_wf (h : s.mem.wf = true) : (solverOutput s).mem.wf = true := by
  unfold solverOutput; split <;> simp [h]

@[simp] theorem invalidSample_wf (n reason : Nat) (h : s.mem.wf = true) : (invalidSample n reason s).mem.wf = true := by
  simp [invalidSample, h]

@[simp] theorem sampleAxis_snd_wf (at_ g n : Nat) (h : s.mem.wf = true) : (sampleAxis at_ g n s).2.mem.wf = true := by
  unfold sampleAxis; simp only []; (repeat' split) <;> simp +contextual [h]

@[simp] theorem outputDue_wf (at_ : Nat) (h : s.mem.wf = true) : (outputDue at_ s).mem.wf = true := by simp [outputDue, h]

@[simp] theorem groupSample_wf (g at_ : Nat) (h : s.mem.wf = true) : (groupSample g at_ s).mem.wf = true := by
  unfold groupSample
  simp only [ite_mem, ite_self]
  refine foldl_snd_wf _ _ (fun n acc hacc => ?_) ([], outputDue at_ s) (outputDue_wf s at_ h)
  exact sampleAxis_snd_wf acc.2 at_ g n hacc

@[simp] theorem notReady_wf (n : Nat) (h : s.mem.wf = true) : (notReady n s).mem.wf = true := by
  unfold notReady
  split
  · exact h
  · refine invalidSample_wf _ _ _ ?_
    rw [axisMod_mem]
    split
    · rw [count_mem]; exact h
    · exact h

@[simp] theorem handOff_wf (f : SetFrame) (late : BitVec 16) (h : s.mem.wf = true) : (handOff f late s).mem.wf = true := by
  unfold handOff
  simp only [offerLaunch_mem]
  exact forEach_wf _ _ _ (fun n s hs => notReady_wf s _ hs) h

@[simp] theorem illegalOp_wf (t : Nat) (h : s.mem.wf = true) : (illegalOp t s).mem.wf = true := by
  rw [illegalOp]; (repeat' split) <;> simp [h]

@[simp] theorem undefinedOp_wf (t : Nat) (h : s.mem.wf = true) : (undefinedOp t s).mem.wf = true := by simp [undefinedOp, h]

/-- An instruction keeps memory canonical if what its operation stores does. -/
theorem issue_wf (t : Nat) (op : Bool → Memory → Tile → Option TileOut) (h : s.mem.wf = true)
    (hop : ∀ r, op (zgateOn s t) s.mem (tileOf s t) = some r → r.mem.wf = true) : (issue t op s).mem.wf = true := by
  rw [issue]
  split
  · exact h
  · split
    · exact illegalOp_wf s t h
    next r hr =>
      rw [chargeCycles_mem, tmod_mem]
      show Memory.wf (if _ then s.mem else r.mem) = true
      rw [wf_ite, h, hop r hr, ite_self]

theorem sequence_wf (op t : Nat) (f : TileFields) (go : State → State) (h : s.mem.wf = true) (hgo : (go s).mem.wf = true) :
    (sequence op t f go s).mem.wf = true := by
  rw [sequence]
  split
  · exact h
  · split
    · exact illegalOp_wf s t h
    · exact hgo

@[simp] theorem lastTaskEnded_wf (tag : BitVec 32) (h : s.mem.wf = true) : (lastTaskEnded tag s).mem.wf = true := by
  unfold lastTaskEnded; (repeat' split) <;> simp +contextual [h]

@[simp] theorem endTask_wf (t : Nat) (h : s.mem.wf = true) : (endTask t s).mem.wf = true := by
  unfold endTask; simp only []; (repeat' split) <;> simp +contextual [h]

@[simp] theorem postDma_wf (t : Nat) (f : TileFields) (h : s.mem.wf = true) : (postDma t f s).mem.wf = true := by
  rw [postDma]; (repeat' split) <;> simp [h]

@[simp] theorem settleArrival_wf (cur : Nat) (a : Arrival) (h : s.mem.wf = true) : (settleArrival cur a s).mem.wf = true := by
  unfold settleArrival; split <;> simp [h]

@[simp] theorem finishHead_wf (tag : BitVec 32) (ch : Nat) (h : s.mem.wf = true) : (finishHead tag ch s).mem.wf = true := by
  unfold finishHead
  split
  · split
    · split
      · exact fenceReturn_wf s _ _ h
      · refine headDone_wf _ _ _ (runDescriptor_wf _ _ _ ?_)
        split
        · exact fenceReturn_wf s _ _ h
        · exact h
    · exact h
  · exact h

@[simp] theorem stopCopy_wf (tag : BitVec 32) (c : CopyRun) (h : s.mem.wf = true) : (stopCopy tag c s).mem.wf = true := by
  unfold stopCopy; simp only []; (repeat' split) <;> simp +contextual [h]

@[simp] theorem askCopy_wf (tag : BitVec 32) (c : CopyRun) (h : s.mem.wf = true) : (askCopy tag c s).mem.wf = true := by
  rw [askCopy]; (repeat' split) <;> simp [h]

@[simp] theorem endSave_wf (tag : BitVec 32) (h : s.mem.wf = true) : (endSave tag s).mem.wf = true := by
  unfold endSave
  split
  · exact h
  next j _ =>
    have hs := forEach_wf s (jobChannels j) (finishHead tag) (fun ch s hs => finishHead_wf s _ _ hs) h
    extract_lets s1 s2 s3 s4 s5
    have h3 : s3.mem.wf = true := by
      refine forEach_wf _ _ _ (fun e s hs => stopCopy_wf s _ _ hs) ?_
      rw [clearFences_mem, forEach_mem _ _ _ fun ch s => fenceWhenDone_mem s _ _]
      exact hs
    have h4 : s4.mem.wf = true := forEach_wf _ _ _ (fun e s hs => pokeRecord_wf s _ _ hs) h3
    split
    · rw [count_mem, jmod_mem]
      show (match j.preimage with | some x => _ | none => s4).mem.wf = true
      cases j.preimage with
      | none => exact h4
      | some x => exact forEach_wf _ _ _ (fun t s hs => copyCistern_wf s _ _ _ hs) h4
    · exact hs

@[simp] theorem loadSaved_wf (j : Job) (m : List (Nat × Nat)) (h : s.mem.wf = true) : (loadSaved j m s).mem.wf = true := by
  unfold loadSaved
  extract_lets recs s1 s2 s3 s4
  have h1 : s1.mem.wf = true := by
    show (match j.preimage with | some x => _ | none => s).mem.wf = true
    cases j.preimage with
    | none => exact h
    | some x => exact forEach_wf _ _ _ (fun t s hs => memCopy_wf _ _ _ _ hs) h
  have h2 : s2.mem.wf = true := by
    show (forEach _ _ s1).mem.wf = true
    rw [forEach_mem _ _ _ fun e s => tmod_mem s _ _]
    exact h1
  rw [forEach_mem _ _ _ fun p s => postTo_mem s _ _]
  exact forEach_wf _ _ _ (fun e s hs => askCopy_wf s _ _ hs) h2

@[simp] theorem restoreJob_wf (tag : BitVec 32) (h : s.mem.wf = true) : (restoreJob tag s).mem.wf = true := by
  rw [restoreJob]; (repeat' split) <;> simp [h]

@[simp] theorem holdChunk_wf (tag : BitVec 32) (h : s.mem.wf = true) : (holdChunk tag s).mem.wf = true := by
  unfold holdChunk; split <;> simp [h]

@[simp] theorem spoilService_wf (sc : Nat) (tag : BitVec 32) (h : s.mem.wf = true) : (spoilService sc tag s).mem.wf = true := by
  simp [spoilService, h]

@[simp] theorem transferSlot_wf (cur : Nat) (tag : BitVec 32) (h : s.mem.wf = true) : (transferSlot cur tag s).mem.wf = true := by
  rw [transferSlot]; (repeat' split) <;> simp [h]

@[simp] theorem boundaryEnds_wf (cur : Nat) (h : s.mem.wf = true) : (boundaryEnds cur s).mem.wf = true := by
  unfold boundaryEnds
  refine forEach_wf _ _ _ (fun t s hs => overrunJob_wf s _ _ hs) (forEach_wf _ _ _ (fun t s hs => holdChunk_wf s _ hs)
    (forEach_wf _ _ _ (fun t s hs => endSave_wf s _ hs) ?_))
  rw [forEach_mem _ _ _ fun t s => jmod_mem s t _]
  exact forEach_wf _ _ _ (fun t s hs => transferSlot_wf s _ _ hs) h

@[simp] theorem yieldSpare_wf (cur : Nat) (tag : BitVec 32) (h : s.mem.wf = true) : (yieldSpare cur tag s).mem.wf = true := by
  rw [yieldSpare]; (repeat' split) <;> simp [h]

@[simp] theorem boundaryPlans_wf (cur : Nat) (h : s.mem.wf = true) : (boundaryPlans cur s).mem.wf = true := by
  unfold boundaryPlans
  exact forEach_wf _ _ _ (fun t s hs => yieldSpare_wf s _ _ hs) (forEach_wf _ _ _ (fun j s hs => replanJob_wf s _ _ hs)
    (assignSpares_wf s h))

@[simp] theorem boundaryDecides_wf (cur : Nat) (h : s.mem.wf = true) : (boundaryDecides cur s).mem.wf = true := by
  simp +contextual [boundaryDecides, h]

@[simp] theorem boundaryStarts_wf (cur : Nat) (h : s.mem.wf = true) : (boundaryStarts cur s).mem.wf = true := by
  unfold boundaryStarts
  refine forEach_wf _ _ _ (fun t s hs => restoreJob_wf s _ hs) (forEach_wf _ _ _ (fun t s hs => saveJob_wf s _ hs)
    (forEach_wf _ _ _ (fun t s hs => ?_) h))
  rw [serviceReq_mem]
  exact startJob_wf s _ hs

@[simp] theorem boundary_wf (cur : Nat) (h : s.mem.wf = true) : (boundary cur s).mem.wf = true := by
  rw [boundary]
  refine mapBoundary_wf _ _ (endCycle_wf _ (boundaryStarts_wf _ _ (boundaryDecides_wf _ _ (boundaryPlans_wf _ _ (boundaryEnds_wf _ _ ?_)))))
  rw [openCycle_mem]
  exact h

@[simp] theorem commitStatus_snd_wf (j : Job) (h : s.mem.wf = true) : (commitStatus j s).2.mem.wf = true := by
  rw [commitStatus]; (repeat' split) <;> simp [h]

@[simp] theorem commitJob_wf (tag : BitVec 32) (h : s.mem.wf = true) : (commitJob tag s).mem.wf = true := by
  rw [commitJob]
  split
  · exact h
  · split
    · exact spoilService_wf s _ _ h
    · rw [jmod_mem]
      refine commitStatus_snd_wf _ _ ?_
      rw [dropReqs_mem, clearFences_mem]
      exact h

@[simp] theorem publishStaged_wf (t : Tbl (BitVec 8)) (h : s.mem.wf = true) : (publishStaged t s).mem.wf = true :=
    overlayFlush_wf t s.mem h

@[simp] theorem publishJob_wf (j : Job) (h : s.mem.wf = true) : (publishJob j s).mem.wf = true := by
  unfold publishJob
  simp only [pumpTakeIn_mem, solverTakeIn_mem, fusionTakeIn_mem]
  refine selectorTakeIn_wf _ _ ?_
  split
  · exact publishService_wf s _ _ h
  · exact publishPages_wf _ _ (publishOutputs_wf _ _ (publishStaged_wf s _ h))

@[simp] theorem dropFences_wf (chs : List Nat) (t : Nat) (h : s.mem.wf = true) : (dropFences chs t s).mem.wf = true := by
  simp +contextual [dropFences, h]

@[simp] theorem arriveCopy_wf (tag : BitVec 32) (entry : Nat) (pl : Place) (b : Bytes) (h : s.mem.wf = true) :
    (arriveCopy tag entry pl b s).mem.wf = true := by
  simp [arriveCopy, h]

@[simp] theorem transportLost_wf (p : Nat) (r : RoceReq) (h : s.mem.wf = true) : (transportLost p r s).mem.wf = true := by
  rw [transportLost]; (repeat' split) <;> simp [h]

@[simp] theorem queueFlush_wf (q : Nat) (h : s.mem.wf = true) : (queueFlush q s).mem.wf = true := by
  simp +contextual [queueFlush, h]

@[simp] theorem queueControl_wf (q code : Nat) (h : s.mem.wf = true) : (queueControl q code s).MemWf := by
  unfold queueControl; split <;> simp [h]

@[simp] theorem cancelJob_wf (q : Nat) (tag : BitVec 32) (h : s.mem.wf = true) : (cancelJob q tag s).MemWf := by
  simp [cancelJob, h]

@[simp] theorem streamDone_wf (h : Nat) (n : Option Nat) (result : Nat) (hs : s.mem.wf = true) :
    (streamDone s h n result).MemWf :=
    hs

@[simp] theorem streamCommand_wf (k : Nat) (b : Bytes) (h : s.mem.wf = true) : (streamCommand k b s).MemWf := by
  unfold streamCommand
  simp only [WRes.memWf_ite]
  have hd : ∀ h' n r, (streamDone s h' n r).MemWf := fun _ _ _ => streamDone_wf s _ _ _ h
  split
  · exact hd _ _ _
  · split
    · simp [hd, h]
    · split
      · exact hd _ _ _
      · simp only [WRes.memWf_ite]
        iterate 2 (split; · exact hd _ _ _)
        split <;> simp [h]

@[simp] theorem seqDone_wf (h : Nat) (n : Option Nat) (result : Nat) (hs : s.mem.wf = true) : (seqDone s h n result).MemWf :=
    hs

@[simp] theorem writeBranch_wf (t : Table) (i : Nat) (b : Option Branch) (h : s.mem.wf = true) :
    (writeBranch t i b s).mem.wf = true := by
  simp [writeBranch, h]

@[simp] theorem emptyBranches_wf (n : Nat) (h : s.mem.wf = true) : (emptyBranches n s).mem.wf = true := by
  unfold emptyBranches
  refine forEach_wf _ _ _ (fun e s hs => forEach_wf _ _ _ (fun b s hs => writeBranch_wf _ _ _ _ ?_) hs) h
  rw [tableMod_mem]
  exact hs

@[simp] theorem seqCommand_wf (k : Nat) (b : Bytes) (h : s.mem.wf = true) : (seqCommand k b s).MemWf := by
  unfold seqCommand
  have hd : ∀ h' n r, (seqDone s h' n r).MemWf := fun _ _ _ => seqDone_wf s _ _ _ h
  simp only [WRes.memWf_ite]
  split
  · exact hd _ _ _
  · split
    · split
      · exact seqDone_wf _ _ _ _ (seqOpenOp_snd_wf s _ _ _ h)
      · exact hd _ _ _
    · split
      · split
        · exact h
        · exact seqDone_wf _ _ _ _ (by rw [count_mem]; exact h)
      · split
        · exact hd _ _ _
        · simp only [WRes.memWf_ite]
          iterate 2 (split; · exact hd _ _ _)
          split
          · simp only [WRes.memWf_ite, hd, seqDone_wf _ _ _ _ (seqForkOp_snd_wf s _ _ _ h), ite_self]
          · simp only [WRes.memWf_ite, hd, WRes.memWf_done, reclaim_wf _ (seqCloseOp_wf _ _ (emptyBranches_wf s _ h)), ite_self]
          · exact hd _ _ _

@[simp] theorem poolWrite_wf (p sub : Nat) (data : Bytes) (h : s.mem.wf = true) : (poolWrite p sub data s).MemWf := by
  unfold poolWrite; simp only []; (repeat' split) <;> simp +contextual [h]

@[simp] theorem tableDone_wf (h : Nat) (n : Option Nat) (result : Nat) (hs : s.mem.wf = true) : (tableDone s h n result).MemWf :=
    hs

@[simp] theorem addBranch_wf (tn : Nat) (q : Seq) (c : TableCmd) (h : s.mem.wf = true) : (addBranch tn q c s).mem.wf = true := by
  unfold addBranch
  split
  · exact h
  · simp only [count_mem]
    refine writeBranch_wf _ _ _ _ ?_
    rw [tableMod_mem]
    exact seqForkOp_snd_wf s _ _ _ h

@[simp] theorem dropBranch_wf (tn : Nat) (b : Nat × Branch) (h : s.mem.wf = true) : (dropBranch tn b s).mem.wf = true := by
  unfold dropBranch; split <;> simp [h]

@[simp] theorem tableBranch_wf (h tn : Nat) (t : Table) (c : TableCmd) (hs : s.mem.wf = true) :
    (tableBranch h tn t c s).MemWf := by
  unfold tableBranch
  have hd : ∀ h' n r, (tableDone s h' n r).MemWf := fun _ _ _ => tableDone_wf s _ _ _ hs
  split
  · exact hd _ _ _
  · simp only [WRes.memWf_ite]
    iterate 3 (split; · exact hd _ _ _)
    exact forEach_wf _ _ _ (fun _ s hs => addBranch_wf s _ _ _ hs) hs

@[simp] theorem tableCommand_wf (k : Nat) (b : Bytes) (h : s.mem.wf = true) : (tableCommand k b s).MemWf := by
  unfold tableCommand
  have hd : ∀ h' n r, (tableDone s h' n r).MemWf := fun _ _ _ => tableDone_wf s _ _ _ h
  have hdrop : ∀ tn l, (forEach l (dropBranch tn) s).mem.wf = true := fun tn l => forEach_wf _ _ _ (fun b s hs => dropBranch_wf s _ _ hs) h
  simp only [WRes.memWf_ite]
  split
  · exact hd _ _ _
  · split
    · split
      · exact hd _ _ _
      next q _ =>
        simp only [WRes.memWf_ite]
        iterate 2 (split; · exact hd _ _ _)
        rw [WRes.memWf_done, healLines_mem]
        refine wipe_wf _ _ _ ?_
        show (freshSeq q.pool s).2.2.mem.wf = true
        rw [freshSeq_snd_mem]; exact h
    · split
      · exact hd _ _ _
      · have hite : ∀ (c : Prop) [Decidable c] (n : Option Nat) (r : Nat) (w : WRes), w.MemWf →
            (if c then tableDone s (parseTableCmd b).2.table.toNat n r else w).MemWf := fun c _ n r w hw => by
          split
          · exact hd _ _ _
          · exact hw
        iterate 3 refine hite _ _ _ _ ?_
        split
        · exact tableBranch_wf s _ _ _ _ h
        · exact hite _ _ _ _ (tableDone_wf _ _ _ _ (reclaim_wf _ (hdrop _ _)))
        · exact hite _ _ _ _ (reclaim_wf _ (hdrop _ _))
        · exact hd _ _ _

@[simp] theorem dirDone_wf (h : Nat) (i : Option Nat) (result : Nat) (hs : s.mem.wf = true) : (dirDone s h i result).MemWf :=
    hs

@[simp] theorem dirCommand_wf (k : Nat) (b : Bytes) (h : s.mem.wf = true) : (dirCommand k b s).MemWf := by
  unfold dirCommand
  have hd : ∀ h' n r, (dirDone s h' n r).MemWf := fun _ _ _ => dirDone_wf s _ _ _ h
  simp only [WRes.memWf_ite]
  split
  · exact hd _ _ _
  · split
    · split
      · exact hd _ _ _
      · exact dirDone_wf _ _ _ _ (by rw [createTensor_mem]; exact h)
    · split
      · exact hd _ _ _
      · simp [hd, h]

@[simp] theorem handOver_wf (ring : Nat) (handed : BitVec 32) (event : Nat) (h : s.mem.wf = true) :
    (handOver ring handed event s).mem.wf = true := by
  simp [handOver, h]

@[simp] theorem camHandover_wf (n : Nat) (h : s.mem.wf = true) : (camHandover n s).mem.wf = true := by
  rw [camHandover]; (repeat' split) <;> simp [h]

@[simp] theorem camFrameStart_wf (n : Nat) (h : s.mem.wf = true) : (camFrameStart n s).mem.wf = true := by
  simp [camFrameStart, h]

@[simp] theorem camFrameEnd_wf (n : Nat) (h : s.mem.wf = true) : (camFrameEnd n s).mem.wf = true := by
  unfold camFrameEnd; split <;> simp [h]

@[simp] theorem camStart_wf (n : Nat) (h : s.mem.wf = true) : (camStart n s).mem.wf = true := by simp [camStart, h]

@[simp] theorem sampleHandover_wf (n : Nat) (h : s.mem.wf = true) : (sampleHandover n s).mem.wf = true := by
  simp [sampleHandover, h]

@[simp] theorem flushStream_wf (n : Nat) (h : s.mem.wf = true) : (flushStream n s).mem.wf = true := by simp [flushStream, h]
@[simp] theorem sampleStart_wf (n : Nat) (h : s.mem.wf = true) : (sampleStart n s).mem.wf = true := by simp [sampleStart, h]

theorem loadDict_mem (u : State) (h : loadDict s = some u) : u.mem = s.mem := by
  unfold loadDict at h
  repeat' split at h
  all_goals cases h
  rfl

@[simp] theorem wipeTiles_wf (ts : List Nat) (h : s.mem.wf = true) : (wipeTiles ts s).mem.wf = true := by
  simp +contextual [wipeTiles, h]

@[simp] theorem wipeCluster_wf (k : Nat) (h : s.mem.wf = true) : (wipeCluster k s).mem.wf = true := tblWf_filter _ _ _ h

@[simp] theorem wipeReserve_wf (ts : List Nat) (h : s.mem.wf = true) : (wipeReserve ts s).mem.wf = true := by
  simp +contextual [wipeReserve, h]

@[simp] theorem loseStreamsOn_wf (ts : List Nat) (st : BitVec 8) (h : s.mem.wf = true) : (loseStreamsOn ts st s).mem.wf = true := by
  simp +contextual [loseStreamsOn, h]

@[simp] theorem scrubRegion_wf (r : Nat) (h : s.mem.wf = true) : (scrubRegion r s).mem.wf = true := by
  rw [scrubRegion]
  exact forEach_wf _ _ _ (fun k s hs => wipe_wf _ _ _ hs) (wipeReserve_wf _ _ (wipeTiles_wf _ _ h))

@[simp] theorem regionLost_wf (r : Nat) (h : s.mem.wf = true) : (regionLost r s).mem.wf = true := by simp [regionLost, h]

@[simp] theorem wipePart_wf (ts : List Nat) (h : s.mem.wf = true) : (wipePart ts s).mem.wf = true := by
  rw [wipePart]
  exact forEach_wf _ _ _ (fun k s hs => wipeCluster_wf _ _ hs) (wipeReserve_wf _ _ (wipeTiles_wf _ _ h))

@[simp] theorem partReset_wf (p : Nat) (h : s.mem.wf = true) : (partReset p s).mem.wf = true := by
  rw [partReset, pmod_mem]
  exact wipePart_wf _ _ (loseStreamsOn_wf _ _ _ (forEach_wf _ _ _ (fun j s hs => finishJob_wf s _ _ hs) h))

@[simp] theorem partResetEnd_wf (p : Nat) (h : s.mem.wf = true) : (partResetEnd p s).mem.wf = true := by
  simp [partResetEnd, h]

@[simp] theorem partControl_wf (p code : Nat) (h : s.mem.wf = true) : (partControl p code s).MemWf := by
  unfold partControl; (repeat' split) <;> simp +contextual [h]

@[simp] theorem resetFabric_wf (p : Nat) (h : s.mem.wf = true) : (resetFabric p s).mem.wf = true := by simp [resetFabric, h]

@[simp] theorem resetEffect_wf (code : Nat) (h : s.mem.wf = true) : (resetEffect code s).mem.wf = true := by
  unfold resetEffect; split <;> simp [h]

@[simp] theorem functionReset_wf (k code : Nat) (h : s.mem.wf = true) : (functionReset k code s).MemWf := by
  rw [functionReset]; (repeat' split) <;> simp [h]

@[simp] theorem ppsEnable_wf (v : Nat) (h : s.mem.wf = true) : (ppsEnable v s).MemWf := by
  rw [ppsEnable]; (repeat' split) <;> simp [h]

@[simp] theorem timerControl_wf (k code : Nat) (h : s.mem.wf = true) : (timerControl k code s).MemWf := by
  unfold timerControl; simp only []; (repeat' split) <;> simp +contextual [h]

@[simp] theorem t1Control_wf (x code : Nat) (h : s.mem.wf = true) : (t1Control x code s).MemWf := by
  unfold t1Control; split <;> simp [h]

@[simp] theorem timedFrame_wf (x : Nat) (b : Bytes) (h : s.mem.wf = true) : (timedFrame x b s).MemWf := by
  rw [timedFrame]; (repeat' split) <;> simp [h]

@[simp] theorem fabStop_wf (p : Nat) (h : s.mem.wf = true) : (fabStop p s).mem.wf = true := by simp [fabStop, h]

@[simp] theorem fabControl_wf (p code : Nat) (h : s.mem.wf = true) : (fabControl p code s).MemWf := by
  unfold fabControl; split <;> simp [h]

@[simp] theorem domainsWrite_wf (v : BitVec 32) (h : s.mem.wf = true) : (domainsWrite v s).MemWf := by
  rw [domainsWrite]; (repeat' split) <;> simp [h]

@[simp] theorem switchedOn_wf (d : Fin 24) (h : s.mem.wf = true) : (switchedOn d s).mem.wf = true := by
  unfold switchedOn
  simp only
  split
  · exact h
  · simp only [settleWake_mem, ite_mem, fabmod_mem, ite_self]
    split
    · exact scrubRegion_wf _ _ h
    · exact h

@[simp] theorem switchOff_wf (d : Nat) (h : s.mem.wf = true) : (switchOff d s).mem.wf = true := by
  rw [switchOff]; (repeat' split) <;> simp [h]

@[simp] theorem capCommand_wf (peak : Bool) (v : Nat) (h : s.mem.wf = true) : (capCommand peak v s).MemWf := by
  rw [capCommand]; (repeat' split) <;> simp [h]

@[simp] theorem coolStop_wf (h : s.mem.wf = true) : (coolStop s).mem.wf = true := by
  rw [coolStop]
  refine forEach_wf _ _ _ (fun d s hs => switchOff_wf s _ hs) ?_
  rw [stopIngest_mem]
  refine forEach_wf _ _ _ (fun p s hs => ?_) h
  split
  · exact fabricOut_wf s _ _ hs
  · exact hs

@[simp] theorem thermalTrip_wf (io : Bool) (h : s.mem.wf = true) : (thermalTrip io s).mem.wf = true := by
  simp [thermalTrip, h]

@[simp] theorem standbyEnter_wf (h : s.mem.wf = true) : (standbyEnter s).mem.wf = true := by
  simp +contextual [standbyEnter, h]

@[simp] theorem standbyControl_wf (code : Nat) (h : s.mem.wf = true) : (standbyControl code s).MemWf := by
  rw [standbyControl]; (repeat' split) <;> simp [h]

@[simp] theorem spoilAxis_wf (n : Nat) (h : s.mem.wf = true) : (spoilAxis n s).mem.wf = true := by simp [spoilAxis, h]

@[simp] theorem spoilControl_wf (h : s.mem.wf = true) : (spoilControl s).mem.wf = true := by
  unfold spoilControl; simp only []; (repeat' split) <;> simp +contextual [h]

@[simp] theorem spoilUnit_wf (u : BitVec 32) (h : s.mem.wf = true) : (spoilUnit u s).mem.wf = true := by
  rw [spoilUnit]; (repeat' split) <;> simp [h]

@[simp] theorem pairPassed_wf (t : Nat) (h : s.mem.wf = true) : (pairPassed t s).mem.wf = true := by simp [pairPassed, h]

@[simp] theorem confirmFailed_wf (t : Nat) (h : s.mem.wf = true) : (confirmFailed t s).mem.wf = true := by
  simp [confirmFailed, h]

@[simp] theorem logicOutcome_wf (t : Nat) (f : FieldTest) (passed : Bool) (h : s.mem.wf = true) :
    (logicOutcome t f passed s).mem.wf = true := by
  simp [logicOutcome, h]

@[simp] theorem safeCommand_wf (k v : Nat) (h : s.mem.wf = true) : (safeCommand k v s).MemWf := by
  unfold safeCommand; split <;> simp [h]

@[simp] theorem clearCommand_wf (v : Nat) (h : s.mem.wf = true) : (clearCommand v s).MemWf := by
  unfold clearCommand; split <;> simp [h]

@[simp] theorem triggersCommand_wf (v : BitVec 32) (h : s.mem.wf = true) : (triggersCommand v s).MemWf := by
  rw [triggersCommand]; (repeat' split) <;> simp [h]

@[simp] theorem quiet_wf (st : DevState) : (quiet st s).mem.wf = true := rfl
@[simp] theorem beginReset_wf (cause : BitVec 8) (st : DevState) : (beginReset cause st s).mem.wf = true := by simp [beginReset]
@[simp] theorem reachReady_wf (h : s.mem.wf = true) : (reachReady s).mem.wf = true := by simp +contextual [reachReady, h]
@[simp] theorem bootUp_wf (at_ : Nat) (h : s.mem.wf = true) : (bootUp at_ s).mem.wf = true := by simp [bootUp, h]

@[simp] theorem resetCommand_wf (v : Nat) (h : s.mem.wf = true) : (resetCommand v s).MemWf := by
  unfold resetCommand; split <;> simp [h]

@[simp] theorem powerDown_wf : (powerDown s).mem.wf = true := by simp [powerDown]
@[simp] theorem inputLost_wf (h : s.mem.wf = true) : (inputLost s).mem.wf = true := by simp [inputLost, h]

@[simp] theorem updateChunk_wf (k : Nat) (b : Bytes) (h : s.mem.wf = true) : (updateChunk k b s).MemWf := by
  rw [updateChunk]; (repeat' split) <;> simp [h]

@[simp] theorem verifyUpdate_wf (h : s.mem.wf = true) : (verifyUpdate s).mem.wf = true := by simp [verifyUpdate, h]
@[simp] theorem updateCommit_wf (h : s.mem.wf = true) : (updateCommit s).mem.wf = true := by simp [updateCommit, h]

@[simp] theorem updateControl_wf (k code : Nat) (h : s.mem.wf = true) : (updateControl k code s).MemWf := by
  unfold updateControl; (repeat' split) <;> simp +contextual [h]

@[simp] theorem minSvnCommand_wf (v : Nat) (h : s.mem.wf = true) : (minSvnCommand v s).MemWf := by
  unfold minSvnCommand; split <;> simp [h]

@[simp] theorem revokeCommand_wf (v : Nat) (h : s.mem.wf = true) : (revokeCommand v s).MemWf := by
  rw [revokeCommand]; (repeat' split) <;> simp [h]

@[simp] theorem changeCommand_wf (b : Bytes) (h : s.mem.wf = true) : (changeCommand b s).MemWf := by
  rw [changeCommand]; (repeat' split) <;> simp [h]

@[simp] theorem quoteCommand_wf (nonce : Bytes) (h : s.mem.wf = true) : (quoteCommand nonce s).MemWf := by
  unfold quoteCommand; split <;> simp [h]

@[simp] theorem fusionConfig_wf (idx sub : Nat) (data : Bytes) (h : s.mem.wf = true) : (fusionConfig idx sub data s).MemWf := by
  rw [fusionConfig]; (repeat' split) <;> simp [h]

@[simp] theorem streamConfig_wf (m idx sub : Nat) (data : Bytes) (h : s.mem.wf = true) : (streamConfig m idx sub data s).MemWf := by
  rw [streamConfig]; (repeat' split) <;> simp [h]

@[simp] theorem groupConfig_wf (idx sub : Nat) (data : Bytes) (g : Nat) (h : s.mem.wf = true) :
    (groupConfig idx sub data g s).MemWf := by
  rw [groupConfig]; (repeat' split) <;> simp [h]

@[simp] theorem axisConfig_wf (idx sub : Nat) (data : Bytes) (n : Nat) (h : s.mem.wf = true) :
    (axisConfig idx sub data n s).MemWf := by
  rw [axisConfig]; (repeat' split) <;> simp [h]

@[simp] theorem mapControl_wf (code : Nat) (h : s.mem.wf = true) : (mapControl code s).MemWf := by
  unfold mapControl; split <;> simp [h]

@[simp] theorem selectorControl_wf (ch code : Nat) (h : s.mem.wf = true) : (selectorControl ch code s).MemWf := by
  unfold selectorControl; split <;> simp [h]

@[simp] theorem cameraControl_wf (n code : Nat) (h : s.mem.wf = true) : (cameraControl n code s).MemWf := by
  unfold cameraControl; (repeat' split) <;> simp +contextual [h]

@[simp] theorem sampleControl_wf (n code : Nat) (h : s.mem.wf = true) : (sampleControl n code s).MemWf := by
  unfold sampleControl; (repeat' split) <;> simp +contextual [h]

@[simp] theorem dictControl_wf (code : Nat) (h : s.mem.wf = true) : (dictControl code s).MemWf := by
  unfold dictControl
  split
  · trivial
  · have hl : ∀ u, loadDict s = some u → u.mem.wf = true := fun u hu => by rw [loadDict_mem s u hu]; exact h
    split
    next u heq => exact hl u heq
    · trivial

@[simp] theorem fusionControl_wf (code : Nat) (h : s.mem.wf = true) : (fusionControl code s).MemWf := by
  unfold fusionControl; split <;> simp [h]

@[simp] theorem fusionRecord_wf (i : Nat) (data : Bytes) (h : s.mem.wf = true) : (fusionRecord i data s).MemWf := by
  unfold fusionRecord; split <;> simp [h]

@[simp] theorem solverControl_wf (code : Nat) (h : s.mem.wf = true) : (solverControl code s).MemWf := by
  unfold solverControl; (repeat' split) <;> simp +contextual [h]

@[simp] theorem solverSelect_wf (v : Nat) (h : s.mem.wf = true) : (solverSelect v s).MemWf := by
  unfold solverSelect; split <;> simp [h]

@[simp] theorem solverRecord_wf (data : Bytes) (h : s.mem.wf = true) : (solverRecord data s).MemWf := by
  unfold solverRecord; split <;> simp [h]

@[simp] theorem scheduleWrite_wf (k sub : Nat) (data : Bytes) (h : s.mem.wf = true) : (scheduleWrite k sub data s).MemWf := by
  rw [scheduleWrite]; (repeat' split) <;> simp [h]

@[simp] theorem pumpControl_wf (code : Nat) (h : s.mem.wf = true) : (pumpControl code s).MemWf := by
  unfold pumpControl; (repeat' split) <;> simp +contextual [h]

@[simp] theorem pumpRecord_wf (data : Bytes) (h : s.mem.wf = true) : (pumpRecord data s).MemWf := by simp [pumpRecord, h]

@[simp] theorem axisControl_wf (n code : Nat) (h : s.mem.wf = true) : (axisControl n code s).MemWf := by
  unfold axisControl; (repeat' split) <;> simp +contextual [h]

@[simp] theorem asControl_wf (code : Nat) (h : s.mem.wf = true) : (asControl code s).MemWf := by
  unfold asControl; split <;> simp [h]

@[simp] theorem maskWrite_wf (k j : Nat) (data : Bytes) (h : s.mem.wf = true) : (maskWrite k j data s).MemWf := by
  unfold maskWrite; split <;> simp [h]

@[simp] theorem closeWrite_wf (j v : Nat) (h : s.mem.wf = true) : (closeWrite j v s).MemWf := by
  unfold closeWrite; split <;> simp [h]

@[simp] theorem queueWrite_wf (q sub : Nat) (data : Bytes) (h : s.mem.wf = true) : (queueWrite q sub data s).MemWf := by
  unfold queueWrite; split <;> simp [h]

@[simp] theorem writeDevice_wf (k b n sub : Nat) (data : Bytes) (h : s.mem.wf = true) : (writeDevice k b n sub data s).MemWf := by
  unfold writeDevice
  simp only [WRes.memWf_ite, WRes.memWf_done, WRes.memWf_wait, WRes.memWf_abort, maskWrite_wf, closeWrite_wf, resetCommand_wf,
    changeCommand_wf, minSvnCommand_wf, revokeCommand_wf, functionReset_wf, updateControl_wf, updateChunk_wf, partControl_wf, h,
      ite_self, clearEvents_mem, setCfg_mem, clockAdjust_mem, deleteObject_mem, selectEntry_mem, arrive_mem, smod_mem]

@[simp] theorem writeTime_wf (b n sub : Nat) (data : Bytes) (h : s.mem.wf = true) : (writeTime b n sub data s).MemWf := by
  unfold writeTime
  simp only [WRes.memWf_ite, WRes.memWf_done, WRes.memWf_wait, WRes.memWf_abort, capCommand_wf, standbyControl_wf,
    domainsWrite_wf, asControl_wf, ppsEnable_wf, timerControl_wf, timedFrame_wf, t1Control_wf, fabControl_wf, h, ite_self,
      clearEvents_mem, setCfg_mem, clockAdjust_mem, deleteObject_mem, selectEntry_mem, arrive_mem, smod_mem]

@[simp] theorem writeMemoryObj_wf (k b n sub : Nat) (data : Bytes) (h : s.mem.wf = true) :
    (writeMemoryObj k b n sub data s).MemWf := by
  unfold writeMemoryObj
  simp only [WRes.memWf_ite, WRes.memWf_done, WRes.memWf_wait, WRes.memWf_abort, dirCommand_wf, streamCommand_wf, poolWrite_wf,
    seqCommand_wf, h, ite_self, clearEvents_mem, setCfg_mem, clockAdjust_mem, deleteObject_mem, selectEntry_mem, arrive_mem,
      smod_mem]

@[simp] theorem writeSafety_wf (k b n sub : Nat) (data : Bytes) (h : s.mem.wf = true) : (writeSafety k b n sub data s).MemWf := by
  unfold writeSafety
  simp only [WRes.memWf_ite, WRes.memWf_done, WRes.memWf_wait, WRes.memWf_abort, safeCommand_wf, clearCommand_wf,
    triggersCommand_wf, cameraControl_wf, streamConfig_wf, sampleControl_wf, dictControl_wf, h, ite_self, clearEvents_mem,
      setCfg_mem, clockAdjust_mem, deleteObject_mem, selectEntry_mem, arrive_mem, smod_mem]

@[simp] theorem writeMotion_wf (b n sub : Nat) (data : Bytes) (h : s.mem.wf = true) : (writeMotion b n sub data s).MemWf := by
  unfold writeMotion
  simp only [WRes.memWf_ite, WRes.memWf_done, WRes.memWf_wait, WRes.memWf_abort, fusionControl_wf, fusionRecord_wf,
    fusionConfig_wf, pumpControl_wf, pumpRecord_wf, groupConfig_wf, axisControl_wf, axisConfig_wf, scheduleWrite_wf,
      solverControl_wf, solverRecord_wf, solverSelect_wf, h, ite_self, clearEvents_mem, setCfg_mem, clockAdjust_mem,
        deleteObject_mem, selectEntry_mem, arrive_mem, smod_mem]

@[simp] theorem writeRest_wf (k b n sub : Nat) (data : Bytes) (h : s.mem.wf = true) : (writeRest k b n sub data s).MemWf := by
  unfold writeRest
  simp only [WRes.memWf_ite, WRes.memWf_done, WRes.memWf_wait, WRes.memWf_abort, tableCommand_wf, mapControl_wf,
    selectorControl_wf, queueControl_wf, cancelJob_wf, queueWrite_wf, quoteCommand_wf, h, ite_self, clearEvents_mem, setCfg_mem,
      clockAdjust_mem, deleteObject_mem, selectEntry_mem, arrive_mem, smod_mem]

@[simp] theorem writeEffect_wf (k idx sub : Nat) (data : Bytes) (h : s.mem.wf = true) : (writeEffect k idx sub data s).MemWf := by
  unfold writeEffect
  simp only [WRes.memWf_ite, writeDevice_wf s _ _ _ _ _ h, writeTime_wf s _ _ _ _ h, writeMemoryObj_wf s _ _ _ _ _ h,
    writeSafety_wf s _ _ _ _ _ h, writeMotion_wf s _ _ _ _ h, writeRest_wf s _ _ _ _ _ h, ite_self]

@[simp] theorem writeValue_wf (k idx sub : Nat) (data : Bytes) (h : s.mem.wf = true) : (writeValue k idx sub data s).MemWf := by
  unfold writeValue
  split
  · trivial
  · simp only [WRes.memWf_ite, WRes.memWf_done, WRes.memWf_wait, WRes.memWf_abort, writeEffect_wf s _ _ _ _ h, ite_self]

@[simp] theorem settle_wf (k : Nat) (s0 : State) (r : ReqRes) (h : r.MemWf) : (settle k s0 r).mem.wf = true := by
  cases r with
  | abort c u => rw [settle, abort_mem]; exact h
  | done r u => rw [settle, respond_mem]; exact h
  | wait u => exact h

@[simp] theorem ofWRes_wf (r : WRes) (h : s.mem.wf = true) (hr : r.MemWf) : (ofWRes s r).MemWf := by
  cases r with
  | abort c => exact h
  | done d u => exact hr
  | wait u => exact hr

/-- A request whose operation keeps the canonical form keeps it. -/
theorem runReq_wf (k : Nat) (f : State → ReqRes) (h : s.mem.wf = true) (hf : ∀ u : State, u.mem.wf = true → (f u).MemWf) :
    (runReq k f s).mem.wf = true := by
  unfold runReq
  split
  · simp [h]
  · split
    · exact h
    · extract_lets u
      have hu : u.mem.wf = true := by simp [u, h]
      split
      · rw [refuseSeq_mem]; exact hu
      · exact settle_wf _ _ _ (hf _ (by rw [takeReq_mem]; exact hu))

@[simp] theorem readOp_wf (k : Nat) (o : IxideOp) (h : s.mem.wf = true) : (readOp k o s).MemWf := by
  unfold readOp; simp only []; (repeat' split) <;> simp +contextual [h]

@[simp] theorem writeOp_wf (k : Nat) (o : IxideOp) (h : s.mem.wf = true) : (writeOp k o s).MemWf := by
  unfold writeOp
  extract_lets idx sub more old data u
  have hu : u.mem.wf = true := h
  split
  · exact hu
  · split
    · exact hu
    · split
      · exact hu
      · split
        · exact hu
        · exact ofWRes_wf u _ hu (writeValue_wf u _ _ _ _ hu)

@[simp] theorem memReadOp_wf (k : Nat) (o : IxideOp) (h : s.mem.wf = true) : (memReadOp k o s).MemWf := by
  unfold memReadOp; simp only []; (repeat' split) <;> simp +contextual [h]

@[simp] theorem memWriteOp_wf (k : Nat) (o : IxideOp) (h : s.mem.wf = true) : (memWriteOp k o s).MemWf := by
  rw [memWriteOp]; (repeat' split) <;> simp [h]

@[simp] theorem operation_wf (k : Nat) (o : IxideOp) (h : s.mem.wf = true) : (operation k o s).MemWf := by
  unfold operation
  simp only
  split
  · exact h
  · split
    · exact h
    · split
      · exact readOp_wf s _ _ h
      · exact writeOp_wf s _ _ h
      · exact memReadOp_wf s _ _ h
      · exact memWriteOp_wf s _ _ h

@[simp] theorem wholeWrite_wf (k idx sub : Nat) (data : Bytes) (h : s.mem.wf = true) : (wholeWrite k idx sub data s).MemWf := by
  unfold wholeWrite
  split
  · exact h
  · exact ofWRes_wf s _ h (writeValue_wf s _ _ _ _ h)

@[simp] theorem hostWrite_wf (k idx sub : Nat) (data : Bytes) (h : s.mem.wf = true) :
    (hostWrite k idx sub data s).mem.wf = true :=
    runReq_wf s k _ h fun u hu => wholeWrite_wf u _ _ _ _ hu

@[simp] theorem hostRead_wf (k idx sub n : Nat) (h : s.mem.wf = true) : (hostRead k idx sub n s).mem.wf = true :=
    runReq_wf s k _ h fun u hu => operation_wf u _ _ hu

@[simp] theorem requestFrame_wf (k : Nat) (src f : Bytes) (h : s.mem.wf = true) : (requestFrame k src f s).mem.wf = true := by
  unfold requestFrame
  simp only
  split
  · simp [h]
  · split
    · exact settle_wf _ _ _ (operation_wf _ _ _ (by rw [takeReq_mem]; exact h))
    · simp [h]

@[simp] theorem sessionFrame_wf (k ty : Nat) (src f : Bytes) (h : s.mem.wf = true) : (sessionFrame k ty src f s).mem.wf = true := by
  unfold sessionFrame; split <;> simp [h]

@[simp] theorem ixideFrame_wf (x : Fin 4) (src : Option Bytes) (f : Bytes) (h : s.mem.wf = true) :
    (ixideFrame x src f s).mem.wf = true := by
  rw [ixideFrame]; (repeat' split) <;> simp [h]

end Sys2Proof.Machine
end

section
/-!
PROOF. Memory under the tile instructions: AST, DRAIN and VST keep its canonical form, and the others leave it as it is.
-/

namespace Sys2Proof.Machine

open Claims

/-- What a legal operation leaves. -/
theorem legal_eq_some {c : Bool} {r : Option TileOut} {o : TileOut} : legal c r = some o ↔ c = true ∧ r = some o := by
  cases c <;> simp [legal]

/-! ## Writes of an access -/

theorem writeAccess_wf {m : Memory} {t : Nat} {sl : AgSlot} {c b : Nat} {vs : List Nat} {p : Memory × AgSlot}
    (hm : m.wf = true) (h : writeAccess m t sl c b vs = some p) : p.1.wf = true := by
  unfold writeAccess at h
  split at h
  · cases h
  · split at h
    · cases h
      refine List.foldlRecOn (motive := fun m : Memory => m.wf = true) _ _ hm fun m hm p _ => ?_
      split
      · exact memWriteNat_wf _ _ _ _ hm
      · exact hm
    · cases h

/-- Rows that keep memory canonical one by one keep it so together. -/
theorem perRow_wf {g : Nat} {f : Nat → Memory → Tile → AgSlot → Option (Memory × Tile × AgSlot × Nat)}
    (hf : ∀ r m tl sl p, m.wf = true → f r m tl sl = some p → p.1.wf = true) {rows : List Nat} {m : Memory} {tl : Tile} {cyc : Nat}
    {o : TileOut} (hm : m.wf = true) (h : perRow g f rows m tl cyc = some o) : o.mem.wf = true := by
  induction rows generalizing m tl cyc with
  | nil => cases h; exact hm
  | cons r rs ih =>
    rw [perRow] at h
    split at h
    · cases h
    next p hp => exact ih (hf _ _ _ _ _ hm hp) h

/-- Rows that leave memory one by one leave it together. -/
theorem perRow_mem {g : Nat} {f : Nat → Memory → Tile → AgSlot → Option (Memory × Tile × AgSlot × Nat)}
    (hf : ∀ r m tl sl p, f r m tl sl = some p → p.1 = m) {rows : List Nat} {m : Memory} {tl : Tile} {cyc : Nat} {o : TileOut}
    (h : perRow g f rows m tl cyc = some o) : o.mem = m := by
  induction rows generalizing m tl cyc with
  | nil => cases h; rfl
  | cons r rs ih =>
    rw [perRow] at h
    split at h
    · cases h
    next p hp => rw [ih h]; exact hf _ _ _ _ _ hp

theorem aldRow_mem {t : Nat} {f : TileFields} {r : Nat} {m : Memory} {tl : Tile} {sl : AgSlot} {p : Memory × Tile × AgSlot × Nat}
    (h : aldRow t f r m tl sl = some p) : p.1 = m := by
  unfold aldRow at h
  split at h <;> (obtain ⟨q, _, rfl⟩ := Option.map_eq_some_iff.mp h; rfl)

theorem astRow_wf (t : Nat) (f : TileFields) (r : Nat) (m : Memory) (tl : Tile) (sl : AgSlot) (p : Memory × Tile × AgSlot × Nat)
    (hm : m.wf = true) (h : astRow t f r m tl sl = some p) : p.1.wf = true := by
  obtain ⟨q, hq, rfl⟩ := Option.map_eq_some_iff.mp h
  exact writeAccess_wf hm hq

theorem drainRow_wf (t : Nat) (f : TileFields) (r : Nat) (m : Memory) (tl : Tile) (sl : AgSlot) (p : Memory × Tile × AgSlot × Nat)
    (hm : m.wf = true) (h : drainRow t f r m tl sl = some p) : p.1.wf = true := by
  obtain ⟨q, hq, rfl⟩ := Option.map_eq_some_iff.mp h
  exact writeAccess_wf hm hq

theorem drainGateRow_wf (t : Nat) (f : TileFields) (r : Nat) (m : Memory) (tl : Tile) (sl : AgSlot) (p : Memory × Tile × AgSlot × Nat)
    (hm : m.wf = true) (h : drainGateRow t f r m tl sl = some p) : p.1.wf = true := by
  unfold drainGateRow at h
  simp only at h
  split at h
  · cases h
  · obtain ⟨q, hq, rfl⟩ := Option.map_eq_some_iff.mp h
    exact writeAccess_wf hm hq

/-! ## The operations -/

section
variable {z : Bool} {t : Nat} {f : TileFields} {m : Memory} {tl : Tile} {o : TileOut}

theorem opAst_wf (hm : m.wf = true) (h : opAst t f m tl = some o) : o.mem.wf = true := by
  unfold opAst at h
  split at h
  · cases h
  · exact perRow_wf (astRow_wf t f) hm (legal_eq_some.mp h).2

theorem opDrain_wf (hm : m.wf = true) (h : opDrain z t f m tl = some o) : o.mem.wf = true := by
  unfold opDrain at h
  split at h
  · cases h
  · simp only at h
    split at h
    · exact perRow_wf (drainGateRow_wf t f) hm (legal_eq_some.mp h).2
    · exact perRow_wf (drainRow_wf t f) hm (legal_eq_some.mp h).2

theorem opVst_wf (hm : m.wf = true) (h : opVst t f m tl = some o) : o.mem.wf = true := by
  obtain ⟨q, hq, rfl⟩ := Option.map_eq_some_iff.mp (legal_eq_some.mp h).2
  have hw := writeAccess_wf hm hq
  dsimp only
  split
  · exact memWriteNat_wf _ _ _ _ hw
  · exact hw

theorem opLdw_mem (h : opLdw t f m tl = some o) : o.mem = m := by
  have h := (legal_eq_some.mp h).2
  split at h
  · cases h
  · simp only at h
    split at h <;> cases h
    rfl

theorem opMma_mem (h : opMma z t f m tl = some o) : o.mem = m := by
  unfold opMma at h
  simp only at h
  split at h
  · cases h
  · obtain ⟨q, _, rfl⟩ := Option.map_eq_some_iff.mp (legal_eq_some.mp h).2
    rfl

theorem opAld_mem (h : opAld t f m tl = some o) : o.mem = m := by
  unfold opAld at h
  split at h
  · cases h
  · exact perRow_mem (fun _ _ _ _ _ => aldRow_mem) (legal_eq_some.mp h).2

theorem opVld_mem (h : opVld t f m tl = some o) : o.mem = m := by
  obtain ⟨q, _, rfl⟩ := Option.map_eq_some_iff.mp (legal_eq_some.mp h).2
  rfl

theorem opAclr_mem (h : opAclr f m tl = some o) : o.mem = m := by
  unfold opAclr at h
  split at h
  · cases h
  · cases (legal_eq_some.mp h).2; rfl

theorem opVcvt_mem (h : opVcvt f m tl = some o) : o.mem = m := by
  have h := (legal_eq_some.mp h).2
  simp only at h
  (repeat' split at h) <;> cases h <;> rfl

theorem opVrq_mem (h : opVrq f m tl = some o) : o.mem = m := by
  unfold opVrq at h
  split at h
  · cases h
  · cases (legal_eq_some.mp h).2; rfl

theorem opLanes_mem {op : Nat} {g : BitVec 32 → BitVec 32 → BitVec 32} (h : opLanes op f g m tl = some o) : o.mem = m := by
  cases (legal_eq_some.mp h).2; rfl

theorem opVcmp_mem (h : opVcmp f m tl = some o) : o.mem = m := opLanes_mem (legal_eq_some.mp h).2

theorem opZcfg_mem (h : opZcfg f m tl = some o) : o.mem = m := by
  cases (legal_eq_some.mp h).2; rfl

theorem opVlda_mem (h : opVlda f m tl = some o) : o.mem = m := by
  cases (legal_eq_some.mp h).2; rfl

theorem opVsta_mem (h : opVsta z f m tl = some o) : o.mem = m := by
  cases (legal_eq_some.mp h).2; rfl

theorem opVfma_mem (h : opVfma f m tl = some o) : o.mem = m := by
  cases (legal_eq_some.mp h).2; rfl

theorem opVsel_mem (h : opVsel f m tl = some o) : o.mem = m := by
  cases (legal_eq_some.mp h).2; rfl

theorem opVmxq_mem (h : opVmxq f m tl = some o) : o.mem = m := by
  cases (legal_eq_some.mp h).2; rfl

theorem opVred_mem (h : opVred f m tl = some o) : o.mem = m := by
  cases (legal_eq_some.mp h).2; rfl

theorem opRstep_mem (h : opRstep z f m tl = some o) : o.mem = m := by
  cases (legal_eq_some.mp h).2; rfl

theorem opAgset_mem (h : opAgset t f m tl = some o) : o.mem = m := by
  cases (legal_eq_some.mp h).2; rfl

theorem opFunc_mem {g : FuncOp} (h : opFunc g f m tl = some o) : o.mem = m := by
  cases (legal_eq_some.mp h).2; rfl
end

end Sys2Proof.Machine
end

section
/-!
PROOF. Memory under the commands: each keeps its canonical form, and so does every step.
-/

namespace Sys2Proof.Machine

open Claims

/-- The next state that a command answers, if any, has its memory in canonical form. -/
def ResMemWf : Res → Prop
  | .next t => t.mem.wf = true
  | _ => True

@[simp] theorem resMemWf_next (t : State) : ResMemWf (.next t) ↔ t.mem.wf = true := Iff.rfl

theorem resMemWf_ite (c : Prop) [Decidable c] {a b : Res} (ha : ResMemWf a) (hb : ResMemWf b) :
    ResMemWf (if c then a else b) := by
  split
  · exact ha
  · exact hb

variable (s : State)

/-- A state branch by branch. -/
theorem ite_wf (c : Prop) [Decidable c] {a b : State} (ha : a.mem.wf = true) (hb : b.mem.wf = true) :
    (if c then a else b).mem.wf = true := by
  split
  · exact ha
  · exact hb

theorem frameOfType_wf (x : Fin 4) (src : Option Bytes) (ty : BitVec 8) (f : Bytes) (h : s.mem.wf = true) :
    ResMemWf (frameOfType x src ty f s) :=
  ite_wf _ h (ite_wf _ (by rw [unspoil_mem]; exact h) (ixideFrame_wf s _ _ _ h))

theorem execMapFlip_wf (h : s.mem.wf = true) : ResMemWf (execMapFlip s) := by
  rw [execMapFlip]
  split
  · exact h
  next a _ =>
    refine resMemWf_ite _ (mapBoundary_wf _ _ ?_) h
    exact forEach_wf _ _ _ (fun _ s hs => watchChannel_wf s _ _ hs) (flipMap_wf _ a (by rw [clockTo_mem]; exact h))

theorem execSelectorCloseTimer_wf (ch : Fin 16) (h : s.mem.wf = true) : ResMemWf (execSelectorCloseTimer ch s) := by
  rw [execSelectorCloseTimer]; (repeat' split) <;> simp [h]

theorem execSelectorClosed_wf (ch : Fin 16) (h : s.mem.wf = true) : ResMemWf (execSelectorClosed ch s) := by
  rw [execSelectorClosed]; (repeat' split) <;> simp [h]

theorem execSelectorRelease_wf (ch : Fin 16) (h : s.mem.wf = true) : ResMemWf (execSelectorRelease ch s) := by
  rw [execSelectorRelease]; (repeat' split) <;> simp [h]

theorem execFusionCycle_wf (h : s.mem.wf = true) : ResMemWf (execFusionCycle s) := by
  rw [execFusionCycle]; (repeat' split) <;> simp [h]

theorem execSolverCycle_wf (h : s.mem.wf = true) : ResMemWf (execSolverCycle s) := by
  rw [execSolverCycle]; (repeat' split) <;> simp [h]

theorem execSolverOutput_wf (h : s.mem.wf = true) : ResMemWf (execSolverOutput s) := by simp [execSolverOutput, h]

theorem execScheduleLoadDone_wf (slot : Fin 2) (h : s.mem.wf = true) :
    ResMemWf (execScheduleLoadDone slot s) := by simp [execScheduleLoadDone, h]

theorem execFeedbackFrame_wf (x : Fin 4) (payload : Bytes) (h : s.mem.wf = true) :
    ResMemWf (execFeedbackFrame x payload s) := by simp [execFeedbackFrame, h]

theorem execPumpSample_wf (g : Fin 8) (h : s.mem.wf = true) : ResMemWf (execPumpSample g s) := by
  rw [execPumpSample]; (repeat' split) <;> simp [h]

theorem execPumpFrameHandoff_wf (g : Fin 8) (lateSlots : BitVec 16) (h : s.mem.wf = true) :
    ResMemWf (execPumpFrameHandoff g lateSlots s) := by
  rw [execPumpFrameHandoff]; (repeat' split) <;> simp [h]

theorem execTablesLoadDone_wf (n : Fin 64) (h : s.mem.wf = true) :
    ResMemWf (execTablesLoadDone n s) := by simp [execTablesLoadDone, h]

theorem execNop_wf (t : Fin 512) (f : TileFields) (h : s.mem.wf = true) :
    ResMemWf (execNop t f s) := sequence_wf s _ _ _ _ h (by simp [h])

theorem execLdw_wf (t : Fin 512) (f : TileFields) (h : s.mem.wf = true) :
    ResMemWf (execLdw t f s) := issue_wf s _ _ h fun _ hr => by rw [opLdw_mem hr]; exact h

theorem execMma_wf (t : Fin 512) (f : TileFields) (h : s.mem.wf = true) :
    ResMemWf (execMma t f s) := issue_wf s _ _ h fun _ hr => by rw [opMma_mem hr]; exact h

theorem execAclr_wf (t : Fin 512) (f : TileFields) (h : s.mem.wf = true) :
    ResMemWf (execAclr t f s) := issue_wf s _ _ h fun _ hr => by rw [opAclr_mem hr]; exact h

theorem execDrain_wf (t : Fin 512) (f : TileFields) (h : s.mem.wf = true) :
    ResMemWf (execDrain t f s) := issue_wf s _ _ h fun _ => opDrain_wf h

theorem execAld_wf (t : Fin 512) (f : TileFields) (h : s.mem.wf = true) :
    ResMemWf (execAld t f s) := issue_wf s _ _ h fun _ hr => by rw [opAld_mem hr]; exact h

theorem execAst_wf (t : Fin 512) (f : TileFields) (h : s.mem.wf = true) :
    ResMemWf (execAst t f s) := issue_wf s _ _ h fun _ => opAst_wf h

theorem execVld_wf (t : Fin 512) (f : TileFields) (h : s.mem.wf = true) :
    ResMemWf (execVld t f s) := issue_wf s _ _ h fun _ hr => by rw [opVld_mem hr]; exact h

theorem execVst_wf (t : Fin 512) (f : TileFields) (h : s.mem.wf = true) :
    ResMemWf (execVst t f s) := issue_wf s _ _ h fun _ => opVst_wf h

theorem execVlda_wf (t : Fin 512) (f : TileFields) (h : s.mem.wf = true) :
    ResMemWf (execVlda t f s) := issue_wf s _ _ h fun _ hr => by rw [opVlda_mem hr]; exact h

theorem execVsta_wf (t : Fin 512) (f : TileFields) (h : s.mem.wf = true) :
    ResMemWf (execVsta t f s) := issue_wf s _ _ h fun _ hr => by rw [opVsta_mem hr]; exact h

theorem execVadd_wf (t : Fin 512) (f : TileFields) (h : s.mem.wf = true) :
    ResMemWf (execVadd t f s) := issue_wf s _ _ h fun _ hr => by rw [opLanes_mem hr]; exact h

theorem execVmul_wf (t : Fin 512) (f : TileFields) (h : s.mem.wf = true) :
    ResMemWf (execVmul t f s) := issue_wf s _ _ h fun _ hr => by rw [opLanes_mem hr]; exact h

theorem execVfma_wf (t : Fin 512) (f : TileFields) (h : s.mem.wf = true) :
    ResMemWf (execVfma t f s) := issue_wf s _ _ h fun _ hr => by rw [opVfma_mem hr]; exact h

theorem execVmax_wf (t : Fin 512) (f : TileFields) (h : s.mem.wf = true) :
    ResMemWf (execVmax t f s) := issue_wf s _ _ h fun _ hr => by rw [opLanes_mem hr]; exact h

theorem execVmin_wf (t : Fin 512) (f : TileFields) (h : s.mem.wf = true) :
    ResMemWf (execVmin t f s) := issue_wf s _ _ h fun _ hr => by rw [opLanes_mem hr]; exact h

theorem execVcmp_wf (t : Fin 512) (f : TileFields) (h : s.mem.wf = true) :
    ResMemWf (execVcmp t f s) := issue_wf s _ _ h fun _ hr => by rw [opVcmp_mem hr]; exact h

theorem execVsel_wf (t : Fin 512) (f : TileFields) (h : s.mem.wf = true) :
    ResMemWf (execVsel t f s) := issue_wf s _ _ h fun _ hr => by rw [opVsel_mem hr]; exact h

theorem execVcvt_wf (t : Fin 512) (f : TileFields) (h : s.mem.wf = true) :
    ResMemWf (execVcvt t f s) := issue_wf s _ _ h fun _ hr => by rw [opVcvt_mem hr]; exact h

theorem execVrq_wf (t : Fin 512) (f : TileFields) (h : s.mem.wf = true) :
    ResMemWf (execVrq t f s) := issue_wf s _ _ h fun _ hr => by rw [opVrq_mem hr]; exact h

theorem execVmxq_wf (t : Fin 512) (f : TileFields) (h : s.mem.wf = true) :
    ResMemWf (execVmxq t f s) := issue_wf s _ _ h fun _ hr => by rw [opVmxq_mem hr]; exact h

theorem execVred_wf (t : Fin 512) (f : TileFields) (h : s.mem.wf = true) :
    ResMemWf (execVred t f s) := issue_wf s _ _ h fun _ hr => by rw [opVred_mem hr]; exact h

theorem execVexp_wf (t : Fin 512) (f : TileFields) (h : s.mem.wf = true) :
    ResMemWf (execVexp t f s) := issue_wf s _ _ h fun _ hr => by rw [opFunc_mem hr]; exact h

theorem execVlog_wf (t : Fin 512) (f : TileFields) (h : s.mem.wf = true) :
    ResMemWf (execVlog t f s) := issue_wf s _ _ h fun _ hr => by rw [opFunc_mem hr]; exact h

theorem execVrcp_wf (t : Fin 512) (f : TileFields) (h : s.mem.wf = true) :
    ResMemWf (execVrcp t f s) := issue_wf s _ _ h fun _ hr => by rw [opFunc_mem hr]; exact h

theorem execVrsq_wf (t : Fin 512) (f : TileFields) (h : s.mem.wf = true) :
    ResMemWf (execVrsq t f s) := issue_wf s _ _ h fun _ hr => by rw [opFunc_mem hr]; exact h

theorem execVsig_wf (t : Fin 512) (f : TileFields) (h : s.mem.wf = true) :
    ResMemWf (execVsig t f s) := issue_wf s _ _ h fun _ hr => by rw [opFunc_mem hr]; exact h

theorem execVtanh_wf (t : Fin 512) (f : TileFields) (h : s.mem.wf = true) :
    ResMemWf (execVtanh t f s) := issue_wf s _ _ h fun _ hr => by rw [opFunc_mem hr]; exact h

theorem execVsilu_wf (t : Fin 512) (f : TileFields) (h : s.mem.wf = true) :
    ResMemWf (execVsilu t f s) := issue_wf s _ _ h fun _ hr => by rw [opFunc_mem hr]; exact h

theorem execVgelu_wf (t : Fin 512) (f : TileFields) (h : s.mem.wf = true) :
    ResMemWf (execVgelu t f s) := issue_wf s _ _ h fun _ hr => by rw [opFunc_mem hr]; exact h

theorem execVsplus_wf (t : Fin 512) (f : TileFields) (h : s.mem.wf = true) :
    ResMemWf (execVsplus t f s) := issue_wf s _ _ h fun _ hr => by rw [opFunc_mem hr]; exact h

theorem execRstep_wf (t : Fin 512) (f : TileFields) (h : s.mem.wf = true) :
    ResMemWf (execRstep t f s) := issue_wf s _ _ h fun _ hr => by rw [opRstep_mem hr]; exact h

theorem execZcfg_wf (t : Fin 512) (f : TileFields) (h : s.mem.wf = true) :
    ResMemWf (execZcfg t f s) := issue_wf s _ _ h fun _ hr => by rw [opZcfg_mem hr]; exact h

theorem execAgset_wf (t : Fin 512) (f : TileFields) (h : s.mem.wf = true) :
    ResMemWf (execAgset t f s) := issue_wf s _ _ h fun _ hr => by rw [opAgset_mem hr]; exact h

theorem execDma_wf (t : Fin 512) (f : TileFields) (h : s.mem.wf = true) :
    ResMemWf (execDma t f s) := sequence_wf s _ _ _ _ h (by simp [h])

theorem execFence_wf (t : Fin 512) (f : TileFields) (h : s.mem.wf = true) :
    ResMemWf (execFence t f s) := sequence_wf s _ _ _ _ h (by simp [h])

theorem execBar_wf (t : Fin 512) (f : TileFields) (h : s.mem.wf = true) :
    ResMemWf (execBar t f s) := sequence_wf s _ _ _ _ h (by simp [h])

theorem execEvwait_wf (t : Fin 512) (f : TileFields) (h : s.mem.wf = true) :
    ResMemWf (execEvwait t f s) := sequence_wf s _ _ _ _ h (by simp [h])

theorem execEvsig_wf (t : Fin 512) (f : TileFields) (h : s.mem.wf = true) :
    ResMemWf (execEvsig t f s) := sequence_wf s _ _ _ _ h (by simp [h])

theorem execLoop_wf (t : Fin 512) (f : TileFields) (h : s.mem.wf = true) :
    ResMemWf (execLoop t f s) := sequence_wf s _ _ _ _ h (by simp [h])

theorem execEndl_wf (t : Fin 512) (f : TileFields) (h : s.mem.wf = true) :
    ResMemWf (execEndl t f s) := sequence_wf s _ _ _ _ h (by simp [h])

theorem execEnd_wf (t : Fin 512) (f : TileFields) (h : s.mem.wf = true) :
    ResMemWf (execEnd t f s) := sequence_wf s _ _ _ _ h (by simp [h])

theorem execSlotBoundary_wf (h : s.mem.wf = true) : ResMemWf (execSlotBoundary s) := by
  rw [execSlotBoundary]; (repeat' split) <;> simp [h]

theorem execCommitInstant_wf (tag : BitVec 32) (at_ : Nat) (h : s.mem.wf = true) : ResMemWf (execCommitInstant tag at_ s) := by
  rw [execCommitInstant]; (repeat' split) <;> simp [h]

theorem execCommitPublish_wf (tag : BitVec 32) (h : s.mem.wf = true) : ResMemWf (execCommitPublish tag s) := by
  rw [execCommitPublish]
  split
  · exact h
  · split
    next at_ _ _ =>
      refine resMemWf_ite _ ?_ h
      have ho : (openCycle (clockTo (at_ + 800) s)).mem.wf = true := by rw [openCycle_mem, clockTo_mem]; exact h
      refine endCycle_wf _ ?_
      rw [jmod_mem]
      exact ite_wf _ (publishJob_wf _ _ ho) ho
    · exact h

theorem execCompletionRecord_wf (tag : BitVec 32) (h : s.mem.wf = true) : ResMemWf (execCompletionRecord tag s) := by
  rw [execCompletionRecord]; (repeat' split) <;> simp [h]

theorem execFenceTimeout_wf (tag : BitVec 32) (target : BitVec 48) (h : s.mem.wf = true) :
    ResMemWf (execFenceTimeout tag target s) := by
  rw [execFenceTimeout]; (repeat' split) <;> simp [h]

theorem execBudgetExceeded_wf (tag : BitVec 32) (task : Nat) (h : s.mem.wf = true) :
    ResMemWf (execBudgetExceeded tag task s) := by
  rw [execBudgetExceeded]; (repeat' split) <;> simp [h]

theorem execTaskReady_wf (tag : BitVec 32) (task : Nat) (h : s.mem.wf = true) : ResMemWf (execTaskReady tag task s) := by
  rw [execTaskReady]; (repeat' split) <;> simp [h]

theorem execSaveBudgetMiss_wf (tag : BitVec 32) (budget : Fin 2) (h : s.mem.wf = true) :
    ResMemWf (execSaveBudgetMiss tag budget s) := by
  rw [execSaveBudgetMiss]; (repeat' split) <;> simp [h]

theorem execRestoreResume_wf (tag : BitVec 32) (at_ : Nat) (h : s.mem.wf = true) : ResMemWf (execRestoreResume tag at_ s) := by
  rw [execRestoreResume]; (repeat' split) <;> simp [h]

theorem execPrefetchIssue_wf (tag : BitVec 32) (entry : Nat) (h : s.mem.wf = true) :
    ResMemWf (execPrefetchIssue tag entry s) := by
  rw [execPrefetchIssue]
  split
  · exact h
  · split
    · exact h
    · split
      · refine resMemWf_ite _ ?_ h
        refine resMemWf_ite _ (tierFaultAt_wf _ _ _ _ (by rw [jmod_mem]; exact h)) ?_
        split
        · rw [resMemWf_next, jmod_mem]; exact h
        · refine resMemWf_ite _ ?_ (tierFaultAt_wf _ _ _ _ (by rw [jmod_mem]; exact h))
          rw [resMemWf_next, newReq_mem, jmod_mem]; exact h
      · exact h

theorem execPrefetchArrival_wf (tag : BitVec 32) (entry : Nat) (h : s.mem.wf = true) :
    ResMemWf (execPrefetchArrival tag entry s) := by
  rw [execPrefetchArrival]
  split
  · exact h
  · split
    · refine resMemWf_ite _ ?_ h
      extract_lets u
      have hu : u.mem.wf = true := by unfold u; rw [dropReqs_mem]; exact h
      clear_value u
      split
      · exact tierFaultAt_wf _ _ _ _ (failureEvent_wf _ _ _ _ _ hu)
      · split
        · exact tierFaultAt_wf _ _ _ _ hu
        · refine resMemWf_ite _ (programFault_wf _ _ (by rw [count_mem]; exact hu)) ?_
          exact resMemWf_ite _ (programFault_wf _ _ hu) (arriveCopy_wf _ _ _ _ _ hu)
    · exact h

theorem execTierMiss_wf (tag : BitVec 32) (entry : Nat) (h : s.mem.wf = true) : ResMemWf (execTierMiss tag entry s) := by
  rw [execTierMiss]; (repeat' split) <;> simp [h]

theorem execTierFault_wf (tag : BitVec 32) (entry : Nat) (kind : TierFaultKind) (h : s.mem.wf = true) :
    ResMemWf (execTierFault tag entry kind s) := by
  rw [execTierFault]; (repeat' split) <;> simp [h]

theorem execStreamRelocate_wf (number : BitVec 12) (block : Nat) (readable : Bool) (h : s.mem.wf = true) :
    ResMemWf (execStreamRelocate number block readable s) := by
  rw [execStreamRelocate]; (repeat' split) <;> simp [h]

theorem execSiphonDescriptorDone_wf (channel : Fin 544) (h : s.mem.wf = true) :
    ResMemWf (execSiphonDescriptorDone channel s) := by
  rw [execSiphonDescriptorDone]; (repeat' split) <;> simp [h]

theorem execSiphonFenceReturn_wf (channel : Fin 544) (target : BitVec 48) (h : s.mem.wf = true) :
    ResMemWf (execSiphonFenceReturn channel target s) := by
  rw [execSiphonFenceReturn]; (repeat' split) <;> simp [h]

theorem execPatrolScrub_wf (burst : BitVec 48) (symbols : Nat) (h : s.mem.wf = true) :
    ResMemWf (execPatrolScrub burst symbols s) := by
  rw [execPatrolScrub]
  refine resMemWf_ite _ h (resMemWf_ite _ h (resMemWf_ite _ h (resMemWf_ite _ ?_ ?_)))
  · have hc : ∀ a, (count 0x7415 5 1 (count a 2 1 s)).mem.wf = true := fun a => by rw [count_mem, count_mem]; exact h
    exact resMemWf_ite _ (failureEvent_wf _ _ _ _ _ (hc _)) (hc _)
  · have hc : ∀ c : Prop, ∀ [Decidable c], (if c then s else { s with freeCtr := s.freeCtr + 1 }).mem.wf = true :=
      fun c _ => ite_wf c h h
    refine resMemWf_ite _ (hc _) (failureEvent_wf _ _ _ _ _ ?_)
    rw [count_mem]
    exact hc _

theorem execEvacuationEnd_wf (sub : Fin 32) (h : s.mem.wf = true) : ResMemWf (execEvacuationEnd sub s) := by
  rw [execEvacuationEnd]; (repeat' split) <;> simp [h]

theorem execSpareCopyEnd_wf (cluster : Fin 64) (h : s.mem.wf = true) : ResMemWf (execSpareCopyEnd cluster s) := by
  rw [execSpareCopyEnd]; (repeat' split) <;> simp [h]

theorem execAquiferRequest_wf (m : Fin 4) (write : Bool) (address : BitVec 48) (length : Nat) (data : Bytes)
    (h : s.mem.wf = true) :
    ResMemWf (execAquiferRequest m write address length data s) := by
  rw [execAquiferRequest]
  refine resMemWf_ite _ h ?_
  extract_lets u
  have hu : u.mem.wf = true := by unfold u; rw [receiveBytes_mem]; exact h
  clear_value u
  refine resMemWf_ite _ (resMemWf_ite _ ?_ ?_) (resMemWf_ite _ ?_ ?_) <;> rw [resMemWf_next, roceReply_mem]
  · exact pokeCistern_wf _ _ _ hu
  all_goals exact hu

theorem execTransportFault_wf (p : Fin 3) (request : Nat) (h : s.mem.wf = true) : ResMemWf (execTransportFault p request s) := by
  rw [execTransportFault]; (repeat' split) <;> simp [h]

theorem execAckTimeout_wf (p : Fin 3) (request : Nat) (h : s.mem.wf = true) :
    ResMemWf (execAckTimeout p request s) := by simp [execAckTimeout, h]

theorem execFrameStart_wf (port : Fin 12) (vc : Fin 16) (at_ : Nat) (h : s.mem.wf = true) :
    ResMemWf (execFrameStart port vc at_ s) := by
  rw [execFrameStart]; (repeat' split) <;> simp [h]

theorem execCsiLongPacket_wf (port : Fin 12) (vc : Fin 16) (dtype : BitVec 8) (headerOk crcOk : Bool) (payload : Bytes)
    (h : s.mem.wf = true) :
    ResMemWf (execCsiLongPacket port vc dtype headerOk crcOk payload s) := by
  have hc : ∀ a b, (count a b 1 s).mem.wf = true := fun a b => by rw [count_mem]; exact h
  rw [execCsiLongPacket]
  refine resMemWf_ite _ h (resMemWf_ite _ (hc _ _) (resMemWf_ite _ (hc _ _) ?_))
  have hu : (if crcOk = true then s else count (0x4880 + port.val) 3 1 s).mem.wf = true := ite_wf _ h (hc _ _)
  dsimp only
  split
  · exact hu
  · exact resMemWf_ite _ hu (by rw [resMemWf_next, camLines_mem]; exact hu)

theorem execFrameEnd_wf (port : Fin 12) (vc : Fin 16) (h : s.mem.wf = true) : ResMemWf (execFrameEnd port vc s) := by
  rw [execFrameEnd]; (repeat' split) <;> simp [h]

theorem execBatchHandover_wf (stream : Fin 48) (h : s.mem.wf = true) : ResMemWf (execBatchHandover stream s) := by
  rw [execBatchHandover]; (repeat' split) <;> simp [h]

theorem execSampleTaken_wf (n : Fin 16) (h : s.mem.wf = true) : ResMemWf (execSampleTaken n s) := by
  rw [execSampleTaken]; (repeat' split) <;> simp [h]

theorem execDecodeStart_wf (decoder : Fin 4) (at_ : Nat) (h : s.mem.wf = true) : ResMemWf (execDecodeStart decoder at_ s) := by
  rw [execDecodeStart]; (repeat' split) <;> simp [h]

theorem execDecodeDone_wf (unit : Fin 5) (at_ : Nat) (h : s.mem.wf = true) : ResMemWf (execDecodeDone unit at_ s) := by
  have hu : (clockTo at_ s).mem.wf = true := by rw [clockTo_mem]; exact h
  rw [execDecodeDone]
  refine resMemWf_ite _ hu ?_
  split
  · exact hu
  next d _ =>
    have hv : (decoderSet unit.val none (clockTo at_ s)).mem.wf = true := by rw [decoderSet_mem]; exact hu
    dsimp only
    generalize decoderSet unit.val none (clockTo at_ s) = v at hv ⊢
    split
    · rw [resMemWf_next, tokenizerTake_mem]; exact hv
    · refine resMemWf_ite _ ?_ (resMemWf_ite _ ?_ ?_) <;> rw [resMemWf_next]
      · rw [tokenizerTake_mem, rejectSample_mem]; exact hv
      · rw [tokenizerTake_mem, finishText_mem]; exact hv
      · rw [finishImage_mem]; exact hv

theorem execOverBudget_wf (unit : Fin 5) (at_ : Nat) (h : s.mem.wf = true) : ResMemWf (execOverBudget unit at_ s) := by
  rw [execOverBudget]; (repeat' split) <;> simp [h]

theorem execCameraLinkLocked_wf (port : Fin 12) (h : s.mem.wf = true) :
    ResMemWf (execCameraLinkLocked port s) := by simp [execCameraLinkLocked, h]

theorem execCameraLinkLost_wf (port : Fin 12) (h : s.mem.wf = true) :
    ResMemWf (execCameraLinkLost port s) := by simp [execCameraLinkLost, h]

theorem execFunctionResetDone_wf (code : BitVec 16) (h : s.mem.wf = true) : ResMemWf (execFunctionResetDone code s) := by
  rw [execFunctionResetDone]; (repeat' split) <;> simp [h]

theorem execClockSlewEnd_wf (h : s.mem.wf = true) : ResMemWf (execClockSlewEnd s) := by simp [execClockSlewEnd, h]

theorem execSyncReceived_wf (gm : GmClock) (offset : BitVec 64) (h : s.mem.wf = true) :
    ResMemWf (execSyncReceived gm offset s) := by simp [execSyncReceived, h]

theorem execSyncTimeout_wf (h : s.mem.wf = true) : ResMemWf (execSyncTimeout s) := by
  rw [execSyncTimeout]; (repeat' split) <;> simp [h]

theorem execGmSelected_wf (self : Bool) (gm : GmClock) (h : s.mem.wf = true) :
    ResMemWf (execGmSelected self gm s) := by simp [execGmSelected, h]

theorem execSyncTransmit_wf (x : Fin 4) (h : s.mem.wf = true) : ResMemWf (execSyncTransmit x s) := by simp [execSyncTransmit, h]

theorem execPdelayExchange_wf (x : Fin 4) (delay : Nat) (h : s.mem.wf = true) :
    ResMemWf (execPdelayExchange x delay s) := by simp [execPdelayExchange, h]

theorem execPpsOutPulse_wf (h : s.mem.wf = true) : ResMemWf (execPpsOutPulse s) := by simp [execPpsOutPulse, h]

theorem execPpsInEdge_wf (at_ : Nat) (h : s.mem.wf = true) : ResMemWf (execPpsInEdge at_ s) := by
  rw [execPpsInEdge]; (repeat' split) <;> simp [h]

theorem execTimerFire_wf (timer : Fin 8) (h : s.mem.wf = true) : ResMemWf (execTimerFire timer s) := by
  rw [execTimerFire]
  refine resMemWf_ite _ ?_ h
  rw [resMemWf_next]
  split
  · rw [raiseEvent_mem, timerSet_mem, clockTo_mem]; exact h
  · rw [notifySubs_mem, timerSet_mem, clockTo_mem]; exact h
  · rw [ppsPulse_mem, timerSet_mem, clockTo_mem]; exact h

theorem execT1LinkUp_wf (x : Fin 4) (h : s.mem.wf = true) : ResMemWf (execT1LinkUp x s) := by simp [execT1LinkUp, h]
theorem execT1LinkDown_wf (x : Fin 4) (h : s.mem.wf = true) : ResMemWf (execT1LinkDown x s) := by simp [execT1LinkDown, h]

theorem execLaunchEligible_wf (x : Fin 4) (late : Nat) (h : s.mem.wf = true) : ResMemWf (execLaunchEligible x late s) := by
  rw [execLaunchEligible]; (repeat' split) <;> simp [h]

theorem execFabricLinkUp_wf (p : Fin 3) (lanes : BitVec 8) (h : s.mem.wf = true) : ResMemWf (execFabricLinkUp p lanes s) := by
  rw [execFabricLinkUp]; (repeat' split) <;> simp [h]

theorem execDiscoveryReceived_wf (p : Fin 3) (entry : Fin 3) (payload : Bytes) (h : s.mem.wf = true) :
    ResMemWf (execDiscoveryReceived p entry payload s) := by
  rw [execDiscoveryReceived]; (repeat' split) <;> simp [h]

theorem execFabricLinkDown_wf (p : Fin 3) (h : s.mem.wf = true) :
    ResMemWf (execFabricLinkDown p s) := by simp [execFabricLinkDown, h]

theorem execDomainOff_wf (d : Fin 24) (h : s.mem.wf = true) : ResMemWf (execDomainOff d s) := by simp [execDomainOff, h]

theorem execWeirSample_wf (input : Nat) (volts : Nat) (regions : List Nat) (h : s.mem.wf = true) :
    ResMemWf (execWeirSample input volts regions s) := by
  rw [execWeirSample]; (repeat' split) <;> simp [h]

theorem execDroopAlarm_wf (region : Fin 8) (micros : Nat) (h : s.mem.wf = true) : ResMemWf (execDroopAlarm region micros s) := by
  rw [execDroopAlarm]; (repeat' split) <;> simp [h]

theorem execDroopClear_wf (region : Fin 8) (micros : Nat) (h : s.mem.wf = true) :
    ResMemWf (execDroopClear region micros s) := by simp [execDroopClear, h]

theorem execPrearmStart_wf (tag : BitVec 32) (phase : Fin 4) (h : s.mem.wf = true) : ResMemWf (execPrearmStart tag phase s) := by
  rw [execPrearmStart]; (repeat' split) <;> simp [h]

theorem execPrearmEnd_wf (tag : BitVec 32) (phase : Fin 4) (h : s.mem.wf = true) : ResMemWf (execPrearmEnd tag phase s) := by
  rw [execPrearmEnd]; (repeat' split) <;> simp [h]

theorem execCoolOkLow_wf (h : s.mem.wf = true) : ResMemWf (execCoolOkLow s) := by
  rw [execCoolOkLow]; (repeat' split) <;> simp [h]

theorem execCoolOkQualified_wf (h : s.mem.wf = true) : ResMemWf (execCoolOkQualified s) := by simp [execCoolOkQualified, h]

theorem execTempSample_wf (temps : List (BitVec 32)) (h : s.mem.wf = true) : ResMemWf (execTempSample temps s) := by
  rw [execTempSample]; (repeat' split) <;> simp [h]

theorem execStandbyWake_wf (h : s.mem.wf = true) : ResMemWf (execStandbyWake s) := by
  rw [execStandbyWake]; (repeat' split) <;> simp [h]

theorem execFailureEvent_wf (unit : BitVec 32) (cause : EventCause) (confirmed : Bool) (job : Option (BitVec 32))
    (h : s.mem.wf = true) :
    ResMemWf (execFailureEvent unit cause confirmed job s) := by simp [execFailureEvent, h]

theorem execSramRetest_wf (unit : BitVec 32) (passed : Bool) (h : s.mem.wf = true) : ResMemWf (execSramRetest unit passed s) := by
  rw [execSramRetest]; (repeat' split) <;> simp [h]

theorem execFieldTestStart_wf (subject : Fin 512) (part : Fin 18) (h : s.mem.wf = true) :
    ResMemWf (execFieldTestStart subject part s) := by
  rw [execFieldTestStart]; (repeat' split) <;> simp [h]

theorem execFieldTestDone_wf (subject : Fin 512) (passed : Bool) (h : s.mem.wf = true) :
    ResMemWf (execFieldTestDone subject passed s) := by
  rw [execFieldTestDone]; (repeat' split) <;> simp [h]

theorem execFieldTestYield_wf (subject : Fin 512) (h : s.mem.wf = true) : ResMemWf (execFieldTestYield subject s) := by
  rw [execFieldTestYield]; (repeat' split) <;> simp [h]

theorem execCheckerTimeout_wf (subject : Fin 512) (h : s.mem.wf = true) : ResMemWf (execCheckerTimeout subject s) := by
  rw [execCheckerTimeout]; (repeat' split) <;> simp [h]

theorem execHeartbeatLoss_wf (function : BitVec 8) (h : s.mem.wf = true) : ResMemWf (execHeartbeatLoss function s) := by
  rw [execHeartbeatLoss]; (repeat' split) <;> simp [h]

theorem execStopAckTimeout_wf (t : Fin 512) (h : s.mem.wf = true) :
    ResMemWf (execStopAckTimeout t s) := by simp [execStopAckTimeout, h]

theorem execHostSilent_wf (h : s.mem.wf = true) : ResMemWf (execHostSilent s) := by simp [execHostSilent, h]
theorem execIslandMismatch_wf (h : s.mem.wf = true) : ResMemWf (execIslandMismatch s) := by simp [execIslandMismatch, h]

theorem execSafeStateEntry_wf (cause : Fin 11) (detail : BitVec 32) (_fault : Bool) (h : s.mem.wf = true) :
    ResMemWf (execSafeStateEntry cause detail _fault s) := by simp [execSafeStateEntry, h]

theorem execSafetyFrameRepeat_wf (h : s.mem.wf = true) : ResMemWf (execSafetyFrameRepeat s) := by simp [execSafetyFrameRepeat, h]
theorem execDeviceReset_wf (at_ : Nat) (h : s.mem.wf = true) : ResMemWf (execDeviceReset at_ s) := by simp [execDeviceReset, h]
theorem execResetNLow_wf (h : s.mem.wf = true) : ResMemWf (execResetNLow s) := by simp [execResetNLow, h]
theorem execUndervoltage_wf (h : s.mem.wf = true) : ResMemWf (execUndervoltage s) := by simp [execUndervoltage, h]
theorem execOvervoltage_wf (h : s.mem.wf = true) : ResMemWf (execOvervoltage s) := by simp [execOvervoltage, h]
theorem execPwrEnLow_wf (h : s.mem.wf = true) : ResMemWf (execPwrEnLow s) := by simp [execPwrEnLow, h]

theorem execColdStart_wf (selfCheckOk : Bool) (h : s.mem.wf = true) : ResMemWf (execColdStart selfCheckOk s) := by
  rw [execColdStart]; (repeat' split) <;> simp [h]

theorem execRegulatorRetry_wf (selfCheckOk : Bool) (h : s.mem.wf = true) :
    ResMemWf (execRegulatorRetry selfCheckOk s) := by simp [execRegulatorRetry, h]

theorem execDomainOnDone_wf (d : Fin 24) (h : s.mem.wf = true) : ResMemWf (execDomainOnDone d s) := by simp [execDomainOnDone, h]

theorem execDebugAuth_wf (signature : Bytes) (h : s.mem.wf = true) : ResMemWf (execDebugAuth signature s) := by
  rw [execDebugAuth]; (repeat' split) <;> simp [h]

theorem execDebugTransaction_wf (request : Bytes) (h : s.mem.wf = true) : ResMemWf (execDebugTransaction request s) := by
  rw [execDebugTransaction]
  refine resMemWf_ite _ h ?_
  split
  · exact h
  · exact ite_wf _ (by rw [newChallenge_mem]; exact h) h
  · refine resMemWf_ite _ (beginReset_wf _ _ _) h

theorem execQuoteReady_wf (h : s.mem.wf = true) : ResMemWf (execQuoteReady s) := by
  rw [execQuoteReady]
  exact resMemWf_ite _ h h

theorem execSessionOpen_wf (x : Fin 4) (peer : Bytes) (frame : Bytes) (h : s.mem.wf = true) :
    ResMemWf (execSessionOpen x peer frame s) := frameOfType_wf s _ _ _ _ h

theorem execSessionClose_wf (x : Fin 4) (frame : Bytes) (h : s.mem.wf = true) :
    ResMemWf (execSessionClose x frame s) := frameOfType_wf s _ _ _ _ h

theorem execRequest_wf (x : Fin 4) (frame : Bytes) (h : s.mem.wf = true) :
    ResMemWf (execRequest x frame s) := frameOfType_wf s _ _ _ _ h

theorem execNotifyAck_wf (x : Fin 4) (frame : Bytes) (h : s.mem.wf = true) :
    ResMemWf (execNotifyAck x frame s) := frameOfType_wf s _ _ _ _ h

theorem execKeepalive_wf (x : Fin 4) (frame : Bytes) (h : s.mem.wf = true) :
    ResMemWf (execKeepalive x frame s) := frameOfType_wf s _ _ _ _ h

theorem execSessionTimeout_wf (k : Fin 64) (h : s.mem.wf = true) :
    ResMemWf (execSessionTimeout k s) := by simp [execSessionTimeout, h]

theorem execNotifyTransmit_wf (k : Fin 64) (h : s.mem.wf = true) : ResMemWf (execNotifyTransmit k s) := by
  rw [execNotifyTransmit]; (repeat' split) <;> simp [h]

theorem execNotifyRetry_wf (k : Fin 64) (seq : BitVec 32) (h : s.mem.wf = true) : ResMemWf (execNotifyRetry k seq s) := by
  rw [execNotifyRetry]; (repeat' split) <;> simp [h]

theorem execT1FrameReceived_wf (x : Fin 4) (at_ : Nat) (frame : Bytes) (h : s.mem.wf = true) :
    ResMemWf (execT1FrameReceived x at_ frame s) := by
  rw [execT1FrameReceived]
  refine resMemWf_ite _ h (resMemWf_ite _ (by rw [resMemWf_next, unspoil_mem, clockTo_mem]; exact h) ?_)
  extract_lets u
  have hu : u.mem.wf = true := by unfold u; rw [clockTo_mem]; exact h
  clear_value u
  rw [resMemWf_next]
  split
  · rw [takeTime_mem]; exact hu
  · rw [takeFeedback_mem]; exact hu
  · exact ixideFrame_wf _ _ _ _ hu
  · rw [t1Answer_mem]; exact hu
  · rw [count_mem]; exact hu

theorem execFabricFrameReceived_wf (p : Fin 3) (frame : Bytes) (h : s.mem.wf = true) :
    ResMemWf (execFabricFrameReceived p frame s) := by
  rw [execFabricFrameReceived]
  refine resMemWf_ite _ h (resMemWf_ite _ (by rw [resMemWf_next, unspoil_mem]; exact h) ?_)
  extract_lets u
  have hu : u.mem.wf = true := by unfold u; rw [receiveBytes_mem]; exact h
  clear_value u
  split
  · rw [resMemWf_next, takePfc_mem]; exact hu
  · exact ite_wf _ (by rw [fabricAnswer_mem]; exact hu) hu

theorem execIxideRead_wf (k : Fin 64) (o : IxideOp) (h : s.mem.wf = true) :
    ResMemWf (execIxideRead k o s) := runReq_wf s _ _ h fun u hu => operation_wf u _ _ hu

theorem execIxideWrite_wf (k : Fin 64) (o : IxideOp) (h : s.mem.wf = true) :
    ResMemWf (execIxideWrite k o s) := runReq_wf s _ _ h fun u hu => operation_wf u _ _ hu

theorem execMemRead_wf (k : Fin 64) (o : IxideOp) (h : s.mem.wf = true) :
    ResMemWf (execMemRead k o s) := runReq_wf s _ _ h fun u hu => operation_wf u _ _ hu

theorem execMemWrite_wf (k : Fin 64) (o : IxideOp) (h : s.mem.wf = true) :
    ResMemWf (execMemWrite k o s) := runReq_wf s _ _ h fun u hu => operation_wf u _ _ hu

theorem execDescribe_wf (k : Fin 64) (data : Bytes) (h : s.mem.wf = true) :
    ResMemWf (execDescribe k data s) := hostWrite_wf s _ _ _ _ h

theorem execLifecycleNonceRead_wf (k : Fin 64) (h : s.mem.wf = true) :
    ResMemWf (execLifecycleNonceRead k s) := hostRead_wf s _ _ _ _ h

theorem execNextCompletion_wf (k : Fin 64) (q : Fin 4096) (h : s.mem.wf = true) :
    ResMemWf (execNextCompletion k q s) := hostRead_wf s _ _ _ _ h

theorem execConfigWrite_wf (k : Fin 64) (index : BitVec 16) (sub : BitVec 8) (data : Bytes) (h : s.mem.wf = true) :
    ResMemWf (execConfigWrite k index sub data s) := hostWrite_wf s _ _ _ _ h

theorem execEventsClear_wf (k : Fin 64) (value : BitVec 32) (h : s.mem.wf = true) :
    ResMemWf (execEventsClear k value s) := hostWrite_wf s _ _ _ _ h

theorem execQueueConfigWrite_wf (k : Fin 64) (q : Fin 4096) (sub : Fin 4) (data : Bytes) (h : s.mem.wf = true) :
    ResMemWf (execQueueConfigWrite k q sub data s) := hostWrite_wf s _ _ _ _ h

theorem execQueueStart_wf (k : Fin 64) (q : Fin 4096) (h : s.mem.wf = true) :
    ResMemWf (execQueueStart k q s) := hostWrite_wf s _ _ _ _ h

theorem execQueueStop_wf (k : Fin 64) (q : Fin 4096) (h : s.mem.wf = true) :
    ResMemWf (execQueueStop k q s) := hostWrite_wf s _ _ _ _ h

theorem execQueueFlush_wf (k : Fin 64) (q : Fin 4096) (h : s.mem.wf = true) :
    ResMemWf (execQueueFlush k q s) := hostWrite_wf s _ _ _ _ h

theorem execSubmit_wf (k : Fin 64) (q : Fin 4096) (desc : Bytes) (h : s.mem.wf = true) :
    ResMemWf (execSubmit k q desc s) := hostWrite_wf s _ _ _ _ h

theorem execCancel_wf (k : Fin 64) (q : Fin 4096) (tag : BitVec 32) (h : s.mem.wf = true) :
    ResMemWf (execCancel k q tag s) := hostWrite_wf s _ _ _ _ h

theorem execStreamOpen_wf (k : Fin 64) (c : StreamCmd) (h : s.mem.wf = true) :
    ResMemWf (execStreamOpen k c s) := hostWrite_wf s _ _ _ _ h

theorem execStreamClose_wf (k : Fin 64) (c : StreamCmd) (h : s.mem.wf = true) :
    ResMemWf (execStreamClose k c s) := hostWrite_wf s _ _ _ _ h

theorem execStreamExport_wf (k : Fin 64) (c : StreamCmd) (h : s.mem.wf = true) :
    ResMemWf (execStreamExport k c s) := hostWrite_wf s _ _ _ _ h

theorem execStreamImport_wf (k : Fin 64) (c : StreamCmd) (h : s.mem.wf = true) :
    ResMemWf (execStreamImport k c s) := hostWrite_wf s _ _ _ _ h

theorem execStreamQuery_wf (k : Fin 64) (c : StreamCmd) (h : s.mem.wf = true) :
    ResMemWf (execStreamQuery k c s) := hostWrite_wf s _ _ _ _ h

theorem execStreamZero_wf (k : Fin 64) (c : StreamCmd) (h : s.mem.wf = true) :
    ResMemWf (execStreamZero k c s) := hostWrite_wf s _ _ _ _ h

theorem execSeqOpen_wf (k : Fin 64) (c : SeqCmd) (h : s.mem.wf = true) : ResMemWf (execSeqOpen k c s) := hostWrite_wf s _ _ _ _ h
theorem execSeqFork_wf (k : Fin 64) (c : SeqCmd) (h : s.mem.wf = true) : ResMemWf (execSeqFork k c s) := hostWrite_wf s _ _ _ _ h

theorem execSeqClose_wf (k : Fin 64) (c : SeqCmd) (h : s.mem.wf = true) :
    ResMemWf (execSeqClose k c s) := hostWrite_wf s _ _ _ _ h

theorem execSeqQuery_wf (k : Fin 64) (c : SeqCmd) (h : s.mem.wf = true) :
    ResMemWf (execSeqQuery k c s) := hostWrite_wf s _ _ _ _ h

theorem execSeqPage_wf (k : Fin 64) (c : SeqCmd) (h : s.mem.wf = true) : ResMemWf (execSeqPage k c s) := hostWrite_wf s _ _ _ _ h

theorem execPoolFramesWrite_wf (k : Fin 64) (p : Fin 4) (value : BitVec 32) (h : s.mem.wf = true) :
    ResMemWf (execPoolFramesWrite k p value s) := hostWrite_wf s _ _ _ _ h

theorem execTableCreate_wf (k : Fin 64) (c : TableCmd) (h : s.mem.wf = true) :
    ResMemWf (execTableCreate k c s) := hostWrite_wf s _ _ _ _ h

theorem execTableBranch_wf (k : Fin 64) (c : TableCmd) (h : s.mem.wf = true) :
    ResMemWf (execTableBranch k c s) := hostWrite_wf s _ _ _ _ h

theorem execTablePrune_wf (k : Fin 64) (c : TableCmd) (h : s.mem.wf = true) :
    ResMemWf (execTablePrune k c s) := hostWrite_wf s _ _ _ _ h

theorem execTableClose_wf (k : Fin 64) (c : TableCmd) (h : s.mem.wf = true) :
    ResMemWf (execTableClose k c s) := hostWrite_wf s _ _ _ _ h

theorem execTableQuery_wf (k : Fin 64) (c : TableCmd) (h : s.mem.wf = true) :
    ResMemWf (execTableQuery k c s) := hostWrite_wf s _ _ _ _ h

theorem execMapStart_wf (k : Fin 64) (h : s.mem.wf = true) : ResMemWf (execMapStart k s) := hostWrite_wf s _ _ _ _ h
theorem execMapStop_wf (k : Fin 64) (h : s.mem.wf = true) : ResMemWf (execMapStop k s) := hostWrite_wf s _ _ _ _ h

theorem execSelectorStart_wf (k : Fin 64) (ch : Fin 16) (h : s.mem.wf = true) :
    ResMemWf (execSelectorStart k ch s) := hostWrite_wf s _ _ _ _ h

theorem execSelectorStop_wf (k : Fin 64) (ch : Fin 16) (h : s.mem.wf = true) :
    ResMemWf (execSelectorStop k ch s) := hostWrite_wf s _ _ _ _ h

theorem execTensorCreate_wf (k : Fin 64) (c : DirCmd) (h : s.mem.wf = true) :
    ResMemWf (execTensorCreate k c s) := hostWrite_wf s _ _ _ _ h

theorem execTensorFree_wf (k : Fin 64) (c : DirCmd) (h : s.mem.wf = true) :
    ResMemWf (execTensorFree k c s) := hostWrite_wf s _ _ _ _ h

theorem execTensorLoad_wf (k : Fin 64) (c : DirCmd) (h : s.mem.wf = true) :
    ResMemWf (execTensorLoad k c s) := hostWrite_wf s _ _ _ _ h

theorem execTensorStore_wf (k : Fin 64) (c : DirCmd) (h : s.mem.wf = true) :
    ResMemWf (execTensorStore k c s) := hostWrite_wf s _ _ _ _ h

theorem execTensorFill_wf (k : Fin 64) (c : DirCmd) (h : s.mem.wf = true) :
    ResMemWf (execTensorFill k c s) := hostWrite_wf s _ _ _ _ h

theorem execTensorMigrate_wf (k : Fin 64) (c : DirCmd) (h : s.mem.wf = true) :
    ResMemWf (execTensorMigrate k c s) := hostWrite_wf s _ _ _ _ h

theorem execTensorQuery_wf (k : Fin 64) (c : DirCmd) (h : s.mem.wf = true) :
    ResMemWf (execTensorQuery k c s) := hostWrite_wf s _ _ _ _ h

theorem execObjectDelete_wf (k : Fin 64) (object : BitVec 16) (h : s.mem.wf = true) :
    ResMemWf (execObjectDelete k object s) := hostWrite_wf s _ _ _ _ h

theorem execCatalogueSelect_wf (k : Fin 64) (object : BitVec 16) (h : s.mem.wf = true) :
    ResMemWf (execCatalogueSelect k object s) := hostWrite_wf s _ _ _ _ h

theorem execPartitionStart_wf (k : Fin 64) (p : Fin 64) (h : s.mem.wf = true) :
    ResMemWf (execPartitionStart k p s) := hostWrite_wf s _ _ _ _ h

theorem execPartitionStop_wf (k : Fin 64) (p : Fin 64) (h : s.mem.wf = true) :
    ResMemWf (execPartitionStop k p s) := hostWrite_wf s _ _ _ _ h

theorem execPartitionReset_wf (k : Fin 64) (p : Fin 64) (h : s.mem.wf = true) :
    ResMemWf (execPartitionReset k p s) := hostWrite_wf s _ _ _ _ h

theorem execResetWellhead_wf (k : Fin 64) (inst : BitVec 8) (h : s.mem.wf = true) :
    ResMemWf (execResetWellhead k inst s) := hostWrite_wf s _ _ _ _ h

theorem execResetFusion_wf (k : Fin 64) (inst : BitVec 8) (h : s.mem.wf = true) :
    ResMemWf (execResetFusion k inst s) := hostWrite_wf s _ _ _ _ h

theorem execResetSelector_wf (k : Fin 64) (inst : BitVec 8) (h : s.mem.wf = true) :
    ResMemWf (execResetSelector k inst s) := hostWrite_wf s _ _ _ _ h

theorem execResetFabricPort_wf (k : Fin 64) (inst : BitVec 8) (h : s.mem.wf = true) :
    ResMemWf (execResetFabricPort k inst s) := hostWrite_wf s _ _ _ _ h

theorem execResetT1Port_wf (k : Fin 64) (inst : BitVec 8) (h : s.mem.wf = true) :
    ResMemWf (execResetT1Port k inst s) := hostWrite_wf s _ _ _ _ h

theorem execResetControlComplex_wf (k : Fin 64) (inst : BitVec 8) (h : s.mem.wf = true) :
    ResMemWf (execResetControlComplex k inst s) := hostWrite_wf s _ _ _ _ h

theorem execCameraStreamStart_wf (k : Fin 64) (n : Fin 32) (h : s.mem.wf = true) :
    ResMemWf (execCameraStreamStart k n s) := hostWrite_wf s _ _ _ _ h

theorem execCameraStreamStop_wf (k : Fin 64) (n : Fin 32) (h : s.mem.wf = true) :
    ResMemWf (execCameraStreamStop k n s) := hostWrite_wf s _ _ _ _ h

theorem execSampleStreamStart_wf (k : Fin 64) (n : Fin 16) (h : s.mem.wf = true) :
    ResMemWf (execSampleStreamStart k n s) := hostWrite_wf s _ _ _ _ h

theorem execSampleStreamStop_wf (k : Fin 64) (n : Fin 16) (h : s.mem.wf = true) :
    ResMemWf (execSampleStreamStop k n s) := hostWrite_wf s _ _ _ _ h

theorem execSampleStreamFlush_wf (k : Fin 64) (n : Fin 16) (h : s.mem.wf = true) :
    ResMemWf (execSampleStreamFlush k n s) := hostWrite_wf s _ _ _ _ h

theorem execDictLoad_wf (k : Fin 64) (h : s.mem.wf = true) : ResMemWf (execDictLoad k s) := hostWrite_wf s _ _ _ _ h
theorem execFusionStart_wf (k : Fin 64) (h : s.mem.wf = true) : ResMemWf (execFusionStart k s) := hostWrite_wf s _ _ _ _ h
theorem execFusionStop_wf (k : Fin 64) (h : s.mem.wf = true) : ResMemWf (execFusionStop k s) := hostWrite_wf s _ _ _ _ h

theorem execFusionRecordWrite_wf (k : Fin 64) (i : Fin 16) (record : Bytes) (h : s.mem.wf = true) :
    ResMemWf (execFusionRecordWrite k i record s) := hostWrite_wf s _ _ _ _ h

theorem execSolverStart_wf (k : Fin 64) (h : s.mem.wf = true) : ResMemWf (execSolverStart k s) := hostWrite_wf s _ _ _ _ h
theorem execSolverStop_wf (k : Fin 64) (h : s.mem.wf = true) : ResMemWf (execSolverStop k s) := hostWrite_wf s _ _ _ _ h

theorem execSolverSelect_wf (k : Fin 64) (slot : BitVec 8) (h : s.mem.wf = true) :
    ResMemWf (execSolverSelect k slot s) := hostWrite_wf s _ _ _ _ h

theorem execSolverRecordWrite_wf (k : Fin 64) (record : Bytes) (h : s.mem.wf = true) :
    ResMemWf (execSolverRecordWrite k record s) := hostWrite_wf s _ _ _ _ h

theorem execScheduleLoad_wf (k : Fin 64) (slot : Fin 2) (h : s.mem.wf = true) :
    ResMemWf (execScheduleLoad k slot s) := hostWrite_wf s _ _ _ _ h

theorem execPumpStart_wf (k : Fin 64) (h : s.mem.wf = true) : ResMemWf (execPumpStart k s) := hostWrite_wf s _ _ _ _ h
theorem execPumpStop_wf (k : Fin 64) (h : s.mem.wf = true) : ResMemWf (execPumpStop k s) := hostWrite_wf s _ _ _ _ h

theorem execPumpCmdRecordWrite_wf (k : Fin 64) (record : Bytes) (h : s.mem.wf = true) :
    ResMemWf (execPumpCmdRecordWrite k record s) := hostWrite_wf s _ _ _ _ h

theorem execAxisEnable_wf (k : Fin 64) (n : Fin 64) (h : s.mem.wf = true) :
    ResMemWf (execAxisEnable k n s) := hostWrite_wf s _ _ _ _ h

theorem execAxisDisable_wf (k : Fin 64) (n : Fin 64) (h : s.mem.wf = true) :
    ResMemWf (execAxisDisable k n s) := hostWrite_wf s _ _ _ _ h

theorem execTablesLoad_wf (k : Fin 64) (n : Fin 64) (h : s.mem.wf = true) :
    ResMemWf (execTablesLoad k n s) := hostWrite_wf s _ _ _ _ h

theorem execAxisLawWrite_wf (k : Fin 64) (n : Fin 64) (law : Bytes) (h : s.mem.wf = true) :
    ResMemWf (execAxisLawWrite k n law s) := hostWrite_wf s _ _ _ _ h

theorem execClockAdjust_wf (k : Fin 64) (delta : BitVec 64) (h : s.mem.wf = true) :
    ResMemWf (execClockAdjust k delta s) := hostWrite_wf s _ _ _ _ h

theorem execAsStart_wf (k : Fin 64) (h : s.mem.wf = true) : ResMemWf (execAsStart k s) := hostWrite_wf s _ _ _ _ h
theorem execAsStop_wf (k : Fin 64) (h : s.mem.wf = true) : ResMemWf (execAsStop k s) := hostWrite_wf s _ _ _ _ h

theorem execPpsEnableWrite_wf (k : Fin 64) (value : BitVec 8) (h : s.mem.wf = true) :
    ResMemWf (execPpsEnableWrite k value s) := hostWrite_wf s _ _ _ _ h

theorem execTimerStart_wf (k : Fin 64) (timer : Fin 8) (h : s.mem.wf = true) :
    ResMemWf (execTimerStart k timer s) := hostWrite_wf s _ _ _ _ h

theorem execTimerStop_wf (k : Fin 64) (timer : Fin 8) (h : s.mem.wf = true) :
    ResMemWf (execTimerStop k timer s) := hostWrite_wf s _ _ _ _ h

theorem execT1PortStart_wf (k : Fin 64) (x : Fin 4) (h : s.mem.wf = true) :
    ResMemWf (execT1PortStart k x s) := hostWrite_wf s _ _ _ _ h

theorem execT1PortStop_wf (k : Fin 64) (x : Fin 4) (h : s.mem.wf = true) :
    ResMemWf (execT1PortStop k x s) := hostWrite_wf s _ _ _ _ h

theorem execTimedWrite_wf (k : Fin 64) (x : Fin 4) (value : BitVec 8) (h : s.mem.wf = true) :
    ResMemWf (execTimedWrite k x value s) := hostWrite_wf s _ _ _ _ h

theorem execTimedFrame_wf (k : Fin 64) (x : Fin 4) (data : Bytes) (h : s.mem.wf = true) :
    ResMemWf (execTimedFrame k x data s) := hostWrite_wf s _ _ _ _ h

theorem execFabricPortStart_wf (k : Fin 64) (p : Fin 3) (h : s.mem.wf = true) :
    ResMemWf (execFabricPortStart k p s) := hostWrite_wf s _ _ _ _ h

theorem execFabricPortStop_wf (k : Fin 64) (p : Fin 3) (h : s.mem.wf = true) :
    ResMemWf (execFabricPortStop k p s) := hostWrite_wf s _ _ _ _ h

theorem execDomainsEnableWrite_wf (k : Fin 64) (value : BitVec 32) (h : s.mem.wf = true) :
    ResMemWf (execDomainsEnableWrite k value s) := hostWrite_wf s _ _ _ _ h

theorem execCapWrite_wf (k : Fin 64) (peak : Bool) (value : BitVec 16) (h : s.mem.wf = true) :
    ResMemWf (execCapWrite k peak value s) := hostWrite_wf s _ _ _ _ h

theorem execStandbyEnter_wf (k : Fin 64) (h : s.mem.wf = true) : ResMemWf (execStandbyEnter k s) := hostWrite_wf s _ _ _ _ h

theorem execSafeRequest_wf (k : Fin 64) (value : BitVec 8) (h : s.mem.wf = true) :
    ResMemWf (execSafeRequest k value s) := hostWrite_wf s _ _ _ _ h

theorem execSafeClear_wf (k : Fin 64) (value : BitVec 16) (h : s.mem.wf = true) :
    ResMemWf (execSafeClear k value s) := hostWrite_wf s _ _ _ _ h

theorem execTriggersWrite_wf (k : Fin 64) (value : BitVec 32) (h : s.mem.wf = true) :
    ResMemWf (execTriggersWrite k value s) := hostWrite_wf s _ _ _ _ h

theorem execDeviceResetWrite_wf (k : Fin 64) (value : BitVec 8) (h : s.mem.wf = true) :
    ResMemWf (execDeviceResetWrite k value s) := hostWrite_wf s _ _ _ _ h

theorem execUpdateBegin_wf (k : Fin 64) (h : s.mem.wf = true) : ResMemWf (execUpdateBegin k s) := hostWrite_wf s _ _ _ _ h

theorem execUpdateChunk_wf (k : Fin 64) (chunk : Bytes) (h : s.mem.wf = true) :
    ResMemWf (execUpdateChunk k chunk s) := hostWrite_wf s _ _ _ _ h

theorem execUpdateCommit_wf (k : Fin 64) (h : s.mem.wf = true) : ResMemWf (execUpdateCommit k s) := hostWrite_wf s _ _ _ _ h
theorem execUpdateAbort_wf (k : Fin 64) (h : s.mem.wf = true) : ResMemWf (execUpdateAbort k s) := hostWrite_wf s _ _ _ _ h

theorem execMinSvnWrite_wf (k : Fin 64) (value : BitVec 16) (h : s.mem.wf = true) :
    ResMemWf (execMinSvnWrite k value s) := hostWrite_wf s _ _ _ _ h

theorem execKeyRevoke_wf (k : Fin 64) (slot : BitVec 8) (h : s.mem.wf = true) :
    ResMemWf (execKeyRevoke k slot s) := hostWrite_wf s _ _ _ _ h

theorem execLifecycleRequest_wf (k : Fin 64) (request : Bytes) (h : s.mem.wf = true) :
    ResMemWf (execLifecycleRequest k request s) := hostWrite_wf s _ _ _ _ h

theorem execQuoteRequest_wf (k : Fin 64) (nonce : Bytes) (h : s.mem.wf = true) :
    ResMemWf (execQuoteRequest k nonce s) := hostWrite_wf s _ _ _ _ h

theorem execSessionCloseWrite_wf (k : Fin 64) (j : Fin 64) (value : BitVec 8) (h : s.mem.wf = true) :
    ResMemWf (execSessionCloseWrite k j value s) := hostWrite_wf s _ _ _ _ h

/-! ## Every command, and every step -/

theorem exec_wf (s : State) : (c : Instr) → s.mem.wf = true → ResMemWf (exec c s)
  | .configWrite k index sub data, h => execConfigWrite_wf s k index sub data h
  | .eventsClear k value, h => execEventsClear_wf s k value h
  | .queueConfigWrite k q sub data, h => execQueueConfigWrite_wf s k q sub data h
  | .queueStart k q, h => execQueueStart_wf s k q h
  | .queueStop k q, h => execQueueStop_wf s k q h
  | .queueFlush k q, h => execQueueFlush_wf s k q h
  | .submit k q desc, h => execSubmit_wf s k q desc h
  | .cancel k q tag, h => execCancel_wf s k q tag h
  | .nextCompletion k q, h => execNextCompletion_wf s k q h
  | .slotBoundary, h => execSlotBoundary_wf s h
  | .commitInstant tag at_, h => execCommitInstant_wf s tag at_ h
  | .commitPublish tag, h => execCommitPublish_wf s tag h
  | .completionRecord tag, h => execCompletionRecord_wf s tag h
  | .fenceTimeout tag target, h => execFenceTimeout_wf s tag target h
  | .budgetExceeded tag task, h => execBudgetExceeded_wf s tag task h
  | .nop t f, h => execNop_wf s t f h
  | .ldw t f, h => execLdw_wf s t f h
  | .mma t f, h => execMma_wf s t f h
  | .aclr t f, h => execAclr_wf s t f h
  | .drain t f, h => execDrain_wf s t f h
  | .ald t f, h => execAld_wf s t f h
  | .ast t f, h => execAst_wf s t f h
  | .vld t f, h => execVld_wf s t f h
  | .vst t f, h => execVst_wf s t f h
  | .vlda t f, h => execVlda_wf s t f h
  | .vsta t f, h => execVsta_wf s t f h
  | .vadd t f, h => execVadd_wf s t f h
  | .vmul t f, h => execVmul_wf s t f h
  | .vfma t f, h => execVfma_wf s t f h
  | .vmax t f, h => execVmax_wf s t f h
  | .vmin t f, h => execVmin_wf s t f h
  | .vcmp t f, h => execVcmp_wf s t f h
  | .vsel t f, h => execVsel_wf s t f h
  | .vcvt t f, h => execVcvt_wf s t f h
  | .vrq t f, h => execVrq_wf s t f h
  | .vmxq t f, h => execVmxq_wf s t f h
  | .vred t f, h => execVred_wf s t f h
  | .vexp t f, h => execVexp_wf s t f h
  | .vlog t f, h => execVlog_wf s t f h
  | .vrcp t f, h => execVrcp_wf s t f h
  | .vrsq t f, h => execVrsq_wf s t f h
  | .vsig t f, h => execVsig_wf s t f h
  | .vtanh t f, h => execVtanh_wf s t f h
  | .vsilu t f, h => execVsilu_wf s t f h
  | .vgelu t f, h => execVgelu_wf s t f h
  | .vsplus t f, h => execVsplus_wf s t f h
  | .rstep t f, h => execRstep_wf s t f h
  | .zcfg t f, h => execZcfg_wf s t f h
  | .agset t f, h => execAgset_wf s t f h
  | .dma t f, h => execDma_wf s t f h
  | .fence t f, h => execFence_wf s t f h
  | .bar t f, h => execBar_wf s t f h
  | .evwait t f, h => execEvwait_wf s t f h
  | .evsig t f, h => execEvsig_wf s t f h
  | .loop t f, h => execLoop_wf s t f h
  | .endl t f, h => execEndl_wf s t f h
  | .end_ t f, h => execEnd_wf s t f h
  | .streamOpen k c, h => execStreamOpen_wf s k c h
  | .streamClose k c, h => execStreamClose_wf s k c h
  | .streamExport k c, h => execStreamExport_wf s k c h
  | .streamImport k c, h => execStreamImport_wf s k c h
  | .streamQuery k c, h => execStreamQuery_wf s k c h
  | .streamZero k c, h => execStreamZero_wf s k c h
  | .streamRelocate number block readable, h => execStreamRelocate_wf s number block readable h
  | .seqOpen k c, h => execSeqOpen_wf s k c h
  | .seqFork k c, h => execSeqFork_wf s k c h
  | .seqClose k c, h => execSeqClose_wf s k c h
  | .seqQuery k c, h => execSeqQuery_wf s k c h
  | .seqPage k c, h => execSeqPage_wf s k c h
  | .poolFramesWrite k p value, h => execPoolFramesWrite_wf s k p value h
  | .tableCreate k c, h => execTableCreate_wf s k c h
  | .tableBranch k c, h => execTableBranch_wf s k c h
  | .tablePrune k c, h => execTablePrune_wf s k c h
  | .tableClose k c, h => execTableClose_wf s k c h
  | .tableQuery k c, h => execTableQuery_wf s k c h
  | .mapStart k, h => execMapStart_wf s k h
  | .mapStop k, h => execMapStop_wf s k h
  | .mapFlip, h => execMapFlip_wf s h
  | .selectorStart k ch, h => execSelectorStart_wf s k ch h
  | .selectorStop k ch, h => execSelectorStop_wf s k ch h
  | .selectorCloseTimer ch, h => execSelectorCloseTimer_wf s ch h
  | .selectorClosed ch, h => execSelectorClosed_wf s ch h
  | .selectorRelease ch, h => execSelectorRelease_wf s ch h
  | .tensorCreate k c, h => execTensorCreate_wf s k c h
  | .tensorFree k c, h => execTensorFree_wf s k c h
  | .tensorLoad k c, h => execTensorLoad_wf s k c h
  | .tensorStore k c, h => execTensorStore_wf s k c h
  | .tensorFill k c, h => execTensorFill_wf s k c h
  | .tensorMigrate k c, h => execTensorMigrate_wf s k c h
  | .tensorQuery k c, h => execTensorQuery_wf s k c h
  | .objectDelete k object, h => execObjectDelete_wf s k object h
  | .catalogueSelect k object, h => execCatalogueSelect_wf s k object h
  | .prefetchIssue tag entry, h => execPrefetchIssue_wf s tag entry h
  | .prefetchArrival tag entry, h => execPrefetchArrival_wf s tag entry h
  | .tierMiss tag entry, h => execTierMiss_wf s tag entry h
  | .tierFault tag entry kind, h => execTierFault_wf s tag entry kind h
  | .patrolScrub burst symbols, h => execPatrolScrub_wf s burst symbols h
  | .evacuationEnd sub, h => execEvacuationEnd_wf s sub h
  | .spareCopyEnd cluster, h => execSpareCopyEnd_wf s cluster h
  | .aquiferRequest m write address length data, h => execAquiferRequest_wf s m write address length data h
  | .transportFault p request, h => execTransportFault_wf s p request h
  | .partitionStart k p, h => execPartitionStart_wf s k p h
  | .partitionStop k p, h => execPartitionStop_wf s k p h
  | .partitionReset k p, h => execPartitionReset_wf s k p h
  | .taskReady tag task, h => execTaskReady_wf s tag task h
  | .saveBudgetMiss tag budget, h => execSaveBudgetMiss_wf s tag budget h
  | .restoreResume tag at_, h => execRestoreResume_wf s tag at_ h
  | .resetWellhead k inst, h => execResetWellhead_wf s k inst h
  | .resetFusion k inst, h => execResetFusion_wf s k inst h
  | .resetSelector k inst, h => execResetSelector_wf s k inst h
  | .resetFabricPort k inst, h => execResetFabricPort_wf s k inst h
  | .resetT1Port k inst, h => execResetT1Port_wf s k inst h
  | .resetControlComplex k inst, h => execResetControlComplex_wf s k inst h
  | .functionResetDone code, h => execFunctionResetDone_wf s code h
  | .cameraStreamStart k n, h => execCameraStreamStart_wf s k n h
  | .cameraStreamStop k n, h => execCameraStreamStop_wf s k n h
  | .sampleStreamStart k n, h => execSampleStreamStart_wf s k n h
  | .sampleStreamStop k n, h => execSampleStreamStop_wf s k n h
  | .sampleStreamFlush k n, h => execSampleStreamFlush_wf s k n h
  | .dictLoad k, h => execDictLoad_wf s k h
  | .frameStart port vc at_, h => execFrameStart_wf s port vc at_ h
  | .csiLongPacket port vc dtype headerOk crcOk payload, h => execCsiLongPacket_wf s port vc dtype headerOk crcOk payload h
  | .frameEnd port vc, h => execFrameEnd_wf s port vc h
  | .batchHandover stream, h => execBatchHandover_wf s stream h
  | .sampleTaken n, h => execSampleTaken_wf s n h
  | .decodeStart decoder at_, h => execDecodeStart_wf s decoder at_ h
  | .decodeDone unit at_, h => execDecodeDone_wf s unit at_ h
  | .overBudget unit at_, h => execOverBudget_wf s unit at_ h
  | .fusionStart k, h => execFusionStart_wf s k h
  | .fusionStop k, h => execFusionStop_wf s k h
  | .fusionRecordWrite k i record, h => execFusionRecordWrite_wf s k i record h
  | .fusionCycle, h => execFusionCycle_wf s h
  | .solverStart k, h => execSolverStart_wf s k h
  | .solverStop k, h => execSolverStop_wf s k h
  | .solverSelect k slot, h => execSolverSelect_wf s k slot h
  | .solverRecordWrite k record, h => execSolverRecordWrite_wf s k record h
  | .scheduleLoad k slot, h => execScheduleLoad_wf s k slot h
  | .scheduleLoadDone slot, h => execScheduleLoadDone_wf s slot h
  | .solverCycle, h => execSolverCycle_wf s h
  | .solverOutput, h => execSolverOutput_wf s h
  | .pumpStart k, h => execPumpStart_wf s k h
  | .pumpStop k, h => execPumpStop_wf s k h
  | .pumpCmdRecordWrite k record, h => execPumpCmdRecordWrite_wf s k record h
  | .axisEnable k n, h => execAxisEnable_wf s k n h
  | .axisDisable k n, h => execAxisDisable_wf s k n h
  | .tablesLoad k n, h => execTablesLoad_wf s k n h
  | .tablesLoadDone n, h => execTablesLoadDone_wf s n h
  | .axisLawWrite k n law, h => execAxisLawWrite_wf s k n law h
  | .feedbackFrame x payload, h => execFeedbackFrame_wf s x payload h
  | .pumpSample g, h => execPumpSample_wf s g h
  | .pumpFrameHandoff g lateSlots, h => execPumpFrameHandoff_wf s g lateSlots h
  | .clockAdjust k delta, h => execClockAdjust_wf s k delta h
  | .clockSlewEnd, h => execClockSlewEnd_wf s h
  | .asStart k, h => execAsStart_wf s k h
  | .asStop k, h => execAsStop_wf s k h
  | .syncReceived gm offset, h => execSyncReceived_wf s gm offset h
  | .syncTimeout, h => execSyncTimeout_wf s h
  | .gmSelected self gm, h => execGmSelected_wf s self gm h
  | .syncTransmit x, h => execSyncTransmit_wf s x h
  | .pdelayExchange x delay, h => execPdelayExchange_wf s x delay h
  | .ppsOutPulse, h => execPpsOutPulse_wf s h
  | .ppsInEdge at_, h => execPpsInEdge_wf s at_ h
  | .ppsEnableWrite k value, h => execPpsEnableWrite_wf s k value h
  | .timerStart k timer, h => execTimerStart_wf s k timer h
  | .timerStop k timer, h => execTimerStop_wf s k timer h
  | .timerFire timer, h => execTimerFire_wf s timer h
  | .t1PortStart k x, h => execT1PortStart_wf s k x h
  | .t1PortStop k x, h => execT1PortStop_wf s k x h
  | .t1LinkUp x, h => execT1LinkUp_wf s x h
  | .t1LinkDown x, h => execT1LinkDown_wf s x h
  | .t1FrameReceived x at_ frame, h => execT1FrameReceived_wf s x at_ frame h
  | .timedWrite k x value, h => execTimedWrite_wf s k x value h
  | .timedFrame k x data, h => execTimedFrame_wf s k x data h
  | .launchEligible x late, h => execLaunchEligible_wf s x late h
  | .fabricPortStart k p, h => execFabricPortStart_wf s k p h
  | .fabricPortStop k p, h => execFabricPortStop_wf s k p h
  | .fabricLinkUp p lanes, h => execFabricLinkUp_wf s p lanes h
  | .discoveryReceived p entry payload, h => execDiscoveryReceived_wf s p entry payload h
  | .siphonDescriptorDone channel, h => execSiphonDescriptorDone_wf s channel h
  | .siphonFenceReturn channel target, h => execSiphonFenceReturn_wf s channel target h
  | .domainsEnableWrite k value, h => execDomainsEnableWrite_wf s k value h
  | .domainOnDone d, h => execDomainOnDone_wf s d h
  | .domainOff d, h => execDomainOff_wf s d h
  | .capWrite k peak value, h => execCapWrite_wf s k peak value h
  | .weirSample input volts regions, h => execWeirSample_wf s input volts regions h
  | .droopAlarm region micros, h => execDroopAlarm_wf s region micros h
  | .droopClear region micros, h => execDroopClear_wf s region micros h
  | .prearmStart tag phase, h => execPrearmStart_wf s tag phase h
  | .prearmEnd tag phase, h => execPrearmEnd_wf s tag phase h
  | .tempSample temps, h => execTempSample_wf s temps h
  | .coolOkLow, h => execCoolOkLow_wf s h
  | .coolOkQualified, h => execCoolOkQualified_wf s h
  | .standbyEnter k, h => execStandbyEnter_wf s k h
  | .standbyWake, h => execStandbyWake_wf s h
  | .failureEvent unit cause confirmed job, h => execFailureEvent_wf s unit cause confirmed job h
  | .sramRetest unit passed, h => execSramRetest_wf s unit passed h
  | .fieldTestStart subject part, h => execFieldTestStart_wf s subject part h
  | .fieldTestDone subject passed, h => execFieldTestDone_wf s subject passed h
  | .fieldTestYield subject, h => execFieldTestYield_wf s subject h
  | .checkerTimeout subject, h => execCheckerTimeout_wf s subject h
  | .heartbeatLoss function, h => execHeartbeatLoss_wf s function h
  | .stopAckTimeout t, h => execStopAckTimeout_wf s t h
  | .hostSilent, h => execHostSilent_wf s h
  | .islandMismatch, h => execIslandMismatch_wf s h
  | .safeRequest k value, h => execSafeRequest_wf s k value h
  | .safeStateEntry cause detail fault, h => execSafeStateEntry_wf s cause detail fault h
  | .safetyFrameRepeat, h => execSafetyFrameRepeat_wf s h
  | .safeClear k value, h => execSafeClear_wf s k value h
  | .triggersWrite k value, h => execTriggersWrite_wf s k value h
  | .deviceResetWrite k value, h => execDeviceResetWrite_wf s k value h
  | .resetNLow, h => execResetNLow_wf s h
  | .deviceReset at_, h => execDeviceReset_wf s at_ h
  | .updateBegin k, h => execUpdateBegin_wf s k h
  | .updateChunk k chunk, h => execUpdateChunk_wf s k chunk h
  | .updateCommit k, h => execUpdateCommit_wf s k h
  | .updateAbort k, h => execUpdateAbort_wf s k h
  | .minSvnWrite k value, h => execMinSvnWrite_wf s k value h
  | .keyRevoke k slot, h => execKeyRevoke_wf s k slot h
  | .lifecycleNonceRead k, h => execLifecycleNonceRead_wf s k h
  | .lifecycleRequest k request, h => execLifecycleRequest_wf s k request h
  | .debugAuth signature, h => execDebugAuth_wf s signature h
  | .quoteRequest k nonce, h => execQuoteRequest_wf s k nonce h
  | .quoteReady, h => execQuoteReady_wf s h
  | .sessionOpen x peer frame, h => execSessionOpen_wf s x peer frame h
  | .sessionClose x frame, h => execSessionClose_wf s x frame h
  | .sessionCloseWrite k j value, h => execSessionCloseWrite_wf s k j value h
  | .keepalive x frame, h => execKeepalive_wf s x frame h
  | .sessionTimeout k, h => execSessionTimeout_wf s k h
  | .request x frame, h => execRequest_wf s x frame h
  | .ixideRead k o, h => execIxideRead_wf s k o h
  | .ixideWrite k o, h => execIxideWrite_wf s k o h
  | .memRead k o, h => execMemRead_wf s k o h
  | .memWrite k o, h => execMemWrite_wf s k o h
  | .describe k data, h => execDescribe_wf s k data h
  | .notifyAck x frame, h => execNotifyAck_wf s x frame h
  | .notifyTransmit k, h => execNotifyTransmit_wf s k h
  | .notifyRetry k seq, h => execNotifyRetry_wf s k seq h
  | .undervoltage, h => execUndervoltage_wf s h
  | .overvoltage, h => execOvervoltage_wf s h
  | .pwrEnLow, h => execPwrEnLow_wf s h
  | .coldStart selfCheckOk, h => execColdStart_wf s selfCheckOk h
  | .regulatorRetry selfCheckOk, h => execRegulatorRetry_wf s selfCheckOk h
  | .cameraLinkLocked port, h => execCameraLinkLocked_wf s port h
  | .cameraLinkLost port, h => execCameraLinkLost_wf s port h
  | .fabricLinkDown p, h => execFabricLinkDown_wf s p h
  | .fabricFrameReceived p frame, h => execFabricFrameReceived_wf s p frame h
  | .ackTimeout p request, h => execAckTimeout_wf s p request h
  | .debugTransaction request, h => execDebugTransaction_wf s request h

/-- Settles O4: whatever command a step runs, its rule above keeps the canonical form. -/
theorem stepKeepsMemoryCanonical : Obligations.StepKeepsMemoryCanonical := by
  intro s t hs ht
  unfold step at ht
  split at ht
  · cases ht
    rw [MemCanonical, idle_mem]
    exact hs
  next c rest _ =>
    have h := exec_wf { s with pending := rest } c hs
    rw [ht] at h
    exact h

end Sys2Proof.Machine
end

section
/-!
PROOF. The vector registers, rows and slots of a tile, and what an instruction that runs leaves of its tile (R100-R102).
-/

namespace Sys2Proof.Machine

open Claims

/-! ## Vector registers, rows and slots -/

/-- Cells written one after the other from `a + k` on hold the list's values; every other cell holds what it held. -/
theorem tblGet_foldl_set {α : Type} [DecidableEq α] (d : α) (a k j : Nat) (vs : List α) (t : Tbl α) :
    tblGet d ((vs.zipIdx k).foldl (fun t p => tblSet d t (a + p.2) p.1) t) j =
      if a + k ≤ j then (vs[j - (a + k)]?).getD (tblGet d t j) else tblGet d t j := by
  induction vs generalizing k t with
  | nil => simp
  | cons v vs ih =>
    rw [List.zipIdx_cons, List.foldl_cons, ih (k + 1), tblGet_set]
    rcases Nat.lt_trichotomy j (a + k) with h | h | h
    · rw [if_neg (by omega), if_neg (by omega), if_neg (by omega)]
    · subst h
      rw [if_neg (by omega), if_pos rfl, if_pos (Nat.le_refl _), Nat.sub_self]
      rfl
    · have e : j - (a + k) = (j - (a + (k + 1))) + 1 := by omega
      rw [if_pos (by omega), if_neg (by omega), if_pos (by omega), e, List.getElem?_cons_succ]

/-- A register write touches the vector registers only. -/
theorem setReg_eq (r : Nat) (vs : List (BitVec 32)) (isInt : Bool) (tl : Tile) :
    setReg r vs isInt tl = { tl with
      v := (vs.take 64).zipIdx.foldl (fun t p => tblSet 0 t (64 * r + p.2) p.1) tl.v
      intRegs := (setReg r vs isInt tl).intRegs } := by
  have hcut : vs.zipIdx.take 64 = (vs.take 64).zipIdx := List.ext_getElem (by simp) fun _ _ _ => by simp
  have hfold : ∀ (ps : List (BitVec 32 × Nat)), ps.foldl (fun tl p => setLane r p.2 p.1 tl) tl =
      { tl with v := ps.foldl (fun t p => tblSet 0 t (64 * r + p.2) p.1) tl.v } := fun ps =>
    List.foldl_hom (fun v => { tl with v := v }) (fun _ _ => rfl)
  rw [setReg, hcut, hfold]

/-- A register written with lanes holds them, and every other register what it held. -/
theorem lane_setReg (r q i : Nat) (vs : List (BitVec 32)) (isInt : Bool) (tl : Tile) (hi : i < 64) :
    lane (setReg r vs isInt tl) q i = if q = r then (vs[i]?).getD (lane tl q i) else lane tl q i := by
  rw [setReg_eq]
  show tblGet 0 (List.foldl _ tl.v _) (64 * q + i) = _
  rw [tblGet_foldl_set 0 (64 * r) 0]
  by_cases hq : q = r
  · subst hq
    rw [if_pos (by omega), if_pos rfl, show 64 * q + i - (64 * q + 0) = i by omega, List.getElem?_take, if_pos hi]
    rfl
  · rw [if_neg hq]
    split
    · have hlen : (vs.take 64).length ≤ 64 := List.length_take_le ..
      rw [List.getElem?_eq_none (by omega)]
      rfl
    · rfl

/-- A row write touches the accumulator rows only. -/
theorem setRow_eq (r : Nat) (vs : List (BitVec 48)) (isInt : Bool) (tl : Tile) :
    setRow r vs isInt tl = { tl with acc := (setRow r vs isInt tl).acc, intRows := (setRow r vs isInt tl).intRows } := by
  have hfold : ∀ (ps : List (BitVec 48 × Nat)), ps.foldl (fun tl p => setEntry r p.2 p.1 tl) tl =
      { tl with acc := ps.foldl (fun t p => tblSet 0 t (64 * r + p.2) p.1) tl.acc } := fun ps =>
    List.foldl_hom (fun v => { tl with acc := v }) (fun _ _ => rfl)
  rw [setRow, hfold]

theorem lane_setLane (r i q j : Nat) (v : BitVec 32) (tl : Tile) :
    lane (setLane r i v tl) q j = if 64 * q + j = 64 * r + i then v else lane tl q j := tblGet_set ..

theorem slotOf_setSlot (g h : Nat) (sl : AgSlot) (tl : Tile) : slotOf (setSlot g sl tl) h = if h = g then sl else slotOf tl h :=
  tblGet_set ..

@[simp] theorem lanes_length (tl : Tile) (r : Nat) : (lanes tl r).length = 64 := by simp [lanes]
@[simp] theorem rowV_length (tl : Tile) (r : Nat) : (rowV tl r).length = 64 := by simp [rowV]

theorem lanes_getElem? (tl : Tile) (r i : Nat) (h : i < 64) : (lanes tl r)[i]? = some (lane tl r i) := by simp [lanes, h]

theorem rowV_getElem? (tl : Tile) (r c : Nat) (h : c < 64) : (rowV tl r)[c]? = some ((entry tl r c).extractLsb' 0 32) := by
  simp [rowV, h]

/-! ## An instruction that runs -/

/-- The count of a task of a job, raised by `n`, is no part of `uncounted`. -/
theorem uncounted_charged (j : Job) (i n : Nat) :
    uncounted { j with tasks := j.tasks.zipIdx.map (fun x => if x.2 = i then { x.1 with cycles := x.1.cycles + n } else x.1) } =
      uncounted j := by
  have htasks : (j.tasks.zipIdx.map (fun x => if x.2 = i then { x.1 with cycles := x.1.cycles + n } else x.1)).map
      (fun x : TaskRun => { x with cycles := 0 }) = j.tasks.map (fun x => { x with cycles := 0 }) := by
    rw [List.map_map]
    refine List.ext_getElem (by simp) fun m _ _ => ?_
    simp only [List.getElem_map, List.getElem_zipIdx, Function.comp_apply]
    split <;> rfl
  rw [uncounted, uncounted]
  dsimp only
  rw [htasks]

theorem jmod_uncounted (tag : BitVec 32) (f : Job → Job) (s : State) (hf : ∀ j, uncounted (f j) = uncounted j) :
    (jmod tag f s).sluice.jobs.map uncounted = s.sluice.jobs.map uncounted := by
  show (s.sluice.jobs.map _).map uncounted = _
  rw [List.map_map]
  refine List.map_congr_left fun j _ => ?_
  rw [Function.comp_apply, apply_ite uncounted, hf, ite_self]

/-- Charged cycles change the counts of cycles and nothing else of a job. -/
theorem chargeCycles_uncounted (t n : Nat) (s : State) :
    (chargeCycles t n s).sluice.jobs.map uncounted = s.sluice.jobs.map uncounted := by
  unfold chargeCycles
  split
  · simp only
    split
    · split
      · exact jmod_uncounted _ _ _ fun j => uncounted_charged j _ _
      · rfl
    · exact jmod_uncounted _ _ _ fun j => uncounted_charged j _ _
  · rfl

theorem issue_uncounted (t : Nat) (op : Bool → Memory → Tile → Option TileOut) (s : State) {r : TileOut} (h : mayIssue s t = true)
    (ho : op (zgateOn s t) s.mem (tileOf s t) = some r) : (issue t op s).sluice.jobs.map uncounted = s.sluice.jobs.map uncounted := by
  rw [issue, ho, if_neg (by simp [h])]
  dsimp only
  rw [chargeCycles_uncounted]
  rfl

/-- An instruction that is legal leaves of its tile what its operation made of it. -/
theorem issue_made (t : Nat) (op : Bool → Memory → Tile → Option TileOut) (s : State) {r : TileOut} (h : mayIssue s t = true)
    (ho : op (zgateOn s t) s.mem (tileOf s t) = some r) : TileMade t r s (issue t op s) := by
  have hs := issue_runs t op s r h ho
  have ht : ∀ u, tileOf (issue t op s) u =
      if u = t then { r.tile with pc := r.tile.pc + 1, cycles := r.tile.cycles + r.cycles } else tileOf s u := fun u => by
    rw [hs]; exact tblGet_set ..
  refine ⟨by rw [ht, if_pos rfl], fun u hu => by rw [ht, if_neg hu], by rw [hs], ?_, issue_uncounted t op s h ho⟩
  rw [hs]

/-- An instruction whose operation stores nothing and moves no counter of its own changes its own tile only. -/
theorem tileOnly_of_tileMade {t : Nat} {r : TileOut} {s s' : State} (h : TileMade t r s s') (hm : r.mem = s.mem)
    (hpc : r.tile.pc = (tileOf s t).pc) : TileOnly t s s' ∧ s'.mem = s.mem := by
  obtain ⟨htile, hother, hmem, hstate, hjobs⟩ := h
  have hmem : s'.mem = s.mem := by rw [hmem, hm, ite_self]
  refine ⟨⟨?_, hother, by rw [htile, hpc], hjobs⟩, hmem⟩
  rw [hmem] at hstate
  exact hstate

end Sys2Proof.Machine
end

section
/-!
PROOF. The vector engine: arithmetic and functions (R92, R93, R100).
-/

namespace Sys2Proof.Machine

open Claims

theorem legal_true {c : Bool} (h : c = true) (r : Option TileOut) : legal c r = r := by rw [legal, if_pos h]

/-- What an instruction leaves whose operation makes the tile `y`, of the registers `rs` only. -/
theorem issue_vecOnly {t : Nat} {op : Bool → Memory → Tile → Option TileOut} {s : State} {n : Nat} {rs : List Nat} {y : Tile}
    (h : mayIssue s t = true) (hy : VecOnly rs (tileOf s t) y) (hpc : y.pc = (tileOf s t).pc)
    (ho : op (zgateOn s t) s.mem (tileOf s t) = some ⟨s.mem, y, n⟩) :
    TileOnly t s (issue t op s) ∧ (issue t op s).mem = s.mem ∧ VecOnly rs (tileOf s t) (tileOf (issue t op s) t) ∧
      ∀ q i, lane (tileOf (issue t op s) t) q i = lane y q i := by
  have hmade := issue_made t op s h ho
  obtain ⟨honly, hmem⟩ := tileOnly_of_tileMade hmade rfl hpc
  obtain ⟨htile, -⟩ := hmade
  have hlane : ∀ q i, lane (tileOf (issue t op s) t) q i = lane y q i := fun q i => by rw [htile]; rfl
  obtain ⟨hstate, hlanes⟩ := hy
  refine ⟨honly, hmem, ⟨?_, fun q i hq hi hr => ?_⟩, hlane⟩
  · rw [htile]
    dsimp only
    rw [hstate]
  · rw [hlane, hlanes q i hq hi hr]

theorem vecOnly_setReg (d : Nat) (vs : List (BitVec 32)) (isInt : Bool) (x : Tile) : VecOnly [d] x (setReg d vs isInt x) :=
  ⟨by rw [setReg_eq], fun q i _ hi hq => by rw [lane_setReg d q i vs isInt x hi, if_neg (by simpa using hq)]⟩

/-- What an instruction leaves that writes the 64 lanes `vs` to register `d`. -/
theorem issue_setReg {t : Nat} {op : Bool → Memory → Tile → Option TileOut} {s : State} {d n : Nat} {vs : List (BitVec 32)}
    {isInt : Bool} (h : mayIssue s t = true) (hv : vs.length = 64)
    (ho : op (zgateOn s t) s.mem (tileOf s t) = some ⟨s.mem, setReg d vs isInt (tileOf s t), n⟩) :
    TileOnly t s (issue t op s) ∧ (issue t op s).mem = s.mem ∧ VecOnly [d] (tileOf s t) (tileOf (issue t op s) t) ∧
      ∀ i, i < 64 → some (lane (tileOf (issue t op s) t) d i) = vs[i]? := by
  obtain ⟨honly, hmem, hvec, hlane⟩ := issue_vecOnly h (vecOnly_setReg d vs isInt _) (by rw [setReg_eq]) ho
  refine ⟨honly, hmem, hvec, fun i hi => ?_⟩
  rw [hlane, lane_setReg d d i vs isInt _ hi, if_pos rfl, List.getElem?_eq_getElem (by omega), Option.getD_some]

/-- Two operand registers lane by lane. -/
theorem zip_lanes_getElem? (tl : Tile) (r q i : Nat) (h : i < 64) :
    ((lanes tl r).zip (lanes tl q))[i]? = some (lane tl r i, lane tl q i) :=
  List.getElem?_zip_eq_some.mpr ⟨lanes_getElem? tl r i h, lanes_getElem? tl q i h⟩

/-- VADD, VMUL, VMAX, VMIN and VCMP: one operation on the lanes of va and vb. -/
theorem issue_opLanes {op t : Nat} {f : TileFields} {s : State} (g : BitVec 32 → BitVec 32 → BitVec 32) (h : MayRun op t f s) :
    let s' := issue t (fun _ m tl => opLanes op f g m tl) s
    TileOnly t s s' ∧ s'.mem = s.mem ∧ VecOnly [f.gd.toNat] (tileOf s t) (tileOf s' t) ∧
      ∀ i, i < 64 → lane (tileOf s' t) f.gd.toNat i = g (lane (tileOf s t) f.ga.toNat i) (lane (tileOf s t) f.gb.toNat i) := by
  obtain ⟨hissue, hfields⟩ := h
  obtain ⟨honly, hmem, hvec,
    hlane⟩ := issue_setReg (op := fun _ m tl => opLanes op f g m tl) hissue (by simp) (legal_true hfields _)
  refine ⟨honly, hmem, hvec, fun i hi => ?_⟩
  have := hlane i hi
  rw [List.getElem?_map, zip_lanes_getElem? _ _ _ _ hi] at this
  exact Option.some.inj this

/-- Settles O7: each operation writes the lanes of vd from those of its operands. -/
theorem vectorArithmetic : Obligations.VectorArithmetic := by
  intro s t f
  refine ⟨fun h => ⟨_, rfl, issue_opLanes f32Add h⟩, fun h => ⟨_, rfl, issue_opLanes f32Mul h⟩, ?_,
    fun h => ⟨_, rfl, issue_opLanes f32Max h⟩, fun h => ⟨_, rfl, issue_opLanes f32Min h⟩, ?_, ?_⟩
  · rintro ⟨hissue, hfields⟩
    obtain ⟨honly, hmem, hvec, hlane⟩ := issue_setReg (op := fun _ m tl => opVfma f m tl) hissue (by simp) (legal_true hfields _)
    refine ⟨_, rfl, honly, hmem, hvec, fun i hi => ?_⟩
    have := hlane i hi
    rw [List.getElem?_map, (List.getElem?_zip_eq_some (z := (_, _, _))).mpr
      ⟨lanes_getElem? _ _ _ hi, zip_lanes_getElem? _ _ _ _ hi⟩] at this
    exact Option.some.inj this
  · intro h hmod
    have hop : (fun (_ : Bool) m tl => opVcmp f m tl) =
        fun _ m tl => opLanes 0x19 f (fun a b => if cmpLane f.mod.toNat a b then 0xffffffff else 0) m tl := by
      funext _ m tl
      exact legal_true (decide_eq_true hmod) _
    refine ⟨_, rfl, ?_⟩
    rw [hop]
    exact issue_opLanes _ h
  · rintro ⟨hissue, hfields⟩
    obtain ⟨honly, hmem, hvec, hlane⟩ := issue_setReg (op := fun _ m tl => opVsel f m tl) hissue (by simp) (legal_true hfields _)
    refine ⟨_, rfl, honly, hmem, hvec, fun i hi => ?_⟩
    have := hlane i hi
    rw [List.getElem?_map, (List.getElem?_zip_eq_some (z := (_, _, _))).mpr
      ⟨lanes_getElem? _ _ _ hi, zip_lanes_getElem? _ _ _ _ hi⟩] at this
    exact Option.some.inj this

/-- A function instruction writes its function of each lane. -/
theorem issue_opFunc {t : Nat} {f : TileFields} {s : State} (g : FuncOp) (h : MayRun (0x20 + g.code) t f s) :
    let s' := issue t (fun _ m tl => opFunc g f m tl) s
    TileOnly t s s' ∧ s'.mem = s.mem ∧ VecOnly [f.gd.toNat] (tileOf s t) (tileOf s' t) ∧
      ∀ i, i < 64 → lane (tileOf s' t) f.gd.toNat i = funcResult g (lane (tileOf s t) f.ga.toNat i) := by
  obtain ⟨hissue, hfields⟩ := h
  obtain ⟨honly, hmem, hvec, hlane⟩ := issue_setReg (op := fun _ m tl => opFunc g f m tl) hissue (by simp) (legal_true hfields _)
  refine ⟨honly, hmem, hvec, fun i hi => ?_⟩
  have := hlane i hi
  rw [List.getElem?_map, lanes_getElem? _ _ _ hi] at this
  exact Option.some.inj this

/-- Settles O8: the nine instructions are one operation, each with its function. -/
theorem vectorFunctions : Obligations.VectorFunctions := by
  intro s t f
  exact ⟨fun h => ⟨_, rfl, issue_opFunc .exp h⟩, fun h => ⟨_, rfl, issue_opFunc .log h⟩, fun h => ⟨_, rfl, issue_opFunc .rcp h⟩,
    fun h => ⟨_, rfl, issue_opFunc .rsq h⟩, fun h => ⟨_, rfl, issue_opFunc .sig h⟩, fun h => ⟨_, rfl, issue_opFunc .tanh h⟩,
    fun h => ⟨_, rfl, issue_opFunc .silu h⟩, fun h => ⟨_, rfl, issue_opFunc .gelu h⟩, fun h => ⟨_, rfl, issue_opFunc .splus h⟩⟩

end Sys2Proof.Machine
end

section
/-!
PROOF. The vector engine: conversions and reductions (R89-R91, R100).
-/

namespace Sys2Proof.Machine

open Claims

variable {t : Nat} {f : TileFields} {s : State}

/-! ## Two registers -/

/-- Registers `rs`, then one more. -/
theorem VecOnly_trans {rs qs : List Nat} {x y z : Tile} (h : VecOnly rs x y) (k : VecOnly qs y z) : VecOnly (rs ++ qs) x z := by
  obtain ⟨hy, hl⟩ := h
  obtain ⟨hz, hm⟩ := k
  refine ⟨by rw [hz, hy], fun q i hq hi hr => ?_⟩
  rw [List.mem_append, not_or] at hr
  rw [hm q i hq hi hr.2, hl q i hq hi hr.1]

theorem vecOnly_setLane (d : Nat) (v : BitVec 32) (x : Tile) : VecOnly [d] x (setLane d 0 v x) :=
  ⟨rfl, fun q i _ hi hq => by rw [lane_setLane, if_neg (by rw [List.mem_singleton] at hq; omega)]⟩

/-- vd and the register after it differ. -/
theorem gd_ne_next (f : TileFields) : f.gd.toNat ≠ (f.gd.toNat + 1) % 16 := by
  have := f.gd.isLt
  omega

/-! ## VCVT (R91, R100) -/

/-- A conversion of each lane of va. -/
theorem vcvt_each {g : BitVec 32 → BitVec 32} {isInt : Bool} (h : MayRun 0x1b t f s)
    (ho : opVcvt f s.mem (tileOf s t) = some ⟨s.mem, setReg f.gd.toNat ((lanes (tileOf s t) f.ga.toNat).map g) isInt (tileOf s t), 1⟩) :
    let s' := issue t (fun _ m tl => opVcvt f m tl) s
    TileOnly t s s' ∧ s'.mem = s.mem ∧ VecOnly [f.gd.toNat] (tileOf s t) (tileOf s' t) ∧
      ∀ i, i < 64 → lane (tileOf s' t) f.gd.toNat i = g (lane (tileOf s t) f.ga.toNat i) := by
  obtain ⟨honly, hmem, hvec, hlane⟩ := issue_setReg (op := fun _ m tl => opVcvt f m tl) h.1 (by simp) ho
  refine ⟨honly, hmem, hvec, fun i hi => ?_⟩
  have := hlane i hi
  rw [List.getElem?_map, lanes_getElem? _ _ _ hi] at this
  exact Option.some.inj this

theorem vcvt_split (h : MayRun 0x1b t f s) (hmod : f.mod = 2) :
    let s' := issue t (fun _ m tl => opVcvt f m tl) s
    let d := f.gd.toNat
    let e := (d + 1) % 16
    let a := fun i => lane (tileOf s t) f.ga.toNat i
    TileOnly t s s' ∧ s'.mem = s.mem ∧ VecOnly [d, e] (tileOf s t) (tileOf s' t) ∧ ∀ i, i < 64 →
      lane (tileOf s' t) d i = roundThrough 9 (a i) ∧
      lane (tileOf s' t) e i = roundThrough 9 (f32Sub (a i) (roundThrough 9 (a i))) := by
  intro s' d e a
  obtain ⟨hissue, hfields⟩ := h
  have hde : d ≠ e := gd_ne_next f
  have ho : opVcvt f s.mem (tileOf s t) = some ⟨s.mem, setReg e ((((lanes (tileOf s t) f.ga.toNat).zip
      ((lanes (tileOf s t) f.ga.toNat).map (roundThrough 9))).map (fun p => roundThrough 9 (f32Sub p.1 p.2)))) false
      (setReg d ((lanes (tileOf s t) f.ga.toNat).map (roundThrough 9)) false (tileOf s t)), 1⟩ := by
    rw [opVcvt, hmod]
    exact legal_true hfields _
  obtain ⟨honly, hmem, hvec, hlane⟩ := issue_vecOnly (op := fun _ m tl => opVcvt f m tl) hissue
    (VecOnly_trans (vecOnly_setReg d _ _ _) (vecOnly_setReg e _ _ _)) (by rw [setReg_eq, setReg_eq]) ho
  refine ⟨honly, hmem, hvec, fun i hi => ⟨?_, ?_⟩⟩
  · rw [hlane, lane_setReg _ _ _ _ _ _ hi, if_neg hde, lane_setReg _ _ _ _ _ _ hi, if_pos rfl, List.getElem?_map,
      lanes_getElem? _ _ _ hi]
    rfl
  · rw [hlane, lane_setReg _ _ _ _ _ _ hi, if_pos rfl, List.getElem?_map, (List.getElem?_zip_eq_some (z := (_, _))).mpr
      ⟨lanes_getElem? _ _ _ hi, by rw [List.getElem?_map, lanes_getElem? _ _ _ hi]; rfl⟩]
    rfl

/-! ## VMXQ and VRED (R90, R100) -/

theorem lanes_take (x : Tile) (r : Nat) : (lanes x r).take 32 = (List.range 32).map (lane x r) := by
  rw [lanes, ← List.map_take, List.take_range]
  rfl

theorem lanes_drop (x : Tile) (r : Nat) : (lanes x r).drop 32 = (List.range 32).map (fun j => lane x r (32 + j)) := by
  refine List.ext_getElem (by simp) fun i _ _ => ?_
  simp [lanes]

theorem mxBlock_length (c : Nat) (vs : List (BitVec 32)) : (mxBlock c vs).1.length = vs.length := by
  unfold mxBlock
  split
  · simp
  · split <;> simp

/-- An odd element of a level stands alone: each level halves the length, rounded up. -/
theorem pairUp_length (g : BitVec 32 → BitVec 32 → BitVec 32) (l : List (BitVec 32)) :
    (pairUp g l).length = (l.length + 1) / 2 := by
  induction l using pairUp.induct with
  | case1 a b r ih => simp only [pairUp, List.length_cons, ih]; omega
  | case2 l hl =>
    match l, hl with
    | [], _ => rfl
    | [a], _ => simp [pairUp]
    | a :: b :: r, hl => exact absurd rfl (hl a b r)

/-- Six levels leave one of 64 lanes. -/
theorem reduce_length (g : BitVec 32 → BitVec 32 → BitVec 32) (l : List (BitVec 32)) (h : l.length = 64) :
    ((List.range 6).foldl (fun l _ => pairUp g l) l).length = 1 := by
  simp [List.range_succ, pairUp_length, h]

theorem vmxq_completes (h : MayRun 0x1d t f s) (hmx : fmtIsMx f.fd.toNat = true) :
    let x := tileOf s t
    let y := tileOf (issue t (fun _ m tl => opVmxq f m tl) s) t
    let d := f.gd.toNat
    let e := (d + 1) % 16
    let lo := mxBlock f.fd.toNat ((List.range 32).map (lane x f.ga.toNat))
    let hi := mxBlock f.fd.toNat ((List.range 32).map (fun j => lane x f.ga.toNat (32 + j)))
    TileOnly t s (issue t (fun _ m tl => opVmxq f m tl) s) ∧ (issue t (fun _ m tl => opVmxq f m tl) s).mem = s.mem ∧
      VecOnly [d, e] x y ∧ (∀ i, i < 32 → lane y d i = BitVec.ofNat 32 (nth 0 lo.1 i)) ∧
      (∀ i, i < 32 → lane y d (32 + i) = BitVec.ofNat 32 (nth 0 hi.1 i)) ∧
      lane y e 0 = (lane x e 0).extractLsb' 16 16 ++ BitVec.ofNat 8 hi.2 ++ BitVec.ofNat 8 lo.2 ∧
      (∀ i, 0 < i → i < 64 → lane y e i = lane x e i) := by
  intro x y d e lo hi
  obtain ⟨hissue, hfields⟩ := h
  have hde : d ≠ e := gd_ne_next f
  have hlo : lo.1.length = 32 := by rw [mxBlock_length]; simp
  have hhi : hi.1.length = 32 := by rw [mxBlock_length]; simp
  have hop : opVmxq f s.mem x = some ⟨s.mem, setLane e 0 ((lane (setReg d ((lo.1 ++ hi.1).map (BitVec.ofNat 32)) false x) e 0).extractLsb' 16 16 ++
      BitVec.ofNat 8 hi.2 ++ BitVec.ofNat 8 lo.2) (setReg d ((lo.1 ++ hi.1).map (BitVec.ofNat 32)) false x), 4⟩ := by
    rw [opVmxq]
    dsimp only
    rw [lanes_take, lanes_drop]
    exact legal_true (by rw [hfields, hmx]; rfl) _
  obtain ⟨honly, hmem, hvec, hlane⟩ := issue_vecOnly (op := fun _ m tl => opVmxq f m tl) hissue
    (VecOnly_trans (vecOnly_setReg d _ _ _) (vecOnly_setLane e _ _)) (by rw [setReg_eq]; rfl) hop
  have hd : ∀ i, i < 64 → lane y d i = BitVec.ofNat 32 (nth 0 (lo.1 ++ hi.1) i) := fun i h64 => by
    rw [hlane, lane_setLane, if_neg (by omega), lane_setReg _ _ _ _ _ _ h64, if_pos rfl, List.getElem?_map,
      List.getElem?_eq_getElem (by simp; omega), nth, List.getElem?_eq_getElem (by simp; omega)]
    rfl
  refine ⟨honly, hmem, hvec, fun i hi' => ?_, fun i hi' => ?_, ?_, fun i h0 h64 => ?_⟩
  · rw [hd i (by omega), nth, List.getElem?_append_left (by omega), nth]
  · rw [hd _ (by omega), nth, List.getElem?_append_right (by omega), nth, hlo, Nat.add_sub_cancel_left]
  · rw [hlane, lane_setLane, if_pos rfl, lane_setReg _ _ _ _ _ _ (by omega), if_neg (Ne.symm hde)]
  · rw [hlane, lane_setLane, if_neg (by omega), lane_setReg _ _ _ _ _ _ h64, if_neg (Ne.symm hde)]

theorem vred_completes (h : MayRun 0x1e t f s) :
    let x := tileOf s t
    let y := tileOf (issue t (fun _ m tl => opVred f m tl) s) t
    let d := f.gd.toNat
    TileOnly t s (issue t (fun _ m tl => opVred f m tl) s) ∧ (issue t (fun _ m tl => opVred f m tl) s).mem = s.mem ∧
      VecOnly [d] x y ∧
      [lane y d 0] = (List.range 6).foldl (fun l _ => pairUp (if f.mod.getLsbD 0 then f32Max else f32Add) l) (lanes x f.ga.toNat) ∧
      ∀ i, 0 < i → i < 64 → lane y d i = lane x d i := by
  intro x y d
  obtain ⟨hissue, hfields⟩ := h
  obtain ⟨v, hv⟩ := List.length_eq_one_iff.mp
    (reduce_length (if f.mod.getLsbD 0 then f32Max else f32Add) (lanes x f.ga.toNat) (lanes_length ..))
  have hop : opVred f s.mem x = some ⟨s.mem, { setLane d 0 v x with
      intRegs := (setLane d 0 v x).intRegs.filter (· ≠ d) }, 6⟩ := by
    rw [opVred]
    dsimp only
    rw [hv]
    exact legal_true hfields _
  have hvec : VecOnly [d] x { setLane d 0 v x with intRegs := (setLane d 0 v x).intRegs.filter (· ≠ d) } :=
    ⟨rfl, (vecOnly_setLane d v x).2⟩
  obtain ⟨honly, hmem, hvec, hlane⟩ := issue_vecOnly (op := fun _ m tl => opVred f m tl) hissue hvec rfl hop
  have hl : ∀ q i, lane y q i = lane (setLane d 0 v x) q i := hlane
  refine ⟨honly, hmem, hvec, ?_, fun i h0 h64 => ?_⟩
  · rw [hv, hl, lane_setLane, if_pos rfl]
  · rw [hl, lane_setLane, if_neg (by omega)]

theorem vrq_completes (h : MayRun 0x1c t f s) {lo hi : Int} (hb : vrqBounds f.fd.toNat = some (lo, hi)) :
    let s' := issue t (fun _ m tl => opVrq f m tl) s
    let d := f.gd.toNat
    TileOnly t s s' ∧ s'.mem = s.mem ∧ VecOnly [d] (tileOf s t) (tileOf s' t) ∧ ∀ i, i < 64 →
      lane (tileOf s' t) d i = BitVec.ofInt 32 (clampInt lo hi (roundShiftInt ((lane (tileOf s t) f.ga.toNat i).toInt *
        (lane (tileOf s t) f.gb.toNat i).toInt) (f.imm.toNat % 64) + signedOf 8 (f.imm.toNat / 64))) := by
  intro s' d
  obtain ⟨hissue, hfields⟩ := h
  have hop : opVrq f s.mem (tileOf s t) = some ⟨s.mem, setReg d (((lanes (tileOf s t) f.ga.toNat).zip
      (lanes (tileOf s t) f.gb.toNat)).map (fun p => BitVec.ofInt 32 (clampInt lo hi
        (roundShiftInt (p.1.toInt * p.2.toInt) (f.imm.toNat % 64) + signedOf 8 (f.imm.toNat / 64))))) true (tileOf s t), 1⟩ := by
    rw [opVrq, hb]
    exact legal_true hfields _
  obtain ⟨honly, hmem, hvec, hlane⟩ := issue_setReg (op := fun _ m tl => opVrq f m tl) hissue (by simp) hop
  refine ⟨honly, hmem, hvec, fun i h64 => ?_⟩
  have := hlane i h64
  rw [List.getElem?_map, zip_lanes_getElem? _ _ _ _ h64] at this
  exact Option.some.inj this

/-- Settles O9: each conversion by the rule of its mode, VRED as six levels of a tree over the lanes. -/
theorem vectorConversions : Obligations.VectorConversions := by
  intro s t f
  refine ⟨fun h => ⟨fun hmod hfa hfd => ⟨_, rfl, ?_⟩, fun hmod hfa hfd => ⟨_, rfl, ?_⟩, fun hmod hfa hfd => ⟨_, rfl, ?_⟩,
    fun hmod => ⟨_, rfl, vcvt_split h hmod⟩⟩, fun h lo hi hb => ⟨_, rfl, vrq_completes h hb⟩,
    fun h hmx => ⟨_, rfl, vmxq_completes h hmx⟩, fun h => ⟨_, rfl, vred_completes h⟩⟩
  · refine vcvt_each (isInt := true) h ?_
    rw [opVcvt, hmod, hfa, hfd]
    exact legal_true h.2 _
  · refine vcvt_each (isInt := false) h ?_
    rw [opVcvt, hmod, hfa, hfd]
    exact legal_true h.2 _
  · refine vcvt_each (isInt := false) h ?_
    have hfd' : f.fa.toNat = 0xb ∧ (f.fd.toNat = 3 ∨ f.fd.toNat = 4 ∨ f.fd.toNat = 9 ∨ f.fd.toNat = 0xa ∨ f.fd.toNat = 0xb) := by
      simp only [List.mem_cons, List.not_mem_nil, or_false] at hfd
      rcases hfd with hfd | hfd | hfd | hfd | hfd <;> simp [hfa, hfd]
    rw [opVcvt, hmod]
    dsimp only
    exact (legal_true h.2 _).trans (if_pos hfd')

end Sys2Proof.Machine
end

section
/-!
PROOF. The accumulator registers: ACLR, VLDA, VSTA, RSTEP and ZCFG (R96, R98, R100, R104).
-/

namespace Sys2Proof.Machine

open Claims

variable {t : Nat} {f : TileFields} {s : State}

/-- What an instruction leaves whose operation stores nothing and makes the tile `y`. -/
theorem issue_keeps_mem {op : Bool → Memory → Tile → Option TileOut} {n : Nat} {y : Tile} (h : mayIssue s t = true)
    (hpc : y.pc = (tileOf s t).pc) (ho : op (zgateOn s t) s.mem (tileOf s t) = some ⟨s.mem, y, n⟩) :
    TileOnly t s (issue t op s) ∧ (issue t op s).mem = s.mem ∧
      tileOf (issue t op s) t = { y with pc := y.pc + 1, cycles := y.cycles + n } := by
  have hmade := issue_made t op s h ho
  obtain ⟨honly, hmem⟩ := tileOnly_of_tileMade hmade rfl hpc
  exact ⟨honly, hmem, hmade.1⟩

theorem accOnly_setRow (r : Nat) (vs : List (BitVec 48)) (isInt : Bool) (x : Tile) : AccOnly [r] x (setRow r vs isInt x) :=
  ⟨by rw [setRow_eq], fun q c _ hc hq => by rw [entry_setRow _ _ _ _ _ _ hc, if_neg (by simpa using hq)]⟩

/-- Counting on changes no row. -/
theorem accOnly_counted {rs : List Nat} {x y : Tile} (h : AccOnly rs x y) (pc cycles : Nat) :
    AccOnly rs x { y with pc := pc, cycles := cycles } := by
  obtain ⟨hy, hrows⟩ := h
  exact ⟨by rw [hy], hrows⟩

/-- What an instruction leaves that writes the 64 entries `vs` to row `r`. -/
theorem issue_setRow {op : Bool → Memory → Tile → Option TileOut} {r n : Nat} {vs : List (BitVec 48)} {isInt : Bool}
    (h : mayIssue s t = true) (hv : vs.length = 64)
    (ho : op (zgateOn s t) s.mem (tileOf s t) = some ⟨s.mem, setRow r vs isInt (tileOf s t), n⟩) :
    TileOnly t s (issue t op s) ∧ (issue t op s).mem = s.mem ∧ AccOnly [r] (tileOf s t) (tileOf (issue t op s) t) ∧
      ∀ c, c < 64 → some (entry (tileOf (issue t op s) t) r c) = vs[c]? := by
  obtain ⟨honly, hmem, htile⟩ := issue_keeps_mem h (by rw [setRow_eq]) ho
  refine ⟨honly, hmem, ?_, fun c hc => ?_⟩
  · rw [htile]
    exact accOnly_counted (accOnly_setRow r vs isInt _) _ _
  · have hentry : entry (tileOf (issue t op s) t) r c = entry (setRow r vs isInt (tileOf s t)) r c := by rw [htile]; rfl
    rw [hentry, entry_setRow _ _ _ _ _ _ hc, if_pos rfl, List.getElem?_eq_getElem (by omega), Option.getD_some]

/-! ## ACLR -/

theorem entry_clearRow (r q c : Nat) (x : Tile) (hc : c < 64) :
    entry (clearRow r x) q c = if q = r then 0 else entry x q c := by
  rw [clearRow, entry_setRow _ _ _ _ _ _ hc, List.getElem?_replicate, if_pos hc, Option.getD_some]

/-- Rows cleared one by one hold zeros, every other row what it held. -/
theorem entry_clearRows (rows : List Nat) (q c : Nat) (x : Tile) (hc : c < 64) :
    entry (rows.foldl (fun x r => clearRow r x) x) q c = if q ∈ rows then 0 else entry x q c := by
  induction rows generalizing x with
  | nil => simp
  | cons r rs ih =>
    rw [List.foldl_cons, ih, entry_clearRow _ _ _ _ hc, ← ite_or]
    exact if_congr (by rw [List.mem_cons, or_comm]) rfl rfl

theorem clearRows_eq (rows : List Nat) (x : Tile) : rows.foldl (fun x r => clearRow r x) x = { x with
    acc := (rows.foldl (fun x r => clearRow r x) x).acc, intRows := (rows.foldl (fun x r => clearRow r x) x).intRows } := by
  induction rows generalizing x with
  | nil => rfl
  | cons r rs ih =>
    rw [List.foldl_cons, ih, clearRow, setRow_eq]

theorem rowsOf_eq (h : f.row.toNat + f.cnt.toNat ≤ 127) :
    rowsOf f = some ((List.range (f.cnt.toNat + 1)).map (fun i => f.row.toNat + i)) := if_pos h

/-- The rows of an instruction that names legal ones (R94). -/
theorem rows_of_rowsOf {rows : List Nat} (h : rowsOf f = some rows) :
    rows = (List.range (f.cnt.toNat + 1)).map (fun i => f.row.toNat + i) := by
  rw [rowsOf] at h
  split at h
  · exact (Option.some.inj h).symm
  · cases h

/-! ## The five instructions -/

/-- Settles O10: each writes the rows, lanes or fields that its row of R100 names. -/
theorem accumulatorRegisters : Obligations.AccumulatorRegisters := by
  intro s t f x r a Made
  refine ⟨fun h hrows => ?_, fun h => ?_, fun h hz => ?_, fun h h112 hz => ?_, fun h himm => ?_⟩
  · have ho : opAclr f s.mem x = some ⟨s.mem, ((List.range (f.cnt.toNat + 1)).map (fun i => r + i)).foldl (fun x r => clearRow r x) x,
        ceilDiv ((List.range (f.cnt.toNat + 1)).map (fun i => r + i)).length 4⟩ := by
      rw [opAclr, rowsOf_eq hrows]
      exact legal_true h.2 _
    obtain ⟨honly, hmem, htile⟩ := issue_keeps_mem (op := fun _ m tl => opAclr f m tl) h.1 (by rw [clearRows_eq]) ho
    refine ⟨_, rfl, honly, hmem, ?_, fun i c hi hc => ?_⟩
    · rw [htile]
      refine accOnly_counted ⟨by rw [clearRows_eq], fun q c _ hc hq => ?_⟩ _ _
      rw [entry_clearRows _ _ _ _ hc, if_neg hq]
    · rw [htile]
      refine (entry_clearRows _ _ _ _ hc).trans (if_pos ?_)
      exact List.mem_map_of_mem (List.mem_range.mpr (by omega))
  · obtain ⟨honly, hmem, hvec, hlane⟩ := issue_setReg (op := fun _ m tl => opVlda f m tl) h.1 (by simp) (legal_true h.2 _)
    refine ⟨_, rfl, honly, hmem, hvec, fun i hi => Option.some.inj ?_⟩
    rw [hlane i hi, rowV_getElem? _ _ _ hi]
  · have ho := legal_true (c := fieldsNamed 0x13 f && !(zgateOn s t.val && f.mod.getLsbD 2 && decide (112 ≤ r)))
      (by rw [h.2]; simpa [imp_iff_not_or, or_assoc] using hz)
    obtain ⟨honly, hmem, hacc, hentry⟩ := issue_setRow (op := fun z m tl => opVsta z f m tl) h.1 (by simp) (ho _)
    refine ⟨_, rfl, honly, hmem, hacc, fun hmod c hc => ?_, fun hcomp c hc => ?_, fun hmod hint c hc => ?_⟩ <;>
      refine Option.some.inj ((hentry c hc).trans ?_) <;>
      rw [List.getElem?_map, List.getElem?_zipIdx, lanes_getElem? _ _ _ hc]
    · simp [hmod, a, x]
    · simp [hcomp, a, x, r]
    · simp [hmod, a, x, r, hint]
  · have ho := legal_true (c := fieldsNamed 0x30 f && decide (112 ≤ r) && !(zgateOn s t.val)) (by rw [h.2, hz]; simpa using h112)
    obtain ⟨honly, hmem, hacc, hentry⟩ := issue_setRow (op := fun z m tl => opRstep z f m tl) h.1 (by simp) (ho _)
    refine ⟨_, rfl, honly, hmem, hacc, fun c hc => Option.some.inj ((hentry c hc).trans ?_)⟩
    rw [List.getElem?_map, List.getElem?_zipIdx, zip_lanes_getElem? _ _ _ _ hc]
    simp [a, x, r]
  · have ho := legal_true (c := fieldsNamed 0x38 f && decide (f.imm.toNat / 2 ^ 11 ≤ 5)) (by rw [h.2]; simpa using himm)
    obtain ⟨honly, hmem, htile⟩ := issue_keeps_mem (y := { x with zimm := f.imm, zslot := f.ga })
      (op := fun _ m tl => opZcfg f m tl) h.1 rfl (ho _)
    refine ⟨_, rfl, honly, hmem, ?_⟩
    rw [htile]

end Sys2Proof.Machine
end

section
/-!
PROOF. MMA over its rows (R84-R87): one row per access, each entry written once.
-/

namespace Sys2Proof.Machine

open Claims

/-! ## Slots after accesses (R115) -/

@[simp] theorem slotAfter_image (sl : AgSlot) (n k : Nat) : (slotAfter sl n k).image = sl.image := by
  induction k with
  | zero => rfl
  | succ k ih => exact ih

theorem readAccess_eq_some {m : Memory} {t : Nat} {sl : AgSlot} {c b n : Nat} {p : List Nat × AgSlot}
    (h : readAccess m t sl c b n = some p) : p.2 = advance sl n := by
  obtain ⟨refs, _, rfl⟩ := Option.map_eq_some_iff.mp h
  rfl

/-- An access that R117 allows reads. -/
theorem readAccess_of_access {m : Memory} {t : Nat} {sl : AgSlot} {c b n : Nat} (h : (access sl c b n).isSome = true) :
    ∃ es, readAccess m t sl c b n = some (es, advance sl n) := by
  obtain ⟨refs, hrefs⟩ := Option.isSome_iff_exists.mp h
  exact ⟨_, by rw [readAccess, hrefs]; rfl⟩

/-! ## What an instruction on rows touches -/

/-- Of tile `x`, only the rows `rows`, slot `g` and, with `sig`, the signature of a paired tile may differ in `y`. -/
def RowsOnly (sig : Bool) (g : Nat) (rows : List Nat) (x y : Tile) : Prop :=
  y = { x with acc := y.acc, intRows := y.intRows, slots := y.slots, sigW := if sig then y.sigW else x.sigW } ∧
  (∀ h, h ≠ g → slotOf y h = slotOf x h) ∧ ∀ q c, c < 64 → q ∉ rows → entry y q c = entry x q c

theorem rowsOnly_refl (sig : Bool) (g : Nat) (rows : List Nat) (x : Tile) :
    RowsOnly sig g rows x x := ⟨by rw [ite_self], fun _ _ => rfl, fun _ _ _ _ => rfl⟩

theorem rowsOnly_trans {sig : Bool} {g : Nat} {rs qs : List Nat} {x y z : Tile} (h : RowsOnly sig g rs x y) (k : RowsOnly sig g qs y z) :
    RowsOnly sig g (rs ++ qs) x z := by
  obtain ⟨hy, hslot, hrow⟩ := h
  obtain ⟨hz, kslot, krow⟩ := k
  refine ⟨by rw [hz, hy]; cases sig <;> rfl, fun h hh => by rw [kslot h hh, hslot h hh], fun q c hc hq => ?_⟩
  rw [List.mem_append, not_or] at hq
  rw [krow q c hc hq.2, hrow q c hc hq.1]

theorem rowsOnly_setSlot (sig : Bool) (g : Nat) (sl : AgSlot) (x : Tile) : RowsOnly sig g [] x (setSlot g sl x) :=
  ⟨by cases sig <;> rfl, fun h hh => by rw [slotOf_setSlot, if_neg hh], fun _ _ _ _ => rfl⟩

theorem rowsOnly_setRow (sig : Bool) (g r : Nat) (vs : List (BitVec 48)) (isInt : Bool) (x : Tile) :
    RowsOnly sig g [r] x (setRow r vs isInt x) :=
  ⟨by rw [setRow_eq]; cases sig <;> rfl, fun h _ => by rw [setRow_eq]; rfl,
    fun q c hc hq => by rw [entry_setRow _ _ _ _ _ _ hc, if_neg (by simpa using hq)]⟩

/-! ## One pass -/

/-- The entry of column `c` after a pass over row elements `as` with A's scale `xa`, from the entry `old` (R84-R87). -/
def mmaEntry (fa fb : Nat) (mod : BitVec 4) (w : WBuf) (as : List Nat) (xa : Option (BitVec 8)) (c : Nat) (old : BitVec 48) :
    BitVec 48 :=
  let col := (List.range (passK fa fb)).map (fun i => weight w fb i c)
  if fmtIsInt fa then accumulateInt (mod.getLsbD 1) old (intGroup fa fb as col)
  else accumulate (mod.getLsbD 1) (mod.getLsbD 2) old (scaleBy (if fmtIsMx fb then some (tblGet 0 w.scales c) else none)
    (scaleBy xa (groupSum ((as.zip col).map (fun p => fpMul (fpElem fa p.1) (fpElem fb p.2))))))

theorem entry_mmaPass (fa fb : Nat) (mod : BitVec 4) (w : WBuf) (as : List Nat) (xa : Option (BitVec 8)) (x : Tile) (r q c : Nat)
    (hc : c < 64) : entry (mmaPass fa fb mod w as xa x r) q c =
      if q = r then mmaEntry fa fb mod w as xa c (entry x r c) else entry x q c := by
  rw [mmaPass, entry_setRow _ _ _ _ _ _ hc, List.getElem?_map, List.getElem?_range hc]
  rfl

theorem rowsOnly_mmaPass (g fa fb : Nat) (mod : BitVec 4) (w : WBuf) (as : List Nat) (xa : Option (BitVec 8)) (x : Tile) (r : Nat) :
    RowsOnly false g [r] x (mmaPass fa fb mod w as xa x r) := rowsOnly_setRow ..

theorem slotOf_mmaPass (fa fb : Nat) (mod : BitVec 4) (w : WBuf) (as : List Nat) (xa : Option (BitVec 8)) (x : Tile) (r g : Nat) :
    slotOf (mmaPass fa fb mod w as xa x r) g = slotOf x g := by
  rw [mmaPass, setRow_eq]
  rfl

/-! ## The passes in turn -/

section
variable {t fa fb : Nat} {f : TileFields} {w : WBuf} {m : Memory}

/-- Whatever the passes make, it is of their rows and of slot GA. -/
theorem rowsOnly_mmaRows {rows : List Nat} {x y : Tile} {n n' : Nat} (h : mmaRows t fa fb f w m rows (x, n) = some (y, n')) :
    RowsOnly false f.ga.toNat rows x y := by
  induction rows generalizing x n with
  | nil => cases h; exact rowsOnly_refl ..
  | cons r rs ih =>
    rw [mmaRows] at h
    split at h
    · exact rowsOnly_trans (rowsOnly_trans (rowsOnly_setSlot _ _ _ x) (rowsOnly_mmaPass _ _ _ _ _ _ _ _ r)) (ih h)
    · cases h

/-- The scale of A that access `i` of slot `sl` takes: none where A has none (R80). -/
def passScale (t fa fb : Nat) (m : Memory) (sl : AgSlot) (i : Nat) : Option (BitVec 8) :=
  if fmtIsMx fa then some (memByte m (tileBase t + (slotSBase sl.image + (slotAfter sl (passK fa fb) i).pos / 32))) else none

/-- Rows `row + j`, ..., `row + j + n - 1` take the accesses `j`, ..., `j + n - 1` of slot GA, in turn. -/
theorem mmaRows_runs {sl : AgSlot} {as : Nat → List Nat} {row : Nat} (n : Nat) : ∀ (j : Nat) (x : Tile) (cyc : Nat),
    slotOf x f.ga.toNat = slotAfter sl (passK fa fb) j →
    (∀ i, j ≤ i → i < j + n → readAccess m t (slotAfter sl (passK fa fb) i) fa (fmtBits fa) (passK fa fb) =
      some (as i, slotAfter sl (passK fa fb) (i + 1))) →
    (fmtIsMx fa = true → ∀ i, j ≤ i → i < j + n →
      slotSBase sl.image + (slotAfter sl (passK fa fb) i).pos / 32 + 1 ≤ tileBytes) →
    ∃ y cyc', mmaRows t fa fb f w m ((List.range' j n).map (row + ·)) (x, cyc) = some (y, cyc') ∧
      slotOf y f.ga.toNat = slotAfter sl (passK fa fb) (j + n) ∧
      ∀ i c, j ≤ i → i < j + n → c < 64 →
        entry y (row + i) c = mmaEntry fa fb f.mod w (as i) (passScale t fa fb m sl i) c (entry x (row + i) c) := by
  induction n with
  | zero => exact fun j x cyc hs _ _ => ⟨x, cyc, rfl, hs, fun i c h h' => by omega⟩
  | succ n ih =>
    intro j x cyc hs hread hscale
    let x' := mmaPass fa fb f.mod w (as j) (passScale t fa fb m sl j) (setSlot f.ga.toNat (slotAfter sl (passK fa fb) (j + 1)) x) (row + j)
    have hslot : slotOf x' f.ga.toNat = slotAfter sl (passK fa fb) (j + 1) := by
      rw [slotOf_mmaPass, slotOf_setSlot, if_pos rfl]
    obtain ⟨y, cyc', hy, hend, hent⟩ := ih (j + 1) x'
      (cyc + max (passCycles fa fb) (accessCycles (slotAfter sl (passK fa fb) j) (fmtBits fa) (passK fa fb) 64)) hslot
      (fun i h h' => hread i (by omega) (by omega)) (fun hmx i h h' => hscale hmx i (by omega) (by omega))
    have hone : (if fmtIsMx fa then (scaleBytes m t (slotSBase (slotAfter sl (passK fa fb) j).image +
        (slotAfter sl (passK fa fb) j).pos / 32) 1).map some else some none) = some ((passScale t fa fb m sl j).map (fun b => [b])) := by
      unfold passScale
      split
      next hmx =>
        rw [scaleBytes, slotAfter_image, if_pos (hscale hmx j (by omega) (by omega))]
        rfl
      next => rfl
    have hhead : (passScale t fa fb m sl j).map (fun b => [b]) >>= List.head? = passScale t fa fb m sl j := by
      cases passScale t fa fb m sl j <;> rfl
    have hold : ∀ q c, c < 64 → q ≠ row + j → entry x' q c = entry x q c := fun q c hc hq => by
      rw [entry_mmaPass _ _ _ _ _ _ _ _ _ _ hc, if_neg hq]
      rfl
    refine ⟨y, cyc', ?_, by rw [hend]; congr 1; omega, fun i c h h' hc => ?_⟩
    · rw [List.range'_succ, List.map_cons, mmaRows]
      rw [hs, hread j (by omega) (by omega), hone]
      dsimp only
      rw [show ((passScale t fa fb m sl j).map (fun b => [b])).bind List.head? = passScale t fa fb m sl j from hhead]
      exact hy
    · rcases Nat.eq_or_lt_of_le h with rfl | hlt
      · have hkeep := (rowsOnly_mmaRows hy).2.2 (row + j) c hc (by simp)
        rw [hkeep, entry_mmaPass _ _ _ _ _ _ _ _ _ _ hc, if_pos rfl]
        rfl
      · rw [hent i c hlt (by omega) hc, hold _ _ hc (by omega)]
end

/-! ## MMA -/

/-- MMA runs where its formats, fields and rows are legal and its accesses are (R78, R81, R94, R102). -/
theorem opMma_runs {z : Bool} {t : Nat} {f : TileFields} {m : Memory} {x : Tile} {as : Nat → List Nat} {sl : AgSlot}
    (hsl : slotOf x f.ga.toNat = sl)
    (hfields : fieldsNamed 0x02 f = true) (hpair : pairOk f.fa.toNat f.fb.toNat = true) (hrows : f.row.toNat + f.cnt.toNat ≤ 127)
    (hcomp : ¬(f.mod.getLsbD 2 = true ∧ (fmtIsInt f.fa.toNat = true ∨ (z = true ∧
      inBank7 ((List.range (f.cnt.toNat + 1)).map (fun i => f.row.toNat + i)) = true))))
    (hread : ∀ i, i < f.cnt.toNat + 1 → readAccess m t (slotAfter sl (passK f.fa.toNat f.fb.toNat) i) f.fa.toNat (fmtBits f.fa.toNat)
      (passK f.fa.toNat f.fb.toNat) = some (as i, slotAfter sl (passK f.fa.toNat f.fb.toNat) (i + 1)))
    (hscale : fmtIsMx f.fa.toNat = true → ∀ i, i < f.cnt.toNat + 1 →
      slotSBase sl.image + (slotAfter sl (passK f.fa.toNat f.fb.toNat) i).pos / 32 + 1 ≤ tileBytes) :
    ∃ y n, opMma z t f m x = some ⟨m, y, n⟩ ∧ slotOf y f.ga.toNat = slotAfter sl (passK f.fa.toNat f.fb.toNat) (f.cnt.toNat + 1) ∧
      RowsOnly false f.ga.toNat ((List.range (f.cnt.toNat + 1)).map (fun i => f.row.toNat + i)) x y ∧
      ∀ i c, i < f.cnt.toNat + 1 → c < 64 → entry y (f.row.toNat + i) c =
        mmaEntry f.fa.toNat f.fb.toNat f.mod (if f.mod.getLsbD 0 then x.w1 else x.w0) (as i)
          (passScale t f.fa.toNat f.fb.toNat m sl i) c (entry x (f.row.toNat + i) c) := by
  obtain ⟨y, n, hy, hend, hent⟩ := mmaRows_runs (w := if f.mod.getLsbD 0 then x.w1 else x.w0) (f := f) (row := f.row.toNat)
    (f.cnt.toNat + 1) 0 x 0 hsl (fun i _ h => hread i (by omega)) (fun hmx i _ h => hscale hmx i (by omega))
  rw [← List.range_eq_range'] at hy
  refine ⟨y, n, ?_, by rw [hend, Nat.zero_add], rowsOnly_mmaRows hy, fun i c hi hc => hent i c (Nat.zero_le _) (by omega) hc⟩
  have hlegal : (fieldsNamed 0x02 f && pairOk f.fa.toNat f.fb.toNat && !(f.mod.getLsbD 2 && fmtIsInt f.fa.toNat) &&
      !(z && f.mod.getLsbD 2 && inBank7 ((List.range (f.cnt.toNat + 1)).map (fun i => f.row.toNat + i)))) = true := by
    rw [hfields, hpair]
    revert hcomp
    cases f.mod.getLsbD 2 <;> cases z <;> simp
  rw [opMma]
  rw [rowsOf_eq hrows]
  refine (legal_true hlegal _).trans ?_
  rw [hy]
  rfl

theorem inBank7_rows (row n : Nat) : inBank7 ((List.range (n + 1)).map (fun i => row + i)) = true ↔ 112 ≤ row + n := by
  simp only [inBank7, List.any_map, List.any_eq_true, List.mem_range, Function.comp_apply, decide_eq_true_eq]
  exact ⟨fun ⟨i, hi, h⟩ => by omega, fun h => ⟨n, by omega, h⟩⟩

/-- Settles O12: the passes of `mmaRows`, one row each. -/
theorem mmaRowSum : Obligations.MmaRowSum := by
  intro s t f as x fa fb k n w sl scaleAt xa xb col h hpair hrows hcomp hread hscale
  obtain ⟨y, cyc, hop, hend, ⟨hy, hslot, hkeep⟩, hent⟩ := opMma_runs (z := zgateOn s t.val) (x := x) rfl h.2 hpair hrows
    (by rw [inBank7_rows]; exact hcomp) (fun i hi => hread i (by omega)) (fun hmx i hi => hscale hmx i (by omega))
  obtain ⟨honly, hmem, htile⟩ := issue_keeps_mem (op := fun z m tl => opMma z t.val f m tl) h.1 (by rw [hy]) hop
  have hentry : ∀ r c, entry (tileOf (issue t.val (fun z m tl => opMma z t.val f m tl) s) t.val) r c = entry y r c := fun r c => by
    rw [htile]; rfl
  refine ⟨_, rfl, honly, hmem, by rw [htile]; exact hend, fun r c _ hc hr => ?_, fun i c hi hc => ?_⟩
  · rw [hentry, hkeep r c hc]
    rw [List.mem_map]
    rintro ⟨i, hi, rfl⟩
    rw [List.mem_range] at hi
    exact hr ⟨by omega, by omega⟩
  · rw [hentry, hent i c (by omega) hc]
    rfl

end Sys2Proof.Machine
end

section
/-!
PROOF. Tile reads: LDW, MMA, ALD, VLD and AGSET (R78, R82, R100, R102, R113, R117).
-/

namespace Sys2Proof.Machine

open Claims

/-- An instruction that is legal and stores nothing: its tile is what it made, memory stays. -/
theorem issue_reads {t : Nat} {op : Bool → Memory → Tile → Option TileOut} {s : State} {r : TileOut} (h : mayIssue s t = true)
    (ho : op (zgateOn s t) s.mem (tileOf s t) = some r) (hm : r.mem = s.mem) :
    TileMade t r s (issue t op s) ∧ (issue t op s).mem = s.mem := by
  have hmade := issue_made t op s h ho
  obtain ⟨-, -, hmem, -⟩ := hmade
  exact ⟨issue_made t op s h ho, by rw [hmem, hm, ite_self]⟩

section
variable {z : Bool} {t : Nat} {f : TileFields} {m : Memory} {x : Tile} {o : TileOut}

/-! ## What each makes of the tile -/

/-- LDW touches its buffer and its slot only (R82). -/
theorem opLdw_tile (h : opLdw t f m x = some o) :
    o.tile = { x with
      w0 := if f.mod.getLsbD 0 then x.w0 else o.tile.w0
      w1 := if f.mod.getLsbD 0 then o.tile.w1 else x.w1
      slots := o.tile.slots } ∧ ∀ g, g ≠ f.gb.toNat → slotOf o.tile g = slotOf x g := by
  have h := (legal_eq_some.mp h).2
  split at h
  · cases h
  · simp only at h
    split at h <;> cases h
    cases f.mod.getLsbD 0 <;>
      exact ⟨rfl, fun g hg => (slotOf_setSlot ..).trans (if_neg hg)⟩

theorem opMma_tile (h : opMma z t f m x = some o) :
    RowsOnly false f.ga.toNat ((List.range (f.cnt.toNat + 1)).map (fun i => f.row.toNat + i)) x o.tile := by
  unfold opMma at h
  simp only at h
  split at h
  · cases h
  next rows hrows =>
    obtain ⟨⟨y, n⟩, hy, rfl⟩ := Option.map_eq_some_iff.mp (legal_eq_some.mp h).2
    rw [← rows_of_rowsOf hrows]
    exact rowsOnly_mmaRows hy

/-- Rows one by one touch what each of them touches. -/
theorem rowsOnly_perRow {sig : Bool} {g : Nat} {step : Nat → Memory → Tile → AgSlot → Option (Memory × Tile × AgSlot × Nat)} {rows : List Nat}
    {m : Memory} {x : Tile} {n : Nat} {o : TileOut}
    (hstep : ∀ r m x sl p, step r m x sl = some p → RowsOnly sig g [r] x p.2.1) (h : perRow g step rows m x n = some o) :
    RowsOnly sig g rows x o.tile := by
  induction rows generalizing m x n with
  | nil => cases h; exact rowsOnly_refl ..
  | cons r rs ih =>
    rw [perRow] at h
    split at h
    · cases h
    next m' x' sl' n' hp =>
      exact rowsOnly_trans (rowsOnly_trans (hstep r _ _ _ _ hp) (rowsOnly_setSlot sig g sl' x')) (ih h)

theorem rowsOnly_aldRow {g r : Nat} {sl : AgSlot} {p : Memory × Tile × AgSlot × Nat} (h : aldRow t f r m x sl = some p) :
    RowsOnly false g [r] x p.2.1 := by
  unfold aldRow at h
  split at h <;> (obtain ⟨q, _, rfl⟩ := Option.map_eq_some_iff.mp h; exact rowsOnly_setRow ..)

theorem opAld_tile (h : opAld t f m x = some o) :
    RowsOnly false f.ga.toNat ((List.range (f.cnt.toNat + 1)).map (fun i => f.row.toNat + i)) x o.tile := by
  unfold opAld at h
  split at h
  · cases h
  next rows hrows =>
    rw [← rows_of_rowsOf hrows]
    exact rowsOnly_perRow (fun _ _ _ _ _ => rowsOnly_aldRow) (legal_eq_some.mp h).2

theorem opVld_tile (h : opVld t f m x = some o) :
    o.tile = { x with v := o.tile.v, intRegs := o.tile.intRegs, slots := o.tile.slots } ∧
    (∀ g, g ≠ f.ga.toNat → slotOf o.tile g = slotOf x g) ∧
    ∀ q i, q < 16 → i < 64 → q ≠ f.gd.toNat → lane o.tile q i = lane x q i := by
  obtain ⟨p, _, rfl⟩ := Option.map_eq_some_iff.mp (legal_eq_some.mp h).2
  refine ⟨by rw [setReg_eq]; rfl, fun g hg => ?_, fun q i _ hi hq => ?_⟩
  · rw [slotOf_setSlot, if_neg hg, setReg_eq]
    rfl
  · refine Eq.trans (b := lane (setReg f.gd.toNat _ (fmtIsInt f.fa.toNat) x) q i) rfl ?_
    rw [lane_setReg _ _ _ _ _ _ hi, if_neg hq]

theorem opAgset_tile (h : opAgset t f m x = some o) :
    o.tile = { x with slots := o.tile.slots } ∧ (∀ g, g ≠ f.ga.toNat → slotOf o.tile g = slotOf x g) ∧
      (slotOf o.tile f.ga.toNat).image = memRead m (tileBase t + f.imm.toNat * 64) 64 := by
  cases (legal_eq_some.mp h).2
  exact ⟨rfl, fun g hg => (slotOf_setSlot ..).trans (if_neg hg), by rw [slotOf_setSlot, if_pos rfl]⟩

/-! ## Where each is legal -/

theorem opLdw_runs (hfields : fieldsNamed 0x01 f = true) (hb : fmtB f.fb.toNat = true)
    (ha : (access (slotOf x f.gb.toNat) f.fb.toNat (fmtBits f.fb.toNat) (blockK f.fb.toNat * 64)).isSome = true)
    (hs : fmtIsMx f.fb.toNat = true →
      slotSBase (slotOf x f.gb.toNat).image + 64 * ((slotOf x f.gb.toNat).pos / 2048) + 64 ≤ tileBytes) :
    ∃ r, opLdw t f m x = some r := by
  obtain ⟨es, hes⟩ := readAccess_of_access (m := m) (t := t) ha
  have hscale : ∃ sc, (if fmtIsMx f.fb.toNat then scaleBytes m t (slotSBase (slotOf x f.gb.toNat).image +
      64 * ((slotOf x f.gb.toNat).pos / 2048)) 64 else some []) = some sc := by
    split
    next hmx => exact ⟨_, if_pos (hs hmx)⟩
    next => exact ⟨_, rfl⟩
  obtain ⟨sc, hsc⟩ := hscale
  rw [opLdw]
  dsimp only
  rw [legal_true (by rw [hfields, hb]; rfl), hes]
  dsimp only
  rw [hsc]
  exact ⟨_, rfl⟩

theorem opVld_runs (hfields : fieldsNamed 0x10 f = true) (hf : fmtLoad f.fa.toNat = true)
    (ha : (access (slotOf x f.ga.toNat) f.fa.toNat (fmtBits f.fa.toNat) 64).isSome = true) : ∃ r, opVld t f m x = some r := by
  obtain ⟨es, hes⟩ := readAccess_of_access (m := m) (t := t) ha
  rw [opVld]
  rw [legal_true (by rw [hfields, hf]; rfl), hes]
  exact ⟨_, rfl⟩

/-- Rows run one by one, `n` of them, where each runs and leaves what the next one needs: `P j` before row number `j`. -/
theorem perRow_runs {g : Nat} {step : Nat → Memory → Tile → AgSlot → Option (Memory × Tile × AgSlot × Nat)} {n : Nat}
    (P : Nat → Tile → Prop)
    (hstep : ∀ j r m x, j < n → P j x → ∃ m' x' sl' c, step r m x (slotOf x g) = some (m', x', sl', c) ∧ P (j + 1) (setSlot g sl' x'))
    {rows : List Nat} {j : Nat} {m : Memory} {x : Tile} {cyc : Nat} (hj : j + rows.length ≤ n) (hx : P j x) :
    ∃ o, perRow g step rows m x cyc = some o := by
  induction rows generalizing j m x cyc with
  | nil => exact ⟨_, rfl⟩
  | cons r rs ih =>
    rw [List.length_cons] at hj
    obtain ⟨m', x', sl', c, hs, hnext⟩ := hstep j r m x (by omega) hx
    rw [perRow, hs]
    exact ih (j := j + 1) (by omega) hnext

theorem aldRow_runs {c b : Nat} {sl : AgSlot} (hc : (f.mod = 0 ∧ f.fa.toNat = c ∧ fmtBits c = b) ∨ (f.mod = 1 ∧ c = 16 ∧ b = 64) ∨
      (f.mod = 2 ∧ c = 9 ∧ b = 16)) (ha : (access sl c b 64).isSome = true) (r : Nat) :
    ∃ x' n, aldRow t f r m x sl = some (m, x', advance sl 64, n) := by
  obtain ⟨es, hes⟩ := readAccess_of_access (m := m) (t := t) ha
  unfold aldRow
  rcases hc with ⟨hmod, rfl, rfl⟩ | ⟨hmod, rfl, rfl⟩ | ⟨hmod, rfl, rfl⟩ <;> rw [hmod] <;> dsimp only [BitVec.toNat_ofNat] <;>
    exact ⟨_, _, by rw [hes]; rfl⟩

theorem opAld_runs {c b : Nat} (hfields : fieldsNamed 0x05 f = true) (hrows : f.row.toNat + f.cnt.toNat ≤ 127)
    (hc : (f.mod = 0 ∧ f.fa.toNat = c ∧ fmtBits c = b) ∨ (f.mod = 1 ∧ c = 16 ∧ b = 64) ∨ (f.mod = 2 ∧ c = 9 ∧ b = 16))
    (hload : f.mod = 0 → fmtLoad f.fa.toNat = true) (hbank : f.mod = 2 → 112 ≤ f.row.toNat)
    (ha : Reaches (slotOf x f.ga.toNat) c b 64 (f.cnt.toNat + 1)) : ∃ r, opAld t f m x = some r := by
  have hlegal : (fieldsNamed 0x05 f && decide (f.mod.toNat ≤ 2) && (f.mod.toNat != 0 || fmtLoad f.fa.toNat) && (f.mod.toNat != 2 ||
      ((List.range (f.cnt.toNat + 1)).map (fun i => f.row.toNat + i)).all (fun r => decide (112 ≤ r)))) = true := by
    rw [hfields]
    rcases hc with ⟨hmod, -⟩ | ⟨hmod, -⟩ | ⟨hmod, -⟩
    · simp [hmod, hload hmod]
    · simp [hmod]
    · have := hbank hmod
      simp [hmod]
      omega
  rw [opAld, rowsOf_eq hrows]
  dsimp only
  rw [legal_true hlegal]
  refine perRow_runs (n := f.cnt.toNat + 1) (fun j y => slotOf y f.ga.toNat = slotAfter (slotOf x f.ga.toNat) 64 j)
    (fun j r m y hj hy => ?_) (j := 0) (by simp) rfl
  obtain ⟨x', c', hrow⟩ := aldRow_runs (t := t) (m := m) (x := y) hc (ha j hj) r
  exact ⟨m, x', _, c', by rw [hy]; exact hrow, by rw [slotOf_setSlot, if_pos rfl]; rfl⟩

end

/-- Settles O11: what each makes of its tile, and where each is legal. -/
theorem tileReads : Obligations.TileReads := by
  intro s t f h x z n rows a b sa sb Made Ends
  have hends : ∀ (op : Bool → Memory → Tile → Option TileOut), (∃ r, op z s.mem x = some r) →
      ∃ r s', op z s.mem x = some r ∧ (Host.Outcome.next (issue t.val op s) : Res) = .next s' ∧ TileMade t.val r s s' :=
    fun op ⟨r, hr⟩ => ⟨r, _, hr, rfl, issue_made t.val op s h hr⟩
  refine ⟨fun r hr => ?_, fun r hr => ?_, fun r hr => ?_, fun r hr => ?_, fun r hr => ?_, fun hf hb ha hs => ?_,
    fun hf hp hr hreach hcomp hs => ?_, fun hf hr hmode => ?_, fun hf hl ha => ?_, fun hf ha => ?_⟩
  · obtain ⟨hmade, hmem⟩ := issue_reads (op := fun _ m tl => opLdw t.val f m tl) h hr (opLdw_mem hr)
    exact ⟨_, rfl, hmade, hmem, opLdw_tile hr⟩
  · obtain ⟨hmade, hmem⟩ := issue_reads (op := fun z m tl => opMma z t.val f m tl) h hr (opMma_mem hr)
    obtain ⟨hy, hslot, hrow⟩ := opMma_tile hr
    exact ⟨_, rfl, hmade, hmem, hy, hslot, fun q c _ hc hq => hrow q c hc hq⟩
  · obtain ⟨hmade, hmem⟩ := issue_reads (op := fun _ m tl => opAld t.val f m tl) h hr (opAld_mem hr)
    obtain ⟨hy, hslot, hrow⟩ := opAld_tile hr
    exact ⟨_, rfl, hmade, hmem, hy, hslot, fun q c _ hc hq => hrow q c hc hq⟩
  · obtain ⟨hmade, hmem⟩ := issue_reads (op := fun _ m tl => opVld t.val f m tl) h hr (opVld_mem hr)
    exact ⟨_, rfl, hmade, hmem, opVld_tile hr⟩
  · obtain ⟨hmade, hmem⟩ := issue_reads (op := fun _ m tl => opAgset t.val f m tl) h hr (opAgset_mem hr)
    exact ⟨_, rfl, hmade, hmem, opAgset_tile hr⟩
  · exact hends (fun _ m tl => opLdw t.val f m tl) (opLdw_runs hf hb ha hs)
  · have hread : ∀ i, ∃ es, i < n → readAccess s.mem t.val (slotAfter sa (passK a b) i) a (fmtBits a) (passK a b) =
        some (es, slotAfter sa (passK a b) (i + 1)) := fun i => by
      by_cases hi : i < n
      · obtain ⟨es, hes⟩ := readAccess_of_access (m := s.mem) (t := t.val) (hreach i hi)
        exact ⟨es, fun _ => hes⟩
      · exact ⟨[], fun hi' => absurd hi' hi⟩
    choose as has using hread
    obtain ⟨y, c, hy, -⟩ := opMma_runs (z := z) (x := x) rfl hf hp hr hcomp has hs
    exact hends (fun z m tl => opMma z t.val f m tl) ⟨_, hy⟩
  · refine hends (fun _ m tl => opAld t.val f m tl) ?_
    rcases hmode with ⟨hm, hl, ha⟩ | ⟨hm, ha⟩ | ⟨hm, h112, ha⟩
    · exact opAld_runs hf hr (.inl ⟨hm, rfl, rfl⟩) (fun _ => hl) (fun h2 => absurd (hm.symm.trans h2) (by decide)) ha
    · exact opAld_runs hf hr (.inr (.inl ⟨hm, rfl, rfl⟩)) (fun h0 => absurd (hm.symm.trans h0) (by decide))
        (fun h2 => absurd (hm.symm.trans h2) (by decide)) ha
    · exact opAld_runs hf hr (.inr (.inr ⟨hm, rfl, rfl⟩)) (fun h0 => absurd (hm.symm.trans h0) (by decide)) (fun _ => h112) ha
  · exact hends (fun _ m tl => opVld t.val f m tl) (opVld_runs hf hl ha)
  · exact hends (fun _ m tl => opAgset t.val f m tl) ⟨_, legal_true (by rw [hf]; simpa using ha) _⟩

end Sys2Proof.Machine
end

section
/-!
PROOF. Tile stores: AST, DRAIN and VST (R79, R88, R100, R104, R114, R116, R117).
-/

namespace Sys2Proof.Machine

open Claims

/-! ## The bytes of an access -/

theorem memByte_memWriteNat (m : Memory) (a n v j : Nat) (h : ¬(a ≤ j ∧ j < a + n)) :
    memByte (memWriteNat m a n v) j = memByte m j := by
  rw [memWriteNat, memByte_write, length_leBytes, if_neg h]

section
variable {t : Nat} {f : TileFields} {m : Memory} {x : Tile} {sl : AgSlot} {c b : Nat} {vs : List Nat}

/-- A write access changes the bytes of the elements it names, and no other. -/
theorem memByte_writeAccess {p : Memory × AgSlot} {a : Nat} (h : writeAccess m t sl c b vs = some p)
    (ha : ¬StoredTo t b ((access sl c b vs.length).getD []) a) : memByte p.1 a = memByte m a := by
  unfold writeAccess at h
  split at h
  · cases h
  next refs hrefs =>
    rw [hrefs] at ha
    split at h
    · cases h
      refine List.foldlRecOn (motive := fun m' : Memory => memByte m' a = memByte m a) _ _ rfl fun m' hm q hq => ?_
      split
      next y hy =>
        refine (memByte_memWriteNat _ _ _ _ _ fun hin => ha ⟨y, ?_, hin⟩).trans hm
        exact hy ▸ (List.of_mem_zip hq).1
      · exact hm
    · cases h

theorem writeAccess_slot {p : Memory × AgSlot} (h : writeAccess m t sl c b vs = some p) : p.2 = advance sl vs.length := by
  unfold writeAccess at h
  split at h
  · cases h
  · split at h
    · cases h; rfl
    · cases h

/-- An access of whole bytes that R117 allows writes. -/
theorem writeAccess_runs (ha : (access sl c b vs.length).isSome = true) (h4 : b ≠ 4) (h6 : b ≠ 6) :
    ∃ m', writeAccess m t sl c b vs = some (m', advance sl vs.length) := by
  obtain ⟨refs, hrefs⟩ := Option.isSome_iff_exists.mp ha
  have hlegal : writeLegal sl b refs = true := if_neg (by tauto)
  rw [writeAccess, hrefs]
  exact ⟨_, if_pos hlegal⟩

/-! ## Rows stored one by one -/

theorem storedTo_append {refs more : List ElemRef} {a : Nat} :
    StoredTo t b (refs ++ more) a ↔ StoredTo t b refs a ∨ StoredTo t b more a := by
  simp only [StoredTo, List.mem_append, or_and_right, exists_or]

/-- Rows that each change only the bytes their access names change only those together. -/
theorem memByte_perRow {g : Nat} {at_ : Memory → Tile → AgSlot}
    {step : Nat → Memory → Tile → AgSlot → Option (Memory × Tile × AgSlot × Nat)}
    (hstep : ∀ r m x p a, step r m x (slotOf x g) = some p → ¬StoredTo t b ((access (at_ m x) c b 64).getD []) a →
      memByte p.1 a = memByte m a)
    {rows : List Nat} {n : Nat} {o : TileOut} {a : Nat} (h : perRow g step rows m x n = some o)
    (ha : ¬StoredTo t b (rowStores g c b at_ step rows m x) a) : memByte o.mem a = memByte m a := by
  induction rows generalizing m x n with
  | nil => cases h; rfl
  | cons r rs ih =>
    rw [perRow] at h
    rw [rowStores, storedTo_append, not_or] at ha
    split at h
    · cases h
    next m' x' sl' n' hp =>
      rw [hp] at ha
      rw [ih h ha.2]
      exact hstep r m x _ a hp ha.1

/-- The slot of a row's write access moves on by its 64 elements. -/
theorem slotOf_foldWrites (g : Nat) : slotOf (foldWrites sl c b vs x) g = slotOf x g := by
  unfold foldWrites
  split <;> rfl

/-- A store folds its data into the signature of a paired tile and touches nothing else of it (R423). -/
theorem foldWrites_eq : foldWrites sl c b vs x = { x with sigW := (foldWrites sl c b vs x).sigW } := by
  unfold foldWrites
  split <;> rfl

/-- Rows one by one make a tile that stands in `R` to the first, if each row extends `R`. -/
theorem perRow_rel {g : Nat} {step : Nat → Memory → Tile → AgSlot → Option (Memory × Tile × AgSlot × Nat)}
    {R : List Nat → Tile → Tile → Prop} (hnil : ∀ x, R [] x x)
    (hstep : ∀ r rs m x p z, step r m x (slotOf x g) = some p → R rs (setSlot g p.2.2.1 p.2.1) z → R (r :: rs) x z)
    {rows : List Nat} {n : Nat} {o : TileOut} (h : perRow g step rows m x n = some o) : R rows x o.tile := by
  induction rows generalizing m x n with
  | nil => cases h; exact hnil _
  | cons r rs ih =>
    rw [perRow] at h
    split at h
    · cases h
    next m' x' sl' n' hp => exact hstep r rs m x _ _ hp (ih h)

/-! ## AST -/

/-- AST leaves of its tile all but slots and signature (R100, R423). -/
theorem opAst_tile {o : TileOut} (h : opAst t f m x = some o) :
    o.tile = { x with slots := o.tile.slots, sigW := o.tile.sigW } := by
  unfold opAst at h
  split at h
  · cases h
  · refine perRow_rel (R := fun _ x y => y = { x with slots := y.slots, sigW := y.sigW }) (fun _ => rfl) ?_ (legal_eq_some.mp h).2
    intro r rs m x p z hp hz
    obtain ⟨q, _, rfl⟩ := Option.map_eq_some_iff.mp hp
    rw [hz, foldWrites_eq]
    rfl

/-- AST stores to the elements that its rows name in the slot's stream. -/
theorem memByte_opAst {o : TileOut} {a : Nat} (h : opAst t f m x = some o) (ha : ¬StoredTo t (if f.mod.getLsbD 0 then 64 else 32)
    (rowStores f.gd.toNat (if f.mod.getLsbD 0 then 16 else 0xb) (if f.mod.getLsbD 0 then 64 else 32)
      (fun _ x => slotOf x f.gd.toNat) (astRow t f) ((List.range (f.cnt.toNat + 1)).map (fun i => f.row.toNat + i)) m x) a) :
    memByte o.mem a = memByte m a := by
  unfold opAst at h
  split at h
  · cases h
  next rows hrows =>
    rw [rows_of_rowsOf hrows] at h
    refine memByte_perRow (fun r m x p a hp ha => ?_) (legal_eq_some.mp h).2 ha
    obtain ⟨q, hq, rfl⟩ := Option.map_eq_some_iff.mp hp
    exact memByte_writeAccess hq (by simpa using ha)

theorem opAst_runs (hfields : fieldsNamed 0x06 f = true) (hrows : f.row.toNat + f.cnt.toNat ≤ 127)
    (ha : Reaches (slotOf x f.gd.toNat) (if f.mod.getLsbD 0 then 16 else 0xb) (if f.mod.getLsbD 0 then 64 else 32) 64
      (f.cnt.toNat + 1)) : ∃ r, opAst t f m x = some r := by
  rw [opAst, rowsOf_eq hrows]
  dsimp only
  rw [legal_true hfields]
  refine perRow_runs (n := f.cnt.toNat + 1) (fun j y => slotOf y f.gd.toNat = slotAfter (slotOf x f.gd.toNat) 64 j)
    (fun j r m y hj hy => ?_) (j := 0) (by simp) rfl
  have hb : (if f.mod.getLsbD 0 then 64 else 32) ≠ 4 ∧ (if f.mod.getLsbD 0 then 64 else 32) ≠ 6 := by split <;> decide
  obtain ⟨m', hw⟩ := writeAccess_runs (m := m) (t := t) (vs := (List.range 64).map (fun c => if f.mod.getLsbD 0 then (entry y r c).toNat
    else ((entry y r c).extractLsb' 0 32).toNat)) (by rw [List.length_map, List.length_range]; exact ha j hj) hb.1 hb.2
  refine ⟨m', _, _, _, by rw [hy, astRow, hw]; rfl, ?_⟩
  rw [slotOf_setSlot, if_pos rfl, List.length_map, List.length_range]
  rfl

/-! ## DRAIN -/

/-- What DRAIN does to its tile: the rows stored are cleared unless MOD[1] keeps them; slots move and the signature is folded (R100). -/
def Drained (keep : Bool) (rows : List Nat) (x y : Tile) : Prop :=
  y = { x with acc := y.acc, intRows := y.intRows, slots := y.slots, sigW := y.sigW } ∧ (keep = true → y.acc = x.acc) ∧
  ∀ q i, i < 64 → entry y q i = if keep = false ∧ q ∈ rows then 0 else entry x q i

theorem drained_trans {keep : Bool} {rs qs : List Nat} {x y z : Tile} (h : Drained keep rs x y) (k : Drained keep qs y z) :
    Drained keep (rs ++ qs) x z := by
  obtain ⟨hy, hacc, hent⟩ := h
  obtain ⟨hz, kacc, kent⟩ := k
  refine ⟨by rw [hz, hy], fun hk => by rw [kacc hk, hacc hk], fun q i hi => ?_⟩
  rw [kent q i hi, hent q i hi, ← ite_or]
  exact if_congr (by rw [List.mem_append]; tauto) rfl rfl

/-- A tile that differs in slots and signature only. -/
theorem drained_aside (keep : Bool) (x : Tile) (slots : Tbl AgSlot) (sig : BitVec 32) :
    Drained keep [] x { x with slots := slots, sigW := sig } :=
  ⟨rfl, fun _ => rfl, fun q i _ => by rw [if_neg (fun h => List.not_mem_nil h.2)]; rfl⟩

theorem drained_clear (keep : Bool) (r : Nat) (x : Tile) : Drained keep [r] x (if keep then x else clearRow r x) := by
  cases keep with
  | true =>
    rw [if_pos rfl]
    exact ⟨rfl, fun _ => rfl, fun q i _ => by rw [if_neg (by simp)]⟩
  | false =>
    rw [if_neg Bool.false_ne_true]
    refine ⟨by rw [clearRow, setRow_eq], fun h => absurd h Bool.false_ne_true, fun q i hi => ?_⟩
    rw [entry_clearRow _ _ _ _ hi]
    exact if_congr (by simp) rfl rfl

/-- One row stored from `x`, its slots changed to `slots` before; then the rows after it. -/
theorem drained_cons {keep : Bool} {r g : Nat} {rs : List Nat} {x z : Tile} {sl' : AgSlot} (slots : Tbl AgSlot)
    (hz : Drained keep rs (setSlot g sl' (foldWrites sl c b vs
      (if keep then { x with slots := slots } else clearRow r { x with slots := slots }))) z) : Drained keep (r :: rs) x z := by
  rw [foldWrites_eq] at hz
  exact drained_trans (drained_aside keep x slots x.sigW) (drained_trans (drained_clear keep r _) (drained_trans (drained_aside ..) hz))

theorem drainRow_stores {r : Nat} {p : Memory × Tile × AgSlot × Nat} (h : drainRow t f r m x sl = some p) :
    ∃ vs : List Nat, vs.length = 64 ∧ writeAccess m t sl f.fd.toNat (fmtBits f.fd.toNat) vs = some (p.1, p.2.2.1) ∧
      p.2.1 = foldWrites sl f.fd.toNat (fmtBits f.fd.toNat) vs (if f.mod.getLsbD 1 then x else clearRow r x) := by
  obtain ⟨q, hq, rfl⟩ := Option.map_eq_some_iff.mp h
  exact ⟨_, by simp, hq, rfl⟩

/-- The bias of a row under ZGATE and the slot it leaves: none is read where its stage is off (R104). -/
def biasRead (m : Memory) (t : Nat) (x : Tile) : Option (List Nat × AgSlot) :=
  if x.zimm.getLsbD 10 then readAccess m t (slotOf x x.zslot.toNat) 9 16 64
  else some (List.replicate 64 0, slotOf x x.zslot.toNat)

theorem biasRead_length {bs : List Nat × AgSlot} (h : biasRead m t x = some bs) : bs.1.length = 64 := by
  unfold biasRead at h
  split at h
  · obtain ⟨refs, hrefs, rfl⟩ := Option.map_eq_some_iff.mp h
    rw [access] at hrefs
    split at hrefs
    · cases hrefs
      simp
    · cases hrefs
  · cases h
    simp

/-- The slot at which the row is written, the bias once read. -/
theorem gateSlot_eq {bs : List Nat × AgSlot} (h : biasRead m t x = some bs) :
    gateSlot t f m x = if x.zslot.toNat = f.gd.toNat then bs.2 else slotOf x f.gd.toNat := by
  unfold biasRead at h
  unfold gateSlot
  by_cases hz : x.zslot = f.gd
  · rw [hz] at h ⊢
    rw [if_pos rfl]
    split at h
    next hb => rw [if_pos ⟨hb, rfl⟩, h]
    next hb =>
      cases h
      rw [if_neg (fun h => hb h.1)]
  · rw [if_neg (fun h => hz (BitVec.eq_of_toNat_eq h)), if_neg (fun h => hz h.2)]

/-- A gated row: its bias is read, then it is stored at the slot `gateSlot` says. -/
theorem drainGateRow_eq (r : Nat) : ∃ vs : List Nat × AgSlot → List Nat, (∀ bs, bs.1.length = 64 → (vs bs).length = 64) ∧
    drainGateRow t f r m x (slotOf x f.gd.toNat) = (biasRead m t x).bind (fun bs =>
      (writeAccess m t (if x.zslot.toNat = f.gd.toNat then bs.2 else slotOf x f.gd.toNat) f.fd.toNat (fmtBits f.fd.toNat) (vs bs)).map
        (fun p => (p.1, foldWrites (if x.zslot.toNat = f.gd.toNat then bs.2 else slotOf x f.gd.toNat) f.fd.toNat (fmtBits f.fd.toNat)
          (vs bs) (if f.mod.getLsbD 1 then setSlot x.zslot.toNat bs.2 x else clearRow r (setSlot x.zslot.toNat bs.2 x)), p.2,
          accessCycles (if x.zslot.toNat = f.gd.toNat then bs.2 else slotOf x f.gd.toNat) (fmtBits f.fd.toNat) 64 128))) := by
  refine ⟨fun bs => ((rowV x r).zip bs.1).zipIdx.map (fun p => gatePipe x.zimm p.1.1 p.1.2
    ((entry x (112 + r % 16) p.2).extractLsb' 32 16).toNat ((lane x 15 0).toNat % 2 ^ 16) f.fd.toNat (f.mod.getLsbD 0)),
    fun bs h => by simp [h], ?_⟩
  unfold drainGateRow biasRead
  dsimp only
  split
  next h => rw [h]; rfl
  next bs bsl h =>
    rw [h, slotOf_setSlot, if_pos rfl]
    rfl

theorem drainGateRow_stores {r : Nat} {p : Memory × Tile × AgSlot × Nat} (h : drainGateRow t f r m x (slotOf x f.gd.toNat) = some p) :
    ∃ (vs : List Nat) (slots : Tbl AgSlot), vs.length = 64 ∧
      writeAccess m t (gateSlot t f m x) f.fd.toNat (fmtBits f.fd.toNat) vs = some (p.1, p.2.2.1) ∧
      p.2.1 = foldWrites (gateSlot t f m x) f.fd.toNat (fmtBits f.fd.toNat) vs
        (if f.mod.getLsbD 1 then { x with slots := slots } else clearRow r { x with slots := slots }) := by
  obtain ⟨vs, hlen, heq⟩ := drainGateRow_eq (t := t) (f := f) (m := m) (x := x) r
  rw [heq] at h
  obtain ⟨bs, hbs, h⟩ := Option.bind_eq_some_iff.mp h
  obtain ⟨q, hq, rfl⟩ := Option.map_eq_some_iff.mp h
  rw [gateSlot_eq hbs]
  exact ⟨vs bs, (setSlot x.zslot.toNat bs.2 x).slots, hlen bs (biasRead_length hbs), hq, rfl⟩

theorem opDrain_tile {z : Bool} {o : TileOut} (h : opDrain z t f m x = some o) :
    Drained (f.mod.getLsbD 1) ((List.range (f.cnt.toNat + 1)).map (fun i => f.row.toNat + i)) x o.tile := by
  unfold opDrain at h
  split at h
  · cases h
  next rows hrows =>
    rw [← rows_of_rowsOf hrows]
    dsimp only at h
    have hnil : ∀ x, Drained (f.mod.getLsbD 1) [] x x := fun x => ⟨rfl, fun _ => rfl, fun _ _ _ => by simp⟩
    split at h
    · refine perRow_rel hnil (fun r rs m x p z hp hz => ?_) (legal_eq_some.mp h).2
      obtain ⟨vs, slots, -, -, hp⟩ := drainGateRow_stores hp
      rw [hp] at hz
      exact drained_cons slots hz
    · refine perRow_rel hnil (fun r rs m x p z hp hz => ?_) (legal_eq_some.mp h).2
      obtain ⟨vs, -, -, hp⟩ := drainRow_stores hp
      rw [hp] at hz
      exact drained_cons x.slots hz

/-- DRAIN stores to the elements that its rows name, the bias read before where it shares their slot (R104). -/
theorem memByte_opDrain {z : Bool} {o : TileOut} {a : Nat} (h : opDrain z t f m x = some o)
    (ha : ¬StoredTo t (fmtBits f.fd.toNat) (if z
      then rowStores f.gd.toNat f.fd.toNat (fmtBits f.fd.toNat) (gateSlot t f) (drainGateRow t f)
        ((List.range (f.cnt.toNat + 1)).map (fun i => f.row.toNat + i)) m x
      else rowStores f.gd.toNat f.fd.toNat (fmtBits f.fd.toNat) (fun _ x => slotOf x f.gd.toNat) (drainRow t f)
        ((List.range (f.cnt.toNat + 1)).map (fun i => f.row.toNat + i)) m x) a) :
    memByte o.mem a = memByte m a := by
  unfold opDrain at h
  split at h
  · cases h
  next rows hrows =>
    rw [rows_of_rowsOf hrows] at h
    dsimp only at h
    cases z with
    | true =>
      refine memByte_perRow (fun r m x p a hp ha => ?_) (legal_eq_some.mp h).2 ha
      obtain ⟨vs, slots, hlen, hw, -⟩ := drainGateRow_stores hp
      exact memByte_writeAccess hw (by rw [hlen]; exact ha)
    | false =>
      refine memByte_perRow (fun r m x p a hp ha => ?_) (legal_eq_some.mp h).2 ha
      obtain ⟨vs, hlen, hw, -⟩ := drainRow_stores hp
      exact memByte_writeAccess hw (by rw [hlen]; exact ha)

end

end Sys2Proof.Machine
end

section
/-!
PROOF. Tile stores: where DRAIN and VST are legal, and the three together (R88, R100, R104, R117).
-/

namespace Sys2Proof.Machine

open Claims

section
variable {t : Nat} {f : TileFields} {m : Memory} {x : Tile}

/-- A destination of DRAIN is a format of whole bytes (R78). -/
theorem fmtD_bits {c : Nat} (h : fmtD c = true) : fmtBits c ≠ 4 ∧ fmtBits c ≠ 6 := by
  simp only [fmtD, Bool.or_eq_true, beq_iff_eq] at h
  rcases h with ((((rfl | rfl) | rfl) | rfl) | rfl) | rfl <;> decide

theorem opDrain_runs (hfields : fieldsNamed 0x04 f = true) (hrows : f.row.toNat + f.cnt.toNat ≤ 127) (hd : fmtD f.fd.toNat = true)
    (ha : Reaches (slotOf x f.gd.toNat) f.fd.toNat (fmtBits f.fd.toNat) 64 (f.cnt.toNat + 1)) :
    ∃ r, opDrain false t f m x = some r := by
  rw [opDrain, rowsOf_eq hrows]
  dsimp only
  rw [if_neg Bool.false_ne_true, legal_true (by rw [hfields, hd]; rfl)]
  refine perRow_runs (n := f.cnt.toNat + 1) (fun j y => slotOf y f.gd.toNat = slotAfter (slotOf x f.gd.toNat) 64 j)
    (fun j r m y hj hy => ?_) (j := 0) (by simp) rfl
  obtain ⟨h4, h6⟩ := fmtD_bits hd
  obtain ⟨m', hw⟩ := writeAccess_runs (m := m) (t := t) (vs := (rowV y r).map (narrow f.fd.toNat (f.mod.getLsbD 0)))
    (by rw [List.length_map, rowV_length]; exact ha j hj) h4 h6
  refine ⟨m', _, _, _, by rw [hy, drainRow, hw]; rfl, ?_⟩
  rw [slotOf_setSlot, if_pos rfl, List.length_map, rowV_length]
  rfl

/-- A gated row runs where its bias and its write are legal accesses; it leaves the gate configuration, and of the slots those two moved. -/
theorem drainGateRow_runs {r : Nat} {bs : List Nat × AgSlot} {w : AgSlot} (hb : biasRead m t x = some bs)
    (hw : w = if x.zslot.toNat = f.gd.toNat then bs.2 else slotOf x f.gd.toNat)
    (ha : (access w f.fd.toNat (fmtBits f.fd.toNat) 64).isSome = true) (hd : fmtD f.fd.toNat = true) :
    ∃ m' x' n, drainGateRow t f r m x (slotOf x f.gd.toNat) = some (m', x', advance w 64, n) ∧ x'.zimm = x.zimm ∧ x'.zslot = x.zslot ∧
      x'.slots = (setSlot x.zslot.toNat bs.2 x).slots := by
  obtain ⟨vs, hlen, heq⟩ := drainGateRow_eq (t := t) (f := f) (m := m) (x := x) r
  have hlen := hlen bs (biasRead_length hb)
  obtain ⟨h4, h6⟩ := fmtD_bits hd
  obtain ⟨m', hw'⟩ := writeAccess_runs (m := m) (t := t) (vs := vs bs) (by rw [hlen]; exact ha) h4 h6
  have hclear : ∀ y : Tile, (clearRow r y).zimm = y.zimm ∧ (clearRow r y).zslot = y.zslot ∧ (clearRow r y).slots = y.slots := fun y => by
    rw [clearRow, setRow_eq]
    exact ⟨rfl, rfl, rfl⟩
  refine ⟨m', _, _, by rw [heq, hb, Option.bind_some, ← hw, hw', hlen]; rfl, ?_⟩
  rw [foldWrites_eq]
  dsimp only
  split
  · exact ⟨rfl, rfl, rfl⟩
  · exact hclear _

/-- DRAIN under ZGATE, where `bias j` and `write j` are the slots before row number `j`'s bias and at its write (R104). -/
theorem opDrain_gated_runs (hfields : fieldsNamed 0x04 f = true) (hrows : f.row.toNat + f.cnt.toNat ≤ 127)
    (hd : f.fd.toNat = 9 ∨ f.fd.toNat = 3)
    (hint : ∀ r ∈ (List.range (f.cnt.toNat + 1)).map (fun i => f.row.toNat + i), r ∉ x.intRows) (bias write : Nat → AgSlot)
    (hb0 : bias 0 = slotOf x x.zslot.toNat) (hw0 : x.zslot.toNat ≠ f.gd.toNat → write 0 = slotOf x f.gd.toNat)
    (hstep : ∀ j, j < f.cnt.toNat + 1 →
      (x.zimm.getLsbD 10 = true → (access (bias j) 9 16 64).isSome = true) ∧
      (access (write j) f.fd.toNat (fmtBits f.fd.toNat) 64).isSome = true ∧
      (x.zslot.toNat = f.gd.toNat → write j = (if x.zimm.getLsbD 10 then advance (bias j) 64 else bias j) ∧
        bias (j + 1) = advance (write j) 64) ∧
      (x.zslot.toNat ≠ f.gd.toNat → write (j + 1) = advance (write j) 64 ∧
        bias (j + 1) = (if x.zimm.getLsbD 10 then advance (bias j) 64 else bias j))) :
    ∃ r, opDrain true t f m x = some r := by
  have hfd : fmtD f.fd.toNat = true := by rcases hd with h | h <;> rw [h] <;> decide
  have hlegal : (fieldsNamed 0x04 f && (f.fd.toNat == 9 || f.fd.toNat == 3) &&
      ((List.range (f.cnt.toNat + 1)).map (fun i => f.row.toNat + i)).all (fun r => !(r ∈ x.intRows))) = true := by
    rw [hfields, Bool.true_and, Bool.and_eq_true, List.all_eq_true]
    exact ⟨by rcases hd with h | h <;> rw [h] <;> rfl, fun r hr => by simpa using hint r hr⟩
  rw [opDrain, rowsOf_eq hrows]
  dsimp only
  rw [if_pos rfl, legal_true hlegal]
  refine perRow_runs (n := f.cnt.toNat + 1) (fun j y => y.zimm = x.zimm ∧ y.zslot = x.zslot ∧ slotOf y x.zslot.toNat = bias j ∧
    (x.zslot.toNat ≠ f.gd.toNat → slotOf y f.gd.toNat = write j)) (fun j r m y hj hy => ?_) (j := 0) (by simp)
    ⟨rfl, rfl, hb0.symm, fun h => (hw0 h).symm⟩
  obtain ⟨hzimm, hzslot, hbias, hwrite⟩ := hy
  obtain ⟨haccess, hwaccess, hsame, hother⟩ := hstep j hj
  have hread : ∃ es, biasRead m t y = some (es, if x.zimm.getLsbD 10 then advance (bias j) 64 else bias j) := by
    rw [biasRead, hzimm, hzslot, hbias]
    split
    next h => exact readAccess_of_access (haccess h)
    next => exact ⟨_, rfl⟩
  obtain ⟨es, hes⟩ := hread
  obtain ⟨m', x', n, hrow, hz', hs', hslots⟩ := drainGateRow_runs (f := f) (r := r) (w := write j) hes (by
    rw [hzslot]
    split
    next h => exact (hsame h).1
    next h => exact (hwrite h).symm) hwaccess hfd
  refine ⟨m', x', _, n, hrow, hz'.trans hzimm, hs'.trans hzslot, ?_, fun h => ?_⟩
  · rw [slotOf_setSlot]
    split
    next h => rw [(hsame h).2]
    next h =>
      rw [slotOf, hslots, hzslot, (hother h).2]
      exact (slotOf_setSlot ..).trans (if_pos rfl)
  · rw [slotOf_setSlot, if_pos rfl, (hother h).1]

/-! ## VST -/

theorem opVst_tile {o : TileOut} (h : opVst t f m x = some o) :
    o.tile = { x with slots := o.tile.slots, sigW := o.tile.sigW } := by
  obtain ⟨p, _, rfl⟩ := Option.map_eq_some_iff.mp (legal_eq_some.mp h).2
  have hscale : ∀ a v (y : Tile), foldScale a v y = { y with sigW := (foldScale a v y).sigW } := fun a v y => by
    unfold foldScale
    split <;> rfl
  dsimp only
  split
  · rw [hscale, foldWrites_eq]
    rfl
  · rw [foldWrites_eq]
    rfl

theorem memByte_opVst {o : TileOut} {a : Nat} (h : opVst t f m x = some o)
    (ha : ¬(StoredTo t (fmtBits f.fd.toNat) ((access (slotOf x f.gd.toNat) f.fd.toNat (fmtBits f.fd.toNat) 64).getD []) a ∨
      (fmtIsMx f.fd.toNat = true ∧ tileBase t + (slotSBase (slotOf x f.gd.toNat).image + (slotOf x f.gd.toNat).pos / 32) ≤ a ∧
        a < tileBase t + (slotSBase (slotOf x f.gd.toNat).image + (slotOf x f.gd.toNat).pos / 32) + 2))) :
    memByte o.mem a = memByte m a := by
  obtain ⟨p, hp, rfl⟩ := Option.map_eq_some_iff.mp (legal_eq_some.mp h).2
  rw [not_or] at ha
  obtain ⟨hstored, hscale⟩ := ha
  have hw := memByte_writeAccess hp (by rw [List.length_map, lanes_length]; exact hstored)
  dsimp only
  split
  next hmx => rw [memByte_memWriteNat _ _ _ _ _ (fun h => hscale ⟨hmx, h⟩), hw]
  next => exact hw

theorem opVst_runs (hfields : fieldsNamed 0x11 f = true) (hf : fmtStore f.fd.toNat = true)
    (hs : fmtIsMx f.fd.toNat = true → slotSBase (slotOf x f.gd.toNat).image + (slotOf x f.gd.toNat).pos / 32 + 2 ≤ tileBytes)
    {refs : List ElemRef} (ha : access (slotOf x f.gd.toNat) f.fd.toNat (fmtBits f.fd.toNat) 64 = some refs)
    (hw : writeLegal (slotOf x f.gd.toNat) (fmtBits f.fd.toNat) refs = true) : ∃ r, opVst t f m x = some r := by
  have hlegal : (fieldsNamed 0x11 f && fmtStore f.fd.toNat && (!(fmtIsMx f.fd.toNat) ||
      decide (slotSBase (slotOf x f.gd.toNat).image + (slotOf x f.gd.toNat).pos / 32 + 2 ≤ tileBytes))) = true := by
    rw [hfields, hf]
    cases hmx : fmtIsMx f.fd.toNat with
    | true => simpa using hs hmx
    | false => rfl
  rw [opVst]
  dsimp only
  rw [legal_true hlegal, writeAccess, List.length_map, lanes_length, ha]
  dsimp only
  rw [if_pos hw]
  exact ⟨_, rfl⟩

end

/-- A store: the tile is what the operation made; a byte it does not store to stays, and so do all on a shadow (R422). -/
theorem issue_stores {t : Nat} {op : Bool → Memory → Tile → Option TileOut} {s : State} {r : TileOut} {dest : Nat → Prop}
    (h : mayIssue s t = true) (ho : op (zgateOn s t) s.mem (tileOf s t) = some r)
    (hm : ∀ a, ¬dest a → memByte r.mem a = memByte s.mem a) :
    TileMade t r s (issue t op s) ∧ ∀ a, ¬dest a → memByte (issue t op s).mem a = memByte s.mem a := by
  have hmade := issue_made t op s h ho
  obtain ⟨-, -, hmem, -⟩ := hmade
  refine ⟨issue_made t op s h ho, fun a ha => ?_⟩
  rw [hmem]
  split
  · rfl
  · exact hm a ha

/-- Settles O13: what each stores and keeps, and where each is legal; DRAIN by whether the gate reads a bias, and from which slot. -/
theorem tileStores : Obligations.TileStores := by
  intro s t f h x n rows z c g sl scaleAt bias b Made Ends
  have hends : ∀ (op : Bool → Memory → Tile → Option TileOut), (∃ r, op z s.mem x = some r) →
      ∃ r s', op z s.mem x = some r ∧ (Host.Outcome.next (issue t.val op s) : Res) = .next s' ∧ TileMade t.val r s s' :=
    fun op ⟨r, hr⟩ => ⟨r, _, hr, rfl, issue_made t.val op s h hr⟩
  refine ⟨fun r hr => ?_, fun r hr => ?_, fun r hr => ?_, fun hf hr ha => ?_, fun hf hr hz hd ha => ?_,
    fun hf hr hz hd hint hA hB hC => ?_, fun hf hfmt hs ⟨refs, ha, hw⟩ => ?_⟩
  · obtain ⟨hmade, hmem⟩ := issue_stores (op := fun _ m tl => opAst t.val f m tl) h hr fun a ha => memByte_opAst hr ha
    exact ⟨_, rfl, hmade, hmem, opAst_tile hr⟩
  · obtain ⟨hmade, hmem⟩ := issue_stores (op := fun z m tl => opDrain z t.val f m tl) h hr fun a ha => memByte_opDrain hr ha
    obtain ⟨hy, hacc, hent⟩ := opDrain_tile hr
    refine ⟨_, rfl, hmade, hmem, hy, hacc, fun hk q i hq hi => ?_, fun q i _ hi hq => ?_⟩
    · rw [hent q i hi, if_pos ⟨hk, hq⟩]
    · rw [hent q i hi, if_neg (fun h => hq h.2)]
  · obtain ⟨hmade, hmem⟩ := issue_stores (op := fun _ m tl => opVst t.val f m tl) h hr fun a ha => memByte_opVst hr ha
    exact ⟨_, rfl, hmade, hmem, opVst_tile hr⟩
  · refine hends (fun _ m tl => opAst t.val f m tl) (opAst_runs hf hr ?_)
    cases hmod : f.mod.getLsbD 0 <;> rw [hmod] at ha <;> exact ha
  · exact hends (fun z m tl => opDrain z t.val f m tl) (by rw [hz]; exact opDrain_runs hf hr hd ha)
  · refine hends (fun z m tl => opDrain z t.val f m tl) ?_
    rw [hz]
    have hne : x.zslot ≠ f.gd ↔ x.zslot.toNat ≠ f.gd.toNat := not_congr ⟨congrArg _, BitVec.eq_of_toNat_eq⟩
    by_cases hg : x.zslot = f.gd
    · cases hb : bias with
      | false =>
        refine opDrain_gated_runs hf hr hd hint (slotAfter sl 64) (slotAfter sl 64) (by rw [hg]; rfl) (fun _ => rfl)
          fun j hj => ⟨fun h => absurd (hb.symm.trans h) Bool.false_ne_true, hA (.inl hb) j hj, fun _ => ⟨?_, rfl⟩,
            fun h => absurd hg (hne.mpr h)⟩
        exact (if_neg (by rw [show x.zimm.getLsbD 10 = false from hb]; exact Bool.false_ne_true)).symm
      | true =>
        refine opDrain_gated_runs hf hr hd hint (fun j => slotAfter sl 64 (2 * j)) (fun j => slotAfter sl 64 (2 * j + 1))
          (by rw [hg]; rfl) (fun h => absurd hg (hne.mpr h))
          fun j hj => ⟨fun _ => (hC hb hg j hj).1, (hC hb hg j hj).2, fun _ => ⟨(if_pos hb).symm, rfl⟩, fun h => absurd hg (hne.mpr h)⟩
    · have hgn := hne.mp hg
      cases hb : bias with
      | false =>
        exact opDrain_gated_runs hf hr hd hint (fun _ => slotOf x x.zslot.toNat) (slotAfter sl 64) rfl (fun _ => rfl)
          fun j hj => ⟨fun h => absurd (hb.symm.trans h) Bool.false_ne_true, hA (.inl hb) j hj, fun h => absurd h hgn,
            fun _ => ⟨rfl, (if_neg (by rw [show x.zimm.getLsbD 10 = false from hb]; exact Bool.false_ne_true)).symm⟩⟩
      | true =>
        exact opDrain_gated_runs hf hr hd hint (slotAfter (slotOf x x.zslot.toNat) 64) (slotAfter sl 64) rfl (fun _ => rfl)
          fun j hj => ⟨fun _ => hB hb hg j hj, hA (.inr hg) j hj, fun h => absurd h hgn, fun _ => ⟨rfl, (if_pos hb).symm⟩⟩
  · exact hends (fun _ m tl => opVst t.val f m tl) (opVst_runs hf hfmt hs ha hw)

end Sys2Proof.Machine
end

section
/-!
PROOF. The sequencer of a tile: NOP, LOOP, ENDL, EVSIG, EVWAIT, BAR and END (R22, R62, R100, R422, R423).
-/

namespace Sys2Proof.Machine

open Claims

/-! ## Moving on -/

section
variable (t n : Nat) (s : State)

@[simp] theorem tileOf_chargeCycles (u : Nat) : tileOf (chargeCycles t n s) u = tileOf s u := by rw [chargeCycles_eq]; rfl

@[simp] theorem clusterOf_chargeCycles (k : Nat) :
    clusterOf (chargeCycles t n s) k = clusterOf s k := by rw [chargeCycles_eq]; rfl

@[simp] theorem chanOf_chargeCycles (c : Nat) : chanOf (chargeCycles t n s) c = chanOf s c := by rw [chargeCycles_eq]; rfl
@[simp] theorem chargeCycles_raised : (chargeCycles t n s).raised = s.raised := by rw [chargeCycles_eq]

@[simp] theorem tileOf_pcNext_same :
    tileOf (pcNext t s) t = { tileOf s t with pc := (tileOf s t).pc + 1, cycles := (tileOf s t).cycles + 1 } := by
  rw [pcNext, tileOf_chargeCycles, tileOf_tmod_same]

theorem tileOf_pcNext_other (u : Nat) (h : u ≠ t) : tileOf (pcNext t s) u = tileOf s u := by
  rw [pcNext, tileOf_chargeCycles, tileOf_tmod, if_neg h]

@[simp] theorem clusterOf_pcNext (k : Nat) : clusterOf (pcNext t s) k = clusterOf s k := by
  rw [pcNext, clusterOf_chargeCycles, clusterOf_tmod]

@[simp] theorem chanOf_pcNext (c : Nat) : chanOf (pcNext t s) c = chanOf s c := by rw [pcNext, chanOf_chargeCycles, chanOf_tmod]
@[simp] theorem pcNext_raised : (pcNext t s).raised = s.raised := by rw [pcNext, chargeCycles_raised]; rfl
end

/-- A tile that alone has changed, whose cycles are then counted. -/
theorem tileOnly_charged {t n : Nat} {s u : State} (hu : u = { s with tiles := u.tiles })
    (hother : ∀ b, b ≠ t → tileOf u b = tileOf s b) (hpc : (tileOf u t).pc = (tileOf s t).pc + 1) :
    TileOnly t s (chargeCycles t n u) := by
  refine ⟨?_, fun b hb => ?_, ?_, ?_⟩
  · rw [chargeCycles_eq, hu]
  · rw [tileOf_chargeCycles, hother b hb]
  · rw [tileOf_chargeCycles, hpc]
  · rw [chargeCycles_uncounted, hu]

theorem tileOnly_pcNext (t : Nat) (s : State) : TileOnly t s (pcNext t s) :=
  tileOnly_charged rfl (fun b hb => by rw [tileOf_tmod, if_neg hb]) (by rw [tileOf_tmod_same])

/-- A change of the tile's own state, then the program counter moves on. -/
theorem tileOnly_pcNext_tmod {t : Nat} {f : Tile → Tile} {s : State} (hpc : (f (tileOf s t)).pc = (tileOf s t).pc) :
    TileOnly t s (pcNext t (tmod t f s)) :=
  tileOnly_charged rfl (fun b hb => by rw [tileOf_tmod, if_neg hb, tileOf_tmod, if_neg hb])
    (by rw [tileOf_tmod_same, tileOf_tmod_same, hpc])

/-! ## Barriers -/

/-- Tiles changed by `f` one by one, each once. -/
theorem tileOf_forEach (f : Tile → Tile) (g : Nat → State → State)
    (hg : ∀ x s b, tileOf (g x s) b = if b = x then f (tileOf s x) else tileOf s b) (ts : List Nat) (t : Nat) (s : State)
    (h : ts.Nodup) : tileOf (forEach ts g s) t = if t ∈ ts then f (tileOf s t) else tileOf s t := by
  induction ts generalizing s with
  | nil => rfl
  | cons x ts ih =>
    rw [List.nodup_cons] at h
    rw [show forEach (x :: ts) g s = forEach ts g (g x s) from rfl, ih _ h.2, hg]
    by_cases hx : t = x
    · subst hx
      rw [if_neg h.1, if_pos rfl, if_pos List.mem_cons_self]
    · rw [if_neg hx]
      exact if_congr (by rw [List.mem_cons, or_iff_right hx]) rfl rfl

theorem clusterTiles_nodup (k : Nat) : (clusterTiles k).Nodup :=
  List.Nodup.map (fun a b (h : 8 * k + a = 8 * k + b) => by omega) List.nodup_range

theorem mem_clusterTiles_self (t : Nat) : t ∈ clusterTiles (clusterOfTile t) :=
  List.mem_map.mpr ⟨t % 8, List.mem_range.mpr (by omega), by show 8 * (t / 8) + t % 8 = t; omega⟩

/-- The bit of a tile in its cluster's eight. -/
theorem getLsbD_tileBit (t : Nat) : (BitVec.ofNat 8 (2 ^ (t % 8))).getLsbD (t % 8) = true := by
  rw [BitVec.getLsbD_ofNat, Nat.testBit_two_pow_self, Bool.and_true]
  exact decide_eq_true (Nat.mod_lt _ (by decide))

theorem barrier_goes {t : Nat} {f : TileFields} {s : State} (h : (f.imm.setWidth 8 : BitVec 8) &&&
      ~~~((clusterOf s (clusterOfTile t)).arrived ||| BitVec.ofNat 8 (2 ^ (t % 8))) = 0) :
    (tileOf (barrier t f s) t).wait = none ∧ (tileOf (barrier t f s) t).pc = (tileOf s t).pc + 1 ∧
      (clusterOf (barrier t f s) (clusterOfTile t)).arrived.getLsbD (t % 8) = false := by
  unfold barrier
  extract_lets k mask here go u
  rw [if_pos h]
  have hgo : go.Nodup := (clusterTiles_nodup k).filter _
  have ht : t ∈ go := List.mem_filter.mpr ⟨mem_clusterTiles_self t, by simp⟩
  refine ⟨?_, ?_, ?_⟩
  · rw [tileOf_forEach _ _ (fun x s b => tileOf_tmod s x b _) _ _ _ hgo, if_pos ht]
  · rw [tileOf_forEach _ _ (fun x s b => tileOf_tmod s x b _) _ _ _ hgo, if_pos ht]
    rfl
  · have hc : ∀ j, clusterOf (forEach go (fun x => tmod x (fun tl => { tl with wait := none, pc := tl.pc + 1 })) u) j =
        clusterOf u j := fun j => forEach_keeps (fun s => clusterOf s j) (fun x => tmod x _) go (fun _ _ _ => rfl) u
    rw [hc, clusterOf_cmod_same, BitVec.getLsbD_and, BitVec.getLsbD_not, BitVec.getLsbD_or, BitVec.getLsbD_or,
      getLsbD_tileBit, Bool.or_true, Bool.or_true, Bool.not_true, Bool.and_false, Bool.and_false]

theorem barrier_waits {t : Nat} {f : TileFields} {s : State} (h : (f.imm.setWidth 8 : BitVec 8) &&&
      ~~~((clusterOf s (clusterOfTile t)).arrived ||| BitVec.ofNat 8 (2 ^ (t % 8))) ≠ 0) :
    (tileOf (barrier t f s) t).wait = some (.bar (f.imm.setWidth 8)) ∧ (tileOf (barrier t f s) t).pc = (tileOf s t).pc ∧
      (clusterOf (barrier t f s) (clusterOfTile t)).arrived.getLsbD (t % 8) = true := by
  unfold barrier
  dsimp only
  rw [if_neg h]
  refine ⟨by simp, by simp, ?_⟩
  rw [clusterOf_cmod_same, BitVec.getLsbD_or, getLsbD_tileBit, Bool.or_true]

/-! ## Events -/

theorem raised_mono_raiseEvent (job : Option (BitVec 32)) (n : Nat) (s : State) (h : eventWaiters s job n = []) {e : Raised}
    (he : e ∈ s.raised) : e ∈ (raiseEvent job n s).raised := by
  rw [raiseEvent, if_pos h]
  dsimp only
  split
  · exact he
  · exact List.mem_append_left _ he

theorem tileOf_raiseEvent (job : Option (BitVec 32)) (n t : Nat) (s : State) (h : eventWaiters s job n = []) :
    tileOf (raiseEvent job n s) t = tileOf s t := by
  rw [raiseEvent, if_pos h]
  rfl

/-- An event found raised for a job is of the number asked and meant for it (R22). -/
theorem raisedFor_spec {s : State} {tag : BitVec 32} {n : Nat} {e : Raised} (h : raisedFor s tag n = some e) :
    (e.job = none ∨ e.job = some tag) ∧ e.number = n := by
  have hp := List.find?_some h
  rw [Bool.and_eq_true, beq_iff_eq] at hp
  refine ⟨?_, hp.1⟩
  cases hj : e.job with
  | none => exact .inl rfl
  | some g =>
    rw [hj] at hp
    exact .inr (congrArg some (by simpa [meantFor] using hp.2))

/-! ## The job that runs on a tile, its cycle counts apart -/

theorem uncounted_inj {j k : Job} (h : uncounted j = uncounted k) :
    j.tag = k.tag ∧ j.phase = k.phase ∧ j.desc = k.desc ∧
      j.tasks.map (fun (x : TaskRun) => { x with cycles := 0 }) = k.tasks.map (fun (x : TaskRun) => { x with cycles := 0 }) := by
  injection h
  exact ⟨by assumption, by assumption, by assumption, by assumption⟩

/-- Jobs that differ in their cycle counts only are found alike. -/
theorem jobOf_uncounted {s s' : State} (h : s'.sluice.jobs.map uncounted = s.sluice.jobs.map uncounted) (tag : BitVec 32) :
    (jobOf s' tag).map uncounted = (jobOf s tag).map uncounted := by
  have hfind : ∀ jobs : List Job, (jobs.find? (fun j => j.tag = tag)).map uncounted =
      (jobs.map uncounted).find? (fun j => j.tag = tag) := fun jobs => by rw [List.find?_map]; rfl
  rw [jobOf, jobOf, hfind, hfind, h]

/-- The place in a list of the first task that a predicate on it, its count apart, picks. -/
theorem find?_zipIdx_uncounted (p : TaskRun → Bool) (hp : ∀ x : TaskRun, p { x with cycles := 0 } = p x) (l : List TaskRun) :
    ((l.map (fun (x : TaskRun) => { x with cycles := 0 })).zipIdx.find? (fun x => p x.1)).map (fun x => x.2) =
      (l.zipIdx.find? (fun x => p x.1)).map (fun x => x.2) := by
  rw [List.zipIdx_map, List.find?_map, Option.map_map]
  simp only [Function.comp_def, Prod.map, hp, id]

/-- The task of job `j` that runs on tile `t`: the test that `taskOn` makes of each job. -/
def runsOn (t : Nat) (j : Job) : Option (Job × Nat) :=
  if j.phase = .running then
    (j.tasks.zipIdx.find? (fun x => !x.1.ended &&
      (x.1.tile == some t || (j.desc.lockstep && x.1.tile == some (t - 1) && t % 2 == 1)))).map (fun x => (j, x.2))
  else none

theorem taskOn_eq (s : State) (t : Nat) : taskOn s t = s.sluice.jobs.findSome? (runsOn t) := rfl

theorem runsOn_uncounted (t : Nat) (j : Job) : runsOn t (uncounted j) = (runsOn t j).map (fun p => (uncounted p.1, p.2)) := by
  have hfind := find?_zipIdx_uncounted (fun x => !x.ended &&
    (x.tile == some t || (j.desc.lockstep && x.tile == some (t - 1) && t % 2 == 1))) (fun _ => rfl) j.tasks
  show (if j.phase = .running then _ else none) = Option.map _ (if j.phase = .running then _ else none)
  split
  · have := congrArg (Option.map fun i => (uncounted j, i)) hfind
    rw [Option.map_map, Option.map_map] at this
    rw [Option.map_map]
    exact this
  · rfl

/-- The task that runs on a tile is the same where only cycle counts differ. -/
theorem taskOn_uncounted {s s' : State} (h : s'.sluice.jobs.map uncounted = s.sluice.jobs.map uncounted) (t : Nat) :
    (taskOn s' t).map (fun p => (uncounted p.1, p.2)) = (taskOn s t).map (fun p => (uncounted p.1, p.2)) := by
  have hjob : ∀ jobs : List Job, (jobs.findSome? (runsOn t)).map (fun p => (uncounted p.1, p.2)) =
      (jobs.map uncounted).findSome? (runsOn t) := fun jobs => by
    induction jobs with
    | nil => rfl
    | cons j js ih =>
      rw [List.map_cons, List.findSome?_cons, List.findSome?_cons, runsOn_uncounted, ← ih]
      cases runsOn t j <;> rfl
  rw [taskOn_eq, taskOn_eq, hjob, hjob, h]

/-- The task that runs on a tile is one of its job's, which is running. -/
theorem taskOn_spec {s : State} {t i : Nat} {j : Job} (h : taskOn s t = some (j, i)) :
    j.phase = .running ∧ ∃ x, j.tasks[i]? = some x ∧ x.ended = false := by
  obtain ⟨k, _, hk⟩ := List.exists_of_findSome?_eq_some h
  split at hk
  next hp =>
    obtain ⟨⟨x, m⟩, hx, heq⟩ := Option.map_eq_some_iff.mp hk
    cases heq
    have hmem := List.mem_zipIdx_iff_getElem?.mp (List.mem_of_find?_eq_some hx)
    have hpred := List.find?_some hx
    rw [Bool.and_eq_true, Bool.not_eq_true'] at hpred
    exact ⟨hp, x, hmem, hpred.1⟩
  · cases hk

end Sys2Proof.Machine
end

section
/-!
PROOF. END and the sequencer's obligation (R62, R100, R264, R422, R423).
-/

namespace Sys2Proof.Machine

open Claims

/-! ## What the fences of a commit and yielding tests leave -/

section
variable (s : State)

@[simp] theorem ite_sluice (c : Prop) [Decidable c] (a b : State) :
    (if c then a else b).sluice = if c then a.sluice else b.sluice :=
  apply_ite State.sluice c a b

@[simp] theorem forEach_sluice {α : Type} (l : List α) (f : α → State → State) (h : ∀ a s, (f a s).sluice = s.sluice) :
    (forEach l f s).sluice = s.sluice :=
  forEach_keeps State.sluice f l (fun a _ s => h a s) s

@[simp] theorem emitFabric_sluice (p : Nat) (f : OutFrame) : (emitFabric p f s).sluice = s.sluice := by simp [emitFabric]

@[simp] theorem sendPackets_sluice (p peer qp : Nat) (op : RoceOp) (address : Nat) (data : Bytes) :
    (sendPackets p peer qp op address data s).sluice = s.sluice := by
  simp [sendPackets]

@[simp] theorem newReq_sluice (m : Nat) (owner : RoceOwner) (op : RoceOp) (address : Nat) (data : Bytes) :
    (newReq m owner op address data s).sluice = s.sluice := by
  unfold newReq; simp only []; (repeat' split) <;> simp

@[simp] theorem fencePeer_sluice (ch t : Nat) : (fencePeer ch t s).sluice = s.sluice := by simp [fencePeer]
@[simp] theorem beginFence_sluice (ch t : Nat) : (beginFence ch t s).sluice = s.sluice := by simp [beginFence]
@[simp] theorem fenceTargets_sluice (ch : Nat) : (fenceTargets ch s).sluice = s.sluice := by simp [fenceTargets]
@[simp] theorem clearTested_sluice (t : Nat) : (clearTested t s).sluice = s.sluice := by simp [clearTested]

@[simp] theorem endTest_sluice (t : Nat) (f : FieldTest) : (endTest t f s).sluice = s.sluice := by
  unfold endTest; split <;> simp

@[simp] theorem abandonTests_sluice (ts : List Nat) : (abandonTests ts s).sluice = s.sluice := by simp [abandonTests]
@[simp] theorem yieldTests_sluice (ts : List Nat) : (yieldTests ts s).sluice = s.sluice := by simp [yieldTests]

@[simp] theorem fenceWhenDone_sluice (ch : Nat) (tag : Option (BitVec 32)) : (fenceWhenDone ch tag s).sluice = s.sluice := by
  unfold fenceWhenDone; split <;> simp

@[simp] theorem issueCommitFences_sluice (j : Job) : (issueCommitFences j s).sluice = s.sluice := by simp [issueCommitFences]

end

/-! ## The phase of a job and the tasks that have ended -/

/-- Phase of job `tag`, and which of its tasks have ended. -/
def endsOf (s : State) (tag : BitVec 32) : Option (JobPhase × List Bool) :=
  (jobOf s tag).map (fun j => (j.phase, j.tasks.map (fun x => x.ended)))

theorem endsOf_of_sluice {s s' : State} (h : s'.sluice = s.sluice) (tag : BitVec 32) : endsOf s' tag = endsOf s tag := by
  rw [endsOf, jobOf, h]
  rfl

theorem jobOf_tag {s : State} {tag : BitVec 32} {j : Job} (h : jobOf s tag = some j) : j.tag = tag := by
  simpa using List.find?_some h

/-- A change of jobs of one tag that keeps tags. -/
theorem jobOf_jmod (g tag : BitVec 32) (f : Job → Job) (s : State) (hf : ∀ j, (f j).tag = j.tag) :
    jobOf (jmod g f s) tag = (jobOf s tag).map (fun j => if j.tag = g then f j else j) := by
  rw [jobOf, jobOf]
  show (s.sluice.jobs.map _).find? _ = _
  rw [List.find?_map]
  refine congrArg _ (congrArg (fun p => List.find? p s.sluice.jobs) (funext fun j => ?_))
  rw [Function.comp_apply]
  split
  · rw [hf]
  · rfl

/-- The change of a job by its own tag. -/
theorem jobOf_jmod_same {s : State} {tag : BitVec 32} {j : Job} (f : Job → Job) (hf : ∀ j, (f j).tag = j.tag)
    (h : jobOf s tag = some j) : jobOf (jmod tag f s) tag = some (f j) := by
  rw [jobOf_jmod _ _ _ _ hf, h, Option.map_some, if_pos (jobOf_tag h)]

/-- A change of a job's tasks that ends none. -/
theorem endsOf_jmod (tag : BitVec 32) (f : Job → Job) (s : State) (hf : ∀ j, (f j).tag = j.tag)
    (h : ∀ j, jobOf s tag = some j → (f j).phase = j.phase ∧ (f j).tasks.map (fun x => x.ended) = j.tasks.map (fun x => x.ended)) :
    endsOf (jmod tag f s) tag = endsOf s tag := by
  rw [endsOf, endsOf]
  cases hj : jobOf s tag with
  | none => rw [jobOf_jmod _ _ _ _ hf, hj]; rfl
  | some j =>
    obtain ⟨hphase, htasks⟩ := h j hj
    rw [jobOf_jmod_same f hf hj, Option.map_some, Option.map_some, hphase, htasks]

/-- Tasks changed by their place, none ended. -/
theorem ended_zipIdx_map (l : List TaskRun) (g : TaskRun × Nat → TaskRun) (hg : ∀ x, (g x).ended = x.1.ended) :
    (l.zipIdx.map g).map (fun x => x.ended) = l.map (fun x => x.ended) := by
  refine List.ext_getElem (by simp) fun i _ _ => ?_
  simp [hg]

theorem endsOf_startOn (tag : BitVec 32) (b : Nat) (s : State) : endsOf (startOn tag b s) tag = endsOf s tag := by
  unfold startOn
  split
  · rfl
  · split
    · rfl
    next j _ i _ =>
      extract_lets u v first w
      have hw : endsOf w tag = endsOf s tag := by
        rw [endsOf_of_sluice (s' := w) (s := v) rfl]
        show endsOf (jmod tag _ u) tag = _
        rw [endsOf_jmod, endsOf_of_sluice (s' := u) (s := s) (yieldTests_sluice ..)]
        · exact fun _ => rfl
        · exact fun k _ => ⟨rfl, ended_zipIdx_map _ _ fun x => by split <;> rfl⟩
      split
      · exact (endsOf_of_sluice rfl tag).trans hw
      · exact hw

theorem endsOf_placeReady (tag : BitVec 32) (i : Nat) (s : State) : endsOf (placeReady tag i s) tag = endsOf s tag := by
  unfold placeReady
  split
  · rfl
  next j hj =>
    split
    next x e hx he =>
      split
      · split
        · rfl
        · rw [endsOf_startOn]
          refine endsOf_jmod tag _ s (fun _ => rfl) fun k hk => ⟨rfl, ?_⟩
          cases hj.symm.trans hk
          obtain ⟨hi, rfl⟩ := List.getElem?_eq_some_iff.mp hx
          show (j.tasks.set i _).map (fun x => x.ended) = _
          rw [List.map_set]
          refine List.ext_getElem (by simp) fun m _ _ => ?_
          rw [List.getElem_set]
          split
          next h => subst h; simp
          next => rfl
      · rfl
    · rfl

theorem endsOf_placeWaiting (tag : BitVec 32) (s : State) : endsOf (placeWaiting tag s) tag = endsOf s tag := by
  unfold placeWaiting
  split
  · rfl
  · exact forEach_keeps (fun s => endsOf s tag) (placeReady tag) _ (fun i _ s => endsOf_placeReady tag i s) s

/-! ## END -/

/-- The tasks of a job with task `i` ended. -/
def endTaskAt (u : State) (i : Nat) (j : Job) : Job :=
  { j with tasks := j.tasks.zipIdx.map (fun x => if x.2 = i then { pauseTask u x.1 with ended := true } else x.1) }

theorem endTaskAt_ended (u : State) (i : Nat) (j : Job) (m : Nat) :
    ((endTaskAt u i j).tasks[m]?).map (fun x => x.ended) = (j.tasks[m]?).map (fun x => if m = i then true else x.ended) := by
  show ((j.tasks.zipIdx.map _)[m]?).map _ = _
  rw [List.getElem?_map, List.getElem?_zipIdx]
  cases j.tasks[m]? with
  | none => rfl
  | some x =>
    simp only [Option.map_some, Nat.zero_add]
    split <;> rfl

theorem endTaskAt_tiles (u : State) (i : Nat) (j : Job) :
    (endTaskAt u i j).tasks.map (fun x => x.tile) = j.tasks.map (fun x => x.tile) := by
  refine List.ext_getElem (by simp [endTaskAt]) fun m _ _ => ?_
  simp only [endTaskAt, List.getElem_map, List.getElem_zipIdx]
  split <;> rfl

/-- What END finds once the program counter has moved on: the same job and task, cycle counts apart. -/
theorem taskOn_pcNext {s : State} {t i : Nat} {j : Job} (h : taskOn s t = some (j, i)) (hj : jobOf s j.tag = some j) :
    ∃ k k', taskOn (pcNext t s) t = some (k, i) ∧ uncounted k = uncounted j ∧
      jobOf (pcNext t s) j.tag = some k' ∧ uncounted k' = uncounted j := by
  obtain ⟨-, -, -, hjobs⟩ := tileOnly_pcNext t s
  have htask := taskOn_uncounted hjobs t
  have hjob := jobOf_uncounted hjobs j.tag
  rw [h] at htask
  rw [hj] at hjob
  obtain ⟨⟨k, m⟩, hk, heq⟩ := Option.map_eq_some_iff.mp htask
  obtain ⟨k', hk', heq'⟩ := Option.map_eq_some_iff.mp hjob
  obtain ⟨hu, rfl⟩ := Prod.mk.inj heq
  exact ⟨k, k', hk, hu, hk', heq'⟩

/-- END of a task that ends with it: task `i` of the job has ended in the state `u`, and the job goes on from there. -/
theorem endTask_ends {s : State} {t i : Nat} {j : Job} (h : taskOn s t = some (j, i)) (hj : jobOf s j.tag = some j)
    (hends : j.desc.lockstep = false ∨ t % 2 = 1) :
    ∃ u k, jobOf u j.tag = some k ∧ k.phase = .running ∧ k.desc = j.desc ∧ u.mem = s.mem ∧ (∀ b, (tileOf u b).sigW = (tileOf s b).sigW ∧
        (tileOf u b).sigP = (tileOf s b).sigP) ∧ k.tasks.map (fun x => x.tile) = j.tasks.map (fun x => x.tile) ∧
      (∀ m, (k.tasks[m]?).map (fun x => x.ended) = (j.tasks[m]?).map (fun x => if m = i then true else x.ended)) ∧
      endTask t s = if k.tasks.all (fun x => x.ended) then lastTaskEnded j.tag u
        else if (firstOn k (if k.desc.lockstep then t - 1 else t)).isSome then startOn j.tag (if k.desc.lockstep then t - 1 else t) u
        else placeWaiting j.tag u := by
  obtain ⟨k, k', hk, hu, hk', hu'⟩ := taskOn_pcNext h hj
  obtain ⟨htag, -, hdesc, -⟩ := uncounted_inj hu
  obtain ⟨htag', hphase', hdesc', htasks'⟩ := uncounted_inj hu'
  have hrest : ∀ {α : Type} (g : TaskRun → α), (∀ x : TaskRun, g { x with cycles := 0 } = g x) → k'.tasks.map g = j.tasks.map g :=
    fun g hg => by
      have := congrArg (List.map g) htasks'
      simpa only [List.map_map, Function.comp_def, hg] using this
  have hjob : jobOf (jmod j.tag (endTaskAt (pcNext t s) i) (pcNext t s)) j.tag = some (endTaskAt (pcNext t s) i k') :=
    jobOf_jmod_same _ (fun _ => rfl) hk'
  refine ⟨jmod j.tag (endTaskAt (pcNext t s) i) (pcNext t s), endTaskAt (pcNext t s) i k', hjob,
    hphase'.trans (taskOn_spec h).1, hdesc', by rw [jmod_mem, pcNext_mem], fun b => ?_, ?_, fun m => ?_, ?_⟩
  · rw [tileOf_jmod]
    by_cases hb : b = t
    · subst hb
      rw [tileOf_pcNext_same]
      exact ⟨rfl, rfl⟩
    · rw [tileOf_pcNext_other _ _ _ hb]
      exact ⟨rfl, rfl⟩
  · rw [endTaskAt_tiles]
    exact hrest _ fun _ => rfl
  · rw [endTaskAt_ended]
    have := congrArg (fun l : List Bool => l[m]?) (hrest (fun x => x.ended) fun _ => rfl)
    simp only [List.getElem?_map] at this
    by_cases hm : m = i
    · have hsome := congrArg (Option.map fun _ => true) this
      simpa only [hm, if_true, Option.map_map, Function.comp_def] using hsome
    · simpa only [if_neg hm] using this
  · have hnot : ¬(k.desc.lockstep && t % 2 == 0) = true := by
      rw [hdesc]
      rcases hends with h | h <;> simp [h]
    rw [endTask]
    dsimp only
    rw [hk]
    dsimp only
    rw [if_neg hnot, htag]
    unfold endTaskAt at hjob
    rw [hjob]
    rfl

/-- The attempt ends its run with its last task: its commit fences are issued, on a pair where the signatures agree (R62, R423). -/
theorem lastTaskEnded_ending {u : State} {tag : BitVec 32} {k : Job} (hk : jobOf u tag = some k)
    (hpair : k.desc.lockstep = true → pairMismatch u k = []) :
    jobOf (lastTaskEnded tag u) tag = some { k with phase := .ending } ∧ (lastTaskEnded tag u).mem = u.mem := by
  have hts : (if k.desc.lockstep then pairMismatch u k else []) = [] := by
    split
    next h => exact hpair h
    next => rfl
  have hrun : lastTaskEnded tag u = issueCommitFences k (jmod tag (fun j => { j with phase := .ending }) u) := by
    rw [lastTaskEnded, hk]
    dsimp only
    rw [hts]
  rw [hrun, issueCommitFences_mem, jmod_mem]
  refine ⟨?_, rfl⟩
  rw [jobOf, issueCommitFences_sluice]
  exact jobOf_jmod_same _ (fun _ => rfl) hk

theorem pairMismatch_congr {u s : State} {k j : Job} (htasks : k.tasks.map (fun x => x.tile) = j.tasks.map (fun x => x.tile))
    (hsig : ∀ b, (tileOf u b).sigW = (tileOf s b).sigW ∧ (tileOf u b).sigP = (tileOf s b).sigP) :
    pairMismatch u k = pairMismatch s j := by
  have hfm : ∀ l : List TaskRun, l.filterMap (fun x => x.tile) = (l.map (fun x => x.tile)).filterMap id := fun l => by
    rw [List.filterMap_map]
    rfl
  simp only [pairMismatch, hfm, htasks, fun b => (hsig b).1, fun b => (hsig b).2]

/-! ## The sequencer -/

theorem endLoop_spec (t : Nat) (f : TileFields) (s : State) :
    tblGet 0 (tileOf (endLoop t f s) t).loops f.mod.toNat = tblGet 0 (tileOf s t).loops f.mod.toNat - 1 ∧
      (tileOf (endLoop t f s) t).pc = (if tblGet 0 (tileOf s t).loops f.mod.toNat = 0 then (tileOf s t).pc + 1
        else (tileOf s t).pc - f.imm.toNat) ∧ (endLoop t f s).mem = s.mem := by
  refine ⟨?_, ?_, endLoop_mem s t f⟩ <;> unfold endLoop <;> dsimp only <;> split
  next h => rw [tileOf_pcNext_same, h]
  next => rw [tileOf_chargeCycles, tileOf_tmod_same, tblGet_set, if_pos rfl]
  next => rw [tileOf_pcNext_same]
  next => rw [tileOf_chargeCycles, tileOf_tmod_same]

theorem mayIssue_waits {s : State} {t : Nat} (h : mayIssue s t = true) : (tileOf s t).wait = none := by
  simp only [mayIssue, Bool.and_eq_true, Option.isNone_iff_eq_none] at h
  exact h.1.1.2

/-- Settles O14: each instruction by its function of the sequencer; END by the state in which its task has ended. -/
theorem sequencer : Obligations.Sequencer := by
  constructor
  · intro s t f x n
    refine ⟨fun h => ⟨_, rfl, ?_⟩, fun h => ⟨_, rfl, ?_⟩, fun h => ⟨_, rfl, ?_⟩, fun j m hj => ⟨fun e h he => ⟨_, rfl, ?_⟩,
      fun h he => ⟨_, rfl, ?_⟩, fun h he => ⟨_, rfl, ?_⟩⟩, fun h hb => ⟨_, rfl, ?_⟩, fun h hb => ⟨_, rfl, ?_⟩⟩ <;>
      rw [sequence_runs _ _ _ _ _ h]
    · exact ⟨tileOnly_pcNext t.val s, pcNext_mem s t.val, tileOf_pcNext_same t.val s⟩
    · refine ⟨tileOnly_pcNext_tmod rfl, ?_⟩
      rw [beginLoop, tileOf_pcNext_same, tileOf_tmod_same, tblGet_set, if_pos rfl]
    · exact endLoop_spec t.val f s
    · rw [eventWait, hj]
      dsimp only
      rw [he]
      obtain ⟨hjob, hnum⟩ := raisedFor_spec he
      refine ⟨pcNext_raised .., hjob, hnum, ?_, ?_⟩ <;> rw [tileOf_pcNext_same]
      · exact mayIssue_waits h.1
      · rfl
    · rw [eventWait, hj]
      dsimp only
      rw [he]
      exact ⟨rfl, by rw [tileOf_tmod_same], by rw [tileOf_tmod_same]⟩
    · rw [eventSignal, hj, Option.map_some, pcNext_raised, tileOf_pcNext_same, tileOf_raiseEvent _ _ _ _ he]
      exact ⟨raised_raiseEvent _ _ _ he, fun e => raised_mono_raiseEvent _ _ _ he, rfl⟩
    · obtain ⟨hwait, hpc, harr⟩ := barrier_goes hb
      exact ⟨hwait, hpc, harr, barrier_mem s t.val f⟩
    · exact barrier_waits hb
  · intro s t f j i h hj htag ends last
    refine ⟨_, rfl, fun hl ht => ?_, fun he hl => ?_, fun he hl => ?_⟩ <;> rw [sequence_runs _ _ _ _ _ h]
    · obtain ⟨k, k', hk, hu, -⟩ := taskOn_pcNext hj htag
      obtain ⟨-, -, hdesc, -⟩ := uncounted_inj hu
      rw [endTask, hk]
      dsimp only
      rw [if_pos (by rw [hdesc, hl, ht]; rfl)]
      exact tileOnly_pcNext t.val s
    · obtain ⟨u, k, hk, hphase, -, hmem, -, -, hended, heq⟩ := endTask_ends hj htag (he.imp id fun h => h.1)
      have hall : ¬k.tasks.all (fun x => x.ended) = true := fun hall => hl fun m y hm hy => by
        have := hended m
        rw [hy, Option.map_some, if_neg hm] at this
        obtain ⟨z, hz, hzy⟩ := Option.map_eq_some_iff.mp this
        exact hzy.symm.trans (List.all_eq_true.mp hall z (List.mem_of_getElem? hz))
      rw [if_neg hall] at heq
      have hgoes : endsOf (endTask t.val s) j.tag = endsOf u j.tag ∧ (endTask t.val s).mem = u.mem := by
        rw [heq]
        generalize (if k.desc.lockstep then t.val - 1 else t.val) = b
        split
        · exact ⟨endsOf_startOn .., startOn_mem ..⟩
        · exact ⟨endsOf_placeWaiting .., placeWaiting_mem ..⟩
      obtain ⟨hends, hmem'⟩ := hgoes
      rw [endsOf, endsOf, hk] at hends
      obtain ⟨k', hk', hsame⟩ := Option.map_eq_some_iff.mp hends
      obtain ⟨hphase', hended'⟩ := Prod.mk.inj hsame
      have hget : ∀ m : Nat, (k'.tasks[m]?).map (fun y => y.ended) = (j.tasks[m]?).map (fun y => if m = i then true else y.ended) :=
        fun m => by
          have := congrArg (fun l : List Bool => l[m]?) hended'
          simp only [List.getElem?_map] at this
          rw [this, hended m]
      obtain ⟨-, y, hy, -⟩ := taskOn_spec hj
      exact ⟨k', hk', hphase'.trans hphase, hmem'.trans hmem, by rw [hget, hy, Option.map_some, if_pos rfl],
        fun m hm => by rw [hget]; simp only [if_neg hm]⟩
    · obtain ⟨u, k, hk, hphase, hdesc, hmem, hsig, htiles, hended, heq⟩ := endTask_ends hj htag (he.imp id fun h => h.1)
      have hall : ∀ z, z ∈ k.tasks → z.ended = true := fun z hz => by
        obtain ⟨m, hm⟩ := List.mem_iff_getElem?.mp hz
        have := hended m
        rw [hm] at this
        obtain ⟨y, hy, hyz⟩ := Option.map_eq_some_iff.mp this.symm
        refine hyz.symm.trans ?_
        split
        · rfl
        next hmi => exact hl m y hmi hy
      rw [if_pos (List.all_eq_true.mpr hall)] at heq
      obtain ⟨hjob, hmem'⟩ := lastTaskEnded_ending hk fun hlock => by
        rw [hdesc] at hlock
        rw [pairMismatch_congr htiles hsig]
        exact he.elim (fun h => absurd (h.symm.trans hlock) Bool.false_ne_true) fun h => h.2
      rw [heq]
      exact ⟨_, hjob, rfl, hmem'.trans hmem, hall⟩

end Sys2Proof.Machine
end

section
/-!
PROOF. DMA and FENCE on a tile's sequencer (R223, R386, R393, R395, R422).
-/

namespace Sys2Proof.Machine

open Claims

/-! ## What posting, fences and yielding tests leave -/

section
variable (s : State)

@[simp] theorem ite_channels (c : Prop) [Decidable c] (a b : State) :
    (if c then a else b).channels = if c then a.channels else b.channels :=
  apply_ite State.channels c a b

@[simp] theorem forEach_channels {α : Type} (l : List α) (f : α → State → State) (h : ∀ a s, (f a s).channels = s.channels) :
    (forEach l f s).channels = s.channels :=
  forEach_keeps State.channels f l (fun a _ s => h a s) s

@[simp] theorem emitFabric_channels (p : Nat) (f : OutFrame) : (emitFabric p f s).channels = s.channels := by
  simp [emitFabric]

@[simp] theorem sendPackets_channels (p peer qp : Nat) (op : RoceOp) (address : Nat) (data : Bytes) :
    (sendPackets p peer qp op address data s).channels = s.channels := by
  simp [sendPackets]

@[simp] theorem newReq_channels (m : Nat) (owner : RoceOwner) (op : RoceOp) (address : Nat) (data : Bytes) :
    (newReq m owner op address data s).channels = s.channels := by
  unfold newReq; simp only []; (repeat' split) <;> simp

@[simp] theorem fencePeer_channels (ch t : Nat) : (fencePeer ch t s).channels = s.channels := by simp [fencePeer]
@[simp] theorem clearTested_channels (t : Nat) : (clearTested t s).channels = s.channels := by simp [clearTested]

@[simp] theorem endTest_channels (t : Nat) (f : FieldTest) : (endTest t f s).channels = s.channels := by
  unfold endTest; split <;> simp

@[simp] theorem yieldPort_channels (k : Nat) : (yieldPort k s).channels = s.channels := by simp [yieldPort]

@[simp] theorem ite_clusters (c : Prop) [Decidable c] (a b : State) :
    (if c then a else b).clusters = if c then a.clusters else b.clusters :=
  apply_ite State.clusters c a b

@[simp] theorem forEach_clusters {α : Type} (l : List α) (f : α → State → State) (h : ∀ a s, (f a s).clusters = s.clusters) :
    (forEach l f s).clusters = s.clusters :=
  forEach_keeps State.clusters f l (fun a _ s => h a s) s

@[simp] theorem emitFabric_clusters (p : Nat) (f : OutFrame) : (emitFabric p f s).clusters = s.clusters := by
  simp [emitFabric]

@[simp] theorem sendPackets_clusters (p peer qp : Nat) (op : RoceOp) (address : Nat) (data : Bytes) :
    (sendPackets p peer qp op address data s).clusters = s.clusters := by
  simp [sendPackets]

@[simp] theorem newReq_clusters (m : Nat) (owner : RoceOwner) (op : RoceOp) (address : Nat) (data : Bytes) :
    (newReq m owner op address data s).clusters = s.clusters := by
  unfold newReq; simp only []; (repeat' split) <;> simp

@[simp] theorem fencePeer_clusters (ch t : Nat) : (fencePeer ch t s).clusters = s.clusters := by simp [fencePeer]
@[simp] theorem beginFence_clusters (ch t : Nat) : (beginFence ch t s).clusters = s.clusters := by simp [beginFence]
@[simp] theorem startNext_clusters (ch : Nat) : (startNext s ch).clusters = s.clusters := by unfold startNext; split <;> simp
@[simp] theorem postTo_clusters (ch : Nat) (p : Posted) : (postTo ch p s).clusters = s.clusters := by simp [postTo]
@[simp] theorem clearTested_clusters (t : Nat) : (clearTested t s).clusters = s.clusters := by simp [clearTested]

@[simp] theorem endTest_clusters (t : Nat) (f : FieldTest) : (endTest t f s).clusters = s.clusters := by
  unfold endTest; split <;> simp

@[simp] theorem yieldPort_clusters (k : Nat) : (yieldPort k s).clusters = s.clusters := by simp [yieldPort]

@[simp] theorem ite_tiles (c : Prop) [Decidable c] (a b : State) : (if c then a else b).tiles = if c then a.tiles else b.tiles :=
  apply_ite State.tiles c a b

@[simp] theorem forEach_tiles {α : Type} (l : List α) (f : α → State → State) (h : ∀ a s, (f a s).tiles = s.tiles) :
    (forEach l f s).tiles = s.tiles :=
  forEach_keeps State.tiles f l (fun a _ s => h a s) s

@[simp] theorem emitFabric_tiles (p : Nat) (f : OutFrame) : (emitFabric p f s).tiles = s.tiles := by simp [emitFabric]

@[simp] theorem sendPackets_tiles (p peer qp : Nat) (op : RoceOp) (address : Nat) (data : Bytes) :
    (sendPackets p peer qp op address data s).tiles = s.tiles := by
  simp [sendPackets]

@[simp] theorem newReq_tiles (m : Nat) (owner : RoceOwner) (op : RoceOp) (address : Nat) (data : Bytes) :
    (newReq m owner op address data s).tiles = s.tiles := by
  unfold newReq; simp only []; (repeat' split) <;> simp

@[simp] theorem fencePeer_tiles (ch t : Nat) : (fencePeer ch t s).tiles = s.tiles := by simp [fencePeer]
@[simp] theorem beginFence_tiles (ch t : Nat) : (beginFence ch t s).tiles = s.tiles := by simp [beginFence]
@[simp] theorem startNext_tiles (ch : Nat) : (startNext s ch).tiles = s.tiles := by unfold startNext; split <;> simp
@[simp] theorem postTo_tiles (ch : Nat) (p : Posted) : (postTo ch p s).tiles = s.tiles := by simp [postTo]
@[simp] theorem fenceTargets_tiles (ch : Nat) : (fenceTargets ch s).tiles = s.tiles := by simp [fenceTargets]

end

/-! ## Channels -/

section
variable (ch c : Nat) (s : State)

theorem chanOf_fencePeer (t : Nat) : chanOf (fencePeer ch t s) c = chanOf s c := by rw [chanOf, fencePeer_channels]; rfl

theorem chanOf_beginFence_other (t : Nat) (h : c ≠ ch) : chanOf (beginFence ch t s) c = chanOf s c := by
  rw [beginFence, chanOf_fencePeer, chanOf_chanmod, if_neg h]

/-- A read-back begun changes what is fenced, not what is posted. -/
theorem posted_beginFence (t : Nat) : (chanOf (beginFence ch t s) ch).posted = (chanOf s ch).posted := by
  rw [beginFence, chanOf_fencePeer, chanOf_chanmod_same]
  split <;> rfl

/-- A read-back begun is outstanding, beside those that were. -/
theorem fencing_beginFence (t : Nat) : t ∈ (chanOf (beginFence ch t s) ch).fencing ∧
    ∀ u, u ∈ (chanOf s ch).fencing → u ∈ (chanOf (beginFence ch t s) ch).fencing := by
  rw [beginFence, chanOf_fencePeer, chanOf_chanmod_same]
  split
  next h => exact ⟨h, fun _ hu => hu⟩
  next => exact ⟨List.mem_append_right _ List.mem_cons_self, fun _ hu => List.mem_append_left _ hu⟩

theorem chanOf_startNext_other (h : c ≠ ch) : chanOf (startNext s ch) c = chanOf s c := by
  unfold startNext
  split
  · rw [chanOf_chanmod, if_neg h]
  · dsimp only
    split
    · rw [chanOf_beginFence_other _ _ _ _ h, chanOf_chanmod, if_neg h]
    · rw [chanOf_chanmod, if_neg h]

theorem posted_startNext : (chanOf (startNext s ch) ch).posted = (chanOf s ch).posted := by
  unfold startNext
  split
  · rw [chanOf_chanmod_same]
  · dsimp only
    split
    · rw [posted_beginFence, chanOf_chanmod_same]
    · rw [chanOf_chanmod_same]

theorem chanOf_postTo_other (p : Posted) (h : c ≠ ch) : chanOf (postTo ch p s) c = chanOf s c := by
  unfold postTo
  dsimp only
  split
  · rw [chanOf_startNext_other _ _ _ h, chanOf_chanmod, if_neg h]
  · rw [chanOf_chanmod, if_neg h]

/-- A descriptor posted waits behind those of its channel (R386). -/
theorem posted_postTo (p : Posted) : (chanOf (postTo ch p s) ch).posted = (chanOf s ch).posted ++ [p] := by
  unfold postTo
  dsimp only
  split
  · rw [posted_startNext, chanOf_chanmod_same]
  · rw [chanOf_chanmod_same]

/-- Fencing a channel with a target, or with a read-back outstanding, leaves a read-back outstanding. -/
theorem fencing_fenceTargets (h : (chanOf s ch).targets ≠ [] ∨ (chanOf s ch).fencing ≠ []) :
    (chanOf (fenceTargets ch s) ch).fencing ≠ [] := by
  have hmono : ∀ (ts : List Nat) (u : State), (chanOf u ch).fencing ≠ [] → (chanOf (forEach ts (beginFence ch) u) ch).fencing ≠ [] :=
    fun ts u hu => forEach_rel (fun u v => (chanOf u ch).fencing ≠ [] → (chanOf v ch).fencing ≠ []) (fun _ h => h)
      (fun _ _ _ h k h' => k (h h')) (beginFence ch) ts (fun t _ u hu => by
        obtain ⟨x, hx⟩ := List.exists_mem_of_ne_nil _ hu
        exact List.ne_nil_of_mem ((fencing_beginFence ch u t).2 x hx)) u hu
  rw [fenceTargets, chanOf_chanmod_same]
  show (chanOf (forEach (chanOf s ch).targets (beginFence ch) s) ch).fencing ≠ []
  cases hts : (chanOf s ch).targets with
  | nil => exact hmono [] s (h.resolve_left (fun h => h hts))
  | cons t ts => exact hmono ts _ (List.ne_nil_of_mem (fencing_beginFence ch s t).1)

theorem pc_yieldPort (k t : Nat) : (tileOf (yieldPort k s) t).pc = (tileOf s t).pc := by
  refine forEach_keeps (fun s => (tileOf s t).pc) _ _ (fun e _ u => ?_) s
  have hclear : ∀ (x : Nat) (v : State), (tileOf (clearTested x v) t).pc = (tileOf v t).pc := fun x v => by
    rw [clearTested, tileOf_tmod]
    split
    next h => rw [h]
    next => rfl
  rw [tileOf_count, endTest]
  split
  · rw [hclear, hclear]
    rfl
  · rfl
end

/-! ## FENCE -/

/-- FENCE goes on where what its tile posted has run and nothing is left to read back; else the tile waits (R393). -/
theorem settleFences_tile {ch t : Nat} {s : State} (hch : ch < 512) (ht : t ∈ clusterTiles (ch / 8))
    (hw : (tileOf s t).wait = some (.fence (ch % 8))) :
    ((postedDone s ch t = true ∧ (chanOf s ch).targets = [] ∧ (chanOf s ch).fencing = []) →
      (tileOf (settleFences ch s) t).wait = none ∧ (tileOf (settleFences ch s) t).pc = (tileOf s t).pc + 1) ∧
    (¬(postedDone s ch t = true ∧ (chanOf s ch).targets = [] ∧ (chanOf s ch).fencing = []) →
      tileOf (settleFences ch s) t = tileOf s t) := by
  unfold settleFences
  extract_lets ready u
  rw [if_neg (by omega)]
  have hready : t ∈ ready ↔ postedDone s ch t = true := by
    rw [List.mem_filter, fenceWaiters, List.mem_filter, hw]
    simp [ht]
  have hnodup : ready.Nodup := ((clusterTiles_nodup _).filter _).filter _
  have hgoes := fun v => tileOf_forEach (fun tl => { foldFence (ch % 8) tl with wait := none, pc := tl.pc + 1 })
    (fun t s => count 0x741b 0x0a 1 (tmod t (fun tl => { foldFence (ch % 8) tl with wait := none, pc := tl.pc + 1 }) s))
    (fun x s b => by rw [tileOf_count, tileOf_tmod]) ready t v hnodup
  have htile : tileOf u t = tileOf s t := by
    unfold u
    split
    · rfl
    · rw [tileOf, fenceTargets_tiles]
      rfl
  constructor
  · rintro ⟨hdone, htargets, hfencing⟩
    have hu : u = s := if_pos htargets
    have hmem := hready.mpr hdone
    rw [if_neg (List.ne_nil_of_mem hmem), hu, if_pos hfencing, hgoes, if_pos hmem]
    exact ⟨rfl, rfl⟩
  · intro hnot
    split
    · rfl
    · split
      next hfencing =>
        have hmem : t ∉ ready := fun hmem => by
          have hdone := hready.mp hmem
          by_cases htargets : (chanOf s ch).targets = []
          · have hu : u = s := if_pos htargets
            exact hnot ⟨hdone, htargets, hu ▸ hfencing⟩
          · have hu : u = fenceTargets ch s := if_neg htargets
            exact fencing_fenceTargets ch s (.inl htargets) (hu ▸ hfencing)
        rw [hgoes, if_neg hmem, htile]
      next => exact htile

/-! ## The two instructions -/

theorem postDma_shadow {t : Nat} {f : TileFields} {s : State} (h : (shadowOf s t).isSome = true) :
    TileOnly t s (postDma t f s) := by
  unfold postDma
  dsimp only
  rw [if_pos h]
  exact tileOnly_pcNext_tmod (by split <;> rfl)

theorem fenceWait_shadow {t : Nat} {f : TileFields} {s : State} (h : (shadowOf s t).isSome = true) :
    TileOnly t s (fenceWait t f s) := by
  unfold fenceWait
  dsimp only
  rw [if_pos h]
  exact tileOnly_pcNext_tmod (by unfold foldFence; split <;> rfl)

/-- A descriptor that the rules allow, on a channel with room: posted, and the tile goes on (R386). -/
theorem postDma_posts {t : Nat} {f : TileFields} {s : State} (hs : ¬(shadowOf s t).isSome = true)
    (hok : siphonRules s (peek s (tileBase t + f.imm.toNat * 32) 32) = true)
    (hmapped : siphonMapped s ⟨(taskOn s t).map (fun p => p.1.tag), none⟩ (peek s (tileBase t + f.imm.toNat * 32) 32) = true)
    (hroom : (chanOf s (clusterChannel (clusterOfTile t) (fieldAt (peek s (tileBase t + f.imm.toNat * 32) 32) 20 1 % 8))).posted.length
      < 16) :
    ∃ g : Tile → Tile, (∀ x, (g x).pc = x.pc) ∧ postDma t f s = pcNext t (tmod t g (cmod (clusterOfTile t)
      (fun c => { c with rr := (t % 8 + 1) % 8 }) (postTo (clusterChannel (clusterOfTile t)
        (fieldAt (peek s (tileBase t + f.imm.toNat * 32) 32) 20 1 % 8))
        { desc := peek s (tileBase t + f.imm.toNat * 32) 32, tile := t, job := (taskOn s t).map (fun p => p.1.tag) }
        (yieldPort (clusterOfTile t) s)))) := by
  refine ⟨fun tl => if tl.paired then { tl with sigP := crcMore tl.sigP (peek s (tileBase t + f.imm.toNat * 32) 32) } else tl,
    fun x => ?_, ?_⟩
  · dsimp only
    split <;> rfl
  · unfold postDma
    dsimp only
    rw [if_neg hs, hok, hmapped, if_neg (by decide), if_neg (by decide), if_neg (by omega)]

/-- Settles O15: DMA by the branches of its post, FENCE by what its channel still waits for. -/
theorem sequencerDmaFence : Obligations.SequencerDmaFence := by
  intro s t f x k desc ch fc job ok mapped clear
  refine ⟨fun h hs => ⟨fun hok hmapped hroom => ⟨_, rfl, ?_⟩, fun hok hmapped hfull => ?_, fun tag htag hok => ?_,
    fun tag htag hok hmapped => ?_⟩, fun hs => ⟨fun h => ⟨_, rfl, ?_⟩, fun h => ⟨_, rfl, ?_⟩⟩, fun h hs => ?_⟩
  · obtain ⟨g, hg, hpost⟩ := postDma_posts (by rw [hs]; decide) hok hmapped hroom
    rw [sequence_runs _ _ _ _ _ h, hpost]
    have hyield : ∀ c, chanOf (yieldPort (clusterOfTile t.val) s) c = chanOf s c := fun c => by
      rw [chanOf, yieldPort_channels]
      rfl
    refine ⟨by simp, ?_, fun c hc => ?_, ?_, ?_⟩
    · rw [chanOf_pcNext, chanOf_tmod, chanOf_cmod, posted_postTo, hyield]
    · rw [chanOf_pcNext, chanOf_tmod, chanOf_cmod, chanOf_postTo_other _ _ _ _ hc, hyield]
    · rw [tileOf_pcNext_same, tileOf_tmod_same, hg, tileOf_cmod]
      show (tileOf (postTo _ _ _) t.val).pc + 1 = _
      rw [tileOf, postTo_tiles]
      exact congrArg (· + 1) (pc_yieldPort s _ _)
    · rw [clusterOf_pcNext, clusterOf_tmod, clusterOf_cmod_same, clusterOf, postTo_clusters, yieldPort_clusters]
      rfl
  · show Host.Outcome.next (sequence 0x41 t.val f (postDma t.val f) s) = _
    rw [sequence_runs _ _ _ _ _ h]
    unfold postDma
    dsimp only
    rw [hs, if_neg (by decide), show siphonRules s _ = true from hok, if_neg (by decide),
      show siphonMapped s _ _ = true from hmapped,
      if_neg (by decide), if_pos hfull]
  · show Host.Outcome.next (sequence 0x41 t.val f (postDma t.val f) s) = _
    rw [sequence_runs _ _ _ _ _ h]
    have hbad : siphonRules s (peek s (tileBase t.val + f.imm.toNat * 32) 32) = false := Bool.not_eq_true _ ▸ hok
    unfold postDma
    dsimp only
    rw [hs, if_neg (by decide), hbad, if_pos (by decide), show (taskOn s t.val).map (fun p => p.1.tag) = some tag from htag]
    rfl
  · show Host.Outcome.next (sequence 0x41 t.val f (postDma t.val f) s) = _
    rw [sequence_runs _ _ _ _ _ h]
    have hbad : siphonMapped s ⟨(taskOn s t.val).map (fun p => p.1.tag), none⟩ (peek s (tileBase t.val + f.imm.toNat * 32) 32) = false :=
      Bool.not_eq_true _ ▸ hmapped
    unfold postDma
    dsimp only
    rw [hs, if_neg (by decide), show siphonRules s _ = true from hok, if_neg (by decide), hbad, if_pos (by decide),
      show (taskOn s t.val).map (fun p => p.1.tag) = some tag from htag]
  · rw [sequence_runs _ _ _ _ _ h]
    exact postDma_shadow hs
  · rw [sequence_runs _ _ _ _ _ h]
    exact fenceWait_shadow hs
  · have hfc : fc / 8 = clusterOfTile t.val ∧ fc % 8 = f.imm.toNat % 8 ∧ fc < 512 := by
      have := t.isLt
      show (8 * (t.val / 8) + f.imm.toNat % 8) / 8 = t.val / 8 ∧ (8 * (t.val / 8) + f.imm.toNat % 8) % 8 = _ ∧ _ < 512
      show _ ∧ _ ∧ 8 * (t.val / 8) + f.imm.toNat % 8 < 512
      omega
    obtain ⟨hdiv, hmod, hlt⟩ := hfc
    have hrun : sequence 0x42 t.val f (fenceWait t.val f) s = settleFences fc
        (chargeCycles t.val 1 (tmod t.val (fun tl => { tl with wait := some (.fence (f.imm.toNat % 8)) }) s)) := by
      rw [sequence_runs _ _ _ _ _ h]
      unfold fenceWait
      dsimp only
      rw [hs, if_neg (by decide)]
    have htile : tileOf (chargeCycles t.val 1 (tmod t.val (fun tl => { tl with wait := some (.fence (f.imm.toNat % 8)) }) s)) t.val =
        { x with wait := some (.fence (f.imm.toNat % 8)) } := by
      rw [tileOf_chargeCycles, tileOf_tmod_same]
    have hchan : ∀ c, chanOf (chargeCycles t.val 1 (tmod t.val (fun tl => { tl with wait := some (.fence (f.imm.toNat % 8)) }) s)) c =
        chanOf s c := fun c => by rw [chanOf_chargeCycles, chanOf_tmod]
    obtain ⟨hgo, hstay⟩ := settleFences_tile (s := chargeCycles t.val 1 (tmod t.val
      (fun tl => { tl with wait := some (.fence (f.imm.toNat % 8)) }) s)) hlt (by rw [hdiv]; exact mem_clusterTiles_self t.val)
      (by rw [htile, hmod])
    rw [postedDone, hchan, htile] at hgo
    rw [postedDone, hchan, htile] at hstay
    refine ⟨fun hclear => ⟨_, rfl, ?_⟩, fun hclear => ⟨_, rfl, ?_⟩⟩ <;> rw [hrun]
    · obtain ⟨hwait, hpc⟩ := hgo hclear
      exact ⟨hwait, hpc, by simp⟩
    · rw [hstay hclear]
      exact ⟨rfl, rfl, by simp⟩

end Sys2Proof.Machine
end

section
/-!
PROOF. Illegal operations (R100, R102) and tiles that issue nothing (R263, R410, R433).
-/

namespace Sys2Proof.Machine

open Claims

theorem legal_false {c : Bool} (h : c = false) (r : Option TileOut) :
    legal c r = none := by rw [legal, h, if_neg Bool.false_ne_true]

/-! ## An operation with a field that its row does not name -/

section
variable {z : Bool} {t : Nat} {f : TileFields} {m : Memory} {x : Tile}

theorem opLdw_unnamed (h : fieldsNamed 0x01 f = false) : opLdw t f m x = none := legal_false (by rw [h]; rfl) _
theorem opVld_unnamed (h : fieldsNamed 0x10 f = false) : opVld t f m x = none := legal_false (by rw [h]; rfl) _
theorem opVst_unnamed (h : fieldsNamed 0x11 f = false) : opVst t f m x = none := legal_false (by rw [h]; rfl) _
theorem opVlda_unnamed (h : fieldsNamed 0x12 f = false) : opVlda f m x = none := legal_false h _
theorem opVsta_unnamed (h : fieldsNamed 0x13 f = false) : opVsta z f m x = none := legal_false (by rw [h]; rfl) _
theorem opVfma_unnamed (h : fieldsNamed 0x16 f = false) : opVfma f m x = none := legal_false h _
theorem opVsel_unnamed (h : fieldsNamed 0x1a f = false) : opVsel f m x = none := legal_false h _
theorem opVcvt_unnamed (h : fieldsNamed 0x1b f = false) : opVcvt f m x = none := legal_false h _
theorem opVmxq_unnamed (h : fieldsNamed 0x1d f = false) : opVmxq f m x = none := legal_false (by rw [h]; rfl) _
theorem opVred_unnamed (h : fieldsNamed 0x1e f = false) : opVred f m x = none := legal_false h _
theorem opRstep_unnamed (h : fieldsNamed 0x30 f = false) : opRstep z f m x = none := legal_false (by rw [h]; rfl) _
theorem opZcfg_unnamed (h : fieldsNamed 0x38 f = false) : opZcfg f m x = none := legal_false (by rw [h]; rfl) _
theorem opAgset_unnamed (h : fieldsNamed 0x40 f = false) : opAgset t f m x = none := legal_false (by rw [h]; rfl) _

theorem opAclr_unnamed (h : fieldsNamed 0x03 f = false) : opAclr f m x = none := by
  unfold opAclr
  split
  · rfl
  · exact legal_false h _

theorem opAld_unnamed (h : fieldsNamed 0x05 f = false) : opAld t f m x = none := by
  unfold opAld
  split
  · rfl
  · exact legal_false (by rw [h]; rfl) _

theorem opAst_unnamed (h : fieldsNamed 0x06 f = false) : opAst t f m x = none := by
  unfold opAst
  split
  · rfl
  · exact legal_false h _

theorem opMma_unnamed (h : fieldsNamed 0x02 f = false) : opMma z t f m x = none := by
  unfold opMma
  dsimp only
  split
  · rfl
  · exact legal_false (by rw [h]; rfl) _

theorem opDrain_unnamed (h : fieldsNamed 0x04 f = false) : opDrain z t f m x = none := by
  unfold opDrain
  split
  · rfl
  · dsimp only
    split <;> exact legal_false (by rw [h]; rfl) _

theorem opVrq_unnamed (h : fieldsNamed 0x1c f = false) : opVrq f m x = none := by
  unfold opVrq
  split
  · rfl
  · exact legal_false h _

theorem opLanes_unnamed {op : Nat} {g : BitVec 32 → BitVec 32 → BitVec 32} (h : fieldsNamed op f = false) :
    opLanes op f g m x = none := legal_false h _

theorem opVcmp_unnamed (h : fieldsNamed 0x19 f = false) : opVcmp f m x = none := by
  rw [opVcmp, opLanes_unnamed h, legal, ite_self]

theorem opFunc_unnamed {g : FuncOp} (h : fieldsNamed (0x20 + g.code) f = false) : opFunc g f m x = none := legal_false h _
end

/-! ## Every tile instruction -/

/-- What a command does to a tile: an operation that is illegal where its row does not name the fields, or an instruction of the sequencer. -/
def TileCommand (i : Instr) (t op : Nat) (f : TileFields) (s : State) : Prop :=
  (∃ g, exec i s = .next (issue t g s) ∧ (fieldsNamed op f = false → ∀ z m x, g z m x = none)) ∨
  ∃ go, exec i s = .next (sequence op t f go s)

/-- An instruction of the table is one or the other, by its opcode (R100). -/
theorem tileCommand_of_tileParts {i : Instr} {t : Fin 512} {op : BitVec 8} {f : TileFields} (s : State)
    (h : tileParts i = some (t, op, f)) : TileCommand i t.val op.toNat f s := by
  cases i
  case nop => cases h; exact .inr ⟨_, rfl⟩
  case ldw => cases h; exact .inl ⟨_, rfl, fun hf _ _ _ => opLdw_unnamed hf⟩
  case mma => cases h; exact .inl ⟨_, rfl, fun hf _ _ _ => opMma_unnamed hf⟩
  case aclr => cases h; exact .inl ⟨_, rfl, fun hf _ _ _ => opAclr_unnamed hf⟩
  case drain => cases h; exact .inl ⟨_, rfl, fun hf _ _ _ => opDrain_unnamed hf⟩
  case ald => cases h; exact .inl ⟨_, rfl, fun hf _ _ _ => opAld_unnamed hf⟩
  case ast => cases h; exact .inl ⟨_, rfl, fun hf _ _ _ => opAst_unnamed hf⟩
  case vld => cases h; exact .inl ⟨_, rfl, fun hf _ _ _ => opVld_unnamed hf⟩
  case vst => cases h; exact .inl ⟨_, rfl, fun hf _ _ _ => opVst_unnamed hf⟩
  case vlda => cases h; exact .inl ⟨_, rfl, fun hf _ _ _ => opVlda_unnamed hf⟩
  case vsta => cases h; exact .inl ⟨_, rfl, fun hf _ _ _ => opVsta_unnamed hf⟩
  case vadd => cases h; exact .inl ⟨_, rfl, fun hf _ _ _ => opLanes_unnamed hf⟩
  case vmul => cases h; exact .inl ⟨_, rfl, fun hf _ _ _ => opLanes_unnamed hf⟩
  case vfma => cases h; exact .inl ⟨_, rfl, fun hf _ _ _ => opVfma_unnamed hf⟩
  case vmax => cases h; exact .inl ⟨_, rfl, fun hf _ _ _ => opLanes_unnamed hf⟩
  case vmin => cases h; exact .inl ⟨_, rfl, fun hf _ _ _ => opLanes_unnamed hf⟩
  case vcmp => cases h; exact .inl ⟨_, rfl, fun hf _ _ _ => opVcmp_unnamed hf⟩
  case vsel => cases h; exact .inl ⟨_, rfl, fun hf _ _ _ => opVsel_unnamed hf⟩
  case vcvt => cases h; exact .inl ⟨_, rfl, fun hf _ _ _ => opVcvt_unnamed hf⟩
  case vrq => cases h; exact .inl ⟨_, rfl, fun hf _ _ _ => opVrq_unnamed hf⟩
  case vmxq => cases h; exact .inl ⟨_, rfl, fun hf _ _ _ => opVmxq_unnamed hf⟩
  case vred => cases h; exact .inl ⟨_, rfl, fun hf _ _ _ => opVred_unnamed hf⟩
  case vexp => cases h; exact .inl ⟨_, rfl, fun hf _ _ _ => opFunc_unnamed hf⟩
  case vlog => cases h; exact .inl ⟨_, rfl, fun hf _ _ _ => opFunc_unnamed hf⟩
  case vrcp => cases h; exact .inl ⟨_, rfl, fun hf _ _ _ => opFunc_unnamed hf⟩
  case vrsq => cases h; exact .inl ⟨_, rfl, fun hf _ _ _ => opFunc_unnamed hf⟩
  case vsig => cases h; exact .inl ⟨_, rfl, fun hf _ _ _ => opFunc_unnamed hf⟩
  case vtanh => cases h; exact .inl ⟨_, rfl, fun hf _ _ _ => opFunc_unnamed hf⟩
  case vsilu => cases h; exact .inl ⟨_, rfl, fun hf _ _ _ => opFunc_unnamed hf⟩
  case vgelu => cases h; exact .inl ⟨_, rfl, fun hf _ _ _ => opFunc_unnamed hf⟩
  case vsplus => cases h; exact .inl ⟨_, rfl, fun hf _ _ _ => opFunc_unnamed hf⟩
  case rstep => cases h; exact .inl ⟨_, rfl, fun hf _ _ _ => opRstep_unnamed hf⟩
  case zcfg => cases h; exact .inl ⟨_, rfl, fun hf _ _ _ => opZcfg_unnamed hf⟩
  case agset => cases h; exact .inl ⟨_, rfl, fun hf _ _ _ => opAgset_unnamed hf⟩
  case dma => cases h; exact .inr ⟨_, rfl⟩
  case fence => cases h; exact .inr ⟨_, rfl⟩
  case bar => cases h; exact .inr ⟨_, rfl⟩
  case evwait => cases h; exact .inr ⟨_, rfl⟩
  case evsig => cases h; exact .inr ⟨_, rfl⟩
  case loop => cases h; exact .inr ⟨_, rfl⟩
  case endl => cases h; exact .inr ⟨_, rfl⟩
  case end_ => cases h; exact .inr ⟨_, rfl⟩
  all_goals cases h

theorem illegalOp_eq {s : State} {t m : Nat} {j : Job} (h : taskOn s t = some (j, m)) :
    illegalOp t s = programFault j.tag (count 0x7420 1 1 s) := by
  rw [illegalOp]
  rw [show taskOn (count 0x7420 1 1 s) t = some (j, m) from h]

/-- Settles O16: an instruction is an operation or the sequencer's, and each finds the field before it does anything. -/
theorem illegalOperation : Obligations.IllegalOperation := by
  intro s t
  refine ⟨fun i op f hi => ⟨fun hstop => ?_, fun j m hmay hj hf => ?_⟩, fun w => ⟨fun i hi => ?_, fun hw => ⟨fun hstop => ?_,
    fun j m hmay hj => ?_⟩⟩⟩
  · rcases tileCommand_of_tileParts s hi with ⟨g, hg, -⟩ | ⟨go, hgo⟩
    · rw [hg, issue_stopped _ _ _ hstop]
    · rw [hgo, sequence_stopped _ _ _ _ _ hstop]
  · rw [← illegalOp_eq hj]
    rcases tileCommand_of_tileParts s hi with ⟨g, hg, hnone⟩ | ⟨go, hgo⟩
    · rw [hg, issue_illegal _ _ _ hmay (hnone hf _ _ _)]
    · rw [hgo, sequence_illegal _ _ _ _ _ hmay hf]
  · rw [issueWord, hi]
  · rw [issueWord, hw]
    dsimp only
    rw [undefinedOp, hstop, if_neg Bool.false_ne_true]
  · rw [issueWord, hw]
    dsimp only
    rw [undefinedOp, hmay, if_pos rfl, illegalOp_eq hj]

end Sys2Proof.Machine
end

section
/-!
PROOF. Sessions (R462-R469): what a frame handed to a T1 port leaves alone, what a counter reads after another is increased, and
the frames OPEN, CLOSE, KEEPALIVE and NOTIFY_ACK.
-/

namespace Sys2Proof.Machine

open Claims

section

variable (s : State)

/-! ## Counters -/

theorem counter_count (i j n a b : Nat) :
    counter (count i j n s) a b = if objKey a b = objKey i j then counter s i j + BitVec.ofNat 64 n else counter s a b :=
  tblGet_set ..

theorem counter_count_same (i j : Nat) :
    counter (count i j 1 s) i j = counter s i j + 1 := (counter_count s i j 1 i j).trans (if_pos rfl)

theorem counter_count_other (i j n a b : Nat) (h : objKey a b ≠ objKey i j) : counter (count i j n s) a b = counter s a b :=
  (counter_count s i j n a b).trans (if_neg h)

theorem counter_eq_of_counters {u v : State} (h : u.counters = v.counters) (a b : Nat) : counter u a b = counter v a b := by
  rw [counter, h, counter]

@[simp] theorem counter_smod (k i j : Nat) (g : Session → Session) : counter (smod k g s) i j = counter s i j := rfl

theorem countersBut_of_counters {u v : State} (l : List Nat) (h : v.counters = u.counters) : CountersBut l u v := fun _ _ => by
  rw [h]

theorem CountersBut_trans {u v w : State} {l : List Nat} (h : CountersBut l u v) (k : CountersBut l v w) : CountersBut l u w :=
  fun i hi => (k i hi).trans (h i hi)

theorem countersBut_count (i j n : Nat) (l : List Nat) (h : objKey i j ∈ l) : CountersBut l s (count i j n s) := fun a ha =>
  (tblGet_set ..).trans (if_neg (ne_of_mem_of_not_mem h ha).symm)

/-! ## A frame handed to a T1 port -/

variable (x : Fin 4) (p f : Bytes)

@[simp] theorem ixSend_counters : (ixSend x p f s).counters = s.counters := by rw [ixSend_eq]
@[simp] theorem ixSend_sessions : (ixSend x p f s).sessions = s.sessions := by rw [ixSend_eq]
@[simp] theorem ixSend_boot : (ixSend x p f s).boot = s.boot := by rw [ixSend_eq]
@[simp] theorem ixSend_power : (ixSend x p f s).power = s.power := by rw [ixSend_eq]
@[simp] theorem ixSend_clock : (ixSend x p f s).clock = s.clock := by rw [ixSend_eq]
@[simp] theorem ixSend_dict : (ixSend x p f s).dict = s.dict := by rw [ixSend_eq]
@[simp] theorem ixSend_queues : (ixSend x p f s).queues = s.queues := by rw [ixSend_eq]
@[simp] theorem ixSend_island : (ixSend x p f s).island = s.island := by rw [ixSend_eq]
@[simp] theorem ixSend_events : (ixSend x p f s).events = s.events := by rw [ixSend_eq]
@[simp] theorem sess_ixSend (k : Nat) : sess (ixSend x p f s) k = sess s k := by simp [sess]
@[simp] theorem now_ixSend : now (ixSend x p f s) = now s := by simp [now]

@[simp] theorem counter_ixSend (a b : Nat) : counter (ixSend x p f s) a b = counter s a b :=
  counter_eq_of_counters (ixSend_counters s x p f) a b

/-- It may join the frames that wait for its port; nothing else of a port changes (R379). -/
theorem t1Of_ixSend (y : Nat) :
    t1Of (ixSend x p f s) y = { t1Of s y with waiting := (t1Of (ixSend x p f s) y).waiting } := by
  have hflush : ∀ w, t1Of (flushT1 x.val w s) y = { t1Of s y with waiting := (t1Of (flushT1 x.val w s) y).waiting } := fun w => by
    unfold t1Of flushT1
    simp only [tblGet_mod]
    split
    next h => rw [h]
    next => rfl
  have hsend : ∀ g, t1Of (sendT1 x.val g s) y = { t1Of s y with waiting := (t1Of (sendT1 x.val g s) y).waiting } := fun g => by
    unfold sendT1
    split
    · rfl
    · exact hflush _
  exact hsend _

/-- What it does depends on frames, ports, clock and configuration only. -/
theorem sent_ixSend {u v : State} (h1 : u.out = v.out) (h2 : u.t1 = v.t1) (h3 : u.clock = v.clock) (h4 : u.dict = v.dict) :
    Sent x p f v (ixSend x p f u) := ixSend_congr x p f u v h1 h2 h3 h4

/-- A step of the counters only, then one of the frames only. -/
theorem books_trans {s u t : State} (hu : u = { s with counters := u.counters }) (ht : t = { u with out := t.out, t1 := t.t1 }) :
    t = { s with counters := t.counters, out := t.out, t1 := t.t1 } := by
  rw [ht, hu]

theorem sent_count {x : Fin 4} {p f : Bytes} {u v : State} (h : Sent x p f u v) (i j n : Nat) : Sent x p f u (count i j n v) := h

theorem sent_of_eq {x : Fin 4} {p f : Bytes} {u v w : State} (h : Sent x p f u v) (ho : w.out = v.out) (ht : w.t1 = v.t1) :
    Sent x p f u w := ⟨ho.trans h.1, ht.trans h.2⟩

end

/-! ## Steps of the host's side -/

theorem hostOnly_trans {s t u : State} (h : HostOnly s t) (k : HostOnly t u) : HostOnly s u := by
  obtain ⟨ht, hw⟩ := h
  obtain ⟨hu, hv⟩ := k
  refine ⟨?_, fun x => ?_⟩
  · rw [hu, ht]
  · rw [hv x, hw x]

theorem hostOnly_count (i j n : Nat) (s : State) : HostOnly s (count i j n s) := ⟨rfl, fun _ => rfl⟩
theorem hostOnly_smod (k : Nat) (f : Session → Session) (s : State) : HostOnly s (smod k f s) := ⟨rfl, fun _ => rfl⟩

theorem hostOnly_heardFrom (k : Nat) (s : State) : HostOnly s (heardFrom k s) := by
  rw [heardFrom_eq]; exact ⟨rfl, fun _ => rfl⟩

theorem hostOnly_ixSend (x : Fin 4) (p f : Bytes) (s : State) : HostOnly s (ixSend x p f s) :=
  ⟨by rw [ixSend_eq], t1Of_ixSend s x p f⟩

theorem othersQuiet_trans {k : Nat} {s t u : State} (h : OthersQuiet k s t) (g : OthersQuiet k t u) : OthersQuiet k s u :=
  fun j hj => (g j hj).trans (h j hj)

theorem othersQuiet_of_sessions {k : Nat} {s t : State} (h : t.sessions = s.sessions) : OthersQuiet k s t :=
  fun _ _ => by rw [sess, h, sess]

theorem othersQuiet_smod (k : Nat) (f : Session → Session) (s : State) : OthersQuiet k s (smod k f s) :=
  fun j hj => by rw [sess_smod, if_neg hj]

theorem othersQuiet_heardFrom (k : Nat) (s : State) : OthersQuiet k s (heardFrom k s) :=
  fun j hj => by rw [sess_heardFrom, if_neg hj]

section

variable (s : State)

@[simp] theorem heardFrom_counters (k : Nat) : (heardFrom k s).counters = s.counters := by rw [heardFrom_eq]; rfl
@[simp] theorem heardFrom_out (k : Nat) : (heardFrom k s).out = s.out := by rw [heardFrom_eq]; rfl
@[simp] theorem heardFrom_t1 (k : Nat) : (heardFrom k s).t1 = s.t1 := by rw [heardFrom_eq]; rfl
@[simp] theorem heardFrom_clock (k : Nat) : (heardFrom k s).clock = s.clock := by rw [heardFrom_eq]; rfl
@[simp] theorem heardFrom_dict (k : Nat) : (heardFrom k s).dict = s.dict := by rw [heardFrom_eq]; rfl
@[simp] theorem heardFrom_boot (k : Nat) : (heardFrom k s).boot = s.boot := by rw [heardFrom_eq]; rfl
@[simp] theorem heardFrom_power (k : Nat) : (heardFrom k s).power = s.power := by rw [heardFrom_eq]; rfl
@[simp] theorem stamp_heardFrom (k : Nat) : stamp (heardFrom k s) = stamp s := by rw [heardFrom_eq]; rfl
@[simp] theorem now_heardFrom (k : Nat) : now (heardFrom k s) = now s := by rw [heardFrom_eq]; rfl
@[simp] theorem cfg_heardFrom (k i j : Nat) : cfg (heardFrom k s) i j = cfg s i j := by rw [heardFrom_eq]; rfl

@[simp] theorem counter_heardFrom (k a b : Nat) : counter (heardFrom k s) a b = counter s a b :=
  counter_eq_of_counters (heardFrom_counters s k) a b

/-! ## The frame of a row -/

theorem length_ge_of_frameOk {f : Bytes} (h : frameOk f = true) : 16 ≤ f.length := by
  simp only [frameOk, Bool.and_eq_true, decide_eq_true_eq] at h
  omega

/-- The row's TYPE stands in byte 1 of its frame (R463). -/
theorem fieldAt_splice_type (frame : Bytes) (ty : BitVec 8) (h : frameOk (splice frame 1 [ty]) = true) :
    fieldAt (splice frame 1 [ty]) 1 1 = ty.toNat := by
  have hl := length_ge_of_frameOk h
  match frame with
  | [] => simp [splice] at hl
  | _ :: _ => simp [splice, fieldAt, bytesAt, leNat]

/-- A well-formed frame of another TYPE than OPEN, taken on a port that is up, acts in the session that it names (R464, R465). -/
theorem frameOfType_session (x : Fin 4) (src : Option Bytes) (ty : BitVec 8) (frame : Bytes) (k : Nat)
    (hup : t1Up s x.val = true) (hclean : spoilt (0x30 + x.val) s = false) (hok : frameOk (splice frame 1 [ty]) = true)
    (hname : namedSession s x.val (splice frame 1 [ty]) = some k) (hty : ty.toNat ≠ 1) :
    frameOfType x src ty frame s =
      .next (sessionFrame k ty.toNat (src.getD (sess s k).peer) (splice frame 1 [ty]) (count 0x741e 1 1 s)) := by
  have htype := fieldAt_splice_type frame ty hok
  have hnamed : namedSession (count 0x741e 1 1 s) x.val (splice frame 1 [ty]) = some k := hname
  unfold frameOfType ixideFrame
  simp [hup, hclean, hok, htype, hty, hnamed]

/-- A well-formed OPEN frame asks for a session (R465). -/
theorem exec_sessionOpen (x : Fin 4) (peer frame : Bytes) (hup : t1Up s x.val = true) (hclean : spoilt (0x30 + x.val) s = false)
    (hok : frameOk (splice frame 1 [1]) = true) :
    exec (.sessionOpen x peer frame) s =
      .next (openSession x peer (BitVec.ofNat 8 (fieldAt (splice frame 1 [1]) 16 1)) (count 0x741e 1 1 s)) := by
  have htype : fieldAt (splice frame 1 [1]) 1 1 = 1 := fieldAt_splice_type frame 1 hok
  show frameOfType x (some peer) 1 frame s = _
  unfold frameOfType ixideFrame
  simp only [hup, hclean, hok, htype, Bool.not_true, Bool.false_eq_true, if_false, if_true, Option.getD_some]

end

/-! ## OPEN -/

section

variable (s : State) (x : Fin 4) (peer : Bytes) (c : BitVec 8)

/-- The body of an OPEN_REPLY (R465). -/
def openBody (code : BitVec 32) (id rights interval : Nat) : Bytes :=
  leBytes 4 code.toNat ++ leBytes 2 id ++ leBytes 2 rights ++ leBytes 2 interval ++ zeros 6

theorem openReply_granted (id rights : Nat) : openReply x peer 0 id rights s =
    ixSend x peer (ixHeader 2 id 0 (stamp s) 16 ++ openBody 0 id rights (cfg s 0x1100 2)) s := by
  simp [openReply, openBody]

theorem openReply_refused (code : BitVec 32) (h : code ≠ 0) : openReply x peer code 0 0 s =
    ixSend x peer (ixHeader 2 0 0 (stamp s) 16 ++ openBody code 0 0 (cfg s 0x1100 2)) (count 0x741e 4 1 s) := by
  simp only [openReply, openBody, if_neg h]

/-- The state with slot `k` opened for the client, before its OPEN_REPLY. -/
def opened (k : Nat) : State :=
  count 0x741e 9 1 (heardFrom k (smod k (fun e =>
    { gen := e.gen, open_ := true, client := c, port := x, peer := peer, source := peer, heard := now s }) s))

/-- Without a wake note to deliver, a free slot is opened for an admitted client and the reply leaves (R465). -/
theorem openSession_granted (k : Nat) (hslot : freeSlot s = some k) (hadm : admitted s x.val c.toNat = true)
    (hwake : s.power.wakeNote = none) :
    openSession x peer c s = openReply x peer 0 (sessionId s k) (rightsOf s x.val c.toNat) (opened s x peer c k) := by
  have hrights : sessionRights (smod k (fun e =>
      { gen := e.gen, open_ := true, client := c, port := x, peer := peer, source := peer, heard := now s }) s) k =
      rightsOf s x.val c.toNat := by
    simp [sessionRights, clientOf, rightsOf]
  have hid : sessionId (smod k (fun e =>
      { gen := e.gen, open_ := true, client := c, port := x, peer := peer, source := peer, heard := now s }) s) k =
      sessionId s k := by simp [sessionId]
  have hnone : ∀ u : State, u.power = s.power → u.power.wakeNote = none := fun u hu => by rw [hu, hwake]
  unfold openSession
  simp only [hslot, hadm, Bool.not_true, Bool.false_eq_true, if_false]
  rw [hnone _ (by rw [openReply_granted]; simp)]
  simp only [opened, hid, hrights]

/-- A refusal leaves as an OPEN_REPLY with its abort code, counted (R465). -/
theorem openReply_refused_answered (code : BitVec 32) (h : code ≠ 0) :
    let t := openReply x peer code 0 0 (count 0x741e 1 1 s)
    t = { s with counters := t.counters, out := t.out, t1 := t.t1 } ∧
      Sent x peer (ixHeader 2 0 0 (stamp s) 16 ++ openBody code 0 0 (cfg s 0x1100 2)) s t ∧
      counter t 0x741e 4 = counter s 0x741e 4 + 1 := by
  have heq : openReply x peer code 0 0 (count 0x741e 1 1 s) =
      ixSend x peer (ixHeader 2 0 0 (stamp s) 16 ++ openBody code 0 0 (cfg s 0x1100 2)) (count 0x741e 4 1 (count 0x741e 1 1 s)) := by
    rw [openReply_refused _ x peer code h, stamp_count, cfg_count]
  rw [heq]
  generalize ixHeader 2 0 0 (stamp s) 16 ++ openBody code 0 0 (cfg s 0x1100 2) = frame
  refine ⟨?_, sent_ixSend x peer frame rfl rfl rfl rfl, ?_⟩
  · exact books_trans rfl (ixSend_eq _ x peer frame)
  · rw [counter_ixSend, counter_count_same, counter_count_other _ _ _ _ _ _ (by decide)]

theorem openSession_notAdmitted (k : Nat) (hslot : freeSlot s = some k) (hadm : admitted s x.val c.toNat = false) :
    openSession x peer c s = openReply x peer abRights 0 0 s := by
  unfold openSession; simp [hslot, hadm]

theorem openSession_full (hslot : freeSlot s = none) : openSession x peer c s = openReply x peer abNoSession 0 0 s := by
  unfold openSession; simp [hslot]

theorem sess_opened (k j : Nat) : sess (opened s x peer c k) j = if j = k then
    { gen := (sess s k).gen, open_ := true, client := c, port := x, peer := peer, source := peer, heard := now s }
    else sess s j := by
  by_cases h : j = k <;> simp [opened, sess_heardFrom, sess_smod, h]

theorem hostOnly_opened (k : Nat) : HostOnly s (opened s x peer c k) :=
  hostOnly_trans (hostOnly_smod k _ s) (hostOnly_trans (hostOnly_heardFrom k _) (hostOnly_count ..))

end

/-- Settles O17: an OPEN runs `openSession` on the state with its frame counted, which opens the slot and replies, or replies
with the abort code. -/
theorem sessionOpens : Obligations.SessionOpens := by
  intro s x peer frame f c Answered Refused hup hclean hok
  have hexec := exec_sessionOpen s x peer frame hup hclean hok
  have hrefused : ∀ code : BitVec 32, code ≠ 0 →
      openSession x peer c (count 0x741e 1 1 s) = openReply x peer code 0 0 (count 0x741e 1 1 s) → Refused code := by
    intro code hcode h
    rw [h] at hexec
    exact ⟨_, hexec, openReply_refused_answered s x peer code hcode⟩
  refine ⟨fun k hslot hadm hwake => ?_, fun k hslot hadm => ?_, fun hslot => ?_⟩
  · refine ⟨_, hexec, ?_⟩
    rw [openSession_granted (count 0x741e 1 1 s) x peer c k hslot hadm hwake, openReply_granted]
    have hbooks : (opened (count 0x741e 1 1 s) x peer c k).counters = (count 0x741e 9 1 (count 0x741e 1 1 s)).counters := by
      simp [opened, count, counter]
    refine ⟨?_, ?_, ?_, ?_, ?_, ?_⟩
    · exact hostOnly_trans (hostOnly_count 0x741e 1 1 s) (hostOnly_trans (hostOnly_opened _ x peer c k) (hostOnly_ixSend ..))
    · intro j hj
      rw [sess_ixSend, sess_opened, if_neg hj, sess_count]
    · rw [sess_ixSend, sess_opened, if_pos rfl]
      rfl
    · have hframe : stamp (opened (count 0x741e 1 1 s) x peer c k) = stamp s ∧
          cfg (opened (count 0x741e 1 1 s) x peer c k) 0x1100 2 = cfg s 0x1100 2 := by simp [opened]
      rw [hframe.1, hframe.2]
      exact sent_ixSend x peer _ (by simp [opened]) (by simp [opened]) (by simp [opened]) (by simp [opened])
    · rw [counter_ixSend, counter_eq_of_counters hbooks, counter_count_same, counter_count_other _ _ _ _ _ _ (by decide)]
    · refine CountersBut_trans (countersBut_count s 0x741e 1 1 _ (by decide)) (CountersBut_trans
        (countersBut_count _ 0x741e 9 1 _ (by decide)) (countersBut_of_counters _ ?_))
      rw [ixSend_counters, hbooks]
  · exact hrefused abRights (by decide) (openSession_notAdmitted _ x peer c k hslot hadm)
  · exact hrefused abNoSession (by decide) (openSession_full _ x peer c hslot)

end Sys2Proof.Machine
end

section
/-!
PROOF. Frames of an open session (R464-R469): CLOSE, KEEPALIVE and NOTIFY_ACK end its silence, a silent session closes, and the SEQ
of a REQUEST decides whether it executes.
-/

namespace Sys2Proof.Machine

open Claims

section

variable (s : State)

/-- A frame names an open session only (R464). -/
theorem open_of_namedSession {x k : Nat} {f : Bytes} (h : namedSession s x f = some k) : (sess s k).open_ = true := by
  unfold namedSession at h
  simp only at h
  split at h
  next hcond =>
    cases h
    exact hcond.2.1
  next => cases h

/-- The generation is what a frame says of its session's slot (R465). -/
theorem ixFrame_congr {u v : State} (k ty : Nat) (seq st : BitVec 32) (b : Bytes) (h : (sess u k).gen = (sess v k).gen) :
    ixFrame u k ty seq st b = ixFrame v k ty seq st b := by
  simp only [ixFrame, sessionId, h]

/-! ## A session closes (R469) -/

@[simp] theorem dropUpdate_sessions (k : Nat) : (dropUpdate k s).sessions = s.sessions := by unfold dropUpdate; split <;> rfl
@[simp] theorem sess_dropUpdate (k j : Nat) : sess (dropUpdate k s) j = sess s j := by simp [sess]

theorem dropUpdate_eq (k : Nat) : dropUpdate k s = { s with boot := (dropUpdate k s).boot } := by unfold dropUpdate; split <;> rfl

theorem dropUpdate_boot (k : Nat) : (dropUpdate k s).boot =
    if s.boot.update.owner = some (k, (sess s k).gen) then { s.boot with update := {} } else s.boot := by
  unfold dropUpdate; split <;> rfl

theorem closeSession_open (k : Nat) (h : (sess s k).open_ = true) :
    closeSession k s = smod k (fun e => { gen := e.gen + 1 }) (dropUpdate k s) := if_pos h

theorem sess_closeSession (k : Nat) (h : (sess s k).open_ = true) :
    sess (closeSession k s) k = { gen := (sess s k).gen + 1 } := by
  rw [closeSession_open s k h, sess_smod, if_pos rfl, sess_dropUpdate]

theorem othersQuiet_closeSession (k : Nat) (h : (sess s k).open_ = true) : OthersQuiet k s (closeSession k s) := by
  rw [closeSession_open s k h]
  exact othersQuiet_trans (othersQuiet_of_sessions (dropUpdate_sessions s k)) (othersQuiet_smod _ _ _)

theorem closeSession_eq (k : Nat) (h : (sess s k).open_ = true) :
    closeSession k s = { s with sessions := (closeSession k s).sessions, boot := (dropUpdate k s).boot } := by
  rw [closeSession_open s k h]
  conv_lhs => rw [dropUpdate_eq]
  rw [dropUpdate_eq]
  rfl

/-! ## The state in which a frame of a session acts -/

/-- The frame is counted and heard (R468, R469). -/
def frameHeard (k : Nat) : State := heardFrom k (count 0x741e 1 1 s)

theorem hostOnly_frameHeard (k : Nat) : HostOnly s (frameHeard s k) :=
  hostOnly_trans (hostOnly_count ..) (hostOnly_heardFrom ..)

theorem sess_frameHeard (k : Nat) : sess (frameHeard s k) k = { sess s k with heard := now s } := by
  simp [frameHeard, sess_heardFrom]

theorem othersQuiet_frameHeard (k : Nat) : OthersQuiet k s (frameHeard s k) := fun j hj => by
  simp [frameHeard, sess_heardFrom, hj]

@[simp] theorem frameHeard_out (k : Nat) : (frameHeard s k).out = s.out := by simp [frameHeard]
@[simp] theorem frameHeard_t1 (k : Nat) : (frameHeard s k).t1 = s.t1 := by simp [frameHeard]
@[simp] theorem frameHeard_clock (k : Nat) : (frameHeard s k).clock = s.clock := by simp [frameHeard]
@[simp] theorem frameHeard_dict (k : Nat) : (frameHeard s k).dict = s.dict := by simp [frameHeard]
@[simp] theorem frameHeard_boot (k : Nat) : (frameHeard s k).boot = s.boot := by simp [frameHeard]
@[simp] theorem stamp_frameHeard (k : Nat) : stamp (frameHeard s k) = stamp s := by simp [frameHeard]
@[simp] theorem now_frameHeard (k : Nat) : now (frameHeard s k) = now s := by simp [frameHeard]

/-- A frame sent in it is the frame sent before. -/
theorem sent_frameHeard (k : Nat) (x : Fin 4) (p f : Bytes) : Sent x p f s (ixSend x p f (frameHeard s k)) :=
  sent_ixSend x p f (frameHeard_out s k) (frameHeard_t1 s k) (frameHeard_clock s k) (frameHeard_dict s k)

/-- A bare frame goes to the session's port under its identifier. -/
theorem bareFrame_frameHeard (k ty : Nat) (p : Bytes) : bareFrame k ty p (frameHeard s k) =
    ixSend (sess s k).port p (ixFrame s k ty 0 (stamp s) []) (frameHeard s k) := by
  have hframe := ixFrame_congr (u := frameHeard s k) (v := s) k ty 0 (stamp s) [] (by rw [sess_frameHeard])
  unfold bareFrame
  rw [stamp_frameHeard, hframe, sess_frameHeard]

/-! ## The frames of O18 -/

/-- CLOSE (R469). -/
theorem close_answered (k : Nat) (p : Bytes) (hopen : (sess s k).open_ = true) :
    ∃ t, closeSession k (bareFrame k 3 p (frameHeard s k)) = t ∧ HostOnly { s with boot := t.boot } t ∧ OthersQuiet k s t ∧
      sess t k = { gen := (sess s k).gen + 1 } ∧ Sent (sess s k).port p (ixFrame s k 3 0 (stamp s) []) s t ∧
      t.boot = (if s.boot.update.owner = some (k, (sess s k).gen) then { s.boot with update := {} } else s.boot) := by
  rw [bareFrame_frameHeard]
  have hsend := hostOnly_trans (hostOnly_frameHeard s k) (hostOnly_ixSend (sess s k).port p (ixFrame s k 3 0 (stamp s) []) _)
  have hsent := sent_frameHeard s k (sess s k).port p (ixFrame s k 3 0 (stamp s) [])
  have hquiet : OthersQuiet k s (ixSend (sess s k).port p (ixFrame s k 3 0 (stamp s) []) (frameHeard s k)) :=
    othersQuiet_trans (othersQuiet_frameHeard s k) (othersQuiet_of_sessions (ixSend_sessions ..))
  have hsess : sess (ixSend (sess s k).port p (ixFrame s k 3 0 (stamp s) []) (frameHeard s k)) k =
      { sess s k with heard := now s } := by rw [sess_ixSend, sess_frameHeard]
  have hboot : (ixSend (sess s k).port p (ixFrame s k 3 0 (stamp s) []) (frameHeard s k)).boot = s.boot := by simp
  generalize ixSend (sess s k).port p (ixFrame s k 3 0 (stamp s) []) (frameHeard s k) = v at hsend hsent hquiet hsess hboot ⊢
  have hv : (sess v k).open_ = true := by rw [hsess]; exact hopen
  have heq := closeSession_eq v k hv
  refine ⟨_, rfl, ⟨?_, fun x => ?_⟩, othersQuiet_trans hquiet (othersQuiet_closeSession v k hv), ?_, ?_, ?_⟩
  · rw [heq, hsend.1]
  · rw [heq]; exact hsend.2 x
  · rw [sess_closeSession v k hv, hsess]
  · rw [heq]; exact hsent
  · rw [heq]
    show (dropUpdate k v).boot = _
    rw [dropUpdate_boot, hboot, hsess]

/-- KEEPALIVE (R469). -/
theorem keepalive_answered (k : Nat) (p : Bytes) :
    ∃ t, bareFrame k 8 p (frameHeard s k) = t ∧ HostOnly s t ∧ OthersQuiet k s t ∧
      sess t k = { sess s k with heard := now s } ∧ Sent (sess s k).port p (ixFrame s k 8 0 (stamp s) []) s t := by
  refine ⟨_, bareFrame_frameHeard s k 8 p, ?_, ?_, ?_, sent_frameHeard ..⟩
  · exact hostOnly_trans (hostOnly_frameHeard s k) (hostOnly_ixSend ..)
  · exact othersQuiet_trans (othersQuiet_frameHeard s k) (othersQuiet_of_sessions (ixSend_sessions ..))
  · rw [sess_ixSend, sess_frameHeard]

/-- NOTIFY_ACK (R478). -/
theorem ack_taken (k : Nat) (seq : BitVec 32) :
    ∃ t, ackFrame k seq (frameHeard s k) = t ∧ HostOnly s t ∧ OthersQuiet k s t ∧ t.out = s.out ∧ t.t1 = s.t1 ∧
      sess t k = { sess s k with heard := now s, unacked := (sess s k).unacked.filter (fun u => u.seq ≠ seq) } := by
  refine ⟨_, rfl, ?_, ?_, frameHeard_out s k, frameHeard_t1 s k, ?_⟩
  · exact hostOnly_trans (hostOnly_frameHeard s k) (hostOnly_smod ..)
  · exact othersQuiet_trans (othersQuiet_frameHeard s k) (othersQuiet_smod _ _ _)
  · rw [ackFrame, sess_smod, if_pos rfl, sess_frameHeard]

/-- A silent session closes at the end of its third interval (R469). -/
theorem timeout_closes (k : Fin 64) (hopen : (sess s k.val).open_ = true) :
    ∃ t, exec (.sessionTimeout k) s = .next t ∧ sess t k.val = { gen := (sess s k.val).gen + 1 } ∧ OthersQuiet k.val s t ∧
      t = { s with sessions := t.sessions, counters := t.counters, boot := t.boot, clock := t.clock } ∧
      counter t 0x741e 0x0a = counter s 0x741e 0x0a + 1 ∧ CountersBut [0x741e0a] s t := by
  have hexec : exec (.sessionTimeout k) s = .next (count 0x741e 0x0a 1
      (closeSession k.val (clockTo ((sess s k.val).heard + 3000000 * cfg s 0x1100 2) s))) := by
    show execSessionTimeout k s = _
    unfold execSessionTimeout
    rw [if_pos hopen]
  have hclock := clockTo_eq ((sess s k.val).heard + 3000000 * cfg s 0x1100 2) s
  generalize clockTo ((sess s k.val).heard + 3000000 * cfg s 0x1100 2) s = v at hexec hclock
  have hsess : ∀ j, sess v j = sess s j := fun j => by rw [hclock]; rfl
  have hv : (sess v k.val).open_ = true := by rw [hsess]; exact hopen
  have hcounters : (closeSession k.val v).counters = s.counters := by rw [closeSession_eq v k.val hv, hclock]
  refine ⟨_, hexec, ?_, ?_, ?_, ?_, ?_⟩
  · rw [sess_count, sess_closeSession v k.val hv, hsess]
  · intro j hj
    rw [sess_count, othersQuiet_closeSession v k.val hv j hj, hsess]
  · rw [closeSession_eq v k.val hv, hclock]; rfl
  · rw [counter_count_same, counter_eq_of_counters hcounters]
  · exact CountersBut_trans (countersBut_of_counters _ hcounters) (countersBut_count _ _ _ _ _ (by decide))

end

/-- Settles O18: each frame acts on the state with the frame counted and heard. -/
theorem sessionFrames : Obligations.SessionFrames := by
  constructor
  · intro s x frame k ty f Bare hup hclean hok hname
    have hopen := open_of_namedSession s hname
    have hframe : ty.toNat ≠ 1 → frameOfType x none ty frame s =
        .next (sessionFrame k ty.toNat (sess s k).peer f (count 0x741e 1 1 s)) :=
      frameOfType_session s x none ty frame k hup hclean hok hname
    refine ⟨fun hty => ?_, fun hty => ?_, fun hty => ?_⟩ <;> subst hty
    · obtain ⟨t, ht, h⟩ := close_answered s k (sess s k).peer hopen
      exact ⟨t, (hframe (by decide)).trans (congrArg _ ht), h⟩
    · obtain ⟨t, ht, h⟩ := keepalive_answered s k (sess s k).peer
      exact ⟨t, (hframe (by decide)).trans (congrArg _ ht), h⟩
    · obtain ⟨t, ht, h⟩ := ack_taken s k (BitVec.ofNat 32 (fieldAt f 4 4))
      exact ⟨t, (hframe (by decide)).trans (congrArg _ ht), h⟩
  · exact timeout_closes

end Sys2Proof.Machine
end

section
/-!
PROOF. REQUEST frames and the notify window (R468, R476, R478): the three answers to a SEQ, and how a notify frame is sent, sent
again and given up.
-/

namespace Sys2Proof.Machine

open Claims

section

variable (s : State)

/-! ## The SEQ of a REQUEST (R468) -/

theorem namedSession_port {x k : Nat} {f : Bytes} (h : namedSession s x f = some k) : (sess s k).port.val = x := by
  unfold namedSession at h
  simp only at h
  split at h
  next hcond =>
    cases h
    exact hcond.2.2.2
  next => cases h

/-- The next request of an idle open session executes (R468). -/
theorem runReq_idle (k : Nat) (g : State → ReqRes) (hopen : (sess s k).open_ = true) (hup : t1Up s (sess s k).port.val = true)
    (hidle : (sess s k).busy = false) :
    runReq k g s = runTaken k g (takeReq k ((sess s k).last + 1) (sess s k).peer (frameHeard s k)) := by
  unfold runReq reachesModule
  show (if !(sess s k).open_ then _ else if !(t1Up s (sess s k).port.val) then s else
    if (sess (frameHeard s k) k).busy then _ else
      runTaken k g (takeReq k ((sess (frameHeard s k) k).last + 1) (sess (frameHeard s k) k).peer (frameHeard s k))) = _
  rw [sess_frameHeard]
  simp only [hopen, hup, hidle, Bool.not_true, Bool.false_eq_true, if_false]

/-- A REQUEST whose SEQ is Last + 1 runs the operation that it carries (R468). -/
theorem requestFrame_next (k : Nat) (f : Bytes) (hidle : (sess s k).busy = false)
    (hseq : BitVec.ofNat 32 (fieldAt f 4 4) = (sess s k).last + 1) :
    requestFrame k (sess s k).peer f (frameHeard s k) = runTaken k (operation k (parseOp (f.drop 16)))
      (takeReq k ((sess s k).last + 1) (sess s k).peer (frameHeard s k)) := by
  unfold requestFrame
  rw [sess_frameHeard]
  simp only [hidle, hseq, Bool.false_eq_true, if_false, if_true]

/-- One whose SEQ is Last is answered from the cache (R468). -/
theorem requestFrame_again (k : Nat) (p f : Bytes) (hidle : (sess s k).busy = false)
    (hseq : BitVec.ofNat 32 (fieldAt f 4 4) = (sess s k).last) (hcached : (sess s k).cached ≠ []) :
    requestFrame k p f (frameHeard s k) = count 0x741e 5 1 (ixSend (sess s k).port p
      (splice (sess s k).cached 8 (leBytes 4 (stamp s).toNat)) (frameHeard s k)) := by
  have hnext : (sess s k).last ≠ (sess s k).last + 1 := by bv_omega
  unfold requestFrame
  rw [sess_frameHeard, stamp_frameHeard]
  simp only [hidle, hseq, hcached, hnext, ne_eq, not_false_eq_true, and_self, Bool.false_eq_true, if_false, if_true]

/-- Any other is refused (R468). -/
theorem requestFrame_refused (k : Nat) (p f : Bytes) (hidle : (sess s k).busy = false)
    (hnext : BitVec.ofNat 32 (fieldAt f 4 4) ≠ (sess s k).last + 1) (hlast : BitVec.ofNat 32 (fieldAt f 4 4) ≠ (sess s k).last) :
    requestFrame k p f (frameHeard s k) = count 0x741e 4 1 (ixSend (sess s k).port p
      (ixFrame s k 5 (BitVec.ofNat 32 (fieldAt f 4 4)) (stamp s) (responsePayload { abort := abSequence })) (frameHeard s k)) := by
  have hframe := ixFrame_congr (u := frameHeard s k) (v := s) k 5 (BitVec.ofNat 32 (fieldAt f 4 4)) (stamp s)
    (responsePayload { abort := abSequence }) (by rw [sess_frameHeard])
  unfold requestFrame refuseSeq
  simp only [sess_frameHeard, stamp_frameHeard, hframe, hidle, hnext, hlast, false_and, Bool.false_eq_true, if_false]

/-- A frame sent to the session's peer in answer, then counted: nothing of the host's but the session's silence changes. -/
theorem answered_frameHeard (k i j : Nat) (x : Fin 4) (p f : Bytes) :
    HostOnly s (count i j 1 (ixSend x p f (frameHeard s k))) ∧ OthersQuiet k s (count i j 1 (ixSend x p f (frameHeard s k))) ∧
      sess (count i j 1 (ixSend x p f (frameHeard s k))) k = { sess s k with heard := now s } ∧
      Sent x p f s (count i j 1 (ixSend x p f (frameHeard s k))) := by
  refine ⟨?_, ?_, ?_, sent_count (sent_frameHeard s k x p f) i j 1⟩
  · exact hostOnly_trans (hostOnly_frameHeard s k) (hostOnly_trans (hostOnly_ixSend x p f _) (hostOnly_count i j 1 _))
  · exact othersQuiet_trans (othersQuiet_frameHeard s k) (othersQuiet_of_sessions (by rw [count_sessions, ixSend_sessions]))
  · rw [sess_count, sess_ixSend, sess_frameHeard]

/-- An operation of the table is the next request with that operation (R470). -/
theorem exec_operation (k : Fin 64) (o : IxideOp) (op : BitVec 8) (ho : o.op = op) (hopen : (sess s k.val).open_ = true)
    (hup : t1Up s (sess s k.val).port.val = true) (hidle : (sess s k.val).busy = false) :
    runReq k.val (operation k.val { o with op := op }) s =
      runTaken k.val (operation k.val o) (takeReq k.val ((sess s k.val).last + 1) (sess s k.val).peer (frameHeard s k.val)) := by
  subst ho
  exact runReq_idle s k.val _ hopen hup hidle

end

/-- Settles O19: the frame acts as a REQUEST in the state with the frame counted and heard, where its SEQ decides. -/
theorem requestsExecuteOnce : Obligations.RequestsExecuteOnce := by
  intro s x frame k f seq o hup hclean hok hname hidle
  have hopen := open_of_namedSession s hname
  have hport : t1Up s (sess s k.val).port.val = true := by rw [namedSession_port s hname]; exact hup
  have hframe : exec (.request x frame) s = .next (requestFrame k.val (sess s k.val).peer f (frameHeard s k.val)) :=
    frameOfType_session s x none 4 frame k.val hup hclean hok hname (by decide)
  refine ⟨fun hseq => ?_, fun hseq hcached => ?_, fun hnext hlast => ?_⟩
  · refine ⟨_, hframe, fun ho => ?_, fun ho => ?_, fun ho => ?_, fun ho => ?_⟩ <;>
    · rw [requestFrame_next s k.val f hidle hseq]
      exact congrArg _ (exec_operation s k o _ ho hopen hport hidle)
  · rw [requestFrame_again s k.val _ f hidle hseq hcached] at hframe
    obtain ⟨hhost, hquiet, hsess, hsent⟩ := answered_frameHeard s k.val 0x741e 5 (sess s k.val).port (sess s k.val).peer
      (splice (sess s k.val).cached 8 (leBytes 4 (stamp s).toNat))
    refine ⟨_, hframe, hhost, hquiet, hsess, ?_, hsent⟩
    rw [counter_count_same, counter_ixSend, frameHeard, counter_heardFrom, counter_count_other _ _ _ _ _ _ (by decide)]
  · rw [requestFrame_refused s k.val _ f hidle hnext hlast] at hframe
    obtain ⟨hhost, hquiet, hsess, hsent⟩ := answered_frameHeard s k.val 0x741e 4 (sess s k.val).port (sess s k.val).peer
      (ixFrame s k.val 5 (BitVec.ofNat 32 (fieldAt f 4 4)) (stamp s) (responsePayload { abort := abSequence }))
    exact ⟨_, hframe, hhost, hquiet, by rw [hsess], by rw [hsess]; exact hidle, hsent⟩

/-! ## The notify window (R476, R478) -/

section

variable (s : State)

/-- A sent notify frame of a job's completion takes its record from the queue (R43). -/
def recordSent (n : Notify) : State :=
  match n.job with
  | some tag => if n.code = 1 then dropRecord tag s else s
  | none => s

theorem recordSent_eq (n : Notify) : recordSent s n = { s with queues := (recordSent s n).queues } := by
  unfold recordSent
  split
  · split <;> rfl
  · rfl

theorem recordSent_queues (n : Notify) (h : n.job = none ∨ n.code ≠ 1) : (recordSent s n).queues = s.queues := by
  unfold recordSent
  rcases h with h | h
  · rw [h]
  · split
    · rw [if_neg h]
    · rfl

theorem records_recordSent (n : Notify) (g : BitVec 32) (hjob : n.job = some g) (hcode : n.code = 1) (q : Nat) :
    (qget (recordSent s n) q).records =
      if q = tagQueue g then (qget s q).records.filter (fun r => r.tag ≠ g) else (qget s q).records := by
  unfold recordSent
  rw [hjob]
  simp only [hcode, if_true, dropRecord, qget_qmod]
  split
  next h => rw [h]
  next => rfl

/-- The session after its next notify frame left (R476). -/
def sentSession (k : Nat) (n : Notify) (e : Session) : Session :=
  { e with
    nseq := e.nseq + 1, lostFlag := false,
    unacked := e.unacked ++ [⟨e.nseq + 1, 0, now s, ixFrame s k 6 (e.nseq + 1) n.stamp (notifyPayload e.lostFlag n)⟩] }

/-- A notify frame is sent: the session, 0x741e:06, the port and the record (R476). -/
theorem sendNotify_eq (k : Nat) (n : Notify) : sendNotify k n s =
    recordSent (count 0x741e 6 1 (ixSend (sess s k).port (sess s k).peer
      (ixFrame s k 6 ((sess s k).nseq + 1) n.stamp (notifyPayload (sess s k).lostFlag n))
      (smod k (fun _ => sentSession s k n (sess s k)) s))) n := by
  have hmod : ∀ f : Session → Session, smod k f s = smod k (fun _ => f (sess s k)) s := fun f => rfl
  unfold sendNotify sendTo
  simp only
  rw [hmod]
  simp only [sess_smod_same]
  rfl

/-- What a sent notify frame leaves (R43, R476). -/
theorem sendNotify_sent (k : Nat) (n : Notify) :
    OthersQuiet k s (sendNotify k n s) ∧ sess (sendNotify k n s) k = sentSession s k n (sess s k) ∧
      Sent (sess s k).port (sess s k).peer
        (ixFrame s k 6 ((sess s k).nseq + 1) n.stamp (notifyPayload (sess s k).lostFlag n)) s (sendNotify k n s) ∧
      (sendNotify k n s).counters = (count 0x741e 6 1 s).counters ∧
      sendNotify k n s = { s with
        sessions := (sendNotify k n s).sessions, counters := (sendNotify k n s).counters,
        out := (sendNotify k n s).out, t1 := (sendNotify k n s).t1, queues := (sendNotify k n s).queues } ∧
      (n.job = none ∨ n.code ≠ 1 → (sendNotify k n s).queues = s.queues) ∧
      (∀ g, n.job = some g → n.code = 1 → ∀ q, (qget (sendNotify k n s) q).records =
        if q = tagQueue g then (qget s q).records.filter (fun r => r.tag ≠ g) else (qget s q).records) := by
  have hsent := sent_ixSend (sess s k).port (sess s k).peer
    (ixFrame s k 6 ((sess s k).nseq + 1) n.stamp (notifyPayload (sess s k).lostFlag n))
    (u := smod k (fun _ => sentSession s k n (sess s k)) s) (v := s) rfl rfl rfl rfl
  have hsend := ixSend_eq (smod k (fun _ => sentSession s k n (sess s k)) s) (sess s k).port (sess s k).peer
    (ixFrame s k 6 ((sess s k).nseq + 1) n.stamp (notifyPayload (sess s k).lostFlag n))
  rw [sendNotify_eq]
  generalize ixSend (sess s k).port (sess s k).peer
    (ixFrame s k 6 ((sess s k).nseq + 1) n.stamp (notifyPayload (sess s k).lostFlag n))
    (smod k (fun _ => sentSession s k n (sess s k)) s) = v at hsent hsend ⊢
  have hrec := recordSent_eq (count 0x741e 6 1 v) n
  have hsess : ∀ j, sess (recordSent (count 0x741e 6 1 v) n) j = if j = k then sentSession s k n (sess s k) else sess s j := by
    intro j
    rw [hrec, hsend]
    exact sess_smod ..
  have hqueue : ∀ q, qget (count 0x741e 6 1 v) q = qget s q := fun q => by rw [hsend]; rfl
  refine ⟨fun j hj => ?_, ?_, ?_, ?_, ?_, fun h => ?_, fun g hg hc q => ?_⟩
  · rw [hsess, if_neg hj]
  · rw [hsess, if_pos rfl]
  · exact sent_of_eq hsent (by rw [hrec]; rfl) (by rw [hrec]; rfl)
  · rw [hrec, hsend]; rfl
  · conv_lhs => rw [hrec, hsend]
    rw [hrec, hsend]
    rfl
  · rw [recordSent_queues _ n h, hsend]; rfl
  · rw [records_recordSent _ n g hg hc, hqueue]

/-- The oldest frame of a queue is sent unless its job is stale (R48, R476). -/
theorem exec_notifyTransmit (k : Fin 64) (n : Notify) (rest : List Notify) (hopen : (sess s k.val).open_ = true)
    (hup : t1Up s (sess s k.val).port.val = true) (hroom : (sess s k.val).unacked.length < 16)
    (hqueue : (sess s k.val).queue = n :: rest) (hfresh : ∀ g, n.job = some g → tagStale s g = false) :
    exec (.notifyTransmit k) s = .next (sendNotify k.val n (smod k.val (fun e => { e with queue := rest }) s)) := by
  have hfresh' : ∀ g, n.job = some g → tagStale (smod k.val (fun e => { e with queue := rest }) s) g = false := hfresh
  show execNotifyTransmit k s = _
  unfold execNotifyTransmit reachesModule
  simp only [hopen, hup, hqueue, Nat.not_le.mpr hroom, Bool.not_true, Bool.false_eq_true, or_self, if_false]
  split
  next g hg => rw [hfresh' g hg]; rfl
  next => rfl

/-- A notify frame that was not acknowledged in time is sent again (R478). -/
theorem notifyRetry_again (k : Nat) (seq : BitVec 32) (f : Bytes) :
    ∃ t, count 0x741e 7 1 (sendTo k f (smod k (fun e => { e with
        unacked := e.unacked.map (fun v => if v.seq = seq then { v with retries := v.retries + 1, sentAt := now s } else v) }) s)) = t ∧
      OthersQuiet k s t ∧ Sent (sess s k).port (sess s k).peer f s t ∧ counter t 0x741e 7 = counter s 0x741e 7 + 1 ∧
      sess t k = { sess s k with unacked := (sess s k).unacked.map (fun v =>
        if v.seq = seq then { v with retries := v.retries + 1, sentAt := now t } else v) } := by
  refine ⟨_, rfl, ?_, ?_, ?_, ?_⟩
  · exact othersQuiet_trans (othersQuiet_smod _ _ _) (othersQuiet_of_sessions (ixSend_sessions ..))
  · have hsent := sent_ixSend (sess s k).port (sess s k).peer f (u := smod k (fun e => { e with
        unacked := e.unacked.map (fun v => if v.seq = seq then { v with retries := v.retries + 1, sentAt := now s } else v) }) s)
      (v := s) rfl rfl rfl rfl
    unfold sendTo
    rw [sess_smod_same]
    exact sent_count hsent _ _ _
  · unfold sendTo
    rw [counter_count_same, counter_ixSend, counter_smod]
  · unfold sendTo
    rw [now_count, now_ixSend, now_smod, sess_count, sess_ixSend, sess_smod_same]

theorem sess_notifyDropped (k j : Nat) : sess (notifyDropped k s) j =
    if j = k then { sess s k with lost := (sess s k).lost + 1, lostFlag := true } else sess s j := by
  unfold notifyDropped
  rw [sess_setEvent, sess_count, sess_smod]

@[simp] theorem notifyDropped_out (k : Nat) : (notifyDropped k s).out = s.out := rfl

theorem counter_notifyDropped (k : Nat) : counter (notifyDropped k s) 0x741e 8 = counter s 0x741e 8 + 1 := by
  unfold notifyDropped
  rw [counter_eq_of_counters (setEvent_counters ..), counter_count_same, counter_smod]

theorem notifyDropped_event (k : Nat) : (notifyDropped k s).events.getLsbD 8 = true := by
  have hbit : (BitVec.ofNat 32 (1 <<< 8)).getLsbD 8 = true := by decide
  have hor : (notifyDropped k s).events = s.events ||| BitVec.ofNat 32 (1 <<< 8) := rfl
  rw [hor, BitVec.getLsbD_or, hbit, Bool.or_true]

/-- One retried 16 times is dropped and counted as lost (R478). -/
theorem notifyRetry_dropped (k : Nat) (seq : BitVec 32) :
    ∃ t, notifyDropped k (ackFrame k seq s) = t ∧ OthersQuiet k s t ∧ t.out = s.out ∧
      sess t k = { sess s k with
        unacked := (sess s k).unacked.filter (fun v => v.seq ≠ seq), lost := (sess s k).lost + 1, lostFlag := true } ∧
      counter t 0x741e 8 = counter s 0x741e 8 + 1 ∧ t.events.getLsbD 8 = true := by
  refine ⟨_, rfl, fun j hj => ?_, ?_, ?_, counter_notifyDropped _ k, notifyDropped_event _ k⟩
  · rw [sess_notifyDropped, if_neg hj, ackFrame, sess_smod, if_neg hj]
  · rw [notifyDropped_out, ackFrame, smod_out]
  · rw [sess_notifyDropped, if_pos rfl, ackFrame, sess_smod_same]

/-- The retry acts when its time has come (R478). -/
theorem exec_notifyRetry (k : Fin 64) (seq : BitVec 32) (u : Unacked)
    (hfind : (sess s k.val).unacked.find? (fun v => v.seq = seq) = some u) (hup : t1Up s (sess s k.val).port.val = true) :
    exec (.notifyRetry k seq) s = .next (if 16 ≤ u.retries
      then notifyDropped k.val (ackFrame k.val seq (clockTo (u.sentAt + 1000 * cfg s 0x1100 4) s))
      else count 0x741e 7 1 (sendTo k.val u.frame (smod k.val (fun e => { e with
        unacked := e.unacked.map (fun v => if v.seq = seq
          then { v with retries := v.retries + 1, sentAt := now (clockTo (u.sentAt + 1000 * cfg s 0x1100 4) s) } else v) })
        (clockTo (u.sentAt + 1000 * cfg s 0x1100 4) s)))) := by
  have hup' : ∀ T, t1Up (clockTo T s) (sess (clockTo T s) k.val).port.val = true := fun T => by
    rw [clockTo_eq]; exact hup
  show execNotifyRetry k seq s = _
  unfold execNotifyRetry reachesModule
  simp only [hfind, hup', Bool.not_true, Bool.false_eq_true, if_false]

end

/-- Settles O20: the frame at the head of the queue is sent from the session without it; a retry acts once the clock has reached
its time. -/
theorem notifyWindow : Obligations.NotifyWindow := by
  constructor
  · intro s k n rest e f hopen hup hroom hqueue hfresh
    have hframe : ixFrame (smod k.val (fun e => { e with queue := rest }) s) k.val 6 (e.nseq + 1) n.stamp
        (notifyPayload e.lostFlag n) = f := ixFrame_congr _ _ _ _ _ (by rw [sess_smod_same])
    obtain ⟨hquiet, hsess, hsent, hcount, heq, hkeep, hdrop⟩ := sendNotify_sent (smod k.val (fun e => { e with queue := rest }) s) k.val n
    refine ⟨_, exec_notifyTransmit s k n rest hopen hup hroom hqueue hfresh, ?_, ?_, ?_, ?_, ?_, ?_, hkeep, hdrop⟩
    · exact othersQuiet_trans (othersQuiet_smod _ _ _) hquiet
    · rw [hsess, sess_smod_same, sentSession, hframe]
      rfl
    · have hport := sent_ixSend e.port e.peer f (u := smod k.val (fun e => { e with queue := rest }) s) (v := s) rfl rfl rfl rfl
      rw [sess_smod_same, hframe] at hsent
      exact sent_of_eq hport hsent.1 hsent.2
    · rw [counter_eq_of_counters hcount, counter_count_same, counter_smod]
    · exact CountersBut_trans (countersBut_count s 0x741e 6 1 _ (by decide)) (countersBut_of_counters _ hcount)
    · exact heq
  · intro s k seq u hfind hup
    have hexec := exec_notifyRetry s k seq u hfind hup
    have hsess : ∀ T j, sess (clockTo T s) j = sess s j := fun T j => by rw [clockTo_eq]; rfl
    have hquiet : ∀ T, OthersQuiet k.val s (clockTo T s) := fun T j _ => hsess T j
    have hcount : ∀ T i j, counter (clockTo T s) i j = counter s i j := fun T i j => by rw [clockTo_eq]; rfl
    generalize hT : u.sentAt + 1000 * cfg s 0x1100 4 = T at hexec
    refine ⟨fun hretry => ?_, fun hretry => ?_⟩
    · obtain ⟨t, ht, hq, hsent, hc, he⟩ := notifyRetry_again (clockTo T s) k.val seq u.frame
      rw [if_neg (by omega), ht] at hexec
      simp only [hsess] at hsent he
      exact ⟨t, hexec, othersQuiet_trans (hquiet T) hq, hsent, by rw [hc, hcount], he⟩
    · obtain ⟨t, ht, hq, hout, he, hc, hev⟩ := notifyRetry_dropped (clockTo T s) k.val seq
      rw [if_pos hretry, ht] at hexec
      simp only [hsess] at he
      exact ⟨t, hexec, othersQuiet_trans (hquiet T) hq, by rw [hout, clockTo_eq], he, by rw [hc, hcount], hev⟩

end Sys2Proof.Machine
end

section
/-!
PROOF. The four operations of a session (R470-R472): READ of an object of fixed length, MEM_READ and MEM_WRITE.
-/

namespace Sys2Proof.Machine

open Claims

section

variable (s : State)

/-! ## A request whose effect leaves the session's books alone -/

/-- `w` is the state in which a request executes, but that its sessions may be written down otherwise. -/
structure TakenAs (k : Nat) (w : State) : Prop where
  eq : w = { s with
    sessions := w.sessions, counters := (count 0x741e 1 1 s).counters, island := { s.island with hostHeard := w.island.hostHeard } }
  sess_eq : ∀ j, sess w j = sess (taken k s) j

theorem takenAs_taken (k : Nat) : TakenAs s k (taken k s) := ⟨taken_eq s k, fun _ => rfl⟩

/-- Dropping a transfer that is none changes nothing that is read. -/
theorem takenAs_smod (k : Nat) (g : Session → Session) (hg : g (sess (taken k s) k) = sess (taken k s) k) :
    TakenAs s k (smod k g (taken k s)) where
  eq := by rw [taken_eq]; rfl
  sess_eq j := by
    rw [sess_smod]
    split
    next h => rw [hg, h]
    next => rfl

theorem effect_takenAs {k : Nat} {w : State} {f : State → State} (hf : KeepsBooks f s) (hw : TakenAs s k w) : f w = { f s with
    sessions := w.sessions, counters := (count 0x741e 1 1 s).counters, island := { (f s).island with hostHeard := w.island.hostHeard } } := by
  conv_lhs => rw [hw.eq]
  exact hf _ _ _

theorem sess_effect {k : Nat} {w : State} {f : State → State} (hf : KeepsBooks f s) (hw : TakenAs s k w) :
    sess (f w) k = { sess s k with heard := now s, last := (sess s k).last + 1, busy := true, source := (sess s k).peer } := by
  rw [effect_takenAs s hf hw, ← sess_taken, ← hw.sess_eq]
  rfl

/-- Its answer leaves what the effect makes of the state before the request (R468, R470). -/
theorem answer_did (k : Nat) (r : Reply) (w : State) (f : State → State) (hw : TakenAs s k w) (hf : KeepsBooks f s) (hr : r.abort = 0) :
    Did k r (f s) s (answer k r (f w)) := by
  have heq := effect_takenAs s hf hw
  have hcount : ∀ n, tblGet 0 (f w).counters n =
      if n = objKey 0x741e 1 then counter (f s) 0x741e 1 + 1 else tblGet 0 (f s).counters n := fun n => by
    rw [heq, counter, hf.counters_eq]; exact tblGet_set ..
  apply did_answer s k r hr (f s) (f w)
  · rw [heq]
  · rw [sess_effect s hf hw, hf.sess_eq]
  · rw [hf.sess_eq]; exact ⟨rfl, rfl⟩
  · intro n hn
    rw [hf.sess_eq, ← sess_taken_other s k n hn, ← hw.sess_eq, heq]
    rfl
  · exact (hcount _).trans (if_pos rfl)
  · intro n hn
    exact (hcount n).trans (if_neg (by simpa [objKey] using hn))

/-- A request of a ready session that is done is answered, with its effect (R468, R470). -/
theorem runReq_did (k : Nat) (g : State → ReqRes) (r : Reply) (w : State) (f : State → State) (hw : TakenAs s k w)
    (hf : KeepsBooks f s) (h : HostReady k s) (hr : r.abort = 0) (hg : g (taken k s) = .done r (f w)) :
    Did k r (f s) s (runReq k g s) := by
  have hopen : (sess (f w) k).open_ = true := by rw [sess_effect s hf hw]; exact h.1
  have hgen : (sess (f w) k).gen = (sess (taken k s) k).gen := by rw [sess_effect s hf hw, sess_taken]
  rw [runReq_ready s k g h, hg]
  show Did k r (f s) s (if _ ∧ _ then answer k r (f w) else _)
  rw [if_pos ⟨hopen, hgen⟩]
  exact answer_did s k r w f hw hf hr

theorem keepsBooks_id : KeepsBooks (fun u => u) s := fun _ _ _ => rfl

/-- An operation of a session in no transfer, at OFFSET 0, is in its place (R471). -/
theorem segmentBad_taken (k : Nat) (o : IxideOp) (hnone : (sess s k).transfer = none) (hoff : o.offset = 0) :
    segmentBad (taken k s) k o = false := by
  unfold segmentBad
  simp only [sess_taken, hnone, hoff]
  rfl

section

variable (k : Nat) (o : IxideOp) (h : HostReady k s) (hoff : o.offset = 0)

include h hoff

/-! An operation whose fields agree runs as its OP says (R470, R507). -/

theorem operation_read (hok : opOk { o with op := 1 } = true) :
    operation k { o with op := 1 } (taken k s) = readOp k { o with op := 1 } (taken k s) := by
  unfold operation
  rw [segmentBad_taken s k { o with op := 1 } h.2.2.1 hoff, hok]
  rfl

theorem operation_write (hok : opOk { o with op := 2 } = true) :
    operation k { o with op := 2 } (taken k s) = writeOp k { o with op := 2 } (taken k s) := by
  unfold operation
  rw [segmentBad_taken s k { o with op := 2 } h.2.2.1 hoff, hok]
  rfl

theorem operation_memRead (hok : opOk { o with op := 3 } = true) :
    operation k { o with op := 3 } (taken k s) = memReadOp k { o with op := 3 } (taken k s) := by
  unfold operation
  rw [segmentBad_taken s k { o with op := 3 } h.2.2.1 hoff, hok]
  rfl

theorem operation_memWrite (hok : opOk { o with op := 4 } = true) :
    operation k { o with op := 4 } (taken k s) = memWriteOp k { o with op := 4 } (taken k s) := by
  unfold operation
  rw [segmentBad_taken s k { o with op := 4 } h.2.2.1 hoff, hok]
  rfl

end

/-! ## READ of an object of fixed length (R471) -/

/-- The members of a family are counted from its base. -/
theorem famBase_add (i : Nat) : (famBase i).1 + (famBase i).2 = i := by
  unfold famBase
  split
  next f hf =>
    have hrange := List.find?_some hf
    simp only [Bool.and_eq_true, decide_eq_true_eq] at hrange
    dsimp only
    omega
  next => rfl

/-- The indices of a family's base are its members. -/
theorem famBase_snd_lt (i b c : Nat) (hb : (famBase i).1 = b) (hsome : (famOf b).isSome = true)
    (hcount : ∀ f ∈ objFams, f.base = b → f.count = c) : (famBase i).2 < c := by
  unfold famBase at hb ⊢
  split
  next f hf =>
    rw [hf] at hb
    have hrange := List.find?_some hf
    have hc := hcount f (List.mem_of_find?_eq_some hf) hb
    simp only [Bool.and_eq_true, decide_eq_true_eq] at hrange
    dsimp only
    omega
  next hnone =>
    rw [hnone] at hb
    dsimp only at hb
    rw [hb] at hnone
    simp [hnone] at hsome

/-- The record that a queue's RO object :0a takes is a BLOB. -/
theorem otyVar_record (i : Nat) (ty : OTy) (acc : OAcc) (d : Nat) (hb : (famBase i).1 = 0x6000)
    (h : objDef i 0x0a = some (ty, acc, d)) : otyVar ty = true := by
  have hq : (famBase i).2 < 4096 := famBase_snd_lt i 0x6000 4096 hb (by decide) (by decide)
  have hi : i = 0x6000 + (famBase i).2 := by rw [← hb]; exact (famBase_add i).symm
  have hdef := objDef_queue ⟨(famBase i).2, hq⟩ 0x0a
  have h0 : objDef 0x6000 0x0a = some (.blob 32, .ro, 0) := by decide
  rw [hi] at h
  rw [show objDef (0x6000 + (famBase i).2) 0x0a = _ from hdef.trans h0] at h
  cases h
  rfl

/-- Reading an object of fixed length takes nothing: only SLEW_LEFT and the means of power round freely. -/
theorem readValue_fixed (k i j : Nat) (ty : OTy) (acc : OAcc) (d : Nat) (h : objDef i j = some (ty, acc, d)) (hvar : otyVar ty = false)
    (h34 : ¬(i = 0x3400 ∧ j = 4)) (h30 : ¬(i = 0x3000 ∧ (j = 4 ∨ j = 5))) : readValue k i j s = (readObj k i j s, s) := by
  have hnonce : ¬(i = 0x2001 ∧ j = 4) := by
    rintro ⟨rfl, rfl⟩
    have h0 : objDef 0x2001 4 = some (.blob 32, .ro, 0) := by decide
    rw [h0] at h
    cases h
    cases hvar
  have hrecord : ¬((famBase i).1 = 0x6000 ∧ j = 0x0a) := by
    rintro ⟨hb, rfl⟩
    rw [otyVar_record i ty acc d hb h] at hvar
    cases hvar
  unfold readValue
  rw [if_neg hnonce, if_neg hrecord, if_neg h34, if_neg h30]

theorem idxDefined_of_objDef {i j : Nat} {p : OTy × OAcc × Nat} (h : objDef i j = some p) : idxDefined i = true := by
  unfold objDef at h
  unfold idxDefined
  split at h
  · split at h
    next hd => exact hd
    next => cases h
  · split at h
    next hc => rw [hc]; simp
    next =>
      split at h
      next hf => rw [hf]; rfl
      next => cases h

@[simp] theorem notOwner_taken (k i j : Nat) : notOwner (taken k s) k i j = notOwner s k i j := by simp [notOwner]

/-- Checks 4 to 10 of a read passed (R474). -/
theorem readTarget_ok (k i j : Nat) (ty : OTy) (acc : OAcc) (d : Nat) (h1 : s.boot.state ≠ .recovery)
    (h2 : objDef i j = some (ty, acc, d)) (h3 : acc ≠ .wo) (h4 : hasRight s k (readRight i j) = true)
    (h5 : notOwner s k i j = false) : readTarget s k i j = .ok ty := by
  unfold readTarget
  simp only [reachable_ready s i j h1, idxDefined_of_objDef h2, h2, Bool.not_true, Bool.false_eq_true, if_false]
  cases acc <;> simp_all

/-- Settles the first part of O21: the operation reads the value in the state in which it executes. -/
theorem ixideRead_completes (k : Fin 64) (o : IxideOp) (ty : OTy) (acc : OAcc) (d : Nat) (h : HostReady k.val s)
    (hdef : objDef o.index.toNat o.sub.toNat = some (ty, acc, d)) (hacc : acc ≠ .wo) (hvar : otyVar ty = false)
    (hright : hasRight s k.val (readRight o.index.toNat o.sub.toNat) = true)
    (howner : notOwner s k.val o.index.toNat o.sub.toNat = false) (hok : opOk { o with op := 1 } = true) (hoff : o.offset = 0)
    (hlen : o.count.toNat = otyLen ty) (h34 : ¬(o.index.toNat = 0x3400 ∧ o.sub.toNat = 4))
    (h30 : ¬(o.index.toNat = 0x3000 ∧ (o.sub.toNat = 4 ∨ o.sub.toNat = 5))) :
    Completes (.ixideRead k o) k.val (readObj k.val o.index.toNat o.sub.toNat (taken k.val s)) s s := by
  have ⟨_, _, _, _, hboot⟩ := h
  have htarget := readTarget_ok (taken k.val s) k.val o.index.toNat o.sub.toNat ty acc d (by rwa [taken_boot]) hdef hacc
    (by rwa [hasRight_taken]) (by rwa [notOwner_taken])
  have hvalue := readValue_fixed (taken k.val s) k.val o.index.toNat o.sub.toNat ty acc d hdef hvar h34 h30
  refine ⟨_, rfl, runReq_did s k.val _ _ _ (fun u => u) (takenAs_taken s k.val) (keepsBooks_id s) h rfl ?_⟩
  rw [operation_read s k.val o h hoff hok]
  unfold readOp
  simp [htarget, hvar, hvalue, hoff, hlen]

/-! ## MEM_READ and MEM_WRITE (R472) -/

/-- An operation on memory carries no OFFSET (R507). -/
theorem offset_of_memOp (o : IxideOp) (op : BitVec 8) (hop : op = 3 ∨ op = 4) (hok : opOk { o with op := op } = true) :
    o.offset = 0 := by
  rcases hop with rfl | rfl
  · simp [opOk] at hok
    obtain ⟨_, ⟨⟨_, hoff⟩, _⟩, _⟩ := hok
    exact hoff
  · simp [opOk] at hok
    obtain ⟨_, ⟨⟨_, hoff⟩, _⟩, _⟩ := hok
    exact hoff

@[simp] theorem placeOf_taken (k a n : Nat) : placeOf (taken k s) a n = placeOf s a n := by rw [taken_eq]; rfl

@[simp] theorem poisonHit_taken (k : Nat) (w : Actor) (pl : Place) (n : Nat) :
    poisonHit (taken k s) w pl n = poisonHit s w pl n := by rw [taken_eq]; rfl

@[simp] theorem versionBytes_taken (k i v : Nat) : versionBytes (taken k s) i v = versionBytes s i v := by rw [taken_eq]; rfl
@[simp] theorem peek_taken (k a n : Nat) : peek (taken k s) a n = peek s a n := by rw [taken_eq]; rfl

/-- Bytes read with nothing laid over them are those of memory. -/
theorem overlayRead_nil (m : Memory) (a n : Nat) : overlayRead m [] a n = memRead m a n := rfl

/-- A host reads what stands in own Cistern: nothing staged lies over it. -/
theorem readPlace_cistern (a n : Nat) : readPlace {} (.cistern a) n s = (peek s a n, s) := rfl

/-- A host reads the current version of a tensor. -/
theorem readPlace_tensor (i off n : Nat) (b : Bytes) (h : versionBytes s i (tensorOf s i).version = some b) :
    readPlace {} (.tensor i off) n s = (padTo n (bytesAt b off n), s) := by
  show (match versionBytes s i (tensorOf s i).version with
    | some b => (padTo n (bytesAt b off n), s)
    | none => freshBytes n s) = _
  rw [h]

/-- A MEM_READ of memory without poison answers what stands there (R472). -/
theorem memReadOp_done (k : Nat) (o : IxideOp) (pl : Place) (b : Bytes) (hboot : s.boot.state ≠ .recovery)
    (hright : hasRight s k 3 = true) (hplace : placeOf s o.address.toNat o.count.toNat = pl)
    (hkind : (∃ a, pl = .cistern a) ∨ ∃ i off, pl = .tensor i off) (hclean : poisonHit s {} pl o.count.toNat = none)
    (hread : readPlace {} pl o.count.toNat s = (b, s)) : memReadOp k o s = .done { data := b } s := by
  unfold memReadOp
  simp only [hboot, hright, hplace, Bool.not_true, Bool.false_eq_true, if_false]
  rcases hkind with ⟨a, rfl⟩ | ⟨i, off, rfl⟩ <;> simp only [hclean, hread]

theorem memRead_completes (k : Fin 64) (o : IxideOp) (pl : Place) (b : Bytes) (h : HostMay k.val 3 s)
    (hok : opOk { o with op := 3 } = true) (hplace : placeOf s o.address.toNat o.count.toNat = pl)
    (hkind : (∃ a, pl = .cistern a) ∨ ∃ i off, pl = .tensor i off) (hclean : poisonHit s {} pl o.count.toNat = none)
    (hread : readPlace {} pl o.count.toNat (taken k.val s) = (b, taken k.val s)) : Completes (.memRead k o) k.val b s s := by
  obtain ⟨hready, hright⟩ := h
  have ⟨_, _, _, _, hboot⟩ := hready
  have hoff := offset_of_memOp o 3 (.inl rfl) hok
  refine ⟨_, rfl, runReq_did s k.val _ _ _ (fun u => u) (takenAs_taken s k.val) (keepsBooks_id s) hready rfl ?_⟩
  rw [operation_memRead s k.val o hready hoff hok]
  exact memReadOp_done (taken k.val s) k.val _ pl b (by rwa [taken_boot]) (by rwa [hasRight_taken]) (by rwa [placeOf_taken]) hkind
    (by rwa [poisonHit_taken]) hread

theorem pokeCistern_eq (a : Nat) (b : Bytes) : pokeCistern a b s = { s with
    mem := memWrite s.mem a b,
    dir := { s.dir with poison := s.dir.poison.filter (fun l => !(overlaps (l * 64) 64 a b.length)) } } := by
  unfold pokeCistern healLines
  split
  next h =>
    have hp : s.dir.poison = [] := h
    have hf : s.dir.poison.filter (fun l => !(overlaps (l * 64) 64 a b.length)) = s.dir.poison := by rw [hp]; rfl
    rw [hf]
    rfl
  next => rfl

theorem pokeCistern_keepsBooks (a : Nat) (b : Bytes) : KeepsBooks (pokeCistern a b) s := fun _ _ _ => by
  simp only [pokeCistern_eq]

theorem memWrite_completes (k : Fin 64) (o : IxideOp) (a : Nat) (h : HostMay k.val 4 s) (hok : opOk { o with op := 4 } = true)
    (hplace : placeOf s o.address.toNat o.count.toNat = .cistern a)
    (hheap : overlaps a o.count.toNat (heapBase s) (heapBytes s) = false) :
    Completes (.memWrite k o) k.val [] (pokeCistern a o.data s) s := by
  obtain ⟨hready, hright⟩ := h
  have ⟨_, _, _, _, hboot⟩ := hready
  have hoff := offset_of_memOp o 4 (.inr rfl) hok
  refine ⟨_, rfl, runReq_did s k.val _ _ _ (pokeCistern a o.data) (takenAs_taken s k.val)
    (pokeCistern_keepsBooks s a o.data) hready rfl ?_⟩
  rw [operation_memWrite s k.val o hready hoff hok]
  unfold memWriteOp
  have hheap' : overlaps a o.count.toNat (heapBase (taken k.val s)) (heapBytes (taken k.val s)) = false := by
    rw [heapBase, heapBytes, cfg_taken, cfg_taken]; exact hheap
  simp only [taken_boot, hboot, hasRight_taken, hright, placeOf_taken, hplace, hheap', Bool.not_true, Bool.false_eq_true,
    if_false]

end

/-- Settles O21: each operation runs in the state in which the request executes, which reads as the state before it. -/
theorem hostReads : Obligations.HostReads := by
  refine ⟨fun s k o ty acc d => ?_, fun s k o i off b hplace hmay hok hclean hb => ?_, fun s k o a hplace => ⟨fun hmay hok hclean => ?_,
    fun hmay hok hheap => ?_⟩⟩
  · exact ixideRead_completes s k o ty acc d
  · exact memRead_completes s k o _ _ hmay hok hplace (.inr ⟨i, off, rfl⟩) hclean
      (readPlace_tensor _ i off _ b (by rw [versionBytes_taken]; simpa [tensorOf] using hb))
  · exact memRead_completes s k o _ _ hmay hok hplace (.inl ⟨a, rfl⟩) hclean (by rw [readPlace_cistern, peek_taken])
  · refine ⟨_, memWrite_completes s k o a hmay hok hplace hheap, ?_, fun b hb => ?_, fun i hi => ?_, fun l => ?_⟩
    · rw [pokeCistern_eq]
    · rw [pokeCistern_eq, memByte_write, if_neg hb]
    · rw [pokeCistern_eq, memByte_write, if_pos (by omega)]
      simp
    · rw [pokeCistern_eq]
      simp

end Sys2Proof.Machine
end

section
/-!
PROOF. Writes of plain configuration objects and refused writes (R11, R471, R474): the effect of each plain object is its new value,
and each check of R474 that fails answers its abort code.
-/

namespace Sys2Proof.Machine

open Claims

section

variable (s : State)

/-! ## Plain objects -/

/-- A plain object of identity and sessions: its write only sets the value. -/
theorem writeDevice_plain (k b n j : Nat) (d : Bytes) (h : b < 0x1180) :
    writeDevice k b n j d s = .done [] (setCfg (b + n) j d s) := by
  unfold writeDevice
  repeat rw [if_neg (by omega)]

/-- A plain object of power, time and ports. -/
theorem writeTime_plain (b n j : Nat) (d : Bytes) (h : (b, j) ∈ [(0x3002, 1), (0x3002, 2), (0x3410, 1), (0x3410, 5), (0x3410, 6),
    (0x3420, 2), (0x3428, 1), (0x3428, 2), (0x3428, 3), (0x3428, 4), (0x3430, 1), (0x3430, 3), (0x3430, 4), (0x3430, 5),
    (0x3430, 6), (0x3450, 1), (0x3450, 3), (0x3450, 5)]) : writeTime b n j d s = .done [] (setCfg (b + n) j d s) := by
  have hb : b ≠ 0x3000 ∧ b ≠ 0x3001 ∧ b ≠ 0x3020 ∧ b ≠ 0x3400 ∧ j < 7 ∧ (b = 0x3420 → j = 2) ∧ (b = 0x3428 → j < 5) ∧
      (b = 0x3450 → j ≠ 4) := by
    have hall : ∀ p ∈ [(0x3002, 1), (0x3002, 2), (0x3410, 1), (0x3410, 5), (0x3410, 6), (0x3420, 2), (0x3428, 1), (0x3428, 2),
        (0x3428, 3), (0x3428, 4), (0x3430, 1), (0x3430, 3), (0x3430, 4), (0x3430, 5), (0x3430, 6), (0x3450, 1), (0x3450, 3),
        (0x3450, 5)], p.1 ≠ 0x3000 ∧ p.1 ≠ 0x3001 ∧ p.1 ≠ 0x3020 ∧ p.1 ≠ 0x3400 ∧ p.2 < 7 ∧ (p.1 = 0x3420 → p.2 = 2) ∧
        (p.1 = 0x3428 → p.2 < 5) ∧ (p.1 = 0x3450 → p.2 ≠ 4) := by decide
    exact hall _ h
  obtain ⟨h0, h1, h2, h3, hj, hpps, htimer, hpeers⟩ := hb
  unfold writeTime
  rw [if_neg h0, if_neg (by omega), if_neg h2, if_neg h3, if_neg (by omega), if_neg (by omega), if_neg (by omega)]
  split
  · rw [if_neg (by omega), if_neg (by omega), if_neg (by omega)]
  · split
    next hf => rw [if_neg (by omega), if_neg (fun h => hpeers hf h.1)]
    next => rfl

theorem plainObject_base {i j : Nat} (h : plainObject i j = true) :
    (famBase i).1 < 0x1180 ∨ (0x3000 ≤ (famBase i).1 ∧ (famBase i).1 < 0x3800 ∧ ((famBase i).1, j) ∈ [(0x3002, 1), (0x3002, 2),
      (0x3410, 1), (0x3410, 5), (0x3410, 6), (0x3420, 2), (0x3428, 1), (0x3428, 2), (0x3428, 3), (0x3428, 4), (0x3430, 1),
      (0x3430, 3), (0x3430, 4), (0x3430, 5), (0x3430, 6), (0x3450, 1), (0x3450, 3), (0x3450, 5)]) ∨
    (famBase i).1 = 0x3800 ∨ (famBase i).1 = 0x3840 ∨ ((famBase i).1 = 0x4000 ∧ 0x0a ≤ j) := by
  have hall : ∀ p ∈ [(0x1020, 1), (0x1100, 2), (0x1100, 4), (0x1110, 1), (0x3002, 1), (0x3002, 2), (0x3410, 1), (0x3410, 5),
      (0x3410, 6), (0x3420, 2), (0x3428, 1), (0x3428, 2), (0x3428, 3), (0x3428, 4), (0x3430, 1), (0x3430, 3), (0x3430, 4),
      (0x3430, 5), (0x3430, 6), (0x3450, 1), (0x3450, 3), (0x3450, 5), (0x3800, 6), (0x3840, 1), (0x3840, 2), (0x4000, 0x0a),
      (0x4000, 0x0e)], p.1 < 0x1180 ∨ (0x3000 ≤ p.1 ∧ p.1 < 0x3800 ∧ p ∈ [(0x3002, 1), (0x3002, 2), (0x3410, 1), (0x3410, 5),
      (0x3410, 6), (0x3420, 2), (0x3428, 1), (0x3428, 2), (0x3428, 3), (0x3428, 4), (0x3430, 1), (0x3430, 3), (0x3430, 4),
      (0x3430, 5), (0x3430, 6), (0x3450, 1), (0x3450, 3), (0x3450, 5)]) ∨ p.1 = 0x3800 ∨ p.1 = 0x3840 ∨
      (p.1 = 0x4000 ∧ 0x0a ≤ p.2) := by decide
  exact hall _ (of_decide_eq_true h)

/-- A write of a plain object that its checks let through sets the value (R11). -/
theorem writeEffect_plain (k i j : Nat) (d : Bytes) (h : plainObject i j = true) :
    writeEffect k i j d s = .done [] (setCfg i j d s) := by
  have hi := famBase_add i
  have hbase := plainObject_base h
  have hsafety : (famBase i).1 = 0x4000 → (famBase i).2 < 1 := fun hb =>
    famBase_snd_lt i 0x4000 1 hb (by decide) (by decide)
  unfold writeEffect
  generalize (famBase i).1 = b at hi hbase hsafety ⊢
  generalize (famBase i).2 = n at hi hsafety ⊢
  subst hi
  rcases hbase with hdev | ⟨hlo, hhi, hmem⟩ | rfl | rfl | ⟨rfl, hj⟩
  · rw [if_pos (by omega), writeDevice_plain s k b n j d hdev]
  · rw [if_neg (by omega), if_pos hhi, writeTime_plain s b n j d hmem]
  · rfl
  · rfl
  · show writeSafety k 0x4000 n j d s = _
    unfold writeSafety
    rw [if_pos rfl, if_neg (by omega), if_neg (by omega), if_neg (by omega), Nat.lt_one_iff.mp (hsafety rfl)]

/-! ## The checks, in the state in which the request executes -/

@[simp] theorem reachable_taken (k i j : Nat) : reachable (taken k s) i j = reachable s i j := by simp [reachable]

@[simp] theorem writeTarget_taken (k i j : Nat) (d : Bytes) : writeTarget (taken k s) k i j d = writeTarget s k i j d := by
  simp [writeTarget]

@[simp] theorem typeOk_taken (k b j : Nat) (ty : OTy) (d : Bytes) : typeOk (taken k s) b j ty d = typeOk s b j ty d := by
  rw [taken_eq]; rfl

@[simp] theorem ownerRuns_taken (k b n j : Nat) : ownerRuns (taken k s) b n j = ownerRuns s b n j := by rw [taken_eq]; rfl
@[simp] theorem rangeOk_taken (k b n j v : Nat) : rangeOk (taken k s) b n j v = rangeOk s b n j v := by rw [taken_eq]; rfl

@[simp] theorem typeOk_smod (k b j : Nat) (g : Session → Session) (ty : OTy) (d : Bytes) :
    typeOk (smod k g s) b j ty d = typeOk s b j ty d := rfl

@[simp] theorem ownerRuns_smod (k b n j : Nat) (g : Session → Session) : ownerRuns (smod k g s) b n j = ownerRuns s b n j := rfl
@[simp] theorem rangeOk_smod (k b n j v : Nat) (g : Session → Session) : rangeOk (smod k g s) b n j v = rangeOk s b n j v := rfl

theorem setCfg_keepsBooks (i j : Nat) (d : Bytes) : KeepsBooks (setCfg i j d) s := fun _ _ _ => rfl

/-- A write of a plain object that passes the checks of R474 sets the value. -/
theorem writeValue_plain (k i j : Nat) (d : Bytes) (ty : OTy) (acc : OAcc) (hplain : plainObject i j = true)
    (htarget : writeTarget s k i j d = .ok (ty, acc)) (htype : typeOk s (famBase i).1 j ty d = true)
    (hres : reservedOk (famBase i).1 j d = true) (hstop : acc = .rws → ownerRuns s (famBase i).1 (famBase i).2 j = false)
    (hrange : rangeOk s (famBase i).1 (famBase i).2 j (leNat d) = true) :
    writeValue k i j d s = .done [] (setCfg i j d s) := by
  rw [writeValue_effect s k i j d ty acc htarget htype hres hstop (fun _ => hrange), writeEffect_plain s k i j d hplain]

/-- The command of configuration is the dictionary write. -/
theorem exec_configWrite (k : Fin 64) (index : BitVec 16) (sub : BitVec 8) (d : Bytes) :
    exec (.configWrite k index sub d) s = .next (hostWrite k.val index.toNat sub.toNat d s) := rfl

/-- A WRITE of a whole value in one segment is a write of that value, once the session has no transfer (R471). -/
theorem writeOp_whole (k : Nat) (o : IxideOp) (hflags : o.flags = 0) (hoff : o.offset = 0) (hnone : (sess s k).transfer = none)
    (ty : OTy) (acc : OAcc) (hlen : o.data.length ≤ writeMax (famBase o.index.toNat).1 o.sub.toNat ty)
    (htarget : writeTarget (smod k (fun e => { e with transfer := none }) s) k o.index.toNat o.sub.toNat o.data = .ok (ty, acc)) :
    writeOp k o s = ofWRes (smod k (fun e => { e with transfer := none }) s)
      (writeValue k o.index.toNat o.sub.toNat o.data (smod k (fun e => { e with transfer := none }) s)) := by
  unfold writeOp
  simp only [hnone, List.nil_append, htarget, hflags, hoff, Nat.not_lt.mpr hlen, ne_eq, not_true_eq_false, or_false, if_false]
  simp

/-- A value of a fixed-length type has its type's length. -/
theorem length_of_typeOk (b j : Nat) (ty : OTy) (d : Bytes) (hvar : otyVar ty = false) (h : typeOk s b j ty d = true) :
    d.length = otyLen ty := by
  unfold typeOk at h
  split at h
  · rw [Bool.or_eq_true, beq_iff_eq, beq_iff_eq] at h
    rcases h with rfl | rfl <;> rfl
  · cases hvar
  · cases hvar
  · exact of_decide_eq_true h

/-- A plain object takes a value of its type's length. -/
theorem length_le_writeMax (i j : Nat) (ty : OTy) (d : Bytes) (hplain : plainObject i j = true) (hvar : otyVar ty = false)
    (h : typeOk s (famBase i).1 j ty d = true) : d.length ≤ writeMax (famBase i).1 j ty := by
  have hbase : (famBase i).1 ≠ 0x3850 := by
    have := plainObject_base hplain
    omega
  unfold writeMax
  rw [if_neg (fun hb => hbase hb.1), length_of_typeOk s _ _ ty d hvar h]

/-- A session that drops its transfer is judged as before. -/
theorem writeTarget_smod (k i j : Nat) (d : Bytes) (g : Session → Session) (hp : ∀ e, (g e).port = e.port)
    (hc : ∀ e, (g e).client = e.client) : writeTarget (smod k g s) k i j d = writeTarget s k i j d := by
  have hr : ∀ r, hasRight (smod k g s) k r = hasRight s k r := fun r => by
    simp [hasRight, admitted, sessionRights, rightsOf, clientOf, hp, hc]
  have ho : notOwner (smod k g s) k i j = notOwner s k i j := by
    simp [notOwner, queueClient, clientOf, hc]
  have hb : reachable (smod k g s) i j = reachable s i j := rfl
  unfold writeTarget
  rw [hr, ho, hb]

/-- The write of a plain object, as a command and as an operation, and what every object then reads. -/
theorem configWrite_completes (k : Fin 64) (index : BitVec 16) (sub : BitVec 8) (d : Bytes) (ty : OTy) (acc : OAcc)
    (h : HostReady k.val s) (hplain : plainObject index.toNat sub.toNat = true)
    (htarget : writeTarget s k.val index.toNat sub.toNat d = .ok (ty, acc))
    (htype : typeOk s (famBase index.toNat).1 sub.toNat ty d = true) (hres : reservedOk (famBase index.toNat).1 sub.toNat d = true)
    (hstop : acc = .rws → ownerRuns s (famBase index.toNat).1 (famBase index.toNat).2 sub.toNat = false)
    (hrange : rangeOk s (famBase index.toNat).1 (famBase index.toNat).2 sub.toNat (leNat d) = true) :
    Completes (.configWrite k index sub d) k.val [] (setCfg index.toNat sub.toNat d s) s := by
  refine ⟨_, exec_configWrite s k index sub d, hostWrite_did s _ _ _ _ _ _ (setCfg_keepsBooks s _ _ d) h ?_⟩
  exact writeValue_plain (taken k.val s) k.val _ _ d ty acc hplain (by rwa [writeTarget_taken]) (by rwa [typeOk_taken]) hres
    (by rwa [ownerRuns_taken]) (by rwa [rangeOk_taken])

theorem ixideWrite_completes (k : Fin 64) (o : IxideOp) (ty : OTy) (acc : OAcc) (h : HostReady k.val s)
    (hplain : plainObject o.index.toNat o.sub.toNat = true) (hvar : otyVar ty = false)
    (htarget : writeTarget s k.val o.index.toNat o.sub.toNat o.data = .ok (ty, acc))
    (htype : typeOk s (famBase o.index.toNat).1 o.sub.toNat ty o.data = true)
    (hres : reservedOk (famBase o.index.toNat).1 o.sub.toNat o.data = true)
    (hstop : acc = .rws → ownerRuns s (famBase o.index.toNat).1 (famBase o.index.toNat).2 o.sub.toNat = false)
    (hrange : rangeOk s (famBase o.index.toNat).1 (famBase o.index.toNat).2 o.sub.toNat (leNat o.data) = true)
    (hflags : o.flags = 0) (hoff : o.offset = 0) (hok : opOk { o with op := 2 } = true) :
    Completes (.ixideWrite k o) k.val [] (setCfg o.index.toNat o.sub.toNat o.data s) s := by
  have hnone : (sess (taken k.val s) k.val).transfer = none := by rw [sess_taken]; exact h.2.2.1
  have hdrop : TakenAs s k.val (smod k.val (fun e => { e with transfer := none }) (taken k.val s)) :=
    takenAs_smod s k.val _ (by rw [← hnone])
  have hjudge : writeTarget (smod k.val (fun e => { e with transfer := none }) (taken k.val s)) k.val o.index.toNat o.sub.toNat o.data =
      .ok (ty, acc) :=
    (writeTarget_smod (taken k.val s) k.val _ _ o.data (fun e => { e with transfer := none }) (fun _ => rfl) (fun _ => rfl)).trans
      ((writeTarget_taken s k.val _ _ o.data).trans htarget)
  have hvalue := writeValue_plain _ k.val _ _ o.data ty acc hplain hjudge (by rwa [typeOk_smod, typeOk_taken]) hres
    (by rwa [ownerRuns_smod, ownerRuns_taken]) (by rwa [rangeOk_smod, rangeOk_taken])
  have hwhole := writeOp_whole (taken k.val s) k.val { o with op := 2 } hflags hoff hnone ty acc
    (length_le_writeMax s _ _ ty o.data hplain hvar htype) hjudge
  refine ⟨_, rfl, runReq_did s k.val _ _ _ (setCfg o.index.toNat o.sub.toNat o.data) hdrop (setCfg_keepsBooks s _ _ _) h rfl ?_⟩
  rw [operation_write s k.val o h hoff hok]
  exact hwhole.trans (congrArg (ofWRes _) hvalue)

/-- Index and subindex are told apart by the object's key. -/
theorem objKey_injective {a b i j : Nat} (hb : b < 256) (hj : j < 256) (h : objKey a b = objKey i j) : a = i ∧ b = j := by
  unfold objKey at h
  omega

end

/-- Settles O22: a plain object's write only sets its value, in the state in which the request executes. -/
theorem configurationWrites : Obligations.ConfigurationWrites := by
  intro s k index sub data ty acc i j u h hplain htarget hvar htype hres hstop hrange
  refine ⟨configWrite_completes s k index sub data ty acc h hplain htarget htype hres hstop hrange, fun o hi hs hd hflags hoff hok => ?_,
    cfgBytes_setCfg_same s i j data, fun a b hb hne => ?_⟩
  · subst hi hs hd
    exact ixideWrite_completes s k o ty acc h hplain hvar htarget htype hres hstop hrange hflags hoff hok
  · exact (cfgBytes_setCfg s i j data a b).trans (if_neg fun heq => hne (objKey_injective hb sub.isLt heq))

/-! ## Refused writes (R474) -/

section

variable (s : State)

theorem writeValue_refused (k i j : Nat) (d : Bytes) (c : BitVec 32) (h : writeTarget s k i j d = .error c) :
    writeValue k i j d s = .abort c := by
  unfold writeValue
  simp only [h]

theorem writeTarget_noObject (k i j : Nat) (d : Bytes) (hb : s.boot.state ≠ .recovery) (hi : idxDefined i = false) :
    writeTarget s k i j d = .error abNoObject := by
  unfold writeTarget
  simp [reachable_ready s i j hb, hi]

theorem writeTarget_noSubindex (k i j : Nat) (d : Bytes) (hb : s.boot.state ≠ .recovery) (hi : idxDefined i = true)
    (hj : objDef i j = none) : writeTarget s k i j d = .error abNoSubindex := by
  unfold writeTarget
  simp [reachable_ready s i j hb, hi, hj]

theorem writeTarget_readOnly (k i j : Nat) (d : Bytes) (ty : OTy) (df : Nat) (hb : s.boot.state ≠ .recovery)
    (hi : idxDefined i = true) (hj : objDef i j = some (ty, .ro, df)) : writeTarget s k i j d = .error abReadOnly := by
  unfold writeTarget
  simp [reachable_ready s i j hb, hi, hj]

theorem writeTarget_rights (k i j : Nat) (d : Bytes) (ty : OTy) (acc : OAcc) (df : Nat) (hb : s.boot.state ≠ .recovery)
    (hi : idxDefined i = true) (hj : objDef i j = some (ty, acc, df)) (hacc : acc ≠ .ro)
    (hr : hasRight s k (writeRight k i j d) = false) : writeTarget s k i j d = .error abRights := by
  unfold writeTarget
  simp only [reachable_ready s i j hb, hi, hj, hr]
  cases acc <;> simp_all

end

/-- Settles O23: a refused write's abort code is the first of the failing checks, and an abort changes nothing. -/
theorem refusedWriteChangesNothing : Obligations.RefusedWriteChangesNothing := by
  intro s k index sub data i j Refused h
  have ⟨_, _, _, _, hboot⟩ := h
  have hb : (taken k.val s).boot.state ≠ .recovery := by rwa [taken_boot]
  have hrefused : ∀ code, code ≠ 0 → writeValue k.val i j data (taken k.val s) = .abort code → Refused code := fun code hc hw =>
    ⟨_, exec_configWrite s k index sub data, by
      rw [hostWrite_abort s k.val i j data code h hw]; exact refused_abort s k.val code hc⟩
  have hjudged : ∀ code, code ≠ 0 → writeTarget (taken k.val s) k.val i j data = .error code → Refused code := fun code hc ht =>
    hrefused code hc (writeValue_refused _ _ _ _ _ code ht)
  refine ⟨hrefused, fun hi => ?_, fun hi hj => ?_, fun ty d hi hj => ?_, fun ty acc d hi hj hacc hr => ?_⟩
  · exact hjudged _ (by decide) (writeTarget_noObject _ _ _ _ _ hb hi)
  · exact hjudged _ (by decide) (writeTarget_noSubindex _ _ _ _ _ hb hi hj)
  · exact hjudged _ (by decide) (writeTarget_readOnly _ _ _ _ _ ty d hb hi hj)
  · exact hjudged _ (by decide) (writeTarget_rights _ _ _ _ _ ty acc d hb hi hj hacc (by rwa [hasRight_taken]))

end Sys2Proof.Machine
end

section
/-!
PROOF. Objects of a session (R12, R456, R469, R482, R485): writes that pass the checks of R474 in the state in which the request
executes, requests that change a field of a session, and EVENTS, DESCRIBE, the NONCE and the CLOSE of a session.
-/

namespace Sys2Proof.Machine

open Claims

section

variable (s : State)

/-! ## A write that passes its checks, in the state in which it executes -/

/-- The write passes every check of R474 up to the object's own rules. -/
def WritePasses (k i j : Nat) (d : Bytes) : Prop :=
  ∃ ty acc df, objDef i j = some (ty, acc, df) ∧ acc ≠ .ro ∧ hasRight s k (writeRight k i j d) = true ∧
    notOwner s k i j = false ∧ typeOk s (famBase i).1 j ty d = true ∧ reservedOk (famBase i).1 j d = true ∧
    (acc = .rws → ownerRuns s (famBase i).1 (famBase i).2 j = false) ∧
    (otyVar ty = false → rangeOk s (famBase i).1 (famBase i).2 j (leNat d) = true)

/-- It then has the object's effect on the state in which the request executes. -/
theorem writeValue_taken {k i j : Nat} {d : Bytes} (hready : HostReady k s) (h : WritePasses s k i j d) :
    writeValue k i j d (taken k s) = writeEffect k i j d (taken k s) := by
  obtain ⟨ty, acc, df, hdef, hacc, hright, howner, htype, hres, hstop, hrange⟩ := h
  have ⟨_, _, _, _, hboot⟩ := hready
  have htarget := writeTarget_ok (taken k s) k i j d ty acc df (reachable_ready _ i j (by rwa [taken_boot]))
    (idxDefined_of_objDef hdef) hdef hacc (by rwa [hasRight_taken]) (by rwa [notOwner_taken])
  exact writeValue_effect (taken k s) k i j d ty acc htarget (by rwa [typeOk_taken]) hres (by rwa [ownerRuns_taken])
    (by rwa [rangeOk_taken])

/-- A write whose effect leaves the session's books alone is answered with that effect (R468, R470). -/
theorem hostWrite_effect (k i j : Nat) (d r : Bytes) (f : State → State) (hready : HostReady k s) (h : WritePasses s k i j d)
    (hf : KeepsBooks f s) (he : writeEffect k i j d (taken k s) = .done r (f (taken k s))) :
    Did k { data := r } (f s) s (hostWrite k i j d s) :=
  hostWrite_did s k i j d r f hf hready ((writeValue_taken s hready h).trans he)

/-- A refused write changes nothing (R11, R474). -/
theorem hostWrite_refused (k i j : Nat) (d : Bytes) (c : BitVec 32) (hready : HostReady k s) (h : WritePasses s k i j d) (hc : c ≠ 0)
    (he : writeEffect k i j d (taken k s) = .abort c) : RefusedWith k c s (hostWrite k i j d s) := by
  rw [hostWrite_abort s k i j d c hready ((writeValue_taken s hready h).trans he)]
  exact refused_abort s k c hc

/-! ## Requests that change a session -/

/-- The change of a session touches nothing that taking or answering a request does. -/
def SessionField (g : Session → Session) : Prop :=
  (∀ (e : Session) (h : Nat) (l : BitVec 32) (b : Bool) (a : Bytes), g { e with heard := h, last := l, busy := b, source := a } =
    { g e with heard := h, last := l, busy := b, source := a }) ∧
  ∀ e : Session, (g e).open_ = e.open_ ∧ (g e).port = e.port ∧ (g e).gen = e.gen

/-- What a request leaves that changes session `j` beside its effect. -/
theorem sess_smod_effect {k j : Nat} {f : State → State} {g : Session → Session} (hf : KeepsBooks f s) (hg : j = k → SessionField g) :
    sess (smod j g (f (taken k s))) k = { sess (smod j g (f s)) k with
      heard := now s, last := (sess s k).last + 1, busy := true, source := (sess s k).peer } := by
  have hsess := sess_effect s hf (takenAs_taken s k)
  rw [sess_smod, sess_smod]
  split
  next h =>
    subst h
    rw [hsess, hf.sess_eq]
    exact (hg rfl).1 _ _ _ _ _
  next => rw [hsess, hf.sess_eq]

/-- A request that is done and changed a session is answered, with its effect (R468, R470). -/
theorem runReq_did_smod (k j : Nat) (q : State → ReqRes) (r : Reply) (f : State → State) (g : Session → Session) (hf : KeepsBooks f s)
    (hg : j = k → SessionField g) (h : HostReady k s) (hr : r.abort = 0)
    (hq : q (taken k s) = .done r (smod j g (f (taken k s)))) : Did k r (smod j g (f s)) s (runReq k q s) := by
  have hsess := sess_smod_effect s hf hg
  have hu : (sess (smod j g (f s)) k).open_ = (sess s k).open_ ∧ (sess (smod j g (f s)) k).port = (sess s k).port ∧
      (sess (smod j g (f s)) k).gen = (sess s k).gen := by
    rw [sess_smod]
    split
    next hjk =>
      subst hjk
      rw [hf.sess_eq]
      exact (hg rfl).2 _
    next => rw [hf.sess_eq]; exact ⟨rfl, rfl, rfl⟩
  obtain ⟨hopen, hport, hgen⟩ := hu
  have heq := effect_takenAs s hf (takenAs_taken s k)
  have hcount : ∀ n, tblGet 0 (smod j g (f (taken k s))).counters n =
      if n = objKey 0x741e 1 then counter (f s) 0x741e 1 + 1 else tblGet 0 (f s).counters n := fun n => by
    rw [smod_counters, heq, counter, hf.counters_eq]
    exact tblGet_set ..
  rw [runReq_ready s k q h, hq]
  show Did k r _ s (if _ ∧ _ then answer k r (smod j g (f (taken k s))) else _)
  rw [if_pos ⟨by rw [hsess]; exact hopen.trans h.1, by rw [hsess, sess_taken]; exact hgen⟩]
  apply did_answer s k r hr (smod j g (f s)) (smod j g (f (taken k s)))
  · rw [heq]
    rfl
  · exact hsess
  · exact ⟨hport, hgen⟩
  · intro n hn
    have hother : sess (f (taken k s)) n = sess (f s) n := by
      rw [hf.sess_taken_eq, sess_taken_other s k n hn, hf.sess_eq]
    rw [sess_smod, sess_smod, hother]
    split
    next hnj => rw [← hnj, hother]
    next => rfl
  · exact (hcount _).trans (if_pos rfl)
  · intro n hn
    exact (hcount n).trans (if_neg (by simpa [objKey] using hn))

end

section

variable (s : State)

/-- A dictionary write of a session in no transfer is one whole write (R471). -/
theorem wholeWrite_taken (k i j : Nat) (d : Bytes) (h : HostReady k s) :
    wholeWrite k i j d (taken k s) = ofWRes (taken k s) (writeValue k i j d (taken k s)) := by
  have hnone : (sess (taken k s) k).transfer.isSome = false := by simp [sess_taken, h.2.2.1]
  unfold wholeWrite
  rw [hnone]
  rfl

/-- A write that changes a session is answered with its effect. -/
theorem hostWrite_effect_smod (k i j n : Nat) (d r : Bytes) (f : State → State) (g : Session → Session) (hready : HostReady k s)
    (h : WritePasses s k i j d) (hf : KeepsBooks f s) (hg : n = k → SessionField g)
    (he : writeEffect k i j d (taken k s) = .done r (smod n g (f (taken k s)))) :
    Did k { data := r } (smod n g (f s)) s (hostWrite k i j d s) := by
  refine runReq_did_smod s k n _ { data := r } f g hf hg hready rfl ?_
  rw [wholeWrite_taken s k i j d hready, writeValue_taken s hready h, he]
  rfl

end

/-! ## EVENTS (R12, R482) -/

section

variable (s : State)

theorem clearEvents_keepsBooks (v : BitVec 32) : KeepsBooks (clearEvents v) s := fun _ _ _ => rfl

theorem bit_clearEvents (v : BitVec 32) (n : Nat) (hn : n < 32) :
    (clearEvents v s).events.getLsbD n = (s.events.getLsbD n && (!(v.getLsbD n) || (eventsFresh s).getLsbD n)) := by
  simp [clearEvents, hn]

/-- A bit set in the present tick is fresh (R12). -/
theorem bit_eventsFresh_setEvent (n : Nat) (hn : n < 32) :
    (setEvent n s).events.getLsbD n = true ∧ (eventsFresh (setEvent n s)).getLsbD n = true := by
  have hbit : (BitVec.ofNat 32 (1 <<< n)).getLsbD n = true := by
    rw [BitVec.getLsbD_ofNat, Nat.one_shiftLeft, Nat.testBit_two_pow_self]
    simp [hn]
  have hfresh : eventsFresh (setEvent n s) = eventsFresh s ||| BitVec.ofNat 32 (1 <<< n) := if_pos rfl
  constructor
  · show (s.events ||| BitVec.ofNat 32 (1 <<< n)).getLsbD n = true
    rw [BitVec.getLsbD_or, hbit, Bool.or_true]
  · rw [hfresh, BitVec.getLsbD_or, hbit, Bool.or_true]

theorem clearEvents_setEvent (v : BitVec 32) (n : Nat) (hn : n < 32) :
    (clearEvents v (setEvent n s)).events.getLsbD n = true := by
  obtain ⟨hset, hfresh⟩ := bit_eventsFresh_setEvent s n hn
  rw [bit_clearEvents _ v n hn, hset, hfresh]
  simp

/-- A number read back from its bytes. -/
theorem leNat_leBytes_toNat (w : Nat) (n : Nat) (v : BitVec w) (h : w = 8 * n) : leNat (leBytes n v.toNat) = v.toNat := by
  rw [leNat_leBytes, ← h]
  exact Nat.mod_eq_of_lt v.isLt

/-- A number without a bit above the lowest 12 is below 4,096. -/
theorem and_lowMask {v : BitVec 32} (h : v &&& 0xfffff000 = 0) : v.toNat &&& 0xfff = v.toNat := by
  have hsplit : v &&& 0xfff ||| v &&& 0xfffff000 = v := by
    rw [← BitVec.and_or_distrib_left]
    exact BitVec.and_allOnes
  rw [h] at hsplit
  change v &&& 0xfff ||| 0#32 = v at hsplit
  rw [BitVec.or_zero] at hsplit
  exact (BitVec.toNat_and v 0xfff).symm.trans (congrArg BitVec.toNat hsplit)

theorem eventsClear_passes (k : Nat) (v : BitVec 32) (h : HostMay k 1 s) (hv : v &&& 0xfffff000 = 0) :
    WritePasses s k 0x2003 2 (leBytes 4 v.toNat) := by
  have hfam : famBase 0x2003 = (0x2003, 0) := by decide
  have hmask := and_lowMask hv
  refine ⟨.u32, .w1c, 1, by decide, by decide, ?_, ?_, ?_, ?_, nofun, fun _ => ?_⟩
  · simpa [writeRight, hfam] using h.2
  · simp [notOwner, hfam]
  · simp [typeOk, otyLen]
  · simp [reservedOk, valueMask, zeroFields, recordHeader, hfam, sel, tblGet, leNat_leBytes_toNat, hmask]
  · simp [rangeOk, rangeLow, hfam, sel, tblGet]

theorem writeEffect_events (k : Nat) (v : BitVec 32) :
    writeEffect k 0x2003 2 (leBytes 4 v.toNat) s = .done [] (clearEvents v s) := by
  have hfam : famBase 0x2003 = (0x2003, 0) := by decide
  have hv : BitVec.ofNat 32 (leNat (leBytes 4 v.toNat)) = v := by rw [leNat_leBytes_toNat 32 4 v rfl, BitVec.ofNat_toNat]; simp
  simp [writeEffect, writeDevice, hfam, hv]

/-! ## DESCRIBE (R485) -/

theorem describe_passes (k : Nat) (d : Bytes) (h : HostMay k 1 s) (hlen : d.length = 8) (hzero : ∀ i, 3 ≤ i → i < 8 → d.getD i 0 = 0) :
    WritePasses s k 0xf000 2 d := by
  have hfam : famBase 0xf000 = (0xf000, 0) := by decide
  have hchunk : chunksOf 8 d = [d] := by
    simp [chunksOf, ceilDiv, hlen]
  have hbyte : ∀ i, 3 ≤ i → i < 8 → nth 0 d i = 0 := hzero
  refine ⟨.blob 8, .rw, 0, by decide, by decide, ?_, ?_, ?_, ?_, nofun, nofun⟩
  · simpa [writeRight, hfam] using h.2
  · simp [notOwner, hfam]
  · simp [typeOk, blobLenOk, hfam, hlen, sel, tblGet]
  · simp [reservedOk, valueMask, zeroFields, recordHeader, hfam, sel, tblGet, hchunk]
    exact ⟨hbyte 3 (by omega) (by omega), hbyte 4 (by omega) (by omega), hbyte 5 (by omega) (by omega),
      hbyte 6 (by omega) (by omega), hbyte 7 (by omega) (by omega)⟩

theorem writeEffect_describe (k : Nat) (d : Bytes) : writeEffect k 0xf000 2 d s =
    .done [] (smod k (fun e => { e with describe := describeBytes (fieldAt d 0 2) (fieldAt d 2 1) }) s) := by
  have hfam : famBase 0xf000 = (0xf000, 0) := by decide
  simp [writeEffect, writeRest, hfam]

/-! ## The NONCE (R456) -/

/-- The 32 bytes that the next draw yields. -/
def nextNonce : Bytes := (List.range 32).map (Config.freeByte s.freeCtr)

/-- The NONCE `n` drawn. -/
def nonceDrawn (n : Bytes) (u : State) : State :=
  { u with freeCtr := u.freeCtr + 1, boot := { u.boot with nonce := some n } }

theorem drawNonce_works (h : works s 21 = true) : drawNonce s = (nextNonce s, nonceDrawn (nextNonce s) s) := by
  unfold drawNonce
  rw [if_pos h]
  rfl

/-- A BLOB read whole from OFFSET 0 is answered and kept as the session's snapshot (R471). -/
theorem operation_readWhole (k i j n : Nat) (v : Bytes) (w : State) (m : Nat) (acc : OAcc) (d : Nat) (hi : i < 65536) (hj : j < 256)
    (hn : n < 65536) (hready : HostReady k s) (hok : opOk (readCmd i j n) = true) (hdef : objDef i j = some (.blob m, acc, d))
    (hacc : acc ≠ .wo) (hright : hasRight s k (readRight i j) = true) (howner : notOwner s k i j = false)
    (hvalue : readValue k i j (taken k s) = (v, w)) (hlen : v.length = n) :
    operation k (readCmd i j n) (taken k s) = .done { data := v, total := n }
      (smod k (fun e => { e with snapshot := some (objKey i j, v) }) w) := by
  have ⟨_, _, _, _, hboot⟩ := hready
  have htarget : readTarget (taken k s) k i j = .ok (.blob m) :=
    readTarget_ok (taken k s) k i j (.blob m) acc d (by rwa [taken_boot]) hdef hacc (by rwa [hasRight_taken]) (by rwa [notOwner_taken])
  have hindex : (readCmd i j n).index.toNat = i := Nat.mod_eq_of_lt hi
  have hsub : (readCmd i j n).sub.toNat = j := Nat.mod_eq_of_lt hj
  have hcount : (readCmd i j n).count.toNat = n := Nat.mod_eq_of_lt hn
  have hkey : opKey (readCmd i j n) = objKey i j := by rw [opKey, hindex, hsub]
  have htake : v.take n = v := List.take_of_length_le hlen.le
  have hread : readOp k (readCmd i j n) (taken k s) = .done { data := v.take n, total := v.length }
      (smod k (fun e => { e with snapshot := some (objKey i j, v) }) w) := by
    unfold readOp
    simp only [hindex, hsub, hcount, htarget, hvalue, hkey]
    rfl
  rw [htake, hlen] at hread
  exact (operation_read s k (readCmd i j n) hready rfl hok).trans hread

/-- A NONCE drawn is read, and kept as the session's snapshot (R456, R471). -/
theorem operation_nonce (k : Nat) (h : HostMay k 7 s) (hworks : works s 21 = true) :
    operation k (readCmd 0x2001 4 32) (taken k s) = .done { data := nextNonce s, total := 32 }
      (smod k (fun e => { e with snapshot := some (objKey 0x2001 4, nextNonce s) }) (nonceDrawn (nextNonce s) (taken k s))) := by
  have hfam : famBase 0x2001 = (0x2001, 0) := by decide
  have hworks' : works (taken k s) 21 = true := by rw [works, domainOn, domainOn, taken_power]; exact hworks
  have hnext : nextNonce (taken k s) = nextNonce s := by rw [nextNonce, taken_freeCtr, nextNonce]
  have hdraw : readValue k 0x2001 4 (taken k s) = (nextNonce s, nonceDrawn (nextNonce s) (taken k s)) := by
    rw [← hnext]
    exact drawNonce_works _ hworks'
  exact operation_readWhole s k 0x2001 4 32 _ _ 32 .ro 0 (by decide) (by decide) (by decide) h.1 (by decide) (by decide) (by decide)
    h.2 (by simp [notOwner, hfam]) hdraw (by simp [nextNonce])

/-! ## CLOSE of another session (R469) -/

theorem sessionClose_passes (k j : Fin 64) (h : HostMay k.val 11 s) (hne : j ≠ k) :
    WritePasses s k.val (0x1180 + j.val) 7 [1] := by
  have hfam := famBase_session j
  have hdef : ∀ j : Fin 64, objDef (0x1180 + j.val) 7 = some (.u8, .wo, 0) := by decide
  refine ⟨.u8, .wo, 0, hdef j, by decide, ?_, ?_, ?_, ?_, nofun, fun _ => ?_⟩
  · have hv : j.val ≠ k.val := fun e => hne (Fin.ext e)
    simpa [writeRight, hfam, hv] using h.2
  · simp [notOwner, hfam]
  · simp [typeOk, otyLen]
  · simp [reservedOk, valueMask, zeroFields, recordHeader, hfam, sel, tblGet]
  · simp [rangeOk, rangeLow, hfam, sel, tblGet]

/-- The update of session `j` as it stands in `s` is aborted (R453, R469). -/
def updateDropped (j : Nat) (u : State) : State :=
  if u.boot.update.owner = some (j, (sess s j).gen) then { u with boot := { u.boot with update := {} } } else u

theorem updateDropped_keepsBooks (j : Nat) : KeepsBooks (updateDropped s j) s := fun _ _ _ => by
  unfold updateDropped
  split <;> rfl

theorem writeEffect_sessionClose (k j : Fin 64) (hne : j ≠ k) (hopen : (sess s j.val).open_ = true) :
    writeEffect k.val (0x1180 + j.val) 7 [1] (taken k.val s) =
      .done [] (smod j.val (fun e => { gen := e.gen + 1 }) (updateDropped s j.val (taken k.val s))) := by
  have hfam := famBase_session j
  have hv : j.val ≠ k.val := fun e => hne (Fin.ext e)
  have hsess := sess_taken_other s k.val j.val hv
  have hclose := closeSession_open (taken k.val s) j.val (by rw [hsess]; exact hopen)
  have hdrop : dropUpdate j.val (taken k.val s) = updateDropped s j.val (taken k.val s) := by
    unfold dropUpdate updateDropped
    rw [hsess]
  rw [hdrop] at hclose
  simp [writeEffect, writeDevice, hfam, closeWrite, leNat, hclose]

end

/-- Settles O24: each is a request whose effect is on EVENTS, on its own session, on the NONCE, or on another session. -/
theorem sessionObjects : Obligations.SessionObjects := by
  intro s k
  refine ⟨fun v h hv => ⟨⟨_, rfl, ?_⟩, fun n hn => ⟨bit_clearEvents s v n hn, clearEvents_setEvent s v n hn⟩⟩, fun d h hlen hzero =>
    ⟨_, rfl, ?_⟩, ?_, fun j hne h hopen => ⟨_, rfl, ?_⟩⟩
  · exact hostWrite_effect s k.val 0x2003 2 _ [] (clearEvents v) h.1 (eventsClear_passes s k.val v h hv) (clearEvents_keepsBooks s v)
      (writeEffect_events (taken k.val s) k.val v)
  · exact hostWrite_effect_smod s k.val 0xf000 2 k.val d [] (fun u => u) _ h.1 (describe_passes s k.val d h hlen hzero)
      (keepsBooks_id s) (fun _ => ⟨fun _ _ _ _ _ => rfl, fun _ => ⟨rfl, rfl, rfl⟩⟩) (writeEffect_describe (taken k.val s) k.val d)
  · intro h hworks n
    refine ⟨_, rfl, ?_⟩
    exact runReq_did_smod s k.val k.val _ { data := nextNonce s, total := 32 } (nonceDrawn (nextNonce s)) _ (fun _ _ _ => rfl)
      (fun _ => ⟨fun _ _ _ _ _ => rfl, fun _ => ⟨rfl, rfl, rfl⟩⟩) h.1 rfl (operation_nonce s k.val h hworks)
  · exact hostWrite_effect_smod s k.val (0x1180 + j.val) 7 j.val [1] [] (updateDropped s j.val) _ h.1 (sessionClose_passes s k j h hne)
      (updateDropped_keepsBooks s j.val) (fun e => absurd (Fin.ext e) hne) (writeEffect_sessionClose s k j hne hopen)

end Sys2Proof.Machine
end

section
/-!
PROOF. What a job that ends gives back (R64, R144, R176, R177, R235, R271): the parts of the state that its release can change,
one lemma for each operation that it uses.
-/

namespace Sys2Proof.Machine

open Claims

/-- Tiles, channels, pages, homes and what leaves for peers may have changed; jobs, queues, sessions, the clock, configuration and every
unit have not, nor any counter but 0x7412:03. -/
structure Releases (s t : State) : Prop where
  eq : t = { s with
    out := t.out, fabric := t.fabric, channels := t.channels, counters := t.counters,
    sluice := { s.sluice with dying := t.sluice.dying, nextDying := t.sluice.nextDying },
    raised := t.raised, tiles := t.tiles, clusters := t.clusters, reserve := t.reserve,
    streams := { s.streams with export_ := t.streams.export_ },
    pages := { s.pages with entries := t.pages.entries, ended := t.pages.ended },
    dir := { s.dir with tensors := t.dir.tensors, old := t.dir.old, poison := t.dir.poison }, mem := t.mem,
    power := { s.power with prearm := t.power.prearm, overJobs := t.power.overJobs } }
  counters : CountersBut [0x741203] s t

namespace Releases

variable {s t u : State}

theorem refl (s : State) : Releases s s := ⟨rfl, fun _ _ => rfl⟩

theorem trans (h : Releases s t) (k : Releases t u) : Releases s u where
  eq := by rw [k.eq, h.eq]
  counters := CountersBut_trans h.counters k.counters

theorem of_eq (h : t = { s with
    out := t.out, fabric := t.fabric, channels := t.channels,
    sluice := { s.sluice with dying := t.sluice.dying, nextDying := t.sluice.nextDying },
    raised := t.raised, tiles := t.tiles, clusters := t.clusters, reserve := t.reserve,
    streams := { s.streams with export_ := t.streams.export_ },
    pages := { s.pages with entries := t.pages.entries, ended := t.pages.ended },
    dir := { s.dir with tensors := t.dir.tensors, old := t.dir.old, poison := t.dir.poison }, mem := t.mem,
    power := { s.power with prearm := t.power.prearm, overJobs := t.power.overJobs } }) : Releases s t where
  eq := h.trans (by rw [h])
  counters := countersBut_of_counters _ (congrArg State.counters h :)

theorem forEach {α : Type} (l : List α) (f : α → State → State) (h : ∀ a u, Releases u (f a u)) (s : State) :
    Releases s (forEach l f s) :=
  forEach_rel Releases refl (fun _ _ _ h k => h.trans k) f l (fun a _ u => h a u) s

end Releases

/-! ## Each operation -/

section

variable (s : State)

theorem pokeCistern_releases (a : Nat) (b : Bytes) : Releases s (pokeCistern a b s) :=
  .of_eq (by rw [pokeCistern_eq])

theorem entryMod_releases (e : Nat) (f : Entry → Entry) : Releases s (entryMod e f s) :=
  .trans (.of_eq rfl) (pokeCistern_releases _ _ _)

theorem reclaimEntry_releases (e : Nat) : Releases s (reclaimEntry e s) := entryMod_releases ..

theorem reclaim_releases : Releases s (reclaim s) := by
  unfold reclaim
  split
  · exact .refl s
  · exact .trans (.trans (.of_eq rfl) (.forEach _ _ (fun e u => reclaimEntry_releases u e) _))
      (.forEach _ _ (fun e u => reclaimEntry_releases u e) _)

theorem endReserved_releases (es : List Nat) : Releases s (endReserved es s) := .of_eq rfl

theorem releasePins_releases (j : Job) : Releases s (releasePins j s) := .forEach _ _ (fun e u => entryMod_releases u e _) s

theorem loadBlock_releases (t : Nat) (es : List (BitVec 48)) : Releases s (loadBlock t es s) := .of_eq rfl

theorem restoreRollback_releases (n : Nat) : Releases s (restoreRollback n s) := by
  unfold restoreRollback
  simp only
  split
  · refine .trans (.forEach _ _ (fun t u => ?_) s) ⟨rfl, countersBut_count _ _ _ _ _ (by decide)⟩
    split
    · exact loadBlock_releases ..
    · exact .refl u
  · exact .refl s

theorem wipeExport_releases (ts : List Nat) : Releases s (wipeExport ts s) := .of_eq rfl

theorem abandonWait_releases (t : Nat) : Releases s (abandonWait t s) := by
  unfold abandonWait
  split
  · exact .refl s
  · simp only
    split <;> exact .of_eq rfl

theorem stopTasks_releases (j : Job) : Releases s (stopTasks j s) :=
  .trans (.forEach _ _ (fun t u => abandonWait_releases u t) s) (.of_eq rfl)

theorem emitFabric_releases (p : Nat) (f : OutFrame) : Releases s (emitFabric p f s) := by
  unfold emitFabric
  split <;> exact .of_eq rfl

theorem sendPackets_releases (p peer qp : Nat) (op : RoceOp) (a : Nat) (d : Bytes) :
    Releases s (sendPackets p peer qp op a d s) :=
  .forEach _ _ (fun f u => emitFabric_releases u p f) s

theorem peerWrite_releases (m a : Nat) (d : Bytes) : Releases s (peerWrite m a d s) := by
  unfold peerWrite
  split
  · exact .refl s
  · exact sendPackets_releases ..

theorem freeAquifer_releases (a : Nat) : Releases s (freeAquifer s a) := by
  unfold freeAquifer
  split
  · exact peerWrite_releases ..
  · exact .refl s

theorem reapReplicas_releases : Releases s (reapReplicas s) := .forEach _ _ (fun _ _ => .of_eq rfl) s

theorem reapHomes_releases : Releases s (reapHomes s) := by
  have hfold : ∀ (l : List OldHome) (u : State),
      Releases u (l.foldl (fun s o => if o.aquifer then freeAquifer s o.extent.addr else s) u) := fun l u =>
    .forEach l (fun o s => if o.aquifer then freeAquifer s o.extent.addr else s) (fun o u => by
      split
      · exact freeAquifer_releases ..
      · exact .refl u) u
  exact .trans (.trans (hfold _ s) (.of_eq rfl)) (reapReplicas_releases _)

theorem newReq_releases (m : Nat) (o : RoceOwner) (op : RoceOp) (a : Nat) (d : Bytes) : Releases s (newReq m o op a d s) := by
  unfold newReq
  split
  · exact .refl s
  · simp only
    split
    · exact .trans (.of_eq rfl) (sendPackets_releases ..)
    · exact .of_eq rfl

theorem fencePeer_releases (ch t : Nat) : Releases s (fencePeer ch t s) := by
  unfold fencePeer
  split
  · exact newReq_releases ..
  · exact .refl s

theorem beginFence_releases (ch t : Nat) : Releases s (beginFence ch t s) := .trans (.of_eq rfl) (fencePeer_releases ..)

theorem fenceTargets_releases (ch : Nat) : Releases s (fenceTargets ch s) :=
  .trans (.forEach _ _ (fun t u => beginFence_releases u ch t) s) (.of_eq rfl)

theorem stopChannels_releases (tag : BitVec 32) (f : Posted → Posted) : Releases s (stopChannels tag f s) := .of_eq rfl

theorem dropPrearm_releases (tag : BitVec 32) : Releases s (dropPrearm tag s) := .of_eq rfl

theorem buryAttempt_releases (j : Job) (image : Option Extent) (resv : List Nat) : Releases s (buryAttempt j image resv s) := by
  have hstop := Releases.trans (stopChannels_releases s j.tag (fun p => { p with dead := some s.sluice.nextDying }))
    (.forEach ((jobChannels j).filter (fun ch => decide (ch ∉ (jobChannels j).filter (headRuns s j.tag)) &&
      decide ((chanOf (stopChannels j.tag (fun p => { p with dead := some s.sluice.nextDying }) s) ch).targets ≠ []))) fenceTargets
      (fun ch u => fenceTargets_releases u ch) _)
  unfold buryAttempt
  simp only
  split
  · exact .trans (hstop.trans (.of_eq rfl)) (endReserved_releases ..)
  · exact hstop.trans (.of_eq rfl)

end

/-! ## The release of a job -/

section

variable (s : State)

theorem jdel_releases {s u : State} (h : Releases s u) (g : BitVec 32) : Releases (jdel g s) (jdel g u) where
  eq := by rw [h.eq]; rfl
  counters := h.counters

theorem ite_releases {c : Prop} [Decidable c] {a b : State} (ha : Releases s a) (hb : Releases s b) :
    Releases s (if c then a else b) := by
  split
  · exact ha
  · exact hb

/-- A job that ends leaves the Sluice, and gives back what it holds (R64). -/
theorem releaseJob_releases (j : Job) (done : Bool) : Releases (jdel j.tag s) (releaseJob j done s) := by
  unfold releaseJob
  extract_lets ran s₁ s₂ s₃ s₄ s₅ power s₆
  have h₁ : Releases s s₁ := ite_releases s (stopTasks_releases ..) (.refl s)
  have h₂ : Releases s₁ s₂ := by
    simp only [s₂]
    split
    · exact ite_releases _ (restoreRollback_releases ..) (.refl _)
    · exact .refl _
  have h₃ : Releases s₂ s₃ := wipeExport_releases ..
  have h₄ : Releases s₃ s₄ := ite_releases _ (buryAttempt_releases ..) (.trans (.of_eq rfl) (endReserved_releases ..))
  have h₅ : Releases s₄ s₅ := releasePins_releases ..
  have h₆ : Releases s₅ s₆ := .trans (.of_eq rfl) (dropPrearm_releases ..)
  exact (jdel_releases (h₁.trans (h₂.trans (h₃.trans (h₄.trans (h₅.trans h₆))))) j.tag).trans
    (.trans (reapHomes_releases _) (reclaim_releases _))

end

end Sys2Proof.Machine
end

section
/-!
PROOF. How a job ends (R42, R48, R62, R64, R69): what a completion, a flush and a cancel can change, and where the record of the
job goes.
-/

namespace Sys2Proof.Machine

open Claims

/-! ## Notify frames leave the session's protocol alone -/

/-- Only what waits for the session, and the marks of lost frames, may differ. -/
def NotifiedOnly (e e' : Session) : Prop := e' = { e with queue := e'.queue, lost := e'.lost, lostFlag := e'.lostFlag }

theorem NotifiedOnly_trans {a b c : Session} (h : NotifiedOnly a b) (k : NotifiedOnly b c) : NotifiedOnly a c := by
  unfold NotifiedOnly at *
  rw [k, h]

section

variable (s : State)

theorem sess_notifyDropped_only (k j : Nat) : NotifiedOnly (sess s j) (sess (notifyDropped k s) j) := by
  rw [sess_notifyDropped]
  split
  next h => rw [h]; rfl
  next => rfl

theorem sess_smod_only (k j : Nat) (g : Session → Session) (hg : ∀ e, NotifiedOnly e (g e)) :
    NotifiedOnly (sess s j) (sess (smod k g s) j) := by
  rw [sess_smod]
  split
  next h => rw [h]; exact hg _
  next => rfl

theorem sess_notify_only (k j : Nat) (n : Notify) : NotifiedOnly (sess s j) (sess (notify k n s) j) := by
  unfold notify
  split
  · refine sess_smod_only s k j _ ?_
    exact fun _ => rfl
  · split
    · refine NotifiedOnly_trans (sess_smod_only s k j (fun e => { e with queue := e.queue.drop 1 ++ [n] }) ?_)
        (sess_notifyDropped_only _ k j)
      exact fun _ => rfl
    · exact sess_notifyDropped_only s k j

/-- A frame offered counts at most 0x741e:08. -/
theorem countersBut_notify (k : Nat) (n : Notify) : CountersBut [0x741e08] s (notify k n s) := by
  have hdrop : ∀ u : State, CountersBut [0x741e08] u (notifyDropped k u) := fun u =>
    countersBut_count (smod k _ u) 0x741e 8 1 _ (by decide)
  unfold notify
  split
  · exact countersBut_of_counters _ rfl
  · split
    · exact hdrop (smod k _ s)
    · exact hdrop s

end

/-! ## A job that ends -/

/-- What the end of jobs can change: what a release gives back, the jobs that go, queues and partitions that are settled, notify frames
that wait, event bits and counters. The clock, configuration, safe state and every unit stay. -/
structure Ending (s t : State) : Prop where
  eq : t = { s with
    out := t.out, fabric := t.fabric, channels := t.channels, counters := t.counters, events := t.events, eventsAt := t.eventsAt,
    eventsNew := t.eventsNew, sessions := t.sessions, queues := t.queues, parts := t.parts,
    sluice := { s.sluice with jobs := t.sluice.jobs, dying := t.sluice.dying, nextDying := t.sluice.nextDying },
    raised := t.raised, tiles := t.tiles, clusters := t.clusters, reserve := t.reserve,
    streams := { s.streams with export_ := t.streams.export_ },
    pages := { s.pages with entries := t.pages.entries, ended := t.pages.ended },
    dir := { s.dir with tensors := t.dir.tensors, old := t.dir.old, poison := t.dir.poison }, mem := t.mem,
    power := { s.power with prearm := t.power.prearm, overJobs := t.power.overJobs } }
  jobs : t.sluice.jobs.Sublist s.sluice.jobs
  sess : ∀ k, NotifiedOnly (sess s k) (sess t k)
  queue : ∀ q, ∃ rs st, qget t q = { qget s q with records := (qget s q).records ++ rs, state := st }

namespace Ending

variable {s t u : State}

theorem refl (s : State) : Ending s s := ⟨rfl, .refl _, fun _ => rfl, fun q => ⟨[], (qget s q).state, by simp⟩⟩

theorem trans (h : Ending s t) (k : Ending t u) : Ending s u where
  eq := by rw [k.eq, h.eq]
  jobs := k.jobs.trans h.jobs
  sess n := NotifiedOnly_trans (h.sess n) (k.sess n)
  queue q := by
    obtain ⟨rs, st, hq⟩ := h.queue q
    obtain ⟨rs', st', hq'⟩ := k.queue q
    exact ⟨rs ++ rs', st', by rw [hq', hq, List.append_assoc]⟩

theorem forEach {α : Type} (l : List α) (f : α → State → State) (h : ∀ a u, Ending u (f a u)) (s : State) :
    Ending s (forEach l f s) :=
  forEach_rel Ending refl (fun _ _ _ h k => h.trans k) f l (fun a _ u => h a u) s

theorem of_releases (h : Releases s t) : Ending s t where
  eq := h.eq.trans (by rw [h.eq])
  jobs := by rw [h.eq]
  sess k := by rw [h.eq]; rfl
  queue q := ⟨[], (qget s q).state, by rw [h.eq]; simp [qget]⟩

/-- A step of counters, events, sessions' frames and partitions. -/
theorem of_books (h : t = { s with
    counters := t.counters, events := t.events, eventsAt := t.eventsAt, eventsNew := t.eventsNew, sessions := t.sessions, parts := t.parts })
    (hs : ∀ k, NotifiedOnly (Machine.sess s k) (Machine.sess t k)) : Ending s t where
  eq := h.trans (by rw [h])
  jobs := by rw [h]
  sess := hs
  queue q := ⟨[], (qget s q).state, by rw [h]; simp [qget]⟩

end Ending

section

variable (s : State)

theorem jdel_ending (g : BitVec 32) : Ending s (jdel g s) where
  eq := rfl
  jobs := List.filter_sublist
  sess _ := rfl
  queue q := ⟨[], (qget s q).state, by simp⟩

theorem releaseJob_ending (j : Job) (done : Bool) : Ending s (releaseJob j done s) :=
  (jdel_ending s j.tag).trans (.of_releases (releaseJob_releases s j done))

theorem settlePart_ending (p : Nat) : Ending s (settlePart p s) := by
  unfold settlePart
  split
  · exact .of_books rfl (fun _ => rfl)
  · exact .refl s

theorem settleQueue_ending (q : Nat) : Ending s (settleQueue q s) := by
  unfold settleQueue
  split
  · refine ⟨rfl, .refl _, fun _ => rfl, fun n => ⟨[], if n = q then .stopped else (qget s n).state, ?_⟩⟩
    rw [qget_qmod]
    split
    next h => rw [h]; simp
    next => simp
  · exact .refl s

theorem count_ending (i j n : Nat) : Ending s (count i j n s) := .of_books rfl (fun _ => rfl)

theorem countCompletion_ending (j : Job) (st : BitVec 8) : Ending s (countCompletion j st s) := by
  have h₁ : Ending s (count 0x741d 1 1 s) := count_ending ..
  unfold countCompletion
  simp only
  split
  · exact h₁.trans ((count_ending ..).trans ((count_ending ..).trans (count_ending ..)))
  · split
    · exact h₁.trans ((count_ending ..).trans (count_ending ..))
    · exact h₁.trans (count_ending ..)

theorem notify_ending (k : Nat) (n : Notify) : Ending s (notify k n s) :=
  .of_books ((notify_eq k n s).trans (by rw [notify_eq])) (fun j => sess_notify_only s k j n)

theorem notifyJob_ending (j : Job) (r : CompRec) : Ending s (notifyJob j r s) := by
  unfold notifyJob
  split
  · exact .refl s
  · split
    · exact notify_ending ..
    · exact .refl s

theorem place_ending (q : Nat) (r : CompRec) : Ending s (qmod q (fun x => { x with records := x.records ++ [r] }) s) := by
  refine ⟨rfl, .refl _, fun _ => rfl, fun n => ?_⟩
  rw [qget_qmod]
  split
  next h => exact ⟨[r], (qget s n).state, by rw [h]⟩
  next => exact ⟨[], (qget s n).state, by simp⟩

/-- A completion ends one job (R62, R64, R69). -/
theorem completeJob_ending (g : BitVec 32) (st : BitVec 8) : Ending s (completeJob g st s) := by
  unfold completeJob
  split
  · exact .refl s
  · extract_lets j' s₁ s₂ r s₃
    have h₁ : Ending s s₁ := releaseJob_ending ..
    have h₂ : Ending s₁ s₂ := countCompletion_ending ..
    have h₃ : Ending s₂ s₃ := by
      simp only [s₃]
      split
      · exact .trans (place_ending ..) (notifyJob_ending ..)
      · exact count_ending ..
    exact h₁.trans (h₂.trans (h₃.trans (.trans (.forEach _ _ (fun p u => settlePart_ending u p) _) (settleQueue_ending _ _))))

/-- A flush ends one job without completion (R42). -/
theorem flushJob_ending (g : BitVec 32) : Ending s (flushJob g s) := by
  unfold flushJob
  split
  · exact .refl s
  · exact .trans (.trans (releaseJob_ending ..) (count_ending ..)) (.forEach _ _ (fun p u => settlePart_ending u p) _)

/-! ## Which job ends, and its record -/

theorem releaseJob_jobs (j : Job) (done : Bool) :
    (releaseJob j done s).sluice.jobs = s.sluice.jobs.filter (fun i => i.tag ≠ j.tag) := by
  rw [(releaseJob_releases s j done).eq]
  rfl

@[simp] theorem settlePart_sluice (p : Nat) : (settlePart p s).sluice = s.sluice := by unfold settlePart; split <;> rfl
@[simp] theorem settlePart_queues (p : Nat) : (settlePart p s).queues = s.queues := by unfold settlePart; split <;> rfl
@[simp] theorem settlePart_counters (p : Nat) : (settlePart p s).counters = s.counters := by unfold settlePart; split <;> rfl
@[simp] theorem settlePart_sessions (p : Nat) : (settlePart p s).sessions = s.sessions := by unfold settlePart; split <;> rfl
@[simp] theorem settleQueue_sluice (q : Nat) : (settleQueue q s).sluice = s.sluice := by unfold settleQueue; split <;> rfl
@[simp] theorem settleQueue_counters (q : Nat) : (settleQueue q s).counters = s.counters := by unfold settleQueue; split <;> rfl

@[simp] theorem notifyJob_queues (j : Job) (r : CompRec) : (notifyJob j r s).queues = s.queues := by
  unfold notifyJob
  split
  · rfl
  · split
    · rw [notify_eq]
    · rfl

@[simp] theorem notifyJob_sluice (j : Job) (r : CompRec) : (notifyJob j r s).sluice = s.sluice := by
  unfold notifyJob
  split
  · rfl
  · split
    · rw [notify_eq]
    · rfl

/-- A step of the counters only. -/
def CountsOnly (s t : State) : Prop := t = { s with counters := t.counters }

theorem CountsOnly_trans {s t u : State} (h : CountsOnly s t) (k : CountsOnly t u) : CountsOnly s u := by
  unfold CountsOnly at *
  rw [k, h]

theorem countCompletion_countsOnly (j : Job) (st : BitVec 8) : CountsOnly s (countCompletion j st s) := by
  have hc : ∀ (u : State) (i j n : Nat), CountsOnly u (count i j n u) := fun _ _ _ _ => rfl
  unfold countCompletion
  simp only
  split
  · exact CountsOnly_trans (hc ..) (CountsOnly_trans (hc ..) (CountsOnly_trans (hc ..) (hc ..)))
  · split
    · exact CountsOnly_trans (hc ..) (CountsOnly_trans (hc ..) (hc ..))
    · exact CountsOnly_trans (hc ..) (hc ..)

@[simp] theorem countCompletion_queues (j : Job) (st : BitVec 8) : (countCompletion j st s).queues = s.queues := by
  rw [countCompletion_countsOnly s j st]

@[simp] theorem countCompletion_sluice (j : Job) (st : BitVec 8) : (countCompletion j st s).sluice = s.sluice := by
  rw [countCompletion_countsOnly s j st]

@[simp] theorem settleParts_sluice (ps : List Nat) : (forEach ps settlePart s).sluice = s.sluice :=
  forEach_keeps State.sluice settlePart ps (fun p _ u => settlePart_sluice u p) s

@[simp] theorem settleParts_queues (ps : List Nat) : (forEach ps settlePart s).queues = s.queues :=
  forEach_keeps State.queues settlePart ps (fun p _ u => settlePart_queues u p) s

@[simp] theorem settleParts_counters (ps : List Nat) : (forEach ps settlePart s).counters = s.counters :=
  forEach_keeps State.counters settlePart ps (fun p _ u => settlePart_counters u p) s

@[simp] theorem settleParts_sessions (ps : List Nat) : (forEach ps settlePart s).sessions = s.sessions :=
  forEach_keeps State.sessions settlePart ps (fun p _ u => settlePart_sessions u p) s

@[simp] theorem releaseJob_queues (j : Job) (done : Bool) : (releaseJob j done s).queues = s.queues := by
  rw [(releaseJob_releases s j done).eq]
  rfl

@[simp] theorem releaseJob_sessions (j : Job) (done : Bool) : (releaseJob j done s).sessions = s.sessions := by
  rw [(releaseJob_releases s j done).eq]
  rfl

/-- Settling a queue keeps its records and generation. -/
theorem records_settleQueue (q n : Nat) : (qget (settleQueue q s) n).records = (qget s n).records := by
  obtain ⟨rs, st, h⟩ := (settleQueue_ending s q).queue n
  unfold settleQueue
  split
  · rw [qget_qmod]
    split
    next hn => rw [hn]
    next => rfl
  · rfl

/-- The record that a completion of job `j` places: its cycles up to now are counted (R69). -/
def endRecord (s : State) (j : Job) (st : BitVec 8) : CompRec := jobRecord { j with cycles := j.cycles + attemptCycles s j } st

theorem completeJob_jobs {g : BitVec 32} {j : Job} (st : BitVec 8) (h : jobOf s g = some j) :
    (completeJob g st s).sluice.jobs = s.sluice.jobs.filter (fun i => i.tag ≠ g) := by
  have htag := jobOf_tag h
  unfold completeJob
  simp only [h]
  rw [settleQueue_sluice, settleParts_sluice]
  split
  · rw [notifyJob_sluice, qmod_sluice, countCompletion_sluice, releaseJob_jobs, htag]
  · rw [count_sluice, countCompletion_sluice, releaseJob_jobs, htag]

/-- The record joins its queue, unless the queue's generation has moved on (R48). -/
theorem completeJob_records {g : BitVec 32} {j : Job} (st : BitVec 8) (h : jobOf s g = some j) (q : Nat) :
    (qget (completeJob g st s) q).records =
      if q = j.q ∧ g.extractLsb' 0 4 = (qget s j.q).gen then (qget s q).records ++ [endRecord s j st] else (qget s q).records := by
  have hq : ∀ (u v : State), u.queues = v.queues → qget u q = qget v q := fun u v e => by rw [qget, e, qget]
  have hgen : qget (countCompletion { j with cycles := j.cycles + attemptCycles s j } st
      (releaseJob { j with cycles := j.cycles + attemptCycles s j } (st == stDone || st == stDegraded) s)) j.q = qget s j.q := by
    rw [qget, countCompletion_queues, releaseJob_queues, qget]
  unfold completeJob
  simp only [h]
  rw [records_settleQueue, hq _ _ (settleParts_queues _ _), hgen]
  split
  next hg =>
    rw [hq _ _ (notifyJob_queues _ _ _), qget_qmod, hgen]
    split
    next he => rw [if_pos ⟨he, hg⟩, he]; rfl
    next he => rw [if_neg (fun c => he c.1), hq _ s (by rw [countCompletion_queues, releaseJob_queues])]
  next hg =>
    rw [if_neg (fun c => hg c.2), hq _ s (by rw [count_queues, countCompletion_queues, releaseJob_queues])]

theorem jobOf_filter (g : BitVec 32) {s t : State} (h : t.sluice.jobs = s.sluice.jobs.filter (fun i => i.tag ≠ g)) :
    jobOf t g = none := by
  rw [jobOf, h, List.find?_eq_none]
  intro i hi
  simpa using (List.mem_filter.mp hi).2

theorem flushJob_jobs {g : BitVec 32} {j : Job} (h : jobOf s g = some j) :
    (flushJob g s).sluice.jobs = s.sluice.jobs.filter (fun i => i.tag ≠ g) := by
  unfold flushJob
  simp only [h]
  rw [settleParts_sluice, count_sluice, releaseJob_jobs, jobOf_tag h]

@[simp] theorem flushJob_queues (g : BitVec 32) : (flushJob g s).queues = s.queues := by
  unfold flushJob
  split
  · rfl
  · rw [settleParts_queues, count_queues, releaseJob_queues]

@[simp] theorem flushJob_sessions (g : BitVec 32) : (flushJob g s).sessions = s.sessions := by
  unfold flushJob
  split
  · rfl
  · rw [settleParts_sessions, count_sessions, releaseJob_sessions]

end

end Sys2Proof.Machine
end

section
/-!
PROOF. Queues (R42, R43, R49, R60, R65): START, STOP and FLUSH, submissions that wait for their boundary, cancels, and the oldest
record.
-/

namespace Sys2Proof.Machine

open Claims

/-! ## Objects of a queue that take commands -/

section

variable (s : State)

/-- Right 2 makes a queue's commands (R466). -/
theorem writeRight_queueCommand (k : Nat) (q : Fin 4096) (j : Nat) (d : Bytes) (hj : j = 5 ∨ j = 8 ∨ j = 9) :
    writeRight k (0x6000 + q.val) j d = 2 := by
  have hq := q.isLt
  unfold writeRight
  simp only [famBase_queue]
  repeat rw [if_neg (by omega)]
  rw [if_pos (Or.inl ⟨trivial, hj⟩)]

/-- A write of a queue's CONTROL passes (R42, R466). -/
theorem queueControl_passes (k : Nat) (q : Fin 4096) (c : BitVec 8) (h : HostMay k 2 s) :
    WritePasses s k (0x6000 + q.val) 5 [c] := by
  have hfam := famBase_queue q
  refine ⟨.u8, .wo, 0, (objDef_queue q 5).trans (by decide), by decide, ?_, ?_, ?_, ?_, nofun, fun _ => ?_⟩
  · rw [writeRight_queueCommand k q 5 [c] (.inl rfl)]; exact h.2
  · simp [notOwner]
  · simp [typeOk, otyLen]
  · simp [reservedOk, valueMask, zeroFields, recordHeader, hfam, sel, tblGet]
  · simp [rangeOk, rangeHigh, hfam, sel, tblGet]

theorem writeEffect_queueControl (k : Nat) (q : Fin 4096) (c : BitVec 8) :
    writeEffect k (0x6000 + q.val) 5 [c] s = queueControl q.val c.toNat s := by
  have hv : leNat [c] = c.toNat := by simp [leNat]
  unfold writeEffect
  simp only [famBase_queue]
  show queueControl q.val (leNat [c]) s = _
  rw [hv]

/-- A request of the table whose effect keeps the books, as a control of a queue. -/
theorem queueControl_did (k : Nat) (q : Fin 4096) (c : BitVec 8) (f : State → State) (h : HostMay k 2 s) (hf : KeepsBooks f s)
    (he : queueControl q.val c.toNat (taken k s) = .done [] (f (taken k s))) :
    Did k {} (f s) s (hostWrite k (0x6000 + q.val) 5 [c] s) :=
  hostWrite_effect s k _ 5 [c] [] f h.1 (queueControl_passes s k q c h) hf ((writeEffect_queueControl _ k q c).trans he)

theorem qmod_keepsBooks (q : Nat) (g : Queue → Queue) : KeepsBooks (qmod q g) s := fun _ _ _ => rfl

@[simp] theorem queueJobs_taken (k q : Nat) : queueJobs (taken k s) q = queueJobs s q := by simp [queueJobs]

theorem queueStop_taken (k q : Nat) (h : (qget s q).state = .running) : queueStop q (taken k s) =
    qmod q (fun x => { x with state := if queueJobs s q = [] then .stopped else .draining }) (taken k s) := by
  unfold queueStop
  rw [qget_taken, if_pos h, queueJobs_taken]

theorem queueStop_stopped (k q : Nat) (h : (qget s q).state = .stopped) : queueStop q (taken k s) = taken k s := by
  unfold queueStop
  rw [qget_taken, h]
  rfl

theorem queueFlush_empty (k q : Nat) (h : queueJobs s q = []) : queueFlush q (taken k s) =
    qmod q (fun x => { x with state := .stopped, records := [], gen := x.gen + 1 }) (taken k s) := by
  unfold queueFlush
  rw [queueJobs_taken, h]
  rfl

/-! ## FLUSH with jobs (R42) -/

/-- The state after the jobs of a queue that have not committed are flushed. -/
def jobsFlushed (q : Nat) (u : State) : State :=
  forEach ((queueJobs u q).filter (fun j => !(hasCommitted j))) (fun j => flushJob j.tag) u

@[simp] theorem jobsFlushed_queues (q : Nat) (u : State) : (jobsFlushed q u).queues = u.queues :=
  forEach_keeps State.queues _ _ (fun j _ v => flushJob_queues v j.tag) u

@[simp] theorem jobsFlushed_sessions (q : Nat) (u : State) : (jobsFlushed q u).sessions = u.sessions :=
  forEach_keeps State.sessions _ _ (fun j _ v => flushJob_sessions v j.tag) u

/-- Flushing takes the jobs with the tag, and no others come. -/
theorem mem_flushJob {g : BitVec 32} {j : Job} (h : j ∈ (flushJob g s).sluice.jobs) : j ∈ s.sluice.jobs ∧ j.tag ≠ g := by
  cases hj : jobOf s g with
  | some i =>
    rw [flushJob_jobs s hj] at h
    simpa using h
  | none =>
    have hmem := (flushJob_ending s g).jobs.subset h
    refine ⟨hmem, fun he => ?_⟩
    have := List.find?_eq_none.mp hj j hmem
    simp [he] at this

theorem mem_forEach_flushJob {j : Job} (l : List Job) (h : j ∈ (forEach l (fun i => flushJob i.tag) s).sluice.jobs) :
    j ∈ s.sluice.jobs ∧ j ∉ l := by
  induction l generalizing s with
  | nil => exact ⟨h, by simp⟩
  | cons i l ih =>
    obtain ⟨hmem, hl⟩ := ih (flushJob i.tag s) h
    obtain ⟨hs, htag⟩ := mem_flushJob s hmem
    refine ⟨hs, fun hc => ?_⟩
    rcases List.mem_cons.mp hc with rfl | hc
    · exact htag rfl
    · exact hl hc

theorem committed_of_mem_jobsFlushed {q : Nat} {j : Job} (h : j ∈ (jobsFlushed q s).sluice.jobs) (hq : j.q = q) :
    hasCommitted j = true := by
  obtain ⟨hmem, hl⟩ := mem_forEach_flushJob s _ h
  by_contra hc
  exact hl (List.mem_filter.mpr ⟨List.mem_filter.mpr ⟨hmem, by simpa using hq⟩, by simpa using hc⟩)

/-- An answered request leaves what its effect made of queues and jobs. -/
theorem answer_queues (k : Nat) (r : Reply) : (answer k r s).queues = s.queues := by rw [answer_eq]
theorem answer_sluice (k : Nat) (r : Reply) : (answer k r s).sluice = s.sluice := by rw [answer_eq]
theorem answer_island (k : Nat) (r : Reply) : (answer k r s).island = s.island := by rw [answer_eq]

/-- A write that is done is answered, where the session is open as before. -/
theorem hostWrite_answer (k i j : Nat) (d r : Bytes) (v : State) (hready : HostReady k s) (h : WritePasses s k i j d)
    (he : writeEffect k i j d (taken k s) = .done r v) (hv : NotifiedOnly (sess (taken k s) k) (sess v k)) :
    hostWrite k i j d s = answer k { data := r } v := by
  have hopen : (sess v k).open_ = true := by rw [hv, sess_taken]; exact hready.1
  have hgen : (sess v k).gen = (sess s k).gen := by rw [hv, sess_taken]
  exact hostWrite_done s k i j d r v hready ((writeValue_taken s hready h).trans he) hopen hgen

theorem queueFlush_flushes (k : Fin 64) (q : Fin 4096) (h : HostMay k.val 2 s) :
    ∃ t, exec (.queueFlush k q) s = .next t ∧ (sess t k.val).busy = false ∧
      qget t q.val = { qget s q.val with state := .stopped, records := [], gen := (qget s q.val).gen + 1 } ∧
      ∀ j ∈ t.sluice.jobs, j.q = q.val → hasCommitted j = true := by
  have he : writeEffect k.val (0x6000 + q.val) 5 [3] (taken k.val s) = .done [] (queueFlush q.val (taken k.val s)) :=
    writeEffect_queueControl (taken k.val s) k.val q 3
  have hflush : queueFlush q.val (taken k.val s) = qmod q.val (fun x => { x with state := .stopped, records := [], gen := x.gen + 1 })
      (jobsFlushed q.val (taken k.val s)) := rfl
  have hsess : NotifiedOnly (sess (taken k.val s) k.val) (sess (queueFlush q.val (taken k.val s)) k.val) := by
    rw [hflush, sess, sess, qmod_sessions, jobsFlushed_sessions]
    rfl
  refine ⟨_, rfl, ?_⟩
  rw [hostWrite_answer s k.val _ 5 [3] [] _ h.1 (queueControl_passes s k.val q 3 h) he hsess, hflush]
  refine ⟨?_, ?_, fun j hj hq => ?_⟩
  · rw [sess_answer, if_pos rfl]
  · rw [qget, answer_queues, ← qget, qget_qmod_same, qget, jobsFlushed_queues, taken_queues, ← qget]
  · rw [answer_sluice, qmod_sluice] at hj
    exact committed_of_mem_jobsFlushed _ hj hq

end

/-- Settles O26: each control is a write to the queue's CONTROL, whose effect is the queue's new state. -/
theorem queueControls : Obligations.QueueControls := by
  intro s k q
  refine ⟨fun h => ⟨_, rfl, ?_⟩, fun h hrun => ⟨_, rfl, ?_⟩, fun h hstop => ⟨_, rfl, ?_⟩, fun h hempty => ⟨_, rfl, ?_⟩,
    queueFlush_flushes s k q⟩
  · exact queueControl_did s k.val q 1 _ h (qmod_keepsBooks s _ _) rfl
  · exact queueControl_did s k.val q 2 _ h (qmod_keepsBooks s _ _) (congrArg (WRes.done []) (queueStop_taken s k.val q.val hrun))
  · exact queueControl_did s k.val q 2 (fun u => u) h (keepsBooks_id s) (congrArg (WRes.done []) (queueStop_stopped s k.val q.val hstop))
  · exact queueControl_did s k.val q 3 _ h (qmod_keepsBooks s _ _) (congrArg (WRes.done []) (queueFlush_empty s k.val q.val hempty))

end Sys2Proof.Machine
end

section
/-!
PROOF. Submissions, cancels and records (R43, R49, R60, R65, R473).
-/

namespace Sys2Proof.Machine

open Claims

section

variable (s : State)

/-! ## Submissions (R49, R60) -/

/-- An arrival of session `k`, as it stands in `s`, waits at the Sluice. -/
def arrivalWaits (s : State) (k q : Nat) (d : JobDesc) (v : Option Service) (u : State) : State :=
  { u with sluice := { u.sluice with arrivals := u.sluice.arrivals ++
    [{ q := q, session := k, sgen := (sess s k).gen, slot := now s / slotNs, desc := d, service := v }] } }

theorem arrive_taken (k q : Nat) (d : JobDesc) (v : Option Service) :
    arrive k q d v (taken k s) = arrivalWaits s k q d v (taken k s) := by
  unfold arrive arrivalWaits
  rw [sess_taken, now_taken]

/-- A request whose effect keeps the books and that waits is taken, with that effect (R60, R468). -/
theorem awaits_effect (k : Nat) (f : State → State) (hf : KeepsBooks f s) : Awaits k (f s) s (f (taken k s)) := by
  have heq := effect_takenAs s hf (takenAs_taken s k)
  refine ⟨?_, ?_, fun n hn => ?_, fun n hn => ?_⟩
  · rw [heq]
  · rw [sess_effect s hf (takenAs_taken s k), hf.sess_eq]
  · rw [hf.sess_taken_eq, sess_taken_other s k n hn, hf.sess_eq]
  · rw [hf.counters_taken_eq]
    exact countersBut_count (f s) 0x741e 1 1 _ (by decide) n hn

theorem arrivalWaits_keepsBooks (k q : Nat) (d : JobDesc) (v : Option Service) : KeepsBooks (arrivalWaits s k q d v) s :=
  fun _ _ _ => rfl

/-- A write that submits an arrival of the session waits for the Sluice (R60). -/
theorem hostWrite_arrives (k i j q : Nat) (b : Bytes) (d : JobDesc) (v : Option Service) (hready : HostReady k s)
    (h : WritePasses s k i j b) (he : writeEffect k i j b (taken k s) = .wait (arrive k q d v (taken k s))) :
    Awaits k (arrivalWaits s k q d v s) s (hostWrite k i j b s) := by
  rw [hostWrite_wait s k i j b _ hready ((writeValue_taken s hready h).trans he), arrive_taken]
  exact awaits_effect s k _ (arrivalWaits_keepsBooks s k q d v)

/-! ## Commands of the queue's client (R467) -/

section

variable (k : Nat) (q : Fin 4096) (h : HostMay k 2 s) (howner : queueClient s q.val = clientOf s k)

include h howner

theorem notOwner_own (j : Nat) : notOwner s k (0x6000 + q.val) j = false := by
  simp [notOwner, famBase_queue q, howner]

theorem submit_passes (d : Bytes) (hlen : d.length = 64) : WritePasses s k (0x6000 + q.val) 8 d := by
  have hfam := famBase_queue q
  refine ⟨.blob 64, .wo, 0, (objDef_queue q 8).trans (by decide), by decide, ?_, notOwner_own s k q h howner 8, ?_, ?_, nofun, nofun⟩
  · rw [writeRight_queueCommand k q 8 d (.inr (.inl rfl))]; exact h.2
  · simp [typeOk, blobLenOk, hfam, hlen, sel, tblGet]
  · simp [reservedOk, valueMask, zeroFields, recordHeader, hfam, sel, tblGet]

theorem cancel_passes (g : BitVec 32) : WritePasses s k (0x6000 + q.val) 9 (leBytes 4 g.toNat) := by
  have hfam := famBase_queue q
  refine ⟨.u32, .wo, 0, (objDef_queue q 9).trans (by decide), by decide, ?_, notOwner_own s k q h howner 9, ?_, ?_, nofun, fun _ => ?_⟩
  · rw [writeRight_queueCommand k q 9 _ (.inr (.inr rfl))]; exact h.2
  · simp [typeOk, otyLen]
  · simp [reservedOk, valueMask, zeroFields, recordHeader, hfam, sel, tblGet]
  · simp [rangeOk, rangeHigh, hfam, sel, tblGet]

end

theorem writeEffect_submit (k : Nat) (q : Fin 4096) (d : Bytes) :
    writeEffect k (0x6000 + q.val) 8 d s = .wait (arrive k q.val (parseDesc d) none s) := by
  unfold writeEffect
  simp only [famBase_queue]
  rfl

/-! ## Cancels (R65, R473) -/

/-- The data of a cancel's answer. -/
def cancelReply (g : BitVec 32) (r : Nat) : Bytes := leBytes 4 g.toNat ++ leBytes 1 r ++ zeros 3

theorem writeEffect_cancel (k : Nat) (q : Fin 4096) (g : BitVec 32) : writeEffect k (0x6000 + q.val) 9 (leBytes 4 g.toNat) s =
    .done (cancelReply g (cancelResult s q.val g)) (if cancelResult s q.val g = 0 then finishJob g stCancelled s else s) := by
  have hv : BitVec.ofNat 32 (leNat (leBytes 4 g.toNat)) = g := by rw [leNat_leBytes_toNat 32 4 g rfl, BitVec.ofNat_toNat]; simp
  unfold writeEffect
  simp only [famBase_queue]
  show cancelJob q.val (BitVec.ofNat 32 (leNat (leBytes 4 g.toNat))) s = _
  rw [hv]
  rfl

theorem jobOf_taken (k : Nat) (g : BitVec 32) : jobOf (taken k s) g = jobOf s g := by simp [jobOf]

@[simp] theorem cancelResult_taken (k q : Nat) (g : BitVec 32) : cancelResult (taken k s) q g = cancelResult s q g := by
  simp [cancelResult, jobOf_taken]

/-- Where the cancel finds nothing to end, it only answers. -/
theorem cancel_answers (k : Nat) (q : Fin 4096) (g : BitVec 32) (h : HostMay k 2 s) (howner : queueClient s q.val = clientOf s k)
    (hr : cancelResult s q.val g ≠ 0) :
    Did k { data := cancelReply g (cancelResult s q.val g) } s s (hostWrite k (0x6000 + q.val) 9 (leBytes 4 g.toNat) s) := by
  refine hostWrite_effect s k _ 9 _ _ (fun u => u) h.1 (cancel_passes s k q h howner g) (keepsBooks_id s) ?_
  rw [writeEffect_cancel, cancelResult_taken, if_neg hr]

theorem cancelResult_committed {q : Nat} {g : BitVec 32} {j : Job} (hj : jobOf s g = some j) (hq : j.q = q) (hc : hasCommitted j = true) :
    cancelResult s q g = 1 := by
  simp [cancelResult, hj, hq, hc]

theorem cancelResult_open {q : Nat} {g : BitVec 32} {j : Job} (hj : jobOf s g = some j) (hq : j.q = q) (hc : hasCommitted j = false) :
    cancelResult s q g = 0 := by
  simp [cancelResult, hj, hq, hc]

/-- A cancelled job's end is none that a HARD queue answers with safe state (R39). -/
theorem finishJob_soft {g : BitVec 32} {j : Job} {st : BitVec 8} (hj : jobOf s g = some j) (hst : hardStatus st = false) :
    finishJob g st s = completeJob g st s := by
  unfold finishJob
  simp [hj, hst]

@[simp] theorem attemptCycles_taken (k : Nat) (j : Job) : attemptCycles (taken k s) j = attemptCycles s j := by rw [taken_eq]; rfl

theorem cancel_ends (k : Fin 64) (q : Fin 4096) (g : BitVec 32) (j : Job) (h : HostMay k.val 2 s)
    (howner : queueClient s q.val = clientOf s k.val) (hj : jobOf s g = some j) (hq : j.q = q.val) (hc : hasCommitted j = false) :
    ∃ t, exec (.cancel k q g) s = .next t ∧ (sess t k.val).reply = { data := leBytes 4 g.toNat ++ [0] ++ zeros 3 } ∧
      jobOf t g = none ∧ t.island.state = s.island.state ∧
      (g.extractLsb' 0 4 = (qget s q.val).gen → (qget t q.val).records = (qget s q.val).records ++
        [jobRecord { j with cycles := j.cycles + attemptCycles s j } stCancelled]) := by
  have hjt : jobOf (taken k.val s) g = some j := by rw [jobOf_taken, hj]
  have hend := completeJob_ending (taken k.val s) g stCancelled
  have he : writeEffect k.val (0x6000 + q.val) 9 (leBytes 4 g.toNat) (taken k.val s) =
      .done (cancelReply g 0) (completeJob g stCancelled (taken k.val s)) := by
    rw [writeEffect_cancel, cancelResult_taken, cancelResult_open s hj hq hc, if_pos rfl, finishJob_soft _ hjt (by decide)]
  refine ⟨_, rfl, ?_⟩
  rw [hostWrite_answer s k.val _ 9 _ _ _ h.1 (cancel_passes s k.val q h howner g) he (hend.sess k.val)]
  refine ⟨?_, ?_, ?_, fun hg => ?_⟩
  · rw [sess_answer, if_pos rfl]
    rfl
  · rw [jobOf, answer_sluice]
    exact jobOf_filter g (completeJob_jobs _ stCancelled hjt)
  · rw [answer_island, hend.eq]
    simp
  · have hrecords := completeJob_records (taken k.val s) stCancelled hjt q.val
    rw [qget_taken, qget_taken, hq, if_pos ⟨rfl, hg⟩, endRecord, attemptCycles_taken] at hrecords
    rw [qget, answer_queues, ← qget, hrecords]

/-! ## The oldest record (R43, R473) -/

theorem recordBytes_length (r : CompRec) : (recordBytes r).length = 32 := by simp [recordBytes, zeros]

theorem readRight_record (q : Fin 4096) : readRight (0x6000 + q.val) 0x0a = 2 := by
  have hq := q.isLt
  simp only [readRight, famBase_queue]
  rw [if_neg (by omega), if_pos ⟨trivial, trivial⟩]

/-- The record object's value of a queue, and what reading it takes. -/
theorem readValue_record (k : Nat) (q : Fin 4096) : readValue k (0x6000 + q.val) 0x0a s = nextRecord q.val s := by
  have hq := q.isLt
  simp only [readValue, famBase_queue]
  rw [if_neg (by omega), if_pos ⟨trivial, trivial⟩]

theorem opOk_readRecord (q : Fin 4096) : opOk (readCmd (0x6000 + q.val) 0x0a 32) = true := by
  simp [opOk, readCmd]

theorem nextCompletion_answers (k : Fin 64) (q : Fin 4096) (h : HostMay k.val 2 s) (howner : queueClient s q.val = clientOf s k.val)
    (v : Bytes) (f : State → State) (hf : KeepsBooks f s) (hlen : v.length = 32)
    (hvalue : nextRecord q.val (taken k.val s) = (v, f (taken k.val s))) :
    Answers (.nextCompletion k q) k.val { data := v, total := 32 }
      (smod k.val (fun e => { e with snapshot := some (objKey (0x6000 + q.val) 0x0a, v) }) (f s)) s := by
  have hq := q.isLt
  refine ⟨_, rfl, runReq_did_smod s k.val k.val _ _ f _ hf (fun _ => ⟨fun _ _ _ _ _ => rfl, fun _ => ⟨rfl, rfl, rfl⟩⟩) h.1 rfl ?_⟩
  exact operation_readWhole s k.val (0x6000 + q.val) 0x0a 32 v _ 32 .ro 0 (by omega) (by decide) (by decide) h.1 (opOk_readRecord q)
    ((objDef_queue q 0x0a).trans (by decide)) (by decide) (by rw [readRight_record]; exact h.2) (notOwner_own s k.val q h howner _)
    ((readValue_record _ k.val q).trans hvalue) hlen

end

/-- Settles O27: a submission waits as an arrival, a cancel ends what it names or only answers, and a read of the record object takes
the oldest record. -/
theorem queueCommands : Obligations.QueueCommands := by
  intro s k q h howner
  refine ⟨fun d hlen => ⟨_, rfl, ?_⟩, fun g hr => ⟨_, rfl, cancel_answers s k.val q g h howner hr⟩, fun g j hj hq hc => ⟨_, rfl, ?_⟩,
    fun g j hj hq hc => cancel_ends s k q g j h howner hj hq hc, fun r rs hrec => ?_, fun hrec => ?_⟩
  · exact hostWrite_arrives s k.val _ 8 q.val d _ none h.1 (submit_passes s k.val q h howner d hlen) (writeEffect_submit _ k.val q d)
  · have hr := cancelResult_committed s hj hq hc
    have hdid := cancel_answers s k.val q g h howner (by rw [hr]; decide)
    rw [hr] at hdid
    exact hdid
  · refine nextCompletion_answers s k q h howner (recordBytes r) (qmod q.val (fun x => { x with records := rs })) (qmod_keepsBooks s _ _)
      (recordBytes_length r) ?_
    unfold nextRecord
    rw [qget_taken, hrec]
  · refine nextCompletion_answers s k q h howner (zeros 32) (fun u => u) (keepsBooks_id s) (by simp [zeros]) ?_
    unfold nextRecord
    rw [qget_taken, hrec]

end Sys2Proof.Machine
end

section
/-!
PROOF. Commands of streams (R130-R154): OPEN, CLOSE, QUERY and the refusals of R138.
-/

namespace Sys2Proof.Machine

open Claims

variable (s : State)

/-! ## The command as R138 judges it -/

/-- A command on a named stream of the client's own: refused BAD_STATE, or carried out. -/
theorem streamCommand_named (k op n : Nat) (c : StreamCmd) (hop : op = 2 ∨ op = 5 ∨ op = 6) (harg : streamBadArg s op c = false)
    (hname : streamNamed s c.handle.toNat = some n) (hown : queueClient s (streamOf s n).queue = clientOf s k) :
    streamCommand k (streamCmdBytes op c) s =
      if streamBadState s op n then streamDone s c.handle.toNat (some n) 4
      else if op = 2 then .done (closedReply s n) (closeStream n s)
      else if op = 5 then streamDone s c.handle.toNat (some n) 0
      else streamDone (zeroStream n s) c.handle.toNat (some n) 0 := by
  unfold streamCommand
  rw [parseStreamCmd_streamCmdBytes op c (by omega)]
  rcases hop with rfl | rfl | rfl <;> simp [harg, hname, hown]

/-- A handle that names no stream is answered NO_STREAM. -/
theorem streamCommand_noStream (k op : Nat) (c : StreamCmd) (hop : op = 2 ∨ op = 5 ∨ op = 6) (harg : streamBadArg s op c = false)
    (hname : streamNamed s c.handle.toNat = none) :
    streamCommand k (streamCmdBytes op c) s = streamDone s c.handle.toNat none 2 := by
  unfold streamCommand
  rw [parseStreamCmd_streamCmdBytes op c (by omega)]
  rcases hop with rfl | rfl | rfl <;> simp [harg, hname]

theorem streamReply_taken (k h r : Nat) (n : Option Nat) (a : Admit) :
    streamReply (taken k s) h n r a = streamReply s h n r a := by
  rw [taken_eq]; rfl

@[simp] theorem streamHandle_taken (k n : Nat) : streamHandle (taken k s) n = streamHandle s n := by rw [taken_eq]; rfl
@[simp] theorem closedReply_taken (k n : Nat) : closedReply (taken k s) n = closedReply s n := by rw [taken_eq]; rfl
@[simp] theorem freeStreams_taken (k : Nat) : freeStreams (taken k s) = freeStreams s := by rw [taken_eq]; rfl
@[simp] theorem freeBlockTiles_taken (k p : Nat) : freeBlockTiles (taken k s) p = freeBlockTiles s p := by rw [taken_eq]; rfl
@[simp] theorem tileHeld_taken (k t : Nat) : tileHeld (taken k s) t = tileHeld s t := by rw [taken_eq]; rfl
@[simp] theorem partOf_taken (k p : Nat) : partOf (taken k s) p = partOf s p := by rw [taken_eq]; rfl

/-- A stream command answered without any effect. -/
theorem streamAnswered (k : Fin 64) (op : Nat) (c : StreamCmd) (r : Nat) (n : Option Nat) (h : HostMay k.val 2 s)
    (hc : streamCommand k (streamCmdBytes op c) (taken k.val s) = streamDone (taken k.val s) c.handle.toNat n r) :
    Did k.val { data := streamReply s c.handle.toNat n r {} } s s (hostWrite k.val 0x3a00 1 (streamCmdBytes op c) s) := by
  refine hostWrite_streamCmd s k.val op c _ id h (fun _ _ _ => rfl) ?_
  rw [hc, streamDone, streamReply_taken]
  rfl

/-! ## CLOSE -/

/-- The streams after stream `n` is closed: its record is gone, the generation of its number is advanced (R134). -/
def closedStreams (s : State) (n : Nat) : Streams :=
  { s.streams with
    recs := tblMod {} (tblMod {} s.streams.recs n fun x => { x with blocks := [], moving := [] }) n fun _ => {}
    rollback := s.streams.rollback.filter (fun e => e.1 ∉ rowTiles s n)
    gens := tblMod 0 s.streams.gens n (· + 1) }

theorem closeStream_eq (n : Nat) :
    closeStream n s =
      { s with tiles := wipedTiles (streamOf s n).rows (rowTiles s n) s.tiles, streams := closedStreams s n } := by
  simp only [closeStream, releaseBlocks]
  rw [forEach_wipeBlock]
  rfl

theorem streamOf_closeStream (n m : Nat) : streamOf (closeStream n s) m = if m = n then {} else streamOf s m := by
  rw [closeStream_eq]
  simp only [streamOf, closedStreams, tblGet_mod]
  split <;> rfl

theorem streamGen_closeStream (n m : Nat) :
    streamGen (closeStream n s) m = if m = n then streamGen s n + 1 else streamGen s m := by
  rw [closeStream_eq]
  simp only [streamGen, closedStreams, tblGet_mod]

theorem tileOf_closeStream_of_not_mem (n b : Nat) (hb : b ∉ rowTiles s n) : tileOf (closeStream n s) b = tileOf s b := by
  rw [closeStream_eq]
  exact tblGet_wipedTiles_of_not_mem _ b _ s.tiles hb

theorem entry_closeStream (n b i x : Nat) (hb : b ∈ rowTiles s n) (hi : i < (streamOf s n).rows) (hx : x < 64) :
    entry (tileOf (closeStream n s) b) (112 + i) x = 0 := by
  rw [closeStream_eq]
  exact entry_wipedTiles_of_mem _ b i x _ s.tiles hb hi hx

theorem closeStream_keepsBooks (n : Nat) : KeepsBooks (closeStream n) s := fun _ _ _ => by
  rw [closeStream_eq, closeStream_eq]; rfl

/-! ## OPEN -/

/-- The blocks that OPEN takes: the lowest free tiles of the partition (R139). -/
def openBlocks (s : State) (c : StreamCmd) : List Nat := (freeBlockTiles s c.partition.toNat).take c.blocks.toNat

/-- The state in which stream number `n` is open with its blocks. -/
def openedStream (n : Nat) (c : StreamCmd) (s : State) : State :=
  { s with
    freeCtr := s.freeCtr + 1
    tiles := wipedTiles c.rows.toNat (openBlocks s c) s.tiles
    streams :=
      { s.streams with
        recs := tblMod {} s.streams.recs n fun _ =>
          { state := .open_, partition := c.partition.toNat, queue := c.queue.toNat, rows := c.rows.toNat
            blocks := openBlocks s c, nblocks := c.blocks.toNat } } }

theorem openStream_fresh (n : Nat) (c : StreamCmd) (hfree : ∀ b ∈ openBlocks s c, tileHeld s b = false) :
    openStream n c { s with freeCtr := s.freeCtr + 1 } = openedStream n c s := by
  have hnone : (openBlocks s c).any (tileHeld s) = false := List.any_eq_false.mpr fun b hb => by simp [hfree b hb]
  unfold openStream
  rw [forEach_wipeBlock]
  have hcond : ∀ u : State, (if (openBlocks s c).any (tileHeld s) then tilesLost (openBlocks s c) u else u) = u := fun u => by
    rw [hnone]; rfl
  exact congrArg (fun u : State => { u with tiles := wipedTiles c.rows.toNat (openBlocks s c) u.tiles }) (hcond _)

theorem streamOf_openedStream (n m : Nat) (c : StreamCmd) :
    streamOf (openedStream n c s) m =
      if m = n then { state := .open_, partition := c.partition.toNat, queue := c.queue.toNat, rows := c.rows.toNat
                      blocks := openBlocks s c, nblocks := c.blocks.toNat }
      else streamOf s m := by
  simp only [streamOf, openedStream, tblGet_mod]

/-- OPEN on a running partition with enough free tiles and a free number opens a stream of that number. -/
theorem streamCommand_open (k : Nat) (c : StreamCmd) (harg : streamBadArg s 1 c = false)
    (hown : queueClient s c.queue.toNat = clientOf s k) (hrun : (partOf s c.partition.toNat).state = .running)
    (hroom : c.blocks.toNat ≤ (freeBlockTiles s c.partition.toNat).length) (hnum : freeStreams s ≠ [])
    (hfree : ∀ b ∈ openBlocks s c, tileHeld s b = false) :
    ∃ n ∈ freeStreams s, freshChoice (freeStreams s) s = (some n, { s with freeCtr := s.freeCtr + 1 }) ∧
      streamCommand k (streamCmdBytes 1 c) s =
        .done (streamReply (openedStream n c s) (streamHandle (openedStream n c s) n) (some n) 0 {}) (openedStream n c s) := by
  obtain ⟨n, hn, hmem⟩ := freshChoice_mem (freeStreams s) s hnum
  have hdraw : freshChoice (freeStreams s) s = (some n, { s with freeCtr := s.freeCtr + 1 }) := Prod.ext hn rfl
  refine ⟨n, hmem, hdraw, ?_⟩
  unfold streamCommand
  rw [parseStreamCmd_streamCmdBytes 1 c (by decide)]
  simp [harg, hown, hrun, Nat.not_lt.mpr hroom, hnum, hdraw, openStream_fresh s n c hfree]

/-- Settles O31. -/
theorem streamCommands : Obligations.StreamCommands := by
  intro s k c hmay p h all owned zeroed
  have howned : ∀ op n, owned op n → streamBadArg (taken k.val s) op c = false ∧
      streamNamed (taken k.val s) c.handle.toNat = some n ∧
      queueClient (taken k.val s) (streamOf (taken k.val s) n).queue = clientOf (taken k.val s) k.val :=
    fun op n ⟨harg, hname, hown⟩ => ⟨by simpa, by simpa, by simpa⟩
  refine ⟨?_, ?_, ?_, ?_, ?_, fun hnone => ⟨?_, ?_, ?_⟩⟩
  · intro harg hown hrun hroom hnum hfree
    obtain ⟨n, hn, hdraw, hc⟩ := streamCommand_open (taken k.val s) k.val c (by simpa) (by simpa) (by simpa)
      (by simpa) (by simpa) (by simpa [openBlocks] using hfree)
    refine ⟨n, openedStream n c s, by simpa using hn,
      ⟨_, rfl, hostWrite_streamCmd s k.val 1 c _ (openedStream n c) hmay (fun _ _ _ => rfl) (hc.trans (congrArg (WRes.done · _) ?_))⟩,
      rfl, ?_, fun m hm => ?_, ?_, ?_⟩
    · rw [taken_eq]; rfl
    · rw [streamOf_openedStream, if_pos rfl]; rfl
    · rw [streamOf_openedStream, if_neg hm]
    · exact fun b hb i hi x hx => entry_wipedTiles_of_mem _ b i x _ s.tiles hb hi hx
    · exact fun b hb => tblGet_wipedTiles_of_not_mem _ b _ s.tiles hb
  · intro n hn hstate
    obtain ⟨harg, hname, hown⟩ := howned 2 n hn
    have hc := streamCommand_named (taken k.val s) k.val 2 n c (.inl rfl) harg hname hown
    rw [streamBadState_taken, if_neg (by simp [hstate]), if_pos rfl, closedReply_taken] at hc
    refine ⟨closeStream n s, ⟨_, rfl, hostWrite_streamCmd s k.val 2 c _ _ hmay (closeStream_keepsBooks s n) hc⟩, ?_, ?_, ?_,
      fun m hm => ⟨?_, ?_⟩, fun b hb i hi x hx => entry_closeStream s n b i x hb hi hx,
      fun b hb => tileOf_closeStream_of_not_mem s n b hb⟩
    · rw [closeStream_eq]
    · rw [streamOf_closeStream, if_pos rfl]
    · rw [streamGen_closeStream, if_pos rfl]
    · rw [streamOf_closeStream, if_neg hm]
    · rw [streamGen_closeStream, if_neg hm]
  · intro n hn hbusy
    obtain ⟨harg, hname, hown⟩ := howned 5 n hn
    have hc := streamCommand_named (taken k.val s) k.val 5 n c (.inr (.inl rfl)) harg hname hown
    rw [streamBadState_taken, if_neg (by simp [streamBadState, hbusy]), if_neg (by decide), if_pos rfl] at hc
    exact ⟨_, rfl, streamAnswered s k 5 c 0 (some n) hmay hc⟩
  · intro n hn hbusy
    obtain ⟨harg, hname, hown⟩ := howned 5 n hn
    have hc := streamCommand_named (taken k.val s) k.val 5 n c (.inr (.inl rfl)) harg hname hown
    rw [streamBadState_taken, if_pos (by simp [streamBadState, hbusy])] at hc
    exact ⟨_, rfl, streamAnswered s k 5 c 4 (some n) hmay hc⟩
  · intro n hn hbad
    obtain ⟨harg, hname, hown⟩ := howned 6 n hn
    have hc := streamCommand_named (taken k.val s) k.val 6 n c (.inr (.inr rfl)) harg hname hown
    have hstate : streamBadState s 6 n = true := by
      rcases hbad with hclosed | hbusy
      · simp [streamBadState, hclosed]
      · simp [streamBadState, hbusy]
    rw [streamBadState_taken, if_pos hstate] at hc
    exact ⟨_, rfl, streamAnswered s k 6 c 4 (some n) hmay hc⟩
  · exact fun harg => ⟨_, rfl, streamAnswered s k 2 c 2 none hmay
      (streamCommand_noStream (taken k.val s) k.val 2 c (.inl rfl) (by simpa) (by simpa))⟩
  · exact fun harg => ⟨_, rfl, streamAnswered s k 5 c 2 none hmay
      (streamCommand_noStream (taken k.val s) k.val 5 c (.inr (.inl rfl)) (by simpa) (by simpa))⟩
  · exact fun harg => ⟨_, rfl, streamAnswered s k 6 c 2 none hmay
      (streamCommand_noStream (taken k.val s) k.val 6 c (.inr (.inr rfl)) (by simpa) (by simpa))⟩

end Sys2Proof.Machine

end

section
/-!
PROOF. Safe state (R434-R443): what an entry changes, further causes, the safety frames, and how it is left.
-/

namespace Sys2Proof.Machine

open Claims

/-! ## Notify frames and safety frames -/

/-- A step that only offers notify frames to sessions. -/
structure Notices (s t : State) : Prop where
  eq : t = { s with
    counters := t.counters, events := t.events, eventsAt := t.eventsAt, eventsNew := t.eventsNew, sessions := t.sessions }
  counters : CountersBut [0x741e08] s t
  sess : ∀ k, NotifiedOnly (sess s k) (sess t k)
  events : ∀ n, s.events.getLsbD n = true → t.events.getLsbD n = true

namespace Notices

variable {s t u : State}

theorem refl (s : State) : Notices s s := ⟨rfl, fun _ _ => rfl, fun _ => rfl, fun _ h => h⟩

theorem trans (h : Notices s t) (k : Notices t u) : Notices s u where
  eq := by rw [k.eq, h.eq]
  counters := CountersBut_trans h.counters k.counters
  sess n := NotifiedOnly_trans (h.sess n) (k.sess n)
  events n hn := k.events n (h.events n hn)

theorem forEach {α : Type} (l : List α) (f : α → State → State) (h : ∀ a u, Notices u (f a u)) (s : State) :
    Notices s (forEach l f s) :=
  forEach_rel Notices refl (fun _ _ _ h k => h.trans k) f l (fun a _ u => h a u) s

end Notices

/-- A step that only sends safety frames. -/
structure SafetySent (s t : State) : Prop where
  eq : t = { s with out := t.out, t1 := t.t1, counters := t.counters }
  counters : CountersBut [0x741d0d] s t

namespace SafetySent

variable {s t u : State}

theorem refl (s : State) : SafetySent s s := ⟨rfl, fun _ _ => rfl⟩

theorem trans (h : SafetySent s t) (k : SafetySent t u) : SafetySent s u where
  eq := by rw [k.eq, h.eq]
  counters := CountersBut_trans h.counters k.counters

theorem forEach {α : Type} (l : List α) (f : α → State → State) (h : ∀ a u, SafetySent u (f a u)) (s : State) :
    SafetySent s (forEach l f s) :=
  forEach_rel SafetySent refl (fun _ _ _ h k => h.trans k) f l (fun a _ u => h a u) s

end SafetySent

section

variable (s : State)

theorem setEvent_getLsbD (n m : Nat) (h : s.events.getLsbD m = true) : (setEvent n s).events.getLsbD m = true := by
  simp [setEvent, h]

theorem setEvent_getLsbD_same (n : Fin 32) : (setEvent n.val s).events.getLsbD n.val = true := by
  have hbit : (BitVec.ofNat 32 (1 <<< n.val)).getLsbD n.val = true := by revert n; decide
  simp only [setEvent, BitVec.getLsbD_or, hbit, Bool.or_true]

theorem notifyDropped_events (k n : Nat) (h : s.events.getLsbD n = true) : (notifyDropped k s).events.getLsbD n = true :=
  setEvent_getLsbD _ 8 n h

theorem notify_notices (k : Nat) (n : Notify) : Notices s (notify k n s) where
  eq := (notify_eq k n s).trans (by rw [notify_eq])
  counters := countersBut_notify s k n
  sess j := sess_notify_only s k j n
  events m hm := by
    unfold notify
    split
    · exact hm
    · split
      · exact notifyDropped_events _ k m hm
      · exact notifyDropped_events s k m hm

theorem notifyAll_notices (code : Nat) (d : Bytes) : Notices s (notifyAll code d s) :=
  .forEach _ _ (fun k u => notify_notices u k _) s

theorem notifySubs_notices (code : Nat) (d : Bytes) : Notices s (notifySubs code d s) :=
  .forEach _ _ (fun k u => notify_notices u k _) s

/-- A safety frame on a port that is up: the frame emitted and the port's sequence number. -/
theorem safetyFrame_up (x : Nat) (c : Bool) (h : t1Up s x = true) :
    ∃ f, safetyFrame x c s = count 0x741d 0x0d 1 (emit f (t1mod x (fun p => { p with safety := p.safety + 1 }) s)) := by
  unfold safetyFrame
  rw [if_pos h]
  exact ⟨_, rfl⟩

theorem safetyFrame_down (x : Nat) (c : Bool) (h : t1Up s x = false) : safetyFrame x c s = s := by
  unfold safetyFrame
  rw [if_neg (by simp [h])]

theorem safetyFrame_sent (x : Nat) (c : Bool) : SafetySent s (safetyFrame x c s) := by
  cases h : t1Up s x
  · rw [safetyFrame_down s x c h]; exact .refl s
  · obtain ⟨f, hf⟩ := safetyFrame_up s x c h
    rw [hf]
    exact ⟨rfl, countersBut_count (emit f (t1mod x _ s)) 0x741d 0x0d 1 _ (by decide)⟩

theorem safetyFrames_sent (c : Bool) : SafetySent { s with island := { s.island with frameAt := now s } } (safetyFrames c s) :=
  .forEach _ _ (fun x u => safetyFrame_sent u x c) _

theorem safetyFrames_island (c : Bool) : (safetyFrames c s).island = { s.island with frameAt := now s } := by
  rw [(safetyFrames_sent s c).eq]

theorem safetyFrames_pins (c : Bool) : (safetyFrames c s).pins = s.pins := by rw [(safetyFrames_sent s c).eq]
theorem safetyFrames_queues (c : Bool) : (safetyFrames c s).queues = s.queues := by rw [(safetyFrames_sent s c).eq]
theorem safetyFrames_sluice (c : Bool) : (safetyFrames c s).sluice = s.sluice := by rw [(safetyFrames_sent s c).eq]
theorem safetyFrames_sessions (c : Bool) : (safetyFrames c s).sessions = s.sessions := by rw [(safetyFrames_sent s c).eq]

theorem safetyFrames_counter (c : Bool) (i j : Nat) (h : objKey i j ≠ 0x741d0d) :
    counter (safetyFrames c s) i j = counter s i j :=
  (safetyFrames_sent s c).counters _ (by simpa using h)

/-! ### The frames sent, one for each port that is up (R438, R439) -/

theorem safetyFrame_t1 (x y : Nat) (c : Bool) :
    t1Of (safetyFrame x c s) y =
      if y = x ∧ t1Up s x = true then { t1Of s x with safety := (t1Of s x).safety + 1 } else t1Of s y := by
  cases h : t1Up s x
  · rw [safetyFrame_down s x c h]; simp
  · obtain ⟨f, hf⟩ := safetyFrame_up s x c h
    rw [hf]
    simp only [t1Of, count_t1, emit_t1, t1mod, tblGet_mod]
    simp

theorem t1Up_safetyFrame (x y : Nat) (c : Bool) : t1Up (safetyFrame x c s) y = t1Up s y := by
  unfold t1Up
  rw [safetyFrame_t1]
  split
  next h => rw [h.1]
  next => rfl

theorem safetyFrame_out (x : Nat) (c : Bool) :
    (safetyFrame x c s).out.length = s.out.length + if t1Up s x = true then 1 else 0 := by
  cases h : t1Up s x
  · rw [safetyFrame_down s x c h]; simp
  · obtain ⟨f, hf⟩ := safetyFrame_up s x c h
    rw [hf]
    show (s.out ++ [f]).length = _
    simp

theorem forEach_safetyFrame (l : List Nat) (hl : l.Nodup) (c : Bool) :
    (forEach l (fun x => safetyFrame x c) s).out.length = s.out.length + (l.filter (t1Up s)).length ∧
    ∀ x, (t1Of (forEach l (fun x => safetyFrame x c) s) x).safety =
      (t1Of s x).safety + (if x ∈ l ∧ t1Up s x = true then 1 else 0) := by
  induction l generalizing s with
  | nil => simp [forEach]
  | cons y l ih =>
    obtain ⟨hy, hnodup⟩ := List.nodup_cons.mp hl
    have hstep : forEach (y :: l) (fun x => safetyFrame x c) s = forEach l (fun x => safetyFrame x c) (safetyFrame y c s) := rfl
    obtain ⟨hout, hsafety⟩ := ih (safetyFrame y c s) hnodup
    have hup : t1Up (safetyFrame y c s) = t1Up s := funext fun x => t1Up_safetyFrame s y x c
    rw [hstep]
    refine ⟨?_, fun x => ?_⟩
    · rw [hout, hup, safetyFrame_out, List.filter_cons]
      by_cases h : t1Up s y = true
      · simp only [if_pos h, List.length_cons]; omega
      · simp only [if_neg h]; omega
    · rw [hsafety x, hup, safetyFrame_t1]
      by_cases hx : x = y
      · subst hx
        by_cases h : t1Up s x = true <;> simp [h, hy]
      · simp [hx]

theorem sfPorts_nodup : (sfPorts s).Nodup := List.Nodup.filter _ List.nodup_range

/-! ## Counters of the end of jobs -/

/-- A step that counts only at the subindices 1 to 5 and 8 of counter objects, as the end of a job does (R72, R169, R466). -/
structure CountsLow (s t : State) : Prop where
  same : ∀ n, n % 256 ∉ [1, 2, 3, 4, 5, 8] → tblGet 0 t.counters n = tblGet 0 s.counters n

end

namespace CountsLow

variable {s t u : State}

theorem refl (s : State) : CountsLow s s := ⟨fun _ _ => rfl⟩

theorem trans (h : CountsLow s t) (k : CountsLow t u) : CountsLow s u := ⟨fun n hn => (k.same n hn).trans (h.same n hn)⟩

theorem of_counters (h : t.counters = s.counters) : CountsLow s t := ⟨fun _ _ => by rw [h]⟩

theorem of_but {l : List Nat} (h : CountersBut l s t) (hl : ∀ n ∈ l, n % 256 ∈ [1, 2, 3, 4, 5, 8]) : CountsLow s t :=
  ⟨fun n hn => h n fun hmem => hn (hl n hmem)⟩

theorem count (s : State) (i j n : Nat) (h : j ∈ [1, 2, 3, 4, 5, 8]) : CountsLow s (count i j n s) :=
  .of_but (countersBut_count s i j n [objKey i j] (by simp)) fun m hm => by
    rw [List.mem_singleton.mp hm]
    simp only [objKey, List.mem_cons, List.not_mem_nil, or_false] at h ⊢
    omega

theorem forEach {α : Type} (l : List α) (f : α → State → State) (h : ∀ a u, CountsLow u (f a u)) (s : State) :
    CountsLow s (forEach l f s) :=
  forEach_rel CountsLow refl (fun _ _ _ h k => h.trans k) f l (fun a _ u => h a u) s

end CountsLow

section

variable (s : State)

theorem countCompletion_low (j : Job) (st : BitVec 8) : CountsLow s (countCompletion j st s) := by
  unfold countCompletion
  extract_lets c s₁ s₂
  have h₁ : CountsLow s s₁ := .count s _ _ _ (by decide)
  split
  · exact h₁.trans (.trans (.count s₁ (0x7000 + c) 4 1 (by decide)) (.trans (.count _ 0x7410 1 _ (by decide)) (.count _ 0x7410 2 1 (by decide))))
  · have h₂ : CountsLow s₁ s₂ := .count s₁ _ _ _ (by decide)
    split
    · exact h₁.trans (h₂.trans (.count s₂ _ _ _ (by decide)))
    · exact h₁.trans h₂

theorem releaseJob_low (j : Job) (done : Bool) : CountsLow s (releaseJob j done s) :=
  .trans (.of_counters (t := jdel j.tag s) rfl) (.of_but (releaseJob_releases s j done).counters (by decide))

theorem notifyJob_low (j : Job) (r : CompRec) : CountsLow s (notifyJob j r s) := by
  unfold notifyJob
  split
  · exact .refl s
  · split
    · exact .of_but (countersBut_notify s _ _) (by decide)
    · exact .refl s

/-- A completion counts at the low subindices only. -/
theorem completeJob_low (g : BitVec 32) (st : BitVec 8) : CountsLow s (completeJob g st s) := by
  unfold completeJob
  split
  · exact .refl s
  · extract_lets j' s₁ s₂ r s₃
    have h₁ : CountsLow s s₁ := releaseJob_low ..
    have h₂ : CountsLow s₁ s₂ := countCompletion_low ..
    have h₃ : CountsLow s₂ s₃ := by
      simp only [s₃]
      split
      · exact .trans (.of_counters (t := qmod _ _ s₂) rfl) (notifyJob_low ..)
      · exact .count s₂ _ _ _ (by decide)
    refine h₁.trans (h₂.trans (h₃.trans (.of_counters ?_)))
    rw [settleQueue_counters, settleParts_counters]

/-! ## An entry to safe state (R434, R437) -/

/-- A property of the default and of every changed entry holds of every entry read after the change. -/
theorem tblGet_tblMap_of {α : Type} [DecidableEq α] (p : α → Prop) (d : α) (f : α → α) (hd : p d) (hf : ∀ v, p (f v)) (t : Tbl α)
    (k : Nat) : p (tblGet d (tblMap d f t) k) := by
  unfold tblMap
  induction t with
  | nil => exact hd
  | cons e t ih =>
    rw [List.map_cons, List.filter_cons]
    split
    · simp only [tblGet]
      split
      · exact hf _
      · exact ih
    · exact ih

/-- Every job that has not committed is ended. -/
def endUncommitted (s : State) : State :=
  forEach (s.sluice.jobs.filter (fun j => !(hasCommitted j))) (fun j => completeJob j.tag stSafe) s

/-- Queues stopped, the Pump's axes disabled, the T1 ports' frames made safe. -/
def safeUnits (s : State) : State :=
  { s with
    queues := tblMap {} (fun x => { x with state := .stopped }) s.queues
    pump := { s.pump with
      safe := s.pump.running
      axes := tblMap ({} : Axis) (fun a =>
        if a.state == AState.disabled && a.pending.isNone then a else { a with pending := some false }) s.pump.axes }
    t1 := tblMap {} (fun p => { p with safety := 0, launch := p.launch.map safeLaunch }) s.t1 }

/-- The first cause latched. -/
def latchFirst (c : Nat) (d : BitVec 32) (fault : Bool) (s : State) : State :=
  { s with
    island := { s.island with
      state := if fault then .safeFault else .safe, causes := BitVec.ofNat 32 (2 ^ c), first := BitVec.ofNat 8 c, detail := d
      entry := stamp s, entryAt := now s, seq := s.island.seq + 1, lost := s.island.lost }
    pins := { s.pins with safeN := false, faultN := s.pins.faultN && !fault } }

/-- A further cause latched. -/
def latchMore (c : Nat) (d : BitVec 32) (fault : Bool) (s : State) : State :=
  let same : Bool := decide (s.island.entryAt = now s) && decide (c < s.island.first.toNat)
  { s with
    island := { s.island with
      state := if fault then .safeFault else s.island.state, causes := s.island.causes ||| BitVec.ofNat 32 (2 ^ c)
      first := if same then BitVec.ofNat 8 c else s.island.first, detail := if same then d else s.island.detail }
    pins := { s.pins with faultN := s.pins.faultN && !fault } }

/-- The entry is counted and its event bit set. -/
def countEntry (s : State) : State := setEvent 0 (count 0x741d 0x0c 1 s)

theorem enterSafe_normal (c : Nat) (d : BitVec 32) (fault : Bool) (h : s.island.state = .normal) :
    enterSafe c d fault s =
      let t := countEntry (latchFirst c d fault (safeUnits (endUncommitted s)))
      if c = 10 then t else safetyFrames false (notifyAll 0x10 (safeData t) t) := by
  unfold enterSafe
  simp only [if_pos h]
  rfl

theorem enterSafe_again (c : Nat) (d : BitVec 32) (fault : Bool) (h : s.island.state ≠ .normal) :
    enterSafe c d fault s =
      if c = 10 then latchMore c d fault s else safetyFrames false (latchMore c d fault s) := by
  unfold enterSafe
  simp only [if_neg h]
  rfl

theorem endUncommitted_ending :
    Ending s (endUncommitted s) := .forEach _ _ (fun (j : Job) u => completeJob_ending u j.tag stSafe) s

theorem endUncommitted_low : CountsLow s (endUncommitted s) := .forEach _ _ (fun (j : Job) u => completeJob_low u j.tag stSafe) s

/-- What is told of an entry: frames and notify frames, nothing else. -/
theorem announced_eq (c : Nat) (t : State) (code : Nat) (d : Bytes) :
    ∃ u, (if c = 10 then t else safetyFrames false (notifyAll code d t)) = u ∧
      u = { t with out := u.out, t1 := u.t1, counters := u.counters, events := u.events, eventsAt := u.eventsAt
                   eventsNew := u.eventsNew, sessions := u.sessions, island := { t.island with frameAt := u.island.frameAt } } ∧
      CountersBut [0x741d0d, 0x741e08] t u ∧ ∀ k, NotifiedOnly (sess t k) (sess u k) := by
  refine ⟨_, rfl, ?_⟩
  split
  · exact ⟨rfl, fun _ _ => rfl, fun _ => rfl⟩
  · have hn := notifyAll_notices t code d
    have hf := safetyFrames_sent (notifyAll code d t) false
    generalize safetyFrames false (notifyAll code d t) = u at hf
    generalize notifyAll code d t = v at hn hf
    refine ⟨by rw [hf.eq, hn.eq], fun i hi => ?_, fun k => ?_⟩
    · simp only [List.mem_cons, List.not_mem_nil, or_false, not_or] at hi
      exact (hf.counters i (by simpa using hi.1)).trans (hn.counters i (by simpa using hi.2))
    · have hs : u.sessions = v.sessions := by rw [hf.eq]
      rw [show sess u k = sess v k by rw [sess, hs, sess]]
      exact hn.sess k

/-- The first entry: its cause is latched, all queues are stopped, and it is counted. -/
theorem enterSafe_first (c : Fin 11) (d : BitVec 32) (fault : Bool) (h : s.island.state = .normal) :
    let t := enterSafe c.val d fault s
    t.island.state = (if fault then .safeFault else .safe) ∧ t.island.causes = BitVec.ofNat 32 (2 ^ c.val) ∧
      t.island.first = BitVec.ofNat 8 c.val ∧ t.island.detail = d ∧ t.pins.safeN = false ∧ (∀ q, (qget t q).state = .stopped) ∧
      t.island.seq = s.island.seq + 1 ∧ counter t 0x741d 0x0c = counter s 0x741d 0x0c + 1 := by
  intro t
  have hend := (endUncommitted_ending s).eq
  have hlow := endUncommitted_low s
  obtain ⟨u, hu, heq, hcount, -⟩ := announced_eq c.val (countEntry (latchFirst c.val d fault (safeUnits (endUncommitted s)))) 0x10
    (safeData (countEntry (latchFirst c.val d fault (safeUnits (endUncommitted s)))))
  have ht : t = u := (enterSafe_normal s c.val d fault h).trans hu
  rw [ht]
  have hisland : u.island = { (latchFirst c.val d fault (safeUnits (endUncommitted s))).island with frameAt := u.island.frameAt } := by
    rw [heq]; rfl
  have hseq : (endUncommitted s).island = s.island := by rw [hend]
  refine ⟨by rw [hisland]; rfl, by rw [hisland]; rfl, by rw [hisland]; rfl, by rw [hisland]; rfl, by rw [heq]; rfl, fun q => ?_,
    ?_, ?_⟩
  · rw [qget, heq]
    exact tblGet_tblMap_of (fun x : Queue => x.state = .stopped) {} (fun x => { x with state := .stopped }) rfl (fun _ => rfl) _ q
  · rw [hisland, ← hseq]; rfl
  · exact (hcount _ (by decide)).trans ((counter_count_same (latchFirst c.val d fault (safeUnits (endUncommitted s))) 0x741d 0x0c).trans
      (congrArg (· + 1) (hlow.same _ (by decide))))

theorem enterSafe_more_island (c : Nat) (d : BitVec 32) (fault : Bool) (h : s.island.state ≠ .normal) :
    ∃ a, (enterSafe c d fault s).island = { (latchMore c d fault s).island with frameAt := a } := by
  rw [enterSafe_again s c d fault h]
  split
  · exact ⟨_, rfl⟩
  · exact ⟨_, safetyFrames_island ..⟩

/-- A further cause: its bit is set, no job ends and no entry is counted (R442). -/
theorem enterSafe_further (c : Fin 11) (d : BitVec 32) (fault : Bool) (h : s.island.state ≠ .normal) :
    let t := enterSafe c.val d fault s
    t.island.state = (if fault then .safeFault else s.island.state) ∧
      t.island.causes = s.island.causes ||| BitVec.ofNat 32 (2 ^ c.val) ∧ t.island.seq = s.island.seq ∧ t.sluice = s.sluice ∧
      counter t 0x741d 0x0c = counter s 0x741d 0x0c ∧
      (s.island.entryAt = now s → c.val < s.island.first.toNat → t.island.first = BitVec.ofNat 8 c.val ∧ t.island.detail = d) ∧
      (s.island.entryAt ≠ now s ∨ s.island.first.toNat ≤ c.val → t.island.first = s.island.first ∧ t.island.detail = s.island.detail) := by
  intro t
  obtain ⟨a, ha⟩ := enterSafe_more_island s c.val d fault h
  have hisland : t.island = { (latchMore c.val d fault s).island with frameAt := a } := ha
  refine ⟨by rw [hisland]; rfl, by rw [hisland]; rfl, by rw [hisland]; rfl, ?_, ?_, fun he hc => ?_, fun hlate => ?_⟩
  · simp only [t, enterSafe_again s c.val d fault h]
    split
    · rfl
    · rw [safetyFrames_sluice]; rfl
  · simp only [t, enterSafe_again s c.val d fault h]
    split
    · rfl
    · rw [safetyFrames_counter _ _ _ _ (by decide)]; rfl
  · rw [hisland]
    simp [latchMore, he, hc]
  · have hsame : (decide (s.island.entryAt = now s) && decide (c.val < s.island.first.toNat)) = false := by
      rcases hlate with hl | hl
      · simp [hl]
      · simp [Nat.not_lt.mpr hl]
    rw [hisland]
    simp [latchMore, hsame]

/-- The cause's bit stands after an entry, whatever the state before. -/
theorem enterSafe_cause (c : Fin 11) (d : BitVec 32) (fault : Bool) :
    (enterSafe c.val d fault s).island.causes.getLsbD c.val = true := by
  have hbit : (BitVec.ofNat 32 (2 ^ c.val)).getLsbD c.val = true := by revert c; decide
  by_cases h : s.island.state = .normal
  · obtain ⟨-, hcauses, -⟩ := enterSafe_first s c d fault h
    rw [hcauses, hbit]
  · obtain ⟨-, hcauses, -⟩ := enterSafe_further s c d fault h
    rw [hcauses, BitVec.getLsbD_or, hbit, Bool.or_true]

/-- A session only has notify frames put to it. -/
theorem enterSafe_sess (c : Nat) (d : BitVec 32) (fault : Bool) (k : Nat) :
    NotifiedOnly (sess s k) (sess (enterSafe c d fault s) k) := by
  by_cases h : s.island.state = .normal
  · have hend := (endUncommitted_ending s).sess k
    obtain ⟨u, hu, -, -, hsess⟩ := announced_eq c (countEntry (latchFirst c d fault (safeUnits (endUncommitted s)))) 0x10
      (safeData (countEntry (latchFirst c d fault (safeUnits (endUncommitted s)))))
    rw [(enterSafe_normal s c d fault h).trans hu]
    exact NotifiedOnly_trans hend (hsess k)
  · rw [enterSafe_again s c d fault h]
    split
    · rfl
    · rw [sess.eq_def (safetyFrames ..), safetyFrames_sessions]; rfl

end

end Sys2Proof.Machine

end

section
/-!
PROOF. The commands and events of safe state: entries by the island and the host, CLEAR, TRIGGERS and the repeat of the safety frame.
-/

namespace Sys2Proof.Machine

open Claims

variable (s : State)

/-! ## Entries of the island (R434, R435, R437) -/

/-- An operand of SAFE_STATE_ENTRY that the island acts on. -/
theorem safeStateEntry_enters (c : Fin 11) (d : BitVec 32) (fault : Bool) (hrun : islandRuns s = true)
    (h : c.val ∉ [5, 6, 8] ∨ (cfg s 0x4000 9).testBit c.val = true) :
    exec (.safeStateEntry c d fault) s = .next (enterSafe c.val d (causeFaults c.val d) s) := by
  show execSafeStateEntry c d fault s = _
  unfold execSafeStateEntry
  simp only [hrun, Bool.not_true, Bool.false_eq_true, if_false]
  by_cases hc : c.val = 5 ∨ c.val = 6 ∨ c.val = 8
  · have hset : (cfg s 0x4000 9).testBit c.val = true := h.resolve_left (by simpa [or_iff_not_imp_left] using hc)
    have hfault : causeFaults c.val d = false := by
      rcases hc with h | h | h <;> rw [h] <;> rfl
    rw [if_pos hc, trigger, if_pos hset, hfault]
  · rw [if_neg hc]

theorem safeStateEntry_masked (c : Fin 11) (d : BitVec 32) (fault : Bool) (hrun : islandRuns s = true) (hc : c.val ∈ [5, 6, 8])
    (h : (cfg s 0x4000 9).testBit c.val = false) : exec (.safeStateEntry c d fault) s = .next s := by
  show execSafeStateEntry c d fault s = _
  unfold execSafeStateEntry
  simp only [hrun, Bool.not_true, Bool.false_eq_true, if_false]
  rw [if_pos (by simpa using hc), trigger, if_neg (by simp [h])]

theorem hostSilent_enters (hready : ready s = true) (hw : cfg s 0x4000 0x0a ≠ 0) (hset : (cfg s 0x4000 9).testBit 8 = true) :
    exec .hostSilent s = .next (enterSafe 8 0 false (clockTo (s.island.hostHeard + 1000000 * cfg s 0x4000 0x0a) s)) := by
  show execHostSilent s = _
  unfold execHostSilent
  simp only [hw, hready, Bool.not_true, Bool.false_eq_true, or_self, if_false]
  rw [trigger, if_pos (by rw [cfg, cfgBytes, clockTo_dict, ← cfgBytes, ← cfg]; exact hset)]

theorem hostSilent_off (hw : cfg s 0x4000 0x0a = 0) : exec .hostSilent s = .next s := by
  show execHostSilent s = _
  unfold execHostSilent
  simp only [hw, true_or, if_true]

/-- The heartbeat of function `f` is noted as lost. -/
def heartbeatLost (f : Nat) (s : State) : State :=
  count 0x741d 0x0f 1 { s with island := { s.island with lost := dedup (f :: s.island.lost) } }

theorem heartbeatLoss_enters (f : BitVec 8) (hready : ready s = true) (hf : monitored s f.toNat = true) :
    ∃ d fault u, u.island = (heartbeatLost f.toNat s).island ∧ u.counters = (heartbeatLost f.toNat s).counters ∧
      exec (.heartbeatLoss f) s = .next (enterSafe 7 d fault u) := by
  have hexec : exec (.heartbeatLoss f) s = execHeartbeatLoss f s := rfl
  rw [hexec]
  unfold execHeartbeatLoss
  simp only [hf, hready, and_self, if_true]
  split
  · exact ⟨_, _, (freshNat (heartbeatLost f.toNat s)).2, rfl, rfl, rfl⟩
  · exact ⟨_, _, heartbeatLost f.toNat s, rfl, rfl, rfl⟩

theorem mem_dedup_head (a : Nat) (l : List Nat) : a ∈ dedup (a :: l) := by
  simp only [dedup, List.foldr_cons]
  split
  next h => exact h
  next => exact List.mem_cons_self ..

/-- A lost heartbeat latches its cause; a further cause leaves the function listed and the loss counted. -/
theorem heartbeatLoss_latches (f : BitVec 8) (hready : ready s = true) (hf : monitored s f.toNat = true) :
    ∃ t, exec (.heartbeatLoss f) s = .next t ∧ t.island.causes.getLsbD 7 = true ∧
      (s.island.state ≠ .normal → f.toNat ∈ t.island.lost ∧ counter t 0x741d 0x0f = counter s 0x741d 0x0f + 1) := by
  obtain ⟨d, fault, u, hisland, hcounters, hexec⟩ := heartbeatLoss_enters s f hready hf
  refine ⟨_, hexec, enterSafe_cause u 7 d fault, fun hstate => ?_⟩
  have hu : u.island.state ≠ .normal := by rw [hisland]; exact hstate
  obtain ⟨a, ha⟩ := enterSafe_more_island u 7 d fault hu
  constructor
  · rw [ha]
    show f.toNat ∈ u.island.lost
    rw [hisland]
    show f.toNat ∈ dedup (f.toNat :: s.island.lost)
    exact mem_dedup_head f.toNat s.island.lost
  · have hlost : counter u 0x741d 0x0f = counter s 0x741d 0x0f + 1 :=
      (counter_eq_of_counters hcounters _ _).trans
        (counter_count_same { s with island := { s.island with lost := dedup (f.toNat :: s.island.lost) } } 0x741d 0x0f)
    rw [enterSafe_again u 7 d fault hu, if_neg (by decide), safetyFrames_counter _ _ _ _ (by decide), ← hlost]
    rfl

/-! ## Commands of a session (R436, R441) -/

theorem answer_pins (k : Nat) (r : Reply) : (answer k r s).pins = s.pins := by rw [answer_eq]
theorem answer_power (k : Nat) (r : Reply) : (answer k r s).power = s.power := by rw [answer_eq]

theorem safeControl_passes (k j : Nat) (d : Bytes) (h : HostMay k 5 s) (hj : j = 7 ∧ d.length = 1 ∨ j = 8 ∧ d.length = 2) :
    WritePasses s k 0x4000 j d := by
  have hfam : famBase 0x4000 = (0x4000, 0) := by decide
  rcases hj with ⟨rfl, hlen⟩ | ⟨rfl, hlen⟩
  · refine ⟨.u8, .wo, 0, by decide, by decide, ?_, ?_, ?_, ?_, nofun, fun _ => ?_⟩
    · simpa [writeRight, hfam] using h.2
    · simp [notOwner, hfam]
    · simp [typeOk, otyLen, hlen]
    · simp [reservedOk, valueMask, zeroFields, recordHeader, hfam, sel, tblGet]
    · simp [rangeOk, rangeMid, hfam, sel, tblGet]
  · refine ⟨.u16, .wo, 0, by decide, by decide, ?_, ?_, ?_, ?_, nofun, fun _ => ?_⟩
    · simpa [writeRight, hfam] using h.2
    · simp [notOwner, hfam]
    · simp [typeOk, otyLen, hlen]
    · simp [reservedOk, valueMask, zeroFields, recordHeader, hfam, sel, tblGet]
    · simp [rangeOk, rangeMid, hfam, sel, tblGet]

/-- REQUEST of safe state by the session's client. -/
theorem safeRequest_enters (k : Fin 64) (h : HostMay k.val 5 s) :
    ∃ t, exec (.safeRequest k 1) s = .next t ∧ t.island.causes.getLsbD 1 = true ∧
      (s.island.state = .normal → t.island.state = .safe ∧ t.island.detail = BitVec.ofNat 32 (clientOf s k.val) ∧ t.pins.safeN = false) := by
  have he : writeEffect k.val 0x4000 7 [1] (taken k.val s) =
      .done [] (enterSafe 1 (BitVec.ofNat 32 (clientOf s k.val)) false (taken k.val s)) := by
    have hfam : famBase 0x4000 = (0x4000, 0) := by decide
    rw [← clientOf_taken s k.val]
    unfold writeEffect
    simp only [hfam]
    rfl
  have hanswer := hostWrite_answer s k.val 0x4000 7 [1] [] _ h.1 (safeControl_passes s k.val 7 [1] h (.inl ⟨rfl, rfl⟩)) he
    (enterSafe_sess _ 1 _ false k.val)
  have hstate : (taken k.val s).island.state = s.island.state := by rw [taken_eq]
  refine ⟨_, rfl, ?_⟩
  rw [hanswer, answer_island, answer_pins]
  refine ⟨enterSafe_cause _ 1 _ false, fun hnormal => ?_⟩
  obtain ⟨h₁, -, -, h₂, h₃, -⟩ := enterSafe_first (taken k.val s) 1 (BitVec.ofNat 32 (clientOf s k.val)) false (hstate.trans hnormal)
  exact ⟨h₁, h₂, h₃⟩

@[simp] theorem clearOk_taken (k v : Nat) : clearOk (taken k s) v = clearOk s v := by rw [taken_eq]; rfl

theorem writeEffect_clear (k : Nat) (v : BitVec 16) :
    writeEffect k 0x4000 8 (leBytes 2 v.toNat) s = if clearOk s v.toNat then .done [] (leaveSafe s) else .abort abConflict := by
  have hfam : famBase 0x4000 = (0x4000, 0) := by decide
  have hv : leNat (leBytes 2 v.toNat) = v.toNat := leNat_leBytes_toNat 16 2 v rfl
  unfold writeEffect
  simp only [hfam]
  show clearCommand (leNat (leBytes 2 v.toNat)) s = _
  rw [hv]
  rfl

/-- Safe state is left with its pins released and its power back, and told in frames only. -/
theorem leaveSafe_eq : (leaveSafe s).island.state = .normal ∧ (leaveSafe s).pins.safeN = true ∧
    (leaveSafe s).power = (if s.power.held then (domainsReturn s).power else { s.power with stopped := false }) := by
  unfold leaveSafe
  extract_lets s₁ island pins s₂ power s₃
  have hframes := (safetyFrames_sent s true).eq
  have hpower : s₂.power = s.power := by simp only [s₂, s₁]; rw [hframes]
  have hon : enabled s₂ = enabled s := by simp only [s₂, s₁]; rw [hframes]; rfl
  have h₃ : s₃.island.state = .normal ∧ s₃.pins.safeN = true ∧
      s₃.power = if s.power.held then (domainsReturn s).power else { s.power with stopped := false } := by
    have hback : (domainsReturn s₂).power = (domainsReturn s).power := by simp only [domainsReturn, hpower, hon]
    simp only [s₃]
    rw [hpower]
    split
    · exact ⟨rfl, rfl, hback⟩
    · exact ⟨rfl, rfl, congrArg (fun p : Power => { p with stopped := false }) hpower⟩
  have hnotice := (notifyAll_notices s₃ 0x11 (leBytes 2 s₃.island.seq.toNat)).eq
  rw [hnotice]
  exact h₃

theorem leaveSafe_sess (k : Nat) : NotifiedOnly (sess s k) (sess (leaveSafe s) k) := by
  unfold leaveSafe
  extract_lets s₁ island pins s₂ power s₃
  have hsess : s₃.sessions = s.sessions := by
    have h₁ : s₁.sessions = s.sessions := safetyFrames_sessions ..
    simp only [s₃]
    split <;> exact h₁
  have hnotice := (notifyAll_notices s₃ 0x11 (leBytes 2 s₃.island.seq.toNat)).sess k
  rwa [show sess s₃ k = sess s k by rw [sess.eq_def s₃, hsess]; rfl] at hnotice

theorem safeClear_leaves (k : Fin 64) (v : BitVec 16) (h : HostMay k.val 5 s) (hok : clearOk s v.toNat = true) :
    ∃ t, exec (.safeClear k v) s = .next t ∧ t.island.state = .normal ∧
      t.pins.safeN = true ∧ t.power.held = false ∧ t.power.stopped = false ∧
      (s.power.held = true → t.power.rising = enabled s &&& ~~~s.power.on) := by
  have he := writeEffect_clear (taken k.val s) k.val v
  rw [clearOk_taken, if_pos hok] at he
  have hanswer := hostWrite_answer s k.val 0x4000 8 _ [] _ h.1
    (safeControl_passes s k.val 8 _ h (.inr ⟨rfl, by simp⟩)) he (leaveSafe_sess _ k.val)
  obtain ⟨hstate, hpin, hpower⟩ := leaveSafe_eq (taken k.val s)
  have hback : (taken k.val s).power = s.power := by rw [taken_eq]
  have hon : enabled (taken k.val s) = enabled s := by rw [taken_eq]; rfl
  refine ⟨_, rfl, ?_⟩
  rw [hanswer, answer_island, answer_pins, answer_power, hpower, hback]
  refine ⟨hstate, hpin, ?_⟩
  cases hheld : s.power.held
  · simp [hheld]
  · simp [domainsReturn, hback, hon]

theorem safeClear_refused (k : Fin 64) (v : BitVec 16) (h : HostMay k.val 5 s) (hbad : clearOk s v.toNat = false) :
    ∃ t, exec (.safeClear k v) s = .next t ∧ RefusedWith k.val abConflict s t := by
  refine ⟨_, rfl, hostWrite_refused s k.val _ 8 _ _ h.1 (safeControl_passes s k.val 8 _ h (.inr ⟨rfl, by simp⟩)) (by decide) ?_⟩
  rw [writeEffect_clear, clearOk_taken, if_neg (by simp [hbad])]

/-! ## TRIGGERS (R436) -/

theorem triggers_passes (k : Nat) (v : BitVec 32) (h : HostMay k 5 s) :
    WritePasses s k 0x4000 9 (leBytes 4 v.toNat) := by
  have hfam : famBase 0x4000 = (0x4000, 0) := by decide
  refine ⟨.u32, .rw, 0x160, by decide, by decide, ?_, ?_, ?_, ?_, nofun, fun _ => ?_⟩
  · simpa [writeRight, hfam] using h.2
  · simp [notOwner, hfam]
  · simp [typeOk, otyLen]
  · simp [reservedOk, valueMask, zeroFields, recordHeader, hfam, sel, tblGet]
  · simp [rangeOk, rangeMid, hfam, sel, tblGet]

theorem writeEffect_triggers (k : Nat) (v : BitVec 32) (hv : v &&& ~~~(0x160 : BitVec 32) = 0) :
    writeEffect k 0x4000 9 (leBytes 4 v.toNat) s =
      if s.island.state = .normal ∧ BitVec.ofNat 32 (cfg s 0x4000 9) &&& ~~~v ≠ 0 then .abort abConflict
      else .done [] (setCfg 0x4000 9 (leBytes 4 v.toNat) s) := by
  have hfam : famBase 0x4000 = (0x4000, 0) := by decide
  have hval : BitVec.ofNat 32 (leNat (leBytes 4 v.toNat)) = v := by rw [leNat_leBytes_toNat 32 4 v rfl, BitVec.ofNat_toNat]; simp
  unfold writeEffect
  simp only [hfam]
  show triggersCommand (BitVec.ofNat 32 (leNat (leBytes 4 v.toNat))) s = _
  rw [hval]
  unfold triggersCommand
  rw [if_neg (not_not.mpr hv)]

/-! ## The repeat of the safety frame (R439) -/

theorem safetyFrameRepeat_sends (h : s.island.state ≠ .normal) (hunsent : s.island.unsent = false)
    (hcause : s.island.causes.getLsbD 10 = false) :
    ∃ t, exec .safetyFrameRepeat s = .next t ∧
      t = { s with out := t.out, t1 := t.t1, counters := t.counters,
                   clock := (clockTo (s.island.frameAt + 1000 * cfg s 0x4000 0x0e) s).clock,
                   island := { s.island with frameAt := t.island.frameAt } } ∧
      t.island.frameAt = now t ∧
      t.out.length = s.out.length + ((sfPorts s).filter (t1Up s)).length ∧
      ∀ x, (t1Of t x).safety = (t1Of s x).safety + (if x ∈ sfPorts s ∧ t1Up s x = true then 1 else 0) := by
  have hclock : ∀ n, clockTo n s = { s with clock := (clockTo n s).clock } := fun n => by unfold clockTo; split <;> rfl
  generalize hn : s.island.frameAt + 1000 * cfg s 0x4000 0x0e = n
  have hexec : exec .safetyFrameRepeat s = .next (safetyFrames false (clockTo n s)) := by
    show execSafetyFrameRepeat s = _
    unfold execSafetyFrameRepeat
    rw [if_neg (by rw [hunsent, hcause]; simpa using h), hn]
  refine ⟨_, hexec, ?_⟩
  rw [hclock n]
  generalize (clockTo n s).clock = c
  have hsent := (safetyFrames_sent { s with clock := c } false).eq
  obtain ⟨hout, hsafety⟩ := forEach_safetyFrame
    { s with clock := c, island := { s.island with frameAt := now { s with clock := c } } } (sfPorts s) (sfPorts_nodup s) false
  refine ⟨?_, ?_, hout, hsafety⟩
  · rw [hsent]
  · rw [hsent]; rfl

/-- Settles O57. -/
theorem safeState : Obligations.SafeState := by
  refine ⟨fun s c d fault => ⟨enterSafe_cause s c d fault, enterSafe_first s c d fault, enterSafe_further s c d fault,
      fun hrun => ⟨safeStateEntry_enters s c d fault hrun, safeStateEntry_masked s c d fault hrun⟩⟩,
    fun s hrun => ⟨?_, fun hready => ⟨?_, fun f hf => heartbeatLoss_latches s f hready hf⟩⟩,
    fun s k h => ⟨safeRequest_enters s k h, fun v hok => safeClear_leaves s k v h hok, fun v hbad => safeClear_refused s k v h hbad,
      fun v hv => ⟨fun hallowed => ?_, fun hnormal hlost => ?_⟩⟩,
    fun s => ⟨fun hnormal => ?_, safetyFrameRepeat_sends s⟩⟩
  · show execIslandMismatch s = _
    unfold execIslandMismatch
    rw [if_pos hrun]
  · rintro w rfl
    exact ⟨hostSilent_enters s hready, hostSilent_off s⟩
  · refine ⟨_, rfl, hostWrite_effect s k.val 0x4000 9 _ [] (setCfg 0x4000 9 (leBytes 4 v.toNat)) h.1
      (triggers_passes s k.val v h) (setCfg_keepsBooks s _ _ _) ?_⟩
    have hstate : (taken k.val s).island.state = s.island.state := by rw [taken_eq]
    rw [writeEffect_triggers _ k.val v hv, cfg_taken, hstate, if_neg]
    exact fun ⟨hnormal, hlost⟩ => hallowed.elim (· hnormal) (hlost ·)
  · refine ⟨_, rfl, hostWrite_refused s k.val 0x4000 9 _ _ h.1 (triggers_passes s k.val v h) (by decide) ?_⟩
    have hstate : (taken k.val s).island.state = s.island.state := by rw [taken_eq]
    rw [writeEffect_triggers _ k.val v hv, cfg_taken, hstate, if_pos ⟨hnormal, hlost⟩]
  · show execSafetyFrameRepeat s = _
    unfold execSafetyFrameRepeat
    rw [if_pos (.inl hnormal)]

end Sys2Proof.Machine

end

section
/-!
PROOF. A job that fails on a HARD queue takes the device into safe state (R39, R68): what a finished job can change.
-/

namespace Sys2Proof.Machine

open Claims

/-- What the end of jobs and an entry to safe state can change. The clock, the configuration, the streams' records, the units' own
state and the run of the boot stay. -/
structure Upset (s t : State) : Prop where
  eq : t = { s with
    out := t.out, fabric := t.fabric, channels := t.channels, counters := t.counters, events := t.events, eventsAt := t.eventsAt
    eventsNew := t.eventsNew, sessions := t.sessions, queues := t.queues, parts := t.parts
    sluice := { s.sluice with jobs := t.sluice.jobs, dying := t.sluice.dying, nextDying := t.sluice.nextDying }
    raised := t.raised, tiles := t.tiles, clusters := t.clusters, reserve := t.reserve
    streams := { s.streams with export_ := t.streams.export_ }
    pages := { s.pages with entries := t.pages.entries, ended := t.pages.ended }
    dir := { s.dir with tensors := t.dir.tensors, old := t.dir.old, poison := t.dir.poison }, mem := t.mem
    power := { s.power with prearm := t.power.prearm, overJobs := t.power.overJobs }
    pump := { s.pump with safe := t.pump.safe, axes := t.pump.axes }, t1 := t.t1
    island := { s.island with
      state := t.island.state, causes := t.island.causes, first := t.island.first, detail := t.island.detail, entry := t.island.entry
      entryAt := t.island.entryAt, frameAt := t.island.frameAt, seq := t.island.seq }
    pins := { s.pins with safeN := t.pins.safeN, faultN := t.pins.faultN } }
  jobs : t.sluice.jobs.Sublist s.sluice.jobs
  sess : ∀ k, NotifiedOnly (sess s k) (sess t k)

namespace Upset

variable {s t u : State}

theorem refl (s : State) : Upset s s := ⟨rfl, .refl _, fun _ => rfl⟩

theorem trans (h : Upset s t) (k : Upset t u) : Upset s u where
  eq := by rw [k.eq, h.eq]
  jobs := k.jobs.trans h.jobs
  sess n := NotifiedOnly_trans (h.sess n) (k.sess n)

theorem forEach {α : Type} (l : List α) (f : α → State → State) (h : ∀ a u, Upset u (f a u)) (s : State) :
    Upset s (forEach l f s) :=
  forEach_rel Upset refl (fun _ _ _ h k => h.trans k) f l (fun a _ u => h a u) s

theorem of_ending (h : Ending s t) : Upset s t := ⟨h.eq.trans (by rw [h.eq]), h.jobs, h.sess⟩

theorem of_safetySent (h : SafetySent s t) : Upset s t where
  eq := h.eq.trans (by rw [h.eq])
  jobs := by rw [h.eq]
  sess k := by rw [h.eq]; rfl

theorem of_notices (h : Notices s t) : Upset s t := ⟨h.eq.trans (by rw [h.eq]), by rw [h.eq], h.sess⟩

end Upset

section

variable (s : State)

theorem safeUnits_upset : Upset s (safeUnits s) := ⟨rfl, .refl _, fun _ => rfl⟩

theorem latchFirst_upset (c : Nat) (d : BitVec 32) (fault : Bool) :
    Upset s (latchFirst c d fault s) := ⟨rfl, .refl _, fun _ => rfl⟩

theorem latchMore_upset (c : Nat) (d : BitVec 32) (fault : Bool) : Upset s (latchMore c d fault s) := ⟨rfl, .refl _, fun _ => rfl⟩

theorem countEntry_upset : Upset s (countEntry s) := ⟨rfl, .refl _, fun _ => rfl⟩

theorem safetyFrames_upset (c : Bool) : Upset s (safetyFrames c s) :=
  .trans (t := { s with island := { s.island with frameAt := now s } }) ⟨rfl, .refl _, fun _ => rfl⟩
    (.of_safetySent (safetyFrames_sent s c))

theorem enterSafe_upset (c : Nat) (d : BitVec 32) (fault : Bool) : Upset s (enterSafe c d fault s) := by
  by_cases h : s.island.state = .normal
  · rw [enterSafe_normal s c d fault h]
    have hlatch : Upset s (countEntry (latchFirst c d fault (safeUnits (endUncommitted s)))) :=
      .trans (.of_ending (endUncommitted_ending s)) (.trans (safeUnits_upset _) (.trans (latchFirst_upset _ c d fault)
        (countEntry_upset _)))
    generalize countEntry (latchFirst c d fault (safeUnits (endUncommitted s))) = t at hlatch
    simp only
    split
    · exact hlatch
    · exact hlatch.trans (.trans (.of_notices (notifyAll_notices t _ _)) (safetyFrames_upset _ false))
  · rw [enterSafe_again s c d fault h]
    split
    · exact latchMore_upset s c d fault
    · exact .trans (latchMore_upset s c d fault) (safetyFrames_upset _ false)

theorem finishJob_upset (g : BitVec 32) (st : BitVec 8) : Upset s (finishJob g st s) := by
  have hend : Upset s (completeJob g st s) := .of_ending (completeJob_ending s g st)
  unfold finishJob
  split
  · exact .refl s
  · simp only
    split
    · exact hend.trans (enterSafe_upset _ 2 g false)
    · exact hend

end

end Sys2Proof.Machine

end

section
/-!
PROOF. EXPORT and IMPORT as arrivals (R138, R146, R150), and the relocation of a block (R153).
-/

namespace Sys2Proof.Machine

open Claims

/-! ## Field tests that end -/

/-- A step that ends field tests: of the block rows it wipes only those of tiles that no block excludes (R426). -/
structure TestsEnded (s t : State) : Prop where
  eq : t = { s with tiles := t.tiles, island := { s.island with tests := t.island.tests } }
  rows : ∀ b i x, entry (tileOf t b) (112 + i) x = entry (tileOf s b) (112 + i) x ∨
    blockExcludes s none b = false ∧ entry (tileOf t b) (112 + i) x = 0

namespace TestsEnded

variable {s t u : State}

theorem refl (s : State) : TestsEnded s s := ⟨rfl, fun _ _ _ => .inl rfl⟩

theorem trans (h : TestsEnded s t) (k : TestsEnded t u) : TestsEnded s u where
  eq := by rw [k.eq, h.eq]
  rows b i x := by
    have hblock : blockExcludes t none b = blockExcludes s none b := by rw [h.eq]; rfl
    rcases k.rows b i x with hk | ⟨hfree, hk⟩
    · rw [hk]; exact h.rows b i x
    · exact .inr ⟨hblock ▸ hfree, hk⟩

theorem forEach {α : Type} (l : List α) (f : α → State → State) (h : ∀ a u, TestsEnded u (f a u)) (s : State) :
    TestsEnded s (forEach l f s) :=
  forEach_rel TestsEnded refl (fun _ _ _ h k => h.trans k) f l (fun a _ u => h a u) s

/-- The block rows of a tile that a block excludes stay. -/
theorem rows_block (h : TestsEnded s t) (b i x : Nat) (hb : blockExcludes s none b = true) :
    entry (tileOf t b) (112 + i) x = entry (tileOf s b) (112 + i) x :=
  (h.rows b i x).resolve_right fun hfree => by rw [hb] at hfree; exact absurd hfree.1 (by decide)

end TestsEnded

section

variable (s : State)

theorem streamOf_streamMod (n m : Nat) (f : Stream → Stream) :
    streamOf (streamMod n f s) m = if m = n then f (streamOf s n) else streamOf s m :=
  tblGet_mod _ _ _ _ _

theorem clearTested_tests (t : Nat) : TestsEnded s (clearTested t s) where
  eq := rfl
  rows b i x := by
    unfold clearTested
    by_cases hb : b = t
    · subst hb
      simp only [tileOf_tmod, if_true]
      cases hkeep : blockExcludes s none b
      · exact .inr ⟨rfl, by simp [entry, tblGet]⟩
      · refine .inl ?_
        simp only [entry, if_true]
        rw [tblGet_filter 0 _ (fun e => decide (112 * 64 ≤ e)), if_pos (by simp; omega)]
    · refine .inl (congrArg (fun tl => entry tl (112 + i) x) ?_)
      simp only [tileOf_tmod, if_neg hb]

theorem endTest_tests (t : Nat) (f : FieldTest) : TestsEnded s (endTest t f s) := by
  have hlist : TestsEnded s { s with island := { s.island with tests := s.island.tests.filter (fun e => e.1 ≠ t) } } :=
    ⟨rfl, fun _ _ _ => .inl rfl⟩
  unfold endTest
  simp only
  split
  · exact hlist.trans (.trans (clearTested_tests _ _) (clearTested_tests _ _))
  · exact hlist

theorem abandonTests_tests (ts : List Nat) : TestsEnded s (abandonTests ts s) :=
  .forEach _ _ (fun (e : Nat × FieldTest) u => endTest_tests u e.1 e.2) s

/-- What a pre-emption of field tests changes: the tests end and are counted (R426). -/
theorem yieldTests_tests (ts : List Nat) :
    ∃ u, TestsEnded s u ∧ yieldTests ts s = { u with counters := (yieldTests ts s).counters } ∧
      CountersBut [0x741d09] s (yieldTests ts s) := by
  unfold yieldTests
  split
  · exact ⟨s, .refl s, rfl, fun _ _ => rfl⟩
  · refine ⟨abandonTests ts s, abandonTests_tests s ts, rfl, fun n hn => ?_⟩
    have hcounters : (abandonTests ts s).counters = s.counters := by rw [(abandonTests_tests s ts).eq]
    rw [countersBut_count (abandonTests ts s) 0x741d 9 _ [0x741d09] (by decide) n hn, hcounters]

/-! ## Block rows loaded (R153) -/

/-- The chunks of rows of one length, put together, are the rows. -/
theorem take_drop_flatten {α : Type} (n : Nat) (rows : List (List α)) (h : ∀ r ∈ rows, r.length = n) (i : Nat) :
    (rows.flatten.drop (n * i)).take n = rows[i]?.getD [] := by
  induction rows generalizing i with
  | nil => simp
  | cons r rows ih =>
    have hr : r.length = n := h r (by simp)
    cases i with
    | zero => simp [← hr]
    | succ i =>
      have hskip : n * (i + 1) = r.length + n * i := by rw [hr]; ring
      rw [List.flatten_cons, hskip, List.drop_append, Nat.add_sub_cancel_left, List.drop_eq_nil_of_le (by omega),
        List.nil_append, ih (fun r hm => h r (by simp [hm])), List.getElem?_cons_succ]

/-- Rows written from block row `k` on. -/
theorem entry_foldl_setRow (vs : List (List (BitVec 48))) (k i x : Nat) (tl : Tile) (hx : x < 64) (hlen : ∀ v ∈ vs, v.length = 64) :
    entry ((vs.zipIdx k).foldl (fun tl r => setRow (112 + r.2) r.1 false tl) tl) (112 + i) x =
      if k ≤ i then ((vs[i - k]?).bind (·[x]?)).getD (entry tl (112 + i) x) else entry tl (112 + i) x := by
  induction vs generalizing k tl with
  | nil => simp
  | cons v vs ih =>
    have hv : v.length = 64 := hlen v (by simp)
    rw [List.zipIdx_cons, List.foldl_cons, ih (k + 1) _ (fun v hm => hlen v (by simp [hm])), entry_setRow _ _ _ _ _ _ hx]
    rcases Nat.lt_trichotomy i k with hlt | rfl | hgt
    · rw [if_neg (by omega), if_neg (by omega), if_neg (by omega)]
    · simp [List.getElem?_eq_getElem (show x < v.length by omega)]
    · have hsub : i - k = i - (k + 1) + 1 := by omega
      rw [if_neg (by omega : ¬ 112 + i = 112 + k), if_pos (by omega), if_pos (by omega), hsub, List.getElem?_cons_succ]

/-- The rows read from a block, as they are loaded into another tile. -/
theorem entry_loadBlock_blockRows (u : State) (old spare rows i x : Nat) (hi : i < rows) (hx : x < 64) :
    entry (tileOf (loadBlock spare (blockRows s old rows) u) spare) (112 + i) x = entry (tileOf s old) (112 + i) x := by
  have hchunks : chunksOf 64 (blockRows s old rows) =
      (List.range rows).map (fun r => (List.range 64).map (fun c => entry (tileOf s old) (112 + r) c)) := by
    have hlen : (blockRows s old rows).length = rows * 64 := by simp [blockRows, Function.comp_def, List.map_const']
    have hcount : ceilDiv (rows * 64) 64 = rows := by unfold ceilDiv; omega
    refine List.ext_getElem (by simp [chunksOf, hlen, hcount]) fun r hr _ => ?_
    have hr' : r < rows := by simpa [chunksOf, hlen, hcount] using hr
    simp only [chunksOf, List.getElem_map, List.getElem_range]
    rw [blockRows, take_drop_flatten 64 _ (by simp)]
    simp [hr']
  unfold loadBlock
  rw [tileOf_tmod, if_pos rfl, hchunks, entry_foldl_setRow _ 0 i x _ hx (by simp)]
  simp [hi, hx]

theorem tileOf_wipeBlock (t b rows : Nat) :
    tileOf (wipeBlock t rows s) b = if b = t then zeroRows rows (tileOf s t) else tileOf s b := by
  rw [wipeBlock_eq_tmod, tileOf_tmod]

theorem moveBlock_eq (n spare : Nat) (m : Move) :
    moveBlock n m spare s = count 0x7412 4 1 (streamMod n (fun x => { x with moving := x.moving.filter (fun y => y.block ≠ m.block) })
      (wipeRollback [m.old] (wipeBlock m.old (streamOf s n).rows
        (loadBlock spare (blockRows s m.old (streamOf s n).rows) s)))) := rfl

theorem streamOf_count (i j n k : Nat) : streamOf (count i j n s) k = streamOf s k := rfl

/-- Moving rows keeps every stream's record. -/
theorem streamOf_moved (rows old spare : Nat) (es : List (BitVec 48)) (k : Nat) :
    streamOf (wipeRollback [old] (wipeBlock old rows (loadBlock spare es s))) k = streamOf s k := by
  have hrecs : (wipeRollback [old] (wipeBlock old rows (loadBlock spare es s))).streams.recs = s.streams.recs := by
    rw [wipeBlock_eq_tmod]; rfl
  rw [streamOf, hrecs, streamOf]

/-- The state before a move is counted: two tiles and a stream's record changed. -/
theorem moved_frame (f g : Tile → Tile) (h : Stream → Stream) (a b n : Nat) :
    ∃ ts st, streamMod n h (wipeRollback [a] (tmod a f (tmod b g s))) = { s with tiles := ts, streams := st } := by
  unfold streamMod wipeRollback tmod
  exact ⟨_, _, rfl⟩

theorem moveBlock_frame (n spare : Nat) (m : Move) :
    ∃ ts st, moveBlock n m spare s = count 0x7412 4 1 { s with tiles := ts, streams := st } := by
  rw [moveBlock_eq, wipeBlock_eq_tmod]
  obtain ⟨ts, st, h⟩ := moved_frame s (zeroRows (streamOf s n).rows) (fun tl =>
    (chunksOf 64 (blockRows s m.old (streamOf s n).rows)).zipIdx.foldl (fun tl r => setRow (112 + r.2) r.1 false tl) tl)
    (fun x => { x with moving := x.moving.filter (fun y => y.block ≠ m.block) }) m.old spare n
  exact ⟨ts, st, congrArg (count 0x7412 4 1) h⟩

theorem streamOf_moveBlock (n k spare : Nat) (m : Move) : streamOf (moveBlock n m spare s) k =
    if k = n then { streamOf s n with moving := (streamOf s n).moving.filter (fun y => y.block ≠ m.block) } else streamOf s k := by
  have hkept := fun j => streamOf_moved s (streamOf s n).rows m.old spare (blockRows s m.old (streamOf s n).rows) j
  rw [moveBlock_eq, streamOf_count, streamOf_streamMod, hkept k, hkept n]

theorem tileOf_moveBlock (n b spare : Nat) (m : Move) : tileOf (moveBlock n m spare s) b =
    tileOf (wipeBlock m.old (streamOf s n).rows (loadBlock spare (blockRows s m.old (streamOf s n).rows) s)) b := by
  rw [moveBlock_eq]
  generalize wipeBlock _ _ _ = u
  rfl

theorem moveBlock_spare (n spare i x : Nat) (m : Move) (hne : spare ≠ m.old) (hi : i < (streamOf s n).rows) (hx : x < 64) :
    entry (tileOf (moveBlock n m spare s) spare) (112 + i) x = entry (tileOf s m.old) (112 + i) x := by
  rw [tileOf_moveBlock, tileOf_wipeBlock, if_neg hne]
  exact entry_loadBlock_blockRows s s m.old spare _ i x hi hx

theorem moveBlock_old (n spare i x : Nat) (m : Move) (hi : i < (streamOf s n).rows) (hx : x < 64) :
    entry (tileOf (moveBlock n m spare s) m.old) (112 + i) x = 0 := by
  rw [tileOf_moveBlock, tileOf_wipeBlock, if_pos rfl]
  exact entry_zeroRows _ i x _ hi hx

/-- An entry that is not the default stands in the table. -/
theorem mem_of_tblGet_ne {α : Type} [DecidableEq α] (d : α) (t : Tbl α) (k : Nat) (h : tblGet d t k ≠ d) :
    (k, tblGet d t k) ∈ t := by
  induction t with
  | nil => exact absurd rfl h
  | cons e t ih =>
    unfold tblGet at h ⊢
    split at h
    next hk => rw [if_pos hk, ← hk]; exact List.mem_cons_self ..
    next hk => rw [if_neg hk]; exact List.mem_cons_of_mem _ (ih h)

/-- A block of an OPEN stream excludes its tile from whole-tile tests (R426). -/
theorem blockExcludes_of_open (n b : Nat) (hopen : (streamOf s n).state = .open_) (hb : b ∈ (streamOf s n).blocks) :
    blockExcludes s none b = true := by
  have hmem : (n, streamOf s n) ∈ s.streams.recs := mem_of_tblGet_ne ({} : Stream) s.streams.recs n fun hfree => by
    rw [streamOf, hfree] at hopen; cases hopen
  refine List.any_eq_true.mpr ⟨(b, n), List.mem_flatten.mpr ⟨_, List.mem_map.mpr ⟨_, hmem, rfl⟩, ?_⟩, by simp⟩
  simp [hopen, hb]

/-- The relocation of a block: its rows stand in the spare, the old tile's are zero, and the move is done. -/
theorem relocated (n block spare : Nat) (m : Move) (hblock : (streamOf s n).blocks[block]? = some spare)
    (hopen : (streamOf s n).state = .open_) (hne : spare ≠ m.old) :
    let t := yieldTests [spare] (moveBlock n m spare s)
    let r := streamOf s n
    (∀ i, i < r.rows → ∀ x, x < 64 → entry (tileOf t spare) (112 + i) x = entry (tileOf s m.old) (112 + i) x ∧
      entry (tileOf t m.old) (112 + i) x = 0) ∧
    streamOf t n = { r with moving := r.moving.filter (fun y => y.block ≠ m.block) } ∧
    (∀ k, k ≠ n → streamOf t k = streamOf s k) ∧ counter t 0x7412 4 = counter s 0x7412 4 + 1 ∧
    t = { s with tiles := t.tiles, streams := t.streams, counters := t.counters, island := t.island } ∧
    t.island = { s.island with tests := t.island.tests } := by
  intro t r
  obtain ⟨ts, st, hframe⟩ := moveBlock_frame s n spare m
  obtain ⟨u, hu, ht, hcount⟩ := yieldTests_tests (moveBlock n m spare s) [spare]
  have htu : t = { u with counters := t.counters } := ht
  have htile : ∀ b, tileOf t b = tileOf u b := fun b => by rw [htu]; rfl
  have hstreams : t.streams = (moveBlock n m spare s).streams := by rw [htu, hu.eq]
  have hstream : ∀ k, streamOf t k = streamOf (moveBlock n m spare s) k := fun k => by rw [streamOf, hstreams, streamOf]
  have hmoved := streamOf_moveBlock s n n spare m
  rw [if_pos rfl] at hmoved
  have hexcl : blockExcludes (moveBlock n m spare s) none spare = true :=
    blockExcludes_of_open _ n spare (by rw [hmoved]; exact hopen) (by rw [hmoved]; exact List.mem_of_getElem? hblock)
  refine ⟨fun i hi x hx => ⟨?_, ?_⟩, (hstream n).trans hmoved, fun k hk => ?_, ?_, ?_, ?_⟩
  · rw [htile, hu.rows_block spare i x hexcl, moveBlock_spare s n spare i x m hne hi hx]
  · have hzero := moveBlock_old s n spare i x m hi hx
    rw [htile]
    rcases hu.rows m.old i x with h | ⟨-, h⟩
    · rw [h, hzero]
    · exact h
  · rw [hstream, streamOf_moveBlock, if_neg hk]
  · rw [show counter t 0x7412 4 = counter (moveBlock n m spare s) 0x7412 4 from hcount _ (by decide), hframe]
    exact counter_count_same { s with tiles := ts, streams := st } 0x7412 4
  · rw [htu, hu.eq, hframe]
    rfl
  · rw [htu, hu.eq, hframe]
    rfl

/-! ## A stream that is lost (R153) -/

theorem loseStream_streamOf (n : Nat) (st : BitVec 8) :
    (streamOf (loseStream n st s) n).state = .lost ∧ (streamOf (loseStream n st s) n).blocks = [] := by
  unfold loseStream
  extract_lets r s₁ s₂
  have hend : Upset s₂ (forEach ((chunksOfStream s₂ n).filter (fun j => !(hasCommitted j))) (fun j => finishJob j.tag st) s₂) :=
    .forEach _ _ (fun (j : Job) u => finishJob_upset u j.tag st) s₂
  have hlost : streamOf s₂ n = { streamOf s₁ n with state := .lost, blocks := [], moving := [] } := (streamOf_streamMod s₁ n n _).trans (if_pos rfl)
  rw [hend.eq]
  show (streamOf s₂ n).state = .lost ∧ (streamOf s₂ n).blocks = []
  rw [hlost]
  exact ⟨rfl, rfl⟩

theorem streamRelocate_exec (n : BitVec 12) (block spare : Nat) (m : Move) (readable : Bool)
    (hmove : (streamOf s n.toNat).moving.find? (fun m => m.block = block) = some m)
    (hblock : (streamOf s n.toNat).blocks[block]? = some spare) (hopen : (streamOf s n.toNat).state = .open_) (hne : spare ≠ m.old)
    (hold : tileHeld s m.old = false) (hspare : tileHeld s spare = false)
    (hreserve : ∀ e ∈ s.reserve, e.1 = m.old → e.2.dead.isSome = true) :
    exec (.streamRelocate n block readable) s = .next (if readable = true ∨ m.image = true then
      yieldTests [spare] (moveBlock n.toNat m spare s) else loseStream n.toNat stIntegrity s) := by
  have hnone : s.reserve.filter (fun e => e.1 = m.old && e.2.dead.isNone) = [] := List.filter_eq_nil_iff.mpr fun e he => by
    have := hreserve e he
    simp only [Bool.and_eq_true, decide_eq_true_eq, not_and]
    intro htile
    simp [Option.isSome_iff_ne_none.mp (this htile)]
  show execStreamRelocate n block readable s = _
  unfold execStreamRelocate
  simp only [hmove, hblock]
  rw [if_neg (by simp [hopen, hne, hold, hspare]), hnone,
    show forEach (dedup (List.map (fun e : Nat × SaveRecord => e.2.tag) [])) (fun tag s => count 0x7416 4 1 (killJob tag s)) s = s from rfl]
  by_cases hread : readable = true ∨ m.image = true
  · rw [if_pos hread, if_pos hread]
  · rw [if_neg hread, if_neg hread]

/-! ## EXPORT and IMPORT (R138, R146, R150) -/

theorem streamCmd_passes (k op : Nat) (c : StreamCmd) (h : HostMay k 2 s) : WritePasses s k 0x3a00 1 (streamCmdBytes op c) := by
  have hfam : famBase 0x3a00 = (0x3a00, 0) := by decide
  refine ⟨.blob 32, .wo, 0, by decide, by decide, ?_, ?_, ?_, ?_, nofun, nofun⟩
  · simpa [writeRight, hfam] using h.2
  · simp [notOwner, hfam]
  · simp [typeOk, blobLenOk, hfam, length_streamCmdBytes, sel, tblGet]
  · simp [reservedOk, valueMask, zeroFields, recordHeader, hfam, sel, tblGet]

/-- A stream command that submits a service job waits for the Sluice's decision. -/
theorem streamCmd_submits (k op q : Nat) (c : StreamCmd) (v : Service) (h : HostMay k 2 s)
    (hc : streamCommand k (streamCmdBytes op c) (taken k s) = .wait (arriveService k q v c.deadline.toNat (taken k s))) :
    Awaits k (arrivalWaits s k q { deadline := c.deadline, flags := 8 } (some v) s) s
      (hostWrite k 0x3a00 1 (streamCmdBytes op c) s) := by
  have hfam : famBase 0x3a00 = (0x3a00, 0) := by decide
  refine hostWrite_arrives s k 0x3a00 1 q _ _ (some v) h.1 (streamCmd_passes s k op c h) ?_
  simp only [arriveService, BitVec.ofNat_toNat, BitVec.setWidth_eq] at hc
  simp only [writeEffect, hfam]
  exact hc

end

/-- Settles O33. -/
theorem streamMoves : Obligations.StreamMoves := by
  refine ⟨fun s k c h => ?_, fun s n block spare m readable => ?_⟩
  · intro arrived
    refine ⟨fun n hname hown => ⟨fun harg hstate => ⟨_, rfl, streamCmd_submits s k.val 3 _ c _ h ?_⟩,
      fun harg hstate hhandle => ⟨_, rfl, streamCmd_submits s k.val 4 _ c _ h ?_⟩⟩,
      fun harg hhandle hown hrun hroom hnum => ⟨_, rfl, streamCmd_submits s k.val 4 _ c _ h ?_⟩⟩
    · unfold streamCommand
      rw [parseStreamCmd_streamCmdBytes 3 c (by decide)]
      simp [harg, hname, hown, hstate]
    · have hne : c.handle.toNat ≠ 0 := fun hzero => hhandle (BitVec.eq_of_toNat_eq (by simpa using hzero))
      unfold streamCommand
      rw [parseStreamCmd_streamCmdBytes 4 c (by decide)]
      simp [harg, hname, hown, hstate, hne]
    · have hzero : c.handle.toNat = 0 := by rw [hhandle]; rfl
      have hpeek : ∀ a n, peekNat (taken k.val s) a n = peekNat s a n := fun a n => by rw [taken_eq]; rfl
      have hphys : ∀ a, ownPhysical (taken k.val s) a = ownPhysical s a := fun a => by rw [taken_eq]; rfl
      unfold streamCommand
      rw [parseStreamCmd_streamCmdBytes 4 c (by decide)]
      simp [harg, hzero, hown, hrun, hpeek, hphys, Nat.not_lt.mpr hroom, hnum]
  · intro r hmove hblock hopen hne hold hspare hreserve
    have hexec := streamRelocate_exec s n block spare m readable hmove hblock hopen hne hold hspare hreserve
    refine ⟨fun hread => ⟨_, hexec, ?_⟩, fun hread himage => ⟨_, hexec, ?_⟩⟩
    · rw [if_pos hread]
      exact relocated s n.toNat block spare m hblock hopen hne
    · rw [if_neg (by simp [hread, himage])]
      exact loseStream_streamOf s n.toNat stIntegrity

end Sys2Proof.Machine

end

section
/-!
PROOF. The effect of a request, in the state in which it executes and in the state before: two runs side by side (R468, R470).
-/

namespace Sys2Proof.Machine

open Claims

/-! ## Two runs side by side -/

/-- `v` is `u`, but that the request of session `k`, which `s` holds, has been taken: its session is busy with it, it is counted, and
HOST_WD has heard of it. -/
structure Twin (s : State) (k : Nat) (u v : State) : Prop where
  eq : v = { u with sessions := v.sessions, counters := v.counters, island := { u.island with hostHeard := v.island.hostHeard } }
  sess : sess v k = { sess u k with heard := now s, last := (sess s k).last + 1, busy := true, source := (sess s k).peer }
  session : (Machine.sess u k).open_ = (Machine.sess s k).open_ ∧ (Machine.sess u k).port = (Machine.sess s k).port ∧
    (Machine.sess u k).gen = (Machine.sess s k).gen
  others : ∀ j, j ≠ k → Machine.sess v j = Machine.sess u j
  counted : counter v 0x741e 1 = counter u 0x741e 1 + 1
  counters : CountersBut [0x741e01] u v

/-- What a function reads is none of what taking a request changes. -/
def Blind {α : Type} (g : State → α) : Prop :=
  ∀ (u : State) (ss : Tbl Session) (cs : Tbl (BitVec 64)) (h : Nat),
    g { u with sessions := ss, counters := cs, island := { u.island with hostHeard := h } } = g u

/-- The step takes both runs the same way. -/
def Fair (f : State → State) : Prop := ∀ s k u v, Twin s k u v → Twin s k (f u) (f v)

theorem twin_taken (s : State) (k : Nat) : Twin s k s (taken k s) where
  eq := by rw [taken_eq]
  sess := sess_taken s k
  session := ⟨rfl, rfl, rfl⟩
  others j hj := sess_taken_other s k j hj
  counted := by rw [taken_eq]; exact counter_count_same s 0x741e 1
  counters := by rw [taken_eq]; exact countersBut_count s 0x741e 1 1 _ (by decide)

namespace Twin

variable {s u v : State} {k : Nat}

theorem read {α : Type} {g : State → α} (h : Twin s k u v) (hg : Blind g) : g v = g u := by
  rw [h.eq]
  exact hg _ _ _ _

theorem counter_eq (h : Twin s k u v) (i j : Nat) (hne : objKey i j ≠ 0x741e01) : counter v i j = counter u i j :=
  h.counters _ (by simpa using hne)

/-- A request whose effect takes both runs the same way is answered with what it makes of the state before (R468, R470). -/
theorem did (h : Twin s k u v) (r : Reply) (hr : r.abort = 0) : Did k r u s (answer k r v) :=
  did_answer s k r hr u v h.eq h.sess h.session.2 h.others h.counted h.counters

end Twin

namespace Fair

theorem id : Fair (fun u => u) := fun _ _ _ _ h => h

theorem comp {f g : State → State} (hg : Fair g) (hf : Fair f) :
    Fair (fun u => g (f u)) := fun s k u v h => hg s k _ _ (hf s k u v h)

theorem of_keeps {f : State → State} (hf : ∀ u, KeepsBooks f u) : Fair f := fun s k u v h => by
  have heq : f v = { f u with sessions := v.sessions, counters := v.counters
                              island := { (f u).island with hostHeard := v.island.hostHeard } } := by
    conv_lhs => rw [h.eq]
    exact hf u _ _ _
  have hs : (f u).sessions = u.sessions := (hf u).sessions_eq
  have hc : (f u).counters = u.counters := (hf u).counters_eq
  have hsu : ∀ j, sess (f u) j = sess u j := fun j => by rw [sess.eq_def, hs]; rfl
  have hsv : ∀ j, sess (f v) j = sess v j := fun j => by rw [heq]; rfl
  refine ⟨by rw [heq], ?_, ?_, fun j hj => ?_, ?_, fun n hn => ?_⟩
  · rw [hsv, hsu]; exact h.sess
  · rw [hsu]; exact h.session
  · rw [hsv, hsu, h.others j hj]
  · rw [counter_eq_of_counters (v := v) (by rw [heq]), counter_eq_of_counters hc]
    exact h.counted
  · rw [hc, show (f v).counters = v.counters by rw [heq]]
    exact h.counters n hn

theorem read {α : Type} {g : State → α} {f : α → State → State} (hg : Blind g) (hf : ∀ a, Fair (f a)) :
    Fair (fun u => f (g u) u) := fun s k u v h => by
  show Twin s k (f (g u) u) (f (g v) v)
  rw [h.read hg]
  exact hf _ s k u v h

theorem forEach {α : Type} (l : List α) {f : α → State → State} (hf : ∀ a, Fair (f a)) : Fair (forEach l f) := by
  induction l with
  | nil => exact id
  | cons a l ih => exact comp (g := Machine.forEach l f) ih (hf a)

theorem ite {c : Prop} [Decidable c] {f g : State → State} (hf : Fair f) (hg : Fair g) :
    Fair (fun u => if c then f u else g u) := by
  by_cases h : c
  · simpa only [if_pos h] using hf
  · simpa only [if_neg h] using hg

theorem count (i j n : Nat) (h : objKey i j ≠ 0x741e01) : Fair (count i j n) := fun s k u v ht => by
  have hne : objKey 0x741e 1 ≠ objKey i j := fun he => h he.symm
  refine ⟨?_, ht.sess, ht.session, ht.others, ?_, fun m hm => ?_⟩
  · conv_lhs => rw [ht.eq]
    rfl
  · rw [counter_count_other _ _ _ _ _ _ hne, counter_count_other _ _ _ _ _ _ hne]
    exact ht.counted
  · have hset : ∀ w : State, tblGet 0 (Machine.count i j n w).counters m =
        if m = objKey i j then counter w i j + BitVec.ofNat 64 n else tblGet 0 w.counters m := fun w => tblGet_set ..
    rw [hset, hset, ht.counter_eq i j h, ht.counters m hm]

end Fair

section

variable (s : State)

/-- A write whose effect takes both runs the same way is answered with what it makes of the state before (R468, R470). -/
theorem hostWrite_fair (k i j : Nat) (d r : Bytes) (f : State → State) (hready : HostReady k s) (h : WritePasses s k i j d)
    (hf : Fair f) (he : writeEffect k i j d (taken k s) = .done r (f (taken k s))) :
    Did k { data := r } (f s) s (hostWrite k i j d s) := by
  have htwin := hf s k s (taken k s) (twin_taken s k)
  have hsess := htwin.sess
  obtain ⟨hopen, -, hgen⟩ := htwin.session
  rw [hostWrite_done s k i j d r _ hready ((writeValue_taken s hready h).trans he) (by rw [hsess]; exact hopen.trans hready.1)
    (by rw [hsess]; exact hgen)]
  exact htwin.did _ rfl

end

/-! ## Steps of the page store and of memory -/

theorem pokeCistern_fair (a : Nat) (b : Bytes) : Fair (pokeCistern a b) := .of_keeps fun u => pokeCistern_keepsBooks u a b

theorem entryMod_fair (e : Nat) (f : Entry → Entry) : Fair (entryMod e f) := .of_keeps fun u ss cs h => by
  unfold entryMod
  simp only [pokeCistern_eq]
  rfl

theorem entryMods_fair (es : List Nat) (f : Entry → Entry) : Fair (forEach es (fun e => entryMod e f)) :=
  .forEach es fun e => entryMod_fair e f

theorem reclaimEntry_fair (e : Nat) : Fair (reclaimEntry e) := entryMod_fair e (fun x => { gen := x.gen + 1 })

/-- The reserved entries of ended jobs, which the end of the cycle reclaims (R172). -/
def endedEntries (s : State) : List Nat := s.pages.ended.filter (fun e => decide ((entryOf s e).state = .reserved))

/-- The entries without a reference, which it reclaims too. -/
def unusedEntries (s : State) : List Nat :=
  (s.pages.entries.filter (fun e => e.2.state != .free && e.2.state != .reserved && e.2.ref == 0 && e.2.pins == 0)).map (fun e => e.1)

theorem reclaim_eq (s : State) : reclaim s = if s.pages.cycle = true then s else
    (fun u => forEach (unusedEntries u) reclaimEntry u)
      (forEach (endedEntries s) reclaimEntry { s with pages := { s.pages with ended := [] } }) := rfl

theorem reclaim_fair : Fair reclaim := by
  have hunused : Fair (fun u => forEach (unusedEntries u) reclaimEntry u) :=
    .read (g := unusedEntries) (f := fun l => forEach l reclaimEntry) (fun _ _ _ _ => rfl) fun l => .forEach l reclaimEntry_fair
  have hended : Fair (fun u => forEach (endedEntries u) reclaimEntry { u with pages := { u.pages with ended := [] } }) :=
    .read (g := endedEntries) (f := fun l u => forEach l reclaimEntry { u with pages := { u.pages with ended := [] } })
      (fun _ _ _ _ => rfl) fun l => .comp (.forEach l reclaimEntry_fair) (.of_keeps fun _ _ _ _ => rfl)
  have hall : Fair (fun u => if u.pages.cycle = true then u else
      (fun w => forEach (unusedEntries w) reclaimEntry w)
        (forEach (endedEntries u) reclaimEntry { u with pages := { u.pages with ended := [] } })) :=
    .read (g := fun u => u.pages.cycle) (f := fun c u => if c = true then u else
      (fun w => forEach (unusedEntries w) reclaimEntry w)
        (forEach (endedEntries u) reclaimEntry { u with pages := { u.pages with ended := [] } }))
      (fun _ _ _ _ => rfl) fun c => .ite .id (.comp hunused hended)
  exact fun s k u v h => by
    rw [reclaim_eq u, reclaim_eq v]
    exact hall s k u v h

end Sys2Proof.Machine

end

section
/-!
PROOF. Sequences (R164-R170): what the page store's operations leave, and the commands OPEN, FORK, CLOSE, QUERY and PAGE.
-/

namespace Sys2Proof.Machine

open Claims

/-! ## Steps that change entries only -/

/-- A step that changes page-table entries and what programs read of them. -/
def EntryWork (s t : State) : Prop := t = { s with
  mem := t.mem, pages := { s.pages with entries := t.pages.entries, ended := t.pages.ended }, dir := { s.dir with poison := t.dir.poison } }

namespace EntryWork

variable {s t u : State}

theorem refl (s : State) : EntryWork s s := rfl

theorem trans (h : EntryWork s t) (k : EntryWork t u) : EntryWork s u := by
  unfold EntryWork at *
  rw [k, h]

theorem forEach {α : Type} (l : List α) (f : α → State → State) (h : ∀ a u, EntryWork u (f a u)) (s : State) :
    EntryWork s (forEach l f s) :=
  forEach_rel EntryWork refl (fun _ _ _ h k => h.trans k) f l (fun a _ u => h a u) s

theorem seqs (h : EntryWork s t) : t.pages.seqs = s.pages.seqs := by rw [h]
theorem gens (h : EntryWork s t) : t.pages.gens = s.pages.gens := by rw [h]
theorem tables (h : EntryWork s t) : t.pages.tables = s.pages.tables := by rw [h]

end EntryWork

/-- A step of the page store that draws `n` free numbers. -/
def PageWork (n : Nat) (s t : State) : Prop := t = { s with
  freeCtr := s.freeCtr + n, mem := t.mem, pages := t.pages, counters := t.counters, dir := { s.dir with poison := t.dir.poison } }

namespace PageWork

variable {s t u : State} {n m : Nat}

theorem refl (s : State) : PageWork 0 s s := rfl

theorem trans (h : PageWork n s t) (k : PageWork m t u) : PageWork (n + m) s u := by
  unfold PageWork at *
  rw [k, h, Nat.add_assoc]

theorem of_work (h : EntryWork s t) : PageWork 0 s t := by
  unfold EntryWork at h
  unfold PageWork
  rw [h]
  rfl

end PageWork

section

variable (s : State)

theorem pokeCistern_work (a : Nat) (b : Bytes) : EntryWork s (pokeCistern a b s) := by
  rw [pokeCistern_eq]
  exact rfl

theorem entryMod_work (e : Nat) (f : Entry → Entry) : EntryWork s (entryMod e f s) := by
  unfold entryMod
  exact .trans (t := { s with pages := { s.pages with
    entries := tblSet {} s.pages.entries e { f (entryOf s e) with gen := (f (entryOf s e)).gen - genBase s e } } }) rfl
    (pokeCistern_work _ _ _)

theorem reclaim_work : EntryWork s (reclaim s) := by
  rw [reclaim_eq]
  split
  · exact .refl s
  · exact .trans (t := { s with pages := { s.pages with ended := [] } }) rfl
      (.trans (.forEach _ _ (fun e u => entryMod_work u e _) _) (.forEach _ _ (fun e u => entryMod_work u e _) _))

/-! ## A sequence put -/

/-- A sequence set in the store. -/
def seqSet (n : Nat) (q : Seq) (s : State) : State :=
  { s with pages := { s.pages with seqs := (n, q) :: s.pages.seqs.filter (fun e => e.1 ≠ n) } }

theorem seqPut_eq (n : Nat) (q : Seq) : seqPut n q s =
    pokeCistern ((poolOf s q.pool).areaBase q.area) (q.rows.map (rowBytes (seqSet n q s))).flatten (seqSet n q s) := rfl

theorem seqPut_work (n : Nat) (q : Seq) : EntryWork (seqSet n q s) (seqPut n q s) := pokeCistern_work ..

theorem seqOf_of_seqs {u v : State} (h : u.pages.seqs = v.pages.seqs) (n : Nat) : seqOf u n = seqOf v n := by
  rw [seqOf, h, seqOf]

theorem find?_filter_ne {α : Type} (l : List (Nat × α)) (n m : Nat) :
    (l.filter (fun e => e.1 ≠ n)).find? (fun e => e.1 = m) = if m = n then none else l.find? (fun e => e.1 = m) := by
  rw [List.find?_filter]
  split
  next h => simp [h]
  next h => exact congrArg (fun p => l.find? p) (funext fun e => by
      by_cases he : e.1 = m
      · simp [he, h]
      · simp [he])

theorem seqOf_seqSet (n m : Nat) (q : Seq) : seqOf (seqSet n q s) m = if m = n then some q else seqOf s m := by
  unfold seqOf seqSet
  simp only [List.find?_cons]
  by_cases h : m = n
  · simp [h]
  · have hne : ¬ n = m := fun e => h e.symm
    simp only [decide_eq_false hne, find?_filter_ne, if_neg h]

theorem seqOf_seqPut (n m : Nat) (q : Seq) : seqOf (seqPut n q s) m = if m = n then some q else seqOf s m := by
  rw [seqOf_of_seqs (seqPut_work s n q).seqs, seqOf_seqSet]

theorem seqSet_pages (n : Nat) (q : Seq) : PageWork 0 s (seqSet n q s) := rfl

theorem seqPut_fair (n : Nat) (q : Seq) : Fair (seqPut n q) := .of_keeps fun u ss cs h => by
  simp only [seqPut_eq, pokeCistern_eq]
  rfl

/-! ## A free number and area (R165, R168) -/

/-- A list of `n` numbers with more of them than are used has one left. -/
theorem filter_unused_ne_nil (l used : List Nat) (hl : l.Nodup) (h : used.length < l.length) :
    l.filter (fun n => n ∉ used) ≠ [] := by
  intro hnil
  have hsub : l ⊆ used := fun n hn => by
    by_contra hfree
    have := (List.filter_eq_nil_iff.mp hnil) n hn
    simp [hfree] at this
  exact absurd (hl.subperm hsub).length_le (by omega)

/-- Two free numbers are drawn. -/
def drawTwo (s : State) : State := { s with freeCtr := s.freeCtr + 2 }

theorem drawTwo_pages : PageWork 2 s (drawTwo s) := rfl

theorem drawTwo_fair : Fair drawTwo := .of_keeps fun _ _ _ _ => rfl

theorem freshSeq_draws (p : Nat) (hn : (numbersUsed s).length < 16383) (ha : poolSeqs s p < (poolOf s p).seqMax) :
    ∃ n a, n ≠ 0 ∧ n ∉ numbersUsed s ∧ a ∉ areasUsed s p ∧ freshSeq p s = (n, a, drawTwo s) := by
  have hnums : ((List.range 16383).map (· + 1)).filter (fun n => n ∉ numbersUsed s) ≠ [] :=
    filter_unused_ne_nil _ _ (List.nodup_range.map fun _ _ h => by simpa using h) (by simpa using hn)
  have hareas : (List.range (poolOf s p).seqMax).filter (fun a => a ∉ areasUsed s p) ≠ [] :=
    filter_unused_ne_nil _ _ List.nodup_range (by simpa [areasUsed, poolSeqs] using ha)
  obtain ⟨n, hnum, hnmem⟩ := freshChoice_mem _ s hnums
  obtain ⟨a, harea, hamem⟩ := freshChoice_mem _ { s with freeCtr := s.freeCtr + 1 } hareas
  simp only [List.mem_filter, List.mem_map, decide_eq_true_eq] at hnmem hamem
  obtain ⟨⟨i, -, hi⟩, hfree⟩ := hnmem
  refine ⟨n, a, by omega, hfree, hamem.2, ?_⟩
  have hdraw : freshChoice (((List.range 16383).map (· + 1)).filter (fun n => n ∉ numbersUsed s)) s =
      (some n, { s with freeCtr := s.freeCtr + 1 }) := Prod.ext hnum rfl
  unfold freshSeq
  rw [hdraw]
  exact Prod.ext rfl (Prod.ext (congrArg (fun o : Option Nat => o.getD 0) harea) rfl)

theorem seqRoom_lt (p : Nat) (h : seqRoom s p 1 = true) :
    (numbersUsed s).length < 16383 ∧ poolSeqs s p < (poolOf s p).seqMax := by
  simp only [seqRoom, Bool.and_eq_true, decide_eq_true_eq] at h
  omega

/-! ## A fork (R169) -/

/-- The rows of a fork at N of a sequence in a pool with TP tokens a page. -/
def forkRows (tp : Nat) (q : Seq) (n : Nat) : List BRow :=
  ((q.rows.take (ceilDiv n tp)).zipIdx).map (fun r => { r.1 with strips := min r.1.strips ((min n q.flushed - r.2 * tp) / 64) })

theorem forkRows_entries (tp n : Nat) (q : Seq) :
    (forkRows tp q n).map (fun r => r.entry) = (q.rows.take (ceilDiv n tp)).map (fun r => r.entry) := by
  have hcut : (q.rows.take (ceilDiv n tp)).zipIdx.map Prod.fst = q.rows.take (ceilDiv n tp) := List.zipIdx_map_fst ..
  conv_rhs => rw [← hcut]
  simp only [forkRows, List.map_map]
  rfl

/-- The staging entry that a fork at N shares. -/
def forkStage (q : Seq) (n : Nat) : Option Nat := if q.flushed < n then q.stage else none

/-- The record of a fork at N. -/
def forkSeq (tp : Nat) (q : Seq) (n cls a : Nat) : Seq :=
  { pool := q.pool, owner := q.owner, cls := cls, length := n, rows := forkRows tp q n, stage := forkStage q n, area := a }

/-- The entries that a fork shares count it. -/
def forkRefs (tp : Nat) (q : Seq) (n cls : Nat) (s : State) : State :=
  forEach (forkStage q n).toList (fun e => entryMod e (fun x => { x with ref := x.ref + 1 }))
    (forEach (forkRows tp q n) (fun r => entryMod r.entry (fun x => { x with ref := x.ref + 1, cls := min x.cls cls })) s)

theorem forkRefs_work (tp n cls : Nat) (q : Seq) : EntryWork s (forkRefs tp q n cls s) :=
  .trans (.forEach _ _ (fun (r : BRow) u => entryMod_work u r.entry _) s) (.forEach _ _ (fun e u => entryMod_work u e _) _)

theorem forkRefs_fair (tp n cls : Nat) (q : Seq) : Fair (forkRefs tp q n cls) :=
  .comp (g := forEach (forkStage q n).toList (fun e => entryMod e (fun x => { x with ref := x.ref + 1 })))
    (f := forEach (forkRows tp q n) (fun r => entryMod r.entry (fun x => { x with ref := x.ref + 1, cls := min x.cls cls })))
    (.forEach _ fun e => entryMod_fair e _) (.forEach _ fun r => entryMod_fair r.entry _)

/-- What a fork onto number `m` and area `a` makes of the state. -/
def forked (tp : Nat) (q : Seq) (n cls m a : Nat) (s : State) : State :=
  seqPut m (forkSeq tp q n cls a) (forkRefs tp q n cls (drawTwo s))

theorem seqForkOp_eq {m a : Nat} (q : Seq) (n cls : Nat) (h : freshSeq q.pool s = (m, a, drawTwo s)) :
    seqForkOp q n cls s = (m, forked (poolOf s q.pool).tp q n cls m a s) := by
  unfold seqForkOp
  rw [h]
  rfl

theorem forked_fair (tp n cls m a : Nat) (q : Seq) : Fair (forked tp q n cls m a) :=
  .comp (g := seqPut m (forkSeq tp q n cls a)) (f := fun u => forkRefs tp q n cls (drawTwo u)) (seqPut_fair m _)
    (.comp (g := forkRefs tp q n cls) (f := drawTwo) (forkRefs_fair tp n cls q) drawTwo_fair)

/-- A fork draws two free numbers and works on the page store. -/
theorem forked_work (tp n cls m a : Nat) (q : Seq) : PageWork 2 s (forked tp q n cls m a s) :=
  .trans (drawTwo_pages s) (.trans (.of_work (forkRefs_work (drawTwo s) tp n cls q)) (.trans (seqSet_pages _ m (forkSeq tp q n cls a))
    (.of_work (seqPut_work _ m (forkSeq tp q n cls a)))))

/-- A fork puts its sequence in and keeps every other, the generations and the branch tables. -/
theorem forked_seqs (tp n cls m a i : Nat) (q : Seq) :
    seqOf (forked tp q n cls m a s) i = if i = m then some (forkSeq tp q n cls a) else seqOf s i := by
  rw [forked, seqOf_seqPut, seqOf_of_seqs (forkRefs_work (drawTwo s) tp n cls q).seqs,
    seqOf_of_seqs (u := drawTwo s) (v := s) rfl]

theorem forked_gens (tp n cls m a : Nat) (q : Seq) : (forked tp q n cls m a s).pages.gens = s.pages.gens :=
  (seqPut_work (forkRefs tp q n cls (drawTwo s)) m (forkSeq tp q n cls a)).gens.trans (forkRefs_work (drawTwo s) tp n cls q).gens

theorem forked_tables (tp n cls m a : Nat) (q : Seq) : (forked tp q n cls m a s).pages.tables = s.pages.tables :=
  (seqPut_work (forkRefs tp q n cls (drawTwo s)) m (forkSeq tp q n cls a)).tables.trans (forkRefs_work (drawTwo s) tp n cls q).tables

end

end Sys2Proof.Machine

end

section
/-!
PROOF. The commands of sequences (R167-R170, R193).
-/

namespace Sys2Proof.Machine

open Claims

theorem EntryWork.counters {s t : State} (h : EntryWork s t) : t.counters = s.counters := by rw [h]

theorem PageWork.of_counters {s t : State} {n : Nat} (h : PageWork n s t) (hc : t.counters = s.counters) : t = { s with
    freeCtr := s.freeCtr + n, mem := t.mem, pages := t.pages, dir := { s.dir with poison := t.dir.poison } } := by
  unfold PageWork at h
  rw [hc] at h
  exact h

/-! ## Branch indices emptied (R193) -/

/-- The branch tables without the branch indices of `cut`, each with its table's number. -/
def cutTables (cut : List (Nat × Nat)) (ts : List (Nat × Table)) : List (Nat × Table) :=
  ts.map fun e => (e.1, { e.2 with branches := e.2.branches.filter (fun x => (e.1, x.1) ∉ cut) })

/-- A step that empties the branch indices of `cut`. -/
def Cut (cut : List (Nat × Nat)) (s t : State) : Prop := t = { s with
  mem := t.mem
  pages := { s.pages with tables := cutTables cut s.pages.tables, entries := t.pages.entries, ended := t.pages.ended }
  dir := { s.dir with poison := t.dir.poison } }

/-- A branch index `i` of the tables numbered `a` emptied, for programs too. -/
def emptyBranch (a i : Nat) (t : Table) (s : State) : State :=
  writeBranch t i none (tableMod a (fun t => { t with branches := t.branches.filter (fun x => x.1 ≠ i) }) s)

theorem emptyBranches_eq (n : Nat) (s : State) : emptyBranches n s = forEach s.pages.tables (fun e u =>
    forEach ((liveBranches u e.2).filter (fun b => branchSeq b.2 = n)) (fun b => emptyBranch e.1 b.1 e.2) u) s := rfl

theorem writeBranch_work (t : Table) (i : Nat) (b : Option Branch) (s : State) : EntryWork s (writeBranch t i b s) :=
  pokeCistern_work ..

theorem cutTables_cons (a i : Nat) (cut : List (Nat × Nat)) (ts : List (Nat × Table)) :
    (cutTables cut ts).map (fun e => if e.1 = a then
      (a, { e.2 with branches := e.2.branches.filter (fun x => x.1 ≠ i) }) else e) = cutTables ((a, i) :: cut) ts := by
  unfold cutTables
  rw [List.map_map]
  refine List.map_congr_left fun e _ => ?_
  by_cases h : e.1 = a
  · subst h
    simp only [Function.comp_apply, if_true, List.filter_filter]
    refine congrArg (fun l => (e.1, { e.2 with branches := l })) (List.filter_congr fun x _ => ?_)
    simp [not_or]
  · simp only [Function.comp_apply, if_neg h]
    refine congrArg (fun l => (e.1, { e.2 with branches := l })) (List.filter_congr fun x _ => ?_)
    simp [h]

section

variable {s u : State} {cut : List (Nat × Nat)}

theorem Cut.refl (s : State) : Cut [] s s := by
  unfold Cut cutTables
  simp

theorem Cut.emptyBranch (h : Cut cut s u) (a i : Nat) (t : Table) : Cut ((a, i) :: cut) s (emptyBranch a i t u) := by
  have htables : u.pages.tables = cutTables cut s.pages.tables := by rw [h]
  have hwork := writeBranch_work t i none
    (tableMod a (fun t => { t with branches := t.branches.filter (fun x => x.1 ≠ i) }) u)
  unfold Machine.emptyBranch
  generalize writeBranch t i none _ = w at hwork
  unfold Cut at h ⊢
  rw [← cutTables_cons, ← htables, hwork, tableMod]
  rw [h]

theorem Cut.liveBranches_eq (h : Cut cut s u) (t : Table) : liveBranches u t = liveBranches s t := by rw [h]; rfl

/-- Emptying a list of indices of one table empties them all. -/
theorem Cut.forEach_inner (a : Nat) (t : Table) (bs : List (Nat × Branch)) (h : Cut cut s u) :
    ∃ cut', Cut cut' s (forEach bs (fun b => Machine.emptyBranch a b.1 t) u) ∧ cut ⊆ cut' ∧ ∀ b ∈ bs, (a, b.1) ∈ cut' := by
  induction bs generalizing cut u with
  | nil => exact ⟨cut, h, fun _ hx => hx, by simp⟩
  | cons b bs ih =>
    obtain ⟨cut', hcut, hsub, hall⟩ := ih (h.emptyBranch a b.1 t)
    refine ⟨cut', hcut, fun x hx => hsub (List.mem_cons_of_mem _ hx), fun x hx => ?_⟩
    rcases List.mem_cons.mp hx with rfl | hx
    · exact hsub (List.mem_cons_self ..)
    · exact hall x hx

theorem Cut.forEach_outer (n : Nat) (ts : List (Nat × Table)) (h : Cut cut s u) :
    ∃ cut', Cut cut' s (forEach ts (fun e u =>
        forEach ((liveBranches u e.2).filter (fun b => branchSeq b.2 = n)) (fun b => Machine.emptyBranch e.1 b.1 e.2) u) u) ∧
      cut ⊆ cut' ∧ ∀ e ∈ ts, ∀ b ∈ liveBranches s e.2, branchSeq b.2 = n → (e.1, b.1) ∈ cut' := by
  induction ts generalizing cut u with
  | nil => exact ⟨cut, h, fun _ hx => hx, by simp⟩
  | cons e ts ih =>
    obtain ⟨cut₁, h₁, hsub₁, hall₁⟩ := h.forEach_inner e.1 e.2 ((liveBranches u e.2).filter (fun b => branchSeq b.2 = n))
    obtain ⟨cut₂, h₂, hsub₂, hall₂⟩ := ih h₁
    refine ⟨cut₂, h₂, fun x hx => hsub₂ (hsub₁ hx), fun x hx b hb hn => ?_⟩
    rcases List.mem_cons.mp hx with rfl | hx
    · exact hsub₂ (hall₁ b (List.mem_filter.mpr ⟨by rw [h.liveBranches_eq]; exact hb, by simp [hn]⟩))
    · exact hall₂ x hx b hb hn

end

section

variable (s : State)

/-- A sequence's close empties every live branch index that holds it (R193). -/
theorem emptyBranches_cut (n : Nat) : ∃ cut, Cut cut s (emptyBranches n s) ∧
    ∀ e ∈ s.pages.tables, ∀ b ∈ liveBranches s e.2, branchSeq b.2 = n → (e.1, b.1) ∈ cut := by
  obtain ⟨cut, hcut, -, hall⟩ := (Cut.refl s).forEach_outer n s.pages.tables
  exact ⟨cut, hcut, hall⟩

theorem emptyBranch_fair (a i : Nat) (t : Table) : Fair (emptyBranch a i t) :=
  .comp (g := writeBranch t i none) (f := tableMod a (fun t => { t with branches := t.branches.filter (fun x => x.1 ≠ i) }))
    (.read (g := fun u => (poolOf u t.pool).areaBase t.area + 64 * i) (f := fun x => pokeCistern x (zeros 16)) (fun _ _ _ _ => rfl)
      fun x => pokeCistern_fair x _)
    (.of_keeps fun _ _ _ _ => rfl)

theorem emptyBranches_fair (n : Nat) : Fair (emptyBranches n) :=
  .read (g := fun u => u.pages.tables) (f := fun ts u => forEach ts (fun e u =>
      forEach ((liveBranches u e.2).filter (fun b : Nat × Branch => branchSeq b.2 = n)) (fun b => emptyBranch e.1 b.1 e.2) u) u)
    (fun _ _ _ _ => rfl)
    fun ts => .forEach ts fun e => .read (g := fun u => (liveBranches u e.2).filter (fun b : Nat × Branch => branchSeq b.2 = n))
      (f := fun bs => forEach bs (fun b => emptyBranch e.1 b.1 e.2)) (fun _ _ _ _ => rfl)
      fun bs => .forEach bs fun b => emptyBranch_fair e.1 b.1 e.2

/-! ## A sequence closed (R170) -/

/-- Sequence `n` is gone from the store, the generation of its number advanced. -/
def seqGone (n : Nat) (s : State) : State :=
  { s with pages := { s.pages with seqs := s.pages.seqs.filter (fun e => e.1 ≠ n), gens := tblMod 0 s.pages.gens n (· + 1) } }

/-- The entries of a sequence lose its reference. -/
def dropRefs (q : Seq) (s : State) : State :=
  forEach (q.rows.map (fun r => r.entry) ++ q.stage.toList) (fun e => entryMod e (fun x => { x with ref := x.ref - 1 })) s

theorem seqCloseOp_some {n : Nat} {q : Seq} (h : seqOf s n = some q) : seqCloseOp n s = seqGone n (dropRefs q s) := by
  unfold seqCloseOp
  rw [h]
  rfl

theorem dropRefs_work (q : Seq) : EntryWork s (dropRefs q s) := .forEach _ _ (fun e u => entryMod_work u e _) s

theorem seqGone_fair (n : Nat) : Fair (seqGone n) := .of_keeps fun _ _ _ _ => rfl

theorem seqCloseOp_fair (n : Nat) : Fair (seqCloseOp n) :=
  .read (g := fun u => seqOf u n) (f := fun o u => match o with | none => u | some q => seqGone n (dropRefs q u)) (fun _ _ _ _ => rfl)
    fun o => match o with
      | none => .id
      | some q => .comp (g := seqGone n) (f := dropRefs q) (seqGone_fair n) (.forEach _ fun e => entryMod_fair e _)

theorem seqOf_seqGone (n m : Nat) : seqOf (seqGone n s) m = if m = n then none else seqOf s m := by
  unfold seqOf seqGone
  simp only [find?_filter_ne]
  split <;> rfl

theorem seqGen_seqGone (n m : Nat) : seqGen (seqGone n s) m = if m = n then seqGen s n + 1 else seqGen s m := by
  simp only [seqGen, seqGone, tblGet_mod]

theorem seqGen_of_gens {u v : State} (h : u.pages.gens = v.pages.gens) (n : Nat) : seqGen u n = seqGen v n := by
  rw [seqGen, h, seqGen]

theorem seqGone_pages (n : Nat) : PageWork 0 s (seqGone n s) := rfl

end

theorem Cut.pages {s u : State} {cut : List (Nat × Nat)} (h : Cut cut s u) : PageWork 0 s u := by
  unfold Cut at h
  unfold PageWork
  rw [h]
  rfl

/-- The close of a sequence by its command: branch indices, references, the number and what no one holds any longer. -/
def closedSeq (n : Nat) (s : State) : State := reclaim (seqCloseOp n (emptyBranches n s))

theorem closedSeq_fair (n : Nat) : Fair (closedSeq n) :=
  .comp (g := reclaim) (f := fun u => seqCloseOp n (emptyBranches n u)) reclaim_fair
    (.comp (g := seqCloseOp n) (f := emptyBranches n) (seqCloseOp_fair n) (emptyBranches_fair n))

section

variable (s : State)

theorem closedSeq_closes {n : Nat} {q : Seq} (h : seqOf s n = some q) :
    let u := closedSeq n s
    PageWork 0 s u ∧ u.counters = s.counters ∧ seqOf u n = none ∧ seqGen u n = seqGen s n + 1 ∧
      u.pages.tables.map (fun e => e.1) = s.pages.tables.map (fun e => e.1) ∧
      (∀ e ∈ u.pages.tables, ∀ b ∈ e.2.branches, (seqNamed s b.2.handle.toNat).isSome = true → branchSeq b.2 ≠ n) ∧
      ∀ m, m ≠ n → seqOf u m = seqOf s m ∧ seqGen u m = seqGen s m := by
  intro u
  obtain ⟨cut, hcut, hall⟩ := emptyBranches_cut s n
  have hu : u = reclaim (seqCloseOp n (emptyBranches n s)) := rfl
  generalize emptyBranches n s = w at hcut hu
  have hwseqs : w.pages.seqs = s.pages.seqs := by rw [hcut]
  have hwgens : w.pages.gens = s.pages.gens := by rw [hcut]
  have hwtables : w.pages.tables = cutTables cut s.pages.tables := by rw [hcut]
  have hwcount : w.counters = s.counters := by rw [hcut]
  rw [seqCloseOp_some w ((seqOf_of_seqs hwseqs n).trans h)] at hu
  have hdrop := dropRefs_work w q
  generalize dropRefs q w = x at hdrop hu
  have hwork := reclaim_work (seqGone n x)
  rw [← hu] at hwork
  have hseq : ∀ m, seqOf u m = if m = n then none else seqOf s m := fun m => by
    rw [seqOf_of_seqs hwork.seqs, seqOf_seqGone, seqOf_of_seqs hdrop.seqs, seqOf_of_seqs hwseqs]
  have hgen : ∀ m, seqGen u m = if m = n then seqGen s n + 1 else seqGen s m := fun m => by
    rw [seqGen_of_gens hwork.gens, seqGen_seqGone, seqGen_of_gens hdrop.gens, seqGen_of_gens hdrop.gens, seqGen_of_gens hwgens,
      seqGen_of_gens hwgens]
  have htables : u.pages.tables = cutTables cut s.pages.tables := hwork.tables.trans (hdrop.tables.trans hwtables)
  refine ⟨?_, ?_, (hseq n).trans (if_pos rfl), (hgen n).trans (if_pos rfl), ?_, fun e he b hb hlive hn => ?_,
    fun m hm => ⟨(hseq m).trans (if_neg hm), (hgen m).trans (if_neg hm)⟩⟩
  · exact hcut.pages.trans (.trans (.of_work hdrop) (.trans (seqGone_pages x n) (.of_work hwork)))
  · rw [hwork]; show x.counters = s.counters; rw [hdrop]; exact hwcount
  · rw [htables, cutTables, List.map_map]; rfl
  · rw [htables, cutTables] at he
    obtain ⟨e₀, he₀, rfl⟩ := List.mem_map.mp he
    obtain ⟨hb₀, hkept⟩ := List.mem_filter.mp hb
    exact absurd (hall e₀ he₀ b (List.mem_filter.mpr ⟨hb₀, hlive⟩) hn) (by simpa using hkept)

/-! ## The commands (R167, R168) -/

theorem length_seqCmdBytes (op : Nat) (c : SeqCmd) : (seqCmdBytes op c).length = 32 := by simp [seqCmdBytes]

theorem parseSeqCmd_seqCmdBytes (op : Nat) (c : SeqCmd) (hop : op < 256) : parseSeqCmd (seqCmdBytes op c) = (op, c) := by
  have hbyte : op % 2 ^ 8 = op := Nat.mod_eq_of_lt hop
  unfold parseSeqCmd seqCmdBytes
  simp (disch := simp) only [List.append_assoc, fieldAt_append_of_le, fieldAt_leBytes_append, fieldAt_leBytes, length_leBytes,
    Nat.reduceSub, Nat.reduceMul, BitVec.toNat_mod_cancel, BitVec.ofNat_toNat, BitVec.setWidth_eq, hbyte]

theorem seqCmd_passes (k op : Nat) (c : SeqCmd) (h : HostMay k 2 s) : WritePasses s k 0x3a28 1 (seqCmdBytes op c) := by
  have hfam : famBase 0x3a28 = (0x3a28, 0) := by decide
  refine ⟨.blob 32, .wo, 0, by decide, by decide, ?_, ?_, ?_, ?_, nofun, nofun⟩
  · simpa [writeRight, hfam] using h.2
  · simp [notOwner, hfam]
  · simp [typeOk, blobLenOk, hfam, length_seqCmdBytes, sel, tblGet]
  · simp [reservedOk, valueMask, zeroFields, recordHeader, hfam, sel, tblGet]

theorem writeEffect_seqCmd (k : Nat) (d : Bytes) : writeEffect k 0x3a28 1 d s = seqCommand k d s := by
  have hfam : famBase 0x3a28 = (0x3a28, 0) := by decide
  simp only [writeEffect, hfam]
  rfl

/-- A sequence command with a fair effect is answered with it. -/
theorem seqCmd_did (k op : Nat) (c : SeqCmd) (r : Bytes) (f : State → State) (h : HostMay k 2 s) (hf : Fair f)
    (hc : seqCommand k (seqCmdBytes op c) (taken k s) = .done r (f (taken k s))) :
    Did k { data := r } (f s) s (hostWrite k 0x3a28 1 (seqCmdBytes op c) s) :=
  hostWrite_fair s k 0x3a28 1 _ r f h.1 (seqCmd_passes s k op c h) hf ((writeEffect_seqCmd _ k _).trans hc)

theorem forked_counters (tp n cls m a : Nat) (q : Seq) : (forked tp q n cls m a s).counters = s.counters :=
  (seqPut_work (forkRefs tp q n cls (drawTwo s)) m (forkSeq tp q n cls a)).counters.trans (forkRefs_work (drawTwo s) tp n cls q).counters

/-- The reply about a sequence is read off the page store and the configuration. -/
theorem seqReply_congr {u v : State} (hp : u.pages = v.pages) (hd : u.dict = v.dict) (h r : Nat) (n : Option Nat) :
    seqReply u h r n = seqReply v h r n := by
  have hseq : seqOf u = seqOf v := funext fun n => by simp only [seqOf, hp]
  have hpool : poolOf u = poolOf v := funext fun p => by simp only [poolOf, cfg, cfgBytes, hd]
  have hentry : entryOf u = entryOf v := funext fun e => by simp only [entryOf, genBase, hp]
  have hrows : droppedRows u = droppedRows v := funext fun q => by unfold droppedRows; rw [hentry]
  unfold seqReply
  rw [hseq, hpool, hrows]

theorem seqHandle_of_gens {u v : State} (h : u.pages.gens = v.pages.gens) (n : Nat) : seqHandle u n = seqHandle v n := by
  rw [seqHandle, seqGen_of_gens h, seqHandle]

/-- What a fair effect leaves is replied of alike in both runs. -/
theorem Fair.seqReply_eq {f : State → State} (hf : Fair f) (k h r : Nat) (n : Option Nat) :
    seqReply (f (taken k s)) h r n = seqReply (f s) h r n := by
  have heq := (hf s k s (taken k s) (twin_taken s k)).eq
  exact seqReply_congr (by rw [heq]) (by rw [heq]) h r n

@[simp] theorem seqReply_taken (k h r : Nat) (n : Option Nat) :
    seqReply (taken k s) h r n = seqReply s h r n := Fair.id.seqReply_eq s k h r n

@[simp] theorem seqNamed_taken (k h : Nat) : seqNamed (taken k s) h = seqNamed s h := by rw [taken_eq]; rfl
@[simp] theorem pageNamed_taken (k h : Nat) : pageNamed (taken k s) h = pageNamed s h := by rw [taken_eq]; rfl
@[simp] theorem pageReply_taken (k h e : Nat) : pageReply (taken k s) h e = pageReply s h e := by rw [taken_eq]; rfl
@[simp] theorem seqBadArg_taken (k op : Nat) (c : SeqCmd) : seqBadArg (taken k s) op c = seqBadArg s op c := by rw [taken_eq]; rfl
@[simp] theorem seqRoom_taken (k p n : Nat) : seqRoom (taken k s) p n = seqRoom s p n := by rw [taken_eq]; rfl
@[simp] theorem freeEntries_taken (k p : Nat) : freeEntries (taken k s) p = freeEntries s p := by rw [taken_eq]; rfl
@[simp] theorem seqInJob_taken (k n : Nat) : seqInJob (taken k s) n = seqInJob s n := by rw [taken_eq]; rfl
@[simp] theorem seqAppended_taken (k n : Nat) : seqAppended (taken k s) n = seqAppended s n := by rw [taken_eq]; rfl
@[simp] theorem poolOf_taken (k p : Nat) : poolOf (taken k s) p = poolOf s p := by rw [taken_eq]; rfl
@[simp] theorem numbersUsed_taken (k : Nat) : numbersUsed (taken k s) = numbersUsed s := by rw [taken_eq]; rfl
@[simp] theorem areasUsed_taken (k p : Nat) : areasUsed (taken k s) p = areasUsed s p := by rw [taken_eq]; rfl
@[simp] theorem poolSeqs_taken (k p : Nat) : poolSeqs (taken k s) p = poolSeqs s p := by rw [taken_eq]; rfl

theorem seqOf_seqNamed {h n : Nat} {q : Seq} (hn : seqNamed s h = some (n, q)) : seqOf s n = some q := by
  unfold seqNamed at hn
  split at hn
  · obtain ⟨x, hx, he⟩ := Option.map_eq_some_iff.mp hn
    cases he
    exact hx
  · cases hn

/-- The effect of OPEN of number `n` on area `a`. -/
def openedSeq (n a p cls owner : Nat) (s : State) : State :=
  seqPut n { pool := p, owner := owner, cls := cls, area := a } (drawTwo s)

theorem openedSeq_fair (n a p cls owner : Nat) : Fair (openedSeq n a p cls owner) :=
  .comp (g := seqPut n { pool := p, owner := owner, cls := cls, area := a }) (f := drawTwo) (seqPut_fair n _) drawTwo_fair

theorem openedSeq_eq (n a p cls owner : Nat) : ∃ ps, openedSeq n a p cls owner s =
    { seqSet n { pool := p, owner := owner, cls := cls, area := a } (drawTwo s) with
      mem := memWrite s.mem ((poolOf s p).areaBase a) [], dir := { s.dir with poison := ps } } := by
  unfold openedSeq
  rw [seqPut_eq, pokeCistern_eq]
  exact ⟨_, rfl⟩

/-- OPEN on a pool with room draws a free number and area. -/
theorem seqCommand_open (k : Nat) (c : SeqCmd) (harg : seqBadArg s 1 c = false) (hroom : seqRoom s c.pool.toNat 1 = true)
    (hfree : 0 < freeEntries s c.pool.toNat) : ∃ n a, n ≠ 0 ∧ n ∉ numbersUsed s ∧ a ∉ areasUsed s c.pool.toNat ∧
      seqCommand k (seqCmdBytes 1 c) s =
        .done (seqReply (openedSeq n a c.pool.toNat c.cls.toNat (clientOf s k) s) (seqHandle s n) 0 (some n))
          (openedSeq n a c.pool.toNat c.cls.toNat (clientOf s k) s) := by
  obtain ⟨hnum, harea⟩ := seqRoom_lt s c.pool.toNat hroom
  obtain ⟨n, a, hpos, hn, ha, hdraw⟩ := freshSeq_draws s c.pool.toNat hnum harea
  refine ⟨n, a, hpos, hn, ha, ?_⟩
  have hgens : (openedSeq n a c.pool.toNat c.cls.toNat (clientOf s k) s).pages.gens = s.pages.gens :=
    (seqPut_work (drawTwo s) n _).gens
  have hop : seqOpenOp c.pool.toNat c.cls.toNat (clientOf s k) s = (n, openedSeq n a c.pool.toNat c.cls.toNat (clientOf s k) s) := by
    unfold seqOpenOp
    rw [hdraw]
    rfl
  unfold seqCommand
  rw [parseSeqCmd_seqCmdBytes 1 c (by decide)]
  simp only [harg, Bool.false_eq_true, if_false, if_true, hroom, hfree, and_self, hop, seqDone, seqHandle_of_gens hgens]

/-- A command on a named sequence of the client's own. -/
theorem seqCommand_named (k op n : Nat) (c : SeqCmd) (q : Seq) (hop : op = 2 ∨ op = 3 ∨ op = 4) (harg : seqBadArg s op c = false)
    (hname : seqNamed s c.handle.toNat = some (n, q)) (hfork : op = 2 → forkOk q c.tokens.toNat = true) (hown : q.owner = clientOf s k) :
    seqCommand k (seqCmdBytes op c) s = match op with
      | 2 =>
        if seqAppended s n then seqDone s c.handle.toNat (some n) 4
        else if seqRoom s q.pool 1 ∧ 0 < freeEntries s q.pool then
          seqDone (seqForkOp q c.tokens.toNat c.cls.toNat s).2
            (seqHandle (seqForkOp q c.tokens.toNat c.cls.toNat s).2 (seqForkOp q c.tokens.toNat c.cls.toNat s).1)
            (some (seqForkOp q c.tokens.toNat c.cls.toNat s).1) 0
        else seqDone s c.handle.toNat (some n) 5
      | 3 =>
        if seqInJob s n then seqDone s c.handle.toNat (some n) 4
        else .done (splice (seqReply s c.handle.toNat 0 (some n)) 5 [0]) (closedSeq n s)
      | _ => seqDone s c.handle.toNat (some n) 0 := by
  unfold seqCommand
  rw [parseSeqCmd_seqCmdBytes op c (by omega)]
  rcases hop with rfl | rfl | rfl
  · simp [harg, hname, hown, hfork rfl]
  · show (if seqBadArg s 3 c = true then _ else _) = _
    rw [if_neg (by simp [harg]), if_neg (by decide), if_neg (by decide), hname]
    show (if _ ∧ _ then _ else _) = _
    rw [if_neg (by simp), if_neg (by simp [hown])]
    rfl
  · show (if seqBadArg s 4 c = true then _ else _) = _
    rw [if_neg (by simp [harg]), if_neg (by decide), if_neg (by decide), hname]
    show (if _ ∧ _ then _ else _) = _
    rw [if_neg (by simp), if_neg (by simp [hown])]
    rfl

theorem seqCommand_page (k e : Nat) (c : SeqCmd) (harg : seqBadArg s 5 c = false) (hname : pageNamed s c.handle.toNat = some e) :
    seqCommand k (seqCmdBytes 5 c) s = .done (pageReply s c.handle.toNat e) s := by
  unfold seqCommand
  rw [parseSeqCmd_seqCmdBytes 5 c (by decide)]
  simp [harg, hname]

end

/-- Settles O34. -/
theorem sequenceCommands : Obligations.SequenceCommands := by
  intro s k c hmay h PagesOnly
  refine ⟨fun harg hroom hfree => ?_, fun n q harg hname hfork hown happ hroom hfree => ?_, fun n q harg hname hown hjob => ?_,
    fun n q harg hname hown => ⟨_, rfl, ?_⟩, fun e harg hname => ⟨_, rfl, ?_⟩⟩
  · obtain ⟨n, a, hpos, hn, ha, hc⟩ := seqCommand_open (taken k.val s) k.val c (by simpa) (by simpa) (by simpa)
    have hfair := openedSeq_fair n a c.pool.toNat c.cls.toNat (clientOf s k.val)
    rw [clientOf_taken, hfair.seqReply_eq s k.val, seqHandle_of_gens (v := s) (by rw [taken_eq])] at hc
    obtain ⟨ps, hu⟩ := openedSeq_eq s n a c.pool.toNat c.cls.toNat (clientOf s k.val)
    have hseqs := seqOf_seqPut (drawTwo s) n
    refine ⟨n, a, openedSeq n a c.pool.toNat c.cls.toNat (clientOf s k.val) s, hpos, by simpa using hn, by simpa using ha, ⟨_,
      rfl, ?_⟩,
      ?_, ?_, (hseqs n _).trans (if_pos rfl), fun m hm => (hseqs m _).trans (if_neg hm), fun b => ?_⟩
    · exact seqCmd_did s k.val 1 c _ _ hmay hfair hc
    · rw [hu]; rfl
    · rw [hu]; rfl
    · rw [hu]
      show memByte (memWrite s.mem _ []) b = _
      rw [memByte_write, if_neg (by simp only [List.length_nil]; omega)]
  · have hnamed := seqCommand_named (taken k.val s) k.val 2 n c q (.inl rfl) (by simpa) (by simpa) (fun _ => hfork) (by simpa)
    obtain ⟨hnum, harea⟩ := seqRoom_lt s q.pool hroom
    obtain ⟨m, a, -, hm, -, hdraw⟩ := freshSeq_draws (taken k.val s) q.pool (by simpa using hnum) (by simpa using harea)
    rw [seqAppended_taken, happ, if_neg Bool.false_ne_true, seqRoom_taken, freeEntries_taken, if_pos ⟨hroom, hfree⟩,
      seqForkOp_eq _ q _ _ hdraw, poolOf_taken] at hnamed
    have hfair := forked_fair (poolOf s q.pool).tp c.tokens.toNat c.cls.toNat m a q
    have hgens : (forked (poolOf s q.pool).tp q c.tokens.toNat c.cls.toNat m a (taken k.val s)).pages.gens = s.pages.gens :=
      (forked_gens _ _ _ _ _ _ q).trans (by rw [taken_eq])
    rw [seqDone, hfair.seqReply_eq s k.val, seqHandle_of_gens hgens] at hnamed
    have hpages := forked_work s (poolOf s q.pool).tp c.tokens.toNat c.cls.toNat m a q
    have hseqs := fun i => forked_seqs s (poolOf s q.pool).tp c.tokens.toNat c.cls.toNat m a i q
    have hdid := seqCmd_did s k.val 2 c _ _ hmay hfair hnamed
    have hentries := forkRows_entries (poolOf s q.pool).tp c.tokens.toNat q
    have hcount : (forked (poolOf s q.pool).tp q c.tokens.toNat c.cls.toNat m a s).counters = s.counters :=
      forked_counters s _ _ _ _ _ q
    refine ⟨m, _, forkSeq (poolOf s q.pool).tp q c.tokens.toNat c.cls.toNat a, by simpa using hm, ⟨_, rfl, hdid⟩, ?_,
      (hseqs m).trans (if_pos rfl), rfl, rfl, rfl, rfl, hentries, fun i hi => (hseqs i).trans (if_neg hi)⟩
    exact hpages.of_counters hcount
  · obtain ⟨hpages, hcount, hgone, hgen, hnums, hcut, hkept⟩ := closedSeq_closes s (seqOf_seqNamed s hname)
    have hnamed := seqCommand_named (taken k.val s) k.val 3 n c q (.inr (.inl rfl)) (by simpa) (by simpa) (by simp) (by simpa)
    rw [seqInJob_taken, hjob, if_neg Bool.false_ne_true, seqReply_taken] at hnamed
    exact ⟨_, ⟨_, rfl, seqCmd_did s k.val 3 c _ _ hmay (closedSeq_fair n) hnamed⟩, hpages.of_counters hcount, hgone, hgen, hnums,
      hcut, hkept⟩
  · have hnamed := seqCommand_named (taken k.val s) k.val 4 n c q (.inr (.inr rfl)) (by simpa) (by simpa) (by simp) (by simpa)
    exact seqCmd_did s k.val 4 c _ _ hmay .id (hnamed.trans (by simp only [seqDone, seqReply_taken]; rfl))
  · have hpage := seqCommand_page (taken k.val s) k.val e c (by simpa) (by simpa)
    exact seqCmd_did s k.val 5 c _ _ hmay .id (hpage.trans (by rw [pageReply_taken]))

end Sys2Proof.Machine

end

section
/-!
PROOF. Pools (R160, R163, R171, R172): FRAMES written, the page table laid out, and a pool's entries reclaimed.
-/

namespace Sys2Proof.Machine

open Claims

/-! ## The page table laid out (R171) -/

theorem memByte_wipe (m : Memory) (a n j : Nat) : memByte (memWipe m a n) j = if a ≤ j ∧ j < a + n then 0 else memByte m j := by
  unfold memByte memWipe
  rw [tblGet_filter 0 m (fun i => decide (i < a) || decide (a + n ≤ i))]
  by_cases h : a ≤ j ∧ j < a + n
  · rw [if_pos h, if_neg (by simp; omega)]
  · rw [if_neg h, if_pos (by simp; omega)]

/-- A step that writes memory in own Cistern only. -/
def CisternWork (s t : State) : Prop := t = { s with mem := t.mem, dir := { s.dir with poison := t.dir.poison } }

namespace CisternWork

variable {s t u : State}

theorem refl (s : State) : CisternWork s s := rfl

theorem trans (h : CisternWork s t) (k : CisternWork t u) : CisternWork s u := by
  unfold CisternWork at *
  rw [k, h]

theorem forEach {α : Type} (l : List α) (f : α → State → State) (h : ∀ a u, CisternWork u (f a u)) (s : State) :
    CisternWork s (forEach l f s) :=
  forEach_rel CisternWork refl (fun _ _ _ h k => h.trans k) f l (fun a _ u => h a u) s

end CisternWork

section

variable (s : State)

theorem healLines_cistern (a n : Nat) : CisternWork s (healLines a n s) := by
  unfold healLines
  split
  · exact .refl s
  · exact rfl

@[simp] theorem healLines_bytes (a n : Nat) : (healLines a n s).mem = s.mem := by unfold healLines; split <;> rfl

theorem pokeCistern_cistern (a : Nat) (b : Bytes) : CisternWork s (pokeCistern a b s) :=
  .trans (t := poke a b s) rfl (healLines_cistern _ _ _)

/-- The bytes of GEN in the table's free entries. -/
def pokeGens (base n : Nat) (gen : BitVec 8) (s : State) : State :=
  if gen = 0 then s else forEach (List.range n) (fun i => poke (base + 32 * (i + 1) + 2) [gen]) s

/-- The table's listed entries. -/
def pokeEntries (base : Nat) (es : List Nat) (s : State) : State :=
  forEach es (fun e s => pokeCistern (base + 32 * keyIndex e) (entryBytes (entryOf s e)) s) s

/-- The area of the table zeroed. -/
def zeroTable (base n : Nat) (s : State) : State := healLines base n (wipe base n s)

theorem pokeGens_cistern (base n : Nat) (gen : BitVec 8) : CisternWork s (pokeGens base n gen s) := by
  have hpoke : ∀ (u : State) (a : Nat), CisternWork u (poke a [gen] u) := fun _ _ => rfl
  unfold pokeGens
  split
  · exact .refl _
  · exact .forEach _ _ (fun _ u => hpoke u _) _

theorem writeTable_eq (p : Nat) : writeTable p s =
    pokeEntries (poolOf s p).tableBase ((poolEntries s p).map (fun e => e.1))
      (pokeGens (poolOf s p).tableBase (poolOf s p).lastIndex (tblGet 0 s.pages.base p)
        (zeroTable (poolOf s p).tableBase (32 * ((poolOf s p).lastIndex + 1)) s)) := by
  have hentries : ∀ u : State, CisternWork s u → poolEntries u p = poolEntries s p := fun u hu => by rw [hu]; rfl
  have hzero : CisternWork s (zeroTable (poolOf s p).tableBase (32 * ((poolOf s p).lastIndex + 1)) s) :=
    .trans (t := wipe _ _ s) rfl (healLines_cistern _ _ _)
  have hgens : CisternWork s (pokeGens (poolOf s p).tableBase (poolOf s p).lastIndex (tblGet 0 s.pages.base p)
      (zeroTable (poolOf s p).tableBase (32 * ((poolOf s p).lastIndex + 1)) s)) := hzero.trans (pokeGens_cistern _ _ _ _)
  rw [← hentries _ hgens]
  rfl

theorem writeTable_cistern (p : Nat) : CisternWork s (writeTable p s) := by
  rw [writeTable_eq]
  exact .trans (.trans (.trans (t := wipe _ _ s) rfl (healLines_cistern _ _ _)) (pokeGens_cistern _ _ _ _))
    (.forEach _ _ (fun e u => pokeCistern_cistern u _ _) _)

/-- GEN in the bytes 0x02 of the entries 1 to `n`, and nowhere else. -/
theorem forEach_poke_gen (base n : Nat) (gen : BitVec 8) (a : Nat) :
    memByte (forEach (List.range n) (fun i => poke (base + 32 * (i + 1) + 2) [gen]) s).mem a =
      if base + 32 ≤ a ∧ a < base + 32 * (n + 1) ∧ (a - base) % 32 = 2 then gen else memByte s.mem a := by
  induction n with
  | zero => rw [if_neg (by omega)]; rfl
  | succ n ih =>
    have hlast : forEach (List.range (n + 1)) (fun i => poke (base + 32 * (i + 1) + 2) [gen]) s =
        poke (base + 32 * (n + 1) + 2) [gen] (forEach (List.range n) (fun i => poke (base + 32 * (i + 1) + 2) [gen]) s) := by
      simp only [forEach, List.range_succ, List.foldl_append]
      rfl
    rw [hlast]
    show memByte (memWrite _ _ [gen]) a = _
    rw [memByte_write, ih]
    by_cases h : a = base + 32 * (n + 1) + 2
    · rw [if_pos (by simp only [List.length_singleton]; omega), if_pos (by omega), h]
      simp
    · rw [if_neg (by simp only [List.length_singleton]; omega)]
      exact if_congr (by omega) rfl rfl

theorem memByte_pokeGens (base n : Nat) (gen : BitVec 8) (a : Nat) (h : base + 32 ≤ a → (a - base) % 32 = 2 → a < base + 32 * (n + 1) →
    memByte s.mem a = 0) : memByte (pokeGens base n gen s).mem a =
      if base + 32 ≤ a ∧ a < base + 32 * (n + 1) ∧ (a - base) % 32 = 2 then gen else memByte s.mem a := by
  unfold pokeGens
  by_cases hg : gen = 0
  · rw [if_pos hg]
    split
    next hin => rw [hg]; exact h hin.1 hin.2.2 hin.2.1
    next => rfl
  · rw [if_neg hg]
    exact forEach_poke_gen s base n gen a

/-- The table of a pool without listed entries: zeros, but for the GEN that every entry has gained (R172). -/
theorem writeTable_bytes (p a : Nat) (h : poolEntries s p = []) : memByte (writeTable p s).mem a =
    if (poolOf s p).tableBase ≤ a ∧ a < (poolOf s p).tableBase + 32 * ((poolOf s p).lastIndex + 1) then
      (if 32 ≤ a - (poolOf s p).tableBase ∧ (a - (poolOf s p).tableBase) % 32 = 2 then tblGet 0 s.pages.base p else 0)
    else memByte s.mem a := by
  rw [writeTable_eq, h]
  generalize (poolOf s p).tableBase = base
  generalize (poolOf s p).lastIndex = n
  show memByte (pokeGens base n _ (zeroTable base (32 * (n + 1)) s)).mem a = _
  have hzero : memByte (zeroTable base (32 * (n + 1)) s).mem a =
      if base ≤ a ∧ a < base + 32 * (n + 1) then 0 else memByte s.mem a := by
    rw [zeroTable, healLines_bytes]
    exact memByte_wipe ..
  rw [memByte_pokeGens _ _ _ _ _ (fun h₁ _ h₂ => by rw [hzero, if_pos (by omega)]), hzero]
  by_cases hin : base ≤ a ∧ a < base + 32 * (n + 1)
  · rw [if_pos hin, if_pos hin]
    exact if_congr (by omega) rfl rfl
  · rw [if_neg hin, if_neg hin, if_neg (by omega)]

theorem healLines_fair (a n : Nat) : Fair (healLines a n) := .of_keeps fun u ss cs h => by
  unfold healLines
  by_cases hp : u.dir.poison = []
  · simp only [if_pos hp]
  · simp only [if_neg hp]

theorem writeTable_fair (p : Nat) : Fair (writeTable p) := by
  have hpoke : ∀ base es, Fair (pokeEntries base es) := fun base es => .forEach es fun e =>
    .read (g := fun u => entryBytes (entryOf u e)) (f := fun b => pokeCistern (base + 32 * keyIndex e) b) (fun _ _ _ _ => rfl)
      fun b => pokeCistern_fair _ b
  have hgens : ∀ base n gen, Fair (pokeGens base n gen) := fun base n gen =>
    .ite .id (.forEach (List.range n) fun i => .of_keeps fun _ _ _ _ => rfl)
  have hzero : ∀ base n, Fair (zeroTable base n) := fun base n =>
    .comp (g := healLines base n) (f := wipe base n) (healLines_fair base n) (.of_keeps fun _ _ _ _ => rfl)
  have hall : Fair (fun u => pokeEntries (poolOf u p).tableBase ((poolEntries u p).map (fun e => e.1))
      (pokeGens (poolOf u p).tableBase (poolOf u p).lastIndex (tblGet 0 u.pages.base p)
        (zeroTable (poolOf u p).tableBase (32 * ((poolOf u p).lastIndex + 1)) u))) :=
    .read (g := fun u => (poolOf u p, poolEntries u p, tblGet 0 u.pages.base p))
      (f := fun x u => pokeEntries x.1.tableBase (x.2.1.map (fun e => e.1))
        (pokeGens x.1.tableBase x.1.lastIndex x.2.2 (zeroTable x.1.tableBase (32 * (x.1.lastIndex + 1)) u))) (fun _ _ _ _ => rfl)
      fun x => .comp (g := pokeEntries _ _) (f := fun u => pokeGens _ _ _ (zeroTable _ _ u)) (hpoke _ _)
        (.comp (g := pokeGens _ _ _) (f := zeroTable _ _) (hgens _ _ _) (hzero _ _))
  exact fun s k u v h => by
    rw [writeTable_eq u, writeTable_eq v]
    exact hall s k u v h

/-! ## A pool reclaimed (R172) -/

/-- The listed entries after a pool's are reclaimed. -/
def reclaimedEntries (p : Nat) (es : Tbl Entry) : Tbl Entry :=
  (es.map (fun e => if keyPool e.1 = p then (e.1, ({ gen := e.2.gen } : Entry)) else e)).filter
    (fun e => decide (keyPool e.1 ≠ p) || decide (e.2 ≠ {}))

/-- The pool's entries listed anew, and its base GEN one further. -/
def relistPool (p : Nat) (s : State) : State :=
  { s with pages := { s.pages with entries := reclaimedEntries p s.pages.entries, base := tblMod 0 s.pages.base p (· + 1) } }

theorem reclaimPool_eq (p : Nat) : reclaimPool p s =
    if (poolOf s p).frames = 0 then relistPool p s else writeTable p (relistPool p s) := rfl

theorem reclaimPool_cistern (p : Nat) : CisternWork (relistPool p s) (reclaimPool p s) := by
  rw [reclaimPool_eq]
  split
  · exact .refl _
  · exact writeTable_cistern _ p

theorem reclaimPool_fair (p : Nat) : Fair (reclaimPool p) := by
  have hlist : Fair (relistPool p) := .of_keeps fun _ _ _ _ => rfl
  have hall : Fair (fun u => if (poolOf u p).frames = 0 then relistPool p u else writeTable p (relistPool p u)) :=
    .read (g := fun u => poolOf u p) (f := fun q u => if q.frames = 0 then relistPool p u else writeTable p (relistPool p u))
      (fun _ _ _ _ => rfl) fun q => .ite hlist (.comp (g := writeTable p) (f := relistPool p) (writeTable_fair p) hlist)
  exact fun s k u v h => by
    rw [reclaimPool_eq u, reclaimPool_eq v]
    exact hall s k u v h

theorem reclaimed_cons_other (p : Nat) (x : Nat × Entry) (es : Tbl Entry) (h : keyPool x.1 ≠ p) :
    reclaimedEntries p (x :: es) = x :: reclaimedEntries p es := by
  simp [reclaimedEntries, h]

theorem reclaimed_cons_own (p : Nat) (x : Nat × Entry) (es : Tbl Entry) (h : keyPool x.1 = p) : reclaimedEntries p (x :: es) =
    if ({ gen := x.2.gen } : Entry) = {} then reclaimedEntries p es else (x.1, { gen := x.2.gen }) :: reclaimedEntries p es := by
  unfold reclaimedEntries
  rw [List.map_cons, if_pos h, List.filter_cons]
  by_cases hg : ({ gen := x.2.gen } : Entry) = {}
  · rw [if_pos hg, if_neg (by simp only [hg]; simp [h])]
  · rw [if_neg hg, if_pos (by rw [Bool.or_eq_true]; exact .inr (decide_eq_true hg))]

theorem tblGet_cons_other {α : Type} (d : α) (x : Nat × α) (t : Tbl α) (e : Nat) (h : x.1 ≠ e) :
    tblGet d (x :: t) e = tblGet d t e := by
  rw [tblGet, if_neg h]

theorem tblGet_cons_same {α : Type} (d : α) (x : Nat × α) (t : Tbl α) (e : Nat) (h : x.1 = e) : tblGet d (x :: t) e = x.2 := by
  rw [tblGet, if_pos h]

/-- A listed entry bears on no other index. -/
theorem tblGet_reclaimed_skip (p e : Nat) (x : Nat × Entry) (es : Tbl Entry) (h : x.1 ≠ e) :
    tblGet {} (reclaimedEntries p (x :: es)) e = tblGet {} (reclaimedEntries p es) e := by
  by_cases hp : keyPool x.1 = p
  · rw [reclaimed_cons_own p x es hp]
    split
    · rfl
    · exact tblGet_cons_other ({} : Entry) (x.1, { gen := x.2.gen }) _ e h
  · rw [reclaimed_cons_other p x es hp, tblGet_cons_other {} x _ e h]

theorem tblGet_reclaimed_other (p e : Nat) (es : Tbl Entry) (h : keyPool e ≠ p) :
    tblGet {} (reclaimedEntries p es) e = tblGet {} es e := by
  induction es with
  | nil => rfl
  | cons x es ih =>
    by_cases hx : x.1 = e
    · rw [reclaimed_cons_other p x es (by rw [hx]; exact h), tblGet_cons_same {} x _ e hx, tblGet_cons_same {} x _ e hx]
    · rw [tblGet_reclaimed_skip p e x es hx, tblGet_cons_other {} x es e hx, ih]

theorem tblGet_reclaimed_free (p e : Nat) (es : Tbl Entry) (h : keyPool e = p) :
    (tblGet {} (reclaimedEntries p es) e).state = .free := by
  induction es with
  | nil => rfl
  | cons x es ih =>
    by_cases hx : x.1 = e
    · rw [reclaimed_cons_own p x es (by rw [hx]; exact h)]
      split
      · exact ih
      · rw [tblGet_cons_same ({} : Entry) (x.1, { gen := x.2.gen }) _ e hx]
    · rw [tblGet_reclaimed_skip p e x es hx]
      exact ih

theorem tblGet_not_listed {α : Type} (d : α) (t : Tbl α) (k : Nat) (h : k ∉ t.map (fun e => e.1)) : tblGet d t k = d := by
  induction t with
  | nil => rfl
  | cons e t ih =>
    simp only [List.map_cons, List.mem_cons, not_or] at h
    unfold tblGet
    rw [if_neg (fun he => h.1 he.symm), ih h.2]

theorem reclaimed_keys (p : Nat) (es : Tbl Entry) (k : Nat) (h : k ∉ es.map (fun e => e.1)) :
    k ∉ (reclaimedEntries p es).map (fun e => e.1) := by
  intro hk
  obtain ⟨e, he, rfl⟩ := List.mem_map.mp hk
  obtain ⟨x, hx, rfl⟩ := List.mem_map.mp (List.mem_filter.mp he).1
  refine h (List.mem_map.mpr ⟨x, hx, ?_⟩)
  split <;> rfl

/-- With each entry listed once, an entry of the pool keeps its GEN and nothing else. -/
theorem tblGet_reclaimed_own (p e : Nat) (es : Tbl Entry) (h : keyPool e = p) (hnodup : (es.map (fun x => x.1)).Nodup) :
    tblGet {} (reclaimedEntries p es) e = { gen := (tblGet ({} : Entry) es e).gen } := by
  induction es with
  | nil => rfl
  | cons x es ih =>
    obtain ⟨hfresh, hrest⟩ := List.nodup_cons.mp hnodup
    by_cases hx : x.1 = e
    · rw [reclaimed_cons_own p x es (by rw [hx]; exact h), tblGet_cons_same {} x es e hx]
      split
      next hg => rw [hg, tblGet_not_listed _ _ _ (by rw [← hx]; exact reclaimed_keys p es x.1 hfresh)]
      next => exact tblGet_cons_same ({} : Entry) (x.1, { gen := x.2.gen }) _ e hx
    · rw [tblGet_reclaimed_skip p e x es hx, tblGet_cons_other {} x es e hx, ih hrest]

/-- FRAMES 0: each of the pool's entries is FREE, its GEN one further; no other entry changes. -/
theorem entryOf_reclaimPool (p e : Nat) : (keyPool e = p → (entryOf (reclaimPool p s) e).state = .free) ∧
    (keyPool e ≠ p → entryOf (reclaimPool p s) e = entryOf s e) ∧
    (keyPool e = p → (s.pages.entries.map (fun x => x.1)).Nodup → entryOf (reclaimPool p s) e = { gen := (entryOf s e).gen + 1 }) := by
  have hentry : entryOf (reclaimPool p s) e = entryOf (relistPool p s) e := by
    have hpages : (reclaimPool p s).pages = (relistPool p s).pages := by rw [reclaimPool_cistern s p]
    simp only [entryOf, genBase, hpages]
  have hbase : genBase (relistPool p s) e = if keyPool e = p then genBase s e + 1 else genBase s e := by
    unfold genBase relistPool
    simp only [tblGet_mod]
    split
    next h => rw [h]
    next => rfl
  rw [hentry]
  refine ⟨fun h => ?_, fun h => ?_, fun h hnodup => ?_⟩
  · exact tblGet_reclaimed_free p e s.pages.entries h
  · unfold entryOf
    rw [hbase, if_neg h]
    simp only [relistPool, tblGet_reclaimed_other p e _ h]
  · unfold entryOf
    rw [hbase, if_pos h]
    simp only [relistPool, tblGet_reclaimed_own p e _ h hnodup]
    rw [BitVec.add_assoc]

/-! ## FRAMES written (R160) -/

/-- The pool's FRAMES set. -/
def framesSet (p : Nat) (v : BitVec 32) (s : State) : State := setCfg (0x3a20 + p) 6 (leBytes 4 v.toNat) s

theorem framesSet_fair (p : Nat) (v : BitVec 32) : Fair (framesSet p v) := .of_keeps fun u => setCfg_keepsBooks u _ _ _

theorem poolOf_framesSet (p : Nat) (v : BitVec 32) : (poolOf (framesSet p v s) p).frames = v.toNat := by
  show leNat (cfgBytes (setCfg (0x3a20 + p) 6 (leBytes 4 v.toNat) s) (0x3a20 + p) 6) = _
  rw [cfgBytes_setCfg_same, leNat_leBytes_toNat 32 4 v rfl]

theorem poolFrames_passes (k : Nat) (p : Fin 4) (v : BitVec 32) (h : HostMay k 1 s) (hruns : poolRuns s p.val = false) :
    WritePasses s k (0x3a20 + p.val) 6 (leBytes 4 v.toNat) := by
  have hfam := famBase_pool p
  have hdef : ∀ j : Fin 4, objDef (0x3a20 + j.val) 6 = some (.u32, .rws, 0) := by decide
  refine ⟨.u32, .rws, 0, hdef p, by decide, ?_, ?_, ?_, ?_, fun _ => ?_, fun _ => ?_⟩
  · have hright : writeRight k (0x3a20 + p.val) 6 (leBytes 4 v.toNat) = 1 := by
      have hp := p.isLt
      unfold writeRight
      simp only [hfam]
      simp
      repeat rw [if_neg (by omega)]
    rw [hright]; exact h.2
  · simp [notOwner, hfam]
  · simp [typeOk, otyLen]
  · simp [reservedOk, valueMask, zeroFields, recordHeader, hfam, sel, tblGet]
  · rw [hfam]; exact hruns
  · simp [rangeOk, rangeLow, hfam, sel, tblGet]

theorem writeEffect_poolFrames (k : Nat) (p : Fin 4) (v : BitVec 32) : writeEffect k (0x3a20 + p.val) 6 (leBytes 4 v.toNat) s =
    if v = 0 then .done [] (framesSet p.val v (reclaimPool p.val s))
    else if poolOk (framesSet p.val v s) p.val then .done [] (writeTable p.val (framesSet p.val v s)) else .abort abValueRange := by
  have hfam := famBase_pool p
  have hv : leNat (leBytes 4 v.toNat) = v.toNat := leNat_leBytes_toNat 32 4 v rfl
  have heffect : writeEffect k (0x3a20 + p.val) 6 (leBytes 4 v.toNat) s = poolWrite p.val 6 (leBytes 4 v.toNat) s := by
    simp only [writeEffect, hfam]
    rfl
  rw [heffect]
  unfold poolWrite
  rw [hv]
  by_cases hzero : v = 0
  · rw [if_pos ⟨rfl, by rw [hzero]; rfl⟩, if_pos hzero]
    rfl
  · have hnat : ¬ v.toNat = 0 := fun h => hzero (BitVec.eq_of_toNat_eq (by simpa using h))
    have hframes := poolOf_framesSet s p.val v
    unfold framesSet at hframes ⊢
    rw [if_neg (fun h => hnat h.2), if_neg hzero]
    simp only [hframes, if_neg hnat]

end

/-- Settles O35. -/
theorem poolFrames : Obligations.PoolFrames := by
  intro s k p v h hruns set q
  have hpass := poolFrames_passes s k.val p v h hruns
  have heff := writeEffect_poolFrames (taken k.val s) k.val p v
  refine ⟨fun hv hok => ?_, fun hv => ?_⟩
  · have hok' : poolOk (framesSet p.val v (taken k.val s)) p.val = true := by
      rw [taken_eq]; exact hok
    rw [if_neg hv, if_pos hok'] at heff
    refine ⟨writeTable p.val (framesSet p.val v s), ⟨_, rfl, hostWrite_fair s k.val _ 6 _ [] (fun u => writeTable p.val (framesSet p.val v u))
      h.1 hpass (.comp (writeTable_fair p.val) (framesSet_fair p.val v)) heff⟩, writeTable_cistern _ p.val, fun hnone a => ?_⟩
    exact writeTable_bytes (framesSet p.val v s) p.val a hnone
  · rw [if_pos hv] at heff
    refine ⟨reclaimPool p.val s, ⟨_, rfl, hostWrite_fair s k.val _ 6 _ [] (fun u => framesSet p.val v (reclaimPool p.val u))
      h.1 hpass (.comp (framesSet_fair p.val v) (reclaimPool_fair p.val)) heff⟩, ?_, entryOf_reclaimPool s p.val⟩
    rw [reclaimPool_cistern s p.val]
    rfl

end Sys2Proof.Machine

end

section
/-!
PROOF. Branch tables (R186-R193): CREATE, BRANCH, PRUNE, CLOSE and QUERY.
-/

namespace Sys2Proof.Machine

open Claims

/-! ## Entries put into a table -/

theorem mem_tblPut_same {α : Type} (t : Tbl α) (k : Nat) (v : α) : (k, v) ∈ tblPut t k v := by
  induction t with
  | nil => simp [tblPut]
  | cons e t ih =>
    unfold tblPut
    split
    · simp
    · split
      · simp
      · exact List.mem_cons_of_mem _ ih

theorem mem_tblPut_other {α : Type} (t : Tbl α) (k : Nat) (v : α) (e : Nat × α) (h : e ∈ t) (hne : e.1 ≠ k) :
    e ∈ tblPut t k v := by
  induction t with
  | nil => cases h
  | cons x t ih =>
    unfold tblPut
    split
    · exact List.mem_cons_of_mem _ h
    · split
      next hk =>
        rcases List.mem_cons.mp h with rfl | h
        · exact absurd hk.symm hne
        · exact List.mem_cons_of_mem _ h
      next =>
        rcases List.mem_cons.mp h with rfl | h
        · exact List.mem_cons_self ..
        · exact List.mem_cons_of_mem _ (ih h)

section

variable (s : State)

/-! ## Branch tables changed -/

theorem tableOf_of_tables {u v : State} (h : u.pages.tables = v.pages.tables) (n : Nat) : tableOf u n = tableOf v n := by
  rw [tableOf, h, tableOf]

theorem find?_map_at {α : Type} (l : List (Nat × α)) (n : Nat) (f : α → α) :
    ((l.map (fun e => if e.1 = n then (n, f e.2) else e)).find? (fun e => e.1 = n)).map (fun e => e.2) =
      ((l.find? (fun e => e.1 = n)).map (fun e => e.2)).map f := by
  induction l with
  | nil => rfl
  | cons e l ih =>
    by_cases h : e.1 = n
    · simp [h]
    · simp only [List.map_cons, if_neg h, List.find?_cons, decide_eq_false h]
      exact ih

theorem filter_map_at {α : Type} (l : List (Nat × α)) (n : Nat) (f : α → α) :
    (l.map (fun e => if e.1 = n then (n, f e.2) else e)).filter (fun e => e.1 ≠ n) = l.filter (fun e => e.1 ≠ n) := by
  induction l with
  | nil => rfl
  | cons e l ih =>
    by_cases h : e.1 = n
    · simpa [h] using ih
    · simpa [h] using ih

theorem tableOf_tableMod (n : Nat) (f : Table → Table) : tableOf (tableMod n f s) n = (tableOf s n).map f := find?_map_at ..

theorem tableMod_pages (n : Nat) (f : Table → Table) : PageWork 0 s (tableMod n f s) := rfl
theorem count_pageWork (i j n : Nat) : PageWork 0 s (count i j n s) := rfl

theorem tableMod_fair (n : Nat) (f : Table → Table) : Fair (tableMod n f) := .of_keeps fun _ _ _ _ => rfl

theorem writeBranch_fair (t : Table) (i : Nat) (b : Option Branch) : Fair (writeBranch t i b) :=
  .read (g := fun u => (poolOf u t.pool).areaBase t.area + 64 * i)
    (f := fun x => pokeCistern x (match b with | some b => branchHead b | none => zeros 16)) (fun _ _ _ _ => rfl)
    fun x => pokeCistern_fair x _

/-! ## A branch dropped (R191) -/

/-- The effect of a dropped branch on a table that is there. -/
def branchGone (tn : Nat) (t : Table) (b : Nat × Branch) (s : State) : State :=
  count 0x7414 2 1 (writeBranch t b.1 none
    (tableMod tn (fun t => { t with branches := t.branches.filter (fun x => x.1 ≠ b.1) }) (seqCloseOp (branchSeq b.2) s)))

theorem dropBranch_eq (tn : Nat) (b : Nat × Branch) :
    dropBranch tn b s = match tableOf s tn with | none => s | some t => branchGone tn t b s := rfl

theorem dropBranch_some {tn : Nat} {t : Table} (b : Nat × Branch) (h : tableOf s tn = some t) :
    dropBranch tn b s = branchGone tn t b s := by rw [dropBranch_eq, h]

theorem branchGone_fair (tn : Nat) (t : Table) (b : Nat × Branch) : Fair (branchGone tn t b) :=
  .comp (g := count 0x7414 2 1) (f := fun u => writeBranch t b.1 none (tableMod tn _ (seqCloseOp (branchSeq b.2) u)))
    (.count _ _ _ (by decide))
    (.comp (g := writeBranch t b.1 none) (f := fun u => tableMod tn _ (seqCloseOp (branchSeq b.2) u)) (writeBranch_fair t b.1 none)
      (.comp (g := tableMod tn (fun t => { t with branches := t.branches.filter (fun x => x.1 ≠ b.1) })) (f := seqCloseOp (branchSeq b.2))
        (tableMod_fair tn _) (seqCloseOp_fair _)))

theorem dropBranch_fair (tn : Nat) (b : Nat × Branch) : Fair (dropBranch tn b) :=
  .read (g := fun u => tableOf u tn) (f := fun o u => match o with | none => u | some t => branchGone tn t b u) (fun _ _ _ _ => rfl)
    fun o => match o with
      | none => .id
      | some t => branchGone_fair tn t b

/-- What a close of a sequence does to the store. -/
theorem seqCloseOp_pages (n : Nat) : PageWork 0 s (seqCloseOp n s) ∧ (seqCloseOp n s).pages.tables = s.pages.tables ∧
    ∀ m, seqOf (seqCloseOp n s) m = if m = n then none else seqOf s m := by
  cases h : seqOf s n with
  | none =>
    have hid : seqCloseOp n s = s := by unfold seqCloseOp; rw [h]
    rw [hid]
    exact ⟨.refl s, rfl, fun m => by split <;> simp_all⟩
  | some q =>
    have hwork := dropRefs_work s q
    rw [seqCloseOp_some s h]
    refine ⟨.trans (.of_work hwork) (seqGone_pages _ n), hwork.tables, fun m => ?_⟩
    rw [seqOf_seqGone, seqOf_of_seqs hwork.seqs]

/-- A dropped branch is gone from its table, and its sequence from the store. -/
theorem branchGone_drops (tn : Nat) (t : Table) (b : Nat × Branch) :
    let u := branchGone tn t b s
    PageWork 0 s u ∧
      u.pages.tables = (tableMod tn (fun t => { t with branches := t.branches.filter (fun x => x.1 ≠ b.1) }) s).pages.tables ∧
      ∀ m, seqOf u m = if m = branchSeq b.2 then none else seqOf s m := by
  obtain ⟨hpages, htables, hseqs⟩ := seqCloseOp_pages s (branchSeq b.2)
  unfold branchGone
  generalize seqCloseOp (branchSeq b.2) s = w at hpages htables hseqs
  have hwork := writeBranch_work t b.1 none (tableMod tn (fun t => { t with branches := t.branches.filter (fun x => x.1 ≠ b.1) }) w)
  refine ⟨.trans hpages (.trans (tableMod_pages w tn _) (.trans (.of_work hwork) (count_pageWork _ _ _ _))), ?_, fun m => ?_⟩
  · refine hwork.tables.trans ?_
    simp only [tableMod, htables]
  · exact (seqOf_of_seqs hwork.seqs m).trans (hseqs m)

/-- Branches dropped one after the other. -/
theorem dropBranches (tn : Nat) (t : Table) (bs : List (Nat × Branch)) (h : tableOf s tn = some t) :
    let u := forEach bs (dropBranch tn) s
    PageWork 0 s u ∧ (∃ T, tableOf u tn = some T ∧ T.branches = t.branches.filter (fun x => x.1 ∉ bs.map (fun b => b.1))) ∧
      u.pages.tables.filter (fun e => e.1 ≠ tn) = s.pages.tables.filter (fun e => e.1 ≠ tn) ∧
      (∀ m, seqOf s m = none → seqOf u m = none) ∧ ∀ b ∈ bs, seqOf u (branchSeq b.2) = none := by
  induction bs generalizing s t with
  | nil => exact ⟨.refl s, ⟨t, h, by simp⟩, rfl, fun _ hm => hm, by simp⟩
  | cons b bs ih =>
    have hstep : forEach (b :: bs) (dropBranch tn) s = forEach bs (dropBranch tn) (branchGone tn t b s) :=
      congrArg (forEach bs (dropBranch tn)) (dropBranch_some s b h)
    obtain ⟨hpages, htables, hseqs⟩ := branchGone_drops s tn t b
    generalize branchGone tn t b s = w at hstep hpages htables hseqs
    have htable : tableOf w tn = some { t with branches := t.branches.filter (fun x => x.1 ≠ b.1) } := by
      rw [tableOf_of_tables htables, tableOf_tableMod, h]
      rfl
    obtain ⟨hpages', ⟨T, hT, hbranches⟩, hothers, hnone, hgone⟩ := ih w _ htable
    have hdropped : ∀ m, m = branchSeq b.2 ∨ seqOf s m = none → seqOf w m = none := fun m hm => by
      rw [hseqs]
      rcases hm with rfl | hm
      · rw [if_pos rfl]
      · rw [hm]; split <;> rfl
    simp only [hstep]
    refine ⟨hpages.trans hpages', ⟨T, hT, ?_⟩, hothers.trans ?_, fun m hm => hnone m (hdropped m (.inr hm)), fun x hx => ?_⟩
    · rw [hbranches, List.filter_filter]
      refine List.filter_congr fun x _ => ?_
      rw [List.map_cons, ← Bool.decide_and]
      exact decide_eq_decide.mpr (by simp [not_or, and_comm])
    · rw [htables]
      unfold tableMod
      exact filter_map_at s.pages.tables tn (fun t => { t with branches := t.branches.filter (fun x => x.1 ≠ b.1) })
    · rcases List.mem_cons.mp hx with rfl | hx
      · exact hnone _ (hdropped _ (.inl rfl))
      · exact hgone x hx

/-! ## A branch added (R191) -/

/-- The branch that a fork onto number `m` makes. -/
def newBranch (s : State) (c : TableCmd) (m : Nat) : Branch :=
  { handle := BitVec.ofNat 32 (seqHandle s m), parent := c.source, cls := c.cls.toNat, forkN := c.n.toNat }

/-- The effect of a branch added at index `i` of a table that is there. -/
def branchAdded (tn tp : Nat) (t : Table) (q : Seq) (c : TableCmd) (m a i : Nat) (b : Branch) (s : State) : State :=
  count 0x7414 1 1 (writeBranch t i (some b) (tableMod tn (fun t => { t with branches := tblPut t.branches i b })
    (forked tp q c.n.toNat c.cls.toNat m a s)))

theorem freshSeq_eq (p : Nat) : freshSeq p s = ((freshSeq p s).1, (freshSeq p s).2.1, drawTwo s) := by
  unfold freshSeq
  generalize ((List.range 16383).map (· + 1)).filter (fun n => n ∉ numbersUsed s) = l
  rfl

theorem freshSeq_number (p : Nat) (hn : (numbersUsed s).length < 16383) : (freshSeq p s).1 ∉ numbersUsed s := by
  have hnums : ((List.range 16383).map (· + 1)).filter (fun n => n ∉ numbersUsed s) ≠ [] :=
    filter_unused_ne_nil _ _ (List.nodup_range.map fun _ _ h => by simpa using h) (by simpa using hn)
  obtain ⟨n, hnum, hmem⟩ := freshChoice_mem _ s hnums
  have hfirst : (freshSeq p s).1 = n := by
    unfold freshSeq
    generalize ((List.range 16383).map (· + 1)).filter (fun n => n ∉ numbersUsed s) = l at hnum
    exact congrArg (fun o : Option Nat => o.getD 0) hnum
  rw [hfirst]
  simpa using (List.mem_filter.mp hmem).2

/-- The lowest free branch index of a table. -/
def firstFree (s : State) (t : Table) : Nat := ((freeBranches s t).head?).getD 0

theorem addBranch_some {tn : Nat} {t : Table} (q : Seq) (c : TableCmd) (h : tableOf s tn = some t) :
    addBranch tn q c s = branchAdded tn (poolOf s q.pool).tp t q c (freshSeq q.pool s).1 (freshSeq q.pool s).2.1 (firstFree s t)
      (newBranch s c (freshSeq q.pool s).1) s := by
  have hfork := seqForkOp_eq s q c.n.toNat c.cls.toNat (freshSeq_eq s q.pool)
  have hhandle := seqHandle_of_gens (forked_gens s (poolOf s q.pool).tp c.n.toNat c.cls.toNat (freshSeq q.pool s).1
    (freshSeq q.pool s).2.1 q) (freshSeq q.pool s).1
  unfold addBranch
  simp only [h, hfork, hhandle]
  rfl

theorem branchAdded_fair (tn tp : Nat) (t : Table) (q : Seq) (c : TableCmd) (m a i : Nat) (b : Branch) :
    Fair (branchAdded tn tp t q c m a i b) :=
  .comp (g := count 0x7414 1 1) (f := fun u => writeBranch t i (some b) (tableMod tn _ (forked tp q c.n.toNat c.cls.toNat m a u)))
    (.count _ _ _ (by decide))
    (.comp (g := writeBranch t i (some b)) (f := fun u => tableMod tn _ (forked tp q c.n.toNat c.cls.toNat m a u))
      (writeBranch_fair t i (some b))
      (.comp (g := tableMod tn (fun t => { t with branches := tblPut t.branches i b })) (f := forked tp q c.n.toNat c.cls.toNat m a)
        (tableMod_fair tn _) (forked_fair tp _ _ m a q)))

/-- What the addition of a branch reads of the state. -/
def branchRead (tn : Nat) (q : Seq) (c : TableCmd) (s : State) : Option (Table × Nat × Branch) × Nat × Nat × Nat :=
  ((tableOf s tn).map (fun t => (t, firstFree s t, newBranch s c (freshSeq q.pool s).1)), (poolOf s q.pool).tp,
    (freshSeq q.pool s).1, (freshSeq q.pool s).2.1)

theorem addBranch_eq (tn : Nat) (q : Seq) (c : TableCmd) : addBranch tn q c s = match (branchRead tn q c s).1 with
    | none => s
    | some x => branchAdded tn (branchRead tn q c s).2.1 x.1 q c (branchRead tn q c s).2.2.1 (branchRead tn q c s).2.2.2 x.2.1 x.2.2 s := by
  cases h : tableOf s tn with
  | none =>
    unfold addBranch branchRead
    simp only [h]
    rfl
  | some t =>
    rw [addBranch_some s q c h]
    unfold branchRead
    simp only [h]
    rfl

theorem addBranch_fair (tn : Nat) (q : Seq) (c : TableCmd) : Fair (addBranch tn q c) := by
  have hall : Fair (fun u => match (branchRead tn q c u).1 with
      | none => u
      | some x => branchAdded tn (branchRead tn q c u).2.1 x.1 q c (branchRead tn q c u).2.2.1 (branchRead tn q c u).2.2.2 x.2.1 x.2.2 u) :=
    .read (g := branchRead tn q c) (f := fun x u => match x.1 with
      | none => u
      | some y => branchAdded tn x.2.1 y.1 q c x.2.2.1 x.2.2.2 y.2.1 y.2.2 u) (fun _ _ _ _ => rfl) fun x => match x with
        | (none, _) => .id
        | (some y, _) => branchAdded_fair tn _ y.1 q c _ _ y.2.1 y.2.2
  exact fun s k u v h => by
    rw [addBranch_eq u, addBranch_eq v]
    exact hall s k u v h

/-- The branch is one that the command makes. -/
def OfCommand (c : TableCmd) (b : Branch) : Prop := b.parent = c.source ∧ b.cls = c.cls.toNat ∧ b.forkN = c.n.toNat

theorem forked_store (tp n cls m a : Nat) (q : Seq) : (forked tp q n cls m a s).pages.seqs =
    (m, forkSeq tp q n cls a) :: s.pages.seqs.filter (fun e => e.1 ≠ m) := by
  refine (seqPut_work (forkRefs tp q n cls (drawTwo s)) m (forkSeq tp q n cls a)).seqs.trans ?_
  simp only [seqSet, (forkRefs_work (drawTwo s) tp n cls q).seqs]
  rfl

/-- One branch added: its sequence is new, the branch is counted, and its index holds it. -/
theorem branchAdded_adds (tn tp : Nat) (t : Table) (q : Seq) (c : TableCmd) (m a i : Nat) (b : Branch) (hm : m ∉ numbersUsed s) :
    let u := branchAdded tn tp t q c m a i b s
    PageWork 2 s u ∧ u.pages.tables = (tableMod tn (fun t => { t with branches := tblPut t.branches i b }) s).pages.tables ∧
      u.pages.seqs.length = s.pages.seqs.length + 1 ∧ counter u 0x7414 1 = counter s 0x7414 1 + 1 := by
  have hwork := forked_work s tp c.n.toNat c.cls.toNat m a q
  have htables := forked_tables s tp c.n.toNat c.cls.toNat m a q
  have hcount := forked_counters s tp c.n.toNat c.cls.toNat m a q
  have hseqs := forked_store s tp c.n.toNat c.cls.toNat m a q
  have hfresh : s.pages.seqs.filter (fun e => e.1 ≠ m) = s.pages.seqs := List.filter_eq_self.mpr fun e he =>
    decide_eq_true fun heq => hm (List.mem_append_left _ (List.mem_map.mpr ⟨e, he, heq⟩))
  unfold branchAdded
  generalize forked tp q c.n.toNat c.cls.toNat m a s = w at hwork htables hcount hseqs
  have hput := writeBranch_work t i (some b) (tableMod tn (fun t => { t with branches := tblPut t.branches i b }) w)
  generalize writeBranch t i (some b) _ = x at hput
  refine ⟨.trans hwork (.trans (tableMod_pages w tn _) (.trans (.of_work hput) (count_pageWork _ _ _ _))), ?_, ?_, ?_⟩
  · refine hput.tables.trans ?_
    simp only [tableMod, htables]
  · show x.pages.seqs.length = _
    rw [hput.seqs]
    show w.pages.seqs.length = _
    rw [hseqs, hfresh, List.length_cons]
  · rw [counter_count_same, counter_eq_of_counters hput.counters]
    exact congrArg (· + 1) (counter_eq_of_counters hcount _ _)

/-- Branches added one after the other: each is counted and has a sequence of its own, and the first free index holds one of them. -/
theorem addBranches (tn : Nat) (t : Table) (q : Seq) (c : TableCmd) (l : List Nat) (h : tableOf s tn = some t)
    (hroom : (numbersUsed s).length + l.length ≤ 16383) :
    let u := forEach l (fun _ => addBranch tn q c) s
    PageWork (2 * l.length) s u ∧ u.pages.seqs.length = s.pages.seqs.length + l.length ∧
      counter u 0x7414 1 = counter s 0x7414 1 + BitVec.ofNat 64 l.length ∧
      ∃ T, tableOf u tn = some T ∧
        (∀ i, (∃ b, (i, b) ∈ t.branches ∧ OfCommand c b) → ∃ b, (i, b) ∈ T.branches ∧ OfCommand c b) ∧
        (l ≠ [] → ∃ b, (firstFree s t, b) ∈ T.branches ∧ OfCommand c b) := by
  induction l generalizing s t with
  | nil => exact ⟨.refl s, rfl, by simp [forEach], t, h, fun _ hi => hi, fun hne => absurd rfl hne⟩
  | cons x l ih =>
    rw [List.length_cons] at hroom
    have hfresh := freshSeq_number s q.pool (by omega)
    generalize hi : firstFree s t = i
    have hstep : forEach (x :: l) (fun _ => addBranch tn q c) s = forEach l (fun _ => addBranch tn q c)
        (branchAdded tn (poolOf s q.pool).tp t q c (freshSeq q.pool s).1 (freshSeq q.pool s).2.1 i
          (newBranch s c (freshSeq q.pool s).1) s) := by
      rw [← hi]
      exact congrArg (forEach l (fun _ => addBranch tn q c)) (addBranch_some s q c h)
    obtain ⟨hpages, htables, hseqs, hcount⟩ := branchAdded_adds s tn (poolOf s q.pool).tp t q c (freshSeq q.pool s).1
      (freshSeq q.pool s).2.1 i (newBranch s c (freshSeq q.pool s).1) hfresh
    have hmade : OfCommand c (newBranch s c (freshSeq q.pool s).1) := ⟨rfl, rfl, rfl⟩
    generalize newBranch s c (freshSeq q.pool s).1 = b at hstep hpages htables hseqs hcount hmade
    generalize branchAdded tn _ t q c _ _ i b s = w at hstep hpages htables hseqs hcount
    have htable : tableOf w tn = some { t with branches := tblPut t.branches i b } := by
      rw [tableOf_of_tables htables, tableOf_tableMod, h]
      rfl
    have hnums : (numbersUsed w).length = (numbersUsed s).length + 1 := by
      simp only [numbersUsed, List.length_append, List.length_map, hseqs, htables, tableMod]
      omega
    obtain ⟨hpages', hseqs', hcount', T, hT, hkeep, -⟩ := ih w _ htable (by omega)
    have hput : ∀ j, (j = i ∨ ∃ b, (j, b) ∈ t.branches ∧ OfCommand c b) → ∃ b, (j, b) ∈ T.branches ∧ OfCommand c b := fun j hj => by
      refine hkeep j ?_
      by_cases hji : j = i
      · subst hji
        exact ⟨b, mem_tblPut_same t.branches j b, hmade⟩
      · obtain ⟨b', hb', hc'⟩ := hj.resolve_left hji
        exact ⟨b', mem_tblPut_other _ i b (j, b') hb' hji, hc'⟩
    simp only [hstep, List.length_cons]
    refine ⟨?_, by omega, ?_, T, hT, fun j hj => hput j (.inr hj), fun _ => hput i (.inl rfl)⟩
    · have hsum := hpages.trans hpages'
      rwa [show 2 + 2 * l.length = 2 * (l.length + 1) by omega] at hsum
    · rw [hcount', hcount, BitVec.add_assoc, Nat.add_comm l.length 1]
      exact congrArg (counter s 0x7414 1 + ·) (BitVec.ofNat_add 1 l.length).symm

/-! ## The commands (R189, R190) -/

theorem length_tableCmdBytes (op : Nat) (c : TableCmd) : (tableCmdBytes op c).length = 32 := by simp [tableCmdBytes]

theorem parseTableCmd_tableCmdBytes (op : Nat) (c : TableCmd) (hop : op < 256) :
    parseTableCmd (tableCmdBytes op c) = (op, c) := by
  have hbyte : op % 2 ^ 8 = op := Nat.mod_eq_of_lt hop
  unfold parseTableCmd tableCmdBytes
  simp (disch := simp) only [List.append_assoc, fieldAt_append_of_le, fieldAt_leBytes_append, fieldAt_leBytes, length_leBytes,
    Nat.reduceSub, Nat.reduceMul, BitVec.toNat_mod_cancel, BitVec.ofNat_toNat, BitVec.setWidth_eq, hbyte]

theorem tableCmd_passes (k op : Nat) (c : TableCmd) (h : HostMay k 2 s) : WritePasses s k 0x5c00 1 (tableCmdBytes op c) := by
  have hfam : famBase 0x5c00 = (0x5c00, 0) := by decide
  refine ⟨.blob 32, .wo, 0, by decide, by decide, ?_, ?_, ?_, ?_, nofun, nofun⟩
  · simpa [writeRight, hfam] using h.2
  · simp [notOwner, hfam]
  · simp [typeOk, blobLenOk, hfam, length_tableCmdBytes, sel, tblGet]
  · simp [reservedOk, valueMask, zeroFields, recordHeader, hfam, sel, tblGet]

theorem writeEffect_tableCmd (k : Nat) (d : Bytes) : writeEffect k 0x5c00 1 d s = tableCommand k d s := by
  have hfam : famBase 0x5c00 = (0x5c00, 0) := by decide
  simp only [writeEffect, hfam]
  rfl

theorem tableCmd_did (k op : Nat) (c : TableCmd) (r : Bytes) (f : State → State) (h : HostMay k 2 s) (hf : Fair f)
    (hc : tableCommand k (tableCmdBytes op c) (taken k s) = .done r (f (taken k s))) :
    Did k { data := r } (f s) s (hostWrite k 0x5c00 1 (tableCmdBytes op c) s) :=
  hostWrite_fair s k 0x5c00 1 _ r f h.1 (tableCmd_passes s k op c h) hf ((writeEffect_tableCmd _ k _).trans hc)

theorem tableReply_congr {u v : State} (hp : u.pages = v.pages) (hd : u.dict = v.dict) (h r x : Nat) (n : Option Nat) :
    tableReply u h r x n = tableReply v h r x n := by
  have htable : tableOf u = tableOf v := funext fun n => by simp only [tableOf, hp]
  have hpool : poolOf u = poolOf v := funext fun p => by simp only [poolOf, cfg, cfgBytes, hd]
  have hgen : seqGen u = seqGen v := funext fun n => by simp only [seqGen, hp]
  have hseq : seqOf u = seqOf v := funext fun n => by simp only [seqOf, hp]
  have hnumber : handleNumber u = handleNumber v := funext fun n => by unfold handleNumber; rw [hgen]
  have hnamed : seqNamed u = seqNamed v := funext fun n => by unfold seqNamed; rw [hnumber, hseq]
  have hlive : liveBranches u = liveBranches v := funext fun t => by unfold liveBranches; rw [hnamed]
  unfold tableReply
  rw [htable, hpool, hlive]

theorem Fair.tableReply_eq {f : State → State} (hf : Fair f) (k h r x : Nat) (n : Option Nat) :
    tableReply (f (taken k s)) h r x n = tableReply (f s) h r x n := by
  have heq := (hf s k s (taken k s) (twin_taken s k)).eq
  exact tableReply_congr (by rw [heq]) (by rw [heq]) h r x n

@[simp] theorem tableReply_taken (k h r x : Nat) (n : Option Nat) : tableReply (taken k s) h r x n = tableReply s h r x n :=
  Fair.id.tableReply_eq s k h r x n

@[simp] theorem tableNamed_taken (k h : Nat) : tableNamed (taken k s) h = tableNamed s h := by rw [taken_eq]; rfl
@[simp] theorem tableInJob_taken (k n : Nat) : tableInJob (taken k s) n = tableInJob s n := by rw [taken_eq]; rfl
@[simp] theorem liveBranches_taken (k : Nat) (t : Table) : liveBranches (taken k s) t = liveBranches s t := by rw [taken_eq]; rfl
@[simp] theorem freeBranches_taken (k : Nat) (t : Table) : freeBranches (taken k s) t = freeBranches s t := by rw [taken_eq]; rfl

@[simp] theorem branchParent_taken (k n : Nat) (t : Table) :
    branchParent (taken k s) t n = branchParent s t n := by rw [taken_eq]; rfl

theorem tableOf_tableNamed {h n : Nat} {t : Table} (hn : tableNamed s h = some (n, t)) : tableOf s n = some t := by
  unfold tableNamed at hn
  split at hn
  · obtain ⟨x, hx, he⟩ := Option.map_eq_some_iff.mp hn
    cases he
    exact hx
  · cases hn

/-! ### CREATE -/

/-- An empty table on number `n` and area `a`. -/
def tableMade (n a pool owner : Nat) (c : TableCmd) (s : State) : State :=
  zeroTable ((poolOf s pool).areaBase a) (64 * c.max.toNat)
    { drawTwo s with pages := { s.pages with tables :=
      (n, { pool := pool, owner := owner, root := c.root, max := c.max.toNat, area := a }) :: s.pages.tables } }

theorem tableMade_fair (n a pool owner : Nat) (c : TableCmd) : Fair (tableMade n a pool owner c) :=
  .read (g := fun u => (poolOf u pool).areaBase a) (f := fun base u => zeroTable base (64 * c.max.toNat)
    { drawTwo u with pages := { u.pages with tables :=
      (n, { pool := pool, owner := owner, root := c.root, max := c.max.toNat, area := a }) :: u.pages.tables } }) (fun _ _ _ _ => rfl)
    fun base => .comp (g := healLines base _) (f := fun u => wipe base _ { drawTwo u with pages := { u.pages with tables :=
      (n, { pool := pool, owner := owner, root := c.root, max := c.max.toNat, area := a }) :: u.pages.tables } })
      (healLines_fair base _) (.of_keeps fun _ _ _ _ => rfl)

theorem tableMade_pages (n a pool owner : Nat) (c : TableCmd) : (tableMade n a pool owner c s).pages = { s.pages with tables :=
    (n, { pool := pool, owner := owner, root := c.root, max := c.max.toNat, area := a }) :: s.pages.tables } := by
  unfold tableMade zeroTable
  rw [healLines_cistern]
  rfl

theorem tableMade_work (n a pool owner : Nat) (c : TableCmd) : PageWork 2 s (tableMade n a pool owner c s) := by
  unfold tableMade zeroTable PageWork
  rw [healLines_cistern]
  rfl

theorem tableCommand_create (k m : Nat) (c : TableCmd) (q : Seq) (harg : tableBadArg 1 c = false)
    (hroot : seqNamed s c.root.toNat = some (m, q)) (hown : q.owner = clientOf s k) (htables : s.pages.tables.length < 16)
    (hnum : (numbersUsed s).length < 16383) (harea : poolSeqs s q.pool < (poolOf s q.pool).seqMax) :
    ∃ n a, n ∉ numbersUsed s ∧ a ∉ areasUsed s q.pool ∧ tableCommand k (tableCmdBytes 1 c) s =
      .done (tableReply (tableMade n a q.pool (clientOf s k) c s) (seqHandle s n) 0 0 (some n)) (tableMade n a q.pool (clientOf s k) c s) := by
  obtain ⟨n, a, -, hn, ha, hdraw⟩ := freshSeq_draws s q.pool hnum harea
  refine ⟨n, a, hn, ha, ?_⟩
  have hgens : (tableMade n a q.pool (clientOf s k) c s).pages.gens = s.pages.gens := by rw [tableMade_pages]
  unfold tableCommand
  rw [parseTableCmd_tableCmdBytes 1 c (by decide)]
  simp only [harg, Bool.false_eq_true, if_false, if_true, hroot, hown, ne_eq, not_true_eq_false]
  rw [if_neg (by omega), ← seqHandle_of_gens hgens, hdraw]
  rfl

/-! ### Commands on a named table -/

/-- A command on a named table of the client's own whose arguments fit. -/
theorem tableCommand_named (k op n : Nat) (c : TableCmd) (t : Table) (hop : op = 2 ∨ op = 3 ∨ op = 4 ∨ op = 5)
    (harg : tableBadArg op c = false) (hname : tableNamed s c.table.toNat = some (n, t)) (hown : t.owner = clientOf s k)
    (hfork : op = 2 → ∃ m q, branchParent s t c.source.toNat = some (m, q) ∧ forkOk q c.n.toNat = true) :
    tableCommand k (tableCmdBytes op c) s = match op with
      | 2 => tableBranch c.table.toNat n t c s
      | 3 =>
        let hit := (liveBranches s t).filter (fun b => decide (c.first.toNat ≤ b.1) && decide (b.1 < c.first.toNat + c.count.toNat))
        if tableInJob s n ∨ hit.any (fun b => seqInJob s (branchSeq b.2)) then tableDone s c.table.toNat (some n) 4
        else tableDone (reclaim (forEach hit (dropBranch n) s)) c.table.toNat (some n) 0
      | 4 =>
        if tableInJob s n then tableDone s c.table.toNat (some n) 4
        else .done (splice (tableReply s c.table.toNat 0 0 (some n)) 5 [0, 0, 0])
          (reclaim ((fun u => { u with pages := { u.pages with
            tables := u.pages.tables.filter (fun e => e.1 ≠ n), gens := tblMod 0 u.pages.gens n (· + 1) } })
              (forEach (liveBranches s t) (dropBranch n) s)))
      | _ => tableDone s c.table.toNat (some n) 0 := by
  unfold tableCommand
  rw [parseTableCmd_tableCmdBytes op c (by omega)]
  rcases hop with rfl | rfl | rfl | rfl
  · obtain ⟨m, q, hparent, hok⟩ := hfork rfl
    show (if tableBadArg 2 c = true then _ else _) = _
    rw [if_neg (by simp [harg]), if_neg (by decide), hname]
    simp only [hparent, hok]
    rw [if_neg (by simp), if_neg (by simp), if_neg (by simp [hown])]
  · show (if tableBadArg 3 c = true then _ else _) = _
    rw [if_neg (by simp [harg]), if_neg (by decide), hname]
    simp only []
    rw [if_neg (by simp), if_neg (by simp), if_neg (by simp [hown])]
  · show (if tableBadArg 4 c = true then _ else _) = _
    rw [if_neg (by simp [harg]), if_neg (by decide), hname]
    simp only []
    rw [if_neg (by simp), if_neg (by simp), if_neg (by simp [hown])]
  · show (if tableBadArg 5 c = true then _ else _) = _
    rw [if_neg (by simp [harg]), if_neg (by decide), hname]
    simp only []
    rw [if_neg (by simp), if_neg (by simp), if_neg (by simp [hown])]
    rfl

/-! ### Effects on a named table -/

/-- A table gone with its number. -/
def tableGone (n : Nat) (s : State) : State :=
  { s with pages := { s.pages with tables := s.pages.tables.filter (fun e => e.1 ≠ n), gens := tblMod 0 s.pages.gens n (· + 1) } }

/-- The effect of PRUNE of the branches `bs`. -/
def pruned (n : Nat) (bs : List (Nat × Branch)) (s : State) : State := reclaim (forEach bs (dropBranch n) s)

/-- The effect of CLOSE with the live branches `bs`. -/
def tableClosed (n : Nat) (bs : List (Nat × Branch)) (s : State) : State := reclaim (tableGone n (forEach bs (dropBranch n) s))

theorem pruned_fair (n : Nat) (bs : List (Nat × Branch)) : Fair (pruned n bs) :=
  .comp (g := reclaim) (f := forEach bs (dropBranch n)) reclaim_fair (.forEach bs (dropBranch_fair n))

theorem tableClosed_fair (n : Nat) (bs : List (Nat × Branch)) : Fair (tableClosed n bs) :=
  .comp (g := reclaim) (f := fun u => tableGone n (forEach bs (dropBranch n) u)) reclaim_fair
    (.comp (g := tableGone n) (f := forEach bs (dropBranch n)) (.of_keeps fun _ _ _ _ => rfl) (.forEach bs (dropBranch_fair n)))

theorem pruned_drops (n : Nat) (t : Table) (bs : List (Nat × Branch)) (h : tableOf s n = some t) : PageWork 0 s (pruned n bs s) ∧
    (∃ T, tableOf (pruned n bs s) n = some T ∧ T.branches = t.branches.filter (fun x => x.1 ∉ bs.map (fun b => b.1))) ∧
      ∀ b ∈ bs, seqOf (pruned n bs s) (branchSeq b.2) = none := by
  obtain ⟨hpages, ⟨T, hT, hbranches⟩, -, -, hgone⟩ := dropBranches s n t bs h
  unfold pruned
  generalize forEach bs (dropBranch n) s = w at hpages hT hgone
  have hwork := reclaim_work w
  exact ⟨hpages.trans (.of_work hwork), ⟨T, (tableOf_of_tables hwork.tables n).trans hT, hbranches⟩,
    fun b hb => (seqOf_of_seqs hwork.seqs _).trans (hgone b hb)⟩

theorem tableClosed_drops (n : Nat) (t : Table) (bs : List (Nat × Branch)) (h : tableOf s n = some t) :
    PageWork 0 s (tableClosed n bs s) ∧ (tableClosed n bs s).pages.tables = s.pages.tables.filter (fun e => e.1 ≠ n) ∧
      ∀ b ∈ bs, seqOf (tableClosed n bs s) (branchSeq b.2) = none := by
  obtain ⟨hpages, -, hothers, -, hgone⟩ := dropBranches s n t bs h
  unfold tableClosed
  generalize forEach bs (dropBranch n) s = w at hpages hothers hgone
  have hwork := reclaim_work (tableGone n w)
  have hstep : PageWork 0 w (tableGone n w) := rfl
  exact ⟨hpages.trans (hstep.trans (.of_work hwork)), hwork.tables.trans hothers,
    fun b hb => (seqOf_of_seqs hwork.seqs _).trans (hgone b hb)⟩

end

/-- Settles O36. -/
theorem tableCommands : Obligations.TableCommands := by
  intro s k c hmay h PagesOnly
  refine ⟨fun m q harg hroot hown htables hnum harea => ?_, fun n t hname hown => ?_⟩
  · obtain ⟨n, a, hn, ha, hc⟩ := tableCommand_create (taken k.val s) k.val m c q harg (by simpa) (by simpa)
      (by rw [taken_eq]; exact htables) (by simpa) (by simpa)
    have hfair := tableMade_fair n a q.pool (clientOf s k.val) c
    rw [clientOf_taken, hfair.tableReply_eq s k.val, seqHandle_of_gens (v := s) (by rw [taken_eq])] at hc
    exact ⟨n, a, _, by simpa using hn, by simpa using ha, ⟨_, rfl, tableCmd_did s k.val 1 c _ _ hmay hfair hc⟩,
      tableMade_work s n a q.pool _ c, tableMade_pages s n a q.pool _ c⟩
  · intro hit
    have htable := tableOf_tableNamed s hname
    refine ⟨fun m q i harg hparent hfork hjob hseq hroom hfree hhead => ?_, fun harg hjob hseqs => ?_, fun harg hjob => ?_,
      fun harg => ⟨_, rfl, ?_⟩⟩
    · have hc := tableCommand_named (taken k.val s) k.val 2 n c t (.inl rfl) harg (by simpa) (by simpa)
        (fun _ => ⟨m, q, by simpa, hfork⟩)
      have hlen : (List.range c.count.toNat).length = c.count.toNat := List.length_range
      have hnums : (numbersUsed s).length + c.count.toNat ≤ 16383 := by
        simp only [seqRoom, Bool.and_eq_true, decide_eq_true_eq] at hroom
        exact hroom.1
      obtain ⟨hpages, hcount, hcounter, T, hT, -, hfirst⟩ := addBranches s n t q c (List.range c.count.toNat) htable (by rwa [hlen])
      rw [hlen] at hpages hcount hcounter
      have hfair : Fair (forEach (List.range c.count.toNat) (fun _ => addBranch n q c)) := .forEach _ fun _ => addBranch_fair n q c
      have hbranch : tableBranch c.table.toNat n t c (taken k.val s) =
          .done (tableReply (forEach (List.range c.count.toNat) (fun _ => addBranch n q c) s) c.table.toNat 0 i (some n))
            (forEach (List.range c.count.toNat) (fun _ => addBranch n q c) (taken k.val s)) := by
        rw [← hfair.tableReply_eq s k.val]
        unfold tableBranch
        simp only [branchParent_taken, hparent, hfork, tableInJob_taken, hjob, seqInJob_taken, hseq, seqRoom_taken, hroom,
          freeBranches_taken, hhead, Nat.not_lt.mpr hfree]
        simp
      obtain ⟨b, hb, hparent', hcls, hn⟩ := hfirst (by
        have hpos : c.count.toNat ≠ 0 := fun hzero => by
          have hz : c.count = 0 := BitVec.eq_of_toNat_eq (by simpa using hzero)
          simp [tableBadArg, hz] at harg
        simpa using hpos)
      have hi : firstFree s t = i := by rw [firstFree, hhead]; rfl
      rw [hi] at hb
      exact ⟨_, T, b, ⟨_, rfl, tableCmd_did s k.val 2 c _ _ hmay hfair (hc.trans hbranch)⟩, hpages, hT, hb, hparent', hcls, hn, hcount,
        hcounter⟩
    · have hc := tableCommand_named (taken k.val s) k.val 3 n c t (.inr (.inl rfl)) harg (by simpa) (by simpa) (by simp)
      obtain ⟨hpages, ⟨T, hT, hbranches⟩, hgone⟩ := pruned_drops s n t hit htable
      have hfair := pruned_fair n hit
      simp only [liveBranches_taken, tableInJob_taken, seqInJob_taken, hjob] at hc
      have hidle : hit.any (fun b => seqInJob s (branchSeq b.2)) = false := List.any_eq_false.mpr fun b hb => by simp [hseqs b hb]
      rw [if_neg (by rw [hidle]; simp)] at hc
      refine ⟨_, T, ⟨_, rfl, tableCmd_did s k.val 3 c _ _ hmay hfair (hc.trans ?_)⟩, hpages, hT, hbranches, hgone⟩
      rw [← hfair.tableReply_eq s k.val]
      rfl
    · have hc := tableCommand_named (taken k.val s) k.val 4 n c t (.inr (.inr (.inl rfl))) harg (by simpa) (by simpa) (by simp)
      obtain ⟨hpages, htables, hgone⟩ := tableClosed_drops s n t (liveBranches s t) htable
      simp only [liveBranches_taken, tableInJob_taken, hjob, Bool.false_eq_true, if_false, tableReply_taken] at hc
      exact ⟨_, ⟨_, rfl, tableCmd_did s k.val 4 c _ _ hmay (tableClosed_fair n (liveBranches s t)) hc⟩, hpages, htables, hgone⟩
    · have hc := tableCommand_named (taken k.val s) k.val 5 n c t (.inr (.inr (.inr rfl))) harg (by simpa) (by simpa) (by simp)
      exact tableCmd_did s k.val 5 c _ _ hmay .id (hc.trans (by simp only [tableDone, tableReply_taken]; rfl))

end Sys2Proof.Machine

end

section
/-!
PROOF. The map (R194-R202): start, stop and flip.
-/

namespace Sys2Proof.Machine

open Claims

/-! ## One-byte controls -/

section

variable (s : State)

/-- A write of a one-byte control that only the right guards passes (R466, R474). -/
theorem control_passes (k i j r : Nat) (c : BitVec 8) (h : HostMay k r s) (hdef : objDef i j = some (.u8, .wo, 0))
    (hright : writeRight k i j [c] = r) (hown : notOwner s k i j = false) (hres : reservedOk (famBase i).1 j [c] = true)
    (hrange : rangeOk s (famBase i).1 (famBase i).2 j (leNat [c]) = true) : WritePasses s k i j [c] :=
  ⟨.u8, .wo, 0, hdef, by decide, by rw [hright]; exact h.2, hown, by simp [typeOk, otyLen], hres, nofun, fun _ => hrange⟩

theorem mapControl_passes (k : Nat) (c : BitVec 8) (h : HostMay k 1 s) : WritePasses s k 0x5c40 0x0b [c] := by
  have hfam : famBase 0x5c40 = (0x5c40, 0) := by decide
  refine control_passes s k _ _ 1 c h (by decide) ?_ ?_ ?_ ?_
  · simp [writeRight, hfam]
  · simp [notOwner, hfam]
  · simp [reservedOk, valueMask, zeroFields, recordHeader, hfam, sel, tblGet]
  · simp [rangeOk, rangeHigh, hfam, sel, tblGet]

theorem writeEffect_mapControl (k : Nat) (c : BitVec 8) : writeEffect k 0x5c40 0x0b [c] s = mapControl c.toNat s := by
  have hfam : famBase 0x5c40 = (0x5c40, 0) := by decide
  have hv : leNat [c] = c.toNat := by simp [leNat]
  unfold writeEffect
  simp only [hfam]
  show mapControl (leNat [c]) s = _
  rw [hv]

/-! ## Replicas written (R196) -/

/-- A step that writes cluster SRAM only. -/
def ReplicaWork (s t : State) : Prop := t = { s with mem := t.mem } ∧ ∀ a, a < 0x080010000000 → memByte t.mem a = memByte s.mem a

theorem ReplicaWork.trans {s t u : State} (h : ReplicaWork s t) (k : ReplicaWork t u) : ReplicaWork s u :=
  ⟨by rw [k.1, h.1], fun a ha => (k.2 a ha).trans (h.2 a ha)⟩

theorem replicaPoke_work (off : Nat) (bs : Bytes) : ReplicaWork s (replicaPoke off bs s) := by
  unfold replicaPoke
  generalize mapOffset s = o
  generalize mapClusters s = l
  refine forEach_rel ReplicaWork (fun _ => ⟨rfl, fun _ _ => rfl⟩) (fun _ _ _ h k => h.trans k) _ l (fun _ _ u => ⟨rfl, fun a ha => ?_⟩) s
  show memByte (memWrite u.mem _ bs) a = _
  rw [memByte_write, if_neg (by unfold clusterBase; omega)]

theorem replicaPoke_fair (off : Nat) (bs : Bytes) : Fair (replicaPoke off bs) :=
  .read (g := fun u => (mapClusters u, mapOffset u)) (f := fun x => forEach x.1 (fun k => poke (clusterBase k + x.2 + off) bs))
    (fun _ _ _ _ => rfl) fun x => .forEach x.1 fun _ => .of_keeps fun _ _ _ _ => rfl

/-! ## START and STOP (R201) -/

/-- The map at its start: empty, at EPOCH + 64, with no change known. -/
def mapEmpty (s : State) : MapState :=
  { running := true, epoch := s.map.epoch + 64
    heads := ((usedRings s).map (fun r => (r, ringTail s r))).filter (fun h => h.2 ≠ 0), index := [], apply := none, waiting := []
    log := (List.range 64).map (fun i => ((s.map.epoch + 64 - BitVec.ofNat 32 i).toNat, none)) }

theorem replicaPoke_read_fair (off : Nat) (bs : State → Bytes) (h : Blind bs) : Fair (fun u => replicaPoke off (bs u) u) :=
  .read (g := bs) (f := fun b => replicaPoke off b) h fun b => replicaPoke_fair off b

/-- A start's writes, the epoch known. -/
def mapFill (e : BitVec 32) (s : State) : State :=
  (fun u => replicaPoke 0x9000 (padTo 4096 (cfgBytes u 0x5c80 7)) u) (replicaPoke 0x5000 (List.replicate (64 * 256) 0xff)
    ((fun u => replicaPoke (0x1000 + 4096 * (e.toNat % 4)) (indexBytes (mapBricks u) []) u)
      ((fun u => replicaPoke 0 (mapHeader u e) u) { s with map := mapEmpty s })))

theorem mapFill_fair (e : BitVec 32) : Fair (mapFill e) :=
  .comp (g := fun u => replicaPoke 0x9000 (padTo 4096 (cfgBytes u 0x5c80 7)) u)
    (replicaPoke_read_fair 0x9000 (fun u => padTo 4096 (cfgBytes u 0x5c80 7)) fun _ _ _ _ => rfl)
    (.comp (g := replicaPoke 0x5000 (List.replicate (64 * 256) 0xff)) (replicaPoke_fair _ _)
      (.comp (g := fun u => replicaPoke (0x1000 + 4096 * (e.toNat % 4)) (indexBytes (mapBricks u) []) u)
        (replicaPoke_read_fair _ (fun u => indexBytes (mapBricks u) []) fun _ _ _ _ => rfl)
        (.comp (g := fun u => replicaPoke 0 (mapHeader u e) u) (f := fun u => { u with map := mapEmpty u })
          (replicaPoke_read_fair 0 (fun u => mapHeader u e) fun _ _ _ _ => rfl) (.of_keeps fun _ _ _ _ => rfl))))

theorem mapFill_work (e : BitVec 32) : ReplicaWork { s with map := mapEmpty s } (mapFill e s) :=
  .trans (replicaPoke_work _ _ _) (.trans (replicaPoke_work _ _ _) (.trans (replicaPoke_work _ _ _) (replicaPoke_work _ _ _)))

theorem mapStart_eq : mapStart s =
    if (s.map.running || s.resetting.getLsbD 2) = true then s else mapFill (s.map.epoch + 64) s := by
  unfold mapStart
  by_cases h : s.map.running = true ∨ s.resetting.getLsbD 2 = true
  · rw [if_pos h, if_pos (by simpa using h)]
  · rw [if_neg h, if_neg (by simpa using h)]
    rfl

theorem mapStart_fair : Fair mapStart := by
  have hall : Fair (fun u => if (u.map.running || u.resetting.getLsbD 2) = true then u else mapFill (u.map.epoch + 64) u) :=
    .read (g := fun u => (u.map.running || u.resetting.getLsbD 2, u.map.epoch + 64))
      (f := fun x u => if x.1 = true then u else mapFill x.2 u) (fun _ _ _ _ => rfl) fun x => .ite .id (mapFill_fair x.2)
  exact fun s k u v h => by
    rw [mapStart_eq u, mapStart_eq v]
    exact hall s k u v h

/-! ## The flip (R198-R200) -/

/-- A step that keeps the present epoch, its index and its log, and counts no flip. -/
structure EpochKept (s t : State) : Prop where
  epoch : t.map.epoch = s.map.epoch
  index : t.map.index = s.map.index
  log : t.map.log = s.map.log
  flips : counter t 0x7414 3 = counter s 0x7414 3

end

namespace EpochKept

variable {s t u : State}

theorem refl (s : State) : EpochKept s s := ⟨rfl, rfl, rfl, rfl⟩

theorem trans (h : EpochKept s t) (k : EpochKept t u) : EpochKept s u :=
  ⟨k.epoch.trans h.epoch, k.index.trans h.index, k.log.trans h.log, k.flips.trans h.flips⟩

theorem of_eq (hm : t.map = s.map) (hc : t.counters = s.counters) : EpochKept s t :=
  ⟨by rw [hm], by rw [hm], by rw [hm], counter_eq_of_counters hc _ _⟩

theorem forEach {α : Type} (l : List α) (f : α → State → State) (h : ∀ a u, EpochKept u (f a u)) (s : State) :
    EpochKept s (forEach l f s) :=
  forEach_rel EpochKept refl (fun _ _ _ h k => h.trans k) f l (fun a _ u => h a u) s

theorem count (s : State) (i j n : Nat) (h : objKey i j ≠ 0x741403) : EpochKept s (count i j n s) :=
  ⟨rfl, rfl, rfl, counter_count_other s i j n _ _ fun he => h he.symm⟩

end EpochKept

section

variable (s : State)

theorem replicaPoke_epoch (off : Nat) (bs : Bytes) : EpochKept s (replicaPoke off bs s) :=
  .of_eq (by rw [(replicaPoke_work s off bs).1]) (by rw [(replicaPoke_work s off bs).1])

theorem takeTails_epoch : EpochKept s (takeTails s) := ⟨rfl, rfl, rfl, rfl⟩

theorem writeApply_epoch (a : Apply) : EpochKept s (writeApply a s) :=
  .trans (t := { s with map := { s.map with apply := some a } }) ⟨rfl, rfl, rfl, rfl⟩
    (.trans (replicaPoke_epoch _ _ _) (replicaPoke_epoch _ _ _))

theorem applyBrick_epoch (e : Nat × Nat × Nat) (acc : List (Nat × Nat) × List Nat × State) :
    EpochKept acc.2.2 (applyBrick e acc).2.2 := by
  unfold applyBrick
  extract_lets ix
  split
  · exact .refl _
  · exact .trans (t := (freshChoice acc.2.1 acc.2.2).2) (.of_eq rfl rfl) (replicaPoke_epoch _ _ _)

theorem applyBricks_epoch (es : List (Nat × Nat × Nat)) (acc : List (Nat × Nat) × List Nat × State) :
    EpochKept acc.2.2 (es.foldl (fun acc e => applyBrick e acc) acc).2.2 := by
  induction es generalizing acc with
  | nil => exact .refl _
  | cons e es ih => exact (applyBrick_epoch e acc).trans (ih _)

theorem mapApply_epoch : EpochKept s (mapApply s) := by
  unfold mapApply
  split
  · exact .refl s
  · split
    · split
      · exact .count s _ _ _ (by decide)
      · exact .trans (.count s _ _ _ (by decide)) (.trans (takeTails_epoch _) (writeApply_epoch _ _))
    · extract_lets es changed r
      split
      · exact .count s _ _ _ (by decide)
      · exact .trans (applyBricks_epoch es (s.map.index, freeSlots s, s)) (.trans (takeTails_epoch _) (writeApply_epoch _ _))

theorem mapBoundary_epoch (n : Nat) : EpochKept s (mapBoundary n s) := by
  unfold mapBoundary
  split
  · exact .refl s
  · exact .trans (t := { s with map := { s.map with judged := n } }) ⟨rfl, rfl, rfl, rfl⟩ (mapApply_epoch _)

theorem notices_epoch {t : State} (h : Notices s t) : EpochKept s t :=
  ⟨by rw [h.eq], by rw [h.eq], by rw [h.eq], h.counters _ (by decide)⟩

theorem raiseEvent_epoch (job : Option (BitVec 32)) (n : Nat) : EpochKept s (raiseEvent job n s) :=
  .of_eq (by rw [raiseEvent_eq]) (by rw [raiseEvent_eq])

theorem pokeCistern_epoch (a : Nat) (b : Bytes) : EpochKept s (pokeCistern a b s) :=
  .of_eq (by rw [pokeCistern_eq]) (by rw [pokeCistern_eq])

theorem deliverOutput_epoch (ch : Nat) (round : BitVec 32) (status : Nat) (win : Option (Nat × Cand)) (kept : List Cand) (st : BitVec 32) :
    EpochKept s (deliverOutput ch round status win kept st s) := by
  unfold deliverOutput
  extract_lets o r s₁ s₂ s₃ s₄
  have h₁ : EpochKept s s₁ := pokeCistern_epoch ..
  have h₂ : EpochKept s₁ s₂ := .of_eq rfl rfl
  have h₃ : EpochKept s₂ s₃ := by
    simp only [s₃]
    split
    · exact .count s₂ _ _ _ (by decide)
    · split
      · exact .count s₂ _ _ _ (by decide)
      · exact .refl s₂
  have h₄ : EpochKept s₃ s₄ := by
    simp only [s₄]
    split
    · exact .count s₃ _ _ _ (by decide)
    · exact .refl s₃
  refine h₁.trans (h₂.trans (h₃.trans (h₄.trans ?_)))
  split
  · exact .of_eq rfl rfl
  · exact raiseEvent_epoch ..
  · exact notices_epoch s₄ (notifySubs_notices s₄ _ _)

theorem watchChannel_epoch (st : BitVec 32) (ch : Nat) : EpochKept s (watchChannel st ch s) := by
  unfold watchChannel
  extract_lets c
  split
  · exact .refl s
  · split
    · exact .refl s
    · extract_lets g kept s₁
      split
      · exact .refl s
      · have h₁ : EpochKept s s₁ := .count s _ _ _ (by decide)
        have h₂ : EpochKept s₁ (chanSet ch (fun c => { c with watched := kept }) s₁) := .of_eq rfl rfl
        exact h₁.trans (h₂.trans (deliverOutput_epoch _ _ _ _ _ _ _))

theorem flipMap_flips (a : Apply) : (flipMap a s).map.epoch = s.map.epoch + 1 ∧ (flipMap a s).map.index = a.index ∧
    (flipMap a s).map.log = (((s.map.epoch + 1).toNat, a.changed) :: s.map.log).take 64 ∧
    counter (flipMap a s) 0x7414 3 = counter s 0x7414 3 + 1 := by
  unfold flipMap
  extract_lets e gone readers waiting map s₁
  have hfill := replicaPoke_epoch s₁ 0 (mapHeader s₁ e)
  refine ⟨hfill.epoch, hfill.index, hfill.log, (counter_count_same _ _ _).trans (congrArg (· + 1) hfill.flips)⟩

theorem mapFlip_flips (a : Apply) (ha : s.map.apply = some a) (hacts : selectorActs s = true) : ∃ t, exec .mapFlip s = .next t ∧
    t.map.epoch = s.map.epoch + 1 ∧ t.map.index = a.index ∧
    t.map.log = (((s.map.epoch + 1).toNat, a.changed) :: s.map.log).take 64 ∧ counter t 0x7414 3 = counter s 0x7414 3 + 1 := by
  have hexec : exec .mapFlip s = execMapFlip s := rfl
  rw [hexec]
  unfold execMapFlip
  simp only [ha, hacts, if_true]
  refine ⟨_, rfl, ?_⟩
  generalize roundUp (max (now s) (s.clock.slot * 10000 + 1)) 10000 = n
  have hclock : EpochKept s (clockTo n s) := .of_eq (clockTo_map s n) (clockTo_counters s n)
  have hmap : (clockTo n s).map = s.map := clockTo_map s n
  obtain ⟨hepoch, hindex, hlog, hflips⟩ := flipMap_flips (clockTo n s) a
  have hafter := (EpochKept.forEach (List.range 16) (watchChannel (stamp (clockTo n s))) (fun ch u => watchChannel_epoch u _ ch)
    (flipMap a (clockTo n s))).trans (mapBoundary_epoch _ (now (clockTo n s) / 10000))
  rw [hafter.epoch, hafter.index, hafter.log, hafter.flips, hepoch, hindex, hlog, hflips, hmap, hclock.flips]
  exact ⟨rfl, rfl, rfl, rfl⟩

end

/-- Settles O37. -/
theorem mapCommands : Obligations.MapCommands := by
  intro s k
  refine ⟨fun h hstopped hreset => ?_, fun h => ⟨_, rfl, ?_⟩, fun a ha hacts => mapFlip_flips s a ha hacts⟩
  · have heff : writeEffect k.val 0x5c40 0x0b [1] (taken k.val s) = .done [] (mapStart (taken k.val s)) :=
      writeEffect_mapControl (taken k.val s) k.val 1
    have hstart := mapStart_eq s
    rw [if_neg (by rw [hstopped, hreset]; simp)] at hstart
    obtain ⟨hframe, hbytes⟩ := mapFill_work s (s.map.epoch + 64)
    rw [← hstart] at hframe hbytes
    have hmap : (mapStart s).map = mapEmpty s := by rw [hframe]
    refine ⟨mapStart s, ⟨_, rfl, hostWrite_fair s k.val _ _ _ [] mapStart h.1 (mapControl_passes s k.val 1 h) mapStart_fair heff⟩, ?_,
      by rw [hmap]; rfl, by rw [hmap]; rfl, by rw [hmap]; rfl, by rw [hmap]; rfl, ?_, fun e he => ?_, hbytes⟩
    · rw [hframe]
    · rw [hmap]; simp [mapEmpty]
    · rw [hmap] at he
      obtain ⟨i, -, rfl⟩ := List.mem_map.mp he
      rfl
  · exact hostWrite_fair s k.val _ _ _ [] mapStop h.1 (mapControl_passes s k.val 2 h) (.of_keeps fun _ _ _ _ => rfl)
      (writeEffect_mapControl (taken k.val s) k.val 2)

end Sys2Proof.Machine

end

section
/-!
PROOF. The Selector's channels (R209-R219): start, stop, close, CLOSED and release.
-/

namespace Sys2Proof.Machine

open Claims

/-! ## What a channel's round keeps -/

/-- A step that keeps the clock and of channel `ch` its round, its output count and what it released. -/
structure RoundKept (ch : Nat) (s t : State) : Prop where
  clock : t.clock = s.clock
  round : (chan t ch).round = (chan s ch).round
  output : (chan t ch).output = (chan s ch).output
  released : (chan t ch).released = (chan s ch).released

namespace RoundKept

variable {ch : Nat} {s t u : State}

theorem refl (s : State) : RoundKept ch s s := ⟨rfl, rfl, rfl, rfl⟩

theorem trans (h : RoundKept ch s t) (k : RoundKept ch t u) : RoundKept ch s u :=
  ⟨k.clock.trans h.clock, k.round.trans h.round, k.output.trans h.output, k.released.trans h.released⟩

theorem of_eq (hc : t.clock = s.clock) (hs : t.selector = s.selector) : RoundKept ch s t := by
  have h : chan t ch = chan s ch := by rw [chan, hs, chan]
  exact ⟨hc, by rw [h], by rw [h], by rw [h]⟩

end RoundKept

section

variable (s : State)

theorem chan_chanSet (ch j : Nat) (f : SelChannel → SelChannel) :
    chan (chanSet ch f s) j = if j = ch then f (chan s ch) else chan s j := tblGet_mod _ _ _ _ _

theorem chanSet_round (ch j : Nat) (f : SelChannel → SelChannel)
    (hf : ∀ c, (f c).round = c.round ∧ (f c).output = c.output ∧ (f c).released = c.released) : RoundKept j s (chanSet ch f s) := by
  have h := chan_chanSet s ch j f
  by_cases hj : j = ch
  · subst hj
    rw [if_pos rfl] at h
    obtain ⟨hr, ho, hl⟩ := hf (chan s j)
    exact ⟨rfl, by rw [h, hr], by rw [h, ho], by rw [h, hl]⟩
  · rw [if_neg hj] at h
    exact ⟨rfl, by rw [h], by rw [h], by rw [h]⟩

theorem count_round (j a b n : Nat) : RoundKept j s (count a b n s) := .of_eq rfl rfl

theorem pokeCistern_round (j a : Nat) (b : Bytes) : RoundKept j s (pokeCistern a b s) :=
  .of_eq (by rw [pokeCistern_eq]) (by rw [pokeCistern_eq])

/-! ## A round closes (R211, R212) -/

/-- The candidates that a close keeps. -/
def keptOf (s : State) (ch : Nat) : List Cand :=
  (((sortBy candLe (chan s ch).cands).take 8).zipIdx).map (fun x => { x.1 with
    boxes := (chunksOf 8 (peek s (ownPhysical s x.1.boxAddr) (8 * x.1.segs))).map parseBox
    copy := copyAddr s ch (chan s ch).round (x.2 + 1) })

/-- The payloads copied for the kept candidates. -/
def copyPayloads (kept : List Cand) (s : State) : State :=
  forEach kept (fun k s => pokeCistern (ownPhysical s k.copy) (peek s (ownPhysical s k.payload) k.bytes) s) s

theorem closeRound_eq (ch : Nat) : closeRound ch s =
    chanSet ch (fun c => { c with kept := keptOf s ch, cands := [], closing := true, closeAt := none }) (copyPayloads (keptOf s ch) s) := rfl

theorem copyPayloads_cistern (kept : List Cand) : CisternWork s (copyPayloads kept s) :=
  .forEach _ _ (fun (_ : Cand) u => pokeCistern_cistern u _ _) s

theorem copyPayloads_round (kept : List Cand) (j : Nat) : RoundKept j s (copyPayloads kept s) :=
  .of_eq (by rw [copyPayloads_cistern s kept]) (by rw [copyPayloads_cistern s kept])

theorem closeRound_round (ch j : Nat) : RoundKept j s (closeRound ch s) := by
  rw [closeRound_eq]
  exact (copyPayloads_round s _ j).trans (chanSet_round _ ch j _ fun _ => ⟨rfl, rfl, rfl⟩)

theorem chan_closeRound (ch : Nat) : chan (closeRound ch s) ch =
    { chan s ch with kept := keptOf s ch, cands := [], closing := true, closeAt := none } := by
  have hchan : chan (copyPayloads (keptOf s ch) s) ch = chan s ch := by rw [copyPayloads_cistern s (keptOf s ch)]; rfl
  rw [closeRound_eq, chan_chanSet, if_pos rfl, hchan]

theorem keptOf_order (ch : Nat) : (keptOf s ch).map (fun x => (x.id, x.cost)) =
    ((sortBy candLe (chan s ch).cands).take 8).map (fun x => (x.id, x.cost)) := by
  generalize hl : (sortBy candLe (chan s ch).cands).take 8 = l
  have hfst : l.zipIdx.map Prod.fst = l := List.zipIdx_map_fst ..
  unfold keptOf
  rw [hl, List.map_map]
  conv_rhs => rw [← hfst, List.map_map]
  rfl

/-! ## Slots taken in (R210, R211) -/

theorem takeRecords_round (ch sl j : Nat) (b : Bytes) : RoundKept j s (takeRecords ch sl b s) := by
  unfold takeRecords
  extract_lets rs struck ok island s₁
  have h₁ : RoundKept j s s₁ := by
    simp only [s₁]
    split
    · exact .refl s
    · exact .of_eq rfl rfl
  have h₂ : RoundKept j s₁ (chanSet ch (fun c => { c with cands := c.cands ++ ok, published := c.published ++ [sl] }) s₁) :=
    chanSet_round s₁ ch j _ fun _ => ⟨rfl, rfl, rfl⟩
  exact h₁.trans (h₂.trans (count_round _ _ _ _ _))

theorem publishSlot_round (ch sl j : Nat) (b : Bytes) : RoundKept j s (publishSlot ch sl b s) := by
  have hdrop : RoundKept j s (dropRecords b s) := count_round ..
  have hhold : RoundKept j s (chanSet ch (fun c => { c with held := c.held ++ [(sl, b)] }) s) :=
    chanSet_round s ch j _ fun _ => ⟨rfl, rfl, rfl⟩
  have hclose : ∀ (u : State) (c : Prop) [Decidable c], RoundKept j s u → RoundKept j s (if c then closeRound ch u else u) :=
    fun u c _ hu => by
      split
      · exact hu.trans (closeRound_round u ch j)
      · exact hu
  unfold publishSlot
  extract_lets c round
  split
  · exact .refl s
  · split
    · exact hdrop
    · have hcollect : RoundKept j s (chanSet ch (fun c => { c with
          state := .collecting, closeAt := some (now s + 1000 * selCfg s ch 6) }) s) :=
        chanSet_round s ch j _ fun _ => ⟨rfl, rfl, rfl⟩
      exact hclose _ _ (hcollect.trans (takeRecords_round _ ch sl j b))
  · split
    · split
      · exact hhold
      · exact hdrop
    · split
      · exact hdrop
      · exact hclose _ _ (takeRecords_round s ch sl j b)
  · split
    · exact hhold
    · exact hdrop

/-! ## A round is released (R213, R215) -/

theorem notices_selector {t : State} (h : Notices s t) :
    t.selector = s.selector ∧ t.clock = s.clock := ⟨by rw [h.eq], by rw [h.eq]⟩

/-- The delivery of an output counts it and notes the rank released. -/
theorem deliverOutput_delivers (ch : Nat) (round : BitVec 32) (status : Nat) (win : Option (Nat × Cand)) (kept : List Cand)
    (st : BitVec 32) : (deliverOutput ch round status win kept st s).clock = s.clock ∧
      chan (deliverOutput ch round status win kept st s) ch =
        { chan s ch with output := (chan s ch).output + 1, released := win.map (fun w => w.1) } := by
  unfold deliverOutput
  extract_lets o r s₁ s₂ s₃ s₄
  have h₁ : s₁.clock = s.clock ∧ s₁.selector = s.selector := by
    simp only [s₁]
    exact ⟨by rw [pokeCistern_eq], by rw [pokeCistern_eq]⟩
  have h₂ : s₂.clock = s.clock ∧ chan s₂ ch =
      { chan s ch with output := (chan s ch).output + 1, released := win.map (fun w => w.1) } := by
    have hchan : chan s₁ ch = chan s ch := by rw [chan, h₁.2, chan]
    refine ⟨h₁.1, ?_⟩
    simp only [s₂]
    rw [chan_chanSet, if_pos rfl, hchan]
  have h₃ : s₃.clock = s₂.clock ∧ s₃.selector = s₂.selector := by
    simp only [s₃]
    split
    · exact ⟨rfl, rfl⟩
    · split <;> exact ⟨rfl, rfl⟩
  have h₄ : s₄.clock = s₃.clock ∧ s₄.selector = s₃.selector := by
    simp only [s₄]
    split <;> exact ⟨rfl, rfl⟩
  have hlast : ∀ u : State, u.clock = s₄.clock → u.selector = s₄.selector → u.clock = s.clock ∧ chan u ch =
      { chan s ch with output := (chan s ch).output + 1, released := win.map (fun w => w.1) } := fun u hc hs => by
    refine ⟨hc.trans (h₄.1.trans (h₃.1.trans h₂.1)), ?_⟩
    rw [← h₂.2, chan, hs, h₄.2, h₃.2, chan]
  split
  · exact hlast _ rfl rfl
  · exact hlast _ (by rw [raiseEvent_eq]) (by rw [raiseEvent_eq])
  · obtain ⟨hs, hc⟩ := notices_selector s₄ (notifySubs_notices s₄ 0x51 (leBytes 1 ch ++ zeros 7 ++ r))
    exact hlast _ hc hs

/-- What the gate makes of a release: in safe state the solver's channel releases none (R438). -/
def gated (s : State) (ch : Nat) : List Cand × Option (Nat × Cand) :=
  if (decide (s.island.state ≠ .normal) && selCfg s ch 4 == 0) = true then ((chan s ch).kept, none) else gate s (chan s ch).kept 1

/-- The release up to the slots that the channel held. -/
def outputRound (ch : Nat) (st : BitVec 32) (s : State) : State :=
  chanSet ch (fun c => { c with
      state := .idle, closing := false, round := c.round + 1, published := [], cands := [], kept := [], watched := (gated s ch).1
      held := [] })
    (deliverOutput ch (chan s ch).round (if (gated s ch).2.isSome then 0 else 1) (gated s ch).2 (gated s ch).1 st
      (count 0x7414 7 (goneCount (gated s ch).1 - goneCount (chan s ch).kept) s))

theorem releaseRound_eq (ch : Nat) (st : BitVec 32) : releaseRound ch st s =
    forEach (chan s ch).held (fun h => publishSlot ch h.1 h.2) (outputRound ch st s) := rfl

theorem outputRound_outputs (ch : Nat) (st : BitVec 32) : (outputRound ch st s).clock = s.clock ∧ chan (outputRound ch st s) ch =
    { chan s ch with
      output := (chan s ch).output + 1, released := (gated s ch).2.map (fun w => w.1), state := .idle, closing := false
      round := (chan s ch).round + 1, published := [], cands := [], kept := [], watched := (gated s ch).1, held := [] } := by
  obtain ⟨hclock, hchan⟩ := deliverOutput_delivers (count 0x7414 7 (goneCount (gated s ch).1 - goneCount (chan s ch).kept) s) ch
    (chan s ch).round (if (gated s ch).2.isSome then 0 else 1) (gated s ch).2 (gated s ch).1 st
  unfold outputRound
  refine ⟨hclock, ?_⟩
  rw [chan_chanSet, if_pos rfl, hchan]
  rfl

theorem chan_clockTo (n ch : Nat) : chan (clockTo n s) ch = chan s ch := by rw [chan, clockTo_selector, chan]
theorem selCfg_clockTo (n ch k : Nat) : selCfg (clockTo n s) ch k = selCfg s ch k := cfg_clockTo ..

theorem gatePass_of_map {u v : State} (h : u.map = v.map) (hd : u.dict = v.dict) : gatePass u = gatePass v := funext fun c => by
  have hdim : mapDim u = mapDim v := funext fun a => by simp only [mapDim, cfg, cfgBytes, hd]
  have hmeets : brickMeets u = brickMeets v := funext fun b => funext fun x => by
    unfold brickMeets
    rw [hdim]
  have hbricks : mapBricks u = mapBricks v := by
    unfold mapBricks
    rw [hdim]
  have hlog : logMeets u = logMeets v := funext fun e => funext fun c => by
    unfold logMeets
    rw [h, hmeets, hbricks]
  unfold gatePass
  rw [h, hlog]

theorem gate_of_map {u v : State} (h : u.map = v.map) (hd : u.dict = v.dict) (cs : List Cand) (k : Nat) :
    gate u cs k = gate v cs k := by
  have hpass := gatePass_of_map h hd
  induction cs generalizing k with
  | nil => rfl
  | cons c cs ih =>
    unfold gate
    rw [hpass, ih (k + 1)]

theorem selectorRelease_releases (ch : Fin 16) (hacts : selectorActs s = true) (hclosed : (chan s ch.val).state = .closed) :
    let c := chan s ch.val
    ∃ t, exec (.selectorRelease ch) s = .next t ∧ (chan t ch.val).round = c.round + 1 ∧
      (chan t ch.val).output = c.output + 1 ∧ t.clock = (clockTo (releaseAt s ch.val) s).clock ∧
      (c.held = [] → (chan t ch.val).state = .idle ∧ (chan t ch.val).kept = [] ∧ (chan t ch.val).cands = []) ∧
      (s.island.state ≠ .normal → selCfg s ch.val 4 = 0 → (chan t ch.val).released = none) ∧
      (s.island.state = .normal ∨ selCfg s ch.val 4 ≠ 0 → (chan t ch.val).released = (gate s c.kept 1).2.map (fun w => w.1)) := by
  intro c
  have hexec : exec (.selectorRelease ch) s = execSelectorRelease ch s := rfl
  rw [hexec]
  unfold execSelectorRelease
  rw [if_pos ⟨hclosed, hacts⟩]
  refine ⟨_, rfl, ?_⟩
  generalize releaseAt s ch.val = n
  have hchan : chan (clockTo n s) ch.val = c := chan_clockTo s n ch.val
  rw [releaseRound_eq]
  obtain ⟨hclock, hout⟩ := outputRound_outputs (clockTo n s) ch.val (stampOf n)
  have hafter : RoundKept ch.val (outputRound ch.val (stampOf n) (clockTo n s)) (forEach (chan (clockTo n s) ch.val).held
      (fun h => publishSlot ch.val h.1 h.2) (outputRound ch.val (stampOf n) (clockTo n s))) :=
    forEach_rel (RoundKept ch.val) .refl (fun _ _ _ h k => h.trans k) _ _ (fun h _ u => publishSlot_round u ch.val h.1 ch.val h.2) _
  have hgate : gate (clockTo n s) c.kept 1 = gate s c.kept 1 := gate_of_map (clockTo_map s n) (clockTo_dict s n) _ _
  refine ⟨?_, ?_, ?_, fun hheld => ?_, fun hsafe hsolver => ?_, fun hfree => ?_⟩
  · rw [hafter.round, hout, hchan]
  · rw [hafter.output, hout, hchan]
  · rw [hafter.clock, hclock]
  · rw [hchan, hheld]
    simp only [forEach, List.foldl_nil]
    rw [hout]
    exact ⟨rfl, rfl, rfl⟩
  · rw [hafter.released, hout]
    unfold gated
    rw [if_pos (by rw [clockTo_island, selCfg_clockTo]; simp [hsafe, hsolver])]
    rfl
  · rw [hafter.released, hout]
    unfold gated
    rw [if_neg (by rw [clockTo_island, selCfg_clockTo]; rcases hfree with h | h <;> simp [h]), hchan, hgate]

/-! ## START and STOP (R212) -/

theorem selectorControl_passes (k : Nat) (ch : Fin 16) (c : BitVec 8) (h : HostMay k 8 s) :
    WritePasses s k (0x5d00 + ch.val) 0x0a [c] := by
  have hfam := famBase_selector ch
  have hdef : ∀ j : Fin 16, objDef (0x5d00 + j.val) 0x0a = some (.u8, .wo, 0) := by decide
  have hch := ch.isLt
  refine control_passes s k _ _ 8 c h (hdef ch) ?_ ?_ ?_ ?_
  · simp only [writeRight, hfam]
    repeat rw [if_neg (by omega)]
    rw [if_pos (.inr trivial)]
  · simp [notOwner, hfam]
  · simp [reservedOk, valueMask, zeroFields, recordHeader, hfam, sel, tblGet]
  · simp [rangeOk, rangeHigh, hfam, sel, tblGet]

theorem writeEffect_selectorControl (k : Nat) (ch : Fin 16) (c : BitVec 8) :
    writeEffect k (0x5d00 + ch.val) 0x0a [c] s = selectorControl ch.val c.toNat s := by
  have hfam := famBase_selector ch
  have hv : leNat [c] = c.toNat := by simp [leNat]
  unfold writeEffect
  simp only [hfam]
  show selectorControl ch.val (leNat [c]) s = _
  rw [hv]

theorem chanSet_keepsBooks (ch : Nat) (f : SelChannel → SelChannel) : KeepsBooks (chanSet ch f) s := fun _ _ _ => rfl

theorem chan_taken (k ch : Nat) : chan (taken k s) ch = chan s ch := by rw [taken_eq]; rfl

end

/-- Settles O38. -/
theorem selectorRounds : Obligations.SelectorRounds := by
  intro s k ch c
  refine ⟨fun h hstopped hreset => ⟨_, rfl, ?_⟩, fun h hruns => ⟨_, rfl, ?_⟩, fun n hacts hclose hcollect hopen => ?_,
    fun hacts hcollect hclosing => ?_, fun hacts hclosed => selectorRelease_releases s ch hacts hclosed⟩
  · refine hostWrite_effect s k.val _ _ _ [] (chanSet ch.val fun c => { state := .idle, round := 1, output := c.output }) h.1
      (selectorControl_passes s k.val ch 1 h) (chanSet_keepsBooks s _ _) ((writeEffect_selectorControl _ k.val ch 1).trans ?_)
    have hr : (taken k.val s).resetting = s.resetting := by rw [taken_eq]
    show WRes.done [] (startChannel ch.val (taken k.val s)) = _
    unfold startChannel
    rw [if_pos ⟨by rw [chan_taken]; exact hstopped, by rw [hr, hreset]; rfl⟩]
  · refine hostWrite_effect s k.val _ _ _ [] (chanSet ch.val fun c => { state := .stopped, round := c.round, output := c.output }) h.1
      (selectorControl_passes s k.val ch 2 h) (chanSet_keepsBooks s _ _) ((writeEffect_selectorControl _ k.val ch 2).trans ?_)
    show WRes.done [] (stopChannel ch.val (taken k.val s)) = _
    unfold stopChannel
    rw [if_neg (by rw [chan_taken]; exact hruns)]
  · have hexec : exec (.selectorCloseTimer ch) s = execSelectorCloseTimer ch s := rfl
    have hchan : chan (clockTo n s) ch.val = c := chan_clockTo s n ch.val
    rw [hexec]
    unfold execSelectorCloseTimer
    refine ⟨closeRound ch.val (clockTo n s), ?_, ?_⟩
    · show (match c.closeAt with | none => _ | some t => if c.state = CState.collecting ∧ (!c.closing) = true ∧ selectorActs s = true then _ else _) = _
      rw [hclose]
      exact if_pos ⟨hcollect, by rw [hopen]; rfl, hacts⟩
    · have horder := keptOf_order (clockTo n s) ch.val
      rw [chan_closeRound, hchan]
      rw [hchan] at horder
      exact ⟨rfl, rfl, rfl, hcollect, horder, (closeRound_round (clockTo n s) ch.val ch.val).clock⟩
  · show execSelectorClosed ch s = _
    unfold execSelectorClosed
    exact if_pos ⟨hcollect, hclosing, hacts⟩

end Sys2Proof.Machine

end

section
/-!
PROOF. The tensor directory and the model store (R231-R235, R254).
-/

namespace Sys2Proof.Machine

open Claims

/-! ## Frames sent to the fabric -/

/-- A step that sends frames on the fabric, or holds them while their port is paused, and does nothing else. -/
structure Transmits (s t : State) : Prop where
  eq : t = { s with out := t.out, fabric := t.fabric }

namespace Transmits

variable {s t u : State}

theorem refl (s : State) : Transmits s s := ⟨rfl⟩

theorem trans (h : Transmits s t) (k : Transmits t u) : Transmits s u := ⟨by rw [k.eq, h.eq]⟩

theorem forEach {α : Type} (l : List α) (f : α → State → State) (h : ∀ a u, Transmits u (f a u)) (s : State) :
    Transmits s (forEach l f s) :=
  forEach_rel Transmits refl (fun _ _ _ h k => h.trans k) f l (fun a _ u => h a u) s

end Transmits

section

variable (s : State)

theorem emitFabric_transmits (p : Nat) (f : OutFrame) : Transmits s (emitFabric p f s) := by
  unfold emitFabric
  split
  · exact ⟨rfl⟩
  · exact ⟨rfl⟩

theorem sendPackets_transmits (p peer qp : Nat) (op : RoceOp) (a : Nat) (d : Bytes) :
    Transmits s (sendPackets p peer qp op a d s) :=
  .forEach _ _ (fun f u => emitFabric_transmits u p f) s

theorem peerWrite_transmits (m a : Nat) (d : Bytes) : Transmits s (peerWrite m a d s) := by
  unfold peerWrite
  split
  · exact .refl s
  · exact sendPackets_transmits ..

theorem freeAquifer_transmits (a : Nat) : Transmits s (freeAquifer s a) := by
  unfold freeAquifer
  split
  · exact peerWrite_transmits ..
  · exact .refl s

/-- A step that branches on what taking a request leaves alone. -/
theorem Fair.branch {c : State → Prop} [∀ u, Decidable (c u)] {f g : State → State} (hc : Blind c) (hf : Fair f) (hg : Fair g) :
    Fair (fun u => if c u then f u else g u) := fun s k u v h => by
  have hcv : c v = c u := h.read hc
  by_cases hu : c u
  · have hv : c v := hcv ▸ hu
    simpa only [if_pos hu, if_pos hv] using hf s k u v h
  · have hv : ¬ c v := hcv ▸ hu
    simpa only [if_neg hu, if_neg hv] using hg s k u v h

theorem emitFabric_fair (p : Nat) (f : OutFrame) : Fair (emitFabric p f) :=
  .branch (c := fun u => now u < (fabOf u p).paused ∨ (fabOf u p).held ≠ []) (fun _ _ _ _ => rfl)
    (.of_keeps fun _ _ _ _ => rfl) (.of_keeps fun _ _ _ _ => rfl)

theorem sendPackets_fair (p peer qp : Nat) (op : RoceOp) (a : Nat) (d : Bytes) : Fair (sendPackets p peer qp op a d) :=
  .read (g := fun u => packetsOf u p peer qp op a d) (f := fun l => forEach l (emitFabric p)) (fun _ _ _ _ => rfl)
    fun l => .forEach l (emitFabric_fair p)

theorem peerWrite_fair (m a : Nat) (d : Bytes) : Fair (peerWrite m a d) :=
  .read (g := fun u => portToward u m) (f := fun o u => match o with | none => u | some p => sendPackets p m 0 .write a d u)
    (fun _ _ _ _ => rfl) fun o => match o with
      | none => .id
      | some p => sendPackets_fair p m 0 .write a d

theorem freeAquifer_fair (a : Nat) : Fair (fun u => freeAquifer u a) := by
  unfold freeAquifer
  split
  · exact peerWrite_fair _ a _
  · exact .id

/-! ## A tensor freed (R232, R235) -/

/-- The homes that no version bound by a job needs any more. -/
def deadHomes (s : State) : List OldHome := s.dir.old.filter (fun o => !(versionBound s o.tensor o.version))

/-- The headers of dead homes at peers overwritten. -/
def freeHomes (l : List OldHome) (s : State) :
    State := forEach l (fun o u => if o.aquifer then freeAquifer u o.extent.addr else u) s

/-- The dead homes forgotten. -/
def forgetHomes (s : State) : State :=
  { s with dir := { s.dir with old := s.dir.old.filter (fun o => versionBound s o.tensor o.version) } }

theorem reapHomes_eq : reapHomes s = reapReplicas (forgetHomes (freeHomes (deadHomes s) s)) := rfl

theorem freeHomes_transmits (l : List OldHome) : Transmits s (freeHomes l s) :=
  .forEach _ _ (fun (o : OldHome) u => by
    split
    · exact freeAquifer_transmits ..
    · exact .refl u) s

/-- The tensors whose replicas in Basin are looked at. -/
def replicaTensors (s : State) : List Nat :=
  (s.dir.tensors.filter (fun e => e.2.home != .basin && e.2.clusters != 0)).map (fun e => e.1)

/-- A tensor without the replicas that no job uses. -/
def trimReplicas (bound : Nat → Bool) (t : Tensor) : Tensor :=
  { t with clusters := BitVec.ofNat 64 (ofBits ((bitsOf 64 t.clusters.toNat).filter bound))
           offset := if ofBits ((bitsOf 64 t.clusters.toNat).filter bound) = 0 then 0 else t.offset }

theorem reapReplicas_eq : reapReplicas s = forEach (replicaTensors s) (fun i => tensorMod i (trimReplicas (boundOn s i))) s := rfl

theorem tensorOf_tensorMod (i m : Nat) (f : Tensor → Tensor) :
    tensorOf (tensorMod i f s) m = if m = i then f (tensorOf s i) else tensorOf s m := tblGet_mod _ _ _ _ _

/-- Tensors replaced one after the other: the others stay, and nothing but the directory changes. -/
theorem tensorMods_frame (l : List Nat) (f : Nat → Tensor → Tensor) :
    let u := forEach l (fun i => tensorMod i (f i)) s
    u = { s with dir := { s.dir with tensors := u.dir.tensors } } ∧ ∀ m, m ∉ l → tensorOf u m = tensorOf s m := by
  induction l generalizing s with
  | nil => exact ⟨rfl, fun _ _ => rfl⟩
  | cons i l ih =>
    obtain ⟨heq, hother⟩ := ih (tensorMod i (f i) s)
    refine ⟨heq, fun m hm => ?_⟩
    have hne : m ≠ i := fun h => hm (h ▸ List.mem_cons_self ..)
    exact (hother m fun h => hm (List.mem_cons_of_mem _ h)).trans ((tensorOf_tensorMod s i m _).trans (if_neg hne))

/-- A reap leaves the tensors without spare replicas as they are. -/
theorem reapHomes_frame :
    reapHomes s = { s with dir := (reapHomes s).dir, out := (reapHomes s).out, fabric := (reapHomes s).fabric } ∧
    (reapHomes s).dir.gens = s.dir.gens ∧
    ∀ m, (∀ e ∈ s.dir.tensors, e.1 = m → e.2.home = .basin ∨ e.2.clusters = 0) → tensorOf (reapHomes s) m = tensorOf s m := by
  have hsent := freeHomes_transmits s (deadHomes s)
  rw [reapHomes_eq]
  generalize freeHomes (deadHomes s) s = w at hsent
  have hdir : w.dir = s.dir := by rw [hsent.eq]
  have hforget : forgetHomes w = { s with dir := { s.dir with old := (forgetHomes w).dir.old }, out := w.out, fabric := w.fabric } := by
    unfold forgetHomes
    rw [hdir]
    rw [hsent.eq]
  generalize forgetHomes w = x at hforget
  obtain ⟨heq, hother⟩ := tensorMods_frame x (replicaTensors x) (fun i => trimReplicas (boundOn x i))
  rw [← reapReplicas_eq] at heq hother
  generalize reapReplicas x = y at heq hother
  have htensors : x.dir.tensors = s.dir.tensors := by rw [hforget]
  refine ⟨by rw [heq, hforget], by rw [heq, hforget], fun m hm => ?_⟩
  rw [hother m ?_, tensorOf, htensors, tensorOf]
  intro hmem
  rw [replicaTensors, htensors] at hmem
  obtain ⟨e, he, rfl⟩ := List.mem_map.mp hmem
  obtain ⟨hin, hsel⟩ := List.mem_filter.mp he
  simp only [Bool.and_eq_true, bne_iff_ne, ne_eq] at hsel
  rcases hm e hin rfl with h | h
  · exact hsel.1 h
  · exact hsel.2 h

theorem reapHomes_fair : Fair reapHomes := by
  have hfree : Fair (fun u => freeHomes (deadHomes u) u) :=
    .read (g := deadHomes) (f := freeHomes) (fun _ _ _ _ => rfl) fun l => .forEach l fun o => .ite (freeAquifer_fair _) .id
  have hreap : Fair reapReplicas :=
    .read (g := fun u => (replicaTensors u, boundOn u)) (f := fun p => forEach p.1 (fun i => tensorMod i (trimReplicas (p.2 i))))
      (fun _ _ _ _ => rfl) fun p => .forEach p.1 fun i => .of_keeps fun _ _ _ _ => rfl
  exact .comp (g := reapReplicas) (f := fun u => forgetHomes (freeHomes (deadHomes u) u)) hreap
    (.comp (g := forgetHomes) (f := fun u => freeHomes (deadHomes u) u) (.of_keeps fun _ _ _ _ => rfl) hfree)

/-- Tensor `i` struck from the directory, its generation advanced; the service jobs on it lose their tensor. -/
def strikeTensor (i : Nat) (s : State) : State := { s with
  dir := { s.dir with tensors := tblSet {} s.dir.tensors i {}, gens := tblMod 0 s.dir.gens i (· + 1) },
  sluice := { s.sluice with
    jobs := s.sluice.jobs.map (fun j => { j with service := orphan i j.service }),
    arrivals := s.sluice.arrivals.map (fun a => { a with service := orphan i a.service }) } }

theorem freeTensor_eq (i : Nat) : freeTensor i s = reapHomes (strikeTensor i (retireHome i s)) := rfl

/-- The former homes of tensors with the home of tensor `i`, which it gives up. -/
def retiredHomes (s : State) (i : Nat) : List OldHome :=
  let t := tensorOf s i
  match t.home with
  | .none => s.dir.old
  | h => s.dir.old ++
      [⟨i, t.version, if h = .aquifer then ⟨t.addr, t.stored⟩ else extent t.addr t.stored, t.stored, h = .aquifer, t.remote⟩]

theorem retireHome_eq (i : Nat) : retireHome i s = { s with dir := { s.dir with old := retiredHomes s i } } := by
  unfold retireHome retiredHomes
  cases hhome : (tensorOf s i).home <;> simp only [hhome]

theorem retireHome_fair (i : Nat) : Fair (retireHome i) := .of_keeps fun u ss cs h => by
  rw [retireHome_eq, retireHome_eq]
  rfl

theorem freeTensor_fair (i : Nat) : Fair (freeTensor i) :=
  .comp (g := reapHomes) (f := fun u => strikeTensor i (retireHome i u)) reapHomes_fair
    (.comp (g := strikeTensor i) (f := retireHome i) (.of_keeps fun _ _ _ _ => rfl) (retireHome_fair i))

/-- FREE: the tensor is gone, its generation is one further, and every other tensor stands (R232, R235). -/
theorem freeTensor_frees (i : Nat) : tensorOf (freeTensor i s) i = {} ∧ tensorGen (freeTensor i s) i = tensorGen s i + 1 ∧
    freeTensor i s = { s with dir := (freeTensor i s).dir, sluice := (freeTensor i s).sluice, out := (freeTensor i s).out,
                              fabric := (freeTensor i s).fabric } ∧
    ∀ m, m ≠ i → tensorGen (freeTensor i s) m = tensorGen s m ∧
      ((∀ e ∈ s.dir.tensors, e.1 = m → e.2.home = .basin ∨ e.2.clusters = 0) → tensorOf (freeTensor i s) m = tensorOf s m) := by
  rw [freeTensor_eq, retireHome_eq]
  generalize retiredHomes s i = old
  set x := strikeTensor i { s with dir := { s.dir with old := old } } with hx
  have htensors : x.dir.tensors = tblDel s.dir.tensors i := by rw [hx]; simp [strikeTensor, tblSet]
  have hgens : x.dir.gens = tblMod 0 s.dir.gens i (· + 1) := rfl
  have hframe : x = { s with dir := x.dir, sluice := x.sluice } := rfl
  obtain ⟨heq, hgen, hother⟩ := reapHomes_frame x
  have hmem : ∀ e ∈ x.dir.tensors, e ∈ s.dir.tensors ∧ e.1 ≠ i := fun e he => by
    rw [htensors] at he
    simpa [tblDel] using he
  have htensor : ∀ m, tensorOf x m = if m = i then {} else tensorOf s m := fun m => by
    rw [hx]
    exact tblGet_set {} s.dir.tensors i {} m
  clear_value x
  generalize reapHomes x = u at heq hgen hother
  have hgenOf : ∀ m, tensorGen u m = if m = i then tensorGen s i + 1 else tensorGen s m := fun m => by
    rw [tensorGen, hgen, hgens]
    exact tblGet_mod _ _ _ _ _
  refine ⟨?_, by rw [hgenOf, if_pos rfl], ?_, fun m hm => ⟨by rw [hgenOf, if_neg hm], fun h => ?_⟩⟩
  · rw [hother i fun e he hi => absurd hi (hmem e he).2, htensor, if_pos rfl]
  · rw [heq, hframe]
  · rw [hother m fun e he => h e (hmem e he).1, htensor, if_neg hm]

/-! ## The commands (R231-R234) -/

theorem length_dirCmdBytes (op : Nat) (c : DirCmd) : (dirCmdBytes op c).length = 32 := by simp [dirCmdBytes]

theorem parseDirCmd_dirCmdBytes (op : Nat) (c : DirCmd) (hop : op < 256) : parseDirCmd (dirCmdBytes op c) = (op, c) := by
  have hbyte : op % 2 ^ 8 = op := Nat.mod_eq_of_lt hop
  unfold parseDirCmd dirCmdBytes
  simp (disch := simp) only [List.append_assoc, fieldAt_append_of_le, fieldAt_leBytes_append, fieldAt_leBytes, length_leBytes,
    Nat.reduceSub, Nat.reduceMul, BitVec.toNat_mod_cancel, BitVec.ofNat_toNat, BitVec.setWidth_eq, hbyte]

theorem dirCmd_passes (k op : Nat) (c : DirCmd) (h : HostMay k 2 s) : WritePasses s k 0x3810 1 (dirCmdBytes op c) := by
  have hfam : famBase 0x3810 = (0x3810, 0) := by decide
  refine ⟨.blob 32, .wo, 0, by decide, by decide, ?_, ?_, ?_, ?_, nofun, nofun⟩
  · simpa [writeRight, hfam] using h.2
  · simp [notOwner, hfam]
  · simp [typeOk, blobLenOk, hfam, length_dirCmdBytes, sel, tblGet]
  · simp [reservedOk, valueMask, zeroFields, recordHeader, hfam, sel, tblGet]

theorem writeEffect_dirCmd (k : Nat) (d : Bytes) : writeEffect k 0x3810 1 d s = dirCommand k d s := by
  have hfam : famBase 0x3810 = (0x3810, 0) := by decide
  simp only [writeEffect, hfam]
  rfl

/-- A directory command with a fair effect is answered with it. -/
theorem dirCmd_did (k op : Nat) (c : DirCmd) (r : Bytes) (f : State → State) (h : HostMay k 2 s) (hf : Fair f)
    (hc : dirCommand k (dirCmdBytes op c) (taken k s) = .done r (f (taken k s))) :
    Did k { data := r } (f s) s (hostWrite k 0x3810 1 (dirCmdBytes op c) s) :=
  hostWrite_fair s k 0x3810 1 _ r f h.1 (dirCmd_passes s k op c h) hf ((writeEffect_dirCmd _ k _).trans hc)

/-- The reply about a tensor is read off the directory. -/
theorem dirReply_congr {u v : State} (hd : u.dir = v.dir) (h r : Nat) (i : Option Nat) (a : Admit) :
    dirReply u h i r a = dirReply v h i r a := by
  have htensor : tensorOf u = tensorOf v := funext fun i => by simp only [tensorOf, hd]
  unfold dirReply
  rw [htensor]

theorem Fair.dirReply_eq {f : State → State} (hf : Fair f) (k h r : Nat) (i : Option Nat) (a : Admit) :
    dirReply (f (taken k s)) h i r a = dirReply (f s) h i r a :=
  dirReply_congr (by rw [(hf s k s (taken k s) (twin_taken s k)).eq]) h r i a

@[simp] theorem dirReply_taken (k h r : Nat) (i : Option Nat) (a : Admit) : dirReply (taken k s) h i r a = dirReply s h i r a :=
  Fair.id.dirReply_eq s k h r i a

@[simp] theorem dirBadArg_taken (k op : Nat) (c : DirCmd) : dirBadArg (taken k s) op c = dirBadArg s op c := by rw [taken_eq]; rfl
@[simp] theorem tensorNamed_taken (k h : Nat) : tensorNamed (taken k s) h = tensorNamed s h := by rw [taken_eq]; rfl
@[simp] theorem tensorOf_taken (k i : Nat) : tensorOf (taken k s) i = tensorOf s i := by rw [taken_eq]; rfl
@[simp] theorem tensorHandle_taken (k i : Nat) : tensorHandle (taken k s) i = tensorHandle s i := by rw [taken_eq]; rfl
@[simp] theorem listedCount_taken (k i : Nat) : listedCount (taken k s) i = listedCount s i := by rw [taken_eq]; rfl
@[simp] theorem tensorBusy_taken (k i : Nat) : tensorBusy (taken k s) i = tensorBusy s i := by rw [taken_eq]; rfl
@[simp] theorem tensorDesc_taken (k i : Nat) : tensorDesc (taken k s) i = tensorDesc s i := by rw [taken_eq]; rfl

@[simp] theorem dirNoSpace_taken (k i : Nat) (v : Service) :
    dirNoSpace (taken k s) i v = dirNoSpace s i v := by rw [taken_eq]; rfl

@[simp] theorem dirNoObject_taken (k : Nat) (v : Service) : dirNoObject (taken k s) v = dirNoObject s v := by rw [taken_eq]; rfl

theorem createTensor_handle (i : Nat) (c : DirCmd) : tensorHandle (createTensor i c s) i = tensorHandle s i := rfl

theorem dirCommand_create (k : Nat) (c : DirCmd) (harg : dirBadArg s 1 c = false)
    (hfree : (tensorOf s (c.handle.toNat % 2 ^ 18)).state = .free) : dirCommand k (dirCmdBytes 1 c) s =
      .done (dirReply (createTensor (c.handle.toNat % 2 ^ 18) c s) (tensorHandle s (c.handle.toNat % 2 ^ 18))
        (some (c.handle.toNat % 2 ^ 18)) 0 {}) (createTensor (c.handle.toNat % 2 ^ 18) c s) := by
  unfold dirCommand
  rw [parseDirCmd_dirCmdBytes 1 c (by decide)]
  simp only [harg, hfree, Bool.false_eq_true, if_false, if_true, ne_eq, not_true_eq_false, dirDone, createTensor_handle]

/-- A command on a named tensor. -/
theorem dirCommand_named (k op i : Nat) (c : DirCmd) (hop : op < 256) (hne : op ≠ 1) (harg : dirBadArg s op c = false)
    (hname : tensorNamed s c.handle.toNat = some i) : dirCommand k (dirCmdBytes op c) s =
      if op = 2 then
        if 0 < listedCount s i then dirDone s c.handle.toNat (some i) 3
        else .done (dirReply (freeTensor i s) c.handle.toNat (some i) 0 {}) (freeTensor i s)
      else if op = 7 then
        .done (dirReply s c.handle.toNat (some i) 0 {}) (smod k (fun e => { e with query := tensorDesc s i }) s)
      else if queueClient s c.queue.toNat ≠ clientOf s k then dirDone s c.handle.toNat (some i) 7
      else if tensorBusy s i ∨ ((op = 4 ∨ op = 6) ∧ (tensorOf s i).state ≠ .valid) then dirDone s c.handle.toNat (some i) 3
      else if dirNoSpace s i (dirService op i c) then dirDone s c.handle.toNat (some i) 4
      else if dirNoObject s (dirService op i c) then dirDone s c.handle.toNat (some i) 5
      else .wait (arriveService k c.queue.toNat (dirService op i c) c.deadline.toNat s) := by
  unfold dirCommand
  rw [parseDirCmd_dirCmdBytes op c hop]
  simp only [harg, hname, hne, Bool.false_eq_true, if_false]

/-- A directory command that submits a service job waits for the Sluice's decision (R233). -/
theorem dirCmd_submits (k op i : Nat) (c : DirCmd) (h : HostMay k 2 s) (hop : op < 256) (hne : op ≠ 1 ∧ op ≠ 2 ∧ op ≠ 7)
    (harg : dirBadArg s op c = false) (hname : tensorNamed s c.handle.toNat = some i)
    (hown : queueClient s c.queue.toNat = clientOf s k) (hidle : tensorBusy s i = false)
    (hvalid : op = 4 ∨ op = 6 → (tensorOf s i).state = .valid)
    (hspace : dirNoSpace s i (dirService op i c) = false) (hobj : dirNoObject s (dirService op i c) = false) :
    Awaits k (arrivalWaits s k c.queue.toNat { deadline := c.deadline, flags := 8 } (some (dirService op i c)) s) s
      (hostWrite k 0x3810 1 (dirCmdBytes op c) s) := by
  obtain ⟨h1, h2, h7⟩ := hne
  have hc := dirCommand_named (taken k s) k op i c hop h1 (by simpa) (by simpa)
  have hready : ¬ (tensorBusy s i = true ∨ ((op = 4 ∨ op = 6) ∧ (tensorOf s i).state ≠ .valid)) := by
    rw [hidle]
    rintro (h | ⟨h, hv⟩)
    · cases h
    · exact hv (hvalid h)
  simp only [queueClient_taken, clientOf_taken, tensorBusy_taken, tensorOf_taken, dirNoSpace_taken, dirNoObject_taken] at hc
  rw [if_neg h2, if_neg h7, if_neg (by simpa using hown), if_neg hready, hspace, hobj, if_neg Bool.false_ne_true,
    if_neg Bool.false_ne_true] at hc
  simp only [arriveService, BitVec.ofNat_toNat, BitVec.setWidth_eq] at hc
  exact hostWrite_arrives s k 0x3810 1 _ _ _ _ h.1 (dirCmd_passes s k op c h) ((writeEffect_dirCmd _ k _).trans hc)

/-! ## The model store (R254) -/

theorem storeWrite_passes (k r : Nat) (j : Nat) (o : BitVec 16) (h : HostMay k r s) (hj : j = 1 ∧ r = 2 ∨ j = 4 ∧ r = 1) :
    WritePasses s k 0x3850 j (leBytes 2 o.toNat) := by
  have hfam : famBase 0x3850 = (0x3850, 0) := by decide
  rcases hj with ⟨rfl, rfl⟩ | ⟨rfl, rfl⟩
  · refine ⟨.u16, .wo, 0, by decide, by decide, ?_, ?_, ?_, ?_, nofun, fun _ => ?_⟩
    · simpa [writeRight, hfam] using h.2
    · simp [notOwner, hfam]
    · simp [typeOk, otyLen]
    · simp [reservedOk, valueMask, zeroFields, recordHeader, hfam, sel, tblGet]
    · simp [rangeOk, rangeLow, hfam, sel, tblGet]
  · refine ⟨.blob 96, .rw, 0, by decide, by decide, ?_, ?_, ?_, ?_, nofun, nofun⟩
    · simpa [writeRight, hfam] using h.2
    · simp [notOwner, hfam]
    · simp [typeOk, blobLenOk, hfam, sel, tblGet]
    · simp [reservedOk, valueMask, zeroFields, recordHeader, hfam, sel, tblGet]

theorem writeEffect_objectDelete (k : Nat) (o : BitVec 16) :
    writeEffect k 0x3850 1 (leBytes 2 o.toNat) s = .done [] (deleteObject o.toNat s) := by
  have hfam : famBase 0x3850 = (0x3850, 0) := by decide
  have hv : leNat (leBytes 2 o.toNat) = o.toNat := leNat_leBytes_toNat 16 2 o rfl
  simp only [writeEffect, hfam]
  show WRes.done [] (deleteObject (leNat (leBytes 2 o.toNat)) s) = _
  rw [hv]

theorem writeEffect_catalogueSelect (k : Nat) (o : BitVec 16) :
    writeEffect k 0x3850 4 (leBytes 2 o.toNat) s = .done [] (selectEntry k o s) := by
  have hfam : famBase 0x3850 = (0x3850, 0) := by decide
  have hv : BitVec.ofNat 16 (leNat (leBytes 2 o.toNat)) = o := by rw [leNat_leBytes_toNat 16 2 o rfl, BitVec.ofNat_toNat]; simp
  simp only [writeEffect, hfam]
  show WRes.done [] (selectEntry k (BitVec.ofNat 16 (leNat (leBytes 2 o.toNat))) s) = _
  rw [hv]

end

/-- Settles O39. -/
theorem directoryCommands : Obligations.DirectoryCommands := by
  refine fun s k => ⟨fun c hmay => ?_, fun o hmay => ⟨_, rfl, ?_⟩, fun o hmay => ⟨_, rfl, ?_⟩⟩
  · intro h
    refine ⟨fun harg hfree => ⟨_, rfl, ?_⟩, fun i harg hname hlisted => ?_, fun i harg hname => ⟨_, rfl, ?_⟩⟩
    · have hfair : Fair (createTensor (c.handle.toNat % 2 ^ 18) c) := .of_keeps fun _ _ _ _ => rfl
      have hc := dirCommand_create (taken k.val s) k.val c (by simpa) (by simpa using hfree)
      rw [hfair.dirReply_eq s k.val, tensorHandle_taken] at hc
      exact dirCmd_did s k.val 1 c _ _ hmay hfair hc
    · have hc := dirCommand_named (taken k.val s) k.val 2 i c (by decide) (by decide) (by simpa) (by simpa)
      rw [if_pos rfl, listedCount_taken, if_neg (by omega), (freeTensor_fair i).dirReply_eq s k.val] at hc
      obtain ⟨hgone, hgen, hframe, hothers⟩ := freeTensor_frees s i
      exact ⟨_, ⟨_, rfl, dirCmd_did s k.val 2 c _ _ hmay (freeTensor_fair i) hc⟩, hgone, hgen, hframe, hothers⟩
    · have hc := dirCommand_named (taken k.val s) k.val 7 i c (by decide) (by decide) (by simpa) (by simpa)
      rw [if_neg (by decide), if_pos rfl, dirReply_taken, tensorDesc_taken] at hc
      exact hostWrite_effect_smod s k.val 0x3810 1 k.val _ _ (fun u => u) _ hmay.1 (dirCmd_passes s k.val 7 c hmay) (keepsBooks_id s)
        (fun _ => ⟨fun _ _ _ _ _ => rfl, fun _ => ⟨rfl, rfl, rfl⟩⟩) ((writeEffect_dirCmd _ k.val _).trans hc)
  · exact hostWrite_fair s k.val 0x3850 1 _ _ (deleteObject o.toNat) hmay.1 (storeWrite_passes s k.val 2 1 o hmay (.inl ⟨rfl, rfl⟩))
      (.of_keeps fun _ _ _ _ => rfl) (writeEffect_objectDelete _ k.val o)
  · exact hostWrite_effect_smod s k.val 0x3850 4 k.val _ _ (fun u => u) (fun e => { e with entry := o }) hmay.1
      (storeWrite_passes s k.val 1 4 o hmay (.inr ⟨rfl, rfl⟩)) (keepsBooks_id s)
      (fun _ => ⟨fun _ _ _ _ _ => rfl, fun _ => ⟨rfl, rfl, rfl⟩⟩) (writeEffect_catalogueSelect _ k.val o)

/-- Settles O40. -/
theorem directoryServices : Obligations.DirectoryServices := by
  intro s k c i op hmay harg hname hown hidle v hspace hobj Submitted
  have hsub := fun hop hne hvalid => dirCmd_submits s k.val op i c hmay hop hne harg hname hown hidle hvalid hspace hobj
  refine ⟨?_, ?_, ?_, ?_⟩
  · rintro rfl
    exact ⟨_, rfl, hsub (by decide) (by decide) (by simp)⟩
  · rintro rfl hvalid
    exact ⟨_, rfl, hsub (by decide) (by decide) fun _ => hvalid⟩
  · rintro rfl
    exact ⟨_, rfl, hsub (by decide) (by decide) (by simp)⟩
  · rintro rfl hvalid
    exact ⟨_, rfl, hsub (by decide) (by decide) fun _ => hvalid⟩

end Sys2Proof.Machine

end

section
/-!
PROOF. The streams of Wellhead under their commands (R294, R304, R306): start, stop and flush, and the tokenizer dictionary.
-/

namespace Sys2Proof.Machine

open Claims

section

variable (s : State)

/-! ## A ring's HANDED -/

/-- The four bytes of a ring's HANDED, once they are written. -/
theorem peekNat_pokeCistern (a : Nat) (b : Bytes) : peekNat (pokeCistern a b s) a b.length = leNat b := by
  rw [pokeCistern_eq]
  show leNat (memRead (memWrite s.mem a b) a b.length) = leNat b
  rw [memRead_write]

theorem memByte_pokeCistern_other (a x : Nat) (b : Bytes) (h : ¬(a ≤ x ∧ x < a + b.length)) :
    memByte (pokeCistern a b s).mem x = memByte s.mem x := by
  rw [pokeCistern_eq]
  show memByte (memWrite s.mem a b) x = _
  rw [memByte_write, if_neg h]

/-! ## The commands' objects -/

theorem cameraControl_passes (k : Nat) (n : Fin 32) (c : BitVec 8) (h : HostMay k 1 s) :
    WritePasses s k (0x4800 + n.val) 0x10 [c] := by
  have hfam := famBase_camera n
  have hdef : ∀ j : Fin 32, objDef (0x4800 + j.val) 0x10 = some (.u8, .wo, 0) := by decide
  have hn := n.isLt
  refine control_passes s k _ _ 1 c h (hdef n) ?_ ?_ ?_ ?_
  · simp only [writeRight, hfam]
    repeat rw [if_neg (by omega)]
  · simp [notOwner, hfam]
  · simp [reservedOk, valueMask, zeroFields, recordHeader, hfam, sel, tblGet]
  · simp [rangeOk, rangeMid, hfam, sel, tblGet]

theorem writeEffect_cameraControl (k : Nat) (n : Fin 32) (c : BitVec 8) :
    writeEffect k (0x4800 + n.val) 0x10 [c] s = cameraControl n.val c.toNat s := by
  have hfam := famBase_camera n
  have hv : leNat [c] = c.toNat := by simp [leNat]
  unfold writeEffect
  simp only [hfam]
  show cameraControl n.val (leNat [c]) s = _
  rw [hv]

theorem sampleControl_passes (k : Nat) (n : Fin 16) (c : BitVec 8) (h : HostMay k 1 s) :
    WritePasses s k (0x4900 + n.val) 0x11 [c] := by
  have hfam := famBase_sample n
  have hdef : ∀ j : Fin 16, objDef (0x4900 + j.val) 0x11 = some (.u8, .wo, 0) := by decide
  have hn := n.isLt
  refine control_passes s k _ _ 1 c h (hdef n) ?_ ?_ ?_ ?_
  · simp only [writeRight, hfam]
    repeat rw [if_neg (by omega)]
  · simp [notOwner, hfam]
  · simp [reservedOk, valueMask, zeroFields, recordHeader, hfam, sel, tblGet]
  · simp [rangeOk, rangeMid, hfam, sel, tblGet]

theorem writeEffect_sampleControl (k : Nat) (n : Fin 16) (c : BitVec 8) :
    writeEffect k (0x4900 + n.val) 0x11 [c] s = sampleControl n.val c.toNat s := by
  have hfam := famBase_sample n
  have hv : leNat [c] = c.toNat := by simp [leNat]
  unfold writeEffect
  simp only [hfam]
  show sampleControl n.val (leNat [c]) s = _
  rw [hv]

theorem dictControl_passes (k : Nat) (c : BitVec 8) (h : HostMay k 1 s) : WritePasses s k 0x4980 2 [c] := by
  have hfam : famBase 0x4980 = (0x4980, 0) := by decide
  refine control_passes s k _ _ 1 c h (by decide) ?_ ?_ ?_ ?_
  · simp [writeRight, hfam]
  · simp [notOwner, hfam]
  · simp [reservedOk, valueMask, zeroFields, recordHeader, hfam, sel, tblGet]
  · simp [rangeOk, rangeMid, hfam, sel, tblGet]

theorem writeEffect_dictControl (k : Nat) (c : BitVec 8) : writeEffect k 0x4980 2 [c] s = dictControl c.toNat s := by
  have hfam : famBase 0x4980 = (0x4980, 0) := by decide
  have hv : leNat [c] = c.toNat := by simp [leNat]
  unfold writeEffect
  simp only [hfam]
  show dictControl (leNat [c]) s = _
  rw [hv]

/-- A command of a sample stream with a fair effect is answered with it. -/
theorem sampleControl_did (k : Nat) (n : Fin 16) (c : BitVec 8) (f : State → State) (h : HostMay k 1 s) (hf : Fair f)
    (hc : sampleControl n.val c.toNat (taken k s) = .done [] (f (taken k s))) :
    Did k {} (f s) s (hostWrite k (0x4900 + n.val) 0x11 [c] s) :=
  hostWrite_fair s k _ _ _ [] f h.1 (sampleControl_passes s k n c h) hf ((writeEffect_sampleControl _ k n c).trans hc)

@[simp] theorem camOf_taken (k n : Nat) : camOf (taken k s) n = camOf s n := by rw [taken_eq]; rfl
@[simp] theorem portTaken_taken (k n : Nat) : portTaken (taken k s) n = portTaken s n := by rw [taken_eq]; rfl
@[simp] theorem sampOf_taken (k n : Nat) : sampOf (taken k s) n = sampOf s n := by rw [taken_eq]; rfl
@[simp] theorem smpIsText_taken (k n : Nat) : smpIsText (taken k s) n = smpIsText s n := by rw [taken_eq]; rfl
@[simp] theorem wellhead_taken (k : Nat) : (taken k s).wellhead = s.wellhead := by rw [taken_eq]

/-! ## Start and stop (R306) -/

theorem camOf_cammod (n m : Nat) (f : Camera → Camera) :
    camOf (cammod n f s) m = if m = n then f (camOf s n) else camOf s m := tblGet_mod _ _ _ _ _

theorem sampOf_sampmod (n m : Nat) (f : SampleStream → SampleStream) :
    sampOf (sampmod n f s) m = if m = n then f (sampOf s n) else sampOf s m := tblGet_mod _ _ _ _ _

theorem camOf_of_wellhead {u v : State} (h : u.wellhead = v.wellhead) (n : Nat) : camOf u n = camOf v n := by rw [camOf, h, camOf]

theorem sampOf_of_wellhead {u v : State} (h : u.wellhead = v.wellhead) (n : Nat) :
    sampOf u n = sampOf v n := by rw [sampOf, h, sampOf]

theorem pokeCistern_wellhead (a : Nat) (b : Bytes) : (pokeCistern a b s).wellhead = s.wellhead := by rw [pokeCistern_eq]

theorem camStart_fair (n : Nat) : Fair (camStart n) := .of_keeps fun u ss cs h => by
  unfold camStart
  simp only [pokeCistern_eq]
  rfl

theorem sampleStart_fair (n : Nat) : Fair (sampleStart n) := .of_keeps fun u ss cs h => by
  unfold sampleStart
  simp only [pokeCistern_eq]
  rfl

/-- A stream started: its record, and HANDED 0 in its ring. -/
theorem camStart_starts (n : Nat) :
    let u := camStart n s
    let r := (camGeom s n).ring
    u = { s with mem := u.mem, dir := u.dir, wellhead := u.wellhead } ∧ u.wellhead = { s.wellhead with cams := u.wellhead.cams } ∧
      camOf u n = { camOf s n with state := 1, handed := 0, frame := none, ready := none, lastGood := none } ∧
      (∀ m, m ≠ n → camOf u m = camOf s m) ∧ peekNat u r 4 = 0 ∧ ∀ a, ¬(r ≤ a ∧ a < r + 4) → memByte u.mem a = memByte s.mem a := by
  unfold camStart
  set x := cammod n (fun c => { c with state := 1, handed := 0, frame := none, ready := none, lastGood := none }) s with hx
  have hcam : ∀ m, camOf (pokeCistern (camGeom s n).ring (zeros 4) x) m = camOf x m := fun m =>
    camOf_of_wellhead (pokeCistern_wellhead x _ _) m
  refine ⟨by rw [pokeCistern_eq]; rfl, by rw [pokeCistern_wellhead]; rfl, ?_, fun m hm => ?_, peekNat_pokeCistern x _ (zeros 4),
    fun a ha => memByte_pokeCistern_other x _ a (zeros 4) ha⟩
  · exact (hcam n).trans ((camOf_cammod s n n _).trans (if_pos rfl))
  · exact (hcam m).trans ((camOf_cammod s n m _).trans (if_neg hm))

theorem sampleStart_starts (n : Nat) :
    let u := sampleStart n s
    let r := smpRing s n
    u = { s with mem := u.mem, dir := u.dir, wellhead := u.wellhead } ∧
      u.wellhead = { s.wellhead with streams := u.wellhead.streams } ∧
      sampOf u n = { running := true, head := smpTail s n, handed := 0, batch := [] } ∧
      (∀ m, m ≠ n → sampOf u m = sampOf s m) ∧ peekNat u r 4 = 0 ∧ ∀ a, ¬(r ≤ a ∧ a < r + 4) → memByte u.mem a = memByte s.mem a := by
  unfold sampleStart
  set x := sampmod n (fun _ => { running := true, head := smpTail s n, handed := 0, batch := [] }) s with hx
  have hsamp : ∀ m, sampOf (pokeCistern (smpRing s n) (zeros 4) x) m = sampOf x m := fun m =>
    sampOf_of_wellhead (pokeCistern_wellhead x _ _) m
  refine ⟨by rw [pokeCistern_eq]; rfl, by rw [pokeCistern_wellhead]; rfl, ?_, fun m hm => ?_, peekNat_pokeCistern x _ (zeros 4),
    fun a ha => memByte_pokeCistern_other x _ a (zeros 4) ha⟩
  · exact (hsamp n).trans ((sampOf_sampmod s n n _).trans (if_pos rfl))
  · exact (hsamp m).trans ((sampOf_sampmod s n m _).trans (if_neg hm))

/-- The tokenizer takes the next text sample, or none: only its own place among the decoders changes. -/
theorem tokenizerTake_eq : ∃ ds, tokenizerTake s = wmod (fun w => { w with decoders := ds }) s ∧
    ∀ e ∈ ds, e.1 ≠ 4 → e ∈ s.wellhead.decoders := by
  unfold tokenizerTake
  split
  · exact ⟨s.wellhead.decoders, rfl, fun e he _ => he⟩
  · split
    next n i _ =>
      refine ⟨_, rfl, fun e he hne => ?_⟩
      rcases mem_tblPut _ _ _ e (show e ∈ tblPut s.wellhead.decoders 4 (some ⟨n, i, now s⟩) from he) with rfl | he
      · exact absurd rfl hne
      · exact he
    next => exact ⟨s.wellhead.decoders, rfl, fun e he _ => he⟩

theorem tokenizerTake_fair : Fair tokenizerTake :=
  .branch (c := fun u => tblGet none u.wellhead.decoders 4 ≠ none ∨ !u.wellhead.loaded) (fun _ _ _ _ => rfl) .id
    (.read (g := fun u => nextSample u true) (f := fun o u => match o with
      | some (n, i) => decoderSet 4 (some ⟨n, i, now u⟩) u
      | none => u) (fun _ _ _ _ => rfl) fun o => match o with
        | some (_, _) => .of_keeps fun _ _ _ _ => rfl
        | none => .id)

theorem sampOf_tokenizerTake (n : Nat) : sampOf (tokenizerTake s) n = sampOf s n := by
  obtain ⟨ds, h, -⟩ := tokenizerTake_eq s
  rw [h]
  rfl

theorem sampOf_dropDecoders (n m : Nat) : sampOf (dropDecoders n s) m = sampOf s m := rfl

theorem sampleStop_fair (n : Nat) : Fair (sampleStop n) :=
  .comp (g := tokenizerTake) (f := fun u => sampmod n (fun x => { x with running := false, batch := [] }) (dropDecoders n u))
    tokenizerTake_fair (.of_keeps fun _ _ _ _ => rfl)

theorem sampleStop_stops (n : Nat) :
    let u := sampleStop n s
    u = { s with wellhead := u.wellhead } ∧
      u.wellhead = { s.wellhead with streams := u.wellhead.streams, decoders := u.wellhead.decoders } ∧
      sampOf u n = { sampOf s n with running := false, batch := [] } ∧ (∀ m, m ≠ n → sampOf u m = sampOf s m) ∧
      ∀ e ∈ u.wellhead.decoders, e.1 ≠ 4 → e ∈ s.wellhead.decoders ∧ e.2.map (fun d => d.stream) ≠ some n := by
  unfold sampleStop
  have hsamp : ∀ m, sampOf (tokenizerTake (sampmod n (fun x => { x with running := false, batch := [] }) (dropDecoders n s))) m =
      if m = n then { sampOf s n with running := false, batch := [] } else sampOf s m := fun m =>
    (sampOf_tokenizerTake _ m).trans (sampOf_sampmod (dropDecoders n s) n m _)
  obtain ⟨ds, heq, hkept⟩ := tokenizerTake_eq (sampmod n (fun x => { x with running := false, batch := [] }) (dropDecoders n s))
  refine ⟨by rw [heq]; rfl, by rw [heq]; rfl, (hsamp n).trans (if_pos rfl), fun m hm => (hsamp m).trans (if_neg hm),
    fun e he hne => ?_⟩
  rw [heq] at he
  have hmem : e ∈ s.wellhead.decoders.filter (fun e => e.2.map (fun d => d.stream) ≠ some n) := hkept e he hne
  simpa using hmem

/-! ## Flush (R304) -/

/-- The samples of a batch that are not settled. -/
def openSamples (s : State) (n : Nat) : List Nat :=
  ((sampOf s n).batch.zipIdx.filter (fun e => !e.1.settled)).map (fun e => e.2)

/-- The samples that a batch lacks. -/
def missingSamples (s : State) (n : Nat) : List Sample :=
  List.replicate (sampCfg s n 9 - (sampOf s n).batch.length) { index := 0, src := 0, bytes := 0, params := 0 }

/-- The batch filled up with samples that never came. -/
def padBatch (n : Nat) (s : State) : State := sampmod n (fun x => { x with batch := x.batch ++ missingSamples s n }) s

/-- A sample settled as FLUSHED, with the padding of its stream. -/
def flushedSample (d : Bytes) (e : Sample) : Sample := { e with settled := true, reason := 9, status := 1, len := 0, data := d }

def rejectOpen (n : Nat) (l : List Nat) (s : State) : State := forEach l (fun i => rejectSample n i 9) s

theorem flushStream_eq (n : Nat) : flushStream n s = if (sampOf s n).batch = [] then s else
    tokenizerTake (sampleHandover n (rejectOpen n (openSamples (padBatch n (dropDecoders n s)) n) (padBatch n (dropDecoders n s)))) := rfl

theorem rejectSample_eq (n i : Nat) :
    rejectSample n i 9 s = samplePut n i (flushedSample (padData s n)) (count 0x7417 2 1 s) := rfl

theorem sampOf_rejectSample (n i m : Nat) : sampOf (rejectSample n i 9 s) m = if m = n then { sampOf s n with
    batch := match (sampOf s n).batch[i]? with
      | some e => setAt (sampOf s n).batch i (flushedSample (padData s n) e)
      | none => (sampOf s n).batch } else sampOf s m :=
  sampOf_sampmod (count 0x7417 2 1 s) n m _

/-- Samples settled one after the other: counted, and nothing else about the stream or the others changed. -/
theorem rejectOpen_settles (n : Nat) (l : List Nat) :
    let u := rejectOpen n l s
    u = { s with wellhead := { s.wellhead with streams := u.wellhead.streams }, counters := u.counters } ∧
      counter u 0x7417 2 = counter s 0x7417 2 + BitVec.ofNat 64 l.length ∧ (∀ m, m ≠ n → sampOf u m = sampOf s m) ∧
      sampOf u n = { sampOf s n with batch := (sampOf u n).batch } ∧
      (sampOf u n).batch.length = (sampOf s n).batch.length ∧
      ∀ i e, (sampOf u n).batch[i]? = some e → e.settled = true ∨ i ∉ l ∧ (sampOf s n).batch[i]? = some e := by
  induction l generalizing s with
  | nil => exact ⟨rfl, by simp [rejectOpen, forEach], fun _ _ => rfl, rfl, rfl, fun i e he => .inr ⟨by simp, he⟩⟩
  | cons i l ih =>
    obtain ⟨heq, hcount, hother, hrest, hlen, hset⟩ := ih (rejectSample n i 9 s)
    have hsamp := fun m => sampOf_rejectSample s n i m
    have hn := (hsamp n).trans (if_pos rfl)
    have hc : counter (rejectSample n i 9 s) 0x7417 2 = counter s 0x7417 2 + 1 := counter_count_same s 0x7417 2
    have hlen₁ : (sampOf (rejectSample n i 9 s) n).batch.length = (sampOf s n).batch.length := by
      rw [hn]
      show (match (sampOf s n).batch[i]? with | some e => _ | none => _ : List Sample).length = _
      split
      · simp [setAt]
      · rfl
    have hset₁ : ∀ j e, (sampOf (rejectSample n i 9 s) n).batch[j]? = some e →
        e.settled = true ∨ j ≠ i ∧ (sampOf s n).batch[j]? = some e := fun j e he => by
      rw [hn] at he
      dsimp only at he
      split at he
      next e₀ h₀ =>
        rw [setAt, List.getElem?_set] at he
        split at he
        next hij =>
          split at he
          · exact .inl (by rw [← Option.some.inj he]; rfl)
          · cases he
        next hij => exact .inr ⟨fun h => hij h.symm, he⟩
      next hnone =>
        refine .inr ⟨fun h => ?_, he⟩
        rw [h, hnone] at he
        cases he
    have hstep : rejectOpen n (i :: l) s = rejectOpen n l (rejectSample n i 9 s) := rfl
    rw [hstep]
    refine ⟨heq, ?_, fun m hm => (hother m hm).trans ((hsamp m).trans (if_neg hm)), ?_, hlen.trans hlen₁, fun j e he => ?_⟩
    · rw [hcount, hc, List.length_cons, Nat.add_comm l.length, BitVec.ofNat_add, BitVec.add_assoc]
      rfl
    · rw [hrest, hn]
    · rcases hset j e he with h | ⟨hj, h⟩
      · exact .inl h
      · rcases hset₁ j e h with h | ⟨hji, h⟩
        · exact .inl h
        · exact .inr ⟨by simp [hj, hji], h⟩

theorem rejectOpen_fair (n : Nat) (l : List Nat) : Fair (rejectOpen n l) :=
  .forEach l fun i => .read (g := fun u => padData u n)
    (f := fun d u => samplePut n i (flushedSample d) (count 0x7417 2 1 u)) (fun _ _ _ _ => rfl)
    fun d => .comp (g := samplePut n i (flushedSample d)) (f := count 0x7417 2 1) (.of_keeps fun _ _ _ _ => rfl)
      (.count 0x7417 2 1 (by decide))

theorem raiseEvent_fair (job : Option (BitVec 32)) (n : Nat) : Fair (raiseEvent job n) :=
  .branch (c := fun u => eventWaiters u job n = []) (fun _ _ _ _ => rfl) (.of_keeps fun _ _ _ _ => rfl)
    (.read (g := fun u => eventWaiters u job n)
      (f := fun l => forEach l (fun t => tmod t (fun tl => { tl with wait := none, pc := tl.pc + 1 }))) (fun _ _ _ _ => rfl)
      fun l => .forEach l fun t => .of_keeps fun _ _ _ _ => rfl)

theorem handOver_fair (ring : Nat) (handed : BitVec 32) (event : Nat) : Fair (handOver ring handed event) :=
  .comp (g := raiseEvent none event) (f := pokeCistern ring (leBytes 4 handed.toNat)) (raiseEvent_fair none event)
    (pokeCistern_fair _ _)

/-- Where the next slot of a sample stream lies. -/
def sampleSlotAt (s : State) (n : Nat) : Nat :=
  smpRing s n + 128 + sampSlotBytes s n * ((sampOf s n).handed.toNat % sampCfg s n 0x0f)

/-- A whole batch put into its slot and handed over. -/
def handBatch (n : Nat) (s : State) : State :=
  handOver (smpRing s n) ((sampOf s n).handed + 1) (sampCfg s n 0x10)
    (sampmod n (fun x => { x with handed := (sampOf s n).handed + 1, batch := [] })
      (pokeCistern (sampleSlotAt s n) (sampleSlot s n ((sampOf s n).handed + 1) (sampOf s n).batch) s))

/-- A batch is handed over once all of it stands and is settled. -/
def batchWhole (s : State) (n : Nat) : Prop :=
  (sampOf s n).running = true ∧ (sampOf s n).batch.length = sampCfg s n 9 ∧ (sampOf s n).batch.all (fun e => e.settled) = true

theorem sampleHandover_whole (n : Nat) (h : batchWhole s n) : sampleHandover n s = handBatch n s := by
  obtain ⟨hrun, hlen, hset⟩ := h
  have hkept : ∀ a b, smpRing (pokeCistern a b s) n = smpRing s n ∧ sampCfg (pokeCistern a b s) n = sampCfg s n := fun a b => by
    simp only [pokeCistern_eq]
    exact ⟨rfl, rfl⟩
  unfold sampleHandover handBatch
  simp only [hrun, hlen, hset, and_self, if_true, (hkept _ _).1, (hkept _ _).2]
  rfl

theorem sampleHandover_else (n : Nat) (h : ¬ batchWhole s n) : sampleHandover n s = s := if_neg h

theorem handBatch_fair (n : Nat) : Fair (handBatch n) :=
  .read (g := fun u => ((smpRing u n, sampCfg u n 0x10), sampOf u n, sampleSlotAt u n,
      sampleSlot u n ((sampOf u n).handed + 1) (sampOf u n).batch))
    (f := fun p u => handOver p.1.1 (p.2.1.handed + 1) p.1.2
      (sampmod n (fun x => { x with handed := p.2.1.handed + 1, batch := [] }) (pokeCistern p.2.2.1 p.2.2.2 u)))
    (fun _ _ _ _ => rfl) fun p => .comp (g := handOver p.1.1 (p.2.1.handed + 1) p.1.2)
      (f := fun u => sampmod n (fun x => { x with handed := p.2.1.handed + 1, batch := [] }) (pokeCistern p.2.2.1 p.2.2.2 u))
      (handOver_fair _ _ _) (.comp (g := sampmod n (fun x => { x with handed := p.2.1.handed + 1, batch := [] }))
        (f := pokeCistern p.2.2.1 p.2.2.2) (.of_keeps fun _ _ _ _ => rfl) (pokeCistern_fair _ _))

theorem sampleHandover_fair (n : Nat) : Fair (sampleHandover n) := fun w k u v h => by
  have hwhole : batchWhole v n = batchWhole u n := h.read (g := fun x => batchWhole x n) fun _ _ _ _ => rfl
  by_cases hu : batchWhole u n
  · rw [sampleHandover_whole u n hu, sampleHandover_whole v n (hwhole ▸ hu)]
    exact handBatch_fair n w k u v h
  · rw [sampleHandover_else u n hu, sampleHandover_else v n (hwhole ▸ hu)]
    exact h

/-- What the hand-over of a batch leaves of the streams and in the ring. -/
theorem handBatch_hands (n : Nat) :
    (∀ m, sampOf (handBatch n s) m = if m = n then { sampOf s n with handed := (sampOf s n).handed + 1, batch := [] } else sampOf s m) ∧
      peekNat (handBatch n s) (smpRing s n) 4 = ((sampOf s n).handed + 1).toNat ∧ (handBatch n s).counters = s.counters := by
  unfold handBatch handOver
  generalize sampleSlot s n _ _ = b
  generalize sampleSlotAt s n = a
  set x := sampmod n (fun x => { x with handed := (sampOf s n).handed + 1, batch := [] }) (pokeCistern a b s) with hx
  have hsamp : ∀ m, sampOf x m = if m = n then { sampOf s n with handed := (sampOf s n).handed + 1, batch := [] } else sampOf s m :=
    fun m => by
      have hpoke : ∀ i, sampOf (pokeCistern a b s) i = sampOf s i := fun i => sampOf_of_wellhead (pokeCistern_wellhead s a b) i
      rw [hx, sampOf_sampmod, hpoke, hpoke]
  have hcount : x.counters = s.counters := by rw [hx, pokeCistern_eq]; rfl
  clear_value x
  have hpeek := peekNat_pokeCistern x (smpRing s n) (leBytes 4 ((sampOf s n).handed + 1).toNat)
  rw [leNat_leBytes_toNat 32 4 _ rfl, length_leBytes] at hpeek
  generalize hy : pokeCistern (smpRing s n) (leBytes 4 ((sampOf s n).handed + 1).toNat) x = y at hpeek
  have hyw : y.wellhead = x.wellhead := by rw [← hy, pokeCistern_wellhead]
  have hyc : y.counters = x.counters := by rw [← hy, pokeCistern_eq]
  have hraise := raiseEvent_eq none (sampCfg s n 0x10) y
  generalize raiseEvent none (sampCfg s n 0x10) y = z at hraise
  refine ⟨fun m => ?_, ?_, ?_⟩
  · rw [sampOf_of_wellhead (show z.wellhead = x.wellhead by rw [hraise, hyw]), hsamp]
  · rw [peekNat, show z.mem = y.mem by rw [hraise]]
    exact hpeek
  · rw [hraise]
    exact hyc.trans hcount

theorem flushStream_fair (n : Nat) : Fair (flushStream n) :=
  .branch (c := fun u => (sampOf u n).batch = []) (fun _ _ _ _ => rfl) .id
    (.comp (g := tokenizerTake) (f := fun u => sampleHandover n (rejectOpen n (openSamples (padBatch n (dropDecoders n u)) n)
        (padBatch n (dropDecoders n u)))) tokenizerTake_fair
      (.comp (g := sampleHandover n) (f := fun u => rejectOpen n (openSamples (padBatch n (dropDecoders n u)) n)
          (padBatch n (dropDecoders n u))) (sampleHandover_fair n)
        (.comp (g := fun u => rejectOpen n (openSamples u n) u) (f := fun u => padBatch n (dropDecoders n u))
          (.read (g := fun u => openSamples u n) (f := rejectOpen n) (fun _ _ _ _ => rfl) (rejectOpen_fair n))
          (.of_keeps fun _ _ _ _ => rfl))))

theorem length_openSamples (n : Nat) : (openSamples s n).length = ((sampOf s n).batch.filter (fun e => !e.settled)).length := by
  unfold openSamples
  conv_rhs => rw [← List.zipIdx_map_fst 0 (sampOf s n).batch, List.filter_map]
  simp only [List.length_map, Function.comp_def]

theorem settled_of_not_open (n i : Nat) (e : Sample) (he : (sampOf s n).batch[i]? = some e) (h : i ∉ openSamples s n) :
    e.settled = true := by
  by_contra hne
  refine h (List.mem_map.mpr ⟨(e, i), List.mem_filter.mpr ⟨?_, by simpa using hne⟩, rfl⟩)
  exact List.mk_mem_zipIdx_iff_getElem?.mpr he

/-- A flush settles what is left of the batch, counts it and hands the batch over (R304). -/
theorem flushStream_flushes (n : Nat) (hrun : (sampOf s n).running = true) (hbatch : (sampOf s n).batch ≠ [])
    (hlen : (sampOf s n).batch.length ≤ sampCfg s n 9) :
    let x := sampOf s n
    let u := flushStream n s
    sampOf u n = { x with handed := x.handed + 1, batch := [] } ∧ (∀ m, m ≠ n → sampOf u m = sampOf s m) ∧
      peekNat u (smpRing s n) 4 = (x.handed + 1).toNat ∧
      counter u 0x7417 2 = counter s 0x7417 2 + BitVec.ofNat 64 ((x.batch.filter (fun e => !e.settled)).length +
        (sampCfg s n 9 - x.batch.length)) := by
  intro x u
  set p := padBatch n (dropDecoders n s) with hp
  have hpad : ∀ m, sampOf p m = if m = n then { x with batch := x.batch ++ missingSamples s n } else sampOf s m := fun m =>
    sampOf_sampmod (dropDecoders n s) n m _
  have hpn := (hpad n).trans (if_pos rfl)
  obtain ⟨heq, hcount, hother, hrest, hlenr, hset⟩ := rejectOpen_settles p n (openSamples p n)
  have hopen : (openSamples p n).length = (x.batch.filter (fun e => !e.settled)).length + (sampCfg s n 9 - x.batch.length) := by
    rw [length_openSamples, hpn]
    simp [missingSamples, x]
  have hu : u = tokenizerTake (sampleHandover n (rejectOpen n (openSamples p n) p)) := (flushStream_eq s n).trans (if_neg hbatch)
  have hpc : p.counters = s.counters := rfl
  have hcfg : ∀ j, sampCfg p n j = sampCfg s n j := fun _ => rfl
  have hring : smpRing p n = smpRing s n := rfl
  have hfull : (sampOf p n).batch.length = sampCfg s n 9 := by
    rw [hpn]
    simp only [missingSamples, List.length_append, List.length_replicate]
    exact Nat.add_sub_cancel' hlen
  generalize rejectOpen n (openSamples p n) p = r at heq hcount hother hrest hlenr hset hu
  clear_value p
  have hrcfg : ∀ j, sampCfg r n j = sampCfg s n j := fun j => by rw [← hcfg, heq]; rfl
  have hrring : smpRing r n = smpRing s n := by rw [← hring, heq]; rfl
  have hwhole : batchWhole r n := by
    refine ⟨by rw [hrest, hpn]; exact hrun, by rw [hlenr, hfull, hrcfg], List.all_eq_true.mpr fun e he => ?_⟩
    obtain ⟨i, hi⟩ := List.mem_iff_getElem?.mp he
    rcases hset i e hi with h | ⟨hni, hpe⟩
    · exact h
    · exact settled_of_not_open p n i e hpe hni
  have hhanded : (sampOf r n).handed = x.handed := by rw [hrest, hpn]
  obtain ⟨hsamp, hpeek, hc⟩ := handBatch_hands r n
  rw [sampleHandover_whole r n hwhole] at hu
  generalize handBatch n r = w at hu hsamp hpeek hc
  obtain ⟨ds, htok, -⟩ := tokenizerTake_eq w
  have huw : ∀ m, sampOf u m = sampOf w m := fun m => by rw [hu]; exact sampOf_tokenizerTake w m
  refine ⟨?_, fun m hm => ?_, ?_, ?_⟩
  · rw [huw, hsamp, if_pos rfl, hrest, hpn]
  · rw [huw, hsamp, if_neg hm, hother m hm, hpad, if_neg hm]
  · rw [hu, htok, ← hrring, ← hhanded]
    exact hpeek
  · rw [hu, htok]
    show counter w 0x7417 2 = _
    rw [counter_eq_of_counters hc, hcount, hopen, counter_eq_of_counters hpc]

theorem sampleControl_flush (n : Nat) (h : (sampOf s n).running = true) : sampleControl n 3 s = .done [] (flushStream n s) :=
  congrArg (WRes.done []) (if_pos h)

/-- The tokenizer's dictionary in place. -/
def setDict (l : List Bytes) (s : State) : State := { s with wellhead := { s.wellhead with dict := l, loaded := true } }

theorem loadDict_loads {i : Nat} {b : Bytes} {l : List Bytes} (hname : tensorNamed s (cfg s 0x4980 1) = some i)
    (hvalid : (tensorOf s i).state = .valid) (hb : versionBytes s i (tensorOf s i).version = some b)
    (hl : parseDict (b.length + 1) b = some l) (hok : dictOk l = true) :
    loadDict s = some (setDict l s) := by
  unfold loadDict
  rw [hname, Option.filter_some, hvalid]
  simp only [beq_self_eq_true, if_true, hb, hl, hok]
  rfl

end

/-- Settles O46. -/
theorem wellheadControls : Obligations.WellheadControls := by
  refine fun s k hmay => ⟨fun n => ?_, fun n => ?_, fun i b l hname hvalid hb hl hok => ⟨_, rfl, ?_⟩⟩
  · intro r
    refine ⟨fun hstate hport => ?_, fun hstate => ⟨_, rfl, ?_⟩⟩
    · have hc : cameraControl n.val 1 (taken k.val s) = .done [] (camStart n.val (taken k.val s)) := by
        simp [cameraControl, hstate, hport]
      exact ⟨_, ⟨_, rfl, hostWrite_fair s k.val _ _ _ [] _ hmay.1 (cameraControl_passes s k.val n 1 hmay) (camStart_fair n.val)
        ((writeEffect_cameraControl _ k.val n 1).trans hc)⟩, camStart_starts s n.val⟩
    · have hc : cameraControl n.val 2 (taken k.val s) = .done [] (camStop n.val (taken k.val s)) := by
        have hstate' : (camOf (taken k.val s) n.val).state ≠ 0 := by simpa using hstate
        exact congrArg (WRes.done []) (if_neg hstate')
      exact hostWrite_fair s k.val _ _ _ [] (camStop n.val) hmay.1 (cameraControl_passes s k.val n 2 hmay)
        (.of_keeps fun _ _ _ _ => rfl) ((writeEffect_cameraControl _ k.val n 2).trans hc)
  · intro x r
    refine ⟨fun hrun htext => ?_, fun hrun htext hload => ⟨_, rfl, ?_⟩, fun hrun => ⟨?_, fun hbatch => ⟨_, rfl, ?_⟩, fun hbatch hlen => ?_⟩⟩
    · have hc : sampleControl n.val 1 (taken k.val s) = .done [] (sampleStart n.val (taken k.val s)) := by
        have hdict : ¬(smpIsText s n.val = true ∧ (!s.wellhead.loaded) = true) := fun h => by simp [htext h.1] at h
        show (if (sampOf _ n.val).running = true then _ else if _ then _ else _) = _
        rw [sampOf_taken, smpIsText_taken, wellhead_taken, if_neg (by simpa using hrun), if_neg hdict]
      exact ⟨_, ⟨_, rfl, sampleControl_did s k.val n 1 _ hmay (sampleStart_fair n.val) hc⟩, sampleStart_starts s n.val⟩
    · have hc : sampleControl n.val 1 (taken k.val s) = .abort abConflict := by
        show (if (sampOf _ n.val).running = true then _ else if _ then _ else _) = _
        rw [sampOf_taken, smpIsText_taken, wellhead_taken, if_neg (by simpa using hrun), if_pos ⟨htext, by simp [hload]⟩]
      exact hostWrite_refused s k.val _ _ _ abConflict hmay.1 (sampleControl_passes s k.val n 1 hmay) (by decide)
        ((writeEffect_sampleControl _ k.val n 1).trans hc)
    · have hc : sampleControl n.val 2 (taken k.val s) = .done [] (sampleStop n.val (taken k.val s)) := by
        show WRes.done [] (if (sampOf _ n.val).running = true then _ else _) = _
        rw [sampOf_taken, if_pos hrun]
      exact ⟨_, ⟨_, rfl, sampleControl_did s k.val n 2 _ hmay (sampleStop_fair n.val) hc⟩, sampleStop_stops s n.val⟩
    · have hc := sampleControl_flush (taken k.val s) n.val ((congrArg _ (sampOf_taken ..)).trans hrun)
      rw [flushStream_eq, sampOf_taken, if_pos hbatch] at hc
      exact sampleControl_did s k.val n 3 (fun u => u) hmay .id hc
    · have hc := sampleControl_flush (taken k.val s) n.val ((congrArg _ (sampOf_taken ..)).trans hrun)
      exact ⟨_, ⟨_, rfl, sampleControl_did s k.val n 3 _ hmay (flushStream_fair n.val) hc⟩, flushStream_flushes s n.val hrun hbatch hlen⟩
  · have hload : loadDict (taken k.val s) = some (setDict l (taken k.val s)) := by
      have hcfg : ∀ i j, cfg (taken k.val s) i j = cfg s i j := fun i j => by rw [taken_eq]; rfl
      have hver : ∀ i v, versionBytes (taken k.val s) i v = versionBytes s i v := fun i v => by rw [taken_eq]; rfl
      exact loadDict_loads (taken k.val s) (by rw [tensorNamed_taken, hcfg, hname]) (by rw [tensorOf_taken, hvalid])
        (by rw [tensorOf_taken, hver, hb]) hl hok
    have hc : dictControl 1 (taken k.val s) = .done [] (setDict l (taken k.val s)) := by
      unfold dictControl
      rw [if_neg (by decide), hload]
    exact hostWrite_fair s k.val _ _ _ [] (setDict l) hmay.1 (dictControl_passes s k.val 1 hmay) (.of_keeps fun _ _ _ _ => rfl)
      ((writeEffect_dictControl _ k.val 1).trans hc)

end Sys2Proof.Machine

end

section
/-!
PROOF. The Pump engine under its commands (R351-R363): start and stop, command records, and the enables, tables and laws of its axes.
-/

namespace Sys2Proof.Machine

open Claims

section

variable (s : State)

/-! ## The commands' objects -/

theorem pumpControl_passes (k : Nat) (c : BitVec 8) (h : HostMay k 8 s) : WritePasses s k 0x5400 8 [c] := by
  have hfam : famBase 0x5400 = (0x5400, 0) := by decide
  refine control_passes s k _ _ 8 c h (by decide) ?_ ?_ ?_ ?_
  · simp [writeRight, hfam]
  · simp [notOwner, hfam]
  · simp [reservedOk, valueMask, zeroFields, recordHeader, hfam, sel, tblGet]
  · simp [rangeOk, rangeHigh, hfam, sel, tblGet]

theorem writeEffect_pumpControl (k : Nat) (c : BitVec 8) : writeEffect k 0x5400 8 [c] s = pumpControl c.toNat s := by
  have hfam : famBase 0x5400 = (0x5400, 0) := by decide
  have hv : leNat [c] = c.toNat := by simp [leNat]
  unfold writeEffect
  simp only [hfam]
  show pumpControl (leNat [c]) s = _
  rw [hv]

theorem pumpRecord_passes (k : Nat) (r : Bytes) (h : HostMay k 8 s) (hlen : r.length = 1088) (hres : reservedOk 0x5400 7 r = true) :
    WritePasses s k 0x5400 7 r := by
  have hfam : famBase 0x5400 = (0x5400, 0) := by decide
  refine ⟨.blob 1088, .wo, 0, by decide, by decide, ?_, ?_, ?_, ?_, nofun, nofun⟩
  · simpa [writeRight, hfam] using h.2
  · simp [notOwner, hfam]
  · simp [typeOk, blobLenOk, hfam, hlen, sel, tblGet]
  · rw [hfam]; exact hres

theorem writeEffect_pumpRecord (k : Nat) (r : Bytes) : writeEffect k 0x5400 7 r s = pumpRecord r s := by
  have hfam : famBase 0x5400 = (0x5400, 0) := by decide
  simp only [writeEffect, hfam]
  rfl

theorem axisControl_passes (k : Nat) (n : Fin 64) (c : BitVec 8) (h : HostMay k 8 s) :
    WritePasses s k (0x5500 + n.val) 0x0c [c] := by
  have hfam := famBase_axis n
  have hdef : ∀ j : Fin 64, objDef (0x5500 + j.val) 0x0c = some (.u8, .wo, 0) := by decide
  have hn := n.isLt
  refine control_passes s k _ _ 8 c h (hdef n) ?_ ?_ ?_ ?_
  · simp only [writeRight, hfam]
    repeat rw [if_neg (by omega)]
    rw [if_pos (by omega)]
  · simp [notOwner, hfam]
  · simp [reservedOk, valueMask, zeroFields, recordHeader, hfam, sel, tblGet]
  · simp [rangeOk, rangeHigh, hfam, sel, tblGet]

theorem writeEffect_axisControl (k : Nat) (n : Fin 64) (c : BitVec 8) :
    writeEffect k (0x5500 + n.val) 0x0c [c] s = axisControl n.val c.toNat s := by
  have hfam := famBase_axis n
  have hv : leNat [c] = c.toNat := by simp [leNat]
  unfold writeEffect
  simp only [hfam]
  show axisControl n.val (leNat [c]) s = _
  rw [hv]

theorem axisLaw_passes (k : Nat) (n : Fin 64) (law : Bytes) (h : HostMay k 8 s) (hlen : law.length = 256)
    (hres : reservedOk 0x5500 5 law = true) (hstop : axisEnabled (axisOf s n.val) = false) : WritePasses s k (0x5500 + n.val) 5 law := by
  have hfam := famBase_axis n
  have hdef : ∀ j : Fin 64, objDef (0x5500 + j.val) 5 = some (.blob 256, .rws, 0) := by decide
  have hn := n.isLt
  refine ⟨.blob 256, .rws, 0, hdef n, by decide, ?_, ?_, ?_, ?_, fun _ => ?_, nofun⟩
  · simp only [writeRight, hfam]
    repeat rw [if_neg (by omega)]
    rw [if_pos (by omega)]
    exact h.2
  · simp [notOwner, hfam]
  · simp [typeOk, blobLenOk, hfam, hlen, sel, tblGet]
  · rw [hfam]; exact hres
  · simpa [ownerRuns, hfam] using hstop

theorem writeEffect_axisLaw (k : Nat) (n : Fin 64) (law : Bytes) :
    writeEffect k (0x5500 + n.val) 5 law s = axisConfig (0x5500 + n.val) 5 law n.val s := by
  have hfam := famBase_axis n
  unfold writeEffect
  simp only [hfam]
  rfl

/-- A command of an axis whose effect touches no books is answered with it. -/
theorem axisControl_did (k : Nat) (n : Fin 64) (c : BitVec 8) (f : State → State) (h : HostMay k 8 s) (hf : KeepsBooks f s)
    (hc : axisControl n.val c.toNat (taken k s) = .done [] (f (taken k s))) :
    Did k {} (f s) s (hostWrite k (0x5500 + n.val) 0x0c [c] s) :=
  hostWrite_effect s k _ _ _ [] f h.1 (axisControl_passes s k n c h) hf ((writeEffect_axisControl _ k n c).trans hc)

@[simp] theorem pump_taken (k : Nat) : (taken k s).pump = s.pump := by rw [taken_eq]
@[simp] theorem axisOf_taken (k n : Nat) : axisOf (taken k s) n = axisOf s n := by rw [taken_eq]; rfl
@[simp] theorem axisCfg_taken (k n j : Nat) : axisCfg (taken k s) n j = axisCfg s n j := by rw [taken_eq]; rfl
@[simp] theorem currentBytes_taken (k i : Nat) : currentBytes i (taken k s) = currentBytes i s := by rw [taken_eq]; rfl
@[simp] theorem resetting_taken (k : Nat) : (taken k s).resetting = s.resetting := by rw [taken_eq]
@[simp] theorem loadOk_taken (k : Nat) : loadOk (taken k s) = loadOk s := by rw [taken_eq]; rfl
@[simp] theorem launchTaken_taken (k : Nat) : launchTaken (taken k s) = launchTaken s := by rw [taken_eq]; rfl
@[simp] theorem mayEnable_taken (k n : Nat) : mayEnable (taken k s) n = mayEnable s n := by rw [taken_eq]; rfl
@[simp] theorem pumpTakes_taken (k : Nat) : pumpTakes (taken k s) = pumpTakes s := by rw [taken_eq]; rfl

/-! ## Start, stop and records -/

/-- Is a record's STAMP earlier than the held one's? -/
def earlierRecord (held : Option Bytes) (r : Bytes) : Prop :=
  ∃ old, held = some old ∧ (BitVec.ofNat 32 (fieldAt r 0 4) - BitVec.ofNat 32 (fieldAt old 0 4)).toInt < 0

/-- The engine started: nothing held of an earlier run. -/
def startedPump (s : State) : State := { s with pump := { s.pump with
  running := true, feedback := [], cmd := none, samples := [], frames := [], safe := false
  lastAt := (List.range 8).map (fun g => (g, now s)) } }

/-- The command record held. -/
def holdCmd (r : Bytes) (s : State) : State := { s with pump := { s.pump with cmd := some r } }

theorem pumpTake_takes (r : Bytes) (htakes : pumpTakes s = true) (h : ¬ earlierRecord s.pump.cmd r) :
    pumpTake r s = holdCmd r s := by
  unfold pumpTake
  rw [if_neg (by simp [htakes])]
  cases hcmd : s.pump.cmd with
  | none => rfl
  | some old => exact if_neg (by simpa using fun hlate => h ⟨old, hcmd, hlate⟩)

theorem pumpTake_keeps (r : Bytes) (h : pumpTakes s = false ∨ earlierRecord s.pump.cmd r) : pumpTake r s = s := by
  unfold pumpTake
  rcases h with h | ⟨old, hcmd, hlate⟩
  · exact if_pos (by simp [h])
  · split
    · rfl
    · rw [hcmd]
      exact if_pos (by simpa using hlate)

theorem loadTables_named {n i : Nat} (hname : tensorNamed s (axisCfg s n 0x0b) = some i) (hvalid : (tensorOf s i).state = .valid)
    (hkind : (tensorOf s i).kind = false) (hsize : (tensorOf s i).size = 8256) :
    loadTables n s = axisMod n (fun a => { a with tstate := .loading, tables := (currentBytes i s).getD [] }) s := by
  unfold loadTables
  rw [hname]
  exact if_pos ⟨hvalid, by simp [hkind], hsize⟩

theorem loadTables_none {n : Nat} (hname : tensorNamed s (axisCfg s n 0x0b) = none) :
    loadTables n s = axisMod n (fun a => { a with tstate := .loading, tables := [] }) s := by
  unfold loadTables
  rw [hname]

theorem axisConfig_law (n : Fin 64) (law : Bytes) (hok : lawOk law = true)
    (hcomp : (axisOf s n.val).pending = some true → compOk (setCfg (0x5500 + n.val) 5 law s) n.val = true)
    (hload : s.pump.running = true → loadOk (setCfg (0x5500 + n.val) 5 law s) = true) :
    axisConfig (0x5500 + n.val) 5 law n.val s = .done [] (setCfg (0x5500 + n.val) 5 law s) := by
  unfold axisConfig
  simp only
  rw [if_neg, if_neg (by simp), if_neg]
  · rintro ⟨-, hrun, hnot⟩
    simp [hload hrun] at hnot
  · rintro ⟨-, hnot | ⟨hpend, hnot⟩⟩
    · simp [hok] at hnot
    · simp [hcomp hpend] at hnot

theorem pumpControl_start (hstop : s.pump.running = false) (hload : loadOk s = true) (hlaunch : launchTaken s = false) :
    pumpControl 1 s = .done [] (startedPump s) := by
  unfold pumpControl pumpStart
  simp only [hstop, hload, hlaunch, Bool.not_true, Bool.false_eq_true, if_false]
  rfl

theorem axisControl_load (n : Nat) (h : axisStopped (axisOf s n) = true) :
    axisControl n 3 s = .done [] (loadTables n s) := if_pos h

theorem finishTables_ok {n : Nat} (hload : (axisOf s n).tstate = .loading) (hok : tablesOk (axisOf s n).tables = true) :
    finishTables n s = axisMod n (fun a => { a with tstate := .loaded }) s :=
  (if_neg (by simp [hload])).trans (if_pos hok)

theorem finishTables_bad {n : Nat} (hload : (axisOf s n).tstate = .loading) (hok : tablesOk (axisOf s n).tables = false) :
    finishTables n s = count 0x741a 9 1 (axisMod n (fun a => { a with tstate := .rejected, tables := [] }) s) :=
  (if_neg (by simp [hload])).trans (if_neg (by simp [hok]))

theorem setCfg_taken_compOk (k i j n : Nat) (b : Bytes) : compOk (setCfg i j b (taken k s)) n = compOk (setCfg i j b s) n := by
  rw [taken_eq]; rfl

theorem setCfg_taken_loadOk (k i j : Nat) (b : Bytes) : loadOk (setCfg i j b (taken k s)) = loadOk (setCfg i j b s) := by
  rw [taken_eq]; rfl

end

/-- Settles O51. -/
theorem pumpControls : Obligations.PumpControls := by
  refine ⟨fun s k hmay => ⟨fun hstop hload hlaunch => ⟨_, rfl, ?_⟩, fun hrun => ⟨_, rfl, ?_⟩, fun r hlen hres => ?_, fun n => ?_⟩,
    fun s n hloading => ⟨fun hok => ?_, fun hok => ?_⟩⟩
  · refine hostWrite_effect s k.val _ _ _ [] startedPump hmay.1 (pumpControl_passes s k.val 1 hmay) (fun _ _ _ => rfl)
      ((writeEffect_pumpControl _ k.val 1).trans (pumpControl_start _ (by simpa) (by simpa) (by simpa)))
  · refine hostWrite_effect s k.val _ _ _ [] pumpStop hmay.1 (pumpControl_passes s k.val 2 hmay) (fun _ _ _ => rfl)
      ((writeEffect_pumpControl _ k.val 2).trans ?_)
    show WRes.done [] (if (taken k.val s).pump.running = true then _ else _) = _
    rw [pump_taken, if_pos hrun]
  · have hdid := fun f hf hc => hostWrite_effect s k.val _ _ _ [] f hmay.1 (pumpRecord_passes s k.val r hmay hlen hres) hf
      ((writeEffect_pumpRecord _ k.val r).trans hc)
    have hrecord : pumpRecord r (taken k.val s) = .done [] (if cfg s 0x5400 1 = 1 then pumpTake r (taken k.val s) else taken k.val s) := by
      unfold pumpRecord
      rw [cfg_taken]
    intro late
    refine ⟨fun hhost htakes hlate => ⟨_, rfl, hdid (holdCmd r) (fun _ _ _ => rfl) ?_⟩, fun hnot => ⟨_, rfl, hdid (fun u => u) (keepsBooks_id s) ?_⟩⟩
    · rw [hrecord, if_pos hhost, pumpTake_takes _ r (by simpa using htakes) (by rw [pump_taken]; exact hlate)]
    · rw [hrecord]
      split
      next hhost =>
        rw [pumpTake_keeps]
        rcases hnot with h | h | h
        · exact absurd hhost h
        · exact .inl (by simpa using h)
        · exact .inr (by rw [pump_taken]; exact h)
      next => rfl
  · refine ⟨fun hreset => ⟨_, rfl, axisControl_did s k.val n 1 (fun u => u) hmay (keepsBooks_id s) ?_⟩,
      fun hreset hmayen => ⟨_, rfl, axisControl_did s k.val n 1 (axisMod n.val (fun a => { a with pending := if axisEnabled a then none else some true }))
        hmay (fun _ _ _ => rfl) ?_⟩,
      ⟨_, rfl, axisControl_did s k.val n 2 (axisMod n.val (fun a => { a with pending := if axisEnabled a then some false else none })) hmay
        (fun _ _ _ => rfl) ?_⟩, fun hoff => ⟨fun i hname hvalid hkind hsize => ⟨_, rfl, axisControl_did s k.val n 3
          (axisMod n.val (fun a => { a with tstate := .loading, tables := (currentBytes i s).getD [] })) hmay (fun _ _ _ => rfl) ?_⟩,
        fun hname => ⟨_, rfl, axisControl_did s k.val n 3 (axisMod n.val (fun a => { a with tstate := .loading, tables := [] })) hmay
          (fun _ _ _ => rfl) ?_⟩,
        fun law hlen hok hres hcomp hload => ⟨_, rfl, ?_⟩⟩⟩
    · show (if (taken k.val s).resetting.getLsbD 10 = true then _ else _) = _
      rw [resetting_taken, if_pos hreset]
    · show (if (taken k.val s).resetting.getLsbD 10 = true then _ else if mayEnable (taken k.val s) n.val = true then _ else _) = _
      rw [resetting_taken, mayEnable_taken, if_neg (by rw [hreset]; decide), if_pos hmayen]
      refine congrArg (fun f => WRes.done [] (axisMod n.val f (taken k.val s))) (funext fun a => ?_)
      cases he : axisEnabled a <;> simp [axisStopped, he]
    · refine congrArg (fun f => WRes.done [] (axisMod n.val f (taken k.val s))) (funext fun a => ?_)
      cases he : axisEnabled a <;> simp [axisStopped, he]
    · refine (axisControl_load _ n.val ?_).trans ?_
      · rw [axisOf_taken]; simp [axisStopped, hoff]
      · rw [loadTables_named _ (i := i) (by simpa) (by simpa) (by simpa) (by simpa), currentBytes_taken]
    · refine (axisControl_load _ n.val ?_).trans ?_
      · rw [axisOf_taken]; simp [axisStopped, hoff]
      · rw [loadTables_none _ (by simpa)]
    · refine hostWrite_effect s k.val _ _ _ [] (setCfg (0x5500 + n.val) 5 law) hmay.1 (axisLaw_passes s k.val n law hmay hlen hres hoff)
        (fun _ _ _ => rfl) ((writeEffect_axisLaw _ k.val n law).trans (axisConfig_law _ n law hok ?_ ?_))
      · rw [axisOf_taken, setCfg_taken_compOk]; exact hcomp
      · rw [pump_taken, setCfg_taken_loadOk]; exact hload
  · exact congrArg Host.Outcome.next (finishTables_ok s hloading hok)
  · exact congrArg Host.Outcome.next (finishTables_bad s hloading hok)

end Sys2Proof.Machine

end

section
/-!
PROOF. The solver's counter of invalid outputs (R337, R339, R437) against the counters of the clients (R484).
-/

namespace Sys2Proof.Machine

open Claims

/-- An output of STATUS 8, the eighth in a row that is not valid. -/
def failedSolve : SolverOut := ⟨1, 8, 0, 0, 0, 0, 0, []⟩

/-- The solver is about to give an invalid output that enters safe state, and a job waits on queue 0. The dictionary holds two bytes
for the queue's CLIENT, 0x419, which the counters of clients then put at 0x7419, the solver's own. -/
def wideClient : State := { State.reset with
  dict := [(objKey 0x6000 1, [0x19, 0x04])]
  island := { State.reset.island with state := .normal }
  solver := { running := true, solving := some (failedSolve, none), invalid := 7 }
  sluice := { State.reset.sluice with jobs := [{ tag := 0, q := 0, session := 0, sgen := 0, desc := {} }] } }

/-- What a counter stands at after a step. -/
def counterAfter (r : Res) (i j : Nat) : BitVec 64 :=
  match r with
  | .next t => counter t i j
  | _ => 0

/-- The step counts 0x7419:05 twice: for the output and for the job that the entry ends. -/
theorem wideClient_counts_twice : counterAfter (exec .solverOutput wideClient) 0x7419 5 = 2 := by decide +kernel

/-- Refutes O50: its clause on an output of STATUS 8 counts 0x7419:05 once in every state. Where the dictionary holds a value of two
bytes for the CLIENT of a queue, 0x419, the counters of that client are those of the solver, and the job that the entry to safe state
ends is counted at 0x7419:05 too. (No write leaves such a value: the statement does not ask for states that a run reaches.) -/
theorem not_sparseSolver : ¬ Obligations.SparseSolver := by
  rintro ⟨-, -, -, houtput⟩
  obtain ⟨-, hinvalid⟩ := houtput wideClient failedSolve none (by decide +kernel) rfl
  obtain ⟨t, ht, -, -, -, hcount⟩ := hinvalid (by decide)
  have htwice := wideClient_counts_twice
  have honce : counter t 0x7419 5 = 1 := hcount
  rw [ht] at htwice
  exact absurd (htwice.symm.trans honce) (by decide)

end Sys2Proof.Machine

end

section
/-!
PROOF. The counter of corrected bursts (R228) against the counters of the clients (R484).
-/

namespace Sys2Proof.Machine

open Claims

/-- Two failure events of subchannel 0 are remembered and subchannel 1 is being evacuated, so a third event of subchannel 0 retires
it into safe state; a job waits on queue 0. The dictionary holds two bytes for the queue's CLIENT, 0x415, which the counters of clients
then put at 0x7415, those of the memory tiers. -/
def wornSubchannel : State := { State.reset with
  dict := [(objKey 0x6000 1, [0x15, 0x04])]
  dir := { sub := [(1, 1)] }
  island := { State.reset.island with state := .normal, history := [(unitOf 4 0, [0, 0])] }
  sluice := { State.reset.sluice with jobs := [{ tag := 0, q := 0, session := 0, sgen := 0, desc := {} }] } }

/-- The step counts 0x7415:05 twice: for the burst and for the job that the entry to safe state ends. -/
theorem wornSubchannel_counts_twice :
    counterAfter (exec (.patrolScrub 0x100000 5) wornSubchannel) 0x7415 5 = 2 := by decide +kernel

/-- Refutes O42: its clause on 5 to 8 symbols counts 0x7415:05 once in every state, also where the failure event lasts. Where the
dictionary holds a value of two bytes for the CLIENT of a queue, 0x415, the counters of that client are those of the tiers, and the job
that the entry to safe state ends is counted at 0x7415:05 too. (No write leaves such a value: the statement does not ask for states
that a run reaches.) -/
theorem not_memoryUpkeep : ¬ Obligations.MemoryUpkeep := by
  rintro ⟨hscrub, -, -⟩
  obtain ⟨-, hworks⟩ := hscrub wornSubchannel 0x100000 5 (by decide +kernel)
  obtain ⟨-, -, hmiddle, -, -⟩ := hworks (by decide +kernel)
  obtain ⟨t, ht, hcount, -, -, -⟩ := hmiddle (by decide) (by decide)
  have htwice := wornSubchannel_counts_twice
  have honce : counter t 0x7415 5 = 1 := hcount
  rw [ht] at htwice
  exact absurd (htwice.symm.trans honce) (by decide)

end Sys2Proof.Machine

end

section
/-!
PROOF. The fusion unit (R308-R320): start, stop, records and cycles.
-/

namespace Sys2Proof.Machine

open Claims

section

variable (s : State)

/-! ## Commands and records (R311, R313, R320) -/

theorem fusionControl_passes (k : Nat) (c : BitVec 8) (h : HostMay k 1 s) : WritePasses s k 0x5000 7 [c] := by
  have hfam : famBase 0x5000 = (0x5000, 0) := by decide
  refine control_passes s k _ _ 1 c h (by decide) ?_ ?_ ?_ ?_
  · simp [writeRight, hfam]
  · simp [notOwner, hfam]
  · simp [reservedOk, valueMask, zeroFields, recordHeader, hfam, sel, tblGet]
  · simp [rangeOk, rangeMid, hfam, sel, tblGet]

theorem writeEffect_fusionControl (k : Nat) (c : BitVec 8) : writeEffect k 0x5000 7 [c] s = fusionControl c.toNat s := by
  have hfam : famBase 0x5000 = (0x5000, 0) := by decide
  have hv : leNat [c] = c.toNat := by simp [leNat]
  unfold writeEffect
  simp only [hfam]
  show fusionControl (leNat [c]) s = _
  rw [hv]

theorem fusionRecord_passes (k : Nat) (i : Fin 16) (r : Bytes) (h : HostMay k 1 s) (hlen : 64 ≤ r.length ∧ r.length ≤ 16448)
    (hres : reservedOk 0x5010 8 r = true) : WritePasses s k (0x5010 + i.val) 8 r := by
  have hfam := famBase_input i
  have hdef : ∀ j : Fin 16, objDef (0x5010 + j.val) 8 = some (.blob 16448, .wo, 0) := by decide
  have hi := i.isLt
  refine ⟨.blob 16448, .wo, 0, hdef i, by decide, ?_, ?_, ?_, ?_, nofun, nofun⟩
  · simp only [writeRight, hfam]
    repeat rw [if_neg (by omega)]
    exact h.2
  · simp [notOwner, hfam]
  · simp [typeOk, blobLenOk, hfam, hlen, sel, tblGet]
  · rw [hfam]; exact hres

theorem writeEffect_fusionRecord (k : Nat) (i : Fin 16) (r : Bytes) :
    writeEffect k (0x5010 + i.val) 8 r s = fusionRecord i.val r s := by
  have hfam := famBase_input i
  unfold writeEffect
  simp only [hfam]
  rfl

/-- The unit started with an empty store. -/
def startedFusion (s : State) : State :=
  { s with fusion := { s.fusion with running := true, store := [], first := true, lastAt := some (now s) } }

theorem fusionControl_start (h : s.fusion.running = false) : fusionControl 1 s = .done [] (startedFusion s) := by
  unfold fusionControl fusionStart
  simp only [h, Bool.false_eq_true, if_false]
  rfl

theorem fusionControl_stop (h : s.fusion.running = true) : fusionControl 2 s = .done [] (fusionStop s) :=
  congrArg (WRes.done []) (if_pos h)

/-- The record of input `i` put into the store. -/
def storeRecord (i : Nat) (r : Bytes) (s : State) : State :=
  { s with fusion := { s.fusion with store := tblPut (s.fusion.store.filter (fun e => e.1 ≠ i)) i r } }

/-- Does the store hold a later record of input `i`? -/
def laterHeld (i : Nat) (r : Bytes) (s : State) : Prop :=
  ∃ old, s.fusion.store.find? (fun e => e.1 = i) = some (i, old) ∧
    (BitVec.ofNat 32 (fieldAt r 0 4) - BitVec.ofNat 32 (fieldAt old 0 4)).toInt < 0

theorem fusionTake_idle (i : Nat) (r : Bytes) (h : fusionActs s = false) : fusionTake i r s = s := if_pos (by simp [h])

theorem fusionTake_eq (i : Nat) (r : Bytes) (h : fusionActs s = true) (late : Bool) (hlate : late = true ↔ laterHeld i r s) :
    fusionTake i r s = if late = true then count 0x7418 9 1 s else storeRecord i r s := by
  unfold fusionTake
  rw [if_neg (by simp [h])]
  cases hold : s.fusion.store.find? (fun e => e.1 = i) with
  | none =>
    have hnot : late = false := by
      refine Bool.eq_false_iff.mpr fun ht => ?_
      obtain ⟨old, hfind, -⟩ := hlate.mp ht
      rw [hold] at hfind
      cases hfind
    rw [hnot]
    rfl
  | some e =>
    have he : e = (i, e.2) := by
      have hi : e.1 = i := by simpa using List.find?_some hold
      rw [← hi]
    have hiff : late = decide ((BitVec.ofNat 32 (fieldAt r 0 4) - BitVec.ofNat 32 (fieldAt e.2 0 4)).toInt < 0) := by
      rw [Bool.eq_iff_iff, decide_eq_true_iff, hlate]
      constructor
      · rintro ⟨old, hfind, hlt⟩
        rw [hold] at hfind
        rw [Option.some.inj hfind]
        exact hlt
      · exact fun hlt => ⟨e.2, by rw [hold, ← he], hlt⟩
    rw [hiff]
    rfl

theorem find?_tblPut_same {α : Type} (t : Tbl α) (k : Nat) (v : α) (h : ∀ e ∈ t, e.1 ≠ k) :
    (tblPut t k v).find? (fun e => e.1 = k) = some (k, v) := by
  induction t with
  | nil => simp [tblPut]
  | cons e t ih =>
    have he : e.1 ≠ k := h e (List.mem_cons_self ..)
    unfold tblPut
    split
    · simp
    · rw [if_neg fun hk => he hk.symm, List.find?_cons_of_neg (by simpa using he)]
      exact ih fun x hx => h x (List.mem_cons_of_mem _ hx)

theorem find?_tblPut_other {α : Type} (t : Tbl α) (k j : Nat) (v : α) (h : ∀ e ∈ t, e.1 ≠ k) (hj : j ≠ k) :
    (tblPut t k v).find? (fun e => e.1 = j) = t.find? (fun e => e.1 = j) := by
  induction t with
  | nil => simp [tblPut, hj.symm]
  | cons e t ih =>
    have he : e.1 ≠ k := h e (List.mem_cons_self ..)
    unfold tblPut
    split
    · rw [List.find?_cons_of_neg (by simpa using hj.symm)]
    · rw [if_neg fun hk => he hk.symm, List.find?_cons, List.find?_cons, ih fun x hx => h x (List.mem_cons_of_mem _ hx)]

theorem storeRecord_find (i : Nat) (r : Bytes) : (storeRecord i r s).fusion.store.find? (fun e => e.1 = i) = some (i, r) :=
  find?_tblPut_same _ i r (by simp)

theorem storeRecord_find_other (i j : Nat) (r : Bytes) (h : j ≠ i) :
    (storeRecord i r s).fusion.store.find? (fun e => e.1 = j) = s.fusion.store.find? (fun e => e.1 = j) :=
  (find?_tblPut_other _ i j r (by simp) h).trans ((find?_filter_ne s.fusion.store i j).trans (if_neg h))

/-! ## The cycle (R314, R315, R318) -/

/-- The statuses of the inputs in use counted. -/
def countStatuses (sts : List (Nat × Nat)) (s : State) : State :=
  forEach sts (fun x s => match statusCounter x.2 with | some k => count 0x7418 k 1 s | none => s) s

/-- The statuses of the inputs in use set. -/
def setStatuses (sts : List (Nat × Nat)) (s : State) : State :=
  { s with fusion := { s.fusion with status := sts.foldl (fun m x => tblSet 1 m x.1 (BitVec.ofNat 8 x.2)) s.fusion.status } }

/-- The header of a result buffer. -/
def fusionHeader (c : BitVec 32) (n : Nat) (first degraded : Bool) : Bytes :=
  leBytes 4 c.toNat ++ leBytes 1 n ++ leBytes 1 ((if first then 2 else 0) + (if degraded then 1 else 0)) ++ zeros 58

theorem length_fusionHeader (c : BitVec 32) (n : Nat) (first degraded : Bool) :
    (fusionHeader c n first degraded).length = 0x40 := by
  simp [fusionHeader, zeros]

/-- One group's entry and payload written to the result buffer. -/
def putGroup (base : Nat) (outs : List (Nat × GroupOut)) (g : Nat) (s : State) : State :=
  match outs.find? (fun o => o.1 = g) with
  | some (_, o) => pokeCistern (base + 0x400 + 0x4000 * g) o.payload (pokeCistern (base + 0x40 + 32 * g)
      (leBytes 1 (groupLevel s g) ++ leBytes 1 o.flags ++ leBytes 2 o.mask ++ leBytes 4 o.conf.toNat ++ leBytes 2 o.cnt ++ [0, 0] ++
        leBytes 4 (0x400 + 0x4000 * g) ++ zeros 16) s)
  | none => pokeCistern (base + 0x40 + 32 * g) ([0xff] ++ zeros 31) s

/-- What the cycle counts of the groups' results. -/
def countOuts (outs : List (Nat × GroupOut)) (s : State) : State :=
  let s := count 0x7418 7 (sumNat (outs.map (fun o => o.2.trust))) s
  let s := count 0x7418 8 (sumNat (outs.map (fun o => o.2.equal))) s
  let s := count 0x7418 0x0a (sumNat (outs.map (fun o => o.2.dropped))) s
  if outs.any (fun o => o.2.flags / 2 % 2 == 1) then count 0x7418 0x0b 1 s else s

/-- The cycle done: counted, with its number and instant. -/
def endFusion (c : BitVec 32) (t : Nat) (s : State) : State :=
  count 0x7418 1 1 { s with fusion := { s.fusion with cycle := c, first := false, wiped := false, lastAt := some t } }

/-- The host is told of a cycle, by an event or a notify frame. -/
def tellFusion (c : BitVec 32) (s : State) : State :=
  if cfg s 0x5000 4 = 0 then raiseEvent none (cfg s 0x5000 5) s else notifySubs 0x50 (leBytes 4 c.toNat) s

/-- The statuses of the inputs in use at instant `t`. -/
def statusesAt (s : State) (t : Nat) :
    List (Nat × Nat) := ((List.range 16).filter (inputUsed s)).map (fun i => (i, inputStatus s t i))

/-- The groups in use. -/
def usedGroups (s : State) : List Nat := (List.range 8).filter (fun g => groupLevel s g != 0xff)

/-- The groups' results at instant `t`. -/
def groupResults (s : State) (t : Nat) : List (Nat × GroupOut) := (usedGroups s).map (fun g => (g, fuseGroup s g
  (if (decide (0x13 ∈ s.island.spoil) || s.fusion.wiped) = true then []
   else ((statusesAt s t).filter (fun x => x.2 = 0 && inputGroup s x.1 == g)).map (fun x => x.1))))

/-- Where the buffer of cycle `c` lies. -/
def fusionBase (s : State) (c : BitVec 32) : Nat := ownPhysical s (fusionOut s) + 0x21000 * (c.toNat % 2)

/-- The damage mark of the unit's store spent. -/
def spendSpoil (s : State) : State := { s with island := { s.island with spoil := s.island.spoil.filter (· ≠ 0x13) } }

theorem fusionCycle_eq (t : Nat) : fusionCycle t s = tellFusion (s.fusion.cycle + 1) (endFusion (s.fusion.cycle + 1) t
    (countOuts (groupResults s t) (spendSpoil (forEach (List.range 8) (putGroup (fusionBase s (s.fusion.cycle + 1)) (groupResults s t))
      (pokeCistern (fusionBase s (s.fusion.cycle + 1))
        (fusionHeader (s.fusion.cycle + 1) (usedGroups s).length (setStatuses (statusesAt s t) (countStatuses (statusesAt s t) s)).fusion.first
          ((groupResults s t).any (fun o => o.2.flags % 2 == 1)))
        (setStatuses (statusesAt s t) (countStatuses (statusesAt s t) s))))))) := rfl

/-- A step that counts, but not the cycles (0x7418:01). -/
structure CountsAside (s t : State) : Prop where
  eq : CountsOnly s t
  cycles : counter t 0x7418 1 = counter s 0x7418 1

theorem CountsAside.refl : CountsAside s s := ⟨rfl, rfl⟩

theorem CountsAside.trans {s t u : State} (h : CountsAside s t) (k : CountsAside t u) : CountsAside s u :=
  ⟨CountsOnly_trans h.eq k.eq, k.cycles.trans h.cycles⟩

theorem CountsAside.count (k n : Nat) (hk : k ≠ 1) : CountsAside s (count 0x7418 k n s) :=
  ⟨rfl, counter_count_other s _ _ _ _ _ (by simp only [objKey]; omega)⟩

theorem countStatuses_aside (sts : List (Nat × Nat)) : CountsAside s (countStatuses sts s) := by
  refine forEach_rel CountsAside .refl (fun _ _ _ h k => h.trans k) _ sts (fun x _ u => ?_) s
  cases hk : statusCounter x.2 with
  | none => exact .refl u
  | some k =>
    refine .count u k 1 ?_
    unfold statusCounter at hk
    split at hk <;> simp at hk <;> omega

theorem countOuts_aside (outs : List (Nat × GroupOut)) : CountsAside s (countOuts outs s) := by
  unfold countOuts
  extract_lets s₁ s₂ s₃
  have h : CountsAside s s₃ := .trans (.count s 7 _ (by decide)) (.trans (.count s₁ 8 _ (by decide)) (.count s₂ 0x0a _ (by decide)))
  split
  · exact h.trans (.count s₃ 0x0b 1 (by decide))
  · exact h

theorem putGroup_cistern (base : Nat) (outs : List (Nat × GroupOut)) (g : Nat) : CisternWork s (putGroup base outs g s) := by
  unfold putGroup
  split
  · exact .trans (pokeCistern_cistern s _ _) (pokeCistern_cistern _ _ _)
  · exact pokeCistern_cistern s _ _

/-- No group's entry or payload reaches into the header. -/
theorem memByte_putGroup (base : Nat) (outs : List (Nat × GroupOut)) (g a : Nat) (h : a < base + 0x40) :
    memByte (putGroup base outs g s).mem a = memByte s.mem a := by
  unfold putGroup
  split
  · rw [memByte_pokeCistern_other _ _ _ _ (by omega), memByte_pokeCistern_other _ _ _ _ (by omega)]
  · rw [memByte_pokeCistern_other _ _ _ _ (by omega)]

theorem putGroups_frame (base : Nat) (outs : List (Nat × GroupOut)) (l : List Nat) :
    CisternWork s (forEach l (putGroup base outs) s) ∧
      ∀ a, a < base + 0x40 → memByte (forEach l (putGroup base outs) s).mem a = memByte s.mem a :=
  ⟨.forEach _ _ (fun g u => putGroup_cistern u base outs g) s,
    forEach_rel (fun s t => ∀ a, a < base + 0x40 → memByte t.mem a = memByte s.mem a) (fun _ _ _ => rfl)
      (fun _ _ _ h k a ha => (k a ha).trans (h a ha)) _ l (fun g _ u a ha => memByte_putGroup u base outs g a ha) s⟩

/-- The statuses as they are read back. -/
theorem tblGet_setStatuses (sts : List (Nat × Nat)) (hnd : (sts.map (fun x => x.1)).Nodup) (m : Tbl (BitVec 8)) (x : Nat × Nat) (hx : x ∈ sts) :
    tblGet 1 (sts.foldl (fun m x => tblSet 1 m x.1 (BitVec.ofNat 8 x.2)) m) x.1 = BitVec.ofNat 8 x.2 := by
  have hother : ∀ (l : List (Nat × Nat)) (m : Tbl (BitVec 8)) (i : Nat), i ∉ l.map (fun x => x.1) →
      tblGet 1 (l.foldl (fun m x => tblSet 1 m x.1 (BitVec.ofNat 8 x.2)) m) i = tblGet 1 m i := fun l => by
    induction l with
    | nil => exact fun _ _ _ => rfl
    | cons y l ih =>
      intro m i hi
      rw [List.map_cons, List.mem_cons, not_or] at hi
      rw [List.foldl_cons, ih _ i hi.2, tblGet_set, if_neg hi.1]
  induction sts generalizing m with
  | nil => cases hx
  | cons y sts ih =>
    rw [List.map_cons, List.nodup_cons] at hnd
    rw [List.foldl_cons]
    rcases List.mem_cons.mp hx with rfl | hx
    · rw [hother _ _ _ hnd.1, tblGet_set, if_pos rfl]
    · exact ih hnd.2 _ hx

/-- A step that tells the host or the tiles of something: an event raised or notify frames offered. -/
structure Told (s t : State) : Prop where
  eq : t = { s with tiles := t.tiles, raised := t.raised, counters := t.counters, events := t.events, eventsAt := t.eventsAt
                    eventsNew := t.eventsNew, sessions := t.sessions }
  counters : CountersBut [0x741e08] s t

theorem Told.of_notices {s t : State} (h : Notices s t) : Told s t := ⟨h.eq.trans (by rw [h.eq]), h.counters⟩

theorem raiseEvent_told (job : Option (BitVec 32)) (n : Nat) : Told s (raiseEvent job n s) := by
  have h := raiseEvent_eq job n s
  generalize raiseEvent job n s = t at h
  exact ⟨h.trans (by rw [h]), by rw [h]; exact fun _ _ => rfl⟩

theorem tellFusion_told (c : BitVec 32) : Told s (tellFusion c s) := by
  unfold tellFusion
  split
  · exact raiseEvent_told ..
  · exact .of_notices (notifySubs_notices ..)

/-- An event that nobody waits for is noted. -/
theorem mem_raised_raiseEvent (job : Option (BitVec 32)) (n : Nat) (h : eventWaiters s job n = []) :
    ⟨n, job⟩ ∈ (raiseEvent job n s).raised := by
  unfold raiseEvent
  rw [if_pos h]
  show _ ∈ (if _ then s.raised else _)
  split
  next hin => exact hin
  next => exact List.mem_append_right _ (List.mem_singleton_self _)

/-- The first bytes of a buffer that starts with a header. -/
theorem fusionHeader_read (base : Nat) (c : BitVec 32) (n : Nat) (first degraded : Bool) (hn : n < 256) (m : Memory)
    (hm : ∀ a, base ≤ a → a < base + 0x40 → memByte m a = ((fusionHeader c n first degraded)[a - base]?).getD 0) :
    memNat m base 4 = c.toNat ∧ memNat m (base + 4) 1 = n ∧ (memNat m (base + 5) 1).testBit 1 = first := by
  have hbyte : ∀ i, i < 64 → memByte m (base + i) = ((fusionHeader c n first degraded)[i]?).getD 0 := fun i hi => by
    rw [hm _ (by omega) (by omega), Nat.add_sub_cancel_left]
  refine ⟨?_, ?_, ?_⟩
  · have hread : memRead m base 4 = leBytes 4 c.toNat := by
      simp only [memRead, List.range_succ, List.range_zero, List.nil_append, List.map_append, List.map_cons, List.map_nil,
        hbyte 0 (by decide), hbyte 1 (by decide), hbyte 2 (by decide), hbyte 3 (by decide)]
      rfl
    rw [memNat, hread, leNat_leBytes_toNat 32 4 c rfl]
  · have hread : memRead m (base + 4) 1 = [BitVec.ofNat 8 n] := by
      simp only [memRead, List.range_succ, List.range_zero, List.nil_append, List.map_cons, List.map_nil, Nat.add_zero,
        hbyte 4 (by decide)]
      rfl
    rw [memNat, hread]
    simp [leNat, Nat.mod_eq_of_lt hn]
  · have hread : memRead m (base + 5) 1 = [BitVec.ofNat 8 ((if first then 2 else 0) + (if degraded then 1 else 0))] := by
      simp only [memRead, List.range_succ, List.range_zero, List.nil_append, List.map_cons, List.map_nil, Nat.add_zero,
        hbyte 5 (by decide)]
      rfl
    rw [memNat, hread]
    cases first <;> cases degraded <;> decide

/-- A cycle of the unit: its number, statuses and counter, its buffer's header, and the host told. -/
theorem fusionCycle_cycles (T : Nat) :
    let c := s.fusion.cycle + 1
    let t := fusionCycle T s
    t.clock = s.clock ∧ t.fusion.cycle = c ∧ t.fusion.first = false ∧ t.fusion.lastAt = some T ∧ t.fusion.store = s.fusion.store ∧
      t.fusion.running = s.fusion.running ∧
      (∀ i, i < 16 → inputUsed s i = true → tblGet 1 t.fusion.status i = BitVec.ofNat 8 (inputStatus s T i)) ∧
      counter t 0x7418 1 = counter s 0x7418 1 + 1 ∧
      peekNat t (fusionBase s c) 4 = c.toNat ∧ peekNat t (fusionBase s c + 4) 1 = (usedGroups s).length ∧
      (peekNat t (fusionBase s c + 5) 1).testBit 1 = s.fusion.first ∧
      (cfg s 0x5000 4 = 0 → eventWaiters s none (cfg s 0x5000 5) = [] → ⟨cfg s 0x5000 5, none⟩ ∈ t.raised) := by
  intro c t
  have ht : t = _ := fusionCycle_eq s T
  have hsts := countStatuses_aside s (statusesAt s T)
  generalize countStatuses (statusesAt s T) s = s₁ at hsts ht
  obtain ⟨cs, hs₁⟩ : ∃ cs, s₁ = { s with counters := cs } := ⟨_, hsts.eq⟩
  generalize hs₂ : setStatuses (statusesAt s T) s₁ = s₂ at ht
  generalize hdeg : (groupResults s T).any (fun o => o.2.flags % 2 == 1) = degraded at ht
  generalize groupResults s T = outs at ht
  have hlen : (usedGroups s).length < 256 := by
    have := (List.filter_sublist (p := fun g => groupLevel s g != 0xff) (l := List.range 8)).length_le
    simp only [List.length_range] at this
    exact Nat.lt_of_le_of_lt this (by decide)
  have hf₂ : s₂.fusion = { s.fusion with status := s₂.fusion.status } := by rw [← hs₂, hs₁]; rfl
  have hfirst : s₂.fusion.first = s.fusion.first := by rw [hf₂]
  have hstatus : ∀ i, i < 16 → inputUsed s i = true → tblGet 1 s₂.fusion.status i = BitVec.ofNat 8 (inputStatus s T i) := fun i hi hu => by
    rw [← hs₂]
    refine tblGet_setStatuses (statusesAt s T) ?_ s₁.fusion.status (i, inputStatus s T i) (List.mem_map.mpr ⟨i, List.mem_filter.mpr
      ⟨List.mem_range.mpr hi, hu⟩, rfl⟩)
    simp only [statusesAt, List.map_map, Function.comp_def, List.map_id']
    exact List.Nodup.filter _ List.nodup_range
  have hframe₂ : s₂ = { s with counters := s₂.counters, fusion := s₂.fusion } := by rw [← hs₂, hs₁]; rfl
  have hcount₂ : counter s₂ 0x7418 1 = counter s 0x7418 1 := by rw [← hs₂]; exact hsts.cycles
  rw [hfirst] at ht
  generalize hs₃ : pokeCistern (fusionBase s (s.fusion.cycle + 1)) (fusionHeader (s.fusion.cycle + 1) (usedGroups s).length
    s.fusion.first degraded) s₂ = s₃ at ht
  have hframe₃ : CisternWork s₂ s₃ := by rw [← hs₃]; exact pokeCistern_cistern _ _ _
  obtain ⟨hframe₄, hbytes⟩ := putGroups_frame s₃ (fusionBase s (s.fusion.cycle + 1)) outs (List.range 8)
  generalize forEach (List.range 8) (putGroup (fusionBase s (s.fusion.cycle + 1)) outs) s₃ = s₄ at hframe₄ hbytes ht
  have hframe₅ := countOuts_aside (spendSpoil s₄) outs
  generalize countOuts outs (spendSpoil s₄) = s₅ at hframe₅ ht
  generalize hs₆ : endFusion (s.fusion.cycle + 1) T s₅ = s₆ at ht
  have htold := tellFusion_told s₆ (s.fusion.cycle + 1)
  rw [← ht] at htold
  have hfusion₅ : s₅.fusion = s₂.fusion := by rw [hframe₅.eq]; show s₄.fusion = _; rw [hframe₄]; show s₃.fusion = _; rw [hframe₃]
  have hmem₆ : s₆.mem = s₄.mem := by rw [← hs₆]; show s₅.mem = _; rw [hframe₅.eq]; rfl
  have hmem : t.mem = s₄.mem := by rw [htold.eq]; exact hmem₆
  have hfusion : t.fusion = { s₂.fusion with cycle := c, first := false, wiped := false, lastAt := some T } := by
    rw [htold.eq, ← hs₆]
    show ({ s₅.fusion with cycle := s.fusion.cycle + 1, first := false, wiped := false, lastAt := some T } : Fusion) = _
    rw [hfusion₅]
  have hclock : t.clock = s.clock := by
    rw [htold.eq, ← hs₆]; show s₅.clock = _; rw [hframe₅.eq]; show s₄.clock = _; rw [hframe₄]; show s₃.clock = _; rw [hframe₃,
      hframe₂]
  have hcount : counter t 0x7418 1 = counter s 0x7418 1 + 1 := by
    have h₆ : counter s₆ 0x7418 1 = counter s₅ 0x7418 1 + 1 := by rw [← hs₆]; exact counter_count_same _ 0x7418 1
    have h₄ : counter (spendSpoil s₄) 0x7418 1 = counter s₂ 0x7418 1 := by
      show counter s₄ 0x7418 1 = _
      rw [counter_eq_of_counters (v := s₂) (by rw [hframe₄]; show s₃.counters = _; rw [hframe₃])]
    rw [show counter t 0x7418 1 = counter s₆ 0x7418 1 from htold.counters _ (by decide), h₆, hframe₅.cycles, h₄, hcount₂]
  have hheader := fusionHeader_read (fusionBase s c) c (usedGroups s).length s.fusion.first degraded hlen t.mem fun a ha hlt => by
    rw [hmem, hbytes a hlt, ← hs₃, pokeCistern_eq]
    show memByte (memWrite s₂.mem _ _) a = _
    rw [memByte_write, if_pos ⟨ha, by rw [length_fusionHeader]; exact hlt⟩]
  obtain ⟨hcycle, hgroups, hflag⟩ := hheader
  refine ⟨hclock, by rw [hfusion], by rw [hfusion], by rw [hfusion], by rw [hfusion, hf₂], by rw [hfusion, hf₂],
    fun i hi hu => ?_, hcount, hcycle, hgroups, hflag, fun hevent hwait => ?_⟩
  · rw [hfusion]; exact hstatus i hi hu
  · have hkept : ∀ u : State, s₆.dict = s.dict ∧ s₆.tiles = s.tiles := fun _ => by
      rw [← hs₆]
      constructor
      · show s₅.dict = _; rw [hframe₅.eq]; show s₄.dict = _; rw [hframe₄]; show s₃.dict = _; rw [hframe₃, hframe₂]
      · show s₅.tiles = _; rw [hframe₅.eq]; show s₄.tiles = _; rw [hframe₄]; show s₃.tiles = _; rw [hframe₃, hframe₂]
    obtain ⟨hdict, htiles⟩ := hkept s
    have hcfg : ∀ i j, cfg s₆ i j = cfg s i j := fun i j => by simp only [cfg, cfgBytes, hdict]
    have htell : tellFusion (s.fusion.cycle + 1) s₆ = raiseEvent none (cfg s 0x5000 5) s₆ := by
      unfold tellFusion
      rw [hcfg, if_pos hevent, hcfg]
    rw [ht, htell]
    exact mem_raised_raiseEvent s₆ none _ (by rw [eventWaiters, htiles]; exact hwait)

end

/-- Settles O49. -/
theorem fusionUnit : Obligations.FusionUnit := by
  refine ⟨fun s k hmay => ⟨fun hstop => ⟨_, rfl, ?_⟩, fun hrun => ⟨_, rfl, ?_⟩, fun i r hrun hhost hmin hmax hres => ?_⟩, fun s hacts => ?_⟩
  · exact hostWrite_effect s k.val _ _ _ [] startedFusion hmay.1 (fusionControl_passes s k.val 1 hmay) (fun _ _ _ => rfl)
      ((writeEffect_fusionControl _ k.val 1).trans (fusionControl_start _ (by rw [taken_eq]; exact hstop)))
  · exact hostWrite_effect s k.val _ _ _ [] fusionStop hmay.1 (fusionControl_passes s k.val 2 hmay) (fun _ _ _ => rfl)
      ((writeEffect_fusionControl _ k.val 2).trans (fusionControl_stop _ (by rw [taken_eq]; exact hrun)))
  · intro late
    have hacts : fusionActs (taken k.val s) = fusionActs s := by rw [taken_eq]; rfl
    have hheld : laterHeld i.val r (taken k.val s) ↔ late := by rw [taken_eq]; exact Iff.rfl
    have htake : fusionRecord i.val r (taken k.val s) = .done [] (fusionTake i.val r (taken k.val s)) := by
      have hran : (taken k.val s).fusion.running = true := by rw [taken_eq]; exact hrun
      unfold fusionRecord
      rw [cfg_taken, if_neg (by rw [hran]; simpa using hhost)]
    have hdid := fun f hf hc => hostWrite_fair s k.val (0x5010 + i.val) 8 r [] f hmay.1
      (fusionRecord_passes s k.val i r hmay ⟨hmin, hmax⟩ hres) hf
      ((writeEffect_fusionRecord _ k.val i r).trans (htake.trans (congrArg (WRes.done []) hc)))
    refine ⟨fun hidle => ⟨_, rfl, ?_⟩, fun hact hnot => ⟨storeRecord i.val r s, ⟨_, rfl, ?_⟩, rfl, storeRecord_find s i.val r,
      fun j hj => storeRecord_find_other s i.val j r hj⟩, fun hact hlate => ⟨_, rfl, ?_⟩⟩
    · exact hdid (fun u => u) .id (fusionTake_idle _ _ _ (hacts.trans hidle))
    · exact hdid (storeRecord i.val r) (.of_keeps fun _ _ _ _ => rfl)
        (fusionTake_eq _ _ _ (hacts.trans hact) false (by simpa using fun h => hnot (hheld.mp h)))
    · exact hdid (count 0x7418 9 1) (.count 0x7418 9 1 (by decide))
        (fusionTake_eq _ _ _ (hacts.trans hact) true (by simpa using hheld.mpr hlate))
  · intro T c base
    have hexec : exec .fusionCycle s = .next (fusionCycle T (clockTo T s)) := if_pos hacts
    have hcycle := fusionCycle_cycles (clockTo T s) T
    obtain ⟨x, hx⟩ : ∃ x, clockTo T s = { s with clock := x } := ⟨_, clockTo_eq T s⟩
    have hclock : (clockTo T s).clock = x := by rw [hx]
    rw [hclock, hexec]
    rw [hx] at hcycle ⊢
    obtain ⟨h₁, h₂, h₃, h₄, h₅, h₆, h₇, h₈, h₉, h₁₀, h₁₁, h₁₂⟩ := hcycle
    have hrun : s.fusion.running = true := by
      unfold fusionActs at hacts
      simp only [Bool.and_eq_true] at hacts
      exact hacts.1.1
    exact ⟨_, rfl, h₁, h₂, h₃, h₄, h₅, h₆.trans hrun, h₇, h₈, h₉, h₁₀, h₁₁, h₁₂⟩

end Sys2Proof.Machine

end

section
/-!
PROOF. Notify frames in both runs of a request (R468, R476), and what frames handed to a T1 port change (R379).
-/

namespace Sys2Proof.Machine

open Claims

/-! ## Sessions in both runs -/

/-- What a function reads of a session is none of what taking a request changes. -/
def BlindField {α : Type} (g : Session → α) : Prop :=
  ∀ (e : Session) (h : Nat) (l : BitVec 32) (b : Bool) (a : Bytes), g { e with heard := h, last := l, busy := b, source := a } = g e

theorem Twin.readSession {α : Type} {g : Session → α} {s u v : State} {k : Nat} (h : Twin s k u v) (hg : BlindField g) (j : Nat) :
    g (Machine.sess v j) = g (Machine.sess u j) := by
  by_cases hj : j = k
  · subst hj
    rw [h.sess]
    exact hg _ _ _ _ _
  · rw [h.others j hj]

namespace Fair

/-- A step on a session that commutes with taking a request. -/
theorem smod (j : Nat) {g : Session → Session} (hg : SessionField g) : Fair (smod j g) := fun s k u v h => by
  obtain ⟨hcomm, hkeep⟩ := hg
  have hsess : ∀ (w : State) i, sess (Machine.smod j g w) i = if i = j then g (sess w j) else sess w i := fun w i => sess_smod w j i g
  refine ⟨?_, ?_, ?_, fun i hi => ?_, h.counted, h.counters⟩
  · conv_lhs => rw [h.eq]
    rfl
  · rw [hsess, hsess]
    split
    next hkj => rw [← hkj, h.sess, hcomm]
    next => exact h.sess
  · rw [hsess]
    split
    next hkj => rw [← hkj]; obtain ⟨ho, hp, hgen⟩ := hkeep (sess u k); rw [ho, hp, hgen]; exact h.session
    next => exact h.session
  · rw [hsess, hsess]
    split
    next hij => rw [h.others j fun hjk => hi (hij.trans hjk)]
    next => exact h.others i hi

/-- A step that branches on what a session holds. -/
theorem branchSession {c : Session → Prop} [∀ e, Decidable (c e)] (j : Nat) {f g : State → State} (hc : BlindField c) (hf : Fair f)
    (hg : Fair g) : Fair (fun u => if c (sess u j) then f u else g u) := fun s k u v h => by
  have hcv : c (sess v j) = c (sess u j) := h.readSession hc j
  by_cases hu : c (sess u j)
  · have hv : c (sess v j) := hcv ▸ hu
    simpa only [if_pos hu, if_pos hv] using hf s k u v h
  · have hv : ¬ c (sess v j) := hcv ▸ hu
    simpa only [if_neg hu, if_neg hv] using hg s k u v h

theorem setEvent (n : Nat) : Fair (setEvent n) := .of_keeps fun _ _ _ _ => rfl

end Fair

theorem notifyDropped_fair (k : Nat) : Fair (notifyDropped k) :=
  .comp (g := setEvent 8) (f := fun u => count 0x741e 8 1 (smod k (fun e => { e with lost := e.lost + 1, lostFlag := true }) u))
    (.setEvent 8) (.comp (g := count 0x741e 8 1) (f := smod k (fun e => { e with lost := e.lost + 1, lostFlag := true }))
      (.count 0x741e 8 1 (by decide)) (.smod k ⟨fun _ _ _ _ _ => rfl, fun _ => ⟨rfl, rfl, rfl⟩⟩))

theorem notify_fair (k : Nat) (n : Notify) : Fair (notify k n) :=
  .branchSession (c := fun e => e.queue.length < 256) k (fun _ _ _ _ _ => rfl)
    (.smod k ⟨fun _ _ _ _ _ => rfl, fun _ => ⟨rfl, rfl, rfl⟩⟩)
    (.ite (.comp (g := notifyDropped k) (f := smod k (fun e => { e with queue := e.queue.drop 1 ++ [n] })) (notifyDropped_fair k)
      (.smod k ⟨fun _ _ _ _ _ => rfl, fun _ => ⟨rfl, rfl, rfl⟩⟩)) (notifyDropped_fair k))

theorem notifySubs_fair (code : Nat) (d : Bytes) : Fair (notifySubs code d) := fun s k u v h => by
  have hslots : (openSlots v).filter (fun k => (sess v k).mask.getLsbD code) = (openSlots u).filter (fun k => (sess u k).mask.getLsbD code) := by
    unfold openSlots
    rw [List.filter_filter, List.filter_filter]
    refine List.filter_congr fun j _ => ?_
    rw [h.readSession (g := fun e => e.mask.getLsbD code) (fun _ _ _ _ _ => rfl) j,
      h.readSession (g := fun e => e.open_) (fun _ _ _ _ _ => rfl) j]
  have hstamp : stamp v = stamp u := h.read fun _ _ _ _ => rfl
  unfold notifySubs
  rw [hslots, hstamp]
  exact Fair.forEach _ (fun j => notify_fair j _) s k u v h

/-! ## Frames handed to a T1 port -/

/-- A step that hands frames to a T1 port or sends those that wait there: nothing but what is sent and what waits changes. -/
structure Flushes (s t : State) : Prop where
  eq : t = { s with out := t.out, t1 := t.t1 }
  port : ∀ y, t1Of t y = { t1Of s y with waiting := (t1Of t y).waiting }

namespace Flushes

variable {s t u : State}

theorem refl (s : State) : Flushes s s := ⟨rfl, fun _ => rfl⟩

theorem trans (h : Flushes s t) (k : Flushes t u) : Flushes s u where
  eq := by rw [k.eq, h.eq]
  port y := by rw [k.port, h.port]

theorem launch (h : Flushes s t) (y : Nat) : (t1Of t y).launch = (t1Of s y).launch := by rw [h.port]

end Flushes

section

variable (s : State)

theorem emit_flushes (f : OutFrame) : Flushes s (emit f s) := ⟨rfl, fun _ => rfl⟩

theorem t1Of_flushT1 (x y : Nat) (w : List TxFrame) : t1Of (flushT1 x w s) y = if y = x then { t1Of s x with
    waiting := w.dropWhile (fun f => mayStart (now s) (t1Of s x).launch f.len) } else t1Of s y :=
  t1Of_t1mod s x y (fun p => { p with waiting := w.dropWhile (fun f => mayStart (now s) (t1Of s x).launch f.len) })

theorem flushT1_flushes (x : Nat) (w : List TxFrame) : Flushes s (flushT1 x w s) := by
  refine ⟨rfl, fun y => ?_⟩
  rw [t1Of_flushT1]
  split
  next h => rw [h]
  next => rfl

theorem sendT1_flushes (x : Nat) (f : TxFrame) : Flushes s (sendT1 x f s) := by
  unfold sendT1
  split
  · exact emit_flushes ..
  · exact flushT1_flushes ..

theorem releaseT1_flushes (x : Nat) : Flushes s (releaseT1 x s) := by
  unfold releaseT1
  split
  · exact .refl s
  · exact flushT1_flushes ..

theorem t1Of_of_t1 {u v : State} (h : u.t1 = v.t1) (y : Nat) : t1Of u y = t1Of v y := by rw [t1Of, h, t1Of]

/-- An answer leaves the T1 ports but for what waits there. -/
theorem answer_port (k : Nat) (r : Reply) (y : Nat) :
    t1Of (answer k r s) y = { t1Of s y with waiting := (t1Of (answer k r s) y).waiting } := by
  have hsend : ∀ u : State, ∃ v : State, Flushes u v ∧ reply k (ixFrame s k 5 (sess s k).last (stamp s) (responsePayload r)) u = v := fun u =>
    ⟨_, sendT1_flushes u _ _, rfl⟩
  unfold answer
  simp only
  obtain ⟨v, hv, heq⟩ := hsend (smod k (fun e =>
    { e with busy := false, cached := ixFrame s k 5 (sess s k).last (stamp s) (responsePayload r), reply := r }) s)
  rw [heq]
  have hport : t1Of v y = { t1Of s y with waiting := (t1Of v y).waiting } := hv.port y
  split
  · exact hport
  · exact hport

/-- A port's launch queue emptied and counted. -/
theorem dropLaunches_frame (x : Nat) : dropLaunches x s = { s with
    out := (dropLaunches x s).out, t1 := (dropLaunches x s).t1, counters := (dropLaunches x s).counters } := by
  have h := releaseT1_flushes (t1mod x (fun p => { p with launch := [] }) (count 0x741b 4 (t1Of s x).launch.length s)) x
  unfold dropLaunches
  rw [h.eq]
  rfl

theorem dropLaunches_port (x y : Nat) : t1Of (dropLaunches x s) y = { t1Of s y with
    launch := if y = x then [] else (t1Of s y).launch, waiting := (t1Of (dropLaunches x s) y).waiting } := by
  have h := releaseT1_flushes (t1mod x (fun p => { p with launch := [] }) (count 0x741b 4 (t1Of s x).launch.length s)) x
  have hport := h.port y
  rw [t1Of_t1mod, t1Of_count, t1Of_count] at hport
  refine hport.trans ?_
  by_cases hy : y = x
  · subst hy; rw [if_pos rfl, if_pos rfl]; rfl
  · rw [if_neg hy, if_neg hy]; rfl

theorem dropLaunches_counters (x : Nat) : (dropLaunches x s).counters = (count 0x741b 4 (t1Of s x).launch.length s).counters := by
  have h := releaseT1_flushes (t1mod x (fun p => { p with launch := [] }) (count 0x741b 4 (t1Of s x).launch.length s)) x
  unfold dropLaunches
  rw [h.eq]
  rfl

/-- Frames that wait on no other port are kept. -/
theorem dropLaunches_other (x y : Nat) (h : y ≠ x) : t1Of (dropLaunches x s) y = t1Of s y := by
  unfold dropLaunches releaseT1
  split
  · rw [t1Of_t1mod, if_neg h, t1Of_count]
  · rw [t1Of_flushT1, if_neg h, t1Of_t1mod, if_neg h, t1Of_count]

end

end Sys2Proof.Machine

end

section
/-!
PROOF. The clock and IEEE 802.1AS (R366-R372).
-/

namespace Sys2Proof.Machine

open Claims

/-! ## A step of the clock (R367) -/

section

variable (s : State)

theorem dropAll_frame (l : List Nat) : forEach l dropLaunches s = { s with
    out := (forEach l dropLaunches s).out, t1 := (forEach l dropLaunches s).t1, counters := (forEach l dropLaunches s).counters } :=
  forEach_rel (fun u v => v = { u with out := v.out, t1 := v.t1, counters := v.counters }) (fun _ => rfl)
    (fun u v w h k => by rw [k, h]) dropLaunches l (fun x _ u => dropLaunches_frame u x) s

theorem dropAll_counter (l : List Nat) {i j : Nat} (h : objKey i j ≠ objKey 0x741b 4) :
    counter (forEach l dropLaunches s) i j = counter s i j :=
  forEach_rel (fun u v => counter v i j = counter u i j) (fun _ => rfl) (fun _ _ _ h k => k.trans h) dropLaunches l
    (fun x _ u => by rw [counter, dropLaunches_counters]; exact counter_count_other u 0x741b 4 _ i j h) s

theorem dropAll_launch (l : List Nat) (x : Nat) (s : State) :
    (t1Of (forEach l dropLaunches s) x).launch = if x ∈ l then [] else (t1Of s x).launch := by
  induction l generalizing s with
  | nil => rfl
  | cons y l ih =>
    show (t1Of (forEach l dropLaunches (dropLaunches y s)) x).launch = _
    rw [ih, dropLaunches_port]
    simp only [List.mem_cons]
    by_cases hl : x ∈ l <;> by_cases hy : x = y <;> simp [hl, hy]

/-- The instants of the state moved and the clock set. -/
def stepped (d : Int) (s : State) : State :=
  let t := (((now s : Int) + d) % ((2 ^ 48 * nsPerS : Nat) : Int)).toNat
  let u := shiftInstants d t s
  { u with clock := { setClock t u.clock.frac.toNat u.clock with slewLeft := 0, slot := t / slotNs } }

theorem clockStep_eq (d : Int) : clockStep d s =
    callReplan (fun _ => true) (setEvent 6 (count 0x741b 6 1 (forEach (List.range 4) dropLaunches (stepped d s)))) := rfl

/-- What a step of the clock leaves beside the jobs that it has re-planned. -/
theorem replanned_frame (u : State) : callReplan (fun _ => true) (setEvent 6 (count 0x741b 6 1 u)) = { u with
    counters := (count 0x741b 6 1 u).counters, events := (setEvent 6 u).events, eventsAt := (setEvent 6 u).eventsAt
    eventsNew := (setEvent 6 u).eventsNew
    sluice := { u.sluice with jobs := (callReplan (fun _ => true) u).sluice.jobs } } := rfl

theorem clockStep_frame (d : Int) : ∃ o p c e ea en jobs, clockStep d s = { stepped d s with
    out := o, t1 := p, counters := c, events := e, eventsAt := ea, eventsNew := en
    sluice := { (stepped d s).sluice with jobs := jobs } } := by
  have h := dropAll_frame (stepped d s) (List.range 4)
  rw [clockStep_eq, replanned_frame]
  generalize forEach (List.range 4) dropLaunches (stepped d s) = u at h ⊢
  generalize stepped d s = v at h ⊢
  rw [h]
  exact ⟨_, _, _, _, _, _, _, rfl⟩

theorem now_stepped (d : Int) : (now (stepped d s) : Int) = ((now s : Int) + d) % ((2 ^ 48 * nsPerS : Nat) : Int) := by
  have hpos : ((2 ^ 48 * nsPerS : Nat) : Int) ≠ 0 := by decide
  have h₀ : 0 ≤ ((now s : Int) + d) % ((2 ^ 48 * nsPerS : Nat) : Int) := Int.emod_nonneg _ hpos
  have h₁ : ((now s : Int) + d) % ((2 ^ 48 * nsPerS : Nat) : Int) < ((2 ^ 48 * nsPerS : Nat) : Int) :=
    Int.emod_lt_of_pos _ (by decide)
  show (((BitVec.ofNat 48 (_ / nsPerS)).toNat * nsPerS + _ % nsPerS : Nat) : Int) = _
  generalize ((now s : Int) + d) % ((2 ^ 48 * nsPerS : Nat) : Int) = v at *
  have hn : nsPerS = 1000000000 := rfl
  rw [hn] at h₁ ⊢
  rw [BitVec.toNat_ofNat]
  omega

theorem clockStep_clock (d : Int) : (clockStep d s).clock = (stepped d s).clock := by
  obtain ⟨_, _, _, _, _, _, _, h⟩ := clockStep_frame s d
  rw [h]

theorem now_clockStep (d : Int) : (now (clockStep d s) : Int) = ((now s : Int) + d) % ((2 ^ 48 * nsPerS : Nat) : Int) := by
  rw [← now_stepped, now, now, clockStep_clock]

theorem clockStep_state (d : Int) : (clockStep d s).clock.state = s.clock.state := by
  rw [clockStep_clock]
  rfl

theorem clockStep_kept (d : Int) : (clockStep d s).as_ = s.as_ ∧ (clockStep d s).mem = s.mem ∧ (clockStep d s).dict = s.dict := by
  obtain ⟨_, _, _, _, _, _, _, h⟩ := clockStep_frame s d
  rw [h]
  exact ⟨rfl, rfl, rfl⟩

theorem clockStep_launch (d : Int) (x : Nat) (hx : x < 4) : (t1Of (clockStep d s) x).launch = [] := by
  have h : (t1Of (forEach (List.range 4) dropLaunches (stepped d s)) x).launch = [] := by
    rw [dropAll_launch, if_pos (List.mem_range.mpr hx)]
  rw [clockStep_eq, replanned_frame]
  generalize forEach (List.range 4) dropLaunches (stepped d s) = u at h ⊢
  exact h

theorem clockStep_replan (d : Int) (j : Job) (hj : j ∈ (clockStep d s).sluice.jobs) (hc : hasCommitted j = false) :
    j.replan = true := by
  rw [clockStep_eq] at hj
  generalize forEach (List.range 4) dropLaunches (stepped d s) = u at hj
  obtain ⟨i, -, rfl⟩ := List.mem_map.mp hj
  by_cases hi : hasCommitted i = true
  · simp [hi] at hc
  · simp [hi]

theorem clockStep_event (d : Int) : (clockStep d s).events.getLsbD 6 = true := by
  rw [clockStep_eq]
  generalize forEach (List.range 4) dropLaunches (stepped d s) = u
  exact setEvent_getLsbD_same (count 0x741b 6 1 u) (6 : Fin 32)

theorem clockStep_counter (d : Int) : counter (clockStep d s) 0x741b 6 = counter s 0x741b 6 + 1 := by
  have h : counter (forEach (List.range 4) dropLaunches (stepped d s)) 0x741b 6 = counter s 0x741b 6 :=
    dropAll_counter (stepped d s) _ (by decide)
  rw [clockStep_eq]
  generalize forEach (List.range 4) dropLaunches (stepped d s) = u at h ⊢
  exact (counter_count_same u 0x741b 6).trans (by rw [h])

/-- An open session is listed, and stays so with its instants moved. -/
theorem tblGet_tblMap_open (f : Session → Session) (hf : ∀ e, (f e).open_ = e.open_) (t : Tbl Session) (k : Nat)
    (h : (tblGet {} t k).open_ = true) : tblGet {} (tblMap {} f t) k = f (tblGet {} t k) := by
  unfold tblMap
  induction t with
  | nil => exact absurd h nofun
  | cons e t ih =>
    obtain ⟨j, v⟩ := e
    rw [List.map_cons, List.filter_cons]
    by_cases hj : j = k
    · have hv : tblGet {} ((j, v) :: t) k = v := if_pos hj
      rw [hv] at h ⊢
      have hne : f v ≠ ({} : Session) := fun he => by
        have hopen := hf v
        rw [he, h] at hopen
        exact absurd hopen nofun
      rw [if_pos (by simpa using hne)]
      exact if_pos hj
    · have ht : tblGet {} ((j, v) :: t) k = tblGet {} t k := if_neg hj
      rw [ht] at h ⊢
      split
      · exact (if_neg hj).trans (ih h)
      · exact ih h

/-- A session with its instants moved. -/
def shiftSession (d : Int) (e : Session) : Session :=
  { e with heard := shifted d e.heard, unacked := e.unacked.map (fun u => { u with sentAt := shifted d u.sentAt }) }

theorem clockStep_sessions (d : Int) : (clockStep d s).sessions = tblMap {} (shiftSession d) s.sessions := by
  obtain ⟨_, _, _, _, _, _, _, heq⟩ := clockStep_frame s d
  rw [heq]
  rfl

theorem clockStep_session (d : Int) (k : Nat) (h : (sess s k).open_ = true) :
    (sess (clockStep d s) k).open_ = true ∧ (sess (clockStep d s) k).gen = (sess s k).gen := by
  have hsess : sess (clockStep d s) k = shiftSession d (sess s k) := by
    rw [sess, clockStep_sessions]
    exact tblGet_tblMap_open (shiftSession d) (fun _ => rfl) s.sessions k h
  rw [hsess]
  exact ⟨h, rfl⟩

/-! ## ADJUST (R367) -/

theorem clockAdjust_passes (k : Nat) (d : BitVec 64) (h : HostMay k 9 s) : WritePasses s k 0x3400 3 (leBytes 8 d.toNat) := by
  have hfam : famBase 0x3400 = (0x3400, 0) := by decide
  refine ⟨.i64, .wo, 0, by decide, by decide, ?_, ?_, ?_, ?_, nofun, fun _ => ?_⟩
  · simpa [writeRight, hfam] using h.2
  · simp [notOwner, hfam]
  · simp [typeOk, otyLen]
  · simp [reservedOk, valueMask, zeroFields, recordHeader, hfam, sel, tblGet]
  · simp [rangeOk, rangeLow, hfam, sel, tblGet]

theorem servoOwns_taken (k : Nat) : servoOwns (taken k s) = servoOwns s := by rw [taken_eq]; rfl

theorem writeEffect_clockAdjust (k : Nat) (d : BitVec 64) (h : servoOwns s = false) :
    writeEffect k 0x3400 3 (leBytes 8 d.toNat) s = .done [] (clockAdjust d.toInt s) := by
  have hfam : famBase 0x3400 = (0x3400, 0) := by decide
  have hv : signedOf 64 (leNat (leBytes 8 d.toNat)) = d.toInt := by
    rw [leNat_leBytes_toNat 64 8 d rfl, signedOf, BitVec.ofNat_toNat, BitVec.setWidth_eq]
  unfold writeEffect
  simp only [hfam]
  show (if servoOwns s then _ else WRes.done [] (clockAdjust (signedOf 64 (leNat (leBytes 8 d.toNat))) s)) = _
  rw [h, hv]
  rfl

/-- The clock slewed over a correction. -/
def slewed (d : Int) (s : State) : State := count 0x741b 7 1 { s with clock := { s.clock with slewLeft := d * 2 ^ 38 } }

theorem slewed_fair (d : Int) : Fair (slewed d) :=
  .comp (g := count 0x741b 7 1) (f := fun u => { u with clock := { u.clock with slewLeft := d * 2 ^ 38 } })
    (.count 0x741b 7 1 (by decide)) (.of_keeps fun _ _ _ _ => rfl)

theorem clockAdjust_slews (k : Fin 64) (d : BitVec 64) (h : HostMay k.val 9 s) (ho : servoOwns s = false)
    (hd : d.toInt.natAbs ≤ 10000) : Completes (.clockAdjust k d) k.val [] (slewed d.toInt s) s := by
  refine ⟨_, rfl, hostWrite_fair s k.val _ 3 _ [] (slewed d.toInt) h.1 (clockAdjust_passes s k.val d h) (slewed_fair _) ?_⟩
  rw [writeEffect_clockAdjust (taken k.val s) k.val d (by rwa [servoOwns_taken])]
  exact congrArg (WRes.done []) (if_pos hd)

theorem clockAdjust_steps (k : Fin 64) (d : BitVec 64) (h : HostMay k.val 9 s) (ho : servoOwns s = false)
    (hd : 10000 < d.toInt.natAbs) : exec (.clockAdjust k d) s = .next (answer k.val {} (clockStep d.toInt (taken k.val s))) := by
  have he : writeEffect k.val 0x3400 3 (leBytes 8 d.toNat) (taken k.val s) = .done [] (clockStep d.toInt (taken k.val s)) := by
    rw [writeEffect_clockAdjust (taken k.val s) k.val d (by rwa [servoOwns_taken])]
    exact congrArg (WRes.done []) (if_neg (by omega))
  have hopen : (sess (taken k.val s) k.val).open_ = true := by rw [sess_taken]; exact h.1.1
  obtain ⟨ho, hg⟩ := clockStep_session (taken k.val s) d.toInt k.val hopen
  exact congrArg Host.Outcome.next (hostWrite_done s k.val _ 3 _ [] _ h.1
    ((writeValue_taken s h.1 (clockAdjust_passes s k.val d h)).trans he) ho (by rw [hg, sess_taken]))

theorem taken_counter (k i j : Nat) (h : objKey i j ≠ objKey 0x741e 1) : counter (taken k s) i j = counter s i j := by
  rw [taken_eq]
  exact counter_count_other s 0x741e 1 1 i j h

theorem clockAdjust_step (k : Fin 64) (d : BitVec 64) (h : HostMay k.val 9 s) (ho : servoOwns s = false)
    (hd : 10000 < d.toInt.natAbs) : ∃ t, exec (.clockAdjust k d) s = .next t ∧
      (now t : Int) = ((now s : Int) + d.toInt) % ((2 ^ 48 * nsPerS : Nat) : Int) ∧ t.clock.slewLeft = 0 ∧
      (∀ x, x < 4 → (t1Of t x).launch = []) ∧ (∀ j ∈ t.sluice.jobs, hasCommitted j = false → j.replan = true) ∧
      (sess t k.val).busy = false ∧ (sess t k.val).reply = {} ∧ t.events.getLsbD 6 = true ∧
      counter t 0x741b 6 = counter s 0x741b 6 + 1 ∧ t.mem = s.mem ∧ t.dict = s.dict := by
  refine ⟨_, clockAdjust_steps s k d h ho hd, ?_⟩
  have hnow := now_clockStep (taken k.val s) d.toInt
  have hslew : (clockStep d.toInt (taken k.val s)).clock.slewLeft = 0 := by rw [clockStep_clock]; rfl
  have hlaunch := clockStep_launch (taken k.val s) d.toInt
  have hreplan := clockStep_replan (taken k.val s) d.toInt
  have hevent := clockStep_event (taken k.val s) d.toInt
  have hcount := clockStep_counter (taken k.val s) d.toInt
  obtain ⟨-, hmem, hdict⟩ := clockStep_kept (taken k.val s) d.toInt
  rw [taken_counter s k.val _ _ (by decide)] at hcount
  rw [show now (taken k.val s) = now s by rw [taken_eq]; rfl] at hnow
  rw [show (taken k.val s).mem = s.mem by rw [taken_eq]] at hmem
  rw [show (taken k.val s).dict = s.dict by rw [taken_eq]] at hdict
  generalize clockStep d.toInt (taken k.val s) = u at *
  have hanswer := answer_eq u k.val {}
  refine ⟨?_, ?_, fun x hx => ?_, ?_, ?_, ?_, ?_, ?_, ?_, ?_⟩
  · rw [hanswer]; exact hnow
  · rw [hanswer]; exact hslew
  · rw [answer_port]; exact hlaunch x hx
  · rw [hanswer]; exact hreplan
  · rw [sess_answer, if_pos rfl]
  · rw [sess_answer, if_pos rfl]
  · rw [hanswer]; exact hevent
  · rw [counter, answer_counters u k.val {} rfl]; exact hcount
  · rw [hanswer]; exact hmem
  · rw [hanswer]; exact hdict

/-! ## The state of the time base (R372) -/

theorem setTime_notices (st : TimeState) : Notices { s with clock := { s.clock with state := st } } (setTime st s) := by
  unfold setTime
  split
  next h => rw [← h]; exact .refl s
  next => exact notifySubs_notices _ _ _

theorem timeNotice_fair : Fair timeNotice :=
  .read (g := fun u => (u.clock.state, u.as_.offset))
    (f := fun x => notifySubs 0x30 ([timeCode x.1] ++ zeros 7 ++ leBytes 8 x.2.toNat)) (fun _ _ _ _ => rfl)
    fun x => notifySubs_fair 0x30 ([timeCode x.1] ++ zeros 7 ++ leBytes 8 x.2.toNat)

theorem setTime_fair (st : TimeState) : Fair (setTime st) :=
  .branch (c := fun u => u.clock.state = st) (fun _ _ _ _ => rfl) .id
    (.comp (g := timeNotice) (f := fun u => { u with clock := { u.clock with state := st } }) timeNotice_fair
      (.of_keeps fun _ _ _ _ => rfl))

/-! ## Start and stop of 802.1AS (R371) -/

theorem asControl_passes (k : Nat) (c : BitVec 8) (h : HostMay k 9 s) : WritePasses s k 0x3410 0x0b [c] := by
  have hfam : famBase 0x3410 = (0x3410, 0) := by decide
  refine ⟨.u8, .rw, 0, by decide, by decide, ?_, ?_, by simp [typeOk, otyLen], ?_, nofun, fun _ => ?_⟩
  · simpa [writeRight, hfam] using h.2
  · simp [notOwner, hfam]
  · simp [reservedOk, valueMask, zeroFields, recordHeader, hfam, sel, tblGet]
  · simp [rangeOk, rangeLow, hfam, sel, tblGet]

theorem writeEffect_asControl (k : Nat) (c : BitVec 8) : writeEffect k 0x3410 0x0b [c] s = asControl c.toNat s := by
  have hfam : famBase 0x3410 = (0x3410, 0) := by decide
  have hv : leNat [c] = c.toNat := by simp [leNat]
  unfold writeEffect
  simp only [hfam]
  show asControl (leNat [c]) s = _
  rw [hv]

theorem asStart_completes (k : Fin 64) (h : HostMay k.val 9 s) : Completes (.asStart k) k.val [] (asStart s) s :=
  ⟨_, rfl, hostWrite_effect s k.val _ _ [1] [] asStart h.1 (asControl_passes s k.val 1 h) (fun _ _ _ => rfl)
    (writeEffect_asControl _ k.val 1)⟩

/-- 802.1AS stopped, nothing held of it. -/
def asStopped (s : State) : State :=
  setTime .freeRun { s with as_ := { s.as_ with running := false, good := 0, rates := [], slave := none, heard := [] } }

theorem asStopped_fair : Fair asStopped :=
  .comp (g := setTime .freeRun)
    (f := fun u => { u with as_ := { u.as_ with running := false, good := 0, rates := [], slave := none, heard := [] } })
    (setTime_fair _) (.of_keeps fun _ _ _ _ => rfl)

theorem asStop_completes (k : Fin 64) (h : HostMay k.val 9 s) (hr : s.as_.running = true) :
    Completes (.asStop k) k.val [] (asStopped s) s := by
  refine ⟨_, rfl, hostWrite_fair s k.val _ _ [2] [] asStopped h.1 (asControl_passes s k.val 2 h) asStopped_fair ?_⟩
  rw [writeEffect_asControl]
  exact congrArg (WRes.done []) (if_pos (by rw [taken_eq]; exact hr))

/-! ## RATE and the loss of the grandmaster (R366, R372) -/

theorem rate_setRate (r : Int) (hr : r.natAbs ≤ maxRate) : (rate (setRate r s)).natAbs ≤ maxRate := by
  have hcfg : cfgBytes (setRate r s) 0x3400 2 = leBytes 4 (wrapInt 32 r) := cfgBytes_setCfg_same s 0x3400 2 _
  have hnat : leNat (leBytes 4 (wrapInt 32 r)) = (BitVec.ofInt 32 r).toNat := leNat_leBytes_toNat 32 4 (BitVec.ofInt 32 r) rfl
  have hrate : rate (setRate r s) = (BitVec.ofInt 32 r).toInt := by
    unfold rate cfgInt cfg signedOf
    rw [hcfg, hnat, BitVec.ofNat_toNat, BitVec.setWidth_eq]
  have hm : maxRate = 549755813 := rfl
  rw [hm] at hr ⊢
  rw [hrate, BitVec.toInt_ofInt, Int.bmod_eq_of_le (by omega) (by omega)]
  exact hr

theorem servo_frame : servo s = { s with
    freeCtr := (servo s).freeCtr, dict := (servo s).dict, as_ := { s.as_ with rates := (servo s).as_.rates } } := rfl

/-- The servo chooses a RATE of its range. -/
theorem rate_servo : (rate (servo s)).natAbs ≤ maxRate := by
  refine rate_setRate _ _ ?_
  show (((Config.freeNat s.freeCtr % (2 * maxRate + 1) : Nat) : Int) - (maxRate : Int)).natAbs ≤ maxRate
  have hlt : Config.freeNat s.freeCtr % (2 * maxRate + 1) < 2 * maxRate + 1 := Nat.mod_lt _ (by omega)
  generalize Config.freeNat s.freeCtr % (2 * maxRate + 1) = n at hlt ⊢
  omega

theorem rate_of_dict {s t : State} (h : t.dict = s.dict) : rate t = rate s := by
  unfold rate cfgInt cfg cfgBytes
  rw [h]

/-- The servo's last rate averaged, before the reference is given up. -/
def lastRate (s : State) : State :=
  if s.clock.state = .locking ∨ s.clock.state = .locked then setRate (meanRate s).1 (meanRate s).2 else s

theorem lastRate_frame : lastRate s = { s with freeCtr := (lastRate s).freeCtr, dict := (lastRate s).dict } := by
  unfold lastRate meanRate
  simp only
  split
  · split <;> rfl
  · rfl

theorem holdover_eq : holdover s = setTime .holdover (setEvent 3 (count 0x741b 5 1
    { lastRate s with as_ := { (lastRate s).as_ with rates := [], good := 0, slave := none } })) := rfl

/-- What the loss of the grandmaster leaves. -/
structure Lost (s t : State) : Prop where
  eq : ∃ r, t = { s with
    freeCtr := t.freeCtr, dict := t.dict, counters := t.counters, events := t.events, eventsAt := t.eventsAt, eventsNew := t.eventsNew
    sessions := t.sessions, clock := { s.clock with state := .holdover }, as_ := { s.as_ with rates := r, good := 0, slave := none } }
  event : t.events.getLsbD 3 = true
  counter : counter t 0x741b 5 = counter s 0x741b 5 + 1
  dict : following s = false → t.dict = s.dict

theorem holdover_lost : Lost s (holdover s) := by
  have hframe := lastRate_frame s
  have hn := setTime_notices (setEvent 3 (count 0x741b 5 1
    { lastRate s with as_ := { (lastRate s).as_ with rates := [], good := 0, slave := none } })) .holdover
  rw [← holdover_eq] at hn
  have hdict : following s = false → (lastRate s).dict = s.dict := fun h => by
    have hstate : ¬ (s.clock.state = .locking ∨ s.clock.state = .locked) := by simpa [following] using h
    rw [lastRate, if_neg hstate]
  generalize lastRate s = u at hframe hn hdict
  refine ⟨⟨[], hn.eq.trans (by rw [hn.eq, hframe]; rfl)⟩, hn.events 3 (setEvent_getLsbD_same _ (3 : Fin 32)), ?_, fun h => ?_⟩
  · rw [counter, hn.counters _ (by decide)]
    refine (counter_count_same _ _ _).trans ?_
    rw [hframe]
    rfl
  · rw [hn.eq]
    exact hdict h

theorem Lost.kept {s t : State} (h : Lost s t) : t.clock = { s.clock with state := .holdover } ∧ t.boot = s.boot ∧
    t.as_.gm = s.as_.gm ∧ t.as_.offset = s.as_.offset := by
  obtain ⟨r, heq⟩ := h.eq
  rw [heq]
  exact ⟨rfl, rfl, rfl, rfl⟩

/-! ## The grandmaster chosen (R372) -/

/-- The state of the time base when another grandmaster is chosen. -/
def reselected (self : Bool) (gm : BitVec 64) (s : State) : State :=
  if following s ∧ (self ∨ gm ≠ s.as_.gm) then holdover s else if s.clock.state = .grandmaster ∧ !self then holdover s else s

theorem selectGm_self (gm : BitVec 64) (x : Nat) : ∃ t, selectGm true gm x s = t ∧ t.clock.state = .grandmaster ∧ t.as_.gm = gm ∧
    t.as_.slave = none ∧ now t = now s := by
  have hnow : now (reselected true gm s) = now s := by
    unfold reselected
    split
    · rw [now, (holdover_lost s).kept.1]; rfl
    · split
      · rw [now, (holdover_lost s).kept.1]; rfl
      · rfl
  have heq : selectGm true gm x s =
      setTime .grandmaster { reselected true gm s with as_ := { (reselected true gm s).as_ with gm := gm, slave := none } } := rfl
  generalize reselected true gm s = u at hnow heq
  have hn := setTime_notices { u with as_ := { u.as_ with gm := gm, slave := none } } .grandmaster
  rw [← heq] at hn
  generalize selectGm true gm x s = t at hn ⊢
  refine ⟨t, rfl, ?_⟩
  rw [hn.eq]
  exact ⟨rfl, rfl, rfl, hnow⟩

theorem selectGm_other (gm : BitVec 64) (x : Nat) : selectGm false gm x s =
    { reselected false gm s with as_ := { (reselected false gm s).as_ with gm := gm, slave := some x } } := rfl

theorem following_grandmaster (h : s.clock.state = .grandmaster) : following s = false := by simp [following, h]

theorem reselected_lost (gm : BitVec 64) (h : s.clock.state = .grandmaster ∨ (following s = true ∧ gm ≠ s.as_.gm)) :
    reselected false gm s = holdover s := by
  unfold reselected
  rcases h with h | h
  · rw [if_neg (by simp [following_grandmaster s h]), if_pos (by simp [h])]
  · rw [if_pos ⟨h.1, .inr h.2⟩]

theorem reselected_same (gm : BitVec 64) (hg : s.clock.state ≠ .grandmaster) (h : following s = false ∨ gm = s.as_.gm) :
    reselected false gm s = s := by
  unfold reselected
  rw [if_neg (by rintro ⟨hf, hn⟩; rcases h with h | h <;> simp_all), if_neg (by simp [hg])]

theorem reselected_dict (gm : BitVec 64) (h : following s = false) : (reselected false gm s).dict = s.dict := by
  unfold reselected
  rw [if_neg (by simp [h])]
  split
  · exact (holdover_lost s).dict h
  · rfl

/-- The best of what was heard decides, but where the roles are set (R372). -/
theorem maySelect_heard (gm : BitVec 64) (x y : Nat) (v : List Nat) (hr : cfg s 0x3410 1 ≠ 2) (h : bestHeard s = some (y, v)) :
    (maySelect s true gm x = true ↔ lexLt (ownVector s) v = true) ∧
    (maySelect s false gm x = true ↔ lexLt (ownVector s) v = false ∧ x = y ∧ nth 0 v 5 = gm.toNat) := by
  have hself : selfBest s = lexLt (ownVector s) v := by rw [selfBest, h]
  unfold maySelect
  rw [if_neg hr, if_neg hr, h, hself]
  refine ⟨.rfl, ?_⟩
  simp only [Bool.false_eq_true, if_false, Bool.and_eq_true, Bool.not_eq_true', decide_eq_true_eq, beq_iff_eq, and_assoc]

/-! ## A Sync received (R366, R372) -/

/-- The reference that a Sync names. -/
def refer (x : Nat) (gm off : BitVec 64) (s : State) :
    State := { s with as_ := { s.as_ with gm := gm, offset := off, slave := some x } }

/-- The reference of a Sync taken, another one than before given up. -/
def referred (x : Nat) (gm off : BitVec 64) (s : State) : State :=
  refer x gm off (if following s ∧ gm ≠ s.as_.gm then holdover s else s)

/-- The servo's part of a Sync. -/
def steered (off : Int) (s : State) : State :=
  match s.clock.state with
  | .grandmaster => s
  | .locking =>
    let u := servo { s with as_ := { s.as_ with good := if off.natAbs ≤ 100 then s.as_.good + 1 else 0 } }
    if 16 ≤ u.as_.good then setTime .locked u else u
  | .locked => servo s
  | _ =>
    if off.natAbs ≤ 10000 then servo (setTime .locking { s with as_ := { s.as_ with good := 0, rates := [] } })
    else if cfg s 0x3410 7 = 1 then servo (setTime .locking (clockStep (-off) { s with as_ := { s.as_ with good := 0, rates := [] } }))
    else timeNotice s

theorem takeSync_eq (x : Nat) (gm off : BitVec 64) : takeSync x gm off s = steered off.toInt (referred x gm off s) := rfl

theorem referred_same (x : Nat) (gm off : BitVec 64) (h : following s = false ∨ gm = s.as_.gm) :
    referred x gm off s = refer x gm off s := by
  have hn : ¬ (following s = true ∧ gm ≠ s.as_.gm) := by rintro ⟨hf, hn⟩; rcases h with h | h <;> simp_all
  unfold referred
  rw [if_neg hn]

theorem referred_as (x : Nat) (gm off : BitVec 64) : (referred x gm off s).as_.gm = gm ∧ (referred x gm off s).as_.offset = off ∧
    (referred x gm off s).as_.slave = some x := ⟨rfl, rfl, rfl⟩

theorem referred_state (x : Nat) (gm off : BitVec 64) (h : s.clock.state ≠ .grandmaster) :
    (referred x gm off s).clock.state ≠ .grandmaster := by
  unfold referred
  split
  · show (holdover s).clock.state ≠ _
    rw [(holdover_lost s).kept.1]
    nofun
  · exact h

end

/-- The reference that the state holds is kept. -/
def SameReference (s t : State) : Prop := t.as_.gm = s.as_.gm ∧ t.as_.offset = s.as_.offset ∧ t.as_.slave = s.as_.slave

section

variable (s : State)

/-- A change of the time state and the servo's turn after it. -/
theorem servo_setTime (st : TimeState) : let t := servo (setTime st s)
    SameReference s t ∧ t.clock.state = st ∧ t.as_.good = s.as_.good ∧ (rate t).natAbs ≤ maxRate := by
  have hn := setTime_notices s st
  have hrate := rate_servo (setTime st s)
  generalize setTime st s = u at hn hrate ⊢
  refine ⟨?_, ?_, ?_, hrate⟩
  · show SameReference s { u with as_ := _ }
    rw [hn.eq]
    exact ⟨rfl, rfl, rfl⟩
  · show u.clock.state = st
    rw [hn.eq]
  · show u.as_.good = _
    rw [hn.eq]

theorem steered_locking (off : Int) (h : s.clock.state = .locking) : steered off s =
    let u := servo { s with as_ := { s.as_ with good := if off.natAbs ≤ 100 then s.as_.good + 1 else 0 } }
    if 16 ≤ u.as_.good then setTime .locked u else u := by rw [steered, h]

theorem steered_locked (off : Int) (h : s.clock.state = .locked) : steered off s = servo s := by rw [steered, h]

theorem steered_lock (off : Int) (h : s.clock.state = .locking) (ho : off.natAbs ≤ 100) (hg : 15 ≤ s.as_.good) :
    let t := steered off s
    SameReference s t ∧ t.clock.state = .locked ∧ (rate t).natAbs ≤ maxRate := by
  have heq : steered off s = setTime .locked (servo { s with as_ := { s.as_ with good := s.as_.good + 1 } }) := by
    rw [steered_locking s off h, if_pos ho]
    exact if_pos (show 16 ≤ s.as_.good + 1 by omega)
  rw [heq]
  have hrate := rate_servo { s with as_ := { s.as_ with good := s.as_.good + 1 } }
  have hframe := servo_frame { s with as_ := { s.as_ with good := s.as_.good + 1 } }
  generalize servo { s with as_ := { s.as_ with good := s.as_.good + 1 } } = u at hrate hframe ⊢
  have hn := setTime_notices u .locked
  generalize setTime .locked u = t at hn ⊢
  refine ⟨?_, ?_, ?_⟩
  · rw [hn.eq, hframe]; exact ⟨rfl, rfl, rfl⟩
  · rw [hn.eq]
  · rw [rate_of_dict (s := u) (by rw [hn.eq])]; exact hrate

theorem steered_stays (off : Int) (h : s.clock.state = .locking) (hg : 100 < off.natAbs ∨ s.as_.good < 15) :
    let t := steered off s
    SameReference s t ∧ t.clock.state = .locking ∧ t.as_.good = (if off.natAbs ≤ 100 then s.as_.good + 1 else 0) ∧
    (rate t).natAbs ≤ maxRate := by
  have hlt : ¬ 16 ≤ if off.natAbs ≤ 100 then s.as_.good + 1 else 0 := by split <;> omega
  have heq := steered_locking s off h
  rw [heq]
  generalize (if off.natAbs ≤ 100 then s.as_.good + 1 else 0) = g at hlt ⊢
  show SameReference s (if 16 ≤ g then _ else _) ∧ (State.clock (if 16 ≤ g then _ else _)).state = _ ∧
    (State.as_ (if 16 ≤ g then _ else _)).good = _ ∧ (rate (if 16 ≤ g then _ else _)).natAbs ≤ _
  rw [if_neg hlt]
  exact ⟨⟨rfl, rfl, rfl⟩, h, rfl, rate_servo _⟩

/-- The states in which no grandmaster is followed. -/
def Unlocked (s : State) : Prop := s.clock.state = .freeRun ∨ s.clock.state = .holdover

theorem steered_unlocked (off : Int) (h : Unlocked s) : steered off s =
    if off.natAbs ≤ 10000 then servo (setTime .locking { s with as_ := { s.as_ with good := 0, rates := [] } })
    else if cfg s 0x3410 7 = 1 then servo (setTime .locking (clockStep (-off) { s with as_ := { s.as_ with good := 0, rates := [] } }))
    else timeNotice s := by
  rcases h with h | h <;> rw [steered, h]

theorem steered_starts (off : Int) (h : Unlocked s) (hs : off.natAbs ≤ 10000 ∨ cfg s 0x3410 7 = 1) :
    let t := steered off s
    SameReference s t ∧ t.clock.state = .locking ∧ t.as_.good = 0 ∧ (rate t).natAbs ≤ maxRate := by
  rw [steered_unlocked s off h]
  by_cases hoff : off.natAbs ≤ 10000
  · rw [if_pos hoff]
    exact servo_setTime { s with as_ := { s.as_ with good := 0, rates := [] } } .locking
  · rw [if_neg hoff, if_pos (hs.resolve_left hoff)]
    have hkept := (clockStep_kept { s with as_ := { s.as_ with good := 0, rates := [] } } (-off)).1
    generalize clockStep (-off) { s with as_ := { s.as_ with good := 0, rates := [] } } = u at hkept ⊢
    obtain ⟨href, hstate, hgood, hrate⟩ := servo_setTime u .locking
    refine ⟨?_, hstate, by rw [hgood, hkept], hrate⟩
    obtain ⟨hgm, hoffset, hslave⟩ := href
    exact ⟨by rw [hgm, hkept], by rw [hoffset, hkept], by rw [hslave, hkept]⟩

theorem steered_waits (off : Int) (h : Unlocked s) (hoff : 10000 < off.natAbs) (hc : cfg s 0x3410 7 ≠ 1) :
    SameReference s (steered off s) ∧ (steered off s).clock = s.clock := by
  rw [steered_unlocked s off h, if_neg (by omega), if_neg hc]
  have hn : Notices s (timeNotice s) := notifySubs_notices _ _ _
  generalize timeNotice s = t at hn ⊢
  rw [hn.eq]
  exact ⟨⟨rfl, rfl, rfl⟩, rfl⟩

/-- A Sync that is taken leaves the reference and, where the clock follows it, a RATE of its range. -/
theorem steered_rate (off : Int) (h : s.clock.state ≠ .grandmaster) :
    SameReference s (steered off s) ∧ (following (steered off s) = true → (rate (steered off s)).natAbs ≤ maxRate) := by
  have hcases : s.clock.state = .locking ∨ s.clock.state = .locked ∨ Unlocked s := by
    unfold Unlocked
    cases hst : s.clock.state <;> simp_all
  rcases hcases with hl | hl | hu
  · by_cases hg : off.natAbs ≤ 100 ∧ 15 ≤ s.as_.good
    · obtain ⟨href, -, hrate⟩ := steered_lock s off hl hg.1 hg.2
      exact ⟨href, fun _ => hrate⟩
    · obtain ⟨href, -, -, hrate⟩ := steered_stays s off hl (by omega)
      exact ⟨href, fun _ => hrate⟩
  · rw [steered_locked s off hl]
    exact ⟨⟨rfl, rfl, rfl⟩, fun _ => rate_servo s⟩
  · by_cases hs : off.natAbs ≤ 10000 ∨ cfg s 0x3410 7 = 1
    · obtain ⟨href, -, -, hrate⟩ := steered_starts s off hu hs
      exact ⟨href, fun _ => hrate⟩
    · obtain ⟨hoff, hc⟩ := not_or.mp hs
      obtain ⟨href, hclock⟩ := steered_waits s off hu (by omega) hc
      refine ⟨href, fun hf => ?_⟩
      rw [following, hclock] at hf
      rcases hu with hu | hu <;> rw [hu] at hf <;> exact absurd hf (by decide)

end

section

variable (s : State) (x : Fin 4) (gm off : BitVec 64)

theorem syncReceived_refused (h : s.clock.state = .grandmaster ∨ maySlave s x.val = false) :
    exec (.syncReceived ⟨x, gm⟩ off) s = .next s := by
  have hn : ¬ (maySlave s x.val = true ∧ s.clock.state ≠ .grandmaster) := by
    rintro ⟨hm, hs⟩
    rcases h with h | h
    · exact hs h
    · rw [h] at hm; exact absurd hm nofun
  exact congrArg Host.Outcome.next (if_neg hn)

theorem syncReceived_takes (hs : s.clock.state ≠ .grandmaster) (hm : maySlave s x.val = true) :
    exec (.syncReceived ⟨x, gm⟩ off) s = .next (steered off.toInt (referred x.val gm off s)) :=
  congrArg Host.Outcome.next (if_pos ⟨hm, hs⟩)

theorem unlocked_of_not_following (hs : s.clock.state ≠ .grandmaster) (hf : following s = false) : Unlocked s := by
  unfold Unlocked
  cases hst : s.clock.state <;> simp_all [following]

theorem syncReceived_steers (hs : s.clock.state ≠ .grandmaster) (hm : maySlave s x.val = true) :
    ∃ t, exec (.syncReceived ⟨x, gm⟩ off) s = .next t ∧
      t.as_.gm = gm ∧ t.as_.offset = off ∧ t.as_.slave = some x.val ∧
      (s.clock.state = .locking → gm = s.as_.gm → off.toInt.natAbs ≤ 100 →
        (15 ≤ s.as_.good → t.clock.state = .locked) ∧ (s.as_.good < 15 → t.clock.state = .locking ∧ t.as_.good = s.as_.good + 1)) ∧
      (s.clock.state = .locking → gm = s.as_.gm → 100 < off.toInt.natAbs → t.as_.good = 0 ∧ t.clock.state = .locking) ∧
      (s.clock.state = .locked → gm = s.as_.gm → t.clock.state = .locked) ∧
      (following s = false → off.toInt.natAbs ≤ 10000 ∨ cfg s 0x3410 7 = 1 → t.clock.state = .locking ∧ t.as_.good = 0) ∧
      (following s = false → 10000 < off.toInt.natAbs → cfg s 0x3410 7 ≠ 1 → t.clock = s.clock) ∧
      (following t = true → (rate t).natAbs ≤ maxRate) := by
  refine ⟨_, syncReceived_takes s x gm off hs hm, ?_⟩
  obtain ⟨⟨hgm, hoff, hslave⟩, hrate⟩ := steered_rate (referred x.val gm off s) off.toInt (referred_state s x.val gm off hs)
  refine ⟨hgm, hoff, hslave, fun hl hg ho => ⟨fun hgood => ?_, fun hgood => ?_⟩, fun hl hg ho => ?_, fun hl hg => ?_,
    fun hf ho => ?_, fun hf ho hc => ?_, hrate⟩
  · rw [referred_same s x.val gm off (.inr hg)]
    exact (steered_lock (refer x.val gm off s) off.toInt hl ho hgood).2.1
  · rw [referred_same s x.val gm off (.inr hg)]
    obtain ⟨-, hstate, hcount, -⟩ := steered_stays (refer x.val gm off s) off.toInt hl
      (.inr hgood)
    exact ⟨hstate, by rw [hcount, if_pos ho]; rfl⟩
  · rw [referred_same s x.val gm off (.inr hg)]
    obtain ⟨-, hstate, hcount, -⟩ := steered_stays (refer x.val gm off s) off.toInt hl
      (.inl ho)
    exact ⟨by rw [hcount, if_neg (by omega)], hstate⟩
  · rw [referred_same s x.val gm off (.inr hg), steered_locked (refer x.val gm off s) off.toInt hl]
    exact hl
  · rw [referred_same s x.val gm off (.inl hf)]
    obtain ⟨-, hstate, hgood, -⟩ := steered_starts (refer x.val gm off s) off.toInt
      (unlocked_of_not_following s hs hf) ho
    exact ⟨hstate, hgood⟩
  · rw [referred_same s x.val gm off (.inl hf)]
    exact (steered_waits (refer x.val gm off s) off.toInt
      (unlocked_of_not_following s hs hf) ho hc).2

end

section

variable (s : State)

theorem clockSlewEnd_ends : let n := (s.clock.slewLeft.natAbs + slewRate.toNat - 1) / slewRate.toNat
    exec .clockSlewEnd s = .next { s with clock := { (aoTicks n s).clock with slewLeft := 0 } } := by
  have hframe : ∀ n, aoTicks n s = { s with clock := (aoTicks n s).clock } := fun _ => rfl
  intro n
  have hexec : exec .clockSlewEnd s = .next { aoTicks n s with clock := { (aoTicks n s).clock with slewLeft := 0 } } := rfl
  rw [hexec, hframe n]

/-- Three intervals without a Sync (R372). -/
theorem syncTimeout_holds (hr : s.as_.running = true) (hf : following s = true) : ∃ t, exec .syncTimeout s = .next t ∧
    t.clock.state = .holdover ∧ now t = now s ∧ t.events.getLsbD 3 = true ∧ counter t 0x741b 5 = counter s 0x741b 5 + 1 := by
  have hexec : ∃ u : State, u.clock = s.clock ∧ u.counters = s.counters ∧ exec .syncTimeout s = .next (holdover u) := by
    cases hs : s.as_.slave with
    | none => exact ⟨s, rfl, rfl, congrArg Host.Outcome.next ((if_pos ⟨hr, hf⟩).trans (by rw [hs]))⟩
    | some x => exact ⟨forgetAnnounce x s, rfl, rfl, congrArg Host.Outcome.next ((if_pos ⟨hr, hf⟩).trans (by rw [hs]))⟩
  obtain ⟨u, hclock, hcount, hexec⟩ := hexec
  have hl := holdover_lost u
  obtain ⟨hc, -, -, -⟩ := hl.kept
  refine ⟨_, hexec, by rw [hc], ?_, hl.event, ?_⟩
  · rw [now, hc, hclock]; rfl
  · rw [hl.counter, counter, hcount]; rfl

theorem syncTimeout_kept (hf : following s = false) : exec .syncTimeout s = .next s :=
  congrArg Host.Outcome.next (if_neg (by simp [hf]))

theorem gmSelected_takes (self : Bool) (gm : BitVec 64) (x : Fin 4) (hr : s.as_.running = true) (hb : s.boot.state = .ready)
    (hm : maySelect s self gm x.val = true) : exec (.gmSelected self ⟨x, gm⟩) s = .next (selectGm self gm x.val s) :=
  congrArg Host.Outcome.next (if_pos ⟨hr, hb, hm⟩)

theorem gmSelected_self (gm : BitVec 64) (x : Fin 4) (hr : s.as_.running = true) (hb : s.boot.state = .ready)
    (hm : maySelect s true gm x.val = true) : ∃ t, exec (.gmSelected true ⟨x, gm⟩) s = .next t ∧ t.clock.state = .grandmaster ∧
      t.as_.gm = gm ∧ t.as_.slave = none ∧ now t = now s := by
  obtain ⟨t, heq, h⟩ := selectGm_self s gm x.val
  exact ⟨t, (gmSelected_takes s true gm x hr hb hm).trans (by rw [heq]), h⟩

theorem gmSelected_other (gm : BitVec 64) (x : Fin 4) (hr : s.as_.running = true) (hb : s.boot.state = .ready)
    (hm : maySelect s false gm x.val = true) : ∃ t, exec (.gmSelected false ⟨x, gm⟩) s = .next t ∧ t.as_.gm = gm ∧
      t.as_.slave = some x.val ∧ (following s = false → t.dict = s.dict) ∧
      (s.clock.state = .grandmaster ∨ (following s = true ∧ gm ≠ s.as_.gm) → t.clock.state = .holdover) ∧
      (s.clock.state ≠ .grandmaster → following s = false ∨ gm = s.as_.gm → t.clock = s.clock) := by
  refine ⟨_, gmSelected_takes s false gm x hr hb hm, ?_⟩
  rw [selectGm_other]
  refine ⟨rfl, rfl, fun hf => reselected_dict s gm hf, fun h => ?_, fun hg h => ?_⟩
  · show (reselected false gm s).clock.state = _
    rw [reselected_lost s gm h, (holdover_lost s).kept.1]
  · show (reselected false gm s).clock = _
    rw [reselected_same s gm hg h]

theorem gmSelected_refused (self : Bool) (gm : BitVec 64) (x : Fin 4) (hm : maySelect s self gm x.val = false) :
    exec (.gmSelected self ⟨x, gm⟩) s = .next s := congrArg Host.Outcome.next (if_neg (by simp [hm]))

/-! ## Messages of 802.1AS (R370) -/

theorem takeTime_answers (x : Fin 4) (b : Bytes) (ha : asPort s x.val = true) (hb : nth 0 b 4 = 0)
    (ht : (nth 0 b 0).toNat % 16 = 2) (hr : cfg s 0x3410 1 ≠ 2 ∨ asRole s x.val ≠ 0) :
    takeTime x b s = sendT1 x.val ⟨3, .ptp x .pdelayAnswer, wireLen [] 54⟩ s := by
  unfold takeTime
  rw [if_neg (by rintro (h | h) <;> simp_all), ht]
  exact if_neg (by rintro ⟨h₁, h₂⟩; rcases hr with h | h <;> contradiction)

theorem syncTransmit_sends (x : Fin 4) (h : isMasterPort s x.val = true) : exec (.syncTransmit x) s =
    let t := sendT1 x.val ⟨3, .ptp x (.sync (now s)), wireLen [] 76⟩ s
    .next (if s.clock.state = .grandmaster then
      sendT1 x.val ⟨3, .ptp x (.announce (cfg s 0x3410 3) 248 0xfe (cfg s 0x3410 4)), wireLen [] 76⟩ t else t) := by
  have hsent := (sendT1_flushes s x.val ⟨3, .ptp x (.sync (now s)), wireLen [] 76⟩).eq
  have hexec : exec (.syncTransmit x) s =
      let t := sendT1 x.val ⟨3, .ptp x (.sync (now s)), wireLen [] 76⟩ s
      .next (if t.clock.state = .grandmaster then sendPtp x (announceMsg t) 76 t else t) := congrArg Host.Outcome.next (if_pos h)
  rw [hexec]
  generalize sendT1 x.val ⟨3, .ptp x (.sync (now s)), wireLen [] 76⟩ s = t at hsent ⊢
  have hmsg : announceMsg t = announceMsg s := by rw [hsent]; rfl
  have hstate : t.clock.state = s.clock.state := by rw [hsent]
  have hsend : ∀ u : State, sendPtp x (announceMsg s) 76 u =
      sendT1 x.val ⟨3, .ptp x (.announce (cfg s 0x3410 3) 248 0xfe (cfg s 0x3410 4)), wireLen [] 76⟩ u := fun _ => rfl
  simp only [hstate, hmsg, hsend]

theorem pdelayExchange_sends (x : Fin 4) (d : Nat) (ha : asPort s x.val = true) (hr : asRole s x.val ≠ 0 ∨ cfg s 0x3410 1 ≠ 2) :
    exec (.pdelayExchange x d) s =
      .next (sendT1 x.val ⟨3, .ptp x .pdelay, wireLen [] 54⟩ { s with as_ := { s.as_ with pdelay := tblPut s.as_.pdelay x.val d } }) :=
  congrArg Host.Outcome.next (if_pos ⟨ha, fun h => hr.resolve_right (not_not_intro h)⟩)

end

/-- Settles O53: each command of the clock and of 802.1AS by the step of the time base that it takes. -/
theorem timeBase : Obligations.TimeBase := by
  unfold Obligations.TimeBase
  refine ⟨fun s k h => ⟨fun d ho => ⟨clockAdjust_slews s k d h ho, clockAdjust_step s k d h ho⟩, asStart_completes s k h,
    asStop_completes s k h⟩, fun s => ⟨clockSlewEnd_ends s, fun hr => ⟨syncTimeout_holds s hr, syncTimeout_kept s, fun x gm => ⟨gmSelected_self s gm x hr,
    gmSelected_other s gm x hr, fun hc y v => maySelect_heard s gm x.val y v hc, fun self => gmSelected_refused s self gm x⟩,
    fun x gm off => ⟨syncReceived_refused s x gm off, syncReceived_steers s x gm off⟩⟩⟩, fun s x => ⟨takeTime_answers s x,
    syncTransmit_sends s x, fun ha hr d => pdelayExchange_sends s x d ha hr⟩⟩

end Sys2Proof.Machine

end

section
/-!
PROOF. PPS, event timers and T1 ports (R374-R381).
-/

namespace Sys2Proof.Machine

open Claims

/-! ## PPS (R374, R376) -/

section

variable (s : State)

theorem ppsInEdge_captures (n : Nat) (hc : cfg s 0x3420 3 = 1) (hoff : s.boot.state ≠ .off) (hheld : s.boot.state ≠ .held)
    (hn : n + 12 < 2 ^ 64) : ∃ t, exec (.ppsInEdge n) s = .next t ∧ t.clock = (clockTo n s).clock ∧
      t.pps.inCount = s.pps.inCount + 1 ∧ n ≤ t.pps.inCapture.toNat + 12 ∧ t.pps.inCapture.toNat ≤ n + 12 ∧
      counter t 0x741b 8 = counter s 0x741b 8 + 1 := by
  have hexec : exec (.ppsInEdge n) s = execPpsInEdge n s := rfl
  rw [hexec]
  unfold execPpsInEdge
  rw [if_pos ⟨hc, hoff, hheld⟩]
  simp only [freshNat]
  generalize Config.freeNat (clockTo n s).freeCtr = f
  have hcap : (BitVec.ofNat 64 (n + f % 25 - 12)).toNat = n + f % 25 - 12 := by
    rw [BitVec.toNat_ofNat]
    omega
  refine ⟨_, rfl, ?_⟩
  have hclock : (clockTo n s).counters = s.counters := clockTo_counters s n
  have hpps : (clockTo n s).pps = s.pps := clockTo_pps s n
  generalize clockTo n s = v at hclock hpps ⊢
  have hnotes := notifySubs_notices (count 0x741b 8 1 { v with
    freeCtr := v.freeCtr + 1, pps := { v.pps with inCapture := BitVec.ofNat 64 (n + f % 25 - 12), inCount := v.pps.inCount + 1 } }) 0x31
    (leBytes 8 (BitVec.ofNat 64 (n + f % 25 - 12)).toNat)
  generalize notifySubs 0x31 _ _ = t at hnotes ⊢
  have hcount : counter t 0x741b 8 = counter s 0x741b 8 + 1 := by
    rw [counter, hnotes.counters _ (by decide)]
    exact (counter_count_same _ _ _).trans (by rw [counter, counter, ← hclock])
  rw [hnotes.eq]
  refine ⟨rfl, ?_, ?_, ?_, ?_⟩
  · show v.pps.inCount + 1 = _
    rw [hpps]
  · show n ≤ (BitVec.ofNat 64 _).toNat + 12
    omega
  · show (BitVec.ofNat 64 _).toNat ≤ n + 12
    omega
  · rw [← hcount]
    rfl

theorem ppsEnable_passes (k : Nat) (c : BitVec 8) (hc : c = 0 ∨ c = 1) (h : HostMay k 9 s) : WritePasses s k 0x3420 1 [c] := by
  have hfam : famBase 0x3420 = (0x3420, 0) := by decide
  refine ⟨.bool, .rw, 0, by decide, by decide, ?_, ?_, by rcases hc with rfl | rfl <;> rfl, ?_, nofun, fun _ => ?_⟩
  · simpa [writeRight, hfam] using h.2
  · simp [notOwner, hfam]
  · simp [reservedOk, valueMask, zeroFields, recordHeader, hfam, sel, tblGet]
  · simp [rangeOk, rangeLow, rangeHigh, hfam, sel, tblGet]

theorem writeEffect_ppsEnable (k : Nat) (c : BitVec 8) : writeEffect k 0x3420 1 [c] s = ppsEnable c.toNat s := by
  have hfam : famBase 0x3420 = (0x3420, 0) := by decide
  have hv : leNat [c] = c.toNat := by simp [leNat]
  unfold writeEffect
  simp only [hfam]
  show ppsEnable (leNat [c]) s = _
  rw [hv]

/-- The PPS output given up. -/
def ppsReleased (s : State) : State :=
  { setCfg 0x3420 1 [0] s with pps := { s.pps with owner := if s.pps.owner = some .enable then none else s.pps.owner } }

/-- The PPS output taken by the host. -/
def ppsTaken (s : State) : State := { setCfg 0x3420 1 [1] s with pps := { s.pps with owner := some .enable } }

theorem ppsEnable_releases (k : Fin 64) (h : HostMay k.val 9 s) : Completes (.ppsEnableWrite k 0) k.val [] (ppsReleased s) s :=
  ⟨_, rfl, hostWrite_effect s k.val _ 1 [0] [] ppsReleased h.1 (ppsEnable_passes s k.val 0 (.inl rfl) h) (fun _ _ _ => rfl)
    (writeEffect_ppsEnable _ k.val 0)⟩

theorem ppsEnable_one (h : ∀ i, s.pps.owner ≠ some (.timer i)) : ppsEnable 1 s = .done [] (ppsTaken s) := by
  show (match s.pps.owner with | some (.timer _) => _ | _ => _) = _
  cases ho : s.pps.owner with
  | none => rfl
  | some o =>
    cases o with
    | enable => rfl
    | timer i => exact absurd ho (h i)

theorem ppsEnable_takes (k : Fin 64) (h : HostMay k.val 9 s) (ho : ∀ i, s.pps.owner ≠ some (.timer i)) :
    Completes (.ppsEnableWrite k 1) k.val [] (ppsTaken s) s :=
  ⟨_, rfl, hostWrite_effect s k.val _ 1 [1] [] ppsTaken h.1 (ppsEnable_passes s k.val 1 (.inr rfl) h) (fun _ _ _ => rfl)
    ((writeEffect_ppsEnable _ k.val 1).trans (ppsEnable_one (taken k.val s) (by rw [taken_eq]; exact ho)))⟩

/-! ## Event timers (R375) -/

theorem timerControl_passes (k : Nat) (i : Fin 8) (c : BitVec 8) (h : HostMay k 9 s) :
    WritePasses s k (0x3428 + i.val) 5 [c] := by
  have hdef : objDef (0x3428 + i.val) 5 = some (.u8, .rw, 0) := by revert i; decide
  have hi := i.isLt
  refine ⟨.u8, .rw, 0, hdef, by decide, ?_, ?_, by simp [typeOk, otyLen], ?_, nofun, fun _ => ?_⟩
  · have hr : writeRight k (0x3428 + i.val) 5 [c] = 9 := by
      simp only [writeRight, famBase_timer]
      rw [if_neg (by omega), if_neg (by omega)]
      exact if_pos (.inr (.inr (.inr trivial)))
    rw [hr]
    exact h.2
  · simp [notOwner, famBase_timer]
  · simp [reservedOk, valueMask, zeroFields, recordHeader, famBase_timer, sel, tblGet]
  · simp [rangeOk, rangeLow, famBase_timer, sel, tblGet]

theorem writeEffect_timerControl (k : Nat) (i : Fin 8) (c : BitVec 8) :
    writeEffect k (0x3428 + i.val) 5 [c] s = timerControl i.val c.toNat s := by
  have hv : leNat [c] = c.toNat := by simp [leNat]
  unfold writeEffect
  simp only [famBase_timer]
  show timerControl i.val (leNat [c]) s = _
  rw [hv]

/-- A control of a timer that keeps the books. -/
theorem timerControl_did (k : Fin 64) (i : Fin 8) (c : BitVec 8) (f : State → State) (h : HostMay k.val 9 s) (hf : KeepsBooks f s)
    (he : timerControl i.val c.toNat (taken k.val s) = .done [] (f (taken k.val s))) :
    Did k.val {} (f s) s (hostWrite k.val (0x3428 + i.val) 5 [c] s) :=
  hostWrite_effect s k.val _ 5 [c] [] f h.1 (timerControl_passes s k.val i c h) hf ((writeEffect_timerControl _ k.val i c).trans he)

/-- A timer that runs from now on. -/
def timerStarted (i : Nat) (s : State) : State := timerSet i ⟨true, firstFiring s i⟩ s

/-- A timer that runs from now on and has the PPS output. -/
def timerStartedPps (i : Nat) (s : State) : State :=
  timerSet i ⟨true, firstFiring s i⟩ { s with pps := { s.pps with owner := some (.timer i) } }

theorem timerStart_plain (k : Fin 64) (i : Fin 8) (h : HostMay k.val 9 s) (hr : (timerOf s i.val).running = false)
    (hm : timerCfg s i.val 3 ≠ 2) : Completes (.timerStart k i) k.val [] (timerStarted i.val s) s := by
  refine ⟨_, rfl, timerControl_did s k i 1 (timerStarted i.val) h (fun _ _ _ => rfl) ?_⟩
  have hr' : ¬ (timerOf (taken k.val s) i.val).running = true := by rw [taken_eq]; exact Bool.eq_false_iff.mp hr
  have hm' : ¬ timerCfg (taken k.val s) i.val 3 = 2 := by rw [taken_eq]; exact hm
  show (if _ then _ else if _ then _ else _) = _
  rw [if_neg hr', if_neg hm']
  rfl

theorem timerStart_pps (k : Fin 64) (i : Fin 8) (h : HostMay k.val 9 s) (hr : (timerOf s i.val).running = false)
    (hm : timerCfg s i.val 3 = 2) (ho : s.pps.owner = none) : Completes (.timerStart k i) k.val [] (timerStartedPps i.val s) s := by
  refine ⟨_, rfl, timerControl_did s k i 1 (timerStartedPps i.val) h (fun _ _ _ => rfl) ?_⟩
  have hr' : ¬ (timerOf (taken k.val s) i.val).running = true := by rw [taken_eq]; exact Bool.eq_false_iff.mp hr
  have hm' : timerCfg (taken k.val s) i.val 3 = 2 := by rw [taken_eq]; exact hm
  have ho' : (taken k.val s).pps.owner = none := by rw [taken_eq]; exact ho
  show (if _ then _ else if _ then (if _ then _ else _) else _) = _
  rw [if_neg hr', if_pos hm', if_pos ho']
  rfl

/-- A timer stopped, the PPS output free where it had it. -/
def timerStopped (i : Nat) (s : State) : State :=
  timerSet i {} { s with pps := { s.pps with owner := if s.pps.owner = some (.timer i) then none else s.pps.owner } }

theorem timerStop_stops (k : Fin 64) (i : Fin 8) (h : HostMay k.val 9 s) :
    Completes (.timerStop k i) k.val [] (timerStopped i.val s) s :=
  ⟨_, rfl, timerControl_did s k i 2 (timerStopped i.val) h (fun _ _ _ => rfl) rfl⟩

/-- What a firing does by the timer's mode. -/
def timerFires (i t : Nat) (s : State) : State :=
  match timerCfg s i 3 with
  | 0 => raiseEvent none (timerCfg s i 4) s
  | 1 => notifySubs 0x32 (leBytes 1 i ++ zeros 7 ++ leBytes 8 t) s
  | _ => ppsPulse s

theorem timerFires_kept (i t : Nat) : (timerFires i t s).timers = s.timers ∧ (timerFires i t s).clock = s.clock := by
  unfold timerFires
  split
  next =>
    have h := (raiseEvent_told s none (timerCfg s i 4)).eq
    generalize raiseEvent none (timerCfg s i 4) s = u at h ⊢
    rw [h]
    exact ⟨rfl, rfl⟩
  next =>
    have h := (notifySubs_notices s 0x32 (leBytes 1 i ++ zeros 7 ++ leBytes 8 t)).eq
    generalize notifySubs 0x32 (leBytes 1 i ++ zeros 7 ++ leBytes 8 t) s = u at h ⊢
    rw [h]
    exact ⟨rfl, rfl⟩
  next => exact ⟨rfl, rfl⟩

theorem timerFires_raises (i t : Nat) (hm : timerCfg s i 3 = 0) (hw : eventWaiters s none (timerCfg s i 4) = []) :
    ⟨timerCfg s i 4, none⟩ ∈ (timerFires i t s).raised := by
  unfold timerFires
  rw [hm]
  exact mem_raised_raiseEvent s none _ hw

theorem timerFires_pulses (i t : Nat) (hm : timerCfg s i 3 = 2) : timerFires i t s = ppsPulse s := by
  unfold timerFires
  simp only [hm]

theorem timerFire_fires (i : Fin 8) (hr : (timerOf s i.val).running = true) (hb : s.boot.state = .ready) :
    let n := (timerOf s i.val).next
    ∃ t, exec (.timerFire i) s = .next t ∧ timerOf t i.val = ⟨true, n + 1⟩ ∧ t.clock = (clockTo (firing s i.val n) s).clock ∧
      (timerCfg s i.val 3 = 0 → eventWaiters s none (timerCfg s i.val 4) = [] → ⟨timerCfg s i.val 4, none⟩ ∈ t.raised) ∧
      (timerCfg s i.val 3 = 2 → t.pps.fallsAt = now t + 1000 * cfg s 0x3420 2) := by
  intro n
  have hexec : exec (.timerFire i) s = .next (timerFires i.val (firing s i.val n)
      (timerSet i.val ⟨true, n + 1⟩ (clockTo (firing s i.val n) s))) := by
    have hunfold : exec (.timerFire i) s = execTimerFire i s := rfl
    rw [hunfold]
    unfold execTimerFire
    simp only
    rw [if_pos ⟨hr, hb⟩]
    unfold timerFires
    rfl
  refine ⟨_, hexec, ?_⟩
  generalize firing s i.val n = a
  have hclock := clockTo_eq a s
  have hset : timerOf (timerSet i.val ⟨true, n + 1⟩ (clockTo a s)) i.val = ⟨true, n + 1⟩ :=
    (tblGet_set {} (clockTo a s).timers i.val ⟨true, n + 1⟩ i.val).trans (if_pos rfl)
  have hcfg : ∀ j, timerCfg (timerSet i.val ⟨true,
    n + 1⟩ (clockTo a s)) i.val j = timerCfg s i.val j := fun j => by rw [hclock]; rfl
  have hwait : ∀ e, eventWaiters (timerSet i.val ⟨true, n + 1⟩ (clockTo a s)) none e = eventWaiters s none e := fun e => by
    rw [hclock]; rfl
  have hpps : ∀ j, cfg (timerSet i.val ⟨true, n + 1⟩ (clockTo a s)) 0x3420 j = cfg s 0x3420 j := fun j => by rw [hclock]; rfl
  have hsame : (timerSet i.val ⟨true, n + 1⟩ (clockTo a s)).clock = (clockTo a s).clock := rfl
  generalize timerSet i.val ⟨true, n + 1⟩ (clockTo a s) = u at hset hcfg hwait hpps hsame ⊢
  obtain ⟨htimers, hkept⟩ := timerFires_kept u i.val a
  refine ⟨?_, hkept.trans hsame, fun hm hw => ?_, fun hm => ?_⟩
  · rw [timerOf, htimers]; exact hset
  · have hmem := timerFires_raises u i.val a (by rw [hcfg, hm]) (by rw [hcfg, hwait, hw])
    rwa [hcfg] at hmem
  · rw [timerFires_pulses u i.val a (by rw [hcfg, hm]), ← hpps]
    rfl

end

/-! ## T1 ports: the host's commands (R378, R381) -/

section

variable (s : State)

theorem t1Write_passes (k : Nat) (x : Fin 4) (j : Nat) (b : Bytes) {ty : OTy} {acc : OAcc} {df : Nat} (h : HostMay k 1 s)
    (hdef : objDef (0x3430 + x.val) j = some (ty, acc, df)) (hacc : acc ≠ .ro) (ht : typeOk s 0x3430 j ty b = true)
    (hj : j = 7 ∨ j = 9 ∨ j = 11) (hrun : acc = .rws → (t1Of s x.val).running = false)
    (hrange : otyVar ty = false → rangeOk s 0x3430 x.val j (leNat b) = true) : WritePasses s k (0x3430 + x.val) j b := by
  have hx := x.isLt
  refine ⟨ty, acc, df, hdef, hacc, ?_, ?_, ?_, ?_, fun ha => ?_, fun hv => ?_⟩
  · have hr : writeRight k (0x3430 + x.val) j b = 1 := by
      simp only [writeRight, famBase_t1]
      rw [if_neg (by omega), if_neg (by omega), if_neg (by omega), if_neg (by omega), if_neg (by omega), if_neg (by omega),
        if_neg (by omega), if_neg (by omega), if_neg (by omega)]
    rw [hr]
    exact h.2
  · simp [notOwner, famBase_t1]
  · rwa [famBase_t1]
  · rcases hj with rfl | rfl | rfl <;> simp [reservedOk, valueMask, zeroFields, recordHeader, famBase_t1, sel, tblGet]
  · rw [famBase_t1]
    exact hrun ha
  · rw [famBase_t1]
    exact hrange hv

theorem t1Control_passes (k : Nat) (x : Fin 4) (c : BitVec 8) (h : HostMay k 1 s) :
    WritePasses s k (0x3430 + x.val) 0x0b [c] := by
  have hdef : objDef (0x3430 + x.val) 0x0b = some (.u8, .rw, 1) := by revert x; decide
  exact t1Write_passes s k x 0x0b [c] h hdef (by decide) (by simp [typeOk, otyLen]) (.inr (.inr rfl)) nofun
    fun _ => by simp [rangeOk, rangeLow, sel, tblGet]

theorem writeEffect_t1Control (k : Nat) (x : Fin 4) (c : BitVec 8) :
    writeEffect k (0x3430 + x.val) 0x0b [c] s = t1Control x.val c.toNat s := by
  have hv : leNat [c] = c.toNat := by simp [leNat]
  unfold writeEffect
  simp only [famBase_t1]
  show t1Control x.val (leNat [c]) s = _
  rw [hv]

@[simp] theorem t1Of_taken (k x : Nat) : t1Of (taken k s) x = t1Of s x := by rw [taken_eq]; rfl

theorem t1PortStart_trains (k : Fin 64) (x : Fin 4) (h : HostMay k.val 1 s) (hr : (t1Of s x.val).running = false)
    (hret : (t1Of s x.val).retired = false) :
    Completes (.t1PortStart k x) k.val [] (t1mod x.val (fun p => { p with running := true, link := 1 }) s) s := by
  refine ⟨_, rfl, hostWrite_effect s k.val _ _ [1] [] (t1mod x.val (fun p => { p with running := true, link := 1 })) h.1
    (t1Control_passes s k.val x 1 h) (fun _ _ _ => rfl) ?_⟩
  rw [writeEffect_t1Control]
  exact congrArg (WRes.done []) (if_neg (by simp [hr, hret]))

theorem timedWrite_sets (k : Fin 64) (x : Fin 4) (v : BitVec 8) (h : HostMay k.val 1 s) (hr : (t1Of s x.val).running = false)
    (hv : v = 0 ∨ (v = 1 ∧ groupsOn s x.val = [])) :
    Completes (.timedWrite k x v) k.val [] (setCfg (0x3430 + x.val) 7 [v] s) s := by
  have hdefs : ∀ y : Fin 4, objDef (0x3430 + y.val) 7 = some (.bool, .rws, 0) := by decide
  have htype : typeOk s 0x3430 7 .bool [v] = true := by rcases hv with rfl | ⟨rfl, -⟩ <;> rfl
  refine ⟨_, rfl, hostWrite_effect s k.val _ _ [v] [] (setCfg (0x3430 + x.val) 7 [v]) h.1 (t1Write_passes s k.val x 7 [v] h (hdefs x)
    (by decide) htype (.inl rfl) (fun _ => hr) (fun _ => ?_)) (fun _ _ _ => rfl) ?_⟩
  · simp [rangeOk, rangeLow, sel, tblGet]
  · have hgroups : groupsOn (taken k.val s) x.val = groupsOn s x.val := by rw [taken_eq]; rfl
    have hlegal : ¬ ((7 : Nat) = 7 ∧ leNat [v] = 1 ∧ groupsOn (taken k.val s) x.val ≠ []) := by
      rintro ⟨-, hone, hne⟩
      rcases hv with rfl | ⟨-, hnone⟩
      · exact absurd hone (by decide)
      · exact hne (hgroups.trans hnone)
    unfold writeEffect
    simp only [famBase_t1]
    exact if_neg hlegal

/-! ## A launch offered to a port (R380, R381) -/

/-- The launch put into the port's queue, in its order. -/
def queueLaunch (x : Nat) (l : Launch) (s : State) : State :=
  t1mod x (fun p => { p with
    launch := p.launch.takeWhile (fun o => launchAhead o l) ++ [l] ++ p.launch.dropWhile (fun o => launchAhead o l) }) s

/-- The launch that a TIMED_FRAME names. -/
def hostLaunch (b : Bytes) (s : State) : Launch :=
  { stamp := extendStamp (now s) (BitVec.ofNat 32 (fieldAt b 0 4)), body := .host (b.drop 8) }

theorem timedFrame_passes (k : Nat) (x : Fin 4) (b : Bytes) (h : HostMay k 1 s) (h₁ : 68 ≤ b.length) (h₂ : b.length ≤ 1526) :
    WritePasses s k (0x3430 + x.val) 9 b := by
  have hdef : objDef (0x3430 + x.val) 9 = some (.blob 1526, .wo, 0) := by revert x; decide
  refine t1Write_passes s k x 9 b h hdef (by decide) ?_ (.inr (.inl rfl)) nofun nofun
  simp [typeOk, blobLenOk, sel, tblGet]
  omega

theorem writeEffect_timedFrame (k : Nat) (x : Fin 4) (b : Bytes) (hres : fieldAt b 4 4 = 0) (h₁ : 68 ≤ b.length) (h₂ : b.length ≤ 1526)
    (ht : cfg s (0x3430 + x.val) 7 ≠ 0) : writeEffect k (0x3430 + x.val) 9 b s = .done [] (offerLaunch x.val (hostLaunch b s) s) := by
  unfold writeEffect
  simp only [famBase_t1]
  show timedFrame x.val b s = _
  unfold timedFrame
  rw [if_neg (by omega), if_neg (not_not_intro hres), if_neg ht]
  rfl

theorem hostLaunch_taken (b : Bytes) (k : Nat) : hostLaunch b (taken k s) = hostLaunch b s := by rw [taken_eq]; rfl
@[simp] theorem t1Up_taken (k x : Nat) : t1Up (taken k s) x = t1Up s x := by rw [taken_eq]; rfl

theorem timedFrame_queued (k : Fin 64) (x : Fin 4) (b : Bytes) (h : HostMay k.val 1 s) (hres : fieldAt b 4 4 = 0) (h₁ : 68 ≤ b.length)
    (h₂ : b.length ≤ 1526) (ht : cfg s (0x3430 + x.val) 7 ≠ 0) (hup : t1Up s x.val = true) (hroom : (t1Of s x.val).launch.length < 16)
    (hsoon : (hostLaunch b s).stamp ≤ now s + 100000000) :
    Completes (.timedFrame k x b) k.val [] (queueLaunch x.val (hostLaunch b s) s) s := by
  refine ⟨_, rfl, hostWrite_effect s k.val _ _ b [] (queueLaunch x.val (hostLaunch b s)) h.1 (timedFrame_passes s k.val x b h h₁ h₂)
    (fun _ _ _ => rfl) ?_⟩
  rw [writeEffect_timedFrame (taken k.val s) k.val x b hres h₁ h₂ (by rw [taken_eq]; exact ht), hostLaunch_taken]
  refine congrArg (WRes.done []) (if_neg ?_)
  rw [t1Up_taken, t1Of_taken, hup, show now (taken k.val s) = now s by rw [taken_eq]; rfl]
  rintro (hf | hl | hl)
  · exact absurd hf (by decide)
  · omega
  · omega

theorem timedFrame_dropped (k : Fin 64) (x : Fin 4) (b : Bytes) (h : HostMay k.val 1 s) (hres : fieldAt b 4 4 = 0) (h₁ : 68 ≤ b.length)
    (h₂ : b.length ≤ 1526) (ht : cfg s (0x3430 + x.val) 7 ≠ 0)
    (hno : t1Up s x.val = false ∨ 16 ≤ (t1Of s x.val).launch.length ∨ now s + 100000000 < (hostLaunch b s).stamp) :
    Completes (.timedFrame k x b) k.val [] (count 0x741b 4 1 s) s := by
  refine ⟨_, rfl, hostWrite_fair s k.val _ _ b [] (count 0x741b 4 1) h.1 (timedFrame_passes s k.val x b h h₁ h₂)
    (.count 0x741b 4 1 (by decide)) ?_⟩
  rw [writeEffect_timedFrame (taken k.val s) k.val x b hres h₁ h₂ (by rw [taken_eq]; exact ht), hostLaunch_taken]
  refine congrArg (WRes.done []) (if_pos ?_)
  rw [t1Up_taken, t1Of_taken, show now (taken k.val s) = now s by rw [taken_eq]; rfl]
  exact hno.imp (fun hf => by rw [hf]; rfl) id

end

/-! ## Sessions of a port close (R469) -/

theorem sess_closed_any (y j : Nat) (s : State) :
    sess (closeSession y s) j = if j = y ∧ (sess s j).open_ = true then { gen := (sess s j).gen + 1 } else sess s j := by
  unfold closeSession
  split
  next h =>
    rw [sess_smod, sess_dropUpdate, sess_dropUpdate]
    by_cases hj : j = y
    · subst hj; rw [if_pos rfl, if_pos ⟨rfl, h⟩]
    · rw [if_neg hj, if_neg fun hc => hj hc.1]
  next h =>
    rw [if_neg]
    rintro ⟨rfl, ho⟩
    exact h ho

theorem sess_closeAll (l : List Nat) (j : Nat) (s : State) : sess (forEach l closeSession s) j =
    if j ∈ l ∧ (sess s j).open_ = true then { gen := (sess s j).gen + 1 } else sess s j := by
  induction l generalizing s with
  | nil => simp [forEach]
  | cons y l ih =>
    show sess (forEach l closeSession (closeSession y s)) j = _
    rw [ih, sess_closed_any]
    by_cases hy : j = y ∧ (sess s j).open_ = true
    · rw [if_pos hy, if_neg (by rintro ⟨-, hc⟩; exact absurd hc nofun), if_pos ⟨by simp [hy.1], hy.2⟩]
    · rw [if_neg hy]
      refine if_congr ⟨fun h => ⟨List.mem_cons_of_mem _ h.1, h.2⟩, fun h => ⟨?_, h.2⟩⟩ rfl rfl
      exact (List.mem_cons.mp h.1).resolve_left fun hj => hy ⟨hj, h.2⟩

theorem closeAll_frame (l : List Nat) (s : State) : forEach l closeSession s = { s with
    sessions := (forEach l closeSession s).sessions, boot := (forEach l closeSession s).boot } :=
  forEach_rel (fun u v => v = { u with sessions := v.sessions, boot := v.boot }) (fun _ => rfl) (fun u v w h k => by rw [k, h])
    closeSession l (fun y _ u => by
      by_cases h : (sess u y).open_ = true
      · have heq := closeSession_eq u y h
        generalize closeSession y u = v at heq ⊢
        rw [heq]
      · rw [closeSession, if_neg h]) s

theorem mem_portSessions (s : State) (x : Nat) (j : Fin 64) :
    j.val ∈ portSessions s x ↔ (sess s j.val).open_ = true ∧ (sess s j.val).port.val = x := by
  have hj := j.isLt
  simp [portSessions, openSlots, and_comm]

/-- An answer goes out on its session's port; every other port is left. -/
theorem answer_port_other (s : State) (k : Nat) (r : Reply) (y : Nat) (h : y ≠ (sess s k).port.val) :
    t1Of (answer k r s) y = t1Of s y := by
  have hport : ∀ g : Session → Session, (∀ e, (g e).port = e.port) → (sess (smod k g s) k).port = (sess s k).port := fun g hg => by
    rw [sess_smod, if_pos rfl, hg]
  have hsend : ∀ (u : State) (x : Fin 4) (p f : Bytes), y ≠ x.val → t1Of (ixSend x p f u) y = t1Of u y := fun u x p f hx => by
    have hsent : ∀ fr : TxFrame, t1Of (sendT1 x.val fr u) y = t1Of u y := fun fr => by
      unfold sendT1
      split
      · rfl
      · rw [t1Of_flushT1, if_neg hx]
    exact hsent _
  unfold answer
  simp only
  have hreply : t1Of (reply k (ixFrame s k 5 (sess s k).last (stamp s) (responsePayload r)) (smod k (fun e =>
      { e with busy := false, cached := ixFrame s k 5 (sess s k).last (stamp s) (responsePayload r), reply := r }) s)) y = t1Of s y := by
    unfold reply
    refine (hsend _ _ _ _ ?_).trans rfl
    rw [hport]
    · exact h
    · exact fun _ => rfl
  split
  · exact hreply
  · exact hreply

/-! ## A port goes down (R378, R380) -/

section

variable (s : State)

/-- What a port's loss leaves of the time base. -/
theorem slaveDown_frame (x : Nat) : ∃ a, slaveDown x s = { s with
    freeCtr := (slaveDown x s).freeCtr, dict := (slaveDown x s).dict, counters := (slaveDown x s).counters
    events := (slaveDown x s).events, eventsAt := (slaveDown x s).eventsAt, eventsNew := (slaveDown x s).eventsNew
    sessions := (slaveDown x s).sessions, clock := (slaveDown x s).clock, as_ := a } := by
  unfold slaveDown
  split
  next =>
    obtain ⟨r, h⟩ := (holdover_lost s).eq
    generalize holdover s = u at h ⊢
    rw [h]
    exact ⟨_, rfl⟩
  next => exact ⟨_, rfl⟩

theorem holdover_sess (j : Nat) : NotifiedOnly (sess s j) (sess (holdover s) j) := by
  have hframe := lastRate_frame s
  have hn := setTime_notices (setEvent 3 (count 0x741b 5 1
    { lastRate s with as_ := { (lastRate s).as_ with rates := [], good := 0, slave := none } })) .holdover
  rw [← holdover_eq] at hn
  have h := hn.sess j
  generalize lastRate s = u at hframe h
  rw [hframe] at h
  exact h

theorem holdover_counters {i j : Nat} (h₁ : objKey i j ≠ objKey 0x741b 5) (h₂ : objKey i j ∉ [0x741e08]) :
    counter (holdover s) i j = counter s i j := by
  have hframe := lastRate_frame s
  have hn := setTime_notices (setEvent 3 (count 0x741b 5 1
    { lastRate s with as_ := { (lastRate s).as_ with rates := [], good := 0, slave := none } })) .holdover
  rw [← holdover_eq] at hn
  have h := hn.counters _ h₂
  generalize lastRate s = u at hframe h
  rw [counter, h]
  refine (counter_count_other _ _ _ _ _ _ h₁).trans ?_
  rw [hframe]
  rfl

theorem slaveDown_sess (x j : Nat) : NotifiedOnly (sess s j) (sess (slaveDown x s) j) := by
  unfold slaveDown
  split
  · exact holdover_sess s j
  · rfl

theorem slaveDown_counter (x : Nat) : counter (slaveDown x s) 0x741b 4 = counter s 0x741b 4 := by
  unfold slaveDown
  split
  · exact holdover_counters s (by decide) (by decide)
  · rfl

theorem slaveDown_port (x y : Nat) : t1Of (slaveDown x s) y = t1Of s y := by
  obtain ⟨a, h⟩ := slaveDown_frame s x
  rw [h]
  rfl

/-- The port's queue emptied after the loss of a slave port. -/
theorem downed_port (x : Nat) : t1Of (dropLaunches x (slaveDown x s)) x = { t1Of s x with
    launch := [], waiting := (t1Of (dropLaunches x (slaveDown x s)) x).waiting } := by
  rw [dropLaunches_port, if_pos rfl, slaveDown_port]

theorem downed_counter (x : Nat) :
    counter (dropLaunches x (slaveDown x s)) 0x741b 4 = counter s 0x741b 4 + BitVec.ofNat 64 (t1Of s x).launch.length := by
  rw [counter, dropLaunches_counters]
  refine (counter_count _ 0x741b 4 _ 0x741b 4).trans ?_
  rw [if_pos rfl, slaveDown_counter, slaveDown_port]

theorem downed_sess (x j : Nat) : NotifiedOnly (sess s j) (sess (dropLaunches x (slaveDown x s)) j) := by
  have h := slaveDown_sess s x j
  have hd := dropLaunches_frame (slaveDown x s) x
  generalize slaveDown x s = u at h hd ⊢
  rw [hd]
  exact h

/-- The port stopped: its sessions closed, its queues empty. -/
theorem t1Stop_stops (x : Nat) (hr : (t1Of s x).running = true) :
    t1Of (t1Stop x s) x = { t1Of s x with running := false, link := 0, launch := [], waiting := [] } ∧
    (∀ j : Fin 64, sess (t1Stop x s) j.val = if (sess s j.val).open_ = true ∧ (sess s j.val).port.val = x then
      { gen := (sess s j.val).gen + 1 } else sess (dropLaunches x (slaveDown x s)) j.val) ∧
    counter (t1Stop x s) 0x741b 4 = counter s 0x741b 4 + BitVec.ofNat 64 (t1Of s x).launch.length := by
  have hport := downed_port s x
  have hcount := downed_counter s x
  have hsess := downed_sess s x
  unfold t1Stop
  rw [if_pos hr]
  generalize dropLaunches x (slaveDown x s) = u at hport hcount hsess ⊢
  have hframe := closeAll_frame (portSessions u x) u
  have hclosed := sess_closeAll (portSessions u x)
  unfold closePortSessions
  generalize hl : portSessions u x = l at hframe hclosed ⊢
  have hs := fun j => hclosed j u
  generalize forEach l closeSession u = v at hframe hs ⊢
  refine ⟨?_, fun j => ?_, ?_⟩
  · have hp : t1Of v x = t1Of u x := by rw [hframe]; rfl
    rw [t1Of_t1mod, if_pos rfl, hp, hport]
  · show sess v j.val = _
    rw [hs, ← hl]
    have hopen : (sess u j.val).open_ = (sess s j.val).open_ := by rw [hsess]
    have hpt : (sess u j.val).port = (sess s j.val).port := by rw [hsess]
    have hgen : (sess u j.val).gen = (sess s j.val).gen := by rw [hsess]
    simp only [mem_portSessions, hopen, hpt, hgen]
    refine if_congr ?_ rfl rfl
    exact ⟨fun h => h.1, fun h => ⟨h, h.1⟩⟩
  · show counter v 0x741b 4 = _
    rw [← hcount, hframe]
    rfl

theorem t1PortStop_stops (k : Fin 64) (x : Fin 4) (h : HostMay k.val 1 s) (hr : (t1Of s x.val).running = true)
    (hp : (sess s k.val).port ≠ x) : ∃ t, exec (.t1PortStop k x) s = .next t ∧
      t1Of t x.val = { t1Of s x.val with running := false, link := 0, launch := [], waiting := [] } ∧
      (∀ j : Fin 64, (sess s j.val).open_ = true → (sess s j.val).port = x → sess t j.val = { gen := (sess s j.val).gen + 1 }) ∧
      counter t 0x741b 4 = counter s 0x741b 4 + BitVec.ofNat 64 (t1Of s x.val).launch.length := by
  obtain ⟨hport, hsess, hcount⟩ := t1Stop_stops (taken k.val s) x.val (by rwa [t1Of_taken])
  have hdown := downed_sess (taken k.val s) x.val k.val
  have hown : sess (t1Stop x.val (taken k.val s)) k.val = sess (dropLaunches x.val (slaveDown x.val (taken k.val s))) k.val := by
    rw [hsess k, sess_taken, if_neg]
    exact fun hc => hp (Fin.ext hc.2)
  rw [← hown] at hdown
  have he : writeEffect k.val (0x3430 + x.val) 0x0b [2] (taken k.val s) = .done [] (t1Stop x.val (taken k.val s)) :=
    writeEffect_t1Control (taken k.val s) k.val x 2
  have hexec : exec (.t1PortStop k x) s = .next (answer k.val {} (t1Stop x.val (taken k.val s))) :=
    congrArg Host.Outcome.next (hostWrite_answer s k.val _ _ [2] [] _ h.1 (t1Control_passes s k.val x 2 h) he hdown)
  rw [t1Of_taken] at hport hcount
  rw [taken_counter s k.val _ _ (by decide)] at hcount
  refine ⟨_, hexec, ?_⟩
  generalize t1Stop x.val (taken k.val s) = u at hport hsess hcount hdown ⊢
  refine ⟨?_, fun j ho hj => ?_, ?_⟩
  · rw [answer_port_other u k.val {} x.val, hport]
    rw [hdown, sess_taken]
    exact fun hx => hp (Fin.ext hx.symm)
  · have hne : j.val ≠ k.val := fun hjk => hp (by rw [← hjk, hj])
    rw [sess_answer, if_neg hne, hsess j, sess_taken_other s k.val j.val hne, if_pos ⟨ho, by rw [hj]⟩]
  · rw [counter, answer_counters u k.val {} rfl]
    exact hcount

theorem t1LinkUp_up (x : Fin 4) (hr : (t1Of s x.val).running = true) (hret : (t1Of s x.val).retired = false)
    (hl : (t1Of s x.val).link = 1) (hw : works s 19 = true) : ∃ t, exec (.t1LinkUp x) s = .next t ∧
      t1Up t x.val = true ∧ t.clock = s.clock := by
  have hexec : exec (.t1LinkUp x) s = .next (firstSafety x.val (t1mod x.val (fun p => { p with link := 2 }) s)) :=
    congrArg Host.Outcome.next (if_pos ⟨hr, by simp [hret], hl, hw⟩)
  refine ⟨_, hexec, ?_⟩
  have hup : t1Up (t1mod x.val (fun p => { p with link := 2 }) s) x.val = true := by
    have hport : t1Of (t1mod x.val (fun p => { p with link := 2 }) s) x.val = { t1Of s x.val with link := 2 } := by
      rw [t1Of_t1mod, if_pos rfl]
    rw [t1Up, hport]
    simp [hr, hret]
  have hclock : (t1mod x.val (fun p => { p with link := 2 }) s).clock = s.clock := rfl
  generalize t1mod x.val (fun p => { p with link := 2 }) s = u at hup hclock ⊢
  unfold firstSafety
  split
  · rw [t1Up_safetyFrame, (safetyFrame_sent _ x.val false).eq]
    exact ⟨hup, hclock⟩
  · exact ⟨hup, hclock⟩

theorem t1LinkDown_down (x : Fin 4) (hup : t1Up s x.val = true) : ∃ t, exec (.t1LinkDown x) s = .next t ∧
    t1Of t x.val = { t1Of s x.val with link := 1, launch := [], waiting := [] } ∧
    counter t 0x741b 4 = counter s 0x741b 4 + BitVec.ofNat 64 (t1Of s x.val).launch.length := by
  refine ⟨_, congrArg Host.Outcome.next (if_pos hup), ?_, downed_counter s x.val⟩
  rw [t1Of_t1mod, if_pos rfl, downed_port]

/-! ## The head of a launch queue (R380) -/

theorem releaseT1_sends (x : Nat) : ∃ more, (releaseT1 x s).out = s.out ++ more ∧
    ((t1Of s x).waiting = [] → more = [] ∧ (t1Of (releaseT1 x s) x).waiting = []) := by
  unfold releaseT1
  split
  next h => exact ⟨[], by simp, fun _ => ⟨rfl, h⟩⟩
  next h => exact ⟨_, rfl, fun hw => absurd hw h⟩

theorem releaseT1_other (x y : Nat) (h : y ≠ x) : t1Of (releaseT1 x s) y = t1Of s y := by
  unfold releaseT1
  split
  · rfl
  · rw [t1Of_flushT1, if_neg h]

theorem noteSent_frame (l : Launch) : noteSent l s = { s with pump := (noteSent l s).pump } := by
  unfold noteSent
  split
  · exact forEach_rel (fun u v => v = { u with pump := v.pump }) (fun _ => rfl) (fun u v w h k => by rw [k, h]) _ _
      (fun _ _ _ => rfl) s
  · rfl

/-- The launch sent and counted, or dropped by its lateness. -/
def launchDone (l : Launch) (v m : Nat) (f : OutFrame) (s : State) : State :=
  if v ≤ 104 then emit f (noteSent l (count 0x741b 1 1 s))
  else if v ≤ m then emit f (noteSent l (count 0x741b 2 1 s)) else count 0x741b 3 1 s

theorem launchDone_frame (l : Launch) (v m : Nat) (f : OutFrame) : launchDone l v m f s = { s with
    out := (launchDone l v m f s).out, counters := (launchDone l v m f s).counters, pump := (launchDone l v m f s).pump } := by
  have h : ∀ i, emit f (noteSent l (count 0x741b i 1 s)) = { s with
      out := s.out ++ [f], counters := (count 0x741b i 1 s).counters, pump := (noteSent l (count 0x741b i 1 s)).pump } := fun i => by
    rw [noteSent_frame]
    rfl
  unfold launchDone
  split
  · rw [h]
  · split
    · rw [h]
    · rfl

/-- A launch that is sent. -/
theorem sentLaunch_sends (l : Launch) (i : Nat) (f : OutFrame) : (emit f (noteSent l (count 0x741b i 1 s))).out = s.out ++ [f] ∧
    counter (emit f (noteSent l (count 0x741b i 1 s))) 0x741b i = counter s 0x741b i + 1 := by
  have hc := counter_count_same s 0x741b i
  rw [noteSent_frame]
  exact ⟨rfl, hc⟩

theorem launchDone_cases (l : Launch) (v m : Nat) (f : OutFrame) : let u := launchDone l v m f s
    (v ≤ 104 → u.out = s.out ++ [f] ∧ counter u 0x741b 1 = counter s 0x741b 1 + 1) ∧
    (104 < v → v ≤ m → u.out = s.out ++ [f] ∧ counter u 0x741b 2 = counter s 0x741b 2 + 1) ∧
    (104 < v → m < v → u.out = s.out ∧ counter u 0x741b 3 = counter s 0x741b 3 + 1) := by
  refine ⟨fun h => ?_, fun h₁ h₂ => ?_, fun h₁ h₂ => ?_⟩
  · rw [launchDone, if_pos h]
    exact sentLaunch_sends s l 1 f
  · rw [launchDone, if_neg (by omega), if_pos h₂]
    exact sentLaunch_sends s l 2 f
  · rw [launchDone, if_neg (by omega), if_neg (by omega)]
    exact ⟨rfl, counter_count_same s 0x741b 3⟩

/-- The state in which the head of the queue goes. -/
def launching (x : Nat) (l : Launch) (rest : List Launch) (v : Nat) (s : State) : State :=
  t1mod x (fun p => { p with launch := rest }) (clockTo (l.stamp + v / 10) s)

theorem launchEligible_eq (x : Fin 4) (l : Launch) (rest : List Launch) (late : Nat) (h : (t1Of s x.val).launch = l :: rest) :
    exec (.launchEligible x late) s = .next (releaseT1 x.val (launchDone l (lateness s l late) (10 * cfg s (0x3430 + x.val) 6)
      (.t1 x (launchFrame s x.val l)) (launching x.val l rest (lateness s l late) s))) := by
  have hread : ∀ v, cfg (launching x.val l rest v s) (0x3430 + x.val) 6 = cfg s (0x3430 + x.val) 6 ∧
      launchFrame (launching x.val l rest v s) x.val l = launchFrame s x.val l := fun v => by
    unfold launching
    rw [clockTo_eq]
    exact ⟨rfl, rfl⟩
  have hunfold : exec (.launchEligible x late) s = execLaunchEligible x late s := rfl
  obtain ⟨hcfg, hframe⟩ := hread (lateness s l late)
  rw [hunfold]
  unfold execLaunchEligible
  rw [h]
  show Host.Outcome.next (releaseT1 x.val (if lateness s l late ≤ 104 then
      emit (.t1 x (launchFrame (launching x.val l rest (lateness s l late) s) x.val l)) _
    else if lateness s l late ≤ 10 * cfg (launching x.val l rest (lateness s l late) s) (0x3430 + x.val) 6 then
      emit (.t1 x (launchFrame (launching x.val l rest (lateness s l late) s) x.val l)) _ else _)) = _
  rw [hcfg, hframe]
  rfl

theorem launchEligible_launches (x : Fin 4) (l : Launch) (rest : List Launch) (late : Nat) (h : (t1Of s x.val).launch = l :: rest) :
    let p := t1Of s x.val
    let v := lateness s l late
    let f := OutFrame.t1 x (launchFrame s x.val l)
    ∃ t more, exec (.launchEligible x late) s = .next t ∧ t1Of t x.val = { p with launch := rest, waiting := (t1Of t x.val).waiting } ∧
      (p.waiting = [] → more = [] ∧ (t1Of t x.val).waiting = []) ∧
      t.clock = (clockTo (l.stamp + v / 10) s).clock ∧ (∀ y, y ≠ x.val → t1Of t y = t1Of s y) ∧
      (v ≤ 104 → t.out = s.out ++ [f] ++ more ∧ counter t 0x741b 1 = counter s 0x741b 1 + 1) ∧
      (104 < v → v ≤ 10 * cfg s (0x3430 + x.val) 6 → t.out = s.out ++ [f] ++ more ∧ counter t 0x741b 2 = counter s 0x741b 2 + 1) ∧
      (104 < v → 10 * cfg s (0x3430 + x.val) 6 < v → t.out = s.out ++ more ∧ counter t 0x741b 3 = counter s 0x741b 3 + 1) := by
  intro p v f
  have heq := launchEligible_eq s x l rest late h
  have hport : ∀ y, t1Of (launching x.val l rest v s) y = if y = x.val then { p with launch := rest } else t1Of s y := fun y => by
    have ht1 : ∀ z, t1Of (clockTo (l.stamp + v / 10) s) z = t1Of s z := fun z => t1Of_of_t1 (clockTo_t1 s _) z
    unfold launching
    rw [t1Of_t1mod, ht1, ht1]
  have hout : (launching x.val l rest v s).out = s.out := clockTo_out s _
  have hclock : (launching x.val l rest v s).clock = (clockTo (l.stamp + v / 10) s).clock := rfl
  have hcounters : ∀ i, counter (launching x.val l rest v s) 0x741b i = counter s 0x741b i := fun i =>
    congrArg (fun c => tblGet 0 c (objKey 0x741b i)) (clockTo_counters s (l.stamp + v / 10))
  have hdone := launchDone_frame (launching x.val l rest v s) l v (10 * cfg s (0x3430 + x.val) 6) f
  have hcases := launchDone_cases (launching x.val l rest v s) l v (10 * cfg s (0x3430 + x.val) 6) f
  generalize launching x.val l rest v s = u at heq hport hout hclock hcounters hdone hcases
  generalize launchDone l v (10 * cfg s (0x3430 + x.val) 6) f u = w at heq hdone hcases
  have hw : ∀ y, t1Of w y = t1Of u y := fun y => by rw [hdone]; rfl
  obtain ⟨more, hmore, hnone⟩ := releaseT1_sends w x.val
  have hflush := releaseT1_flushes w x.val
  have hother := releaseT1_other w x.val
  have hcount : ∀ i, counter (releaseT1 x.val w) 0x741b i = counter w 0x741b i := fun i => by rw [hflush.eq]; rfl
  refine ⟨releaseT1 x.val w, more, heq, ?_, fun hp => hnone (by rw [hw, hport, if_pos rfl]; exact hp), ?_, fun y hy => ?_,
    fun h₁ => ?_,
    fun h₁ h₂ => ?_, fun h₁ h₂ => ?_⟩
  · have hx := hflush.port x.val
    rw [hw, hport, if_pos rfl] at hx
    exact hx
  · rw [hflush.eq, hdone]
    exact hclock
  · rw [hother y hy, hw, hport, if_neg hy]
  · obtain ⟨ho, hc⟩ := hcases.1 h₁
    exact ⟨by rw [hmore, ho, hout], by rw [hcount, hc, hcounters]⟩
  · obtain ⟨ho, hc⟩ := hcases.2.1 h₁ h₂
    exact ⟨by rw [hmore, ho, hout], by rw [hcount, hc, hcounters]⟩
  · obtain ⟨ho, hc⟩ := hcases.2.2 h₁ h₂
    exact ⟨by rw [hmore, ho, hout], by rw [hcount, hc, hcounters]⟩

/-! ## Frames of classes 3 to 5 (R379) -/

theorem sendT1_cases (x : Nat) (f : TxFrame) :
    let p := t1Of s x
    let May := fun (g : TxFrame) => mayStart (now s) p.launch g.len = true
    (p.waiting = [] → May f → sendT1 x f s = emit f.frame s) ∧
    (p.waiting ≠ [] ∨ ¬May f → ∃ gone rest, txInsert f p.waiting = gone ++ rest ∧ (∀ g ∈ gone, May g) ∧
      (∀ g, rest.head? = some g → ¬May g) ∧ (sendT1 x f s).out = s.out ++ gone.map (fun g => g.frame) ∧
      t1Of (sendT1 x f s) x = { p with waiting := rest }) := by
  intro p May
  refine ⟨fun h₁ h₂ => if_pos ⟨h₁, h₂⟩, fun h => ?_⟩
  have hflush : sendT1 x f s = flushT1 x (txInsert f p.waiting) s := if_neg fun hc => h.elim (fun h => h hc.1) fun h => h hc.2
  refine ⟨(txInsert f p.waiting).takeWhile (fun g => mayStart (now s) p.launch g.len),
    (txInsert f p.waiting).dropWhile (fun g => mayStart (now s) p.launch g.len), List.takeWhile_append_dropWhile.symm,
    fun g hg => List.mem_takeWhile_imp (p := fun g : TxFrame => mayStart (now s) p.launch g.len) hg, fun g hg hm => ?_,
      by rw [hflush]; rfl, by rw [hflush, t1Of_flushT1, if_pos rfl]⟩
  have hhead := List.head?_dropWhile_not (fun g : TxFrame => mayStart (now s) p.launch g.len) (txInsert f p.waiting)
  rw [hg] at hhead
  have hmay : mayStart (now s) p.launch g.len = true := hm
  simp [hmay] at hhead

/-! ## Frames received (R377) -/

theorem frameUse_short (x : Nat) (b : Bytes) (h : frameUse s x b ≠ .discard) : 60 ≤ b.length := by
  by_contra hb
  exact h (if_pos (.inl (by omega)))

theorem udpUse_ne_drive (a p d : Bytes) : udpUse a p ≠ .drive d := by
  unfold udpUse
  split <;> nofun

theorem ipv4Use_ne_drive (x : Nat) (mac p d : Bytes) : ipv4Use s x mac p ≠ .drive d := by
  unfold ipv4Use
  simp only
  split
  · nofun
  · split
    · exact udpUse_ne_drive _ _ _
    · split <;> nofun
    · nofun

theorem ipv6Use_ne_drive (x : Nat) (mac p d : Bytes) : ipv6Use s x mac p ≠ .drive d := by
  unfold ipv6Use
  simp only
  split
  · split
    · exact udpUse_ne_drive _ _ _
    · nofun
  · split
    · split <;> nofun
    · split <;> nofun
  · nofun

/-- Drive frames are taken on ports C and D only (R347). -/
theorem frameUse_drive (x : Nat) (b d : Bytes) (h : frameUse s x b = .drive d) : 2 ≤ x := by
  unfold frameUse at h
  simp only at h
  split at h
  · cases h
  split at h
  · cases h
  split at h
  · cases h
  split at h
  · split at h
    next hx => exact hx
    next => cases h
  split at h
  · exact absurd h (ipv4Use_ne_drive s _ _ _ _)
  · exact absurd h (ipv6Use_ne_drive s _ _ _ _)
  · split at h <;> cases h
  · cases h

theorem frameUse_clockTo (n x : Nat) (b : Bytes) : frameUse (clockTo n s) x b = frameUse s x b := by
  rw [clockTo_eq]
  rfl

theorem answerFrame_to (mac tag b : Bytes) (h : 60 ≤ b.length) : (answerFrame mac tag b).take 6 = bytesAt b 6 6 := by
  have hlen : (bytesAt b 6 6).length = 6 := by simp [bytesAt]; omega
  unfold answerFrame
  simp only [padTo, List.append_assoc]
  rw [List.take_append_of_le_length (by simp [hlen]), List.take_take, Nat.min_eq_left (by simp [hlen]),
    List.take_append_of_le_length (by simp [hlen]), List.take_of_length_le (by simp [hlen])]

/-- A frame that the port takes goes where its type says. -/
theorem t1FrameReceived_takes (x : Fin 4) (n : Nat) (b : Bytes) (hup : t1Up s x.val = true) (hs : spoilt (0x30 + x.val) s = false) :
    exec (.t1FrameReceived x n b) s = .next (match frameUse s x.val b with
      | .time d => takeTime x d (clockTo n s)
      | .drive p => takeFeedback p (clockTo n s)
      | .ixide src d => ixideFrame x (some src) d (clockTo n s)
      | .reply => t1Answer x b (clockTo n s)
      | .discard => count 0x741b 0x0e 1 (clockTo n s)) := by
  have hunfold : exec (.t1FrameReceived x n b) s = execT1FrameReceived x n b s := rfl
  rw [hunfold, ← frameUse_clockTo s n]
  unfold execT1FrameReceived
  rw [if_neg (by simp [hup]), if_neg (by simp [hs])] <;> rfl

theorem feedbackFrame_takes (x : Fin 4) (n : Nat) (d : Bytes) (hx : 2 ≤ x.val) (hup : t1Up s x.val = true)
    (hs : spoilt (0x30 + x.val) s = false) : exec (.feedbackFrame x d) (clockTo n s) = .next (takeFeedback d (clockTo n s)) := by
  have hup' : t1Up (clockTo n s) x.val = true := by rw [clockTo_eq]; exact hup
  have hs' : spoilt (0x30 + x.val) (clockTo n s) = false := by rw [clockTo_eq]; exact hs
  have hno : ¬ (x.val < 2 ∨ (!(t1Up (clockTo n s) x.val)) = true) := by rw [hup']; simp; omega
  refine congrArg Host.Outcome.next ((if_neg hno).trans (if_neg (by rw [hs']; nofun)))

theorem t1FrameReceived_cases (x : Fin 4) (n : Nat) (b : Bytes) :
    (t1Up s x.val = false → exec (.t1FrameReceived x n b) s = .next s) ∧
    (t1Up s x.val = true → spoilt (0x30 + x.val) s = true →
      exec (.t1FrameReceived x n b) s = .next (unspoil (0x30 + x.val) (clockTo n s))) ∧
    (t1Up s x.val = true → spoilt (0x30 + x.val) s = false →
      (frameUse s x.val b = .discard → exec (.t1FrameReceived x n b) s = .next (count 0x741b 0x0e 1 (clockTo n s))) ∧
      (frameUse s x.val b = .reply →
        let r := answerFrame (beBytes 6 (portMac s x.val).toNat) (vlanTag s x.val 0) b
        r.take 6 = bytesAt b 6 6 ∧
        exec (.t1FrameReceived x n b) s = .next (sendT1 x.val ⟨5, .t1 x r, r.length + 4⟩ (clockTo n s))) ∧
      (∀ d, frameUse s x.val b = .time d → exec (.t1FrameReceived x n b) s = .next (takeTime x d (clockTo n s))) ∧
      (∀ d, frameUse s x.val b = .drive d → 2 ≤ x.val ∧ exec (.t1FrameReceived x n b) s =
        exec (.feedbackFrame x d) (clockTo n s)) ∧
      (∀ src d, frameUse s x.val b = .ixide src d → exec (.t1FrameReceived x n b) s =
        .next (ixideFrame x (some src) d (clockTo n s)))) := by
  refine ⟨fun h => if_pos (by simp [h]), fun h hs => (if_neg (by simp [h])).trans (if_pos hs), fun hup hs => ?_⟩
  have htakes := t1FrameReceived_takes s x n b hup hs
  refine ⟨fun h => by rw [htakes, h], fun h => ⟨answerFrame_to _ _ b (frameUse_short s x.val b (by rw [h]; nofun)), ?_⟩,
    fun d h => by rw [htakes, h], fun d h => ?_, fun src d h => by rw [htakes, h]⟩
  · rw [htakes, h]
    have hmac : portMac (clockTo n s) x.val = portMac s x.val := by rw [clockTo_eq]; rfl
    have htag : vlanTag (clockTo n s) x.val 0 = vlanTag s x.val 0 := by rw [clockTo_eq]; rfl
    show Host.Outcome.next (t1Answer x b (clockTo n s)) = _
    unfold t1Answer
    rw [hmac, htag]
  · have hx := frameUse_drive s x.val b d h
    rw [htakes, h, feedbackFrame_takes s x n d hx hup hs]
    exact ⟨hx, rfl⟩

end

/-- Settles O54: each command by what it makes of the pin, the timer or the port. -/
theorem pinsTimersAndT1 : Obligations.PinsTimersAndT1 := by
  unfold Obligations.PinsTimersAndT1
  refine ⟨fun s => ⟨fun h => ?_, fun h => congrArg Host.Outcome.next (if_neg h), ppsInEdge_captures s⟩, fun s k h => ⟨ppsEnable_releases s k h,
    ppsEnable_takes s k h, fun i => ⟨timerStart_plain s k i h, timerStart_pps s k i h, timerStop_stops s k i h⟩⟩, timerFire_fires,
    fun s k x h => ⟨t1PortStart_trains s k x h, t1PortStop_stops s k x h, fun v => timedWrite_sets s k x v h,
      fun b hres h₁ h₂ ht => ⟨timedFrame_queued s k x b h hres h₁ h₂ ht, timedFrame_dropped s k x b h hres h₁ h₂ ht⟩⟩,
    sendT1_cases, fun s x => ⟨t1LinkUp_up s x, t1LinkDown_down s x, fun l rest late h => launchEligible_launches s x l rest late h,
      fun n b => t1FrameReceived_cases s x n b⟩⟩
  have hif : exec .ppsOutPulse s = .next (if s.pps.owner = some .enable then ppsPulse (clockTo (nextSecond s) s) else s) := rfl
  rw [hif, if_pos h]
  have hclock := clockTo_eq (nextSecond s) s
  generalize clockTo (nextSecond s) s = u at hclock ⊢
  rw [ppsPulse, hclock]
  rfl

end Sys2Proof.Machine

end

section
/-!
PROOF. Resets, power and boot (R449-R452, R459, R495-R500), firmware, life cycle, debug access and quotes (R453-R461).
-/

namespace Sys2Proof.Machine

open Claims

/-! ## Requests of the device's own objects -/

section

variable (s : State)

/-- An object of the device: its right, and no check but that of its length. -/
structure DeviceObject (i j r : Nat) (ty : OTy) : Prop where
  fam : famBase i = (i, 0)
  entry : objDef i j = some (ty, .wo, 0) ∨ objDef i j = some (ty, .rw, 0)
  right : ∀ k d, writeRight k i j d = r
  owned : ∀ k, notOwner s k i j = false
  reserved : ∀ d, reservedOk i j d = true
  range : ∀ v, rangeOk s i 0 j v = true

theorem DeviceObject.passes {s : State} {i j r : Nat} {ty : OTy} (h : DeviceObject s i j r ty) (k : Nat) (d : Bytes) (hm : HostMay k r s)
    (ht : typeOk s i j ty d = true) : WritePasses s k i j d := by
  have hright : hasRight s k (writeRight k i j d) = true := by rw [h.right]; exact hm.2
  have htype : typeOk s (famBase i).1 j ty d = true := by rw [h.fam]; exact ht
  have hres : reservedOk (famBase i).1 j d = true := by rw [h.fam]; exact h.reserved d
  have hrange : rangeOk s (famBase i).1 (famBase i).2 j (leNat d) = true := by rw [h.fam]; exact h.range _
  rcases h.entry with he | he
  · exact ⟨ty, .wo, 0, he, by decide, hright, h.owned k, htype, hres, nofun, fun _ => hrange⟩
  · exact ⟨ty, .rw, 0, he, by decide, hright, h.owned k, htype, hres, nofun, fun _ => hrange⟩

theorem deviceReset_object : DeviceObject s 0x2000 5 6 .u8 := by
  have hfam : famBase 0x2000 = (0x2000, 0) := by decide
  exact ⟨hfam, .inl (by decide), fun _ _ => by simp [writeRight, hfam], fun _ => by simp [notOwner, hfam],
    fun _ => by simp [reservedOk, valueMask, zeroFields, recordHeader, sel, tblGet], fun _ => by simp [rangeOk, rangeLow, sel,
      tblGet]⟩

theorem lifecycle_object : DeviceObject s 0x2001 2 7 (.blob 180) := by
  have hfam : famBase 0x2001 = (0x2001, 0) := by decide
  exact ⟨hfam, .inl (by decide), fun _ _ => by simp [writeRight, hfam], fun _ => by simp [notOwner, hfam],
    fun _ => by simp [reservedOk, valueMask, zeroFields, recordHeader, sel, tblGet], fun _ => by simp [rangeOk, rangeLow, sel,
      tblGet]⟩

theorem minSvn_object : DeviceObject s 0x2002 3 7 .u16 := by
  have hfam : famBase 0x2002 = (0x2002, 0) := by decide
  exact ⟨hfam, .inr (by decide), fun _ _ => by simp [writeRight, hfam], fun _ => by simp [notOwner, hfam],
    fun _ => by simp [reservedOk, valueMask, zeroFields, recordHeader, sel, tblGet], fun _ => by simp [rangeOk, rangeLow, sel,
      tblGet]⟩

theorem revoke_object : DeviceObject s 0x2002 7 7 .u8 := by
  have hfam : famBase 0x2002 = (0x2002, 0) := by decide
  exact ⟨hfam, .inl (by decide), fun _ _ => by simp [writeRight, hfam], fun _ => by simp [notOwner, hfam],
    fun _ => by simp [reservedOk, valueMask, zeroFields, recordHeader, sel, tblGet], fun _ => by simp [rangeOk, rangeLow, sel,
      tblGet]⟩

theorem update_object : DeviceObject s 0x2030 1 7 .u8 := by
  have hfam : famBase 0x2030 = (0x2030, 0) := by decide
  exact ⟨hfam, .inl (by decide), fun _ _ => by simp [writeRight, hfam], fun _ => by simp [notOwner, hfam],
    fun _ => by simp [reservedOk, valueMask, zeroFields, recordHeader, sel, tblGet], fun _ => by simp [rangeOk, rangeLow, sel,
      tblGet]⟩

theorem chunk_object : DeviceObject s 0x2030 2 7 (.blob 1028) := by
  have hfam : famBase 0x2030 = (0x2030, 0) := by decide
  exact ⟨hfam, .inl (by decide), fun _ _ => by simp [writeRight, hfam], fun _ => by simp [notOwner, hfam],
    fun _ => by simp [reservedOk, valueMask, zeroFields, recordHeader, sel, tblGet], fun _ => by simp [rangeOk, rangeLow, sel,
      tblGet]⟩

theorem quote_object : DeviceObject s 0x7810 1 0 (.blob 32) := by
  have hfam : famBase 0x7810 = (0x7810, 0) := by decide
  exact ⟨hfam, .inl (by decide), fun _ _ => by simp [writeRight, hfam], fun _ => by simp [notOwner, hfam],
    fun _ => by simp [reservedOk, valueMask, zeroFields, recordHeader, sel, tblGet], fun _ => by simp [rangeOk, rangeHigh, sel,
      tblGet]⟩

theorem writeEffect_device (k : Nat) (c : BitVec 8) (d : Bytes) (v : BitVec 16) :
    writeEffect k 0x2000 5 [c] s = resetCommand c.toNat s ∧ writeEffect k 0x2001 2 d s = changeCommand d s ∧
    writeEffect k 0x2002 3 (leBytes 2 v.toNat) s = minSvnCommand v.toNat s ∧ writeEffect k 0x2002 7 [c] s = revokeCommand c.toNat s ∧
    writeEffect k 0x2030 1 [c] s = updateControl k c.toNat s ∧ writeEffect k 0x2030 2 d s = updateChunk k d s ∧
    writeEffect k 0x7810 1 d s = quoteCommand d s := by
  have h₀ : famBase 0x2000 = (0x2000, 0) := by decide
  have h₁ : famBase 0x2001 = (0x2001, 0) := by decide
  have h₂ : famBase 0x2002 = (0x2002, 0) := by decide
  have h₃ : famBase 0x2030 = (0x2030, 0) := by decide
  have h₄ : famBase 0x7810 = (0x7810, 0) := by decide
  have hc : leNat [c] = c.toNat := by simp [leNat]
  have hv : leNat (leBytes 2 v.toNat) = v.toNat := leNat_leBytes_toNat 16 2 v rfl
  unfold writeEffect
  simp only [h₀, h₁, h₂, h₃, h₄]
  refine ⟨?_, rfl, ?_, ?_, ?_, rfl, rfl⟩
  · exact congrArg (resetCommand · s) hc
  · exact congrArg (minSvnCommand · s) hv
  · exact congrArg (revokeCommand · s) hc
  · exact congrArg (updateControl k · s) hc

/-- A request whose session does not outlive its effect is answered on the port that it came by. -/
theorem hostWrite_gone (k i j : Nat) (d r : Bytes) (v : State) (hready : HostReady k s) (h : WritePasses s k i j d)
    (he : writeEffect k i j d (taken k s) = .done r v) (hv : (sess v k).open_ = false) :
    ∃ t, hostWrite k i j d s = t ∧ t = { v with out := t.out, t1 := t.t1 } := by
  have hn : ¬ ((sess v k).open_ = true ∧ (sess v k).gen = (sess (taken k s) k).gen) := by simp [hv]
  have heq : hostWrite k i j d s = respond k (taken k s) { data := r } v := by
    rw [hostWrite_ready s k i j d hready, writeValue_taken s hready h, he]
    rfl
  refine ⟨_, heq, ?_⟩
  unfold respond
  rw [if_neg hn]
  exact ixSend_eq v _ _ _

end

/-! ## Down (R449, R451, R459, R495-R498) -/

section

variable (s : State)

/-- What is kept of the module that is down. -/
structure IsDown (s : State) (st : DevState) (t : State) : Prop where
  state : t.boot.state = st
  safeN : t.pins.safeN = false
  sluice : t.sluice = {}
  retired : t.island.retired = s.island.retired
  store : t.dir.store = s.dir.store
  area : t.boot.area = s.boot.area
  minSvn : t.boot.minSvn = s.boot.minSvn
  queues : t.queues = []
  sessions : t.sessions = []

/-- The GEN that the entries of each pool have gained, one further. -/
def raisedBase (b : Tbl (BitVec 8)) : Tbl (BitVec 8) := (List.range 4).foldl (fun b p => tblMod 0 b p (· + 1)) b

/-- The page table after a reset: the GEN of each entry, and one further for a pool's entries (R172). -/
def resetPages (s : State) : PageStore where
  entries := tblMap {} (fun e => { gen := e.gen }) s.pages.entries
  base := raisedBase s.pages.base

/-- What is kept of the page table through a reset (R172). -/
def KeepsPages (s t : State) : Prop := t.pages = resetPages s

theorem quiet_down (st : DevState) (h : s.island.retired = s.island.retired) : IsDown s st (quiet st s) :=
  ⟨rfl, rfl, rfl, h, rfl, rfl, rfl, rfl, rfl⟩

theorem beginReset_down (c : BitVec 8) (st : DevState) :
    IsDown s st (beginReset c st s) := ⟨rfl, rfl, rfl, rfl, rfl, rfl, rfl, rfl, rfl⟩

theorem beginReset_pages (c : BitVec 8) (st : DevState) (h : st ≠ .off) : KeepsPages s (beginReset c st s) := by
  have hquiet : (beginReset c st s).pages = if st = .off then {} else resetPages s := rfl
  rw [KeepsPages, hquiet, if_neg h]

theorem tblGet_raised (b : Tbl (BitVec 8)) (p : Nat) (h : p < 4) :
    tblGet 0 (raisedBase b) p = tblGet 0 b p + 1 := by
  have hmod : ∀ (b : Tbl (BitVec 8)) (q : Nat), tblGet 0 (tblMod 0 b q (· + 1)) p = if p = q then tblGet 0 b q + 1 else tblGet 0 b p :=
    fun b q => by unfold tblMod; exact tblGet_set ..
  have hlist : List.range 4 = [0, 1, 2, 3] := rfl
  unfold raisedBase
  rw [hlist]
  simp only [List.foldl_cons, List.foldl_nil]
  have hp : p = 0 ∨ p = 1 ∨ p = 2 ∨ p = 3 := by omega
  rcases hp with rfl | rfl | rfl | rfl <;> simp only [hmod] <;> rfl

end

section

variable {s t u : State} {st : DevState}

theorem KeepsPages.base_eq (h : KeepsPages s t) (p : Nat) (hp : p < 4) :
    tblGet 0 t.pages.base p = tblGet 0 s.pages.base p + 1 := by
  have hbase : (resetPages s).base = raisedBase s.pages.base := by simp only [resetPages]
  rw [h, hbase, tblGet_raised s.pages.base p hp]

theorem KeepsPages.entries_eq (h : KeepsPages s t) : t.pages.entries = tblMap {} (fun e => { gen := e.gen }) s.pages.entries := by
  rw [h]
  rfl

theorem IsDown.facts (h : IsDown s st t) : t.boot.state = st ∧ t.pins.safeN = false ∧ t.sluice = {} ∧
    t.island.retired = s.island.retired ∧ t.dir.store = s.dir.store ∧ t.boot.area = s.boot.area ∧ t.boot.minSvn = s.boot.minSvn ∧
    (∀ q, (qget t q).state = .stopped) ∧ (∀ j, (sess t j).open_ = false) :=
  ⟨h.state, h.safeN, h.sluice, h.retired, h.store, h.area, h.minSvn, fun q => by rw [qget, h.queues]; rfl,
    fun j => by rw [sess, h.sessions]; rfl⟩

end

section

variable (s : State)

theorem deviceReset_resets (k : Fin 64) (h : HostMay k.val 6 s) :
    ∃ t, exec (.deviceResetWrite k 1) s = .next t ∧ IsDown s .boot t ∧
    t.boot.cause = 2 ∧ KeepsPages s t ∧ t.power.on = 0x400 ||| (s.power.on &&& 0x100000) := by
  have hd := beginReset_down (taken k.val s) 2 .boot
  have hp := beginReset_pages (taken k.val s) 2 .boot nofun
  obtain ⟨t, ht, heq⟩ := hostWrite_gone s k.val 0x2000 5 [1] [] (beginReset 2 .boot (taken k.val s)) h.1
    ((deviceReset_object s).passes k.val [1] h (by simp [typeOk,
      otyLen])) ((writeEffect_device _ k.val 1 [] 0).1) (hd.facts.2.2.2.2.2.2.2.2 _)
  have hcause : (beginReset 2 .boot (taken k.val s)).boot.cause = 2 := rfl
  have hon : (beginReset 2 .boot (taken k.val s)).power.on = 0x400 ||| (s.power.on &&& 0x100000) := by
    show 0x400 ||| ((taken k.val s).power.on &&& 0x100000) = _
    rw [taken_eq]
  refine ⟨t, congrArg Host.Outcome.next ht, ?_⟩
  have hs : (taken k.val s).island.retired = s.island.retired ∧ (taken k.val s).dir = s.dir ∧ (taken k.val s).boot = s.boot ∧
      (taken k.val s).pages = s.pages := by rw [taken_eq]; exact ⟨rfl, rfl, rfl, rfl⟩
  obtain ⟨hretired, hdir, hboot, hpages⟩ := hs
  generalize beginReset 2 .boot (taken k.val s) = v at hd hp heq hcause hon
  rw [heq]
  exact ⟨⟨hd.state, hd.safeN, hd.sluice, hd.retired.trans hretired, hd.store.trans (by rw [hdir]), hd.area.trans (by rw [hboot]),
    hd.minSvn.trans (by rw [hboot]), hd.queues, hd.sessions⟩, hcause, 
    hp.trans (by rw [resetPages, hpages, resetPages]), hon⟩

theorem resetNLow_holds (h : s.pins.pwrOk = true) : ∃ t, exec .resetNLow s = .next t ∧ IsDown s .held t ∧ t.boot.cause = 1 ∧
    KeepsPages s t ∧ t.pins.resetN = false ∧ t.power.on = 0x400 ||| (s.power.on &&& 0x100000) := by
  refine ⟨_, congrArg Host.Outcome.next (if_pos h), ?_⟩
  have hd := beginReset_down { s with pins := { s.pins with resetN := false } } 1 .held
  have hp := beginReset_pages { s with pins := { s.pins with resetN := false } } 1 .held nofun
  exact ⟨⟨hd.state, hd.safeN, hd.sluice, hd.retired, hd.store, hd.area, hd.minSvn, hd.queues, hd.sessions⟩, rfl,
    hp, rfl, rfl⟩

theorem losePending_none (h : ∀ e ∈ s.island.recent, e.2 + 10000000 ≤ now s) : losePending s = s := by
  have hnil : s.island.recent.filter (fun e => decide (now s < e.2 + 10000000)) = [] :=
    List.filter_eq_nil_iff.mpr fun e he => by have := h e he; simp; omega
  unfold losePending
  rw [hnil]
  rfl

theorem powerDown_down (h : ∀ e ∈ s.island.recent, e.2 + 10000000 ≤ now s) : IsDown s .off (powerDown s) ∧
    (powerDown s).power.powered = false ∧ (powerDown s).power.on = 0 ∧ (powerDown s).pins.pwrOk = false ∧
    (powerDown s).pins.faultN = false := by
  have hq : powerDown s = { quiet .off s with
      power := { (quiet .off s).power with powered := false, on := 0, retry := false, failed := false }
      pins := { (quiet .off s).pins with pwrOk := false, safeN := false, faultN := false } } := by
    unfold powerDown
    rw [losePending_none s h]
  rw [hq]
  exact ⟨⟨rfl, rfl, rfl, rfl, rfl, rfl, rfl, rfl, rfl⟩, rfl, rfl, rfl, rfl⟩

/-- The three losses of the supply end in one state but for PWR_EN. -/
theorem inputLoss_eq (c : Instr) (h : c ∈ [Instr.undervoltage, .overvoltage, .pwrEnLow]) :
    ∃ u : State, exec c s = .next (inputLost u) ∧ (u = s ∨ u = { s with pins := { s.pins with pwrEn := false } }) := by
  simp only [List.mem_cons, List.not_mem_nil, or_false] at h
  rcases h with rfl | rfl | rfl
  · exact ⟨s, rfl, .inl rfl⟩
  · exact ⟨s, rfl, .inl rfl⟩
  · exact ⟨_, rfl, .inr rfl⟩

theorem inputLoss_down (hon : isOn s = true) (hr : ∀ e ∈ s.island.recent, e.2 + 10000000 ≤ now s) (c : Instr)
    (h : c ∈ [Instr.undervoltage, .overvoltage, .pwrEnLow]) : ∃ t, exec c s = .next t ∧ IsDown s .off t ∧
      t.power.powered = false ∧ t.power.on = 0 ∧ t.pins.pwrOk = false ∧ t.pins.faultN = false := by
  obtain ⟨u, hexec, hu⟩ := inputLoss_eq s c h
  have hstep : ∀ v : State, isOn v = true → inputLost v = powerDown v := fun v hv => if_pos hv
  rcases hu with rfl | rfl
  · exact ⟨_, hexec.trans (congrArg Host.Outcome.next (hstep _ hon)), powerDown_down _ hr⟩
  · obtain ⟨hd, hrest⟩ := powerDown_down { s with pins := { s.pins with pwrEn := false } } hr
    exact ⟨_, hexec.trans (congrArg Host.Outcome.next (hstep _ hon)), ⟨hd.state, hd.safeN, hd.sluice, hd.retired, hd.store, hd.area, hd.minSvn, hd.queues, hd.sessions⟩,
      hrest⟩

theorem inputLoss_off (hon : isOn s = false) (c : Instr) (h : c ∈ [Instr.undervoltage, .overvoltage, .pwrEnLow]) :
    ∃ t, exec c s = .next t ∧ t.power = { s.power with retry := false, failed := false } ∧ t.boot = s.boot ∧
      t.pins.pwrOk = s.pins.pwrOk := by
  obtain ⟨u, hexec, hu⟩ := inputLoss_eq s c h
  have hstep : ∀ v : State, isOn v = false → inputLost v = { v with power := { v.power with retry := false, failed := false } } :=
    fun v hv => if_neg (by simp [hv])
  rcases hu with rfl | rfl
  · exact ⟨_, hexec.trans (congrArg Host.Outcome.next (hstep _ hon)), rfl, rfl, rfl⟩
  · exact ⟨_, hexec.trans (congrArg Host.Outcome.next (hstep _ hon)), rfl, rfl, rfl⟩

/-! ## Up (R495, R500) -/

theorem coldStart_up (hon : isOn s = false) (hf : s.power.failed = false) : ∃ t, exec (.coldStart true) s = .next t ∧
    t.boot.state = (if s.pins.resetN then .boot else .held) ∧ t.boot.cause = 0 ∧ t.pins.pwrOk = true ∧ t.pins.pwrEn = true ∧
    t.power.powered = true ∧ t.dict = [] :=
  ⟨_, if_neg (by simp [hon, hf]), rfl, rfl, rfl, rfl, rfl, rfl⟩

theorem regulatorRetry_up (hon : isOn s = false) (hr : s.power.retry = true) : ∃ t, exec (.regulatorRetry true) s = .next t ∧
    t.boot.state = (if s.pins.resetN then .boot else .held) ∧ t.boot.cause = 0 ∧ t.pins.pwrOk = true ∧ t.power.powered = true ∧
    t.dict = [] :=
  ⟨_, congrArg Host.Outcome.next (if_neg (by simp [hon, hr])), rfl, rfl, rfl, rfl, rfl⟩

theorem restartKept_frame : restartKept s = { s with
    timers := (restartKept s).timers, pps := (restartKept s).pps, t1 := (restartKept s).t1, fabric := (restartKept s).fabric } := by
  unfold restartKept
  simp only
  generalize hu : ({ s with timers := _, pps := _, t1 := _ } : State) = u
  have hs : u = { s with timers := u.timers, pps := u.pps, t1 := u.t1 } := by rw [← hu]
  have hl := forEach_rel (fun u v => v = { u with fabric := v.fabric }) (fun _ => rfl) (fun u v w h k => by rw [k, h])
    (fun p s => if (fabOf s p).running ∧ domainOn s (16 + p) then fabmod p (fun f => { f with state := 1 }) s else s) (List.range 3)
    (fun p _ u => by
      show (if _ then fabmod p _ u else u) = { u with fabric := State.fabric (if _ then fabmod p _ u else u) }
      split <;> rfl) u
  generalize forEach (List.range 3) _ u = v at hl ⊢
  rw [hl, hs]

theorem reapply_frame (u : BitVec 32) : reapply u s = { s with
    clusters := (reapply u s).clusters, dir := (reapply u s).dir, fabric := (reapply u s).fabric, t1 := (reapply u s).t1 } := by
  unfold reapply
  simp only
  split
  · split
    · rfl
    · split <;> rfl
  · rfl
  · split <;> rfl
  · rfl
  · rfl
  · rfl

/-- What reaching READY leaves of the boot. -/
structure UpKept (s t : State) : Prop where
  clock : t.clock = s.clock
  boot : t.boot = s.boot
  pins : t.pins = s.pins
  causes : t.island = s.island

theorem UpKept.refl (s : State) : UpKept s s := ⟨rfl, rfl, rfl, rfl⟩

theorem UpKept.trans {s t u : State} (h : UpKept s t) (k : UpKept t u) : UpKept s u :=
  ⟨k.clock.trans h.clock, k.boot.trans h.boot, k.pins.trans h.pins, k.causes.trans h.causes⟩

theorem restartKept_kept : UpKept s (restartKept s) := by
  have h := restartKept_frame s
  generalize restartKept s = u at h ⊢
  rw [h]
  exact ⟨rfl, rfl, rfl, rfl⟩

theorem reapply_kept (u : BitVec 32) : UpKept s (reapply u s) := by
  have h := reapply_frame s u
  generalize reapply u s = v at h ⊢
  rw [h]
  exact ⟨rfl, rfl, rfl, rfl⟩

theorem writeTable_kept (p : Nat) : UpKept s (writeTable p s) := by
  have h := writeTable_cistern s p
  unfold CisternWork at h
  generalize writeTable p s = v at h ⊢
  rw [h]
  exact ⟨rfl, rfl, rfl, rfl⟩

/-- The module as it comes up READY, before what it restarts. -/
def readying (s : State) : State :=
  { s with
    power := { s.power with
      on := if !s.pins.coolOk then enabled s &&& ~~~(BitVec.ofNat 32 (ofBits coolDomains)) else enabled s
      held := !s.pins.coolOk, stopped := !s.pins.coolOk }
    island := { s.island with causes := if !s.pins.coolOk then 9 else 1 }
    sluice := { s.sluice with caps := capsNow s }
    boot := { s.boot with state := .ready, running := areaInfo s }
    pins := { s.pins with faultN := true } }

/-- The retired units retired again. -/
def reapplied (s : State) : State := forEach (s.island.retired.map (fun e => e.1)) reapply s

theorem reachReady_eq :
    reachReady s = reapplied (forEach ((List.range 4).filter (fun p => decide (0 < (poolOf (readying s) p).frames)))
    writeTable (restartKept (readying s))) := rfl

theorem forEach_kept {α : Type} (f : α → State → State) (h : ∀ a u, UpKept u (f a u)) (l : List α) (s : State) :
    UpKept s (forEach l f s) := forEach_rel UpKept UpKept.refl (fun _ _ _ h k => h.trans k) f l (fun a _ u => h a u) s

theorem reachReady_kept : UpKept (readying s) (reachReady s) := by
  rw [reachReady_eq]
  generalize readying s = u
  have h₁ := restartKept_kept u
  generalize restartKept u = v at h₁
  have h₂ := forEach_kept writeTable (fun p w => writeTable_kept w p)
    ((List.range 4).filter (fun p => decide (0 < (poolOf u p).frames))) v
  generalize forEach _ writeTable v = w at h₂ ⊢
  exact h₁.trans (h₂.trans (forEach_kept reapply (fun e x => reapply_kept x e) _ w))

/-- The module as the boot begins. -/
def booting (n : Nat) (s : State) : State :=
  { s with
    pins := { s.pins with resetN := true }
    boot := { s.boot with bootTime := BitVec.ofNat 32 (n / 1000), resets := if s.boot.cause = 0 then 0 else s.boot.resets + 1 } }

theorem bootUp_eq (n : Nat) (h : s.boot.pendingLc = none) : bootUp n s =
    clockTo n (if bootReason s = 0 then reachReady (booting n s) else reachRecovery (booting n s)) := by
  have hf : finishChange s = s := by unfold finishChange; rw [h]
  have hr : bootReason (booting n s) = bootReason s := rfl
  have hb : bootUp n s = clockTo n (if bootReason (booting n (finishChange s)) = 0 then reachReady (booting n (finishChange s))
      else reachRecovery (booting n (finishChange s))) := rfl
  rw [hb, hf, hr]

theorem deviceReset_waits (n : Nat) (h₁ : s.boot.state ≠ .boot) (h₂ : s.boot.state ≠ .held) : exec (.deviceReset n) s = .next s :=
  congrArg Host.Outcome.next (if_neg fun h => h.elim h₁ h₂)

/-- What a boot that ends has done, in READY or in RECOVERY. -/
theorem deviceReset_boots (n : Nat) (h : s.boot.state = .boot ∨ s.boot.state = .held) (hlc : s.boot.pendingLc = none) :
    ∃ t, exec (.deviceReset n) s = .next t ∧
      t.pins.resetN = true ∧ t.boot.bootTime = BitVec.ofNat 32 (n / 1000) ∧
      t.boot.resets = (if s.boot.cause = 0 then 0 else s.boot.resets + 1) ∧ t.clock = (clockTo n s).clock ∧
      (bootReason s = 0 → t.boot.state = .ready ∧ t.boot.running = areaInfo s ∧ t.pins.faultN = true ∧
        t.island.causes = (if s.pins.coolOk then 1 else 9)) ∧
      (bootReason s ≠ 0 → t.boot.state = .recovery ∧ t.boot.reason = bootReason s ∧
        t.power.on = 0x780400 ||| (enabled s &&& 0x800000)) := by
  refine ⟨_, congrArg Host.Outcome.next (if_pos h), ?_⟩
  rw [bootUp_eq s n hlc]
  have hclocks : ∀ u : State, u.clock = s.clock → (clockTo n u).clock = (clockTo n s).clock := fun u hu => by
    unfold clockTo now
    rw [hu]
    split
    · exact hu
    · rfl
  by_cases hr : bootReason s = 0
  · rw [if_pos hr]
    obtain ⟨hclock, hboot, hpins, hisland⟩ := reachReady_kept (booting n s)
    generalize reachReady (booting n s) = u at hclock hboot hpins hisland ⊢
    have hc := hclocks u hclock
    have heq := clockTo_eq n u
    generalize clockTo n u = t at hc heq ⊢
    rw [heq]
    refine ⟨?_, ?_, ?_, hc, fun _ => ⟨?_, ?_, ?_, ?_⟩, fun hne => absurd hr hne⟩
    · show u.pins.resetN = true
      rw [hpins]; rfl
    · show u.boot.bootTime = _
      rw [hboot]; rfl
    · show u.boot.resets = _
      rw [hboot]; rfl
    · show u.boot.state = _
      rw [hboot]; rfl
    · show u.boot.running = _
      rw [hboot]; rfl
    · show u.pins.faultN = _
      rw [hpins]; rfl
    · show u.island.causes = _
      rw [hisland]
      show (if !s.pins.coolOk then 9 else 1) = _
      cases s.pins.coolOk <;> rfl
  · rw [if_neg hr]
    have hc := hclocks (reachRecovery (booting n s)) rfl
    have heq := clockTo_eq n (reachRecovery (booting n s))
    generalize clockTo n (reachRecovery (booting n s)) = t at hc heq ⊢
    rw [heq]
    exact ⟨rfl, rfl, rfl, hc, fun hz => absurd hz hr, fun _ => ⟨rfl, rfl, rfl⟩⟩

end

/-- Settles O59: each reset and start by the state that it leaves. -/
theorem resetAndPowerUp : Obligations.ResetAndPowerUp := by
  unfold Obligations.ResetAndPowerUp
  refine ⟨fun s => ⟨fun k h => ?_, fun h => ?_, fun h => congrArg Host.Outcome.next (if_neg (by simp [h])), fun hon hr c hc => ?_,
    inputLoss_off s, fun hon hf => ⟨if_pos (.inr hf), if_pos (.inr hf)⟩, coldStart_up s, fun hon hf => if_neg (by simp [hon, hf]),
    fun hon hr b => congrArg Host.Outcome.next (if_pos (by simp [hr])),
    fun hon hr => ⟨regulatorRetry_up s hon hr, congrArg Host.Outcome.next (if_neg (by simp [hon, hr]))⟩⟩,
    fun s n => ⟨deviceReset_waits s n, deviceReset_boots s n⟩⟩
  · obtain ⟨t, ht, hd, hcause, hp, hpower⟩ := deviceReset_resets s k h
    exact ⟨t, ht, hd.facts, hcause, ⟨hp.entries_eq, hp.base_eq⟩, hpower⟩
  · obtain ⟨t, ht, hd, hcause, hp, hpins, hpower⟩ := resetNLow_holds s h
    exact ⟨t, ht, hd.facts, hcause, ⟨hp.entries_eq, hp.base_eq⟩, hpins, hpower⟩
  · obtain ⟨t, ht, hd, hrest⟩ := inputLoss_down s hon hr c hc
    exact ⟨t, ht, hd.facts, hrest⟩

/-! ## Update (R453, R19) -/

section

variable (s : State)

@[simp] theorem updateForeign_taken (k : Nat) : updateForeign k (taken k s) = updateForeign k s := by
  have hb : (taken k s).boot = s.boot := by rw [taken_eq]
  unfold updateForeign
  rw [hb, sess_taken]

/-- A legal control of the session that holds the update, or of any where none does. -/
theorem updateControl_own (k c : Nat) (hc : c ≠ 0) (hc' : c ≤ 3) (hf : updateForeign k s = false) : updateControl k c s =
    if c = 1 then .done [] (updateBegin k s)
    else if c = 2 then (if s.boot.update.status = 1 then .done [] (updateCommit s) else .abort abConflict)
    else .done [] (if s.boot.update.status = 1 then updateAbort s else s) := by
  unfold updateControl
  rw [if_neg (by omega), if_neg (by simp [hf])]
  have hcases : c = 1 ∨ c = 2 ∨ c = 3 := by omega
  rcases hcases with rfl | rfl | rfl <;> rfl

/-- A control of the update that keeps the books. -/
theorem updateControl_did (k : Fin 64) (c : BitVec 8) (f : State → State) (h : HostMay k.val 7 s) (hf : KeepsBooks f s)
    (he : updateControl k.val c.toNat (taken k.val s) = .done [] (f (taken k.val s))) :
    Did k.val {} (f s) s (hostWrite k.val 0x2030 1 [c] s) :=
  hostWrite_effect s k.val _ 1 [c] [] f h.1 ((update_object s).passes k.val [c] h (by simp [typeOk, otyLen])) hf
    ((writeEffect_device _ k.val c [] 0).2.2.2.2.1.trans he)

/-- An update begun by the session of generation `g`. -/
def begun (k : Nat) (g : BitVec 8) (s : State) : State :=
  { s with boot := { s.boot with area := .bytes [], areaValid := false, update := { owner := some (k, g), status := 1, written := 0, reason := 0 } } }

theorem updateBegin_begins (k : Fin 64) (h : HostMay k.val 7 s) (hf : updateForeign k.val s = false) :
    Completes (.updateBegin k) k.val [] (begun k.val (sess s k.val).gen s) s := by
  refine ⟨_, rfl, updateControl_did s k 1 (begun k.val (sess s k.val).gen) h (fun _ _ _ => rfl) ?_⟩
  rw [updateControl_own (taken k.val s) k.val _ (by decide) (by decide) (by rwa [updateForeign_taken])]
  have hg : (sess (taken k.val s) k.val).gen = (sess s k.val).gen := by rw [sess_taken]
  show WRes.done [] (begun k.val (sess (taken k.val s) k.val).gen (taken k.val s)) = _
  rw [hg]

/-- An update whose image waits for the security engine. -/
def updateWaits (s : State) : State := { s with boot := { s.boot with update := { s.boot.update with status := 2 } } }

/-- The image area judged, the update at its end. -/
def updateJudged (s : State) : State :=
  { s with boot := { s.boot with
      areaValid := decide (checkImage s = 0)
      update := { s.boot.update with owner := none, status := if checkImage s = 0 then 3 else 4, reason := checkImage s } } }

theorem verifyUpdate_judged (h : s.boot.state ≠ .recovery) : verifyUpdate s = updateJudged s := if_neg fun hc => h hc.2

@[simp] theorem taken_boot_eq (k : Nat) : (taken k s).boot = s.boot := by rw [taken_eq]
@[simp] theorem works_taken (k d : Nat) : works (taken k s) d = works s d := by rw [taken_eq]; rfl

theorem updateJudged_keepsBooks : KeepsBooks updateJudged s := fun _ _ _ => rfl

theorem updateCommit_waits (k : Fin 64) (h : HostMay k.val 7 s) (hf : updateForeign k.val s = false) (hs : s.boot.update.status = 1)
    (hw : works s 21 = false) : Completes (.updateCommit k) k.val [] (updateWaits s) s := by
  refine ⟨_, rfl, updateControl_did s k 2 updateWaits h (fun _ _ _ => rfl) ?_⟩
  rw [updateControl_own (taken k.val s) k.val _ (by decide) (by decide) (by rwa [updateForeign_taken])]
  show (if (taken k.val s).boot.update.status = 1 then _ else _) = _
  rw [if_pos (by rw [taken_boot_eq, hs])]
  exact congrArg (WRes.done []) (if_neg (by simp [hw]))

theorem updateCommit_judges (k : Fin 64) (h : HostMay k.val 7 s) (hf : updateForeign k.val s = false) (hs : s.boot.update.status = 1)
    (hw : works s 21 = true) : Completes (.updateCommit k) k.val [] (updateJudged s) s := by
  refine ⟨_, rfl, updateControl_did s k 2 updateJudged h (updateJudged_keepsBooks s) ?_⟩
  rw [updateControl_own (taken k.val s) k.val _ (by decide) (by decide) (by rwa [updateForeign_taken])]
  show (if (taken k.val s).boot.update.status = 1 then _ else _) = _
  rw [if_pos (by rw [taken_boot_eq, hs]), ← verifyUpdate_judged (taken k.val s) (by rw [taken_boot_eq]; exact h.1.2.2.2.2)]
  exact congrArg (WRes.done []) (if_pos (by rw [works_taken, hw]))

theorem updateAbort_aborts (k : Fin 64) (h : HostMay k.val 7 s) (hf : updateForeign k.val s = false) (hs : s.boot.update.status = 1) :
    Completes (.updateAbort k) k.val [] (updateAbort s) s := by
  refine ⟨_, rfl, updateControl_did s k 3 updateAbort h (fun _ _ _ => rfl) ?_⟩
  rw [updateControl_own (taken k.val s) k.val _ (by decide) (by decide) (by rwa [updateForeign_taken])]
  exact congrArg (WRes.done []) (if_pos (by rw [taken_boot_eq, hs]))

theorem updateAbort_idle (k : Fin 64) (h : HostMay k.val 7 s) (hf : updateForeign k.val s = false) (hs : s.boot.update.status ≠ 1) :
    Completes (.updateAbort k) k.val [] s s := by
  refine ⟨_, rfl, updateControl_did s k 3 id h (fun _ _ _ => rfl) ?_⟩
  rw [updateControl_own (taken k.val s) k.val _ (by decide) (by decide) (by rwa [updateForeign_taken])]
  exact congrArg (WRes.done []) (if_neg (by rw [taken_boot_eq]; exact hs))

/-- A chunk put behind the bytes `b` of the image area. -/
def chunkWritten (b c : Bytes) (s : State) : State :=
  { s with boot := { s.boot with
      area := .bytes (b ++ c.drop 4), update := { s.boot.update with written := s.boot.update.written + (c.length - 4) } } }

theorem updateChunk_writes (k : Fin 64) (h : HostMay k.val 7 s) (hf : updateForeign k.val s = false) (hs : s.boot.update.status = 1)
    (b c : Bytes) (ha : s.boot.area = .bytes b) (h₁ : 5 ≤ c.length) (h₂ : c.length ≤ 1028) (hw : fieldAt c 0 4 = s.boot.update.written)
    (hm : s.boot.update.written + (c.length - 4) ≤ 0x4000000) : Completes (.updateChunk k c) k.val [] (chunkWritten b c s) s := by
  have htype : typeOk s 0x2030 2 (.blob 1028) c = true := by
    simp [typeOk, blobLenOk, sel, tblGet, h₁, h₂]
  refine ⟨_, rfl, hostWrite_effect s k.val _ 2 c [] (chunkWritten b c) h.1 ((chunk_object s).passes k.val c h htype) (fun _ _ _ => rfl)
    ((writeEffect_device _ k.val 0 c 0).2.2.2.2.2.1.trans ?_)⟩
  unfold updateChunk
  rw [taken_boot_eq, updateForeign_taken, if_neg (by omega), if_neg (by simp [hf, hs]), ha]
  unfold chunkWritten
  rw [taken_boot_eq]

/-! ## MIN_SVN and REVOKE (R454) -/

theorem minSvnWrite_raises (k : Fin 64) (h : HostMay k.val 7 s) (v : BitVec 16) (hv : v = s.boot.running.svn) (hm : s.boot.minSvn < v.toNat) :
    Completes (.minSvnWrite k v) k.val [] { s with boot := { s.boot with minSvn := v.toNat } } s := by
  refine ⟨_, rfl, hostWrite_effect s k.val _ 3 _ [] (fun u => { u with boot := { u.boot with minSvn := v.toNat } }) h.1
    ((minSvn_object s).passes k.val _ h (by simp [typeOk,
      otyLen])) (fun _ _ _ => rfl) ((writeEffect_device _ k.val 0 [] v).2.2.1.trans ?_)⟩
  exact if_neg (by rw [taken_boot_eq, ← hv]; omega)

theorem minSvnWrite_refused (k : Fin 64) (h : HostMay k.val 7 s) (v : BitVec 16) (hv : v.toNat ≤ s.boot.minSvn ∨ v ≠ s.boot.running.svn) :
    ∃ t, exec (.minSvnWrite k v) s = .next t ∧ RefusedWith k.val abValueRange s t := by
  refine ⟨_, rfl, hostWrite_refused s k.val _ 3 _ abValueRange h.1 ((minSvn_object s).passes k.val _ h (by simp [typeOk,
    otyLen])) (by decide)
    ((writeEffect_device _ k.val 0 [] v).2.2.1.trans ?_)⟩
  refine if_pos ?_
  rw [taken_boot_eq]
  exact hv.symm.imp (fun hne heq => hne (BitVec.eq_of_toNat_eq heq)) id

theorem keyRevoke_own (k : Fin 64) (h : HostMay k.val 7 s) (hv : s.boot.running.keySlot.toNat ≤ 3) :
    ∃ t, exec (.keyRevoke k s.boot.running.keySlot) s = .next t ∧ RefusedWith k.val abConflict s t := by
  refine ⟨_, rfl, hostWrite_refused s k.val _ 7 _ abConflict h.1 ((revoke_object s).passes k.val _ h (by simp [typeOk,
    otyLen])) (by decide)
    ((writeEffect_device _ k.val s.boot.running.keySlot [] 0).2.2.2.1.trans ?_)⟩
  exact (if_neg (by omega)).trans (if_pos (by rw [taken_boot_eq]))

theorem keyRevoke_range (k : Fin 64) (h : HostMay k.val 7 s) (v : BitVec 8) (hv : 3 < v.toNat) :
    ∃ t, exec (.keyRevoke k v) s = .next t ∧ RefusedWith k.val abValueRange s t :=
  ⟨_, rfl, hostWrite_refused s k.val _ 7 _ abValueRange h.1 ((revoke_object s).passes k.val _ h (by simp [typeOk,
    otyLen])) (by decide)
    ((writeEffect_device _ k.val v [] 0).2.2.2.1.trans (if_pos hv))⟩

theorem keyRevoke_revokes (k : Fin 64) (h : HostMay k.val 7 s) (v : BitVec 8) (hv : v.toNat ≤ 3) (hne : v ≠ s.boot.running.keySlot) :
    Completes (.keyRevoke k v) k.val []
      { s with boot := { s.boot with revoked := s.boot.revoked ||| BitVec.ofNat 4 (2 ^ v.toNat) } } s := by
  refine ⟨_, rfl, hostWrite_effect s k.val _ 7 _ []
    (fun u => { u with boot := { u.boot with revoked := u.boot.revoked ||| BitVec.ofNat 4 (2 ^ v.toNat) } }) h.1
    ((revoke_object s).passes k.val _ h (by simp [typeOk,
      otyLen])) (fun _ _ _ => rfl) ((writeEffect_device _ k.val v [] 0).2.2.2.1.trans ?_)⟩
  exact (if_neg (by omega)).trans (if_neg (by rw [taken_boot_eq]; exact fun heq => hne (BitVec.eq_of_toNat_eq heq)))

/-! ## The life cycle and quotes (R456, R457, R461) -/

theorem changeOk_taken (k : Nat) (b : Bytes) : changeOk (taken k s) b = changeOk s b := by
  rw [taken_eq]
  rfl

theorem lifecycleRequest_resets (k : Fin 64) (h : HostMay k.val 7 s) (b : Bytes) (hl : b.length = 180) (hz : fieldAt b 1 7 = 0)
    (h₁ : s.boot.update.status ≠ 1) (h₂ : s.boot.update.status ≠ 2) (hok : changeOk s b = true) :
    ∃ t, exec (.lifecycleRequest k b) s = .next t ∧ t.boot.state = .boot ∧ t.boot.cause = 3 ∧
      t.boot.pendingLc = some (BitVec.ofNat 8 (fieldAt b 0 1)) ∧ t.boot.lifecycle = s.boot.lifecycle := by
  have htype : typeOk s 0x2001 2 (.blob 180) b = true := by simp [typeOk, blobLenOk, sel, tblGet, hl]
  have he : writeEffect k.val 0x2001 2 b (taken k.val s) = .done [] (beginReset 3 .boot { taken k.val s with
      boot := { (taken k.val s).boot with pendingLc := some (BitVec.ofNat 8 (fieldAt b 0 1)) } }) := by
    refine (writeEffect_device _ k.val 0 b 0).2.1.trans ?_
    unfold changeCommand
    rw [if_neg (by simp [hz]), if_neg ?_]
    rw [taken_boot_eq, changeOk_taken, hok]
    exact fun hc => hc.elim h₁ fun hc => hc.elim h₂ nofun
  obtain ⟨t, ht, heq⟩ := hostWrite_gone s k.val 0x2001 2 b [] _ h.1 ((lifecycle_object s).passes k.val b h htype) he rfl
  refine ⟨t, congrArg Host.Outcome.next ht, ?_⟩
  rw [heq]
  refine ⟨rfl, rfl, rfl, ?_⟩
  show (taken k.val s).boot.lifecycle = _
  rw [taken_boot_eq]

theorem quoteRequest_waits (k : Fin 64) (h : HostMay k.val 0 s) (b : Bytes) (hl : b.length = 32) (hq : s.boot.quoteState ≠ 1)
    (h₀ : s.boot.lifecycle ≠ 0) (h₃ : s.boot.lifecycle ≠ 3) (hr : ready s = true) :
    Completes (.quoteRequest k b) k.val [] { s with boot := { s.boot with quoteState := 1, quoteNonce := b } } s := by
  have htype : typeOk s 0x7810 1 (.blob 32) b = true := by simp [typeOk, blobLenOk, sel, tblGet, hl]
  refine ⟨_, rfl, hostWrite_effect s k.val _ 1 b [] (fun u => { u with boot := { u.boot with quoteState := 1, quoteNonce := b } }) h.1
    ((quote_object s).passes k.val b h htype) (fun _ _ _ => rfl) ((writeEffect_device _ k.val 0 b 0).2.2.2.2.2.2.trans ?_)⟩
  have hr' : ready (taken k.val s) = true := by rw [ready, taken_boot_eq]; exact hr
  refine if_neg ?_
  rw [taken_boot_eq, hr']
  exact fun hc => hc.elim hq fun hc => hc.elim h₀ fun hc => hc.elim h₃ nofun

theorem quoteReady_signs (hq : s.boot.quoteState = 1) (hw : works s 21 = true) : ∃ n : Nat, exec .quoteReady s = .next { s with
    freeCtr := s.freeCtr + 1,
    boot := { s.boot with quoteState := 2, quote := quoteBody s ++ ecdsaSign s.boot.idSecret n (sha512 (quoteBody s)) } } :=
  ⟨Config.freeNat s.freeCtr, if_pos ⟨hq, hw⟩⟩

theorem quoteReady_idle (h : s.boot.quoteState ≠ 1 ∨ works s 21 = false) : exec .quoteReady s = .next s :=
  if_neg (by rintro ⟨hq, hw⟩; rcases h with h | h <;> simp_all)

/-- The security engine's domain on again (R19, R398). -/
def securityOn (s : State) : State :=
  { s with power := { s.power with
      rising := s.power.rising &&& ~~~(BitVec.ofNat 32 (2 ^ 21)), on := s.power.on ||| BitVec.ofNat 32 (2 ^ 21) } }

theorem settleWake_kept : (settleWake s).boot = s.boot ∧ (settleWake s).power.on = s.power.on := by
  unfold settleWake
  split <;> exact ⟨rfl, rfl⟩

theorem switchedOn_security (h : s.power.rising.getLsbD 21 = true) : switchedOn 21 s = settleWake (securityOn s) := by
  unfold switchedOn
  have hr : (!s.power.rising.getLsbD (21 : Fin 24).val) = false := by rw [Bool.not_eq_false']; exact h
  simp only [hr, Bool.false_eq_true, if_false]
  rfl

theorem domainOnDone_judges (hr : s.power.rising.getLsbD 21 = true) (hd : domainOn s 20 = true) (hu : s.boot.update.status = 2)
    (hb : s.boot.state = .ready) : ∃ t, exec (.domainOnDone 21) s = .next t ∧ t.boot = (updateJudged s).boot := by
  have hexec : exec (.domainOnDone 21) s = .next (if (21 : Fin 24).val = 21 ∧ (switchedOn 21 s).boot.update.status = 2 ∧
      works (switchedOn 21 s) 21 then verifyUpdate (switchedOn 21 s) else switchedOn 21 s) := rfl
  rw [switchedOn_security s hr] at hexec
  obtain ⟨hboot, hon⟩ := settleWake_kept (securityOn s)
  have hb₂ : (securityOn s).boot = s.boot := rfl
  rw [hb₂] at hboot
  have hworks : works (settleWake (securityOn s)) 21 = true := by
    have h₂₁ : (s.power.on ||| BitVec.ofNat 32 (2 ^ 21)).getLsbD 21 = true := by
      rw [BitVec.getLsbD_or, show (BitVec.ofNat 32 (2 ^ 21)).getLsbD 21 = true by decide, Bool.or_true]
    have h₂₀ : (s.power.on ||| BitVec.ofNat 32 (2 ^ 21)).getLsbD 20 = true := by
      rw [BitVec.getLsbD_or, show s.power.on.getLsbD 20 = true from hd, Bool.true_or]
    unfold works domainOn
    rw [hon]
    show ((s.power.on ||| BitVec.ofNat 32 (2 ^ 21)).getLsbD 21 && (s.power.on ||| BitVec.ofNat 32 (2 ^ 21)).getLsbD 20) = true
    rw [h₂₁, h₂₀]
    rfl
  generalize settleWake (securityOn s) = u at hexec hboot hworks
  rw [if_pos ⟨rfl, by rw [hboot, hu], hworks⟩, verifyUpdate_judged u (by rw [hboot, hb]; nofun)] at hexec
  have hc : checkImage u = checkImage s := by
    unfold checkImage imageKeyOk
    rw [hboot]
  refine ⟨_, hexec, ?_⟩
  unfold updateJudged
  rw [hc, hboot]

/-! ## The debug port (R455, R456) -/

theorem newChallenge_draws : ∃ c : Bytes, c.length = 32 ∧ newChallenge s = { s with
    freeCtr := s.freeCtr + 1, boot := { s.boot with challenge := some c }, out := s.out ++ [.debug c] } :=
  ⟨(List.range 32).map (Config.freeByte s.freeCtr), by simp, rfl⟩

theorem debugAuth_off (b : Bytes) (h : works s 23 = false) :
    exec (.debugAuth b) s = .next s ∧ exec (.debugTransaction b) s = .next s :=
  ⟨if_pos (.inl (by simp [h])), if_pos (by simp [h])⟩

theorem debugAuth_open (b : Bytes) (h : works s 23 = true) (hw : works s 21 = true) (hd : debugState s = 1) :
    exec (.debugAuth b) s = match s.boot.challenge with
    | none => .next (newChallenge s)
    | some c =>
      .next (if ecdsaVerify (beNat (bytesAt Config.debugKey 0 66)) (beNat (bytesAt Config.debugKey 66 66)) (sha512 c) b then
          { s with boot := { s.boot with debugOpen := true, challenge := none } }
        else newChallenge s) :=
  if_neg (by rintro (hc | hc | hc) <;> simp_all)

theorem debugAuth_judges (b : Bytes) (h : works s 23 = true) (hw : works s 21 = true) (hd : debugState s = 1) (c : Bytes)
    (hc : s.boot.challenge = some c) :
    let good := ecdsaVerify (beNat (bytesAt Config.debugKey 0 66)) (beNat (bytesAt Config.debugKey 66 66)) (sha512 c) b
    ∃ t, exec (.debugAuth b) s = .next t ∧
      (good = true → t = { s with boot := { s.boot with debugOpen := true, challenge := none } }) ∧
      (good = false → t.boot.debugOpen = s.boot.debugOpen ∧ ∃ d : Bytes, d.length = 32 ∧ t.boot.challenge = some d) := by
  intro good
  have hexec := debugAuth_open s b h hw hd
  rw [hc] at hexec
  refine ⟨_, hexec, fun hg => if_pos hg, fun hg => ?_⟩
  obtain ⟨d, hlen, heq⟩ := newChallenge_draws s
  rw [if_neg (by simpa [good] using hg), heq]
  exact ⟨rfl, d, hlen, rfl⟩

theorem debugAuth_asks (b : Bytes) (h : works s 23 = true) (hw : works s 21 = true) (hd : debugState s = 1) (hc : s.boot.challenge = none) :
    ∃ c : Bytes, c.length = 32 ∧ exec (.debugAuth b) s = .next { s with
      freeCtr := s.freeCtr + 1, boot := { s.boot with challenge := some c }, out := s.out ++ [.debug c] } := by
  obtain ⟨c, hlen, heq⟩ := newChallenge_draws s
  refine ⟨c, hlen, ?_⟩
  rw [debugAuth_open s b h hw hd, hc, ← heq]

/-- A transaction by the state of the debug port. -/
theorem debugTransaction_by (b : Bytes) (h : works s 23 = true) (d : BitVec 8) (hd : debugState s = d) :
    exec (.debugTransaction b) s =
    match d.toNat with
    | 0 => .next s
    | 1 => .next (if works s 21 then newChallenge s else s)
    | _ =>
      if s.boot.lifecycle = 0 ∧ Config.provisionRequest b then
        let (n, s) := freshNat s
        let d := 1 + n % (n521 - 1)
        .next (beginReset 3 .boot { s with boot := { s.boot with pendingLc := some 1, keyState := 1, idSecret := d, idPoint := publicPoint d } })
      else
        let (a, s) := freshBytes b.length s
        .next (emit (.debug a) s) := by
  subst hd
  exact if_neg (by simp [h])

theorem debugTransaction_asks (b : Bytes) (h : works s 23 = true) (hw : works s 21 = true) (hd : debugState s = 1) :
    ∃ c : Bytes, c.length = 32 ∧ exec (.debugTransaction b) s = .next { s with
      freeCtr := s.freeCtr + 1, boot := { s.boot with challenge := some c }, out := s.out ++ [.debug c] } := by
  obtain ⟨c, hlen, heq⟩ := newChallenge_draws s
  refine ⟨c, hlen, ?_⟩
  rw [← heq]
  exact (debugTransaction_by s b h 1 hd).trans (congrArg Host.Outcome.next (if_pos hw))

theorem debugTransaction_closed (b : Bytes) (hd : debugState s = 0) : exec (.debugTransaction b) s = .next s := by
  by_cases h : works s 23 = true
  · exact debugTransaction_by s b h 0 hd
  · exact if_pos (by simpa using h)

theorem debugState_made (h : s.boot.lifecycle = 0) : debugState s = 2 := by
  unfold debugState
  rw [h]
  rfl

/-- The identity key `d` of point `p` made, and the reset that follows. -/
def provisioned (d : Nat) (p : Nat × Nat) (s : State) : State :=
  beginReset 3 .boot { s with freeCtr := s.freeCtr + 1, boot := { s.boot with
    pendingLc := some 1, keyState := 1, idSecret := d, idPoint := p } }

theorem provisioned_boot (d : Nat) (p : Nat × Nat) : (provisioned d p s).boot.state = .boot ∧ (provisioned d p s).boot.cause = 3 ∧
    (provisioned d p s).boot.pendingLc = some 1 ∧ (provisioned d p s).boot.keyState = 1 ∧ (provisioned d p s).boot.idSecret = d ∧
    (provisioned d p s).boot.idPoint = p ∧ (provisioned d p s).boot.lifecycle = s.boot.lifecycle :=
  ⟨rfl, rfl, rfl, rfl, rfl, rfl, rfl⟩

theorem drawn_lt {m : Nat} (hm : 1 < m) (n : Nat) : 1 + n % (m - 1) < m := by
  have hlt := Nat.mod_lt n (show m - 1 > 0 by omega)
  omega

theorem debugTransaction_made (b : Bytes) (h : works s 23 = true) (hl : s.boot.lifecycle = 0) :
    ∃ t, exec (.debugTransaction b) s = .next t ∧ t.boot.lifecycle = 0 ∧
      (Config.provisionRequest b = true → t.boot.state = .boot ∧ t.boot.cause = 3 ∧ t.boot.pendingLc = some 1 ∧ t.boot.keyState = 1 ∧
        1 ≤ t.boot.idSecret ∧ t.boot.idSecret < n521 ∧ t.boot.idPoint = publicPoint t.boot.idSecret) ∧
      (Config.provisionRequest b = false → t.boot = s.boot) := by
  have hexec := debugTransaction_by s b h 2 (debugState_made s hl)
  by_cases hp : Config.provisionRequest b = true
  · have hmade : exec (.debugTransaction b) s = .next (provisioned (1 + Config.freeNat s.freeCtr % (n521 - 1))
        (publicPoint (1 + Config.freeNat s.freeCtr % (n521 - 1))) s) :=
      hexec.trans (if_pos ⟨hl, hp⟩)
    have hlt := drawn_lt (show 1 < n521 by decide) (Config.freeNat s.freeCtr)
    have hpos : 1 ≤ 1 + Config.freeNat s.freeCtr % (n521 - 1) := Nat.le_add_right _ _
    generalize 1 + Config.freeNat s.freeCtr % (n521 - 1) = d at hmade hlt hpos
    obtain ⟨hstate, hcause, hlc, hkey, hid, hpoint, hlife⟩ := provisioned_boot s d (publicPoint d)
    exact ⟨_, hmade, hlife.trans hl, fun _ => ⟨hstate, hcause, hlc, hkey, by rw [hid]; exact hpos, by rw [hid]; exact hlt,
      by rw [hid]; exact hpoint⟩, fun hn => by rw [hp] at hn; cases hn⟩
  · have hother : exec (.debugTransaction b) s = .next (emit (.debug (freshBytes b.length s).1) (freshBytes b.length s).2) :=
      hexec.trans (if_neg fun hc => hp hc.2)
    exact ⟨_, hother, hl, fun hc => absurd hc hp, fun _ => rfl⟩

theorem debugTransaction_open (b : Bytes) (h : works s 23 = true) (hd : debugState s = 2) (hl : s.boot.lifecycle ≠ 0) :
    ∃ a : Bytes, a.length = b.length ∧ exec (.debugTransaction b) s = .next { s with
      freeCtr := s.freeCtr + 1, out := s.out ++ [.debug a] } :=
  ⟨(freshBytes b.length s).1, by simp [freshBytes], (debugTransaction_by s b h 2 hd).trans (if_neg fun hc => hl hc.1)⟩

end

/-- Settles O60: each command by what it makes of the boot's record. -/
theorem firmwareAndIdentity : Obligations.FirmwareAndIdentity := by
  unfold Obligations.FirmwareAndIdentity
  refine ⟨fun s k h => ⟨fun hf => ⟨updateBegin_begins s k h hf, fun hs b c ha h₁ h₂ hw hm => updateChunk_writes s k h hf hs b c ha h₁ h₂ hw hm,
      updateCommit_waits s k h hf, updateCommit_judges s k h hf, updateAbort_aborts s k h hf, updateAbort_idle s k h hf⟩,
      minSvnWrite_raises s k h, minSvnWrite_refused s k h, keyRevoke_own s k h, keyRevoke_range s k h, keyRevoke_revokes s k h,
      lifecycleRequest_resets s k h⟩,
    fun s k b h => quoteRequest_waits s k h b, fun s => ⟨quoteReady_signs s, quoteReady_idle s, domainOnDone_judges s⟩,
    fun s b => ⟨debugAuth_off s b, fun h hw hd => ⟨debugAuth_judges s b h hw hd, debugAuth_asks s b h hw hd,
      debugTransaction_asks s b h hw hd⟩, debugTransaction_closed s b, debugTransaction_made s b, debugTransaction_open s b⟩⟩

end Sys2Proof.Machine

end

section
/-!
PROOF. The end of a domain's switching (R398) against an update that waits for the security engine (R19, R453).
-/

namespace Sys2Proof.Machine

open Claims

/-- The security engine's domain and the I/O fabric's are on, none is being switched, and an update waits to be verified. -/
def waitingUpdate : State := { State.reset with
  power := { State.reset.power with on := 0x300000, rising := 0 }
  boot := { State.reset.boot with update := { status := 2 } } }

/-- No domain is being switched, but the update is verified. -/
theorem waitingUpdate_judged : exec (.domainOnDone 21) waitingUpdate = .next (verifyUpdate waitingUpdate) := by
  have hexec : exec (.domainOnDone 21) waitingUpdate = .next (if (21 : Fin 24).val = 21 ∧
      (switchedOn 21 waitingUpdate).boot.update.status = 2 ∧ works (switchedOn 21 waitingUpdate) 21 then
        verifyUpdate (switchedOn 21 waitingUpdate) else switchedOn 21 waitingUpdate) := rfl
  have hsame : switchedOn 21 waitingUpdate = waitingUpdate := by
    unfold switchedOn
    exact if_pos (by decide)
  rw [hsame] at hexec
  rw [hexec, if_pos ⟨rfl, rfl, by decide⟩]

theorem verifyUpdate_status (s : State) : (verifyUpdate s).boot.update.status ≠ 2 := by
  have hjudged : (if checkImage s = 0 then 3 else 4 : BitVec 8) ≠ 2 := by split <;> decide
  unfold verifyUpdate
  simp only
  split
  · nofun
  · exact hjudged

/-- Refutes O56: its second part says that an end of switching of a domain that is not being switched changes nothing, in every
state. Where the security engine's domain is on and an update waits (status 2), the command verifies the update. (No run leaves an
update waiting while the engine works: the statement does not ask for states that a run reaches.) -/
theorem not_powerControl : ¬ Obligations.PowerControl := by
  rintro ⟨-, hdomains, -⟩
  obtain ⟨-, hidle, -⟩ := hdomains waitingUpdate 21
  have hnext := (waitingUpdate_judged.symm.trans (hidle (by decide)))
  have hsame : verifyUpdate waitingUpdate = waitingUpdate := Host.Outcome.next.inj hnext
  exact verifyUpdate_status waitingUpdate (by rw [hsame]; rfl)

end Sys2Proof.Machine

end

section
/-!
PROOF. Failure events, re-tests and field tests (R416-R428, R433).
-/

namespace Sys2Proof.Machine

open Claims

/-! ## Event bits that stand -/

/-- A bit of EVENTS that is set stays set. -/
def EventsStand (s t : State) : Prop := ∀ n, s.events.getLsbD n = true → t.events.getLsbD n = true

namespace EventsStand

variable {s t u : State}

theorem refl (s : State) : EventsStand s s := fun _ h => h

theorem trans (h : EventsStand s t) (k : EventsStand t u) : EventsStand s u := fun n hn => k n (h n hn)

theorem of_events (h : t.events = s.events) : EventsStand s t := fun _ hn => by rw [h]; exact hn

theorem of_notices (h : Notices s t) : EventsStand s t := h.events

theorem forEach {α : Type} (l : List α) (f : α → State → State) (h : ∀ a u, EventsStand u (f a u)) (s : State) :
    EventsStand s (forEach l f s) := forEach_rel EventsStand refl (fun _ _ _ h k => h.trans k) f l (fun a _ u => h a u) s

end EventsStand

section

variable (s : State)

theorem releaseJob_events (j : Job) (done : Bool) : (releaseJob j done s).events = s.events := by
  rw [(releaseJob_releases s j done).eq]
  rfl

theorem countCompletion_events (j : Job) (st : BitVec 8) : (countCompletion j st s).events = s.events := by
  unfold countCompletion
  extract_lets c s₁ s₂
  have h₁ : s₁.events = s.events := count_events ..
  split
  · rw [count_events, count_events, count_events, h₁]
  · have h₂ : s₂.events = s₁.events := count_events ..
    split
    · rw [count_events, h₂, h₁]
    · rw [h₂, h₁]

theorem notifyJob_stand (j : Job) (r : CompRec) : EventsStand s (notifyJob j r s) := by
  unfold notifyJob
  split
  · exact .refl s
  · split
    · exact .of_notices (notify_notices s _ _)
    · exact .refl s

theorem settleQueue_events (q : Nat) : (settleQueue q s).events = s.events := by unfold settleQueue; split <;> rfl

theorem settleParts_events (ps : List Nat) : (forEach ps settlePart s).events = s.events :=
  forEach_rel (fun u v => v.events = u.events) (fun _ => rfl) (fun _ _ _ h k => k.trans h) settlePart ps
    (fun p _ u => by unfold settlePart; split <;> rfl) s

theorem completeJob_stand (g : BitVec 32) (st : BitVec 8) : EventsStand s (completeJob g st s) := by
  unfold completeJob
  split
  · exact .refl s
  · extract_lets j' s₁ s₂ r s₃
    have h₁ : s₁.events = s.events := releaseJob_events ..
    have h₂ : s₂.events = s₁.events := countCompletion_events ..
    have h₃ : EventsStand s₂ s₃ := by
      simp only [s₃]
      split
      · exact EventsStand.trans (t := qmod j'.q (fun x => { x with records := x.records ++ [r] }) s₂) (.of_events rfl) (notifyJob_stand _ j' r)
      · exact .refl s₂
    refine .trans (.of_events (h₂.trans h₁)) (h₃.trans (.of_events ?_))
    rw [settleQueue_events, settleParts_events]

theorem safetyFrames_stand (c : Bool) : EventsStand s (safetyFrames c s) := .of_events (by rw [(safetyFrames_sent s c).eq])

theorem enterSafe_stand (c : Nat) (d : BitVec 32) (fault : Bool) : EventsStand s (enterSafe c d fault s) := by
  by_cases h : s.island.state = .normal
  · rw [enterSafe_normal s c d fault h]
    have hended : EventsStand s (endUncommitted s) := .forEach _ _ (fun (j : Job) u => completeJob_stand u j.tag stSafe) s
    have hlatch : EventsStand s (countEntry (latchFirst c d fault (safeUnits (endUncommitted s)))) := hended.trans fun n hn =>
      setEvent_getLsbD (count 0x741d 0x0c 1 (latchFirst c d fault (safeUnits (endUncommitted s)))) 0 n hn
    generalize countEntry (latchFirst c d fault (safeUnits (endUncommitted s))) = t at hlatch
    simp only
    split
    · exact hlatch
    · exact hlatch.trans (.trans (.of_notices (notifyAll_notices t _ _)) (safetyFrames_stand _ false))
  · rw [enterSafe_again s c d fault h]
    split
    · exact .of_events rfl
    · exact .trans (.of_events (t := latchMore c d fault s) rfl) (safetyFrames_stand _ false)

theorem finishJob_stand (g : BitVec 32) (st : BitVec 8) : EventsStand s (finishJob g st s) := by
  have hend := completeJob_stand s g st
  unfold finishJob
  split
  · exact .refl s
  · simp only
    split
    · exact hend.trans (enterSafe_stand _ 2 g false)
    · exact hend

/-! ## Counters that neither the end of a job nor an entry to safe state counts -/

/-- A step that counts only at the subindices of counter objects at which ends of jobs and entries to safe state count. -/
def CountsOfEnds (s t : State) : Prop :=
  ∀ n, n % 256 ∉ [1, 2, 3, 4, 5, 8, 12, 13] → tblGet 0 t.counters n = tblGet 0 s.counters n

theorem CountsOfEnds.refl (s : State) : CountsOfEnds s s := fun _ _ => rfl

theorem CountsOfEnds.trans {s t u : State} (h : CountsOfEnds s t) (k : CountsOfEnds t u) : CountsOfEnds s u :=
  fun n hn => (k n hn).trans (h n hn)

theorem CountsOfEnds.of_counters {s t : State} (h : t.counters = s.counters) : CountsOfEnds s t := fun _ _ => by rw [h]

theorem CountsOfEnds.of_low {s t : State} (h : CountsLow s t) : CountsOfEnds s t := fun n hn => h.same n fun hm => hn (by
  simp only [List.mem_cons, List.not_mem_nil, or_false] at hm ⊢
  omega)

theorem CountsOfEnds.of_but {s t : State} {l : List Nat} (h : CountersBut l s t) (hl : ∀ n ∈ l, n % 256 ∈ [1, 2, 3, 4, 5, 8, 12, 13]) :
    CountsOfEnds s t := fun n hn => h n fun hmem => hn (hl n hmem)

theorem safetyFrames_ends (c : Bool) : CountsOfEnds s (safetyFrames c s) :=
  .of_but (l := [0x741d0d]) (fun n hn => (safetyFrames_sent s c).counters n hn) (by decide)

theorem enterSafe_ends (c : Nat) (d : BitVec 32) (fault : Bool) : CountsOfEnds s (enterSafe c d fault s) := by
  by_cases h : s.island.state = .normal
  · rw [enterSafe_normal s c d fault h]
    have hlatch : CountsOfEnds s (countEntry (latchFirst c d fault (safeUnits (endUncommitted s)))) :=
      (CountsOfEnds.of_low (endUncommitted_low s)).trans
        (.of_but (l := [0x741d0c]) (countersBut_count (latchFirst c d fault (safeUnits (endUncommitted s))) 0x741d 0x0c 1 _ (by decide))
          (by decide))
    generalize countEntry (latchFirst c d fault (safeUnits (endUncommitted s))) = t at hlatch
    simp only
    split
    · exact hlatch
    · exact hlatch.trans (.trans (.of_but (notifyAll_notices t _ _).counters (by decide)) (safetyFrames_ends _ false))
  · rw [enterSafe_again s c d fault h]
    split
    · exact .of_counters rfl
    · exact .trans (.of_counters (t := latchMore c d fault s) rfl) (safetyFrames_ends _ false)

theorem finishJob_ends (g : BitVec 32) (st : BitVec 8) : CountsOfEnds s (finishJob g st s) := by
  have hend : CountsOfEnds s (completeJob g st s) := .of_low (completeJob_low s g st)
  unfold finishJob
  split
  · exact .refl s
  · simp only
    split
    · exact hend.trans (enterSafe_ends _ 2 g false)
    · exact hend

/-- A lost stream: what its ended jobs count and raise. -/
theorem loseStream_ends (n : Nat) (st : BitVec 8) : CountsOfEnds s (loseStream n st s) ∧ EventsStand s (loseStream n st s) := by
  unfold loseStream
  extract_lets r s₁ s₂
  have h₂ : s₂.counters = s.counters ∧ s₂.events = s.events := ⟨rfl, rfl⟩
  obtain ⟨hc, he⟩ := h₂
  generalize s₂ = v at hc he
  exact ⟨.trans (.of_counters hc) (forEach_rel CountsOfEnds .refl (fun _ _ _ h k => h.trans k) _ _
      (fun (j : Job) _ u => finishJob_ends u j.tag st) v),
    .trans (.of_events he) (.forEach _ _ (fun (j : Job) u => finishJob_stand u j.tag st) v)⟩

end

/-! ## A failure event (R417, R419) -/

section

variable (s : State)

/-- A step that tells of an event at this instant: counters, event bits and notify frames. -/
structure Tells (s t : State) : Prop where
  eq : t = { s with
    counters := t.counters, events := t.events, eventsAt := now s, eventsNew := t.eventsNew, sessions := t.sessions }
  events : EventsStand s t

theorem Tells.trans {s t u : State} (h : Tells s t) (k : Tells t u) : Tells s u where
  eq := by rw [k.eq, h.eq]; rfl
  events := h.events.trans k.events

theorem setEvent_tells (n : Nat) : Tells s (setEvent n s) := ⟨rfl, fun m h => setEvent_getLsbD s n m h⟩

theorem count_tells (i j n : Nat) (h : s.eventsAt = now s) : Tells s (count i j n s) :=
  ⟨by rw [← h]; rfl, .refl s⟩

theorem ite_tells {c : Prop} [Decidable c] {t : State} (h : s.eventsAt = now s) (ht : Tells s t) :
    Tells s (if c then t else s) := by
  split
  · exact ht
  · exact ⟨by rw [← h], .refl s⟩

theorem Tells.at_now {s t : State} (h : Tells s t) : t.eventsAt = now t := by
  rw [h.eq]
  rfl

theorem notify_tells (k : Nat) (n : Notify) (h : s.eventsAt = now s) : Tells s (notify k n s) := by
  have hsmod : ∀ (u : State) (g : Session → Session), u.eventsAt = now u → Tells u (smod k g u) := fun u g hu =>
    ⟨by rw [← hu]; rfl, .refl u⟩
  have hdrop : ∀ u : State, u.eventsAt = now u → Tells u (notifyDropped k u) := fun u hu => by
    have h₁ := hsmod u (fun e => { e with lost := e.lost + 1, lostFlag := true }) hu
    have h₂ := count_tells (smod k (fun e => { e with lost := e.lost + 1, lostFlag := true }) u) 0x741e 8 1 h₁.at_now
    exact (h₁.trans h₂).trans (setEvent_tells _ 8)
  unfold notify
  split
  · exact hsmod s _ h
  · split
    · have h₁ := hsmod s (fun e => { e with queue := e.queue.drop 1 ++ [n] }) h
      exact h₁.trans (hdrop _ h₁.at_now)
    · exact hdrop s h

theorem notifySubs_tells (c : Nat) (d : Bytes) (h : s.eventsAt = now s) : Tells s (notifySubs c d s) := by
  have hall : ∀ (l : List Nat) (n : Notify) (u : State), u.eventsAt = now u → Tells u (forEach l (fun k => notify k n) u) := by
    intro l n
    induction l with
    | nil => exact fun u hu => ⟨by rw [← hu]; rfl, .refl u⟩
    | cons k l ih => exact fun u hu => (notify_tells u k n hu).trans (ih _ (notify_tells u k n hu).at_now)
  exact hall _ _ s h

/-- A count that a condition asks for. -/
def countIf (c : Prop) [Decidable c] (i j : Nat) (s : State) : State := if c then count i j 1 s else s

/-- A part of the telling of an event: the counts of events and of completed jobs stay. -/
structure Retells (s t : State) : Prop where
  tells : Tells s t
  ten : counter t 0x741d 0x0a = counter s 0x741d 0x0a
  one : counter t 0x741d 1 = counter s 0x741d 1

theorem Retells.trans {s t u : State} (h : Retells s t) (k : Retells t u) : Retells s u :=
  ⟨h.tells.trans k.tells, k.ten.trans h.ten, k.one.trans h.one⟩

theorem countIf_retells (c : Prop) [Decidable c] (i j : Nat) (h : s.eventsAt = now s) (h₁ : objKey 0x741d 0x0a ≠ objKey i j)
    (h₂ : objKey 0x741d 1 ≠ objKey i j) : Retells s (countIf c i j s) := by
  unfold countIf
  split
  · exact ⟨count_tells s i j 1 h, counter_count_other s i j 1 _ _ h₁, counter_count_other s i j 1 _ _ h₂⟩
  · exact ⟨⟨by rw [← h], .refl s⟩, rfl, rfl⟩

/-- The event counted and told (R417). -/
def tallied (u : BitVec 32) (c : EventCause) (s : State) : State :=
  notifySubs 0x20 (leBytes 4 u.toNat) (countIf (unitKind u = 8) 0x741d 5
    (countIf (c = .uncorrectable ∧ unitKind u = 4) (0x3820 + unitIndex u) 3
      (countIf (c = .uncorrectable ∧ unitKind u ≤ 3) 0x741d 4
        (countIf (c = .parity) 0x741d 2 (setEvent 2 (count 0x741d 0x0a 1 s))))))

/-- The event remembered, a checker pair put up for its tests (R419, R424). -/
def recalled (u : BitVec 32) (h : List Nat) (p : Bool) (s : State) : State :=
  let s := { s with island := { s.island with history := (u, h) :: s.island.history.filter (fun e => e.1 ≠ u) } }
  if unitKind u = 8 then { s with island := { s.island with urgent := s.island.urgent ++ [(unitIndex u, p), (unitIndex u + 1, p)] } } else s

/-- A bank of an uncorrectable error put up for its re-test (R416). -/
def reasked (u : BitVec 32) (c : EventCause) (a : Nat) (s : State) : State :=
  if c = .uncorrectable ∧ (unitKind u = 2 ∨ unitKind u = 3) then askRetest u a s else s

/-- The times of the unit's failure events, the newest first. -/
def newHistory (u : BitVec 32) (s : State) : List Nat := (counter s 0x741d 1).toNat :: unitHistory s u

theorem failureEvent_transient (u : BitVec 32) (c : EventCause) (hp : permanentByCount (newHistory u (tallied u c s)) = false) :
    failureEvent u c false none s =
      let v := blockError u c (recalled u (newHistory u (tallied u c s)) false (tallied u c s))
      reasked u c v.sluice.nextDying v := by
  have hdef : ∀ v : State, tallied u c s = v → failureEvent u c false none s =
      (let p := permanentByCount (newHistory u v)
       let w := blockError u c (recalled u (newHistory u v) p v)
       let x := reasked u c (blockError u c (recalled u (newHistory u v) p v)).sluice.nextDying w
       if !p then x else if 1 ≤ unitKind u ∧ unitKind u ≤ 7 then retireUnit u x else if unitKind u = 9 then enterSafe 9 u true x else x) := by
    rintro v rfl
    rfl
  rw [hdef _ rfl, hp]
  rfl

theorem tallied_facts (u : BitVec 32) (c : EventCause) : Tells s (tallied u c s) ∧ (tallied u c s).events.getLsbD 2 = true ∧
    counter (tallied u c s) 0x741d 0x0a = counter s 0x741d 0x0a + 1 ∧ counter (tallied u c s) 0x741d 1 = counter s 0x741d 1 := by
  have h₁ : Tells s (setEvent 2 (count 0x741d 0x0a 1 s)) := ⟨rfl, fun m h => setEvent_getLsbD (count 0x741d 0x0a 1 s) 2 m h⟩
  have hbit : (setEvent 2 (count 0x741d 0x0a 1 s)).events.getLsbD 2 = true := setEvent_getLsbD_same (count 0x741d 0x0a 1 s) (2 : Fin 32)
  have hten : counter (setEvent 2 (count 0x741d 0x0a 1 s)) 0x741d 0x0a = counter s 0x741d 0x0a + 1 := counter_count_same s 0x741d 0x0a
  have hone : counter (setEvent 2 (count 0x741d 0x0a 1 s)) 0x741d 1 = counter s 0x741d 1 :=
    counter_count_other s 0x741d 0x0a 1 0x741d 1 (by decide)
  unfold tallied
  generalize setEvent 2 (count 0x741d 0x0a 1 s) = v at h₁ hbit hten hone ⊢
  have h₂ := countIf_retells v (c = .parity) 0x741d 2 h₁.at_now (by decide) (by decide)
  generalize countIf (c = .parity) 0x741d 2 v = w at h₂ ⊢
  have h₃ := h₂.trans (countIf_retells w (c = .uncorrectable ∧ unitKind u ≤ 3) 0x741d 4 h₂.tells.at_now (by decide) (by decide))
  generalize countIf (c = .uncorrectable ∧ unitKind u ≤ 3) 0x741d 4 w = x at h₃ ⊢
  have h₄ := h₃.trans (countIf_retells x (c = .uncorrectable ∧ unitKind u = 4) (0x3820 + unitIndex u) 3 h₃.tells.at_now
    (by simp only [objKey]; omega) (by simp only [objKey]; omega))
  generalize countIf (c = .uncorrectable ∧ unitKind u = 4) (0x3820 + unitIndex u) 3 x = y at h₄ ⊢
  have h₅ := h₄.trans (countIf_retells y (unitKind u = 8) 0x741d 5 h₄.tells.at_now (by decide) (by decide))
  generalize countIf (unitKind u = 8) 0x741d 5 y = z at h₅ ⊢
  have hnotes := (notifySubs_notices z 0x20 (leBytes 4 u.toNat)).counters
  have h₆ := notifySubs_tells z 0x20 (leBytes 4 u.toNat) h₅.tells.at_now
  generalize notifySubs 0x20 (leBytes 4 u.toNat) z = t at hnotes h₆ ⊢
  exact ⟨h₁.trans (h₅.tells.trans h₆), (h₅.tells.trans h₆).events 2 hbit,
    (hnotes _ (by decide)).trans (h₅.ten.trans hten), (hnotes _ (by decide)).trans (h₅.one.trans hone)⟩

theorem unitHistory_cons (u v : BitVec 32) (h : List Nat) (l : List (BitVec 32 × List Nat)) :
    ((((u, h) :: l.filter (fun e => e.1 ≠ u)).find? (fun e => e.1 = v)).map (fun e => e.2)).getD [] =
      if v = u then h else ((l.find? (fun e => e.1 = v)).map (fun e => e.2)).getD [] := by
  rw [List.find?_cons]
  by_cases hv : v = u
  · subst hv
    simp
  · have hne : decide (u = v) = false := decide_eq_false fun hc => hv hc.symm
    rw [if_neg hv]
    simp only [hne, List.find?_filter]
    congr 3
    funext e
    by_cases he : e.1 = v
    · simp [he, hv]
    · simp [he]

theorem recalled_frame (u : BitVec 32) (h : List Nat) (p : Bool) :
    recalled u h p s = { s with island := (recalled u h p s).island } := by
  unfold recalled
  simp only
  split <;> rfl

theorem recalled_island (u : BitVec 32) (h : List Nat) (p : Bool) : (recalled u h p s).island = { s.island with
    history := (u, h) :: s.island.history.filter (fun e => e.1 ≠ u)
    urgent := if unitKind u = 8 then s.island.urgent ++ [(unitIndex u, p), (unitIndex u + 1, p)] else s.island.urgent } := by
  unfold recalled
  simp only
  split <;> rfl

theorem blockError_ends (u : BitVec 32) (c : EventCause) :
    CountsOfEnds s (blockError u c s) ∧ EventsStand s (blockError u c s) := by
  unfold blockError
  split
  · simp only
    split
    · exact ⟨.of_counters rfl, .of_events rfl⟩
    · have hstart : CountsOfEnds s (freshNat s).2 ∧ EventsStand s (freshNat s).2 := ⟨.of_counters rfl, .of_events rfl⟩
      generalize (freshNat s).2 = v at hstart
      exact ⟨hstart.1.trans (forEach_rel CountsOfEnds .refl (fun _ _ _ h k => h.trans k) _ _
          (fun (b : Nat × Nat) _ w => (loseStream_ends w b.1 stIntegrity).1) v),
        hstart.2.trans (.forEach _ _ (fun (b : Nat × Nat) w => (loseStream_ends w b.1 stIntegrity).2) v)⟩
  · exact ⟨.refl s, .refl s⟩

theorem reasked_frame (u : BitVec 32) (c : EventCause) (a : Nat) :
    ∃ l, reasked u c a s = { s with island := { s.island with retests := l } } := by
  unfold reasked
  split
  · exact ⟨_, rfl⟩
  · exact ⟨s.island.retests, rfl⟩

theorem reasked_asks (u : BitVec 32) (c : EventCause) (a : Nat) (hc : c = .uncorrectable) (hk : unitKind u = 2 ∨ unitKind u = 3) :
    ∃ b, (u, b) ∈ (reasked u c a s).island.retests := by
  unfold reasked
  rw [if_pos ⟨hc, hk⟩]
  exact ⟨_, List.mem_append_right _ (List.mem_singleton.mpr rfl)⟩

/-- What an event makes unreadable on its way: nothing but marks of the island, where no fixed unit fails. -/
theorem spoilUnit_frame (u : BitVec 32) (h : unitKind u ≠ 9) :
    ∃ l, spoilUnit u s = { s with island := { s.island with spoil := l } } := by
  unfold spoilUnit
  split
  · exact ⟨_, rfl⟩
  · split
    · exact ⟨_, rfl⟩
    · exact ⟨s.island.spoil, rfl⟩

/-- A failure event that is not permanent, of a unit that is not fixed and of no job. -/
theorem failureEvent_counts (u : BitVec 32) (c : EventCause) (hp : permanentByCount (newHistory u s) = false) :
    let t := failureEvent u c false none s
    counter t 0x741d 0x0a = counter s 0x741d 0x0a + 1 ∧ t.events.getLsbD 2 = true := by
  obtain ⟨htells, hbit, hten, hone⟩ := tallied_facts s u c
  have hhist : newHistory u (tallied u c s) = newHistory u s := by
    unfold newHistory unitHistory
    rw [hone, htells.eq]
  have heq := failureEvent_transient s u c (by rw [hhist, hp])
  rw [heq]
  generalize tallied u c s = v at hbit hten ⊢
  have hw := recalled_frame v u (newHistory u v) false
  generalize recalled u (newHistory u v) false v = w at hw ⊢
  obtain ⟨hcount, hstand⟩ := blockError_ends w u c
  generalize blockError u c w = x at hcount hstand ⊢
  obtain ⟨l, hl⟩ := reasked_frame x u c x.sluice.nextDying
  simp only [hl]
  refine ⟨?_, hstand 2 (by rw [hw]; exact hbit)⟩
  have hx : counter x 0x741d 0x0a = counter w 0x741d 0x0a := hcount _ (by decide)
  show counter x 0x741d 0x0a = _
  rw [hx, hw]
  exact hten

theorem failureEvent_keeps (u : BitVec 32) (c : EventCause) (hp : permanentByCount (newHistory u s) = false)
    (hb : c ≠ .uncorrectable ∨ unitKind u ≠ 1 ∨ blocksOn s (unitIndex u) = []) :
    let t := failureEvent u c false none s
    t = { s with counters := t.counters, events := t.events, eventsAt := now s, eventsNew := t.eventsNew,
                 sessions := t.sessions, island := t.island } ∧
      unitHistory t u = newHistory u s ∧ (∀ v, v ≠ u → unitHistory t v = unitHistory s v) ∧ t.island.retired = s.island.retired ∧
      t.island.state = s.island.state ∧
      (unitKind u = 8 → t.island.urgent = s.island.urgent ++ [(unitIndex u, false), (unitIndex u + 1, false)]) ∧
      (c = .uncorrectable → unitKind u = 2 ∨ unitKind u = 3 → ∃ a, (u, a) ∈ t.island.retests) := by
  obtain ⟨htells, -, -, hone⟩ := tallied_facts s u c
  have hhist : newHistory u (tallied u c s) = newHistory u s := by
    unfold newHistory unitHistory
    rw [hone, htells.eq]
  have heq := failureEvent_transient s u c (by rw [hhist, hp])
  rw [heq, hhist]
  have hv := htells.eq
  generalize tallied u c s = v at hv ⊢
  have hisland := recalled_island v u (newHistory u s) false
  have hw := recalled_frame v u (newHistory u s) false
  generalize recalled u (newHistory u s) false v = w at hisland hw ⊢
  have hblock : blockError u c w = w := by
    refine if_neg ?_
    rintro ⟨h₁, h₂, h₃⟩
    have hsame : blocksOn w (unitIndex u) = blocksOn s (unitIndex u) := by rw [hw, hv]; rfl
    rcases hb with h | h | h
    · exact h h₁
    · exact h h₂
    · exact h₃ (hsame.trans h)
  have hi : v.island = s.island := by rw [hv]
  simp only [hblock]
  have hask := reasked_asks w u c w.sluice.nextDying
  obtain ⟨l, hl⟩ := reasked_frame w u c w.sluice.nextDying
  generalize reasked u c w.sluice.nextDying w = t at hask hl ⊢
  have hti : t.island = { w.island with retests := l } := by rw [hl]
  rw [hisland, hi] at hti
  have hhistory : ∀ x, unitHistory t x = if x = u then newHistory u s else unitHistory s x := fun x => by
    unfold unitHistory
    rw [hti]
    exact unitHistory_cons u x _ _
  refine ⟨?_, (hhistory u).trans (if_pos rfl), fun x hx => (hhistory x).trans (if_neg hx), by rw [hti], by rw [hti],
    fun hk => ?_, hask⟩
  · rw [hl, hw, hv]
  · rw [hti]
    exact if_pos hk

theorem failureEvent_exec (u : BitVec 32) (c : EventCause) (hu : unitOk u = true) (hr : ready s = true) (hc : c ≠ .corrected) :
    exec (.failureEvent u c false none) s = .next (failureEvent u c false none (spoilUnit u s)) := by
  refine congrArg Host.Outcome.next ((if_neg ?_).trans (if_neg hc))
  rw [hu, hr]
  simp

theorem failureEvent_corrected (u : BitVec 32) (c : EventCause) (hu : unitOk u = true) (hr : ready s = true) (hc : c = .corrected)
    (hk : unitKind u = 1 ∨ unitKind u = 2 ∨ unitKind u = 3) : exec (.failureEvent u c false none) s = .next (count 0x741d 3 1 s) := by
  refine congrArg Host.Outcome.next ((if_neg ?_).trans ((if_pos hc).trans (if_pos (by omega))))
  rw [hu, hr]
  simp

theorem failureEvent_remembers (u : BitVec 32) (c : EventCause) (hu : unitOk u = true) (hr : ready s = true) (hc : c ≠ .corrected)
    (hk : unitKind u ≠ 9) :
    let h := (counter s 0x741d 1).toNat :: unitHistory s u
    permanentByCount h = false → ∃ t, exec (.failureEvent u c false none) s = .next t ∧
      counter t 0x741d 0x0a = counter s 0x741d 0x0a + 1 ∧ t.events.getLsbD 2 = true ∧
      (c ≠ .uncorrectable ∨ unitKind u ≠ 1 ∨ blocksOn s (unitIndex u) = [] →
        t = { s with counters := t.counters, events := t.events, eventsAt := now s, eventsNew := t.eventsNew,
                     sessions := t.sessions, island := t.island } ∧
        unitHistory t u = h ∧ (∀ v, v ≠ u → unitHistory t v = unitHistory s v) ∧ t.island.retired = s.island.retired ∧
        t.island.state = s.island.state ∧
        (unitKind u = 8 → t.island.urgent = s.island.urgent ++ [(unitIndex u, false), (unitIndex u + 1, false)]) ∧
        (c = .uncorrectable → unitKind u = 2 ∨ unitKind u = 3 → ∃ a, (u, a) ∈ t.island.retests)) := by
  intro h hp
  refine ⟨_, failureEvent_exec s u c hu hr hc, ?_⟩
  obtain ⟨l, hl⟩ := spoilUnit_frame s u hk
  have hhist : newHistory u (spoilUnit u s) = h := by rw [hl]; rfl
  obtain ⟨hcount, hbit⟩ := failureEvent_counts (spoilUnit u s) u c (by rw [hhist, hp])
  refine ⟨by rw [hcount, hl]; rfl, hbit, fun hb => ?_⟩
  obtain ⟨heq, hown, hother, hret, hst, hurgent, hretest⟩ := failureEvent_keeps (spoilUnit u s) u c (by rw [hhist, hp])
    (by rw [hl]; exact hb)
  generalize failureEvent u c false none (spoilUnit u s) = t at heq hown hother hret hst hurgent hretest ⊢
  rw [hhist] at hown
  rw [hl] at heq hother hret hst hurgent
  exact ⟨heq, hown, hother, hret, hst, hurgent, hretest⟩

/-! ## Field tests (R424-R428) -/

theorem notePass_frame : ∃ a b c d e, notePass s = { s with island := { s.island with
    visit := a, part := b, passFrom := c, lastPass := d, passTime := e } } := by
  unfold notePass
  split
  · exact ⟨_, _, _, _, _, rfl⟩
  · exact ⟨_, _, _, _, _, rfl⟩

theorem passPart_frame (t p : Nat) : ∃ a b c d e, passPart t p s = { s with island := { s.island with
    visit := a, part := b, passFrom := c, lastPass := d, passTime := e } } := by
  unfold passPart
  split
  · obtain ⟨a, b, c, d, e, h⟩ := notePass_frame { s with island := { s.island with
      visit := if p < 17 then t else t + 1, part := if p < 17 then p + 1 else 0 } }
    exact ⟨a, b, c, d, e, h⟩
  · exact ⟨s.island.visit, s.island.part, s.island.passFrom, s.island.lastPass, s.island.passTime, rfl⟩

/-- The field test `t` with its checker and number, as it begins. -/
def testBegun (t : Nat) (p : Nat) (c : Option Nat) (n : Nat) (re : Bool) (s : State) : State :=
  { s with island := { s.island with
      tests := s.island.tests ++ [(t, ⟨c, p, n, re⟩)], testNo := max n s.island.testNo
      lastTest := tblPut s.island.lastTest t (now s + 1) } }

theorem fieldTestStart_exec (t : Fin 512) (p : Fin 18) : exec (.fieldTestStart t p) s =
    let v := notePass s
    if !(testAllowed v t.val p.val) ∨ !(ready v) then .next v
    else if p.val ≠ 0 then .next (testBegun t.val p.val none v.island.testNo false v)
    else match retestOf v t.val with
      | some x => .next (match checkerFor v t.val (some x.checker) with
          | some c => testBegun t.val p.val (some c) (x.number + 1) true v
          | none => v)
      | none => .next (match checkerFor v t.val none with
          | some c => testBegun t.val p.val (some c) (v.island.testNo + 1) false v
          | none => v) := rfl

/-- The instant at which the test begins is that of the command. -/
theorem testBegun_notePass (t p : Nat) (c : Option Nat) (n : Nat) (re : Bool) : testBegun t p c n re (notePass s) =
    { notePass s with island := { (notePass s).island with
        tests := (notePass s).island.tests ++ [(t, ⟨c, p, n, re⟩)], testNo := max n (notePass s).island.testNo
        lastTest := tblPut (notePass s).island.lastTest t (now s + 1) } } := by
  have hnow : now (notePass s) = now s := by
    obtain ⟨_, _, _, _, _, h⟩ := notePass_frame s
    rw [h]
    rfl
  unfold testBegun
  rw [hnow]

theorem fieldTestStart_cases (t : Fin 512) (hr : ready s = true) (p : Fin 18) :
    let v := notePass s
    let start := fun (c : Option Nat) (n : Nat) (re : Bool) => testBegun t.val p.val c n re v
    (testAllowed v t.val p.val = false → exec (.fieldTestStart t p) s = .next v) ∧
    (testAllowed v t.val p.val = true →
      (p.val ≠ 0 → exec (.fieldTestStart t p) s = .next (start none v.island.testNo false)) ∧
      (p.val = 0 → retestOf v t.val = none →
        (∀ c, checkerFor v t.val none = some c → exec (.fieldTestStart t p) s = .next (start (some c) (v.island.testNo + 1) false)) ∧
        (checkerFor v t.val none = none → exec (.fieldTestStart t p) s = .next v)) ∧
      (∀ x, p.val = 0 → retestOf v t.val = some x →
        (∀ c, checkerFor v t.val (some x.checker) = some c → exec (.fieldTestStart t p) s = .next (start (some c) (x.number + 1) true)) ∧
        (checkerFor v t.val (some x.checker) = none → exec (.fieldTestStart t p) s = .next v))) := by
  have hready : ready (notePass s) = true := by
    obtain ⟨_, _, _, _, _, h⟩ := notePass_frame s
    rw [h]
    exact hr
  have hexec := fieldTestStart_exec s t p
  generalize notePass s = v at hready hexec ⊢
  simp only [hready] at hexec
  refine ⟨fun ha => hexec.trans (if_pos (by simp [ha])), fun ha => ?_⟩
  have hgo : ¬ ((!testAllowed v t.val p.val) = true ∨ (!true) = true) := by simp [ha]
  rw [if_neg hgo] at hexec
  refine ⟨fun hp => hexec.trans (if_pos hp), fun hp hx => ?_, fun x hp hx => ?_⟩
  · rw [if_neg (not_not_intro hp)] at hexec
    simp only [hx] at hexec
    exact ⟨fun c hc => by rw [hexec, hc], fun hc => by rw [hexec, hc]⟩
  · rw [if_neg (not_not_intro hp)] at hexec
    simp only [hx] at hexec
    exact ⟨fun c hc => by rw [hexec, hc], fun hc => by rw [hexec, hc]⟩

theorem checkerTimeout_cases (t : Fin 512) :
    (∀ x, retestOf s t.val = some x →
      (testOf s t.val = none → checkerFor s t.val (some x.checker) = none → exec (.checkerTimeout t) s =
        .next (failureEvent (unitOf 1 t.val) .fieldTest false none (clockTo (x.since + 10000000)
          { s with island := { s.island with suspects := s.island.suspects.filter (fun x => x.subject ≠ t.val) } }))) ∧
      ((testOf s t.val).isSome = true ∨ (checkerFor s t.val (some x.checker)).isSome = true → exec (.checkerTimeout t) s = .next s)) ∧
    (retestOf s t.val = none → exec (.checkerTimeout t) s = .next s) := by
  have hexec : exec (.checkerTimeout t) s = execCheckerTimeout t s := rfl
  unfold execCheckerTimeout at hexec
  refine ⟨fun x hx => ?_, fun hx => ?_⟩
  · simp only [hx] at hexec
    exact ⟨fun h₁ h₂ => hexec.trans (if_neg (by simp [h₁, h₂])), fun h => hexec.trans (if_pos h)⟩
  · simpa only [hx] using hexec

/-- What the end of a field test leaves. -/
structure TestOver (s : State) (t : Nat) (f : FieldTest) (u : State) : Prop where
  test : testOf u t = none
  mem : u.mem = s.mem
  sluice : u.sluice = s.sluice
  tiles : ∀ c, f.checker = some c → (tileOf u t).v = [] ∧ (tileOf u c).v = [] ∧ (tileOf u t).w0 = {} ∧ (tileOf u c).w0 = {}
  clusters : u.clusters = s.clusters
  counters : u.counters = s.counters
  suspects : u.island.suspects = s.island.suspects
  clock : u.clock = s.clock

theorem testOf_filter (t : Nat) (l : List (Nat × FieldTest)) :
    ((l.filter (fun e => e.1 ≠ t)).find? (fun e => e.1 = t)).map (fun e => e.2) = none := by
  rw [find?_filter_ne, if_pos rfl]
  rfl

theorem endTest_over (t : Nat) (f : FieldTest) : TestOver s t f (endTest t f s) := by
  have hsome : ∀ v : State, v = { s with island := { s.island with tests := s.island.tests.filter (fun e => e.1 ≠ t) } } →
      endTest t f s = match f.checker with | some c => clearTested c (clearTested t v) | none => v := by rintro _ rfl; rfl
  have heq := hsome _ rfl
  cases hc : f.checker with
  | none =>
    rw [hc] at heq
    rw [heq]
    exact ⟨testOf_filter t _, rfl, rfl, fun c h => by simp [hc] at h, rfl, rfl, rfl, rfl⟩
  | some c =>
    rw [hc] at heq
    have hclear : ∀ (v : State) (b j : Nat), ((tileOf (clearTested b v) j).v = if j = b then [] else (tileOf v j).v) ∧
        ((tileOf (clearTested b v) j).w0 = if j = b then {} else (tileOf v j).w0) := fun v b j => by
      unfold clearTested
      simp only [tileOf_tmod]
      by_cases hj : j = b
      · simp [hj]
      · simp [hj]
    rw [heq]
    refine ⟨testOf_filter t _, rfl, rfl, fun d hd => ?_, rfl, rfl, rfl, rfl⟩
    rw [hc] at hd
    cases hd
    refine ⟨?_, ?_, ?_, ?_⟩
    · rw [(hclear _ c t).1, (hclear _ t t).1, if_pos rfl, ite_self]
    · rw [(hclear _ c c).1, if_pos rfl]
    · rw [(hclear _ c t).2, (hclear _ t t).2, if_pos rfl, ite_self]
    · rw [(hclear _ c c).2, if_pos rfl]

/-- What the statement asks of the end of a test. -/
def EndedTest (s : State) (t : Nat) (f : FieldTest) (u : State) : Prop :=
  testOf u t = none ∧ u.mem = s.mem ∧ u.sluice = s.sluice ∧
    (∀ c, f.checker = some c → (tileOf u t).v = [] ∧ (tileOf u c).v = [] ∧ (tileOf u t).w0 = {} ∧ (tileOf u c).w0 = {})

theorem TestOver.ended {s u : State} {t : Nat} {f : FieldTest} (h : TestOver s t f u) : EndedTest s t f u :=
  ⟨h.test, h.mem, h.sluice, h.tiles⟩

theorem EndedTest.of_kept {s u v : State} {t : Nat} {f : FieldTest} (h : EndedTest s t f u) (ht : v.island.tests = u.island.tests)
    (hm : v.mem = u.mem) (hs : v.sluice = u.sluice) (htiles : v.tiles = u.tiles) : EndedTest s t f v := by
  obtain ⟨h₁, h₂, h₃, h₄⟩ := h
  have htile : ∀ j, tileOf v j = tileOf u j := fun j => by rw [tileOf, htiles, tileOf]
  exact ⟨by rw [testOf, ht]; exact h₁, hm.trans h₂, hs.trans h₃, fun c hc => by rw [htile, htile]; exact h₄ c hc⟩

theorem fieldTestYield_ends (t : Fin 512) (f : FieldTest) (h : testOf s t.val = some f) :
    ∃ u, exec (.fieldTestYield t) s = .next u ∧ EndedTest s t.val f u ∧ counter u 0x741d 9 = counter s 0x741d 9 + 1 := by
  have hexec : exec (.fieldTestYield t) s = .next (count 0x741d 9 1 (endTest t.val f s)) := by
    show execFieldTestYield t s = _
    unfold execFieldTestYield
    rw [h]
  have hover := endTest_over s t.val f
  generalize endTest t.val f s = v at hexec hover
  refine ⟨_, hexec, hover.ended.of_kept rfl rfl rfl rfl, (counter_count_same v 0x741d 9).trans ?_⟩
  rw [counter, counter, hover.counters]

theorem fieldTestDone_exec (t : Fin 512) (f : FieldTest) (h : testOf s t.val = some f) (ok : Bool) :
    exec (.fieldTestDone t ok) s =
      let v := passPart t.val f.part (count 0x741d 7 1 (endTest t.val f s))
      let w := if f.part = 17 then cmod (clusterOfTile t.val) (fun c => { c with testBank := (c.testBank + 1) % 33 }) v else v
      .next (if f.part = 0 then logicOutcome t.val f ok w
        else if ok then w else failureEvent (sramUnit s t.val f.part) .uncorrectable false none w) := by
  show execFieldTestDone t ok s = _
  unfold execFieldTestDone
  simp only [h]

/-- The test ended and counted, its part of the pass noted. -/
theorem passed_over (t : Nat) (f : FieldTest) : let v := passPart t f.part (count 0x741d 7 1 (endTest t f s))
    EndedTest s t f v ∧ counter v 0x741d 7 = counter s 0x741d 7 + 1 ∧ v.clusters = s.clusters ∧ v.island.suspects = s.island.suspects ∧
      v.clock = s.clock := by
  have hover := endTest_over s t f
  generalize endTest t f s = u at hover ⊢
  obtain ⟨a, b, c, d, e, heq⟩ := passPart_frame (count 0x741d 7 1 u) t f.part
  simp only [heq]
  refine ⟨hover.ended.of_kept rfl rfl rfl rfl, (counter_count_same u 0x741d 7).trans ?_, hover.clusters, hover.suspects, hover.clock⟩
  rw [counter, counter, hover.counters]

theorem fieldTestDone_passes (t : Fin 512) (f : FieldTest) (h : testOf s t.val = some f) (hp : f.part ≠ 0) :
    ∃ u, exec (.fieldTestDone t true) s = .next u ∧ EndedTest s t.val f u ∧ counter u 0x741d 7 = counter s 0x741d 7 + 1 ∧
      (f.part = 17 → (clusterOf u (clusterOfTile t.val)).testBank = ((clusterOf s (clusterOfTile t.val)).testBank + 1) % 33) := by
  have hexec := fieldTestDone_exec s t f h true
  obtain ⟨hended, hcount, hclusters, -, -⟩ := passed_over s t.val f
  generalize passPart t.val f.part (count 0x741d 7 1 (endTest t.val f s)) = v at hexec hended hcount hclusters
  have hcl : clusterOf v (clusterOfTile t.val) = clusterOf s (clusterOfTile t.val) := by rw [clusterOf, hclusters, clusterOf]
  by_cases h17 : f.part = 17
  · simp only [if_pos h17, if_neg hp, if_true] at hexec
    refine ⟨_, hexec, hended.of_kept rfl rfl rfl rfl, hcount, fun _ => ?_⟩
    rw [clusterOf_cmod_same, hcl]
  · simp only [if_neg h17, if_neg hp, if_true] at hexec
    exact ⟨_, hexec, hended, hcount, fun hc => absurd hc h17⟩

theorem fieldTestDone_suspects (t : Fin 512) (f : FieldTest) (h : testOf s t.val = some f) (hp : f.part = 0) (hre : f.retest = false) :
    ∃ u, exec (.fieldTestDone t false) s = .next u ∧ EndedTest s t.val f u ∧
      u.island.suspects = s.island.suspects ++ [⟨t.val, f.checker.getD t.val, f.number, now s⟩] ∧
      counter u 0x741d 7 = counter s 0x741d 7 + 1 := by
  have hexec := fieldTestDone_exec s t f h false
  obtain ⟨hended, hcount, -, hsuspects, hclock⟩ := passed_over s t.val f
  generalize passPart t.val f.part (count 0x741d 7 1 (endTest t.val f s)) = v at hexec hended hcount hsuspects hclock
  have hout : logicOutcome t.val f false v = { v with island := { v.island with
      suspects := v.island.suspects ++ [⟨t.val, f.checker.getD t.val, f.number, now v⟩] } } := by
    unfold logicOutcome
    rw [if_neg (by simp [hre])]
    rfl
  have hnow : now v = now s := by rw [now, hclock, now]
  simp only [if_pos hp, if_neg (show ¬ f.part = 17 by omega), hout] at hexec
  exact ⟨_, hexec, hended.of_kept rfl rfl rfl rfl, by rw [← hsuspects, ← hnow], hcount⟩

end

/-- Settles O58: each command by what it makes of the record of failures and of the field tests. -/
theorem failuresAndTests : Obligations.FailuresAndTests := by
  unfold Obligations.FailuresAndTests
  refine ⟨fun s u c hu hr => ⟨failureEvent_corrected s u c hu hr, failureEvent_remembers s u c hu hr⟩, fun s u r hr => ?_, fun s t hr =>
    ⟨fun p => ?_, congrArg Host.Outcome.next (if_pos hr), (checkerTimeout_cases s t).1, (checkerTimeout_cases s t).2⟩, fun s t f h =>
    ⟨fieldTestYield_ends s t f h, fieldTestDone_passes s t f h, fieldTestDone_suspects s t f h⟩⟩
  · have hexec : ∀ ok, exec (.sramRetest u ok) s = execSramRetest u ok s := fun _ => rfl
    simp only [hexec, execSramRetest, hr]
    exact ⟨rfl, rfl⟩
  · have hcases := fieldTestStart_cases s t hr p
    simp only [testBegun_notePass] at hcases
    exact hcases

end Sys2Proof.Machine

end

section
/-!
PROOF. Drive feedback, the samples of a group and the hand-over of its set-point frame (R343-R363).
-/

namespace Sys2Proof.Machine

open Claims

/-! ## Feedback frames (R347, R349, R350) -/

section

variable (s : State)

theorem feedbackFrame_exec (x : Fin 4) (b : Bytes) (hup : t1Up s x.val = true) (hs : spoilt (0x30 + x.val) s = false) :
    exec (.feedbackFrame x b) s = .next (if x.val < 2 then s else takeFeedback b s) := by
  have hexec : exec (.feedbackFrame x b) s = .next (if x.val < 2 ∨ !(t1Up s x.val) then s
    else if spoilt (0x30 + x.val) s then unspoil (0x30 + x.val) s else takeFeedback b s) := rfl
  rw [hexec, hup, hs]
  simp

theorem feedbackFrame_unused (x : Fin 4) (b : Bytes) (hup : t1Up s x.val = true) (hs : spoilt (0x30 + x.val) s = false)
    (h : pumpTakes s = false ∨ fieldAt b 0 1 ≠ 2) : exec (.feedbackFrame x b) s = .next s := by
  rw [feedbackFrame_exec s x b hup hs]
  have htake : takeFeedback b s = s := if_pos (h.imp (fun hp => by simp [hp]) id)
  rw [htake, ite_self]

/-- Is the frame earlier than the one held of its drive (R350)? -/
def feedbackLate (b : Bytes) (s : State) : Bool :=
  match s.pump.feedback.find? (fun e => e.1 = fieldAt b 2 2) with
  | some e => decide ((BitVec.ofNat 32 (fieldAt b 4 4) - BitVec.ofNat 32 (fieldAt e.2 4 4)).toInt < 0)
  | none => false

/-- The frame held of its drive in place of the one before. -/
def feedbackHeld (b : Bytes) (s : State) : State :=
  count 0x741a 5 1 { s with pump := { s.pump with
    feedback := tblPut (s.pump.feedback.filter (fun e => e.1 ≠ fieldAt b 2 2)) (fieldAt b 2 2) b } }

theorem takeFeedback_eq (b : Bytes) (hp : pumpTakes s = true) (ht : fieldAt b 0 1 = 2) : takeFeedback b s =
    if feedbackOk b = false ∨ feedbackLate b s = true then count 0x741a 6 1 s else feedbackHeld b s := by
  have hunfold : takeFeedback b s = if !(feedbackOk b) then count 0x741a 6 1 s
      else if feedbackLate b s then count 0x741a 6 1 s else feedbackHeld b s := if_neg (by simp [hp, ht])
  rw [hunfold]
  cases feedbackOk b <;> cases feedbackLate b s <;> rfl

theorem feedbackLate_iff (b : Bytes) : feedbackLate b s = true ↔
    ∃ old, s.pump.feedback.find? (fun e => e.1 = fieldAt b 2 2) = some (fieldAt b 2 2, old) ∧
      (BitVec.ofNat 32 (fieldAt b 4 4) - BitVec.ofNat 32 (fieldAt old 4 4)).toInt < 0 := by
  unfold feedbackLate
  cases hf : s.pump.feedback.find? (fun e => e.1 = fieldAt b 2 2) with
  | none => simp
  | some e =>
    have he : e.1 = fieldAt b 2 2 := by simpa using List.find?_some hf
    obtain ⟨d, old⟩ := e
    subst he
    simp

theorem feedbackFrame_cases (x : Fin 4) (b : Bytes) (hx : 2 ≤ x.val) (hup : t1Up s x.val = true)
    (hs : spoilt (0x30 + x.val) s = false) (hp : pumpTakes s = true) (ht : fieldAt b 0 1 = 2) :
    let d := fieldAt b 2 2
    let late := ∃ old, s.pump.feedback.find? (fun e => e.1 = d) = some (d, old) ∧
      (BitVec.ofNat 32 (fieldAt b 4 4) - BitVec.ofNat 32 (fieldAt old 4 4)).toInt < 0
    (feedbackOk b = false ∨ late → exec (.feedbackFrame x b) s = .next (count 0x741a 6 1 s)) ∧
    (feedbackOk b = true → ¬late → ∃ t, exec (.feedbackFrame x b) s = .next t ∧
      t = { s with counters := t.counters, pump := { s.pump with feedback := t.pump.feedback } } ∧
      t.pump.feedback.find? (fun e => e.1 = d) = some (d, b) ∧
      (∀ j, j ≠ d → t.pump.feedback.find? (fun e => e.1 = j) = s.pump.feedback.find? (fun e => e.1 = j)) ∧
      counter t 0x741a 5 = counter s 0x741a 5 + 1) := by
  intro d late
  have hexec : exec (.feedbackFrame x b) s = .next (takeFeedback b s) := by
    rw [feedbackFrame_exec s x b hup hs, if_neg (by omega)]
  rw [takeFeedback_eq s b hp ht] at hexec
  have hlate := feedbackLate_iff s b
  refine ⟨fun h => ?_, fun hok hn => ?_⟩
  · rw [hexec, if_pos (h.imp id hlate.mpr)]
  · rw [if_neg (by rw [hok]; exact fun hc => hc.elim nofun fun hc => hn (hlate.mp hc))] at hexec
    refine ⟨_, hexec, rfl, find?_tblPut_same _ d b (by simp [d]), fun j hj => ?_, counter_count_same _ 0x741a 5⟩
    exact (find?_tblPut_other _ d j b (by simp [d]) hj).trans ((find?_filter_ne s.pump.feedback d j).trans (if_neg hj))

end

/-! ## Steps on one axis -/

/-- A step of axis `n` that takes no other unit along. -/
structure AxisWork (n : Nat) (s t : State) : Prop where
  eq : t = { s with
    freeCtr := t.freeCtr, counters := t.counters, events := t.events, eventsAt := t.eventsAt, eventsNew := t.eventsNew
    sessions := t.sessions, pump := { s.pump with axes := t.pump.axes } }
  others : ∀ m, m ≠ n → axisOf t m = axisOf s m

namespace AxisWork

variable {n : Nat} {s t u : State}

theorem refl (n : Nat) (s : State) : AxisWork n s s := ⟨rfl, fun _ _ => rfl⟩

theorem trans (h : AxisWork n s t) (k : AxisWork n t u) : AxisWork n s u where
  eq := by rw [k.eq, h.eq]
  others m hm := (k.others m hm).trans (h.others m hm)

theorem of_notices (n : Nat) (h : Notices s t) : AxisWork n s t where
  eq := h.eq.trans (by rw [h.eq])
  others m _ := by rw [h.eq]; rfl

theorem cfg_eq (h : AxisWork n s t) (i j : Nat) : cfg t i j = cfg s i j := by
  rw [h.eq]
  rfl

end AxisWork

section

variable (s : State)

theorem axisOf_axisMod (n m : Nat) (f : Axis → Axis) : axisOf (axisMod n f s) m = if m = n then f (axisOf s n) else axisOf s m :=
  tblGet_mod _ _ _ _ _

theorem axisOf_axisMod_same (n : Nat) (f : Axis → Axis) : axisOf (axisMod n f s) n = f (axisOf s n) := by
  rw [axisOf_axisMod, if_pos rfl]

theorem axisMod_work (n : Nat) (f : Axis → Axis) : AxisWork n s (axisMod n f s) where
  eq := rfl
  others m hm := by rw [axisOf_axisMod, if_neg hm]

theorem count_work (n i j k : Nat) : AxisWork n s (count i j k s) := ⟨rfl, fun _ _ => rfl⟩

theorem setEvent_work (n e : Nat) : AxisWork n s (setEvent e s) := ⟨rfl, fun _ _ => rfl⟩

theorem axisOf_of_pump {t : State} (h : t.pump = s.pump) (n : Nat) : axisOf t n = axisOf s n := by rw [axisOf, h, axisOf]

/-- What leaves the axes' frames, the configuration and the clock alone, whatever else ends. -/
structure KeepsSamples (s t : State) : Prop where
  clock : t.clock = s.clock
  dict : t.dict = s.dict
  samples : t.pump.samples = s.pump.samples
  frames : t.pump.frames = s.pump.frames

theorem KeepsSamples.refl (s : State) : KeepsSamples s s := ⟨rfl, rfl, rfl, rfl⟩

theorem KeepsSamples.trans {s t u : State} (h : KeepsSamples s t) (k : KeepsSamples t u) : KeepsSamples s u :=
  ⟨k.clock.trans h.clock, k.dict.trans h.dict, k.samples.trans h.samples, k.frames.trans h.frames⟩

theorem KeepsSamples.of_upset {s t : State} (h : Upset s t) : KeepsSamples s t := by
  have := h.eq
  exact ⟨by rw [this], by rw [this], by rw [this], by rw [this]⟩

theorem KeepsSamples.of_work {s t : State} {n : Nat} (h : AxisWork n s t) : KeepsSamples s t := by
  have := h.eq
  exact ⟨by rw [this], by rw [this], by rw [this], by rw [this]⟩

theorem trigger_keeps (c : Nat) (d : BitVec 32) : KeepsSamples s (trigger c d s) := by
  unfold trigger
  split
  · exact .of_upset (enterSafe_upset s c d false)
  · exact .refl s

/-- An invalid sample up to its fault (R362). -/
def invalidNoted (n reason : Nat) (s : State) : State :=
  axisMod n (fun a => { a with status := BitVec.ofNat 8 reason, invalid := a.invalid + 1 })
    (if reason = 10 then count 0x741a 7 1 (count 0x741a 2 1 s)
      else if reason = 11 then count 0x741a 3 1 (count 0x741a 2 1 s) else count 0x741a 2 1 s)

/-- The fault of an axis, told. -/
def axisFaulted (n reason : Nat) (s : State) : State :=
  setEvent 11 (count 0x741a 4 1 (notifySubs 0x23 [BitVec.ofNat 8 n, BitVec.ofNat 8 reason]
    (axisMod n (fun a => { a with state := .fault, invalid := 0 }) s)))

theorem invalidSample_eq (n reason : Nat) : invalidSample n reason s =
    if (axisOf (invalidNoted n reason s) n).invalid < cfg (invalidNoted n reason s) 0x5400 6 then invalidNoted n reason s
    else trigger 6 (BitVec.ofNat 32 n) (axisFaulted n reason (invalidNoted n reason s)) := rfl

theorem invalidNoted_work (n reason : Nat) : AxisWork n s (invalidNoted n reason s) := by
  have h₁ := count_work s n 0x741a 2 1
  unfold invalidNoted
  generalize count 0x741a 2 1 s = u at h₁ ⊢
  have h₂ : AxisWork n u (if reason = 10 then count 0x741a 7 1 u else if reason = 11 then count 0x741a 3 1 u else u) := by
    split
    · exact count_work ..
    · split
      · exact count_work ..
      · exact .refl n u
  generalize (if reason = 10 then count 0x741a 7 1 u else if reason = 11 then count 0x741a 3 1 u else u) = v at h₂ ⊢
  exact h₁.trans (h₂.trans (axisMod_work ..))

theorem axisOf_invalidNoted (n reason : Nat) : axisOf (invalidNoted n reason s) n =
    { axisOf s n with status := BitVec.ofNat 8 reason, invalid := (axisOf s n).invalid + 1 } := by
  unfold invalidNoted
  rw [axisOf_axisMod_same]
  split
  · rfl
  · split <;> rfl

theorem axisFaulted_work (n reason : Nat) : AxisWork n s (axisFaulted n reason s) := by
  have h₁ := axisMod_work s n (fun a => { a with state := .fault, invalid := 0 })
  unfold axisFaulted
  generalize axisMod n (fun a => { a with state := .fault, invalid := 0 }) s = u at h₁ ⊢
  have h₂ := AxisWork.of_notices n (notifySubs_notices u 0x23 [BitVec.ofNat 8 n, BitVec.ofNat 8 reason])
  generalize notifySubs 0x23 [BitVec.ofNat 8 n, BitVec.ofNat 8 reason] u = v at h₂ ⊢
  exact h₁.trans (h₂.trans (.trans (count_work v n 0x741a 4 1) (setEvent_work _ n 11)))

theorem axisOf_axisFaulted (n reason : Nat) :
    axisOf (axisFaulted n reason s) n = { axisOf s n with state := .fault, invalid := 0 } := by
  have h₁ := axisOf_axisMod_same s n (fun a => { a with state := .fault, invalid := 0 })
  unfold axisFaulted
  generalize axisMod n (fun a => { a with state := .fault, invalid := 0 }) s = u at h₁ ⊢
  have h₂ := (notifySubs_notices u 0x23 [BitVec.ofNat 8 n, BitVec.ofNat 8 reason]).eq
  generalize notifySubs 0x23 [BitVec.ofNat 8 n, BitVec.ofNat 8 reason] u = v at h₂ ⊢
  have hv : axisOf v n = axisOf u n := by rw [h₂]; rfl
  exact hv.trans h₁

theorem invalidSample_keeps (n reason : Nat) : KeepsSamples s (invalidSample n reason s) := by
  have h₁ := KeepsSamples.of_work (invalidNoted_work s n reason)
  rw [invalidSample_eq]
  generalize invalidNoted n reason s = u at h₁ ⊢
  split
  · exact h₁
  · exact h₁.trans (.trans (.of_work (axisFaulted_work u n reason)) (trigger_keeps _ 6 _))

/-- An invalid sample where its fault does not enter safe state: only the axis's state can change beside what it notes. -/
theorem invalidSample_work (n reason : Nat) (h : (cfg s 0x4000 9).testBit 6 = false) : AxisWork n s (invalidSample n reason s) ∧
    (axisOf (invalidSample n reason s) n).pending = (axisOf s n).pending ∧
    ((axisOf (invalidSample n reason s) n).state = (axisOf s n).state ∨ (axisOf (invalidSample n reason s) n).state = .fault) := by
  have h₁ := invalidNoted_work s n reason
  have ha := axisOf_invalidNoted s n reason
  rw [invalidSample_eq]
  generalize invalidNoted n reason s = u at h₁ ha ⊢
  split
  · exact ⟨h₁, by rw [ha], .inl (by rw [ha])⟩
  · have h₂ := axisFaulted_work u n reason
    have hb := axisOf_axisFaulted u n reason
    generalize axisFaulted n reason u = v at h₂ hb ⊢
    have htrigger : trigger 6 (BitVec.ofNat 32 n) v = v := if_neg (by rw [h₂.cfg_eq, h₁.cfg_eq, h]; nofun)
    rw [htrigger]
    exact ⟨h₁.trans h₂, by rw [hb, ha], .inr (by rw [hb])⟩

/-! ## A sample of an axis (R359-R362) -/

theorem rampSource_fresh (l : Latch) (a : Axis) (c : Nat) : ∃ f, (rampSource s l a c).2 = { s with freeCtr := f } := by
  unfold rampSource
  split
  · exact ⟨s.freeCtr, rfl⟩
  · exact ⟨_, rfl⟩

theorem fresh_work (n f : Nat) : AxisWork n s { s with freeCtr := f } := ⟨rfl, fun _ _ => rfl⟩

theorem takePending_none (n : Nat) (h : (axisOf s n).pending = none) : takePending n s = s := by
  unfold takePending
  simp only [h]

theorem takePending_off (n : Nat) (h : (axisOf s n).pending = some false) :
    takePending n s = axisMod n (fun a => { a with state := .disabled, pending := none }) s := by
  unfold takePending
  simp only [h]

theorem takePending_on (n : Nat) (h : (axisOf s n).pending = some true) : ∃ f r, takePending n s = if compOk s n then
    axisMod n (fun a => { a with state := .ramping, pending := none, stages := List.replicate 8 {}, ramp := r, invalid := 0, back := none })
      { s with freeCtr := f } else axisMod n (fun a => { a with pending := none }) s := by
  obtain ⟨f, hf⟩ := rampSource_fresh s (latchAxis s n) {} (axisCfg s n 9)
  refine ⟨f, (rampSource s (latchAxis s n) {} (axisCfg s n 9)).1, ?_⟩
  unfold takePending
  simp only [h, hf]

/-- The pending enable or disable taken (R359). -/
theorem takePending_work (n : Nat) : AxisWork n s (takePending n s) ∧ (axisOf (takePending n s) n).pending = none := by
  cases hp : (axisOf s n).pending with
  | none =>
    rw [takePending_none s n hp]
    exact ⟨.refl n s, hp⟩
  | some b =>
    cases b with
    | false =>
      rw [takePending_off s n hp, axisOf_axisMod_same]
      exact ⟨axisMod_work .., rfl⟩
    | true =>
      obtain ⟨f, r, heq⟩ := takePending_on s n hp
      rw [heq]
      split
      · rw [axisOf_axisMod_same]
        exact ⟨(fresh_work s n f).trans (axisMod_work ..), rfl⟩
      · rw [axisOf_axisMod_same]
        exact ⟨axisMod_work .., rfl⟩

/-- A slot's first flag says that its set-point is valid; one that is not holds none (R362). -/
theorem mkSlot_facts (n : Nat) (a : Axis) (valid : Bool) (y : BitVec 32) : (mkSlot s n a valid y).axis = n ∧
    ((mkSlot s n a valid y).flags.getLsbD 0 = false → (mkSlot s n a valid y).setpoint = 0) := by
  refine ⟨rfl, fun h => ?_⟩
  cases valid with
  | false => rfl
  | true =>
    exfalso
    have hodd : ∀ p q r : Bool, (BitVec.ofNat 8 ((if p then 8 else 0) + (if q then 4 else 0) + (if r then 2 else 0) + 1)).getLsbD 0 = true := by
      decide
    have hflag := hodd (decide (axisCfg s n 7 = 1)) (decide (a.state = .ramping)) (axisEnabled a)
    simp only [decide_eq_true_eq] at hflag
    rw [mkSlot] at h
    simp only [if_true] at h
    rw [hflag] at h
    cases h

/-- The slot of an axis names it, and holds a set-point only with its flag (R362). -/
theorem sampleAxis_slot (at_ g n : Nat) : (sampleAxis at_ g n s).1.axis = n ∧
    ((sampleAxis at_ g n s).1.flags.getLsbD 0 = false → (sampleAxis at_ g n s).1.setpoint = 0) := by
  have hslot : ∃ u a v y, (sampleAxis at_ g n s).1 = mkSlot u n a v y := by
    unfold sampleAxis
    dsimp only
    split
    · exact ⟨_, _, _, _, rfl⟩
    · split <;> exact ⟨_, _, _, _, rfl⟩
  obtain ⟨u, a, v, y, h⟩ := hslot
  rw [h]
  exact mkSlot_facts u n a v y

/-- A sample of an axis that is not enabled (R362). -/
theorem sampleAxis_idle (at_ g n : Nat) (h : axisEnabled (axisOf (takePending n s) n) = false) : (sampleAxis at_ g n s).2 =
    axisMod n (fun a => { a with status := if a.state = .fault then 2 else 1, back := none }) (takePending n s) := by
  simp only [sampleAxis, h, Bool.not_false, if_true]

/-- The sample is the first of an enable that passes its precondition (R359). -/
def freshAxis (n : Nat) (s : State) : Bool := decide ((axisOf s n).pending = some true) && compOk s n

/-- The end of an enabled axis's sample: invalid without a result `law`, which is else noted with its ramp. -/
def sampleResult (n reason : Nat) (a : Axis) (r : BitVec 64 × Bool) (s : State) : Option (List Block) → SetSlot × State
  | none =>
    let s := invalidSample n (if reason = 0 then 10 else reason) (axisMod n (fun a => { a with back := none }) s)
    (mkSlot s n (axisOf s n) false 0, s)
  | some bs =>
    let y := toF32 (fpOfInt false (nth 0 (nth {} bs (axisCfg s n 6)).m 0) ((nth {} bs (axisCfg s n 6)).e - 23))
    let done := decide (a.state = .ramping) && r.2
    let back : AxisBack := ⟨a.state, a.invalid, a.stages, a.ramp, done⟩
    let s := if done then count 0x741a 8 1 s else s
    let s := count 0x741a 1 1 (axisMod n (fun a => { a with
      stages := bs, ramp := r.1, state := if r.2 then .running else a.state, status := 0, invalid := 0, back := some back }) s)
    (mkSlot s n (axisOf s n) true y, s)

theorem sampleAxis_enabled (at_ g n : Nat) (h : axisEnabled (axisOf (takePending n s) n) = true) :
    ∃ f r reason law, (freshAxis n s = true → r.2 = false) ∧
      sampleAxis at_ g n s = sampleResult n reason (axisOf (takePending n s) n) r { takePending n s with freeCtr := f } law := by
  let u := takePending n s
  let a := axisOf u n
  let ts : Rat := (groupPeriod u g : Rat) / (nsPerS : Rat)
  let src := if freshAxis n s then (a.ramp, u) else rampSource u (latchAxis u n) a (axisCfg u n 8)
  let r := if freshAxis n s then (a.ramp, false) else rampStep src.2 n src.1 a ts
  let reason := axisChecks src.2 n at_ (freshAxis n s) (latchAxis u n) r.1
  let law := if reason = 0 then runLaw (axisLaw src.2 n) (latchAxis u n) r.1 a.stages ts a.tables else none
  have heq : sampleAxis at_ g n s = sampleResult n reason a r src.2 law := by
    refine (if_neg (by simp [h])).trans ?_
    change (match law with | none => _ | some bs => _) = _
    cases law <;> rfl
  have hsrc : ∃ f, src.2 = { u with freeCtr := f } := by
    by_cases hfresh : freshAxis n s = true
    · exact ⟨u.freeCtr, congrArg Prod.snd (if_pos hfresh)⟩
    · obtain ⟨f, hf⟩ := rampSource_fresh u (latchAxis u n) a (axisCfg u n 8)
      exact ⟨f, (congrArg Prod.snd (if_neg hfresh)).trans hf⟩
  obtain ⟨f, hf⟩ := hsrc
  exact ⟨f, r, reason, law, fun hfresh => congrArg Prod.snd (if_pos hfresh), by rw [heq, hf]⟩

/-- What an enabled axis's sample leaves of the axis, where a fault of it does not enter safe state. -/
theorem sampleResult_work (n reason : Nat) (a : Axis) (r : BitVec 64 × Bool) (law : Option (List Block))
    (h : (cfg s 0x4000 9).testBit 6 = false) (ha : axisOf s n = a) :
    AxisWork n s (sampleResult n reason a r s law).2 ∧ (axisOf (sampleResult n reason a r s law).2 n).pending = a.pending ∧
      (r.2 = false → (axisOf (sampleResult n reason a r s law).2 n).state = a.state ∨
        (axisOf (sampleResult n reason a r s law).2 n).state = .fault) := by
  cases law with
  | none =>
    have h₁ := axisMod_work s n (fun a => { a with back := none })
    have hb := axisOf_axisMod_same s n (fun a => { a with back := none })
    show AxisWork n s (invalidSample n _ (axisMod n (fun a => { a with back := none }) s)) ∧ _
    simp only [sampleResult]
    generalize axisMod n (fun a => { a with back := none }) s = u at h₁ hb ⊢
    obtain ⟨h₂, hpend, hstate⟩ := invalidSample_work u n (if reason = 0 then 10 else reason) (by rw [h₁.cfg_eq, h])
    exact ⟨h₁.trans h₂, by rw [hpend, hb, ha], fun _ => by rw [← ha]; exact hstate.imp (fun e => by rw [e, hb]) id⟩
  | some bs =>
    simp only [sampleResult]
    have h₁ : AxisWork n s (if (decide (a.state = .ramping) && r.2) = true then count 0x741a 8 1 s else s) := by
      split
      · exact count_work ..
      · exact .refl n s
    have hb : axisOf (if (decide (a.state = .ramping) && r.2) = true then count 0x741a 8 1 s else s) n = a := by
      split <;> exact ha
    generalize (if (decide (a.state = .ramping) && r.2) = true then count 0x741a 8 1 s else s) = u at h₁ hb ⊢
    refine ⟨h₁.trans (.trans (axisMod_work u n _) (count_work _ n 0x741a 1 1)), ?_, fun hr => .inl ?_⟩
    · exact (congrArg Axis.pending (axisOf_axisMod_same u n _)).trans (by rw [hb])
    · exact (congrArg Axis.state (axisOf_axisMod_same u n _)).trans (by simp only [hr, hb, Bool.false_eq_true, if_false])

theorem sampleResult_keeps (n reason : Nat) (a : Axis) (r : BitVec 64 × Bool) (law : Option (List Block)) :
    KeepsSamples s (sampleResult n reason a r s law).2 := by
  cases law with
  | none => exact (KeepsSamples.of_work (axisMod_work s n _)).trans (invalidSample_keeps _ n _)
  | some bs =>
    simp only [sampleResult]
    have h₁ : KeepsSamples s (if (decide (a.state = .ramping) && r.2) = true then count 0x741a 8 1 s else s) := by
      split
      · exact .of_work (count_work s n ..)
      · exact .refl s
    exact h₁.trans (.of_work (.trans (axisMod_work _ n _) (count_work _ n 0x741a 1 1)))

theorem sampleAxis_keeps (at_ g n : Nat) : KeepsSamples s (sampleAxis at_ g n s).2 := by
  have h₁ := KeepsSamples.of_work (takePending_work s n).1
  cases he : axisEnabled (axisOf (takePending n s) n) with
  | false =>
    rw [sampleAxis_idle s at_ g n he]
    exact h₁.trans (.of_work (axisMod_work _ n _))
  | true =>
    obtain ⟨f, r, reason, law, -, heq⟩ := sampleAxis_enabled s at_ g n he
    rw [heq]
    exact h₁.trans (.trans (.of_work (fresh_work _ n f)) (sampleResult_keeps ..))

/-- What a sample leaves of an axis `a` (R359, R362); `ok`: its precondition of an enable holds. -/
def Sampled (ok : Bool) (a b : Axis) : Prop :=
  (a.state = .disabled → a.pending = none → b = { a with status := 1, back := none }) ∧
  (a.pending = some true → b.pending = none) ∧
  (a.pending = some true → ok = true → (b.state = .ramping ∨ b.state = .fault)) ∧
  (a.pending = some false → b = { a with state := .disabled, pending := none, status := 1, back := none })

/-- An axis whose sample leads to no entry to safe state: none enters for it, or it takes no sample. -/
def CalmAxis (n : Nat) (s : State) : Prop :=
  (cfg s 0x4000 9).testBit 6 = false ∨ axisEnabled (axisOf s n) = false ∧ (axisOf s n).pending ≠ some true

theorem CalmAxis.idle {n : Nat} (h : CalmAxis n s) (he : axisEnabled (axisOf (takePending n s) n) = true) :
    (cfg s 0x4000 9).testBit 6 = false := by
  obtain h | ⟨hoff, hp⟩ := h
  · exact h
  · exfalso
    cases hq : (axisOf s n).pending with
    | none =>
      rw [takePending_none s n hq, hoff] at he
      cases he
    | some b =>
      cases b with
      | true => exact hp hq
      | false =>
        rw [takePending_off s n hq, axisOf_axisMod_same] at he
        cases he

theorem takePending_enabled (n : Nat) (h : (axisOf s n).pending = some true) (hok : compOk s n = true) :
    (axisOf (takePending n s) n).state = .ramping := by
  obtain ⟨f, r, heq⟩ := takePending_on s n h
  rw [heq, if_pos hok, axisOf_axisMod_same]

theorem sampleAxis_sampled (at_ g n : Nat) (h : CalmAxis n s) : AxisWork n s (sampleAxis at_ g n s).2 ∧
    Sampled (compOk s n) (axisOf s n) (axisOf (sampleAxis at_ g n s).2 n) := by
  obtain ⟨h₁, hnone⟩ := takePending_work s n
  cases he : axisEnabled (axisOf (takePending n s) n) with
  | false =>
    rw [sampleAxis_idle s at_ g n he, axisOf_axisMod_same]
    refine ⟨h₁.trans (axisMod_work ..), fun hst hp => ?_, fun _ => hnone, fun hp hok => ?_, fun hp => ?_⟩
    · rw [takePending_none s n hp, hst]
      rfl
    · exact .inl (takePending_enabled s n hp hok)
    · rw [takePending_off s n hp, axisOf_axisMod_same]
      rfl
  | true =>
    have hcalm := h.idle s he
    obtain ⟨f, r, reason, law, hfresh, heq⟩ := sampleAxis_enabled s at_ g n he
    rw [heq]
    have h₂ := h₁.trans (fresh_work (takePending n s) n f)
    obtain ⟨h₃, hpend, hstate⟩ := sampleResult_work { takePending n s with freeCtr := f } n reason _ r law
      (by rw [h₂.cfg_eq, hcalm]) rfl
    have hramp := takePending_enabled s n
    refine ⟨h₂.trans h₃, fun hst hp => ?_, fun _ => hpend.trans hnone, fun hp hok => ?_, fun hp => ?_⟩
    · rw [takePending_none s n hp, axisEnabled, hst] at he
      cases he
    · have hst := hstate (hfresh (by simp [freshAxis, hp, hok]))
      exact hst.imp (fun e => e.trans (hramp hp hok)) id
    · rw [takePending_off s n hp, axisOf_axisMod_same] at he
      cases he

end

/-! ## The samples of a group -/

/-- Steps on the axes `l` that take no other unit along. -/
structure AxesWork (l : List Nat) (s t : State) : Prop where
  eq : t = { s with
    freeCtr := t.freeCtr, counters := t.counters, events := t.events, eventsAt := t.eventsAt, eventsNew := t.eventsNew
    sessions := t.sessions, pump := { s.pump with axes := t.pump.axes } }
  others : ∀ m, m ∉ l → axisOf t m = axisOf s m

theorem AxisWork.axes {n : Nat} {l : List Nat} {s t u : State} (h : AxisWork n s t) (k : AxesWork l t u) :
    AxesWork (n :: l) s u where
  eq := by rw [k.eq, h.eq]
  others m hm := by
    rw [List.mem_cons, not_or] at hm
    exact (k.others m hm.2).trans (h.others m hm.1)

theorem AxisWork.compOk_eq {n : Nat} {s t : State} (h : AxisWork n s t) {m : Nat} (hm : m ≠ n) : compOk t m = compOk s m := by
  have hlaw : axisLaw t m = axisLaw s m := by
    rw [h.eq]
    rfl
  rw [compOk, hlaw, h.others m hm, ← compOk]

/-- The samples of the axes `l`, one after the other. -/
def sampleAxes (at_ g : Nat) (l : List Nat) (acc : List SetSlot × State) : List SetSlot × State :=
  l.foldl (fun acc n => (acc.1 ++ [(sampleAxis at_ g n acc.2).1], (sampleAxis at_ g n acc.2).2)) acc

theorem sampleAxes_cons (at_ g n : Nat) (l : List Nat) (acc : List SetSlot × State) : sampleAxes at_ g (n :: l) acc =
    sampleAxes at_ g l (acc.1 ++ [(sampleAxis at_ g n acc.2).1], (sampleAxis at_ g n acc.2).2) := rfl

/-- A slot that holds a set-point only with its flag. -/
def SlotSound (x : SetSlot) : Prop := x.flags.getLsbD 0 = false → x.setpoint = 0

theorem sampleAxes_slots (at_ g : Nat) (l : List Nat) (acc : List SetSlot × State) (h : ∀ x ∈ acc.1, SlotSound x) :
    (sampleAxes at_ g l acc).1.map (fun x => x.axis) = acc.1.map (fun x => x.axis) ++ l ∧
      ∀ x ∈ (sampleAxes at_ g l acc).1, SlotSound x := by
  induction l generalizing acc with
  | nil => exact ⟨by simp [sampleAxes], h⟩
  | cons n l ih =>
    obtain ⟨haxis, hset⟩ := sampleAxis_slot acc.2 at_ g n
    rw [sampleAxes_cons]
    obtain ⟨h₁, h₂⟩ := ih (acc.1 ++ [(sampleAxis at_ g n acc.2).1], (sampleAxis at_ g n acc.2).2) (by
      simp only [List.mem_append, List.mem_singleton]
      rintro x (hx | rfl)
      · exact h x hx
      · exact hset)
    exact ⟨by rw [h₁]; simp [haxis], h₂⟩

theorem sampleAxes_keeps (at_ g : Nat) (l : List Nat) (acc : List SetSlot × State) :
    KeepsSamples acc.2 (sampleAxes at_ g l acc).2 := by
  induction l generalizing acc with
  | nil => exact .refl acc.2
  | cons n l ih =>
    rw [sampleAxes_cons]
    exact (sampleAxis_keeps acc.2 at_ g n).trans (ih (acc.1 ++ [(sampleAxis at_ g n acc.2).1], (sampleAxis at_ g n acc.2).2))

theorem sampleAxes_sampled (at_ g : Nat) (l : List Nat) (acc : List SetSlot × State) (hnd : l.Nodup) (h : ∀ n ∈ l, CalmAxis n acc.2) :
    AxesWork l acc.2 (sampleAxes at_ g l acc).2 ∧
      ∀ n ∈ l, Sampled (compOk acc.2 n) (axisOf acc.2 n) (axisOf (sampleAxes at_ g l acc).2 n) := by
  induction l generalizing acc with
  | nil => exact ⟨⟨rfl, fun _ _ => rfl⟩, nofun⟩
  | cons n l ih =>
    obtain ⟨hn, hl⟩ := List.nodup_cons.mp hnd
    obtain ⟨h₁, hsampled⟩ := sampleAxis_sampled acc.2 at_ g n (h n List.mem_cons_self)
    have hne : ∀ m ∈ l, m ≠ n := fun m hm e => hn (e ▸ hm)
    rw [sampleAxes_cons]
    obtain ⟨h₂, hrest⟩ := ih (acc.1 ++ [(sampleAxis at_ g n acc.2).1], (sampleAxis at_ g n acc.2).2) hl (fun m hm => by
      have hm' := h m (List.mem_cons_of_mem n hm)
      rw [CalmAxis] at hm' ⊢
      rw [h₁.cfg_eq, h₁.others m (hne m hm)]
      exact hm')
    refine ⟨h₁.axes h₂, fun m hm => ?_⟩
    obtain rfl | hm := List.mem_cons.mp hm
    · rw [h₂.others m hn]
      exact hsampled
    · have := hrest m hm
      rw [h₁.compOk_eq (hne m hm), h₁.others m (hne m hm)] at this
      exact this

section

variable (s : State)

theorem outputDue_quiet (at_ : Nat) (h : s.solver.solving = none ∨ at_ < s.solver.outputAt ∨ solverActs s = false) :
    outputDue at_ s = s := by
  refine if_neg ?_
  rintro ⟨hsome, hat, hacts⟩
  obtain h | h | h := h
  · simp [h] at hsome
  · omega
  · simp [h] at hacts

theorem count_keepsSamples (i j k : Nat) : KeepsSamples s (count i j k s) := ⟨rfl, rfl, rfl, rfl⟩

theorem solver_keepsSamples (v : Solver) : KeepsSamples s { s with solver := v } := ⟨rfl, rfl, rfl, rfl⟩

theorem solverInvalid_keeps (o : SolverOut) : KeepsSamples s (solverInvalid o s) := by
  unfold solverInvalid
  split
  · exact .trans (.trans (solver_keepsSamples s _) (count_keepsSamples _ 0x7419 0x0a 1)) (trigger_keeps _ 5 o.cycle)
  · exact .refl s

/-- The output shown, and counted (R337). -/
def outputShown (o : SolverOut) (it : Option Iterate) (s : State) : State :=
  let bad := decide (o.status ≠ 0)
  let b := o.cycle.toNat % 2
  let s := count 0x7419 1 1 { s with solver := { s.solver with
    solving := none, buffers := tblPut (s.solver.buffers.filter (fun e => e.1 ≠ b)) b o, visible := some b, outCycle := o.cycle,
    visibleAt := s.solver.outputAt, iterate := it, prevValid := !bad,
    invalid := if bad then s.solver.invalid + 1 else 0, warned := bad && s.solver.warned } }
  if o.status = 8 then count 0x7419 5 1 s else if bad then count 0x7419 6 1 s else s

/-- The output written to its buffer in own Cistern (R338). -/
def outputWritten (o : SolverOut) (s : State) : State :=
  if cfg s 0x5800 8 = 0 then s else pokeCistern (ownPhysical s (cfg s 0x5800 8)) (solverOutBytes o) s

theorem solverOutput_eq (o : SolverOut) (it : Option Iterate) (h : s.solver.solving = some (o, it)) :
    solverOutput s = solverInvalid o (outputWritten o (outputShown o it s)) := by
  unfold solverOutput
  simp only [h]
  rfl

theorem outputShown_keeps (o : SolverOut) (it : Option Iterate) : KeepsSamples s (outputShown o it s) := by
  have h := fun v => (solver_keepsSamples s v).trans (count_keepsSamples _ 0x7419 1 1)
  simp only [outputShown]
  generalize hu : count 0x7419 1 1 _ = u
  replace h : KeepsSamples s u := hu ▸ h _
  split
  · exact h.trans (count_keepsSamples u 0x7419 5 1)
  · split
    · exact h.trans (count_keepsSamples u 0x7419 6 1)
    · exact h

theorem outputWritten_keeps (o : SolverOut) : KeepsSamples s (outputWritten o s) := by
  unfold outputWritten
  split
  · exact .refl s
  · rw [pokeCistern_eq]
    exact ⟨rfl, rfl, rfl, rfl⟩

theorem solverOutput_keeps : KeepsSamples s (solverOutput s) := by
  cases h : s.solver.solving with
  | none =>
    have heq : solverOutput s = s := by
      unfold solverOutput
      simp only [h]
    rw [heq]
    exact .refl s
  | some e =>
    rw [solverOutput_eq s e.1 e.2 h]
    exact (outputShown_keeps s e.1 e.2).trans ((outputWritten_keeps _ e.1).trans (solverInvalid_keeps _ e.1))

theorem outputDue_keeps (at_ : Nat) : KeepsSamples s (outputDue at_ s) := by
  unfold outputDue
  split
  · exact solverOutput_keeps s
  · exact .refl s

theorem groupAxes_keeps {s t : State} (h : KeepsSamples s t) (g : Nat) : groupAxes t g = groupAxes s g := by
  have hcfg : ∀ i j, cfg t i j = cfg s i j := fun i j => by rw [cfg, cfgBytes, h.dict, ← cfgBytes, ← cfg]
  exact List.filter_congr fun n _ => by rw [decide_eq_decide, axisCfg, axisCfg, hcfg]

/-- A group's frame, and the group's next sample, from the slots of its axes. -/
def groupFrame (g at_ : Nat) (slots : List SetSlot) (s : State) : State :=
  let s := { s with pump := { s.pump with samples := tblMod 0 s.pump.samples g (· + 1), lastAt := tblPut s.pump.lastAt g at_ } }
  let f : SetFrame :=
    { group := g, flags := frameFlags slots, stamp := at_ + groupLatency s g, sample := (tblGet 0 s.pump.samples g).setWidth 32,
      slots := slots }
  if slots = [] then s
  else { s with pump := { s.pump with frames := s.pump.frames.filter (fun e => e.1 ≠ g) ++ [(g, f)] } }

theorem groupSample_eq (g at_ : Nat) : groupSample g at_ s =
    groupFrame g at_ (sampleAxes at_ g (groupAxes s g) ([], outputDue at_ s)).1
      (sampleAxes at_ g (groupAxes s g) ([], outputDue at_ s)).2 := rfl

theorem groupFrame_frame (g at_ : Nat) (slots : List SetSlot) : ∃ a b c, groupFrame g at_ slots s =
    { s with pump := { s.pump with samples := a, lastAt := b, frames := c } } := by
  simp only [groupFrame]
  split
  · exact ⟨_, _, _, rfl⟩
  · exact ⟨_, _, _, rfl⟩

theorem groupFrame_samples (g at_ : Nat) (slots : List SetSlot) :
    tblGet 0 (groupFrame g at_ slots s).pump.samples g = tblGet 0 s.pump.samples g + 1 := by
  have h : (groupFrame g at_ slots s).pump.samples = tblMod 0 s.pump.samples g (· + 1) := by
    simp only [groupFrame]
    split <;> rfl
  rw [h, tblGet_mod, if_pos rfl]

theorem groupFrame_none (g at_ : Nat) (slots : List SetSlot) (h : slots = []) :
    (groupFrame g at_ slots s).pump.frames = s.pump.frames := by
  simp only [groupFrame, h, if_true]

theorem groupFrame_frames (g at_ : Nat) (slots : List SetSlot) (h : slots ≠ []) : ∃ f : SetFrame,
    (groupFrame g at_ slots s).pump.frames = s.pump.frames.filter (fun e => e.1 ≠ g) ++ [(g, f)] ∧ f.group = g ∧
      f.stamp = at_ + groupLatency s g ∧ f.flags = frameFlags f.slots ∧ f.slots = slots := by
  simp only [groupFrame, if_neg h]
  exact ⟨_, rfl, rfl, rfl, rfl, rfl⟩

/-- The next sample of a group, whatever else its instant brings (R343, R348, R360). -/
theorem groupSample_sends (g at_ : Nat) :
    (groupSample g at_ s).clock = s.clock ∧
      tblGet 0 (groupSample g at_ s).pump.samples g = tblGet 0 s.pump.samples g + 1 ∧
      (groupAxes s g = [] → (groupSample g at_ s).pump.frames = s.pump.frames) ∧
      (groupAxes s g ≠ [] → ∃ f : SetFrame,
        (groupSample g at_ s).pump.frames = s.pump.frames.filter (fun e => e.1 ≠ g) ++ [(g, f)] ∧
        f.group = g ∧ f.stamp = at_ + groupLatency s g ∧ f.flags = frameFlags f.slots ∧
        f.slots.map (fun x => x.axis) = groupAxes s g ∧ ∀ x ∈ f.slots, SlotSound x) := by
  obtain ⟨haxes, hsound⟩ := sampleAxes_slots at_ g (groupAxes s g) ([], outputDue at_ s) nofun
  have hkeeps := (outputDue_keeps s at_).trans (sampleAxes_keeps at_ g (groupAxes s g) ([], outputDue at_ s))
  rw [groupSample_eq]
  generalize sampleAxes at_ g (groupAxes s g) ([], outputDue at_ s) = r at haxes hsound hkeeps ⊢
  rw [List.map_nil, List.nil_append] at haxes
  obtain ⟨slots, u⟩ := r
  dsimp only at haxes hsound hkeeps ⊢
  have hcfg : groupLatency u g = groupLatency s g := by
    rw [groupLatency, groupLatency, cfg, cfgBytes, hkeeps.dict, ← cfgBytes, ← cfg]
  refine ⟨?_, ?_, fun h => ?_, fun h => ?_⟩
  · obtain ⟨a, b, c, heq⟩ := groupFrame_frame u g at_ slots
    rw [heq]
    exact hkeeps.clock
  · rw [groupFrame_samples, hkeeps.samples]
  · rw [groupFrame_none u g at_ slots (List.map_eq_nil_iff.mp (haxes.trans h)), hkeeps.frames]
  · obtain ⟨f, hframes, hg, hstamp, hflags, hslots⟩ := groupFrame_frames u g at_ slots fun hn => h (by rw [← haxes, hn,
    List.map_nil])
    rw [hframes, hkeeps.frames]
    exact ⟨f, rfl, hg, by rw [hstamp, hcfg], hflags, by rw [hslots, haxes], by rw [hslots]; exact hsound⟩

theorem groupAxes_nodup (g : Nat) : (groupAxes s g).Nodup := List.Nodup.filter _ List.nodup_range

/-- The next sample of a group's axes, where the instant brings no output of the solver. -/
theorem groupSample_quiet (g at_ : Nat) (h : ∀ n ∈ groupAxes s g, CalmAxis n s)
    (hq : s.solver.solving = none ∨ at_ < s.solver.outputAt ∨ solverActs s = false) :
    ((groupSample g at_ s).mem = s.mem ∧ (groupSample g at_ s).sluice = s.sluice) ∧
      (∀ n, n ∉ groupAxes s g → axisOf (groupSample g at_ s) n = axisOf s n) ∧
      ∀ n ∈ groupAxes s g, Sampled (compOk s n) (axisOf s n) (axisOf (groupSample g at_ s) n) := by
  have hsampled := sampleAxes_sampled at_ g (groupAxes s g) ([], s) (groupAxes_nodup s g) h
  rw [groupSample_eq, outputDue_quiet s at_ hq]
  generalize sampleAxes at_ g (groupAxes s g) ([], s) = r at hsampled ⊢
  obtain ⟨slots, u⟩ := r
  dsimp only at hsampled ⊢
  obtain ⟨⟨heq, hothers⟩, hsampled⟩ := hsampled
  obtain ⟨a, b, c, hframe⟩ := groupFrame_frame u g at_ slots
  have haxis : ∀ n, axisOf (groupFrame g at_ slots u) n = axisOf u n := fun n => by rw [hframe]; rfl
  refine ⟨?_, fun n hn => (haxis n).trans (hothers n hn), fun n hn => ?_⟩
  · rw [hframe]
    exact ⟨by rw [heq], by rw [heq]⟩
  · rw [haxis n]
    exact hsampled n hn

theorem pumpSample_samples (g : Fin 8) (hrun : s.pump.running = true) (hworks : works s 11 = true) (hused : groupUsed s g.val = true)
    (hcalm : (cfg s 0x4000 9).testBit 6 = false ∨
      ∀ n ∈ groupAxes s g.val, axisEnabled (axisOf s n) = false ∧ (axisOf s n).pending ≠ some true) :
    let T := nextInstant (groupPeriod s g.val) (groupOffset s g.val) (now s)
      ((s.pump.lastAt.find? (fun e => e.1 = g.val)).map (fun e => e.2))
    let quiet := s.solver.solving = none ∨ T < s.solver.outputAt ∨ solverActs s = false
    ∃ t, exec (.pumpSample g) s = .next t ∧ t.clock = (clockTo T s).clock ∧
      tblGet 0 t.pump.samples g.val = tblGet 0 s.pump.samples g.val + 1 ∧ (quiet → t.mem = s.mem ∧ t.sluice = s.sluice) ∧
      (groupAxes s g.val = [] → t.pump.frames = s.pump.frames) ∧
      (groupAxes s g.val ≠ [] → ∃ f : SetFrame, t.pump.frames = s.pump.frames.filter (fun e => e.1 ≠ g.val) ++ [(g.val, f)] ∧
        f.group = g.val ∧ f.stamp = T + groupLatency s g.val ∧ f.flags = frameFlags f.slots ∧
        f.slots.map (fun x => x.axis) = groupAxes s g.val ∧ ∀ x ∈ f.slots, SlotSound x) ∧
      (quiet → ∀ n, n ∉ groupAxes s g.val → axisOf t n = axisOf s n) ∧
      (quiet → ∀ n ∈ groupAxes s g.val, Sampled (compOk s n) (axisOf s n) (axisOf t n)) := by
  intro T
  have hexec : exec (.pumpSample g) s = .next (groupSample g.val T (clockTo T s)) := if_pos ⟨hrun, hworks, hused⟩
  clear_value T
  intro quiet
  obtain ⟨hclock, hsamples, hnone, hframes⟩ := groupSample_sends (clockTo T s) g.val T
  obtain ⟨n, hn⟩ : ∃ n, clockTo T s = { s with clock := n } := ⟨_, clockTo_eq T s⟩
  rw [hn] at hexec hclock hsamples hnone hframes ⊢
  have hcalm' : ∀ n' ∈ groupAxes s g.val, CalmAxis n' { s with clock := n } := fun m hm => hcalm.imp id (· m hm)
  have hquiet := fun hq => groupSample_quiet { s with clock := n } g.val T hcalm' hq
  exact ⟨_, hexec, hclock, hsamples, fun hq => (hquiet hq).1, hnone, hframes, fun hq => (hquiet hq).2.1, fun hq => (hquiet hq).2.2⟩

/-! ## The hand-over of a frame (R360, R363) -/

/-- The hand-over of a frame of which no slot is late. -/
theorem handOff_whole (f : SetFrame) (g : Nat) (hg : f.group = g) : handOff f 0 s =
    let f' := { f with flags := frameFlags f.slots }
    offerLaunch (groupPort s g) { stamp := f.stamp, body := .setpoint (if driveSafe s then safeFrame f' else f') }
      { s with pump := { s.pump with frames := s.pump.frames.filter (fun e => e.1 ≠ g) } } := by
  subst hg
  have hbad : (f.slots.zipIdx.filter (fun x => x.1.flags.getLsbD 0 && (0 : BitVec 16).getLsbD x.2)).map (fun x => x.1.axis) = [] := by
    simp
  have hslots : ∀ u : State, f.slots.map (fun x => if x.axis ∈ ([] : List Nat) then mkSlot u x.axis (axisOf u x.axis) false 0 else x) =
      f.slots := fun u => by simp
  have hnone : ∀ u, forEach ([] : List Nat) notReady u = u := fun _ => rfl
  unfold handOff
  simp only [hbad, hnone, hslots]
  have hgroup : (if driveSafe s then safeFrame { f with flags := frameFlags f.slots } else { f with flags := frameFlags f.slots }).group =
      f.group := by split <;> rfl
  have hstamp : (if driveSafe s then safeFrame { f with flags := frameFlags f.slots } else { f with flags := frameFlags f.slots }).stamp =
      f.stamp := by split <;> rfl
  rw [hgroup, hstamp]
  rfl

theorem pumpFrameHandoff_queues (g : Fin 8) (f : SetFrame) (hf : s.pump.frames.find? (fun e => e.1 = g.val) = some (g.val, f))
    (hg : f.group = g.val) :
    let p := groupPort s g.val
    let f' := { f with flags := frameFlags f.slots }
    let l : Launch := { stamp := f.stamp, body := .setpoint (if driveSafe s then safeFrame f' else f') }
    t1Up s p = true → (t1Of s p).launch.length < 16 → f.stamp ≤ now (clockTo (f.stamp - 1000) s) + 100000000 →
    exec (.pumpFrameHandoff g 0) s = .next (queueLaunch p l { s with
      clock := (clockTo (f.stamp - 1000) s).clock, pump := { s.pump with frames := s.pump.frames.filter (fun e => e.1 ≠ g.val) } }) := by
  intro p f' l hup hroom hsoon
  have hexec : exec (.pumpFrameHandoff g 0) s = .next (handOff f 0 (clockTo (f.stamp - 1000) s)) := by
    show execPumpFrameHandoff g 0 s = _
    unfold execPumpFrameHandoff
    simp only [hf]
  rw [hexec, handOff_whole _ f g.val hg]
  generalize f.stamp - 1000 = T at hsoon ⊢
  obtain ⟨c, hc⟩ : ∃ c, clockTo T s = { s with clock := c } := ⟨_, clockTo_eq T s⟩
  rw [hc] at hsoon ⊢
  refine congrArg Host.Outcome.next ?_
  refine if_neg ?_
  rintro (h | h | h)
  · exact absurd (hup.symm.trans ((Bool.not_eq_true' _).mp h)) nofun
  · exact absurd hroom (by exact Nat.not_lt.mpr h)
  · exact absurd hsoon (by exact Nat.not_le.mpr h)

theorem t1Of_queueLaunch (x : Nat) (l : Launch) (y : Nat) : t1Of (queueLaunch x l s) y = if y = x then { t1Of s x with
    launch := (t1Of s x).launch.takeWhile (fun o => launchAhead o l) ++ [l] ++
      (t1Of s x).launch.dropWhile (fun o => launchAhead o l) } else t1Of s y := by
  have h : (queueLaunch x l s).t1 = tblMod {} s.t1 x (fun p => { p with
      launch := p.launch.takeWhile (fun o => launchAhead o l) ++ [l] ++ p.launch.dropWhile (fun o => launchAhead o l) }) := rfl
  rw [t1Of, h, tblGet_mod]
  rfl

theorem pumpFrameHandoff_queued (g : Fin 8) (f : SetFrame) (hf : s.pump.frames.find? (fun e => e.1 = g.val) = some (g.val, f))
    (hg : f.group = g.val) :
    let p := groupPort s g.val
    let f' := { f with flags := frameFlags f.slots }
    let l : Launch := { stamp := f.stamp, body := .setpoint (if driveSafe s then safeFrame f' else f') }
    t1Up s p = true → (t1Of s p).launch.length < 16 → f.stamp ≤ now (clockTo (f.stamp - 1000) s) + 100000000 →
    ∃ t, exec (.pumpFrameHandoff g 0) s = .next t ∧
      t = { s with clock := (clockTo (f.stamp - 1000) s).clock, pump := { s.pump with frames := t.pump.frames }, t1 := t.t1 } ∧
      t.pump.frames = s.pump.frames.filter (fun e => e.1 ≠ g.val) ∧
      (t1Of t p).launch = (t1Of s p).launch.takeWhile (fun o => launchAhead o l) ++ [l] ++
        (t1Of s p).launch.dropWhile (fun o => launchAhead o l) ∧ ∀ y, y ≠ p → t1Of t y = t1Of s y := by
  intro p f' l hup hroom hsoon
  have hexec := pumpFrameHandoff_queues s g f hf hg hup hroom hsoon
  generalize (clockTo (f.stamp - 1000) s).clock = c at hexec ⊢
  refine ⟨_, hexec, rfl, rfl, ?_, fun y hy => ?_⟩
  · exact congrArg T1Port.launch ((t1Of_queueLaunch _ p l p).trans (if_pos rfl))
  · exact (t1Of_queueLaunch _ p l y).trans (if_neg hy)

end

/-- Settles O52: each clause is the lemma of its command; the axes of a group are sampled one after the other, none another's. -/
theorem pumpSamples : Obligations.PumpSamples := by
  unfold Obligations.PumpSamples
  refine ⟨feedbackFrame_unused, feedbackFrame_cases, fun s g hrun hworks hused hcalm => ?_,
    fun s g f hf hg => ?_⟩
  · exact pumpSample_samples s g hrun hworks hused hcalm
  · exact pumpFrameHandoff_queued s g f hf hg

end Sys2Proof.Machine

end

section
/-!
PROOF. What the end of jobs, an entry to safe state and a tier fault spare: the gates of the tiles and the state of the fabric ports.
-/

namespace Sys2Proof.Machine

open Claims

/-- A fabric port that is lost (R383): its state, no peer, no request but those that outlive it. It has no entry of the table where it
is as at reset, so that nothing stands behind it. -/
structure LostPort (p : Nat) (st : BitVec 8) (s : State) : Prop where
  state : (fabOf s p).state = st
  peers : (fabOf s p).peersUp = []
  reqs : ∀ r ∈ (fabOf s p).reqs, outlivesPort r = true
  listed : fabOf s p = {} → ∀ e ∈ s.fabric, e.1 ≠ p

theorem LostPort.of_fabric {p : Nat} {st : BitVec 8} {s t : State} (h : LostPort p st s) (hf : t.fabric = s.fabric) :
    LostPort p st t := by
  have hfab : fabOf t p = fabOf s p := by rw [fabOf, hf, fabOf]
  exact ⟨by rw [hfab, h.state], by rw [hfab, h.peers], by rw [hfab]; exact h.reqs, by rw [hfab, hf]; exact h.listed⟩

/-- The tiles' gates stay, and a fabric port that is lost stays so. -/
structure Spares (s t : State) : Prop where
  gated : ∀ x, (tileOf t x).gated = (tileOf s x).gated
  port : ∀ p st, LostPort p st s → LostPort p st t

namespace Spares

variable {s t u : State}

theorem of_ports (ht : ∀ x, (tileOf t x).gated = (tileOf s x).gated) (hf : t.fabric = s.fabric) : Spares s t :=
  ⟨ht, fun _ _ h => h.of_fabric hf⟩

theorem of_same (ht : t.tiles = s.tiles) (hf : t.fabric = s.fabric) : Spares s t :=
  .of_ports (fun x => by rw [tileOf, ht, ← tileOf]) hf

theorem refl (s : State) : Spares s s := .of_same rfl rfl

theorem trans (h : Spares s t) (k : Spares t u) : Spares s u :=
  ⟨fun x => (k.gated x).trans (h.gated x), fun p st hp => k.port p st (h.port p st hp)⟩

theorem forEach {α : Type} (l : List α) (f : α → State → State) (h : ∀ a u, Spares u (f a u)) (s : State) :
    Spares s (forEach l f s) := forEach_rel Spares refl (fun _ _ _ h k => h.trans k) f l (fun a _ u => h a u) s

theorem ite {c : Prop} [Decidable c] (h : Spares s t) (k : Spares s u) : Spares s (if c then t else u) := by
  split
  · exact h
  · exact k

theorem of_notices (h : Notices s t) : Spares s t := .of_same (by rw [h.eq]) (by rw [h.eq])

end Spares

section

variable (s : State)

/-! ## Tiles and ports -/

theorem tmod_spares (x : Nat) (f : Tile → Tile) (h : ∀ tl, (f tl).gated = tl.gated) : Spares s (tmod x f s) := by
  refine .of_ports (fun y => ?_) rfl
  rw [tileOf_tmod]
  split
  next e => rw [e, h]
  next => rfl

theorem mem_tblPut {α : Type} (l : Tbl α) (k : Nat) (v : α) (e : Nat × α) (h : e ∈ tblPut l k v) : e.1 = k ∨ e ∈ l := by
  induction l with
  | nil =>
    rw [tblPut, List.mem_singleton] at h
    exact .inl (by rw [h])
  | cons x l ih =>
    obtain ⟨j, u⟩ := x
    rw [tblPut] at h
    split at h
    · obtain rfl | h := List.mem_cons.mp h
      · exact .inl rfl
      · exact .inr h
    · split at h
      · obtain rfl | h := List.mem_cons.mp h
        · exact .inl rfl
        · exact .inr (List.mem_cons_of_mem _ h)
      · obtain rfl | h := List.mem_cons.mp h
        · exact .inr List.mem_cons_self
        · exact (ih h).imp id (List.mem_cons_of_mem _)

/-- A table's entries after one changed: those of other keys are old. -/
theorem mem_tblMod_other {α : Type} [DecidableEq α] (d : α) (l : Tbl α) (k : Nat) (f : α → α) (e : Nat × α) (h : e ∈ tblMod d l k f) :
    e.1 = k ∨ e ∈ l := by
  unfold tblMod tblSet at h
  split at h
  · exact .inr (List.mem_filter.mp h).1
  · exact mem_tblPut l k _ e h

/-- One changed to the default is not listed. -/
theorem tblMod_default {α : Type} [DecidableEq α] (d : α) (l : Tbl α) (k : Nat) (f : α → α) (h : f (tblGet d l k) = d) :
    ∀ e ∈ tblMod d l k f, e.1 ≠ k := fun e he => by
  unfold tblMod tblSet at he
  rw [if_pos h] at he
  simpa using (List.mem_filter.mp he).2

/-- A step of one port that keeps its state, its peers and the kind of its requests. -/
theorem fabmod_spares (p : Nat) (f : FabricPort → FabricPort) (hstate : (f (fabOf s p)).state = (fabOf s p).state)
    (hpeers : (f (fabOf s p)).peersUp = (fabOf s p).peersUp)
    (hr : ∀ r ∈ (f (fabOf s p)).reqs, outlivesPort r = true ∨ ∃ q ∈ (fabOf s p).reqs, q.owner = r.owner) : Spares s (fabmod p f s) := by
  refine ⟨fun _ => rfl, fun q st h => ?_⟩
  by_cases hq : q = p
  · subst hq
    have hfab : fabOf (fabmod q f s) q = f (fabOf s q) := fabOf_fabmod_same s q f
    refine ⟨by rw [hfab, hstate, h.state], by rw [hfab, hpeers, h.peers], fun r hmem => ?_, fun hd => ?_⟩
    · obtain hout | ⟨x, hx, ho⟩ := hr r (hfab ▸ hmem)
      · exact hout
      · have := h.reqs x hx
        rw [outlivesPort] at this ⊢
        rw [← ho]
        exact this
    · exact tblMod_default ({} : FabricPort) s.fabric q f (hfab ▸ hd)
  · have hfab : fabOf (fabmod p f s) q = fabOf s q := by rw [fabOf_fabmod, if_neg hq]
    refine ⟨by rw [hfab, h.state], by rw [hfab, h.peers], by rw [hfab]; exact h.reqs, fun hd e he => ?_⟩
    obtain hk | hold := mem_tblMod_other ({} : FabricPort) s.fabric p f e he
    · exact fun hc => hq (hc.symm.trans hk)
    · exact h.listed (hfab ▸ hd) e hold

theorem emitFabric_spares (p : Nat) (f : OutFrame) : Spares s (emitFabric p f s) :=
  .ite (fabmod_spares s p _ rfl rfl fun r hr => .inr ⟨r, hr, rfl⟩) (.of_same rfl rfl)

theorem sendPackets_spares (p peer qp : Nat) (op : RoceOp) (a : Nat) (d : Bytes) : Spares s (sendPackets p peer qp op a d s) :=
  .forEach _ _ (fun f u => emitFabric_spares u p f) s

theorem peerWrite_spares (m a : Nat) (d : Bytes) : Spares s (peerWrite m a d s) := by
  unfold peerWrite
  split
  · exact .refl s
  · exact sendPackets_spares ..

/-- A new request of a channel. -/
theorem newReq_spares (m ch : Nat) (op : RoceOp) (a : Nat) (d : Bytes) : Spares s (newReq m (.channel ch) op a d s) := by
  unfold newReq
  split
  · exact .refl s
  · rename_i p _
    extract_lets f qp s₁
    have h₁ : Spares s s₁ := fabmod_spares s p _ rfl rfl fun r hr => by
      obtain hr | hr := List.mem_append.mp hr
      · exact .inr ⟨r, hr, rfl⟩
      · rw [List.mem_singleton.mp hr]
        exact .inl rfl
    clear_value qp
    cases qp with
    | some k => exact h₁.trans (sendPackets_spares ..)
    | none => exact h₁

theorem fencePeer_spares (ch t : Nat) : Spares s (fencePeer ch t s) := .ite (newReq_spares ..) (.refl s)

theorem beginFence_spares (ch t : Nat) : Spares s (beginFence ch t s) :=
  .trans (.of_same (t := chanmod ch _ s) rfl rfl) (fencePeer_spares ..)

theorem fenceTargets_spares (ch : Nat) : Spares s (fenceTargets ch s) :=
  .trans (.forEach _ _ (fun t u => beginFence_spares u ch t) s) (.of_same rfl rfl)

/-! ## A job that ends -/

theorem abandonWait_spares (x : Nat) : Spares s (abandonWait x s) := by
  unfold abandonWait
  split
  · exact .refl s
  · extract_lets s₁
    have h₁ : Spares s s₁ := tmod_spares s x _ fun _ => rfl
    split
    · exact h₁.trans (.of_same rfl rfl)
    · exact h₁

theorem stopTasks_spares (j : Job) : Spares s (stopTasks j s) :=
  .trans (.forEach _ _ (fun t u => abandonWait_spares u t) s) (.of_same rfl rfl)

theorem setRow_gated (r : Nat) (vs : List (BitVec 48)) (b : Bool) (tl : Tile) : (setRow r vs b tl).gated = tl.gated := by
  have h : ∀ (l : List (BitVec 48 × Nat)) (tl : Tile), (l.foldl (fun tl p => setEntry r p.2 p.1 tl) tl).gated = tl.gated := by
    intro l
    induction l with
    | nil => exact fun _ => rfl
    | cons p l ih => exact fun tl => ih _
  exact h _ tl

theorem loadBlock_spares (x : Nat) (es : List (BitVec 48)) : Spares s (loadBlock x es s) := by
  refine tmod_spares s x _ fun tl => ?_
  have h : ∀ (l : List (List (BitVec 48) × Nat)) (tl : Tile), (l.foldl (fun tl r => setRow (112 + r.2) r.1 false tl) tl).gated = tl.gated := by
    intro l
    induction l with
    | nil => exact fun _ => rfl
    | cons p l ih => exact fun tl => (ih _).trans (setRow_gated ..)
  exact h _ tl

theorem restoreRollback_spares (n : Nat) : Spares s (restoreRollback n s) := by
  unfold restoreRollback
  refine .ite (.trans (.forEach _ _ (fun t u => ?_) s) (.of_same rfl rfl)) (.refl s)
  split
  · exact loadBlock_spares ..
  · exact .refl u

theorem buryAttempt_spares (j : Job) (image : Option Extent) (resv : List Nat) : Spares s (buryAttempt j image resv s) := by
  unfold buryAttempt
  extract_lets id chs run s₁ s₂ waits
  have h₂ : Spares s s₂ := .trans (.of_same (t := s₁) rfl rfl) (.forEach _ _ (fun ch u => fenceTargets_spares u ch) s₁)
  generalize s₂ = u at h₂
  exact h₂.trans (.ite (.of_same rfl rfl) (.of_same rfl rfl))

theorem entryMod_spares (e : Nat) (f : Entry → Entry) : Spares s (entryMod e f s) :=
  .of_same (by unfold entryMod; rw [pokeCistern_eq]) (by unfold entryMod; rw [pokeCistern_eq])

theorem releasePins_spares (j : Job) : Spares s (releasePins j s) := .forEach _ _ (fun e u => entryMod_spares u e _) s

theorem reclaim_spares : Spares s (reclaim s) :=
  .ite (.refl s) (.trans (.trans (.of_same (t := { s with pages := { s.pages with ended := [] } }) rfl rfl)
    (.forEach _ _ (fun e u => entryMod_spares u e _) _)) (.forEach _ _ (fun e u => entryMod_spares u e _) _))

theorem freeAquifer_spares (a : Nat) : Spares s (freeAquifer s a) := by
  unfold freeAquifer
  split
  · exact peerWrite_spares ..
  · exact .refl s

theorem reapReplicas_spares : Spares s (reapReplicas s) := by
  rw [reapReplicas_eq]
  exact .forEach _ _ (fun i u => .of_same (t := tensorMod i _ u) rfl rfl) s

theorem freeHomes_spares (l : List OldHome) : Spares s (freeHomes l s) :=
  .forEach l _ (fun (o : OldHome) u => .ite (freeAquifer_spares u o.extent.addr) (.refl u)) s

theorem reapHomes_spares : Spares s (reapHomes s) := by
  have h₁ := freeHomes_spares s (deadHomes s)
  rw [reapHomes_eq]
  generalize freeHomes (deadHomes s) s = u at h₁
  exact h₁.trans (.trans (.of_same (t := forgetHomes u) rfl rfl) (reapReplicas_spares _))

theorem releaseJob_spares (j : Job) (done : Bool) : Spares s (releaseJob j done s) := by
  unfold releaseJob
  extract_lets ran s₁ s₂ s₃ s₄ s₅ power s₆
  have h₁ : Spares s s₁ := .ite (stopTasks_spares ..) (.refl s)
  have h₂ : Spares s₁ s₂ := by
    simp only [s₂]
    split
    · exact .ite (restoreRollback_spares ..) (.refl _)
    · exact .refl _
  have h₃ : Spares s₂ s₃ := .of_same rfl rfl
  have h₄ : Spares s₃ s₄ := .ite (buryAttempt_spares ..) (.of_same rfl rfl)
  have h₅ : Spares s₄ s₅ := releasePins_spares ..
  have h₆ : Spares s₅ (jdel j.tag s₆) := .of_same rfl rfl
  exact h₁.trans (h₂.trans (h₃.trans (h₄.trans (h₅.trans (h₆.trans (.trans (reapHomes_spares _) (reclaim_spares _)))))))

theorem notifyJob_spares (j : Job) (r : CompRec) : Spares s (notifyJob j r s) := by
  unfold notifyJob
  split
  · exact .refl s
  · split
    · exact .of_notices (notify_notices s _ _)
    · exact .refl s

theorem settlePart_spares (p : Nat) : Spares s (settlePart p s) := .ite (.of_same rfl rfl) (.refl s)

theorem settleQueue_spares (q : Nat) : Spares s (settleQueue q s) := .ite (.of_same rfl rfl) (.refl s)

theorem countCompletion_spares (j : Job) (st : BitVec 8) : Spares s (countCompletion j st s) := by
  have hcount : ∀ (u : State) (i k n : Nat), Spares u (count i k n u) := fun _ _ _ _ => .of_same rfl rfl
  unfold countCompletion
  extract_lets c s₁ s₂
  have h₁ : Spares s s₁ := hcount ..
  have h₂ : Spares s₁ s₂ := hcount ..
  exact .ite (h₁.trans (.trans (hcount ..) (.trans (hcount ..) (hcount ..)))) (h₁.trans (h₂.trans (.ite (hcount ..) (.refl _))))

theorem completeJob_spares (g : BitVec 32) (st : BitVec 8) : Spares s (completeJob g st s) := by
  unfold completeJob
  split
  · exact .refl s
  · extract_lets j' s₁ s₂ r s₃
    have h₁ : Spares s s₁ := releaseJob_spares ..
    have h₂ : Spares s₁ s₂ := countCompletion_spares ..
    have h₃ : Spares s₂ s₃ := .ite (.trans (.of_same (t := qmod j'.q (fun x => { x with records := x.records ++ [r] }) s₂) rfl rfl)
      (notifyJob_spares _ j' r)) (.of_same rfl rfl)
    exact h₁.trans (h₂.trans (h₃.trans (.trans (.forEach _ _ (fun p u => settlePart_spares u p) _) (settleQueue_spares _ _))))

/-! ## Safe state, lost streams and tier faults -/

theorem safetyFrames_spares (c : Bool) : Spares s (safetyFrames c s) :=
  .of_same (by rw [(safetyFrames_sent s c).eq]) (by rw [(safetyFrames_sent s c).eq])

theorem enterSafe_spares (c : Nat) (d : BitVec 32) (fault : Bool) : Spares s (enterSafe c d fault s) := by
  by_cases h : s.island.state = .normal
  · rw [enterSafe_normal s c d fault h]
    have hended : Spares s (endUncommitted s) := .forEach _ _ (fun (j : Job) u => completeJob_spares u j.tag stSafe) s
    have hlatch : Spares s (countEntry (latchFirst c d fault (safeUnits (endUncommitted s)))) := hended.trans (.of_same rfl rfl)
    generalize countEntry (latchFirst c d fault (safeUnits (endUncommitted s))) = t at hlatch
    exact .ite hlatch (hlatch.trans (.trans (.of_notices (notifyAll_notices t _ _)) (safetyFrames_spares _ false)))
  · rw [enterSafe_again s c d fault h]
    exact .ite (.of_same rfl rfl) (.trans (.of_same (t := latchMore c d fault s) rfl rfl) (safetyFrames_spares _ false))

theorem finishJob_spares (g : BitVec 32) (st : BitVec 8) : Spares s (finishJob g st s) := by
  have hend := completeJob_spares s g st
  unfold finishJob
  split
  · exact .refl s
  · exact .ite (hend.trans (enterSafe_spares _ 2 g false)) hend

theorem loseStream_spares (n : Nat) (st : BitVec 8) : Spares s (loseStream n st s) := by
  unfold loseStream
  extract_lets r s₁ s₂
  have h₂ : Spares s s₂ := .of_same rfl rfl
  generalize s₂ = v at h₂
  exact h₂.trans (.forEach _ _ (fun (j : Job) u => finishJob_spares u j.tag st) v)

/-! ## A tier fault (R246) -/

theorem promoteReq_spares (p : Nat) (r : RoceReq) : Spares s (promoteReq p r s) := by
  unfold promoteReq
  split
  · exact .refl s
  · rename_i k _
    refine .trans (fabmod_spares s p _ rfl rfl fun x hx => ?_) (sendPackets_spares ..)
    obtain ⟨y, hy, rfl⟩ := List.mem_map.mp hx
    refine .inr ⟨y, hy, ?_⟩
    split <;> rfl

theorem promoteReqs_spares (p : Nat) : Spares s (promoteReqs p s) := .forEach _ _ (fun r u => promoteReq_spares u p r) s

/-- A port without the requests that `which` names. -/
def withoutReqs (which : RoceReq → Bool) (f : FabricPort) : FabricPort := { f with reqs := f.reqs.filter (fun r => !(which r)) }

/-- An entry that a change of the whole table leaves alone is still the one read, where it is not the default. -/
theorem tblGet_tblMap_fixed {α : Type} [DecidableEq α] (d : α) (f : α → α) (l : Tbl α) (k : Nat) (h : f (tblGet d l k) = tblGet d l k)
    (hd : tblGet d l k = d → ∀ e ∈ l, e.1 ≠ k) :
    tblGet d (tblMap d f l) k = tblGet d l k ∧ (tblGet d l k = d → ∀ e ∈ tblMap d f l, e.1 ≠ k) := by
  constructor
  · unfold tblMap
    induction l with
    | nil => rfl
    | cons e l ih =>
      by_cases hk : e.1 = k
      · have hget : tblGet d (e :: l) k = e.2 := by simp only [tblGet, hk, if_true]
        rw [hget] at h hd ⊢
        have hne : e.2 ≠ d := fun hc => hd hc e List.mem_cons_self hk
        rw [List.map_cons, List.filter_cons, h, if_pos (by simpa using hne)]
        simp only [tblGet, hk, if_true]
      · have hget : tblGet d (e :: l) k = tblGet d l k := by simp only [tblGet, hk, if_false]
        rw [hget] at h hd ⊢
        have htail := ih h fun hc x hx => hd hc x (List.mem_cons_of_mem e hx)
        rw [List.map_cons, List.filter_cons]
        split
        · simp only [tblGet, hk, if_false]
          exact htail
        · exact htail
  · intro hc e he
    obtain ⟨x, hx, rfl⟩ := List.mem_map.mp (List.mem_filter.mp he).1
    exact hd hc x hx

/-- A request that outlives its port is of no copy. -/
theorem ofCopies_outlives (g : BitVec 32) (r : RoceReq) (h : outlivesPort r = true) : (!(ofCopies g r)) = true := by
  unfold outlivesPort at h
  unfold ofCopies
  split
  next hr => rw [hr] at h; cases h
  next => rfl

theorem dropCopies_spares (g : BitVec 32) : Spares s (dropReqs (ofCopies g) s) := by
  have h : Spares s { s with fabric := tblMap {} (withoutReqs (ofCopies g)) s.fabric } := by
    refine ⟨fun _ => rfl, fun p st h => ?_⟩
    have hfix : withoutReqs (ofCopies g) (fabOf s p) = fabOf s p := by
      have hall : (fabOf s p).reqs.filter (fun r => !(ofCopies g r)) = (fabOf s p).reqs := List.filter_eq_self.mpr fun r hr =>
        ofCopies_outlives g r (h.reqs r hr)
      rw [withoutReqs, hall]
    obtain ⟨hget, hlist⟩ := tblGet_tblMap_fixed ({} : FabricPort) (withoutReqs (ofCopies g)) s.fabric p hfix h.listed
    exact ⟨(congrArg FabricPort.state hget).trans h.state, (congrArg FabricPort.peersUp hget).trans h.peers,
      fun r hr => h.reqs r ((congrArg FabricPort.reqs hget) ▸ hr), fun hd => hlist (hget.symm.trans hd)⟩
  exact h.trans (.forEach _ _ (fun p u => promoteReqs_spares u p) _)

theorem jmod_spares (g : BitVec 32) (f : Job → Job) : Spares s (jmod g f s) := .of_same rfl rfl

theorem count_spares (i k n : Nat) : Spares s (count i k n s) := .of_same rfl rfl

theorem movePath_spares (g : BitVec 32) (k : Nat) : Spares s (movePath g k s) := by
  unfold movePath
  extract_lets s₁
  have h₁ : Spares s s₁ := (dropCopies_spares s g).trans (jmod_spares ..)
  split
  · exact h₁
  · refine h₁.trans (.forEach _ _ (fun b u => ?_) s₁)
    split
    · exact .refl u
    · refine .forEach _ _ (fun x v => ?_) u
      exact (abandonWait_spares v x).trans (tmod_spares _ x _ fun _ => rfl)

theorem switchPath_spares (g : BitVec 32) (k : Nat) : Spares s (switchPath g k s) := by
  unfold switchPath
  exact .trans (.trans (jmod_spares ..) (count_spares ..)) (movePath_spares _ g k)

theorem pathEvent_spares (g : BitVec 32) (e : Nat) : Spares s (pathEvent g e s) := by
  unfold pathEvent
  split
  · exact .refl s
  · split
    · exact .refl s
    · extract_lets s₁
      have h₁ : Spares s s₁ := .of_same rfl rfl
      split
      · exact h₁.trans (finishJob_spares ..)
      · exact h₁.trans (.ite (switchPath_spares ..) (.ite (movePath_spares ..) (.refl _)))

theorem damageTensor_spares (i : Nat) : Spares s (damageTensor i s) :=
  .ite (.trans (.of_same (t := tensorMod i _ s) rfl rfl) (.of_notices (notifySubs_notices _ _ _))) (.refl s)

theorem tierFaultAt_spares (g : BitVec 32) (e : Nat) (kind : TierFaultKind) : Spares s (tierFaultAt g e kind s) := by
  have hcount : ∀ (u : State) (i k n : Nat), Spares u (count i k n u) := fun _ _ _ _ => .of_same rfl rfl
  unfold tierFaultAt
  split
  · exact .refl s
  · extract_lets s₁ s₂ damages s₃
    have h₁ : Spares s s₁ := .of_same rfl rfl
    have h₂ : Spares s₁ s₂ := by
      simp only [s₂]
      split
      case h_3 => exact .refl s₁
      all_goals exact hcount ..
    have h₃ : Spares s₂ s₃ := by
      simp only [s₃]
      split
      · exact .ite (damageTensor_spares ..) (.refl _)
      · exact .refl _
    exact h₁.trans (h₂.trans (h₃.trans (pathEvent_spares ..)))

end

end Sys2Proof.Machine

end

section
/-!
PROOF. START, STOP and reset of a partition (R261, R275, R276).
-/

namespace Sys2Proof.Machine

open Claims

section

variable (s : State)

/-! ## The jobs that a reset cancels -/

/-- No job with a tag stands once it is finished, and none is new. -/
theorem mem_finishJob {g : BitVec 32} {st : BitVec 8} {j : Job} (h : j ∈ (finishJob g st s).sluice.jobs) :
    j ∈ s.sluice.jobs ∧ j.tag ≠ g := by
  refine ⟨(finishJob_upset s g st).jobs.subset h, ?_⟩
  cases hj : jobOf s g with
  | none =>
    have hmem := (finishJob_upset s g st).jobs.subset h
    have := List.find?_eq_none.mp hj j hmem
    simpa using this
  | some i =>
    have hsub : (finishJob g st s).sluice.jobs.Sublist (completeJob g st s).sluice.jobs := by
      unfold finishJob
      simp only [hj]
      split
      · exact (enterSafe_upset _ 2 g false).jobs
      · exact .refl _
    have hmem := hsub.subset h
    rw [completeJob_jobs s st hj] at hmem
    simpa using (List.mem_filter.mp hmem).2

/-- Jobs finished one after the other. -/
def jobsFinished (l : List Job) (st : BitVec 8) (s : State) : State := forEach l (fun j => finishJob j.tag st) s

theorem jobsFinished_upset (l : List Job) (st : BitVec 8) : Upset s (jobsFinished l st s) :=
  .forEach l _ (fun (j : Job) u => finishJob_upset u j.tag st) s

theorem jobsFinished_spares (l : List Job) (st : BitVec 8) : Spares s (jobsFinished l st s) :=
  .forEach l _ (fun (j : Job) u => finishJob_spares u j.tag st) s

theorem mem_jobsFinished {st : BitVec 8} {j : Job} (l : List Job) (h : j ∈ (jobsFinished l st s).sluice.jobs) :
    j ∈ s.sluice.jobs ∧ j ∉ l := by
  induction l generalizing s with
  | nil => exact ⟨h, List.not_mem_nil⟩
  | cons i l ih =>
    obtain ⟨hmem, hl⟩ := ih (finishJob i.tag st s) h
    obtain ⟨hs, htag⟩ := mem_finishJob s hmem
    refine ⟨hs, fun hc => ?_⟩
    obtain rfl | hc := List.mem_cons.mp hc
    · exact htag rfl
    · exact hl hc

/-! ## Tiles wiped (R276) -/

theorem tileOf_blankTile (x y : Nat) : tileOf (blankTile x s) y = if y = x then { gated := (tileOf s x).gated } else tileOf s y :=
  tileOf_tmod s x y _

theorem wipeTiles_tile (ts : List Nat) (x : Nat) :
    tileOf (wipeTiles ts s) x = if x ∈ ts then { gated := (tileOf s x).gated } else tileOf s x := by
  induction ts generalizing s with
  | nil => rfl
  | cons y ts ih =>
    have hstep : wipeTiles (y :: ts) s = wipeTiles ts (wipe (tileBase y) tileBytes (blankTile y s)) := rfl
    rw [hstep, ih, tileOf_wipe, tileOf_blankTile]
    by_cases hxy : x = y
    · subst hxy
      simp
    · simp [hxy]

theorem wipeTiles_byte (ts : List Nat) (a : Nat) (h : memByte s.mem a = 0 ∨ ∃ x ∈ ts, tileBase x ≤ a ∧ a < tileBase x + tileBytes) :
    memByte (wipeTiles ts s).mem a = 0 := by
  induction ts generalizing s with
  | nil => exact h.elim id fun ⟨_, hx, _⟩ => absurd hx List.not_mem_nil
  | cons y ts ih =>
    refine ih (wipe (tileBase y) tileBytes (blankTile y s)) ?_
    have hbyte : memByte (wipe (tileBase y) tileBytes (blankTile y s)).mem a =
        if tileBase y ≤ a ∧ a < tileBase y + tileBytes then 0 else memByte s.mem a := memByte_wipe ..
    rw [hbyte]
    obtain h | ⟨x, hx, hin⟩ := h
    · refine .inl ?_
      split
      · rfl
      · exact h
    · obtain rfl | hx := List.mem_cons.mp hx
      · exact .inl (if_pos hin)
      · exact .inr ⟨x, hx, hin⟩

/-- A step after which every byte that was 0 is 0, and every tile stands. -/
structure Clears (s t : State) : Prop where
  byte : ∀ a, memByte s.mem a = 0 → memByte t.mem a = 0
  tiles : t.tiles = s.tiles
  jobs : t.sluice = s.sluice
  sessions : t.sessions = s.sessions
  parts : t.parts = s.parts
  counters : t.counters = s.counters

theorem Clears.refl (s : State) : Clears s s := ⟨fun _ h => h, rfl, rfl, rfl, rfl, rfl⟩

theorem Clears.trans {s t u : State} (h : Clears s t) (k : Clears t u) : Clears s u :=
  ⟨fun a ha => k.byte a (h.byte a ha), k.tiles.trans h.tiles, k.jobs.trans h.jobs, k.sessions.trans h.sessions, k.parts.trans h.parts,
    k.counters.trans h.counters⟩

theorem Clears.forEach {α : Type} (l : List α) (f : α → State → State) (h : ∀ a u, Clears u (f a u)) (s : State) :
    Clears s (forEach l f s) := forEach_rel Clears .refl (fun _ _ _ h k => h.trans k) f l (fun a _ u => h a u) s

theorem wipe_clears (a n : Nat) : Clears s (wipe a n s) := by
  refine ⟨fun b hb => ?_, rfl, rfl, rfl, rfl, rfl⟩
  rw [wipe, memByte_wipe]
  split
  · rfl
  · exact hb

/-- The bytes of a cluster's SRAM that its wipe leaves. -/
def clusterKeeps (k : Nat) (s : State) (a : Nat) : Bool :=
  decide (a < clusterBase k) || decide (clusterBase k + reserveOff ≤ a) ||
    (keptRanges s k).any (fun r => decide (clusterBase k + r.1 ≤ a) && decide (a < clusterBase k + r.1 + r.2))

theorem wipeCluster_eq (k : Nat) : wipeCluster k s = { s with mem := s.mem.filter (fun c => clusterKeeps k s c.1) } := rfl

theorem wipeCluster_clears (k : Nat) : Clears s (wipeCluster k s) := by
  refine ⟨fun a ha => ?_, rfl, rfl, rfl, rfl, rfl⟩
  rw [wipeCluster_eq, memByte, tblGet_filter]
  split
  · exact ha
  · rfl

theorem wipeReserve_clears (ts : List Nat) : Clears s (wipeReserve ts s) :=
  .trans (.forEach _ _ (fun _ u => wipe_clears u _ _) s) ⟨fun _ h => h, rfl, rfl, rfl, rfl, rfl⟩

theorem cmod_clears (k : Nat) (f : Cluster → Cluster) : Clears s (cmod k f s) := ⟨fun _ h => h, rfl, rfl, rfl, rfl, rfl⟩

/-- A partition's tiles wiped: each blank but for its gate, their memory 0. -/
theorem wipePart_wipes (ts : List Nat) : Clears (wipeTiles ts s) (wipePart ts s) :=
  .trans (wipeReserve_clears _ ts) (.forEach _ _ (fun k u => .trans (cmod_clears u k _) (wipeCluster_clears _ k)) _)

theorem wipeTiles_sluice (ts : List Nat) :
    (wipeTiles ts s).sluice = s.sluice :=
  forEach_keeps State.sluice (fun t s => wipe (tileBase t) tileBytes (blankTile t s)) ts (fun _ _ _ => rfl) s

theorem wipeTiles_sessions (ts : List Nat) : (wipeTiles ts s).sessions = s.sessions :=
  forEach_keeps State.sessions (fun t s => wipe (tileBase t) tileBytes (blankTile t s)) ts (fun _ _ _ => rfl) s

/-! ## The commands (R261, R275) -/

theorem partControl_passes (k : Nat) (p : Fin 64) (c : BitVec 8) (r : Nat) (h : HostMay k r s)
    (hc : (c = 1 ∨ c = 2) ∧ r = 1 ∨ c = 3 ∧ r = 6) : WritePasses s k (0x2100 + p.val) 3 [c] := by
  have hfam : ∀ p : Fin 64, famBase (0x2100 + p.val) = (0x2100, p.val) := by decide
  refine control_passes s k _ _ r c h (by revert p; decide) ?_ ?_ ?_ ?_
  · obtain ⟨rfl | rfl, rfl⟩ | ⟨rfl, rfl⟩ := hc <;> simp [writeRight, hfam p] <;> split_ifs <;> omega
  · simp [notOwner, hfam p]
  · simp [reservedOk, valueMask, zeroFields, recordHeader, hfam p, sel, tblGet]
  · simp [rangeOk, rangeLow, hfam p, sel, tblGet]

theorem writeEffect_partControl (u : State) (k : Nat) (p : Fin 64) (c : BitVec 8) :
    writeEffect k (0x2100 + p.val) 3 [c] u = partControl p.val c.toNat u := by
  have hfam : ∀ p : Fin 64, famBase (0x2100 + p.val) = (0x2100, p.val) := by decide
  unfold writeEffect
  simp only [hfam p]
  rfl

theorem partControl_code (u : State) (p c : Nat) (hc : 1 ≤ c ∧ c ≤ 3) (h : (partOf u p).state ≠ .resetting) :
    partControl p c u = .done [] (if c = 1 then partStart p u else if c = 2 then partStop p u else partReset p u) := by
  unfold partControl
  rw [if_neg (by omega), if_neg h]
  obtain rfl | rfl | rfl : c = 1 ∨ c = 2 ∨ c = 3 := by omega
  · rfl
  · rfl
  · rfl

theorem partitionControl_did (k p : Fin 64) (c : BitVec 8) (f : State → State) (h : HostMay k.val 1 s) (hc : c = 1 ∨ c = 2)
    (hst : (partOf s p.val).state ≠ .resetting) (hf : KeepsBooks f s)
    (he : (if c = 1 then partStart p.val (taken k.val s) else partStop p.val (taken k.val s)) = f (taken k.val s)) :
    Did k.val { data := [] } (f s) s (hostWrite k.val (0x2100 + p.val) 3 [c] s) := by
  refine hostWrite_effect s k.val _ 3 [c] [] f h.1 (partControl_passes s k.val p c 1 h (.inl ⟨hc, rfl⟩)) hf ?_
  rw [writeEffect_partControl,
    partControl_code _ p.val c.toNat (by obtain rfl | rfl := hc <;> decide) (by rw [partOf_taken]; exact hst), ← he]
  obtain rfl | rfl := hc <;> rfl

/-! ## The reset (R275, R276) -/

/-- What a reset of a partition is before its tiles are wiped: its jobs cancelled, the streams on its tiles lost. -/
def partCancelled (p : Nat) (s : State) : State :=
  loseStreamsOn (partTiles s p) stCancelled
    (jobsFinished (s.sluice.jobs.filter (fun j => namesPart s p j && !(hasCommitted j))) stCancelled s)

theorem partReset_eq (p : Nat) : partReset p s =
    pmod p (fun x => { x with state := .resetting }) (wipePart (partTiles s p) (partCancelled p s)) := rfl

theorem loseStream_upset (n : Nat) (st : BitVec 8) : ∃ v, v = { s with streams := v.streams } ∧ Upset v (loseStream n st s) := by
  unfold loseStream
  extract_lets r s₁ s₂
  exact ⟨s₂, rfl, jobsFinished_upset s₂ _ st⟩

/-- Losing streams takes jobs, and leaves the gates and the sessions. -/
theorem loseStreamsOn_spares (ts : List Nat) (st : BitVec 8) : Spares s (loseStreamsOn ts st s) :=
  .forEach _ _ (fun n u => loseStream_spares u n st) s

theorem loseStreamsOn_jobs (ts : List Nat) (st : BitVec 8) : (loseStreamsOn ts st s).sluice.jobs.Sublist s.sluice.jobs :=
  forEach_rel (fun u v => v.sluice.jobs.Sublist u.sluice.jobs) (fun _ => .refl _) (fun _ _ _ h k => k.trans h) _ _ (fun n _ u => by
    obtain ⟨v, hv, h⟩ := loseStream_upset u n st
    have := h.jobs
    rw [hv] at this
    exact this) s

theorem loseStreamsOn_sess (ts : List Nat) (st : BitVec 8) (k : Nat) : NotifiedOnly (sess s k) (sess (loseStreamsOn ts st s) k) :=
  forEach_rel (fun u v => NotifiedOnly (sess u k) (sess v k)) (fun _ => rfl) (fun _ _ _ h k => NotifiedOnly_trans h k) _ _ (fun n _ u => by
    obtain ⟨v, hv, h⟩ := loseStream_upset u n st
    have := h.sess k
    rw [hv] at this
    exact this) s

theorem partCancelled_cancels (p : Nat) : Spares s (partCancelled p s) ∧
    (∀ j ∈ (partCancelled p s).sluice.jobs, namesPart s p j = true → hasCommitted j = true) ∧
    ∀ k, NotifiedOnly (sess s k) (sess (partCancelled p s) k) := by
  have hjobs := fun j => mem_jobsFinished s (st := stCancelled) (j := j) (s.sluice.jobs.filter (fun j => namesPart s p j && !(hasCommitted j)))
  have hspares := jobsFinished_spares s (s.sluice.jobs.filter (fun j => namesPart s p j && !(hasCommitted j))) stCancelled
  have hupset := jobsFinished_upset s (s.sluice.jobs.filter (fun j => namesPart s p j && !(hasCommitted j))) stCancelled
  unfold partCancelled
  generalize jobsFinished (s.sluice.jobs.filter (fun j => namesPart s p j && !(hasCommitted j))) stCancelled s = u at hjobs hspares hupset ⊢
  refine ⟨hspares.trans (loseStreamsOn_spares ..), fun j hj hp => ?_, fun k => NotifiedOnly_trans (hupset.sess k) (loseStreamsOn_sess ..)⟩
  obtain ⟨hmem, hnot⟩ := hjobs j ((loseStreamsOn_jobs ..).subset hj)
  by_contra hc
  exact hnot (List.mem_filter.mpr ⟨hmem, by simp [hp, hc]⟩)

theorem partReset_resets (p : Nat) :
    (partOf (partReset p s) p).state = .resetting ∧
      (∀ j ∈ (partReset p s).sluice.jobs, namesPart s p j = true → hasCommitted j = true) ∧
      (∀ x ∈ partTiles s p, tileOf (partReset p s) x = { gated := (tileOf s x).gated } ∧
        ∀ a, tileBase x ≤ a → a < tileBase x + tileBytes → memByte (partReset p s).mem a = 0) ∧
      ∀ k, NotifiedOnly (sess s k) (sess (partReset p s) k) := by
  obtain ⟨hspares, hjobs, hsess⟩ := partCancelled_cancels s p
  rw [partReset_eq]
  generalize partCancelled p s = u at hspares hjobs hsess ⊢
  have hclears := wipePart_wipes u (partTiles s p)
  refine ⟨congrArg Partition.state (partOf_pmod_same ..), fun j hj => ?_, fun x hx => ⟨?_, fun a h₁ h₂ => ?_⟩, fun k => ?_⟩
  · have hsame : (wipePart (partTiles s p) u).sluice = u.sluice := hclears.jobs.trans (wipeTiles_sluice ..)
    exact hjobs j (hsame ▸ hj)
  · rw [tileOf_pmod, tileOf, hclears.tiles, ← tileOf, wipeTiles_tile, if_pos hx, hspares.gated]
  · exact hclears.byte a (wipeTiles_byte u _ a (.inr ⟨x, hx, h₁, h₂⟩))
  · have hsame : sess (wipePart (partTiles s p) u) k = sess u k := by
      rw [sess, hclears.sessions, wipeTiles_sessions, sess]
    exact hsame ▸ hsess k

theorem partitionReset_resets (k p : Fin 64) (hst : (partOf s p.val).state ≠ .resetting) (h : HostMay k.val 6 s) :
    ∃ t, exec (.partitionReset k p) s = .next t ∧ (sess t k.val).busy = false ∧ (sess t k.val).reply = {} ∧
      (partOf t p.val).state = .resetting ∧ (∀ j ∈ t.sluice.jobs, namesPart s p.val j = true → hasCommitted j = true) ∧
      ∀ x ∈ partTiles s p.val, tileOf t x = { gated := (tileOf s x).gated } ∧
        ∀ a, tileBase x ≤ a → a < tileBase x + tileBytes → memByte t.mem a = 0 := by
  have he : writeEffect k.val (0x2100 + p.val) 3 [3] (taken k.val s) = .done [] (partReset p.val (taken k.val s)) := by
    rw [writeEffect_partControl, partControl_code _ p.val _ (by decide) (by rw [partOf_taken]; exact hst)]
    rfl
  obtain ⟨hpart, hjobs, htiles, hsess⟩ := partReset_resets (taken k.val s) p.val
  have hans := hostWrite_answer s k.val _ 3 [3] [] _ h.1 (partControl_passes s k.val p 3 6 h (.inr ⟨rfl, rfl⟩)) he (hsess k.val)
  have hnames : ∀ j, namesPart (taken k.val s) p.val j = namesPart s p.val j := fun j => by rw [taken_eq]; rfl
  have htile : ∀ x, tileOf (taken k.val s) x = tileOf s x := fun x => by rw [taken_eq]; rfl
  have hts : partTiles (taken k.val s) p.val = partTiles s p.val := by rw [taken_eq]; rfl
  rw [hts] at htiles
  generalize partReset p.val (taken k.val s) = u at hpart hjobs htiles hans
  refine ⟨_, rfl, ?_⟩
  rw [hans]
  refine ⟨by rw [sess_answer, if_pos rfl], by rw [sess_answer, if_pos rfl], ?_, fun j hj hn => ?_, fun x hx => ⟨?_,
    fun a h₁ h₂ => ?_⟩⟩
  · rw [answer_eq]
    exact hpart
  · rw [answer_sluice] at hj
    exact hjobs j hj ((hnames j).trans hn)
  · rw [answer_eq]
    exact (htiles x hx).1.trans (by rw [htile])
  · rw [answer_eq]
    exact (htiles x hx).2 a h₁ h₂

theorem partStop_running (k p : Nat) (h : (partOf s p).state = .running) : partStop p (taken k s) =
    pmod p (fun x => { x with state := if partJobs s p = [] then .stopped else .draining }) (taken k s) := by
  have hjobs : partJobs (taken k s) p = partJobs s p := by rw [taken_eq]; rfl
  unfold partStop
  rw [partOf_taken, if_pos h, hjobs]

theorem partStart_taken (k p : Nat) : partStart p (taken k s) =
    pmod p (fun x => { x with state := .running, first := (shapeTiles (partShape s p) (partBase s p)).1
                              tiles := (shapeTiles (partShape s p) (partBase s p)).2 }) (taken k s) := by
  have hcfg : ∀ i j, cfg (taken k s) i j = cfg s i j := fun i j => by rw [taken_eq]; rfl
  simp only [partStart, partShape, partBase, hcfg]

end

/-- Settles O44: START and STOP are writes whose effect is the partition's new state; the reset is followed through the jobs that it
cancels, the streams that it loses and the tiles that it wipes. -/
theorem partitionCommands : Obligations.PartitionCommands := by
  intro s k p hst
  refine ⟨fun h => ⟨_, rfl, ?_⟩, fun h hrun => ⟨_, rfl, ?_⟩, partitionReset_resets s k p hst⟩
  · exact partitionControl_did s k p 1 _ h (.inl rfl) hst (fun _ _ _ => rfl) (partStart_taken s k.val p.val)
  · exact partitionControl_did s k p 2 _ h (.inr rfl) hst (fun _ _ _ => rfl) (partStop_running s k.val p.val hrun)

end Sys2Proof.Machine

end

section
/-!
PROOF. What a tier fault can change (R246-R248), and the loss of a fabric port (R383).
-/

namespace Sys2Proof.Machine

open Claims

/-- What the end of jobs, an entry to safe state and a change of path can change: as `Upset`, but that jobs may change too. -/
structure Shaken (s t : State) : Prop where
  eq : t = { s with
    out := t.out, fabric := t.fabric, channels := t.channels, counters := t.counters, events := t.events, eventsAt := t.eventsAt
    eventsNew := t.eventsNew, sessions := t.sessions, queues := t.queues, parts := t.parts
    sluice := { s.sluice with jobs := t.sluice.jobs, dying := t.sluice.dying, nextDying := t.sluice.nextDying }
    raised := t.raised, tiles := t.tiles, clusters := t.clusters, reserve := t.reserve
    streams := { s.streams with export_ := t.streams.export_ }
    pages := { s.pages with entries := t.pages.entries, ended := t.pages.ended }
    dir := { s.dir with tensors := t.dir.tensors, old := t.dir.old, poison := t.dir.poison }, mem := t.mem
    power := { s.power with prearm := t.power.prearm, overJobs := t.power.overJobs }
    pump := { s.pump with safe := t.pump.safe, axes := t.pump.axes }, t1 := t.t1
    island := { s.island with
      state := t.island.state, causes := t.island.causes, first := t.island.first, detail := t.island.detail, entry := t.island.entry
      entryAt := t.island.entryAt, frameAt := t.island.frameAt, seq := t.island.seq }
    pins := { s.pins with safeN := t.pins.safeN, faultN := t.pins.faultN } }
  sess : ∀ k, NotifiedOnly (sess s k) (sess t k)

namespace Shaken

variable {s t u : State}

theorem refl (s : State) : Shaken s s := ⟨rfl, fun _ => rfl⟩

theorem trans (h : Shaken s t) (k : Shaken t u) : Shaken s u where
  eq := by rw [k.eq, h.eq]
  sess n := NotifiedOnly_trans (h.sess n) (k.sess n)

theorem forEach {α : Type} (l : List α) (f : α → State → State) (h : ∀ a u, Shaken u (f a u)) (s : State) :
    Shaken s (forEach l f s) := forEach_rel Shaken refl (fun _ _ _ h k => h.trans k) f l (fun a _ u => h a u) s

theorem ite {c : Prop} [Decidable c] (h : Shaken s t) (k : Shaken s u) : Shaken s (if c then t else u) := by
  split
  · exact h
  · exact k

theorem of_upset (h : Upset s t) : Shaken s t := ⟨h.eq, h.sess⟩

theorem of_releases (h : Releases s t) : Shaken s t := .of_upset (.of_ending (.of_releases h))

theorem of_notices (h : Notices s t) : Shaken s t := .of_upset (.of_notices h)

end Shaken

section

variable (s : State)

theorem jmod_shaken (g : BitVec 32) (f : Job → Job) : Shaken s (jmod g f s) := ⟨rfl, fun _ => rfl⟩

theorem tmod_shaken (x : Nat) (f : Tile → Tile) : Shaken s (tmod x f s) := ⟨rfl, fun _ => rfl⟩

theorem fabmod_shaken (p : Nat) (f : FabricPort → FabricPort) : Shaken s (fabmod p f s) := ⟨rfl, fun _ => rfl⟩

theorem count_shaken (i j n : Nat) : Shaken s (count i j n s) := ⟨rfl, fun _ => rfl⟩

theorem setEvent_shaken (n : Nat) : Shaken s (setEvent n s) := ⟨rfl, fun _ => rfl⟩

theorem promoteReq_shaken (p : Nat) (r : RoceReq) : Shaken s (promoteReq p r s) := by
  unfold promoteReq
  split
  · exact .refl s
  · exact (fabmod_shaken s p _).trans (.of_releases (sendPackets_releases ..))

theorem promoteReqs_shaken (p : Nat) : Shaken s (promoteReqs p s) := .forEach _ _ (fun r u => promoteReq_shaken u p r) s

theorem dropReqs_shaken (which : RoceReq → Bool) : Shaken s (dropReqs which s) :=
  .trans (t := { s with fabric := tblMap {} (withoutReqs which) s.fabric }) ⟨rfl, fun _ => rfl⟩
    (.forEach _ _ (fun p u => promoteReqs_shaken u p) _)

theorem movePath_shaken (g : BitVec 32) (k : Nat) : Shaken s (movePath g k s) := by
  unfold movePath
  extract_lets s₁
  have h₁ : Shaken s s₁ := (dropReqs_shaken s (ofCopies g)).trans (jmod_shaken ..)
  split
  · exact h₁
  · refine h₁.trans (.forEach _ _ (fun b u => ?_) s₁)
    split
    · exact .refl u
    · refine .forEach _ _ (fun x v => ?_) u
      exact .trans (.of_releases (abandonWait_releases v x)) (tmod_shaken ..)

theorem switchPath_shaken (g : BitVec 32) (k : Nat) : Shaken s (switchPath g k s) := by
  unfold switchPath
  exact .trans (.trans (jmod_shaken ..) (count_shaken ..)) (movePath_shaken _ g k)

theorem pathEvent_shaken (g : BitVec 32) (e : Nat) : Shaken s (pathEvent g e s) := by
  unfold pathEvent
  split
  · exact .refl s
  · split
    · exact .refl s
    · extract_lets s₁
      have h₁ : Shaken s s₁ := jmod_shaken ..
      split
      · exact h₁.trans (.of_upset (finishJob_upset ..))
      · exact h₁.trans (.ite (switchPath_shaken ..) (.ite (movePath_shaken ..) (.refl _)))

theorem damageTensor_shaken (i : Nat) : Shaken s (damageTensor i s) :=
  .ite (.trans (t := tensorMod i (fun t => { t with state := .damaged }) s) ⟨rfl, fun _ => rfl⟩ (.of_notices (notifySubs_notices _ _ _)))
    (.refl s)

theorem tierFaultAt_shaken (g : BitVec 32) (e : Nat) (kind : TierFaultKind) : Shaken s (tierFaultAt g e kind s) := by
  unfold tierFaultAt
  split
  · exact .refl s
  · extract_lets s₁ s₂ damages s₃
    have h₁ : Shaken s s₁ := (count_shaken ..).trans (setEvent_shaken ..)
    have h₂ : Shaken s₁ s₂ := by
      simp only [s₂]
      split
      case h_3 => exact .refl s₁
      all_goals exact count_shaken ..
    have h₃ : Shaken s₂ s₃ := by
      simp only [s₃]
      split
      · exact .ite (damageTensor_shaken ..) (.refl _)
      · exact .refl _
    exact h₁.trans (h₂.trans (h₃.trans (pathEvent_shaken ..)))

/-! ## A fabric port lost (R383) -/

/-- A port's state set, its peers and what cannot outlive it dropped. -/
def cutPort (st : BitVec 8) (f : FabricPort) : FabricPort :=
  { f with state := st, peersUp := [], reqs := f.reqs.filter outlivesPort, paused := 0, held := [], rx := 0, xoff := false }

def portCut (p : Nat) (st : BitVec 8) (s : State) : State := fabmod p (cutPort st) s

/-- The copies in flight among `hit` fault. -/
def faultCopies (hit : List (BitVec 32 × Nat)) (s : State) : State :=
  forEach hit (fun c s => match jobOf s c.1 with
    | some j => if inFlight j c.2 then tierFaultAt c.1 c.2 .aquiferPort s else s
    | none => s) s

theorem fabricOut_eq (p : Nat) (st : BitVec 8) : fabricOut p st s =
    if st = 5 then callReplan (chargesPort p) (faultCopies (copiesThrough s p) (portCut p st s))
    else faultCopies (copiesThrough s p) (portCut p st s) := rfl

theorem portCut_lost (p : Nat) (st : BitVec 8) : LostPort p st (portCut p st s) := by
  have hfab : fabOf (portCut p st s) p = cutPort st (fabOf s p) := fabOf_fabmod_same s p _
  refine ⟨by rw [hfab]; rfl, by rw [hfab]; rfl, fun r hr => ?_, fun hd => ?_⟩
  · rw [hfab] at hr
    exact (List.mem_filter.mp hr).2
  · exact tblMod_default ({} : FabricPort) s.fabric p (cutPort st) (hfab.symm.trans hd)

theorem faultCopies_shaken (hit : List (BitVec 32 × Nat)) : Shaken s (faultCopies hit s) ∧ Spares s (faultCopies hit s) := by
  constructor
  · refine .forEach _ _ (fun c u => ?_) s
    split
    · exact .ite (tierFaultAt_shaken ..) (.refl u)
    · exact .refl u
  · refine .forEach _ _ (fun c u => ?_) s
    split
    · exact .ite (tierFaultAt_spares ..) (.refl u)
    · exact .refl u

/-- A lost port keeps no peer, no request but those that outlive it; beside, copies fault. -/
theorem fabricOut_lost (p : Nat) (st : BitVec 8) : LostPort p st (fabricOut p st s) ∧ Shaken s (fabricOut p st s) := by
  obtain ⟨hshaken, hspares⟩ := faultCopies_shaken (portCut p st s) (copiesThrough s p)
  have hlost := hspares.port p st (portCut_lost s p st)
  have hcut : Shaken s (portCut p st s) := fabmod_shaken ..
  rw [fabricOut_eq]
  generalize faultCopies (copiesThrough s p) (portCut p st s) = u at hshaken hlost
  split
  · exact ⟨hlost.of_fabric rfl, hcut.trans (hshaken.trans ⟨rfl, fun _ => rfl⟩)⟩
  · exact ⟨hlost, hcut.trans hshaken⟩

end

end Sys2Proof.Machine

end

section
/-!
PROOF. Function resets: what each stops and wipes, the refusal of a second one, and their end (R274-R276).
-/

namespace Sys2Proof.Machine

open Claims

section

variable (s : State)

/-! ## A reset written to 0x2010:01 -/

theorem functionReset_passes (k : Nat) (kind inst : BitVec 8) (h : HostMay k 6 s) :
    WritePasses s k 0x2010 1 (resetCode kind inst) := by
  have hfam : famBase 0x2010 = (0x2010, 0) := by decide
  refine ⟨.u16, .wo, 0, by decide, by decide, ?_, ?_, by simp [typeOk, otyLen, resetCode], ?_, nofun, fun _ => ?_⟩
  · have hr : writeRight k 0x2010 1 (resetCode kind inst) = 6 := by simp [writeRight, hfam]
    rw [hr]
    exact h.2
  · simp [notOwner, hfam]
  · simp [reservedOk, valueMask, zeroFields, recordHeader, hfam, sel, tblGet]
  · simp [rangeOk, rangeLow, hfam, sel, tblGet]

theorem writeEffect_functionReset (u : State) (k : Nat) (kind inst : BitVec 8) :
    writeEffect k 0x2010 1 (resetCode kind inst) u = functionReset k (inst.toNat + 256 * kind.toNat) u := by
  have hfam : famBase 0x2010 = (0x2010, 0) := by decide
  have hv : leNat (resetCode kind inst) = inst.toNat + 256 * kind.toNat := by simp [resetCode, leNat]
  unfold writeEffect
  simp only [hfam, hv]
  show functionReset k (leNat (resetCode kind inst)) u = _
  rw [hv]

/-- The state with the bit of a reset set. -/
def resetBegun (b : Nat) (s : State) : State := { s with resetting := s.resetting ||| BitVec.ofNat 32 (2 ^ b) }

theorem t1Of_resetBegun (b x : Nat) : t1Of (resetBegun b s) x = t1Of s x := rfl

theorem sess_resetBegun (b j : Nat) : sess (resetBegun b s) j = sess s j := rfl

theorem counter_resetBegun (b i j : Nat) : counter (resetBegun b s) i j = counter s i j := rfl

theorem resetting_resetBegun (b : Nat) : (resetBegun b s).resetting = s.resetting ||| BitVec.ofNat 32 (2 ^ b) := rfl

theorem functionReset_begins (k code b : Nat) (hb : resetBit code = some b) (hbit : s.resetting.getLsbD b = false)
    (hport : ¬ (code / 256 = 6 ∧ (sess s k).port.val = code % 256)) :
    functionReset k code s = .done [] (resetEffect code (resetBegun b s)) := by
  unfold functionReset
  simp only [hb]
  rw [if_neg (by rw [hbit]; nofun), if_neg hport]
  rfl

theorem functionReset_twice (k code b : Nat) (hb : resetBit code = some b) (hbit : s.resetting.getLsbD b = true) :
    functionReset k code s = .abort abConflict := by
  unfold functionReset
  simp only [hb]
  rw [if_pos hbit]

/-- A second reset of a function while one lasts is refused (R274). -/
theorem functionReset_refused (k : Nat) (kind inst : BitVec 8) (b : Nat) (h : HostMay k 6 s)
    (hb : resetBit (inst.toNat + 256 * kind.toNat) = some b) (hbit : s.resetting.getLsbD b = true) :
    RefusedWith k abConflict s (hostWrite k 0x2010 1 (resetCode kind inst) s) := by
  refine hostWrite_refused s k 0x2010 1 _ abConflict h.1 (functionReset_passes s k kind inst h) (by decide) ?_
  rw [writeEffect_functionReset]
  exact functionReset_twice _ k _ b hb (by rw [resetting_taken]; exact hbit)

/-- A reset whose effect takes no session along. -/
theorem functionReset_did (k : Nat) (kind inst : BitVec 8) (b : Nat) (f : State → State) (h : HostMay k 6 s)
    (hb : resetBit (inst.toNat + 256 * kind.toNat) = some b) (hbit : s.resetting.getLsbD b = false) (hkind : kind ≠ 6) (hf : Fair f)
    (he : ∀ u, resetEffect (inst.toNat + 256 * kind.toNat) (resetBegun b u) = f u) :
    Did k { data := [] } (f s) s (hostWrite k 0x2010 1 (resetCode kind inst) s) := by
  refine hostWrite_fair s k 0x2010 1 _ [] f h.1 (functionReset_passes s k kind inst h) hf ?_
  rw [writeEffect_functionReset, functionReset_begins _ k _ b hb (by rw [resetting_taken]; exact hbit), he]
  rintro ⟨hc, -⟩
  have hi := inst.isLt
  have hk : kind.toNat = 6 := by omega
  exact hkind (BitVec.eq_of_toNat_eq hk)

theorem partitionReset_refused (k p : Fin 64) (h : HostMay k.val 6 s) (hst : (partOf s p.val).state = .resetting) :
    RefusedWith k.val abConflict s (hostWrite k.val (0x2100 + p.val) 3 [3] s) := by
  refine hostWrite_refused s k.val _ 3 [3] abConflict h.1 (partControl_passes s k.val p 3 6 h (.inr ⟨rfl, rfl⟩)) (by decide) ?_
  rw [writeEffect_partControl]
  unfold partControl
  rw [if_neg (by decide), partOf_taken, if_pos hst]

/-! ## The Selector (R276) -/

theorem stopChannel_frame (ch : Nat) : stopChannel ch s = { s with selector := (stopChannel ch s).selector } := by
  unfold stopChannel
  split <;> rfl

/-- A channel stopped (R212). -/
def stoppedChan (c : SelChannel) : SelChannel :=
  if c.state = .stopped then c else { state := .stopped, round := c.round, output := c.output }

theorem stoppedChan_facts (c : SelChannel) : (stoppedChan c).state = .stopped ∧
    (stoppedChan c).kept = (if c.state = .stopped then c.kept else []) ∧ (stoppedChan c).round = c.round ∧
    (stoppedChan c).output = c.output := by
  unfold stoppedChan
  split
  next h => exact ⟨h, rfl, rfl, rfl⟩
  next => exact ⟨rfl, rfl, rfl, rfl⟩

theorem chan_stopChannel (ch c : Nat) : chan (stopChannel ch s) c = if c = ch then stoppedChan (chan s c) else chan s c := by
  unfold stopChannel stoppedChan
  by_cases hc : c = ch
  · subst hc
    rw [if_pos rfl]
    split
    · rfl
    · rw [chan_chanSet, if_pos rfl]
  · rw [if_neg hc]
    split
    · rfl
    · rw [chan_chanSet, if_neg hc]

theorem chan_stopChannels (l : List Nat) (c : Nat) :
    chan (forEach l stopChannel s) c = if c ∈ l then stoppedChan (chan s c) else chan s c := by
  have hidem : ∀ x, stoppedChan (stoppedChan x) = stoppedChan x := fun x => if_pos (stoppedChan_facts x).1
  induction l generalizing s with
  | nil => rfl
  | cons ch l ih =>
    show chan (forEach l stopChannel (stopChannel ch s)) c = _
    rw [ih, chan_stopChannel]
    by_cases hc : c = ch <;> by_cases hl : c ∈ l <;> simp [hc, hl, hidem]

theorem resetSelector_fair : Fair (fun u => resetSelector (resetBegun 2 u)) := by
  have hstop : ∀ ch, Fair (stopChannel ch) := fun ch => .of_keeps fun u ss cs h => by
    have hchan : chan { u with sessions := ss, counters := cs, island := { u.island with hostHeard := h } } ch = chan u ch := rfl
    unfold stopChannel
    rw [hchan]
    split <;> rfl
  exact .comp (g := fun u => { mapStop u with map := { (mapStop u).map with log := [] } })
    (f := fun u => forEach (List.range 16) stopChannel (resetBegun 2 u)) (.of_keeps fun _ _ _ _ => rfl)
    (.comp (g := forEach (List.range 16) stopChannel) (f := resetBegun 2) (.forEach _ hstop) (.of_keeps fun _ _ _ _ => rfl))

theorem resetSelector_stops : ∃ u, resetSelector (resetBegun 2 s) = u ∧
    u = { resetBegun 2 s with map := { s.map with running := false, apply := none, log := [] }, selector := u.selector } ∧
    ∀ c : Fin 16, (chan u c.val).state = .stopped ∧
      (chan u c.val).kept = (if (chan s c.val).state = .stopped then (chan s c.val).kept else []) ∧
      (chan u c.val).round = (chan s c.val).round ∧ (chan u c.val).output = (chan s c.val).output := by
  have hframe : forEach (List.range 16) stopChannel (resetBegun 2 s) =
      { resetBegun 2 s with selector := (forEach (List.range 16) stopChannel (resetBegun 2 s)).selector } :=
    forEach_rel (fun u v => v = { u with selector := v.selector }) (fun _ => rfl) (fun _ _ _ h k => by rw [k, h]) _ _
      (fun ch _ u => stopChannel_frame u ch) _
  have hchan := chan_stopChannels (resetBegun 2 s) (List.range 16)
  have heq : resetSelector (resetBegun 2 s) =
      { mapStop (forEach (List.range 16) stopChannel (resetBegun 2 s)) with
        map := { (mapStop (forEach (List.range 16) stopChannel (resetBegun 2 s))).map with log := [] } } := rfl
  generalize forEach (List.range 16) stopChannel (resetBegun 2 s) = v at hframe hchan heq
  refine ⟨_, heq, ?_, fun c => ?_⟩
  · rw [hframe]
    rfl
  · have hc : chan v c.val = stoppedChan (chan s c.val) := (hchan c.val).trans (if_pos (List.mem_range.mpr c.isLt))
    show (chan v c.val).state = _ ∧ (chan v c.val).kept = _ ∧ (chan v c.val).round = _ ∧ (chan v c.val).output = _
    rw [hc]
    exact stoppedChan_facts (chan s c.val)

/-! ## A fabric port (R276, R383) -/

theorem resetCode_fabric : ∀ p : Fin 3, (BitVec.ofNat 8 p.val).toNat + 256 * (5 : BitVec 8).toNat = 1280 + p.val ∧
    resetBit (1280 + p.val) = some (3 + p.val) ∧ (1280 + p.val) / 256 = 5 ∧ (1280 + p.val) % 256 = p.val := by decide

theorem resetFabricPort_resets (k : Fin 64) (p : Fin 3) (h : HostMay k.val 6 s) (hbit : s.resetting.getLsbD (3 + p.val) = false)
    (hst : (fabOf s p.val).state ≠ 5) :
    ∃ t, exec (.resetFabricPort k (BitVec.ofNat 8 p.val)) s = .next t ∧ t.resetting = (resetBegun (3 + p.val) s).resetting ∧
      (fabOf t p.val).state = (if (fabOf s p.val).running then 1 else 0) ∧ (fabOf t p.val).peersUp = [] ∧
      (∀ r ∈ (fabOf t p.val).reqs, outlivesPort r = true) ∧ (sess t k.val).busy = false := by
  obtain ⟨hcode, hb, hdiv⟩ := resetCode_fabric p
  have hfab : fabOf (resetBegun (3 + p.val) (taken k.val s)) p.val = fabOf s p.val := by
    rw [taken_eq]
    rfl
  have he : writeEffect k.val 0x2010 1 (resetCode 5 (BitVec.ofNat 8 p.val)) (taken k.val s) =
      .done [] (fabricOut p.val (if (fabOf s p.val).running then 1 else 0) (resetBegun (3 + p.val) (taken k.val s))) := by
    rw [writeEffect_functionReset, hcode,
      functionReset_begins _ _ _ _ hb (by rw [resetting_taken]; exact hbit) (by rw [hdiv.1]; rintro ⟨h, -⟩; cases h)]
    unfold resetEffect
    simp only [hdiv]
    rw [resetFabric, hfab, if_neg hst]
  obtain ⟨hlost, hshaken⟩ := fabricOut_lost (resetBegun (3 + p.val) (taken k.val s)) p.val (if (fabOf s p.val).running then 1 else 0)
  have hsess : NotifiedOnly (sess (taken k.val s) k.val)
      (sess (fabricOut p.val (if (fabOf s p.val).running then 1 else 0) (resetBegun (3 + p.val) (taken k.val s))) k.val) := hshaken.sess k.val
  have hans := hostWrite_answer s k.val _ 1 _ [] _ h.1 (functionReset_passes s k.val 5 _ h) he hsess
  have hres : (fabricOut p.val (if (fabOf s p.val).running then 1 else 0) (resetBegun (3 + p.val) (taken k.val s))).resetting =
      (resetBegun (3 + p.val) s).resetting := by
    rw [hshaken.eq, taken_eq]
    rfl
  generalize fabricOut p.val _ _ = u at hlost hans hres
  refine ⟨_, rfl, ?_⟩
  rw [hans]
  refine ⟨by rw [answer_eq, hres], ?_, ?_, fun r hr => ?_, by rw [sess_answer, if_pos rfl]⟩
  · rw [answer_eq]
    exact hlost.state
  · rw [answer_eq]
    exact hlost.peers
  · rw [answer_eq] at hr
    exact hlost.reqs r hr

/-! ## A T1 port (R276, R380) -/

theorem resetCode_t1 : ∀ x : Fin 4, (BitVec.ofNat 8 x.val).toNat + 256 * (6 : BitVec 8).toNat = 1536 + x.val ∧
    resetBit (1536 + x.val) = some (6 + x.val) ∧ (1536 + x.val) / 256 = 6 ∧ (1536 + x.val) % 256 = x.val := by decide

/-- The port reset: its sessions closed, its queues empty. -/
theorem resetT1_resets (x : Nat) :
    t1Of (resetT1 x s) x = { t1Of s x with
      link := if (t1Of s x).running && !(t1Of s x).retired then 1 else 0, launch := [], waiting := [] } ∧
    (∀ j : Fin 64, (sess s j.val).open_ = true → (sess s j.val).port.val = x → sess (resetT1 x s) j.val = { gen := (sess s j.val).gen + 1 }) ∧
    (∀ j : Fin 64, (sess s j.val).port.val ≠ x → NotifiedOnly (sess s j.val) (sess (resetT1 x s) j.val)) ∧
    counter (resetT1 x s) 0x741b 4 = counter s 0x741b 4 + BitVec.ofNat 64 (t1Of s x).launch.length ∧
    (resetT1 x s).resetting = s.resetting := by
  obtain ⟨as, hdown⟩ := slaveDown_frame s x
  have hport := slaveDown_port s x x
  have hcount := slaveDown_counter s x
  have hsess := slaveDown_sess s x
  have hres : (slaveDown x s).resetting = s.resetting := by rw [hdown]
  unfold resetT1
  generalize slaveDown x s = u at hport hcount hsess hres ⊢
  have hframe := closeAll_frame (portSessions u x) u
  have hclosed := fun j => sess_closeAll (portSessions u x) j u
  rw [show closePortSessions x u = forEach (portSessions u x) closeSession u from rfl]
  generalize hl : portSessions u x = l at hframe hclosed ⊢
  generalize forEach l closeSession u = v at hframe hclosed ⊢
  have hvport : t1Of v x = t1Of s x := by
    rw [hframe]
    exact hport
  have hdrop := dropLaunches_frame v x
  have hdport := dropLaunches_port v x x
  have hdcount := dropLaunches_counters v x
  generalize dropLaunches x v = w at hdrop hdport hdcount ⊢
  have hw : ∀ j, sess w j = sess v j := fun j => by
    rw [hdrop]
    rfl
  refine ⟨?_, fun j ho hj => ?_, fun j hj => ?_, ?_, ?_⟩
  · rw [t1Of_t1mod, if_pos rfl, hdport, if_pos rfl, hvport]
  · show sess w j.val = _
    have hmem : j.val ∈ l := by
      rw [← hl, mem_portSessions, hsess]
      exact ⟨ho, hj⟩
    rw [hw, hclosed, if_pos ⟨hmem, by rw [hsess]; exact ho⟩, hsess]
  · show NotifiedOnly _ (sess w j.val)
    have hmem : j.val ∉ l := by
      rw [← hl, mem_portSessions, hsess]
      exact fun hc => hj hc.2
    rw [hw, hclosed, if_neg fun hc => hmem hc.1]
    exact hsess j.val
  · show counter w 0x741b 4 = _
    have hv : counter v 0x741b 4 = counter u 0x741b 4 := by
      rw [hframe]
      rfl
    rw [counter, hdcount]
    refine (counter_count v 0x741b 4 _ 0x741b 4).trans ?_
    rw [if_pos rfl, hv, hcount, hvport]
  · show w.resetting = _
    rw [hdrop, hframe]
    exact hres

theorem resetT1Port_resets (k : Fin 64) (x : Fin 4) (h : HostMay k.val 6 s) (hbit : s.resetting.getLsbD (6 + x.val) = false)
    (hp : (sess s k.val).port ≠ x) :
    ∃ t, exec (.resetT1Port k (BitVec.ofNat 8 x.val)) s = .next t ∧ t.resetting = (resetBegun (6 + x.val) s).resetting ∧
      (∀ j : Fin 64, (sess s j.val).open_ = true → (sess s j.val).port = x → sess t j.val = { gen := (sess s j.val).gen + 1 }) ∧
      (t1Of t x.val).launch = [] ∧ (t1Of t x.val).waiting = [] ∧
      (t1Of t x.val).link = (if (t1Of s x.val).running && !(t1Of s x.val).retired then 1 else 0) ∧
      counter t 0x741b 4 = counter s 0x741b 4 + BitVec.ofNat 64 (t1Of s x.val).launch.length := by
  obtain ⟨hcode, hb, hdiv⟩ := resetCode_t1 x
  have hpn : (sess s k.val).port.val ≠ x.val := fun hc => hp (Fin.ext hc)
  have hsame := sess_resetBegun (taken k.val s) (6 + x.val)
  have he : writeEffect k.val 0x2010 1 (resetCode 6 (BitVec.ofNat 8 x.val)) (taken k.val s) =
      .done [] (resetT1 x.val (resetBegun (6 + x.val) (taken k.val s))) := by
    rw [writeEffect_functionReset, hcode, functionReset_begins _ _ _ _ hb (by rw [resetting_taken]; exact hbit)
      (by rw [hdiv.2, sess_taken]; exact fun hc => hpn hc.2)]
    unfold resetEffect
    simp only [hdiv]
  have hres' : (resetBegun (6 + x.val) (taken k.val s)).resetting = (resetBegun (6 + x.val) s).resetting := by
    rw [resetting_resetBegun, resetting_taken, resetting_resetBegun]
  have hport₀ : t1Of (resetBegun (6 + x.val) (taken k.val s)) x.val = t1Of s x.val := by
    rw [t1Of_resetBegun, t1Of_taken]
  have hcount₀ : counter (resetBegun (6 + x.val) (taken k.val s)) 0x741b 4 = counter s 0x741b 4 := by
    rw [counter_resetBegun, taken_counter s k.val _ _ (by decide)]
  have hpass := functionReset_passes s k.val 6 (BitVec.ofNat 8 x.val) h
  have hexec : exec (.resetT1Port k (BitVec.ofNat 8 x.val)) s =
      .next (hostWrite k.val 0x2010 1 (resetCode 6 (BitVec.ofNat 8 x.val)) s) := rfl
  generalize resetBegun (6 + x.val) (taken k.val s) = u₀ at hsame he hres' hport₀ hcount₀
  generalize resetCode 6 (BitVec.ofNat 8 x.val) = d at he hpass hexec
  obtain ⟨hport, hsess, hother, hcount, hres⟩ := resetT1_resets u₀ x.val
  have hown := hother k (by rw [hsame, sess_taken]; exact hpn)
  rw [hsame] at hown
  rw [hostWrite_answer s k.val _ 1 _ [] _ h.1 hpass he hown] at hexec
  rw [hport₀] at hport hcount
  rw [hcount₀] at hcount
  rw [hres'] at hres
  generalize resetT1 x.val u₀ = u at hport hsess hown hcount hres hexec
  have hx : t1Of (answer k.val { data := [] } u) x.val = t1Of u x.val := answer_port_other u k.val _ x.val (by
    rw [hown, sess_taken]
    exact fun hc => hpn hc.symm)
  refine ⟨_, hexec, by rw [answer_eq, hres], fun j ho hj => ?_, by rw [hx, hport], by rw [hx, hport], by rw [hx, hport], ?_⟩
  · have hne : j.val ≠ k.val := fun hc => hp (by rw [← hc, hj])
    have hj' : sess u₀ j.val = sess s j.val := by rw [hsame, sess_taken_other s k.val j.val hne]
    rw [sess_answer, if_neg hne, hsess j (by rw [hj']; exact ho) (by rw [hj', hj]), hj']
  · rw [counter, answer_counters u k.val _ rfl]
    exact hcount

/-! ## The control complex (R276) -/

theorem resetControl_stops : ∃ u, resetControl (resetBegun 10 s) = u ∧
    u = { resetBegun 10 s with solver := u.solver, pump := u.pump, t1 := u.t1 } ∧ u.solver.running = false ∧ u.solver.solving = none ∧
    u.solver.iterate = none ∧ u.solver.slots = s.solver.slots ∧ u.pump.running = s.pump.running ∧
    ∀ n : Fin 64, (axisOf u n.val).state = .disabled ∧ (axisOf u n.val).stages = [] ∧ (axisOf u n.val).pending = none := by
  refine ⟨_, rfl, rfl, rfl, rfl, rfl, rfl, rfl, fun n => ?_⟩
  exact tblGet_tblMap_of (fun a : Axis => a.state = .disabled ∧ a.stages = [] ∧ a.pending = none) {} resetAxis ⟨rfl, rfl, rfl⟩
    (fun _ => ⟨rfl, rfl, rfl⟩) s.pump.axes n.val

/-! ## The end of a reset (R274) -/

theorem resetReport_report (c : Nat) : ∃ t, resetReport c s = t ∧ Notices (count 0x7416 6 1 s) t ∧
    counter t 0x7416 6 = counter s 0x7416 6 + 1 := by
  have hn := notifySubs_notices (count 0x7416 6 1 s) 0x25 (leBytes 2 c)
  exact ⟨_, rfl, hn, (hn.counters (objKey 0x7416 6) (by decide)).trans (counter_count_same s 0x7416 6)⟩

/-- What the end of a reset does before it is told: the effect of fusion, Selector and control complex once more. -/
def resetAgain (c b : Nat) (s : State) : State :=
  { (if c / 256 = 3 ∨ c / 256 = 4 ∨ c / 256 = 7 then resetEffect c s else s) with
    resetting := s.resetting &&& ~~~(BitVec.ofNat 32 (2 ^ b)),
    island := { s.island with lost := s.island.lost.filter (· ≠ heartbeatOf c) } }

theorem resetSelector_frame :
    resetSelector s = { s with map := (resetSelector s).map, selector := (resetSelector s).selector } := by
  have hframe : forEach (List.range 16) stopChannel s = { s with selector := (forEach (List.range 16) stopChannel s).selector } :=
    forEach_rel (fun u v => v = { u with selector := v.selector }) (fun _ => rfl) (fun _ _ _ h k => by rw [k, h]) _ _
      (fun ch _ u => stopChannel_frame u ch) _
  unfold resetSelector
  generalize forEach (List.range 16) stopChannel s = v at hframe ⊢
  rw [hframe]
  rfl

theorem resetEffect_again (c : Nat) (h : c / 256 = 3 ∨ c / 256 = 4 ∨ c / 256 = 7) :
    (resetEffect c s).mem = s.mem ∧ (resetEffect c s).sluice = s.sluice ∧ (resetEffect c s).counters = s.counters := by
  unfold resetEffect
  obtain h | h | h := h <;> simp only [h]
  · exact ⟨rfl, rfl, rfl⟩
  · rw [resetSelector_frame]
    exact ⟨rfl, rfl, rfl⟩
  · exact ⟨rfl, rfl, rfl⟩

theorem functionResetDone_ends (c : BitVec 16) (b : Nat) (hc : c.toNat / 256 ≠ 1) (hb : resetBit c.toNat = some b)
    (hbit : s.resetting.getLsbD b = true) :
    ∃ t, exec (.functionResetDone c) s = .next t ∧ t.resetting = s.resetting &&& ~~~(BitVec.ofNat 32 (2 ^ b)) ∧
      counter t 0x7416 6 = counter s 0x7416 6 + 1 ∧ t.mem = s.mem ∧ t.sluice = s.sluice := by
  have hexec : exec (.functionResetDone c) s = .next (resetReport c.toNat (resetAgain c.toNat b s)) := by
    show execFunctionResetDone c s = _
    unfold execFunctionResetDone
    simp only
    rw [if_neg fun h => hc h.1]
    simp only [hb]
    rw [if_pos hbit]
    rfl
  have hagain : (resetAgain c.toNat b s).mem = s.mem ∧ (resetAgain c.toNat b s).sluice = s.sluice ∧
      (resetAgain c.toNat b s).counters = s.counters := by
    unfold resetAgain
    split
    next h => exact resetEffect_again s c.toNat h
    next => exact ⟨rfl, rfl, rfl⟩
  have hres : (resetAgain c.toNat b s).resetting = s.resetting &&& ~~~(BitVec.ofNat 32 (2 ^ b)) := rfl
  generalize resetAgain c.toNat b s = u at hexec hagain hres
  obtain ⟨hmem, hsluice, hcounters⟩ := hagain
  obtain ⟨t, ht, hn, hcount⟩ := resetReport_report u c.toNat
  rw [ht] at hexec
  refine ⟨t, hexec, ?_, ?_, ?_, ?_⟩
  · rw [hn.eq]
    exact hres
  · rw [hcount, counter, hcounters, ← counter]
  · rw [hn.eq]
    exact hmem
  · rw [hn.eq]
    exact hsluice

theorem partResetEnd_ends (p : Nat) :
    (partOf (partResetEnd p s) p).state = .stopped ∧ (partResetEnd p s).counters = s.counters := by
  have hpart : partOf (pmod p (fun x => { x with state := .stopped }) s) p = { partOf s p with state := .stopped } := partOf_pmod_same ..
  have hcounters : (pmod p (fun x => { x with state := .stopped }) s).counters = s.counters := rfl
  unfold partResetEnd
  extract_lets busy
  generalize pmod p (fun x => { x with state := .stopped }) s = u at hpart hcounters ⊢
  generalize (partTiles s p).filter (fun t => !(busy (clusterOfTile t))) = ts
  have hclears := wipePart_wipes u ts
  have hparts : (wipeTiles ts u).parts = u.parts :=
    forEach_keeps State.parts (fun t s => wipe (tileBase t) tileBytes (blankTile t s)) ts (fun _ _ _ => rfl) u
  have hcount : (wipeTiles ts u).counters = u.counters :=
    forEach_keeps State.counters (fun t s => wipe (tileBase t) tileBytes (blankTile t s)) ts (fun _ _ _ => rfl) u
  refine ⟨?_, by rw [hclears.counters, hcount, hcounters]⟩
  rw [partOf, hclears.parts, hparts, ← partOf, hpart]

theorem partitionResetDone_ends (p : Fin 64) (hst : (partOf s p.val).state = .resetting) :
    ∃ t, exec (.functionResetDone (BitVec.ofNat 16 (256 + p.val))) s = .next t ∧ (partOf t p.val).state = .stopped ∧
      counter t 0x7416 6 = counter s 0x7416 6 + 1 := by
  have hcode : ∀ p : Fin 64, (BitVec.ofNat 16 (256 + p.val)).toNat / 256 = 1 ∧ (BitVec.ofNat 16 (256 + p.val)).toNat % 256 = p.val := by decide
  obtain ⟨hdiv, hmod⟩ := hcode p
  have hexec : exec (.functionResetDone (BitVec.ofNat 16 (256 + p.val))) s =
      .next (resetReport (BitVec.ofNat 16 (256 + p.val)).toNat (partResetEnd p.val s)) := by
    show execFunctionResetDone _ s = _
    unfold execFunctionResetDone
    simp only [hdiv, hmod]
    rw [if_pos ⟨trivial, p.isLt⟩, if_pos hst]
  obtain ⟨hpart, hcounters⟩ := partResetEnd_ends s p.val
  generalize (BitVec.ofNat 16 (256 + p.val)).toNat = c at hexec
  generalize partResetEnd p.val s = u at hexec hpart hcounters
  obtain ⟨t, ht, hn, hcount⟩ := resetReport_report u c
  rw [ht] at hexec
  have hparts : t.parts = u.parts := by rw [hn.eq]; rfl
  exact ⟨t, hexec, by rw [partOf, hparts]; exact hpart, by rw [hcount, counter, hcounters, ← counter]⟩

/-! ## The five commands -/

/-- A reset's command is refused while its bit is set. -/
def RefusedTwice (k b : Nat) (c : Instr) (s : State) : Prop :=
  s.resetting.getLsbD b = true → ∃ t, exec c s = .next t ∧ RefusedWith k abConflict s t

theorem resets_refusedTwice (k : Fin 64) (h : HostMay k.val 6 s) :
    RefusedTwice k.val 0 (.resetWellhead k 0) s ∧ RefusedTwice k.val 1 (.resetFusion k 0) s ∧ RefusedTwice k.val 2 (.resetSelector k 0) s ∧
      (∀ p : Fin 3, RefusedTwice k.val (3 + p.val) (.resetFabricPort k (BitVec.ofNat 8 p.val)) s) ∧
      (∀ x : Fin 4, RefusedTwice k.val (6 + x.val) (.resetT1Port k (BitVec.ofNat 8 x.val)) s) ∧
      RefusedTwice k.val 10 (.resetControlComplex k 0) s := by
  have hrefused : ∀ (kind inst : BitVec 8) (b : Nat) (c : Instr), exec c s = .next (hostWrite k.val 0x2010 1 (resetCode kind inst) s) →
      resetBit (inst.toNat + 256 * kind.toNat) = some b → RefusedTwice k.val b c s :=
    fun kind inst b _ hexec hb hbit => ⟨_, hexec, functionReset_refused s k.val kind inst b h hb hbit⟩
  refine ⟨hrefused 2 0 0 _ rfl rfl, hrefused 3 0 1 _ rfl rfl, hrefused 4 0 2 _ rfl rfl, fun p => ?_, fun x => ?_, hrefused 7 0 10 _ rfl rfl⟩
  · obtain ⟨hcode, hb, -⟩ := resetCode_fabric p
    exact hrefused 5 (BitVec.ofNat 8 p.val) (3 + p.val) (.resetFabricPort k (BitVec.ofNat 8 p.val)) rfl (by rw [hcode]; exact hb)
  · obtain ⟨hcode, hb, -⟩ := resetCode_t1 x
    exact hrefused 6 (BitVec.ofNat 8 x.val) (6 + x.val) (.resetT1Port k (BitVec.ofNat 8 x.val)) rfl (by rw [hcode]; exact hb)

theorem resetWellhead_did (k : Fin 64) (h : HostMay k.val 6 s) (hbit : s.resetting.getLsbD 0 = false) :
    Completes (.resetWellhead k 0) k.val [] (wipeWellhead (resetBegun 0 s)) s :=
  ⟨_, rfl, functionReset_did s k.val 2 0 0 (fun u => wipeWellhead (resetBegun 0 u)) h rfl hbit (by decide)
    (.of_keeps fun _ _ _ _ => rfl) fun _ => rfl⟩

theorem resetFusion_did (k : Fin 64) (h : HostMay k.val 6 s) (hbit : s.resetting.getLsbD 1 = false) :
    Completes (.resetFusion k 0) k.val [] (resetFusion (resetBegun 1 s)) s :=
  ⟨_, rfl, functionReset_did s k.val 3 0 1 (fun u => resetFusion (resetBegun 1 u)) h rfl hbit (by decide)
    (.of_keeps fun _ _ _ _ => rfl) fun _ => rfl⟩

theorem resetSelector_did (k : Fin 64) (h : HostMay k.val 6 s) (hbit : s.resetting.getLsbD 2 = false) :
    Completes (.resetSelector k 0) k.val [] (resetSelector (resetBegun 2 s)) s :=
  ⟨_, rfl, functionReset_did s k.val 4 0 2 (fun u => resetSelector (resetBegun 2 u)) h rfl hbit (by decide) resetSelector_fair
    fun _ => rfl⟩

theorem resetControlComplex_did (k : Fin 64) (h : HostMay k.val 6 s) (hbit : s.resetting.getLsbD 10 = false) :
    Completes (.resetControlComplex k 0) k.val [] (resetControl (resetBegun 10 s)) s :=
  ⟨_, rfl, functionReset_did s k.val 7 0 10 (fun u => resetControl (resetBegun 10 u)) h rfl hbit (by decide)
    (.of_keeps fun _ _ _ _ => rfl) fun _ => rfl⟩

end

/-- Settles O45: each reset is a write whose effect is followed through what it stops; the end of one is told and changes no memory. -/
theorem functionResets : Obligations.FunctionResets := by
  intro s k
  refine ⟨fun h => ⟨resetWellhead_did s k h, resetFusion_did s k h, fun hbit => ?_, fun p => resetFabricPort_resets s k p h,
    fun x => resetT1Port_resets s k x h, ?_, fun hbit => ?_⟩, functionResetDone_ends s, partitionResetDone_ends s⟩
  · obtain ⟨u, rfl, hfacts⟩ := resetSelector_stops s
    exact ⟨_, resetSelector_did s k h hbit, hfacts⟩
  · obtain ⟨h₀, h₁, h₂, h₃, h₄, h₅⟩ := resets_refusedTwice s k h
    exact ⟨h₀, h₁, h₂, h₃, h₄, h₅, fun p hst => ⟨_, rfl, partitionReset_refused s k p h hst⟩⟩
  · obtain ⟨u, rfl, hfacts⟩ := resetControl_stops s
    exact ⟨_, resetControlComplex_did s k h hbit, hfacts⟩

end Sys2Proof.Machine

end

section
/-!
PROOF. The link of a camera port and the frames of its streams (R279-R304, R430).
-/

namespace Sys2Proof.Machine

open Claims

section

variable (s : State)

/-! ## The port (R280) -/

theorem camera_unlocked (p : Fin 12) (h : linkLocked s p.val = false) (vc : Fin 16) (n : Nat) (d : BitVec 8) (hd c : Bool) (b : Bytes) :
    exec (.frameStart p vc n) s = .next (clockTo n s) ∧ exec (.csiLongPacket p vc d hd c b) s = .next s ∧
      exec (.frameEnd p vc) s = .next s := by
  have hclock : linkLocked (clockTo n s) p.val = false := by rw [linkLocked, clockTo_wellhead, ← linkLocked, h]
  exact ⟨if_pos (.inr (by rw [hclock]; rfl)), if_pos (.inr (by rw [h]; rfl)), if_pos (.inr (by rw [h]; rfl))⟩

/-! ## A frame starts (R285, R304) -/

theorem camHandover_none (n : Nat) (h : (camOf s n).ready = none) : camHandover n s = s := by
  unfold camHandover
  simp only [h]

theorem frameStart_exec (p : Fin 12) (vc : Fin 16) (n at_ : Nat) (hw : wellheadReset s = false) (hl : linkLocked s p.val = true)
    (hon : camOn s p.val vc.val = some n) : exec (.frameStart p vc at_) s = .next (camFrameStart n (clockTo at_ s)) := by
  obtain ⟨c, hc⟩ : ∃ c, clockTo at_ s = { s with clock := c } := ⟨_, clockTo_eq at_ s⟩
  show execFrameStart p vc at_ s = _
  unfold execFrameStart
  simp only [hc]
  have hno : ¬(wellheadReset { s with clock := c } = true ∨ (!linkLocked { s with clock := c } p.val) = true) := fun h =>
    h.elim (fun h => absurd (hw.symm.trans h) nofun) fun h => absurd (hl.symm.trans ((Bool.not_eq_true' _).mp h)) nofun
  rw [if_neg hno, show camOn { s with clock := c } p.val vc.val = some n from hon]

/-- A frame that starts where the ring has no room is dropped. -/
theorem camFrameStart_full (n : Nat) (h : (camOf s n).ready = none)
    (hr : ringRoom s (camGeom s n).ring (camGeom s n).slots (camOf s n).handed = false) : camFrameStart n s =
    cammod n (fun c => { c with state := 2, frameNo := (camOf s n).frameNo + 1,
                                frame := some { number := (camOf s n).frameNo + 1, stamp := stamp s, dropped := true } })
      (count (0x4800 + n) 0x14 1 (count 0x7417 0x0b 1 (count 0x7417 1 1 s))) := by
  unfold camFrameStart
  simp only [camHandover_none s n h]
  exact if_pos (congrArg Bool.not hr)

/-- What a frame's start counts: the frame, a list of rectangles that it lacks, and its clipped rectangles. -/
def countRois (missing : Prop) [Decidable missing] (clipped : Nat) (s : State) : State :=
  count 0x7417 0x0d clipped (if missing then count 0x7417 0x0c 1 (count 0x7417 1 1 s) else count 0x7417 1 1 s)

theorem countRois_counts (missing : Prop) [Decidable missing] (clipped : Nat) :
    countRois missing clipped s = { s with counters := (countRois missing clipped s).counters } ∧
      counter (countRois missing clipped s) 0x7417 1 = counter s 0x7417 1 + 1 := by
  have hone := counter_count_same s 0x7417 1
  have hclip : ∀ u : State, counter (count 0x7417 0x0d clipped u) 0x7417 1 = counter u 0x7417 1 := fun u =>
    counter_count_other u _ _ _ _ _ (by decide)
  have hmiss : ∀ u : State, counter (count 0x7417 0x0c 1 u) 0x7417 1 = counter u 0x7417 1 := fun u =>
    counter_count_other u _ _ _ _ _ (by decide)
  have hframe : ∀ (u : State) (i j k : Nat), u = { s with counters := u.counters } →
      count i j k u = { s with counters := (count i j k u).counters } := fun u i j k h => by rw [count, h]
  have hs := hframe s 0x7417 1 1 rfl
  unfold countRois
  generalize count 0x7417 1 1 s = v at hone hs ⊢
  split
  · exact ⟨hframe _ _ _ _ (hframe _ _ _ _ hs), (hclip _).trans ((hmiss _).trans hone)⟩
  · exact ⟨hframe _ _ _ _ hs, (hclip _).trans hone⟩

theorem camFrameStart_taken (n : Nat) (h : (camOf s n).ready = none)
    (hr : ringRoom s (camGeom s n).ring (camGeom s n).slots (camOf s n).handed = true) : ∃ t, camFrameStart n s = t ∧
    t = { s with counters := t.counters, wellhead := { s.wellhead with cams := t.wellhead.cams } } ∧
    camOf t n = { camOf s n with
      state := 2, frameNo := (camOf s n).frameNo + 1,
      frame := some { number := (camOf s n).frameNo + 1, stamp := stamp s, dropped := false,
                      rois := if (camGeom s n).roi then ((readRoi s n ((camOf s n).frameNo + 1)).getD []).map (takeRect (camGeom s n)) else [] } } ∧
    (∀ m, m ≠ n → camOf t m = camOf s m) ∧ counter t 0x7417 1 = counter s 0x7417 1 + 1 := by
  let list := if (camGeom s n).roi then readRoi s n ((camOf s n).frameNo + 1) else none
  let rs := (list.getD []).map (takeRect (camGeom s n))
  obtain ⟨heq, hcount⟩ := countRois_counts s ((camGeom s n).roi = true ∧ list.isNone = true) (rs.filter (fun r => r.clipped)).length
  have hrs : rs = if (camGeom s n).roi then ((readRoi s n ((camOf s n).frameNo + 1)).getD []).map (takeRect (camGeom s n)) else [] := by
    simp only [rs, list]
    split <;> rfl
  have ht : camFrameStart n s = cammod n (fun c => { c with
      state := 2, frameNo := (camOf s n).frameNo + 1
      frame := some { number := (camOf s n).frameNo + 1, stamp := stamp s, dropped := false, rois := rs } })
      (countRois ((camGeom s n).roi = true ∧ list.isNone = true) (rs.filter (fun r => r.clipped)).length s) := by
    unfold camFrameStart
    simp only [camHandover_none s n h]
    have hroom : ringRoom (count 0x7417 1 1 s) (camGeom s n).ring (camGeom s n).slots (camOf (count 0x7417 1 1 s) n).handed = true := hr
    have hread : ∀ (u : State) (i j k : Nat), readRoi (count i j k u) = readRoi u := fun _ _ _ _ => rfl
    have hstamp : ∀ (u : State) (i j k : Nat), stamp (count i j k u) = stamp u := fun _ _ _ _ => rfl
    have hite : ∀ (c : Prop) [Decidable c] (u v : State), stamp (if c then u else v) = if c then stamp u else stamp v :=
      fun c _ u v => apply_ite stamp c u v
    rw [hroom]
    unfold countRois
    simp only [hread, hstamp, hite, ite_self, Bool.not_true, Bool.false_eq_true, if_false]
    rfl
  generalize countRois ((camGeom s n).roi = true ∧ list.isNone = true) (rs.filter (fun r => r.clipped)).length s = u at heq hcount ht
  have hcam : ∀ m, camOf u m = camOf s m := fun m => by
    rw [heq]
    rfl
  refine ⟨_, ht, ?_, ?_, fun m hm => ?_, hcount⟩
  · rw [heq]
    rfl
  · rw [camOf_cammod, if_pos rfl, hcam, ← hrs]
  · rw [camOf_cammod, if_neg hm, hcam]

/-- A frame start, by the room of the ring. -/
theorem frameStart_starts (p : Fin 12) (vc : Fin 16) (n at_ : Nat) (hw : wellheadReset s = false) (hl : linkLocked s p.val = true)
    (hon : camOn s p.val vc.val = some n) (h : (camOf s n).ready = none) :
    let c := camOf s n
    let g := camGeom s n
    let k := c.frameNo + 1
    let st := stamp (clockTo at_ s)
    (ringRoom s g.ring g.slots c.handed = false → exec (.frameStart p vc at_) s =
      .next (cammod n (fun c => { c with state := 2, frameNo := k, frame := some { number := k, stamp := st, dropped := true } })
        (count (0x4800 + n) 0x14 1 (count 0x7417 0x0b 1 (count 0x7417 1 1 (clockTo at_ s)))))) ∧
    (ringRoom s g.ring g.slots c.handed = true → ∃ t, exec (.frameStart p vc at_) s = .next t ∧
      t = { s with clock := (clockTo at_ s).clock, counters := t.counters, wellhead := { s.wellhead with cams := t.wellhead.cams } } ∧
      camOf t n = { c with
        state := 2, frameNo := k,
        frame := some { number := k, stamp := st, dropped := false,
                        rois := if g.roi then ((readRoi s n k).getD []).map (takeRect g) else [] } } ∧
      (∀ m, m ≠ n → camOf t m = camOf s m) ∧ counter t 0x7417 1 = counter s 0x7417 1 + 1) := by
  intro c g k st
  have hexec := frameStart_exec s p vc n at_ hw hl hon
  obtain ⟨x, hx⟩ : ∃ x, clockTo at_ s = { s with clock := x } := ⟨_, clockTo_eq at_ s⟩
  have hst : st = stamp { s with clock := x } := by
    rw [← hx]
  clear_value st
  rw [hx] at hexec ⊢
  refine ⟨fun hr => ?_, fun hr => ?_⟩
  · rw [hexec, camFrameStart_full { s with clock := x } n h hr, hst]
    rfl
  · obtain ⟨t, ht, heq, hcam, hother, hcount⟩ := camFrameStart_taken { s with clock := x } n h hr
    rw [ht] at hexec
    exact ⟨t, hexec, heq, by rw [hcam, hst]; rfl, hother, hcount⟩

/-! ## Lines join the frame (R279, R280, R293) -/

/-- Is the data type one of those that a stream can take? -/
theorem csiLongPacket_exec (p : Fin 12) (vc : Fin 16) (n : Nat) (d : BitVec 8) (crc : Bool) (b : Bytes) (hw : wellheadReset s = false)
    (hl : linkLocked s p.val = true) (hon : camOn s p.val vc.val = some n) (hd : camCfg s n 3 = d.toNat)
    (htype : d.toNat ∈ [0x1e, 0x2a, 0x2b, 0x2c]) : exec (.csiLongPacket p vc d true crc b) s =
    .next (camLines n crc b (if crc then s else count (0x4880 + p.val) 3 1 s)) := by
  have hno : ¬(wellheadReset s = true ∨ (!linkLocked s p.val) = true) := by rw [hw, hl]; decide
  have hok : ¬(d.toNat ≠ 0x1e ∧ d.toNat ≠ 0x2a ∧ d.toNat ≠ 0x2b ∧ d.toNat ≠ 0x2c) := by
    simp only [List.mem_cons, List.not_mem_nil, or_false] at htype
    omega
  show execCsiLongPacket p vc d true crc b s = _
  unfold execCsiLongPacket
  simp only
  rw [if_neg hno, if_neg (by decide), if_neg hok]
  have hkeep : camOn (if crc then s else count (0x4880 + p.val) 3 1 s) p.val vc.val = some n ∧
      camCfg (if crc then s else count (0x4880 + p.val) 3 1 s) n 3 = d.toNat := by
    cases crc
    · exact ⟨hon, hd⟩
    · exact ⟨hon, hd⟩
  generalize (if crc then s else count (0x4880 + p.val) 3 1 s) = u at hkeep ⊢
  rw [hkeep.1]
  exact if_neg (not_not_intro hkeep.2)

theorem camOf_markLinkError (n : Nat) :
    (camOf (markLinkError n s) n).frame = (camOf s n).frame.map (fun f => { f with linkError := true }) := by
  unfold markLinkError
  split
  next h => rw [h]; rfl
  next f h =>
    split
    next hf =>
      rw [h]
      exact congrArg some (by rw [← hf])
    next =>
      rw [show camOf (count 0x7417 3 1 (cammod n (fun c => { c with frame := some { f with linkError := true } }) s)) n = _ from
        (camOf_cammod s n n _).trans (if_pos rfl), h]
      rfl

theorem markLinkError_counter (n : Nat) (p : Fin 12) :
    counter (markLinkError n s) (0x4880 + p.val) 3 = counter s (0x4880 + p.val) 3 := by
  have hkey : ∀ p : Fin 12, objKey (0x4880 + p.val) 3 ≠ objKey 0x7417 3 := by decide
  unfold markLinkError
  split
  · rfl
  · split
    · rfl
    · exact counter_count_other _ _ _ _ _ _ (hkey p)

theorem csiLongPacket_joins (p : Fin 12) (vc : Fin 16) (n : Nat) (hw : wellheadReset s = false) (hl : linkLocked s p.val = true)
    (hon : camOn s p.val vc.val = some n) (d : BitVec 8) (b : Bytes) (hd : camCfg s n 3 = d.toNat)
    (htype : d.toNat ∈ [0x1e, 0x2a, 0x2b, 0x2c]) :
    let c := camOf s n
    let g := camGeom s n
    exec (.csiLongPacket p vc d true true b) s = .next (cammod n (fun c => { c with
      frame := c.frame.map (fun f => { f with lines := (f.lines ++ payloadLines d.toNat g.w b).take g.h }) }) s) ∧
    ∃ t, exec (.csiLongPacket p vc d true false b) s = .next t ∧ counter t (0x4880 + p.val) 3 = counter s (0x4880 + p.val) 3 + 1 ∧
      (camOf t n).frame = c.frame.map (fun f => { f with
        linkError := true, lines := (f.lines ++ payloadLines d.toNat g.w b).take g.h }) := by
  intro c g
  have hexec := fun crc => csiLongPacket_exec s p vc n d crc b hw hl hon hd htype
  have hg : g.dtype = d.toNat := hd
  refine ⟨(hexec true).trans ?_, _, hexec false, ?_, ?_⟩
  · rw [← hg]
    rfl
  · exact (markLinkError_counter (count (0x4880 + p.val) 3 1 s) n p).trans (counter_count_same s (0x4880 + p.val) 3)
  · have hmark : (camOf (markLinkError n (count (0x4880 + p.val) 3 1 s)) n).frame = c.frame.map (fun f => { f with linkError := true }) :=
      camOf_markLinkError (count (0x4880 + p.val) 3 1 s) n
    have hcam : (camOf (camLines n false b (count (0x4880 + p.val) 3 1 s)) n).frame =
        (camOf (markLinkError n (count (0x4880 + p.val) 3 1 s)) n).frame.map (fun f =>
          { f with lines := (f.lines ++ payloadLines g.dtype g.w b).take g.h }) :=
      congrArg Camera.frame ((camOf_cammod (markLinkError n (count (0x4880 + p.val) 3 1 s)) n n _).trans (if_pos rfl))
    show (camOf (camLines n false b (count (0x4880 + p.val) 3 1 s)) n).frame = _
    rw [hcam, hmark, Option.map_map, hg]
    rfl

/-! ## A frame ends (R293, R304, R430) -/

/-- Where the next slot of a camera stream lies. -/
def camSlotAt (s : State) (n : Nat) : Nat :=
  (camGeom s n).ring + 128 + camSlotBytes (camGeom s n) * ((camOf s n).handed.toNat % (camGeom s n).slots)

/-- A slot written at `a`, to be handed over. -/
def camPlaced (n a : Nat) (sl : Bytes) (good : Bool) (s : State) : State :=
  cammod n (fun c => { c with ready := some (sl, good) }) (pokeCistern a sl s)

theorem camPlaced_places (n a : Nat) (sl : Bytes) (good : Bool) :
    camOf (camPlaced n a sl good s) n = { camOf s n with ready := some (sl, good) } ∧ peek (camPlaced n a sl good s) a sl.length = sl ∧
      (∀ x, ¬(a ≤ x ∧ x < a + sl.length) → memByte (camPlaced n a sl good s).mem x = memByte s.mem x) ∧
      (camPlaced n a sl good s).counters = s.counters := by
  have hpoke := pokeCistern_eq s a sl
  refine ⟨?_, ?_, fun x hx => memByte_pokeCistern_other s a x sl hx, ?_⟩
  · rw [camPlaced, camOf_cammod, if_pos rfl, camOf_of_wellhead (pokeCistern_wellhead s a sl)]
  · show memRead (pokeCistern a sl s).mem a sl.length = sl
    rw [hpoke]
    exact memRead_write ..
  · show (pokeCistern a sl s).counters = _
    rw [hpoke]

/-- The frame taken from its stream; free choices go on. -/
def camFrameOut (n : Nat) (s : State) : State := cammod n (fun c => { c with frame := none }) { s with freeCtr := s.freeCtr + 1 }

theorem camFrameOut_facts (n : Nat) :
    camOf (camFrameOut n s) n = { camOf s n with frame := none } ∧ (camFrameOut n s).mem = s.mem ∧
    (camFrameOut n s).counters = s.counters := ⟨(camOf_cammod _ n n _).trans (if_pos rfl), rfl, rfl⟩

theorem camFrameEnd_error (n : Nat) (f : CamFrame) (hf : (camOf s n).frame = some f) (hd : f.dropped = false) (he : f.linkError = true) :
    camFrameEnd n s = camPlaced n (camSlotAt s n) (replacedSlot (camGeom s n) f ((camOf s n).handed + 1) (camOf s n).lastGood)
      false (count 0x7417 2 1 (camFrameOut n s)) := by
  obtain ⟨hcam, -, -⟩ := camFrameOut_facts s n
  have hcount : camOf (count 0x7417 2 1 (camFrameOut n s)) n = camOf (camFrameOut n s) n := rfl
  unfold camFrameEnd
  simp only [hf, he, hd, if_true, Bool.false_eq_true, if_false]
  rw [← camFrameOut]
  simp only [hcount, hcam]
  rfl

/-- The check of a frame for being frozen notes its signature; it counts and tells (R430). -/
theorem checkFrozen_notes (n : Nat) (sig : BitVec 32) : ∃ frozen reps, (checkFrozen n sig s).1 = frozen ∧
    camOf (checkFrozen n sig s).2 n = { camOf s n with signature := some sig, repeats := reps, frozen := frozen } ∧
    (checkFrozen n sig s).2.mem = s.mem := by
  unfold checkFrozen
  extract_lets c reps lim frozen first s₁ s₂
  have h₁ : camOf s₁ n = { camOf s n with signature := some sig, repeats := reps, frozen := frozen } :=
    (camOf_cammod s n n _).trans (if_pos rfl)
  have h₂ : s₂.wellhead = s₁.wellhead ∧ s₂.mem = s₁.mem := by
    simp only [s₂]
    split
    · exact ⟨rfl, rfl⟩
    · exact ⟨rfl, rfl⟩
  have hm : s₁.mem = s.mem := rfl
  clear_value s₁ s₂ first
  have h₃ : (if first = true then notifySubs 0x22 (leBytes 1 n) s₂ else s₂).wellhead = s₂.wellhead ∧
      (if first = true then notifySubs 0x22 (leBytes 1 n) s₂ else s₂).mem = s₂.mem := by
    split
    · rw [(notifySubs_notices s₂ 0x22 (leBytes 1 n)).eq]
      exact ⟨rfl, rfl⟩
    · exact ⟨rfl, rfl⟩
  exact ⟨frozen, reps, rfl, (camOf_of_wellhead (h₃.1.trans h₂.1) n).trans h₁, h₃.2.trans (h₂.2.trans hm)⟩

theorem camFrameEnd_good (n : Nat) (f : CamFrame) (hf : (camOf s n).frame = some f) (hd : f.dropped = false) (he : f.linkError = false) :
    let r := checkFrozen n (frameSignature (camGeom s n).dtype (camGeom s n).w (camGeom s n).h (rawWord (camGeom s n).dtype s.freeCtr f.lines))
      (camFrameOut n s)
    camFrameEnd n s = camPlaced n (camSlotAt s n) (goodSlot (camGeom s n) f ((camOf s n).handed + 1) r.1 s.freeCtr) true r.2 := by
  intro r
  obtain ⟨hcam, -, -⟩ := camFrameOut_facts s n
  have hhanded : (camOf r.2 n).handed = (camOf s n).handed := by
    obtain ⟨frozen, reps, -, hr, -⟩ := checkFrozen_notes (camFrameOut n s) n (frameSignature (camGeom s n).dtype (camGeom s n).w
      (camGeom s n).h (rawWord (camGeom s n).dtype s.freeCtr f.lines))
    rw [show camOf r.2 n = _ from hr, hcam]
  unfold camFrameEnd
  simp only [hf, he, hd, Bool.false_eq_true, if_false]
  rw [← camFrameOut]
  show camPlaced n ((camGeom s n).ring + 128 + camSlotBytes (camGeom s n) * ((camOf r.2 n).handed.toNat % (camGeom s n).slots))
    (goodSlot (camGeom s n) f ((camOf (camFrameOut n s) n).handed + 1) r.1 s.freeCtr) true r.2 = _
  rw [hhanded, hcam]
  rfl

theorem frameEnd_places (p : Fin 12) (vc : Fin 16) (n : Nat) (hw : wellheadReset s = false) (hl : linkLocked s p.val = true)
    (hon : camOn s p.val vc.val = some n) (f : CamFrame) (hf : (camOf s n).frame = some f) (hd : f.dropped = false) :
    let c := camOf s n
    let g := camGeom s n
    let a := g.ring + 128 + camSlotBytes g * (c.handed.toNat % g.slots)
    ∃ t sl, exec (.frameEnd p vc) s = .next t ∧ (camOf t n).frame = none ∧ (camOf t n).handed = c.handed ∧
      peek t a sl.length = sl ∧ (∀ x, ¬(a ≤ x ∧ x < a + sl.length) → memByte t.mem x = memByte s.mem x) ∧
      (f.linkError = false → (camOf t n).ready = some (sl, true) ∧
        (camOf t n).signature = some (frameSignature g.dtype g.w g.h (rawWord g.dtype s.freeCtr f.lines)) ∧
        ∃ frozen, sl = goodSlot g f (c.handed + 1) frozen s.freeCtr) ∧
      (f.linkError = true → (camOf t n).ready = some (sl, false) ∧ sl = replacedSlot g f (c.handed + 1) c.lastGood ∧
        counter t 0x7417 2 = counter s 0x7417 2 + 1) := by
  intro c g a
  have hno : ¬(wellheadReset s = true ∨ (!linkLocked s p.val) = true) := by rw [hw, hl]; decide
  have hexec : exec (.frameEnd p vc) s = .next (camFrameEnd n s) := by
    show execFrameEnd p vc s = _
    unfold execFrameEnd
    rw [if_neg hno]
    simp only [hon]
  obtain ⟨hcam, hmem, hcounters⟩ := camFrameOut_facts s n
  cases he : f.linkError with
  | true =>
    rw [camFrameEnd_error s n f hf hd he] at hexec
    obtain ⟨hplaced, hpeek, hbyte, hcount⟩ := camPlaced_places (count 0x7417 2 1 (camFrameOut n s)) n (camSlotAt s n)
      (replacedSlot g f (c.handed + 1) c.lastGood) false
    have hout : camOf (count 0x7417 2 1 (camFrameOut n s)) n = { camOf s n with frame := none } := hcam
    rw [hout] at hplaced
    refine ⟨_, _, hexec, by rw [hplaced], by rw [hplaced], hpeek, fun x hx => ?_, nofun, fun _ => ⟨by rw [hplaced], rfl, ?_⟩⟩
    · rw [hbyte x hx]
      exact congrArg (memByte · x) hmem
    · rw [counter, hcount, ← counter, counter_count_same, counter, hcounters, ← counter]
  | false =>
    rw [camFrameEnd_good s n f hf hd he] at hexec
    obtain ⟨frozen, reps, hfrozen, hsig, hkept⟩ := checkFrozen_notes (camFrameOut n s) n (frameSignature g.dtype g.w g.h
      (rawWord g.dtype s.freeCtr f.lines))
    generalize checkFrozen n (frameSignature g.dtype g.w g.h (rawWord g.dtype s.freeCtr f.lines)) (camFrameOut n s) = r at hexec hfrozen hsig hkept
    obtain ⟨hplaced, hpeek, hbyte, -⟩ := camPlaced_places r.2 n (camSlotAt s n) (goodSlot g f (c.handed + 1) r.1 s.freeCtr) true
    rw [hsig, hcam] at hplaced
    refine ⟨_, _, hexec, by rw [hplaced], by rw [hplaced], hpeek, fun x hx => ?_, fun _ => ⟨by rw [hplaced], by rw [hplaced],
      r.1, rfl⟩, nofun⟩
    rw [hbyte x hx, hkept, hmem]

/-! ## A frame is handed over (R304) -/

theorem handOver_hands (ring : Nat) (b : BitVec 32) (e : Nat) :
    peekNat (handOver ring b e s) ring 4 = b.toNat ∧ (handOver ring b e s).wellhead = s.wellhead ∧
      (∀ a, ¬(ring ≤ a ∧ a < ring + 4) → memByte (handOver ring b e s).mem a = memByte s.mem a) ∧
      (handOver ring b e s).counters = s.counters ∧
      (eventWaiters s none e = [] → ⟨e, none⟩ ∈ (handOver ring b e s).raised) := by
  have hpeek := peekNat_pokeCistern s ring (leBytes 4 b.toNat)
  rw [leNat_leBytes_toNat 32 4 _ rfl, length_leBytes] at hpeek
  have hbyte := fun a => memByte_pokeCistern_other s ring a (leBytes 4 b.toNat)
  rw [length_leBytes] at hbyte
  have hpoke := pokeCistern_eq s ring (leBytes 4 b.toNat)
  have hwait : eventWaiters (pokeCistern ring (leBytes 4 b.toNat) s) none e = eventWaiters s none e := by
    rw [hpoke]
    rfl
  unfold handOver
  have hmem := fun h => mem_raised_raiseEvent (pokeCistern ring (leBytes 4 b.toNat) s) none e h
  generalize pokeCistern ring (leBytes 4 b.toNat) s = y at hpeek hbyte hpoke hwait hmem ⊢
  have hraise := raiseEvent_eq none e y
  generalize raiseEvent none e y = z at hraise hmem ⊢
  refine ⟨?_, by rw [hraise, hpoke], fun a ha => ?_, by rw [hraise, hpoke], fun h => hmem (hwait.trans h)⟩
  · rw [peekNat, show z.mem = y.mem by rw [hraise]]
    exact hpeek
  · rw [show z.mem = y.mem by rw [hraise]]
    exact hbyte a ha

theorem cameraHandover_hands (x : Fin 48) (sl : Bytes) (good : Bool) (hw : wellheadReset s = false) (hx : x.val < 32)
    (h : (camOf s x.val).ready = some (sl, good)) :
    let c := camOf s x.val
    let r := (camGeom s x.val).ring
    ∃ t, exec (.batchHandover x) s = .next t ∧ peekNat t r 4 = (c.handed + 1).toNat ∧
      camOf t x.val = { c with handed := c.handed + 1, ready := none, lastGood := if good then some sl else c.lastGood } ∧
      (∀ a, ¬(r ≤ a ∧ a < r + 4) → memByte t.mem a = memByte s.mem a) ∧
      (good = false → counter t (0x4800 + x.val) 0x13 = counter s (0x4800 + x.val) 0x13 + 1) ∧
      (eventWaiters s none (camCfg s x.val 0x0f) = [] → ⟨camCfg s x.val 0x0f, none⟩ ∈ t.raised) := by
  intro c r
  have hexec : exec (.batchHandover x) s = .next (camHandover x.val s) := by
    show execBatchHandover x s = _
    unfold execBatchHandover
    rw [if_neg (by rw [hw]; nofun), if_pos hx]
  let u := if good then s else count (0x4800 + x.val) 0x13 1 s
  let v := cammod x.val (fun c => { c with handed := (camOf s x.val).handed + 1, ready := none
                                           lastGood := if good then some sl else c.lastGood }) u
  have hu : u = { s with counters := u.counters } := by
    simp only [u]
    split <;> rfl
  have hcount : good = false → counter u (0x4800 + x.val) 0x13 = counter s (0x4800 + x.val) 0x13 + 1 := fun hg => by
    simp only [u, hg]
    exact counter_count_same s _ _
  have heq : camHandover x.val s = handOver (camGeom u x.val).ring (c.handed + 1) (camCfg u x.val 0x0f) v := by
    unfold camHandover
    simp only [h]
    rfl
  have hgeom : camGeom u x.val = camGeom s x.val ∧ camCfg u x.val 0x0f = camCfg s x.val 0x0f := by
    rw [hu]
    exact ⟨rfl, rfl⟩
  have hcam : camOf v x.val = { c with handed := c.handed + 1, ready := none, lastGood := if good then some sl else c.lastGood } := by
    rw [camOf_cammod, if_pos rfl, camOf_of_wellhead (show u.wellhead = s.wellhead by rw [hu])]
  have hv : v.mem = s.mem ∧ v.counters = u.counters ∧ v.tiles = s.tiles := by
    refine ⟨?_, rfl, ?_⟩
    · show u.mem = s.mem
      rw [hu]
    · show u.tiles = s.tiles
      rw [hu]
  rw [hgeom.1, hgeom.2] at heq
  rw [heq] at hexec
  clear_value u v
  obtain ⟨hpeek, hwell, hbyte, hcounters, hraised⟩ := handOver_hands v r (c.handed + 1) (camCfg s x.val 0x0f)
  refine ⟨_, hexec, hpeek, (camOf_of_wellhead hwell _).trans hcam, fun a ha => ?_, fun hg => ?_, fun hwait => hraised ?_⟩
  · rw [hbyte a ha, hv.1]
  · rw [counter, hcounters, hv.2.1, ← counter, hcount hg]
  · rw [eventWaiters, hv.2.2, ← eventWaiters, hwait]

end

/-- Settles O47: the commands of a port one by one; a frame is followed from its start to its hand-over. -/
theorem cameraFrames : Obligations.CameraFrames := by
  unfold Obligations.CameraFrames
  refine ⟨fun s p => ⟨rfl, rfl, fun h vc n d hd c b => camera_unlocked s p h vc n d hd c b⟩,
    fun s p vc n hw hl hon => ⟨fun at_ h => frameStart_starts s p vc n at_ hw hl hon h, fun d b hd ht => csiLongPacket_joins s p vc n hw hl hon d b hd ht,
      fun f hf hd => frameEnd_places s p vc n hw hl hon f hf hd⟩, cameraHandover_hands⟩

end Sys2Proof.Machine

end

section
/-!
PROOF. Samples taken into a batch, decoded or replaced, and handed over (R289-R305).
-/

namespace Sys2Proof.Machine

open Claims

section

variable (s : State)

/-! ## A sample settled -/

theorem samplePut_get (n i : Nat) (f : Sample → Sample) (e : Sample) (h : (sampOf s n).batch[i]? = some e) :
    (sampOf (samplePut n i f s) n).batch[i]? = some (f e) := by
  have hlt : i < (sampOf s n).batch.length := (List.getElem?_eq_some_iff.mp h).1
  rw [samplePut, sampOf_sampmod, if_pos rfl]
  simp only [h, setAt]
  rw [List.getElem?_set_self hlt]

/-- A step of sample `i` of stream `n` that leaves it as `e'`, and the decoders, the clock and memory alone. -/
structure SampleStep (n i : Nat) (e' : Sample) (s t : State) : Prop where
  sample : (sampOf t n).batch[i]? = some e'
  decoders : t.wellhead.decoders = s.wellhead.decoders
  clock : t.clock = s.clock
  mem : t.mem = s.mem

/-- A sample replaced for reason `r` (R293). -/
def replacedSample (r : Nat) (d : Bytes) (e : Sample) :
    Sample := { e with settled := true, reason := r, status := 1, len := 0, data := d }

/-- Counting and free choices touch no sample. -/
def SampleQuiet (s t : State) : Prop := t = { s with counters := t.counters, freeCtr := t.freeCtr }

theorem SampleQuiet.count {v u : State} (h : SampleQuiet v u) (i j k : Nat) : SampleQuiet v (count i j k u) := by
  unfold SampleQuiet at *
  rw [Machine.count, h]

theorem SampleQuiet.put {v u : State} (h : SampleQuiet v u) (n i : Nat) (f : Sample → Sample) (e : Sample)
    (he : (sampOf v n).batch[i]? = some e) : SampleStep n i (f e) v (samplePut n i f u) := by
  have hsamp : sampOf u n = sampOf v n := sampOf_of_wellhead (by rw [h]) n
  have hput : samplePut n i f u = { u with wellhead := { u.wellhead with streams := (samplePut n i f u).wellhead.streams } } := rfl
  refine ⟨samplePut_get u n i f e (by rw [hsamp]; exact he), ?_, ?_, ?_⟩
  · rw [hput, h]
  · rw [hput, h]
  · rw [hput, h]

/-- The counters of a replaced sample: every one, and that of its reason. -/
def countReplaced (r : Nat) (s : State) : State :=
  if reasonCounter r = 0 then count 0x7417 2 1 s else count 0x7417 (reasonCounter r) 1 (count 0x7417 2 1 s)

theorem countReplaced_quiet (r : Nat) : SampleQuiet s (countReplaced r s) := by
  have h : SampleQuiet s (count 0x7417 2 1 s) := SampleQuiet.count (v := s) (u := s) rfl 0x7417 2 1
  unfold countReplaced
  split
  · exact h
  · exact h.count 0x7417 _ 1

theorem reasonCounter_ne (r : Nat) : reasonCounter r ≠ 2 := by
  unfold reasonCounter
  split <;> decide

theorem objKey_sub_inj (i a b : Nat) (h : objKey i a = objKey i b) : a = b := by
  unfold objKey at h
  omega

theorem countReplaced_counts (r : Nat) : counter (countReplaced r s) 0x7417 2 = counter s 0x7417 2 + 1 ∧
    (reasonCounter r ≠ 0 → counter (countReplaced r s) 0x7417 (reasonCounter r) = counter s 0x7417 (reasonCounter r) + 1) := by
  have hne := reasonCounter_ne r
  have hkey : objKey 0x7417 2 ≠ objKey 0x7417 (reasonCounter r) := fun h => hne (objKey_sub_inj _ _ _ h).symm
  unfold countReplaced
  split
  next h => exact ⟨counter_count_same s 0x7417 2, fun hn => absurd h hn⟩
  next h =>
    refine ⟨?_, fun _ => ?_⟩
    · rw [counter_count_other _ _ _ _ _ _ hkey, counter_count_same]
    · rw [counter_count_same, counter_count_other _ _ _ _ _ _ hkey.symm]

theorem rejectSample_counted (n i r : Nat) :
    rejectSample n i r s = samplePut n i (replacedSample r (padData s n)) (countReplaced r s) := rfl

theorem rejectSample_step (n i r : Nat) (e : Sample) (h : (sampOf s n).batch[i]? = some e) :
    SampleStep n i (replacedSample r (padData s n) e) s (rejectSample n i r s) := by
  rw [rejectSample_counted]
  exact (countReplaced_quiet s r).put n i _ e h

/-! ## Texts and images (R290, R295) -/

/-- A text sample with its tokens. -/
def textSample (n : Nat) (s : State) (e : Sample) : Sample :=
  let ts := tokenize s.wellhead.dict ((sampleSrc s e).length + 1) (sampleSrc s e)
  let m := sampCfg s n 7
  { e with
    settled := true, status := if m < ts.length then 2 else 0, len := textLen (ts.take m).length s.freeCtr
    data := padTo (sampleBytes s n) ((ts.take m ++ List.replicate (m - (ts.take m).length) (sampCfg s n 8)).map (leBytes 4)).flatten }

/-- What a finished text counts. -/
def countText (invalid : Nat) (cut : Bool) (s : State) : State :=
  if cut then count 0x7417 0x0e 1 (count 0x7417 0x0f invalid (count 0x7417 4 1 s)) else count 0x7417 0x0f invalid (count 0x7417 4 1 s)

theorem countText_quiet (invalid : Nat) (cut : Bool) : SampleQuiet s (countText invalid cut s) := by
  have h : SampleQuiet s (count 0x7417 0x0f invalid (count 0x7417 4 1 s)) :=
    (SampleQuiet.count (v := s) (u := s) rfl 0x7417 4 1).count 0x7417 0x0f invalid
  unfold countText
  split
  · exact h.count 0x7417 0x0e 1
  · exact h

theorem finishText_step (n i : Nat) (e : Sample) (h : (sampOf s n).batch[i]? = some e) :
    SampleStep n i (textSample n s e) s (finishText n i e s) := by
  let invalid := utf8Invalid ((sampleSrc s e).length + 1) (sampleSrc s e)
  let cut := decide (sampCfg s n 7 < (tokenize s.wellhead.dict ((sampleSrc s e).length + 1) (sampleSrc s e)).length)
  have hq : SampleQuiet s { countText invalid cut s with freeCtr := s.freeCtr + 1 } := by
    unfold SampleQuiet
    rw [show countText invalid cut s = _ from countText_quiet s invalid cut]
  have hfree : (countText invalid cut s).freeCtr = s.freeCtr := by
    unfold countText
    split <;> rfl
  have heq : finishText n i e s = samplePut n i (fun e' => { e' with
      settled := true, status := if cut then 2 else 0, len := (textSample n s e).len, data := (textSample n s e).data })
      { countText invalid cut s with freeCtr := s.freeCtr + 1 } := by
    have hlen : (textSample n s e).len = textLen ((tokenize s.wellhead.dict ((sampleSrc s e).length + 1) (sampleSrc s e)).take
        (sampCfg s n 7)).length (countText invalid cut s).freeCtr := by rw [hfree]; rfl
    rw [hlen, ← hfree]
    rfl
  have hput := hq.put n i (fun e' => { e' with
      settled := true, status := if cut then 2 else 0, len := (textSample n s e).len, data := (textSample n s e).data }) e h
  have hsample : textSample n s e = { e with
      settled := true, status := if cut then 2 else 0, len := (textSample n s e).len, data := (textSample n s e).data } := by
    have hcut : (if cut = true then (2 : BitVec 8) else 0) = (textSample n s e).status := by
      simp only [cut, decide_eq_true_eq]
      rfl
    rw [hcut]
    rfl
  rw [heq, hsample]
  exact hput

/-- An image sample with its image. -/
def imageSample (n : Nat) (s : State) (h : JHead) (bs : List JBlock) (e : Sample) : Sample :=
  let im := jpegImage h bs (sampCfg s n 6 == 1)
  { e with settled := true, data := padTo (sampleBytes s n) (augImage im (sampleAug s n e im.w im.h) (sampCfg s n 4) (sampCfg s n 5) s.freeCtr) }

theorem finishImage_step (n i : Nat) (e : Sample) (h : (sampOf s n).batch[i]? = some e) (hd : JHead) (sos rest : Bytes)
    (hj : jpegChecks (sampleSrc s e) = .inr (hd, sos, rest)) :
    (∀ bs, readScans (rest.length + 1) hd sos rest [] = some bs → SampleStep n i (imageSample n s hd bs e) s (finishImage n i e s)) ∧
      (readScans (rest.length + 1) hd sos rest [] = none →
        SampleStep n i (replacedSample 5 (padData s n) e) s (finishImage n i e s)) := by
  refine ⟨fun bs hbs => ?_, fun hnone => ?_⟩
  · have heq : finishImage n i e s = count 0x7417 4 1 (samplePut n i (fun e' => { e' with
        settled := true, data := (imageSample n s hd bs e).data }) { s with freeCtr := s.freeCtr + 1 }) := by
      unfold finishImage
      simp only [hj, hbs]
      rfl
    have hput := SampleQuiet.put (v := s) (u := { s with freeCtr := s.freeCtr + 1 }) rfl n i (fun e' => { e' with
        settled := true, data := (imageSample n s hd bs e).data }) e h
    rw [heq]
    exact ⟨hput.sample, hput.decoders, hput.clock, hput.mem⟩
  · have heq : finishImage n i e s = rejectSample n i 5 s := by
      unfold finishImage
      simp only [hj, hnone]
    rw [heq]
    exact rejectSample_step s n i 5 e h

/-! ## The decoders -/

theorem decoders_decoderSet (d u : Nat) (v : Option Decoder) :
    tblGet none (decoderSet d v s).wellhead.decoders u = if u = d then v else tblGet none s.wellhead.decoders u :=
  tblGet_set ..

/-- The tokenizer's next sample touches none, and no decoder for images. -/
theorem tokenizerTake_keeps (u : Nat) (hu : u ≠ 4) : (∀ n, sampOf (tokenizerTake s) n = sampOf s n) ∧
    tblGet none (tokenizerTake s).wellhead.decoders u = tblGet none s.wellhead.decoders u ∧
    (tokenizerTake s).clock = s.clock ∧ (tokenizerTake s).mem = s.mem := by
  refine ⟨sampOf_tokenizerTake s, ?_⟩
  unfold tokenizerTake
  split
  · exact ⟨rfl, rfl, rfl⟩
  · split
    · rw [decoders_decoderSet, if_neg hu]
      exact ⟨rfl, rfl, rfl⟩
    · exact ⟨rfl, rfl, rfl⟩

/-! ## A sample is taken (R289, R305) -/

/-- The entries that wait. -/
def waitingEntries (n : Nat) (s : State) : Nat := (smpTail s n + 2 ^ 32 - (sampOf s n).head % 2 ^ 32) % 2 ^ 32

/-- The entries lost before the batch's first. -/
def lostEntries (n : Nat) (s : State) : Nat :=
  if (sampOf s n).batch = [] then waitingEntries n s - sampCfg s n 3 else 0

/-- The input entry at `head`. -/
def entryAt (n head : Nat) (s : State) : Bytes :=
  peek s (ownPhysical s (sampCfg s n 2) + 64 + 32 * (head % sampCfg s n 3)) 32

def entryAug (n : Nat) (b : Bytes) (s : State) : Bool := decide (sampCfg s n 1 = 0 ∧ sampCfg s n 0x0b = 2 ∧ fieldAt b 16 8 ≠ 0)

/-- The sample that an entry names. -/
def entrySample (n : Nat) (b : Bytes) (s : State) : Sample where
  index := BitVec.ofNat 32 (fieldAt b 12 4)
  src := fieldAt b 0 8
  bytes := fieldAt b 8 4
  params := fieldAt b 16 8
  aug := if entryAug n b s then peek s (ownPhysical s (fieldAt b 16 8)) 32 else []

/-- The checks that a sample of entry `b` fails (R291); `aug`: it brings an augmentation record. -/
def sampleBad (b : Bytes) (aug : Bool) (e : Sample) (s : State) : Bool :=
  decide (fieldAt b 24 8 ≠ 0) || decide (e.bytes = 0) || decide (16777216 < e.bytes) || !(inUsable s (ownPhysical s e.src) e.bytes) ||
    (aug && (!(inUsable s (ownPhysical s e.params) 32) || (parseAug e.aug).isNone))

def entryBad (n : Nat) (b : Bytes) (s : State) : Bool := sampleBad b (entryAug n b s) (entrySample n b s) s

/-- A sample joined to the batch. -/
def joinSample (n head : Nat) (e : Sample) (s : State) : State :=
  sampmod n (fun y => { y with head := head + 1, batch := y.batch ++ [e] }) s

theorem sampOf_joinSample (n head : Nat) (e : Sample) (m : Nat) : sampOf (joinSample n head e s) m =
    if m = n then { sampOf s n with head := head + 1, batch := (sampOf s n).batch ++ [e] } else sampOf s m := sampOf_sampmod s n m _

/-- A stream can take an entry. -/
def takesEntry (n : Nat) (s : State) : Prop :=
  (sampOf s n).running = true ∧ (sampOf s n).batch.length < sampCfg s n 9 ∧ 0 < waitingEntries n s ∧
    ringRoom s (smpRing s n) (sampCfg s n 0x0f) (sampOf s n).handed = true

theorem takeSample_none (n : Nat) (h : waitingEntries n s = 0) : takeSample n s = s := if_pos (.inr (.inr (.inl h)))

/-- An overrun counted. -/
def countLost (n : Nat) (s : State) : State := if lostEntries n s = 0 then s else count 0x7417 0x10 (lostEntries n s) s

theorem countLost_frame (n : Nat) : countLost n s = { s with counters := (countLost n s).counters } := by
  unfold countLost
  split <;> rfl

/-- An entry taken for a stream `x` of `entries` entries. -/
def takeEntry (n head entries : Nat) (x : SampleStream) (s : State) : State :=
  let b := peek s (ownPhysical s (sampCfg s n 2) + 64 + 32 * (head % entries)) 32
  let v := sampmod n (fun y => { y with head := head + 1, batch := y.batch ++ [entrySample n b s] }) s
  if sampleBad b (entryAug n b s) (entrySample n b s) v then rejectSample n x.batch.length 8 v else v

theorem takeSample_takes (n : Nat) (h : takesEntry n s) (head : Nat) (hhead : head = (sampOf s n).head + lostEntries n s) (b : Bytes)
    (hb : b = entryAt n head s) : takeSample n s =
      if entryBad n b s then rejectSample n (sampOf s n).batch.length 8 (joinSample n head (entrySample n b s) (countLost n s))
      else joinSample n head (entrySample n b s) (countLost n s) := by
  obtain ⟨hrun, hlen, hwait, hroom⟩ := h
  have hno : ¬((!(sampOf s n).running) = true ∨ sampCfg s n 9 ≤ (sampOf s n).batch.length ∨ waitingEntries n s = 0 ∨
      (!(ringRoom s (smpRing s n) (sampCfg s n 0x0f) (sampOf s n).handed)) = true) := by
    rw [hrun, hroom]
    rintro (h | h | h | h)
    · cases h
    · omega
    · omega
    · cases h
  have hbody : takeSample n s = takeEntry n head (sampCfg s n 3) (sampOf s n) (countLost n s) := by
    have hu : (if lostEntries n s = 0 then s else count 0x7417 0x10 (lostEntries n s) s) = countLost n s := rfl
    rw [hhead]
    unfold takeSample
    extract_lets x entries waiting skip head' u b params aug e i v bad
    have hu' : countLost n s = u := hu.symm
    have hhead' : (sampOf s n).head + lostEntries n s = head' := rfl
    rw [hu', hhead']
    have hno' : ¬((!x.running) = true ∨ sampCfg s n 9 ≤ x.batch.length ∨ waiting = 0 ∨
      (!(ringRoom s (smpRing s n) (sampCfg s n 0x0f) x.handed)) = true) := hno
    rw [if_neg hno']
    clear_value u head'
    rfl
  obtain ⟨c, hc⟩ : ∃ c, countLost n s = { s with counters := c } := ⟨_, countLost_frame s n⟩
  have hat : peek { s with counters := c } (ownPhysical { s with counters := c } (sampCfg { s with counters := c } n 2) + 64 +
      32 * (head % sampCfg s n 3)) 32 = b := hb.symm
  have hsample : entrySample n b { s with counters := c } = entrySample n b s := rfl
  have haug : entryAug n b { s with counters := c } = entryAug n b s := rfl
  have hbad : ∀ a e f, sampleBad b a e (sampmod n f { s with counters := c }) = sampleBad b a e s := fun _ _ _ => rfl
  have hbatch : (sampOf { s with counters := c } n).batch = (sampOf s n).batch := rfl
  rw [hbody, hc]
  unfold takeEntry joinSample entryBad
  simp only [hat, hsample, haug, hbad, hbatch]

theorem lostEntries_none (n : Nat) (h : waitingEntries n s ≤ sampCfg s n 3) : lostEntries n s = 0 := by
  unfold lostEntries
  split
  · exact Nat.sub_eq_zero_of_le h
  · rfl

theorem countLost_none (n : Nat) (h : lostEntries n s = 0) : countLost n s = s := if_pos h

theorem rejectSample_frame (n i r : Nat) : ∃ cs ws, rejectSample n i r s =
    { s with counters := cs, wellhead := { s.wellhead with streams := ws } } := by
  obtain ⟨c, hc⟩ : ∃ c, countReplaced r s = { s with counters := c } := by
    unfold countReplaced
    split <;> exact ⟨_, rfl⟩
  rw [rejectSample_counted, hc]
  exact ⟨_, _, rfl⟩

theorem sampOf_rejectSample_at (n i r m : Nat) (e : Sample) (h : (sampOf s n).batch[i]? = some e) :
    sampOf (rejectSample n i r s) m =
      if m = n then { sampOf s n with batch := (sampOf s n).batch.set i (replacedSample r (padData s n) e) } else sampOf s m := by
  have hquiet : ∀ m, sampOf (countReplaced r s) m = sampOf s m := fun m =>
    sampOf_of_wellhead (by rw [show countReplaced r s = _ from countReplaced_quiet s r]) m
  rw [rejectSample_counted, samplePut, sampOf_sampmod, hquiet, hquiet, h]
  rfl

/-- A sample that has just joined, replaced. -/
theorem rejectSample_joined (n head : Nat) (e : Sample) (r m : Nat) :
    sampOf (rejectSample n (sampOf s n).batch.length r (joinSample n head e s)) m = if m = n then
      { sampOf s n with head := head + 1, batch := (sampOf s n).batch ++ [replacedSample r (padData s n) e] } else sampOf s m := by
  have hlast : (sampOf (joinSample n head e s) n).batch[(sampOf s n).batch.length]? = some e := by
    rw [sampOf_joinSample, if_pos rfl]
    simp
  have hset : ((sampOf s n).batch ++ [e]).set (sampOf s n).batch.length (replacedSample r (padData s n) e) =
      (sampOf s n).batch ++ [replacedSample r (padData s n) e] := by simp
  rw [sampOf_rejectSample_at _ n _ r m e hlast, sampOf_joinSample, sampOf_joinSample, if_pos rfl]
  by_cases hm : m = n
  · rw [if_pos hm, if_pos hm, ← hset]
    rfl
  · rw [if_neg hm, if_neg hm, if_neg hm]

/-- The taken sample, replaced if a check fails it. -/
def takenSample (n : Nat) (b : Bytes) (s : State) : Sample :=
  if entryBad n b s then replacedSample 8 (padData s n) (entrySample n b s) else entrySample n b s

theorem takeSample_taken (n : Nat) (h : takesEntry n s) (hle : waitingEntries n s ≤ sampCfg s n 3) (b : Bytes)
    (hb : b = entryAt n (sampOf s n).head s) :
    (∃ cs ws, takeSample n s = { s with counters := cs, wellhead := { s.wellhead with streams := ws } }) ∧
      sampOf (takeSample n s) n =
        { sampOf s n with head := (sampOf s n).head + 1, batch := (sampOf s n).batch ++ [takenSample n b s] } ∧
      (∀ m, m ≠ n → sampOf (takeSample n s) m = sampOf s m) ∧
      (entryBad n b s = true → counter (takeSample n s) 0x7417 0x0a = counter s 0x7417 0x0a + 1) := by
  have hlost := lostEntries_none s n hle
  have heq := takeSample_takes s n h (sampOf s n).head (by rw [hlost]; rfl) b hb
  rw [countLost_none s n hlost] at heq
  unfold takenSample
  cases hbad : entryBad n b s with
  | false =>
    rw [hbad, if_neg Bool.false_ne_true] at heq
    rw [heq]
    exact ⟨⟨_, _, rfl⟩, by rw [sampOf_joinSample, if_pos rfl]; rfl, fun m hm => by rw [sampOf_joinSample, if_neg hm], nofun⟩
  | true =>
    rw [hbad, if_pos rfl] at heq
    rw [heq]
    obtain ⟨cs, ws, hframe⟩ := rejectSample_frame (joinSample n (sampOf s n).head (entrySample n b s) s) n (sampOf s n).batch.length 8
    refine ⟨⟨cs, ws, hframe⟩, by rw [rejectSample_joined, if_pos rfl]; rfl, fun m hm => by rw [rejectSample_joined, if_neg hm],
      fun _ => ?_⟩
    exact (countReplaced_counts (joinSample n (sampOf s n).head (entrySample n b s) s) 8).2 (by decide)

theorem takeSample_head (n : Nat) (h : takesEntry n s) :
    (sampOf (takeSample n s) n).head = (sampOf s n).head + lostEntries n s + 1 := by
  rw [takeSample_takes s n h _ rfl _ rfl]
  split
  · have hcount : sampOf (countLost n s) n = sampOf s n := by rw [countLost_frame]; rfl
    have hjoined := rejectSample_joined (countLost n s) n ((sampOf s n).head + lostEntries n s)
      (entrySample n (entryAt n ((sampOf s n).head + lostEntries n s) s) s) 8 n
    rw [hcount] at hjoined
    rw [hjoined, if_pos rfl]
  · rw [sampOf_joinSample, if_pos rfl]

/-! ## The tokenizer's next sample (R292) -/

theorem findSome?_of_only {α β : Type} (f : α → Option β) (a : α) (v : β) (h : f a = some v) :
    ∀ l : List α, a ∈ l → (∀ b ∈ l, b ≠ a → f b = none) → l.findSome? f = some v
  | b :: l, ha, hother => by
    by_cases hb : b = a
    · rw [List.findSome?_cons, hb, h]
    · rw [List.findSome?_cons, hother b (by simp) hb]
      exact findSome?_of_only f a v h l (by simpa [Ne.symm hb] using ha) fun c hc => hother c (by simp [hc])

/-- No decoder works. -/
def decodersIdle (s : State) : Prop := ∀ d, d < 5 → tblGet none s.wellhead.decoders d = none

/-- The first sample of a stream that is not settled. -/
def openSample (s : State) (text : Bool) (n : Nat) : Option (Nat × Nat) :=
  if (sampOf s n).running ∧ smpIsText s n = text then
    ((sampOf s n).batch.zipIdx.find? (fun e => !e.1.settled)).map (fun e => (n, e.2))
  else none

theorem nextSample_idle (text : Bool) (h : decodersIdle s) :
    nextSample s text = (List.range 16).findSome? (openSample s text) := by
  unfold nextSample openSample
  congr 1
  funext n
  split
  · congr 2
    funext e
    refine (congrArg (fun b => !e.1.settled && b) (List.all_eq_true.mpr fun d hd => ?_)).trans (Bool.and_true _)
    simp only [h d (List.mem_range.mp hd)]
  · rfl

theorem openSample_none (text : Bool) (n : Nat) (hrun : (sampOf s n).running = true) (htext : smpIsText s n = text)
    (h : openSample s text n = none) : ∀ e ∈ (sampOf s n).batch.zipIdx, e.1.settled = true := by
  rw [openSample, if_pos ⟨hrun, htext⟩, Option.map_eq_none_iff, List.find?_eq_none] at h
  intro e he
  simpa using h e he

/-- A sample that joins when none waits is the next. -/
theorem nextSample_joined (t : State) (n : Nat) (hn : n < 16) (e : Sample) (hrun : (sampOf s n).running = true) (htext : smpIsText s n = true)
    (hidle : decodersIdle s) (hnone : nextSample s true = none) (hdec : t.wellhead.decoders = s.wellhead.decoders)
    (hkind : ∀ m, smpIsText t m = smpIsText s m) (hrun' : (sampOf t n).running = true)
    (hjoin : (sampOf t n).batch = (sampOf s n).batch ++ [e]) (hother : ∀ m, m ≠ n → sampOf t m = sampOf s m) (he : e.settled = false) :
    nextSample t true = some (n, (sampOf s n).batch.length) := by
  have hidle' : decodersIdle t := fun d hd => by rw [hdec, hidle d hd]
  rw [nextSample_idle s true hidle, List.findSome?_eq_none_iff] at hnone
  rw [nextSample_idle t true hidle']
  refine findSome?_of_only _ n _ ?_ _ (List.mem_range.mpr hn) fun m hm hne => ?_
  · have hsettled := openSample_none s true n hrun htext (hnone n (List.mem_range.mpr hn))
    have hfind : (sampOf s n).batch.zipIdx.find? (fun e => !e.1.settled) = none := by
      rw [List.find?_eq_none]
      intro e he
      simp [hsettled e he]
    rw [openSample, if_pos ⟨hrun', (hkind n).trans htext⟩, hjoin, List.zipIdx_append, List.find?_append, hfind]
    simp [he]
  · have hopen := hnone m hm
    unfold openSample at hopen ⊢
    rw [hkind, hother m hne]
    exact hopen

theorem tokenizerTake_takes (n i : Nat) (hfree : tblGet none s.wellhead.decoders 4 = none) (hload : s.wellhead.loaded = true)
    (h : nextSample s true = some (n, i)) : tblGet none (tokenizerTake s).wellhead.decoders 4 = some ⟨n, i, now s⟩ := by
  have heq : tokenizerTake s = decoderSet 4 (some ⟨n, i, now s⟩) s := by
    unfold tokenizerTake
    rw [if_neg (by rw [hfree, hload]; simp), h]
  rw [heq, decoders_decoderSet, if_pos rfl]

/-- An entry brings an augmentation record. -/
def bringsAug (n : Nat) (b : Bytes) (s : State) : Prop := sampCfg s n 1 = 0 ∧ sampCfg s n 0x0b = 2 ∧ fieldAt b 16 8 ≠ 0

/-- An entry fails a check. -/
def failsCheck (n : Nat) (b : Bytes) (e : Sample) (s : State) : Prop :=
  fieldAt b 24 8 ≠ 0 ∨ e.bytes = 0 ∨ 16777216 < e.bytes ∨ inUsable s (ownPhysical s e.src) e.bytes = false ∨
    (bringsAug n b s ∧ (inUsable s (ownPhysical s e.params) 32 = false ∨ parseAug e.aug = none))

theorem entryBad_iff (n : Nat) (b : Bytes) : entryBad n b s = true ↔ failsCheck n b (entrySample n b s) s := by
  unfold entryBad sampleBad entryAug failsCheck bringsAug
  simp only [Bool.or_eq_true, Bool.and_eq_true, decide_eq_true_eq, Bool.not_eq_true', Option.isNone_iff_eq_none, or_assoc]

theorem sampleTaken_takes (n : Fin 16) (hw : wellheadReset s = false) (hrun : (sampOf s n.val).running = true)
    (hlen : (sampOf s n.val).batch.length < sampCfg s n.val 9)
    (hroom : ringRoom s (smpRing s n.val) (sampCfg s n.val 0x0f) (sampOf s n.val).handed = true) (b : Bytes)
    (hb : b = entryAt n.val (sampOf s n.val).head s) :
    (waitingEntries n.val s = 0 → exec (.sampleTaken n) s = .next (tokenizerTake s)) ∧
    (0 < waitingEntries n.val s → waitingEntries n.val s ≤ sampCfg s n.val 3 → ∃ t e', exec (.sampleTaken n) s = .next t ∧
      t = { s with counters := t.counters, wellhead := { s.wellhead with streams := t.wellhead.streams, decoders := t.wellhead.decoders } } ∧
      sampOf t n.val = { sampOf s n.val with head := (sampOf s n.val).head + 1, batch := (sampOf s n.val).batch ++ [e'] } ∧
      (∀ m, m ≠ n.val → sampOf t m = sampOf s m) ∧
      (¬failsCheck n.val b (entrySample n.val b s) s → e' = entrySample n.val b s ∧
        (smpIsText s n.val = true → s.wellhead.loaded = true → nextSample s true = none → decodersIdle s →
          tblGet none t.wellhead.decoders 4 = some ⟨n.val, (sampOf s n.val).batch.length, now s⟩)) ∧
      (failsCheck n.val b (entrySample n.val b s) s → e' = replacedSample 8 (padData s n.val) (entrySample n.val b s) ∧
        counter t 0x7417 0x0a = counter s 0x7417 0x0a + 1)) ∧
    (sampCfg s n.val 3 < waitingEntries n.val s → ∃ t, exec (.sampleTaken n) s = .next t ∧ (sampOf t n.val).head =
      (sampOf s n.val).head + 1 + (if (sampOf s n.val).batch = [] then waitingEntries n.val s - sampCfg s n.val 3 else 0)) := by
  have hexec : exec (.sampleTaken n) s = .next (tokenizerTake (takeSample n.val s)) := by
    show execSampleTaken n s = _
    unfold execSampleTaken
    rw [if_neg (by rw [hw]; nofun)]
  refine ⟨fun h => by rw [hexec, takeSample_none s n.val h], fun hpos hle => ?_, fun hlt => ⟨_, hexec, ?_⟩⟩
  · obtain ⟨⟨cs, ws, hframe⟩, hsamp, hother, hcount⟩ := takeSample_taken s n.val ⟨hrun, hlen, hpos, hroom⟩ hle b hb
    obtain ⟨ds, htake, -⟩ := tokenizerTake_eq (takeSample n.val s)
    refine ⟨_, takenSample n.val b s, hexec, by rw [htake, hframe]; rfl, (sampOf_tokenizerTake _ _).trans hsamp,
      fun m hm => (sampOf_tokenizerTake _ _).trans (hother m hm), fun hgood => ?_, fun hbad => ?_⟩
    · have htaken : takenSample n.val b s = entrySample n.val b s := if_neg fun h => hgood ((entryBad_iff s n.val b).mp h)
      rw [htaken] at hsamp ⊢
      refine ⟨rfl, fun htext hload hnone hidle => ?_⟩
      have hnext := nextSample_joined s (takeSample n.val s) n.val n.isLt (entrySample n.val b s) hrun htext hidle hnone
        (by rw [hframe]) (fun m => by rw [hframe]; rfl) (by rw [hsamp]; exact hrun) (by rw [hsamp]) hother rfl
      have hnow : now (takeSample n.val s) = now s := by rw [hframe]; rfl
      rw [← hnow]
      exact tokenizerTake_takes _ _ _ (by rw [hframe]; exact hidle 4 (by decide)) (by rw [hframe]; exact hload) hnext
    · have hbad' := (entryBad_iff s n.val b).mpr hbad
      refine ⟨if_pos hbad', ?_⟩
      have hcounter : (tokenizerTake (takeSample n.val s)).counters = (takeSample n.val s).counters := by rw [htake]; rfl
      rw [counter, hcounter]
      exact hcount hbad'
  · rw [sampOf_tokenizerTake, takeSample_head s n.val ⟨hrun, hlen, by omega, hroom⟩, lostEntries]
    omega

/-! ## Decoding -/

theorem decodeStart_decodes (d : Fin 4) (at_ n i : Nat) (e : Sample) (hw : wellheadReset s = false)
    (hfree : tblGet none s.wellhead.decoders d.val = none) (hnext : nextSample s false = some (n, i))
    (he : (sampOf s n).batch[i]? = some e) :
    (∀ p, jpegChecks (sampleSrc s e) = .inr p → exec (.decodeStart d at_) s =
      .next (decoderSet d.val (some ⟨n, i, now (clockTo at_ s)⟩) (clockTo at_ s))) ∧
    (∀ r, jpegChecks (sampleSrc s e) = .inl r → ∃ t, exec (.decodeStart d at_) s = .next t ∧
      (sampOf t n).batch[i]? = some (replacedSample r (padData s n) e) ∧
      counter t 0x7417 2 = counter s 0x7417 2 + 1 ∧ t.mem = s.mem) := by
  obtain ⟨c, hc⟩ : ∃ c, clockTo at_ s = { s with clock := c } := ⟨_, clockTo_eq at_ s⟩
  have hnext' : nextSample { s with clock := c } false = some (n, i) := hnext
  have he' : (sampOf { s with clock := c } n).batch[i]? = some e := he
  have hno : ¬((wellheadReset { s with clock := c } = true) ∨ tblGet none s.wellhead.decoders d.val ≠ none) := by
    rintro (h | h)
    · exact absurd (hw.symm.trans h) Bool.false_ne_true
    · exact h hfree
  refine ⟨fun p hp => ?_, fun r hr => ?_⟩
  · have hp' : jpegChecks (sampleSrc { s with clock := c } e) = .inr p := hp
    show execDecodeStart d at_ s = _
    unfold execDecodeStart
    rw [hc, if_neg hno]
    simp only [hnext', he', hp']
  · have hr' : jpegChecks (sampleSrc { s with clock := c } e) = .inl r := hr
    have hexec : exec (.decodeStart d at_) s = .next (rejectSample n i r { s with clock := c }) := by
      show execDecodeStart d at_ s = _
      unfold execDecodeStart
      rw [hc, if_neg hno]
      simp only [hnext', he', hr']
    have hstep := rejectSample_step { s with clock := c } n i r e he
    exact ⟨_, hexec, hstep.sample, (countReplaced_counts { s with clock := c } r).1, hstep.mem⟩

/-- A unit ends sample `i` of stream `n` as `e'`. -/
def UnitEnds (u : Nat) (n i at_ : Nat) (c : Instr) (e' : Sample) (s : State) : Prop :=
  ∃ t, exec c s = .next t ∧ (sampOf t n).batch[i]? = some e' ∧ (u ≠ 4 → tblGet none t.wellhead.decoders u = none) ∧
    t.clock = (clockTo at_ s).clock ∧ t.mem = s.mem

/-- The unit free again, at the instant. -/
def unitFreed (u at_ : Nat) (s : State) : State := decoderSet u none (clockTo at_ s)

theorem unitFreed_frame (u at_ : Nat) :
    ∃ c ds, unitFreed u at_ s = { s with clock := c, wellhead := { s.wellhead with decoders := ds } } ∧
    c = (clockTo at_ s).clock := by
  obtain ⟨c, hc⟩ : ∃ c, clockTo at_ s = { s with clock := c } := ⟨_, clockTo_eq at_ s⟩
  rw [unitFreed, hc]
  exact ⟨_, _, rfl, rfl⟩

theorem UnitEnds.of_step {u n i at_ : Nat} {c : Instr} {e' : Sample} {s t : State} (h : SampleStep n i e' (unitFreed u at_ s) t)
    (hexec : exec c s = .next (tokenizerTake t) ∨ exec c s = .next t) : UnitEnds u n i at_ c e' s := by
  obtain ⟨hsample, hdec, hclock, hmem⟩ := h
  obtain ⟨ck, ds, hframe, hck⟩ := unitFreed_frame s u at_
  have hfree : tblGet none t.wellhead.decoders u = none := by
    rw [hdec, unitFreed, decoders_decoderSet, if_pos rfl]
  have hclock' : t.clock = (clockTo at_ s).clock := by rw [hclock, hframe, hck]
  have hmem' : t.mem = s.mem := by rw [hmem, hframe]
  rcases hexec with hexec | hexec
  · obtain ⟨ds, htake, -⟩ := tokenizerTake_eq t
    refine ⟨_, hexec, by rw [sampOf_tokenizerTake]; exact hsample, fun hu => ?_, ?_, ?_⟩
    · rw [(tokenizerTake_keeps t u hu).2.1, hfree]
    · rw [htake]
      exact hclock'
    · rw [htake]
      exact hmem'
  · exact ⟨_, hexec, hsample, fun _ => hfree, hclock', hmem'⟩

section

variable (u : Fin 5) (at_ : Nat) (d : Decoder) (e : Sample)

/-- The time of a sample is spent. -/
def sampleLate (s : State) (at_ : Nat) (d : Decoder) : Prop := smpBudget s d.stream < now (clockTo at_ s) - d.since

theorem now_unitFreed : now (unitFreed u.val at_ s) = now (clockTo at_ s) := rfl

theorem sampOf_unitFreed (n : Nat) : sampOf (unitFreed u.val at_ s) n = sampOf s n := by
  obtain ⟨c, ds, hframe, -⟩ := unitFreed_frame s u.val at_
  rw [hframe]
  rfl

theorem sampleLate_freed :
    (smpBudget (unitFreed u.val at_ s) d.stream < now (unitFreed u.val at_ s) - d.since) ↔ sampleLate s at_ d := by
  obtain ⟨c, ds, hframe, rfl⟩ := unitFreed_frame s u.val at_
  have hbudget : smpBudget (unitFreed u.val at_ s) d.stream = smpBudget s d.stream := by
    rw [hframe]
    rfl
  rw [hbudget]
  exact Iff.rfl

theorem smpBudget_clockTo (n : Nat) : smpBudget (clockTo at_ s) n = smpBudget s n := by
  rw [clockTo_eq]
  rfl

theorem padData_unitFreed (n : Nat) : padData (unitFreed u.val at_ s) n = padData s n := by
  obtain ⟨c, ds, hframe, -⟩ := unitFreed_frame s u.val at_
  rw [hframe]
  rfl

theorem wellheadReset_clockTo : wellheadReset (clockTo at_ s) = wellheadReset s := by
  rw [clockTo_eq]
  rfl

theorem overBudget_ends (hw : wellheadReset s = false) (hd : unitWork (clockTo at_ s) u.val = some d)
    (he : (sampOf s d.stream).batch[d.sample]? = some e) :
    (sampleLate s at_ d → UnitEnds u.val d.stream d.sample at_ (.overBudget u at_) (replacedSample 6 (padData s d.stream) e) s) ∧
      (¬sampleLate s at_ d → exec (.overBudget u at_) s = .next (clockTo at_ s)) := by
  have hexec : exec (.overBudget u at_) s = if smpBudget (clockTo at_ s) d.stream < now (clockTo at_ s) - d.since then
      .next (tokenizerTake (rejectSample d.stream d.sample 6 (unitFreed u.val at_ s))) else .next (clockTo at_ s) := by
    show execOverBudget u at_ s = _
    unfold execOverBudget unitFreed
    rw [if_neg (by rw [wellheadReset_clockTo, hw]; nofun)]
    simp only [hd]
  rw [smpBudget_clockTo] at hexec
  refine ⟨fun hlate => ?_, fun hlate => hexec.trans (if_neg hlate)⟩
  rw [← padData_unitFreed s u at_]
  exact .of_step (rejectSample_step _ d.stream d.sample 6 e (by rw [sampOf_unitFreed]; exact he)) (.inl (hexec.trans (if_pos hlate)))

theorem decodeDone_runs (hw : wellheadReset s = false) (hd : unitWork (clockTo at_ s) u.val = some d)
    (he : (sampOf s d.stream).batch[d.sample]? = some e) :
    (sampleLate s at_ d → exec (.decodeDone u at_) s =
      .next (tokenizerTake (rejectSample d.stream d.sample 6 (unitFreed u.val at_ s)))) ∧
    (¬sampleLate s at_ d → u.val = 4 → exec (.decodeDone u at_) s =
      .next (tokenizerTake (finishText d.stream d.sample e (unitFreed u.val at_ s)))) ∧
    (¬sampleLate s at_ d → u.val ≠ 4 → exec (.decodeDone u at_) s =
      .next (finishImage d.stream d.sample e (unitFreed u.val at_ s))) := by
  have he' : (sampOf (unitFreed u.val at_ s) d.stream).batch[d.sample]? = some e := by rw [sampOf_unitFreed]; exact he
  have hlate := sampleLate_freed s u at_ d
  have hexec : exec (.decodeDone u at_) s =
      if smpBudget (unitFreed u.val at_ s) d.stream < now (unitFreed u.val at_ s) - d.since then
        .next (tokenizerTake (rejectSample d.stream d.sample 6 (unitFreed u.val at_ s)))
      else if u.val = 4 then .next (tokenizerTake (finishText d.stream d.sample e (unitFreed u.val at_ s)))
      else .next (finishImage d.stream d.sample e (unitFreed u.val at_ s)) := by
    show execDecodeDone u at_ s = _
    unfold execDecodeDone
    unfold unitFreed at he' ⊢
    rw [if_neg (by rw [wellheadReset_clockTo, hw]; nofun)]
    simp only [hd, he']
  refine ⟨fun h => ?_, fun h hu => ?_, fun h hu => ?_⟩
  · rw [hexec, if_pos (hlate.mpr h)]
  · rw [hexec, if_neg (mt hlate.mp h), if_pos hu]
  · rw [hexec, if_neg (mt hlate.mp h), if_neg hu]

theorem sampleSrc_unitFreed (e : Sample) : sampleSrc (unitFreed u.val at_ s) e = sampleSrc s e := by
  obtain ⟨c, ds, hframe, -⟩ := unitFreed_frame s u.val at_
  rw [hframe]
  rfl

theorem imageSample_unitFreed (n : Nat) (h : JHead) (bs : List JBlock) (e : Sample) :
    imageSample n (unitFreed u.val at_ s) h bs e = imageSample n s h bs e := by
  obtain ⟨c, ds, hframe, -⟩ := unitFreed_frame s u.val at_
  rw [hframe]
  rfl

theorem textSample_unitFreed (n : Nat) (e : Sample) : textSample n (unitFreed u.val at_ s) e = textSample n s e := by
  obtain ⟨c, ds, hframe, -⟩ := unitFreed_frame s u.val at_
  rw [hframe]
  rfl

theorem textLen_small (k v : Nat) (h : k < 65536) : textLen k v = k := if_pos h

theorem decodeDone_ends (hw : wellheadReset s = false) (hd : unitWork (clockTo at_ s) u.val = some d)
    (he : (sampOf s d.stream).batch[d.sample]? = some e) :
    (sampleLate s at_ d → UnitEnds u.val d.stream d.sample at_ (.decodeDone u at_) (replacedSample 6 (padData s d.stream) e) s) ∧
    (¬sampleLate s at_ d → u.val = 4 → UnitEnds u.val d.stream d.sample at_ (.decodeDone u at_) (textSample d.stream s e) s) ∧
    (¬sampleLate s at_ d → u.val ≠ 4 → ∀ h sos rest, jpegChecks (sampleSrc s e) = .inr (h, sos, rest) →
      (∀ bs, readScans (rest.length + 1) h sos rest [] = some bs →
        UnitEnds u.val d.stream d.sample at_ (.decodeDone u at_) (imageSample d.stream s h bs e) s) ∧
      (readScans (rest.length + 1) h sos rest [] = none →
        UnitEnds u.val d.stream d.sample at_ (.decodeDone u at_) (replacedSample 5 (padData s d.stream) e) s)) := by
  obtain ⟨hlate, htext, himage⟩ := decodeDone_runs s u at_ d e hw hd he
  have he' : (sampOf (unitFreed u.val at_ s) d.stream).batch[d.sample]? = some e := by rw [sampOf_unitFreed]; exact he
  refine ⟨fun h => ?_, fun h hu => ?_, fun h hu hd sos rest hj => ?_⟩
  · rw [← padData_unitFreed s u at_]
    exact .of_step (rejectSample_step _ d.stream d.sample 6 e he') (.inl (hlate h))
  · rw [← textSample_unitFreed s u at_]
    exact .of_step (finishText_step _ d.stream d.sample e he') (.inl (htext h hu))
  · rw [← sampleSrc_unitFreed s u at_] at hj
    obtain ⟨hsome, hnone⟩ := finishImage_step _ d.stream d.sample e he' hd sos rest hj
    refine ⟨fun bs hbs => ?_, fun hbs => ?_⟩
    · rw [← imageSample_unitFreed s u at_]
      exact .of_step (hsome bs hbs) (.inr (himage h hu))
    · rw [← padData_unitFreed s u at_]
      exact .of_step (hnone hbs) (.inr (himage h hu))

end

/-! ## The batch handed over (R304) -/

theorem memRead_congr {m m' : Memory} {a k : Nat} (h : ∀ i, i < k → memByte m (a + i) = memByte m' (a + i)) :
    memRead m a k = memRead m' a k :=
  List.map_congr_left fun i hi => h i (List.mem_range.mp hi)

theorem batchHandover_hands (y : Fin 48) (hw : wellheadReset s = false) (hy : 32 ≤ y.val) (n : Nat) (hn : n = y.val - 32)
    (hwhole : batchWhole s n) (sl : Bytes) (hsl : sl = sampleSlot s n ((sampOf s n).handed + 1) (sampOf s n).batch) :
    ∃ t, exec (.batchHandover y) s = .next t ∧ sampOf t n = { sampOf s n with handed := (sampOf s n).handed + 1, batch := [] } ∧
      peekNat t (smpRing s n) 4 = ((sampOf s n).handed + 1).toNat ∧
      peek t (smpRing s n + 128 + sampSlotBytes s n * ((sampOf s n).handed.toNat % sampCfg s n 0x0f)) sl.length = sl ∧
      (eventWaiters s none (sampCfg s n 0x10) = [] → ⟨sampCfg s n 0x10, none⟩ ∈ t.raised) := by
  have hexec : exec (.batchHandover y) s = .next (handBatch n s) := by
    show execBatchHandover y s = _
    unfold execBatchHandover
    rw [if_neg (by rw [hw]; nofun), if_neg (by omega), ← hn, sampleHandover_whole s n hwhole]
  let a := smpRing s n + 128 + sampSlotBytes s n * ((sampOf s n).handed.toNat % sampCfg s n 0x0f)
  let v := sampmod n (fun x => { x with handed := (sampOf s n).handed + 1, batch := [] }) (pokeCistern a sl s)
  have heq : handBatch n s = handOver (smpRing s n) ((sampOf s n).handed + 1) (sampCfg s n 0x10) v := by
    rw [handBatch, sampleSlotAt, ← hsl]
  have hsamp : sampOf v n = { sampOf s n with handed := (sampOf s n).handed + 1, batch := [] } := by
    rw [sampOf_sampmod, if_pos rfl, sampOf_of_wellhead (pokeCistern_wellhead s a sl)]
  have hmem : v.mem = memWrite s.mem a sl := by
    show (pokeCistern a sl s).mem = _
    rw [pokeCistern_eq]
  have htiles : v.tiles = s.tiles := by
    show (pokeCistern a sl s).tiles = _
    rw [pokeCistern_eq]
  have hat : smpRing s n + 4 ≤ a := by
    show smpRing s n + 4 ≤ smpRing s n + 128 + _
    omega
  rw [heq] at hexec
  clear_value v
  obtain ⟨hpeek, hwell, hbyte, -, hraised⟩ := handOver_hands v (smpRing s n) ((sampOf s n).handed + 1) (sampCfg s n 0x10)
  refine ⟨_, hexec, (sampOf_of_wellhead hwell n).trans hsamp, hpeek, ?_, fun hwait => hraised ?_⟩
  · have hread := memRead_write s.mem a sl
    rw [← hmem] at hread
    refine (memRead_congr (fun i _ => ?_)).trans hread
    exact hbyte _ (by omega)
  · rw [eventWaiters, htiles, ← eventWaiters, hwait]

end

theorem entrySample_eq (s : State) (n : Nat) (b : Bytes) : entrySample n b s = ({
    index := BitVec.ofNat 32 (fieldAt b 12 4), src := fieldAt b 0 8, bytes := fieldAt b 8 4, params := fieldAt b 16 8
    aug := if sampCfg s n 1 = 0 ∧ sampCfg s n 0x0b = 2 ∧ fieldAt b 16 8 ≠ 0 then peek s (ownPhysical s (fieldAt b 16 8)) 32 else [] } : Sample) := by
  unfold entrySample entryAug
  simp only [decide_eq_true_eq]

/-- Settles O48: a sample is followed from its entry through its unit to the hand-over of its batch. -/
theorem sampleBatches : Obligations.SampleBatches := by
  unfold Obligations.SampleBatches
  refine ⟨fun s n hw => ?_, fun s d at_ n i e => decodeStart_decodes s d at_ n i e, fun s u at_ d e hw hd he => ?_, fun s y hw hy => ?_⟩
  · intro x waiting entries b aug e bad hrun hlen hroom
    have htakes := sampleTaken_takes s n hw hrun hlen hroom b rfl
    rw [entrySample_eq] at htakes
    exact htakes
  · obtain ⟨hlate, hsoon⟩ := overBudget_ends s u at_ d e hw hd he
    obtain ⟨hspent, htext, himage⟩ := decodeDone_ends s u at_ d e hw hd he
    refine ⟨hlate, hsoon, hspent, fun h hu => ⟨_, fun hk => ?_, htext h hu⟩, himage⟩
    exact textLen_small _ _ hk
  · intro n x r sl hrun hlen hset
    exact batchHandover_hands s y hw hy n rfl ⟨hrun, hlen, List.all_eq_true.mpr hset⟩ sl rfl

end Sys2Proof.Machine

end

section
/-!
PROOF. What faults, failed attempts and fences leave: event bits that stand, counters that no end of a job counts.
-/

namespace Sys2Proof.Machine

open Claims

/-! ## What the work on channels and fences can change -/

/-- As `Releases`, but that fences that return are counted. -/
def ChannelWork (s t : State) : Prop :=
  t = { s with
    out := t.out, fabric := t.fabric, channels := t.channels, counters := t.counters
    sluice := { s.sluice with dying := t.sluice.dying, nextDying := t.sluice.nextDying }
    raised := t.raised, tiles := t.tiles, clusters := t.clusters, reserve := t.reserve
    streams := { s.streams with export_ := t.streams.export_ }
    pages := { s.pages with entries := t.pages.entries, ended := t.pages.ended }
    dir := { s.dir with tensors := t.dir.tensors, old := t.dir.old, poison := t.dir.poison }, mem := t.mem
    power := { s.power with prearm := t.power.prearm, overJobs := t.power.overJobs } }

namespace ChannelWork

variable {s t u : State}

theorem refl (s : State) : ChannelWork s s := rfl

theorem trans (h : ChannelWork s t) (k : ChannelWork t u) : ChannelWork s u := by
  unfold ChannelWork at *
  rw [k, h]

theorem of_releases (h : Releases s t) : ChannelWork s t := h.eq

theorem forEach {α : Type} (l : List α) (f : α → State → State) (h : ∀ a u, ChannelWork u (f a u)) (s : State) :
    ChannelWork s (forEach l f s) := forEach_rel ChannelWork refl (fun _ _ _ h k => h.trans k) f l (fun a _ u => h a u) s

theorem ite {c : Prop} [Decidable c] (h : ChannelWork s t) (k : ChannelWork s u) : ChannelWork s (if c then t else u) := by
  split
  · exact h
  · exact k

theorem events (h : ChannelWork s t) : t.events = s.events := by rw [h]

theorem jobs (h : ChannelWork s t) : t.sluice.jobs = s.sluice.jobs := by rw [h]

end ChannelWork

section

variable (s : State)

theorem chanmod_work (c : Nat) (f : Channel → Channel) : ChannelWork s (chanmod c f s) := rfl

theorem tmod_work (x : Nat) (f : Tile → Tile) : ChannelWork s (tmod x f s) := rfl

theorem countFence_work (i j n : Nat) : ChannelWork s (count i j n s) := rfl

theorem fenceTargets_work (ch : Nat) : ChannelWork s (fenceTargets ch s) := .of_releases (fenceTargets_releases s ch)

theorem settleDying_work : ChannelWork s (settleDying s) := by
  unfold settleDying
  extract_lets gone ids
  exact .ite (.refl s) (.trans (.trans (.trans (t := { s with
    sluice := { s.sluice with dying := s.sluice.dying.filter (fun d => !(decide (d.running = []) && decide (d.waits = []))) }
    reserve := s.reserve.filter (fun e => e.2.dead.isNone || e.2.dead ∉ ids) }) rfl (.of_releases (reapHomes_releases _)))
    (.of_releases (endReserved_releases _ _))) (.of_releases (reclaim_releases _)))

theorem dyingFence_work (ch t : Nat) : ChannelWork s (dyingFence ch t s) := by
  unfold dyingFence
  extract_lets n
  exact .ite (.refl s) (.trans (.trans (t := { s with sluice := { s.sluice with
    dying := s.sluice.dying.map (fun d => { d with waits := d.waits.filter (fun w => w ≠ (ch, t)) }) } }) rfl (countFence_work _ _ _ _))
    (settleDying_work _))

theorem startNext_work (ch : Nat) : ChannelWork s (startNext s ch) := by
  unfold startNext
  split
  · exact chanmod_work ..
  · exact (chanmod_work ..).trans (.ite (.of_releases (beginFence_releases ..)) (.refl _))

theorem dyingStopped_work (id ch : Nat) : ChannelWork s (dyingStopped id ch s) := by
  unfold dyingStopped
  exact (fenceTargets_work s ch).trans (.trans (t := dyingMod id (fun d => { d with
    running := d.running.filter (· ≠ ch), waits := d.waits ++ (chanOf (fenceTargets ch s) ch).fencing.map (fun t => (ch, t)) })
      (fenceTargets ch s)) rfl (settleDying_work _))

theorem fenceWhenDone_work (ch : Nat) (tag : Option (BitVec 32)) : ChannelWork s (fenceWhenDone ch tag s) := by
  unfold fenceWhenDone
  split
  · exact .ite (fenceTargets_work s ch) (.refl s)
  · exact .refl s

theorem settledFence_work (ch t : Nat) : ChannelWork s
    (count 0x741b 0x0a 1 (tmod t (fun tl => { foldFence (ch % 8) tl with wait := none, pc := tl.pc + 1 }) s)) := rfl

theorem settleFences_work (ch : Nat) : ChannelWork s (settleFences ch s) := by
  unfold settleFences
  refine .ite (.refl s) ?_
  extract_lets ready s₁
  have h₁ : ChannelWork s s₁ := .ite (.refl s) (fenceTargets_work s ch)
  exact .ite (.refl s) (.ite (h₁.trans (.forEach _ _ (fun t u => settledFence_work u ch t) s₁)) h₁)

theorem headDone_work (ch : Nat) (p : Posted) : ChannelWork s (headDone ch p s) := by
  unfold headDone
  extract_lets s₁ s₂
  have h₁ : ChannelWork s s₁ := (chanmod_work ..).trans (startNext_work _ ch)
  have h₂ : ChannelWork s₁ s₂ := by
    simp only [s₂]
    split
    · exact dyingStopped_work ..
    · exact fenceWhenDone_work ..
  exact h₁.trans (h₂.trans (settleFences_work s₂ ch))

theorem dropFence_work (t ch : Nat) : ChannelWork s (dropFence t ch s) := by
  unfold dropFence
  extract_lets s₁
  have h₁ : ChannelWork s s₁ := (chanmod_work ..).trans (dyingFence_work _ ch t)
  split
  · exact .ite (h₁.trans (headDone_work ..)) h₁
  · exact h₁

theorem dropFences_work (chs : List Nat) (t : Nat) : ChannelWork s (dropFences chs t s) :=
  .forEach _ _ (fun ch u => dropFence_work u t ch) s

end

/-! ## Event bits that stand -/

theorem EventsStand.ite {s t u : State} {c : Prop} [Decidable c] (h : EventsStand s t) (k : EventsStand s u) :
    EventsStand s (if c then t else u) := by
  split
  · exact h
  · exact k

theorem EventsStand.of_releases {s t : State} (h : Releases s t) :
    EventsStand s t := .of_events (ChannelWork.of_releases h).events

section

variable (s : State)

theorem setEvent_stand (n : Nat) : EventsStand s (setEvent n s) := fun m h => setEvent_getLsbD s n m h

theorem takeStaging_frame (g : BitVec 32) : ∃ l, takeStaging g s = { s with sluice := { s.sluice with jobs := l } } := by
  unfold takeStaging
  split
  · exact ⟨_, rfl⟩
  · extract_lets outs
    split
    · exact ⟨_, rfl⟩
    · split
      · exact ⟨_, rfl⟩
      · exact ⟨_, rfl⟩

theorem endAttempt_work (j : Job) :
    ∃ t l, ChannelWork s t ∧ endAttempt j s = { t with sluice := { t.sluice with jobs := l } } := by
  unfold endAttempt
  extract_lets s₁ s₂ s₃
  have h₁ : ChannelWork s s₁ := .of_releases ((stopTasks_releases s j).trans (dropPrearm_releases _ _))
  have h₂ : ChannelWork s₁ s₂ := by
    simp only [s₂]
    split
    · exact .ite (.of_releases (restoreRollback_releases ..)) (.refl s₁)
    · exact .refl s₁
  have h₃ : ChannelWork s s₃ := h₁.trans (h₂.trans (.of_releases ((wipeExport_releases s₂ _).trans (buryAttempt_releases _ j none []))))
  split
  · exact ⟨s₃, s₃.sluice.jobs, h₃, rfl⟩
  · obtain ⟨l, hl⟩ := takeStaging_frame (jmod j.tag (fun j => { j with staging := [] }) s₃) j.tag
    exact ⟨s₃, l, h₃, hl⟩

theorem endAttempt_events (j : Job) : (endAttempt j s).events = s.events := by
  obtain ⟨t, l, ht, heq⟩ := endAttempt_work s j
  rw [heq]
  exact ht.events

theorem failAttempt_stand (g : BitVec 32) : EventsStand s (failAttempt g s) := by
  unfold failAttempt
  split
  · exact .refl s
  · exact .ite (.refl s) (.ite (finishJob_stand s _ _) (.of_events (endAttempt_events s _)))

end

/-! ## Counters aside -/

/-- Counters that neither the end of a job, nor an entry to safe state, nor a notify frame counts: `n` is no completion of a client
of none of the objects of the Sluice, the streams, the island and the sessions, and no change of path. -/
def unitKey (n : Nat) : Prop := n % 256 ∉ [4, 5] ∧ n / 256 ∉ [0x7410, 0x7411, 0x7412, 0x741d, 0x741e] ∧ n ≠ 0x741503

/-- A step that counts none of them. -/
def KeepsCounters (s t : State) : Prop := ∀ n, unitKey n → tblGet 0 t.counters n = tblGet 0 s.counters n

namespace KeepsCounters

variable {s t u : State}

theorem refl (s : State) : KeepsCounters s s := fun _ _ => rfl

theorem trans (h : KeepsCounters s t) (k : KeepsCounters t u) : KeepsCounters s u := fun n hn => (k n hn).trans (h n hn)

theorem of_counters (h : t.counters = s.counters) : KeepsCounters s t := fun _ _ => by rw [h]

theorem of_but {l : List Nat} (h : CountersBut l s t) (hl : ∀ n ∈ l, n / 256 ∈ [0x7410, 0x7411, 0x7412, 0x741d, 0x741e]) :
    KeepsCounters s t := fun n hn => h n fun hmem => hn.2.1 (hl n hmem)

theorem forEach {α : Type} (l : List α) (f : α → State → State) (h : ∀ a u, KeepsCounters u (f a u)) (s : State) :
    KeepsCounters s (forEach l f s) := forEach_rel KeepsCounters refl (fun _ _ _ h k => h.trans k) f l (fun a _ u => h a u) s

theorem ite {c : Prop} [Decidable c] (h : KeepsCounters s t) (k : KeepsCounters s u) : KeepsCounters s (if c then t else u) := by
  split
  · exact h
  · exact k

theorem of_releases (h : Releases s t) : KeepsCounters s t := .of_but h.counters (by decide)

theorem counter (h : KeepsCounters s t) (i j : Nat) (hk : unitKey (objKey i j)) : counter t i j = counter s i j := h _ hk

end KeepsCounters

section

variable (s : State)

theorem countObject_keeps (i j n : Nat) (h : i ∈ [0x7410, 0x7411, 0x7412, 0x741d, 0x741e]) (hj : j < 256) :
    KeepsCounters s (count i j n s) :=
  .of_but (countersBut_count s i j n [objKey i j] (by simp)) fun k hk => by
    rw [List.mem_singleton.mp hk, show objKey i j / 256 = i by unfold objKey; omega]
    exact h

theorem countEnd_keeps (i j n : Nat) (h : j ∈ [4, 5]) : KeepsCounters s (count i j n s) := fun k hk => by
  refine (tblGet_set ..).trans (if_neg fun hkey => hk.1 ?_)
  rw [hkey, objKey]
  simp only [List.mem_cons, List.not_mem_nil, or_false] at h ⊢
  omega

theorem countCompletion_keeps (j : Job) (st : BitVec 8) : KeepsCounters s (countCompletion j st s) := by
  unfold countCompletion
  extract_lets c s₁ s₂
  have h₁ : KeepsCounters s s₁ := countObject_keeps s _ _ _ (by decide) (by decide)
  have h₂ : KeepsCounters s₁ s₂ := countEnd_keeps s₁ _ _ _ (by decide)
  refine .ite (h₁.trans (.trans (countEnd_keeps s₁ (0x7000 + c) 4 1 (by decide)) (.trans (countObject_keeps _ 0x7410 1 _ (by decide) (by decide))
    (countObject_keeps _ 0x7410 2 1 (by decide) (by decide))))) ?_
  exact .ite (h₁.trans (h₂.trans (countObject_keeps s₂ _ _ _ (by decide) (by decide)))) (h₁.trans h₂)

theorem notifyJob_keeps (j : Job) (r : CompRec) : KeepsCounters s (notifyJob j r s) := by
  unfold notifyJob
  split
  · exact .refl s
  · split
    · exact .of_but (countersBut_notify s _ _) (by decide)
    · exact .refl s

theorem completeJob_keeps (g : BitVec 32) (st : BitVec 8) : KeepsCounters s (completeJob g st s) := by
  unfold completeJob
  split
  · exact .refl s
  · extract_lets j' s₁ s₂ r s₃
    have h₁ : KeepsCounters s s₁ := .trans (.of_counters (t := jdel j'.tag s) rfl) (.of_releases (releaseJob_releases s j' _))
    have h₂ : KeepsCounters s₁ s₂ := countCompletion_keeps s₁ _ _
    have h₃ : KeepsCounters s₂ s₃ :=
      .ite (.trans (.of_counters (t := qmod j'.q (fun x => { x with records := x.records ++ [r] }) s₂) rfl) (notifyJob_keeps _ _ _))
        (countObject_keeps s₂ _ _ _ (by decide) (by decide))
    refine h₁.trans (h₂.trans (h₃.trans (.of_counters ?_)))
    rw [settleQueue_counters, settleParts_counters]

theorem safetyFrames_keeps (c : Bool) : KeepsCounters s (safetyFrames c s) := .of_but (safetyFrames_sent s c).counters (by decide)

theorem enterSafe_keeps (c : Nat) (d : BitVec 32) (fault : Bool) : KeepsCounters s (enterSafe c d fault s) := by
  by_cases h : s.island.state = .normal
  · rw [enterSafe_normal s c d fault h]
    have hended : KeepsCounters s (endUncommitted s) := .forEach _ _ (fun (j : Job) u => completeJob_keeps u j.tag stSafe) s
    have hlatch : KeepsCounters s (countEntry (latchFirst c d fault (safeUnits (endUncommitted s)))) :=
      hended.trans (countObject_keeps (latchFirst c d fault (safeUnits (endUncommitted s))) 0x741d 0x0c 1 (by decide) (by decide))
    generalize countEntry (latchFirst c d fault (safeUnits (endUncommitted s))) = t at hlatch
    exact .ite hlatch (hlatch.trans (.trans (.of_but (notifyAll_notices t _ _).counters (by decide)) (safetyFrames_keeps _ false)))
  · rw [enterSafe_again s c d fault h]
    exact .ite (.of_counters rfl) (.trans (.of_counters (t := latchMore c d fault s) rfl) (safetyFrames_keeps _ false))

theorem finishJob_keeps (g : BitVec 32) (st : BitVec 8) : KeepsCounters s (finishJob g st s) := by
  have hend := completeJob_keeps s g st
  unfold finishJob
  split
  · exact .refl s
  · exact .ite (hend.trans (enterSafe_keeps _ 2 g false)) hend

/-! ## Faults (R246-R248) -/

/-- A step that leaves event bits set and the counters alone, but for ends of jobs and changes of path. -/
structure Unsettles (s t : State) : Prop where
  events : EventsStand s t
  counters : KeepsCounters s t

end

namespace Unsettles

variable {s t u : State}

theorem refl (s : State) : Unsettles s s := ⟨.refl s, .refl s⟩

theorem trans (h : Unsettles s t) (k : Unsettles t u) : Unsettles s u := ⟨h.events.trans k.events, h.counters.trans k.counters⟩

theorem of_same (he : t.events = s.events) (hc : t.counters = s.counters) : Unsettles s t := ⟨.of_events he, .of_counters hc⟩

theorem of_releases (h : Releases s t) : Unsettles s t := ⟨.of_releases h, .of_releases h⟩

theorem of_notices (h : Notices s t) : Unsettles s t := ⟨.of_notices h, .of_but h.counters (by decide)⟩

theorem forEach {α : Type} (l : List α) (f : α → State → State) (h : ∀ a u, Unsettles u (f a u)) (s : State) :
    Unsettles s (forEach l f s) := forEach_rel Unsettles refl (fun _ _ _ h k => h.trans k) f l (fun a _ u => h a u) s

theorem ite {c : Prop} [Decidable c] (h : Unsettles s t) (k : Unsettles s u) : Unsettles s (if c then t else u) := by
  split
  · exact h
  · exact k

end Unsettles

section

variable (s : State)

theorem finishJob_unsettles (g : BitVec 32) (st : BitVec 8) :
    Unsettles s (finishJob g st s) := ⟨finishJob_stand s g st, finishJob_keeps s g st⟩

theorem enterSafe_unsettles (c : Nat) (d : BitVec 32) (fault : Bool) : Unsettles s (enterSafe c d fault s) :=
  ⟨enterSafe_stand s c d fault, enterSafe_keeps s c d fault⟩

theorem fabmod_unsettles (p : Nat) (f : FabricPort → FabricPort) : Unsettles s (fabmod p f s) := .of_same rfl rfl

theorem jmod_unsettles (g : BitVec 32) (f : Job → Job) : Unsettles s (jmod g f s) := .of_same rfl rfl

theorem tmod_unsettles (x : Nat) (f : Tile → Tile) : Unsettles s (tmod x f s) := .of_same rfl rfl

theorem promoteReqs_unsettles (p : Nat) : Unsettles s (promoteReqs p s) := .forEach _ _ (fun r u => by
  unfold promoteReq
  split
  · exact .refl u
  · exact (fabmod_unsettles u p _).trans (.of_releases (sendPackets_releases ..))) s

theorem dropReqs_unsettles (which : RoceReq → Bool) : Unsettles s (dropReqs which s) :=
  .trans (t := { s with fabric := tblMap {} (withoutReqs which) s.fabric }) (.of_same rfl rfl)
    (.forEach _ _ (fun p u => promoteReqs_unsettles u p) _)

theorem movePath_unsettles (g : BitVec 32) (k : Nat) : Unsettles s (movePath g k s) := by
  unfold movePath
  extract_lets s₁
  have h₁ : Unsettles s s₁ := (dropReqs_unsettles s _).trans (jmod_unsettles ..)
  split
  · exact h₁
  · refine h₁.trans (.forEach _ _ (fun b u => ?_) s₁)
    split
    · exact .refl u
    · exact .forEach _ _ (fun t v => (Unsettles.of_releases (abandonWait_releases v t)).trans (tmod_unsettles ..)) u

theorem countPath_unsettles : Unsettles s (count 0x7415 3 1 s) :=
  ⟨.of_events rfl, fun n hn => countersBut_count s 0x7415 3 1 [0x741503] (by decide) n fun h => hn.2.2 (List.mem_singleton.mp h)⟩

theorem switchPath_unsettles (g : BitVec 32) (k : Nat) : Unsettles s (switchPath g k s) := by
  unfold switchPath
  exact .trans (.trans (jmod_unsettles ..) (countPath_unsettles _)) (movePath_unsettles _ g k)

theorem pathEvent_unsettles (g : BitVec 32) (e : Nat) : Unsettles s (pathEvent g e s) := by
  unfold pathEvent
  split
  · exact .refl s
  · split
    · exact .refl s
    · extract_lets s₁
      have h₁ : Unsettles s s₁ := jmod_unsettles ..
      split
      · exact h₁.trans (finishJob_unsettles ..)
      · exact h₁.trans (.ite (switchPath_unsettles ..) (.ite (movePath_unsettles ..) (.refl _)))

/-- A fault of a port is counted at 0x7415:02 and 0x7415:07 and sets event 9. -/
theorem portFault_counts (g : BitVec 32) (e : Nat) (j : Job) (hj : jobOf s g = some j) :
    let t := tierFaultAt g e .aquiferPort s
    counter t 0x7415 2 = counter s 0x7415 2 + 1 ∧ counter t 0x7415 7 = counter s 0x7415 7 + 1 ∧ t.events.getLsbD 9 = true ∧
      EventsStand s t := by
  let u := count 0x7415 7 1 (setEvent 9 (count 0x7415 2 1 s))
  have heq : tierFaultAt g e .aquiferPort s = pathEvent g e u := by
    unfold tierFaultAt
    simp only [hj]
    congr 1
    split
    · exact if_neg (by simp)
    · rfl
  have h2 : counter u 0x7415 2 = counter s 0x7415 2 + 1 := by
    rw [counter_count_other _ _ _ _ _ _ (by decide)]
    exact counter_count_same s 0x7415 2
  have h7 : counter u 0x7415 7 = counter s 0x7415 7 + 1 := by
    have h : counter (setEvent 9 (count 0x7415 2 1 s)) 0x7415 7 = counter s 0x7415 7 := counter_count_other s _ _ _ _ _ (by decide)
    rw [counter_count_same, h]
  have h9 : u.events.getLsbD 9 = true := setEvent_getLsbD_same (count 0x7415 2 1 s) 9
  have hstand : EventsStand s u := setEvent_stand (count 0x7415 2 1 s) 9
  have hpath := pathEvent_unsettles u g e
  rw [heq]
  clear_value u
  exact ⟨(hpath.counters.counter _ _ ⟨by decide, by decide, by decide⟩).trans h2, (hpath.counters.counter _ _ ⟨by decide, by decide, by decide⟩).trans h7, hpath.events 9 h9,
    hstand.trans hpath.events⟩

theorem portFault_stand (g : BitVec 32) (e : Nat) : EventsStand s (tierFaultAt g e .aquiferPort s) := by
  cases hj : jobOf s g with
  | some j => exact (portFault_counts s g e j hj).2.2.2
  | none =>
    unfold tierFaultAt
    simp only [hj]
    exact .refl s

theorem faultCopies_stand (hit : List (BitVec 32 × Nat)) : EventsStand s (faultCopies hit s) := by
  refine .forEach _ _ (fun c u => ?_) s
  split
  · exact .ite (portFault_stand u _ _) (.refl u)
  · exact .refl u

theorem fabricOut_stand (p : Nat) (st : BitVec 8) : EventsStand s (fabricOut p st s) := by
  rw [fabricOut_eq]
  have h := EventsStand.trans (.of_events (s := s) (t := portCut p st s) rfl) (faultCopies_stand _ (copiesThrough s p))
  exact .ite (h.trans (.of_events rfl)) h

theorem enterTable_stand (u : BitVec 32) : EventsStand s (enterTable u s) := by
  unfold enterTable
  exact .ite (.trans (.of_events (t := { s with island := { s.island with extra := s.island.extra ++ [u] } }) rfl) (enterSafe_stand _ 9 u true))
    (.of_events rfl)

/-! ## Failure events (R417, R419) -/

/-- The attempt that an event fails. -/
def failedAttempt (job : Option (BitVec 32)) (s : State) : State :=
  match job with
  | some tag => failAttempt tag s
  | none => s

/-- What a permanent failure retires. -/
def permanentEffect (u : BitVec 32) (s : State) : State :=
  if 1 ≤ unitKind u ∧ unitKind u ≤ 7 then retireUnit u s else if unitKind u = 9 then enterSafe 9 u true s else s

/-- A failure event before what its being permanent does. -/
def eventTold (u : BitVec 32) (c : EventCause) (b : Bool) (job : Option (BitVec 32)) (s : State) : State :=
  let t := tallied u c s
  let v := blockError u c (recalled u (newHistory u t) (b || permanentByCount (newHistory u t)) t)
  reasked u c v.sluice.nextDying (failedAttempt job v)

theorem failureEvent_told (u : BitVec 32) (c : EventCause) (b : Bool) (job : Option (BitVec 32)) : failureEvent u c b job s =
    if !(b || permanentByCount (newHistory u (tallied u c s))) then eventTold u c b job s else permanentEffect u (eventTold u c b job s) := by
  have hdef : ∀ v : State, tallied u c s = v → failureEvent u c b job s =
      (let p := b || permanentByCount (newHistory u v)
       let w := blockError u c (recalled u (newHistory u v) p v)
       let x := reasked u c (blockError u c (recalled u (newHistory u v) p v)).sluice.nextDying (failedAttempt job w)
       if !p then x else permanentEffect u x) := by
    rintro v rfl
    rfl
  exact hdef _ rfl

theorem failedAttempt_stand (job : Option (BitVec 32)) : EventsStand s (failedAttempt job s) := by
  unfold failedAttempt
  split
  · exact failAttempt_stand s _
  · exact .refl s

theorem eventTold_stands (u : BitVec 32) (c : EventCause) (b : Bool) (job : Option (BitVec 32)) :
    (eventTold u c b job s).events.getLsbD 2 = true := by
  obtain ⟨-, hbit, -⟩ := tallied_facts s u c
  unfold eventTold
  generalize tallied u c s = t at hbit
  extract_lets t' v
  have hrecall : EventsStand t (recalled u (newHistory u t) (b || permanentByCount (newHistory u t)) t) :=
    .of_events (by rw [recalled_frame])
  have hv : EventsStand t v := hrecall.trans (blockError_ends _ u c).2
  clear_value v
  obtain ⟨l, hl⟩ := reasked_frame (failedAttempt job v) u c v.sluice.nextDying
  rw [hl]
  exact failedAttempt_stand v job 2 (hv 2 hbit)

/-- The retirement of a fabric port, and of what no chapter retires, clears no event bit. -/
theorem permanentEffect_stand (u : BitVec 32) (hk : unitKind u = 6 ∨ 8 ≤ unitKind u) : EventsStand s (permanentEffect u s) := by
  unfold permanentEffect
  by_cases hrange : 1 ≤ unitKind u ∧ unitKind u ≤ 7
  case neg =>
    rw [if_neg hrange]
    exact .ite (enterSafe_stand s 9 u true) (.refl s)
  rw [if_pos hrange]
  unfold retireUnit
  refine .ite (.refl s) (.ite (enterSafe_stand s 9 u true) ?_)
  have htold : EventsStand s (setEvent 1 (count 0x741d 0x0b 1 (notifySubs 0x21 (leBytes 4 u.toNat) (enterTable u s)))) :=
    (enterTable_stand s u).trans (.trans (.of_notices (notifySubs_notices _ _ _)) (setEvent_stand (count 0x741d 0x0b 1 _) 1))
  refine htold.trans ?_
  generalize setEvent 1 (count 0x741d 0x0b 1 (notifySubs 0x21 (leBytes 4 u.toNat) (enterTable u s))) = v
  rcases hk with hk | hk
  · rw [show retireEffect u v = fabricOut (unitIndex u) 5 v by unfold retireEffect; simp only [hk]]
    exact fabricOut_stand v _ 5
  · omega

theorem failureEvent_stand (u : BitVec 32) (c : EventCause) (b : Bool) (job : Option (BitVec 32)) (hk : unitKind u = 6 ∨ 8 ≤ unitKind u) :
    (failureEvent u c b job s).events.getLsbD 2 = true := by
  have htold := eventTold_stands s u c b job
  rw [failureEvent_told]
  split
  · exact htold
  · exact permanentEffect_stand _ u hk 2 htold

end

end Sys2Proof.Machine

end

section
/-!
PROOF. Requests of peers, and requests to them (R249, R250, R382).
-/

namespace Sys2Proof.Machine

open Claims

section

variable (s : State)

/-! ## Frames on a fabric port (R382) -/

/-- A port holds its packets: it is paused, or others wait before them. -/
def portHolds (s : State) (p : Nat) : Prop := now s < (fabOf s p).paused ∨ (fabOf s p).held ≠ []

theorem emitFabric_holds (p : Nat) (f : OutFrame) (h : portHolds s p) :
    emitFabric p f s = fabmod p (fun x => { x with held := x.held ++ [f] }) s := by
  unfold portHolds at h
  unfold emitFabric
  rw [if_pos h]

theorem emitFabric_sends (p : Nat) (f : OutFrame) (h : ¬portHolds s p) : emitFabric p f s = emit f s := by
  unfold portHolds at h
  unfold emitFabric
  rw [if_neg h]

theorem portHolds_of_same {s t : State} (p : Nat) (hc : t.clock = s.clock) (hf : fabOf t p = fabOf s p) :
    portHolds t p ↔ portHolds s p := by
  unfold portHolds now
  rw [hc, hf]

theorem forEach_cons {α : Type} (f : α → State → State) (a : α) (l : List α) (s : State) :
    forEach (a :: l) f s = forEach l f (f a s) := rfl

/-- Packets join those that a port holds. -/
theorem emitAll_holds (p : Nat) (l : List OutFrame) (h : portHolds s p) : (forEach l (emitFabric p) s).out = s.out ∧
    fabOf (forEach l (emitFabric p) s) p = { fabOf s p with held := (fabOf s p).held ++ l } := by
  induction l generalizing s with
  | nil => exact ⟨rfl, by simp [forEach]⟩
  | cons f l ih =>
    have hfab : fabOf (emitFabric p f s) p = { fabOf s p with held := (fabOf s p).held ++ [f] } := by
      rw [emitFabric_holds s p f h, fabOf_fabmod_same]
    have hout : (emitFabric p f s).out = s.out := by
      rw [emitFabric_holds s p f h]
      rfl
    obtain ⟨ho, hf⟩ := ih (emitFabric p f s) (.inr (by rw [hfab]; simp))
    rw [forEach_cons]
    refine ⟨ho.trans hout, hf.trans ?_⟩
    rw [hfab]
    simp

/-- A port that holds none sends them. -/
theorem emitAll_sends (p : Nat) (l : List OutFrame) (h : ¬portHolds s p) :
    forEach l (emitFabric p) s = { s with out := s.out ++ l } := by
  induction l generalizing s with
  | nil => simp [forEach]
  | cons f l ih =>
    have hemit := emitFabric_sends s p f h
    rw [forEach_cons, hemit, ih (emit f s) (mt (portHolds_of_same p rfl rfl).mp h), emit]
    simp

theorem reqs_emitFabric (p q : Nat) (f : OutFrame) : (fabOf (emitFabric p f s) q).reqs = (fabOf s q).reqs := by
  unfold emitFabric
  split
  · rw [fabOf_fabmod]
    split
    next h => rw [h]
    · rfl
  · rfl

theorem reqs_sendPackets (p q peer qp : Nat) (op : RoceOp) (a : Nat) (d : Bytes) :
    (fabOf (sendPackets p peer qp op a d s) q).reqs = (fabOf s q).reqs :=
  forEach_rel (fun u v => (fabOf v q).reqs = (fabOf u q).reqs) (fun _ => rfl) (fun _ _ _ h k => k.trans h) (emitFabric p)
    (packetsOf s p peer qp op a d) (fun f _ u => reqs_emitFabric u p q f) s

/-- What a port sends of its receive buffer: XOFF or XON where `x`, whether it has sent XOFF, changes. -/
def pfcSent (p : Nat) (x : Bool) (s : State) : List OutFrame :=
  if x = (fabOf s p).xoff then [] else [.fabric (Fin.ofNat 3 p) (pfcFrame s p (if x then 0xffff else 0))]

/-- The receive buffer of a port set to `rx`, and XOFF to `x`. -/
structure Buffered (p : Nat) (s t : State) : Prop where
  eq : t = { s with fabric := t.fabric, out := s.out ++ pfcSent p (fabOf t p).xoff s, freeCtr := s.freeCtr + 1 }
  port : fabOf t p = { fabOf s p with rx := (fabOf t p).rx, xoff := (fabOf t p).xoff }
  full : (fabOf t p).rx ≤ 0x200000
  xon : (fabOf t p).rx ≤ 0x100000 → (fabOf t p).xoff = false
  xoff : 0x180000 ≤ (fabOf t p).rx → (fabOf t p).xoff = true

theorem Buffered.of_set {p r : Nat} {x : Bool} {s t : State} (ht : t = { s with
      fabric := t.fabric, out := s.out ++ pfcSent p x s, freeCtr := s.freeCtr + 1 })
    (hport : fabOf t p = { fabOf s p with rx := r, xoff := x }) (hfull : r ≤ 0x200000) (hxon : r ≤ 0x100000 → x = false)
    (hxoff : 0x180000 ≤ r → x = true) : Buffered p s t := by
  have hrx : (fabOf t p).rx = r := by rw [hport]
  have hx : (fabOf t p).xoff = x := by rw [hport]
  refine ⟨?_, ?_, ?_, ?_, ?_⟩
  · rw [hx]
    exact ht
  · rw [hrx, hx]
    exact hport
  · rw [hrx]
    exact hfull
  · rw [hrx, hx]
    exact hxon
  · rw [hrx, hx]
    exact hxoff

/-- The receive buffer after `n` bytes (R382): what has left it is free. -/
theorem receiveBytes_buffers (p n : Nat) : Buffered p s (receiveBytes p n s) := by
  let r := min 0x200000 ((fabOf s p).rx - Config.freeNat s.freeCtr % ((fabOf s p).rx + 1) + n)
  let s₁ : State := { s with freeCtr := s.freeCtr + 1 }
  have hr : r ≤ 0x200000 := Nat.min_le_left ..
  have heq : receiveBytes p n s =
      if r ≤ 0x100000 ∧ (fabOf s p).xoff = true then
        emit (.fabric (Fin.ofNat 3 p) (pfcFrame s p 0)) (fabmod p (fun f => { f with rx := r, xoff := false }) s₁)
      else if 0x180000 ≤ r ∧ (!(fabOf s p).xoff) = true then
        emit (.fabric (Fin.ofNat 3 p) (pfcFrame s p 0xffff)) (fabmod p (fun f => { f with rx := r, xoff := true }) s₁)
      else fabmod p (fun f => { f with rx := r }) s₁ := rfl
  rw [heq]
  clear_value r
  by_cases hxon : r ≤ 0x100000 ∧ (fabOf s p).xoff = true
  · rw [if_pos hxon]
    have hsent : pfcSent p false s = [.fabric (Fin.ofNat 3 p) (pfcFrame s p 0)] := by
      unfold pfcSent
      rw [hxon.2]
      rfl
    refine .of_set (x := false) ?_ (by rw [fabOf_emit, fabOf_fabmod_same]; rfl) hr (fun _ => rfl) (fun h => by omega)
    rw [hsent]
    rfl
  rw [if_neg hxon]
  by_cases hxoff : 0x180000 ≤ r ∧ (!(fabOf s p).xoff) = true
  · rw [if_pos hxoff]
    have hsent : pfcSent p true s = [.fabric (Fin.ofNat 3 p) (pfcFrame s p 0xffff)] := by
      unfold pfcSent
      rw [show (fabOf s p).xoff = false by simpa using hxoff.2]
      rfl
    refine .of_set (x := true) ?_ (by rw [fabOf_emit, fabOf_fabmod_same]; rfl) hr (fun h => by omega) (fun _ => rfl)
    rw [hsent]
    rfl
  rw [if_neg hxoff]
  have hsent : pfcSent p (fabOf s p).xoff s = [] := if_pos rfl
  refine .of_set (x := (fabOf s p).xoff) ?_ (fabOf_fabmod_same s₁ p _) hr (fun h => ?_) (fun h => ?_)
  · rw [hsent, List.append_nil]
    rfl
  · cases hx : (fabOf s p).xoff
    · rfl
    · exact absurd ⟨h, hx⟩ hxon
  · cases hx : (fabOf s p).xoff
    · exact absurd ⟨h, by rw [hx]; rfl⟩ hxoff
    · rfl

/-! ## Requests of peers (R249, R250) -/

/-- The packets that answer a peer. -/
def answersTo (s : State) (p m : Nat) (nak : Bool) (l : List Bytes) : List OutFrame :=
  l.map (fun d => .roceAnswer (Fin.ofNat 3 p) m nak d (cfg s (0x3450 + p) 5))

/-- A peer's request answered. -/
def Answered (s : State) (p m : Nat) (nak : Bool) (l : List Bytes) (t : State) : Prop :=
  t = { s with fabric := t.fabric, out := t.out, freeCtr := s.freeCtr + 1, mem := t.mem, dir := t.dir } ∧
    ∃ pfc : List OutFrame, (pfc = [] ∨ ∃ f, pfc = [.fabric (Fin.ofNat 3 p) f]) ∧
      (if now s < (fabOf s p).paused ∨ (fabOf s p).held ≠ [] then
        t.out = s.out ++ pfc ∧ (fabOf t p).held = (fabOf s p).held ++ answersTo s p m nak l
      else t.out = s.out ++ pfc ++ answersTo s p m nak l ∧ (fabOf t p).held = [])

theorem roceReply_answers (p m : Nat) (nak : Bool) (data : Bytes) (hp : portToward s m = some p) :
    roceReply m nak data s = forEach (answersTo s p m nak (if data = [] then [[]] else chunksOf 4096 data)) (emitFabric p) s := by
  unfold roceReply answersTo forEach
  simp only [hp, List.foldl_map]

theorem pfcSent_cases (p : Nat) (x : Bool) : pfcSent p x s = [] ∨ ∃ f, pfcSent p x s = [.fabric (Fin.ofNat 3 p) f] := by
  unfold pfcSent
  split
  · exact .inl rfl
  · exact .inr ⟨_, rfl⟩

/-- Packets sent after a step that changed only the receive buffer, memory and its directory answer the request. -/
theorem answers_answered (p m : Nat) (nak : Bool) (l : List Bytes) {u v : State} (hu : Buffered p s u)
    (hv : v = { u with mem := v.mem, dir := v.dir }) :
    Answered s p m nak l (forEach (answersTo s p m nak l) (emitFabric p) v) ∧
      (forEach (answersTo s p m nak l) (emitFabric p) v).mem = v.mem ∧ (forEach (answersTo s p m nak l) (emitFabric p) v).dir = v.dir := by
  have hsent : Transmits v (forEach (answersTo s p m nak l) (emitFabric p) v) := .forEach _ _ (fun f w => emitFabric_transmits w p f) v
  have hfab : fabOf v p = fabOf u p := by
    rw [hv]
    rfl
  have hclock : v.clock = s.clock := by rw [hv, hu.eq]
  have hout : v.out = s.out ++ pfcSent p (fabOf u p).xoff s := (congrArg State.out hv).trans (congrArg State.out hu.eq)
  have hsame : portHolds v p ↔ portHolds s p := by
    unfold portHolds now
    rw [hclock, hfab, hu.port]
  have hheld : (fabOf v p).held = (fabOf s p).held := by rw [hfab, hu.port]
  refine ⟨⟨?_, pfcSent p (fabOf u p).xoff s, pfcSent_cases s p _, ?_⟩, by rw [hsent.eq], by rw [hsent.eq]⟩
  · rw [hsent.eq, hv, hu.eq]
  · by_cases h : portHolds s p
    · obtain ⟨ho, hf⟩ := emitAll_holds v p (answersTo s p m nak l) (hsame.mpr h)
      unfold portHolds at h
      rw [if_pos h]
      exact ⟨ho.trans hout, by rw [hf, ← hheld]⟩
    · have hs := emitAll_sends v p (answersTo s p m nak l) (mt hsame.mp h)
      rw [hs]
      unfold portHolds at h
      rw [if_neg h]
      exact ⟨by rw [← hout], hheld.trans (by simpa using (not_or.mp h).2)⟩

/-- A request of peer `m`, its data in the receive buffer. -/
def requestReceived (p : Nat) (write : Bool) (data : Bytes) (s : State) :
    State := receiveBytes p (if write then data.length else 0) s

theorem aquiferRequest_runs (m : Fin 4) (p : Nat) (write : Bool) (addr : BitVec 48) (n : Nat) (data : Bytes)
    (hp : portToward s m.val = some p) (hup : peerUp s m.val = true) :
    let u := requestReceived p write data s
    let a := ownPhysical s addr.toNat
    exec (.aquiferRequest m write addr n data) s =
      (if write then
        if inGrant s m.val 3 a data.length then .next (roceReply m.val false [] (pokeCistern a data u)) else .next (roceReply m.val true [] u)
      else if inGrant s m.val 1 a n then .next (roceReply m.val false (peek s a n) u) else .next (roceReply m.val true [] u)) := by
  intro u a
  have hu := (receiveBytes_buffers s p (if write then data.length else 0)).eq
  have hgrant : ∀ sub k, inGrant u m.val sub a k = inGrant s m.val sub a k := fun sub k => by
    show inGrant (receiveBytes p _ s) m.val sub a k = _
    rw [hu]
    rfl
  have hpeek : peek u a n = peek s a n := by
    show peek (receiveBytes p _ s) a n = _
    rw [hu]
    rfl
  rw [← hgrant, ← hgrant, ← hpeek]
  show execAquiferRequest m write addr n data s = _
  unfold execAquiferRequest
  rw [hup, hp]
  rfl

theorem portToward_received {p : Nat} {u v : State} (hu : Buffered p s u) (hv : v = { u with mem := v.mem, dir := v.dir }) (m : Nat) :
    portToward v m = portToward s m ∧ ∀ nak l, answersTo v p m nak l = answersTo s p m nak l := by
  rw [hv, hu.eq]
  exact ⟨rfl, fun _ _ => rfl⟩

/-- The reply to a request, after what it did to memory. -/
theorem roceReply_answered (p m : Nat) (nak : Bool) (data : Bytes) (hp : portToward s m = some p) {u v : State} (hu : Buffered p s u)
    (hv : v = { u with mem := v.mem, dir := v.dir }) :
    let t := roceReply m nak data v
    Answered s p m nak (if data = [] then [[]] else chunksOf 4096 data) t ∧ t.mem = v.mem ∧ t.dir = v.dir := by
  obtain ⟨hport, hans⟩ := portToward_received s hu hv m
  intro t
  have ht : t = forEach (answersTo s p m nak (if data = [] then [[]] else chunksOf 4096 data)) (emitFabric p) v := by
    rw [← hans]
    exact roceReply_answers v p m nak data (hport.trans hp)
  rw [ht]
  exact answers_answered s p m nak _ hu hv

theorem inGrant_pos (m sub a n : Nat) (h : inGrant s m sub a n = true) : 0 < n := by
  unfold inGrant at h
  simp only [Bool.and_eq_true, decide_eq_true_eq] at h
  exact h.2

theorem peek_ne_nil (a n : Nat) (h : 0 < n) : peek s a n ≠ [] := fun hnil => by
  have hlen : (peek s a n).length = n := by simp [peek, memRead]
  rw [hnil] at hlen
  simp only [List.length_nil] at hlen
  omega

theorem aquiferRequest_answers (m : Fin 4) (p : Nat) (addr : BitVec 48) (n : Nat) (data : Bytes)
    (hp : portToward s m.val = some p) (hup : peerUp s m.val = true) :
    let a := ownPhysical s addr.toNat
    (inGrant s m.val 1 a n = true → ∃ t, exec (.aquiferRequest m false addr n data) s = .next t ∧
      Answered s p m.val false (chunksOf 4096 (peek s a n)) t ∧ t.mem = s.mem ∧ t.dir = s.dir) ∧
    (inGrant s m.val 3 a data.length = true → ∃ t, exec (.aquiferRequest m true addr n data) s = .next t ∧
      Answered s p m.val false [[]] t ∧ peek t a data.length = data ∧
      (∀ b, ¬(a ≤ b ∧ b < a + data.length) → memByte t.mem b = memByte s.mem b)) ∧
    (inGrant s m.val 3 a data.length = false → ∃ t, exec (.aquiferRequest m true addr n data) s = .next t ∧
      Answered s p m.val true [[]] t ∧ t.mem = s.mem ∧ t.dir = s.dir) ∧
    (inGrant s m.val 1 a n = false → ∃ t, exec (.aquiferRequest m false addr n data) s = .next t ∧
      Answered s p m.val true [[]] t ∧ t.mem = s.mem ∧ t.dir = s.dir) := by
  intro a
  have hbuf : ∀ w, Buffered p s (requestReceived p w data s) := fun w => receiveBytes_buffers s p _
  have hmem : ∀ w, (requestReceived p w data s).mem = s.mem ∧ (requestReceived p w data s).dir = s.dir := fun w => by
    rw [(hbuf w).eq]
    exact ⟨rfl, rfl⟩
  have hexec := fun w => aquiferRequest_runs s m p w addr n data hp hup
  refine ⟨fun h => ?_, fun h => ?_, fun h => ?_, fun h => ?_⟩
  · have hdata : peek s a n ≠ [] := peek_ne_nil s a n (inGrant_pos s _ _ _ _ h)
    obtain ⟨hans, htmem, htdir⟩ := roceReply_answered s p m.val false (peek s a n) hp (v := requestReceived p false data s) (hbuf false) rfl
    rw [if_neg hdata] at hans
    refine ⟨_, (hexec false).trans ?_, hans, htmem.trans (hmem false).1, htdir.trans (hmem false).2⟩
    simp only [a] at h ⊢
    simp only [h, if_true, Bool.false_eq_true, if_false]
  · have hpoke : pokeCistern a data (requestReceived p true data s) = { requestReceived p true data s with
        mem := (pokeCistern a data (requestReceived p true data s)).mem, dir := (pokeCistern a data (requestReceived p true data s)).dir } := by
      rw [pokeCistern_eq]
    have hpoked : (pokeCistern a data (requestReceived p true data s)).mem = memWrite s.mem a data := by
      rw [pokeCistern_eq]
      show memWrite (requestReceived p true data s).mem a data = _
      rw [(hmem true).1]
    obtain ⟨hans, htmem, -⟩ := roceReply_answered s p m.val false [] hp (hbuf true) hpoke
    refine ⟨_, (hexec true).trans ?_, hans, ?_, fun b hb => ?_⟩
    · simp only [a] at h ⊢
      simp only [h, if_true]
    · rw [peek, htmem, hpoked, memRead_write]
    · rw [htmem, hpoked, memByte_write, if_neg hb]
  · obtain ⟨hans, htmem, htdir⟩ := roceReply_answered s p m.val true [] hp (v := requestReceived p true data s) (hbuf true) rfl
    refine ⟨_, (hexec true).trans ?_, hans, htmem.trans (hmem true).1, htdir.trans (hmem true).2⟩
    simp only [a] at h ⊢
    simp only [h, if_true, Bool.false_eq_true, if_false]
  · obtain ⟨hans, htmem, htdir⟩ := roceReply_answered s p m.val true [] hp (v := requestReceived p false data s) (hbuf false) rfl
    refine ⟨_, (hexec false).trans ?_, hans, htmem.trans (hmem false).1, htdir.trans (hmem false).2⟩
    simp only [a] at h ⊢
    simp only [h, Bool.false_eq_true, if_false]

/-! ## Requests to peers (R250) -/

/-- A retry counted at request `n`. -/
def retriedReq (n : Nat) (y : RoceReq) : RoceReq := if y.id = n then { y with retries := y.retries + 1 } else y

theorem sentReq_of (p n : Nat) (r : RoceReq) (h : (fabOf s p).reqs.find? (fun y => y.id = n) = some r) :
    sentReq s p n = r.qp.map (fun k => (r, k)) := by
  unfold sentReq
  rw [h]
  rfl

/-- A retry of request `n` counted at instant `x`. -/
def retryCounted (p n x : Nat) (s : State) :
    State := fabmod p (fun f => { f with reqs := f.reqs.map (retriedReq n) }) (clockTo x s)

theorem retryCounted_eq (p n x : Nat) :
    retryCounted p n x s = { s with clock := (clockTo x s).clock, fabric := (retryCounted p n x s).fabric } := by
  unfold retryCounted
  obtain ⟨c, hc⟩ : ∃ c, clockTo x s = { s with clock := c } := ⟨_, clockTo_eq x s⟩
  rw [hc]
  rfl

theorem fabOf_retryCounted (p n x : Nat) :
    fabOf (retryCounted p n x s) p = { fabOf s p with reqs := (fabOf s p).reqs.map (retriedReq n) } := by
  unfold retryCounted
  rw [fabOf_fabmod_same, fabOf_clockTo]

/-- Request `n` sent again at instant `x`. -/
def reqResent (p n : Nat) (r : RoceReq) (k x : Nat) (s : State) : State :=
  sendPackets p r.peer k r.op r.address r.data (retryCounted p n x s)

theorem resend_resends (p n : Nat) (r : RoceReq) (k : Nat) (h : (fabOf s p).reqs.find? (fun y => y.id = n) = some r)
    (hk : r.qp = some k) (hr : r.retries < 3) : resend p n s = reqResent p n r k (r.sentAt + 32768 * (r.retries + 1)) s := by
  unfold resend
  rw [sentReq_of s p n r h, hk]
  exact if_pos hr

theorem resend_unsent (p n : Nat) (r : RoceReq) (h : (fabOf s p).reqs.find? (fun y => y.id = n) = some r) (hk : r.qp = none) :
    resend p n s = s := by
  unfold resend
  rw [sentReq_of s p n r h, hk]
  rfl

theorem resend_spent (p n : Nat) (r : RoceReq) (k : Nat) (h : (fabOf s p).reqs.find? (fun y => y.id = n) = some r)
    (hk : r.qp = some k) (hr : ¬r.retries < 3) : resend p n s = s := by
  unfold resend
  rw [sentReq_of s p n r h, hk]
  exact if_neg hr

/-- A step that sends on the fabric as time passes. -/
def SendsInTime (s t : State) : Prop := t = { s with clock := t.clock, fabric := t.fabric, out := t.out }

theorem SendsInTime.trans {s t u : State} (h : SendsInTime s t) (k : SendsInTime t u) : SendsInTime s u := by
  unfold SendsInTime at *
  rw [k, h]

theorem SendsInTime.of_transmits {s t : State} (h : Transmits s t) : SendsInTime s t := by
  unfold SendsInTime
  rw [h.eq]

theorem clockTo_sends (x : Nat) : SendsInTime s (clockTo x s) := by
  unfold SendsInTime
  rw [clockTo_eq]

theorem reqResent_sends (p n : Nat) (r : RoceReq) (k x : Nat) : reqResent p n r k x s = { s with
    clock := (clockTo x s).clock, fabric := (reqResent p n r k x s).fabric, out := (reqResent p n r k x s).out } := by
  unfold reqResent
  have hsent := (sendPackets_transmits (retryCounted p n x s) p r.peer k r.op r.address r.data).eq
  have hcount := retryCounted_eq s p n x
  generalize sendPackets p r.peer k r.op r.address r.data (retryCounted p n x s) = t at hsent ⊢
  generalize (clockTo x s).clock = c at hcount ⊢
  generalize retryCounted p n x s = u at hsent hcount
  rw [hsent, hcount]

theorem resend_cases (p n : Nat) : resend p n s = s ∨ ∃ r k x, resend p n s = reqResent p n r k x s := by
  cases h : (fabOf s p).reqs.find? (fun y => y.id = n) with
  | none =>
    refine .inl ?_
    unfold resend sentReq
    rw [h]
    rfl
  | some r =>
    cases hk : r.qp with
    | none => exact .inl (resend_unsent s p n r h hk)
    | some k =>
      by_cases hr : r.retries < 3
      · exact .inr ⟨r, k, _, resend_resends s p n r k h hk hr⟩
      · exact .inl (resend_spent s p n r k h hk hr)

theorem resend_sends (p n : Nat) : SendsInTime s (resend p n s) := by
  rcases resend_cases s p n with h | ⟨r, k, x, h⟩
  · rw [h]
    rfl
  · have hsent := reqResent_sends s p n r k x
    rw [h]
    generalize reqResent p n r k x s = t at hsent ⊢
    unfold SendsInTime
    rw [hsent]

theorem packetsOf_retryCounted (p n x peer qp : Nat) (op : RoceOp) (a : Nat) (d : Bytes) :
    packetsOf (retryCounted p n x s) p peer qp op a d = packetsOf s p peer qp op a d := by
  rw [retryCounted_eq]
  rfl

/-- What a request sent again does to its port. -/
theorem reqResent_port (p n : Nat) (r : RoceReq) (k x : Nat) :
    (fabOf (reqResent p n r k x s) p).reqs = (fabOf s p).reqs.map (retriedReq n) ∧
      ((fabOf s p).paused ≤ now (reqResent p n r k x s) → (fabOf s p).held = [] →
        (reqResent p n r k x s).out = s.out ++ packetsOf s p r.peer k r.op r.address r.data) := by
  have hfab := fabOf_retryCounted s p n x
  have hout : (retryCounted p n x s).out = s.out := by rw [retryCounted_eq]
  have hpackets := packetsOf_retryCounted s p n x r.peer k r.op r.address r.data
  have hsent := (sendPackets_transmits (retryCounted p n x s) p r.peer k r.op r.address r.data).eq
  have hreqs := reqs_sendPackets (retryCounted p n x s) p p r.peer k r.op r.address r.data
  unfold reqResent
  generalize retryCounted p n x s = u at *
  refine ⟨by rw [hreqs, hfab], fun hpaused hheld => ?_⟩
  have hnow : now (sendPackets p r.peer k r.op r.address r.data u) = now u := by
    rw [hsent]
    rfl
  have hfree : ¬portHolds u p := by
    unfold portHolds
    rw [hfab]
    rintro (h | h)
    · rw [hnow] at hpaused
      exact absurd h (Nat.not_lt.mpr hpaused)
    · exact h hheld
  have hall := emitAll_sends u p (packetsOf u p r.peer k r.op r.address r.data) hfree
  rw [sendPackets, hall, hpackets, ← hout]

theorem ackTimeout_resends (p : Fin 3) (n : Nat) (r : RoceReq) (h : (fabOf s p.val).reqs.find? (fun y => y.id = n) = some r)
    (k : Nat) (hk : r.qp = some k) (hr : r.retries < 3) : ∃ t, exec (.ackTimeout p n) s = .next t ∧
      t = { s with clock := (clockTo (r.sentAt + 32768 * (r.retries + 1)) s).clock, fabric := t.fabric, out := t.out } ∧
      (fabOf t p.val).reqs = (fabOf s p.val).reqs.map (fun y => if y.id = n then { y with retries := y.retries + 1 } else y) ∧
      ((fabOf s p.val).paused ≤ now t → (fabOf s p.val).held = [] → t.out = s.out ++ packetsOf s p.val r.peer k r.op r.address r.data) := by
  have hresend := resend_resends s p.val n r k h hk hr
  obtain ⟨hreqs, hout⟩ := reqResent_port s p.val n r k (r.sentAt + 32768 * (r.retries + 1))
  exact ⟨_, congrArg Host.Outcome.next hresend, reqResent_sends s .., hreqs, hout⟩

theorem ackTimeout_idle (p : Fin 3) (n : Nat) (r : RoceReq) (h : (fabOf s p.val).reqs.find? (fun y => y.id = n) = some r)
    (hr : r.qp = none ∨ 3 ≤ r.retries) : exec (.ackTimeout p n) s = .next s := by
  refine congrArg Host.Outcome.next ?_
  cases hk : r.qp with
  | none => exact resend_unsent s p.val n r h hk
  | some k =>
    refine resend_spent s p.val n r k h hk (Nat.not_lt.mpr ?_)
    rw [hk] at hr
    simpa using hr

/-- Request `n` given up: the requests of its identity dropped. -/
def reqGivenUp (p n : Nat) (r : RoceReq) (s : State) : State :=
  dropReqs (fun x => x.id = n && x.peer = r.peer && x.owner = r.owner)
    (clockTo (r.sentAt + 131072) (forEach (List.range (3 - r.retries)) (fun _ => resend p n) s))

theorem transportFault_runs (p : Fin 3) (n : Nat) (r : RoceReq) (h : (fabOf s p.val).reqs.find? (fun y => y.id = n) = some r) :
    (r.qp = none → exec (.transportFault p n) s = .next s) ∧
      (r.qp ≠ none → exec (.transportFault p n) s = .next (transportLost p.val r (reqGivenUp p.val n r s))) := by
  refine ⟨fun hk => ?_, fun hk => ?_⟩
  · show execTransportFault p n s = _
    unfold execTransportFault
    rw [sentReq_of s p.val n r h, hk]
    rfl
  · obtain ⟨k, hk⟩ := Option.ne_none_iff_exists'.mp hk
    show execTransportFault p n s = _
    unfold execTransportFault
    rw [sentReq_of s p.val n r h, hk]
    rfl

theorem dropReqs_transmits (which : RoceReq → Bool) : Transmits s (dropReqs which s) :=
  .trans (t := { s with fabric := tblMap {} (withoutReqs which) s.fabric }) ⟨rfl⟩
    (.forEach _ _ (fun p u => .forEach _ _ (fun r v => by
      unfold promoteReq
      split
      · exact .refl v
      · exact .trans ⟨rfl⟩ (sendPackets_transmits ..)) u) _)

theorem reqGivenUp_sends (p n : Nat) (r : RoceReq) : SendsInTime s (reqGivenUp p n r s) := by
  have hresent : SendsInTime s (forEach (List.range (3 - r.retries)) (fun _ => resend p n) s) :=
    forEach_rel SendsInTime (fun _ => rfl) (fun _ _ _ h k => h.trans k) _ _ (fun _ _ u => resend_sends u p n) s
  exact hresent.trans ((clockTo_sends _ _).trans (.of_transmits (dropReqs_transmits _ _)))

/-- A property of requests that neither their queue pair nor the time they were sent decides. -/
def ofIdentity (which : RoceReq → Bool) : Prop := ∀ r k x, which { r with qp := k, sentAt := x } = which r

/-- No port has a request that `which` names. -/
def reqsGone (which : RoceReq → Bool) (s : State) : Prop := ∀ p, ∀ y ∈ (fabOf s p).reqs, which y = false

theorem promoteReq_gone (which : RoceReq → Bool) (hid : ofIdentity which) (p : Nat) (r : RoceReq) (h : reqsGone which s) :
    reqsGone which (promoteReq p r s) := by
  unfold promoteReq
  split
  · exact h
  · intro q y hy
    rw [reqs_sendPackets, fabOf_fabmod] at hy
    split at hy
    next hq =>
      obtain ⟨z, hz, rfl⟩ := List.mem_map.mp hy
      split
      · exact (hid z _ _).trans (h p z hz)
      · exact h p z hz
    · exact h q y hy

theorem dropReqs_gone (which : RoceReq → Bool) (hid : ofIdentity which) : reqsGone which (dropReqs which s) := by
  have hdropped : reqsGone which { s with fabric := tblMap {} (withoutReqs which) s.fabric } := fun p => by
    refine tblGet_tblMap_of (fun v : FabricPort => ∀ y ∈ v.reqs, which y = false) {} (withoutReqs which) nofun (fun v y hy => ?_) s.fabric p
    simpa using (List.mem_filter.mp hy).2
  have hpromoted : ∀ p u, reqsGone which u → reqsGone which (promoteReqs p u) := fun p u hu =>
    forEach_rel (fun v w => reqsGone which v → reqsGone which w) (fun _ h => h) (fun _ _ _ h k hv => k (h hv)) _ _
      (fun r _ v hv => promoteReq_gone v which hid p r hv) u hu
  exact forEach_rel (fun v w => reqsGone which v → reqsGone which w) (fun _ h => h) (fun _ _ _ h k hv => k (h hv)) promoteReqs
    (List.range 3) (fun p _ v hv => hpromoted p v hv) _ hdropped

theorem reqGivenUp_gone (p n : Nat) (r : RoceReq) (q : Nat) :
    ∀ y ∈ (fabOf (reqGivenUp p n r s) q).reqs, ¬(y.id = n ∧ y.peer = r.peer ∧ y.owner = r.owner) := by
  intro y hy ⟨hid, hpeer, howner⟩
  have hgone := dropReqs_gone (clockTo (r.sentAt + 131072) (forEach (List.range (3 - r.retries)) (fun _ => resend p n) s))
    (fun x => x.id = n && x.peer = r.peer && x.owner = r.owner) (fun _ _ _ => rfl) q y hy
  simp [hid, hpeer, howner] at hgone

/-- What the loss of a request means to its owner (R246, R384, R417). -/
def LossTold (p n : Nat) (r : RoceReq) (s t : State) : Prop :=
  match r.owner with
  | .discovery => t = { s with clock := t.clock, fabric := t.fabric, out := t.out } ∧
      ∀ y ∈ (fabOf t p).reqs, ¬(y.id = n ∧ y.peer = r.peer ∧ y.owner = r.owner)
  | .job g (some x) => ∀ j, jobOf s g = some j → inFlight j x = true →
      counter t 0x7415 2 = counter s 0x7415 2 + 1 ∧ counter t 0x7415 7 = counter s 0x7415 7 + 1 ∧ t.events.getLsbD 9 = true
  | _ => t.events.getLsbD 2 = true

theorem unitKind_port (p : Fin 3) : unitKind (unitOf 6 p.val) = 6 := by
  revert p
  decide

theorem portEvent_stand (p : Fin 3) (job : Option (BitVec 32)) :
    (failureEvent (unitOf 6 p.val) .other false job s).events.getLsbD 2 = true :=
  failureEvent_stand s _ .other false job (.inl (unitKind_port p))

theorem transportLost_copy (p : Nat) (r : RoceReq) (g : BitVec 32) (x : Nat) (j : Job) (ho : r.owner = .job g (some x))
    (hj : jobOf s g = some j) (hfly : inFlight j x = true) : transportLost p r s = tierFaultAt g x .aquiferPort s := by
  unfold transportLost
  simp only [ho, hj, hfly, if_true]

theorem transportLost_discovery (p : Nat) (r : RoceReq) (ho : r.owner = .discovery) : transportLost p r s = s := by
  unfold transportLost
  simp only [ho]

theorem transportLost_job (p : Fin 3) (r : RoceReq) (g : BitVec 32) (ho : r.owner = .job g none) :
    (transportLost p.val r s).events.getLsbD 2 = true := by
  unfold transportLost
  simp only [ho]
  exact portEvent_stand s p _

theorem transportLost_channel (p : Fin 3) (r : RoceReq) (ch : Nat) (ho : r.owner = .channel ch) :
    (transportLost p.val r s).events.getLsbD 2 = true := by
  unfold transportLost
  simp only [ho]
  rw [(dropFences_work _ _ _).events]
  exact portEvent_stand s p _

theorem transportLost_tells (p : Fin 3) (n : Nat) (r : RoceReq) (u : State) (hsent : SendsInTime s u)
    (hgone : ∀ y ∈ (fabOf u p.val).reqs, ¬(y.id = n ∧ y.peer = r.peer ∧ y.owner = r.owner)) :
    LossTold p.val n r s (transportLost p.val r u) := by
  have hjobs : ∀ g, jobOf u g = jobOf s g := fun g => by
    unfold SendsInTime at hsent
    rw [hsent]
    rfl
  have hcount : u.counters = s.counters := by
    unfold SendsInTime at hsent
    rw [hsent]
  unfold LossTold
  cases ho : r.owner with
  | discovery =>
    rw [ho] at hgone
    simp only
    rw [transportLost_discovery u p.val r ho]
    exact ⟨hsent, hgone⟩
  | channel ch => exact transportLost_channel u p r ch ho
  | job g x =>
    cases x with
    | none => exact transportLost_job u p r g ho
    | some x =>
      intro j hj hfly
      have hj' := (hjobs g).trans hj
      obtain ⟨h2, h7, h9, -⟩ := portFault_counts u g x j hj'
      rw [transportLost_copy u p.val r g x j ho hj' hfly]
      rw [counter_eq_of_counters hcount] at h2 h7
      exact ⟨h2, h7, h9⟩

end

/-- Settles O43: a peer's request is answered as its range allows; a request to a peer is followed through its retries to its loss. -/
theorem peerRequests : Obligations.PeerRequests := by
  unfold Obligations.PeerRequests
  refine ⟨fun s m p addr n data hp hup => aquiferRequest_answers s m p addr n data hp hup, fun s p n r h => ?_⟩
  obtain ⟨hunsent, hsent⟩ := transportFault_runs s p n r h
  exact ⟨fun k hk hr => ackTimeout_resends s p n r h k hk hr, ackTimeout_idle s p n r h, hunsent,
    fun hk => ⟨_, hsent hk,
      transportLost_tells s p n r _ (reqGivenUp_sends s p.val n r) (reqGivenUp_gone s p.val n r p.val)⟩⟩

end Sys2Proof.Machine

end

section
/-!
PROOF. Siphon channels: copies, their targets and their fences (R386-R393).
-/

namespace Sys2Proof.Machine

open Claims

/-- Read-backs begun on channel `ch`: what is posted there stays, and each target is noted or its read-back outstanding. -/
structure FencesBegun (ch : Nat) (s t : State) : Prop where
  eq : t = { s with out := t.out, fabric := t.fabric, channels := t.channels }
  posted : (chanOf t ch).posted = (chanOf s ch).posted
  targets : ∀ n, n ∈ (chanOf t ch).targets → n ∈ (chanOf s ch).targets
  kept : ∀ n, n ∈ (chanOf s ch).targets ∨ n ∈ (chanOf s ch).fencing → n ∈ (chanOf t ch).targets ∨ n ∈ (chanOf t ch).fencing

namespace FencesBegun

variable {ch : Nat} {s t u : State}

theorem refl (ch : Nat) (s : State) : FencesBegun ch s s := ⟨rfl, rfl, fun _ h => h, fun _ h => h⟩

theorem trans (h : FencesBegun ch s t) (k : FencesBegun ch t u) : FencesBegun ch s u where
  eq := by rw [k.eq, h.eq]
  posted := k.posted.trans h.posted
  targets n hn := h.targets n (k.targets n hn)
  kept n hn := k.kept n (h.kept n hn)

theorem ite {c : Prop} [Decidable c] (h : FencesBegun ch s t) (k : FencesBegun ch s u) :
    FencesBegun ch s (if c then t else u) := by
  split
  · exact h
  · exact k

end FencesBegun

section

variable (ch : Nat) (s : State)

theorem newReq_transmits (m : Nat) (o : RoceOwner) (op : RoceOp) (a : Nat) (d : Bytes) : Transmits s (newReq m o op a d s) := by
  unfold newReq
  split
  · exact .refl s
  · simp only
    split
    · exact .trans ⟨rfl⟩ (sendPackets_transmits ..)
    · exact ⟨rfl⟩

theorem fencePeer_transmits (t : Nat) : Transmits s (fencePeer ch t s) := by
  unfold fencePeer
  split
  · exact newReq_transmits ..
  · exact .refl s

theorem targets_beginFence (t : Nat) : (chanOf (beginFence ch t s) ch).targets = (chanOf s ch).targets := by
  rw [beginFence, chanOf_fencePeer, chanOf_chanmod_same]
  split <;> rfl

theorem beginFence_begins (t : Nat) : FencesBegun ch s (beginFence ch t s) where
  eq := by
    have h : ∀ u, Transmits u (fencePeer ch t u) := fun u => fencePeer_transmits ch u t
    unfold beginFence
    rw [(h _).eq]
    rfl
  posted := posted_beginFence ch s t
  targets n hn := by rwa [targets_beginFence] at hn
  kept n hn := by
    rw [targets_beginFence]
    exact hn.imp_right ((fencing_beginFence ch s t).2 n)

theorem beginAll_begins (l : List Nat) : FencesBegun ch s (forEach l (beginFence ch) s) :=
  forEach_rel (FencesBegun ch) (.refl ch) (fun _ _ _ h k => h.trans k) _ l (fun t _ u => beginFence_begins ch u t) s

/-- Every target begun has its read-back outstanding. -/
theorem fencing_beginAll (l : List Nat) : ∀ n ∈ l, n ∈ (chanOf (forEach l (beginFence ch) s) ch).fencing := by
  have hmono : ∀ (l : List Nat) (u : State) (n : Nat), n ∈ (chanOf u ch).fencing → n ∈ (chanOf (forEach l (beginFence ch) u) ch).fencing :=
    fun l u n hn => forEach_rel (fun u v => n ∈ (chanOf u ch).fencing → n ∈ (chanOf v ch).fencing) (fun _ h => h)
      (fun _ _ _ h k h' => k (h h')) (beginFence ch) l (fun t _ u => (fencing_beginFence ch u t).2 n) u hn
  induction l generalizing s with
  | nil => nofun
  | cons t l ih =>
    intro n hn
    rw [forEach_cons]
    rcases List.mem_cons.mp hn with rfl | hn
    · exact hmono l _ n (fencing_beginFence ch s n).1
    · exact ih (beginFence ch t s) n hn

theorem fenceTargets_begins : FencesBegun ch s (fenceTargets ch s) := by
  have hall := beginAll_begins ch s (chanOf s ch).targets
  have hfence := fencing_beginAll ch s (chanOf s ch).targets
  unfold fenceTargets
  generalize forEach (chanOf s ch).targets (beginFence ch) s = u at hall hfence
  refine ⟨by rw [hall.eq]; rfl, ?_, ?_, fun n hn => ?_⟩
  · rw [chanOf_chanmod_same]
    exact hall.posted
  · rw [chanOf_chanmod_same]
    nofun
  · rw [chanOf_chanmod_same]
    rcases hn with hn | hn
    · exact .inr (hfence n hn)
    · rcases hall.kept n (.inr hn) with h | h
      · exact .inr (hfence n (hall.targets n h))
      · exact .inr h

theorem running_begins (b : Bool) : FencesBegun ch s (chanmod ch (fun c => { c with running := b }) s) where
  eq := rfl
  posted := by rw [chanOf_chanmod_same]
  targets n hn := by rwa [chanOf_chanmod_same] at hn
  kept n hn := by rwa [chanOf_chanmod_same]

theorem startNext_begins : FencesBegun ch s (startNext s ch) := by
  unfold startNext
  split
  · exact running_begins ch s false
  · exact .ite ((running_begins ch s true).trans (beginFence_begins ch _ _)) (running_begins ch s true)

theorem fenceWhenDone_begins (tag : Option (BitVec 32)) : FencesBegun ch s (fenceWhenDone ch tag s) := by
  unfold fenceWhenDone
  split
  · exact .ite (fenceTargets_begins ch s) (.refl ch s)
  · exact .refl ch s

theorem settleFences_idle (h : fenceWaiters s ch = []) : settleFences ch s = s := by
  unfold settleFences
  simp [h]

theorem fenceWaiters_of_tiles {s t : State} (h : t.tiles = s.tiles) : fenceWaiters t ch = fenceWaiters s ch := by
  unfold fenceWaiters
  simp only [tileOf, h]

/-- The head taken off: what was behind it is posted. -/
theorem headOff_posted (p : Posted) (rest : List Posted) (h : (chanOf s ch).posted = p :: rest) :
    (chanOf (chanmod ch (fun c => { c with posted := c.posted.drop 1 }) s) ch).posted = rest := by
  rw [chanOf_chanmod_same, h]
  rfl

/-- The head of a channel done, its attempt not ended: the next starts, and its job's targets are fenced where it is time. -/
theorem headDone_live (p : Posted) (rest : List Posted) (h : (chanOf s ch).posted = p :: rest) (hlive : p.dead = none)
    (hwait : fenceWaiters s ch = []) :
    let t := headDone ch p s
    t = { s with out := t.out, fabric := t.fabric, channels := t.channels } ∧ (chanOf t ch).posted = rest ∧
      (∀ n, n ∈ (chanOf t ch).targets → n ∈ (chanOf s ch).targets) ∧
      (∀ n, n ∈ (chanOf s ch).targets ∨ n ∈ (chanOf s ch).fencing → n ∈ (chanOf t ch).targets ∨ n ∈ (chanOf t ch).fencing) := by
  let u := chanmod ch (fun c => { c with posted := c.posted.drop 1 }) s
  have hu : u = { s with channels := u.channels } := rfl
  have hposted : (chanOf u ch).posted = rest := headOff_posted ch s p rest h
  have hsame : (chanOf u ch).targets = (chanOf s ch).targets ∧ (chanOf u ch).fencing = (chanOf s ch).fencing := by
    simp only [u]
    rw [chanOf_chanmod_same]
    exact ⟨rfl, rfl⟩
  have hnext := (startNext_begins ch u).trans (fenceWhenDone_begins ch (startNext u ch) p.job)
  have heq : headDone ch p s = fenceWhenDone ch p.job (startNext u ch) := by
    have hwaiters : fenceWaiters (fenceWhenDone ch p.job (startNext u ch)) ch = [] := by
      rw [fenceWaiters_of_tiles ch (s := s) (by rw [hnext.eq, hu]), hwait]
    unfold headDone
    simp only [hlive]
    exact settleFences_idle ch _ hwaiters
  rw [heq]
  clear_value u
  generalize fenceWhenDone ch p.job (startNext u ch) = t at hnext
  refine ⟨by rw [hnext.eq, hu], hnext.posted.trans hposted, fun n hn => ?_, fun n hn => ?_⟩
  · rw [← hsame.1]
    exact hnext.targets n hn
  · rw [← hsame.1, ← hsame.2] at hn
    exact hnext.kept n hn

/-! ## Fences of ended attempts (R62, R393) -/

/-- Channels and tiles as they were. -/
def ChannelsStand (s t : State) : Prop := t.channels = s.channels ∧ t.tiles = s.tiles

theorem ChannelsStand.trans {s t u : State} (h : ChannelsStand s t) (k : ChannelsStand t u) : ChannelsStand s u :=
  ⟨k.1.trans h.1, k.2.trans h.2⟩

theorem ChannelsStand.forEach {α : Type} (l : List α) (f : α → State → State) (h : ∀ a u, ChannelsStand u (f a u)) (s : State) :
    ChannelsStand s (forEach l f s) :=
  forEach_rel ChannelsStand (fun _ => ⟨rfl, rfl⟩) (fun _ _ _ h k => h.trans k) f l (fun a _ u => h a u) s

theorem entryMod_channels (e : Nat) (f : Entry → Entry) : ChannelsStand s (entryMod e f s) := by
  unfold entryMod
  simp only [pokeCistern_eq]
  exact ⟨rfl, rfl⟩

theorem reclaim_channels : ChannelsStand s (reclaim s) := by
  unfold reclaim
  split
  · exact ⟨rfl, rfl⟩
  · have h := ChannelsStand.forEach (s.pages.ended.filter (fun e => decide ((entryOf s e).state = .reserved))) reclaimEntry
      (fun e u => entryMod_channels u e _) { s with pages := { s.pages with ended := [] } }
    exact .trans (.trans ⟨rfl, rfl⟩ h) (.forEach _ _ (fun e u => entryMod_channels u e _) _)

theorem reapReplicas_channels : ChannelsStand s (reapReplicas s) := by
  unfold reapReplicas
  refine .forEach _ _ (fun i u => ?_) s
  exact ⟨rfl, rfl⟩

theorem reapHomes_channels : ChannelsStand s (reapHomes s) := by
  rw [reapHomes_eq]
  have hfree : ChannelsStand s (freeHomes (deadHomes s) s) := by
    rw [ChannelsStand, (freeHomes_transmits s (deadHomes s)).eq]
    exact ⟨rfl, rfl⟩
  exact hfree.trans (.trans (t := forgetHomes (freeHomes (deadHomes s) s)) ⟨rfl, rfl⟩
    (reapReplicas_channels _))

theorem settleDying_channels : ChannelsStand s (settleDying s) := by
  unfold settleDying
  extract_lets gone ids
  split
  · exact ⟨rfl, rfl⟩
  · have hthrough : ∀ v l, ChannelsStand s v → ChannelsStand s (reclaim (endReserved l (reapHomes v))) := fun v l hv =>
      hv.trans ((reapHomes_channels v).trans (.trans (t := endReserved l (reapHomes v)) ⟨rfl, rfl⟩ (reclaim_channels _)))
    exact hthrough _ _ ⟨rfl, rfl⟩

theorem dyingFence_channels (t : Nat) : ChannelsStand s (dyingFence ch t s) := by
  unfold dyingFence
  extract_lets n
  split
  · exact ⟨rfl, rfl⟩
  · exact .trans ⟨rfl, rfl⟩ (settleDying_channels _)

theorem dyingFence_idle (t : Nat) (h : ∀ e ∈ s.sluice.dying, (ch, t) ∉ e.waits) : dyingFence ch t s = s := by
  have hnone : s.sluice.dying.filter (fun d => decide ((ch, t) ∈ d.waits)) = [] := by
    rw [List.filter_eq_nil_iff]
    intro e he
    simpa using h e he
  unfold dyingFence
  rw [hnone]
  rfl

/-- The head of a channel done, whatever became of its attempt. -/
theorem headDone_posted (p : Posted) (rest : List Posted) (h : (chanOf s ch).posted = p :: rest) (hwait : fenceWaiters s ch = []) :
    (chanOf (headDone ch p s) ch).posted = rest ∧
      ∀ n, n ∈ (chanOf (headDone ch p s) ch).targets → n ∈ (chanOf s ch).targets := by
  cases hdead : p.dead with
  | none =>
    obtain ⟨-, hposted, htargets, -⟩ := headDone_live ch s p rest h hdead hwait
    exact ⟨hposted, htargets⟩
  | some id =>
    let u := chanmod ch (fun c => { c with posted := c.posted.drop 1 }) s
    have hposted : (chanOf u ch).posted = rest := headOff_posted ch s p rest h
    have hsame : (chanOf u ch).targets = (chanOf s ch).targets := by
      simp only [u]
      rw [chanOf_chanmod_same]
    have hnext := (startNext_begins ch u).trans (fenceTargets_begins ch (startNext u ch))
    let w := dyingMod id (fun d => { d with
      running := d.running.filter (· ≠ ch), waits := d.waits ++ (chanOf (fenceTargets ch (startNext u ch)) ch).fencing.map (fun t => (ch, t)) })
      (fenceTargets ch (startNext u ch))
    obtain ⟨hchannels, htiles⟩ := settleDying_channels w
    have hwaiters : fenceWaiters (settleDying w) ch = [] := by
      rw [fenceWaiters_of_tiles ch (s := s), hwait]
      rw [htiles]
      show (fenceTargets ch (startNext u ch)).tiles = s.tiles
      exact (congrArg State.tiles hnext.eq :)
    have heq : headDone ch p s = settleDying w := by
      unfold headDone
      simp only [hdead]
      exact settleFences_idle ch _ hwaiters
    have hchan : chanOf (headDone ch p s) ch = chanOf (fenceTargets ch (startNext u ch)) ch := by
      rw [heq, chanOf, hchannels]
      rfl
    rw [hchan]
    refine ⟨hnext.posted.trans hposted, fun n hn => ?_⟩
    rw [← hsame]
    exact hnext.targets n hn

/-! ## Descriptors (R389-R392) -/

theorem oldestFirst_fence (p : Posted) (h : isFence p = true) : oldestFirst s ch p = none := if_pos (.inl h)

end

section

variable (s : State) (ch : Fin 544) (p : Posted) (rest : List Posted)

theorem descriptorDone_exec (hw : works s 20 = true) :
    exec (.siphonDescriptorDone ch) s = .next (descriptorDone ch.val s) := if_pos hw

theorem descriptorDone_oldest (hw : works s 20 = true) (hp : (chanOf s ch.val).posted = p :: rest) (n : Nat)
    (h : oldestFirst s ch.val p = some n) : exec (.siphonDescriptorDone ch) s = .next (beginFence ch.val n s) := by
  have hfence : isFence p ≠ true := fun hf => by
    rw [oldestFirst_fence ch.val s p hf] at h
    cases h
  rw [descriptorDone_exec s ch hw, descriptorDone, hp]
  simp only [h, if_neg hfence]

theorem meterHead_waits (c : Nat) (hp : (chanOf s c).posted = p :: rest) :
    (meterHead c p s).2.mem = s.mem ∧ (meterHead c p s).2.tiles = s.tiles ∧
      (chanOf (meterHead c p s).2 c).posted.map (fun q => q.desc) = (p :: rest).map (fun q => q.desc) := by
  have hdescs : (chanOf s c).posted.map (fun q => q.desc) = (p :: rest).map (fun q => q.desc) := by rw [hp]
  unfold meterHead
  split
  · split
    · exact ⟨rfl, rfl, hdescs⟩
    · simp only
      split
      · exact ⟨rfl, rfl, hdescs⟩
      · refine ⟨rfl, rfl, ?_⟩
        rw [chanOf_chanmod_same, chanOf_jmod, hp]
        rfl
  · exact ⟨rfl, rfl, hdescs⟩

theorem descriptorDone_waits (hw : works s 20 = true) (hp : (chanOf s ch.val).posted = p :: rest) (hf : isFence p = false)
    (ho : oldestFirst s ch.val p = none) (hm : (meterHead ch.val p s).1 = false) :
    ∃ t, exec (.siphonDescriptorDone ch) s = .next t ∧ t.mem = s.mem ∧ t.tiles = s.tiles ∧
      ((chanOf t ch.val).posted.map (fun q => q.desc)) = (p :: rest).map (fun q => q.desc) := by
  obtain ⟨hmem, htiles, hdescs⟩ := meterHead_waits s p rest ch.val hp
  refine ⟨(meterHead ch.val p s).2, ?_, hmem, htiles, hdescs⟩
  rw [descriptorDone_exec s ch hw, descriptorDone, hp]
  simp only [hf, ho, Bool.false_eq_true, if_false]
  generalize meterHead ch.val p s = r at hm
  obtain ⟨go, v⟩ := r
  subst hm
  rfl

/-- A head that may run changes only what its job has moved in the slot. -/
theorem meterHead_goes (c : Nat) (hm : (meterHead c p s).1 = true) :
    ∃ l, meterHead c p s = (true, { s with sluice := { s.sluice with jobs := l } }) := by
  revert hm
  unfold meterHead
  split
  · split
    · exact fun _ => ⟨_, rfl⟩
    · simp only
      split
      · exact fun _ => ⟨_, rfl⟩
      · exact nofun
  · exact fun _ => ⟨_, rfl⟩

/-- A copy from a tile to a cluster. -/
def clusterCopied (c : Nat) (d : SiphonDesc) (a k off : Nat) (s : State) : State :=
  noteTarget c (1024 + k) (poke (clusterBase k + off) (peek s a d.count) (count 0x741b 9 1 s))

theorem runDescriptor_copies (c : Nat) (d : SiphonDesc) (hd : d = parseSiphon p.desc) (a k off : Nat)
    (hkind : d.kind = 0) (hsrc : d.srcFixed = false) (hdst : d.dstFixed = false) (hevent : d.eventOn = false)
    (hfrom : placeOf s d.src d.count = .tile a) (hto : placeOf s d.dst d.count = .cluster k off) (hfree : inReplica s k off d.count = false) :
    runDescriptor c p s = clusterCopied c d a k off s := by
  subst hd
  have hspan : srcSpan (parseSiphon p.desc) = (parseSiphon p.desc).count ∧ dstSpan (parseSiphon p.desc) = (parseSiphon p.desc).count := by
    unfold srcSpan dstSpan
    rw [hkind, hsrc, hdst]
    exact ⟨rfl, rfl⟩
  have hlen : (peek s a (parseSiphon p.desc).count).length = (parseSiphon p.desc).count := by simp [peek, memRead]
  have hdata : siphonData p.actor (parseSiphon p.desc) s = (some (peek s a (parseSiphon p.desc).count), s) := by
    unfold siphonData
    rw [hspan.1, hfrom, hkind, hsrc]
    rfl
  have hkept : inReplica (count 0x741b 9 1 s) k off (parseSiphon p.desc).count = false := hfree
  unfold runDescriptor clusterCopied
  simp only [hspan, hfrom, hto, hdata, hdst, hevent, poisonHit, touchesReplica, hlen, hkept, Bool.false_eq_true, if_false,
    false_and,
    writePlace, mirrorTile, targetOf]

/-- A target noted on its channel (R391). -/
theorem noteTarget_notes (c n : Nat) :
    let t := noteTarget c n s
    t = { s with channels := t.channels, counters := t.counters } ∧ n ∈ (chanOf t c).targets ∧
      (chanOf t c).posted = (chanOf s c).posted ∧ counter t 0x741b 9 = counter s 0x741b 9 := by
  unfold noteTarget
  simp only
  split
  next h => exact ⟨rfl, h, rfl, rfl⟩
  · split
    · refine ⟨rfl, ?_, ?_, rfl⟩ <;> rw [chanOf_chanmod_same]
      exact List.mem_append_right _ List.mem_cons_self
    · refine ⟨rfl, ?_, ?_, counter_count_other _ _ _ _ _ _ (by decide)⟩ <;> rw [chanOf_count, chanOf_chanmod_same]
      exact List.mem_append_right _ List.mem_cons_self

theorem clusterCopied_copies (c : Nat) (d : SiphonDesc) (a k off : Nat) :
    let t := clusterCopied c d a k off s
    t = { s with channels := t.channels, counters := t.counters, mem := memWrite s.mem (clusterBase k + off) (peek s a d.count) } ∧
      1024 + k ∈ (chanOf t c).targets ∧ (chanOf t c).posted = (chanOf s c).posted ∧
      counter t 0x741b 9 = counter s 0x741b 9 + 1 := by
  obtain ⟨heq, hmem, hposted, hcount⟩ :=
    noteTarget_notes (poke (clusterBase k + off) (peek s a d.count) (count 0x741b 9 1 s)) c (1024 + k)
  refine ⟨?_, hmem, hposted, hcount.trans (counter_count_same s 0x741b 9)⟩
  unfold clusterCopied
  rw [heq]
  rfl

theorem descriptorDone_copies (hw : works s 20 = true) (hp : (chanOf s ch.val).posted = p :: rest)
    (hwait : fenceWaiters s ch.val = []) (d : SiphonDesc) (hd : d = parseSiphon p.desc) (a k off : Nat) (ho : oldestFirst s ch.val p = none)
    (hm : (meterHead ch.val p s).1 = true) (hlive : p.dead = none) (hf : isFence p = false) (hkind : d.kind = 0)
    (hsrc : d.srcFixed = false) (hdst : d.dstFixed = false) (hevent : d.eventOn = false)
    (hfrom : placeOf s d.src d.count = .tile a) (hto : placeOf s d.dst d.count = .cluster k off) (hfree : inReplica s k off d.count = false) :
    ∃ t, exec (.siphonDescriptorDone ch) s = .next t ∧ peek t (clusterBase k + off) d.count = peek s a d.count ∧
      (∀ x, ¬(clusterBase k + off ≤ x ∧ x < clusterBase k + off + d.count) → memByte t.mem x = memByte s.mem x) ∧
      (chanOf t ch.val).posted = rest ∧ (1024 + k ∈ (chanOf t ch.val).targets ∨ 1024 + k ∈ (chanOf t ch.val).fencing) ∧
      counter t 0x741b 9 = counter s 0x741b 9 + 1 ∧ t.tiles = s.tiles := by
  obtain ⟨l, hl⟩ := meterHead_goes s p ch.val hm
  let v : State := { s with sluice := { s.sluice with jobs := l } }
  have hrun : runDescriptor ch.val p v = clusterCopied ch.val d a k off v :=
    runDescriptor_copies v p ch.val d hd a k off hkind hsrc hdst hevent hfrom hto hfree
  obtain ⟨heq, htarget, hposted, hcount⟩ := clusterCopied_copies v ch.val d a k off
  generalize clusterCopied ch.val d a k off v = w at hrun heq htarget hposted hcount
  have hwposted : (chanOf w ch.val).posted = p :: rest := hposted.trans hp
  have hwtiles : w.tiles = s.tiles := (congrArg State.tiles heq :)
  have hwmem : w.mem = memWrite s.mem (clusterBase k + off) (peek s a d.count) := (congrArg State.mem heq :)
  obtain ⟨hframe, hrest, -, hkept⟩ := headDone_live ch.val w p rest hwposted hlive ((fenceWaiters_of_tiles ch.val hwtiles).trans hwait)
  have hexec : exec (.siphonDescriptorDone ch) s = .next (headDone ch.val p w) := by
    rw [descriptorDone_exec s ch hw, descriptorDone, hp]
    simp only [hf, ho, hl, Bool.false_eq_true, if_false]
    rw [hrun, hwposted]
    rfl
  have hmem : (headDone ch.val p w).mem = memWrite s.mem (clusterBase k + off) (peek s a d.count) := by
    rw [hframe]
    exact hwmem
  have hlen : (peek s a d.count).length = d.count := by simp [peek, memRead]
  refine ⟨_, hexec, ?_, fun x hx => ?_, hrest, hkept _ (.inl htarget), ?_, ?_⟩
  · have hread := memRead_write s.mem (clusterBase k + off) (peek s a d.count)
    rw [hlen] at hread
    rw [peek, hmem, hread]
  · rw [hmem, memByte_write, hlen, if_neg hx]
  · rw [hframe]
    exact hcount
  · rw [hframe]
    exact hwtiles

/-! ## The read-back of a fence (R393) -/

/-- The target at a physical address: the address map alone names it. -/
def addressTarget (p n : Nat) : Nat :=
  if p < 0x004000000000 then 0
  else match windowOf p with
    | some (m, off) => if off + n ≤ windowBytes then 1 + m else 0
    | none =>
      if 0x080000000000 ≤ p ∧ p + n ≤ 0x080010000000 then 8 + (p - 0x080000000000) / 0x80000
      else if 0x080010000000 ≤ p ∧ p < 0x080020000000 then
        if (p - 0x080010000000) % 0x400000 + n ≤ reserveOff then 1024 + (p - 0x080010000000) / 0x400000 else 0
      else 0

theorem targetOf_place (x n : Nat) : targetOf (placeOf s x n) = addressTarget (ownPhysical s x) n := by
  unfold placeOf addressTarget
  simp only
  generalize ownPhysical s x = q
  generalize windowOf q = w
  split
  · split <;> rfl
  · cases w with
    | some w => simp only; split <;> rfl
    | none =>
      simp only
      split
      · rfl
      · split
        · split <;> rfl
        · split
          · split <;> rfl
          · rfl

theorem ownPhysical_work {u v : State} (h : ChannelWork u v) (x : Nat) : ownPhysical v x = ownPhysical u x := by
  rw [h]
  rfl

/-- A channel that no more waits for target `n`. -/
def unfenced (n : Nat) (x : Channel) : Channel :=
  { x with fencing := x.fencing.filter (fun y => y ≠ n), issued := x.issued.filter (fun e => e.1 ≠ n) }

/-- Before the head is seen to: the target is no more waited for. -/
def fenceReturned (c n : Nat) (s : State) : State :=
  dyingFence c n (chanmod c (unfenced n) (dropReqs (fun r => r.owner == .channel c && r.peer + 1 == n) s))

theorem dropReqs_work (which : RoceReq → Bool) : ChannelWork s (dropReqs which s) := by
  unfold ChannelWork
  rw [(dropReqs_transmits s which).eq]

theorem fenceReturned_facts (c n : Nat) : ChannelWork s (fenceReturned c n s) ∧ (fenceReturned c n s).tiles = s.tiles ∧
    (chanOf (fenceReturned c n s) c).posted = (chanOf s c).posted ∧
    ((∀ e ∈ s.sluice.dying, (c, n) ∉ e.waits) →
      (fenceReturned c n s).counters = s.counters ∧ (fenceReturned c n s).mem = s.mem) := by
  unfold fenceReturned
  have hdrop := (dropReqs_transmits s (fun r => r.owner == .channel c && r.peer + 1 == n)).eq
  generalize dropReqs (fun r => r.owner == .channel c && r.peer + 1 == n) s = u at hdrop
  have hw : chanmod c (unfenced n) u =
      { s with out := u.out, fabric := u.fabric, channels := (chanmod c (unfenced n) u).channels } := by
    nth_rewrite 1 [hdrop]
    rw [hdrop]
    rfl
  have hposted : (chanOf (chanmod c (unfenced n) u) c).posted = (chanOf s c).posted := by
    rw [chanOf_chanmod_same, hdrop]
    rfl
  generalize chanmod c (unfenced n) u = w at hw hposted
  obtain ⟨hchannels, htiles⟩ := dyingFence_channels c w n
  have hwork : ChannelWork s w := by
    unfold ChannelWork
    rw [hw]
  refine ⟨hwork.trans (dyingFence_work w c n), by rw [htiles, hw], ?_, fun h => ?_⟩
  · rw [chanOf, hchannels]
    exact hposted
  · rw [dyingFence_idle c w n (by rw [hw]; exact h), hw]
    exact ⟨rfl, rfl⟩

/-- The head's fence counted, its target no more noted. -/
def fenceCounted (c n : Nat) (s : State) : State :=
  count 0x741b 0x0a 1 (chanmod c (fun x => { x with targets := x.targets.filter (fun y => y ≠ n) }) s)

theorem fenceReturn_head (c n : Nat) (hf : isFence p = true) (hevent : (parseSiphon p.desc).eventOn = false)
    (hp : (chanOf s c).posted = p :: rest) (hn : n = targetOf (placeOf s (parseSiphon p.desc).dst 1)) :
    fenceReturn c n s = headDone c p (fenceCounted c n (fenceReturned c n s)) := by
  have hfacts := fenceReturned_facts s c n
  unfold fenceReturn
  extract_lets u₀ u
  have hu : fenceReturned c n s = u := rfl
  rw [hu] at hfacts ⊢
  clear_value u
  obtain ⟨hwork, -, hposted, -⟩ := hfacts
  have htarget : targetOf (placeOf u (parseSiphon p.desc).dst 1) = n := by
    rw [targetOf_place, ownPhysical_work hwork, ← targetOf_place, hn]
  have hfirst : oldestFirst u c p ≠ some n := by
    rw [oldestFirst_fence c u p hf]
    nofun
  rw [hposted, hp]
  simp only [if_neg hfirst, hf, htarget, hevent, Bool.false_eq_true, false_and, and_self, if_true, if_false]
  rfl

theorem siphonFenceReturn_returns (hw : works s 20 = true) (hp : (chanOf s ch.val).posted = p :: rest)
    (hwait : fenceWaiters s ch.val = []) (a : BitVec 48) (hf : isFence p = true) (hevent : (parseSiphon p.desc).eventOn = false)
    (n : Nat) (hn : n = targetOf (placeOf s a.toNat 1)) (hdst : n = targetOf (placeOf s (parseSiphon p.desc).dst 1))
    (hfencing : n ∈ (chanOf s ch.val).fencing) :
    ∃ t, exec (.siphonFenceReturn ch a) s = .next t ∧ (chanOf t ch.val).posted = rest ∧ n ∉ (chanOf t ch.val).targets ∧
      (p.dead = none → (∀ e ∈ s.sluice.dying, (ch.val, n) ∉ e.waits) →
        counter t 0x741b 0x0a = counter s 0x741b 0x0a + 1 ∧ t.mem = s.mem) := by
  have hexec : exec (.siphonFenceReturn ch a) s = .next (headDone ch.val p (fenceCounted ch.val n (fenceReturned ch.val n s))) := by
    rw [← fenceReturn_head s p rest ch.val n hf hevent hp hdst]
    show execSiphonFenceReturn ch a s = _
    unfold execSiphonFenceReturn
    rw [← hn]
    exact if_pos ⟨hfencing, hw⟩
  obtain ⟨-, htiles, hposted, hidle⟩ := fenceReturned_facts s ch.val n
  generalize fenceReturned ch.val n s = u at hexec htiles hposted hidle
  have hpost : (chanOf (fenceCounted ch.val n u) ch.val).posted = p :: rest := by
    rw [fenceCounted, chanOf_count, chanOf_chanmod_same]
    exact hposted.trans hp
  have hgone : n ∉ (chanOf (fenceCounted ch.val n u) ch.val).targets := by
    rw [fenceCounted, chanOf_count, chanOf_chanmod_same]
    simp
  have hwaiters : fenceWaiters (fenceCounted ch.val n u) ch.val = [] := (fenceWaiters_of_tiles ch.val htiles).trans hwait
  obtain ⟨hrest, htargets⟩ := headDone_posted ch.val (fenceCounted ch.val n u) p rest hpost hwaiters
  refine ⟨_, hexec, hrest, fun h => hgone (htargets n h), fun hlive hdying => ?_⟩
  obtain ⟨hcounters, hmem⟩ := hidle hdying
  obtain ⟨hframe, -⟩ := headDone_live ch.val (fenceCounted ch.val n u) p rest hpost hlive hwaiters
  rw [hframe]
  refine ⟨?_, hmem⟩
  have hcount : counter (fenceCounted ch.val n u) 0x741b 0x0a = counter u 0x741b 0x0a + 1 := counter_count_same _ 0x741b 0x0a
  rw [counter_eq_of_counters hcounters] at hcount
  exact hcount

end

end Sys2Proof.Machine

end

section
/-!
PROOF. Fabric ports: their control, their link, discovery and received frames (R382-R384).
-/

namespace Sys2Proof.Machine

open Claims

section

variable (s : State)

/-! ## Start and stop (R383) -/

theorem fabControl_passes (k : Nat) (p : Fin 3) (c : BitVec 8) (h : HostMay k 1 s) : WritePasses s k (0x3450 + p.val) 8 [c] := by
  have hdef : ∀ y : Fin 3, objDef (0x3450 + y.val) 8 = some (.u8, .rw, 0) := by decide
  have hp := p.isLt
  refine ⟨.u8, .rw, 0, hdef p, nofun, ?_, ?_, ?_, ?_, nofun, fun _ => ?_⟩
  · have hr : writeRight k (0x3450 + p.val) 8 [c] = 1 := by
      simp only [writeRight, famBase_fabric]
      rw [if_neg (by omega), if_neg (by omega), if_neg (by omega), if_neg (by omega), if_neg (by omega), if_neg (by omega),
        if_neg (by omega), if_neg (by omega), if_neg (by omega)]
    rw [hr]
    exact h.2
  · simp [notOwner, famBase_fabric]
  · simp [typeOk, otyLen]
  · simp [reservedOk, valueMask, zeroFields, recordHeader, famBase_fabric, sel, tblGet]
  · simp [rangeOk, rangeLow, famBase_fabric, sel, tblGet]

theorem writeEffect_fabControl (k : Nat) (p : Fin 3) (c : BitVec 8) :
    writeEffect k (0x3450 + p.val) 8 [c] s = fabControl p.val c.toNat s := by
  have hv : leNat [c] = c.toNat := by simp [leNat]
  unfold writeEffect
  simp only [famBase_fabric]
  show fabControl p.val (leNat [c]) s = _
  rw [hv]

@[simp] theorem fabOf_taken (k p : Nat) : fabOf (taken k s) p = fabOf s p := by rw [taken_eq]; rfl

/-- A port's stop when no copy runs through it. -/
def portStopped (p : Nat) (s : State) : State := fabmod p (fun f => { f with running := false }) (portCut p 0 s)

theorem fabricOut_quiet (p : Nat) (st : BitVec 8) (h : copiesThrough s p = []) : fabricOut p st s =
    if st = 5 then callReplan (chargesPort p) (portCut p st s) else portCut p st s := by
  rw [fabricOut_eq, h]
  rfl

theorem fabricPortStart_starts (k : Fin 64) (p : Fin 3) (h : HostMay k.val 1 s) (hr : (fabOf s p.val).running = false) :
    Completes (.fabricPortStart k p) k.val []
      (fabmod p.val (fun f => { f with running := true, state := if f.state = 5 then 5 else 1 }) s) s := by
  refine ⟨_, rfl, hostWrite_effect s k.val _ _ [1] []
    (fabmod p.val (fun f => { f with running := true, state := if f.state = 5 then 5 else 1 })) h.1
    (fabControl_passes s k.val p 1 h) (fun _ _ _ => rfl) ?_⟩
  rw [writeEffect_fabControl]
  exact congrArg (WRes.done []) (if_neg (by simp [hr]))

theorem fabricPortStop_retired (k : Fin 64) (p : Fin 3) (h : HostMay k.val 1 s) (hr : (fabOf s p.val).running = true)
    (hst : (fabOf s p.val).state = 5) :
    Completes (.fabricPortStop k p) k.val [] (fabmod p.val (fun f => { f with running := false }) s) s := by
  refine ⟨_, rfl, hostWrite_effect s k.val _ _ [2] [] (fabmod p.val (fun f => { f with running := false })) h.1
    (fabControl_passes s k.val p 2 h) (fun _ _ _ => rfl) ?_⟩
  rw [writeEffect_fabControl]
  refine congrArg (WRes.done []) ?_
  rw [fabStop, if_pos (by simp [hr]), if_pos (by simp [hst])]

theorem fabricPortStop_stops (k : Fin 64) (p : Fin 3) (h : HostMay k.val 1 s) (hr : (fabOf s p.val).running = true)
    (hst : (fabOf s p.val).state ≠ 5) (hc : copiesThrough s p.val = []) :
    Completes (.fabricPortStop k p) k.val [] (portStopped p.val s) s := by
  refine ⟨_, rfl, hostWrite_effect s k.val _ _ [2] [] (portStopped p.val) h.1 (fabControl_passes s k.val p 2 h) (fun _ _ _ => rfl) ?_⟩
  have hc' : copiesThrough (taken k.val s) p.val = [] := by
    rw [taken_eq]
    exact hc
  rw [writeEffect_fabControl]
  refine congrArg (WRes.done []) ?_
  rw [fabStop, if_pos (by simp [hr]), if_neg (by simpa using hst), fabricOut_quiet _ _ _ hc']
  rfl

theorem fabOf_portStopped (p : Nat) : fabOf (portStopped p s) p = { fabOf s p with
      running := false, state := 0, peersUp := [], reqs := (fabOf s p).reqs.filter outlivesPort, paused := 0
      held := [], rx := 0, xoff := false } ∧ (∀ y, y ≠ p → fabOf (portStopped p s) y = fabOf s y) ∧ (portStopped p s).mem = s.mem := by
  unfold portStopped portCut
  refine ⟨?_, fun y hy => ?_, rfl⟩
  · rw [fabOf_fabmod_same, fabOf_fabmod_same]
    rfl
  · rw [fabOf_fabmod, if_neg hy, fabOf_fabmod, if_neg hy]

/-! ## The link (R383, R384) -/

/-- A peer discovered: a frame sent, its answer awaited. -/
def discoverPeer (p m : Nat) (s : State) : State :=
  newReq m .discovery .write 0 [] (emitFabric p (.fabric (Fin.ofNat 3 p) (discoverySend s p)) s)

theorem discover_peers (p : Nat) : discover p s = forEach (portReaches s p) (discoverPeer p) s := rfl

/-- Ports as they were, but for what they ask and hold. -/
structure PortsKept (s t : State) : Prop where
  eq : t = { s with fabric := t.fabric, out := t.out }
  port : ∀ q, fabOf t q = { fabOf s q with reqs := (fabOf t q).reqs, nextReq := (fabOf t q).nextReq, held := (fabOf t q).held }

theorem PortsKept.refl (s : State) : PortsKept s s := ⟨rfl, fun _ => rfl⟩

theorem PortsKept.trans {s t u : State} (h : PortsKept s t) (k : PortsKept t u) : PortsKept s u :=
  ⟨by rw [k.eq, h.eq], fun q => by rw [k.port q, h.port q]⟩

theorem emitFabric_keeps (p : Nat) (f : OutFrame) : PortsKept s (emitFabric p f s) := by
  by_cases h : portHolds s p
  · rw [emitFabric_holds s p f h]
    refine ⟨rfl, fun q => ?_⟩
    rw [fabOf_fabmod]
    split
    next hq => rw [hq]
    · rfl
  · rw [emitFabric_sends s p f h]
    exact ⟨rfl, fun _ => rfl⟩

/-- A request that asks for nothing sends no packet: it only waits for its answer. -/
theorem newReq_discovery (m : Nat) :
    PortsKept s (newReq m .discovery .write 0 [] s) ∧ (newReq m .discovery .write 0 [] s).out = s.out ∧
    ∀ q, (fabOf (newReq m .discovery .write 0 [] s) q).held = (fabOf s q).held := by
  unfold newReq
  split
  · exact ⟨.refl s, rfl, fun _ => rfl⟩
  next q _ =>
    have hnone : ∀ u : State, sendPackets q m 0 .write 0 [] u = u := fun u => rfl
    simp only [hnone, reduceCtorEq, if_false]
    refine ⟨⟨rfl, fun x => ?_⟩, rfl, fun x => ?_⟩
    · rw [fabOf_fabmod]
      split
      next hx => rw [hx]
      · rfl
    · rw [fabOf_fabmod]
      split
      next hx => rw [hx]
      · rfl

theorem discoverPeer_keeps (p m : Nat) : PortsKept s (discoverPeer p m s) :=
  (emitFabric_keeps s p _).trans (newReq_discovery _ m).1

theorem discover_keeps (p : Nat) : PortsKept s (discover p s) :=
  forEach_rel PortsKept .refl (fun _ _ _ h k => h.trans k) (discoverPeer p) (portReaches s p) (fun m _ u => discoverPeer_keeps u p m) s

theorem portHolds_congr {s t : State} (p : Nat) (hc : t.clock = s.clock) (hp : (fabOf t p).paused = (fabOf s p).paused)
    (hh : (fabOf t p).held = (fabOf s p).held) : portHolds t p ↔ portHolds s p := by
  unfold portHolds now
  rw [hc, hp, hh]

theorem ofNat_port (p : Fin 3) : Fin.ofNat 3 p.val = p := by
  revert p
  decide

/-- A port that holds nothing sends the frame at once, and holds nothing still. -/
theorem discoverPeer_sends (p m : Nat) (h : ¬portHolds s p) :
    (discoverPeer p m s).out = s.out ++ [.fabric (Fin.ofNat 3 p) (discoverySend s p)] ∧ ¬portHolds (discoverPeer p m s) p := by
  have hemit := emitFabric_sends s p (.fabric (Fin.ofNat 3 p) (discoverySend s p)) h
  unfold discoverPeer
  rw [hemit]
  obtain ⟨hkeeps, hout, hheld⟩ := newReq_discovery (emit (.fabric (Fin.ofNat 3 p) (discoverySend s p)) s) m
  generalize newReq m .discovery .write 0 [] (emit (.fabric (Fin.ofNat 3 p) (discoverySend s p)) s) = t at hkeeps hout hheld
  refine ⟨hout, ?_⟩
  have hclock : t.clock = s.clock := by
    rw [hkeeps.eq]
    rfl
  have hpaused : (fabOf t p).paused = (fabOf s p).paused := by
    rw [hkeeps.port p]
    rfl
  have hheld' : (fabOf t p).held = (fabOf s p).held := hheld p
  exact mt (portHolds_congr p hclock hpaused hheld').mp h

theorem discoverySend_congr {s t : State} (p : Nat) (hd : t.dict = s.dict) (hb : t.boot = s.boot) :
    discoverySend t p = discoverySend s p := by
  have hcfg : ∀ i j, cfg t i j = cfg s i j := fun i j => by rw [cfg, cfgBytes, hd, ← cfgBytes, ← cfg]
  unfold discoverySend position
  rw [hcfg, hcfg, hb]

theorem discoverAll_sends (p : Nat) (l : List Nat) (h : ¬portHolds s p) :
    (forEach l (discoverPeer p) s).out = s.out ++ List.replicate l.length (.fabric (Fin.ofNat 3 p) (discoverySend s p)) := by
  induction l generalizing s with
  | nil => simp [forEach]
  | cons m l ih =>
    obtain ⟨hout, hfree⟩ := discoverPeer_sends s p m h
    have hsame : discoverySend (discoverPeer p m s) p = discoverySend s p :=
      discoverySend_congr p (by rw [(discoverPeer_keeps s p m).eq]) (by rw [(discoverPeer_keeps s p m).eq])
    rw [forEach_cons, ih _ hfree, hout, hsame, List.length_cons, List.replicate_succ]
    simp

/-- The link trained on all eight lanes, or on four. -/
def linkTrained (p : Nat) (st : BitVec 8) (four : Bool) (s : State) :
    State := fabmod p (fun f => { f with state := st, four := four }) s

theorem fabOf_linkTrained (p : Nat) (st : BitVec 8) (four : Bool) {t : State} (h : t.fabric = (linkTrained p st four s).fabric) :
    fabOf t p = { fabOf s p with state := st, four := four } := by
  have ht : fabOf t p = fabOf (linkTrained p st four s) p := by rw [fabOf, h, fabOf]
  rw [ht, linkTrained, fabOf_fabmod_same]

theorem linkUp_runs (p : Fin 3) (m : BitVec 8) (hr : (fabOf s p.val).running = true) (hst : (fabOf s p.val).state = 1)
    (hon : domainOn s (16 + p.val) = true) : exec (.fabricLinkUp p m) s =
      (if (fabOf s p.val).lanes = 0 then .next (if m = 0xff then discover p.val (linkTrained p.val 2 false s) else s)
      else if goodHalf (fabOf s p.val).lanes = some m then .next (discover p.val (callReplan (chargesPort p.val)
        (count 0x741b 0x0d 1 (linkTrained p.val 3 true s))))
      else .next (fabricOut p.val 5 s)) := by
  have hdown : fabricUp s p.val = false := by
    unfold fabricUp
    rw [hst]
    rfl
  show execFabricLinkUp p m s = _
  unfold execFabricLinkUp
  simp only [hdown, hr, hst, hon, Bool.false_eq_true, false_and, and_false, if_false, Bool.not_true, ne_eq, not_true_eq_false,
    or_self]
  rfl

theorem linkUp_eight (p : Fin 3) (hr : (fabOf s p.val).running = true) (hst : (fabOf s p.val).state = 1)
    (hon : domainOn s (16 + p.val) = true) (hl : (fabOf s p.val).lanes = 0) :
    ∃ t, exec (.fabricLinkUp p 0xff) s = .next t ∧ (fabOf t p.val).state = 2 ∧ (fabOf t p.val).four = false ∧
      ((fabOf s p.val).paused ≤ now s → (fabOf s p.val).held = [] →
        t.out = s.out ++ List.replicate (portReaches s p.val).length (.fabric p (discoverySend s p.val))) := by
  have hkeeps := discover_keeps (linkTrained p.val 2 false s) p.val
  have hport : fabOf (linkTrained p.val 2 false s) p.val = { fabOf s p.val with state := 2, four := false } := fabOf_linkTrained s p.val 2 false rfl
  refine ⟨discover p.val (linkTrained p.val 2 false s), ?_, ?_, ?_, fun hpaused hheld => ?_⟩
  · rw [linkUp_runs s p _ hr hst hon, if_pos hl, if_pos rfl]
  · rw [hkeeps.port, hport]
  · rw [hkeeps.port, hport]
  · have hfree : ¬portHolds (linkTrained p.val 2 false s) p.val := by
      unfold portHolds
      rw [hport]
      rintro (h | h)
      · exact absurd h (Nat.not_lt.mpr hpaused)
      · exact h hheld
    have hall := discoverAll_sends (linkTrained p.val 2 false s) p.val (portReaches (linkTrained p.val 2 false s) p.val) hfree
    rw [ofNat_port] at hall
    exact hall

theorem linkUp_four (p : Fin 3) (m : BitVec 8) (hr : (fabOf s p.val).running = true) (hst : (fabOf s p.val).state = 1)
    (hon : domainOn s (16 + p.val) = true) (hl : (fabOf s p.val).lanes ≠ 0) (hm : goodHalf (fabOf s p.val).lanes = some m) :
    ∃ t, exec (.fabricLinkUp p m) s = .next t ∧ (fabOf t p.val).state = 3 ∧ (fabOf t p.val).four = true ∧
      counter t 0x741b 0x0d = counter s 0x741b 0x0d + 1 := by
  let v := callReplan (chargesPort p.val) (count 0x741b 0x0d 1 (linkTrained p.val 3 true s))
  have hkeeps := discover_keeps v p.val
  have hport : fabOf v p.val = { fabOf s p.val with state := 3, four := true } := fabOf_linkTrained s p.val 3 true rfl
  refine ⟨discover p.val v, ?_, ?_, ?_, ?_⟩
  · rw [linkUp_runs s p _ hr hst hon, if_neg hl, if_pos hm]
  · rw [hkeeps.port, hport]
  · rw [hkeeps.port, hport]
  · have hcount : (discover p.val v).counters = v.counters := by rw [hkeeps.eq]
    rw [counter_eq_of_counters hcount]
    exact counter_count_same (linkTrained p.val 3 true s) 0x741b 0x0d

theorem linkUp_fails (p : Fin 3) (m : BitVec 8) (hr : (fabOf s p.val).running = true) (hst : (fabOf s p.val).state = 1)
    (hon : domainOn s (16 + p.val) = true) (hl : (fabOf s p.val).lanes ≠ 0) (hm : goodHalf (fabOf s p.val).lanes ≠ some m)
    (hc : copiesThrough s p.val = []) : ∃ t, exec (.fabricLinkUp p m) s = .next t ∧ (fabOf t p.val).state = 5 ∧
      (fabOf t p.val).peersUp = [] := by
  refine ⟨fabricOut p.val 5 s, ?_, ?_⟩
  · rw [linkUp_runs s p _ hr hst hon, if_neg hl, if_neg hm]
  · rw [fabricOut_quiet s p.val 5 hc, if_pos rfl]
    have hport : fabOf (callReplan (chargesPort p.val) (portCut p.val 5 s)) p.val = cutPort 5 (fabOf s p.val) := fabOf_fabmod_same s p.val _
    rw [hport]
    exact ⟨rfl, rfl⟩

theorem linkDown_cuts (p : Fin 3) (hr : (fabOf s p.val).running = true) (h2 : 2 ≤ (fabOf s p.val).state)
    (h4 : (fabOf s p.val).state ≤ 4) (hc : copiesThrough s p.val = []) : ∃ t, exec (.fabricLinkDown p) s = .next t ∧
      fabOf t p.val = { fabOf s p.val with state := 1, peersUp := [], reqs := (fabOf s p.val).reqs.filter outlivesPort, paused := 0
                                           held := [], rx := 0, xoff := false } ∧ ∀ y, y ≠ p.val → fabOf t y = fabOf s y := by
  have hout : fabricOut p.val 1 s = portCut p.val 1 s := by
    rw [fabricOut_quiet s p.val 1 hc]
    exact if_neg (by decide)
  refine ⟨portCut p.val 1 s, ?_, fabOf_fabmod_same s p.val _, fun y hy => ?_⟩
  · rw [← hout]
    exact congrArg Host.Outcome.next (if_pos ⟨hr, h2, h4⟩)
  · rw [portCut, fabOf_fabmod, if_neg hy]

/-! ## Discovery (R384) -/

theorem discoveryReceived_answers (p e : Fin 3) (b : Bytes) (m : Nat) (hup : fabricUp s p.val = true)
    (hm : (portReaches s p.val)[e.val]? = some m) : ∃ t, exec (.discoveryReceived p e b) s = .next t ∧
      (Config.discoveryPosition b = m → t = { s with fabric := t.fabric, out := t.out } ∧ m ∈ (fabOf t p.val).peersUp) ∧
      (Config.discoveryPosition b ≠ m → (fabOf t p.val).state = 4 ∧ counter t 0x741b 0x0c = counter s 0x741b 0x0c + 1) := by
  have hdrop := (dropReqs_transmits s (fun r => r.owner == .discovery && r.peer == m)).eq
  have hexec : exec (.discoveryReceived p e b) s = .next (
      if Config.discoveryPosition b = m then
        fabmod p.val (fun f => { f with peersUp := if m ∈ f.peersUp then f.peersUp else f.peersUp ++ [m] })
          (dropReqs (fun r => r.owner == .discovery && r.peer == m) s)
      else count 0x741b 0x0c 1 (fabmod p.val (fun f => { f with state := 4, peersUp := f.peersUp.filter (fun x => decide (x ≠ m)) })
        (dropReqs (fun r => r.owner == .discovery && r.peer == m) s))) := by
    show execDiscoveryReceived p e b s = _
    unfold execDiscoveryReceived
    rw [hup]
    simp only [hm, Bool.not_true, Bool.false_eq_true, if_false]
  generalize dropReqs (fun r => r.owner == .discovery && r.peer == m) s = u at hdrop hexec
  refine ⟨_, hexec, fun h => ?_, fun h => ?_⟩
  · rw [if_pos h, fabOf_fabmod_same]
    refine ⟨?_, ?_⟩
    · nth_rewrite 1 [hdrop]
      rfl
    · simp only
      split
      next hmem => exact hmem
      · exact List.mem_append_right _ List.mem_cons_self
  · rw [if_neg h, fabOf_count, fabOf_fabmod_same]
    refine ⟨rfl, ?_⟩
    have hcount : ∀ w : State, w.counters = s.counters → counter (count 0x741b 0x0c 1 w) 0x741b 0x0c = counter s 0x741b 0x0c + 1 :=
      fun w hw => by rw [counter_count_same, counter_eq_of_counters hw]
    exact hcount _ (by rw [hdrop]; rfl)

/-! ## Received frames (R382) -/

/-- Packets held while a port was paused leave when it is not. -/
theorem releaseHeld_none (p : Nat) (h : now s < (fabOf s p).paused) : releaseHeld p s = s := if_pos (.inr h)

theorem emitAll_out (l : List OutFrame) : forEach l emit s = { s with out := s.out ++ l } := by
  induction l generalizing s with
  | nil => simp [forEach]
  | cons f l ih =>
    rw [forEach_cons, ih, emit]
    simp

theorem releaseHeld_all (p : Nat) (h : ¬now s < (fabOf s p).paused) :
    (releaseHeld p s).out = s.out ++ (fabOf s p).held ∧ fabOf (releaseHeld p s) p = { fabOf s p with held := [] } ∧
      releaseHeld p s = { s with fabric := (releaseHeld p s).fabric, out := (releaseHeld p s).out } := by
  unfold releaseHeld
  by_cases hnone : (fabOf s p).held = []
  · rw [if_pos (.inl hnone), hnone, List.append_nil]
    exact ⟨rfl, by rw [← hnone], rfl⟩
  · rw [if_neg (by rintro (h' | h') <;> contradiction), emitAll_out]
    exact ⟨rfl, (fabOf_fabmod_same s p (fun f => { f with held := [] }) :), rfl⟩

/-- A pause of `n` quanta taken (R382). -/
def pauseOf (s : State) (p n : Nat) : Nat := now s + ceilDiv (512 * n) (if (fabOf s p).four then 400 else 800)

theorem pauseOf_zero (p : Nat) : pauseOf s p 0 = now s := by
  unfold pauseOf ceilDiv
  split <;> simp

theorem pauseOf_pos (p n : Nat) (h : n ≠ 0) : now s < pauseOf s p n := by
  unfold pauseOf ceilDiv
  split <;> omega

/-- The instant to which a port is paused set. -/
def pausedTo (p x : Nat) (s : State) : State := fabmod p (fun f => { f with paused := x }) s

theorem takePfc_eq (p n : Nat) : takePfc p n s = releaseHeld p (pausedTo p (pauseOf s p n) s) := by
  unfold takePfc pauseOf pausedTo
  rfl

theorem fabOf_pausedTo (p x : Nat) : fabOf (pausedTo p x s) p = { fabOf s p with paused := x } := fabOf_fabmod_same s p _

theorem takePfc_takes (p n : Nat) :
    (takePfc p n s).out = s.out ++ (if n = 0 then (fabOf s p).held else []) ∧
      fabOf (takePfc p n s) p = { fabOf s p with paused := pauseOf s p n, held := if n = 0 then [] else (fabOf s p).held } ∧
      takePfc p n s = { s with fabric := (takePfc p n s).fabric, out := (takePfc p n s).out } := by
  have hport := fabOf_pausedTo s p (pauseOf s p n)
  have hnow : now (pausedTo p (pauseOf s p n) s) = now s := by unfold now; rfl
  rw [takePfc_eq]
  by_cases hn : n = 0
  · have hfree : ¬now (pausedTo p (pauseOf s p n) s) < (fabOf (pausedTo p (pauseOf s p n) s) p).paused := by
      rw [hnow, hport, hn, pauseOf_zero]
      exact Nat.lt_irrefl _
    obtain ⟨hout, hfab, hframe⟩ := releaseHeld_all (pausedTo p (pauseOf s p n) s) p hfree
    rw [if_pos hn, if_pos hn]
    refine ⟨?_, ?_, hframe⟩
    · rw [hout, hport]
      rfl
    · rw [hfab, hport]
  · have hheld : now (pausedTo p (pauseOf s p n) s) < (fabOf (pausedTo p (pauseOf s p n) s) p).paused := by
      rw [hnow, hport]
      exact pauseOf_pos s p n hn
    rw [releaseHeld_none _ _ hheld, if_neg hn, if_neg hn, hport]
    refine ⟨(List.append_nil _).symm, rfl, rfl⟩

/-- The answer goes to the link-layer source of the question (R377). -/
theorem answerFrame_source (mac : Bytes) (b : Bytes) (h : 14 ≤ b.length) : (answerFrame mac [] b).take 6 = bytesAt b 6 6 := by
  have hlen : (bytesAt b 6 6).length = 6 := by
    simp only [bytesAt, List.length_take, List.length_drop]
    omega
  unfold answerFrame padTo
  simp only [List.append_assoc]
  rw [List.take_of_length_le (Nat.le_max_left _ 60), List.append_assoc, List.take_append_of_le_length (by omega),
    List.take_of_length_le (by omega)]

theorem frameReceived_runs (p : Fin 3) (b : Bytes) (hup : fabricUp s p.val = true) (hs : spoilt (0x40 + p.val) s = false)
    (hlen : b.length ≤ 9216) :
    (∀ n, pfcTime b (cfg s (0x3450 + p.val) 5) = some n → exec (.fabricFrameReceived p b) s =
      .next (takePfc p.val n (receiveBytes p.val b.length s))) ∧
    (pfcTime b (cfg s (0x3450 + p.val) 5) = none → exec (.fabricFrameReceived p b) s =
      .next (if fabricAsks s p.val b then fabricAnswer p b (receiveBytes p.val b.length s) else receiveBytes p.val b.length s)) := by
  have hbuf := (receiveBytes_buffers s p.val b.length).eq
  have hasks : fabricAsks (receiveBytes p.val b.length s) p.val b = fabricAsks s p.val b := by
    rw [hbuf]
    rfl
  have hprio : cfg (receiveBytes p.val b.length s) (0x3450 + p.val) 5 = cfg s (0x3450 + p.val) 5 := by
    rw [hbuf]
    rfl
  have hok : ¬((!(fabricUp s p.val)) = true ∨ 9216 < b.length) := by
    rw [hup]
    rintro (h | h)
    · cases h
    · omega
  have hexec : exec (.fabricFrameReceived p b) s = execFabricFrameReceived p b s := rfl
  rw [hexec, ← hasks, ← hprio]
  unfold execFabricFrameReceived
  rw [if_neg hok, hs]
  simp only [Bool.false_eq_true, if_false]
  refine ⟨fun n hn => ?_, fun hn => ?_⟩
  · simp only [hn]
  · simp only [hn]

theorem heard_of {s u t : State} {fab fab' : Tbl FabricPort} {o o' : List OutFrame} {c : Nat}
    (hu : u = { s with fabric := fab, out := o, freeCtr := c }) (ht : t = { u with fabric := fab', out := o' }) :
    t = { s with fabric := t.fabric, out := t.out, freeCtr := c } := by
  subst hu
  subst ht
  rfl

theorem frameReceived_buffers (p : Fin 3) (b : Bytes) (hup : fabricUp s p.val = true) (hs : spoilt (0x40 + p.val) s = false)
    (hlen : b.length ≤ 9216) : ∃ t, exec (.fabricFrameReceived p b) s = .next t ∧
      t = { s with fabric := t.fabric, out := t.out, freeCtr := s.freeCtr + 1 } ∧
      let g := fabOf t p.val
      let f := fabOf s p.val
      let r := answerFrame (beBytes 6 (portMac s (4 + p.val)).toNat) [] b
      g.rx ≤ 0x200000 ∧ (g.rx ≤ 0x100000 → g.xoff = false) ∧ (0x180000 ≤ g.rx → g.xoff = true) ∧
      (∀ n, pfcTime b (cfg s (0x3450 + p.val) 5) = some n →
        g = { f with rx := g.rx, xoff := g.xoff, paused := pauseOf s p.val n, held := if n = 0 then [] else f.held } ∧
        t.out = s.out ++ pfcSent p.val g.xoff s ++ (if n = 0 then f.held else [])) ∧
      (pfcTime b (cfg s (0x3450 + p.val) 5) = none → g = { f with rx := g.rx, xoff := g.xoff } ∧
        t.out = s.out ++ pfcSent p.val g.xoff s ++ (if fabricAsks s p.val b then [.fabric p r] else []) ∧
        (14 ≤ b.length → r.take 6 = bytesAt b 6 6)) := by
  have hbuf := receiveBytes_buffers s p.val b.length
  obtain ⟨hpause, hplain⟩ := frameReceived_runs s p b hup hs hlen
  generalize receiveBytes p.val b.length s = u at hbuf hpause hplain
  obtain ⟨hframe, hport, hfull, hxon, hxoff⟩ := hbuf
  have hmac : portMac u (4 + p.val) = portMac s (4 + p.val) := by
    rw [hframe]
    rfl
  have huout : u.out = s.out ++ pfcSent p.val (fabOf u p.val).xoff s := (congrArg State.out hframe :)
  cases hn : pfcTime b (cfg s (0x3450 + p.val) 5) with
  | some n =>
    obtain ⟨hout, hg, ht⟩ := takePfc_takes u p.val n
    have hpaused : pauseOf u p.val n = pauseOf s p.val n := by
      have hnow : now u = now s := by
        rw [hframe]
        unfold now
        rfl
      rw [pauseOf, hnow, hport, ← pauseOf]
    refine ⟨_, hpause n hn, ?_, ?_⟩
    · exact heard_of hframe ht
    · simp only
      rw [hg]
      refine ⟨hfull, hxon, hxoff, fun m hm => ?_, nofun⟩
      obtain rfl : n = m := Option.some.inj hm
      refine ⟨?_, ?_⟩
      · rw [hpaused, hport]
      · rw [hout, huout, hport]
  | none =>
    refine ⟨_, hplain hn, ?_, ?_⟩
    · split
      · exact heard_of hframe rfl
      · exact heard_of (t := u) hframe rfl
    · simp only
      have hasked : fabOf (if fabricAsks s p.val b then fabricAnswer p b u else u) p.val = fabOf u p.val := by
        split
        · rfl
        · rfl
      rw [hasked]
      refine ⟨hfull, hxon, hxoff, nofun, fun _ => ⟨hport, ?_, answerFrame_source _ b⟩⟩
      rw [← huout, ← hmac]
      split
      · rfl
      · exact (List.append_nil _).symm

end

/-- Settles O55: a port by its control, its link, discovery and frames; a channel by its descriptors and fences. -/
theorem fabricAndSiphon : Obligations.FabricAndSiphon := by
  unfold Obligations.FabricAndSiphon
  refine ⟨fun s k p h => ?_, fun s p => ?_, fun s ch p rest hw hp hwait => ?_⟩
  · obtain ⟨hport, hother, hmem⟩ := fabOf_portStopped s p.val
    exact ⟨fabricPortStart_starts s k p h, fabricPortStop_retired s k p h,
      fun hr hst hc => ⟨_, fabricPortStop_stops s k p h hr hst hc, hport, hother, hmem⟩⟩
  · refine ⟨fun hr hst hon => ⟨linkUp_eight s p hr hst hon, fun m hl hm => linkUp_four s p m hr hst hon hl hm,
      fun m hl hm hc => linkUp_fails s p m hr hst hon hl hm hc⟩, linkDown_cuts s p,
      fun e b m hup hm => discoveryReceived_answers s p e b m hup hm, fun b hup hs hlen => ?_⟩
    have hrec := frameReceived_buffers s p b hup hs hlen
    unfold pfcSent at hrec
    rw [ofNat_port] at hrec
    exact hrec
  · exact ⟨fun n hn => descriptorDone_oldest s ch p rest hw hp n hn,
      fun hf ho hm => descriptorDone_waits s ch p rest hw hp hf ho hm,
      fun a c off ho hm hlive hf hkind hsrc hdst hevent hfrom hto hfree =>
        descriptorDone_copies s ch p rest hw hp hwait _ rfl a c off ho hm hlive hf hkind hsrc hdst hevent hfrom hto hfree,
      fun a hf hevent hdst hfencing => siphonFenceReturn_returns s ch p rest hw hp hwait a hf hevent _ rfl hdst hfencing⟩

end Sys2Proof.Machine

end

section
/-!
PROOF. A fence of an ended attempt that is dropped while the head of its channel is a fence of another one (R62, R64).
-/

namespace Sys2Proof.Machine

open Claims

/-- A fence descriptor on own Cistern, posted by attempt 2, which has ended. -/
def deadFence : Posted := { desc := zeros 21 ++ [16] ++ zeros 10, job := none, tile := 0, dead := some 2 }

/-- Two ended attempts of the job: the first waits for the read-back of own Cistern on channel 512, where the head is a fence of the
second, on the same target, which copies of that attempt have noted before. -/
def sharedFence : State := { State.reset with
  channels := [(512, { posted := [deadFence], running := true, targets := [0], fencing := [0] })]
  sluice := { State.reset.sluice with
    jobs := [{ tag := 0, q := 0, session := 0, sgen := 0, desc := {} }]
    dying := [⟨1, 0, [], [(512, 0)], [], [], [], none, []⟩, ⟨2, 0, [512], [], [], [], [], none, []⟩] } }

/-- Whether an ended attempt waits for target `n` on channel `ch` after a step, and whether the step leaves safe state as it is. -/
def waitsAfter (r : Res) (ch n : Nat) (s : State) : Bool :=
  match r with
  | .next t => t.sluice.dying.any (fun e => decide ((ch, n) ∈ e.waits)) && decide (t.island.state = s.island.state)
  | _ => false

theorem sharedFence_waits : waitsAfter (exec (.fenceTimeout 0 0) sharedFence) 512 0 sharedFence = true := by decide +kernel

/-- Refutes O29: its clause on the fence of an ended attempt says that no ended attempt waits for it after it is dropped. The head of
the channel can be a fence of a second ended attempt: dropped with the first's, it leaves the targets of that attempt to be fenced,
the same target among them, and the second attempt waits for its new read-back. -/
theorem not_attemptEvents : ¬ Obligations.AttemptEvents := by
  intro h
  obtain ⟨-, hfence, -⟩ := h sharedFence 0 { tag := 0, q := 0, session := 0, sgen := 0, desc := {} } rfl
  obtain ⟨-, hdead⟩ := hfence 0 (unitOf 9 0x23) (by decide +kernel)
  obtain ⟨t, ht, -, hnone⟩ := hdead ⟨1, 0, [], [(512, 0)], [], [], [], none, []⟩ (by decide +kernel)
  have hwaits := sharedFence_waits
  rw [ht] at hwaits
  simp only [waitsAfter, Bool.and_eq_true, List.any_eq_true, decide_eq_true_eq] at hwaits
  obtain ⟨⟨e, he, hmem⟩, hsame⟩ := hwaits
  have htarget : targetOf (placeOf sharedFence (0 : BitVec 48).toNat 1) = 0 := by decide +kernel
  have hgone := hnone hsame 512 (by rw [htarget]; exact List.mem_singleton.mpr rfl) e he
  rw [htarget] at hgone
  exact hgone hmem

end Sys2Proof.Machine

end

section
/-!
PROOF. Prefetch copies: their issue, their arrival, misses and faults (R243-R252).
-/

namespace Sys2Proof.Machine

open Claims

/-! ## A change of path (R247, R248) -/

/-- A tile sent to `pc`, its wait abandoned. -/
def tileSent (pc x : Nat) (s : State) : State := tmod x (fun tl => { tl with pc := pc }) (abandonWait x s)

/-- The tasks of a job on tile `b` sent to the entry of its path. -/
def tasksMoved (j : Job) (b : Nat) (s : State) : State :=
  match firstOn j b with
  | none => s
  | some i => forEach (if j.desc.lockstep then [b, b + 1] else [b]) (tileSent (entryPc j i)) s

/-- The tiles that a job's tasks are on. -/
def tilesOfTasks (j : Job) : List Nat := dedup (j.tasks.filterMap (fun x => x.tile))

/-- A job on another path. -/
def onPath (k : Nat) (j : Job) : Job := { j with path := k, masked := false, copies := [] }

/-- The job moved to path `k`, before its tasks. -/
def pathSet (g : BitVec 32) (k : Nat) (s : State) : State := jmod g (onPath k) (dropReqs (ofCopies g) s)

/-- A step that leaves the jobs and the counters. -/
def JobsStand (s t : State) : Prop := t.sluice.jobs = s.sluice.jobs ∧ t.counters = s.counters

theorem JobsStand.forEach {α : Type} (l : List α) (f : α → State → State) (h : ∀ a u, JobsStand u (f a u)) (s : State) :
    JobsStand s (forEach l f s) :=
  forEach_rel JobsStand (fun _ => ⟨rfl, rfl⟩) (fun _ _ _ h k => ⟨k.1.trans h.1, k.2.trans h.2⟩) f l (fun a _ u => h a u) s

section

variable (s : State)

theorem abandonWait_stand (b : Nat) : JobsStand s (abandonWait b s) := by
  unfold abandonWait
  split
  · exact ⟨rfl, rfl⟩
  · extract_lets u
    split
    · exact ⟨rfl, rfl⟩
    · exact ⟨rfl, rfl⟩

theorem tileSent_stand (pc x : Nat) : JobsStand s (tileSent pc x s) := abandonWait_stand s x

theorem tasksMoved_stand (j : Job) (b : Nat) : JobsStand s (tasksMoved j b s) := by
  unfold tasksMoved
  split
  · exact ⟨rfl, rfl⟩
  · exact .forEach _ _ (fun t u => tileSent_stand u _ t) s

theorem jobOf_of_jobs {s t : State} (h : t.sluice.jobs = s.sluice.jobs) (g : BitVec 32) :
    jobOf t g = jobOf s g := by rw [jobOf, h, jobOf]

theorem dropReqs_stand (which : RoceReq → Bool) : JobsStand s (dropReqs which s) :=
  ⟨by rw [(dropReqs_transmits s which).eq], by rw [(dropReqs_transmits s which).eq]⟩

theorem jobOf_pathSet (g : BitVec 32) (k : Nat) (j : Job) (h : jobOf s g = some j) :
    jobOf (pathSet g k s) g = some (onPath k j) :=
  jobOf_jmod_same (onPath k) (fun _ => rfl) ((jobOf_of_jobs (dropReqs_stand s (ofCopies g)).1 g).trans h)

theorem movePath_moves (g : BitVec 32) (k : Nat) (j : Job) (h : jobOf s g = some j) :
    movePath g k s = forEach (tilesOfTasks (onPath k j)) (tasksMoved (onPath k j)) (pathSet g k s) := by
  have hu := jobOf_pathSet s g k j h
  unfold movePath
  extract_lets u
  have hu' : jobOf u g = some (onPath k j) := hu
  simp only [hu']
  refine congrArg (fun f => forEach _ f u) (funext fun b => funext fun v => ?_)
  unfold tasksMoved
  cases firstOn (onPath k j) b with
  | none => rfl
  | some n => rfl

theorem movePath_job (g : BitVec 32) (k : Nat) (j : Job) (h : jobOf s g = some j) :
    jobOf (movePath g k s) g = some (onPath k j) := by
  rw [movePath_moves s g k j h, ← jobOf_pathSet s g k j h]
  exact jobOf_of_jobs (JobsStand.forEach _ _ (fun b u => tasksMoved_stand u _ b) _).1 g

theorem movePath_counters (g : BitVec 32) (k : Nat) (j : Job) (h : jobOf s g = some j) :
    (movePath g k s).counters = s.counters := by
  rw [movePath_moves s g k j h, (JobsStand.forEach _ _ (fun b u => tasksMoved_stand u _ b) _).2]
  have hdrop := (dropReqs_stand s (ofCopies g)).2
  unfold pathSet
  generalize dropReqs (ofCopies g) s = v at hdrop
  exact hdrop

/-! ## Where the tasks go on -/

theorem tileOf_abandonWait (x b : Nat) :
    tileOf (abandonWait x s) b = if b = x then { tileOf s x with wait := none } else tileOf s b := by
  unfold abandonWait
  split
  next h =>
    split
    next hb => rw [hb, ← h]
    next => rfl
  next w h =>
    extract_lets u
    have hu : tileOf u b = if b = x then { tileOf s x with wait := none } else tileOf s b := tileOf_tmod ..
    split
    · exact hu
    · exact hu

theorem tileOf_tileSent (pc x b : Nat) :
    tileOf (tileSent pc x s) b = if b = x then { tileOf s x with wait := none, pc := pc } else tileOf s b := by
  rw [tileSent, tileOf_tmod, tileOf_abandonWait, tileOf_abandonWait, if_pos rfl]
  split
  · rfl
  · rfl

/-- A tile at the entry of its task's path. -/
def atEntry (pc b : Nat) (s : State) : Prop := (tileOf s b).pc = pc ∧ (tileOf s b).wait = none

theorem tasksMoved_single (j : Job) (b n : Nat) (hl : j.desc.lockstep = false) (hn : firstOn j b = some n) :
    tasksMoved j b s = tileSent (entryPc j n) b s := by
  simp only [tasksMoved, hn, hl, Bool.false_eq_true, if_false]
  rfl

theorem atEntry_tasksMoved (j : Job) (b c n : Nat) (hl : j.desc.lockstep = false) (hn : firstOn j b = some n)
    (h : c = b ∨ atEntry (entryPc j n) b s) : atEntry (entryPc j n) b (tasksMoved j c s) := by
  rcases eq_or_ne c b with rfl | hne
  · rw [tasksMoved_single s j c n hl hn, atEntry, tileOf_tileSent, if_pos rfl]
    exact ⟨rfl, rfl⟩
  · have hat := h.resolve_left hne
    cases hc : firstOn j c with
    | none => simpa [tasksMoved, hc] using hat
    | some m =>
      rw [tasksMoved_single s j c m hl hc, atEntry, tileOf_tileSent, if_neg hne.symm]
      exact hat

/-- What one element of a list establishes and every other keeps holds at the end. -/
theorem forEach_establishes {α : Type} (P : State → Prop) (f : α → State → State) (a : α) (hset : ∀ u, P (f a u))
    (hkeep : ∀ c u, P u → P (f c u)) (l : List α) (h : a ∈ l) (s : State) : P (forEach l f s) := by
  induction l generalizing s with
  | nil => cases h
  | cons c l ih =>
    rcases List.mem_cons.mp h with rfl | h
    · exact forEach_rel (fun u v => P u → P v) (fun _ h => h) (fun _ _ _ h k hu => k (h hu)) f l (fun c _ u hu => hkeep c u hu) _ (hset s)
    · exact ih h _

theorem mem_dedup_of_mem {α : Type} [DecidableEq α] {a : α} {l : List α} (h : a ∈ l) : a ∈ dedup l := by
  induction l with
  | nil => cases h
  | cons b l ih =>
    show a ∈ if b ∈ dedup l then dedup l else b :: dedup l
    rcases List.mem_cons.mp h with rfl | h
    · split
      next hin => exact hin
      next => exact List.mem_cons_self
    · split
      next => exact ih h
      next => exact List.mem_cons_of_mem _ (ih h)

theorem movePath_tiles (g : BitVec 32) (k : Nat) (j : Job) (h : jobOf s g = some j) (hl : j.desc.lockstep = false) (b n : Nat)
    (hb : ∃ y ∈ j.tasks, y.tile = some b) (hn : firstOn j b = some n) : atEntry (entryPc (onPath k j) n) b (movePath g k s) := by
  obtain ⟨y, hy, htile⟩ := hb
  have hmem : b ∈ tilesOfTasks (onPath k j) := mem_dedup_of_mem (List.mem_filterMap.mpr ⟨y, hy, htile⟩)
  rw [movePath_moves s g k j h]
  exact forEach_establishes _ _ b (fun u => atEntry_tasksMoved u (onPath k j) b b n hl hn (.inl rfl))
    (fun c u hu => atEntry_tasksMoved u (onPath k j) b c n hl hn (.inr hu)) _ hmem _

/-! ## What a miss or a fault of an entry does (R245-R248) -/

/-- A job one of whose copies counts as faulted. -/
def copyFaulted (x : Nat) (j : Job) : Job := { j with copies := markFault x j.copies }

/-- A job that has left its path. -/
def leftPath (j : Job) : Job := { j with switched := some ⟨jobTimeNow s j, j.path, j.copies⟩ }

theorem jobOf_finishJob (g : BitVec 32) (st : BitVec 8) : jobOf (finishJob g st s) g = none := by
  rw [jobOf, List.find?_eq_none]
  intro i hi
  simpa using (mem_finishJob s hi).2

end

section

variable {s : State} {g : BitVec 32} {j : Job} {x i : Nat} {e : SchedEntry}

theorem plane_of_planeEntry (h : planeEntry j x = some e) : j.prog.sched[x]? = some e ∧ e.plane = j.path := by
  unfold planeEntry at h
  cases hs : j.prog.sched[x]? with
  | none => simp [hs] at h
  | some e' =>
    simp only [hs, Option.bind_some] at h
    split at h
    next hp => cases h; exact ⟨rfl, hp⟩
    next => cases h

/-- What an entry's miss or fault makes of its job: a change to a cheaper path, or its end. -/
theorem pathEvent_outcome (hj : jobOf s g = some j) (he : planeEntry j x = some e) :
    ∃ u, jobOf u g = some (copyFaulted x j) ∧ u.counters = s.counters ∧ jobTimeNow u j = jobTimeNow s j ∧
      pathEvent g x s = match pathFor j j.path e with
        | none => finishJob g stTier u
        | some k => switchPath g k u := by
  obtain ⟨hs, hp⟩ := plane_of_planeEntry he
  let f : Job → Job := fun j' => if j.path = j'.path then { j' with copies := markFault x j'.copies }
    else { j' with switched := j'.switched.map (fun w => { w with copies := markFault x w.copies }) }
  have hf : f j = copyFaulted x j := if_pos rfl
  refine ⟨jmod g f s, ?_, rfl, rfl, ?_⟩
  · rw [← hf]
    refine jobOf_jmod_same f (fun j' => ?_) hj
    show (if _ then _ else _ : Job).tag = _
    split
    · rfl
    · rfl
  · unfold pathEvent
    have hev : eventPlane s j e = some j.path := if_pos hp
    simp only [hj, hs, Option.bind_some, hev, Option.map_some, if_true]
    rfl

theorem switchPath_outcome (hj : jobOf s g = some j) (k : Nat) :
    let t := switchPath g k s
    jobOf t g = some (onPath k (leftPath s j)) ∧ t.counters = (count 0x7415 3 1 s).counters ∧
      (j.desc.lockstep = false → ∀ b n, (∃ y ∈ j.tasks, y.tile = some b) → firstOn j b = some n →
        atEntry (entryPc (onPath k (leftPath s j)) n) b t) := by
  have hu : jobOf (count 0x7415 3 1 (jmod g (leftPath s) s)) g = some (leftPath s j) := jobOf_jmod_same (leftPath s) (fun _ => rfl) hj
  exact ⟨movePath_job _ g k _ hu, movePath_counters _ g k _ hu, fun hl b n hb hn => movePath_tiles _ g k _ hu hl b n hb hn⟩

theorem counters_count_congr {u v : State} (h : u.counters = v.counters) (a b n : Nat) :
    (count a b n u).counters = (count a b n v).counters := by
  show tblSet 0 u.counters _ (counter u a b + _) = tblSet 0 v.counters _ (counter v a b + _)
  rw [counter_eq_of_counters h, h]

/-! ## Misses (R245) -/

theorem tierMiss_exec (hj : jobOf s g = some j) (hrun : j.phase = .running) (hmiss : hasMissed s j x = true) :
    exec (.tierMiss g x) s = .next (pathEvent g x (count 0x7415 1 1 s)) := by
  show execTierMiss g x s = _
  simp only [execTierMiss, hj]
  exact if_pos ⟨hrun, hmiss⟩

theorem tierMiss_idle (hj : jobOf s g = some j) (hmiss : hasMissed s j x = false) : exec (.tierMiss g x) s = .next s := by
  show execTierMiss g x s = _
  simp only [execTierMiss, hj]
  exact if_neg fun h => by simp [hmiss] at h

theorem tierMiss_switches (hj : jobOf s g = some j) (hrun : j.phase = .running) (he : planeEntry j x = some e)
    (hmiss : hasMissed s j x = true) (p : Nat) (hpath : pathFor j j.path e = some p) :
    ∃ t, exec (.tierMiss g x) s = .next t ∧
      jobOf t g = some { j with path := p, masked := false, copies := [],
                                switched := some ⟨jobTimeNow s j, j.path, markFault x j.copies⟩ } ∧
      (j.desc.lockstep = false → ∀ b n, (∃ y ∈ j.tasks, y.tile = some b) → firstOn j b = some n →
        (tileOf t b).pc = entryPc { j with path := p } n ∧ (tileOf t b).wait = none) ∧
      counter t 0x7415 1 = counter s 0x7415 1 + 1 ∧ counter t 0x7415 3 = counter s 0x7415 3 + 1 := by
  obtain ⟨u, hu, hcount, htime, hev⟩ := pathEvent_outcome (s := count 0x7415 1 1 s) hj he
  simp only [hpath] at hev
  obtain ⟨hjob, hcounters, htiles⟩ := switchPath_outcome hu p
  have hsame := fun k => counter_eq_of_counters (hcounters.trans (counters_count_congr hcount 0x7415 3 1)) 0x7415 k
  refine ⟨switchPath g p u, by rw [tierMiss_exec hj hrun hmiss, hev], ?_, htiles, ?_, ?_⟩
  · rw [hjob]
    have htime' : jobTimeNow u (copyFaulted x j) = jobTimeNow s j := htime
    simp only [onPath, leftPath, htime']
    rfl
  · rw [hsame, counter_count_other _ _ _ _ _ _ (by decide), counter_count_same]
  · rw [hsame, counter_count_same, counter_count_other _ _ _ _ _ _ (by decide)]

theorem tierMiss_ends (hj : jobOf s g = some j) (hrun : j.phase = .running) (he : planeEntry j x = some e)
    (hmiss : hasMissed s j x = true) (hpath : pathFor j j.path e = none) :
    ∃ t, exec (.tierMiss g x) s = .next t ∧ jobOf t g = none ∧ counter t 0x7415 1 = counter s 0x7415 1 + 1 := by
  obtain ⟨u, hu, hcount, htime, hev⟩ := pathEvent_outcome (s := count 0x7415 1 1 s) hj he
  simp only [hpath] at hev
  refine ⟨finishJob g stTier u, by rw [tierMiss_exec hj hrun hmiss, hev], jobOf_finishJob u g stTier, ?_⟩
  rw [(finishJob_keeps u g stTier).counter _ _ ⟨by decide, by decide, by decide⟩, counter_eq_of_counters hcount,
    counter_count_same]

/-! ## Faults (R246) -/

/-- A step that leaves the jobs, and counters and event bits as `Unsettles` says. -/
def JobsUnsettled (s t : State) : Prop := t.sluice.jobs = s.sluice.jobs ∧ Unsettles s t

theorem damageTensor_unsettled (s : State) (i : Nat) : JobsUnsettled s (damageTensor i s) := by
  unfold damageTensor
  split
  · have h := notifySubs_notices (tensorMod i (fun t => { t with state := .damaged }) s) 0x24 (leBytes 4 (tensorHandle s i))
    refine ⟨?_, .trans (t := tensorMod i (fun t => { t with state := .damaged }) s) (.of_same rfl rfl) (.of_notices h)⟩
    rw [h.eq]
    rfl
  · exact ⟨rfl, .refl s⟩

/-- The counter of a kind of fault. -/
def kindCounted (kind : TierFaultKind) (s : State) : State :=
  match kind with
  | .uncorrectable => count 0x7415 4 1 s
  | .decompression => count 0x7415 6 1 s
  | .damagedTensor => s
  | .aquiferPort => count 0x7415 7 1 s
  | .headerMismatch => count 0x7415 8 1 s

theorem kindCounted_facts (kind : TierFaultKind) (s : State) : (kindCounted kind s).sluice = s.sluice ∧
    (kindCounted kind s).events = s.events ∧ counter (kindCounted kind s) 0x7415 2 = counter s 0x7415 2 := by
  cases kind with
  | damagedTensor => exact ⟨rfl, rfl, rfl⟩
  | uncorrectable => exact ⟨rfl, rfl, counter_count_other _ _ _ _ _ _ (by decide)⟩
  | decompression => exact ⟨rfl, rfl, counter_count_other _ _ _ _ _ _ (by decide)⟩
  | aquiferPort => exact ⟨rfl, rfl, counter_count_other _ _ _ _ _ _ (by decide)⟩
  | headerMismatch => exact ⟨rfl, rfl, counter_count_other _ _ _ _ _ _ (by decide)⟩

/-- The tensor of an entry marked DAMAGED, where its fault says so. -/
def entryDamaged (kind : TierFaultKind) (j : Job) (x : Nat) (s : State) : State :=
  match entryTensor j x with
  | some i =>
    if (kind != .damagedTensor && kind != .aquiferPort) && boundVersion j i == some (tensorOf s i).version then damageTensor i s else s
  | none => s

theorem entryDamaged_unsettled (s : State) (kind : TierFaultKind) (j : Job) (x : Nat) :
    JobsUnsettled s (entryDamaged kind j x s) := by
  unfold entryDamaged
  split
  · split
    · exact damageTensor_unsettled s _
    · exact ⟨rfl, .refl s⟩
  · exact ⟨rfl, .refl s⟩

/-- A fault is counted and told before its entry's event. -/
theorem tierFaultAt_event (hj : jobOf s g = some j) (kind : TierFaultKind) :
    ∃ u, tierFaultAt g x kind s = pathEvent g x u ∧ jobOf u g = some j ∧ counter u 0x7415 2 = counter s 0x7415 2 + 1 ∧
      u.events.getLsbD 9 = true := by
  let v := kindCounted kind (setEvent 9 (count 0x7415 2 1 s))
  obtain ⟨hsluice, hevents, hcount⟩ := kindCounted_facts kind (setEvent 9 (count 0x7415 2 1 s))
  have hbit : v.events.getLsbD 9 = true := by rw [hevents]; exact setEvent_getLsbD_same (count 0x7415 2 1 s) (9 : Fin 32)
  have hcounter : counter v 0x7415 2 = counter s 0x7415 2 + 1 := hcount.trans (counter_count_same s 0x7415 2)
  have hjobs : v.sluice.jobs = s.sluice.jobs := by rw [hsluice]; rfl
  have hdone : ∀ w, JobsUnsettled v w → jobOf w g = some j ∧ counter w 0x7415 2 = counter s 0x7415 2 + 1 ∧ w.events.getLsbD 9 = true :=
    fun w hw => ⟨(jobOf_of_jobs (hw.1.trans hjobs) g).trans hj,
      (hw.2.counters.counter _ _ ⟨by decide, by decide, by decide⟩).trans hcounter, hw.2.events 9 hbit⟩
  have hv : tierFaultAt g x kind s = pathEvent g x (entryDamaged kind j x v) := by
    unfold tierFaultAt
    simp only [hj]
    rfl
  clear_value v
  exact ⟨_, hv, hdone _ (entryDamaged_unsettled v kind j x)⟩

theorem tierFaultAt_outcome (hj : jobOf s g = some j) (he : planeEntry j x = some e) (kind : TierFaultKind) :
    let t := tierFaultAt g x kind s
    counter t 0x7415 2 = counter s 0x7415 2 + 1 ∧ t.events.getLsbD 9 = true ∧
      (pathFor j j.path e = none → jobOf t g = none) ∧
      (∀ p, pathFor j j.path e = some p → (jobOf t g).map (fun k => k.path) = some p) := by
  obtain ⟨u, heq, hu, hcount, hbit⟩ := tierFaultAt_event (x := x) hj kind
  obtain ⟨v, hv, -, -, hev⟩ := pathEvent_outcome hu he
  have hun := pathEvent_unsettles u g x
  intro t
  have ht : t = pathEvent g x u := heq
  refine ⟨?_, ht ▸ hun.events 9 hbit, fun hpath => ?_, fun p hpath => ?_⟩
  · rw [ht, hun.counters.counter _ _ ⟨by decide, by decide, by decide⟩, hcount]
  · rw [ht, hev, hpath]
    exact jobOf_finishJob v g stTier
  · rw [ht, hev, hpath]
    simp only [(switchPath_outcome hv p).1]
    rfl

theorem inFlightNow_of_inFlight (h : inFlight j x = true) : inFlightNow s j x = true := by
  rw [inFlightNow, h, Bool.true_or]

theorem tierFault_outcome (hj : jobOf s g = some j) (hrun : j.phase = .running) (he : planeEntry j x = some e)
    (kind : TierFaultKind) (hfly : inFlight j x = true) :
    ∃ t, exec (.tierFault g x kind) s = .next t ∧
      counter t 0x7415 2 = counter s 0x7415 2 + 1 ∧ t.events.getLsbD 9 = true ∧
      (pathFor j j.path e = none → jobOf t g = none) ∧
      (∀ p, pathFor j j.path e = some p → (jobOf t g).map (fun k => k.path) = some p) := by
  have hexec : exec (.tierFault g x kind) s = .next (tierFaultAt g x kind (dropReqs (fun r => r.owner == .job g (some x)) s)) := by
    show execTierFault g x kind s = _
    simp only [execTierFault, hj]
    exact if_pos ⟨hrun, inFlightNow_of_inFlight hfly⟩
  obtain ⟨hjobs, hcounters⟩ := dropReqs_stand s (fun r => r.owner == .job g (some x))
  have hout := tierFaultAt_outcome ((jobOf_of_jobs hjobs g).trans hj) he kind
  rw [counter_eq_of_counters hcounters] at hout
  exact ⟨_, hexec, hout⟩

/-- A refused write of a MIGRATE counts as a fault of the AQUIFER port. -/
theorem tierFault_migrate (hj : jobOf s g = some j) (hout : migratesOut j = true) (hfly : inFlightNow s j x = false) :
    ∃ t, exec (.tierFault g x .aquiferPort) s = .next t ∧ jobOf t g = none ∧ t.events.getLsbD 9 = true ∧
      counter t 0x7415 2 = counter s 0x7415 2 + 1 ∧ counter t 0x7415 7 = counter s 0x7415 7 + 1 := by
  have hexec : exec (.tierFault g x .aquiferPort) s =
      .next (finishJob g stTier (setEvent 9 (count 0x7415 7 1 (count 0x7415 2 1 (dropReqs (fun r => r.owner == .job g none) s))))) := by
    show execTierFault g x .aquiferPort s = _
    simp only [execTierFault, hj]
    rw [if_neg (fun h => by simp [hfly] at h), if_pos ⟨hout, trivial⟩]
  have hu := (dropReqs_stand s (fun r => r.owner == .job g none)).2
  generalize dropReqs (fun r => r.owner == .job g none) s = u at hexec hu
  let v := setEvent 9 (count 0x7415 7 1 (count 0x7415 2 1 u))
  have h2 : counter v 0x7415 2 = counter s 0x7415 2 + 1 := by
    show counter (count 0x7415 7 1 (count 0x7415 2 1 u)) 0x7415 2 = _
    rw [counter_count_other _ _ _ _ _ _ (by decide), counter_count_same, counter_eq_of_counters hu]
  have h7 : counter v 0x7415 7 = counter s 0x7415 7 + 1 := by
    show counter (count 0x7415 7 1 (count 0x7415 2 1 u)) 0x7415 7 = _
    rw [counter_count_same, counter_count_other _ _ _ _ _ _ (by decide), counter_eq_of_counters hu]
  have h9 : v.events.getLsbD 9 = true := setEvent_getLsbD_same _ (9 : Fin 32)
  have hkeep := finishJob_keeps v g stTier
  have hexec' : exec (.tierFault g x .aquiferPort) s = .next (finishJob g stTier v) := hexec
  clear_value v
  exact ⟨_, hexec', jobOf_finishJob v g stTier, finishJob_stand v g stTier 9 h9,
    (hkeep.counter _ _ ⟨by decide, by decide, by decide⟩).trans h2, (hkeep.counter _ _ ⟨by decide, by decide, by decide⟩).trans h7⟩

end

/-! ## The arrival of a copy (R243) -/

section

variable (s : State)

theorem placeOf_tile {y n a : Nat} (h : placeOf s y n = .tile a) :
    a = ownPhysical s y ∧ 0x080000000000 ≤ a ∧ a + n ≤ 0x080010000000 := by
  unfold placeOf at h
  generalize ownPhysical s y = q at *
  dsimp only at h
  split at h
  · split at h
    · cases h
    · cases h
  · split at h
    · split at h
      · cases h
      · cases h
    · split at h
      next hin => cases h; exact ⟨rfl, hin⟩
      · split at h
        · split at h
          · cases h
          · cases h
        · split at h
          · split at h
            · cases h
            · cases h
          · cases h

theorem ownPhysical_sram (a : Nat) (h : 0x080000000000 ≤ a) : ownPhysical s a = a := by
  have hno : windowOf a = none := if_neg fun hin => by
    have := hin.2
    simp only [windowBase] at this
    omega
  rw [ownPhysical, hno]

/-- A copy into a tile's SRAM is no longer than that. -/
theorem entryDest_tile {j : Job} {e : SchedEntry} {n a : Nat} (h : entryDest s j e n = .tile a) : n ≤ tileBytes := by
  unfold entryDest at h
  split at h
  · cases h
  next b hb =>
    dsimp only at h
    split at h
    · obtain ⟨ha, -, hend⟩ := placeOf_tile s h
      rw [ownPhysical_sram s _ (by simp only [clusterBase]; omega)] at ha
      simp only [clusterBase] at ha
      omega
    · split at h
      · omega
      · cases h

/-- The bytes of a copy in a tile's SRAM, and in its shadow's where the tile is a primary. -/
theorem peek_mirrored (a : Nat) (b : Bytes) (hb : b.length ≤ tileBytes) :
    peek (mirrorTile (poke a b s) (.tile a) b) a b.length = b := by
  have hread : peek (poke a b s) a b.length = b := memRead_write s.mem a b
  unfold mirrorTile
  dsimp only
  split
  · refine Eq.trans (memRead_congr fun i hi => ?_) hread
    exact (memByte_write _ _ _ _).trans (if_neg (by omega))
  · exact hread

/-- A job whose copy of entry `x` has arrived. -/
def copyArrived (x : Nat) (j : Job) : Job :=
  { j with copies := j.copies.map (fun c => if c.entry = x then { c with arrived := true } else c) }

theorem mem_copyArrived {x : Nat} {j : Job} {y : CopyRun} (hy : y ∈ (copyArrived x j).copies) (hx : y.entry = x) :
    y.arrived = true := by
  obtain ⟨c, -, rfl⟩ := List.mem_map.mp hy
  split at hx
  next hc => rw [if_pos hc]
  next hc => exact absurd hx hc

theorem mirrorTile_frame (pl : Place) (b : Bytes) : ∃ m, mirrorTile s pl b = { s with mem := m } := by
  unfold mirrorTile
  split
  · dsimp only
    split
    · exact ⟨_, rfl⟩
    · exact ⟨_, rfl⟩
  · exact ⟨_, rfl⟩

theorem eventWaiters_congr {u v : State} (h : v.tiles = u.tiles) (job : Option (BitVec 32)) (n : Nat) :
    eventWaiters v job n = eventWaiters u job n := by rw [eventWaiters, h, eventWaiters]

theorem arriveCopy_tile {g : BitVec 32} {j : Job} (hj : jobOf s g = some j) (x a : Nat) (b : Bytes) (hb : b.length ≤ tileBytes)
    (hmoved : ∀ y ∈ j.copies, y.entry = x → y.moved = 0) (hwait : eventWaiters s (some g) (0x2000 + x % 4096) = []) :
    let t := arriveCopy g x (.tile a) b s
    jobOf t g = some (copyArrived x j) ∧ peek t a b.length = b ∧ ⟨0x2000 + x % 4096, some g⟩ ∈ t.raised := by
  have hzero : (((jobOf s g).bind (fun j => j.copies.find? (fun c => c.entry = x))).map (fun c => c.moved)).getD 0 = 0 := by
    rw [hj]
    show ((j.copies.find? (fun c => c.entry = x)).map (fun c => c.moved)).getD 0 = 0
    cases hf : j.copies.find? (fun c => c.entry = x) with
    | none => rfl
    | some c => exact hmoved c (List.mem_of_find?_eq_some hf) (by simpa using List.find?_some hf)
  intro t
  have ht : t = raiseEvent (some g) (0x2000 + x % 4096) (mirrorTile (poke a b (jmod g (copyArrived x) s)) (.tile a) b) := by
    show arriveCopy g x (.tile a) b s = _
    unfold arriveCopy
    rw [hzero]
    rfl
  obtain ⟨m, hm⟩ := mirrorTile_frame (poke a b (jmod g (copyArrived x) s)) (.tile a) b
  have hpeek := peek_mirrored (jmod g (copyArrived x) s) a b hb
  have hjob : jobOf (jmod g (copyArrived x) s) g = some (copyArrived x j) := jobOf_jmod_same _ (fun _ => rfl) hj
  rw [hm] at ht hpeek
  rw [ht]
  refine ⟨?_, ?_, mem_raised_raiseEvent _ _ _ ((eventWaiters_congr rfl ..).trans hwait)⟩
  · rw [raiseEvent_eq]
    exact hjob
  · rw [raiseEvent_eq]
    exact hpeek

variable {s} {g : BitVec 32} {j : Job} {x i a : Nat} {e : SchedEntry} {b : Bytes}

theorem entryDest_congr {u v : State} (h : ∀ y n, placeOf v y n = placeOf u y n) (n : Nat) :
    entryDest v j e n = entryDest u j e n := by
  unfold entryDest
  simp only [h]

theorem copyBytes_congr {u v : State} (hdir : v.dir = u.dir) (hver : ∀ i n, versionBytes v i n = versionBytes u i n) (hmem : v.mem = u.mem) :
    copyBytes v j e i = copyBytes u j e i := by
  have htensor : tensorOf v i = tensorOf u i := by rw [tensorOf, hdir, tensorOf]
  unfold copyBytes peek
  simp only [hver, htensor, hmem]

theorem prefetchArrival_arrives (hj : jobOf s g = some j) (hrun : j.phase = .running) (he : planeEntry j x = some e)
    (hi : entryTensor j x = some i) (hfly : inFlight j x = true) (hclean : copyPoison s j e i = none)
    (hb : copyBytes s j e i = some b) (hdest : entryDest s j e b.length = .tile a)
    (hmoved : ∀ y ∈ j.copies, y.entry = x → y.moved = 0) (hwait : eventWaiters s (some g) (0x2000 + x % 4096) = []) :
    ∃ t k, exec (.prefetchArrival g x) s = .next t ∧ jobOf t g = some k ∧ (∀ y ∈ k.copies, y.entry = x → y.arrived = true) ∧
      peek t a b.length = b ∧ ⟨0x2000 + x % 4096, some g⟩ ∈ t.raised := by
  have hdrop := (dropReqs_transmits s (fun r => r.owner == .job g (some x))).eq
  generalize hu : dropReqs (fun r => r.owner == .job g (some x)) s = u at hdrop
  have hju : jobOf u g = some j := by rw [hdrop]; exact hj
  have hclean' : copyPoison u j e i = none := by rw [hdrop]; exact hclean
  have hb' : copyBytes u j e i = some b := (copyBytes_congr (by rw [hdrop]) (fun _ _ => by rw [hdrop]; rfl) (by rw [hdrop])).trans hb
  have hdest' : entryDest u j e b.length = .tile a := (entryDest_congr (fun _ _ => by rw [hdrop]; rfl) _).trans hdest
  have hwait' : eventWaiters u (some g) (0x2000 + x % 4096) = [] := by rw [hdrop]; exact hwait
  have hexec : exec (.prefetchArrival g x) s = .next (arriveCopy g x (.tile a) b u) := by
    show execPrefetchArrival g x s = _
    simp only [execPrefetchArrival, hj, he, hi, hu, hclean', hb', hdest', hrun, hfly]
    rfl
  obtain ⟨hjob, hpeek, hraised⟩ := arriveCopy_tile u hju x a b (entryDest_tile s hdest) hmoved hwait'
  exact ⟨_, _, hexec, hjob, fun y => mem_copyArrived, hpeek, hraised⟩

/-! ## The issue of a copy (R243, R250) -/

/-- A job with a copy of entry `x` issued. -/
def copyIssued (x : Nat) (j : Job) : Job := { j with copies := j.copies ++ [{ entry := x }] }

/-- The conditions of an issue. -/
structure MayIssue (s : State) (j : Job) (x : Nat) (e : SchedEntry) (c : Nat) : Prop where
  running : j.phase = .running
  cluster : entryCluster j e = some c
  due : e.issue ≤ jobTimeNow s j
  earlier : earlierIssued j x = true
  fresh : ∀ y ∈ j.copies, y.entry ≠ x
  few : flightsTo s c < 8

/-- What an issue does. -/
def issueOutcome (g : BitVec 32) (x i : Nat) (j : Job) (u : State) : Res :=
  let v := (boundVersion j i).getD (tensorOf u i).version
  if (tensorOf u i).state = .damaged ∧ v = (tensorOf u i).version then .next (tierFaultAt g x .damagedTensor u)
  else match remoteHome u i v with
    | none => .next u
    | some (m, a, n) =>
      if peerUp u m then .next (newReq m (.job g (some x)) .read a (leBytes 4 n) u)
      else .next (tierFaultAt g x .aquiferPort u)

theorem prefetchIssue_exec (hj : jobOf s g = some j) (he : planeEntry j x = some e) (hi : entryTensor j x = some i) {c : Nat}
    (h : MayIssue s j x e c) : exec (.prefetchIssue g x) s = issueOutcome g x i j (jmod g (copyIssued x) s) := by
  show execPrefetchIssue g x s = _
  simp only [execPrefetchIssue, hj, he, hi, h.cluster]
  rw [if_pos ⟨h.running, h.due, h.earlier, by simpa using h.fresh, h.few⟩]
  rfl

theorem prefetchIssue_idle (hj : jobOf s g = some j) (he : planeEntry j x = some e)
    (h : ¬(e.issue ≤ jobTimeNow s j ∧ earlierIssued j x = true)) : exec (.prefetchIssue g x) s = .next s := by
  show execPrefetchIssue g x s = _
  simp only [execPrefetchIssue, hj, he]
  split
  · exact if_neg fun hall => h ⟨hall.2.1, hall.2.2.1⟩
  · rfl

end

/-- Settles O41: the issue of a copy, its arrival, and its misses and faults. -/
theorem prefetchCopies : Obligations.PrefetchCopies := by
  refine ⟨fun s g j x i e hj hrun he hi => ?_, fun s g j x hj hout hfly => tierFault_migrate hj hout hfly⟩
  intro v issued damaged
  refine ⟨fun c hc hdue hearlier hfresh hfew => ?_, fun h => ?_, fun h => ?_, fun b a hfly hclean hb hdest hmoved hwait => ?_,
    tierMiss_idle hj, fun hmiss => ⟨fun p hp => tierMiss_switches hj hrun he hmiss p hp, tierMiss_ends hj hrun he hmiss⟩,
    fun kind hfly => tierFault_outcome hj hrun he kind hfly⟩
  · have hexec := prefetchIssue_exec hj he hi ⟨hrun, hc, hdue, hearlier, hfresh, hfew⟩
    have hissued : jobOf (jmod g (copyIssued x) s) g = some (copyIssued x j) := jobOf_jmod_same _ (fun _ => rfl) hj
    refine ⟨fun hd => ?_, fun hd hhome => ?_, fun m a n hd hhome hup => ?_⟩
    · obtain ⟨hcount, hbit, -⟩ := tierFaultAt_outcome (x := x) hissued he .damagedTensor
      exact ⟨_, hexec.trans (if_pos hd), hcount, hbit⟩
    · refine hexec.trans ((if_neg hd).trans ?_)
      show (match remoteHome s i v with | none => _ | some (m, a, n) => _) = _
      rw [hhome]
      rfl
    · refine hexec.trans ((if_neg hd).trans ?_)
      show (match remoteHome s i v with | none => _ | some (m, a, n) => _) = _
      rw [hhome]
      exact if_pos hup
  · exact prefetchIssue_idle hj he fun hall => absurd hall.1 (by omega)
  · exact prefetchIssue_idle hj he fun hall => by simp [h] at hall
  · exact prefetchArrival_arrives hj hrun he hi hfly hclean hb hdest hmoved hwait

end Sys2Proof.Machine

end

section
/-!
PROOF. The commit of a job: its instant, its publish and its record (R62, R63, R68, R70).
-/

namespace Sys2Proof.Machine

open Claims

/-! ## The completion record -/

/-- An entry that a change of the whole table leaves no default is changed in place. -/
theorem tblGet_tblMap_same {α : Type} [DecidableEq α] (d : α) (f : α → α) (l : Tbl α) (k : Nat) (hk : tblGet d l k ≠ d)
    (hf : f (tblGet d l k) ≠ d) : tblGet d (tblMap d f l) k = f (tblGet d l k) := by
  induction l with
  | nil => exact absurd rfl hk
  | cons e l ih =>
    obtain ⟨i, v⟩ := e
    by_cases hi : i = k
    · have hv : tblGet d ((i, v) :: l) k = v := if_pos hi
      rw [hv] at hk hf ⊢
      simp only [tblMap, List.map_cons]
      rw [List.filter_cons_of_pos (by simpa using hf)]
      exact if_pos hi
    · have hv : tblGet d ((i, v) :: l) k = tblGet d l k := if_neg hi
      rw [hv] at hk hf ⊢
      rw [← ih hk hf]
      simp only [tblMap, List.map_cons, List.filter_cons]
      split
      · exact if_neg hi
      · rfl

section

variable (s : State)

theorem countCompletion_stray (j : Job) (st : BitVec 8) : counter (countCompletion j st s) 0x7411 1 = counter s 0x7411 1 := by
  have hother : ∀ (u : State) (i k n : Nat), k = 4 ∨ k = 5 → counter (count i k n u) 0x7411 1 = counter u 0x7411 1 := fun u i k n hk =>
    counter_count_other u i k n _ _ (by simp only [objKey]; omega)
  unfold countCompletion
  simp only
  split
  · rw [counter_count_other _ _ _ _ _ _ (by decide), counter_count_other _ _ _ _ _ _ (by decide), hother _ _ _ _ (.inl rfl),
      counter_count_other _ _ _ _ _ _ (by decide)]
  · split
    · rw [counter_count_other _ _ _ _ _ _ (by decide), hother _ _ _ _ (.inr rfl), counter_count_other _ _ _ _ _ _ (by decide)]
    · rw [hother _ _ _ _ (.inr rfl), counter_count_other _ _ _ _ _ _ (by decide)]

/-- A record of an earlier generation of its queue is counted only (R48). -/
theorem completeJob_stray {g : BitVec 32} {j : Job} (st : BitVec 8) (h : jobOf s g = some j)
    (hgen : g.extractLsb' 0 4 ≠ (qget s j.q).gen) : counter (completeJob g st s) 0x7411 1 = counter s 0x7411 1 + 1 := by
  unfold completeJob
  simp only [h]
  have hq : ∀ j' done, qget (countCompletion j' st (releaseJob j' done s)) j.q = qget s j.q := fun _ _ => by
    rw [qget, countCompletion_queues, releaseJob_queues, qget]
  rw [hq, if_neg hgen, counter_eq_of_counters ((settleQueue_counters _ _).trans (settleParts_counters _ _)), counter_count_same,
    countCompletion_stray]
  exact congrArg (· + 1) ((releaseJob_releases s _ _).counters (objKey 0x7411 1) (by decide))

/-- The records that stand stay when safe state is entered. -/
theorem mem_records_enterSafe (c : Nat) (d : BitVec 32) (fault : Bool) (q : Nat) (r : CompRec) (h : r ∈ (qget s q).records) :
    r ∈ (qget (enterSafe c d fault s) q).records := by
  by_cases hn : s.island.state = .normal
  · obtain ⟨u, hu, heq, -, -⟩ := announced_eq c (countEntry (latchFirst c d fault (safeUnits (endUncommitted s)))) 0x10
      (safeData (countEntry (latchFirst c d fault (safeUnits (endUncommitted s)))))
    rw [(enterSafe_normal s c d fault hn).trans hu]
    obtain ⟨rs, st, hq⟩ := (endUncommitted_ending s).queue q
    have hmem : r ∈ (qget (endUncommitted s) q).records := by
      rw [hq]
      exact List.mem_append_left rs h
    have hqueue : qget u q = tblGet {} (tblMap {} (fun x : Queue => { x with state := .stopped }) (endUncommitted s).queues) q := by
      rw [heq]
      rfl
    have hne : ∀ x : Queue, r ∈ x.records → x ≠ {} := by
      rintro x hx rfl
      cases hx
    rw [hqueue, tblGet_tblMap_same _ _ _ _ (hne _ hmem) (hne _ hmem)]
    exact hmem
  · rw [enterSafe_again s c d fault hn]
    split
    · exact h
    · rw [qget, safetyFrames_queues]
      exact h

theorem enterSafe_alarmed (c : Fin 11) (d : BitVec 32) (fault : Bool) : (enterSafe c.val d fault s).island.state ≠ .normal := by
  by_cases h : s.island.state = .normal
  · rw [(enterSafe_first s c d fault h).1]
    cases fault <;> decide
  · rw [(enterSafe_further s c d fault h).1]
    cases fault with
    | false => exact h
    | true => exact fun hc => SafeState.noConfusion hc

variable {s} {g : BitVec 32} {j : Job} {n : Nat} {st : BitVec 8}

/-- What the record of a job does. -/
theorem record_outcome (hj : jobOf s g = some j) :
    let t := finishJob g st s
    jobOf t g = none ∧ t.clock = s.clock ∧
      (queueClass s j.q ≠ 0 ∨ hardStatus st = false → (∀ i ∈ s.sluice.jobs, i.tag ≠ g → i ∈ t.sluice.jobs) ∧
        (g.extractLsb' 0 4 = (qget s j.q).gen → (qget t j.q).records = (qget s j.q).records ++ [endRecord s j st]) ∧
        (g.extractLsb' 0 4 ≠ (qget s j.q).gen → (qget t j.q).records = (qget s j.q).records ∧
          counter t 0x7411 1 = counter s 0x7411 1 + 1)) ∧
      (queueClass s j.q = 0 → hardStatus st = true → t.island.state ≠ .normal ∧
        (g.extractLsb' 0 4 = (qget s j.q).gen → endRecord s j st ∈ (qget t j.q).records)) := by
  have heq : finishJob g st s =
      if queueClass s j.q = 0 ∧ hardStatus st then enterSafe 2 g false (completeJob g st s) else completeJob g st s := by
    unfold finishJob
    simp only [hj]
  have hrecords := completeJob_records s st hj j.q
  refine ⟨jobOf_finishJob s g st, by rw [(finishJob_upset s g st).eq], fun hsoft => ?_, fun hq hst => ?_⟩
  · rw [heq, if_neg (fun hc => hsoft.elim (fun h => h hc.1) (fun h => by simp [h] at hc))]
    refine ⟨fun i hi hne => ?_, fun hgen => by rw [hrecords, if_pos ⟨rfl, hgen⟩], fun hgen => ⟨?_,
      completeJob_stray s st hj hgen⟩⟩
    · rw [completeJob_jobs s st hj]
      exact List.mem_filter.mpr ⟨hi, by simpa using hne⟩
    · rw [hrecords, if_neg fun hc => hgen hc.2]
  · rw [heq, if_pos ⟨hq, hst⟩]
    refine ⟨enterSafe_alarmed _ (2 : Fin 11) g false, fun hgen => mem_records_enterSafe _ 2 g false _ _ ?_⟩
    rw [hrecords, if_pos ⟨rfl, hgen⟩]
    exact List.mem_append_right _ (List.mem_singleton_self _)

theorem completionRecord_exec (hj : jobOf s g = some j) (hp : j.phase = .published) (hc : j.commit = some n) (hst : j.status = some st)
    (hnext : recordNext s j = true) (hw : works s 20 = true) :
    exec (.completionRecord g) s = .next (finishJob g st (clockTo (n + 1000) s)) := by
  show execCompletionRecord g s = _
  unfold execCompletionRecord
  simp only [hj, hp, hc, hst]
  exact if_pos ⟨hnext, hw⟩

end

/-! ## What a publish keeps -/

/-- What names a job and what its commit has fixed of it. -/
def commitKey (j : Job) : BitVec 32 × Option Nat × JobPhase × Option Nat × Option (BitVec 8) :=
  (j.tag, jobStream j, j.phase, j.commit, j.status)

/-- A step that leaves the clock, and of the jobs what their commits have fixed. -/
structure CommitsStand (s t : State) : Prop where
  clock : t.clock = s.clock
  jobs : t.sluice.jobs.map commitKey = s.sluice.jobs.map commitKey

namespace CommitsStand

variable {s t u : State}

theorem refl (s : State) : CommitsStand s s := ⟨rfl, rfl⟩

theorem trans (h : CommitsStand s t) (k : CommitsStand t u) : CommitsStand s u := ⟨k.clock.trans h.clock, k.jobs.trans h.jobs⟩

theorem of_same (hc : t.clock = s.clock) (hj : t.sluice.jobs = s.sluice.jobs) : CommitsStand s t := ⟨hc, by rw [hj]⟩

theorem of_releases (h : Releases s t) : CommitsStand s t := .of_same (by rw [h.eq]) (by rw [h.eq])

theorem forEach {α : Type} (l : List α) (f : α → State → State) (h : ∀ a u, CommitsStand u (f a u)) (s : State) :
    CommitsStand s (forEach l f s) := forEach_rel CommitsStand refl (fun _ _ _ h k => h.trans k) f l (fun a _ u => h a u) s

theorem ite {c : Prop} [Decidable c] (h : CommitsStand s t) (k : CommitsStand s u) : CommitsStand s (if c then t else u) := by
  split
  · exact h
  · exact k

theorem jmod (s : State) (g : BitVec 32) (f : Job → Job) (hf : ∀ j, commitKey (f j) = commitKey j) :
    CommitsStand s (jmod g f s) := by
  refine ⟨rfl, ?_⟩
  show (s.sluice.jobs.map _).map commitKey = _
  rw [List.map_map]
  refine List.map_congr_left fun j _ => ?_
  show commitKey (if _ then f j else j) = _
  split
  · exact hf j
  · rfl

/-- A job's commit is read from what stands of it. -/
theorem jobOf (h : CommitsStand s t) {g : BitVec 32} {j : Job} (hj : jobOf s g = some j) :
    ∃ k, Machine.jobOf t g = some k ∧ commitKey k = commitKey j := by
  have hfind : ∀ l : List Job, (l.find? (fun j => j.tag = g)).map commitKey = (l.map commitKey).find? (fun k => k.1 = g) := fun l => by
    rw [List.find?_map]
    rfl
  have heq : (Machine.jobOf t g).map commitKey = (Machine.jobOf s g).map commitKey := by
    rw [Machine.jobOf, Machine.jobOf, hfind, hfind, h.jobs]
  rw [hj] at heq
  exact Option.map_eq_some_iff.mp heq

end CommitsStand

section

variable (s : State)

theorem pokeCistern_commits (a : Nat) (b : Bytes) :
    CommitsStand s (pokeCistern a b s) := .of_releases (pokeCistern_releases s a b)

theorem entryMod_commits (e : Nat) (f : Entry → Entry) : CommitsStand s (entryMod e f s) := .of_releases (entryMod_releases s e f)

theorem reclaimEntry_commits (e : Nat) : CommitsStand s (reclaimEntry e s) := entryMod_commits ..

theorem reclaim_commits : CommitsStand s (reclaim s) := .of_releases (reclaim_releases s)

theorem count_commits (i j n : Nat) : CommitsStand s (count i j n s) := ⟨rfl, rfl⟩

theorem tensorMod_commits (i : Nat) (f : Tensor → Tensor) : CommitsStand s (tensorMod i f s) := ⟨rfl, rfl⟩

theorem retireHome_commits (i : Nat) : CommitsStand s (retireHome i s) := by
  rw [retireHome_eq]
  exact ⟨rfl, rfl⟩

theorem reapReplicas_commits : CommitsStand s (reapReplicas s) := .of_releases (reapReplicas_releases s)

theorem newVersion_commits (i a n : Nat) (z : Bool) (codes : Bytes) (o : Option Nat) :
    CommitsStand s (newVersion i a n z codes o s) := by
  unfold newVersion
  exact (retireHome_commits s i).trans (.trans (tensorMod_commits ..) (.of_releases (reapHomes_releases _)))

theorem publishOutput_commits (o : Nat × Extent) : CommitsStand s (publishOutput o s) := by
  unfold publishOutput
  dsimp only
  exact .ite (.refl s) ((pokeCistern_commits s _ _).trans (newVersion_commits ..))

theorem publishOutputs_commits (j : Job) : CommitsStand s (publishOutputs j s) :=
  .trans (.forEach _ _ (fun o u => publishOutput_commits u o) s) (.jmod _ _ _ fun _ => rfl)

theorem publishStaged_commits (m : Tbl (BitVec 8)) : CommitsStand s (publishStaged m s) := ⟨rfl, rfl⟩

theorem copyCistern_commits (a b n : Nat) : CommitsStand s (copyCistern a b n s) := by
  unfold copyCistern healLines
  exact .ite ⟨rfl, rfl⟩ ⟨rfl, rfl⟩

theorem publishService_commits (j : Job) (v : Service) : CommitsStand s (publishService j v s) := by
  unfold publishService
  extract_lets home
  clear_value home
  refine .ite (.refl s) ?_
  cases v with
  | load i o =>
    dsimp only
    split
    · split
      · exact (pokeCistern_commits s _ _).trans (newVersion_commits ..)
      · exact .refl s
    · exact .refl s
  | fill i a =>
    cases home with
    | none => exact .refl s
    | some b =>
      dsimp only
      split
      · exact (copyCistern_commits s _ _ _).trans (newVersion_commits ..)
      · exact .refl s
  | store i o =>
    dsimp only
    exact .ite (.refl s) ⟨rfl, rfl⟩
  | migrateBasin i mask off =>
    dsimp only
    split
    · exact .trans (.forEach _ (fun k => poke (clusterBase k + off) _) (fun _ _ => ⟨rfl, rfl⟩) s) (tensorMod_commits ..)
    · exact .refl s
  | migrateCistern i =>
    dsimp only
    refine .ite ((tensorMod_commits s _ _).trans (reapReplicas_commits _)) ?_
    cases home with
    | none => exact .refl s
    | some b => exact (retireHome_commits s _).trans ((pokeCistern_commits _ _ _).trans (tensorMod_commits ..))
  | migrateAquifer i m a => exact (retireHome_commits s _).trans (tensorMod_commits ..)
  | exportStream n i m => exact .refl s
  | importStream n i p q => exact .refl s

theorem publishRecompute_commits (r : Resv) : CommitsStand s (publishRecompute r s) := by
  unfold publishRecompute
  split
  · exact .refl s
  · split
    · exact .refl s
    · dsimp only
      split
      · exact (reclaimEntry_commits s _).trans ((entryMod_commits ..).trans (count_commits ..))
      · exact (reclaimEntry_commits s _).trans (count_commits ..)

theorem seqPut_commits (n : Nat) (q : Seq) : CommitsStand s (seqPut n q s) :=
  .trans (t := { s with pages := { s.pages with seqs := (n, q) :: s.pages.seqs.filter (fun e => e.1 ≠ n) } }) ⟨rfl, rfl⟩
    (pokeCistern_commits ..)

/-- A fold that carries a state keeps what each of its steps keeps. -/
theorem foldl_commits {α β : Type} (f : β × State → α → β × State) (h : ∀ p a, CommitsStand p.2 (f p a).2) (l : List α) (p : β × State) :
    CommitsStand p.2 (l.foldl f p).2 := by
  induction l generalizing p with
  | nil => exact .refl _
  | cons a l ih => exact (h p a).trans (ih _)

theorem retaken_commits (a b n i j : Nat) (f h : Entry → Entry) :
    CommitsStand s (count i j n (entryMod b h (entryMod a f s))) :=
  (entryMod_commits s a f).trans ((entryMod_commits _ b h).trans (count_commits _ i j n))

theorem publishAppend_commits (j : Job) (n : Nat) : CommitsStand s (publishAppend j n s) := by
  unfold publishAppend
  split
  · exact .refl s
  next q _ =>
    extract_lets tp len flushed full stripsAt tailOpen tail r₁ r₂ s₁ left s₂ st
    have h₁ : CommitsStand s r₁.2 := by
      simp only [r₁]
      split
      · exact .refl s
      · split
        · dsimp only
          exact (retaken_commits s ..)
        · dsimp only
          exact entryMod_commits ..
        · exact .refl s
    have h₂ : CommitsStand r₁.2 r₂.2 := by
      simp only [r₂]
      clear_value r₁
      refine foldl_commits _ (fun p c => ?_) _ r₁
      dsimp only
      exact entryMod_commits p.2 ..
    have h₃ : CommitsStand r₂.2 s₁ := count_commits ..
    have h₄ : CommitsStand s₁ s₂ := by
      simp only [s₂]
      clear_value s₁
      split
      · exact .trans (.ite (count_commits ..) (.refl s₁)) (entryMod_commits ..)
      · exact .refl s₁
    have h₅ : CommitsStand s₁ st.2 := by
      simp only [st]
      clear_value s₁ s₂
      split
      · dsimp only
        exact h₄.trans (entryMod_commits s₂ ..)
      · exact .forEach _ _ (fun e u => entryMod_commits u e _) s₁
      · exact .refl s₁
    exact h₁.trans (h₂.trans (h₃.trans (h₅.trans (seqPut_commits ..))))

theorem fusionTake_commits (i : Nat) (r : Bytes) : CommitsStand s (fusionTake i r s) := by
  unfold fusionTake
  extract_lets old late
  exact .ite (.refl s) (.ite ⟨rfl, rfl⟩ ⟨rfl, rfl⟩)

theorem solverTake_commits (r : Bytes) : CommitsStand s (solverTake r s) := by
  unfold solverTake
  extract_lets late
  exact .ite (.refl s) (.ite ⟨rfl, rfl⟩ ⟨rfl, rfl⟩)

theorem pumpTake_commits (r : Bytes) : CommitsStand s (pumpTake r s) := by
  unfold pumpTake
  extract_lets late
  exact .ite (.refl s) (.ite (.refl s) ⟨rfl, rfl⟩)

theorem publishPages_commits (j : Job) : CommitsStand s (publishPages j s) := by
  unfold publishPages
  extract_lets before s₁ s₂ gained s₃
  have h₁ : CommitsStand s s₁ := .ite (.forEach _ _ (fun r u => publishRecompute_commits u r) s) (.refl s)
  have h₂ : CommitsStand s₁ s₂ := .forEach _ _ (fun _ v => publishAppend_commits v j _) s₁
  have h₃ : CommitsStand s₂ s₃ := .forEach _ _ (fun i v => by
    refine .trans (.forEach _ _ (fun e w => entryMod_commits w e _) v) (.jmod _ _ _ fun _ => rfl)) s₂
  exact h₁.trans (h₂.trans (h₃.trans (reclaim_commits s₃)))

theorem chanSet_commits (c : Nat) (f : SelChannel → SelChannel) : CommitsStand s (chanSet c f s) := ⟨rfl, rfl⟩

theorem dropRecords_commits (b : Bytes) : CommitsStand s (dropRecords b s) := ⟨rfl, rfl⟩

theorem takeRecords_commits (c l : Nat) (b : Bytes) : CommitsStand s (takeRecords c l b s) := by
  unfold takeRecords
  extract_lets rs struck ok island s₁
  have h₁ : CommitsStand s s₁ := .ite (.refl s) ⟨rfl, rfl⟩
  exact h₁.trans (.trans (chanSet_commits ..) (count_commits ..))

theorem closeRound_commits (c : Nat) : CommitsStand s (closeRound c s) := by
  unfold closeRound
  extract_lets ch kept s₁
  have h₁ : CommitsStand s s₁ := .forEach _ _ (fun k u => pokeCistern_commits u _ _) s
  exact h₁.trans (chanSet_commits ..)

theorem publishSlot_commits (c l : Nat) (b : Bytes) : CommitsStand s (publishSlot c l b s) := by
  unfold publishSlot
  extract_lets ch round s₁ s₂
  have h₁ : CommitsStand s s₁ := (chanSet_commits s _ _).trans (takeRecords_commits ..)
  have h₂ : CommitsStand s s₂ := takeRecords_commits ..
  split
  · exact .refl s
  · exact .ite (dropRecords_commits ..) (.ite (h₁.trans (closeRound_commits ..)) h₁)
  · exact .ite (.ite (chanSet_commits ..) (dropRecords_commits ..))
      (.ite (dropRecords_commits ..) (.ite (h₂.trans (closeRound_commits ..)) h₂))
  · exact .ite (chanSet_commits ..) (dropRecords_commits ..)

theorem selectorTakeIn_commits (m : Tbl (BitVec 8)) : CommitsStand s (selectorTakeIn m s) :=
  .forEach _ _ (fun c u => .ite (.refl u) (.forEach _ _ (fun l v => publishSlot_commits v c l _) u)) s

theorem fusionTakeIn_commits (m : Tbl (BitVec 8)) : CommitsStand s (fusionTakeIn m s) :=
  .forEach _ _ (fun i u => by
    split
    · exact .ite (fusionTake_commits ..) (.refl u)
    · exact .refl u) s

theorem solverTakeIn_commits (m : Tbl (BitVec 8)) : CommitsStand s (solverTakeIn m s) := by
  unfold solverTakeIn
  exact .ite (solverTake_commits ..) (.refl s)

theorem pumpTakeIn_commits (m : Tbl (BitVec 8)) : CommitsStand s (pumpTakeIn m s) := by
  unfold pumpTakeIn
  exact .ite (pumpTake_commits ..) (.refl s)

theorem publishJob_commits (j : Job) : CommitsStand s (publishJob j s) := by
  unfold publishJob
  extract_lets s₁
  have h₁ : CommitsStand s s₁ := by
    simp only [s₁]
    split
    · exact publishService_commits ..
    · exact (publishStaged_commits s _).trans ((publishOutputs_commits ..).trans (publishPages_commits ..))
  exact h₁.trans ((selectorTakeIn_commits ..).trans ((fusionTakeIn_commits ..).trans
    ((solverTakeIn_commits ..).trans (pumpTakeIn_commits ..))))

/-! ## The publish -/

/-- A publish that has not yet ended its cycle. -/
def publishing (g : BitVec 32) (j : Job) (s : State) : State :=
  jmod g (fun j => { j with phase := .published, staging := [], staged := [] })
    (if publishes j.status then publishJob j (openCycle s) else openCycle s)

end

section

variable {s : State} {g : BitVec 32} {j : Job} {n : Nat} {st : BitVec 8}

theorem commitPublish_exec (hj : jobOf s g = some j) (hp : j.phase = .committed) (hc : j.commit = some n) (hnext : publishNext s j = true)
    (hw : works s 20 = true) : exec (.commitPublish g) s = .next (endCycle (publishing g j (clockTo (n + 800) s))) := by
  show execCommitPublish g s = _
  unfold execCommitPublish
  simp only [hj, hp, hc]
  exact if_pos ⟨hnext, hw⟩

theorem endCycle_stand (s : State) : (endCycle s).clock = s.clock ∧ (endCycle s).sluice.jobs = s.sluice.jobs := by
  unfold endCycle
  rw [(reclaim_releases _).eq]
  exact ⟨rfl, rfl⟩

theorem openCycle_commits (s : State) : CommitsStand s (openCycle s) := ⟨rfl, rfl⟩

theorem publish_kept (hj : jobOf s g = some j) (hc : j.commit = some n) (hst : j.status = some st) :
    let t := endCycle (publishing g j s)
    t.clock = s.clock ∧ ∃ k, jobOf t g = some k ∧ k.phase = .published ∧ k.commit = some n ∧ k.status = some st ∧
      k.staging = [] ∧ k.staged = [] := by
  intro t
  let u := if publishes j.status then publishJob j (openCycle s) else openCycle s
  have hu : CommitsStand s u := (openCycle_commits s).trans (.ite (publishJob_commits ..) (.refl _))
  obtain ⟨k, hk, hkey⟩ := hu.jobOf hj
  obtain ⟨-, -, -, hcommit, hstatus⟩ :
      k.tag = j.tag ∧ jobStream k = jobStream j ∧ k.phase = j.phase ∧ k.commit = j.commit ∧ k.status = j.status := by
    simpa [commitKey] using hkey
  have hjob : jobOf (publishing g j s) g = some { k with phase := .published, staging := [], staged := [] } :=
    jobOf_jmod_same _ (fun _ => rfl) hk
  have hclock : (publishing g j s).clock = s.clock := hu.clock
  have ht : t.clock = (publishing g j s).clock ∧ t.sluice.jobs = (publishing g j s).sluice.jobs := endCycle_stand _
  exact ⟨ht.1.trans hclock, _, (jobOf_of_jobs ht.2 g).trans hjob, rfl, hcommit.trans hc, hstatus.trans hst, rfl, rfl⟩

/-- No entry of a pool awaits its reclaim. -/
def pagesStill (s : State) : Prop := s.pages.ended = [] ∧
  ∀ e, e ∈ s.pages.entries → e.2.state = .free ∨ e.2.state = .reserved ∨ e.2.ref ≠ 0 ∨ e.2.pins ≠ 0

theorem endCycle_still (h : pagesStill s) : (endCycle s).mem = s.mem ∧ (endCycle s).dir = s.dir := by
  obtain ⟨hended, hentries⟩ := h
  have hnone : s.pages.entries.filter (fun e => e.2.state != .free && e.2.state != .reserved && e.2.ref == 0 && e.2.pins == 0) = [] := by
    rw [List.filter_eq_nil_iff]
    intro e he hall
    simp only [Bool.and_eq_true, bne_iff_ne, beq_iff_eq] at hall
    rcases hentries e he with h | h | h | h
    · exact hall.1.1.1 h
    · exact hall.1.1.2 h
    · exact h hall.1.2
    · exact h hall.2
  have heq : endCycle s = { s with pages := { s.pages with cycle := false, ended := [] } } := by
    unfold endCycle reclaim
    simp only [Bool.false_eq_true, if_false, hended, List.filter_nil]
    show forEach ((s.pages.entries.filter _).map _) reclaimEntry _ = _
    rw [hnone]
    rfl
  rw [heq]
  exact ⟨rfl, rfl⟩

theorem publish_withheld (hst : publishes j.status = false) (h : pagesStill s) :
    let t := endCycle (publishing g j s)
    t.mem = s.mem ∧ t.dir = s.dir := by
  have heq : publishing g j s = jmod g (fun j => { j with phase := .published, staging := [], staged := [] }) (openCycle s) := by
    rw [publishing, if_neg (by simp [hst])]
  rw [heq]
  exact endCycle_still (s := jmod g _ (openCycle s)) h

/-- A step that leaves memory, the pools and the Selector. -/
def MemStands (s t : State) : Prop := t.mem = s.mem ∧ t.pages = s.pages ∧ t.selector = s.selector

theorem MemStands.trans {s t u : State} (h : MemStands s t) (k : MemStands t u) : MemStands s u :=
  ⟨k.1.trans h.1, k.2.1.trans h.2.1, k.2.2.trans h.2.2⟩

theorem MemStands.forEach {α : Type} (l : List α) (f : α → State → State) (h : ∀ a u, MemStands u (f a u)) (s : State) :
    MemStands s (forEach l f s) :=
  forEach_rel MemStands (fun _ => ⟨rfl, rfl, rfl⟩) (fun _ _ _ h k => h.trans k) f l (fun a _ u => h a u) s

theorem jmod_memStands (s : State) (g : BitVec 32) (f : Job → Job) : MemStands s (jmod g f s) := ⟨rfl, rfl, rfl⟩

theorem reclaim_open {s u : State} (h : MemStands s u) (hopen : s.pages.cycle = true) : MemStands s (reclaim u) := by
  rw [reclaim, if_pos (by rw [h.2.1, hopen])]
  exact h

/-- The publish of pages that no sequence's use changes. -/
theorem publishPages_unused (s : State) (j : Job) (huses : j.uses = []) (hrecomp : j.recomp = false) (hopen : s.pages.cycle = true) :
    MemStands s (publishPages j s) := by
  unfold publishPages
  simp only [huses, hrecomp, Bool.false_eq_true, if_false, List.filter_nil, List.map_nil, List.flatten_nil]
  exact reclaim_open (.forEach _ _ (fun (i : Job) u => jmod_memStands u i.tag (fun i => { i with pins := i.pins ++ dedup [] })) s) hopen

theorem forEach_still {α : Type} (f : α → State → State) (s : State) (l : List α) (h : ∀ a ∈ l, f a s = s) :
    forEach l f s = s := by
  induction l with
  | nil => rfl
  | cons a l ih =>
    rw [forEach_cons, h a List.mem_cons_self]
    exact ih fun b hb => h b (List.mem_cons_of_mem a hb)

theorem selectorTakeIn_stopped (s : State) (m : Tbl (BitVec 8)) (h : ∀ c, c < 16 → (chan s c).state = .stopped) :
    selectorTakeIn m s = s :=
  forEach_still _ s _ fun c hc => if_pos (.inl (h c (List.mem_range.mp hc)))

theorem fusionTake_stands (s : State) (i : Nat) (r : Bytes) : MemStands s (fusionTake i r s) := by
  unfold fusionTake
  extract_lets old late
  split
  · exact ⟨rfl, rfl, rfl⟩
  · split
    · exact ⟨rfl, rfl, rfl⟩
    · exact ⟨rfl, rfl, rfl⟩

theorem solverTake_stands (s : State) (r : Bytes) : MemStands s (solverTake r s) := by
  unfold solverTake
  extract_lets late
  split
  · exact ⟨rfl, rfl, rfl⟩
  · split
    · exact ⟨rfl, rfl, rfl⟩
    · exact ⟨rfl, rfl, rfl⟩

theorem pumpTake_stands (s : State) (r : Bytes) : MemStands s (pumpTake r s) := by
  unfold pumpTake
  extract_lets late
  split
  · exact ⟨rfl, rfl, rfl⟩
  · split
    · exact ⟨rfl, rfl, rfl⟩
    · exact ⟨rfl, rfl, rfl⟩

/-- The units take records from memory and write none. -/
theorem takeIns_mem (s : State) (m : Tbl (BitVec 8)) : MemStands s (pumpTakeIn m (solverTakeIn m (fusionTakeIn m s))) := by
  have hfusion : MemStands s (fusionTakeIn m s) := .forEach _ _ (fun i u => by
    split
    · split
      · exact fusionTake_stands ..
      · exact ⟨rfl, rfl, rfl⟩
    · exact ⟨rfl, rfl, rfl⟩) s
  refine hfusion.trans ?_
  generalize fusionTakeIn m s = u
  have hsolver : MemStands u (solverTakeIn m u) := by
    unfold solverTakeIn
    dsimp only
    split
    · exact solverTake_stands ..
    · exact ⟨rfl, rfl, rfl⟩
  refine hsolver.trans ?_
  generalize solverTakeIn m u = v
  unfold pumpTakeIn
  dsimp only
  split
  · exact pumpTake_stands ..
  · exact ⟨rfl, rfl, rfl⟩

/-- What a job without outputs, pages or services wrote becomes visible at its publish. -/
theorem publish_plain (hst : publishes j.status = true) (h : pagesStill s) (hsvc : j.service = none) (hstaging : j.staging = [])
    (huses : j.uses = []) (hrecomp : j.recomp = false) (hstopped : ∀ c, c < 16 → (chan s c).state = .stopped) :
    (endCycle (publishing g j s)).mem = overlayFlush s.mem j.staged := by
  let u := publishOutputs j (publishStaged j.staged (openCycle s))
  have hu : u = jmod j.tag (fun j => { j with staging := [] }) (publishStaged j.staged (openCycle s)) := by
    simp only [u, publishOutputs, hstaging]
    rfl
  obtain ⟨hmem, hended, hentries, hcycle, hselector⟩ : u.mem = overlayFlush s.mem j.staged ∧ u.pages.ended = s.pages.ended ∧
      u.pages.entries = s.pages.entries ∧ u.pages.cycle = true ∧ u.selector = s.selector := by
    rw [hu]
    exact ⟨rfl, rfl, rfl, rfl, rfl⟩
  have hpublish : publishJob j (openCycle s) =
      pumpTakeIn j.staged (solverTakeIn j.staged (fusionTakeIn j.staged (selectorTakeIn j.staged (publishPages j u)))) := by
    unfold publishJob
    simp only [hsvc]
    rfl
  clear_value u
  have hv : MemStands u (publishPages j u) := publishPages_unused u j huses hrecomp hcycle
  rw [selectorTakeIn_stopped (publishPages j u) j.staged fun c hc => by
    rw [chan, hv.2.2, hselector]
    exact hstopped c hc] at hpublish
  have hp : MemStands u (publishing g j s) := by
    rw [publishing, if_pos hst, hpublish]
    exact (hv.trans (takeIns_mem _ j.staged)).trans (jmod_memStands ..)
  have hstill : pagesStill (publishing g j s) := by
    rw [pagesStill, hp.2.1, hended, hentries]
    exact h
  rw [(endCycle_still hstill).1, hp.1, hmem]

end

/-! ## The commit instant: fences and requests -/

section

variable (s : State)

/-- A channel whose fences are given up, counted. -/
def unfencedChan (ch n : Nat) (s : State) :
    State := count 0x741b 0x0a n (chanmod ch (fun c => { c with fencing := [], issued := [] }) s)

/-- The fences of a channel given up, its requests dropped. -/
def fenceCleared (ch : Nat) (s : State) : State :=
  unfencedChan ch (chanOf s ch).fencing.length (dropReqs (fun r => r.owner == .channel ch) s)

/-- A step of channels, their counters and what leaves for peers. -/
def FencesGo (s t : State) : Prop :=
  t = { s with out := t.out, fabric := t.fabric, channels := t.channels, counters := t.counters }

theorem FencesGo.trans {s t u : State} (h : FencesGo s t) (k : FencesGo t u) : FencesGo s u := by
  unfold FencesGo at *
  rw [k, h]

theorem dropReqs_fencesGo (which : RoceReq → Bool) : FencesGo s (dropReqs which s) := by
  unfold FencesGo
  rw [(dropReqs_transmits s which).eq]

theorem clearFences_eq (j : Job) : clearFences j s =
    forEach (jobChannels j) (fun ch u => if (chanOf u ch).fencing.length = 0 then u else fenceCleared ch u) s := rfl

theorem unfencedChan_go (ch n : Nat) : FencesGo s (unfencedChan ch n s) := rfl

theorem fenceCleared_go (ch : Nat) : FencesGo s (fenceCleared ch s) := (dropReqs_fencesGo s _).trans (unfencedChan_go ..)

theorem clearFences_go (j : Job) : FencesGo s (clearFences j s) := by
  rw [clearFences_eq]
  refine forEach_rel FencesGo (fun _ => rfl) (fun _ _ _ h k => h.trans k) _ _ (fun ch _ u => ?_) s
  split
  · rfl
  · exact fenceCleared_go u ch

theorem chanOf_unfencedChan (ch n d : Nat) :
    chanOf (unfencedChan ch n s) d = if d = ch then { chanOf s ch with fencing := [], issued := [] } else chanOf s d :=
  chanOf_chanmod s ch d (fun c => { c with fencing := [], issued := [] })

theorem chanOf_fenceCleared (ch d : Nat) (h : (chanOf s d).fencing = [] ∨ d = ch) :
    (chanOf (fenceCleared ch s) d).fencing = [] := by
  have hdrop : (dropReqs (fun r => r.owner == .channel ch) s).channels = s.channels := by rw [(dropReqs_transmits s _).eq]
  rw [fenceCleared, chanOf_unfencedChan]
  split
  · rfl
  next hne =>
    rw [chanOf, hdrop]
    exact h.resolve_right hne

theorem clearFences_clears (j : Job) (ch : Nat) (h : ch ∈ jobChannels j) : (chanOf (clearFences j s) ch).fencing = [] := by
  rw [clearFences_eq]
  refine forEach_establishes (fun u => (chanOf u ch).fencing = []) _ ch (fun u => ?_) (fun c u hu => ?_) _ h s
  · split
    next hn => exact List.eq_nil_of_length_eq_zero hn
    next => exact chanOf_fenceCleared u ch ch (.inr rfl)
  · split
    · exact hu
    · exact chanOf_fenceCleared u c ch (.inl hu)

/-- A job's fences and requests given up at its commit. -/
def unfencedJob (g : BitVec 32) (j : Job) (s : State) : State := dropReqs (fun r => r.owner == .job g none) (clearFences j s)

theorem unfencedJob_go (g : BitVec 32) (j : Job) :
    FencesGo s (unfencedJob g j s) := (clearFences_go s j).trans (dropReqs_fencesGo _ _)

theorem unfencedJob_clears (g : BitVec 32) (j : Job) (ch : Nat) (h : ch ∈ jobChannels j) :
    (chanOf (unfencedJob g j s) ch).fencing = [] := by
  rw [chanOf, unfencedJob, (dropReqs_transmits _ _).eq]
  exact clearFences_clears s j ch h

/-- A job committed at the present instant with a status. -/
def committedWith (s : State) (st : BitVec 8) (j : Job) :
    Job := { j with phase := .committed, commit := some (now s), status := some st }

theorem commitJob_eq {g : BitVec 32} {j : Job} (hj : jobOf s g = some j) (hclean : j.service.bind (servicePoison s j.len j) = none) :
    commitJob g s = jmod g (committedWith (unfencedJob g j s) (commitStatus j (unfencedJob g j s)).1) (commitStatus j (unfencedJob g j s)).2 := by
  unfold commitJob
  simp only [hj, hclean]
  rfl

theorem commitInstant_exec {g : BitVec 32} {j : Job} {at_ : Nat} (hj : jobOf s g = some j) (hat : atCommit (clockTo at_ s) j = true)
    (hwaits : commitWaits s j = false) (hw : works s 20 = true) : exec (.commitInstant g at_) s = .next (commitJob g (clockTo at_ s)) := by
  show execCommitInstant g at_ s = _
  unfold execCommitInstant
  simp only [hj]
  exact if_pos ⟨hat, by simp [hwaits], hw⟩

end

section

variable {s : State} {g : BitVec 32} {j : Job}

/-- The chunk of a job's stream counted. -/
def streamAdvanced (j : Job) (s : State) : State :=
  match jobStream j with
  | some n => streamMod n (fun x => { x with chunks := x.chunks + 1 }) s
  | none => s

theorem streamAdvanced_facts (j : Job) (s : State) :
    let t := streamAdvanced j s
    t.clock = s.clock ∧ t.mem = s.mem ∧ t.sluice.jobs = s.sluice.jobs ∧ t.channels = s.channels ∧
      ∀ n, jobStream j = some n → (streamOf t n).chunks = (streamOf s n).chunks + 1 := by
  unfold streamAdvanced
  cases jobStream j with
  | none => exact ⟨rfl, rfl, rfl, rfl, fun n hn => by cases hn⟩
  | some m =>
    refine ⟨rfl, rfl, rfl, rfl, fun n hn => ?_⟩
    cases hn
    rw [streamOf_streamMod, if_pos rfl]

/-- The commit of a job without a service. -/
theorem commitJob_plain (hj : jobOf s g = some j) (hsvc : j.service = none) :
    let t := commitJob g s
    t.clock = s.clock ∧ t.mem = s.mem ∧
      (∃ k, jobOf t g = some k ∧ k.phase = .committed ∧ k.commit = some (now s) ∧
        k.status = some (if j.deadline < now s then stLate else if j.path = 0 then stDone else stDegraded)) ∧
      (∀ ch, ch ∈ jobChannels j → (chanOf t ch).fencing = []) ∧
      ∀ n, jobStream j = some n →
        (streamOf t n).chunks = (if j.deadline < now s then (streamOf s n).chunks else (streamOf s n).chunks + 1) := by
  have heq := commitJob_eq s hj (by rw [hsvc]; rfl)
  have hgo := unfencedJob_go s g j
  have hclear := unfencedJob_clears s g j
  generalize unfencedJob g j s = u at heq hgo hclear
  have hnow : now u = now s := by rw [now, hgo, now]
  have hju : jobOf u g = some j := by rw [jobOf, hgo]; exact hj
  have hstream : ∀ n, streamOf u n = streamOf s n := fun n => by rw [streamOf, hgo, streamOf]
  have hu : u.clock = s.clock ∧ u.mem = s.mem := ⟨by rw [hgo], by rw [hgo]⟩
  have hstatus : commitStatus j u = if j.deadline < now u then (stLate, u) else
      (if j.path = 0 then stDone else stDegraded, streamAdvanced j u) := by
    unfold commitStatus
    simp only [hsvc]
    rfl
  intro t
  have ht : t = jmod g (committedWith u (commitStatus j u).1) (commitStatus j u).2 := heq
  rw [hstatus, hnow] at ht
  clear heq hgo
  have hcommitted : ∀ v f n, streamOf (jmod g f v) n = streamOf v n := fun _ _ _ => rfl
  by_cases hlate : j.deadline < now s
  · rw [if_pos hlate] at ht
    simp only [if_pos hlate]
    rw [ht]
    exact ⟨hu.1, hu.2, ⟨_, jobOf_jmod_same _ (fun _ => rfl) hju, rfl, congrArg some hnow, rfl⟩, hclear, fun n _ => by
      rw [hcommitted, hstream]⟩
  · rw [if_neg hlate] at ht
    simp only [if_neg hlate]
    rw [ht]
    obtain ⟨hclock, hmem, hjobs, hchannels, hadv⟩ := streamAdvanced_facts j u
    refine ⟨hclock.trans hu.1, hmem.trans hu.2, ⟨_, jobOf_jmod_same _ (fun _ => rfl) ((jobOf_of_jobs hjobs g).trans hju), rfl, congrArg some hnow, rfl⟩,
      fun ch hch => ?_, fun n hn => ?_⟩
    · show (chanOf (streamAdvanced j u) ch).fencing = []
      rw [chanOf, hchannels]
      exact hclear ch hch
    · rw [hcommitted, hadv n hn, hstream]

end

/-! ## The commit of a service (R146-R151) -/

/-- A step that leaves the clock and job `g`. -/
structure JobStays (g : BitVec 32) (s t : State) : Prop where
  clock : t.clock = s.clock
  job : g ∈ s.sluice.jobs.map (fun j => j.tag) → g ∈ t.sluice.jobs.map (fun j => j.tag)

namespace JobStays

variable {g : BitVec 32} {s t u : State}

theorem refl (s : State) : JobStays g s s := ⟨rfl, id⟩

theorem trans (h : JobStays g s t) (k : JobStays g t u) : JobStays g s u := ⟨k.clock.trans h.clock, fun hm => k.job (h.job hm)⟩

theorem of_commits (h : CommitsStand s t) : JobStays g s t := by
  refine ⟨h.clock, fun hm => ?_⟩
  have htags : ∀ l : List Job, l.map (fun j => j.tag) = (l.map commitKey).map (fun k => k.1) := fun l => by
    rw [List.map_map]
    rfl
  rwa [htags, h.jobs, ← htags]

theorem ite {c : Prop} [Decidable c] (h : JobStays g s t) (k : JobStays g s u) : JobStays g s (if c then t else u) := by
  split
  · exact h
  · exact k

end JobStays

theorem mem_tags_iff {s : State} {g : BitVec 32} : g ∈ s.sluice.jobs.map (fun j => j.tag) ↔ ∃ j, jobOf s g = some j := by
  rw [List.mem_map, jobOf, ← Option.isSome_iff_exists, List.find?_isSome]
  simp

section

variable (s : State)

/-- The end of another job. -/
theorem finishJob_stays (g c : BitVec 32) (st : BitVec 8) (hst : hardStatus st = false) (hne : c ≠ g) :
    JobStays g s (finishJob c st s) := by
  refine ⟨by rw [(finishJob_upset s c st).eq], fun hm => ?_⟩
  cases hj : jobOf s c with
  | none =>
    have : finishJob c st s = s := by
      unfold finishJob
      simp only [hj]
    rwa [this]
  | some j =>
    obtain ⟨i, hi, htag⟩ := List.mem_map.mp hm
    rw [finishJob_soft s hj hst, completeJob_jobs s st hj]
    exact List.mem_map.mpr ⟨i, List.mem_filter.mpr ⟨hi, by simpa [htag] using hne.symm⟩, htag⟩

theorem writeImage_commits (m a : Nat) (b : Bytes) : CommitsStand s (writeImage m a b s) := by
  unfold writeImage
  exact .ite (pokeCistern_commits ..) (.of_same (by rw [(peerWrite_transmits s m a b).eq]) (by rw [(peerWrite_transmits s m a b).eq]))

theorem exportSome_commits (k : Nat) (g : BitVec 32) : CommitsStand s (exportSome k g s) := by
  unfold exportSome
  split
  · exact .refl s
  · split
    · dsimp only
      exact .ite (.refl s) ((writeImage_commits s _ _ _).trans (.jmod _ _ _ fun _ => rfl))
    · exact .refl s

theorem storeExport_commits (ts : List Nat) (rows : Nat → List (BitVec 48)) : CommitsStand s (storeExport ts rows s) := by
  refine .forEach _ _ (fun x u => ?_) s
  exact ⟨rfl, rfl⟩

theorem importSome_commits (k : Nat) (g : BitVec 32) : CommitsStand s (importSome k g s) := by
  unfold importSome
  split
  · exact .refl s
  · split
    next j _ _ _ _ _ _ =>
      extract_lets b part body per s₁
      have h₁ : CommitsStand s s₁ := .jmod _ _ _ fun _ => rfl
      exact .ite h₁ (h₁.trans (storeExport_commits ..))
    · exact .refl s

theorem loadBlock_commits (x : Nat) (es : List (BitVec 48)) :
    CommitsStand s (loadBlock x es s) := .of_releases (loadBlock_releases ..)

theorem streamMod_commits (n : Nat) (f : Stream → Stream) : CommitsStand s (streamMod n f s) := ⟨rfl, rfl⟩

theorem wipeExport_commits (ts : List Nat) : CommitsStand s (wipeExport ts s) := ⟨rfl, rfl⟩

theorem releaseBlocks_commits (n : Nat) : CommitsStand s (releaseBlocks n s) := by
  unfold releaseBlocks
  refine .trans (.forEach _ _ (fun x u => ?_) s) ⟨rfl, rfl⟩
  exact loadBlock_commits ..

theorem callReplan_commits (which : Job → Bool) : CommitsStand s (callReplan which s) := by
  refine ⟨rfl, ?_⟩
  show (s.sluice.jobs.map _).map commitKey = _
  rw [List.map_map]
  refine List.map_congr_left fun j _ => ?_
  show commitKey (if _ then { j with replan := true } else j) = _
  split
  · rfl
  · rfl

/-- The jobs of a stream are its jobs after a step that leaves what names them. -/
theorem mem_chunks_of_commits {t : State} (h : CommitsStand s t) {n : Nat} {c : Job} (hc : c ∈ chunksOfStream t n) :
    ∃ d ∈ chunksOfStream s n, d.tag = c.tag := by
  obtain ⟨hmem, hn⟩ := List.mem_filter.mp hc
  have hkey : commitKey c ∈ s.sluice.jobs.map commitKey := h.jobs ▸ List.mem_map_of_mem hmem
  obtain ⟨d, hd, heq⟩ := List.mem_map.mp hkey
  obtain ⟨htag, hstream, -⟩ : d.tag = c.tag ∧ jobStream d = jobStream c ∧ _ := by simpa [commitKey] using heq
  exact ⟨d, List.mem_filter.mpr ⟨hd, by simpa [hstream] using hn⟩, htag⟩

/-- What the commit of an EXPORT job does of its stream. -/
theorem commitExport_stays (g : BitVec 32) (j : Job) (n img m : Nat) (h : ∀ c, c ∈ chunksOfStream s n → c.tag ≠ g) :
    JobStays g s (commitStream j (.exportStream n img m) s).2 := by
  unfold commitStream
  dsimp -zeta only
  extract_lets r head s₁ chunks s₂ s₃ s₄
  split
  · exact .refl s
  · have h₁ : CommitsStand s s₁ := (exportSome_commits s _ _).trans (writeImage_commits ..)
    have h₂ : CommitsStand s₁ s₂ := (wipeExport_commits s₁ _).trans (releaseBlocks_commits ..)
    have h₃ : CommitsStand s₂ s₃ := ⟨rfl, rfl⟩
    have h₄ : CommitsStand s₃ s₄ := ⟨rfl, rfl⟩
    have hall : ∀ c ∈ chunks, c.tag ≠ g := fun c hc => by
      obtain ⟨d, hd, htag⟩ := mem_chunks_of_commits s h₁ (List.mem_filter.mp hc).1
      exact htag ▸ h d hd
    split
    · exact .of_commits (h₁.trans (h₂.trans (h₃.trans (streamMod_commits ..))))
    · refine .trans (.of_commits (h₁.trans (h₂.trans (h₃.trans h₄)))) ?_
      refine forEach_rel (JobStays g) .refl (fun _ _ _ h k => h.trans k) _ chunks (fun c hc u => ?_) s₄
      exact (finishJob_stays u g c.tag stMoved (by decide) (hall c hc)).trans (.of_commits (count_commits ..))

/-- The blocks of an image that has been read, in place of a stream's. -/
theorem importLoaded_commits (l : List (Nat × List (BitVec 48))) (k : Nat) (f : Stream → Stream) (ts : List Nat) (which : Job → Bool) :
    CommitsStand s (callReplan which (count 0x7412 6 1 (wipeExport ts (streamMod k f (forEach l (fun b => loadBlock b.1 b.2) s))))) := by
  have h : CommitsStand s (forEach l (fun b => loadBlock b.1 b.2) s) := .forEach _ _ (fun (b : Nat × List (BitVec 48)) u => loadBlock_commits u b.1 b.2) s
  refine h.trans ?_
  refine (streamMod_commits _ k f).trans ((wipeExport_commits _ ts).trans ?_)
  exact (count_commits _ 0x7412 6 1).trans (callReplan_commits _ which)

theorem commitImport_stays (g : BitVec 32) (j : Job) (n img p q : Nat) :
    JobStays g s (commitStream j (.importStream n img p q) s).2 := by
  unfold commitStream
  dsimp -zeta only
  extract_lets s₁ body r num
  have h₁ : JobStays g s s₁ := .of_commits (importSome_commits ..)
  split
  · exact .refl s
  · have hrefused : JobStays g s (count 0x7412 7 1 s₁) := h₁.trans (.of_commits (count_commits ..))
    clear_value num s₁
    split
    · exact hrefused
    · split
      · exact hrefused
      · split
        · exact hrefused
        · cases num with
          | none => exact h₁
          | some k => exact h₁.trans (.of_commits (importLoaded_commits s₁ ..))

theorem commitStream_stays (g : BitVec 32) (j : Job) (v : Service)
    (h : ∀ n i m, v = .exportStream n i m → ∀ c, c ∈ chunksOfStream s n → c.tag ≠ g) : JobStays g s (commitStream j v s).2 := by
  cases v with
  | exportStream n i m => exact commitExport_stays s g j n i m (h n i m rfl)
  | importStream n i p q => exact commitImport_stays ..
  | load i o =>
    unfold commitStream
    dsimp only
    split
    · exact .of_commits (count_commits ..)
    · split
      · split
        · exact .refl s
        · exact .of_commits (count_commits ..)
      · exact .of_commits (count_commits ..)
  | fill i a =>
    unfold commitStream
    dsimp only
    split
    · exact .refl s
    · exact .refl s
  | store i o => exact .refl s
  | migrateBasin i m o => exact .refl s
  | migrateCistern i => exact .refl s
  | migrateAquifer i m a => exact .refl s

theorem commitStream_done (j : Job) (v : Service) (h₁ : ∀ n i m, v ≠ .exportStream n i m) (h₂ : ∀ n i p q, v ≠ .importStream n i p q)
    (h₃ : ∀ i o, v ≠ .load i o) (h₄ : ∀ i a, v ≠ .fill i a) : (commitStream j v s).1 = stDone := by
  cases v with
  | exportStream n i m => exact absurd rfl (h₁ n i m)
  | importStream n i p q => exact absurd rfl (h₂ n i p q)
  | load i o => exact absurd rfl (h₃ i o)
  | fill i a => exact absurd rfl (h₄ i a)
  | store i o => rfl
  | migrateBasin i m o => rfl
  | migrateCistern i => rfl
  | migrateAquifer i m a => rfl

end

/-- The commit of a service. -/
theorem commitJob_service {s : State} {g : BitVec 32} {j : Job} {v : Service} (hj : jobOf s g = some j) (hsvc : j.service = some v)
    (hclean : servicePoison s j.len j v = none) (hchunks : ∀ n i m, v = .exportStream n i m → ∀ c, c ∈ chunksOfStream s n → c.tag ≠ g) :
    ∃ st, let t := commitJob g s
      t.clock = s.clock ∧
      (∃ k, jobOf t g = some k ∧ k.phase = .committed ∧ k.commit = some (now s) ∧ k.status = some st) ∧
      (j.deadline < now s → st = stLate) ∧
      (now s ≤ j.deadline → (∀ n i m, v ≠ .exportStream n i m) → (∀ n i p q, v ≠ .importStream n i p q) →
        (∀ i o, v ≠ .load i o) → (∀ i a, v ≠ .fill i a) → st = stDone) := by
  have heq := commitJob_eq s hj (by rw [hsvc]; exact hclean)
  have hgo := unfencedJob_go s g j
  generalize unfencedJob g j s = u at heq hgo
  have hnow : now u = now s := by rw [now, hgo, now]
  have hclock : u.clock = s.clock := by rw [hgo]
  have hju : jobOf u g = some j := by rw [jobOf, hgo]; exact hj
  have hchunks' : ∀ n i m, v = .exportStream n i m → ∀ c, c ∈ chunksOfStream u n → c.tag ≠ g := fun n i m hv c hc =>
    hchunks n i m hv c (by rw [chunksOfStream, hgo] at hc; exact hc)
  have hstatus : commitStatus j u = if j.deadline < now u then (stLate, u) else commitStream j v u := by
    unfold commitStatus
    simp only [hsvc]
  clear hgo
  have hstays : JobStays g u (commitStatus j u).2 := by
    rw [hstatus]
    split
    · exact .refl u
    · exact commitStream_stays u g j v hchunks'
  have hst : (j.deadline < now s → (commitStatus j u).1 = stLate) ∧ (now s ≤ j.deadline → (commitStatus j u).1 = (commitStream j v u).1) := by
    rw [hstatus, hnow]
    exact ⟨fun h => by rw [if_pos h], fun h => by rw [if_neg (Nat.not_lt.mpr h)]⟩
  obtain ⟨k, hk⟩ := mem_tags_iff.mp (hstays.job (mem_tags_iff.mpr ⟨j, hju⟩))
  have hdone := commitStream_done u j v
  generalize (commitStream j v u).1 = x at hst hdone
  generalize commitStatus j u = r at hst hk hstays heq
  refine ⟨r.1, ?_⟩
  intro t
  have ht : t = jmod g (committedWith u r.1) r.2 := heq
  rw [ht]
  exact ⟨(jmod_clock ..).trans (hstays.clock.trans hclock), ⟨_, jobOf_jmod_same _ (fun _ => rfl) hk, rfl, congrArg some hnow, rfl⟩, hst.1,
    fun hd h₁ h₂ h₃ h₄ => (hst.2 hd).trans (hdone h₁ h₂ h₃ h₄)⟩

section

variable {s : State} {g : BitVec 32} {j : Job} {n at_ : Nat} {st : BitVec 8}

theorem jobOf_clockTo (x : Nat) (hj : jobOf s g = some j) : jobOf (clockTo x s) g = some j := by
  rw [clockTo_eq]
  exact hj

theorem commitInstant_plain (hj : jobOf s g = some j) (hw : works s 20 = true) (hat : atCommit (clockTo at_ s) j = true)
    (hwaits : commitWaits s j = false) (hsvc : j.service = none) :
    ∃ t, exec (.commitInstant g at_) s = .next t ∧ t.clock = (clockTo at_ s).clock ∧ t.mem = s.mem ∧
      (∃ k, jobOf t g = some k ∧ k.phase = .committed ∧ k.commit = some (now t) ∧
        k.status = some (if j.deadline < now t then stLate else if j.path = 0 then stDone else stDegraded)) ∧
      (∀ ch, ch ∈ jobChannels j → (chanOf t ch).fencing = []) ∧
      ∀ n, jobStream j = some n →
        (streamOf t n).chunks = (if j.deadline < now t then (streamOf s n).chunks else (streamOf s n).chunks + 1) := by
  obtain ⟨hclock, hmem, hkept, hclear, hadv⟩ := commitJob_plain (jobOf_clockTo at_ hj) hsvc
  have hexec := commitInstant_exec s hj hat hwaits hw
  generalize commitJob g (clockTo at_ s) = t at hclock hmem hkept hclear hadv hexec
  have hnow : now t = now (clockTo at_ s) := by rw [now, hclock, now]
  have hmems : (clockTo at_ s).mem = s.mem := by rw [clockTo_eq]
  have hstreams : ∀ n, streamOf (clockTo at_ s) n = streamOf s n := fun n => by rw [clockTo_eq]; rfl
  refine ⟨t, hexec, hclock, hmem.trans hmems, by rw [hnow]; exact hkept, hclear, fun n hn => ?_⟩
  rw [hadv n hn, hnow, hstreams]

theorem commitInstant_service {v : Service} (hj : jobOf s g = some j) (hw : works s 20 = true) (hat : atCommit (clockTo at_ s) j = true)
    (hwaits : commitWaits s j = false) (hsvc : j.service = some v) (hclean : servicePoison (clockTo at_ s) j.len j v = none)
    (hchunks : ∀ n i m, v = .exportStream n i m → ∀ c, c ∈ chunksOfStream s n → c.tag ≠ g) :
    ∃ t st, exec (.commitInstant g at_) s = .next t ∧ t.clock = (clockTo at_ s).clock ∧
      (∃ k, jobOf t g = some k ∧ k.phase = .committed ∧ k.commit = some (now t) ∧ k.status = some st) ∧
      (j.deadline < now t → st = stLate) ∧
      (now t ≤ j.deadline → (∀ n i m, v ≠ .exportStream n i m) → (∀ n i p q, v ≠ .importStream n i p q) →
        (∀ i o, v ≠ .load i o) → (∀ i a, v ≠ .fill i a) → st = stDone) := by
  have hchunks' : ∀ n i m, v = .exportStream n i m → ∀ c, c ∈ chunksOfStream (clockTo at_ s) n → c.tag ≠ g := fun n i m hv c hcm =>
    hchunks n i m hv c (by rw [clockTo_eq] at hcm; exact hcm)
  obtain ⟨st, hclock, hkept, hlate, hdone⟩ := commitJob_service (jobOf_clockTo at_ hj) hsvc hclean hchunks'
  have hexec := commitInstant_exec s hj hat hwaits hw
  generalize commitJob g (clockTo at_ s) = t at hclock hkept hlate hdone hexec
  have hnow : now t = now (clockTo at_ s) := by rw [now, hclock, now]
  rw [← hnow] at hkept hlate hdone
  exact ⟨t, st, hexec, hclock, hkept, hlate, hdone⟩

theorem pagesStill_clockTo (x : Nat) (h : pagesStill s) : pagesStill (clockTo x s) := by
  rw [clockTo_eq]
  exact h

theorem commitPublish_outcome (hj : jobOf s g = some j) (hw : works s 20 = true) (hp : j.phase = .committed) (hc : j.commit = some n)
    (hst : j.status = some st) (hnext : publishNext s j = true) :
    ∃ t, exec (.commitPublish g) s = .next t ∧
      (∃ k, jobOf t g = some k ∧ k.phase = .published ∧ k.commit = some n ∧ k.status = some st) ∧ t.clock = (clockTo (n + 800) s).clock ∧
      (∀ k, jobOf t g = some k → k.staging = [] ∧ k.staged = []) ∧
      (st ≠ stDone → st ≠ stDegraded → pagesStill s → t.mem = s.mem ∧ t.dir = s.dir) ∧
      (st = stDone ∨ st = stDegraded → pagesStill s → j.service = none → j.staging = [] → j.uses = [] → j.recomp = false →
        (∀ ch, ch < 16 → (chan s ch).state = .stopped) → t.mem = overlayFlush s.mem j.staged) := by
  have hexec := commitPublish_exec hj hp hc hnext hw
  have hju := jobOf_clockTo (n + 800) hj
  have hframe := clockTo_eq (n + 800) s
  have hpages : pagesStill s → pagesStill (clockTo (n + 800) s) := pagesStill_clockTo _
  generalize clockTo (n + 800) s = u at hexec hju hframe hpages
  obtain ⟨hclock, k, hk, hphase, hcommit, hstatus, hstaging, hstaged⟩ := publish_kept hju hc hst
  refine ⟨_, hexec, ⟨k, hk, hphase, hcommit, hstatus⟩, hclock, fun k' hk' => ?_, fun h₁ h₂ hs => ?_,
    fun hdone hs hsvc hstg huses hrecomp hstopped => ?_⟩
  · cases hk.symm.trans hk'
    exact ⟨hstaging, hstaged⟩
  · obtain ⟨hm, hd⟩ := publish_withheld (g := g) (s := u) (by rw [hst]; simp [publishes, h₁, h₂]) (hpages hs)
    exact ⟨hm.trans (by rw [hframe]), hd.trans (by rw [hframe])⟩
  · have hmem : u.mem = s.mem := by rw [hframe]
    have hchan : ∀ c, chan u c = chan s c := fun c => by rw [chan, hframe, chan]
    have hplain := publish_plain (g := g) (s := u) (by rw [hst]; simp [publishes, hdone]) (hpages hs) hsvc hstg huses hrecomp
      fun c hc => (congrArg SelChannel.state (hchan c)).trans (hstopped c hc)
    exact hplain.trans (by rw [hmem])

end

/-- Settles O28: the commit of a job, by what its instant, its publish and its record leave of the clock and of the jobs. -/
theorem commitOfJob : Obligations.CommitOfJob := by
  intro s g j hj hw
  refine ⟨fun at_ hat hwaits hsvc => commitInstant_plain hj hw hat hwaits hsvc,
    fun at_ v hat hwaits hsvc hclean hchunks => commitInstant_service hj hw hat hwaits hsvc hclean hchunks,
    fun n st hp hc hst hnext => commitPublish_outcome hj hw hp hc hst hnext, fun n st hp hc hst hnext => ?_⟩
  obtain ⟨hgone, hclock, hsoft, hhard⟩ := record_outcome (st := st) (jobOf_clockTo (n + 1000) hj)
  have hexec := completionRecord_exec hj hp hc hst hnext hw
  have hframe := clockTo_eq (n + 1000) s
  have hclass : queueClass (clockTo (n + 1000) s) j.q = queueClass s j.q := cfg_clockTo ..
  generalize clockTo (n + 1000) s = u at *
  have hqueues : ∀ q, qget u q = qget s q := fun q => by rw [qget, hframe, qget]
  have hjobs : u.sluice.jobs = s.sluice.jobs := by rw [hframe]
  have hcounter : counter u 0x7411 1 = counter s 0x7411 1 := counter_eq_of_counters (by rw [hframe]) ..
  rw [hclass, hqueues, hjobs, hcounter, endRecord] at hsoft
  rw [hclass, hqueues, endRecord] at hhard
  exact ⟨_, hexec, hgone, hclock, hsoft, hhard⟩

end Sys2Proof.Machine

end

section
/-!
PROOF. What the slot boundary's operations leave of the Sluice's books: the clock, the configuration, the arrivals, the caps and the
sessions but for notify frames.
-/

namespace Sys2Proof.Machine

open Claims

/-! ## Steps that leave the Sluice's books -/

/-- The clock, the configuration, the arrivals and the caps stand; the sessions change by notify frames only. -/
structure BooksStand (s t : State) : Prop where
  clock : t.clock = s.clock
  dict : t.dict = s.dict
  arrivals : t.sluice.arrivals = s.sluice.arrivals
  caps : t.sluice.caps = s.sluice.caps
  sess : ∀ k, NotifiedOnly (sess s k) (sess t k)

namespace BooksStand

variable {s t u : State}

theorem refl (s : State) : BooksStand s s := ⟨rfl, rfl, rfl, rfl, fun _ => rfl⟩

theorem trans (h : BooksStand s t) (k : BooksStand t u) : BooksStand s u :=
  ⟨k.clock.trans h.clock, k.dict.trans h.dict, k.arrivals.trans h.arrivals, k.caps.trans h.caps,
    fun n => NotifiedOnly_trans (h.sess n) (k.sess n)⟩

theorem forEach {α : Type} (l : List α) (f : α → State → State) (h : ∀ a u, BooksStand u (f a u)) (s : State) :
    BooksStand s (forEach l f s) := forEach_rel BooksStand refl (fun _ _ _ h k => h.trans k) f l (fun a _ u => h a u) s

theorem ite {c : Prop} [Decidable c] (h : BooksStand s t) (k : BooksStand s u) : BooksStand s (if c then t else u) := by
  split
  · exact h
  · exact k

theorem of_shaken (h : Shaken s t) : BooksStand s t := ⟨by rw [h.eq], by rw [h.eq], by rw [h.eq], by rw [h.eq], h.sess⟩

theorem of_releases (h : Releases s t) : BooksStand s t := .of_shaken (.of_releases h)

theorem of_upset (h : Upset s t) : BooksStand s t := .of_shaken (.of_upset h)

theorem of_notices (h : Notices s t) : BooksStand s t := .of_shaken (.of_notices h)

theorem of_transmits (h : Transmits s t) : BooksStand s t := by
  rw [h.eq]
  exact ⟨rfl, rfl, rfl, rfl, fun _ => rfl⟩

theorem of_work (h : ChannelWork s t) : BooksStand s t := by
  rw [h]
  exact ⟨rfl, rfl, rfl, rfl, fun _ => rfl⟩

theorem of_tests (h : TestsEnded s t) : BooksStand s t := by
  rw [h.eq]
  exact ⟨rfl, rfl, rfl, rfl, fun _ => rfl⟩

end BooksStand

section

variable (s : State)

/-! ## The parts of a step -/

theorem jmod_books (g : BitVec 32) (f : Job → Job) : BooksStand s (jmod g f s) := ⟨rfl, rfl, rfl, rfl, fun _ => rfl⟩

theorem tmod_books (x : Nat) (f : Tile → Tile) : BooksStand s (tmod x f s) := ⟨rfl, rfl, rfl, rfl, fun _ => rfl⟩

theorem chanmod_books (x : Nat) (f : Channel → Channel) : BooksStand s (chanmod x f s) := ⟨rfl, rfl, rfl, rfl, fun _ => rfl⟩

theorem streamMod_books (n : Nat) (f : Stream → Stream) : BooksStand s (streamMod n f s) := ⟨rfl, rfl, rfl, rfl, fun _ => rfl⟩

theorem count_books (i j n : Nat) : BooksStand s (count i j n s) := ⟨rfl, rfl, rfl, rfl, fun _ => rfl⟩

theorem setEvent_books (n : Nat) : BooksStand s (setEvent n s) := ⟨rfl, rfl, rfl, rfl, fun _ => rfl⟩

theorem poke_books (a : Nat) (b : Bytes) : BooksStand s (poke a b s) := ⟨rfl, rfl, rfl, rfl, fun _ => rfl⟩

theorem callReplan_books (which : Job → Bool) : BooksStand s (callReplan which s) := ⟨rfl, rfl, rfl, rfl, fun _ => rfl⟩

theorem freshNat_books : BooksStand s (freshNat s).2 := ⟨rfl, rfl, rfl, rfl, fun _ => rfl⟩

theorem freshBytes_books (n : Nat) : BooksStand s (freshBytes n s).2 := ⟨rfl, rfl, rfl, rfl, fun _ => rfl⟩

theorem pokeCistern_books (a : Nat) (b : Bytes) : BooksStand s (pokeCistern a b s) := .of_releases (pokeCistern_releases ..)

theorem finishJob_books (g : BitVec 32) (st : BitVec 8) : BooksStand s (finishJob g st s) := .of_upset (finishJob_upset ..)

theorem enterSafe_books (c : Nat) (d : BitVec 32) (fault : Bool) :
    BooksStand s (enterSafe c d fault s) := .of_upset (enterSafe_upset ..)

theorem loseStream_books (n : Nat) (st : BitVec 8) : BooksStand s (loseStream n st s) := by
  unfold loseStream
  extract_lets r s₁ s₂
  have h₁ : BooksStand s s₁ := ⟨rfl, rfl, rfl, rfl, fun _ => rfl⟩
  have h₂ : BooksStand s₁ s₂ := streamMod_books ..
  exact h₁.trans (h₂.trans (.forEach _ _ (fun (j : Job) u => finishJob_books u j.tag st) s₂))

theorem notify_books (k : Nat) (n : Notify) : BooksStand s (notify k n s) := .of_notices (notify_notices ..)

theorem notifySubs_books (code : Nat) (d : Bytes) : BooksStand s (notifySubs code d s) := .of_notices (notifySubs_notices ..)

theorem notifyAbout_books (j : Job) (code : Nat) (d : Bytes) : BooksStand s (notifyAbout j code d s) := by
  unfold notifyAbout
  split
  · exact notify_books ..
  · exact count_books ..

theorem dropReqs_books (which : RoceReq → Bool) : BooksStand s (dropReqs which s) := .of_transmits (dropReqs_transmits ..)

theorem newReq_books (m : Nat) (o : RoceOwner) (op : RoceOp) (a : Nat) (d : Bytes) : BooksStand s (newReq m o op a d s) :=
  .of_transmits (newReq_transmits ..)

theorem tierFaultAt_books (g : BitVec 32) (e : Nat) (kind : TierFaultKind) : BooksStand s (tierFaultAt g e kind s) :=
  .of_shaken (tierFaultAt_shaken ..)

theorem reclaim_books : BooksStand s (reclaim s) := .of_releases (reclaim_releases s)

theorem setJobs_books (l : List Job) :
    BooksStand s { s with sluice := { s.sluice with jobs := l } } := ⟨rfl, rfl, rfl, rfl, fun _ => rfl⟩

theorem takeStaging_books (g : BitVec 32) : BooksStand s (takeStaging g s) := by
  obtain ⟨l, hl⟩ := takeStaging_frame s g
  rw [hl]
  exact setJobs_books s l

theorem endAttempt_books (j : Job) : BooksStand s (endAttempt j s) := by
  obtain ⟨t, l, ht, hl⟩ := endAttempt_work s j
  rw [hl]
  exact (BooksStand.of_work ht).trans (setJobs_books t l)

theorem killJob_books (g : BitVec 32) : BooksStand s (killJob g s) := by
  unfold killJob
  split
  · exact .refl s
  · exact (endAttempt_books s _).trans ((jmod_books ..).trans (count_books ..))

theorem failAttempt_books (g : BitVec 32) : BooksStand s (failAttempt g s) := by
  unfold failAttempt
  split
  · exact .refl s
  · exact .ite (.refl s) (.ite (finishJob_books ..) ((endAttempt_books s _).trans (jmod_books ..)))

theorem yieldTests_books (ts : List Nat) : BooksStand s (yieldTests ts s) := by
  unfold yieldTests
  exact .ite (.refl s) ((BooksStand.forEach _ _ (fun (e : Nat × FieldTest) u => .of_tests (endTest_tests u e.1 e.2)) s).trans (count_books ..))

/-! ## An uncorrectable error of a subchannel (R417) -/

theorem countIf_books (c : Prop) [Decidable c] (i j : Nat) : BooksStand s (countIf c i j s) := .ite (count_books ..) (.refl s)

theorem tallied_books (u : BitVec 32) (c : EventCause) : BooksStand s (tallied u c s) := by
  unfold tallied
  exact (count_books s 0x741d 0x0a 1).trans ((setEvent_books _ 2).trans ((countIf_books ..).trans ((countIf_books ..).trans
    ((countIf_books ..).trans ((countIf_books ..).trans (notifySubs_books ..))))))

theorem recalled_books (u : BitVec 32) (h : List Nat) (p : Bool) : BooksStand s (recalled u h p s) := by
  rw [recalled_frame]
  exact ⟨rfl, rfl, rfl, rfl, fun _ => rfl⟩

theorem reasked_books (u : BitVec 32) (c : EventCause) (a : Nat) : BooksStand s (reasked u c a s) := by
  obtain ⟨l, hl⟩ := reasked_frame s u c a
  rw [hl]
  exact ⟨rfl, rfl, rfl, rfl, fun _ => rfl⟩

theorem blockError_books (u : BitVec 32) (c : EventCause) : BooksStand s (blockError u c s) := by
  unfold blockError
  split
  · simp only
    have h := freshNat_books s
    generalize (freshNat s).2 = v at h
    split
    · exact h
    · exact h.trans (.forEach _ _ (fun (b : Nat × Nat) w => loseStream_books w b.1 stIntegrity) v)
  · exact .refl s

theorem failedAttempt_books (job : Option (BitVec 32)) : BooksStand s (failedAttempt job s) := by
  unfold failedAttempt
  split
  · exact failAttempt_books ..
  · exact .refl s

theorem eventTold_books (u : BitVec 32) (c : EventCause) (b : Bool) (job : Option (BitVec 32)) :
    BooksStand s (eventTold u c b job s) := by
  unfold eventTold
  extract_lets t v
  have hv : BooksStand t v := (recalled_books ..).trans (blockError_books ..)
  exact (tallied_books s u c).trans (hv.trans ((failedAttempt_books ..).trans (reasked_books ..)))

theorem enterTable_books (u : BitVec 32) : BooksStand s (enterTable u s) := by
  unfold enterTable
  split
  · exact .trans (t := { s with island := { s.island with extra := s.island.extra ++ [u] } }) ⟨rfl, rfl, rfl, rfl, fun _ => rfl⟩
      (enterSafe_books ..)
  · exact ⟨rfl, rfl, rfl, rfl, fun _ => rfl⟩

theorem subchannelRetired_books (d : Directory) (which : Job → Bool) :
    BooksStand s (callReplan which (count 0x7415 0x0c 1 { s with dir := d })) :=
  ⟨rfl, rfl, rfl, rfl, fun _ => rfl⟩

/-- A subchannel is retired by a re-plan, or safe state is entered. -/
theorem retireUnit_books (u : BitVec 32) (hk : unitKind u = 4) : BooksStand s (retireUnit u s) := by
  unfold retireUnit
  refine .ite (.refl s) (.ite (enterSafe_books ..) ?_)
  have h : BooksStand s (setEvent 1 (count 0x741d 0x0b 1 (notifySubs 0x21 (leBytes 4 u.toNat) (enterTable u s)))) :=
    (enterTable_books s u).trans ((notifySubs_books ..).trans ((count_books ..).trans (setEvent_books ..)))
  refine h.trans ?_
  generalize setEvent 1 (count 0x741d 0x0b 1 (notifySubs 0x21 (leBytes 4 u.toNat) (enterTable u s))) = v
  unfold retireEffect
  simp only [hk]
  exact subchannelRetired_books ..

theorem failureEvent_books (u : BitVec 32) (hk : unitKind u = 4) (c : EventCause) (b : Bool) (job : Option (BitVec 32)) :
    BooksStand s (failureEvent u c b job s) := by
  rw [failureEvent_told]
  have h := eventTold_books s u c b job
  refine .ite h (h.trans ?_)
  rw [permanentEffect, if_pos (by omega)]
  exact retireUnit_books _ u hk

theorem unitKind_subchannel (n : Nat) (h : n < 32) : unitKind (unitOf 4 n) = 4 := by
  simp only [unitKind, unitOf, BitVec.toNat_ofNat]
  omega

theorem subchannelOf_lt (a : Nat) : subchannelOf s a < 32 := by
  unfold subchannelOf
  dsimp only
  split
  · exact Nat.mod_lt _ (by decide)
  · exact Nat.xor_lt_two_pow (n := 5) (Nat.mod_lt _ (by decide)) (Nat.mod_lt _ (by decide))

theorem poisonIn_lt {a n c : Nat} (h : poisonIn s a n = some c) : c < 32 := by
  obtain ⟨l, -, rfl⟩ := Option.map_eq_some_iff.mp h
  exact subchannelOf_lt ..

theorem poison_books (u : State) {a n c : Nat} (h : poisonIn u a n = some c) (cause : EventCause) (b : Bool) (job : Option (BitVec 32)) :
    BooksStand s (failureEvent (unitOf 4 c) cause b job s) :=
  failureEvent_books s _ (unitKind_subchannel c (poisonIn_lt u h)) cause b job

/-! ## Transfers and saves that end -/

theorem writeImage_books (m a : Nat) (b : Bytes) : BooksStand s (writeImage m a b s) := by
  unfold writeImage
  exact .ite (pokeCistern_books ..) (.of_transmits (peerWrite_transmits ..))

theorem exportSome_books (k : Nat) (g : BitVec 32) : BooksStand s (exportSome k g s) := by
  unfold exportSome
  split
  · exact .refl s
  · split
    · dsimp only
      exact .ite (.refl s) ((writeImage_books s _ _ _).trans (jmod_books ..))
    · exact .refl s

theorem storeExport_books (ts : List Nat) (rows : Nat → List (BitVec 48)) : BooksStand s (storeExport ts rows s) := by
  refine .forEach _ _ (fun x u => ?_) s
  exact ⟨rfl, rfl, rfl, rfl, fun _ => rfl⟩

theorem importSome_books (k : Nat) (g : BitVec 32) : BooksStand s (importSome k g s) := by
  unfold importSome
  split
  · exact .refl s
  · split
    · extract_lets b part body per s₁
      have h₁ : BooksStand s s₁ := jmod_books ..
      exact .ite h₁ (h₁.trans (storeExport_books ..))
    · exact .refl s

theorem serviceTransfer_books (cur : Nat) (g : BitVec 32) : BooksStand s (serviceTransfer cur g s) := by
  unfold serviceTransfer
  split
  · exact .ite (.refl s) ((exportSome_books s _ g).trans (importSome_books ..))
  · exact .refl s

theorem transferSlot_books (cur : Nat) (g : BitVec 32) : BooksStand s (transferSlot cur g s) := by
  unfold transferSlot
  split
  · exact .refl s
  · split
    · split
      next h => exact poison_books s s h ..
      · exact serviceTransfer_books ..
    · exact serviceTransfer_books ..

theorem raiseEvent_books (job : Option (BitVec 32)) (n : Nat) : BooksStand s (raiseEvent job n s) := by
  rw [raiseEvent_eq]
  exact ⟨rfl, rfl, rfl, rfl, fun _ => rfl⟩

/-- A fence descriptor whose read-back has come. -/
theorem fencePassed_books (ch i j n e : Nat) (p : Posted) (f : Channel → Channel) (c : Prop) [Decidable c] (job : Option (BitVec 32)) :
    BooksStand s (headDone ch p (if c then raiseEvent job e (count i j n (chanmod ch f s)) else count i j n (chanmod ch f s))) := by
  have h : BooksStand s (count i j n (chanmod ch f s)) := (chanmod_books s ch f).trans (count_books ..)
  generalize count i j n (chanmod ch f s) = u at h
  exact (BooksStand.ite (h.trans (raiseEvent_books ..)) h).trans (.of_work (headDone_work ..))

theorem fenceReturn_books (ch n : Nat) : BooksStand s (fenceReturn ch n s) := by
  have hdead : ∀ (u : State), BooksStand u (dyingFence ch n u) := fun u => .of_work (dyingFence_work u ch n)
  have hsettle : ∀ (u : State), BooksStand u (settleFences ch u) := fun u => .of_work (settleFences_work u ch)
  unfold fenceReturn
  extract_lets s₁ s₂
  have h₁ : BooksStand s s₁ := dropReqs_books ..
  have h₂ : BooksStand s₁ s₂ := .trans (chanmod_books ..) (hdead _)
  refine h₁.trans (h₂.trans ?_)
  clear_value s₂
  split
  · split
    · exact .trans (chanmod_books ..) (count_books ..)
    · split
      · exact fencePassed_books s₂ ..
      · exact hsettle ..
  · exact hsettle ..

theorem dyingMod_books (d : Nat) (f : Dying → Dying) : BooksStand s (dyingMod d f s) := ⟨rfl, rfl, rfl, rfl, fun _ => rfl⟩

theorem writePlace_books (w : Actor) (pl : Place) (b : Bytes) : BooksStand s (writePlace w pl b s) := by
  cases pl with
  | cistern a =>
    unfold writePlace
    dsimp only
    split
    · exact dyingMod_books ..
    · exact jmod_books ..
    · exact pokeCistern_books ..
  | tile a => exact poke_books ..
  | cluster k o => exact poke_books ..
  | tensor i o =>
    unfold writePlace
    dsimp only
    split
    · exact pokeCistern_books ..
    · exact .refl s
  | peer m o => exact .of_transmits (peerWrite_transmits ..)
  | unmapped => exact .refl s

theorem mirrorTile_books (pl : Place) (b : Bytes) : BooksStand s (mirrorTile s pl b) := by
  obtain ⟨m, hm⟩ := mirrorTile_frame s pl b
  rw [hm]
  exact ⟨rfl, rfl, rfl, rfl, fun _ => rfl⟩

theorem programFault_books (g : BitVec 32) : BooksStand s (programFault g s) := by
  unfold programFault
  split
  · exact .refl s
  · exact .ite (.refl s) (finishJob_books ..)

theorem descriptorBad_books (job : Option (BitVec 32)) : BooksStand s (descriptorBad job s) := by
  unfold descriptorBad
  dsimp only
  split
  · exact (count_books ..).trans (programFault_books ..)
  · exact count_books ..

theorem noteTarget_books (ch n : Nat) : BooksStand s (noteTarget ch n s) := by
  unfold noteTarget
  exact .ite (.refl s) (.ite (chanmod_books ..) (.trans (chanmod_books ..) (count_books ..)))

theorem readPlace_books (w : Actor) (pl : Place) (n : Nat) : BooksStand s (readPlace w pl n s).2 := by
  cases pl with
  | tensor i o =>
    unfold readPlace
    dsimp only
    split
    · exact .refl s
    · split
      · exact .refl s
      · exact freshBytes_books ..
  | peer m o => exact freshBytes_books ..
  | cistern a => exact .refl s
  | tile a => exact .refl s
  | cluster k o => exact .refl s
  | unmapped => exact .refl s

theorem siphonData_books (w : Actor) (d : SiphonDesc) : BooksStand s (siphonData w d s).2 := by
  have h := readPlace_books s w (placeOf s d.src (srcSpan d)) (srcSpan d)
  unfold siphonData
  dsimp only
  split
  · exact h
  · split
    · exact h
    · exact h

theorem poisonHit_lt (w : Actor) {pl : Place} {n c : Nat} (h : poisonHit s w pl n = some c) : c < 32 := by
  cases pl with
  | cistern a => exact poisonIn_lt s h
  | tensor i o =>
    unfold poisonHit at h
    dsimp only at h
    split at h
    · exact poisonIn_lt s h
    · split at h
      · obtain ⟨l, -, hl⟩ := List.exists_of_findSome?_eq_some h
        exact poisonIn_lt s hl
      · cases h
  | peer m o => cases h
  | tile a => cases h
  | cluster k o => cases h
  | unmapped => cases h

/-- The bytes of a copy put in place. -/
theorem copied_books (w : Actor) (dst : Place) (b : Bytes) (ch n e : Nat) (c : Prop) [Decidable c] (job : Option (BitVec 32)) :
    BooksStand s (if c then raiseEvent job e (noteTarget ch n (mirrorTile (writePlace w dst b s) dst b))
      else noteTarget ch n (mirrorTile (writePlace w dst b s) dst b)) := by
  have h : BooksStand s (noteTarget ch n (mirrorTile (writePlace w dst b s) dst b)) :=
    (writePlace_books s w dst b).trans ((mirrorTile_books ..).trans (noteTarget_books ..))
  exact .ite (h.trans (raiseEvent_books ..)) h

theorem runDescriptor_books (ch : Nat) (p : Posted) : BooksStand s (runDescriptor ch p s) := by
  unfold runDescriptor
  extract_lets d job src dst hit
  have hhit : ∀ n, hit = some n → n < 32 := fun n h => poisonHit_lt s p.actor h
  have hread := siphonData_books s p.actor d
  clear_value hit job
  generalize siphonData p.actor d s = r at hread
  obtain ⟨o, u⟩ := r
  cases o with
  | none => exact hread.trans (descriptorBad_books ..)
  | some b =>
    have hu : BooksStand s (count 0x741b 9 1 u) := BooksStand.trans hread (count_books ..)
    dsimp only
    generalize count 0x741b 9 1 u = v at hu
    generalize (if d.dstFixed then b.drop (b.length - 8) else b) = b
    split
    · split
      · exact hu.trans (programFault_books ..)
      · exact hu
    · refine hu.trans ?_
      have hcopied := copied_books v p.actor dst b ch (targetOf dst) d.event (d.eventOn ∧ p.dead.isNone) job
      cases hit with
      | none => exact hcopied
      | some n => exact hcopied.trans (failureEvent_books _ _ (unitKind_subchannel n (hhit n rfl)) ..)

theorem headDone_books (ch : Nat) (p : Posted) : BooksStand s (headDone ch p s) := .of_work (headDone_work ..)

theorem finishHead_books (g : BitVec 32) (ch : Nat) : BooksStand s (finishHead g ch s) := by
  unfold finishHead
  refine .ite ?_ (.refl s)
  split
  · refine .ite (fenceReturn_books ..) ?_
    dsimp only
    split
    · exact (fenceReturn_books ..).trans ((runDescriptor_books ..).trans (headDone_books ..))
    · exact (runDescriptor_books ..).trans (headDone_books ..)
  · exact .refl s

theorem stopCopy_books (g : BitVec 32) (c : CopyRun) : BooksStand s (stopCopy g c s) := by
  have hend : ∀ (u : State) (f : Job → Job), BooksStand u (count 0x741b 0x0a 1 (jmod g f
      (dropReqs (fun r => r.owner == .job g (some c.entry)) u))) := fun u f =>
    (dropReqs_books ..).trans ((jmod_books ..).trans (count_books ..))
  unfold stopCopy
  split
  · exact .refl s
  · split
    · split
      · exact .refl s
      · have hfresh := freshNat_books s
        generalize freshNat s = r at hfresh
        obtain ⟨f, u⟩ := r
        dsimp only
        refine .trans hfresh (.trans ?_ (hend _ _))
        exact .ite (.refl u) ((writePlace_books ..).trans (mirrorTile_books ..))
    · exact .refl s

theorem clearFences_books (j : Job) : BooksStand s (clearFences j s) := by
  rw [clearFences_go s j]
  exact ⟨rfl, rfl, rfl, rfl, fun _ => rfl⟩

theorem copyCistern_books (a b n : Nat) : BooksStand s (copyCistern a b n s) := by
  unfold copyCistern healLines
  exact .ite ⟨rfl, rfl, rfl, rfl, fun _ => rfl⟩ ⟨rfl, rfl, rfl, rfl, fun _ => rfl⟩

theorem pokeRecord_books (x : Nat) (r : SaveRecord) : BooksStand s (pokeRecord x r s) := poke_books ..

theorem endSave_books (g : BitVec 32) : BooksStand s (endSave g s) := by
  unfold endSave
  split
  · exact .refl s
  next j _ =>
    extract_lets s₁ s₂ s₃ s₄ s₅
    have h₁ : BooksStand s s₁ := .forEach _ _ (fun ch u => finishHead_books u g ch) s
    refine .ite (h₁.trans ?_) h₁
    have h₂ : BooksStand s₁ s₂ := .forEach _ _ (fun ch u => .of_work (fenceWhenDone_work u ch _)) s₁
    have h₃ : BooksStand s₂ s₃ := (clearFences_books s₂ j).trans (.forEach _ _ (fun c u => stopCopy_books u g c) _)
    have h₄ : BooksStand s₃ s₄ :=
      .forEach _ (fun (e : Nat × SaveRecord) => pokeRecord e.1 e.2) (fun e u => pokeRecord_books u e.1 e.2) s₃
    have h₅ : BooksStand s₄ s₅ := by
      simp only [s₅]
      split
      · exact .forEach _ _ (fun t u => copyCistern_books u _ _ _) s₄
      · exact .refl s₄
    exact h₂.trans (h₃.trans (h₄.trans (h₅.trans ((jmod_books ..).trans (count_books ..)))))

theorem holdChunk_books (g : BitVec 32) : BooksStand s (holdChunk g s) := by
  unfold holdChunk
  split
  · exact .refl s
  · exact .ite (finishJob_books ..) (jmod_books ..)

theorem overrunJob_books (cur : Nat) (g : BitVec 32) : BooksStand s (overrunJob cur g s) := by
  unfold overrunJob
  split
  · exact .refl s
  · split
    · exact .refl s
    · exact .ite (finishJob_books ..) (jmod_books ..)

theorem boundaryEnds_books (cur : Nat) : BooksStand s (boundaryEnds cur s) := by
  unfold boundaryEnds
  extract_lets s₁ s₂ s₃ s₄
  have h₁ : BooksStand s s₁ := .forEach _ _ (fun g u => transferSlot_books u cur g) s
  have h₂ : BooksStand s₁ s₂ := .forEach _ _ (fun g u => jmod_books u g _) s₁
  have h₃ : BooksStand s₂ s₃ := .forEach _ _ (fun g u => endSave_books u g) s₂
  have h₄ : BooksStand s₃ s₄ := .forEach _ _ (fun g u => holdChunk_books u g) s₃
  exact h₁.trans (h₂.trans (h₃.trans (h₄.trans (.forEach _ _ (fun g u => overrunJob_books u cur g) s₄))))

/-! ## Re-plans (R59, R67) -/

theorem assignSpares_books : BooksStand s (assignSpares s) := by
  refine .forEach _ _ (fun n u => .forEach _ _ (fun m v => ?_) u) s
  refine .ite ?_ (.refl v)
  split
  · exact (streamMod_books ..).trans (callReplan_books ..)
  · exact loseStream_books ..

theorem wipeExport_books (ts : List Nat) : BooksStand s (wipeExport ts s) := ⟨rfl, rfl, rfl, rfl, fun _ => rfl⟩

theorem restartService_books (j : Job) : BooksStand s (restartService j s) := by
  unfold restartService
  exact .ite ((wipeExport_books ..).trans (jmod_books ..)) (.refl s)

theorem reportRisk_books (j : Job) : BooksStand s (reportRisk j s) := by
  unfold reportRisk
  exact (jmod_books ..).trans ((count_books ..).trans ((setEvent_books ..).trans (notifyAbout_books ..)))

theorem keepAtRisk_books (cur : Nat) (j : Job) (w : Want) : BooksStand s (keepAtRisk cur j w s) := by
  unfold keepAtRisk
  refine .ite (finishJob_books ..) ?_
  extract_lets again s₁ rest rs s₂
  have h₁ : BooksStand s s₁ := restartService_books ..
  have h₂ : BooksStand s₁ s₂ := .ite (.refl s₁) (reportRisk_books ..)
  exact h₁.trans (h₂.trans (jmod_books ..))

theorem takeRuns_books (j : Job) (rs : List Run) (n : Nat) : BooksStand s (takeRuns j rs n s) := by
  unfold takeRuns
  extract_lets s₁
  have h₁ : BooksStand s s₁ := (restartService_books s j).trans (jmod_books ..)
  exact .ite (h₁.trans (notifyAbout_books ..)) h₁

theorem drawn_books : BooksStand s { s with freeCtr := s.freeCtr + 1 } := ⟨rfl, rfl, rfl, rfl, fun _ => rfl⟩

theorem place_books (cur : Nat) (self : Option (BitVec 32)) (w : Want) (heap : Bool) :
    BooksStand s (place s cur self w heap).2 := by
  unfold place
  extract_lets others
  split
  · split
    · exact .refl s
    · extract_lets no
      split
      · split
        · split
          · exact drawn_books s
          · exact count_books ..
        · exact .refl s
      · exact .refl s
  · split
    · split
      · split
        · exact drawn_books s
        · exact count_books ..
      · exact .refl s
    · exact .refl s

theorem replanJob_books (cur : Nat) (g : BitVec 32) : BooksStand s (replanJob cur g s) := by
  unfold replanJob
  split
  · exact .refl s
  next j _ =>
    extract_lets needs before order load w heapOk r s₁
    have hr : BooksStand s r.2 := by
      simp only [r]
      split
      · exact .refl s
      · exact place_books ..
    split
    · exact hr.trans (keepAtRisk_books ..)
    next rs _ =>
      extract_lets s₂ s₃
      have h₁ : BooksStand r.2 s₁ := jmod_books ..
      have h₂ : BooksStand s₁ s₂ := .ite (jmod_books ..) (.refl s₁)
      have h₃ : BooksStand s₂ s₃ := .ite ((jmod_books ..).trans (count_books ..)) (.refl s₂)
      exact hr.trans (h₁.trans (h₂.trans (h₃.trans (takeRuns_books ..))))

theorem yieldSpare_books (cur : Nat) (g : BitVec 32) : BooksStand s (yieldSpare cur g s) := by
  unfold yieldSpare
  split
  · exact .refl s
  · split
    · exact .ite (jmod_books ..) (.refl s)
    · exact .refl s

theorem boundaryPlans_books (cur : Nat) : BooksStand s (boundaryPlans cur s) := by
  unfold boundaryPlans
  extract_lets s₁ s₂
  have h₁ : BooksStand s s₁ := assignSpares_books s
  have h₂ : BooksStand s₁ s₂ := .forEach _ _ (fun (j : Job) u => replanJob_books u cur j.tag) s₁
  exact h₁.trans (h₂.trans (.forEach _ _ (fun g u => yieldSpare_books u cur g) s₂))

/-! ## Starts, saves and restores -/

theorem serviceReq_books (g : BitVec 32) : BooksStand s (serviceReq g s) := by
  unfold serviceReq
  split
  · exact .ite (.refl s) (newReq_books ..)
  · exact newReq_books ..
  · split
    · exact newReq_books ..
    · exact .refl s
  · exact .refl s

theorem deferJob_books (g : BitVec 32) : BooksStand s (deferJob g s) := jmod_books ..

theorem startService_books (j : Job) (v : Service) : BooksStand s (startService j v s) := by
  unfold startService
  extract_lets go
  have hgo : ∀ u, BooksStand u (go u) := fun u => jmod_books ..
  have hrun : ∀ f, BooksStand s (go (jmod j.tag f s)) := fun f => (jmod_books s j.tag f).trans (hgo _)
  refine .ite (deferJob_books ..) ?_
  clear_value go
  cases v with
  | exportStream n i m =>
    refine .ite (finishJob_books ..) (.ite (deferJob_books ..) ?_)
    exact (storeExport_books s _ _).trans ((jmod_books ..).trans (hgo _))
  | importStream n i p q => exact .ite (deferJob_books ..) (hrun _)
  | store i o => exact hrun _
  | migrateBasin i m o => exact hrun _
  | migrateCistern i => exact hrun _
  | migrateAquifer i m a => exact hrun _
  | load i o => exact hgo s
  | fill i a => exact hgo s

theorem seqView_books (j : Job) (n : Nat) : BooksStand s (seqView j n s).2 := by
  unfold seqView
  split
  · exact .refl s
  · exact pokeCistern_books ..

theorem writeViews_books (j : Job) : BooksStand s (writeViews j s) := by
  unfold writeViews
  refine .ite (.refl s) (.forEach _ _ (fun h u => ?_) s)
  dsimp only
  split
  · exact (seqView_books ..).trans (pokeCistern_books ..)
  · exact .trans (.forEach _ _ (fun b v => (seqView_books v j _).trans (pokeCistern_books ..)) u) (pokeCistern_books ..)

theorem storeRollback_books (n : Nat) : BooksStand s (storeRollback n s) := by
  refine .forEach _ _ (fun x u => ?_) s
  exact ⟨rfl, rfl, rfl, rfl, fun _ => rfl⟩

theorem recomputeOutcome_books (j : Job) : BooksStand s (recomputeOutcome j s).2.2 := by
  unfold recomputeOutcome
  dsimp only
  split
  · exact .refl s
  · have h := freshNat_books s
    generalize freshNat s = r at h
    split
    · exact h
    · split
      · exact h
      · exact h

theorem startOn_books (g : BitVec 32) (b : Nat) : BooksStand s (startOn g b s) := by
  unfold startOn
  split
  · exact .refl s
  · split
    · exact .refl s
    · extract_lets s₁ s₂ first s₃
      have h₁ : BooksStand s s₁ := yieldTests_books ..
      have h₂ : BooksStand s₁ s₂ := jmod_books ..
      have h₃ : BooksStand s₂ s₃ := tmod_books ..
      exact h₁.trans (h₂.trans (.ite (h₃.trans (tmod_books ..)) h₃))

theorem startPlain_books (j : Job) : BooksStand s (startPlain j s) := by
  unfold startPlain
  extract_lets moving swapped s₁ j₁ bound j₂ s₂ s₃
  refine .ite ((jmod_books ..).trans (count_books ..)) (.ite (deferJob_books ..) (.ite (deferJob_books ..) ?_))
  have h₁ : BooksStand s s₁ := takeStaging_books ..
  have h₂ : BooksStand s₁ s₂ := writeViews_books ..
  have h₃ : BooksStand s₂ s₃ := by
    simp only [s₃]
    split
    · exact storeRollback_books ..
    · exact .refl s₂
  have h₄ := recomputeOutcome_books s₃ j₂
  refine h₁.trans (h₂.trans (h₃.trans ?_))
  clear_value s₃
  generalize recomputeOutcome j₂ s₃ = r at h₄
  obtain ⟨j₃, runs, u⟩ := r
  refine .ite (h₄.trans (finishJob_books ..)) (BooksStand.trans h₄ ?_)
  exact (jmod_books u j₃.tag _).trans (.forEach _ (startOn j₃.tag) (fun b v => startOn_books v j₃.tag b) _)

theorem startJob_books (g : BitVec 32) : BooksStand s (startJob g s) := by
  unfold startJob
  split
  · exact .refl s
  · split
    · exact startService_books ..
    · exact startPlain_books ..

theorem stopChannels_books (g : BitVec 32) (f : Posted → Posted) :
    BooksStand s (stopChannels g f s) := .of_releases (stopChannels_releases ..)

theorem saveJob_books (g : BitVec 32) : BooksStand s (saveJob g s) := by
  unfold saveJob
  split
  · exact .refl s
  · refine .ite ((killJob_books ..).trans (count_books ..)) ?_
    extract_lets ts s₁ recs power s₂
    have h₁ : BooksStand s s₁ := .forEach _ _ (fun x u => .of_releases (abandonWait_releases u x)) s
    have h₂ : BooksStand s₁ s₂ := ⟨rfl, rfl, rfl, rfl, fun _ => rfl⟩
    exact h₁.trans (h₂.trans (jmod_books ..))

theorem postTo_books (ch : Nat) (p : Posted) : BooksStand s (postTo ch p s) := by
  unfold postTo
  exact .ite ((chanmod_books ..).trans (.of_work (startNext_work ..))) (chanmod_books ..)

theorem askCopy_books (g : BitVec 32) (c : CopyRun) : BooksStand s (askCopy g c s) := by
  unfold askCopy
  split
  · exact .refl s
  · split
    · exact .refl s
    · exact .ite (newReq_books ..) (tierFaultAt_books ..)

theorem loadSaved_books (j : Job) (m : List (Nat × Nat)) : BooksStand s (loadSaved j m s) := by
  unfold loadSaved
  extract_lets recs s₁ s₂ s₃ s₄
  have h₁ : BooksStand s s₁ := by
    simp only [s₁]
    split
    · refine .forEach _ _ (fun t u => ?_) s
      exact ⟨rfl, rfl, rfl, rfl, fun _ => rfl⟩
    · exact .refl s
  have h₂ : BooksStand s₁ s₂ := .forEach _ _ (fun e u => tmod_books u _ _) s₁
  have h₃ : BooksStand s₂ s₃ := ⟨rfl, rfl, rfl, rfl, fun _ => rfl⟩
  have h₄ : BooksStand s₃ s₄ := jmod_books ..
  refine h₁.trans (h₂.trans (h₃.trans (h₄.trans ?_)))
  exact .trans (.forEach _ _ (fun c u => askCopy_books u j.tag c) s₄) (.forEach _ _ (fun p u => postTo_books u _ p) _)

theorem restoreJob_books (g : BitVec 32) : BooksStand s (restoreJob g s) := by
  unfold restoreJob
  split
  · exact .refl s
  next j _ =>
    refine .ite ((killJob_books ..).trans (count_books ..)) ?_
    split
    next c h =>
      obtain ⟨x, -, hx⟩ := Option.bind_eq_some_iff.mp h
      exact poison_books s s hx ..
    · split
      · exact killJob_books ..
      · exact (yieldTests_books ..).trans (loadSaved_books ..)

theorem boundaryStarts_books (cur : Nat) : BooksStand s (boundaryStarts cur s) := by
  unfold boundaryStarts
  extract_lets s₁ s₂
  have h₁ : BooksStand s s₁ := .forEach _ _ (fun g u => (startJob_books u g).trans (serviceReq_books ..)) s
  have h₂ : BooksStand s₁ s₂ := .forEach _ _ (fun g u => saveJob_books u g) s₁
  exact h₁.trans (h₂.trans (.forEach _ _ (fun g u => restoreJob_books u g) s₂))

theorem endCycle_books : BooksStand s (endCycle s) :=
  .trans (t := { s with pages := { s.pages with cycle := false } }) ⟨rfl, rfl, rfl, rfl, fun _ => rfl⟩ (reclaim_books _)

/-! ## The map's own instant -/

theorem replicaPoke_books (o : Nat) (b : Bytes) : BooksStand s (replicaPoke o b s) := .forEach _ _ (fun k u => poke_books u _ _) s

theorem writeApply_books (a : Apply) : BooksStand s (writeApply a s) :=
  .trans (t := { s with map := { s.map with apply := some a } }) ⟨rfl, rfl, rfl, rfl, fun _ => rfl⟩
    ((replicaPoke_books ..).trans (replicaPoke_books ..))

theorem takeTails_books : BooksStand s (takeTails s) := ⟨rfl, rfl, rfl, rfl, fun _ => rfl⟩

theorem applyBrick_books (e : Nat × Nat × Nat) (acc : List (Nat × Nat) × List Nat × State) :
    BooksStand acc.2.2 (applyBrick e acc).2.2 := by
  unfold applyBrick
  extract_lets ix
  refine if h : e.2.1 = 1 then ?_ else ?_
  · rw [if_pos h]
    exact .refl _
  · rw [if_neg h]
    exact .trans (t := (freshChoice acc.2.1 acc.2.2).2) ⟨rfl, rfl, rfl, rfl, fun _ => rfl⟩ (replicaPoke_books ..)

theorem mapApply_books : BooksStand s (mapApply s) := by
  have hfold : ∀ (l : List (Nat × Nat × Nat)) (acc : List (Nat × Nat) × List Nat × State),
      BooksStand acc.2.2 (l.foldl (fun acc e => applyBrick e acc) acc).2.2 := fun l => by
    induction l with
    | nil => exact fun _ => .refl _
    | cons e l ih => exact fun acc => (applyBrick_books e acc).trans (ih _)
  unfold mapApply
  refine .ite (.refl s) (.ite (.ite (count_books ..) ?_) ?_)
  · exact (count_books ..).trans ((takeTails_books _).trans (writeApply_books ..))
  · extract_lets es changed r
    refine .ite (count_books ..) ?_
    have h : BooksStand s r.2.2 := hfold es (s.map.index, freeSlots s, s)
    exact h.trans ((takeTails_books _).trans (writeApply_books ..))

theorem mapBoundary_books (n : Nat) : BooksStand s (mapBoundary n s) := by
  unfold mapBoundary
  exact .ite (.refl s) (.trans (t := { s with map := { s.map with judged := n } }) ⟨rfl, rfl, rfl, rfl, fun _ => rfl⟩ (mapApply_books _))

end

end Sys2Proof.Machine

end

section
/-!
PROOF. The slot boundary (R60): which arrivals it decides, in which order, and what it leaves.
-/

namespace Sys2Proof.Machine

open Claims

/-! ## The order of decisions -/

/-- The model's sort is an insertion sort. -/
theorem sortBy_eq_insertionSort {α : Type} (le : α → α → Bool) (l : List α) :
    sortBy le l = l.insertionSort (fun a b => le a b = true) := by
  have hinsert : ∀ (a : α) (l : List α), insertBy le a l = l.orderedInsert (fun a b => le a b = true) a := fun a l => by
    induction l with
    | nil => rfl
    | cons b l ih =>
      rw [insertBy, List.orderedInsert_cons, ih]
  induction l with
  | nil => rfl
  | cons a l ih =>
    rw [List.insertionSort_cons, ← ih, ← hinsert]
    rfl

/-- The place of an arrival in the order of decisions: its slot, then its queue's class, then its queue. -/
def arrivalKey (s : State) (a : Arrival) : Nat := (a.slot * 4 + queueClass s a.q) * 4096 + a.q

/-- The arrivals of slots before `cur`. -/
def oldArrivals (s : State) (cur : Nat) : List Arrival := s.sluice.arrivals.filter (fun a => a.slot < cur)

/-- The old arrivals in the order of decisions. -/
def arrivalOrder (s : State) (cur : Nat) : List Arrival :=
  (oldArrivals s cur).insertionSort (fun a b => decide (arrivalKey s a ≤ arrivalKey s b) = true)

section

variable (s : State) (cur : Nat)

theorem boundaryArrivals_eq : boundaryArrivals s cur = (arrivalOrder s cur).take 64 := by
  unfold boundaryArrivals
  simp only [sortBy_eq_insertionSort]
  rfl

theorem arrivalOrder_sorted : (arrivalOrder s cur).Pairwise (fun a b => arrivalKey s a ≤ arrivalKey s b) := by
  have htotal : Std.Total (fun a b => decide (arrivalKey s a ≤ arrivalKey s b) = true) := ⟨fun a b => by simpa using Nat.le_total _ _⟩
  have htrans : IsTrans Arrival (fun a b => decide (arrivalKey s a ≤ arrivalKey s b) = true) := ⟨fun a b c hab hbc => by
    simp only [decide_eq_true_eq] at *
    exact hab.trans hbc⟩
  exact (List.pairwise_insertionSort _ _).imp fun h => by simpa using h

theorem boundaryArrivals_length : (boundaryArrivals s cur).length = min 64 (oldArrivals s cur).length := by
  rw [boundaryArrivals_eq, List.length_take, arrivalOrder, List.length_insertionSort]

theorem boundaryArrivals_sorted : (boundaryArrivals s cur).Pairwise (fun a b => arrivalKey s a ≤ arrivalKey s b) := by
  rw [boundaryArrivals_eq]
  exact (arrivalOrder_sorted s cur).sublist (List.take_sublist ..)

/-- Arrivals of one slot and queue keep their order. -/
theorem arrivalOrder_stable (k : Nat) :
    (arrivalOrder s cur).filter (fun a => arrivalKey s a == k) = (oldArrivals s cur).filter (fun a => arrivalKey s a == k) := by
  have hsub : ((oldArrivals s cur).filter (fun a => arrivalKey s a == k)).Sublist (arrivalOrder s cur) := by
    refine List.sublist_insertionSort ?_ List.filter_sublist
    refine List.pairwise_of_forall_mem_list fun a ha b hb => ?_
    simp only [List.mem_filter, beq_iff_eq] at ha hb
    simp [ha.2, hb.2]
  have hfilter := hsub.filter (fun a => arrivalKey s a == k)
  rw [List.filter_filter] at hfilter
  simp only [Bool.and_self] at hfilter
  exact (hfilter.eq_of_length (by
    have := ((List.perm_insertionSort (fun a b => decide (arrivalKey s a ≤ arrivalKey s b) = true) (oldArrivals s cur)).filter
      (fun a => arrivalKey s a == k)).length_eq
    exact this.symm)).symm

theorem boundaryArrivals_prefix (k : Nat) : ((boundaryArrivals s cur).filter (fun a => arrivalKey s a == k)).IsPrefix
    ((oldArrivals s cur).filter (fun a => arrivalKey s a == k)) := by
  rw [boundaryArrivals_eq, ← arrivalOrder_stable]
  exact (List.take_prefix _ _).filter _

theorem boundaryArrivals_first (a b : Arrival) (ha : a ∈ boundaryArrivals s cur) (hb : b ∈ oldArrivals s cur)
    (hnot : b ∉ boundaryArrivals s cur) : arrivalKey s a ≤ arrivalKey s b := by
  have hsplit := arrivalOrder_sorted s cur
  rw [← List.take_append_drop 64 (arrivalOrder s cur), List.pairwise_append] at hsplit
  have hmem : b ∈ arrivalOrder s cur := (List.perm_insertionSort _ _).mem_iff.mpr hb
  rw [← List.take_append_drop 64 (arrivalOrder s cur), List.mem_append, ← boundaryArrivals_eq] at hmem
  rw [← boundaryArrivals_eq] at hsplit
  exact hsplit.2.2 a ha b (hmem.resolve_left hnot)

end

theorem cfg_of_dict {s t : State} (h : t.dict = s.dict) (i j : Nat) : cfg t i j = cfg s i j := by
  unfold cfg
  rw [cfgBytes_eq, cfgBytes_eq, h]

theorem boundaryArrivals_congr {s t : State} (hd : t.dict = s.dict) (ha : t.sluice.arrivals = s.sluice.arrivals) (cur : Nat) :
    boundaryArrivals t cur = boundaryArrivals s cur := by
  have hkey : ∀ a, arrivalKey t a = arrivalKey s a := fun a => by
    unfold arrivalKey queueClass
    rw [cfg_of_dict hd]
  rw [boundaryArrivals_eq, boundaryArrivals_eq]
  unfold arrivalOrder oldArrivals
  simp only [hkey, ha]

/-! ## What a decision leaves -/

/-- The clock, the configuration, the arrivals and the caps stand. -/
structure SluiceStands (s t : State) : Prop where
  clock : t.clock = s.clock
  dict : t.dict = s.dict
  arrivals : t.sluice.arrivals = s.sluice.arrivals
  caps : t.sluice.caps = s.sluice.caps

namespace SluiceStands

variable {s t u : State}

theorem of_books (h : BooksStand s t) : SluiceStands s t := ⟨h.clock, h.dict, h.arrivals, h.caps⟩

theorem refl (s : State) : SluiceStands s s := ⟨rfl, rfl, rfl, rfl⟩

theorem trans (h : SluiceStands s t) (k : SluiceStands t u) : SluiceStands s u :=
  ⟨k.clock.trans h.clock, k.dict.trans h.dict, k.arrivals.trans h.arrivals, k.caps.trans h.caps⟩

theorem forEach {α : Type} (l : List α) (f : α → State → State) (h : ∀ a u, SluiceStands u (f a u)) (s : State) :
    SluiceStands s (forEach l f s) := forEach_rel SluiceStands refl (fun _ _ _ h k => h.trans k) f l (fun a _ u => h a u) s

end SluiceStands

/-- The stream that a descriptor names. -/
def plainStream (s : State) (d : JobDesc) : Option Nat := if d.stream = 0 then none else streamNamed s d.stream.toNat

/-- The tiles that the sections of a descriptor's partitions have for its job. -/
def plainSections (s : State) (d : JobDesc) :
    List Nat := sectionCounts s true d.lockstep (plainStream s d) (bitsOf 64 d.parts.toNat)

/-- The outputs of a program. -/
def plainOuts (prog : Program) : List Nat := (prog.tensors.filter (fun e => e.2)).map (fun e => e.1)

/-- The bytes that the versions of a program's outputs take. -/
def plainSizes (s : State) (prog : Program) : List Nat := (plainOuts prog).map (fun i => rawImage (tensorOf s i).size)

/-- What a job asks of the ledgers. -/
def plainWant (s : State) (cur : Nat) (a : Arrival) (prog : Program) (names : Option SeqNames) : Want :=
  { load := ⟨bitsOf 64 a.desc.parts.toNat, certCharge s prog.cert, certEnergy prog.cert a.desc.lockstep, false, false, []⟩
    len := jobSlots s prog.cert (plainSections s a.desc)
    first := max (max (cur + 2) ((newJob s a).release / slotNs)) (orderBound s (plainStream s a.desc) ((names.map (fun n => n.uses)).getD []))
    deadline := (newJob s a).deadline
    split := splittable s a.desc (bitsOf 64 a.desc.parts.toNat) }

section

variable (s : State)

theorem acceptJob_books (j : Job) : BooksStand s (acceptJob j s).2 := ⟨rfl, rfl, rfl, rfl, fun _ => rfl⟩

theorem admitService_books (cur : Nat) (a : Arrival) (v : Service) : BooksStand s (admitService cur a v s).2 := by
  unfold admitService
  extract_lets n j w
  split
  · exact .refl s
  · split
    · exact .refl s
    · split
      · exact .refl s
      · have h := place_books s cur none w false
        generalize place s cur none w false = r at h
        obtain ⟨p, u⟩ := r
        cases p with
        | none b e => exact h
        | runs rs =>
          dsimp only
          split
          · exact BooksStand.trans h (count_books ..)
          · exact BooksStand.trans h (acceptJob_books ..)

/-- What a grant leaves of its state, whatever it comes to. -/
def grantState : PageGrant → State
  | .short s => s
  | .granted _ _ s => s

theorem entryMod_books (e : Nat) (f : Entry → Entry) : BooksStand s (entryMod e f s) := .of_releases (entryMod_releases ..)

theorem freshChoice_books (l : List Nat) : BooksStand s (freshChoice l s).2 := ⟨rfl, rfl, rfl, rfl, fun _ => rfl⟩

theorem reserveEntry_books (p : Nat) (staging : Bool) : BooksStand s (reserveEntry p staging s).2 := by
  unfold reserveEntry
  extract_lets q held all used idx
  have h₁ := freshChoice_books s (all.filter (fun a => a ∉ held))
  generalize freshChoice (all.filter (fun a => a ∉ held)) s = x at h₁
  obtain ⟨a, u⟩ := x
  have h₂ := freshChoice_books u idx
  dsimp only
  generalize freshChoice idx u = y at h₂
  obtain ⟨e, v⟩ := y
  exact BooksStand.trans h₁ (BooksStand.trans h₂ (entryMod_books ..))

/-- A fold that carries a state keeps what each of its steps keeps. -/
theorem foldl_keepsBooks {α β : Type} (f : β × State → α → β × State) (h : ∀ p a, BooksStand p.2 (f p a).2) (l : List α) (p : β × State) :
    BooksStand p.2 (l.foldl f p).2 := by
  induction l generalizing p with
  | nil => exact .refl _
  | cons a l ih => exact (h p a).trans (ih _)

theorem grantPages_books (n : SeqNames) : BooksStand s (grantState (grantPages n s)) := by
  unfold grantPages
  extract_lets pins needs need all s₁ r
  have h₁ : BooksStand s s₁ := BooksStand.forEach _ _ (fun p u => BooksStand.forEach _ _ (fun e v =>
    (entryMod_books v e _).trans (count_books ..)) u) s
  split
  · have hr : BooksStand s₁ r.2 := by
      simp only [r]
      clear_value s₁
      refine foldl_keepsBooks _ (fun p x => ?_) _ ([], s₁)
      exact reserveEntry_books ..
    have hpins : BooksStand r.2 (forEach pins (fun e => entryMod e (fun x => { x with pins := x.pins + 1 })) r.2) :=
      BooksStand.forEach _ _ (fun e u => entryMod_books u e _) _
    exact h₁.trans (hr.trans hpins)
  · exact h₁.trans (count_books ..)

/-- The job of an arrival that has its runs, its pages and tables not yet granted. -/
def plainJob (s : State) (cur : Nat) (a : Arrival) (prog : Program) (names : Option SeqNames) (rs : List Run) (es : List Extent) :
    Job :=
  { newJob s a with
    prog := prog, parts := bitsOf 64 a.desc.parts.toNat, charge := (plainWant s cur a prog names).load.charge
    energy := (plainWant s cur a prog names).load.energy, runs := rs, due := runsEnd rs, len := (plainWant s cur a prog names).len
    staging := (plainOuts prog).zip es, preimage := es[(plainOuts prog).length]?, uses := (names.map (fun n => n.uses)).getD []
    table := names.bind (fun n => n.table), new := (names.map (fun n => n.new)).getD 0, bound := [] }

/-- An arrival that has its runs takes its bytes and its pages. -/
def admitTaken (cur : Nat) (a : Arrival) (prog : Program) (names : Option SeqNames) (rs : List Run) (v s : State) :
    Admit × State :=
  match heapAllocAll s (if 1 < rs.length then plainSizes v prog ++ [imageBytesPerCluster * (bitsOf 64 a.desc.parts.toNat).length]
      else plainSizes v prog) with
  | none => (noSpace, count 0x7415 0x0a 1 s)
  | some es => match names with
    | none => acceptJob (plainJob v cur a prog names rs es) s
    | some n => match grantPages n s with
      | .short s => (noSpace, s)
      | .granted resv pins s => acceptJob { plainJob v cur a prog names rs es with resv := resv, pins := pins } s

/-- An arrival that no check refuses is placed. -/
def admitPlaced (cur : Nat) (a : Arrival) (prog : Program) (names : Option SeqNames) (s : State) : Admit × State :=
  match place s cur none (plainWant s cur a prog names)
      (heapAllocAll s (plainSizes s prog ++ [imageBytesPerCluster * (bitsOf 64 a.desc.parts.toNat).length])).isSome with
  | (.none b e, u) => ({ code := 0x0b, binding := b, due := noSlotDue e }, u)
  | (.runs rs, u) => admitTaken cur a prog names rs s u

/-- The checks of R50 on a job's descriptor, in order. -/
def admitChecked (cur : Nat) (a : Arrival) (s : State) : Admit × State :=
  if descReserved a.desc then ({ code := 4 }, s)
  else match descCheck s a.q a.desc with
    | none => ({ code := 5 }, s)
    | some (_, prog, names) =>
      if !(sectionsMatch s (bitsOf 64 a.desc.parts.toNat) prog.cert) ∨ !(phasesOk s (bitsOf 64 a.desc.parts.toNat) prog.cert) then
        ({ code := 6 }, s)
      else if a.desc.zgate ∧ prog.cert.tasks.any (fun t => t.tflags.getLsbD 0) then ({ code := 7 }, s)
      else if countsShort prog.cert (plainSections s a.desc) then ({ code := 8 }, s)
      else if !a.desc.releaseNow ∧ now s + 100000000 < extendStamp (now s) a.desc.release then ({ code := 9 }, s)
      else if 16384 ≤ s.sluice.jobs.length then ({ code := 0x0a }, s)
      else admitPlaced cur a prog names s

theorem if_congr_right {α : Type} {c : Prop} [Decidable c] {x y z : α} (h : ¬c → y = z) :
    (if c then x else y) = if c then x else z := by
  split
  · rfl
  next hc => exact h hc

theorem admitPlain_eq (cur : Nat) (a : Arrival) : admitPlain cur a s = admitChecked cur a s := by
  unfold admitPlain admitChecked
  dsimp only
  refine if_congr_right fun _ => ?_
  cases descCheck s a.q a.desc with
  | none => rfl
  | some x =>
    obtain ⟨n, prog, names⟩ := x
    dsimp only
    refine if_congr_right fun _ => if_congr_right fun _ => if_congr_right fun _ => if_congr_right fun _ => if_congr_right fun _ => ?_
    unfold admitPlaced
    simp only [plainWant, plainSizes, plainOuts, plainSections, plainStream]
    generalize place s cur none _ _ = r
    obtain ⟨p, u⟩ := r
    cases p with
    | none b e => rfl
    | runs rs =>
      unfold admitTaken
      simp only [plainSizes, plainOuts]
      generalize heapAllocAll u _ = o
      cases o with
      | none => rfl
      | some es =>
        cases names with
        | none => rfl
        | some n =>
          dsimp only
          cases grantPages n u with
          | short v => rfl
          | granted resv pins v => rfl

theorem admitTaken_books (cur : Nat) (a : Arrival) (prog : Program) (names : Option SeqNames) (rs : List Run) (v : State) :
    BooksStand s (admitTaken cur a prog names rs v s).2 := by
  unfold admitTaken
  split
  · exact count_books ..
  · split
    · exact acceptJob_books ..
    next n =>
      have h := grantPages_books s n
      generalize grantPages n s = r at h
      cases r with
      | short u => exact h
      | granted resv pins u => exact BooksStand.trans h (acceptJob_books ..)

theorem admitPlaced_books (cur : Nat) (a : Arrival) (prog : Program) (names : Option SeqNames) :
    BooksStand s (admitPlaced cur a prog names s).2 := by
  unfold admitPlaced
  have h := place_books s cur none (plainWant s cur a prog names)
    (heapAllocAll s (plainSizes s prog ++ [imageBytesPerCluster * (bitsOf 64 a.desc.parts.toNat).length])).isSome
  generalize place s cur none (plainWant s cur a prog names)
    (heapAllocAll s (plainSizes s prog ++ [imageBytesPerCluster * (bitsOf 64 a.desc.parts.toNat).length])).isSome = r at h
  obtain ⟨p, u⟩ := r
  cases p with
  | none b e => exact h
  | runs rs => exact BooksStand.trans h (admitTaken_books ..)

theorem admitPlain_books (cur : Nat) (a : Arrival) : BooksStand s (admitPlain cur a s).2 := by
  rw [admitPlain_eq]
  unfold admitChecked
  split
  · exact .refl s
  · split
    · exact .refl s
    · split
      · exact .refl s
      · split
        · exact .refl s
        · split
          · exact .refl s
          · split
            · exact .refl s
            · split
              · exact .refl s
              · exact admitPlaced_books ..

theorem decideArrival_books (cur : Nat) (a : Arrival) : BooksStand s (decideArrival cur a s).2 := by
  unfold decideArrival
  extract_lets s₁ r
  have h₁ : BooksStand s s₁ := count_books ..
  have hr : BooksStand s₁ r.2 := by
    simp only [r]
    split
    · exact .refl s₁
    · split
      · exact .refl s₁
      · split
        · exact .refl s₁
        · split
          · exact admitService_books ..
          · exact admitPlain_books ..
  split
  · exact h₁.trans hr
  · exact h₁.trans (hr.trans (count_books ..))

theorem answerArrival_stands (a : Arrival) (b : Bytes) : SluiceStands s (answerArrival a b s) := by
  unfold answerArrival accept
  split
  · rw [answer_eq]
    exact ⟨rfl, rfl, rfl, rfl⟩
  · exact .refl s

theorem settleArrival_stands (cur : Nat) (a : Arrival) : SluiceStands s (settleArrival cur a s) := by
  unfold settleArrival
  split
  · exact answerArrival_stands ..
  · exact (SluiceStands.of_books (decideArrival_books s cur a)).trans (answerArrival_stands ..)

end

/-! ## The boundary -/

section

variable (s : State) (cur : Nat)

/-- The state at the start of slot `cur`: the clock is there, the caps have moved. -/
def slotOpened : State :=
  openCycle { clockTo (cur * slotNs) s with
    clock := { (clockTo (cur * slotNs) s).clock with slot := cur }
    sluice := { s.sluice with caps := (cfg s 0x3000 1, cfg s 0x3000 2) } }

/-- The state in which the arrivals are decided, those that are due taken from their list. -/
def arrivalsTaken (u : State) : State :=
  { u with sluice := { u.sluice with arrivals := u.sluice.arrivals.filter (fun a => a ∉ boundaryArrivals u cur) } }

/-- The arrivals of a boundary decided. -/
def arrivalsDecided (u : State) : State := (boundaryArrivals u cur).foldl (fun v a => settleArrival cur a v) (arrivalsTaken cur u)

theorem boundary_eq : boundary cur (clockTo (cur * slotNs) s) =
    mapBoundary cur (endCycle (boundaryStarts cur (arrivalsDecided cur (boundaryPlans cur (boundaryEnds cur (slotOpened s cur)))))) := by
  unfold boundary slotOpened
  dsimp only
  rw [cfg_clockTo, cfg_clockTo, show (clockTo (cur * slotNs) s).sluice = s.sluice by rw [clockTo_eq]]
  rfl

theorem slotBoundary_exec (hw : works s 20 = true) :
    exec .slotBoundary s = .next (boundary (nextSlot s) (clockTo (nextSlot s * slotNs) s)) :=
  if_pos hw

theorem slotBoundary_off (hw : works s 20 = false) : exec .slotBoundary s = .next s := if_neg (by simp [hw])

theorem slotOpened_facts : (slotOpened s cur).clock = { (clockTo (cur * slotNs) s).clock with slot := cur } ∧
    (slotOpened s cur).dict = s.dict ∧ (slotOpened s cur).sluice = { s.sluice with caps := (cfg s 0x3000 1, cfg s 0x3000 2) } ∧
    (slotOpened s cur).island = s.island ∧ (slotOpened s cur).queues = s.queues ∧ (slotOpened s cur).sessions = s.sessions := by
  unfold slotOpened
  have h := clockTo_eq (cur * slotNs) s
  generalize clockTo (cur * slotNs) s = u at h
  rw [h]
  exact ⟨rfl, rfl, rfl, rfl, rfl, rfl⟩

theorem arrivalsDecided_stands (u : State) : SluiceStands (arrivalsTaken cur u) (arrivalsDecided cur u) :=
  SluiceStands.forEach _ (settleArrival cur) (fun a v => settleArrival_stands v cur a) (arrivalsTaken cur u)

/-- What a boundary leaves of the clock, the caps and the arrivals. -/
theorem boundary_frame : let t := boundary cur (clockTo (cur * slotNs) s)
    t.clock = { (clockTo (cur * slotNs) s).clock with slot := cur } ∧ t.sluice.caps = (cfg s 0x3000 1, cfg s 0x3000 2) ∧
      t.sluice.arrivals = s.sluice.arrivals.filter (fun a => a ∉ boundaryArrivals s cur) := by
  obtain ⟨hclock, hdict, hsluice, -, -, -⟩ := slotOpened_facts s cur
  rw [boundary_eq]
  have hplans : SluiceStands (slotOpened s cur) (boundaryPlans cur (boundaryEnds cur (slotOpened s cur))) :=
    .of_books ((boundaryEnds_books ..).trans (boundaryPlans_books ..))
  generalize boundaryPlans cur (boundaryEnds cur (slotOpened s cur)) = p at hplans
  have hdue : boundaryArrivals p cur = boundaryArrivals s cur :=
    boundaryArrivals_congr (hplans.dict.trans hdict) (hplans.arrivals.trans (by rw [hsluice])) cur
  have hdecided := arrivalsDecided_stands cur p
  generalize arrivalsDecided cur p = d at hdecided
  have hend : SluiceStands d (mapBoundary cur (endCycle (boundaryStarts cur d))) :=
    .of_books ((boundaryStarts_books ..).trans ((endCycle_books ..).trans (mapBoundary_books ..)))
  refine ⟨hend.clock.trans (hdecided.clock.trans (hplans.clock.trans hclock)),
    hend.caps.trans (hdecided.caps.trans (hplans.caps.trans (by rw [hsluice]))), hend.arrivals.trans (hdecided.arrivals.trans ?_)⟩
  show p.sluice.arrivals.filter (fun a => a ∉ boundaryArrivals p cur) = _
  rw [hdue, hplans.arrivals, hsluice]

end

/-! ## The decision on one arrival (R49, R50) -/

section

variable (s : State) (cur : Nat) (a : Arrival)

/-- The arrival counted for its client. -/
def arrivalCounted : State := count (0x7000 + queueClient s a.q) 1 1 s

/-- The checks of R50 on an arrival, in order. -/
def arrivalJudged : Admit × State :=
  if s.island.state ≠ .normal then ({ code := 1 }, s)
  else if (qget s a.q).state ≠ .running then ({ code := 2 }, s)
  else if queueDepth s a.q ≤ occupancy s a.q then ({ code := 3 }, s)
  else match a.service with
    | some v => admitService cur a v s
    | none => admitPlain cur a s

theorem decideArrival_eq : decideArrival cur a s =
    if (arrivalJudged (arrivalCounted s a) cur a).1.code = 0 then arrivalJudged (arrivalCounted s a) cur a
    else ((arrivalJudged (arrivalCounted s a) cur a).1,
      count (0x7000 + queueClient (arrivalCounted s a) a.q) 3 1 (arrivalJudged (arrivalCounted s a) cur a).2) := rfl

/-- The session that submitted an arrival still waits for its answer. -/
def awaitsAnswer : Prop := (sess s a.session).open_ = true ∧ (sess s a.session).gen = a.sgen

theorem awaitsAnswer_of_notified {s t : State} {a : Arrival} (h : NotifiedOnly (sess s a.session) (sess t a.session))
    (ha : awaitsAnswer s a) : awaitsAnswer t a := by
  unfold awaitsAnswer
  rw [h]
  exact ha

theorem settleArrival_plain (hplain : a.service = none) : settleArrival cur a s =
    answerArrival a (admitBytes (decideArrival cur a s).1) (decideArrival cur a s).2 := by
  unfold settleArrival
  simp only [hplain, Option.bind_none]
  unfold arrivalReply
  simp only [hplain]

theorem answerArrival_awaited (b : Bytes) (h : awaitsAnswer s a) :
    answerArrival a b s = answer a.session { data := b } s := if_pos h

/-- A decided arrival is answered and nothing else. -/
theorem settleArrival_answers (hplain : a.service = none) (h : awaitsAnswer s a) :
    let w := settleArrival cur a s
    (sess w a.session).reply = { data := admitBytes (decideArrival cur a s).1 } ∧
      w.sluice = (decideArrival cur a s).2.sluice ∧ w.queues = (decideArrival cur a s).2.queues ∧
      w.counters = (decideArrival cur a s).2.counters := by
  have hwaits := awaitsAnswer_of_notified ((decideArrival_books s cur a).sess a.session) h
  rw [settleArrival_plain s cur a hplain]
  generalize decideArrival cur a s = r at hwaits
  rw [answerArrival_awaited r.2 a _ hwaits]
  refine ⟨by rw [sess_answer, if_pos rfl], by rw [answer_eq], by rw [answer_eq], answer_counters _ _ _ rfl⟩

/-- What a refusal with code `n` leaves. -/
def refusedWith (n : Nat) : Prop :=
  (sess (settleArrival cur a s) a.session).reply = { data := admitBytes { code := n } } ∧
    (settleArrival cur a s).sluice.jobs = s.sluice.jobs ∧
    counter (settleArrival cur a s) (0x7000 + queueClient s a.q) 3 = counter (arrivalCounted s a) (0x7000 + queueClient s a.q) 3 + 1

theorem queueClient_counted : queueClient (arrivalCounted s a) a.q = queueClient s a.q := rfl

theorem refused_of_judged (hplain : a.service = none) (h : awaitsAnswer s a) {n : Nat} (hn : n ≠ 0)
    (hj : arrivalJudged (arrivalCounted s a) cur a = ({ code := n }, arrivalCounted s a)) : refusedWith s cur a n := by
  obtain ⟨hreply, hsluice, -, hcount⟩ := settleArrival_answers s cur a hplain h
  have hd : decideArrival cur a s = ({ code := n }, count (0x7000 + queueClient s a.q) 3 1 (arrivalCounted s a)) := by
    rw [decideArrival_eq, hj, if_neg hn, queueClient_counted]
  rw [hd] at hreply hsluice hcount
  exact ⟨hreply, by rw [hsluice]; rfl, (counter_eq_of_counters hcount ..).trans (counter_count_same ..)⟩

theorem refused_alarmed (hplain : a.service = none) (h : awaitsAnswer s a) (hisland : s.island.state ≠ .normal) :
    refusedWith s cur a 1 :=
  refused_of_judged s cur a hplain h (by decide) (if_pos hisland)

theorem refused_stopped (hplain : a.service = none) (h : awaitsAnswer s a) (hisland : s.island.state = .normal)
    (hq : (qget s a.q).state ≠ .running) : refusedWith s cur a 2 :=
  refused_of_judged s cur a hplain h (by decide) ((if_neg (not_not.mpr hisland)).trans (if_pos hq))

end

/-! ## A boundary without jobs -/

/-- A step that, where there is no job, makes none and leaves safe state and the queues. -/
def IdleStands (s t : State) : Prop := s.sluice.jobs = [] → t.sluice.jobs = [] ∧ t.island = s.island ∧ t.queues = s.queues

theorem IdleStands.refl (s : State) : IdleStands s s := fun h => ⟨h, rfl, rfl⟩

theorem IdleStands.trans {s t u : State} (h : IdleStands s t) (k : IdleStands t u) : IdleStands s u := fun hs => by
  obtain ⟨ht, hi, hq⟩ := h hs
  obtain ⟨hu, hi', hq'⟩ := k ht
  exact ⟨hu, hi'.trans hi, hq'.trans hq⟩

theorem IdleStands.forEach {α : Type} (l : List α) (f : α → State → State) (h : ∀ a u, IdleStands u (f a u)) (s : State) :
    IdleStands s (forEach l f s) := forEach_rel IdleStands .refl (fun _ _ _ h k => h.trans k) f l (fun a _ u => h a u) s

section

variable (s : State) (cur : Nat)

theorem loseStream_idle (n : Nat) (st : BitVec 8) : IdleStands s (loseStream n st s) := fun h => by
  have hnone : loseStream n st s = streamMod n (fun x => { x with state := .lost, blocks := [], moving := [] })
      (wipeRollback ((streamOf s n).blocks ++ (streamOf s n).moving.map (fun m => m.old)) s) := by
    unfold loseStream
    dsimp only
    have hchunks : chunksOfStream (streamMod n (fun x => { x with state := .lost, blocks := [], moving := [] })
        (wipeRollback ((streamOf s n).blocks ++ (streamOf s n).moving.map (fun m => m.old)) s)) n = [] := by
      unfold chunksOfStream
      show s.sluice.jobs.filter _ = []
      rw [h]
      rfl
    rw [hchunks]
    rfl
  rw [hnone]
  exact ⟨h, rfl, rfl⟩

theorem callReplan_idle (which : Job → Bool) : IdleStands s (callReplan which s) := fun h => by
  refine ⟨?_, rfl, rfl⟩
  show s.sluice.jobs.map _ = []
  rw [h]
  rfl

theorem streamMod_idle (n : Nat) (f : Stream → Stream) : IdleStands s (streamMod n f s) := fun h => ⟨h, rfl, rfl⟩

theorem assignSpares_idle : IdleStands s (assignSpares s) := by
  refine .forEach _ _ (fun n u => .forEach _ _ (fun m v => ?_) u) s
  split
  · split
    · exact IdleStands.trans (streamMod_idle _ _ _) (callReplan_idle _ _)
    · exact loseStream_idle _ _ _
  · exact .refl v

theorem tagsOf_idle (h : s.sluice.jobs = []) (p : Job → Bool) : tagsOf s p = [] := by rw [tagsOf, h]; rfl

theorem boundaryEnds_idle (h : s.sluice.jobs = []) : boundaryEnds cur s = s := by
  have hnone : ∀ (p : Job → Bool) (f : BitVec 32 → State → State), forEach (tagsOf s p) f s = s := fun p f => by
    rw [tagsOf_idle s h]
    rfl
  unfold boundaryEnds
  simp only [hnone]

theorem boundaryStarts_idle (h : s.sluice.jobs = []) : boundaryStarts cur s = s := by
  have hnone : ∀ (p : Job → Bool) (f : BitVec 32 → State → State), forEach (tagsOf s p) f s = s := fun p f => by
    rw [tagsOf_idle s h]
    rfl
  unfold boundaryStarts
  simp only [hnone]

theorem boundaryPlans_idle (h : s.sluice.jobs = []) : boundaryPlans cur s = assignSpares s := by
  have hjobs := (assignSpares_idle s h).1
  unfold boundaryPlans
  dsimp only
  generalize assignSpares s = u at hjobs
  have horder : replanOrder u = [] := by
    unfold replanOrder
    rw [hjobs]
    rfl
  rw [horder]
  show forEach (tagsOf u _) _ u = u
  rw [tagsOf_idle u hjobs]
  rfl

variable (a : Arrival)

/-- The one arrival of a boundary without jobs is refused where safe state or its queue says so. -/
theorem boundary_refuses (hdue : boundaryArrivals s cur = [a]) (hjobs : s.sluice.jobs = []) (hplain : a.service = none)
    (hwaits : awaitsAnswer s a) : let t := boundary cur (clockTo (cur * slotNs) s)
    (s.island.state ≠ .normal → (sess t a.session).reply = { data := admitBytes { code := 1 } }) ∧
      (s.island.state = .normal → (qget s a.q).state ≠ .running → (sess t a.session).reply = { data := admitBytes { code := 2 } }) := by
  obtain ⟨-, hdict, hsluice, hisland, hqueues, hsessions⟩ := slotOpened_facts s cur
  have hjobs₀ : (slotOpened s cur).sluice.jobs = [] := by rw [hsluice]; exact hjobs
  rw [boundary_eq, boundaryEnds_idle _ _ hjobs₀, boundaryPlans_idle _ _ hjobs₀]
  obtain ⟨hjobs₁, hisland₁, hqueues₁⟩ := assignSpares_idle _ hjobs₀
  have hbooks := assignSpares_books (slotOpened s cur)
  generalize assignSpares (slotOpened s cur) = p at hjobs₁ hisland₁ hqueues₁ hbooks
  have hdue' : boundaryArrivals p cur = [a] :=
    (boundaryArrivals_congr (hbooks.dict.trans hdict) (hbooks.arrivals.trans (by rw [hsluice])) cur).trans hdue
  have hwaits' : awaitsAnswer (arrivalsTaken cur p) a := by
    refine awaitsAnswer_of_notified (s := s) ?_ hwaits
    have h := hbooks.sess a.session
    rw [show sess (slotOpened s cur) a.session = sess s a.session by rw [sess, hsessions, sess]] at h
    exact h
  have hone : arrivalsDecided cur p = settleArrival cur a (arrivalsTaken cur p) := by
    unfold arrivalsDecided
    rw [hdue']
    rfl
  rw [hone]
  have hend : ∀ n, refusedWith (arrivalsTaken cur p) cur a n →
      (sess (mapBoundary cur (endCycle (boundaryStarts cur (settleArrival cur a (arrivalsTaken cur p))))) a.session).reply =
        { data := admitBytes { code := n } } := fun n hn => by
    obtain ⟨hreply, hleft, -⟩ := hn
    rw [boundaryStarts_idle _ _ (hleft.trans hjobs₁)]
    have hrest := ((endCycle_books (settleArrival cur a (arrivalsTaken cur p))).trans (mapBoundary_books _ cur)).sess a.session
    rw [hrest]
    exact hreply
  refine ⟨fun h => hend 1 (refused_alarmed _ cur a hplain hwaits' ?_), fun h hq => hend 2 (refused_stopped _ cur a hplain hwaits' ?_ ?_)⟩
  · show p.island.state ≠ .normal
    rw [hisland₁, hisland]
    exact h
  · show p.island.state = .normal
    rw [hisland₁, hisland]
    exact h
  · show (tblGet {} p.queues a.q).state ≠ .running
    rw [hqueues₁, hqueues]
    exact hq

end

end Sys2Proof.Machine

end

section
/-!
PROOF. The decision on one arrival (R50, R58): the codes in their order, and the placement that is taken.
-/

namespace Sys2Proof.Machine

open Claims

section

variable (s : State) (cur : Nat) (a : Arrival)

/-! ## What a placement leaves -/

theorem place_sluice (self : Option (BitVec 32)) (w : Want) (heap : Bool) : (place s cur self w heap).2.sluice = s.sluice := by
  unfold place
  extract_lets others
  split
  · split
    · rfl
    · extract_lets no
      split
      · split
        · split
          · rfl
          · rfl
        · rfl
      · rfl
  · split
    · split
      · split
        · rfl
        · rfl
      · rfl
    · rfl

/-- A placement that is found draws a free number at most. -/
theorem place_runs_state (self : Option (BitVec 32)) (w : Want) (heap : Bool) {rs : List Run} {u : State}
    (h : place s cur self w heap = (.runs rs, u)) : ∃ n, u = { s with freeCtr := n } := by
  unfold place at h
  dsimp only at h
  split at h
  · split at h
    · cases h
      exact ⟨s.freeCtr, rfl⟩
    · split at h
      · split at h
        · split at h
          · cases h
            exact ⟨_, rfl⟩
          · cases h
        · cases h
      · cases h
  · split at h
    · split at h
      · split at h
        · cases h
          exact ⟨_, rfl⟩
        · cases h
      · cases h
    · cases h

theorem heapAllocAll_drawn (n : Nat) (sizes : List Nat) : heapAllocAll { s with freeCtr := n } sizes = heapAllocAll s sizes := rfl

/-! ## The codes of R50 -/

theorem arrivalJudged_plain (hplain : a.service = none) (hisland : s.island.state = .normal) (hrun : (qget s a.q).state = .running)
    (hroom : occupancy s a.q < queueDepth s a.q) : arrivalJudged s cur a = admitChecked cur a s := by
  unfold arrivalJudged
  rw [if_neg (not_not.mpr hisland), if_neg (not_not.mpr hrun), if_neg (Nat.not_le.mpr hroom)]
  simp only [hplain]
  exact admitPlain_eq s cur a

variable {s cur a}

/-- An arrival that the queue and safe state let be judged. -/
structure Judged (s : State) (a : Arrival) : Prop where
  plain : a.service = none
  waits : awaitsAnswer s a
  island : s.island.state = .normal
  running : (qget s a.q).state = .running

theorem Judged.refused_full (h : Judged s a) (hfull : queueDepth s a.q ≤ occupancy s a.q) : refusedWith s cur a 3 :=
  refused_of_judged s cur a h.plain h.waits (by decide)
    ((if_neg (not_not.mpr h.island)).trans ((if_neg (not_not.mpr h.running)).trans (if_pos hfull)))

/-- An arrival whose queue has room. -/
structure Admissible (s : State) (a : Arrival) : Prop extends Judged s a where
  room : occupancy s a.q < queueDepth s a.q

namespace Admissible

theorem judged (h : Admissible s a) : arrivalJudged (arrivalCounted s a) cur a = admitChecked cur a (arrivalCounted s a) :=
  arrivalJudged_plain _ cur a h.plain h.island h.running h.room

theorem refused (h : Admissible s a) {n : Nat} (hn : n ≠ 0)
    (hc : admitChecked cur a (arrivalCounted s a) = ({ code := n }, arrivalCounted s a)) : refusedWith s cur a n :=
  refused_of_judged s cur a h.plain h.waits hn (h.judged.trans hc)

theorem refused_reserved (h : Admissible s a) (hr : descReserved a.desc = true) : refusedWith s cur a 4 :=
  h.refused (by decide) (if_pos hr)

theorem refused_descriptor (h : Admissible s a) (hr : descReserved a.desc = false) (hd : descCheck (arrivalCounted s a) a.q a.desc = none) :
    refusedWith s cur a 5 := by
  refine h.refused (by decide) ?_
  unfold admitChecked
  rw [if_neg (by simp [hr]), hd]

end Admissible

/-- The state in which an admissible arrival's descriptor names a program. -/
structure Described (s : State) (a : Arrival) (n : Nat) (prog : Program) (names : Option SeqNames) : Prop extends Admissible s a where
  reserved : descReserved a.desc = false
  described : descCheck (arrivalCounted s a) a.q a.desc = some (n, prog, names)

namespace Described

variable {n : Nat} {prog : Program} {names : Option SeqNames}

/-- The sections or the phases of a certificate do not fit the partitions. -/
def badSections (s : State) (a : Arrival) (prog : Program) : Prop :=
  sectionsMatch (arrivalCounted s a) (bitsOf 64 a.desc.parts.toNat) prog.cert = false ∨
    phasesOk (arrivalCounted s a) (bitsOf 64 a.desc.parts.toNat) prog.cert = false

/-- The gate configuration is asked of a program with tasks that may not have it. -/
def badGate (a : Arrival) (prog : Program) :
    Prop := a.desc.zgate = true ∧ prog.cert.tasks.any (fun x => x.tflags.getLsbD 0) = true

/-- The sections have too few tiles. -/
def badCounts (s : State) (a : Arrival) (prog : Program) : Prop :=
  countsShort prog.cert (plainSections (arrivalCounted s a) a.desc) = true

/-- The release is too far ahead. -/
def badRelease (s : State) (a : Arrival) : Prop :=
  a.desc.releaseNow = false ∧ now s + 100000000 < extendStamp (now s) a.desc.release

theorem now_arrivalCounted : now (arrivalCounted s a) = now s := rfl

theorem checked (h : Described s a n prog names) : admitChecked cur a (arrivalCounted s a) =
    (let v := arrivalCounted s a
     if !(sectionsMatch v (bitsOf 64 a.desc.parts.toNat) prog.cert) ∨ !(phasesOk v (bitsOf 64 a.desc.parts.toNat) prog.cert) then
        ({ code := 6 }, v)
      else if a.desc.zgate ∧ prog.cert.tasks.any (fun t => t.tflags.getLsbD 0) then ({ code := 7 }, v)
      else if countsShort prog.cert (plainSections v a.desc) then ({ code := 8 }, v)
      else if !a.desc.releaseNow ∧ now v + 100000000 < extendStamp (now v) a.desc.release then ({ code := 9 }, v)
      else if 16384 ≤ v.sluice.jobs.length then ({ code := 0x0a }, v)
      else admitPlaced cur a prog names v) := by
  unfold admitChecked
  rw [if_neg (by simp [h.reserved]), h.described]

theorem refused_sections (h : Described s a n prog names) (h₆ : badSections s a prog) : refusedWith s cur a 6 :=
  h.refused (by decide) (h.checked.trans (if_pos (by simpa [badSections] using h₆)))

section

variable (h : Described s a n prog names) (h₆ : ¬badSections s a prog)

include h h₆

theorem checked_gate : admitChecked cur a (arrivalCounted s a) =
    (let v := arrivalCounted s a
     if a.desc.zgate ∧ prog.cert.tasks.any (fun t => t.tflags.getLsbD 0) then ({ code := 7 }, v)
      else if countsShort prog.cert (plainSections v a.desc) then ({ code := 8 }, v)
      else if !a.desc.releaseNow ∧ now v + 100000000 < extendStamp (now v) a.desc.release then ({ code := 9 }, v)
      else if 16384 ≤ v.sluice.jobs.length then ({ code := 0x0a }, v)
      else admitPlaced cur a prog names v) :=
  h.checked.trans (if_neg (by simpa [badSections] using h₆))

theorem refused_gate (h₇ : badGate a prog) :
    refusedWith s cur a 7 := h.refused (by decide) ((checked_gate h h₆).trans (if_pos h₇))

variable (h₇ : ¬badGate a prog)

include h₇

theorem refused_counts (h₈ : badCounts s a prog) : refusedWith s cur a 8 :=
  h.refused (by decide) ((checked_gate h h₆).trans ((if_neg h₇).trans (if_pos h₈)))

variable (h₈ : ¬badCounts s a prog)

include h₈

theorem refused_release (h₉ : badRelease s a) : refusedWith s cur a 9 :=
  h.refused (by decide) ((checked_gate h h₆).trans ((if_neg h₇).trans ((if_neg h₈).trans (if_pos (by simpa [badRelease,
    now_arrivalCounted] using h₉)))))

variable (h₉ : ¬badRelease s a)

include h₉

theorem checked_places : admitChecked cur a (arrivalCounted s a) =
    (let v := arrivalCounted s a
     if 16384 ≤ v.sluice.jobs.length then ({ code := 0x0a }, v) else admitPlaced cur a prog names v) :=
  (checked_gate h h₆).trans ((if_neg h₇).trans ((if_neg h₈).trans (if_neg (by simpa [badRelease, now_arrivalCounted] using h₉))))

theorem refused_crowded (h₁₀ : 16384 ≤ s.sluice.jobs.length) : refusedWith s cur a 10 :=
  h.refused (by decide) ((checked_places h h₆ h₇ h₈ h₉).trans (if_pos h₁₀))

theorem judged_placed (h₁₀ : ¬16384 ≤ s.sluice.jobs.length) :
    arrivalJudged (arrivalCounted s a) cur a = admitPlaced cur a prog names (arrivalCounted s a) :=
  h.judged.trans ((checked_places h h₆ h₇ h₈ h₉).trans (if_neg h₁₀))

end

end Described

end

section

variable (s : State) (cur : Nat) (a : Arrival)

/-! ## The placement (R58) -/

/-- What an arrival that no check refuses asks for. -/
def placedAt (s : State) (cur : Nat) (a : Arrival) (prog : Program) (names : Option SeqNames) : Placed × State :=
  place s cur none (plainWant s cur a prog names)
    (heapAllocAll s (plainSizes s prog ++ [imageBytesPerCluster * (bitsOf 64 a.desc.parts.toNat).length])).isSome

variable {s cur a} {prog : Program} {names : Option SeqNames}

theorem admitPlaced_none {s u : State} {b : Nat} {e : Option Nat} (h : placedAt s cur a prog names = (.none b e, u)) :
    admitPlaced cur a prog names s = ({ code := 11, binding := b, due := noSlotDue e }, u) := by
  unfold placedAt at h
  rw [admitPlaced, h]

theorem admitPlaced_runs {s u : State} {rs : List Run} (h : placedAt s cur a prog names = (.runs rs, u)) :
    admitPlaced cur a prog names s = admitTaken cur a prog names rs s u := by
  unfold placedAt at h
  rw [admitPlaced, h]

/-- An arrival that no slots fit is refused with what binds it. -/
theorem settle_unplaced (hplain : a.service = none) (hwaits : awaitsAnswer s a)
    (hjudged : arrivalJudged (arrivalCounted s a) cur a = admitPlaced cur a prog names (arrivalCounted s a)) {b : Nat} {e : Option Nat}
    (hp : (placedAt (arrivalCounted s a) cur a prog names).1 = .none b e) :
    (sess (settleArrival cur a s) a.session).reply = { data := admitBytes { code := 11, binding := b, due := noSlotDue e } } ∧
      (settleArrival cur a s).sluice.jobs = s.sluice.jobs := by
  obtain ⟨hreply, hsluice, -, -⟩ := settleArrival_answers s cur a hplain hwaits
  have hkeeps : (placedAt (arrivalCounted s a) cur a prog names).2.sluice = (arrivalCounted s a).sluice := place_sluice ..
  have hplaced := admitPlaced_none (Prod.ext hp rfl : placedAt (arrivalCounted s a) cur a prog names = (.none b e, _))
  have hd : decideArrival cur a s = ({ code := 11, binding := b, due := noSlotDue e },
      count (0x7000 + queueClient s a.q) 3 1 (placedAt (arrivalCounted s a) cur a prog names).2) := by
    rw [decideArrival_eq, hjudged, hplaced, queueClient_counted]
    exact if_neg (show ¬(11 : Nat) = 0 by decide)
  rw [hd] at hreply hsluice
  refine ⟨hreply, ?_⟩
  rw [hsluice]
  exact congrArg Sluice.jobs hkeeps

/-- Acceptance moves the queue's sequence number on. -/
theorem acceptJob_nextSeq (j : Job) (s : State) : (qget (acceptJob j s).2 j.q).nextSeq =
    if (qget s j.q).nextSeq = 65535 then 1 else (qget s j.q).nextSeq + 1 := by
  unfold acceptJob
  dsimp only
  rw [qget_count]
  unfold advanceSeq
  rw [qget_qmod_same]
  rfl

/-- An arrival with its runs and bytes, and no pages, is accepted. -/
theorem settle_placed (hplain : a.service = none) (hwaits : awaitsAnswer s a)
    (hjudged : arrivalJudged (arrivalCounted s a) cur a = admitPlaced cur a prog none (arrivalCounted s a)) {rs : List Run}
    (hp : (placedAt (arrivalCounted s a) cur a prog none).1 = .runs rs) {es : List Extent}
    (hheap : heapAllocAll (arrivalCounted s a) (if 1 < rs.length then plainSizes (arrivalCounted s a) prog ++
      [imageBytesPerCluster * (bitsOf 64 a.desc.parts.toNat).length] else plainSizes (arrivalCounted s a) prog) = some es) :
    let w := settleArrival cur a s
    let j := plainJob (arrivalCounted s a) cur a prog none rs es
    (sess w a.session).reply = { data := admitBytes { due := stampOf (runsEnd rs * slotNs), start := stampOf ((runsFirst rs).getD 0 * slotNs), tag := nextTag s a.q } } ∧
      w.sluice.jobs = s.sluice.jobs ++ [j] ∧
      (qget w a.q).nextSeq = (if (qget s a.q).nextSeq = 65535 then 1 else (qget s a.q).nextSeq + 1) := by
  obtain ⟨hreply, hsluice, hqueues, -⟩ := settleArrival_answers s cur a hplain hwaits
  obtain ⟨u, hu⟩ : ∃ u, placedAt (arrivalCounted s a) cur a prog none = (.runs rs, u) := ⟨_, Prod.ext hp rfl⟩
  obtain ⟨n, rfl⟩ := place_runs_state _ cur none _ _ hu
  have hplaced := admitPlaced_runs hu
  have htaken : admitTaken cur a prog none rs (arrivalCounted s a) { arrivalCounted s a with freeCtr := n } =
      acceptJob (plainJob (arrivalCounted s a) cur a prog none rs es) { arrivalCounted s a with freeCtr := n } := by
    unfold admitTaken
    rw [heapAllocAll_drawn, hheap]
  have hd : decideArrival cur a s = acceptJob (plainJob (arrivalCounted s a) cur a prog none rs es) { arrivalCounted s a with freeCtr := n } := by
    rw [decideArrival_eq, hjudged, hplaced, htaken]
    exact if_pos rfl
  rw [hd] at hreply hsluice hqueues
  refine ⟨hreply, by rw [hsluice]; rfl, ?_⟩
  rw [qget, hqueues]
  exact acceptJob_nextSeq ..

end

end Sys2Proof.Machine

end

section
/-!
PROOF. The placement of a single run (R58), and the slot boundary as a whole (R60).
-/

namespace Sys2Proof.Machine

open Claims

/-! ## The first run that fits, searched start by start -/

theorem firstFit_eq_some_iff (s : State) (cur : Nat) (others : List Load) (l : Load) (len m fuel k : Nat) :
    firstFit s cur others l len fuel k = some m ↔
      k ≤ m ∧ m < k + fuel ∧ m + len ≤ cur + horizonSlots ∧ loadFits s cur others (withRuns l [⟨m, len⟩]) = true ∧
        ∀ i, k ≤ i → i < m → ¬loadFits s cur others (withRuns l [⟨i, len⟩]) = true := by
  induction fuel generalizing k with
  | zero => exact ⟨fun h => (Option.some_ne_none _ h.symm).elim, fun h => by omega⟩
  | succ fuel ih =>
    rw [firstFit]
    split
    case isTrue hend => exact ⟨fun h => (Option.some_ne_none _ h.symm).elim, fun h => by omega⟩
    case isFalse hend =>
      split
      case isTrue hfit =>
        rw [Option.some.injEq]
        constructor
        · rintro rfl
          exact ⟨le_rfl, by omega, by omega, hfit, fun i h₁ h₂ => by omega⟩
        · rintro ⟨hle, -, -, -, hfirst⟩
          by_contra hne
          exact hfirst k le_rfl (by omega) hfit
      case isFalse hfit =>
        rw [ih]
        constructor
        · rintro ⟨hle, hlt, hin, hm, hfirst⟩
          refine ⟨by omega, by omega, hin, hm, fun i h₁ h₂ => ?_⟩
          obtain rfl | h : i = k ∨ k + 1 ≤ i := by omega
          · exact hfit
          · exact hfirst i h h₂
        · rintro ⟨hle, hlt, hin, hm, hfirst⟩
          have hne : m ≠ k := fun h => hfit (h ▸ hm)
          exact ⟨by omega, by omega, hin, hm, fun i h₁ h₂ => hfirst i (by omega) h₂⟩

/-! ## The first run that fits, searched by streaks -/

/-- A run of `len` slots that ends with slot `k`, starts at `lo` or later and fits in every slot and in the energy ledger. -/
def EndsRun (fits energy : Nat → Bool) (len lo k : Nat) : Prop :=
  lo + len ≤ k + 1 ∧ (∀ i < len, fits (k + 1 - len + i) = true) ∧ energy (k + 1 - len) = true

/-- The last `streak` slots before `k` fit, and the slot before them, if it is not before `lo`, does not. -/
structure StreakAt (fits : Nat → Bool) (lo k streak : Nat) : Prop where
  after : lo + streak ≤ k
  fitting : ∀ i, k ≤ i + streak → i < k → fits i = true
  maximal : lo + streak = k ∨ fits (k - streak - 1) = false

namespace StreakAt

variable {fits energy : Nat → Bool} {len lo k streak : Nat}

theorem grows (h : StreakAt fits lo k streak) (hk : fits k = true) : StreakAt fits lo (k + 1) (streak + 1) where
  after := by have := h.after; omega
  fitting i h₁ h₂ := by
    obtain rfl | hi : i = k ∨ i < k := by omega
    · exact hk
    · exact h.fitting i (by omega) hi
  maximal := by
    rcases h.maximal with hm | hm
    · exact .inl (by omega)
    · exact .inr (by rwa [Nat.add_sub_add_right])

theorem breaks (h : StreakAt fits lo k streak) (hk : fits k = false) : StreakAt fits lo (k + 1) 0 where
  after := by have := h.after; omega
  fitting i h₁ h₂ := by omega
  maximal := .inr hk

/-- A streak that is long enough ends a run, and only such a streak does. -/
theorem endsRun_iff (h : StreakAt fits lo k streak) (hk : fits k = true) :
    EndsRun fits energy len lo k ↔ len ≤ streak + 1 ∧ energy (k + 1 - len) = true := by
  obtain ⟨hafter, hfitting, hmaximal⟩ := h
  constructor
  · rintro ⟨hlo, hruns, henergy⟩
    refine ⟨?_, henergy⟩
    by_contra hlong
    rcases hmaximal with hm | hm
    · omega
    · have hgap := hruns (len - streak - 2) (by omega)
      rw [show k + 1 - len + (len - streak - 2) = k - streak - 1 by omega, hm] at hgap
      exact Bool.false_ne_true hgap
  · rintro ⟨hlong, henergy⟩
    refine ⟨by omega, fun i hi => ?_, henergy⟩
    obtain hlast | hbefore : k + 1 - len + i = k ∨ k + 1 - len + i < k := by omega
    · rw [hlast, hk]
    · exact hfitting _ (by omega) hbefore

end StreakAt

theorem not_endsRun_of_unfit {fits energy : Nat → Bool} {len lo k : Nat} (hlen : 1 ≤ len) (hk : fits k = false) :
    ¬EndsRun fits energy len lo k := by
  rintro ⟨hlo, hruns, -⟩
  have hlast := hruns (len - 1) (by omega)
  rw [show k + 1 - len + (len - 1) = k by omega, hk] at hlast
  exact Bool.false_ne_true hlast

/-- The search by streaks finds the first slot that ends a run. -/
theorem firstStreak_eq_some_iff (fits energy : Nat → Bool) {len lo : Nat} (hlen : 1 ≤ len) (m fuel k streak : Nat)
    (h : StreakAt fits lo k streak) : firstStreak fits energy len fuel k streak = some m ↔
      ∃ e, k ≤ e ∧ e < k + fuel ∧ m = e + 1 - len ∧ EndsRun fits energy len lo e ∧
        ∀ i, k ≤ i → i < e → ¬EndsRun fits energy len lo i := by
  have later : ∀ {fuel k : Nat}, ¬EndsRun fits energy len lo k →
      ((∃ e, k + 1 ≤ e ∧ e < k + 1 + fuel ∧ m = e + 1 - len ∧ EndsRun fits energy len lo e ∧
        ∀ i, k + 1 ≤ i → i < e → ¬EndsRun fits energy len lo i) ↔
      ∃ e, k ≤ e ∧ e < k + (fuel + 1) ∧ m = e + 1 - len ∧ EndsRun fits energy len lo e ∧
        ∀ i, k ≤ i → i < e → ¬EndsRun fits energy len lo i) := by
    intro fuel k hno
    constructor
    · rintro ⟨e, hle, hlt, hm, he, hfirst⟩
      refine ⟨e, by omega, by omega, hm, he, fun i h₁ h₂ => ?_⟩
      obtain rfl | hi : i = k ∨ k + 1 ≤ i := by omega
      · exact hno
      · exact hfirst i hi h₂
    · rintro ⟨e, hle, hlt, hm, he, hfirst⟩
      have hne : e ≠ k := fun h => hno (h ▸ he)
      exact ⟨e, by omega, by omega, hm, he, fun i h₁ h₂ => hfirst i (by omega) h₂⟩
  induction fuel generalizing k streak with
  | zero => exact ⟨fun h => (Option.some_ne_none _ h.symm).elim, fun ⟨e, h₁, h₂, _⟩ => by omega⟩
  | succ fuel ih =>
    rw [firstStreak]
    split
    case isTrue hk =>
      have hiff := h.endsRun_iff (len := len) (energy := energy) hk
      split
      case isTrue hlong =>
        have hends := hiff.mpr hlong
        rw [Option.some.injEq]
        constructor
        · rintro rfl
          exact ⟨k, le_rfl, by omega, rfl, hends, fun i h₁ h₂ => by omega⟩
        · rintro ⟨e, hle, -, rfl, -, hfirst⟩
          obtain rfl : e = k := by
            by_contra hne
            exact hfirst k le_rfl (by omega) hends
          rfl
      case isFalse hlong => exact (ih _ _ (h.grows hk)).trans (later fun hends => hlong (hiff.mp hends))
    case isFalse hk =>
      have hk : fits k = false := Bool.eq_false_iff.mpr hk
      exact (ih _ _ (h.breaks hk)).trans (later (not_endsRun_of_unfit hlen hk))

/-! ## One run without a save and a restore -/

section

variable (s : State) (cur : Nat) (others : List Load) (l : Load) (k len : Nat)

theorem slotUse_single (hresumes : l.resumes = false) (i : Nat) : slotUse (withRuns l [⟨k, len⟩]) i = .work := by
  simp [slotUse, saveSlot, restoreSlot, withRuns, hresumes]

theorem reserveClash_single (hresumes : l.resumes = false) (b : Load) : reserveClash s (withRuns l [⟨k, len⟩]) b = false := by
  simp [reserveClash, withRuns, hresumes]

theorem slotBindings_single (hservice : l.service = false) (hresumes : l.resumes = false) (i : Nat) (hi : i < len) :
    (slotBindings s others (withRuns l [⟨k, len⟩]) (k + i)).isEmpty = useFits s others l .work (k + i) := by
  have hload : loadAt s (withRuns l [⟨k, len⟩]) (k + i) = some (useCharge s l .work) := by
    have hhas : runHas ⟨k, len⟩ (k + i) = true := by simp [runHas, hi]
    simp only [loadAt, slotUse_single l k len hresumes]
    simp [withRuns, hhas, hservice, useCharge]
  rw [slotBindings, hload]
  rfl

theorem loadFits_single (hservice : l.service = false) (hresumes : l.resumes = false) :
    loadFits s cur others (withRuns l [⟨k, len⟩]) = true ↔
      (∀ i < len, useFits s others l .work (k + i) = true) ∧ energyOk s cur others (withRuns l [⟨k, len⟩]) = true := by
  have hclash : others.any (reserveClash s (withRuns l [⟨k, len⟩])) = false := by
    simp [reserveClash_single s l k len hresumes]
  have hslots : (withRuns l [⟨k, len⟩]).runs.all (fun r =>
      (List.range r.len).all (fun i => (slotBindings s others (withRuns l [⟨k, len⟩]) (r.first + i)).isEmpty)) = true ↔
      ∀ i < len, useFits s others l .work (k + i) = true := by
    show ([(⟨k, len⟩ : Run)].all _) = true ↔ _
    simp only [List.all_cons, List.all_nil, Bool.and_true, List.all_eq_true, List.mem_range]
    exact forall₂_congr fun i hi => by rw [slotBindings_single s others l k len hservice hresumes i hi]
  rw [loadFits, hclash, Bool.and_eq_true, Bool.and_eq_true, hslots]
  simp

end

/-- The placement of one run is the first start from `first` on, inside the horizon, that every ledger holds (R58). -/
theorem singleFit_eq_some_iff (s : State) (cur : Nat) (others : List Load) (w : Want) (k : Nat) (hlen : 1 ≤ w.len)
    (hfirst : cur ≤ w.first) (hresumes : w.load.resumes = false) :
    singleFit s cur others w = some k ↔
      w.first ≤ k ∧ k + w.len ≤ cur + horizonSlots ∧ loadFits s cur others (withRuns w.load [⟨k, w.len⟩]) = true ∧
        ∀ i, w.first ≤ i → i < k → ¬loadFits s cur others (withRuns w.load [⟨i, w.len⟩]) = true := by
  rw [singleFit, hresumes, Bool.or_false]
  split
  case isTrue =>
    rw [firstFit_eq_some_iff]
    constructor
    · rintro ⟨hle, -, hin, hfits, hno⟩
      exact ⟨hle, hin, hfits, hno⟩
    · rintro ⟨hle, hin, hfits, hno⟩
      exact ⟨hle, by omega, hin, hfits, hno⟩
  case isFalse hservice =>
    have hservice : w.load.service = false := Bool.eq_false_iff.mpr hservice
    have hends : ∀ i, w.first ≤ i → (EndsRun (useFits s others w.load .work)
        (fun k => energyOk s cur others (withRuns w.load [⟨k, w.len⟩])) w.len w.first (i + w.len - 1) ↔
        loadFits s cur others (withRuns w.load [⟨i, w.len⟩]) = true) := by
      intro i hi
      rw [loadFits_single s cur others w.load i w.len hservice hresumes, EndsRun, show i + w.len - 1 + 1 - w.len = i by omega]
      exact and_iff_right (by omega)
    have hstart : StreakAt (useFits s others w.load .work) w.first w.first 0 := ⟨le_rfl, fun i h₁ h₂ => by omega, .inl rfl⟩
    rw [firstStreak_eq_some_iff _ _ hlen k _ _ _ hstart]
    constructor
    · rintro ⟨e, hle, hlt, rfl, he, hno⟩
      have hlo : w.first + w.len ≤ e + 1 := he.1
      refine ⟨by omega, by omega, (hends _ (by omega)).mp ?_, fun i h₁ h₂ hfits => hno (i + w.len - 1) (by omega) (by omega) ((hends i h₁).mpr hfits)⟩
      rwa [show e + 1 - w.len + w.len - 1 = e by omega]
    · rintro ⟨hle, hin, hfits, hno⟩
      refine ⟨k + w.len - 1, by omega, by omega, by omega, (hends k hle).mpr hfits, fun i h₁ h₂ hi => ?_⟩
      have hlo : w.first + w.len ≤ i + 1 := hi.1
      refine hno (i + 1 - w.len) (by omega) (by omega) ((hends _ (by omega)).mp ?_)
      rwa [show i + 1 - w.len + w.len - 1 = i by omega]

/-! ## The placement that is taken -/

section

variable {s : State} {cur : Nat} {w : Want} {k : Nat} (heap : Bool) (h : singleFit s cur (openLoads s none) w = some k)

include h

theorem place_intime (hdue : (k + w.len) * slotNs ≤ w.deadline) : place s cur none w heap = (.runs [⟨k, w.len⟩], s) := by
  rw [place, h]
  exact if_pos hdue

theorem place_late (hdue : w.deadline < (k + w.len) * slotNs) (hsplit : w.split = false) :
    place s cur none w heap = (.none (bindingAt s cur (openLoads s none) w) (some (k + w.len)), s) := by
  rw [place, h]
  exact (if_neg (Nat.not_le.mpr hdue)).trans (if_neg (by rw [hsplit]; decide))

end

/-! ## The obligation -/

theorem boundary_folds (s : State) (cur : Nat) {u : State}
    (hu : boundaryPlans cur (boundaryEnds cur (slotOpened s cur)) = u) : boundary cur (clockTo (cur * slotNs) s) =
      mapBoundary cur (endCycle (boundaryStarts cur ((boundaryArrivals u cur).foldl (fun v a => settleArrival cur a v)
        { u with sluice := { u.sluice with arrivals := u.sluice.arrivals.filter (fun a => a ∉ boundaryArrivals u cur) } }))) := by
  rw [boundary_eq, hu]
  rfl

/-- What a boundary leaves where the Sluice works. -/
theorem boundary_opens (s : State) (cur : Nat) {t : State} (ht : boundary cur (clockTo (cur * slotNs) s) = t) :
    t.clock = { (clockTo (cur * slotNs) s).clock with slot := cur } ∧ t.sluice.caps = (cfg s 0x3000 1, cfg s 0x3000 2) ∧
      t.sluice.arrivals = s.sluice.arrivals.filter (fun a => a ∉ boundaryArrivals s cur) ∧
      (let u := boundaryPlans cur (boundaryEnds cur (openCycle { clockTo (cur * slotNs) s with
          clock := { (clockTo (cur * slotNs) s).clock with slot := cur },
          sluice := { s.sluice with caps := (cfg s 0x3000 1, cfg s 0x3000 2) } }))
       t = mapBoundary cur (endCycle (boundaryStarts cur ((boundaryArrivals u cur).foldl (fun v a => settleArrival cur a v)
          { u with sluice := { u.sluice with arrivals := u.sluice.arrivals.filter (fun a => a ∉ boundaryArrivals u cur) } })))) ∧
      ∀ a, boundaryArrivals s cur = [a] → s.sluice.jobs = [] → a.service = none → (sess s a.session).open_ = true →
        (sess s a.session).gen = a.sgen →
        (s.island.state ≠ .normal → (sess t a.session).reply = { data := admitBytes { code := 1 } }) ∧
        (s.island.state = .normal → (qget s a.q).state ≠ .running →
          (sess t a.session).reply = { data := admitBytes { code := 2 } }) := by
  have hframe := boundary_frame s cur
  have hrefuses := boundary_refuses s cur
  rw [ht] at hframe hrefuses
  obtain ⟨hclock, hcaps, harrivals⟩ := hframe
  exact ⟨hclock, hcaps, harrivals, ht.symm.trans (boundary_folds s cur rfl), fun a hdue hjobs hplain hopen hgen => hrefuses a hdue hjobs hplain ⟨hopen, hgen⟩⟩

/-- The runs and bytes of an accepted arrival are those of its placement, its due time the descriptor's. -/
theorem plainJob_facts (s : State) (cur : Nat) (a : Arrival) (prog : Program) (names : Option SeqNames) (rs : List Run) (es : List Extent) :
    let j := plainJob (arrivalCounted s a) cur a prog names rs es
    let want := plainWant (arrivalCounted s a) cur a prog names
    j.tag = nextTag s a.q ∧ j.q = a.q ∧ j.desc = a.desc ∧ j.runs = rs ∧ j.parts = bitsOf 64 a.desc.parts.toNat ∧
      j.phase = .waiting ∧ j.deadline = want.deadline ∧ j.charge = want.load.charge ∧ j.energy = want.load.energy :=
  ⟨rfl, rfl, rfl, rfl, rfl, rfl, rfl, rfl, rfl⟩

/-- Settles O30: the arrivals due are the first 64 of a stable sort; the codes come in the order of the checks, and the search of a
single run stops at the first start that every ledger holds. -/
theorem slotBoundary : Obligations.SlotBoundary := by
  unfold Obligations.SlotBoundary
  refine ⟨fun s => ⟨slotBoundary_off s, boundaryArrivals_length .., boundaryArrivals_sorted .., boundaryArrivals_prefix s _,
    fun a ha b hb => boundaryArrivals_first s _ a b ha hb, fun hw => ⟨_, slotBoundary_exec s hw, boundary_opens s _ rfl⟩⟩, ?_, singleFit_eq_some_iff,
    fun s cur w heap k h => ⟨place_intime heap h, place_late heap h⟩⟩
  intro u cur a hplain hopen hgen v w d parts own ns Says Refused
  have hwaits : awaitsAnswer u a := ⟨hopen, hgen⟩
  refine ⟨refused_alarmed u cur a hplain hwaits, fun hisland => ⟨refused_stopped u cur a hplain hwaits hisland, fun hq => ?_⟩⟩
  have hjudged : Judged u a := ⟨hplain, hwaits, hisland, hq⟩
  refine ⟨hjudged.refused_full, fun hroom => ?_⟩
  have hadmissible : Admissible u a := ⟨hjudged, hroom⟩
  refine ⟨hadmissible.refused_reserved, fun hreserved => ⟨hadmissible.refused_descriptor hreserved, fun n prog names hdesc => ?_⟩⟩
  have h : Described u a n prog names := ⟨hadmissible, hreserved, hdesc⟩
  refine ⟨h.refused_sections, h.refused_gate, h.refused_counts, h.refused_release, h.refused_crowded, fun h₆ h₇ h₈ h₉ h₁₀ => ?_⟩
  have hplaced := h.judged_placed (cur := cur) h₆ h₇ h₈ h₉ h₁₀
  refine ⟨fun b e hp => settle_unplaced hplain hwaits hplaced hp, fun rs hp hnames hheap => ?_⟩
  subst hnames
  obtain ⟨es, hes⟩ := Option.isSome_iff_exists.mp hheap
  obtain ⟨hreply, hjobs, hseq⟩ := settle_placed hplain hwaits hplaced hp hes
  obtain ⟨htag, hq, hd, hruns, hparts, hphase, hdeadline, hcharge, henergy⟩ := plainJob_facts u cur a prog none rs es
  exact ⟨hreply, _, hjobs, htag, hq, hd, hruns, hparts, hphase, hdeadline, hcharge, henergy, hseq⟩

end Sys2Proof.Machine

end
